-- ==== Sys2Proof/Word.lean ====
section
/-! DEFINITION. The word of the engine (R2) and the plain widths used beside it. -/

namespace Sys2Proof

/-- R2: a word is 36 bits, bit 0 the least significant. -/
abbrev Word := BitVec 36

/-- One byte of host memory or of a transfer. -/
abbrev Byte := BitVec 8

/-- R8: race time, seconds in [71:40] and the fraction in [39:0], one LSB 2^-40 s. -/
abbrev RaceTime := BitVec 72

/-- R12: a 16-bit source ID: side, region, cluster, unit. -/
abbrev SourceId := BitVec 16

end Sys2Proof
end

