-- ==== Sys2Proof/Machine/Bits.lean ====
section
/-! DEFINITION. Bit fields (R2), two's-complement numbers, saturation and rounding (R6, R105), and the sparse lists that
hold memories and registers. -/

namespace Sys2Proof.Machine

/-- R2: bits [hi:lo] of a number, both ends included. -/
def bitsOf (w hi lo : Nat) : Nat := w / 2 ^ lo % 2 ^ (hi + 1 - lo)

/-- Bit i of a number. -/
def bitAt (w i : Nat) : Bool := w / 2 ^ i % 2 == 1

/-- A number with bits [hi:lo] replaced by v. -/
def putBits (w hi lo v : Nat) : Nat :=
  w - bitsOf w hi lo * 2 ^ lo + v % 2 ^ (hi + 1 - lo) * 2 ^ lo

/-- 1 for true, 0 for false. -/
def b2n (b : Bool) : Nat := if b then 1 else 0

/-- The two's-complement value of an n-bit number. -/
def sx (n v : Nat) : Int :=
  let u := v % 2 ^ n
  if u < 2 ^ (n - 1) then (u : Int) else (u : Int) - (2 ^ n : Nat)

/-- The n-bit two's-complement code of an integer, wrapping. -/
def ux (n : Nat) (v : Int) : Nat := (v % ((2 ^ n : Nat) : Int)).toNat

/-- An integer as a word of 36 bits, wrapping. -/
def wordOf (v : Int) : Word := BitVec.ofInt 36 v

/-- A natural number as a word of 36 bits, wrapping. -/
def wordN (v : Nat) : Word := BitVec.ofNat 36 v

/-- Clamping to the signed n-bit range. -/
def satS (n : Nat) (v : Int) : Int :=
  if v > (2 ^ (n - 1) : Nat) - 1 then (2 ^ (n - 1) : Nat) - 1
  else if v < -((2 ^ (n - 1) : Nat) : Int) then -((2 ^ (n - 1) : Nat) : Int) else v

/-- The value lies outside the signed n-bit range. -/
def clipS (n : Nat) (v : Int) : Bool := satS n v != v

/-- R105: floor of a quotient by a positive divisor. -/
def floorDiv (a : Int) (d : Nat) : Int := a / (d : Int)

/-- R105: a quotient by a positive divisor rounded to the nearest integer, halves to the even one. -/
def rhe (a : Int) (d : Nat) : Int :=
  let q := a / (d : Int)
  let r := a - q * d
  if 2 * r > d then q + 1 else if 2 * r == (d : Int) then (if q % 2 == 0 then q else q + 1) else q

/-- R105: round half to even after division by 2^n. -/
def rheP (a : Int) (n : Nat) : Int := rhe a (2 ^ n)

/-- The whole-number logarithm: the position of the highest set bit, 0 of 0. -/
def log2n (n : Nat) : Nat := Nat.log2 n

/-- Element i of a list, d beyond its end. -/
def lget {α : Type} (l : List α) (i : Nat) (d : α) : α := (l[i]?).getD d

/-- Element i of a list replaced; unchanged beyond its end. -/
def lset {α : Type} (l : List α) (i : Nat) (v : α) : List α := l.set i v

/-- Element i of a list changed by f. -/
def lmod {α : Type} (l : List α) (i : Nat) (f : α → α) : List α := l.modify i f

/-- A sum of integers over a range. -/
def sumZ (n : Nat) (f : Nat → Int) : Int := (List.range n).foldl (fun a i => a + f i) 0

/-- A sum of numbers over a range. -/
def sumN (n : Nat) (f : Nat → Nat) : Nat := (List.range n).foldl (fun a i => a + f i) 0

/-- A number whose bit i is f i. -/
def maskN (n : Nat) (f : Nat → Bool) : Nat := sumN n (fun i => if f i then 2 ^ i else 0)

/-- The value kept at key k of a sorted list of pairs. -/
def aget {α : Type} : List (Nat × α) → Nat → Option α
  | [], _ => none
  | (k', v) :: r, k => if k' == k then some v else if k < k' then none else aget r k

/-- The list with key k removed. -/
def adel {α : Type} : List (Nat × α) → Nat → List (Nat × α)
  | [], _ => []
  | (k', v) :: r, k => if k' == k then r else if k < k' then (k', v) :: r else (k', v) :: adel r k

/-- The list with key k holding v, keys strictly rising. -/
def aput {α : Type} : List (Nat × α) → Nat → α → List (Nat × α)
  | [], k, v => [(k, v)]
  | (k', v') :: r, k, v =>
    if k' == k then (k, v) :: r else if k < k' then (k, v) :: (k', v') :: r else (k', v') :: aput r k v

/-- The keys of a list of pairs rise strictly. -/
def asorted {α : Type} : List (Nat × α) → Bool
  | [] => true
  | [_] => true
  | a :: b :: r => decide (a.1 < b.1) && asorted (b :: r)

/-- Word k of a word memory: what is listed, else 0 (R325: memory is filled with zero words). -/
def wget (m : List (Nat × Word)) (k : Nat) : Word := (aget m k).getD 0

/-- Word k of a word memory written; a zero word is not listed, so equal memories are equal lists. -/
def wput (m : List (Nat × Word)) (k : Nat) (v : Word) : List (Nat × Word) :=
  if v == 0 then adel m k else aput m k v

/-- A word memory is in its one canonical form: addresses strictly rising, no zero word listed. -/
def wordsWf (m : List (Nat × Word)) : Bool := asorted m && m.all (fun p => p.2 != 0)

/-- Words written from address k on. -/
def wputs (m : List (Nat × Word)) (k : Nat) : List Word → List (Nat × Word)
  | [] => m
  | v :: r => wputs (wput m k v) (k + 1) r

/-- n words from address k on. -/
def wgets (m : List (Nat × Word)) (k n : Nat) : List Word := (List.range n).map (fun i => wget m (k + i))

/-- Byte k of host memory: what the engine has written there, else 0. -/
def bget (m : List (Nat × Byte)) (k : Nat) : Byte := (aget m k).getD 0

/-- A byte of host memory written, in the canonical form. -/
def bput (m : List (Nat × Byte)) (k : Nat) (v : Byte) : List (Nat × Byte) :=
  if v == 0 then adel m k else aput m k v

/-- Bytes written from address k on. -/
def bputs (m : List (Nat × Byte)) (k : Nat) : List Byte → List (Nat × Byte)
  | [] => m
  | v :: r => bputs (bput m k v) (k + 1) r

/-- Host memory is in its canonical form. -/
def bytesWf (m : List (Nat × Byte)) : Bool := asorted m && m.all (fun p => p.2 != 0)

/-- The n bytes of a number, least significant first. -/
def bytesOf (n v : Nat) : List Byte := (List.range n).map (fun i => BitVec.ofNat 8 (v / 256 ^ i))

/-- The number whose bytes, least significant first, are given. -/
def numOf : List Byte → Nat
  | [] => 0
  | b :: r => b.toNat + 256 * numOf r

/-- Adding to a counter that saturates at 36 ones. -/
def satAdd (a n : Nat) : Nat := if a + n < 2 ^ 36 then a + n else 2 ^ 36 - 1

/-- A list without repeats, in the order of first occurrence. -/
def dedup {α : Type} [DecidableEq α] (l : List α) : List α :=
  l.foldl (fun acc x => if acc.contains x then acc else acc ++ [x]) []

end Sys2Proof.Machine
end

