-- ==== Sys2Proof/Syntax.lean ====
section
/-! DEFINITION. The commands of the block: one constructor of `Instr` per row of spec/opcode_table.json, and the
operand types they carry. A ring command carries the side and ring that carried it and its entry; a register write
carries its master; a happening carries what its surroundings supply. -/

namespace Sys2Proof

/-- The two dies (R10): stroke is side 0, bow is side 1. -/
inductive SideId where
  | stroke | bow
  deriving DecidableEq, Repr

/-- A channel's local index on its side (R11). -/
inductive Chan where
  | c0 | c1
  deriving DecidableEq, Repr

/-- A command entry (R268): eight 64-bit words. Word 0 holds TAG, FLAGS, BOUNDARY and OPCODE. -/
structure CmdEntry where
  w0 : BitVec 64
  w1 : BitVec 64
  w2 : BitVec 64
  w3 : BitVec 64
  w4 : BitVec 64
  w5 : BitVec 64
  w6 : BitVec 64
  w7 : BitVec 64
  deriving DecidableEq, Repr

/-- What a DMA read of a command's operand data brought (R271 step 2): whether it succeeded (R245), whether a poisoned block was met
(R322), and the bytes, in the packing the command names (R250, R251). -/
structure DmaData where
  ok       : Bool
  poisoned : Bool
  bytes    : List Byte
  deriving DecidableEq, Repr

/-- How a read outside the windows comes: as one word of a device address space, read by a master; or as a read TLP of the side's endpoint
(R244 to R248), which is its master: `len` bytes of BAR0 or BAR4, a doubleword of configuration space, or a request that fits none of
the BARs. -/
inductive ReadVia where
  | dev (space : BitVec 4)
  | bar0 (len : Nat)
  | bar4 (len : Nat)
  | config
  | noBar
  deriving DecidableEq, Repr

/-- Where a write outside the windows goes: to one register of a side, by a master; or from an offset of BAR0 or BAR4 on, or outside the
BARs, as a write TLP of the side's endpoint (R244 to R246), which is its master. -/
inductive WriteAt where
  | reg (idx : BitVec 20)
  | bar0 (off : BitVec 24)
  | bar4 (off : BitVec 16)
  | noBar
  deriving DecidableEq, Repr

/-- The release of a link that reacquires (R49, R52): its channel, and that a lane's data come after their boundary. -/
structure LinkData where
  ch   : Chan
  late : Bool
  deriving DecidableEq, Repr

/-- A step of a partner's frame (R147): it enters its seat, or it leaves it. -/
structure PartnerStep where
  ch      : Chan
  release : Bool
  deriving DecidableEq, Repr

/-- The bytes a write TLP carries, and that it is poisoned (R245). -/
structure WinData where
  bytes : List Byte
  ep    : Bool
  deriving DecidableEq, Repr

/-- The loop whose coast ends (R366): PLL-F, or PLL-M, of a side. -/
structure CoastLoop where
  sd   : SideId
  pllM : Bool
  deriving DecidableEq, Repr

/-- A period of a modulator ends (R387): the last two outputs of its sinc4 stage; and, should its result double the refresh of a
subchannel, which of the eight have a transaction in progress (R307). -/
structure MonPeriod where
  s1      : BitVec 24
  s0      : BitVec 24
  inTrans : BitVec 8
  deriving DecidableEq, Repr

/-- What a refresh interval finds at the ports (R301, R305): the levels of ports 2 to 4, and which of ports 0 to 4 wait for the
subchannel. -/
structure PortReport where
  levels : List (Fin 3 × BitVec 16)
  waits  : BitVec 5
  deriving DecidableEq, Repr

/-- A reading of MR4 (R306), and whether the subchannel has a transaction in progress (R307). -/
structure Mr4 where
  hot     : Bool
  inTrans : Bool
  deriving DecidableEq, Repr

/-- A gathered block and the port it came through (R296, R299). -/
structure GatherBlk where
  port : Fin 8
  blk  : Nat
  deriving DecidableEq, Repr

/-- A block with words waiting in a merge buffer, of SRAM or of the Cox memories (R318, R330). -/
structure MergeBlk where
  cox : Bool
  blk : Nat
  deriving DecidableEq, Repr

/-- What is read of a wire (R410): its pair of rails; and of the seat it reports for, the results past its final checker, and that it is
loading a frame (R85, R93). -/
structure WireRead where
  rails   : BitVec 2
  passed  : Nat
  loading : Bool
  deriving DecidableEq, Repr

/-- One converter sample as the link delivers it (R47, R55): the N'-bit codes of converter 0 and converter 1. -/
structure ConvCode where
  i : BitVec 16
  q : BitVec 16
  deriving DecidableEq, Repr

/-- The place of an edge in split time (R183): the coarse count in nanoseconds and the tap that caught the edge. -/
structure SplitStamp where
  coarse : Nat
  tap    : Fin 256
  deriving DecidableEq, Repr

/-- An edge of the PPS input (R173): whether it falls, and its stamp. -/
structure PpsEdge where
  fall : Bool
  st   : SplitStamp
  deriving DecidableEq, Repr

/-- An occurrence of the Starter, by the condition types of R200. -/
inductive Occ where
  | mask   (ch : Chan) (k : Fin 4) (nv : Nat)
  | band   (ch : Chan) (j : Fin 8) (level : Nat)
  | iq     (ch : Chan) (d : Fin 2) (up : Bool)
  | trigin (i : Fin 2) (fall : Bool) (invalid : Bool)
  | split  (src : Fin 8) (mode : Fin 4) (invalid : Bool)
  | xside  (e : Fin 8)
  | dtrig
  | timer  (k : Fin 4)
  | count  (k : Fin 4)
  deriving DecidableEq, Repr

/-- A seat that trips (R92): results of it that have passed its final checker by then, and that it is loading a frame (R85, R93). -/
structure SeatTrip where
  seat    : Fin 9
  passed  : Nat
  loading : Bool
  deriving DecidableEq, Repr

/-- The class of a fault report (R413). -/
inductive FaultClass where
  | corrected | deferred | contained | sideFatal | deviceFatal
  deriving DecidableEq, Repr

/-- A report as the collector takes it from a checker (R409, R414). `again` says that the trip came while the checker still held
(1,0) from the trip before. -/
structure FaultRep where
  cls  : FaultClass
  src  : SourceId
  chk  : BitVec 8
  syn  : Word
  again : Bool
  /-- of a seat: results past its final checker, and that it is loading a frame (R85, R93) -/
  passed  : Nat
  loading : Bool
  deriving DecidableEq, Repr

/-- What one run of a calibration item measures (R401 to R405): the counts n_t of the taps of each interpolator; V_node and V_dac of each
SPLIT comparator in microvolts; the trim of each tone cell; of the monitor converter the raw codes of REFV/2 and REFV/4 on input 12 and
of zero and the reference on each input; the skew of each Keel receive lane. -/
structure CalRun where
  counts : List (Fin 17 × List (BitVec 21))
  nodes  : List (Fin 4 × BitVec 24 × BitVec 24)
  cells  : List (Fin 128 × BitVec 8)
  half   : BitVec 24
  fourth : BitVec 24
  inputs : List (Fin 16 × BitVec 24 × BitVec 24)
  skews  : List (Fin 8 × BitVec 7)
  deriving DecidableEq, Repr

/-- The two runs of a calibration item (R397), and the raw code of REFV measured before them. -/
structure CalRuns where
  refv : BitVec 24
  run1 : CalRun
  run2 : CalRun
  deriving DecidableEq, Repr

/-- What the sweeps of a lane find (R308 steps 5 to 7): the passing delay taps at each Vref step, bit t for tap t, of the read eye,
the write eye, and the repeats of both. -/
structure LaneSweeps where
  read   : List (BitVec 128)
  write  : List (BitVec 128)
  read2  : List (BitVec 128)
  write2 : List (BitVec 128)
  deriving DecidableEq, Repr

/-- What a DRAM channel presents at start-up (R290, R291, R308): whether an SPD hub answers, and what it says of the module's ranks,
device width, density and highest rate; and the sweeps of the channel's lanes, subchannel 0's first, at RATE and at ALT_RATE. -/
structure DramModule where
  spd    : Bool
  ranks2 : Bool
  x8     : Bool
  d32    : Bool
  rate   : Fin 5
  lanes  : List LaneSweeps
  lanes2 : List LaneSweeps
  deriving DecidableEq, Repr

/-- What the ending start-up phase found (R357, R450, R452). -/
inductive InitResult where
  | alwaysOn
  | pllLock (ref100 : Bool) (refOk : Bool)
  | fuseLoad (ok : Bool)
  | sramFill (ok : Bool)
  /-- the flash directory, words 0 to 5, if the flash answers (R451), and what each channel presents -/
  | dramTrain (dir : Option (List Word)) (mods : List DramModule)
  | dramFill
  | calibration (trip : Bool) (runs : List CalRuns)
  | coxRelease (images : List (List Word))
  deriving DecidableEq, Repr

/-- The sink a DP_HPD plug finds and the settings at which training succeeds, best first (R423). -/
structure DpSink where
  lanes  : Fin 3
  rate   : Fin 4
  trains : List (Fin 3 × Fin 4)
  deriving DecidableEq, Repr

/-- The second operand of an ALU instruction (R335, R336): register form or the 18-bit immediate. -/
inductive AluB where
  | reg (b : Fin 16)
  | imm (v : BitVec 18)
  deriving DecidableEq, Repr

/-- Operands of a class 0x0 or 0x1 instruction (R335). -/
structure AluArgs where
  d : Fin 16
  a : Fin 16
  b : AluB
  deriving DecidableEq, Repr

/-- XMOVE of the MAC class (R335): load X[xk] into gG, or store gG. -/
structure XMove where
  en : Bool
  st : Bool
  k  : Fin 4
  md : Fin 4
  g  : Fin 16
  deriving DecidableEq, Repr

/-- YMOVE of the MAC class (R335): load Y[yk] into gG. -/
structure YMove where
  en : Bool
  k  : Fin 4
  md : Fin 4
  g  : Fin 16
  deriving DecidableEq, Repr

/-- Operands of a MAC-class instruction (R335, R337). -/
structure MacArgs where
  acc : Fin 4
  a   : Fin 16
  b   : Fin 16
  x   : XMove
  y   : YMove
  deriving DecidableEq, Repr

/-- The address of a LOCAL instruction (R335): through xk or yk with MOD, or the direct address. -/
inductive LocalAddr where
  | ind (k : Fin 4) (md : Fin 4)
  | dir (a : BitVec 13)
  deriving DecidableEq, Repr

/-- Operands of an ACC-class instruction (R335, R338). -/
structure AccArgs where
  acc  : Fin 4
  g    : Fin 16
  sh   : BitVec 6
  rnd  : Bool
  pair : Bool
  deriving DecidableEq, Repr

/-- Operands of a LONG-class instruction (R335, R344). -/
structure LongArgs where
  g   : Fin 16
  k   : Fin 4
  inc : Bool
  tag : Fin 16
  off : BitVec 12
  deriving DecidableEq, Repr

/-- Why an ILLEGAL halt happens (R343). -/
inductive IllegalCause where
  | illegal | loopStack | callStack | poisonedFetch
  deriving DecidableEq, Repr

/-- The commands: one constructor per row of the opcode table, in the table's order. -/
inductive Instr where
  -- islands, Keel and cox
  | islandQuiesce (sd : SideId) (ring : Fin 8) (e : CmdEntry)
  | quiesced (sd : SideId) (src : SourceId)
  | quiesceTimeout (sd : SideId) (src : SourceId)
  | islandResume (sd : SideId) (ring : Fin 8) (e : CmdEntry)
  | keelUp
  | keelDown
  | keelRetrain (sd : SideId)
  | coxResolution
  | splitCrewTimeout
  | coxHandover (sd : SideId) (ring : Fin 8) (e : CmdEntry)
  | coxTaken
  -- register bus
  | lowWordRead (sd : SideId) (m : Fin 11) (via : ReadVia) (off : BitVec 39)
  | highWordRead (sd : SideId) (m : Fin 11) (space : BitVec 4) (off : BitVec 39)
  | resultRead (sd : SideId) (m : Fin 11) (idx : BitVec 20)
  | highWordWrite (sd : SideId) (m : Fin 11) (idx : BitVec 20) (v : Word)
  | lowWordWrite (sd : SideId) (m : Fin 11) (idx : BitVec 20) (v : Word)
  | pairWrite (sd : SideId) (m : Fin 11) (idx : BitVec 20) (lo hi : Word)
  | registerWrite (sd : SideId) (m : Fin 11) (place : WriteAt) (bytes : List (Option Byte)) (ep : Bool)
  -- JESD204C receivers and front end
  | jesdCfgWrite (sd : SideId) (m : Fin 11) (ch : Chan) (v : Word)
  | shLock (sd : SideId) (ch : Chan) (lane : Fin 8)
  | embLock (sd : SideId) (ch : Chan) (lane : Fin 8)
  | lemcMeasure (sd : SideId) (ch : Chan) (counts : List Nat)
  | sysrefEdge (sd : SideId)
  | linkUp (sd : SideId) (ch : Chan) (late : Bool)
  | laneMultiblock (sd : SideId) (ch : Chan) (lane : Fin 8) (crcOk : Bool)
  | linkLost (sd : SideId) (ch : Chan) (lane : Fin 8)
  | linkResume (sd : SideId) (l : LinkData)
  | analysisSample (sd : SideId) (ch : Chan) (codes : List ConvCode)
  | configure (sd : SideId) (ring : Fin 8) (e : CmdEntry) (data : DmaData)
  | readback (sd : SideId) (ring : Fin 8) (e : CmdEntry)
  | configureFrontEnd (sd : SideId) (ch : Chan)
  | feStart (sd : SideId) (ch : Chan)
  | ncoChange (sd : SideId) (ch : Chan)
  | fadeStart (sd : SideId) (ch : Chan)
  | eqFadeDone (sd : SideId) (ch : Chan)
  | loadTable (sd : SideId) (ring : Fin 8) (e : CmdEntry) (data : DmaData)
  -- transform lanes
  | configureTransform (sd : SideId) (ch : Chan)
  | frameDispatch (sd : SideId) (ch : Chan) (overrun : Bool)
  | frameRelease (sd : SideId) (ch : Chan)
  | checkerTrip (sd : SideId) (t : SeatTrip) (also : Option SeatTrip)
  | laneRetire (sd : SideId) (ring : Fin 8) (e : CmdEntry)
  | laneRetireDone (sd : SideId) (seat : Fin 9) (mismatches : BitVec 8)
  | laneReturn (sd : SideId) (ring : Fin 8) (e : CmdEntry)
  | laneReturnDone (sd : SideId) (seat : Fin 9) (trip : Option (Fin 64))
  -- spectral products
  | ppCheckerTrip (sd : SideId) (ch : Chan) (again : Bool)
  | configureSpectral (sd : SideId) (ch : Chan)
  | ppFrame (sd : SideId) (ch : Chan)
  | maskSwap (sd : SideId) (ch : Chan) (k : Fin 4)
  | spgLineWrite (sd : SideId) (ch : Chan) (inTime : Bool)
  | xsPartnerFrame (sd : SideId) (p : PartnerStep)
  | traceRead (sd : SideId) (ring : Fin 8) (e : CmdEntry)
  | traceReadDone (sd : SideId)
  -- density planes
  | configureDensity (sd : SideId) (ch : Chan)
  | densityFrame (sd : SideId) (ch : Chan)
  | densityRead (sd : SideId) (ring : Fin 8) (e : CmdEntry)
  | densityCopyStart (sd : SideId) (ch : Chan)
  | densityReadDone (sd : SideId) (ch : Chan) (copied : Nat)
  -- race time and split timer
  | tie (sd : SideId) (st : SplitStamp)
  | rtIncCommit (sd : SideId)
  | rtLoad (sd : SideId)
  | rtSetSec (sd : SideId) (m : Fin 11) (v : Word)
  | ppsEdge (sd : SideId) (e : PpsEdge)
  | ppsLost (sd : SideId)
  | rtSyncSend
  | crossSideSync
  | splitEdge (sd : SideId) (src : Fin 4) (fall : Bool) (st : SplitStamp)
  | windowExpiry (sd : SideId)
  | eventStamp (sd : SideId) (src : Fin 4) (fall : Bool) (st : SplitStamp)
  | swapIp (sd : SideId) (m : Fin 11) (n : Fin 5) (v : Word)
  | interpolatorSwap (sd : SideId) (src : Fin 8)
  | thresholdApply (sd : SideId) (src : Fin 4)
  | splitRingCfgWrite (sd : SideId) (m : Fin 11) (v : Word)
  -- the Starter
  | occurrence (sd : SideId) (o : Occ) (t : RaceTime)
  | instant (sd : SideId)
  | timer (sd : SideId) (k : Fin 4)
  | count (sd : SideId) (k : Fin 4)
  | force (sd : SideId) (ring : Fin 8) (e : CmdEntry)
  | xside (sd : SideId)
  | dtrigRequest
  | trigoutPulse (sd : SideId) (pin : Fin 2)
  | trigoutEnd (sd : SideId) (pin : Fin 2)
  | configureStarter (sd : SideId)
  -- records and streams
  | configureRecord (sd : SideId) (ch : Chan)
  | arm (sd : SideId) (ring : Fin 8) (e : CmdEntry)
  | acqWrite (sd : SideId) (ch : Chan) (n : Nat)
  | segmentDone (sd : SideId) (ch : Chan)
  | recordDone (sd : SideId) (ch : Chan)
  | disarm (sd : SideId) (ring : Fin 8) (e : CmdEntry)
  | readRecord (sd : SideId) (ring : Fin 8) (e : CmdEntry)
  | readRecordDone (sd : SideId) (ch : Chan)
  | streamStart (sd : SideId) (ring : Fin 8) (e : CmdEntry)
  | streamStop (sd : SideId) (ring : Fin 8) (e : CmdEntry)
  | streamStopDone (sd : SideId) (r : Fin 16)
  | streamPacket (sd : SideId) (r : Fin 16) (hostOk : Bool) (desc : Option (BitVec 64 × BitVec 32))
  | spillDrain (sd : SideId) (r : Fin 16) (hostOk : Bool) (desc : Option (BitVec 64 × BitVec 32))
  -- host link and windows
  | perstN (sd : SideId)
  | pcieLinkUp (sd : SideId) (speed : Fin 5) (width : Fin 5)
  | windowWrite (sd : SideId) (win : Fin 4) (off : BitVec 30) (d : WinData)
  | windowRead (sd : SideId) (win : Fin 4) (off : BitVec 30) (len : Nat)
  | windowMergeTimeout (sd : SideId) (win : Fin 4)
  | winCfgWrite (sd : SideId) (m : Fin 11) (n : Fin 4) (v : Word)
  | routeBowWrite (sd : SideId) (m : Fin 11) (v : Word)
  | accErrClear (sd : SideId) (m : Fin 11) (v : Word)
  | tunnelReadDone (sd : SideId)
  -- command rings
  | doorbellPoll (sd : SideId) (page : Option (List (BitVec 64)))
  | nudge (sd : SideId) (m : Fin 11)
  | boundaryReached (sd : SideId) (n : Nat)
  | completionWrite (sd : SideId) (cq : Fin 8)
  | eventWrite (sd : SideId)
  | modTime (sd : SideId) (src : Fin 25)
  | ringCfgWrite (sd : SideId) (m : Fin 11) (idx : BitVec 20) (v : Word)
  | remoteCommand (sd : SideId)
  | remoteCompletion (sd : SideId)
  | nop (sd : SideId) (ring : Fin 8) (e : CmdEntry)
  | fence (sd : SideId) (ring : Fin 8) (e : CmdEntry)
  -- calibration
  | calRun (sd : SideId) (ring : Fin 8) (e : CmdEntry)
  | calRestore (sd : SideId) (ring : Fin 8) (e : CmdEntry)
  | calItemDone (sd : SideId) (item : Fin 5) (runs : CalRuns)
  | calApply (sd : SideId) (item : Fin 5)
  | calRestoreTimeout (sd : SideId) (item : Fin 5)
  | calStoreWrite (sd : SideId) (m : Fin 11) (idx : BitVec 20) (v : Word)
  -- Cox core commands
  | coxcoreLoad (sd : SideId) (ring : Fin 8) (e : CmdEntry) (data : DmaData)
  | coxcoreStart (sd : SideId) (ring : Fin 8) (e : CmdEntry)
  | coreHalted (sd : SideId) (c : Fin 4)
  | coreSwitch (sd : SideId) (c : Fin 4)
  | switchTimeout (sd : SideId) (c : Fin 4)
  -- tone and display commands
  | toneStage (sd : SideId) (ring : Fin 8) (e : CmdEntry)
  | strobe (sd : SideId) (ring : Fin 8) (e : CmdEntry)
  | displayCommit (sd : SideId) (ring : Fin 8) (e : CmdEntry)
  -- Cox core instructions: ALU
  | aluNop (sd : SideId) (c : Fin 4) (o : AluArgs)
  | add (sd : SideId) (c : Fin 4) (o : AluArgs)
  | sub (sd : SideId) (c : Fin 4) (o : AluArgs)
  | adds (sd : SideId) (c : Fin 4) (o : AluArgs)
  | subs (sd : SideId) (c : Fin 4) (o : AluArgs)
  | and (sd : SideId) (c : Fin 4) (o : AluArgs)
  | or (sd : SideId) (c : Fin 4) (o : AluArgs)
  | xor (sd : SideId) (c : Fin 4) (o : AluArgs)
  | not (sd : SideId) (c : Fin 4) (o : AluArgs)
  | neg (sd : SideId) (c : Fin 4) (o : AluArgs)
  | abs (sd : SideId) (c : Fin 4) (o : AluArgs)
  | min (sd : SideId) (c : Fin 4) (o : AluArgs)
  | max (sd : SideId) (c : Fin 4) (o : AluArgs)
  | mov (sd : SideId) (c : Fin 4) (o : AluArgs)
  | shl (sd : SideId) (c : Fin 4) (o : AluArgs)
  | shra (sd : SideId) (c : Fin 4) (o : AluArgs)
  | shrl (sd : SideId) (c : Fin 4) (o : AluArgs)
  | lzc (sd : SideId) (c : Fin 4) (o : AluArgs)
  | addh (sd : SideId) (c : Fin 4) (o : AluArgs)
  | subh (sd : SideId) (c : Fin 4) (o : AluArgs)
  | pack (sd : SideId) (c : Fin 4) (o : AluArgs)
  | seq (sd : SideId) (c : Fin 4) (o : AluArgs)
  | slt (sd : SideId) (c : Fin 4) (o : AluArgs)
  | sltu (sd : SideId) (c : Fin 4) (o : AluArgs)
  | movi (sd : SideId) (c : Fin 4) (d : Fin 16) (hi : Bool) (v : BitVec 18)
  -- MAC class
  | mpy (sd : SideId) (c : Fin 4) (o : MacArgs)
  | mac (sd : SideId) (c : Fin 4) (o : MacArgs)
  | msu (sd : SideId) (c : Fin 4) (o : MacArgs)
  | mpys (sd : SideId) (c : Fin 4) (o : MacArgs)
  | macs (sd : SideId) (c : Fin 4) (o : MacArgs)
  | msus (sd : SideId) (c : Fin 4) (o : MacArgs)
  | macx (sd : SideId) (c : Fin 4) (o : MacArgs)
  | nomac (sd : SideId) (c : Fin 4) (o : MacArgs)
  -- LOCAL class
  | ldx (sd : SideId) (c : Fin 4) (g : Fin 16) (a : LocalAddr)
  | stx (sd : SideId) (c : Fin 4) (g : Fin 16) (a : LocalAddr)
  | ldy (sd : SideId) (c : Fin 4) (g : Fin 16) (a : LocalAddr)
  | sty (sd : SideId) (c : Fin 4) (g : Fin 16) (a : LocalAddr)
  -- ACC class
  | clra (sd : SideId) (c : Fin 4) (o : AccArgs)
  | lda (sd : SideId) (c : Fin 4) (o : AccArgs)
  | stsat (sd : SideId) (c : Fin 4) (o : AccArgs)
  | mova (sd : SideId) (c : Fin 4) (o : AccArgs)
  | adda (sd : SideId) (c : Fin 4) (o : AccArgs)
  | suba (sd : SideId) (c : Fin 4) (o : AccArgs)
  | asr (sd : SideId) (c : Fin 4) (o : AccArgs)
  | nega (sd : SideId) (c : Fin 4) (o : AccArgs)
  -- CTRL class
  | bra (sd : SideId) (c : Fin 4) (target : BitVec 13)
  | beqz (sd : SideId) (c : Fin 4) (g : Fin 16) (target : BitVec 13)
  | bnez (sd : SideId) (c : Fin 4) (g : Fin 16) (target : BitVec 13)
  | bltz (sd : SideId) (c : Fin 4) (g : Fin 16) (target : BitVec 13)
  | bgez (sd : SideId) (c : Fin 4) (g : Fin 16) (target : BitVec 13)
  | call (sd : SideId) (c : Fin 4) (target : BitVec 13)
  | ret (sd : SideId) (c : Fin 4)
  | rti (sd : SideId) (c : Fin 4)
  | halt (sd : SideId) (c : Fin 4)
  | wait (sd : SideId) (c : Fin 4)
  | loopr (sd : SideId) (c : Fin 4) (g : Fin 16) (endAt : BitVec 13)
  | sig (sd : SideId) (c : Fin 4) (g : Fin 16)
  | swi (sd : SideId) (c : Fin 4)
  | waitt (sd : SideId) (c : Fin 4) (tag : Fin 16)
  | brar (sd : SideId) (c : Fin 4) (g : Fin 16)
  | loop (sd : SideId) (c : Fin 4) (cnt : BitVec 16) (endAt : BitVec 13)
  -- LONG class
  | ldl (sd : SideId) (c : Fin 4) (o : LongArgs)
  | stl (sd : SideId) (c : Fin 4) (o : LongArgs)
  | bldx (sd : SideId) (c : Fin 4) (o : LongArgs)
  | bstx (sd : SideId) (c : Fin 4) (o : LongArgs)
  | bldy (sd : SideId) (c : Fin 4) (o : LongArgs)
  | bsty (sd : SideId) (c : Fin 4) (o : LongArgs)
  | mtc (sd : SideId) (c : Fin 4) (creg : BitVec 6) (g : Fin 16)
  | mfc (sd : SideId) (c : Fin 4) (creg : BitVec 6) (g : Fin 16)
  -- Cox core events
  | illegal (sd : SideId) (c : Fin 4) (cause : IllegalCause)
  | tagComplete (sd : SideId) (c : Fin 4) (tag : Fin 16)
  | interruptEntry (sd : SideId) (c : Fin 4)
  | alarm (sd : SideId) (c : Fin 4)
  | coxcoreMboxIn (sd : SideId) (m : Fin 11) (c : Fin 4) (v : Word)
  -- clocks
  | pllCommitF (sd : SideId) (m : Fin 11)
  | pllCommitT (sd : SideId) (m : Fin 11)
  | ladderStep (sd : SideId)
  | pllLock (sd : SideId) (lp : Fin 3)
  | pllLoss (sd : SideId) (lp : Fin 3)
  | refclkLost (sd : SideId)
  | refclkReturn (sd : SideId)
  | coastExpiry (l : CoastLoop)
  -- tone outputs
  | loadStrobe (sd : SideId)
  | strobeDistribution
  | rangeSettled (sd : SideId) (o : Fin 2)
  | trackingStep (sd : SideId) (o : Fin 2)
  | toneCfgWrite (sd : SideId) (m : Fin 11) (v : Word)
  -- monitor converter
  | monResult (sd : SideId) (md : Fin 4) (p : MonPeriod)
  | monCfgWrite (sd : SideId) (m : Fin 11) (v : Word)
  -- DRAM
  | refreshDue (sd : SideId) (dc : Fin 4) (sub : Fin 2) (ports : PortReport) (inTrans : Bool)
  | refreshIssue (sd : SideId) (dc : Fin 4) (sub : Fin 2)
  | mr4Read (sd : SideId) (dc : Fin 4) (sub : Fin 2) (r : Mr4)
  | gatherTimeout (sd : SideId) (b : GatherBlk)
  | dramRead (sd : SideId) (blk reached : Nat) (flips : List (Fin 16 × Fin 40))
  | dqsOsc (sd : SideId) (dc : Fin 4) (sub : Fin 2) (drifts : List (Fin 20 × Int))
  | srReq (sd : SideId) (m : Fin 11) (v : Word)
  | fcReq (sd : SideId) (m : Fin 11) (v : Word)
  | fcDone (sd : SideId)
  | dramPanicWrite (sd : SideId) (m : Fin 11) (n : Fin 5) (v : Word)
  -- SRAM and scrubber
  | sramRead (sd : SideId) (blk reached : Nat) (flips : List (Fin 8 × Fin 42))
  | mergeTimeout (sd : SideId) (b : MergeBlk)
  | scrubBlock (sd : SideId) (dram : Bool) (flips : List (Fin 16 × Fin 42)) (behind : Bool)
  | sramRepairReq (sd : SideId) (m : Fin 11) (v : Word)
  | poisonAddrClear (sd : SideId) (m : Fin 11) (v : Word)
  -- faults
  | faultReport (sd : SideId) (r : FaultRep)
  | wireBroken (sd : SideId) (cls : FaultClass) (src : SourceId) (chk : BitVec 8) (w : WireRead)
  | faultAck (sd : SideId) (m : Fin 11) (v : Word)
  | faultInj (sd : SideId) (m : Fin 11) (v : Word)
  | faultSummarySend (sd : SideId)
  | faultSummary (sd : SideId)
  | watchdogExpiry (sd : SideId)
  | aliveToggle (sd : SideId)
  -- scan-out
  | vblank (sd : SideId)
  | lineCompose (sd : SideId) (ready : BitVec 13) (overlay : Option (List (BitVec 32)))
  | soCommit (sd : SideId) (m : Fin 11) (v : Word)
  | soEnable (sd : SideId) (m : Fin 11) (v : Word)
  | timingRestart (sd : SideId)
  | hpdPlug (sd : SideId) (sink : DpSink)
  | hpdUnplug (sd : SideId)
  | irqHpd (sd : SideId) (lost : Bool) (sink : DpSink)
  -- power and reset
  | resetN
  | resetNRelease (coxpref bootsrc : Bool)
  | railOutOfRange
  | initPhase (sd : SideId) (r : InitResult)
  | sideReset (sd : SideId) (m : Fin 11) (v : Word)
  | sideResetAssert (sd : SideId)
  | islReset (sd : SideId) (m : Fin 11) (v : Word)
  | dramMapout (sd : SideId) (m : Fin 11) (v : Word)
  | mapoutDone (sd : SideId)
  -- SMBus and TAP
  | smbSetIndex (v : BitVec 24)
  | smbRead
  | smbStatus
  | extest (shift : List Bool)
  | samplePreload (shift : List Bool)
  | idcode
  | highz
  | clamp
  | extestPulse (shift : List Bool)
  | extestTrain (shift : List Bool)
  | bypass (code : BitVec 8) (tdi : Bool)
  -- later rows of the table
  | badOpcode (sd : SideId) (ring : Fin 8) (read : Bool) (e : CmdEntry)
  | dacSample (sd : SideId) (o : Fin 2) (prefetched : Bool)
  | calSwapTimeout (sd : SideId) (src : Fin 8)
  | railValid
  deriving DecidableEq, Repr

end Sys2Proof
end

