-- ==== Sys2Proof/Decode.lean ====
section
/-! DEFINITION. Reading and writing the words of Cox core instructions (R335), and `decodeTableWord`: no row of the opcode table
gives its words bits, so no word spells a command. -/

namespace Sys2Proof

open Machine

/-- The command a word of the opcode table spells: the table gives no row any bits. -/
def decodeTableWord (_nbits _w : Nat) : Option Instr := none

/-! ### Decoding a core instruction (R335) -/

/-- A 4-bit field. -/
def f4 (w lo : Nat) : Fin 16 := Fin.ofNat 16 (bitsOf w (lo + 3) lo)
/-- A 2-bit field. -/
def f2 (w lo : Nat) : Fin 4 := Fin.ofNat 4 (bitsOf w (lo + 1) lo)

/-- R336: the ALU instruction of an OP; `imm` for class 0x1, where 0x12 to 0x14 are illegal. -/
def decodeAlu (sd : SideId) (c : Fin 4) (op : Nat) (imm : Bool) (o : AluArgs) : Option Instr :=
  match op with
  | 0x00 => some (.aluNop sd c o)
  | 0x01 => some (.add sd c o)
  | 0x02 => some (.sub sd c o)
  | 0x03 => some (.adds sd c o)
  | 0x04 => some (.subs sd c o)
  | 0x05 => some (.and sd c o)
  | 0x06 => some (.or sd c o)
  | 0x07 => some (.xor sd c o)
  | 0x08 => some (.not sd c o)
  | 0x09 => some (.neg sd c o)
  | 0x0A => some (.abs sd c o)
  | 0x0B => some (.min sd c o)
  | 0x0C => some (.max sd c o)
  | 0x0D => some (.mov sd c o)
  | 0x0E => some (.shl sd c o)
  | 0x0F => some (.shra sd c o)
  | 0x10 => some (.shrl sd c o)
  | 0x11 => some (.lzc sd c o)
  | 0x12 => if imm then none else some (.addh sd c o)
  | 0x13 => if imm then none else some (.subh sd c o)
  | 0x14 => if imm then none else some (.pack sd c o)
  | 0x15 => some (.seq sd c o)
  | 0x16 => some (.slt sd c o)
  | 0x17 => some (.sltu sd c o)
  | _ => none

/-- R337: the MAC instruction of an OP. -/
def decodeMac (sd : SideId) (c : Fin 4) (op : Nat) (o : MacArgs) : Option Instr :=
  match op with
  | 0 => some (.mpy sd c o)
  | 1 => some (.mac sd c o)
  | 2 => some (.msu sd c o)
  | 3 => some (.mpys sd c o)
  | 4 => some (.macs sd c o)
  | 5 => some (.msus sd c o)
  | 6 => some (.macx sd c o)
  | 7 => some (.nomac sd c o)
  | _ => none

/-- The LOCAL instruction of an OP: 0 to 3 through an address register, 4 to 7 at a direct address. -/
def decodeLocal (sd : SideId) (c : Fin 4) (op : Nat) (g : Fin 16) (a : LocalAddr) : Option Instr :=
  match op % 4 with
  | 0 => some (.ldx sd c g a)
  | 1 => some (.stx sd c g a)
  | 2 => some (.ldy sd c g a)
  | _ => some (.sty sd c g a)

/-- R338: the ACC instruction of an OP; SH is at most 52, in pair mode 26. -/
def decodeAcc (sd : SideId) (c : Fin 4) (op : Nat) (o : AccArgs) : Option Instr :=
  if o.sh.toNat > (if o.pair then 26 else 52) then none
  else match op with
    | 0 => some (.clra sd c o)
    | 1 => some (.lda sd c o)
    | 2 => some (.stsat sd c o)
    | 3 => some (.mova sd c o)
    | 4 => some (.adda sd c o)
    | 5 => some (.suba sd c o)
    | 6 => some (.asr sd c o)
    | 7 => some (.nega sd c o)
    | _ => none

/-- The CTRL instruction of an OP. -/
def decodeCtrl (sd : SideId) (c : Fin 4) (op : Nat) (g : Fin 16) (t : BitVec 13) : Option Instr :=
  match op with
  | 0 => some (.bra sd c t)
  | 1 => some (.beqz sd c g t)
  | 2 => some (.bnez sd c g t)
  | 3 => some (.bltz sd c g t)
  | 4 => some (.bgez sd c g t)
  | 5 => some (.call sd c t)
  | 6 => some (.ret sd c)
  | 7 => some (.rti sd c)
  | 8 => some (.halt sd c)
  | 9 => some (.wait sd c)
  | 10 => some (.loopr sd c g t)
  | 11 => some (.sig sd c g)
  | 12 => some (.swi sd c)
  | 13 => some (.waitt sd c g)
  | 14 => some (.brar sd c g)
  | _ => none

/-- R344: the LONG instruction of an OP. -/
def decodeLong (sd : SideId) (c : Fin 4) (op : Nat) (o : LongArgs) : Option Instr :=
  match op with
  | 0 => some (.ldl sd c o)
  | 1 => some (.stl sd c o)
  | 2 => some (.bldx sd c o)
  | 3 => some (.bstx sd c o)
  | 4 => some (.bldy sd c o)
  | 5 => some (.bsty sd c o)
  | _ => none

/-- The instruction a word spells on a core (R335); none for an illegal class, OP, CREG or field value (R343). Reserved bits are
ignored (R4). -/
def decodeCox (sd : SideId) (c : Fin 4) (word : Word) : Option Instr :=
  let w := word.toNat
  let t := BitVec.ofNat 13 w
  match bitsOf w 35 32 with
  | 0x0 => decodeAlu sd c (bitsOf w 31 26) false ⟨f4 w 22, f4 w 18, .reg (f4 w 14)⟩
  | 0x1 => decodeAlu sd c (bitsOf w 31 26) true ⟨f4 w 22, f4 w 18, .imm (BitVec.ofNat 18 w)⟩
  | 0x2 => some (.movi sd c (f4 w 28) (bitAt w 27) (BitVec.ofNat 18 w))
  | 0x3 => decodeMac sd c (bitsOf w 31 29)
      ⟨f2 w 27, f4 w 23, f4 w 19, ⟨bitAt w 18, bitAt w 17, f2 w 15, f2 w 13, f4 w 9⟩, ⟨bitAt w 8, f2 w 6, f2 w 4, f4 w 0⟩⟩
  | 0x4 => decodeLocal sd c (bitsOf w 31 29) (f4 w 25) (if bitAt w 31 then .dir t else .ind (f2 w 23) (f2 w 21))
  | 0x5 => decodeAcc sd c (bitsOf w 31 28) ⟨f2 w 26, f4 w 22, BitVec.ofNat 6 (w / 2 ^ 16), bitAt w 15, bitAt w 14⟩
  | 0x6 => decodeCtrl sd c (bitsOf w 31 28) (f4 w 24) t
  | 0x7 => some (.loop sd c (BitVec.ofNat 16 (w / 2 ^ 16)) t)
  | 0x8 => decodeLong sd c (bitsOf w 31 29) ⟨f4 w 25, f2 w 23, bitAt w 22, f4 w 18, BitVec.ofNat 12 (w / 2 ^ 6)⟩
  | 0x9 =>
    let r := bitsOf w 30 25
    if r > 38 then none
    else if bitAt w 31 then some (.mfc sd c (BitVec.ofNat 6 r) (f4 w 21))
    else some (.mtc sd c (BitVec.ofNat 6 r) (f4 w 21))
  | _ => none

/-! ### Encoding a core instruction (R335) -/

/-- An ALU instruction's word. -/
def encodeAlu (op : Nat) (o : AluArgs) : Word :=
  match o.b with
  | .reg b => wordN (op * 2 ^ 26 + o.d.val * 2 ^ 22 + o.a.val * 2 ^ 18 + b.val * 2 ^ 14)
  | .imm v => wordN (2 ^ 32 + op * 2 ^ 26 + o.d.val * 2 ^ 22 + o.a.val * 2 ^ 18 + v.toNat)

/-- XMOVE's bits [18:9]. -/
def encodeX (x : XMove) : Nat := b2n x.en * 2 ^ 18 + b2n x.st * 2 ^ 17 + x.k.val * 2 ^ 15 + x.md.val * 2 ^ 13 + x.g.val * 2 ^ 9

/-- YMOVE's bits [8:0]. -/
def encodeY (y : YMove) : Nat := b2n y.en * 2 ^ 8 + y.k.val * 2 ^ 6 + y.md.val * 2 ^ 4 + y.g.val

/-- A MAC instruction's word. -/
def encodeMac (op : Nat) (o : MacArgs) : Word :=
  wordN (3 * 2 ^ 32 + op * 2 ^ 29 + o.acc.val * 2 ^ 27 + o.a.val * 2 ^ 23 + o.b.val * 2 ^ 19 + encodeX o.x + encodeY o.y)

/-- A LOCAL instruction's word; `op` is 0 to 3. -/
def encodeLocal (op : Nat) (g : Fin 16) (a : LocalAddr) : Word :=
  match a with
  | .ind k md => wordN (4 * 2 ^ 32 + op * 2 ^ 29 + g.val * 2 ^ 25 + k.val * 2 ^ 23 + md.val * 2 ^ 21)
  | .dir d => wordN (4 * 2 ^ 32 + (op + 4) * 2 ^ 29 + g.val * 2 ^ 25 + d.toNat)

/-- An ACC instruction's word. -/
def encodeAcc (op : Nat) (o : AccArgs) : Word :=
  wordN (5 * 2 ^ 32 + op * 2 ^ 28 + o.acc.val * 2 ^ 26 + o.g.val * 2 ^ 22 + o.sh.toNat * 2 ^ 16 + b2n o.rnd * 2 ^ 15 + b2n o.pair * 2 ^ 14)

/-- A CTRL instruction's word. -/
def encodeCtrl (op g t : Nat) : Word := wordN (6 * 2 ^ 32 + op * 2 ^ 28 + g * 2 ^ 24 + t)

/-- A LONG instruction's word. -/
def encodeLong (op : Nat) (o : LongArgs) : Word :=
  wordN (8 * 2 ^ 32 + op * 2 ^ 29 + o.g.val * 2 ^ 25 + o.k.val * 2 ^ 23 + b2n o.inc * 2 ^ 22 + o.tag.val * 2 ^ 18 + o.off.toNat * 2 ^ 6)

/-- An MTC or MFC instruction's word. -/
def encodeCreg (dir : Nat) (creg : BitVec 6) (g : Fin 16) : Word :=
  wordN (9 * 2 ^ 32 + dir * 2 ^ 31 + creg.toNat * 2 ^ 25 + g.val * 2 ^ 21)

/-- The word of a core instruction, reserved bits zero; none for a command that is none. -/
def encodeCox (i : Instr) : Option Word :=
  match i with
  | .aluNop _ _ o => some (encodeAlu 0x00 o)
  | .add _ _ o => some (encodeAlu 0x01 o)
  | .sub _ _ o => some (encodeAlu 0x02 o)
  | .adds _ _ o => some (encodeAlu 0x03 o)
  | .subs _ _ o => some (encodeAlu 0x04 o)
  | .and _ _ o => some (encodeAlu 0x05 o)
  | .or _ _ o => some (encodeAlu 0x06 o)
  | .xor _ _ o => some (encodeAlu 0x07 o)
  | .not _ _ o => some (encodeAlu 0x08 o)
  | .neg _ _ o => some (encodeAlu 0x09 o)
  | .abs _ _ o => some (encodeAlu 0x0A o)
  | .min _ _ o => some (encodeAlu 0x0B o)
  | .max _ _ o => some (encodeAlu 0x0C o)
  | .mov _ _ o => some (encodeAlu 0x0D o)
  | .shl _ _ o => some (encodeAlu 0x0E o)
  | .shra _ _ o => some (encodeAlu 0x0F o)
  | .shrl _ _ o => some (encodeAlu 0x10 o)
  | .lzc _ _ o => some (encodeAlu 0x11 o)
  | .addh _ _ o => some (encodeAlu 0x12 o)
  | .subh _ _ o => some (encodeAlu 0x13 o)
  | .pack _ _ o => some (encodeAlu 0x14 o)
  | .seq _ _ o => some (encodeAlu 0x15 o)
  | .slt _ _ o => some (encodeAlu 0x16 o)
  | .sltu _ _ o => some (encodeAlu 0x17 o)
  | .movi _ _ d hi v => some (wordN (2 * 2 ^ 32 + d.val * 2 ^ 28 + b2n hi * 2 ^ 27 + v.toNat))
  | .mpy _ _ o => some (encodeMac 0 o)
  | .mac _ _ o => some (encodeMac 1 o)
  | .msu _ _ o => some (encodeMac 2 o)
  | .mpys _ _ o => some (encodeMac 3 o)
  | .macs _ _ o => some (encodeMac 4 o)
  | .msus _ _ o => some (encodeMac 5 o)
  | .macx _ _ o => some (encodeMac 6 o)
  | .nomac _ _ o => some (encodeMac 7 o)
  | .ldx _ _ g a => some (encodeLocal 0 g a)
  | .stx _ _ g a => some (encodeLocal 1 g a)
  | .ldy _ _ g a => some (encodeLocal 2 g a)
  | .sty _ _ g a => some (encodeLocal 3 g a)
  | .clra _ _ o => some (encodeAcc 0 o)
  | .lda _ _ o => some (encodeAcc 1 o)
  | .stsat _ _ o => some (encodeAcc 2 o)
  | .mova _ _ o => some (encodeAcc 3 o)
  | .adda _ _ o => some (encodeAcc 4 o)
  | .suba _ _ o => some (encodeAcc 5 o)
  | .asr _ _ o => some (encodeAcc 6 o)
  | .nega _ _ o => some (encodeAcc 7 o)
  | .bra _ _ t => some (encodeCtrl 0 0 t.toNat)
  | .beqz _ _ g t => some (encodeCtrl 1 g.val t.toNat)
  | .bnez _ _ g t => some (encodeCtrl 2 g.val t.toNat)
  | .bltz _ _ g t => some (encodeCtrl 3 g.val t.toNat)
  | .bgez _ _ g t => some (encodeCtrl 4 g.val t.toNat)
  | .call _ _ t => some (encodeCtrl 5 0 t.toNat)
  | .ret _ _ => some (encodeCtrl 6 0 0)
  | .rti _ _ => some (encodeCtrl 7 0 0)
  | .halt _ _ => some (encodeCtrl 8 0 0)
  | .wait _ _ => some (encodeCtrl 9 0 0)
  | .loopr _ _ g e => some (encodeCtrl 10 g.val e.toNat)
  | .sig _ _ g => some (encodeCtrl 11 g.val 0)
  | .swi _ _ => some (encodeCtrl 12 0 0)
  | .waitt _ _ tag => some (encodeCtrl 13 tag.val 0)
  | .brar _ _ g => some (encodeCtrl 14 g.val 0)
  | .loop _ _ n e => some (wordN (7 * 2 ^ 32 + n.toNat * 2 ^ 16 + e.toNat))
  | .ldl _ _ o => some (encodeLong 0 o)
  | .stl _ _ o => some (encodeLong 1 o)
  | .bldx _ _ o => some (encodeLong 2 o)
  | .bstx _ _ o => some (encodeLong 3 o)
  | .bldy _ _ o => some (encodeLong 4 o)
  | .bsty _ _ o => some (encodeLong 5 o)
  | .mtc _ _ r g => some (encodeCreg 0 r g)
  | .mfc _ _ r g => some (encodeCreg 1 r g)
  | _ => none

end Sys2Proof
end

