-- ==== Sys2Proof/Config.lean ====
section
/-! DEFINITION. What a part fixes and the text does not print, and the values the spec leaves open: constants without a
body, so that no statement can rest on a value of them. -/

namespace Sys2Proof.Config

/-- R477: the value fuses hold for a register of a side (calibration store, MON_CORR, VID, STEP). -/
opaque fuse : SideId → Nat → BitVec 36

/-- R62, R75: coefficient c[n] of final response 4 for n = 1 … 47, whose ROM image is its only definition. -/
opaque minPhase : Nat → BitVec 20

/-- R402, R404: the value a calibration run gives item n's entry where its formula has no result that fits the entry's field, from the
formula's operands. -/
opaque calOpen : Nat → Int → Int → BitVec 24

/-- A value the spec leaves open, the n-th one taken; `State.free` counts them. -/
opaque freeValue : Nat → BitVec 36

end Sys2Proof.Config
end

