-- ==== Sys2Proof/Machine/Tables.lean ====
section
/-! DEFINITION. Coefficient tables that the spec gives by formula, written out: the half-band and final responses (R61,
R62) for n = 0 … G (every response is symmetric), and the gain constants (R116). -/

namespace Sys2Proof.Machine

/-- R61: the half-band coefficients c[0] … c[71]; c[−n] = c[n]. Part 0. -/
def hbCoefPart0 : List Int := [
  262142, 166709, 0, -55100, 0, 32503, 0, -22631, 0, 17012, 0, -13335, 0, 10716, 0, -8742, 0, 7195, 0, -5950, 0,
  4929, 0, -4081, 0, 3371, 0, -2773, 0, 2270, 0, -1847, 0, 1492, 0, -1195, 0, 948, 0, -745, 0, 578, 0, -443, 0,
  335, 0, -249, 0, 182, 0, -131, 0, 92, 0, -63, 0, 42, 0, -27]

/-- R61: the half-band coefficients c[0] … c[71]; c[−n] = c[n]. Part 1. -/
def hbCoefPart1 : List Int := [
  0, 16, 0, -9, 0, 5, 0, -2, 0, 1, 0, 0]

/-- R61: the half-band coefficients c[0] … c[71]; c[−n] = c[n]. -/
def hbCoef : List Int := hbCoefPart0 ++ hbCoefPart1

/-- R62: response 0. Part 0. -/
def finCoef0Part0 : List Int := [
  445638, 75687, -67229, 54436, -39029, 22999, -8281, -3545, 11475, -15191, 15044, -11921, 7038, -1684, -3003,
  6220, -7589, 7162, -5338, 2728, 0, -2264, 3676, -4087, 3582, -2422, 962, 442, -1505, 2066, -2096, 1685, -1001,
  240, 424, -869, 1044, -966, 703, -349, 0, 272, -425, 453, -380, 245, -93, -40, 130, -168, 160, -120, 66, -15,
  -24, 45, -49, 41, -27, 12]

/-- R62: response 0. Part 1. -/
def finCoef0Part1 : List Int := [
  0, -7, 9, -8, 6, -3, 1, 0, 0]

/-- R62: response 0. -/
def finCoef0 : List Int := finCoef0Part0 ++ finCoef0Part1

/-- R62: response 1. Part 0. -/
def finCoef1Part0 : List Int := [
  484964, 38946, -37831, 36018, -33571, 30576, -27138, 23375, -19413, 15381, -11406, 7607, -4092, 951, 1744, -3943,
  5618, -6763, 7395, -7549, 7276, -6644, 5725, -4601, 3353, -2060, 796, 377, -1405, 2248, -2881, 3290, -3476, 3452,
  -3241, 2873, -2385, 1814, -1202, 586, 0, -525, 967, -1310, 1544, -1668, 1686, -1608, 1449, -1227, 960, -669, 373,
  -89, -167, 385, -556, 675, -743, 760]

/-- R62: response 1. Part 1. -/
def finCoef1Part1 : List Int := [
  -732, 666, -571, 455, -328, 199, -76, -35, 130, -203, 255, -284, 293, -284, 259, -223, 179, -132, 84, -40, 0, 33,
  -58, 75, -84, 87, -83, 75, -64, 51, -37, 24, -13, 3, 5, -10, 14, -15, 15, -13, 11, -9, 7, -4, 3]

/-- R62: response 1. -/
def finCoef1 : List Int := finCoef1Part0 ++ finCoef1Part1

/-- R62: response 2. -/
def finCoef2 : List Int := [
  373546, 130755, -80388, 22808, 18250, -30887, 19450, 835, -14534, 14766, -5052, -5579, 9786, -6325, -588, 5420,
  -5388, 1702, 2224, -3650, 2238, 319, -1977, 1851, -516, -781, 1173, -665, -127, 580, -500, 119, 206, -277, 142,
  33, -115, 89, -17, -33, 38, -16, -4, 11, -7, 1, 2, -1, 0]

/-- R62: response 3, the printed formula taken literally (c[0] is negative). -/
def finCoef3 : List Int := [
  -265620, 317997, 70955, 5824, 176, 2, 0, 0, 0]

/-- R62: response 5. -/
def finCoef5 : List Int := [
  458756, 63662, -58258, 49944, -39648, 28472, -17528, 7797, 0, -5463, 8533, -9452, 8681, -6801, 4405, -2011, 0,
  1412, -2169, 2338, -2072, 1553, -955, 411, 0, -249, 349, -340, 268, -175, 92, -32, 0, 11, -9]

/-- R116: the gain constants G(wc, 2^p), by window code and p − 6. -/
def gainTab : List (List Int) := [
  [0, 0, 0, 0, 0, 0, 0, 0, 0, 0, 0],
  [1541, 1541, 1541, 1541, 1541, 1541, 1541, 1541, 1541, 1541, 1541],
  [2279, 2279, 2279, 2279, 2279, 2279, 2279, 2279, 2279, 2279, 2279],
  [3412, 3412, 3412, 3412, 3412, 3412, 3412, 3412, 3412, 3412, 3412],
  [1541, 1541, 1541, 1541, 1541, 1541, 1541, 1541, 1541, 1541, 1541],
  [1974, 1974, 1974, 1974, 1974, 1974, 1974, 1974, 1974, 1974, 1974],
  [2372, 2372, 2372, 2372, 2372, 2372, 2372, 2372, 2372, 2372, 2372]]

/-- R137: the noise-bandwidth constants B(wc, 2^p), by window code and p − 6. -/
def bandTab : List (List Int) := [
  [0, 0, 0, 0, 0, 0, 0, 0, 0, 0, 0],
  [451, 451, 451, 451, 451, 451, 451, 451, 451, 451, 451],
  [773, 773, 773, 773, 773, 773, 773, 773, 773, 773, 773],
  [1476, 1476, 1476, 1476, 1476, 1476, 1476, 1476, 1476, 1476, 1476],
  [426, 426, 426, 426, 426, 426, 426, 426, 426, 426, 426],
  [627, 627, 627, 627, 627, 627, 627, 627, 627, 627, 627],
  [818, 818, 818, 818, 818, 818, 818, 818, 818, 818, 818]]

end Sys2Proof.Machine
end

