-- ==== Sys2Proof/Machine/Arith.lean ====
section
/-! DEFINITION. The bit-exact arithmetic of the spec: real functions evaluated in fixed point with guard bits (R57, R87,
R109, R114, R117), the front-end stages (R55 to R66), the transform (R107 to R111) and level codes (R113 to R117).
DEDUCED: the guard bits suffice for round_half_even of the exact values (assumption log 10). -/

namespace Sys2Proof.Machine

/-! ### Real functions in fixed point, scaled by 2^128 -/

/-- The scale of fixed-point reals. -/
def fxOne : Int := 2 ^ 128

/-- π·2^128, rounded down. -/
def fxPi : Int := 1069028584064966747859680373161870783300

/-- ln 2·2^128, rounded down. -/
def fxLn2 : Int := 235865763225513294137944142764154484399

/-- A product of fixed-point reals. -/
def fxMul (a b : Int) : Int := a * b / fxOne

/-- Partial sums of the series of cos and sin: terms t, t·(−x²)/((k+1)(k+2)), … -/
def trigSeries : Nat → Int → Int → Nat → Int → Int
  | 0, _, _, _, acc => acc
  | n + 1, x2, t, k, acc => trigSeries n x2 (-(fxMul t x2) / ((k + 1) * (k + 2) : Nat)) (k + 2) (acc + t)

/-- cos x of a fixed-point x in 0 … π/2. -/
def fxCosQ (x : Int) : Int := trigSeries 24 (fxMul x x) fxOne 0 0

/-- sin x of a fixed-point x in 0 … π/2. -/
def fxSinQ (x : Int) : Int := trigSeries 24 (fxMul x x) x 1 0

/-- cos(2π·n/d), by quadrants. -/
def fxCos (n d : Nat) : Int :=
  let u := 4 * (n % d)
  let x := 2 * fxPi * (u % d) / (4 * d : Nat)
  match u / d with
  | 0 => fxCosQ x
  | 1 => -(fxSinQ x)
  | 2 => -(fxCosQ x)
  | _ => fxSinQ x

/-- sin(2π·n/d), by quadrants. -/
def fxSin (n d : Nat) : Int :=
  let u := 4 * (n % d)
  let x := 2 * fxPi * (u % d) / (4 * d : Nat)
  match u / d with
  | 0 => fxSinQ x
  | 1 => fxCosQ x
  | 2 => -(fxSinQ x)
  | _ => -(fxCosQ x)

/-- Partial sums of the exponential series. -/
def expSeries : Nat → Int → Int → Nat → Int → Int
  | 0, _, _, _, acc => acc
  | n + 1, x, t, k, acc => expSeries n x (fxMul t x / (k + 1 : Nat)) (k + 1) (acc + t)

/-- e^x of a fixed-point x in −1 … 1. -/
def fxExp (x : Int) : Int := expSeries 40 x fxOne 0 0

/-- Partial sums of I0(z) from z²/4. -/
def i0Series : Nat → Int → Int → Nat → Int → Int
  | 0, _, _, _, acc => acc
  | n + 1, q, t, k, acc => i0Series n q (fxMul t q / ((k + 1) * (k + 1) : Nat)) (k + 1) (acc + t)

/-- I0(z), from z² as a fixed-point real. -/
def fxI0 (z2 : Int) : Int := i0Series 80 (z2 / 4) fxOne 0 0

/-- Bits of log2 of a fixed-point value in 1 … 2, by repeated squaring. -/
def logBits : Nat → Int → Int → Int
  | 0, _, acc => acc
  | n + 1, y, acc =>
    let y2 := fxMul y y
    if y2 ≥ 2 * fxOne then logBits n (y2 / 2) (2 * acc + 1) else logBits n y2 (2 * acc)

/-- log2(v)·2^48 of a fixed-point v in 1 … 2, rounded down. -/
def fxLog2 (v : Int) : Int := logBits 48 v 0

/-- round_half_even(m·x) of a fixed-point x. -/
def fxRound (m x : Int) : Int := rheP (m * x) 128

/-! ### Front end -/

/-- R57: the mixer's cosine of a 20-bit phase index. -/
def ncoCos (u : Nat) : Int := fxRound 131071 (fxCos u (2 ^ 20))

/-- R57: the mixer's sine of a 20-bit phase index. -/
def ncoSin (u : Nat) : Int := fxRound 131071 (fxSin u (2 ^ 20))

/-- R57: the mixed sample of components xi, xq at phase P. -/
def mix (xi xq : Int) (ph : Nat) : Int × Int :=
  let u := ph / 2 ^ 12
  let c := ncoCos u
  let s := ncoSin u
  (rheP (xi * c + xq * s) 17, rheP (xq * c - xi * s) 17)

/-- R61: half-band coefficient c[n], −71 ≤ n ≤ 71. -/
def hbC (n : Int) : Int := lget hbCoef n.natAbs 0

/-- R62: the published group delay G of a final response. -/
def finG (r : Nat) : Nat := lget [68, 104, 48, 8, 6, 34, 0, 0] r 0

/-- R69: the past span of a final response. -/
def finGPast (r : Nat) : Nat := lget [68, 104, 48, 8, 41, 34, 0, 0] r 0

/-- R62: coefficient c[n] of response 4. The ROM image alone defines the 48 values and the text does not print them: c[1] … c[47] are
constants without a body, and c[0] is what makes the sum exactly 2^19. -/
def minPhaseC (n : Nat) : Int :=
  if n == 0 then 2 ^ 19 - ((List.range 47).map (fun i => (Config.minPhase (i + 1)).toInt)).sum else (Config.minPhase n).toInt

/-- R62: coefficient c[n] of final response r. -/
def finC (r : Nat) (n : Int) : Int :=
  match r with
  | 0 => lget finCoef0 n.natAbs 0
  | 1 => lget finCoef1 n.natAbs 0
  | 2 => lget finCoef2 n.natAbs 0
  | 3 => lget finCoef3 n.natAbs 0
  | 4 => minPhaseC n.natAbs
  | 5 => lget finCoef5 n.natAbs 0
  | _ => if n == 0 then 2 ^ 19 else 0

/-! ### Windows (R87, R116) -/

/-- R87: coefficient w[n] of ROM window wc at length N, fixed point before rounding. -/
def winF (wc n len : Nat) : Int :=
  let c := fun (k : Nat) => fxCos (k * n) len
  match wc with
  | 0 => fxOne
  | 1 => (fxOne - c 1) / 2
  | 2 => (35875 * fxOne - 48829 * c 1 + 14128 * c 2 - 1168 * c 3) / 100000
  | 3 => (215578950 * fxOne - 416631580 * c 1 + 277263158 * c 2 - 83578947 * c 3 + 6947368 * c 4) / 1000000000
  | _ =>
    let b : Int := match wc with | 4 => 6 | 5 => 9 | _ => 13
    let d := 2 * (n : Int) - len
    let z2 := b * b * (fxOne - d * d * fxOne / ((len * len : Nat) : Int))
    fxI0 z2 * fxOne / fxI0 (b * b * fxOne)

/-- R87: window coefficient w[n]; window 7 reads the RAM window. -/
def winW (wc n len : Nat) (ram : List (Nat × Word)) : Int :=
  if wc == 7 then (wget ram n).toInt else fxRound (2 ^ 17) (winF wc n len)

/-- R116: the gain constant in force, RAM_GAIN for window 7. -/
def winGain (wc p : Nat) (ramGain : Int) : Int :=
  if wc == 7 then ramGain else lget (lget gainTab wc []) (p - 6) 0

/-! ### The transform (R107 to R111) -/

/-- R6: the components of a sample word. -/
def smpI (w : Word) : Int := sx 18 (w.toNat / 2 ^ 18)
/-- R6: the components of a sample word. -/
def smpQ (w : Word) : Int := sx 18 w.toNat
/-- R6: a sample word from its components. -/
def smpW (i q : Int) : Word := wordN (ux 18 i * 2 ^ 18 + ux 18 q)

/-- R109: twiddle C(e) on an N-point basis. -/
def twC (e len : Nat) : Int := fxRound (2 ^ 18) (fxCos e len)
/-- R109: twiddle S(e) on an N-point basis. -/
def twS (e len : Nat) : Int := fxRound (2 ^ 18) (fxSin e len)

/-- R108: the largest e in 0 … 8 with M·2^e ≤ 2^17. -/
def inExp (m : Nat) : Nat := ((List.range 9).filter (fun e => m * 2 ^ e ≤ 2 ^ 17)).foldl max 0

/-- Halving of stages 3 on (R110). -/
def halve (t : Nat) (v : Int) : Int := if t ≤ 2 then v else rheP v 1

/-- R110: the butterflies of stage t with span h. -/
def bflyPass (h t : Nat) (v : Array (Int × Int)) : Array (Int × Int) :=
  let g := fun i => v.getD i (0, 0)
  ((List.range v.size).map (fun i =>
    if i % (2 * h) < h then
      let u := g i; let z := g (i + h)
      (halve t (u.1 + z.1), halve t (u.2 + z.2))
    else
      let u := g (i - h); let z := g i
      (halve t (u.1 - z.1), halve t (u.2 - z.2)))).toArray

/-- R110: multiplication by −j of the last quarter of each block of L. -/
def rotPass (l : Nat) (v : Array (Int × Int)) : Array (Int × Int) :=
  v.mapIdx (fun i x => if i % l ≥ 3 * l / 4 then (x.2, -x.1) else x)

/-- R110: multiplication of a value by C(e) − j·S(e). -/
def twid (x : Int × Int) (e len : Nat) : Int × Int :=
  (rheP (x.1 * twC e len + x.2 * twS e len) 18, rheP (x.2 * twC e len - x.1 * twS e len) 18)

/-- R110: the twiddles of blocks of L. -/
def twidPass (l len : Nat) (v : Array (Int × Int)) : Array (Int × Int) :=
  v.mapIdx (fun i x =>
    let o := i % l
    let q := o / (l / 4)
    let m := q / 2 + 2 * (q % 2)
    twid x (o % (l / 4) * m * (len / l)) len)

/-- R110: the stages, from span L and stage t on; the fuel bounds the number of radix-4 passes. -/
def fftStages : Nat → Nat → Nat → Nat → Array (Int × Int) → Array (Int × Int)
  | 0, _, _, _, v => v
  | n + 1, len, l, t, v =>
    if l ≥ 4 then
      let v := bflyPass (l / 2) t v
      let v := rotPass l v
      let v := bflyPass (l / 4) (t + 1) v
      let v := if l > 4 then twidPass l len v else v
      fftStages n len (l / 4) (t + 2) v
    else if l == 2 then bflyPass 1 t v
    else v

/-- The low p bits of n in reverse order (R111). -/
def bitrev : Nat → Nat → Nat
  | 0, _ => 0
  | p + 1, n => n % 2 * 2 ^ p + bitrev p (n / 2)

/-- R107: the windowed samples of a frame. -/
def windowed (p wc : Nat) (ram : List (Nat × Word)) (x : List Word) : List (Int × Int) :=
  (List.range (2 ^ p)).zip x |>.map (fun (n, w) =>
    let c := winW wc n (2 ^ p) ram
    (rheP (smpI w * c) 17, rheP (smpQ w * c) 17))

/-- R107 to R111: the bins of a frame in centred order and the frame exponent. -/
def transform (p wc : Nat) (ram : List (Nat × Word)) (x : List Word) : Nat × List (Int × Int) :=
  let len := 2 ^ p
  let xw := windowed p wc ram x
  let m := xw.foldl (fun a v => max a (max v.1.natAbs v.2.natAbs)) 0
  let e := inExp m
  let v := (xw.map (fun v => (v.1 * 2 ^ (5 + e), v.2 * 2 ^ (5 + e)))).toArray
  let r := fftStages 9 len len 1 v
  (e, (List.range len).map (fun b =>
    let k := (b + len / 2) % len
    let y := r.getD (bitrev p k) (0, 0)
    (rheP y.1 8, rheP y.2 8)))

/-! ### Power and level codes (R113 to R117) -/

/-- R114: the log2 table; entry 1,024 is 65,536. -/
def log2Tab (i : Nat) : Int :=
  if i ≥ 1024 then 65536 else rheP (fxLog2 (fxOne + fxOne * i / 1024)) 32

/-- R114: log2 P in units of 2^−16, for P ≥ 1. -/
def l2 (p : Nat) : Int :=
  let k := log2n p
  let u := p * 2 ^ (35 - k)
  let i : Nat := u / 2 ^ 25 % 1024
  let r : Nat := u / 2 ^ 9 % 65536
  Int.ofNat (k * 65536) + log2Tab i + rheP ((log2Tab (i + 1) - log2Tab i) * Int.ofNat r) 16

/-- R115: the level constant KL. -/
def levelK : Int := 808071242

/-- R7: clamping of a level code. -/
def clampLevel (c : Int) : Nat := if c < 0 then 0 else if c > 262143 then 262143 else c.toNat

/-- R115: the level code of m·2^x, with a gain constant added before the clamp. -/
def levelOfG (m : Nat) (x g : Int) : Nat :=
  clampLevel (131072 + g + rheP (levelK * (l2 m + x * 65536)) 36)

/-- R115: LEVEL_OF. -/
def levelOf (m : Nat) (x : Int) : Nat := levelOfG m x 0

/-- R113, R115: power and level code of a bin of a frame. -/
def binPower (y : Int × Int) : Nat := (y.1 * y.1 + y.2 * y.2).toNat

/-- R115: the level code of a bin; 0 for P = 0. -/
def binLevel (y : Int × Int) (fx : Nat) (g : Int) : Nat :=
  let p := binPower y
  if p == 0 then 0 else levelOfG p (-(2 * (fx : Int)) - 32) g

/-- R117: the exp2 table; entry 1,024 is 2^27. -/
def exp2Tab (i : Nat) : Int :=
  if i ≥ 1024 then 2 ^ 27 else fxRound (2 ^ 26) (fxExp (fxLn2 * i / 1024))

/-- R117: LIN(c), mantissa and exponent ze. -/
def lin (c : Nat) : Nat × Int :=
  let z := rheP (((c : Int) - 131072) * 89172328) 20
  let ze := z / 65536
  let zf := (z - ze * 65536).toNat
  let i := zf / 64
  let r : Nat := zf % 64
  ((exp2Tab i + rheP ((exp2Tab (i + 1) - exp2Tab i) * (r : Int)) 6).toNat, ze)

/-! ### Residues (R118 to R120) -/

/-- R118: the residue of a value mod 3. -/
def residue (v : Int) : Nat := (v % 3).toNat

/-- R120: the relation a rounding right shift by k bits is checked by. -/
def shiftCheck (a y : Int) (k : Nat) : Bool :=
  let bias : Int := 2 ^ (k - 1) - 1 + (a / 2 ^ k) % 2
  let d := (a + bias) % 2 ^ k
  (residue a + residue bias) % 3 == (residue y * residue (2 ^ k) + residue d) % 3

end Sys2Proof.Machine
end

