-- ==== Sys2Proof/Machine/Checks.lean ====
section
/-! DEFINITION. The residue checkers (R118 to R122): every value of R107 to R117 with the residue code it carries, the rules by
which an operation forms its result's residue, and the checkers of a seat and of a post-processor. A checker that does not pass
trips; what the trip does comes as its own row (CHECKER_TRIP, PP_CHECKER_TRIP). -/

namespace Sys2Proof.Machine

/-- R118: a component of a value with its 2-bit residue code. -/
structure RVal where
  v : Int
  r : Nat
  deriving DecidableEq, Repr

/-- A table entry or constant with the residue stored beside it (R119). -/
def RVal.of (v : Int) : RVal := ⟨v, residue v⟩

/-- R119: the checker recomputes the residue from the value's bits; the code 3 is never valid (R118). -/
def RVal.ok (a : RVal) : Bool := a.r != 3 && a.r == residue a.v

/-- A residue formed from operands' codes; an invalid code stays invalid. -/
def resOf (valid : Bool) (r : Nat) : Nat := if valid then r % 3 else 3

/-- R119: a + b. -/
def RVal.add (a b : RVal) : RVal := ⟨a.v + b.v, resOf (a.r < 3 && b.r < 3) (a.r + b.r)⟩
/-- R119: a − b. -/
def RVal.sub (a b : RVal) : RVal := ⟨a.v - b.v, resOf (a.r < 3 && b.r < 3) (a.r + 3 - b.r)⟩
/-- R119: −a. -/
def RVal.neg (a : RVal) : RVal := ⟨-a.v, resOf (a.r < 3) (3 - a.r)⟩
/-- R119: a·b. -/
def RVal.mul (a b : RVal) : RVal := ⟨a.v * b.v, resOf (a.r < 3 && b.r < 3) (a.r * b.r)⟩
/-- R119: a·2^k. -/
def RVal.shl (a : RVal) (k : Nat) : RVal := ⟨a.v * 2 ^ k, resOf (a.r < 3) (if k % 2 == 0 then a.r else 2 * a.r)⟩

/-- R120: bias and d of a rounding right shift by k bits. -/
def shiftBias (a : Int) (k : Nat) : Int := 2 ^ (k - 1) - 1 + a / 2 ^ k % 2
def shiftD (a : Int) (k : Nat) : Int := (a + shiftBias a k) % 2 ^ k

/-- R120: a rounding right shift: the residue of the result solves the relation, 2^k being its own inverse mod 3. -/
def RVal.shr (a : RVal) (k : Nat) : RVal :=
  ⟨rheP a.v k, resOf (a.r < 3) ((a.r + residue (shiftBias a.v k) + 3 - residue (shiftD a.v k)) * residue (2 ^ k))⟩

/-- A complex value whose components carry residues. -/
abbrev RCx := RVal × RVal

/-- Both components pass their checker. -/
def okCx (z : RCx) : Bool := z.1.ok && z.2.ok

/-- Every value of a pass passes its checker. -/
def okAll (v : Array RCx) : Bool := v.toList.all okCx

/-! ### Steps computed twice (R121) -/

/-- The other search for M: from the last sample on. -/
def maxAbsTwin (l : List (Int × Int)) : Nat := l.foldr (fun v a => max (max v.1.natAbs v.2.natAbs) a) 0

/-- The other choice of e_in: from the number of bits of M − 1. -/
def inExpTwin (m : Nat) : Nat := min 8 (17 - (if m ≤ 1 then 0 else log2n (m - 1) + 1))

/-- The other bit reversal: digit by digit from the low end. -/
def bitrevTwin (p n : Nat) : Nat := (List.range p).foldl (fun a i => 2 * a + n / 2 ^ i % 2) 0

/-- The other leading-one position. -/
def leadTwin (p : Nat) : Nat := ((List.range 36).filter (fun i => decide (2 ^ i ≤ p))).length - 1

/-! ### A seat (R107 to R111) -/

/-- R110: the butterflies of stage t with span h. -/
def rBfly (h t : Nat) (v : Array RCx) : Array RCx :=
  let z0 : RCx := (RVal.of 0, RVal.of 0)
  let half := fun (a : RVal) => if t ≤ 2 then a else a.shr 1
  ((List.range v.size).map (fun i =>
    let lo := i % (2 * h) < h
    let u := v.getD (if lo then i else i - h) z0
    let z := v.getD (if lo then i + h else i) z0
    let f := fun (a b : RVal) => half (if lo then a.add b else a.sub b)
    (f u.1 z.1, f u.2 z.2))).toArray

/-- R110: multiplication by −j of the last quarter of each block of L. -/
def rRot (l : Nat) (v : Array RCx) : Array RCx := v.mapIdx (fun i z => if i % l ≥ 3 * l / 4 then (z.2, z.1.neg) else z)

/-- R110: the twiddles of blocks of L. -/
def rTwid (l len : Nat) (v : Array RCx) : Array RCx :=
  v.mapIdx (fun i z =>
    let o := i % l
    let q := o / (l / 4)
    let e := o % (l / 4) * (q / 2 + 2 * (q % 2)) * (len / l)
    let c := RVal.of (twC e len)
    let s := RVal.of (twS e len)
    (((z.1.mul c).add (z.2.mul s)).shr 18, ((z.2.mul c).sub (z.1.mul s)).shr 18))

/-- R110, R122: the stages, and that every stage and twiddle pass has passed its checkers. -/
def rStages : Nat → Nat → Nat → Nat → Array RCx → Bool × Array RCx
  | 0, _, _, _, v => (true, v)
  | n + 1, len, l, t, v =>
    if l ≥ 4 then
      let a := rRot l (rBfly (l / 2) t v)
      let b := rBfly (l / 4) (t + 1) a
      let c := if l > 4 then rTwid l len b else b
      let r := rStages n len (l / 4) (t + 2) c
      (okAll a && okAll b && okAll c && r.1, r.2)
    else if l == 2 then
      let a := rBfly 1 t v
      (okAll a, a)
    else (true, v)

/-- A sample word's components with their residue codes. -/
def rSample (w : Word) (r : Nat × Nat) : RCx := (⟨smpI w, r.1⟩, ⟨smpQ w, r.2⟩)

/-- R87, R119: a window coefficient with its stored residue. -/
def rWin (wc n len : Nat) (ram : List (Nat × Word)) (ramRes : List (Nat × Nat)) : RVal :=
  if wc == 7 then ⟨(wget ram n).toInt, (aget ramRes n).getD 0⟩ else RVal.of (winW wc n len ram)

/-- R118, R121, R122: the checkers of a seat on a frame of samples with residue codes: whether all pass, and the residue codes of
the bins in centred order. -/
def seatChecks (p wc : Nat) (ram : List (Nat × Word)) (ramRes : List (Nat × Nat)) (x : List Word) (res : List (Nat × Nat)) :
    Bool × List (Nat × Nat) :=
  let len := 2 ^ p
  let xw := (List.range len).zip (x.zip res) |>.map (fun (n, w, r) =>
    let z := rSample w r
    let c := rWin wc n len ram ramRes
    ((z.1.mul c).shr 17, (z.2.mul c).shr 17))
  let vs := xw.map (fun z => (z.1.v, z.2.v))
  let m := vs.foldl (fun a v => max a (max v.1.natAbs v.2.natAbs)) 0
  let e := inExp m
  let norm := (xw.map (fun z => (z.1.shl (5 + e), z.2.shl (5 + e)))).toArray
  let st := rStages 9 len len 1 norm
  let out := (List.range len).map (fun b =>
    let z := st.2.getD (bitrev p ((b + len / 2) % len)) (RVal.of 0, RVal.of 0)
    (z.1.shr 8, z.2.shr 8))
  (xw.all okCx && m == maxAbsTwin vs && e == inExpTwin m && okAll norm && st.1
      && (List.range len).all (fun b => bitrev p ((b + len / 2) % len) == bitrevTwin p ((b + 2 ^ (p - 1)) % 2 ^ p)) && out.all okCx,
    out.map (fun z => (z.1.r, z.2.r)))

/-! ### A post-processor (R113 to R117) -/

/-- R114: L2 with its residue, and that its steps have passed their checkers. -/
def rL2 (p : RVal) : Bool × RVal :=
  let n := p.v.toNat
  let k := log2n n
  let u := p.shl (35 - k)
  let i : Nat := u.v.toNat / 2 ^ 25 % 1024
  let r : Nat := u.v.toNat / 2 ^ 9 % 65536
  let t0 := RVal.of (log2Tab i)
  let ip := (((RVal.of (log2Tab (i + 1))).sub t0).mul (RVal.of (r : Int))).shr 16
  let s := ((RVal.of (k * 65536 : Nat)).add t0).add ip
  (k == leadTwin n && i == bitsOf u.v.toNat 34 25 && u.ok && ip.ok && s.ok, s)

/-- R115, R121: the clamp, computed the other way. -/
def clampTwin (c : Int) : Nat := (min 262143 (max 0 c)).toNat

/-- R115: the level code of a power with its residue: its checkers pass. -/
def levelChecks (p : RVal) (fx : Nat) (g : Int) : Bool :=
  if p.v.toNat == 0 then p.ok
  else
    let l := rL2 p
    let a := l.2.sub ((RVal.of (2 * (fx : Int) + 32)).shl 16)
    let y := ((RVal.of levelK).mul a).shr 36
    let c := ((RVal.of 131072).add (RVal.of g)).add y
    p.ok && l.1 && y.ok && c.ok && clampLevel c.v == clampTwin c.v

/-- R117: the steps of LIN of a level code pass their checkers. -/
def linChecks (c : Nat) : Bool :=
  let z := (((RVal.of (c : Int)).sub (RVal.of 131072)).mul (RVal.of 89172328)).shr 20
  let zf := (z.v - z.v / 65536 * 65536).toNat
  let x0 := RVal.of (exp2Tab (zf / 64))
  let ip := (((RVal.of (exp2Tab (zf / 64 + 1))).sub x0).mul (RVal.of (zf % 64 : Nat))).shr 6
  z.ok && zf / 64 == bitsOf zf 15 6 && ip.ok && (x0.add ip).ok

/-- R113: the power of a bin whose components carry residues. -/
def rPower (y : Int × Int) (r : Nat × Nat) : RVal :=
  let a : RVal := ⟨y.1, r.1⟩
  let b : RVal := ⟨y.2, r.2⟩
  (a.mul a).add (b.mul b)

/-- R122: the checkers of a post-processor on the bins of a frame: powers, level codes and their linear values. -/
def ppChecks (y : List (Int × Int)) (res : List (Nat × Nat)) (fx : Nat) (g : Int) : Bool :=
  (y.zip res).all (fun p => levelChecks (rPower p.1 p.2) fx g && linChecks (binLevel p.1 fx g))

end Sys2Proof.Machine
end

