-- ==== Sys2Proof/Machine/Regs.lean ====
section
/-! DEFINITION. The set-up registers (chapter 23, R475 to R477): where each register and each of its fields lies, its
access type (R5) and its reset value. Names of registers and fields are the spec's. -/

namespace Sys2Proof.Machine

/-- A field of a set-up register: register index (R475), highest and lowest bit (R2). -/
structure Fld where
  idx : Nat
  hi  : Nat
  lo  : Nat
  deriving DecidableEq, Repr

/-- How the register bus treats a register: an ordinary word, or the low or high word of a two-word value that is read
by snapshot (R42), written by staging (R43), or the low word of a result register (R44). -/
inductive RegKind where
  | plain | rsLo | rsHi | wLo | wHi | rcLo
  deriving DecidableEq, Repr

/-- A row of chapter 23: registers `base + stride·i`, `i < count`, their reset value, the bits software writes, the bits
writing 1 clears, the kind, and whether the value is loaded from fuses (R477). -/
structure RegRow where
  base   : Nat
  count  : Nat
  stride : Nat
  reset  : Nat
  rw     : Nat
  w1c    : Nat
  kind   : RegKind
  fuse   : Bool
  deriving DecidableEq, Repr

/-- BEHAVIOUR_ID, index 0x0 (R475). -/
def BEHAVIOUR_ID.whole : Fld := ⟨0x0, 35, 0⟩
def BEHAVIOUR_ID.PART : Fld := ⟨0x0, 35, 24⟩
def BEHAVIOUR_ID.ARITH : Fld := ⟨0x0, 23, 16⟩
def BEHAVIOUR_ID.BEHAV : Fld := ⟨0x0, 15, 8⟩
/-- INIT_STAT, index 0x1 (R475). -/
def INIT_STAT.whole : Fld := ⟨0x1, 35, 0⟩
def INIT_STAT.READY : Fld := ⟨0x1, 35, 35⟩
def INIT_STAT.FAILED : Fld := ⟨0x1, 34, 34⟩
def INIT_STAT.PHASE : Fld := ⟨0x1, 33, 30⟩
def INIT_STAT.DRAM_OK : Fld := ⟨0x1, 29, 26⟩
def INIT_STAT.DRAM_OUT : Fld := ⟨0x1, 25, 22⟩
def INIT_STAT.FILL_PCT : Fld := ⟨0x1, 21, 15⟩
def INIT_STAT.FAIL_CODE : Fld := ⟨0x1, 7, 0⟩
/-- RESET_STAT, index 0x2 (R475). -/
def RESET_STAT.whole : Fld := ⟨0x2, 35, 0⟩
def RESET_STAT.COXPREF : Fld := ⟨0x2, 35, 35⟩
def RESET_STAT.BOOTSRC : Fld := ⟨0x2, 34, 34⟩
def RESET_STAT.CAUSE : Fld := ⟨0x2, 33, 31⟩
def RESET_STAT.FLASH_OK : Fld := ⟨0x2, 30, 30⟩
def RESET_STAT.DESC_OK : Fld := ⟨0x2, 29, 29⟩
def RESET_STAT.IMG_OK : Fld := ⟨0x2, 28, 21⟩
def RESET_STAT.STEP : Fld := ⟨0x2, 20, 16⟩
def RESET_STAT.SIDE_RESETS : Fld := ⟨0x2, 15, 0⟩
/-- AVS_VID, index 0x3 (R475). -/
def AVS_VID.whole : Fld := ⟨0x3, 35, 0⟩
def AVS_VID.VID : Fld := ⟨0x3, 5, 0⟩
/-- SIDE_RESET, index 0x4 (R475). -/
def SIDE_RESET.whole : Fld := ⟨0x4, 35, 0⟩
def SIDE_RESET.KEY : Fld := ⟨0x4, 35, 24⟩
/-- ISL_RESET, index 0x5 (R475). -/
def ISL_RESET.whole : Fld := ⟨0x5, 35, 0⟩
def ISL_RESET.GO : Fld := ⟨0x5, 35, 35⟩
def ISL_RESET.REFUSED : Fld := ⟨0x5, 34, 34⟩
def ISL_RESET.DONE : Fld := ⟨0x5, 33, 33⟩
def ISL_RESET.SRC : Fld := ⟨0x5, 15, 0⟩
/-- SNAP_STAT, index 0x6 (R475). -/
def SNAP_STAT.whole : Fld := ⟨0x6, 35, 0⟩
def SNAP_STAT.STAGE_MISS : Fld := ⟨0x6, 21, 11⟩
def SNAP_STAT.MISS : Fld := ⟨0x6, 10, 0⟩
/-- HOST_CFG, index 0x1000 (R475). -/
def HOST_CFG.whole : Fld := ⟨0x1000, 35, 0⟩
def HOST_CFG.ROUTE_BOW : Fld := ⟨0x1000, 35, 35⟩
def HOST_CFG.POISON_EP : Fld := ⟨0x1000, 34, 34⟩
/-- HOST_STAT, index 0x1001 (R475). -/
def HOST_STAT.whole : Fld := ⟨0x1001, 35, 0⟩
def HOST_STAT.LINK_UP : Fld := ⟨0x1001, 35, 35⟩
def HOST_STAT.SPEED : Fld := ⟨0x1001, 34, 32⟩
def HOST_STAT.WIDTH : Fld := ⟨0x1001, 31, 27⟩
def HOST_STAT.ACCESS_BEFORE_READY : Fld := ⟨0x1001, 26, 26⟩
def HOST_STAT.ROUTE_REFUSED : Fld := ⟨0x1001, 25, 25⟩
def HOST_STAT.ERR_SEEN : Fld := ⟨0x1001, 24, 24⟩
/-- WIN_CFG, index 0x1002 + i (R475). -/
def WIN_CFG.whole (i : Nat) : Fld := ⟨0x1002 + i, 35, 0⟩
def WIN_CFG.EN (i : Nat) : Fld := ⟨0x1002 + i, 35, 35⟩
def WIN_CFG.DENSE (i : Nat) : Fld := ⟨0x1002 + i, 34, 34⟩
def WIN_CFG.BASE (i : Nat) : Fld := ⟨0x1002 + i, 27, 0⟩
/-- ACC_ERR_LO, index 0x1006 (R475). -/
def ACC_ERR_LO.whole : Fld := ⟨0x1006, 35, 0⟩
def ACC_ERR_LO.ADDR_LO : Fld := ⟨0x1006, 35, 0⟩
/-- ACC_ERR_HI, index 0x1007 (R475). -/
def ACC_ERR_HI.whole : Fld := ⟨0x1007, 35, 0⟩
def ACC_ERR_HI.VALID : Fld := ⟨0x1007, 35, 35⟩
def ACC_ERR_HI.CAUSE : Fld := ⟨0x1007, 34, 32⟩
def ACC_ERR_HI.MASTER : Fld := ⟨0x1007, 31, 28⟩
def ACC_ERR_HI.WRITE : Fld := ⟨0x1007, 27, 27⟩
def ACC_ERR_HI.ADDR_HI : Fld := ⟨0x1007, 7, 0⟩
/-- ACC_ERR_COUNT, index 0x1008 (R475). -/
def ACC_ERR_COUNT.whole : Fld := ⟨0x1008, 35, 0⟩
/-- WIN_PARTIAL, index 0x1009 (R475). -/
def WIN_PARTIAL.whole : Fld := ⟨0x1009, 35, 0⟩
/-- DB_PAGE_LO, index 0x2000 (R475). -/
def DB_PAGE_LO.whole : Fld := ⟨0x2000, 35, 0⟩
def DB_PAGE_LO.ADDR_LO : Fld := ⟨0x2000, 35, 12⟩
/-- DB_PAGE_HI, index 0x2001 (R475). -/
def DB_PAGE_HI.whole : Fld := ⟨0x2001, 35, 0⟩
def DB_PAGE_HI.ADDR_HI : Fld := ⟨0x2001, 27, 0⟩
/-- DB_CFG, index 0x2002 (R475). -/
def DB_CFG.whole : Fld := ⟨0x2002, 35, 0⟩
def DB_CFG.EN : Fld := ⟨0x2002, 35, 35⟩
def DB_CFG.POLL : Fld := ⟨0x2002, 11, 0⟩
/-- NUDGE, index 0x2003 (R475). -/
def NUDGE.whole : Fld := ⟨0x2003, 35, 0⟩
/-- RING_ERR, index 0x2004 (R475). -/
def RING_ERR.whole : Fld := ⟨0x2004, 35, 0⟩
def RING_ERR.CMD_ERR : Fld := ⟨0x2004, 35, 28⟩
def RING_ERR.STRQ_ERR : Fld := ⟨0x2004, 27, 12⟩
def RING_ERR.EVQ_ERR : Fld := ⟨0x2004, 11, 11⟩
def RING_ERR.CQ_ERR : Fld := ⟨0x2004, 10, 3⟩
def RING_ERR.DB_ERR : Fld := ⟨0x2004, 2, 2⟩
def RING_ERR.CFG_REFUSED : Fld := ⟨0x2004, 1, 1⟩
/-- EVT_DROP, index 0x2005 (R475). -/
def EVT_DROP.whole : Fld := ⟨0x2005, 35, 0⟩
/-- DB_READ_ERR, index 0x2006 (R475). -/
def DB_READ_ERR.whole : Fld := ⟨0x2006, 35, 0⟩
/-- EVQ_BASE_LO, index 0x2008 (R475). -/
def EVQ_BASE_LO.whole : Fld := ⟨0x2008, 35, 0⟩
def EVQ_BASE_LO.ADDR_LO : Fld := ⟨0x2008, 35, 12⟩
/-- EVQ_BASE_HI, index 0x2009 (R475). -/
def EVQ_BASE_HI.whole : Fld := ⟨0x2009, 35, 0⟩
def EVQ_BASE_HI.ADDR_HI : Fld := ⟨0x2009, 27, 0⟩
/-- EVQ_CFG, index 0x200A (R475). -/
def EVQ_CFG.whole : Fld := ⟨0x200A, 35, 0⟩
def EVQ_CFG.EN : Fld := ⟨0x200A, 35, 35⟩
def EVQ_CFG.LOG2SIZE : Fld := ⟨0x200A, 34, 31⟩
def EVQ_CFG.VECTOR : Fld := ⟨0x200A, 30, 26⟩
def EVQ_CFG.MOD_COUNT : Fld := ⟨0x200A, 25, 18⟩
def EVQ_CFG.MOD_TIME : Fld := ⟨0x200A, 17, 8⟩
/-- CMDQ_BASE_LO, index 0x2010 + 0x2 * i (R475). -/
def CMDQ_BASE_LO.whole (i : Nat) : Fld := ⟨0x2010 + 0x2 * i, 35, 0⟩
def CMDQ_BASE_LO.ADDR_LO (i : Nat) : Fld := ⟨0x2010 + 0x2 * i, 35, 12⟩
/-- CMDQ_BASE_HI, index 0x2011 + 0x2 * i (R475). -/
def CMDQ_BASE_HI.whole (i : Nat) : Fld := ⟨0x2011 + 0x2 * i, 35, 0⟩
def CMDQ_BASE_HI.ADDR_HI (i : Nat) : Fld := ⟨0x2011 + 0x2 * i, 27, 0⟩
/-- CMDQ_CFG, index 0x2020 + i (R475). -/
def CMDQ_CFG.whole (i : Nat) : Fld := ⟨0x2020 + i, 35, 0⟩
def CMDQ_CFG.EN (i : Nat) : Fld := ⟨0x2020 + i, 35, 35⟩
def CMDQ_CFG.LOG2SIZE (i : Nat) : Fld := ⟨0x2020 + i, 34, 31⟩
def CMDQ_CFG.CQ (i : Nat) : Fld := ⟨0x2020 + i, 30, 28⟩
/-- CQ_BASE_LO, index 0x2030 + 0x2 * i (R475). -/
def CQ_BASE_LO.whole (i : Nat) : Fld := ⟨0x2030 + 0x2 * i, 35, 0⟩
def CQ_BASE_LO.ADDR_LO (i : Nat) : Fld := ⟨0x2030 + 0x2 * i, 35, 12⟩
/-- CQ_BASE_HI, index 0x2031 + 0x2 * i (R475). -/
def CQ_BASE_HI.whole (i : Nat) : Fld := ⟨0x2031 + 0x2 * i, 35, 0⟩
def CQ_BASE_HI.ADDR_HI (i : Nat) : Fld := ⟨0x2031 + 0x2 * i, 27, 0⟩
/-- CQ_CFG, index 0x2040 + i (R475). -/
def CQ_CFG.whole (i : Nat) : Fld := ⟨0x2040 + i, 35, 0⟩
def CQ_CFG.EN (i : Nat) : Fld := ⟨0x2040 + i, 35, 35⟩
def CQ_CFG.LOG2SIZE (i : Nat) : Fld := ⟨0x2040 + i, 34, 31⟩
def CQ_CFG.VECTOR (i : Nat) : Fld := ⟨0x2040 + i, 30, 26⟩
def CQ_CFG.MOD_COUNT (i : Nat) : Fld := ⟨0x2040 + i, 25, 18⟩
def CQ_CFG.MOD_TIME (i : Nat) : Fld := ⟨0x2040 + i, 17, 8⟩
/-- STRQ_BASE_LO, index 0x2050 + 0x2 * i (R475). -/
def STRQ_BASE_LO.whole (i : Nat) : Fld := ⟨0x2050 + 0x2 * i, 35, 0⟩
def STRQ_BASE_LO.ADDR_LO (i : Nat) : Fld := ⟨0x2050 + 0x2 * i, 35, 12⟩
/-- STRQ_BASE_HI, index 0x2051 + 0x2 * i (R475). -/
def STRQ_BASE_HI.whole (i : Nat) : Fld := ⟨0x2051 + 0x2 * i, 35, 0⟩
def STRQ_BASE_HI.ADDR_HI (i : Nat) : Fld := ⟨0x2051 + 0x2 * i, 27, 0⟩
/-- STRQ_CFG, index 0x2070 + i (R475). -/
def STRQ_CFG.whole (i : Nat) : Fld := ⟨0x2070 + i, 35, 0⟩
def STRQ_CFG.EN (i : Nat) : Fld := ⟨0x2070 + i, 35, 35⟩
def STRQ_CFG.LOG2SIZE (i : Nat) : Fld := ⟨0x2070 + i, 34, 31⟩
def STRQ_CFG.VECTOR (i : Nat) : Fld := ⟨0x2070 + i, 30, 26⟩
def STRQ_CFG.MOD_COUNT (i : Nat) : Fld := ⟨0x2070 + i, 25, 18⟩
def STRQ_CFG.MOD_TIME (i : Nat) : Fld := ⟨0x2070 + i, 17, 8⟩
/-- KEEL_COX_STAT, index 0x3000 (R475). -/
def KEEL_COX_STAT.whole : Fld := ⟨0x3000, 35, 0⟩
def KEEL_COX_STAT.KEEL_UP : Fld := ⟨0x3000, 35, 35⟩
def KEEL_COX_STAT.SPLIT_CREW : Fld := ⟨0x3000, 34, 34⟩
def KEEL_COX_STAT.COX_HELD : Fld := ⟨0x3000, 33, 33⟩
def KEEL_COX_STAT.HELD_THROUGH : Fld := ⟨0x3000, 32, 32⟩
def KEEL_COX_STAT.COXPREF : Fld := ⟨0x3000, 31, 31⟩
def KEEL_COX_STAT.CONFLICT_SEEN : Fld := ⟨0x3000, 30, 30⟩
def KEEL_COX_STAT.RESOLVING : Fld := ⟨0x3000, 29, 29⟩
def KEEL_COX_STAT.EPOCH : Fld := ⟨0x3000, 23, 0⟩
/-- KEEL_XTRIG_DISCARD, index 0x3001 (R475). -/
def KEEL_XTRIG_DISCARD.whole : Fld := ⟨0x3001, 35, 0⟩
/-- RT_NOW_LO, index 0x4000 (R475). -/
def RT_NOW_LO.whole : Fld := ⟨0x4000, 35, 0⟩
def RT_NOW_LO.RT_LO : Fld := ⟨0x4000, 35, 0⟩
/-- RT_NOW_HI, index 0x4001 (R475). -/
def RT_NOW_HI.whole : Fld := ⟨0x4001, 35, 0⟩
def RT_NOW_HI.RT_HI : Fld := ⟨0x4001, 35, 0⟩
/-- RT_LOAD_LO, index 0x4002 (R475). -/
def RT_LOAD_LO.whole : Fld := ⟨0x4002, 35, 0⟩
/-- RT_LOAD_HI, index 0x4003 (R475). -/
def RT_LOAD_HI.whole : Fld := ⟨0x4003, 35, 0⟩
/-- RT_INC_LO, index 0x4004 (R475). -/
def RT_INC_LO.whole : Fld := ⟨0x4004, 35, 0⟩
def RT_INC_LO.INC_LO : Fld := ⟨0x4004, 35, 0⟩
/-- RT_INC_HI, index 0x4005 (R475). -/
def RT_INC_HI.whole : Fld := ⟨0x4005, 35, 0⟩
def RT_INC_HI.INC_HI : Fld := ⟨0x4005, 11, 0⟩
/-- PPS_RESID_LO, index 0x4006 (R475). -/
def PPS_RESID_LO.whole : Fld := ⟨0x4006, 35, 0⟩
def PPS_RESID_LO.VALID : Fld := ⟨0x4006, 35, 35⟩
def PPS_RESID_LO.FRESH : Fld := ⟨0x4006, 34, 34⟩
def PPS_RESID_LO.SEQ : Fld := ⟨0x4006, 33, 26⟩
def PPS_RESID_LO.RESULT : Fld := ⟨0x4006, 25, 0⟩
/-- PPS_RESID_HI, index 0x4007 (R475). -/
def PPS_RESID_HI.whole : Fld := ⟨0x4007, 35, 0⟩
def PPS_RESID_HI.RESULT : Fld := ⟨0x4007, 35, 0⟩
/-- RT_SET_SEC, index 0x4008 (R475). -/
def RT_SET_SEC.whole : Fld := ⟨0x4008, 35, 0⟩
def RT_SET_SEC.ARM : Fld := ⟨0x4008, 35, 35⟩
def RT_SET_SEC.SEC : Fld := ⟨0x4008, 31, 0⟩
/-- PPS_OFFSET, index 0x4009 (R475). -/
def PPS_OFFSET.whole : Fld := ⟨0x4009, 35, 0⟩
def PPS_OFFSET.OFFSET : Fld := ⟨0x4009, 35, 0⟩
/-- RT_FREQ_ADJ, index 0x400A (R475). -/
def RT_FREQ_ADJ.whole : Fld := ⟨0x400A, 35, 0⟩
def RT_FREQ_ADJ.F : Fld := ⟨0x400A, 35, 0⟩
/-- RT_XSYNC_ERR, index 0x400B (R475). -/
def RT_XSYNC_ERR.whole : Fld := ⟨0x400B, 35, 0⟩
def RT_XSYNC_ERR.D : Fld := ⟨0x400B, 35, 0⟩
/-- RT_CTRL, index 0x400C (R475). -/
def RT_CTRL.whole : Fld := ⟨0x400C, 35, 0⟩
def RT_CTRL.DISC_EN : Fld := ⟨0x400C, 35, 35⟩
def RT_CTRL.PPS_FALL : Fld := ⟨0x400C, 34, 34⟩
def RT_CTRL.KP : Fld := ⟨0x400C, 33, 30⟩
def RT_CTRL.KI : Fld := ⟨0x400C, 29, 26⟩
def RT_CTRL.STEP_EXP : Fld := ⟨0x400C, 25, 21⟩
def RT_CTRL.PPS_WIN : Fld := ⟨0x400C, 20, 11⟩
def RT_CTRL.LOCK_TOL : Fld := ⟨0x400C, 10, 0⟩
/-- RT_STAT, index 0x400D (R475). -/
def RT_STAT.whole : Fld := ⟨0x400D, 35, 0⟩
def RT_STAT.RUN : Fld := ⟨0x400D, 35, 35⟩
def RT_STAT.SYNCED : Fld := ⟨0x400D, 34, 34⟩
def RT_STAT.UNSYNCED : Fld := ⟨0x400D, 33, 33⟩
def RT_STAT.PPS_LOCK : Fld := ⟨0x400D, 32, 32⟩
def RT_STAT.PPS_LOST : Fld := ⟨0x400D, 31, 31⟩
def RT_STAT.STEP_SEEN : Fld := ⟨0x400D, 30, 30⟩
def RT_STAT.LOAD_IGNORED : Fld := ⟨0x400D, 29, 29⟩
/-- RT_STEP_COUNT, index 0x400E (R475). -/
def RT_STEP_COUNT.whole : Fld := ⟨0x400E, 35, 0⟩
/-- PPS_REJECT, index 0x400F (R475). -/
def PPS_REJECT.whole : Fld := ⟨0x400F, 35, 0⟩
/-- SPLIT_IN_CFG, index 0x4400 + i (R475). -/
def SPLIT_IN_CFG.whole (i : Nat) : Fld := ⟨0x4400 + i, 35, 0⟩
def SPLIT_IN_CFG.THRESH (i : Nat) : Fld := ⟨0x4400 + i, 35, 24⟩
def SPLIT_IN_CFG.SLOPE (i : Nat) : Fld := ⟨0x4400 + i, 23, 22⟩
def SPLIT_IN_CFG.TERM50 (i : Nat) : Fld := ⟨0x4400 + i, 21, 21⟩
def SPLIT_IN_CFG.START (i : Nat) : Fld := ⟨0x4400 + i, 20, 20⟩
def SPLIT_IN_CFG.STOP (i : Nat) : Fld := ⟨0x4400 + i, 19, 19⟩
def SPLIT_IN_CFG.SWAP_IP (i : Nat) : Fld := ⟨0x4400 + i, 18, 18⟩
def SPLIT_IN_CFG.IP_B (i : Nat) : Fld := ⟨0x4400 + i, 17, 17⟩
/-- EVT_IN_CFG, index 0x4404 (R475). -/
def EVT_IN_CFG.whole : Fld := ⟨0x4404, 35, 0⟩
def EVT_IN_CFG.EVT_EN0 : Fld := ⟨0x4404, 35, 35⟩
def EVT_IN_CFG.SLOPE0 : Fld := ⟨0x4404, 34, 33⟩
def EVT_IN_CFG.EN_SLOPE : Fld := ⟨0x4404, 35, 28⟩
def EVT_IN_CFG.SWAP_IP : Fld := ⟨0x4404, 27, 24⟩
def EVT_IN_CFG.IP_B : Fld := ⟨0x4404, 23, 20⟩
/-- SPLIT_MEAS_CFG, index 0x4405 (R475). -/
def SPLIT_MEAS_CFG.whole : Fld := ⟨0x4405, 35, 0⟩
def SPLIT_MEAS_CFG.MEAS_EN : Fld := ⟨0x4405, 35, 35⟩
def SPLIT_MEAS_CFG.RESTART_ON_START : Fld := ⟨0x4405, 34, 34⟩
def SPLIT_MEAS_CFG.NSTOP_M1 : Fld := ⟨0x4405, 33, 30⟩
/-- SPLIT_WINDOW, index 0x4406 (R475). -/
def SPLIT_WINDOW.whole : Fld := ⟨0x4406, 35, 0⟩
def SPLIT_WINDOW.WINDOW : Fld := ⟨0x4406, 31, 0⟩
/-- SPLIT_RING_CFG, index 0x4407 (R475). -/
def SPLIT_RING_CFG.whole : Fld := ⟨0x4407, 35, 0⟩
def SPLIT_RING_CFG.HOST : Fld := ⟨0x4407, 35, 35⟩
def SPLIT_RING_CFG.HOST_DENSE : Fld := ⟨0x4407, 34, 34⟩
def SPLIT_RING_CFG.LOG2LEN : Fld := ⟨0x4407, 33, 29⟩
/-- SPLIT_BASE_LO, index 0x4408 (R475). -/
def SPLIT_BASE_LO.whole : Fld := ⟨0x4408, 35, 0⟩
def SPLIT_BASE_LO.BASE : Fld := ⟨0x4408, 35, 0⟩
/-- SPLIT_BASE_HI, index 0x4409 (R475). -/
def SPLIT_BASE_HI.whole : Fld := ⟨0x4409, 35, 0⟩
def SPLIT_BASE_HI.BASE : Fld := ⟨0x4409, 35, 0⟩
/-- SPLIT_WP, index 0x440A (R475). -/
def SPLIT_WP.whole : Fld := ⟨0x440A, 35, 0⟩
def SPLIT_WP.WP : Fld := ⟨0x440A, 35, 0⟩
/-- SPLIT_RP, index 0x440B (R475). -/
def SPLIT_RP.whole : Fld := ⟨0x440B, 35, 0⟩
def SPLIT_RP.RP : Fld := ⟨0x440B, 35, 0⟩
/-- SPLIT_MEAS_RESULT, index 0x440C (R475). -/
def SPLIT_MEAS_RESULT.whole : Fld := ⟨0x440C, 35, 0⟩
def SPLIT_MEAS_RESULT.VALID : Fld := ⟨0x440C, 35, 35⟩
def SPLIT_MEAS_RESULT.FRESH : Fld := ⟨0x440C, 34, 34⟩
def SPLIT_MEAS_RESULT.SEQ : Fld := ⟨0x440C, 33, 26⟩
def SPLIT_MEAS_RESULT.RESULT : Fld := ⟨0x440C, 25, 0⟩
/-- SPLIT_STAT, index 0x440D (R475). -/
def SPLIT_STAT.whole : Fld := ⟨0x440D, 35, 0⟩
def SPLIT_STAT.WINDOW_OPEN : Fld := ⟨0x440D, 35, 35⟩
def SPLIT_STAT.INVALID : Fld := ⟨0x440D, 34, 34⟩
def SPLIT_STAT.DROP_SEEN : Fld := ⟨0x440D, 33, 33⟩
def SPLIT_STAT.CFG_IGNORED : Fld := ⟨0x440D, 32, 32⟩
/-- SPLIT_ORPHAN, index 0x440E (R475). -/
def SPLIT_ORPHAN.whole : Fld := ⟨0x440E, 35, 0⟩
/-- SPLIT_START_IGN, index 0x440F (R475). -/
def SPLIT_START_IGN.whole : Fld := ⟨0x440F, 35, 0⟩
/-- SPLIT_TOO_CLOSE, index 0x4410 (R475). -/
def SPLIT_TOO_CLOSE.whole : Fld := ⟨0x4410, 35, 0⟩
/-- SPLIT_DEAD, index 0x4411 (R475). -/
def SPLIT_DEAD.whole : Fld := ⟨0x4411, 35, 0⟩
/-- SPLIT_RING_DROP, index 0x4412 (R475). -/
def SPLIT_RING_DROP.whole : Fld := ⟨0x4412, 35, 0⟩
/-- FAULT_CFG, index 0x5000 (R475). -/
def FAULT_CFG.whole : Fld := ⟨0x5000, 35, 0⟩
def FAULT_CFG.EVT_MIN : Fld := ⟨0x5000, 35, 33⟩
def FAULT_CFG.FIRST_MIN : Fld := ⟨0x5000, 32, 30⟩
def FAULT_CFG.INJ_FATAL : Fld := ⟨0x5000, 29, 29⟩
/-- FAULT_STAT, index 0x5001 (R475). -/
def FAULT_STAT.whole : Fld := ⟨0x5001, 35, 0⟩
def FAULT_STAT.FIRST_VALID : Fld := ⟨0x5001, 35, 35⟩
def FAULT_STAT.WORST : Fld := ⟨0x5001, 34, 32⟩
def FAULT_STAT.SIDE_FATAL : Fld := ⟨0x5001, 31, 31⟩
def FAULT_STAT.DEV_FATAL : Fld := ⟨0x5001, 30, 30⟩
def FAULT_STAT.WD_EXPIRED : Fld := ⟨0x5001, 29, 29⟩
def FAULT_STAT.OUT_OVF : Fld := ⟨0x5001, 28, 28⟩
def FAULT_STAT.ACK_STALE : Fld := ⟨0x5001, 27, 27⟩
def FAULT_STAT.INJ_FIRED : Fld := ⟨0x5001, 26, 26⟩
def FAULT_STAT.INJ_REFUSED : Fld := ⟨0x5001, 25, 25⟩
def FAULT_STAT.ALIVE_RUN : Fld := ⟨0x5001, 24, 24⟩
def FAULT_STAT.FAULT_N : Fld := ⟨0x5001, 23, 23⟩
def FAULT_STAT.OUT_COUNT : Fld := ⟨0x5001, 22, 16⟩
/-- FAULT_ACK, index 0x5002 (R475). -/
def FAULT_ACK.whole : Fld := ⟨0x5002, 35, 0⟩
def FAULT_ACK.TARGET : Fld := ⟨0x5002, 35, 35⟩
def FAULT_ACK.SEQ : Fld := ⟨0x5002, 29, 16⟩
def FAULT_ACK.SRC : Fld := ⟨0x5002, 15, 0⟩
/-- FAULT_INJ, index 0x5003 (R475). -/
def FAULT_INJ.whole : Fld := ⟨0x5003, 35, 0⟩
def FAULT_INJ.MODE : Fld := ⟨0x5003, 35, 34⟩
def FAULT_INJ.RAIL : Fld := ⟨0x5003, 33, 33⟩
def FAULT_INJ.SRC : Fld := ⟨0x5003, 31, 16⟩
def FAULT_INJ.CHK : Fld := ⟨0x5003, 15, 8⟩
/-- FAULT_SUMMARY, index 0x5004 (R475). -/
def FAULT_SUMMARY.whole : Fld := ⟨0x5004, 35, 0⟩
def FAULT_SUMMARY.STROKE : Fld := ⟨0x5004, 35, 18⟩
def FAULT_SUMMARY.BOW : Fld := ⟨0x5004, 17, 0⟩
/-- FAULT_HIST_WP, index 0x5005 (R475). -/
def FAULT_HIST_WP.whole : Fld := ⟨0x5005, 35, 0⟩
/-- FAULT_CNT_CORR, index 0x5006 (R475). -/
def FAULT_CNT_CORR.whole : Fld := ⟨0x5006, 35, 0⟩
/-- FAULT_CNT_DEF, index 0x5007 (R475). -/
def FAULT_CNT_DEF.whole : Fld := ⟨0x5007, 35, 0⟩
/-- FAULT_CNT_CONT, index 0x5008 (R475). -/
def FAULT_CNT_CONT.whole : Fld := ⟨0x5008, 35, 0⟩
/-- FAULT_CNT_WIRE, index 0x5009 (R475). -/
def FAULT_CNT_WIRE.whole : Fld := ⟨0x5009, 35, 0⟩
/-- FAULT_LOST, index 0x500A (R475). -/
def FAULT_LOST.whole : Fld := ⟨0x500A, 35, 0⟩
/-- FAULT_FIRST_LO, index 0x500C (R475). -/
def FAULT_FIRST_LO.whole : Fld := ⟨0x500C, 35, 0⟩
/-- FAULT_FIRST_HI, index 0x500D (R475). -/
def FAULT_FIRST_HI.whole : Fld := ⟨0x500D, 35, 0⟩
/-- FAULT_FIRST_W2, index 0x500E (R475). -/
def FAULT_FIRST_W2.whole : Fld := ⟨0x500E, 35, 0⟩
def FAULT_FIRST_W2.CLASS : Fld := ⟨0x500E, 35, 33⟩
def FAULT_FIRST_W2.WIRE : Fld := ⟨0x500E, 32, 32⟩
def FAULT_FIRST_W2.INJ : Fld := ⟨0x500E, 31, 31⟩
def FAULT_FIRST_W2.OTHER : Fld := ⟨0x500E, 30, 30⟩
def FAULT_FIRST_W2.SEQ : Fld := ⟨0x500E, 29, 16⟩
def FAULT_FIRST_W2.SRC : Fld := ⟨0x500E, 15, 0⟩
/-- FAULT_FIRST_W3, index 0x500F (R475). -/
def FAULT_FIRST_W3.whole : Fld := ⟨0x500F, 35, 0⟩
def FAULT_FIRST_W3.SYNDROME : Fld := ⟨0x500F, 35, 0⟩
/-- FAULT_OUT, index 0x5040 + i (R475). -/
def FAULT_OUT.whole (i : Nat) : Fld := ⟨0x5040 + i, 35, 0⟩
def FAULT_OUT.VALID (i : Nat) : Fld := ⟨0x5040 + i, 35, 35⟩
def FAULT_OUT.CLASS (i : Nat) : Fld := ⟨0x5040 + i, 34, 32⟩
def FAULT_OUT.SEQ (i : Nat) : Fld := ⟨0x5040 + i, 29, 16⟩
def FAULT_OUT.SRC (i : Nat) : Fld := ⟨0x5040 + i, 15, 0⟩
/-- FAULT_HIST_LO, index 0x5080 + 0x4 * i (R475). -/
def FAULT_HIST_LO.whole (i : Nat) : Fld := ⟨0x5080 + 0x4 * i, 35, 0⟩
/-- FAULT_HIST_HI, index 0x5081 + 0x4 * i (R475). -/
def FAULT_HIST_HI.whole (i : Nat) : Fld := ⟨0x5081 + 0x4 * i, 35, 0⟩
/-- FAULT_HIST_W2, index 0x5082 + 0x4 * i (R475). -/
def FAULT_HIST_W2.whole (i : Nat) : Fld := ⟨0x5082 + 0x4 * i, 35, 0⟩
/-- FAULT_HIST_W3, index 0x5083 + 0x4 * i (R475). -/
def FAULT_HIST_W3.whole (i : Nat) : Fld := ⟨0x5083 + 0x4 * i, 35, 0⟩
/-- PLLF_CFG, index 0x6000 (R475). -/
def PLLF_CFG.whole : Fld := ⟨0x6000, 35, 0⟩
def PLLF_CFG.SS_MODE : Fld := ⟨0x6000, 35, 34⟩
def PLLF_CFG.SS_DEPTH : Fld := ⟨0x6000, 33, 30⟩
def PLLF_CFG.FAB_MHZ : Fld := ⟨0x6000, 29, 19⟩
/-- PLLT_CFG, index 0x6001 (R475). -/
def PLLT_CFG.whole : Fld := ⟨0x6001, 35, 0⟩
def PLLT_CFG.T_MULT : Fld := ⟨0x6001, 35, 32⟩
/-- PLL_LOCK_CFG, index 0x6002 (R475). -/
def PLL_LOCK_CFG.whole : Fld := ⟨0x6002, 35, 0⟩
def PLL_LOCK_CFG.REF100 : Fld := ⟨0x6002, 35, 35⟩
def PLL_LOCK_CFG.WIN_M : Fld := ⟨0x6002, 17, 15⟩
def PLL_LOCK_CFG.NC_M : Fld := ⟨0x6002, 14, 12⟩
def PLL_LOCK_CFG.WIN_T : Fld := ⟨0x6002, 11, 9⟩
def PLL_LOCK_CFG.NC_T : Fld := ⟨0x6002, 8, 6⟩
def PLL_LOCK_CFG.WIN_F : Fld := ⟨0x6002, 5, 3⟩
def PLL_LOCK_CFG.NC_F : Fld := ⟨0x6002, 2, 0⟩
/-- PLL_COMMIT, index 0x6003 (R475). -/
def PLL_COMMIT.whole : Fld := ⟨0x6003, 35, 0⟩
def PLL_COMMIT.F : Fld := ⟨0x6003, 35, 35⟩
def PLL_COMMIT.T : Fld := ⟨0x6003, 34, 34⟩
/-- PLL_STAT, index 0x6004 (R475). -/
def PLL_STAT.whole : Fld := ⟨0x6004, 35, 0⟩
def PLL_STAT.F_LOCK : Fld := ⟨0x6004, 35, 35⟩
def PLL_STAT.F_COAST : Fld := ⟨0x6004, 34, 34⟩
def PLL_STAT.F_STEPPING : Fld := ⟨0x6004, 33, 33⟩
def PLL_STAT.T_LOCK : Fld := ⟨0x6004, 32, 32⟩
def PLL_STAT.M_LOCK : Fld := ⟨0x6004, 31, 31⟩
def PLL_STAT.M_COAST : Fld := ⟨0x6004, 30, 30⟩
def PLL_STAT.REF_LOST : Fld := ⟨0x6004, 29, 29⟩
def PLL_STAT.PEND_F : Fld := ⟨0x6004, 28, 28⟩
def PLL_STAT.PEND_T : Fld := ⟨0x6004, 27, 27⟩
def PLL_STAT.LOSS_SEEN : Fld := ⟨0x6004, 26, 26⟩
def PLL_STAT.FAB_ACTIVE : Fld := ⟨0x6004, 25, 15⟩
def PLL_STAT.T_ACTIVE : Fld := ⟨0x6004, 14, 11⟩
/-- PLL_CHANGE_STAT, index 0x6005 (R475). -/
def PLL_CHANGE_STAT.whole : Fld := ⟨0x6005, 35, 0⟩
def PLL_CHANGE_STAT.STATUS_F : Fld := ⟨0x6005, 35, 20⟩
def PLL_CHANGE_STAT.STATUS_T : Fld := ⟨0x6005, 19, 4⟩
/-- PLL_LOSS_COUNT, index 0x6006 (R475). -/
def PLL_LOSS_COUNT.whole : Fld := ⟨0x6006, 35, 0⟩
/-- JESD_CFG, index 0x7000 + 0x100 * i (R475). -/
def JESD_CFG.whole (i : Nat) : Fld := ⟨0x7000 + 0x100 * i, 35, 0⟩
def JESD_CFG.LINK_EN (i : Nat) : Fld := ⟨0x7000 + 0x100 * i, 35, 35⟩
def JESD_CFG.L_CODE (i : Nat) : Fld := ⟨0x7000 + 0x100 * i, 34, 33⟩
def JESD_CFG.CPLX (i : Nat) : Fld := ⟨0x7000 + 0x100 * i, 32, 32⟩
def JESD_CFG.NP16 (i : Nat) : Fld := ⟨0x7000 + 0x100 * i, 31, 31⟩
def JESD_CFG.E_M1 (i : Nat) : Fld := ⟨0x7000 + 0x100 * i, 30, 29⟩
def JESD_CFG.SYSREF_MODE (i : Nat) : Fld := ⟨0x7000 + 0x100 * i, 28, 27⟩
def JESD_CFG.RBD (i : Nat) : Fld := ⟨0x7000 + 0x100 * i, 26, 20⟩
def JESD_CFG.LANE_RATE (i : Nat) : Fld := ⟨0x7000 + 0x100 * i, 19, 5⟩
/-- JESD_LANE_MAP, index 0x7001 + 0x100 * i (R475). -/
def JESD_LANE_MAP.whole (i : Nat) : Fld := ⟨0x7001 + 0x100 * i, 35, 0⟩
def JESD_LANE_MAP.POL_INV (i : Nat) : Fld := ⟨0x7001 + 0x100 * i, 31, 24⟩
def JESD_LANE_MAP.MAP (i : Nat) : Fld := ⟨0x7001 + 0x100 * i, 23, 0⟩
/-- JESD_STAT, index 0x7002 + 0x100 * i (R475). -/
def JESD_STAT.whole (i : Nat) : Fld := ⟨0x7002 + 0x100 * i, 35, 0⟩
def JESD_STAT.LINK_UP (i : Nat) : Fld := ⟨0x7002 + 0x100 * i, 35, 35⟩
def JESD_STAT.ALIGNED (i : Nat) : Fld := ⟨0x7002 + 0x100 * i, 34, 34⟩
def JESD_STAT.CFG_ERR (i : Nat) : Fld := ⟨0x7002 + 0x100 * i, 33, 33⟩
def JESD_STAT.SYSREF_MISALIGN (i : Nat) : Fld := ⟨0x7002 + 0x100 * i, 32, 32⟩
def JESD_STAT.LATE_LANE (i : Nat) : Fld := ⟨0x7002 + 0x100 * i, 31, 31⟩
def JESD_STAT.LINK_LOST (i : Nat) : Fld := ⟨0x7002 + 0x100 * i, 30, 30⟩
def JESD_STAT.CFG_LOCKED (i : Nat) : Fld := ⟨0x7002 + 0x100 * i, 29, 29⟩
def JESD_STAT.SH_LOCK (i : Nat) : Fld := ⟨0x7002 + 0x100 * i, 23, 16⟩
def JESD_STAT.EMB_LOCK (i : Nat) : Fld := ⟨0x7002 + 0x100 * i, 15, 8⟩
def JESD_STAT.CRC_SEEN (i : Nat) : Fld := ⟨0x7002 + 0x100 * i, 7, 0⟩
/-- JESD_LEMC_INFO, index 0x7003 + 0x100 * i (R475). -/
def JESD_LEMC_INFO.whole (i : Nat) : Fld := ⟨0x7003 + 0x100 * i, 35, 0⟩
def JESD_LEMC_INFO.CYCLES (i : Nat) : Fld := ⟨0x7003 + 0x100 * i, 35, 18⟩
def JESD_LEMC_INFO.SAMPLES (i : Nat) : Fld := ⟨0x7003 + 0x100 * i, 17, 0⟩
/-- FE_ORIGIN_LO, index 0x7004 + 0x100 * i (R475). -/
def FE_ORIGIN_LO.whole (i : Nat) : Fld := ⟨0x7004 + 0x100 * i, 35, 0⟩
/-- FE_ORIGIN_HI, index 0x7005 + 0x100 * i (R475). -/
def FE_ORIGIN_HI.whole (i : Nat) : Fld := ⟨0x7005 + 0x100 * i, 35, 0⟩
/-- FE_STAT, index 0x7006 + 0x100 * i (R475). -/
def FE_STAT.whole (i : Nat) : Fld := ⟨0x7006 + 0x100 * i, 35, 0⟩
def FE_STAT.RUNNING (i : Nat) : Fld := ⟨0x7006 + 0x100 * i, 35, 35⟩
def FE_STAT.ACTIVE_BANK (i : Nat) : Fld := ⟨0x7006 + 0x100 * i, 34, 34⟩
def FE_STAT.FADING (i : Nat) : Fld := ⟨0x7006 + 0x100 * i, 33, 33⟩
def FE_STAT.PENDING (i : Nat) : Fld := ⟨0x7006 + 0x100 * i, 32, 32⟩
def FE_STAT.XF_OVERRUN (i : Nat) : Fld := ⟨0x7006 + 0x100 * i, 31, 31⟩
def FE_STAT.SAT_SEEN (i : Nat) : Fld := ⟨0x7006 + 0x100 * i, 30, 30⟩
def FE_STAT.INGEST_LOST_SEEN (i : Nat) : Fld := ⟨0x7006 + 0x100 * i, 29, 29⟩
/-- JESD_CRC_ERR, index 0x7007 + 0x100 * i (R475). -/
def JESD_CRC_ERR.whole (i : Nat) : Fld := ⟨0x7007 + 0x100 * i, 35, 0⟩
/-- JESD_LOST_EMB, index 0x7008 + 0x100 * i (R475). -/
def JESD_LOST_EMB.whole (i : Nat) : Fld := ⟨0x7008 + 0x100 * i, 35, 0⟩
/-- FE_SAT_COUNT, index 0x7009 + 0x100 * i (R475). -/
def FE_SAT_COUNT.whole (i : Nat) : Fld := ⟨0x7009 + 0x100 * i, 35, 0⟩
/-- SEAT_STAT, index 0x8000 + i (R475). -/
def SEAT_STAT.whole (i : Nat) : Fld := ⟨0x8000 + i, 35, 0⟩
def SEAT_STAT.STATE (i : Nat) : Fld := ⟨0x8000 + i, 35, 33⟩
def SEAT_STAT.CH (i : Nat) : Fld := ⟨0x8000 + i, 32, 32⟩
def SEAT_STAT.SLOT (i : Nat) : Fld := ⟨0x8000 + i, 31, 28⟩
def SEAT_STAT.RESET_SINCE (i : Nat) : Fld := ⟨0x8000 + i, 27, 27⟩
def SEAT_STAT.LAGGING (i : Nat) : Fld := ⟨0x8000 + i, 26, 26⟩
def SEAT_STAT.TRIPS (i : Nat) : Fld := ⟨0x8000 + i, 15, 0⟩
/-- XF_STAT, index 0x8100 + 0x100 * i (R475). -/
def XF_STAT.whole (i : Nat) : Fld := ⟨0x8100 + 0x100 * i, 35, 0⟩
def XF_STAT.RUNNING (i : Nat) : Fld := ⟨0x8100 + 0x100 * i, 35, 35⟩
def XF_STAT.SEATS (i : Nat) : Fld := ⟨0x8100 + 0x100 * i, 34, 31⟩
def XF_STAT.NEEDED (i : Nat) : Fld := ⟨0x8100 + 0x100 * i, 30, 27⟩
def XF_STAT.DEGRADED (i : Nat) : Fld := ⟨0x8100 + 0x100 * i, 26, 26⟩
def XF_STAT.NO_SPARE (i : Nat) : Fld := ⟨0x8100 + 0x100 * i, 25, 25⟩
def XF_STAT.VACANT (i : Nat) : Fld := ⟨0x8100 + 0x100 * i, 24, 24⟩
def XF_STAT.REPLAY_SEEN (i : Nat) : Fld := ⟨0x8100 + 0x100 * i, 23, 23⟩
def XF_STAT.FE_LOST (i : Nat) : Fld := ⟨0x8100 + 0x100 * i, 22, 22⟩
/-- XF_REPLAY_COUNT, index 0x8101 + 0x100 * i (R475). -/
def XF_REPLAY_COUNT.whole (i : Nat) : Fld := ⟨0x8101 + 0x100 * i, 35, 0⟩
/-- XF_VOID_COUNT, index 0x8102 + 0x100 * i (R475). -/
def XF_VOID_COUNT.whole (i : Nat) : Fld := ⟨0x8102 + 0x100 * i, 35, 0⟩
/-- PP_STAT, index 0x8400 + 0x100 * i (R475). -/
def PP_STAT.whole (i : Nat) : Fld := ⟨0x8400 + 0x100 * i, 35, 0⟩
def PP_STAT.RUNNING (i : Nat) : Fld := ⟨0x8400 + 0x100 * i, 35, 35⟩
def PP_STAT.XS_RUNNING (i : Nat) : Fld := ⟨0x8400 + 0x100 * i, 34, 34⟩
def PP_STAT.XS_LOST (i : Nat) : Fld := ⟨0x8400 + 0x100 * i, 33, 33⟩
def PP_STAT.XS_GAP_SEEN (i : Nat) : Fld := ⟨0x8400 + 0x100 * i, 32, 32⟩
def PP_STAT.SPG_DROP_SEEN (i : Nat) : Fld := ⟨0x8400 + 0x100 * i, 31, 31⟩
def PP_STAT.TRACE_DONE (i : Nat) : Fld := ⟨0x8400 + 0x100 * i, 30, 23⟩
/-- BAND_RESULT, index 0x8408 + 0x100 * i + 0x2 * j (R475). -/
def BAND_RESULT.whole (i j : Nat) : Fld := ⟨0x8408 + 0x100 * i + 0x2 * j, 35, 0⟩
def BAND_RESULT.VALID (i j : Nat) : Fld := ⟨0x8408 + 0x100 * i + 0x2 * j, 35, 35⟩
def BAND_RESULT.FRESH (i j : Nat) : Fld := ⟨0x8408 + 0x100 * i + 0x2 * j, 34, 34⟩
def BAND_RESULT.SEQ (i j : Nat) : Fld := ⟨0x8408 + 0x100 * i + 0x2 * j, 33, 26⟩
def BAND_RESULT.RESULT (i j : Nat) : Fld := ⟨0x8408 + 0x100 * i + 0x2 * j, 25, 0⟩
/-- MASK_VIOL, index 0x8418 + 0x100 * i + j (R475). -/
def MASK_VIOL.whole (i j : Nat) : Fld := ⟨0x8418 + 0x100 * i + j, 35, 0⟩
/-- SPG_SEQ, index 0x841C + 0x100 * i (R475). -/
def SPG_SEQ.whole (i : Nat) : Fld := ⟨0x841C + 0x100 * i, 35, 0⟩
def SPG_SEQ.SEQ (i : Nat) : Fld := ⟨0x841C + 0x100 * i, 35, 0⟩
/-- SPG_DROP, index 0x841D + 0x100 * i (R475). -/
def SPG_DROP.whole (i : Nat) : Fld := ⟨0x841D + 0x100 * i, 35, 0⟩
/-- XS_GAP, index 0x841E + 0x100 * i (R475). -/
def XS_GAP.whole (i : Nat) : Fld := ⟨0x841E + 0x100 * i, 35, 0⟩
/-- DENS_STAT, index 0x8600 + 0x100 * i (R475). -/
def DENS_STAT.whole (i : Nat) : Fld := ⟨0x8600 + 0x100 * i, 35, 0⟩
def DENS_STAT.RUNNING (i : Nat) : Fld := ⟨0x8600 + 0x100 * i, 35, 35⟩
def DENS_STAT.HELD_BUF (i : Nat) : Fld := ⟨0x8600 + 0x100 * i, 34, 34⟩
def DENS_STAT.SAT_SEEN (i : Nat) : Fld := ⟨0x8600 + 0x100 * i, 33, 33⟩
def DENS_STAT.OVERRUN_SEEN (i : Nat) : Fld := ⟨0x8600 + 0x100 * i, 32, 32⟩
def DENS_STAT.COPYING (i : Nat) : Fld := ⟨0x8600 + 0x100 * i, 31, 31⟩
def DENS_STAT.TH (i : Nat) : Fld := ⟨0x8600 + 0x100 * i, 30, 23⟩
def DENS_STAT.NC (i : Nat) : Fld := ⟨0x8600 + 0x100 * i, 12, 0⟩
/-- DENS_SEQ, index 0x8601 + 0x100 * i (R475). -/
def DENS_SEQ.whole (i : Nat) : Fld := ⟨0x8601 + 0x100 * i, 35, 0⟩
def DENS_SEQ.SEQ (i : Nat) : Fld := ⟨0x8601 + 0x100 * i, 35, 0⟩
/-- DENS_THINNED, index 0x8602 + 0x100 * i (R475). -/
def DENS_THINNED.whole (i : Nat) : Fld := ⟨0x8602 + 0x100 * i, 35, 0⟩
/-- DENS_VOID, index 0x8603 + 0x100 * i (R475). -/
def DENS_VOID.whole (i : Nat) : Fld := ⟨0x8603 + 0x100 * i, 35, 0⟩
/-- DENS_TEAR, index 0x8604 + 0x100 * i (R475). -/
def DENS_TEAR.whole (i : Nat) : Fld := ⟨0x8604 + 0x100 * i, 35, 0⟩
/-- STARTER_STAT, index 0x9000 (R475). -/
def STARTER_STAT.whole : Fld := ⟨0x9000, 35, 0⟩
def STARTER_STAT.RUNNING : Fld := ⟨0x9000, 35, 35⟩
def STARTER_STAT.STATE : Fld := ⟨0x9000, 34, 32⟩
def STARTER_STAT.TO_LATE : Fld := ⟨0x9000, 31, 31⟩
def STARTER_STAT.LATE_SEEN : Fld := ⟨0x9000, 30, 30⟩
def STARTER_STAT.H_NS : Fld := ⟨0x9000, 15, 0⟩
/-- STOP_INFO, index 0x9001 + i (R475). -/
def STOP_INFO.whole (i : Nat) : Fld := ⟨0x9001 + i, 35, 0⟩
def STOP_INFO.FIRED (i : Nat) : Fld := ⟨0x9001 + i, 35, 35⟩
def STOP_INFO.MASK (i : Nat) : Fld := ⟨0x9001 + i, 34, 33⟩
def STOP_INFO.BFIRST (i : Nat) : Fld := ⟨0x9001 + i, 32, 17⟩
def STOP_INFO.NV (i : Nat) : Fld := ⟨0x9001 + i, 16, 0⟩
/-- STOP_TIME_LO, index 0x9004 + 0x2 * i (R475). -/
def STOP_TIME_LO.whole (i : Nat) : Fld := ⟨0x9004 + 0x2 * i, 35, 0⟩
/-- STOP_TIME_HI, index 0x9005 + 0x2 * i (R475). -/
def STOP_TIME_HI.whole (i : Nat) : Fld := ⟨0x9005 + 0x2 * i, 35, 0⟩
/-- STARTER_CNT, index 0x9008 + i (R475). -/
def STARTER_CNT.whole (i : Nat) : Fld := ⟨0x9008 + i, 35, 0⟩
/-- FILL_IGNORED, index 0x900C + i (R475). -/
def FILL_IGNORED.whole (i : Nat) : Fld := ⟨0x900C + i, 35, 0⟩
/-- MISSED, index 0x900E + i (R475). -/
def MISSED.whole (i : Nat) : Fld := ⟨0x900E + i, 35, 0⟩
/-- LATE_OCC, index 0x9010 (R475). -/
def LATE_OCC.whole : Fld := ⟨0x9010, 35, 0⟩
/-- DTRIG_REJECT, index 0x9011 (R475). -/
def DTRIG_REJECT.whole : Fld := ⟨0x9011, 35, 0⟩
/-- DTRIG_SOLO, index 0x9012 (R475). -/
def DTRIG_SOLO.whole : Fld := ⟨0x9012, 35, 0⟩
/-- ACQ_STAT, index 0x9020 + i (R475). -/
def ACQ_STAT.whole (i : Nat) : Fld := ⟨0x9020 + i, 35, 0⟩
def ACQ_STAT.ARMED (i : Nat) : Fld := ⟨0x9020 + i, 35, 35⟩
def ACQ_STAT.DONE (i : Nat) : Fld := ⟨0x9020 + i, 34, 34⟩
def ACQ_STAT.IN_POST (i : Nat) : Fld := ⟨0x9020 + i, 33, 33⟩
def ACQ_STAT.DRAIN (i : Nat) : Fld := ⟨0x9020 + i, 32, 32⟩
def ACQ_STAT.TRUNC_SEEN (i : Nat) : Fld := ⟨0x9020 + i, 31, 31⟩
def ACQ_STAT.POISON_SEEN (i : Nat) : Fld := ⟨0x9020 + i, 30, 30⟩
def ACQ_STAT.SEGS (i : Nat) : Fld := ⟨0x9020 + i, 16, 0⟩
/-- ACQ_RECNUM, index 0x9022 + i (R475). -/
def ACQ_RECNUM.whole (i : Nat) : Fld := ⟨0x9022 + i, 35, 0⟩
def ACQ_RECNUM.RECNUM (i : Nat) : Fld := ⟨0x9022 + i, 35, 0⟩
/-- ACQ_LIMIT, index 0x9024 (R475). -/
def ACQ_LIMIT.whole : Fld := ⟨0x9024, 35, 0⟩
def ACQ_LIMIT.MWPS : Fld := ⟨0x9024, 35, 0⟩
/-- STREAM_STAT, index 0x9040 + i (R475). -/
def STREAM_STAT.whole (i : Nat) : Fld := ⟨0x9040 + i, 35, 0⟩
def STREAM_STAT.BOUND (i : Nat) : Fld := ⟨0x9040 + i, 35, 35⟩
def STREAM_STAT.SOURCE (i : Nat) : Fld := ⟨0x9040 + i, 34, 31⟩
def STREAM_STAT.SPILLING (i : Nat) : Fld := ⟨0x9040 + i, 30, 30⟩
def STREAM_STAT.GAP_SEEN (i : Nat) : Fld := ⟨0x9040 + i, 29, 29⟩
def STREAM_STAT.SRC_STOPPED (i : Nat) : Fld := ⟨0x9040 + i, 28, 28⟩
def STREAM_STAT.SMALL_SEEN (i : Nat) : Fld := ⟨0x9040 + i, 27, 27⟩
/-- STREAM_SEQ, index 0x9050 + i (R475). -/
def STREAM_SEQ.whole (i : Nat) : Fld := ⟨0x9050 + i, 35, 0⟩
def STREAM_SEQ.SEQ (i : Nat) : Fld := ⟨0x9050 + i, 35, 0⟩
/-- STREAM_LOST, index 0x9060 + i (R475). -/
def STREAM_LOST.whole (i : Nat) : Fld := ⟨0x9060 + i, 35, 0⟩
/-- STREAM_SPILL, index 0x9070 + i (R475). -/
def STREAM_SPILL.whole (i : Nat) : Fld := ⟨0x9070 + i, 35, 0⟩
def STREAM_SPILL.WORDS (i : Nat) : Fld := ⟨0x9070 + i, 35, 0⟩
/-- DRAM_CFG, index 0xA000 (R475). -/
def DRAM_CFG.whole : Fld := ⟨0xA000, 35, 0⟩
def DRAM_CFG.RATE : Fld := ⟨0xA000, 35, 33⟩
def DRAM_CFG.ALT_RATE : Fld := ⟨0xA000, 32, 30⟩
def DRAM_CFG.ALT_SEL : Fld := ⟨0xA000, 29, 29⟩
def DRAM_CFG.MEMDOWN : Fld := ⟨0xA000, 28, 28⟩
def DRAM_CFG.RANKS2 : Fld := ⟨0xA000, 27, 27⟩
def DRAM_CFG.X8 : Fld := ⟨0xA000, 26, 26⟩
def DRAM_CFG.D32 : Fld := ⟨0xA000, 25, 25⟩
def DRAM_CFG.POP : Fld := ⟨0xA000, 24, 21⟩
def DRAM_CFG.NSUB : Fld := ⟨0xA000, 20, 17⟩
/-- DRAM_MAP, index 0xA001 (R475). -/
def DRAM_MAP.whole : Fld := ⟨0xA001, 35, 0⟩
def DRAM_MAP.GRAIN_LOG2 : Fld := ⟨0xA001, 35, 32⟩
def DRAM_MAP.ORDER : Fld := ⟨0xA001, 31, 30⟩
def DRAM_MAP.HASH : Fld := ⟨0xA001, 29, 29⟩
/-- DRAM_LP_CTRL, index 0xA002 (R475). -/
def DRAM_LP_CTRL.whole : Fld := ⟨0xA002, 35, 0⟩
def DRAM_LP_CTRL.SR_REQ : Fld := ⟨0xA002, 35, 32⟩
def DRAM_LP_CTRL.FC_REQ : Fld := ⟨0xA002, 31, 31⟩
def DRAM_LP_CTRL.LP_REFUSED : Fld := ⟨0xA002, 30, 30⟩
def DRAM_LP_CTRL.FC_DONE : Fld := ⟨0xA002, 29, 29⟩
/-- DRAM_MAPOUT, index 0xA003 (R475). -/
def DRAM_MAPOUT.whole : Fld := ⟨0xA003, 35, 0⟩
def DRAM_MAPOUT.GO : Fld := ⟨0xA003, 35, 35⟩
def DRAM_MAPOUT.BUSY : Fld := ⟨0xA003, 34, 34⟩
def DRAM_MAPOUT.DONE : Fld := ⟨0xA003, 33, 33⟩
def DRAM_MAPOUT.REFUSED : Fld := ⟨0xA003, 32, 32⟩
def DRAM_MAPOUT.MASK : Fld := ⟨0xA003, 31, 28⟩
def DRAM_MAPOUT.KEEP_OUT : Fld := ⟨0xA003, 27, 24⟩
def DRAM_MAPOUT.CAUSE : Fld := ⟨0xA003, 23, 20⟩
/-- DRAM_STAT, index 0xA004 + i (R475). -/
def DRAM_STAT.whole (i : Nat) : Fld := ⟨0xA004 + i, 35, 0⟩
def DRAM_STAT.TRAINED (i : Nat) : Fld := ⟨0xA004 + i, 35, 35⟩
def DRAM_STAT.MAPPED_OUT (i : Nat) : Fld := ⟨0xA004 + i, 34, 34⟩
def DRAM_STAT.SR (i : Nat) : Fld := ⟨0xA004 + i, 33, 33⟩
def DRAM_STAT.REF2X (i : Nat) : Fld := ⟨0xA004 + i, 32, 32⟩
def DRAM_STAT.OWED0 (i : Nat) : Fld := ⟨0xA004 + i, 31, 28⟩
def DRAM_STAT.OWED1 (i : Nat) : Fld := ⟨0xA004 + i, 27, 24⟩
def DRAM_STAT.WORST_MARGIN (i : Nat) : Fld := ⟨0xA004 + i, 23, 18⟩
def DRAM_STAT.OUT_CAUSE (i : Nat) : Fld := ⟨0xA004 + i, 17, 14⟩
/-- DRAM_PANIC, index 0xA008 + i (R475). -/
def DRAM_PANIC.whole (i : Nat) : Fld := ⟨0xA008 + i, 35, 0⟩
def DRAM_PANIC.ON (i : Nat) : Fld := ⟨0xA008 + i, 35, 18⟩
def DRAM_PANIC.OFF (i : Nat) : Fld := ⟨0xA008 + i, 17, 0⟩
/-- DRAM_CORR, index 0xA010 + i (R475). -/
def DRAM_CORR.whole (i : Nat) : Fld := ⟨0xA010 + i, 35, 0⟩
/-- DRAM_UNCORR, index 0xA014 + i (R475). -/
def DRAM_UNCORR.whole (i : Nat) : Fld := ⟨0xA014 + i, 35, 0⟩
/-- DRAM_REF_DEFICIT, index 0xA018 (R475). -/
def DRAM_REF_DEFICIT.whole : Fld := ⟨0xA018, 35, 0⟩
/-- DRAM_BURST_BREAK, index 0xA019 (R475). -/
def DRAM_BURST_BREAK.whole : Fld := ⟨0xA019, 35, 0⟩
/-- ACQ_WB_OVF, index 0xA01A + i (R475). -/
def ACQ_WB_OVF.whole (i : Nat) : Fld := ⟨0xA01A + i, 35, 0⟩
/-- SCRUB_CFG, index 0xB000 (R475). -/
def SCRUB_CFG.whole : Fld := ⟨0xB000, 35, 0⟩
def SCRUB_CFG.SRAM_EN : Fld := ⟨0xB000, 35, 35⟩
def SCRUB_CFG.DRAM_EN : Fld := ⟨0xB000, 34, 34⟩
def SCRUB_CFG.AUTO_REPAIR : Fld := ⟨0xB000, 33, 33⟩
def SCRUB_CFG.SRAM_PERIOD : Fld := ⟨0xB000, 31, 16⟩
def SCRUB_CFG.DRAM_PERIOD : Fld := ⟨0xB000, 15, 0⟩
/-- SCRUB_STAT, index 0xB001 (R475). -/
def SCRUB_STAT.whole : Fld := ⟨0xB001, 35, 0⟩
def SCRUB_STAT.SRAM_PASSES : Fld := ⟨0xB001, 35, 18⟩
def SCRUB_STAT.DRAM_PASSES : Fld := ⟨0xB001, 17, 2⟩
def SCRUB_STAT.SR_SKIP : Fld := ⟨0xB001, 1, 1⟩
def SCRUB_STAT.BEHIND : Fld := ⟨0xB001, 0, 0⟩
/-- POISON_ADDR_LO, index 0xB002 (R475). -/
def POISON_ADDR_LO.whole : Fld := ⟨0xB002, 35, 0⟩
def POISON_ADDR_LO.ADDR_LO : Fld := ⟨0xB002, 35, 0⟩
/-- POISON_ADDR_HI, index 0xB003 (R475). -/
def POISON_ADDR_HI.whole : Fld := ⟨0xB003, 35, 0⟩
def POISON_ADDR_HI.VALID : Fld := ⟨0xB003, 35, 35⟩
def POISON_ADDR_HI.ADDR_HI : Fld := ⟨0xB003, 7, 0⟩
/-- SRAM_REPAIR_REQ, index 0xB004 (R475). -/
def SRAM_REPAIR_REQ.whole : Fld := ⟨0xB004, 35, 0⟩
def SRAM_REPAIR_REQ.GO : Fld := ⟨0xB004, 35, 35⟩
def SRAM_REPAIR_REQ.BANK : Fld := ⟨0xB004, 34, 26⟩
def SRAM_REPAIR_REQ.ROW : Fld := ⟨0xB004, 25, 12⟩
/-- SRAM_REPAIR_STAT, index 0xB005 (R475). -/
def SRAM_REPAIR_STAT.whole : Fld := ⟨0xB005, 35, 0⟩
def SRAM_REPAIR_STAT.BUSY : Fld := ⟨0xB005, 35, 35⟩
def SRAM_REPAIR_STAT.SPARES_OUT : Fld := ⟨0xB005, 34, 34⟩
def SRAM_REPAIR_STAT.REFUSED : Fld := ⟨0xB005, 33, 33⟩
def SRAM_REPAIR_STAT.LAST_BANK : Fld := ⟨0xB005, 32, 24⟩
def SRAM_REPAIR_STAT.LAST_ROW : Fld := ⟨0xB005, 23, 10⟩
/-- SRAM_CORR, index 0xB006 (R475). -/
def SRAM_CORR.whole : Fld := ⟨0xB006, 35, 0⟩
/-- SRAM_UNCORR, index 0xB007 (R475). -/
def SRAM_UNCORR.whole : Fld := ⟨0xB007, 35, 0⟩
/-- POISON_COUNT, index 0xB008 (R475). -/
def POISON_COUNT.whole : Fld := ⟨0xB008, 35, 0⟩
/-- SRAM_DENS_ZERO, index 0xB009 (R475). -/
def SRAM_DENS_ZERO.whole : Fld := ⟨0xB009, 35, 0⟩
/-- SRAM_REPAIR_COUNT, index 0xB00A (R475). -/
def SRAM_REPAIR_COUNT.whole : Fld := ⟨0xB00A, 35, 0⟩
/-- COXCORE_STAT, index 0xC000 + i (R475). -/
def COXCORE_STAT.whole (i : Nat) : Fld := ⟨0xC000 + i, 35, 0⟩
def COXCORE_STAT.STATE (i : Nat) : Fld := ⟨0xC000 + i, 35, 34⟩
def COXCORE_STAT.SW_PEND (i : Nat) : Fld := ⟨0xC000 + i, 33, 33⟩
def COXCORE_STAT.BANK (i : Nat) : Fld := ⟨0xC000 + i, 32, 32⟩
def COXCORE_STAT.CTX (i : Nat) : Fld := ⟨0xC000 + i, 31, 31⟩
def COXCORE_STAT.HALT_CAUSE (i : Nat) : Fld := ⟨0xC000 + i, 30, 27⟩
def COXCORE_STAT.SAT (i : Nat) : Fld := ⟨0xC000 + i, 26, 26⟩
def COXCORE_STAT.GOV (i : Nat) : Fld := ⟨0xC000 + i, 25, 25⟩
def COXCORE_STAT.PSN (i : Nat) : Fld := ⟨0xC000 + i, 24, 24⟩
def COXCORE_STAT.PC (i : Nat) : Fld := ⟨0xC000 + i, 12, 0⟩
/-- COXCORE_MBOX_IN, index 0xC004 + i (R475). -/
def COXCORE_MBOX_IN.whole (i : Nat) : Fld := ⟨0xC004 + i, 35, 0⟩
/-- COXCORE_MBOX_OUT, index 0xC008 + i (R475). -/
def COXCORE_MBOX_OUT.whole (i : Nat) : Fld := ⟨0xC008 + i, 35, 0⟩
/-- TONE_CFG, index 0xD000 (R475). -/
def TONE_CFG.whole : Fld := ⟨0xD000, 35, 0⟩
def TONE_CFG.EN0 : Fld := ⟨0xD000, 35, 35⟩
def TONE_CFG.EN1 : Fld := ⟨0xD000, 34, 34⟩
def TONE_CFG.LDSTB_EN : Fld := ⟨0xD000, 33, 33⟩
def TONE_CFG.STB_EVT : Fld := ⟨0xD000, 32, 32⟩
/-- TONE_STAT, index 0xD001 + i (R475). -/
def TONE_STAT.whole (i : Nat) : Fld := ⟨0xD001 + i, 35, 0⟩
def TONE_STAT.LIVE (i : Nat) : Fld := ⟨0xD001 + i, 35, 35⟩
def TONE_STAT.STAGED (i : Nat) : Fld := ⟨0xD001 + i, 34, 34⟩
def TONE_STAT.MODE (i : Nat) : Fld := ⟨0xD001 + i, 33, 32⟩
def TONE_STAT.RANGE_SETTLING (i : Nat) : Fld := ⟨0xD001 + i, 31, 31⟩
def TONE_STAT.MUTED_PLL (i : Nat) : Fld := ⟨0xD001 + i, 30, 30⟩
def TONE_STAT.SAT_SEEN (i : Nat) : Fld := ⟨0xD001 + i, 29, 29⟩
def TONE_STAT.UNDERRUN_SEEN (i : Nat) : Fld := ⟨0xD001 + i, 28, 28⟩
def TONE_STAT.PSN_SEEN (i : Nat) : Fld := ⟨0xD001 + i, 27, 27⟩
def TONE_STAT.RANGE (i : Nat) : Fld := ⟨0xD001 + i, 7, 0⟩
/-- TONE_LAST_STB_LO, index 0xD004 (R475). -/
def TONE_LAST_STB_LO.whole : Fld := ⟨0xD004, 35, 0⟩
/-- TONE_LAST_STB_HI, index 0xD005 (R475). -/
def TONE_LAST_STB_HI.whole : Fld := ⟨0xD005, 35, 0⟩
/-- TONE_UNDERRUN, index 0xD006 + i (R475). -/
def TONE_UNDERRUN.whole (i : Nat) : Fld := ⟨0xD006 + i, 35, 0⟩
/-- TONE_STB_DISCARD, index 0xD008 (R475). -/
def TONE_STB_DISCARD.whole : Fld := ⟨0xD008, 35, 0⟩
/-- MON_CFG, index 0xE000 (R475). -/
def MON_CFG.whole : Fld := ⟨0xE000, 35, 0⟩
def MON_CFG.DEC_LOG2 : Fld := ⟨0xE000, 35, 32⟩
def MON_CFG.FIR_SEL : Fld := ⟨0xE000, 31, 29⟩
def MON_CFG.BUF_EN : Fld := ⟨0xE000, 28, 28⟩
def MON_CFG.HOST : Fld := ⟨0xE000, 27, 27⟩
def MON_CFG.HOST_DENSE : Fld := ⟨0xE000, 26, 26⟩
def MON_CFG.LOG2LEN : Fld := ⟨0xE000, 25, 21⟩
/-- MON_STAT, index 0xE001 (R475). -/
def MON_STAT.whole : Fld := ⟨0xE001, 35, 0⟩
def MON_STAT.RESIZE_PEND : Fld := ⟨0xE001, 35, 35⟩
def MON_STAT.LOG2LEN_ACTIVE : Fld := ⟨0xE001, 34, 30⟩
def MON_STAT.DROP_SEEN : Fld := ⟨0xE001, 29, 29⟩
def MON_STAT.RESIZE_DROP_SEEN : Fld := ⟨0xE001, 28, 28⟩
def MON_STAT.SAT_SEEN : Fld := ⟨0xE001, 27, 27⟩
def MON_STAT.CFG_IGNORED : Fld := ⟨0xE001, 26, 26⟩
/-- MON_BASE_LO, index 0xE002 (R475). -/
def MON_BASE_LO.whole : Fld := ⟨0xE002, 35, 0⟩
def MON_BASE_LO.BASE : Fld := ⟨0xE002, 35, 0⟩
/-- MON_BASE_HI, index 0xE003 (R475). -/
def MON_BASE_HI.whole : Fld := ⟨0xE003, 35, 0⟩
def MON_BASE_HI.BASE : Fld := ⟨0xE003, 35, 0⟩
/-- MON_WP, index 0xE004 (R475). -/
def MON_WP.whole : Fld := ⟨0xE004, 35, 0⟩
def MON_WP.WP : Fld := ⟨0xE004, 15, 0⟩
/-- MON_RP, index 0xE005 (R475). -/
def MON_RP.whole : Fld := ⟨0xE005, 35, 0⟩
def MON_RP.RP : Fld := ⟨0xE005, 15, 0⟩
/-- MON_STATE, index 0xE006 (R475). -/
def MON_STATE.whole : Fld := ⟨0xE006, 35, 0⟩
def MON_STATE.HIGH : Fld := ⟨0xE006, 31, 16⟩
def MON_STATE.LOW : Fld := ⟨0xE006, 15, 0⟩
/-- MON_RING_DROP, index 0xE007 (R475). -/
def MON_RING_DROP.whole : Fld := ⟨0xE007, 35, 0⟩
/-- RING_RESIZE_DROP, index 0xE008 (R475). -/
def RING_RESIZE_DROP.whole : Fld := ⟨0xE008, 35, 0⟩
/-- MON_IN_CFG, index 0xE010 + i (R475). -/
def MON_IN_CFG.whole (i : Nat) : Fld := ⟨0xE010 + i, 35, 0⟩
def MON_IN_CFG.EN (i : Nat) : Fld := ⟨0xE010 + i, 35, 35⟩
def MON_IN_CFG.EVT (i : Nat) : Fld := ⟨0xE010 + i, 34, 34⟩
def MON_IN_CFG.FLT (i : Nat) : Fld := ⟨0xE010 + i, 33, 33⟩
def MON_IN_CFG.REF (i : Nat) : Fld := ⟨0xE010 + i, 32, 32⟩
def MON_IN_CFG.HYST (i : Nat) : Fld := ⟨0xE010 + i, 31, 16⟩
/-- MON_HI, index 0xE020 + i (R475). -/
def MON_HI.whole (i : Nat) : Fld := ⟨0xE020 + i, 35, 0⟩
def MON_HI.HI (i : Nat) : Fld := ⟨0xE020 + i, 23, 0⟩
/-- MON_LO, index 0xE030 + i (R475). -/
def MON_LO.whole (i : Nat) : Fld := ⟨0xE030 + i, 35, 0⟩
def MON_LO.LO (i : Nat) : Fld := ⟨0xE030 + i, 23, 0⟩
/-- MON_CORR_LO, index 0xE040 + 0x2 * i (R475). -/
def MON_CORR_LO.whole (i : Nat) : Fld := ⟨0xE040 + 0x2 * i, 35, 0⟩
def MON_CORR_LO.GAIN (i : Nat) : Fld := ⟨0xE040 + 0x2 * i, 23, 0⟩
/-- MON_CORR_HI, index 0xE041 + 0x2 * i (R475). -/
def MON_CORR_HI.whole (i : Nat) : Fld := ⟨0xE041 + 0x2 * i, 35, 0⟩
def MON_CORR_HI.OFS (i : Nat) : Fld := ⟨0xE041 + 0x2 * i, 23, 0⟩
/-- MON_LAST, index 0xE060 + i (R475). -/
def MON_LAST.whole (i : Nat) : Fld := ⟨0xE060 + i, 35, 0⟩
def MON_LAST.RESULT (i : Nat) : Fld := ⟨0xE060 + i, 35, 0⟩
/-- SO_CTRL, index 0xF000 (R475). -/
def SO_CTRL.whole : Fld := ⟨0xF000, 35, 0⟩
def SO_CTRL.EN : Fld := ⟨0xF000, 35, 35⟩
def SO_CTRL.COMMIT : Fld := ⟨0xF000, 34, 34⟩
def SO_CTRL.VBL_EVT : Fld := ⟨0xF000, 33, 33⟩
/-- SO_HTIM, index 0xF001 (R475). -/
def SO_HTIM.whole : Fld := ⟨0xF001, 35, 0⟩
def SO_HTIM.H_ACTIVE : Fld := ⟨0xF001, 35, 23⟩
def SO_HTIM.H_FP : Fld := ⟨0xF001, 22, 12⟩
def SO_HTIM.H_SYNC : Fld := ⟨0xF001, 11, 1⟩
def SO_HTIM.HS_NEG : Fld := ⟨0xF001, 0, 0⟩
/-- SO_VTIM, index 0xF002 (R475). -/
def SO_VTIM.whole : Fld := ⟨0xF002, 35, 0⟩
def SO_VTIM.V_ACTIVE : Fld := ⟨0xF002, 35, 24⟩
def SO_VTIM.V_FP : Fld := ⟨0xF002, 23, 16⟩
def SO_VTIM.V_SYNC : Fld := ⟨0xF002, 15, 8⟩
def SO_VTIM.VS_NEG : Fld := ⟨0xF002, 0, 0⟩
/-- SO_BP, index 0xF003 (R475). -/
def SO_BP.whole : Fld := ⟨0xF003, 35, 0⟩
def SO_BP.H_BP : Fld := ⟨0xF003, 35, 24⟩
def SO_BP.V_BP : Fld := ⟨0xF003, 23, 12⟩
/-- SO_PCLK, index 0xF004 (R475). -/
def SO_PCLK.whole : Fld := ⟨0xF004, 35, 0⟩
def SO_PCLK.PCLK_KHZ : Fld := ⟨0xF004, 19, 0⟩
/-- SO_LINK, index 0xF005 (R475). -/
def SO_LINK.whole : Fld := ⟨0xF005, 35, 0⟩
def SO_LINK.LANES : Fld := ⟨0xF005, 35, 34⟩
def SO_LINK.RATE : Fld := ⟨0xF005, 33, 32⟩
def SO_LINK.BPC : Fld := ⟨0xF005, 31, 30⟩
/-- SO_BG, index 0xF006 (R475). -/
def SO_BG.whole : Fld := ⟨0xF006, 35, 0⟩
def SO_BG.BG : Fld := ⟨0xF006, 29, 0⟩
/-- SO_PLOT_X, index 0xF007 (R475). -/
def SO_PLOT_X.whole : Fld := ⟨0xF007, 35, 0⟩
def SO_PLOT_X.PX0 : Fld := ⟨0xF007, 35, 23⟩
def SO_PLOT_X.PW : Fld := ⟨0xF007, 22, 10⟩
/-- SO_PLOT_Y, index 0xF008 (R475). -/
def SO_PLOT_Y.whole : Fld := ⟨0xF008, 35, 0⟩
def SO_PLOT_Y.PY0 : Fld := ⟨0xF008, 35, 24⟩
def SO_PLOT_Y.PH : Fld := ⟨0xF008, 23, 12⟩
/-- SO_DENS, index 0xF009 (R475). -/
def SO_DENS.whole : Fld := ⟨0xF009, 35, 0⟩
def SO_DENS.D_EN : Fld := ⟨0xF009, 35, 35⟩
def SO_DENS.D_CH : Fld := ⟨0xF009, 34, 34⟩
def SO_DENS.ZERO_BG : Fld := ⟨0xF009, 33, 33⟩
def SO_DENS.PSHIFT : Fld := ⟨0xF009, 32, 29⟩
def SO_DENS.DC0 : Fld := ⟨0xF009, 28, 16⟩
def SO_DENS.DCW_M1 : Fld := ⟨0xF009, 15, 3⟩
/-- SO_DENS_R, index 0xF00A (R475). -/
def SO_DENS_R.whole : Fld := ⟨0xF00A, 35, 0⟩
def SO_DENS_R.DR0 : Fld := ⟨0xF00A, 35, 26⟩
def SO_DENS_R.DRH_M1 : Fld := ⟨0xF00A, 25, 16⟩
/-- SO_WF, index 0xF00B (R475). -/
def SO_WF.whole : Fld := ⟨0xF00B, 35, 0⟩
def SO_WF.W_EN : Fld := ⟨0xF00B, 35, 35⟩
def SO_WF.W_CH : Fld := ⟨0xF00B, 34, 34⟩
def SO_WF.WY0 : Fld := ⟨0xF00B, 33, 22⟩
def SO_WF.WH : Fld := ⟨0xF00B, 21, 10⟩
def SO_WF.WSHIFT : Fld := ⟨0xF00B, 9, 6⟩
/-- SO_WF_BASE, index 0xF00C (R475). -/
def SO_WF_BASE.whole : Fld := ⟨0xF00C, 35, 0⟩
def SO_WF_BASE.WBASE : Fld := ⟨0xF00C, 35, 18⟩
/-- SO_OV, index 0xF00D (R475). -/
def SO_OV.whole : Fld := ⟨0xF00D, 35, 0⟩
def SO_OV.O_EN : Fld := ⟨0xF00D, 35, 35⟩
def SO_OV.O_HOST : Fld := ⟨0xF00D, 34, 34⟩
/-- SO_OV_X, index 0xF00E (R475). -/
def SO_OV_X.whole : Fld := ⟨0xF00E, 35, 0⟩
def SO_OV_X.OX0 : Fld := ⟨0xF00E, 35, 23⟩
def SO_OV_X.OW : Fld := ⟨0xF00E, 22, 10⟩
/-- SO_OV_Y, index 0xF00F (R475). -/
def SO_OV_Y.whole : Fld := ⟨0xF00F, 35, 0⟩
def SO_OV_Y.OY0 : Fld := ⟨0xF00F, 35, 24⟩
def SO_OV_Y.OH : Fld := ⟨0xF00F, 23, 12⟩
/-- SO_OV_BASE_LO, index 0xF010 (R475). -/
def SO_OV_BASE_LO.whole : Fld := ⟨0xF010, 35, 0⟩
def SO_OV_BASE_LO.OV_BASE : Fld := ⟨0xF010, 35, 0⟩
/-- SO_OV_BASE_HI, index 0xF011 (R475). -/
def SO_OV_BASE_HI.whole : Fld := ⟨0xF011, 35, 0⟩
def SO_OV_BASE_HI.OV_BASE : Fld := ⟨0xF011, 35, 0⟩
/-- SO_OV_PITCH, index 0xF012 (R475). -/
def SO_OV_PITCH.whole : Fld := ⟨0xF012, 35, 0⟩
def SO_OV_PITCH.OV_PITCH : Fld := ⟨0xF012, 19, 0⟩
/-- SO_STAT, index 0xF013 (R475). -/
def SO_STAT.whole : Fld := ⟨0xF013, 35, 0⟩
def SO_STAT.LINK_UP : Fld := ⟨0xF013, 35, 35⟩
def SO_STAT.HPD : Fld := ⟨0xF013, 34, 34⟩
def SO_STAT.NO_FIT : Fld := ⟨0xF013, 33, 33⟩
def SO_STAT.LINK_FAIL : Fld := ⟨0xF013, 32, 32⟩
def SO_STAT.PENDING : Fld := ⟨0xF013, 31, 31⟩
def SO_STAT.LATE_COMMIT_SEEN : Fld := ⟨0xF013, 30, 30⟩
def SO_STAT.CFG_REFUSED : Fld := ⟨0xF013, 29, 29⟩
def SO_STAT.UNDERRUN_SEEN : Fld := ⟨0xF013, 28, 28⟩
def SO_STAT.PSN_SEEN : Fld := ⟨0xF013, 27, 27⟩
/-- SO_LINK_ACT, index 0xF014 (R475). -/
def SO_LINK_ACT.whole : Fld := ⟨0xF014, 35, 0⟩
def SO_LINK_ACT.LANES : Fld := ⟨0xF014, 35, 34⟩
def SO_LINK_ACT.RATE : Fld := ⟨0xF014, 33, 32⟩
/-- SO_FRAME, index 0xF015 (R475). -/
def SO_FRAME.whole : Fld := ⟨0xF015, 35, 0⟩
/-- SO_VBL_TIME_LO, index 0xF016 (R475). -/
def SO_VBL_TIME_LO.whole : Fld := ⟨0xF016, 35, 0⟩
/-- SO_VBL_TIME_HI, index 0xF017 (R475). -/
def SO_VBL_TIME_HI.whole : Fld := ⟨0xF017, 35, 0⟩
/-- SO_UNDERRUN, index 0xF018 (R475). -/
def SO_UNDERRUN.whole : Fld := ⟨0xF018, 35, 0⟩
/-- OV_MISS, index 0xF019 (R475). -/
def OV_MISS.whole : Fld := ⟨0xF019, 35, 0⟩
/-- SO_TRACE, index 0xF020 + i (R475). -/
def SO_TRACE.whole (i : Nat) : Fld := ⟨0xF020 + i, 35, 0⟩
def SO_TRACE.TEN (i : Nat) : Fld := ⟨0xF020 + i, 35, 35⟩
def SO_TRACE.TCH (i : Nat) : Fld := ⟨0xF020 + i, 34, 34⟩
def SO_TRACE.TSLOT (i : Nat) : Fld := ⟨0xF020 + i, 33, 31⟩
def SO_TRACE.THICK (i : Nat) : Fld := ⟨0xF020 + i, 30, 28⟩
def SO_TRACE.TSHIFT (i : Nat) : Fld := ⟨0xF020 + i, 27, 24⟩
def SO_TRACE.TBASE (i : Nat) : Fld := ⟨0xF020 + i, 23, 6⟩
/-- SO_TCOL, index 0xF028 + i (R475). -/
def SO_TCOL.whole (i : Nat) : Fld := ⟨0xF028 + i, 35, 0⟩
def SO_TCOL.TCOL (i : Nat) : Fld := ⟨0xF028 + i, 29, 0⟩
/-- CAL_FINE, index 0x10000 + 0x100 * i + j (R475). -/
def CAL_FINE.whole (i j : Nat) : Fld := ⟨0x10000 + 0x100 * i + j, 35, 0⟩
def CAL_FINE.FINE (i j : Nat) : Fld := ⟨0x10000 + 0x100 * i + j, 12, 0⟩
/-- CAL_STAT, index 0x11800 (R475). -/
def CAL_STAT.whole : Fld := ⟨0x11800, 35, 0⟩
def CAL_STAT.RUNNING : Fld := ⟨0x11800, 35, 35⟩
def CAL_STAT.VALID : Fld := ⟨0x11800, 34, 30⟩
def CAL_STAT.RESTORED : Fld := ⟨0x11800, 29, 25⟩
def CAL_STAT.DISAGREE : Fld := ⟨0x11800, 24, 20⟩
def CAL_STAT.FAULT : Fld := ⟨0x11800, 19, 15⟩
def CAL_STAT.EDITED : Fld := ⟨0x11800, 14, 10⟩
def CAL_STAT.WRITE_IGNORED : Fld := ⟨0x11800, 9, 9⟩
/-- CAL_THR_OFS, index 0x11801 + i (R475). -/
def CAL_THR_OFS.whole (i : Nat) : Fld := ⟨0x11801 + i, 35, 0⟩
def CAL_THR_OFS.OFS (i : Nat) : Fld := ⟨0x11801 + i, 15, 0⟩
/-- CAL_KEEL_SKEW, index 0x11808 + i (R475). -/
def CAL_KEEL_SKEW.whole (i : Nat) : Fld := ⟨0x11808 + i, 35, 0⟩
def CAL_KEEL_SKEW.SKEW (i : Nat) : Fld := ⟨0x11808 + i, 6, 0⟩
/-- CAL_REFV, index 0x11810 (R475). -/
def CAL_REFV.whole : Fld := ⟨0x11810, 35, 0⟩
def CAL_REFV.UV : Fld := ⟨0x11810, 23, 0⟩
/-- CAL_TONE_TRIM, index 0x11900 + 0x40 * i + j (R475). -/
def CAL_TONE_TRIM.whole (i j : Nat) : Fld := ⟨0x11900 + 0x40 * i + j, 35, 0⟩
def CAL_TONE_TRIM.TRIM (i j : Nat) : Fld := ⟨0x11900 + 0x40 * i + j, 7, 0⟩

/-- Rows of chapter 23, part 0. -/
def regRows0 : List RegRow := [
  ⟨0x0, 1, 0x1, 0x481010100, 0x0, 0x0, .plain, false⟩,
  ⟨0x1, 1, 0x1, 0x0, 0x0, 0x0, .plain, false⟩,
  ⟨0x2, 1, 0x1, 0x0, 0x0, 0x0, .plain, false⟩,
  ⟨0x3, 1, 0x1, 0x0, 0x0, 0x0, .plain, false⟩,
  ⟨0x4, 1, 0x1, 0x0, 0x0, 0x0, .plain, false⟩,
  ⟨0x5, 1, 0x1, 0x0, 0xFFFF, 0x600000000, .plain, false⟩,
  ⟨0x6, 1, 0x1, 0x0, 0x0, 0x3FFFFF, .plain, false⟩,
  ⟨0x1000, 1, 0x1, 0x0, 0xC00000000, 0x0, .plain, false⟩,
  ⟨0x1001, 1, 0x1, 0x0, 0x0, 0x7000000, .plain, false⟩,
  ⟨0x1002, 4, 0x1, 0x0, 0xC0FFFFFFF, 0x0, .plain, false⟩,
  ⟨0x1006, 1, 0x1, 0x0, 0x0, 0x0, .rsLo, false⟩,
  ⟨0x1007, 1, 0x1, 0x0, 0x0, 0x0, .rsHi, false⟩,
  ⟨0x1008, 1, 0x1, 0x0, 0xFFFFFFFFF, 0x0, .plain, false⟩,
  ⟨0x1009, 1, 0x1, 0x0, 0xFFFFFFFFF, 0x0, .plain, false⟩,
  ⟨0x2000, 1, 0x1, 0x0, 0xFFFFFF000, 0x0, .wLo, false⟩,
  ⟨0x2001, 1, 0x1, 0x0, 0xFFFFFFF, 0x0, .wHi, false⟩,
  ⟨0x2002, 1, 0x1, 0x4, 0x800000FFF, 0x0, .plain, false⟩,
  ⟨0x2003, 1, 0x1, 0x0, 0x0, 0x0, .plain, false⟩,
  ⟨0x2004, 1, 0x1, 0x0, 0x0, 0x6, .plain, false⟩,
  ⟨0x2005, 1, 0x1, 0x0, 0xFFFFFFFFF, 0x0, .plain, false⟩,
  ⟨0x2006, 1, 0x1, 0x0, 0xFFFFFFFFF, 0x0, .plain, false⟩,
  ⟨0x2008, 1, 0x1, 0x0, 0xFFFFFF000, 0x0, .wLo, false⟩,
  ⟨0x2009, 1, 0x1, 0x0, 0xFFFFFFF, 0x0, .wHi, false⟩,
  ⟨0x200A, 1, 0x1, 0x300000000, 0xFFFFFFF00, 0x0, .plain, false⟩,
  ⟨0x2010, 8, 0x2, 0x0, 0xFFFFFF000, 0x0, .wLo, false⟩,
  ⟨0x2011, 8, 0x2, 0x0, 0xFFFFFFF, 0x0, .wHi, false⟩,
  ⟨0x2020, 8, 0x1, 0x300000000, 0xFF0000000, 0x0, .plain, false⟩,
  ⟨0x2030, 8, 0x2, 0x0, 0xFFFFFF000, 0x0, .wLo, false⟩,
  ⟨0x2031, 8, 0x2, 0x0, 0xFFFFFFF, 0x0, .wHi, false⟩,
  ⟨0x2040, 8, 0x1, 0x300000000, 0xFFFFFFF00, 0x0, .plain, false⟩,
  ⟨0x2050, 16, 0x2, 0x0, 0xFFFFFF000, 0x0, .wLo, false⟩,
  ⟨0x2051, 16, 0x2, 0x0, 0xFFFFFFF, 0x0, .wHi, false⟩,
  ⟨0x2070, 16, 0x1, 0x300000000, 0xFFFFFFF00, 0x0, .plain, false⟩,
  ⟨0x3000, 1, 0x1, 0x400000000, 0x0, 0x40000000, .plain, false⟩,
  ⟨0x3001, 1, 0x1, 0x0, 0xFFFFFFFFF, 0x0, .plain, false⟩,
  ⟨0x4000, 1, 0x1, 0x0, 0x0, 0x0, .rsLo, false⟩,
  ⟨0x4001, 1, 0x1, 0x0, 0x0, 0x0, .rsHi, false⟩,
  ⟨0x4002, 1, 0x1, 0x0, 0x0, 0x0, .wLo, false⟩,
  ⟨0x4003, 1, 0x1, 0x0, 0x0, 0x0, .wHi, false⟩,
  ⟨0x4004, 1, 0x1, 0x0, 0xFFFFFFFFF, 0x0, .wLo, false⟩]

/-- Rows of chapter 23, part 1. -/
def regRows1 : List RegRow := [
  ⟨0x4005, 1, 0x1, 0x0, 0xFFF, 0x0, .wHi, false⟩,
  ⟨0x4006, 1, 0x1, 0x0, 0x0, 0x0, .rcLo, false⟩,
  ⟨0x4007, 1, 0x1, 0x0, 0x0, 0x0, .rsHi, false⟩,
  ⟨0x4008, 1, 0x1, 0x0, 0x8FFFFFFFF, 0x0, .plain, false⟩,
  ⟨0x4009, 1, 0x1, 0x0, 0xFFFFFFFFF, 0x0, .plain, false⟩,
  ⟨0x400A, 1, 0x1, 0x0, 0x0, 0x0, .plain, false⟩,
  ⟨0x400B, 1, 0x1, 0x0, 0x0, 0x0, .plain, false⟩,
  ⟨0x400C, 1, 0x1, 0x52805100, 0xFFFFFFFFF, 0x0, .plain, false⟩,
  ⟨0x400D, 1, 0x1, 0x200000000, 0x0, 0x60000000, .plain, false⟩,
  ⟨0x400E, 1, 0x1, 0x0, 0xFFFFFFFFF, 0x0, .plain, false⟩,
  ⟨0x400F, 1, 0x1, 0x0, 0xFFFFFFFFF, 0x0, .plain, false⟩,
  ⟨0x4400, 4, 0x1, 0x2BC000000, 0xFFFF80000, 0x0, .plain, false⟩,
  ⟨0x4404, 1, 0x1, 0x0, 0xFF0000000, 0x0, .plain, false⟩,
  ⟨0x4405, 1, 0x1, 0x0, 0xFC0000000, 0x0, .plain, false⟩,
  ⟨0x4406, 1, 0x1, 0x3E8, 0xFFFFFFFF, 0x0, .plain, false⟩,
  ⟨0x4407, 1, 0x1, 0xC0000000, 0xFE0000000, 0x0, .plain, false⟩,
  ⟨0x4408, 1, 0x1, 0x0, 0xFFFFFFFFF, 0x0, .wLo, false⟩,
  ⟨0x4409, 1, 0x1, 0x0, 0xFFFFFFFFF, 0x0, .wHi, false⟩,
  ⟨0x440A, 1, 0x1, 0x0, 0x0, 0x0, .plain, false⟩,
  ⟨0x440B, 1, 0x1, 0x0, 0xFFFFFFFFF, 0x0, .plain, false⟩,
  ⟨0x440C, 1, 0x1, 0x0, 0x0, 0x0, .rcLo, false⟩,
  ⟨0x440D, 1, 0x1, 0x400000000, 0x0, 0x300000000, .plain, false⟩,
  ⟨0x440E, 1, 0x1, 0x0, 0xFFFFFFFFF, 0x0, .plain, false⟩,
  ⟨0x440F, 1, 0x1, 0x0, 0xFFFFFFFFF, 0x0, .plain, false⟩,
  ⟨0x4410, 1, 0x1, 0x0, 0xFFFFFFFFF, 0x0, .plain, false⟩,
  ⟨0x4411, 1, 0x1, 0x0, 0xFFFFFFFFF, 0x0, .plain, false⟩,
  ⟨0x4412, 1, 0x1, 0x0, 0xFFFFFFFFF, 0x0, .plain, false⟩,
  ⟨0x5000, 1, 0x1, 0x240000000, 0xFE0000000, 0x0, .plain, false⟩,
  ⟨0x5001, 1, 0x1, 0x1000000, 0x10000000, 0xE000000, .plain, false⟩,
  ⟨0x5002, 1, 0x1, 0x0, 0x0, 0x0, .plain, false⟩,
  ⟨0x5003, 1, 0x1, 0x0, 0xEFFFFFF00, 0x0, .plain, false⟩,
  ⟨0x5004, 1, 0x1, 0x0, 0x0, 0x0, .plain, false⟩,
  ⟨0x5005, 1, 0x1, 0x0, 0x0, 0x0, .plain, false⟩,
  ⟨0x5006, 1, 0x1, 0x0, 0xFFFFFFFFF, 0x0, .plain, false⟩,
  ⟨0x5007, 1, 0x1, 0x0, 0xFFFFFFFFF, 0x0, .plain, false⟩,
  ⟨0x5008, 1, 0x1, 0x0, 0xFFFFFFFFF, 0x0, .plain, false⟩,
  ⟨0x5009, 1, 0x1, 0x0, 0xFFFFFFFFF, 0x0, .plain, false⟩,
  ⟨0x500A, 1, 0x1, 0x0, 0xFFFFFFFFF, 0x0, .plain, false⟩,
  ⟨0x500C, 1, 0x1, 0x0, 0x0, 0x0, .rsLo, false⟩,
  ⟨0x500D, 1, 0x1, 0x0, 0x0, 0x0, .rsHi, false⟩]

/-- Rows of chapter 23, part 2. -/
def regRows2 : List RegRow := [
  ⟨0x500E, 1, 0x1, 0x0, 0x0, 0x0, .plain, false⟩,
  ⟨0x500F, 1, 0x1, 0x0, 0x0, 0x0, .plain, false⟩,
  ⟨0x5040, 64, 0x1, 0x0, 0x0, 0x0, .plain, false⟩,
  ⟨0x5080, 32, 0x4, 0x0, 0x0, 0x0, .rsLo, false⟩,
  ⟨0x5081, 32, 0x4, 0x0, 0x0, 0x0, .rsHi, false⟩,
  ⟨0x5082, 32, 0x4, 0x0, 0x0, 0x0, .plain, false⟩,
  ⟨0x5083, 32, 0x4, 0x0, 0x0, 0x0, .plain, false⟩,
  ⟨0x6000, 1, 0x1, 0x27100000, 0xFFFF80000, 0x0, .plain, false⟩,
  ⟨0x6001, 1, 0x1, 0xC00000000, 0xF00000000, 0x0, .plain, false⟩,
  ⟨0x6002, 1, 0x1, 0x1A69A, 0x3FFFF, 0x0, .plain, false⟩,
  ⟨0x6003, 1, 0x1, 0x0, 0x0, 0x0, .plain, false⟩,
  ⟨0x6004, 1, 0x1, 0x0, 0x0, 0x4000000, .plain, false⟩,
  ⟨0x6005, 1, 0x1, 0x0, 0x0, 0x0, .plain, false⟩,
  ⟨0x6006, 1, 0x1, 0x0, 0xFFFFFFFFF, 0x0, .plain, false⟩,
  ⟨0x7000, 2, 0x100, 0x6410F1B40, 0xFFFFFFFE0, 0x0, .plain, false⟩,
  ⟨0x7001, 2, 0x100, 0xFAC688, 0xFFFFFFFF, 0x0, .plain, false⟩,
  ⟨0x7002, 2, 0x100, 0x0, 0x0, 0x1E00000FF, .plain, false⟩,
  ⟨0x7003, 2, 0x100, 0x0, 0x0, 0x0, .plain, false⟩,
  ⟨0x7004, 2, 0x100, 0x0, 0x0, 0x0, .rsLo, false⟩,
  ⟨0x7005, 2, 0x100, 0x0, 0x0, 0x0, .rsHi, false⟩,
  ⟨0x7006, 2, 0x100, 0x0, 0x0, 0xE0000000, .plain, false⟩,
  ⟨0x7007, 2, 0x100, 0x0, 0xFFFFFFFFF, 0x0, .plain, false⟩,
  ⟨0x7008, 2, 0x100, 0x0, 0xFFFFFFFFF, 0x0, .plain, false⟩,
  ⟨0x7009, 2, 0x100, 0x0, 0xFFFFFFFFF, 0x0, .plain, false⟩,
  ⟨0x8000, 9, 0x1, 0x0, 0xFFFF, 0x0, .plain, false⟩,
  ⟨0x8100, 2, 0x100, 0x0, 0x0, 0x4C00000, .plain, false⟩,
  ⟨0x8101, 2, 0x100, 0x0, 0xFFFFFFFFF, 0x0, .plain, false⟩,
  ⟨0x8102, 2, 0x100, 0x0, 0xFFFFFFFFF, 0x0, .plain, false⟩,
  ⟨0x8400, 2, 0x100, 0x0, 0x0, 0x3FF800000, .plain, false⟩,
  ⟨0x8408, 8, 0x2, 0x0, 0x0, 0x0, .rcLo, false⟩,
  ⟨0x8508, 8, 0x2, 0x0, 0x0, 0x0, .rcLo, false⟩,
  ⟨0x8418, 4, 0x1, 0x0, 0xFFFFFFFFF, 0x0, .plain, false⟩,
  ⟨0x8518, 4, 0x1, 0x0, 0xFFFFFFFFF, 0x0, .plain, false⟩,
  ⟨0x841C, 2, 0x100, 0x0, 0x0, 0x0, .plain, false⟩,
  ⟨0x841D, 2, 0x100, 0x0, 0xFFFFFFFFF, 0x0, .plain, false⟩,
  ⟨0x841E, 2, 0x100, 0x0, 0xFFFFFFFFF, 0x0, .plain, false⟩,
  ⟨0x8600, 2, 0x100, 0x0, 0x0, 0x300000000, .plain, false⟩,
  ⟨0x8601, 2, 0x100, 0x0, 0x0, 0x0, .plain, false⟩,
  ⟨0x8602, 2, 0x100, 0x0, 0xFFFFFFFFF, 0x0, .plain, false⟩,
  ⟨0x8603, 2, 0x100, 0x0, 0xFFFFFFFFF, 0x0, .plain, false⟩]

/-- Rows of chapter 23, part 3. -/
def regRows3 : List RegRow := [
  ⟨0x8604, 2, 0x100, 0x0, 0xFFFFFFFFF, 0x0, .plain, false⟩,
  ⟨0x9000, 1, 0x1, 0x0, 0x0, 0x40000000, .plain, false⟩,
  ⟨0x9001, 2, 0x1, 0x0, 0x0, 0x0, .plain, false⟩,
  ⟨0x9004, 2, 0x2, 0x0, 0x0, 0x0, .rsLo, false⟩,
  ⟨0x9005, 2, 0x2, 0x0, 0x0, 0x0, .rsHi, false⟩,
  ⟨0x9008, 4, 0x1, 0x0, 0x0, 0x0, .plain, false⟩,
  ⟨0x900C, 2, 0x1, 0x0, 0xFFFFFFFFF, 0x0, .plain, false⟩,
  ⟨0x900E, 2, 0x1, 0x0, 0xFFFFFFFFF, 0x0, .plain, false⟩,
  ⟨0x9010, 1, 0x1, 0x0, 0xFFFFFFFFF, 0x0, .plain, false⟩,
  ⟨0x9011, 1, 0x1, 0x0, 0xFFFFFFFFF, 0x0, .plain, false⟩,
  ⟨0x9012, 1, 0x1, 0x0, 0xFFFFFFFFF, 0x0, .plain, false⟩,
  ⟨0x9020, 2, 0x1, 0x0, 0x0, 0xC0000000, .plain, false⟩,
  ⟨0x9022, 2, 0x1, 0x0, 0x0, 0x0, .plain, false⟩,
  ⟨0x9024, 1, 0x1, 0x0, 0x0, 0x0, .plain, false⟩,
  ⟨0x9040, 16, 0x1, 0x0, 0x0, 0x28000000, .plain, false⟩,
  ⟨0x9050, 16, 0x1, 0x0, 0x0, 0x0, .plain, false⟩,
  ⟨0x9060, 16, 0x1, 0x0, 0xFFFFFFFFF, 0x0, .plain, false⟩,
  ⟨0x9070, 16, 0x1, 0x0, 0x0, 0x0, .plain, false⟩,
  ⟨0xA000, 1, 0x1, 0x9C0000000, 0x0, 0x0, .plain, false⟩,
  ⟨0xA001, 1, 0x1, 0x220000000, 0x0, 0x0, .plain, false⟩,
  ⟨0xA002, 1, 0x1, 0x0, 0xF00000000, 0x60000000, .plain, false⟩,
  ⟨0xA003, 1, 0x1, 0x0, 0xFF000000, 0x300000000, .plain, false⟩,
  ⟨0xA004, 4, 0x1, 0x0, 0x0, 0x0, .plain, false⟩,
  ⟨0xA008, 5, 0x1, 0x80000800, 0xFFFFFFFFF, 0x0, .plain, false⟩,
  ⟨0xA010, 4, 0x1, 0x0, 0xFFFFFFFFF, 0x0, .plain, false⟩,
  ⟨0xA014, 4, 0x1, 0x0, 0xFFFFFFFFF, 0x0, .plain, false⟩,
  ⟨0xA018, 1, 0x1, 0x0, 0xFFFFFFFFF, 0x0, .plain, false⟩,
  ⟨0xA019, 1, 0x1, 0x0, 0xFFFFFFFFF, 0x0, .plain, false⟩,
  ⟨0xA01A, 2, 0x1, 0x0, 0xFFFFFFFFF, 0x0, .plain, false⟩,
  ⟨0xB000, 1, 0x1, 0xE000A05A0, 0xEFFFFFFFF, 0x0, .plain, false⟩,
  ⟨0xB001, 1, 0x1, 0x0, 0x0, 0x2, .plain, false⟩,
  ⟨0xB002, 1, 0x1, 0x0, 0x0, 0x0, .rsLo, false⟩,
  ⟨0xB003, 1, 0x1, 0x0, 0x0, 0x0, .rsHi, false⟩,
  ⟨0xB004, 1, 0x1, 0x0, 0x7FFFFF000, 0x0, .plain, false⟩,
  ⟨0xB005, 1, 0x1, 0x0, 0x0, 0x600000000, .plain, false⟩,
  ⟨0xB006, 1, 0x1, 0x0, 0xFFFFFFFFF, 0x0, .plain, false⟩,
  ⟨0xB007, 1, 0x1, 0x0, 0xFFFFFFFFF, 0x0, .plain, false⟩,
  ⟨0xB008, 1, 0x1, 0x0, 0xFFFFFFFFF, 0x0, .plain, false⟩,
  ⟨0xB009, 1, 0x1, 0x0, 0xFFFFFFFFF, 0x0, .plain, false⟩,
  ⟨0xB00A, 1, 0x1, 0x0, 0x0, 0x0, .plain, false⟩]

/-- Rows of chapter 23, part 4. -/
def regRows4 : List RegRow := [
  ⟨0xC000, 4, 0x1, 0x0, 0x0, 0x0, .plain, false⟩,
  ⟨0xC004, 4, 0x1, 0x0, 0xFFFFFFFFF, 0x0, .plain, false⟩,
  ⟨0xC008, 4, 0x1, 0x0, 0x0, 0x0, .plain, false⟩,
  ⟨0xD000, 1, 0x1, 0x0, 0xF00000000, 0x0, .plain, false⟩,
  ⟨0xD001, 2, 0x1, 0x0, 0x0, 0x38000000, .plain, false⟩,
  ⟨0xD004, 1, 0x1, 0x0, 0x0, 0x0, .rsLo, false⟩,
  ⟨0xD005, 1, 0x1, 0x0, 0x0, 0x0, .rsHi, false⟩,
  ⟨0xD006, 2, 0x1, 0x0, 0xFFFFFFFFF, 0x0, .plain, false⟩,
  ⟨0xD008, 1, 0x1, 0x0, 0xFFFFFFFFF, 0x0, .plain, false⟩,
  ⟨0xE000, 1, 0x1, 0xA20C00000, 0xFFFE00000, 0x0, .plain, false⟩,
  ⟨0xE001, 1, 0x1, 0x180000000, 0x0, 0x3C000000, .plain, false⟩,
  ⟨0xE002, 1, 0x1, 0x0, 0xFFFFFFFFF, 0x0, .wLo, false⟩,
  ⟨0xE003, 1, 0x1, 0x0, 0xFFFFFFFFF, 0x0, .wHi, false⟩,
  ⟨0xE004, 1, 0x1, 0x0, 0x0, 0x0, .plain, false⟩,
  ⟨0xE005, 1, 0x1, 0x0, 0xFFFF, 0x0, .plain, false⟩,
  ⟨0xE006, 1, 0x1, 0x0, 0x0, 0x0, .plain, false⟩,
  ⟨0xE007, 1, 0x1, 0x0, 0xFFFFFFFFF, 0x0, .plain, false⟩,
  ⟨0xE008, 1, 0x1, 0x0, 0xFFFFFFFFF, 0x0, .plain, false⟩,
  ⟨0xE010, 4, 0x1, 0xE08000000, 0xFFFFF0000, 0x0, .plain, false⟩,
  ⟨0xE014, 6, 0x1, 0xE13880000, 0xFFFFF0000, 0x0, .plain, false⟩,
  ⟨0xE01A, 2, 0x1, 0x813880000, 0xFFFFF0000, 0x0, .plain, false⟩,
  ⟨0xE01C, 1, 0x1, 0xC13880000, 0xFFFFF0000, 0x0, .plain, false⟩,
  ⟨0xE01D, 3, 0x1, 0x813880000, 0xFFFFF0000, 0x0, .plain, false⟩,
  ⟨0xE020, 1, 0x1, 0x1B800, 0xFFFFFF, 0x0, .plain, false⟩,
  ⟨0xE021, 1, 0x1, 0x1B800, 0xFFFFFF, 0x0, .plain, false⟩,
  ⟨0xE022, 1, 0x1, 0x1B800, 0xFFFFFF, 0x0, .plain, false⟩,
  ⟨0xE023, 1, 0x1, 0x1B800, 0xFFFFFF, 0x0, .plain, false⟩,
  ⟨0xE024, 1, 0x1, 0xC3500, 0xFFFFFF, 0x0, .plain, false⟩,
  ⟨0xE025, 1, 0x1, 0xC042C, 0xFFFFFF, 0x0, .plain, false⟩,
  ⟨0xE026, 1, 0x1, 0xE6B68, 0xFFFFFF, 0x0, .plain, false⟩,
  ⟨0xE027, 1, 0x1, 0x1CD6D0, 0xFFFFFF, 0x0, .plain, false⟩,
  ⟨0xE028, 1, 0x1, 0x119FB8, 0xFFFFFF, 0x0, .plain, false⟩,
  ⟨0xE029, 1, 0x1, 0x34DF28, 0xFFFFFF, 0x0, .plain, false⟩,
  ⟨0xE02A, 1, 0x1, 0x7FFFFF, 0xFFFFFF, 0x0, .plain, false⟩,
  ⟨0xE02B, 1, 0x1, 0x7FFFFF, 0xFFFFFF, 0x0, .plain, false⟩,
  ⟨0xE02C, 1, 0x1, 0x268748, 0xFFFFFF, 0x0, .plain, false⟩,
  ⟨0xE02D, 1, 0x1, 0x7FFFFF, 0xFFFFFF, 0x0, .plain, false⟩,
  ⟨0xE02E, 1, 0x1, 0x7FFFFF, 0xFFFFFF, 0x0, .plain, false⟩,
  ⟨0xE02F, 1, 0x1, 0x7FFFFF, 0xFFFFFF, 0x0, .plain, false⟩,
  ⟨0xE030, 1, 0x1, 0xFF5C00, 0xFFFFFF, 0x0, .plain, false⟩]

/-- Rows of chapter 23, part 5. -/
def regRows5 : List RegRow := [
  ⟨0xE031, 1, 0x1, 0xFF5C00, 0xFFFFFF, 0x0, .plain, false⟩,
  ⟨0xE032, 1, 0x1, 0xFF5C00, 0xFFFFFF, 0x0, .plain, false⟩,
  ⟨0xE033, 1, 0x1, 0xFF5C00, 0xFFFFFF, 0x0, .plain, false⟩,
  ⟨0xE034, 1, 0x1, 0x975E0, 0xFFFFFF, 0x0, .plain, false⟩,
  ⟨0xE035, 1, 0x1, 0xADF34, 0xFFFFFF, 0x0, .plain, false⟩,
  ⟨0xE036, 1, 0x1, 0xD0BD8, 0xFFFFFF, 0x0, .plain, false⟩,
  ⟨0xE037, 1, 0x1, 0x1A17B0, 0xFFFFFF, 0x0, .plain, false⟩,
  ⟨0xE038, 1, 0x1, 0xFF208, 0xFFFFFF, 0x0, .plain, false⟩,
  ⟨0xE039, 1, 0x1, 0x2FD618, 0xFFFFFF, 0x0, .plain, false⟩,
  ⟨0xE03A, 1, 0x1, 0x800000, 0xFFFFFF, 0x0, .plain, false⟩,
  ⟨0xE03B, 1, 0x1, 0x800000, 0xFFFFFF, 0x0, .plain, false⟩,
  ⟨0xE03C, 1, 0x1, 0x25C3F8, 0xFFFFFF, 0x0, .plain, false⟩,
  ⟨0xE03D, 1, 0x1, 0x800000, 0xFFFFFF, 0x0, .plain, false⟩,
  ⟨0xE03E, 1, 0x1, 0x800000, 0xFFFFFF, 0x0, .plain, false⟩,
  ⟨0xE03F, 1, 0x1, 0x800000, 0xFFFFFF, 0x0, .plain, false⟩,
  ⟨0xE040, 16, 0x2, 0x0, 0xFFFFFF, 0x0, .wLo, true⟩,
  ⟨0xE041, 16, 0x2, 0x0, 0xFFFFFF, 0x0, .wHi, true⟩,
  ⟨0xE060, 16, 0x1, 0x0, 0x0, 0x0, .plain, false⟩,
  ⟨0xF000, 1, 0x1, 0x0, 0xA00000000, 0x0, .plain, false⟩,
  ⟨0xF001, 1, 0x1, 0x3C0058058, 0xFFFFFFFFF, 0x0, .plain, false⟩,
  ⟨0xF002, 1, 0x1, 0x438040500, 0xFFFFFFF01, 0x0, .plain, false⟩,
  ⟨0xF003, 1, 0x1, 0x94024000, 0xFFFFFF000, 0x0, .plain, false⟩,
  ⟨0xF004, 1, 0x1, 0x24414, 0xFFFFF, 0x0, .plain, false⟩,
  ⟨0xF005, 1, 0x1, 0xA40000000, 0xFC0000000, 0x0, .plain, false⟩,
  ⟨0xF006, 1, 0x1, 0x0, 0x3FFFFFFF, 0x0, .plain, false⟩,
  ⟨0xF007, 1, 0x1, 0x1E0000, 0xFFFFFFC00, 0x0, .plain, false⟩,
  ⟨0xF008, 1, 0x1, 0x438000, 0xFFFFFF000, 0x0, .plain, false⟩,
  ⟨0xF009, 1, 0x1, 0x200007FF8, 0xFFFFFFFF8, 0x0, .plain, false⟩,
  ⟨0xF00A, 1, 0x1, 0x3FF0000, 0xFFFFF0000, 0x0, .plain, false⟩,
  ⟨0xF00B, 1, 0x1, 0x140, 0xFFFFFFFC0, 0x0, .plain, false⟩,
  ⟨0xF00C, 1, 0x1, 0x600000000, 0xFFFFC0000, 0x0, .plain, false⟩,
  ⟨0xF00D, 1, 0x1, 0x0, 0xC00000000, 0x0, .plain, false⟩,
  ⟨0xF00E, 1, 0x1, 0x1E0000, 0xFFFFFFC00, 0x0, .plain, false⟩,
  ⟨0xF00F, 1, 0x1, 0x438000, 0xFFFFFF000, 0x0, .plain, false⟩,
  ⟨0xF010, 1, 0x1, 0x0, 0xFFFFFFFFF, 0x0, .wLo, false⟩,
  ⟨0xF011, 1, 0x1, 0x0, 0xFFFFFFFFF, 0x0, .wHi, false⟩,
  ⟨0xF012, 1, 0x1, 0x1E00, 0xFFFFF, 0x0, .plain, false⟩,
  ⟨0xF013, 1, 0x1, 0x0, 0x0, 0x178000000, .plain, false⟩,
  ⟨0xF014, 1, 0x1, 0x0, 0x0, 0x0, .plain, false⟩,
  ⟨0xF015, 1, 0x1, 0x0, 0x0, 0x0, .plain, false⟩]

/-- Rows of chapter 23, part 6. -/
def regRows6 : List RegRow := [
  ⟨0xF016, 1, 0x1, 0x0, 0x0, 0x0, .rsLo, false⟩,
  ⟨0xF017, 1, 0x1, 0x0, 0x0, 0x0, .rsHi, false⟩,
  ⟨0xF018, 1, 0x1, 0x0, 0xFFFFFFFFF, 0x0, .plain, false⟩,
  ⟨0xF019, 1, 0x1, 0x0, 0xFFFFFFFFF, 0x0, .plain, false⟩,
  ⟨0xF020, 8, 0x1, 0x5600000, 0xFFFFFFFC0, 0x0, .plain, false⟩,
  ⟨0xF028, 8, 0x1, 0x3FFFFFF, 0x3FFFFFFF, 0x0, .plain, false⟩,
  ⟨0x10000, 256, 0x1, 0x0, 0x1FFF, 0x0, .plain, true⟩,
  ⟨0x10100, 256, 0x1, 0x0, 0x1FFF, 0x0, .plain, true⟩,
  ⟨0x10200, 256, 0x1, 0x0, 0x1FFF, 0x0, .plain, true⟩,
  ⟨0x10300, 256, 0x1, 0x0, 0x1FFF, 0x0, .plain, true⟩,
  ⟨0x10400, 256, 0x1, 0x0, 0x1FFF, 0x0, .plain, true⟩,
  ⟨0x10500, 256, 0x1, 0x0, 0x1FFF, 0x0, .plain, true⟩,
  ⟨0x10600, 256, 0x1, 0x0, 0x1FFF, 0x0, .plain, true⟩,
  ⟨0x10700, 256, 0x1, 0x0, 0x1FFF, 0x0, .plain, true⟩,
  ⟨0x10800, 256, 0x1, 0x0, 0x1FFF, 0x0, .plain, true⟩,
  ⟨0x10900, 256, 0x1, 0x0, 0x1FFF, 0x0, .plain, true⟩,
  ⟨0x10A00, 256, 0x1, 0x0, 0x1FFF, 0x0, .plain, true⟩,
  ⟨0x10B00, 256, 0x1, 0x0, 0x1FFF, 0x0, .plain, true⟩,
  ⟨0x10C00, 256, 0x1, 0x0, 0x1FFF, 0x0, .plain, true⟩,
  ⟨0x10D00, 256, 0x1, 0x0, 0x1FFF, 0x0, .plain, true⟩,
  ⟨0x10E00, 256, 0x1, 0x0, 0x1FFF, 0x0, .plain, true⟩,
  ⟨0x10F00, 256, 0x1, 0x0, 0x1FFF, 0x0, .plain, true⟩,
  ⟨0x11000, 256, 0x1, 0x0, 0x1FFF, 0x0, .plain, true⟩,
  ⟨0x11800, 1, 0x1, 0x0, 0x0, 0x1FF8200, .plain, false⟩,
  ⟨0x11801, 4, 0x1, 0x0, 0xFFFF, 0x0, .plain, true⟩,
  ⟨0x11808, 8, 0x1, 0x0, 0x7F, 0x0, .plain, true⟩,
  ⟨0x11810, 1, 0x1, 0x2625A0, 0xFFFFFF, 0x0, .plain, false⟩,
  ⟨0x11900, 64, 0x1, 0x0, 0xFF, 0x0, .plain, true⟩,
  ⟨0x11940, 64, 0x1, 0x0, 0xFF, 0x0, .plain, true⟩]

/-- R475: the register table of a side. -/
def regRows : List RegRow := regRows0 ++ regRows1 ++ regRows2 ++ regRows3 ++ regRows4 ++ regRows5 ++ regRows6

/-- Whether a row holds the register index. -/
def rowHas (r : RegRow) (idx : Nat) : Bool :=
  r.base ≤ idx && (idx - r.base) % r.stride == 0 && (idx - r.base) / r.stride < r.count

/-- The row of a register index; none for a reserved index (R476). -/
def findReg (idx : Nat) : Option RegRow := regRows.find? (fun r => rowHas r idx)

/-- R477: the Reset column of a register index, zero at a reserved index. -/
def regReset (idx : Nat) : Nat := match findReg idx with
  | some r => r.reset
  | none => 0

/-- The value of a register is loaded from fuses at INIT_STAT.PHASE 2 (R477). -/
def isFuseReg (idx : Nat) : Bool := match findReg idx with
  | some r => r.fuse
  | none => false

end Sys2Proof.Machine
end

