-- ==== Sys2Proof/Machine/State.lean ====
section
/-! DEFINITION. The state of the engine as plain data, the stops, and the state right after reset (R446, R477). -/

namespace Sys2Proof.Machine

/-! ### Values that travel -/

/-- Faults of the model. No command of this block raises one: the block logs its faults in its own fault collector and
goes on (R413), so the model does too. -/
inductive Fault where
  /-- Kept for the interface; nothing raises it. Safe: it could only stop a run. -/
  | neverRaised
  deriving DecidableEq, Repr

/-- Refusals of the model. -/
inductive Refusal where
  /-- Raised by the dispatch of a row that has no meaning yet. Safe: the machine stops. -/
  | notModelled (mnemonic : String)
  deriving DecidableEq, Repr

/-- A completion (R275) or event (R278) before it is written: every field but PHASE. -/
structure Entry where
  tag    : Nat
  status : Nat
  code   : Nat
  time   : Nat
  ring   : Nat
  remote : Bool
  r0     : Int
  r1     : Int
  deriving DecidableEq, Repr

/-- A resolved boundary instant (R271 step 3, R272). `frame` holds the frame index, `record` the record armed at
execution, `strobe` the number of the next load strobe. -/
inductive Bnd where
  | now
  | time (t : Nat)
  | frame (ch : Chan) (k : Nat)
  /-- a frame boundary of a grid that has been redrawn since, or whose front end has stopped: it keeps its race time (R76) -/
  | drawn (ch : Chan) (t : Nat)
  | record (ch : Chan) (recnum : Nat)
  | strobe (n : Nat)
  deriving DecidableEq, Repr

/-- A command in a staging entry (R271 step 4), on the side on which it acts. -/
structure Staged where
  id      : Nat
  issuer  : SideId
  ring    : Fin 8
  op      : Nat
  e       : CmdEntry
  words   : List Word
  bnd     : Bnd
  texec   : Nat
  /-- its boundary has come and it waits for an earlier command of the same island (R273) -/
  reached : Bool
  /-- it has taken effect and its effect is not yet whole (R273) -/
  running : Bool
  /-- FENCE: identifiers of the commands it still waits for (R284) -/
  awaits  : List Nat
  /-- numbers the command's own rule keeps until it completes -/
  aux     : List Int
  deriving DecidableEq, Repr

/-- A completion waiting for room in its ring, holding its staging entry (R276). -/
structure ComplWait where
  cq     : Nat
  ring   : Fin 8
  id     : Nat
  irqNow : Bool
  e      : Entry
  deriving DecidableEq, Repr

/-! ### The register bus -/

/-- The register bus of a side: snapshot slots (R42), staging slots (R43) and which masters have read a result since it
last changed (R45). -/
structure Bus where
  /-- master → (index of the low word, captured high word) -/
  snap  : List (Nat × (Nat × Word))
  /-- master → (index of the low word, staged high word) -/
  stage : List (Nat × (Nat × Word))
  /-- (result register, master) pairs whose FRESH is 0 -/
  seen  : List (Nat × Nat)
  deriving DecidableEq, Repr

/-! ### Rings and windows -/

/-- Indexes of a command ring (R263) and the command whose WAIT flag holds it (R269). -/
structure CmdRing where
  pi     : Nat
  ci     : Nat
  waitId : Option Nat
  deriving DecidableEq, Repr

/-- Indexes of a ring the engine writes (R263), and its entries not yet signalled (R281). -/
structure OutRing where
  pi    : Nat
  ci    : Nat
  count : Nat
  deriving DecidableEq, Repr

/-- An entry of the MSI-X table (R244): message address, message data, and whether the vector is masked. -/
structure MsixEnt where
  addr : BitVec 64
  data : BitVec 32
  mask : Bool
  deriving DecidableEq, Repr

/-- An MSI-X message an endpoint has sent: its vector, and the address and data written. -/
structure MsixMsg where
  vec  : Nat
  addr : BitVec 64
  data : BitVec 32
  deriving DecidableEq, Repr

/-- An error of the endpoint's AER log (R245): a poisoned TLP received, or an unsupported request. -/
inductive AerErr where
  | poisonedTlp | unsupportedRequest
  deriving DecidableEq, Repr

/-- The merge unit of a BAR2 window (R254): the unit it assembles and the bytes that have arrived. -/
structure MergeUnit where
  unit  : Option Nat
  bytes : List (Nat × Byte)
  deriving DecidableEq, Repr

/-- The host region of a side (R262 to R281): rings, staging entries, completions and events that wait. -/
structure HostSide where
  cmd      : List CmdRing
  cq       : List OutRing
  evq      : OutRing
  strq     : List OutRing
  /-- identifier of the next command executed -/
  nextId   : Nat
  /-- commands in staging entries of this side's islands (R271) -/
  staged   : List Staged
  /-- commands of this side's rings sent to the other side: (ring, identifier) (R274) -/
  remote   : List (Fin 8 × Nat)
  compl    : List ComplWait
  events   : List Entry
  /-- events dropped since the last EVENT_OVERFLOW was written (R279) -/
  dropped  : Nat
  /-- race time at which the event ring ran full, while events are dropped for it -/
  overflow : Option Nat
  /-- a NUDGE has asked for a doorbell read that has not been made (R265) -/
  nudged   : Bool
  /-- the last doorbell read failed (R267) -/
  dbFailed : Bool
  win      : List MergeUnit
  /-- host memory behind this side's endpoint, as the engine has written it -/
  mem      : List (Nat × Byte)
  /-- MSI-X messages this side's endpoint has sent, in order (R281) -/
  msi      : List MsixMsg
  /-- the endpoint's MSI-X table and its pending vectors (R244, R281) -/
  msix     : List MsixEnt
  pba      : List Nat
  /-- non-fatal errors the endpoint has logged (R245) -/
  aer      : List AerErr
  /-- the command ring whose turn comes next (R271) -/
  turn     : Fin 8
  deriving DecidableEq, Repr

/-! ### Islands and faults -/

/-- Conditions of an island other than running (R16, R413). -/
inductive IslCond where
  | draining | quiesced | quarantined
  deriving DecidableEq, Repr

/-- An island that is not running: its condition, and whether it was reset meanwhile (R449). -/
structure Isl where
  cond  : IslCond
  reset : Bool
  /-- a seat's state before the quiesce (R101) -/
  seat  : Nat
  deriving DecidableEq, Repr

/-- What the collector keeps beside its registers (R409 to R420). -/
structure Collector where
  /-- wires already reported broken: source, checker (R410) -/
  broken  : List (Nat × Nat)
  /-- level of the ALIVE pin (R419) -/
  alive   : Bool
  /-- fatal state of the other side already logged: 0 none, 1 Side-fatal, 2 Device-fatal (R418) -/
  told    : Nat
  deriving DecidableEq, Repr

/-! ### Race time and the split timer -/

/-- The race-time base of a side (R169 to R181). -/
structure RaceT where
  /-- the 96-bit accumulator RTA -/
  rta      : Nat
  /-- the increment in force, INC (R170) -/
  inc      : Nat
  f        : Int
  p        : Int
  /-- rising DEVCLK edges counted -/
  edges    : Nat
  incPend  : Option Nat
  loadPend : Option Nat
  /-- the next PPS edge is the first since DISC_EN went to 1 (R174) -/
  ppsFirst : Bool
  /-- DEVCLK edge count at the last accepted PPS edge; none after holdover or enable (R175) -/
  ppsLast  : Option Nat
  lockRun  : Nat
  syncRun  : Nat
  syncLast : Option Nat
  /-- edges stamped before this race time are left to the old cox (R181) -/
  ppsFrom  : Nat
  deriving DecidableEq, Repr

/-- An open measurement (R186 to R189). -/
structure Meas where
  src      : Nat
  start    : Nat
  startTs  : Int
  lastTs   : Int
  slots    : Nat
  tooClose : Nat
  num      : Nat
  deriving DecidableEq, Repr

/-- A tie (R183): its split time, the race time of its DEVCLK edge with every step since added, and the stamp it was converted from
(R401). -/
structure Tie where
  ts     : Int
  rt     : Int
  coarse : Nat
  tap    : Nat
  deriving DecidableEq, Repr

/-- The split timer of a side (R182 to R191). -/
structure SplitT where
  /-- ties, latest first (R183) -/
  ties    : List Tie
  /-- ties since PLL-T locked (R184) -/
  tieRun  : Nat
  /-- inputs with a swap requested (R182) -/
  swapReq : List Nat
  /-- THRESH and TERM50 in force of the SPLIT inputs (R185) -/
  thr     : List (Nat × Bool)
  meas    : Option Meas
  measNum : Nat
  /-- event stamps per source 4 to 7: count, split time of the last stamped edge, edges in dead time (R190) -/
  evtCnt  : List Nat
  evtLast : List (Option Int)
  evtDead : List Nat
  deriving DecidableEq, Repr

/-! ### Ingest and front end -/

/-- A JESD204C receiver of a channel beside its registers (R46 to R52). -/
structure Jesd where
  /-- step of bring-up the receiver is in (R49): 0 off, 1 sync headers, 2 extended multiblocks, 3 measuring,
  4 waiting for SYSREF, 5 waiting for release, 6 up -/
  step     : Nat
  /-- DEVCLK edge of the SYSREF edge the internal LEMC was aligned to -/
  lemc     : Option Nat
  /-- multiblocks received per lane since the front end's start -/
  mbs      : List Nat
  /-- failing lane multiblocks (lane, multiblock) (R51) -/
  bad      : List (Nat × Nat)
  /-- the link is down and zero codes are substituted (R52) -/
  outage   : Bool
  /-- extended multiblock at which substitution ends -/
  resumeAt : Option Nat
  /-- first extended multiblock of the outage, and the next one to count as substituted -/
  lostFrom : Option Nat
  lostUpTo : Option Nat
  deriving DecidableEq, Repr

/-- A complex sample inside the front end, with the marks INGEST_CRC and INGEST_LOST (R51, R52). -/
structure Smp where
  i    : Int
  q    : Int
  crc  : Bool
  lost : Bool
  deriving DecidableEq, Repr

/-- An analysis sample as it leaves the front end: index, word and the residue codes of its components (R118), marks and race time
(R54). -/
structure ASmp where
  m    : Nat
  w    : Word
  r    : Nat × Nat
  crc  : Bool
  lost : Bool
  t    : Nat
  deriving DecidableEq, Repr

/-- A delay line of a filter stage: inputs received so far, and the latest of them, newest first. -/
structure Line where
  n : Nat
  x : List Smp
  deriving DecidableEq, Repr

/-- An equaliser fade (R66): its first sample, K, and the bank it leaves. -/
structure Fade where
  mb  : Nat
  k   : Nat
  old : Nat
  deriving DecidableEq, Repr

/-- The front end of a channel (R53 to R74). -/
structure FrontEnd where
  /-- the block stored, five words (R71) -/
  block    : List Word
  /-- the block in force while the front end runs; once a start is accepted, the block it starts with -/
  force    : List Word
  /-- a start waits for the next internal LEMC boundary (R72) -/
  starting : Bool
  j        : Nat
  acc      : Nat
  freq     : Nat
  phase    : Nat
  /-- NCO changes made: converter sample, ACC there, FREQ, PHASE_OFFSET, latest first (R59) -/
  ncoHist  : List (Nat × Nat × Nat × Nat)
  /-- pending NCO changes: converter sample, FREQ, PHASE_OFFSET (R58) -/
  nco      : List (Nat × Nat × Nat)
  /-- the converter codes received since j = 0, newest first, with their marks INGEST_CRC and INGEST_LOST -/
  codes    : List (Nat × Nat × Bool × Bool)
  hb       : List Line
  fin      : Line
  eq       : Line
  /-- index of the next analysis sample -/
  m        : Nat
  /-- origin m0 of the frame grid (R69) -/
  m0       : Nat
  /-- DEVCLK edge of internal LEMC boundary 0 of the run; boundaries passed, with race time (RTA) and INC there; and the steps of race
  time since, with the boundary before each -/
  startEdge : Nat
  lemcT    : List (Nat × Nat × Nat)
  steps    : List (Nat × Int)
  /-- LOG2N and OF exponent of the grid in force (R76) -/
  gridP    : Nat
  gridOf   : Nat
  fade     : Option Fade
  /-- pending swap: FADE_K and the first sample of its fade (R65) -/
  swapPend : Option (Nat × Nat)
  /-- the equaliser banks, 2 × 64 words (R64) -/
  eqTab    : List (Nat × Word)
  /-- the RAM window of the channel, 65,536 entries, and the residues stored with them (R89, R119) -/
  ramWin   : List (Nat × Word)
  ramRes   : List (Nat × Nat)
  deriving DecidableEq, Repr

/-! ### Transform lanes -/

/-- A frame in a seat or in the combiner (R77, R78, R84 to R86). -/
structure Frame where
  k     : Nat
  /-- slot, and the seat that holds it, none for a frame without one -/
  slot  : Nat
  seat  : Option Nat
  p     : Nat
  win   : Nat
  gain  : Int
  x     : List Word
  /-- residue codes of the samples, kept with them (R85, R118) -/
  res   : List (Nat × Nat)
  tf    : Nat
  tl    : Nat
  crc   : Bool
  lost  : Bool
  recomp : Bool
  void  : Bool
  /-- the result has passed the seat's final checker (R85) -/
  passed : Bool
  deriving DecidableEq, Repr

/-- A frame as the combiner releases it: bins in centred order and the frame exponent (R111). -/
structure Bins where
  k    : Nat
  p    : Nat
  win  : Nat
  gain : Int
  fx   : Nat
  y    : List (Int × Int)
  /-- residue codes of the bins (R118) -/
  res  : List (Nat × Nat)
  tf   : Nat
  tl   : Nat
  crc  : Bool
  lost : Bool
  recomp : Bool
  void : Bool
  deriving DecidableEq, Repr

/-- The transform of a channel (R76 to R103). -/
structure Xform where
  block    : List Word
  force    : List Word
  run      : Bool
  seats    : Nat
  kNext    : Nat
  /-- staged changes of WINDOW and RAM_GAIN: first sample they apply to, window, gain (R88) -/
  winChg   : List (Nat × Nat × Int)
  /-- analysis samples kept for frames not yet dispatched -/
  buf      : List ASmp
  flight   : List Frame
  released : List Bins
  /-- frames that had begun to enter a seat when it tripped: slot, frame, and that they become VOID (R93, R94) -/
  marked   : List (Nat × Nat × Bool)
  deriving DecidableEq, Repr

/-- A seat's retirement or return in progress (R98, R100). -/
inductive SeatJob where
  | none
  /-- of a retiring seat: the mirroring seat, the first mirrored frame k_m, channel and slot, and that the retiring seat has tripped
  (R99) -/
  | retire (newSeat km ch slot : Nat) (tripped : Bool) (issuer : SideId) (id : Nat)
  | return (id : Nat)
  deriving DecidableEq, Repr
/-! ### Memories -/

/-- An entry of a merge buffer (R318) or gather buffer (R296): the block and the words that have arrived for it. -/
structure MergeEnt where
  blk   : Nat
  src   : Nat
  words : List (Nat × Word)
  deriving DecidableEq, Repr

/-- A memory protected by the block product code (R293, R316): the words as written, the stored bits that differ from
what was written (block, then word and bit), poisoned blocks, blocks written with injected checks, narrow writes that
wait, oldest first. -/
structure BpcMem where
  words  : List (Nat × Word)
  flips  : List (Nat × List (Nat × Nat))
  poison : List (Nat × Unit)
  inj    : List (Nat × Unit)
  buf    : List MergeEnt
  deriving DecidableEq, Repr

/-- The SRAM and scrubber of a side (R314 to R326): memory, soft repairs (bank, physical row), and rows corrected in the
current and the previous scrub pass. -/
structure Sram where
  mem      : BpcMem
  repairs  : List (Nat × Nat)
  fixedNow : List (Nat × Nat)
  fixedOld : List (Nat × Nat)
  /-- next block of the SRAM and of the DRAM scrub pass -/
  scrubS   : Nat
  scrubD   : Nat
  deriving DecidableEq, Repr

/-- A trained eye of a lane (R308): the delay tap, the Vref step, and the width of the pass window in taps. -/
structure Eye where
  delay : Nat
  vref  : Nat
  width : Nat
  deriving DecidableEq, Repr

/-- A subchannel's refresh state (R305, R306): its temperature indication and doubled mode. -/
structure RefSub where
  hot    : Bool
  doubled : Bool
  deriving DecidableEq, Repr

/-- The DRAM of a side (R290 to R312). Its extent in blocks per subchannel and the channels in the interleave are fixed
at training; `extent` is the number of words of space 1. -/
structure Dram where
  mem     : BpcMem
  subCap  : Nat
  chans   : List Nat
  extent  : Nat
  ref     : List RefSub
  /-- write-delay correction per subchannel and lane, in taps from the trained value (R310) -/
  drift   : List (List Int)
  /-- read and write eye of every lane of a channel, at RATE and at ALT_RATE (R308) -/
  train   : List (List (Eye × Eye))
  train2  : List (List (Eye × Eye))
  /-- the real-time ports 0 to 4 that are in panic (R301) -/
  panic   : List Bool
  /-- a rate switch or map-out in progress: channels named (R312, R455) -/
  fcBusy  : Bool
  mapout  : Option Nat
  deriving DecidableEq, Repr
/-! ### Records and streams -/

/-- A spectra line (R223): frame index, its last sample, its words and marks. -/
structure SpLine where
  k      : Nat
  endM   : Nat
  words  : List Word
  ingest : Bool
  recomp : Bool
  void   : Bool
  deriving DecidableEq, Repr

/-- An accepted trigger of an armed channel (R206, R224): m_T and the trigger record's eight words. -/
structure Trig where
  mT    : Nat
  mLast : Nat
  words : List Word
  deriving DecidableEq, Repr

/-- A finished segment, or the whole of a single record (R224, R231). -/
structure Seg where
  num      : Nat
  first    : Nat
  last     : Nat
  share    : Nat
  spFirst  : Nat
  spLines  : Nat
  spShare  : Nat
  disarmed : Bool
  deriving DecidableEq, Repr

/-- An armed record (R222 to R230). -/
structure Rec where
  num     : Nat
  block   : List Word
  /-- stop fields in force at ARM: STOP_EN, STOP_MASK, STOP_NMIN, POST_STOP (R213) -/
  stop    : List Nat
  /-- the first sample at or after the ARM's boundary -/
  armM    : Nat
  mA      : Nat
  /-- slot being written, its first sample, and the next sample to be written -/
  slot    : Nat
  slotM   : Nat
  next    : Nat
  /-- samples that have left the front end and are not yet written, oldest first -/
  samples : List ASmp
  /-- samples since ARM made with an ingest mark, or under UNSYNCED -/
  marks   : List (Nat × Bool × Bool)
  /-- lines that wait, oldest first, and the marks of lines written: last sample, ingest, recomputed, VOID -/
  lines   : List SpLine
  lineMarks : List (Nat × Bool × Bool × Bool)
  /-- k_A, the number of lines written, and that at the start of the slot being written (R223) -/
  kA      : Nat
  nextL   : Nat
  slotL   : Nat
  /-- triggers accepted since ARM, oldest first -/
  trigs   : List Trig
  segs    : List Seg
  poison  : Bool
  segPoison : Bool
  /-- the first sample that a DISARM keeps from being written (R229) -/
  stopM   : Option Nat
  /-- writing has stopped for good (R230): the first sample not written -/
  truncated : Option Nat
  deriving DecidableEq, Repr

/-- The last record of a channel once complete, for READ_RECORD (R233). -/
structure DoneRec where
  num   : Nat
  block : List Word
  mA    : Nat
  segs  : List Seg
  drained : Bool
  deriving DecidableEq, Repr

/-- Acquisition of a channel (R221 to R234). -/
structure Acq where
  block : List Word
  armed : Option Rec
  last  : Option DoneRec
  /-- the 32-word header (R231) -/
  hdr   : List Word
  /-- PPS_RESID results: latest and the one before (R231) -/
  resid : List (Nat × Nat)
  /-- the last post-trigger sample of the channel's records since its front end started (R207) -/
  lastPost : Option Nat
  deriving DecidableEq, Repr

/-- A finished stream packet (R238): header fields and payload bytes. -/
structure Packet where
  flags : Nat
  seq   : Nat
  time  : Nat
  index : Nat
  lost  : Nat
  aux   : Nat
  items : Nat
  bytes : List Byte
  deriving DecidableEq, Repr

/-- An item on its way into a packet: race time, FLAGS bits from bit 16 on, RECNUM of a record's item, and words, none for an
item the formatter could not take. -/
structure Item where
  time  : Nat
  flags : Nat
  recn  : Nat
  words : List Word
  deriving DecidableEq, Repr

/-- A stream ring's binding and queues (R235 to R241). -/
structure Strm where
  bound   : Bool
  source  : Nat
  ch      : Chan
  pack    : Nat
  pktLog2 : Nat
  div     : Nat
  slot    : Nat
  lo      : Nat
  hi      : Nat
  spillBase : Nat
  spillLen  : Nat
  /-- items are taken from this race time on, and up to the other -/
  fromT   : Nat
  stopT   : Option Nat
  /-- images or frames seen, for every DIV-th -/
  seen    : Nat
  index   : Nat
  seq     : Nat
  sent    : Nat
  lost    : Nat
  items   : List Item
  /-- packets in the spill, oldest first, and the byte offsets of its read and write points (R240) -/
  spill   : List Packet
  spillR  : Nat
  spillW  : Nat
  /-- a run of dropped packets: time and index of the first lost item, and the count (R240) -/
  gap     : Option (Nat × Nat × Nat)
  /-- the open buffer: bus address, length, bytes used, packets -/
  buf     : Option (Nat × Nat × Nat × Nat)
  /-- RECORD source: record being drained, next sample to deliver, header sent (R230) -/
  recNum  : Option Nat
  recNext : Nat
  recHead : Bool
  /-- FLAGS of the last packet, once the stream ends: STOP_END or SRC_STOPPED; and that packet has been made (R236) -/
  endFlag : Nat
  ended   : Bool
  deriving DecidableEq, Repr
/-! ### Calibration -/

/-- A CAL_RUN or CAL_RESTORE in progress (R397 to R400, R407). -/
structure CalJob where
  restore   : Bool
  /-- items of the command's mask -/
  mask      : Nat
  /-- CAL_RUN item 0: the second interpolators are being calibrated, and inputs whose swap was not taken (R401) -/
  second    : Bool
  late      : List Nat
  issuer    : SideId
  id        : Nat
  left      : List Nat
  /-- items whose values are staged and not yet in force -/
  waiting   : List Nat
  installed : Nat
  disagreed : Nat
  faulted   : Nat
  splitOut  : Nat
  toneOut   : Nat
  deriving DecidableEq, Repr

/-- Calibration of a side (R396 to R407). The store is in the registers; `force` holds values in force that differ from
the fuses, `staged` values waiting for their item's boundary. -/
structure Cal where
  force  : List (Nat × Word)
  staged : List (Nat × List (Nat × Word))
  job    : Option CalJob
  /-- SPLIT inputs whose first interpolator is calibrated and whose swap is awaited (R401) -/
  swaps  : List Nat
  deriving DecidableEq, Repr
/-! ### Spectral products and density -/

/-- What a trace point gathers over an accumulation (R131, R132): greatest, least and last value, the sum, and the power
accumulator. -/
structure Pt where
  hi  : Nat
  lo  : Nat
  lst : Nat
  sum : Nat
  a   : Nat
  e   : Int
  n   : Nat
  deriving DecidableEq, Repr

/-- A trace slot (R129 to R136): settings in force (three words) and their successor, and the accumulation in progress. -/
structure Slot where
  on     : Bool
  cfg    : List Word
  /-- settings that wait for an accumulation boundary: race time of the change, settings, and whether they restart the hold
  (R133, R134) -/
  next   : List (Nat × List Word × Bool)
  /-- race time from which a frame may begin the first accumulation -/
  fromT  : Nat
  frames : Nat
  kc     : Nat
  pts    : List Pt
  void   : Bool
  recomp : Bool
  ingest : Bool
  tFirst : Nat
  tLast  : Nat
  seq    : Nat
  hold   : Option (List Nat)
  /-- the accumulation in progress was discarded: no frame counts, and no image is made, up to its boundary (R322) -/
  skip   : Bool
  deriving DecidableEq, Repr

/-- The images of a slot (R136, R146): region, sizes, and the current buffer. They outlast the slot's enable. -/
structure Image where
  base : Nat
  wi   : Nat
  len  : Nat
  cur  : Option Nat
  /-- images completed since enable -/
  made : Nat
  deriving DecidableEq, Repr

/-- A band's group (R138). -/
structure Band where
  frames : Nat
  kc     : Nat
  a      : Nat
  e      : Int
  ingest : Bool
  deriving DecidableEq, Repr

/-- The cross-spectrum of a channel (R144 to R147): sums per bin, and partner frames not yet paired. -/
structure XSpec where
  /-- race time from which frames of X take part -/
  fromT  : Nat
  frames : Nat
  kc     : Nat
  sr     : List Int
  si     : List Int
  sx     : List Nat
  sy     : List Nat
  void   : Bool
  recomp : Bool
  ingest : Bool
  tFirst : Nat
  tLast  : Nat
  seqX   : Nat
  /-- partner frames that wait, and frames of X that wait for one, oldest first -/
  part   : List Bins
  own    : List Bins
  /-- race time has stepped on a side since the last pairing (R147); pairing was lost -/
  gap    : Bool
  dead   : Bool
  /-- a cross-side partner: its slots, its samples off the Keel, and its next frame (R147) -/
  slots  : Nat
  rx     : List ASmp
  nextK  : Nat
  /-- the partner's frames in their seats, oldest first -/
  flight : List Frame
  /-- the accumulation in progress was discarded (R322) -/
  skip   : Bool
  deriving DecidableEq, Repr

/-- A mask's LOAD_TABLE that waits for a frame boundary (R140). -/
structure MaskSwap where
  mask : Nat
  fromT : Nat
  issuer : SideId
  id   : Nat
  deriving DecidableEq, Repr

/-- Settings of bands and masks that apply from a frame on (R138, R151). -/
structure BandSet where
  fromT : Nat
  block : List Word
  deriving DecidableEq, Repr

/-- A spectrogram line that waits for the acquisition port (R142). -/
structure SpgLine where
  seq   : Nat
  addr  : Nat
  words : List Word
  deriving DecidableEq, Repr

/-- The spectral post-processor of a channel (R127 to R152). -/
structure Pp where
  /-- the block stored, and the band and mask words in force -/
  block  : List Word
  force  : List Word
  /-- race time from which products take frames -/
  fromT  : Nat
  slots  : List Slot
  images : List Image
  bands  : List Band
  bandChg : List BandSet
  xs     : XSpec
  /-- mask memories of bank 0 and bank 1, the key being mask · 65,536 + bin; an unlisted entry is R139's -/
  mask0  : List (Nat × Word)
  mask1  : List (Nat × Word)
  /-- active bank per mask, as changes (race time, bank), latest first -/
  banks  : List (List (Nat × Nat))
  swaps  : List MaskSwap
  spg    : List SpgLine
  /-- the frame that comes next is VOID, a checker having tripped twice on it (R122) -/
  voidHead : Bool
  deriving DecidableEq, Repr

/-- A frame on its way to the density engine: the frame's bins and level codes are formed from it (R128). -/
structure DFrame where
  k     : Nat
  levels : List Nat
  tf    : Nat
  tl    : Nat
  void  : Bool
  recomp : Bool
  ingest : Bool
  deriving DecidableEq, Repr

/-- A DENSITY_READ that copies (R165, R166): the plane's words as they were when its copy was cut, if it was. -/
structure DensCopy where
  issuer : SideId
  id     : Nat
  hdr    : List Word
  buf    : Nat
  cut    : Option (List (Nat × Word))
  deriving DecidableEq, Repr

/-- The density engine of a channel (R153 to R168). -/
structure Dens where
  block  : List Word
  /-- fields in force: the block as it applies to the active period -/
  force  : List Word
  /-- race time from which frames count, after a start -/
  fromT  : Nat
  /-- frames from the post-processor -/
  queue  : List DFrame
  held   : Nat
  /-- number of the active period; 0 before the first frame of a run -/
  period : Nat
  tBase  : Nat
  /-- swaps since T_base -/
  perN   : Nat
  count  : Nat
  frames : Nat
  void   : Bool
  recomp : Bool
  ingest : Bool
  sat    : Bool
  restart : Bool
  decay  : Nat
  tFirst : Nat
  tLast  : Nat
  remap  : Bool
  hdr    : List Word
  /-- starts of vertical blanking seen since the period began (R161 mode 2), oldest first -/
  blanks : List Nat
  copy   : Option DensCopy
  deriving DecidableEq, Repr
/-! ### The Starter -/

/-- An instant that is not yet decided (R194): its occurrences, and a FORCE that joins it. -/
structure Inst where
  /-- steps of race time before its stamp: instants of before a step come first (R196) -/
  ep    : Nat
  t     : Nat
  occ   : List Occ
  /-- counters already latched at this instant (R198) -/
  latched : List Nat
  /-- forced GOs: channels, pins, issuer and identifier of the command -/
  force : List (Nat × Nat × SideId × Nat)
  /-- channels whose frames made occurrences here, with the frame's last sample (R206) -/
  last  : List (Nat × Nat)
  deriving DecidableEq, Repr

/-- The Starter of a side (R194 to R220). -/
structure Starter where
  block   : List Word
  force   : List Word
  /-- accepted blocks that apply from an instant on: epoch, race time, block (R219) -/
  next    : List (Nat × Nat × List Word)
  h       : Nat
  dTo     : Nat
  /-- steps of race time so far -/
  ep      : Nat
  /-- those steps since the program's start, latest first: race time before the step, and its size (R196) -/
  steps   : List (Nat × Int)
  /-- instants before this one, by epoch and race time, are decided -/
  decEp   : Nat
  decided : Nat
  /-- the program evaluates from this instant on -/
  fromEp  : Nat
  fromT   : Nat
  insts   : List Inst
  /-- running timers: epoch and race time of the expiry -/
  timers  : List (Option (Nat × Nat))
  /-- magnitude detectors that are HIGH: 2c + d -/
  high    : List Nat
  /-- stop test of a channel spent since its ARM (R212) -/
  spent   : List Nat
  trigNum : List Nat
  /-- TRIGOUT pins: race time at which the asserted pin is released -/
  outs    : List (Option Nat)
  /-- pulses to come: pin, instant -/
  pulses  : List (Nat × Nat)
  /-- raise times of this side's device-trigger requests that wait (R215) -/
  reqs    : List Nat
  /-- arbitration times of accepted requests, latest first -/
  accepted : List Nat
  deriving DecidableEq, Repr
/-! ### Cox cores -/

/-- A register set of a core (R331). Accumulators are held values with their wrap counts: whole, low half, high half. -/
structure Acc where
  v   : BitVec 88
  w   : Int
  wLo : Int
  wHi : Int
  deriving DecidableEq, Repr

/-- A level of the loop stack (R342): start, end, passes left. -/
structure Loop where
  start : Nat
  last  : Nat
  left  : Nat
  deriving DecidableEq, Repr

/-- One of a core's two register sets (R331). -/
structure RegSet where
  g   : List Word
  acc : List Acc
  /-- residue codes of the g registers, and of the high and low halves of the accumulators (R349) -/
  gr  : List Nat
  ar  : List (Nat × Nat)
  /-- x0 to x3, y0 to y3 -/
  xy  : List Nat
  sat : Bool
  gov : Bool
  psn : Bool
  loops : List Loop
  deriving DecidableEq, Repr

/-- A long operation that is outstanding (R344, R345): its tag, the set that issued it, where its words land and its status. -/
structure LongOp where
  tag    : Nat
  shadow : Bool
  /-- 0 register g, 1 X memory, 2 Y memory; nothing lands of a store: 3 one word, 4 a block -/
  dest   : Nat
  place  : Nat
  words  : List Word
  status : Nat
  poison : Bool
  /-- it crosses the Keel (R345), and its device address -/
  remote : Bool
  addr   : Nat
  deriving DecidableEq, Repr

/-- What the instruction just issued lets its successor still see (R340): old values of loaded g registers, of g registers
written by the ALU for a branch test, of accumulators for ACC operations, and of address registers. -/
structure Hazard where
  ldOld  : List (Nat × Word)
  aluOld : List (Nat × Word)
  accOld : List (Nat × Acc)
  agOld  : List (Nat × Nat)
  deriving DecidableEq, Repr

/-- A Cox core (R328 to R355). -/
structure Core where
  /-- 0 HALTED, 1 RUNNING, 2 WAITING -/
  st     : Nat
  cause  : Nat
  bank   : Nat
  ctx    : Bool
  pc     : Nat
  /-- the target a taken branch goes to after its delay slot; the instruction is a delay slot -/
  slot   : Option Nat
  inSlot : Bool
  /-- the delay slot of an RTI: it restores the main set -/
  rti    : Bool
  main   : RegSet
  shadow : RegSet
  amod   : List Nat
  la     : List Nat
  calls  : List Nat
  ops    : List LongOp
  tagSt  : List Nat
  imask  : Nat
  ipend  : Nat
  ipc    : Nat
  tsel   : Nat
  alarmLo : Nat
  alarmHi : Nat
  armed  : Bool
  rtHi   : Nat
  hz     : Hazard
  /-- WAITT stalls on this tag -/
  waitTag : Option Nat
  /-- a SWITCH that waits for an idle point and its ARG (R353), and HALT commands that wait for tags (R352) -/
  sw     : Option (SideId × Nat)
  arg    : Word
  halts  : List (SideId × Nat)
  deriving DecidableEq, Repr
/-! ### Clocks, tones, monitor and scan-out -/

/-- The PLLs of a side (R356 to R369) beside their registers. -/
structure Clk where
  /-- PLL-F in force: F, SS_MODE, SS_DEPTH, WIN, NC; and of the target of a ladder -/
  f      : List Nat
  target : Option (List Nat)
  /-- FB of the step in force (R358) -/
  fb     : Nat
  /-- PLL-T in force: T_MULT, WIN, NC -/
  tm     : List Nat
  /-- lock fields of PLL-M taken at its last relock -/
  m      : List Nat
  pendF  : Option (List Nat)
  pendT  : Option (List Nat)
  /-- the loops have locked since the side started; each may be in acquisition after a loss -/
  fLost  : Bool
  tLost  : Bool
  mLost  : Bool
  /-- PLL-T is gated by a taken commit -/
  tComm  : Bool
  /-- PLL-F, PLL-M coast on a loss of lock with the reference present and have not re-entered acquisition -/
  coast  : Bool
  mCoast : Bool
  deriving DecidableEq, Repr

/-- A set of a tone output (R376): words 5 to 7 of TONE_STAGE. -/
structure ToneSet where
  w5 : Nat
  w6 : Nat
  w7 : Nat
  deriving DecidableEq, Repr

/-- A tone output (R370 to R384). -/
structure Tone where
  staged : Option ToneSet
  force  : Option ToneSet
  acc    : Nat
  /-- tracking: origin frame, and j (R373) -/
  trkK0  : Option Nat
  trkJ   : Nat
  /-- race time from which TRACKING looks for its first frame -/
  trkT   : Nat
  /-- playback: next word, ended, samples within a group of four, and the two interpolation lines -/
  pbPos  : Nat
  pbEnd  : Bool
  pbSub  : Nat
  l1     : List (Int × Int)
  l2     : List (Int × Int)
  /-- strobed since enable -/
  strobed : Bool
  /-- muted by a range change until this race time -/
  hold   : Option Nat
  /-- gated and not strobed since -/
  pll    : Bool
  /-- the code of the last DAC sample -/
  code   : Int
  deriving DecidableEq, Repr

/-- Load strobes of a side (R377 to R379). -/
structure Strobes where
  /-- fixed strobes to come: t_s, and the STROBE commands that complete with it -/
  due   : List (Nat × List (SideId × Nat))
  /-- t_s of the strobes taken, latest first -/
  done  : List Nat
  /-- STROBE requests whose t_s is not yet fixed by the cox side: command -/
  reqs  : List (SideId × Nat)
  deriving DecidableEq, Repr

/-- The monitor converter (R385 to R395). -/
structure Mon where
  /-- per modulator: input being served and output periods left to discard -/
  cur   : List (Option Nat)
  drop  : List Nat
  /-- DEC_LOG2 and FIR_SEL in force -/
  dec   : Nat
  fir   : Nat
  /-- per modulator: the last two outputs of its sinc4 stage, newest first (R387) -/
  hist  : List (List Int)
  /-- staged LOG2LEN -/
  resize : Option Nat
  seqs  : List Nat
  deriving DecidableEq, Repr

/-- An image copy of the scan-out (R429): header NP and levels. -/
structure SoTrace where
  np   : Nat
  lev  : List Nat
  deriving DecidableEq, Repr

/-- The scan-out of a side (R422 to R439). `force` holds the shadowed registers in force, by register index. -/
structure ScanOut where
  force  : List (Nat × Word)
  palS   : List (Nat × Word)
  pal    : List (Nat × Word)
  run    : Bool
  /-- the timing generator waits for its synthesiser; frames of the new timing not yet sent -/
  relock : Bool
  idle   : Nat
  /-- within vertical blanking after the cut-off -/
  blank  : Bool
  newest : Nat
  traces : List (Option SoTrace)
  /-- next line to compose, and the composed lines not yet sent -/
  line   : Nat
  pix    : List (List Nat)
  /-- a density swap fell within the composition of this display frame, already counted -/
  tear   : Bool
  /-- link: HPD high, trained setting, and that it carries the mode -/
  sink   : Option DpSink
  deriving DecidableEq, Repr
/-! ### Sides and package -/

/-- Power and reset of a side (R440 to R458). -/
structure Power where
  /-- a side reset has been written and is not yet asserted (R447) -/
  resetPend : Bool
  /-- the side has stopped in a fatal state (R417, R419) -/
  fatal     : Bool
  /-- the cores that the flash directory names an image for, bit c for core c (R451) -/
  img       : Nat
  deriving DecidableEq, Repr

/-- One die (R10). Registers, status bits and counters that software sees are held in `regs`, sparse over the reset
values of chapter 23; the other fields are the state behind them. -/
structure Side where
  who   : SideId
  regs  : List (Nat × Word)
  /-- fuse values have been loaded (INIT_STAT.PHASE 2) -/
  fuse  : Bool
  bus   : Bus
  host  : HostSide
  /-- islands that are not running, by source ID without the side bit -/
  isl   : List (Nat × Isl)
  col   : Collector
  rt    : RaceT
  split : SplitT
  jesd  : List Jesd
  fe    : List FrontEnd
  xf    : List Xform
  seatJob : List SeatJob
  pp    : List Pp
  dens  : List Dens
  starter : Starter
  acq   : List Acq
  strm  : List Strm
  sram  : Sram
  dram  : Dram
  cal   : Cal
  cores : List Core
  /-- program memories of the cores (R329), one memory for space 4 -/
  coxMem : BpcMem
  clk   : Clk
  tone  : List Tone
  strobe : Strobes
  mon   : Mon
  so    : ScanOut
  pwr   : Power
  deriving DecidableEq, Repr

/-- A class 0 or class 1 message in flight on the Keel (R21). -/
inductive KeelMsg where
  | rtSync (t : Nat)
  | xside (lines : BitVec 8) (t : Nat)
  | summary (worst count fatal : Nat)
  | strobe (t : Nat)
  /-- a crew side's request for a strobe at t_s, on its way to the cox side (R378) -/
  | strobeReq (t : Nat)
  deriving DecidableEq, Repr

/-- A staged cox handover (R33). -/
structure Handover where
  target : SideId
  t      : Nat
  issuer : SideId
  actor  : SideId
  id     : Nat
  /-- a claim with the Keel down (R34) -/
  claim  : Bool
  deriving DecidableEq, Repr

/-- The Keel and what is on its way across it (R20 to R34, R274). -/
structure Keel where
  up       : Bool
  /-- the Keel has been up, or both sides already run solo, since RESET_N (R27) -/
  everUp   : Bool
  resolving : Bool
  /-- messages towards a side, oldest first -/
  msgs     : List (SideId × KeelMsg)
  /-- staged handovers, in execution order -/
  handover : List Handover
  /-- the side that held cox before the last handover, and its T: requests of before T are arbitrated there (R33, R215) -/
  moved    : Option (SideId × Nat)
  /-- commands sent to the other side and not yet staged there, by acting side (R274) -/
  cmds     : List (SideId × Staged)
  /-- completions on their way back, by issuing side: ring, identifier, FLAGS, entry (R274) -/
  dones    : List (SideId × Fin 8 × Nat × CmdEntry × Entry)
  /-- remote reads in flight (R257, R258): requester's side, master, device address, the words they will return, and EP (R256) -/
  reads    : List (SideId × Nat × Nat × List Word × Bool)
  deriving DecidableEq, Repr

/-- Pins and units of the package. -/
structure Package where
  /-- RESET_N asserted, rails in range, and the cause of the last start (R444, R458) -/
  resetN   : Bool
  railOk   : Bool
  cause    : Nat
  /-- straps as sampled at the release of RESET_N (R445) -/
  coxpref  : Bool
  bootsrc  : Bool
  /-- SMBus target: side, register index, and that the last READ returned zero (R469) -/
  smbSide  : Bool
  smbIdx   : Nat
  smbZero  : Bool
  /-- test access port (R470): instruction, boundary register, bypass bit, and what was last shifted out -/
  tapIr    : Nat
  boundary : List Bool
  bypass   : Bool
  tdo      : List Bool
  deriving DecidableEq, Repr

/-- The engine: two sides, the Keel between them, the package, and the queue of commands that wait. -/
structure State where
  stroke  : Side
  bow     : Side
  keel    : Keel
  pkg     : Package
  /-- what the last read command returned -/
  rd      : List Word
  /-- its completion carried EP (R256) -/
  ep      : Bool
  /-- counter of the free values taken so far -/
  free    : Nat
  pending : List Instr
  deriving DecidableEq, Repr
/-! ### The machine after reset

What the spec gives is followed; a field of the model that the spec does not name is empty or 0. -/

/-- An empty front end: zero filter state, nothing running, the block of R71's Reset column. -/
def FrontEnd.init : FrontEnd where
  block := [wordN (10 * 2 ^ 19), 0, 0, 0, 0]
  force := [wordN (10 * 2 ^ 19), 0, 0, 0, 0]
  starting := false
  j := 0
  acc := 0
  freq := 0
  phase := 0
  ncoHist := []
  nco := []
  codes := []
  hb := []
  fin := ⟨0, []⟩
  eq := ⟨0, []⟩
  m := 0
  m0 := 0
  startEdge := 0
  lemcT := []
  steps := []
  gridP := 10
  gridOf := 3
  fade := none
  swapPend := none
  eqTab := []
  ramWin := []
  ramRes := []

/-- A receiver that is off. -/
def Jesd.init : Jesd := ⟨0, none, List.replicate 8 0, [], false, none, none, none⟩

/-- The transform before its first CONFIGURE: R102's Reset column. -/
def Xform.init : Xform where
  block := [wordN (10 * 2 ^ 31 + 3 * 2 ^ 29 + 1 * 2 ^ 26), 0]
  force := [wordN (10 * 2 ^ 31 + 3 * 2 ^ 29 + 1 * 2 ^ 26), 0]
  run := false
  seats := 0
  kNext := 0
  winChg := []
  buf := []
  flight := []
  released := []
  marked := []

/-- A trace point that has gathered nothing. -/
def Pt.init : Pt := ⟨0, 0, 0, 0, 0, 0, 0⟩

/-- A slot that is off. -/
def Slot.init : Slot where
  on := false
  cfg := [0, 0, 0]
  next := []
  fromT := 0
  frames := 0
  kc := 0
  pts := []
  void := false
  recomp := false
  ingest := false
  tFirst := 0
  tLast := 0
  seq := 0
  hold := none
  skip := false

/-- A cross-spectrum that has gathered nothing. -/
def XSpec.init : XSpec where
  fromT := 0
  frames := 0
  kc := 0
  sr := []
  si := []
  sx := []
  sy := []
  void := false
  recomp := false
  ingest := false
  tFirst := 0
  tLast := 0
  seqX := 0
  part := []
  own := []
  gap := false
  dead := false
  slots := 0
  rx := []
  nextK := 0
  flight := []
  skip := false

/-- The SPECTRAL block of R150's Reset column. -/
def spectralReset : List Word := List.replicate 30 0 ++ [wordN (6 * 2 ^ 27), 0]

/-- A post-processor after reset. -/
def Pp.init : Pp where
  block := spectralReset
  force := spectralReset
  fromT := 0
  slots := List.replicate 6 Slot.init
  images := List.replicate 8 ⟨0, 0, 0, none, 0⟩
  bands := List.replicate 8 ⟨0, 0, 0, 0, false⟩
  bandChg := []
  xs := XSpec.init
  mask0 := []
  mask1 := []
  banks := List.replicate 4 [(0, 0)]
  swaps := []
  spg := []
  voidHead := false

/-- The DENSITY block of R167's Reset column. -/
def densityReset : List Word :=
  [wordN (5 * 2 ^ 29 + 256 * 2 ^ 20), 0x3FF, wordN (0x18000 * 2 ^ 18), 0x411B]

/-- A density engine after reset. -/
def Dens.init : Dens where
  block := densityReset
  force := densityReset
  fromT := 0
  queue := []
  held := 0
  period := 0
  tBase := 0
  perN := 0
  count := 0
  frames := 0
  void := false
  recomp := false
  ingest := false
  sat := false
  restart := false
  decay := 0
  tFirst := 0
  tLast := 0
  remap := false
  hdr := List.replicate 8 0
  blanks := []
  copy := none

/-- The STARTER block of R218's Reset column. -/
def starterReset : List Word :=
  [wordN (12 * 2 ^ 20), 0, 0, 0, 0, 1, 1] ++ List.replicate 78 0

/-- The Starter after reset. -/
def Starter.init : Starter where
  block := starterReset
  force := starterReset
  next := []
  h := 64
  dTo := 1200
  ep := 0
  steps := []
  decEp := 0
  decided := 0
  fromEp := 0
  fromT := 0
  insts := []
  timers := [none, none, none, none]
  high := []
  spent := []
  trigNum := [0, 0]
  outs := [none, none]
  pulses := []
  reqs := []
  accepted := []

/-- The RECORD block of R221's Reset column. -/
def recordReset : List Word :=
  [wordN (2 ^ 33 + 2 ^ 30), 0, 0x400, 0, 0, 0, 0, 0, 0, 0x3FF]

/-- Acquisition of a channel after reset. -/
def Acq.init : Acq := ⟨recordReset, none, none, List.replicate 32 0, [], none⟩

/-- A stream ring that is not bound. -/
def Strm.init : Strm where
  bound := false
  source := 0
  ch := .c0
  pack := 0
  pktLog2 := 0
  div := 0
  slot := 0
  lo := 0
  hi := 0
  spillBase := 0
  spillLen := 0
  fromT := 0
  stopT := none
  seen := 0
  index := 0
  seq := 0
  sent := 0
  lost := 0
  items := []
  spill := []
  spillR := 0
  spillW := 0
  gap := none
  buf := none
  recNum := none
  recNext := 0
  recHead := false
  endFlag := 0
  ended := false

/-- R325: a memory filled with zero words and valid checks. -/
def BpcMem.init : BpcMem := ⟨[], [], [], [], []⟩

/-- A register set cleared (R331). -/
def RegSet.init : RegSet :=
  ⟨List.replicate 16 0, List.replicate 4 ⟨0, 0, 0, 0⟩, List.replicate 16 0, List.replicate 4 (0, 0), List.replicate 8 0, false, false, false, []⟩

/-- A core that has never been started (R355: HALTED, cause 0). -/
def Core.init : Core where
  st := 0
  cause := 0
  bank := 0
  ctx := false
  pc := 0
  slot := none
  inSlot := false
  rti := false
  main := RegSet.init
  shadow := RegSet.init
  amod := List.replicate 8 0
  la := List.replicate 4 0
  calls := []
  ops := []
  tagSt := List.replicate 16 0
  imask := 0
  ipend := 0
  ipc := 0
  tsel := 0
  alarmLo := 0
  alarmHi := 0
  armed := false
  rtHi := 0
  hz := ⟨[], [], [], []⟩
  waitTag := none
  sw := none
  arg := 0
  halts := []

/-- A tone output muted (R380). -/
def Tone.init : Tone where
  staged := none
  force := none
  acc := 0
  trkK0 := none
  trkJ := 0
  trkT := 0
  pbPos := 0
  pbEnd := false
  pbSub := 0
  l1 := []
  l2 := []
  strobed := false
  hold := none
  pll := false
  code := 0

/-- A ring index pair at zero. -/
def OutRing.init : OutRing := ⟨0, 0, 0⟩

/-- R244, R281: the MSI-X table after reset: every vector masked. PRESUMED (assumption log 135: the PCIe rules). -/
def MsixEnt.initTable : List MsixEnt := List.replicate 64 ⟨0, 0, true⟩

/-- The host region of a side after reset (R260). -/
def HostSide.init : HostSide where
  cmd := List.replicate 8 ⟨0, 0, none⟩
  cq := List.replicate 8 OutRing.init
  evq := OutRing.init
  strq := List.replicate 16 OutRing.init
  nextId := 0
  staged := []
  remote := []
  compl := []
  events := []
  dropped := 0
  overflow := none
  nudged := false
  dbFailed := false
  win := List.replicate 4 ⟨none, []⟩
  mem := []
  msi := []
  msix := MsixEnt.initTable
  pba := []
  aer := []
  turn := 0

/-- Race time after reset: 0 and standing still (R170). -/
def RaceT.init : RaceT where
  rta := 0
  inc := 0
  f := 0
  p := 0
  edges := 0
  incPend := none
  loadPend := none
  ppsFirst := false
  ppsLast := none
  lockRun := 0
  syncRun := 0
  syncLast := none
  ppsFrom := 0

/-- The split timer after reset. -/
def SplitT.init : SplitT where
  ties := []
  tieRun := 0
  swapReq := []
  thr := List.replicate 4 (0x2BC, false)
  meas := none
  measNum := 0
  evtCnt := List.replicate 4 0
  evtLast := List.replicate 4 none
  evtDead := List.replicate 4 0

/-- The PLLs after reset: the reset values of R369's registers, nothing locked. -/
def Clk.init : Clk where
  f := [1250, 0, 0, 3, 2]
  target := none
  fb := 0
  tm := [12, 3, 2]
  m := [3, 2]
  pendF := none
  pendT := none
  fLost := true
  tLost := true
  mLost := true
  tComm := false
  coast := false
  mCoast := false

/-- The monitor converter after reset: each modulator begins with its first input (R386). -/
def Mon.init : Mon where
  cur := [some 0, some 1, some 2, some 3]
  drop := [4, 4, 4, 4]
  dec := 10
  fir := 1
  hist := List.replicate 4 [0, 0]
  resize := none
  seqs := List.replicate 16 0

/-- The scan-out after reset. -/
def ScanOut.init : ScanOut where
  force := []
  palS := []
  pal := []
  run := false
  relock := false
  idle := 0
  blank := false
  newest := 0
  traces := List.replicate 8 none
  line := 0
  pix := []
  tear := false
  sink := none

/-- DRAM that is not trained. -/
def Dram.init : Dram where
  mem := BpcMem.init
  subCap := 0
  chans := []
  extent := 0
  ref := List.replicate 8 ⟨false, false⟩
  drift := List.replicate 8 []
  train := List.replicate 4 []
  train2 := List.replicate 4 []
  panic := List.replicate 5 false
  fcBusy := false
  mapout := none

/-- A side after RESET_N (R446): every register at its reset value. -/
def Side.init (who : SideId) : Side where
  who := who
  regs := []
  fuse := false
  bus := ⟨[], [], []⟩
  host := HostSide.init
  isl := []
  col := ⟨[], false, 0⟩
  rt := RaceT.init
  split := SplitT.init
  jesd := [Jesd.init, Jesd.init]
  fe := [FrontEnd.init, FrontEnd.init]
  xf := [Xform.init, Xform.init]
  seatJob := List.replicate 9 .none
  pp := [Pp.init, Pp.init]
  dens := [Dens.init, Dens.init]
  starter := Starter.init
  acq := [Acq.init, Acq.init]
  strm := List.replicate 16 Strm.init
  sram := ⟨BpcMem.init, [], [], [], 0, 0⟩
  dram := Dram.init
  cal := ⟨[], [], none, []⟩
  cores := List.replicate 4 Core.init
  coxMem := BpcMem.init
  clk := Clk.init
  tone := [Tone.init, Tone.init]
  strobe := ⟨[], [], []⟩
  mon := Mon.init
  so := ScanOut.init
  pwr := ⟨false, false, 0⟩

/-- The Keel after RESET_N: down (R24). -/
def Keel.init : Keel := ⟨false, false, false, [], [], none, [], [], []⟩

/-- R446: the engine on power-on reset, RESET_N still low, the rails in range and no command waiting. -/
def State.reset : State where
  stroke := Side.init .stroke
  bow := Side.init .bow
  keel := Keel.init
  pkg := ⟨true, true, 0, false, false, false, 0, false, 2, List.replicate 4710 false, false, []⟩
  rd := []
  ep := false
  free := 0
  pending := []

end Sys2Proof.Machine
end

