-- ==== Sys2Proof/Machine/Ops.lean ====
section
/-! DEFINITION. The named operations every command is built from: sides, registers and their fields, race time, sources,
saturating counters, events, Cox interrupts, the fault log, outgoing DMA, and completions. -/

namespace Sys2Proof

/-- Side number (R10): 0 stroke, 1 bow. -/
def SideId.n : SideId → Nat
  | .stroke => 0
  | .bow => 1

/-- The other side. -/
def SideId.other : SideId → SideId
  | .stroke => .bow
  | .bow => .stroke

/-- The side a bit names. -/
def SideId.ofBit (b : Bool) : SideId := if b then .bow else .stroke

/-- Local channel index (R11). -/
def Chan.n : Chan → Nat
  | .c0 => 0
  | .c1 => 1

/-- The other channel of the side. -/
def Chan.other : Chan → Chan
  | .c0 => .c1
  | .c1 => .c0

/-- The channel a bit names. -/
def Chan.ofBit (b : Bool) : Chan := if b then .c1 else .c0

/-- R268: word 0 of an entry. -/
def CmdEntry.tag (e : CmdEntry) : BitVec 32 := e.w0.extractLsb' 32 32
def CmdEntry.flags (e : CmdEntry) : BitVec 16 := e.w0.extractLsb' 16 16
def CmdEntry.boundary (e : CmdEntry) : BitVec 8 := e.w0.extractLsb' 8 8
def CmdEntry.opcode (e : CmdEntry) : BitVec 8 := e.w0.extractLsb' 0 8

/-- R269: flag bits of an entry, counted from bit 16 of word 0. -/
def CmdEntry.force (e : CmdEntry) : Bool := e.flags.getLsbD 0
def CmdEntry.wait (e : CmdEntry) : Bool := e.flags.getLsbD 1
def CmdEntry.quiet (e : CmdEntry) : Bool := e.flags.getLsbD 2
def CmdEntry.irqNow (e : CmdEntry) : Bool := e.flags.getLsbD 3
def CmdEntry.other (e : CmdEntry) : Bool := e.flags.getLsbD 4

/-- Operand words 1 to 7 of an entry as numbers. -/
def CmdEntry.op4 (e : CmdEntry) : Nat := e.w4.toNat
def CmdEntry.op5 (e : CmdEntry) : Nat := e.w5.toNat
def CmdEntry.op6 (e : CmdEntry) : Nat := e.w6.toNat
def CmdEntry.op7 (e : CmdEntry) : Nat := e.w7.toNat

/-- The class code of R413. -/
def FaultClass.code : FaultClass → Nat
  | .corrected => 0
  | .deferred => 1
  | .contained => 2
  | .sideFatal => 3
  | .deviceFatal => 4

namespace Machine

/-! ### Sides and parts of them -/

/-- The side named. -/
def State.side (s : State) : SideId → Side
  | .stroke => s.stroke
  | .bow => s.bow

/-- The state with a side replaced. -/
def State.setSide (s : State) (i : SideId) (x : Side) : State :=
  match i with
  | .stroke => { s with stroke := x }
  | .bow => { s with bow := x }

/-- The state with a side changed. -/
def State.mod (s : State) (i : SideId) (f : Side → Side) : State := s.setSide i (f (s.side i))

/-- R444, R446: the dies are held in reset: RESET_N is low or a rail is out of range. -/
def State.held (s : State) : Bool := s.pkg.resetN || !s.pkg.railOk

/-- What the last read returned. -/
def State.setRd (s : State) (ws : List Word) : State := { s with rd := ws, ep := false }

/-! ### Registers -/

/-- R5, R477: the value of a register: what it holds, else its fuse value once fuses are loaded, else its reset value. -/
def Side.reg (x : Side) (idx : Nat) : Word :=
  match aget x.regs idx with
  | some w => w
  | none =>
    match findReg idx with
    | none => 0
    | some r => if x.fuse && r.fuse then Config.fuse x.who idx &&& wordN r.rw else wordN r.reset

/-- A register set to a value. -/
def Side.setReg (x : Side) (idx : Nat) (v : Word) : Side := { x with regs := aput x.regs idx v }

/-- A field of a register, as a number. -/
def Side.get (x : Side) (f : Fld) : Nat := bitsOf (x.reg f.idx).toNat f.hi f.lo

/-- A field of a register set. -/
def Side.set (x : Side) (f : Fld) (v : Nat) : Side :=
  x.setReg f.idx (wordN (putBits (x.reg f.idx).toNat f.hi f.lo v))

/-- A one-bit field, or any field, is not zero. -/
def Side.on (x : Side) (f : Fld) : Bool := x.get f != 0

/-- A field set to 1. -/
def Side.raise (x : Side) (f : Fld) : Side := x.set f 1

/-- A field set to 0. -/
def Side.drop (x : Side) (f : Fld) : Side := x.set f 0

/-- A one-bit field set to a truth value. -/
def Side.put (x : Side) (f : Fld) (b : Bool) : Side := x.set f (b2n b)

/-- A counter raised by n, saturating at its width. -/
def Side.bump (x : Side) (f : Fld) (n : Nat) : Side :=
  let m := 2 ^ (f.hi + 1 - f.lo) - 1
  x.set f (if x.get f + n < m then x.get f + n else m)

/-- A counter raised by one. -/
def Side.inc (x : Side) (f : Fld) : Side := x.bump f 1

/-- Bit i of a field set. -/
def Side.orBit (x : Side) (f : Fld) (i : Nat) : Side :=
  if bitAt (x.get f) i then x else x.set f (x.get f + 2 ^ i)

/-- Bit i of a field cleared. -/
def Side.andNotBit (x : Side) (f : Fld) (i : Nat) : Side :=
  if bitAt (x.get f) i then x.set f (x.get f - 2 ^ i) else x

/-- A field as a two's-complement number of its width. -/
def Side.getS (x : Side) (f : Fld) : Int := sx (f.hi + 1 - f.lo) (x.get f)

/-- A pair of words as one number, high word first (R8, R42). -/
def pairN (hi lo : Word) : Nat := hi.toNat * 2 ^ 36 + lo.toNat

/-- The two-word value whose low word has the index. -/
def Side.pair (x : Side) (idx : Nat) : Nat := pairN (x.reg (idx + 1)) (x.reg idx)

/-- A two-word value set. -/
def Side.setPair (x : Side) (idx : Nat) (v : Nat) : Side :=
  (x.setReg idx (wordN v)).setReg (idx + 1) (wordN (v / 2 ^ 36))

/-- R44, R45: a new result in a result register: VALID is set, SEQ counts, every master's FRESH is set. -/
def Side.newResult (x : Side) (idx : Nat) (lo hi : Nat) (two : Bool) : Side :=
  let seq := bitsOf (x.reg idx).toNat 33 26
  let seq' := (seq + 1) % 256
  let x := x.setReg idx (wordN (2 ^ 35 + seq' * 2 ^ 26 + lo % 2 ^ 26))
  let x := if two then x.setReg (idx + 1) (wordN hi) else x
  { x with bus := { x.bus with seen := x.bus.seen.filter (fun p => p.1 != idx) } }

/-! ### Time (R8, R169) -/

/-- R169: race time, RTA[95:24]. -/
def Side.now (x : Side) : Nat := x.rt.rta / 2 ^ 24 % 2 ^ 72

/-- Nanoseconds in race-time LSBs, rounded half to even (R8). -/
def nsLsb (ns : Nat) : Nat := (rhe (ns * 2 ^ 40 : Nat) (10 ^ 9)).toNat

/-- The increment in force, INC (R170). -/
def Side.incV (x : Side) : Nat := x.rt.inc

/-! ### Source IDs (R12, R13) -/

/-- A source ID without its side bit: region, cluster, unit. -/
def srcOf (region cluster unit : Nat) : Nat := region * 4096 + cluster * 64 + unit

/-- The source ID on a side. -/
def Side.src (x : Side) (local_ : Nat) : Nat := x.who.n * 2 ^ 15 + local_

/-- R13: the clock islands of a side, by source ID without the side bit. -/
def islands : List Nat :=
  (List.range 2).flatMap (fun c => (List.range 9).map (fun u => srcOf 0 c u))
  ++ (List.range 9).map (fun s => srcOf 1 s 0)
  ++ (List.range 5).map (fun c => srcOf 2 c 0)
  ++ (List.range 5).map (fun c => srcOf 3 c 0)
  ++ (List.range 3).map (fun c => srcOf 4 c 0) ++ [srcOf 4 3 0, srcOf 4 3 1]
  ++ (List.range 8).map (fun c => srcOf 5 c 0)

/-- R13: an island of the side. -/
def isIsland (l : Nat) : Bool := islands.contains l

/-- An island's condition when it is not running. -/
def Side.islOf (x : Side) (l : Nat) : Option Isl := aget x.isl l

/-- An island takes words at its input handshakes: it is neither draining nor stopped (R16 step 1). -/
def Side.islTakes (x : Side) (l : Nat) : Bool := (x.islOf l).isNone

/-- An island's clock runs: it is not stopped, and while it drains it goes on with the work in hand (R16 steps 2 and 3, R17). -/
def Side.islRuns (x : Side) (l : Nat) : Bool := (x.islOf l).all (fun i => i.cond == .draining)

/-- An island put into a condition. -/
def Side.setIsl (x : Side) (l : Nat) (i : Option Isl) : Side :=
  { x with isl := match i with
    | some v => aput x.isl l v
    | none => adel x.isl l }

/-- R413: an island quarantined: its clock stops without draining. -/
def Side.quarantine (x : Side) (l : Nat) : Side :=
  if (x.islOf l).isSome || !isIsland l then x else x.setIsl l (some ⟨.quarantined, false, 0⟩)

/-! ### Channels -/

/-- The front end of a channel. -/
def Side.feOf (x : Side) (c : Chan) : FrontEnd := lget x.fe c.n FrontEnd.init
/-- The front end of a channel replaced. -/
def Side.setFe (x : Side) (c : Chan) (v : FrontEnd) : Side := { x with fe := lset x.fe c.n v }
/-- The receiver of a channel. -/
def Side.jesdOf (x : Side) (c : Chan) : Jesd := lget x.jesd c.n Jesd.init
/-- The receiver of a channel replaced. -/
def Side.setJesd (x : Side) (c : Chan) (v : Jesd) : Side := { x with jesd := lset x.jesd c.n v }
/-- The transform of a channel. -/
def Side.xfOf (x : Side) (c : Chan) : Xform := lget x.xf c.n Xform.init
/-- The transform of a channel replaced. -/
def Side.setXf (x : Side) (c : Chan) (v : Xform) : Side := { x with xf := lset x.xf c.n v }

/-! ### Events, interrupts and faults -/

/-- R346: a Cox interrupt source raised on every core of the side. -/
def Side.coxIrq (x : Side) (src : Nat) : Side :=
  { x with cores := x.cores.map (fun c => { c with ipend := if bitAt c.ipend src then c.ipend else c.ipend + 2 ^ src }) }

/-- R346: the Cox interrupt source that follows an event code. -/
def eventIrq (code : Nat) : Option Nat :=
  match code with
  | 0x01 => some 5
  | 0x02 => some 5
  | 0x04 => some 6
  | 0x05 => some 3
  | 0x06 => some 4
  | 0x0C => some 9
  | 0x0D => some 9
  | 0x0E => some 8
  | 0x0F => some 7
  | _ => none

/-- R278, R279: an event is raised with a status; while the event ring is disabled or stopped (R267) it is dropped and
counted. The Cox interrupt that follows it does not depend on the ring (R346). -/
def Side.eventSt (x : Side) (code status time : Nat) (r0 r1 : Int) : Side :=
  let x := match eventIrq code with
    | some n => x.coxIrq n
    | none => x
  if x.on EVQ_CFG.EN && !x.on RING_ERR.EVQ_ERR then
    { x with host := { x.host with events := x.host.events ++ [⟨0, status, code, time, 0, false, r0, r1⟩] } }
  else ({ x with host := { x.host with dropped := x.host.dropped + 1 } } : Side).inc EVT_DROP.whole

/-- An event with status 0. -/
def Side.event (x : Side) (code time : Nat) (r0 r1 : Int) : Side := x.eventSt code 0 time r0 r1

/-- A report on its way into the log (R414). -/
structure Report where
  cls   : Nat
  src   : Nat
  syn   : Nat
  wire  : Bool
  inj   : Bool
  other : Bool
  deriving DecidableEq, Repr

/-- R417, R421: FAULT_STAT's view of the outstanding table, and the FAULT_N pin. -/
def Side.faultRefresh (x : Side) : Side :=
  let es := (List.range 64).map (fun i => (x.get (FAULT_OUT.VALID i), x.get (FAULT_OUT.CLASS i)))
  let cnt := (es.filter (fun e => e.1 == 1)).length
  let worst := es.foldl (fun a e => if e.1 == 1 then max a e.2 else a) 0
  let x := (x.set FAULT_STAT.OUT_COUNT cnt).set FAULT_STAT.WORST worst
  x.put FAULT_STAT.FAULT_N (cnt != 0 || x.on FAULT_STAT.OUT_OVF || x.on FAULT_STAT.SIDE_FATAL || x.on FAULT_STAT.DEV_FATAL
    || x.on FAULT_STAT.WD_EXPIRED)

/-- R416: the outstanding entry of a source, if it has one. -/
def Side.outEntry (x : Side) (src : Nat) : Option Nat :=
  (List.range 64).find? (fun i => x.on (FAULT_OUT.VALID i) && x.get (FAULT_OUT.SRC i) == src)

/-- R416: a report of class Contained or above in the outstanding table; the lowest free entry is taken. -/
def Side.outstanding (x : Side) (src cls seq : Nat) : Side :=
  match x.outEntry src with
  | some i => ((x.set (FAULT_OUT.CLASS i) (max cls (x.get (FAULT_OUT.CLASS i)))).set (FAULT_OUT.SEQ i) seq)
  | none =>
    match (List.range 64).find? (fun i => !x.on (FAULT_OUT.VALID i)) with
    | some i => (((x.set (FAULT_OUT.VALID i) 1).set (FAULT_OUT.CLASS i) cls).set (FAULT_OUT.SEQ i) seq).set (FAULT_OUT.SRC i) src
    | none => x.raise FAULT_STAT.OUT_OVF

/-- R414: word 2 of a fault record. -/
def Report.word2 (r : Report) (seq : Nat) : Nat :=
  r.cls * 2 ^ 33 + b2n r.wire * 2 ^ 32 + b2n r.inj * 2 ^ 31 + b2n r.other * 2 ^ 30 + seq * 2 ^ 16 + r.src

/-- R415: history and first-fault records. -/
def Side.logRecord (x : Side) (r : Report) : Side :=
  let seq := x.get FAULT_HIST_WP.whole % 16384
  let t := x.now
  let e := seq % 32
  let w2 := r.word2 seq
  let x := (x.setPair (FAULT_HIST_LO.whole e).idx t).setReg (FAULT_HIST_W2.whole e).idx (wordN w2)
  let x := x.setReg (FAULT_HIST_W3.whole e).idx (wordN r.syn)
  let x := x.set FAULT_HIST_WP.whole (x.get FAULT_HIST_WP.whole + 1)
  if !x.on FAULT_STAT.FIRST_VALID && r.cls ≥ x.get FAULT_CFG.FIRST_MIN then
    let x := (x.setPair FAULT_FIRST_LO.whole.idx t).setReg FAULT_FIRST_W2.whole.idx (wordN w2)
    (x.setReg FAULT_FIRST_W3.whole.idx (wordN r.syn)).raise FAULT_STAT.FIRST_VALID
  else x

/-- R415: the class counter of a report, and the broken-wire counter. -/
def Side.countReport (x : Side) (r : Report) : Side :=
  let x := match r.cls with
    | 0 => x.inc FAULT_CNT_CORR.whole
    | 1 => x.inc FAULT_CNT_DEF.whole
    | _ => x.inc FAULT_CNT_CONT.whole
  if r.wire then x.inc FAULT_CNT_WIRE.whole else x

/-- R413 to R416: a report is logged: history, first fault, event with Cox interrupt 8, counter, outstanding entry.
`own` is false for COX_CONFLICT, which raises its own event in place of FAULT (R414). -/
def Side.logFault (x : Side) (r : Report) (own : Bool) : Side :=
  let seq := x.get FAULT_HIST_WP.whole % 16384
  let x := x.logRecord r
  let x := if own && r.cls ≥ x.get FAULT_CFG.EVT_MIN
    then x.event 0x0E x.now (r.word2 seq) r.syn else x
  let x := x.countReport r
  let x := if r.cls ≥ 2 && !r.other then x.outstanding r.src r.cls seq else x
  x.faultRefresh

/-- R420: an injection of mode 1 or 2 is armed for a source: whether it is, and the side after it has fired. -/
def Side.takeInj (x : Side) (local_ : Nat) : Bool × Side :=
  let m := x.get FAULT_INJ.MODE
  if (m == 1 || m == 2) && x.get FAULT_INJ.SRC == x.src local_ then
    (true, if m == 1 then (x.drop FAULT_INJ.MODE).raise FAULT_STAT.INJ_FIRED else x)
  else (false, x)

/-- A report of a unit of this side, not a wire, not the other side's. -/
def Side.report (x : Side) (cls local_ syn : Nat) (inj : Bool) : Side :=
  x.logFault ⟨cls, x.src local_, syn, false, inj, false⟩ true

/-! ### Completions (R275 to R277, R284) -/

/-- R288: the status codes. -/
def stOK := 0x0000
def stMirrorMismatch := 0x1001
def stContainsPoison := 0x1002
def stTruncated := 0x1003
def stDisarmed := 0x1004
def stDensOverrun := 0x1005
def stCalDisagree := 0x1006
def stLateCommit := 0x1007
def stBadOpcode := 0x2001
def stBadParam := 0x2002
def stBadSource := 0x2003
def stBadAddress := 0x2004
def stBadBlock := 0x2005
def stXsMismatch := 0x2006
def stChannelActive := 0x3001
def stChannelArmed := 0x3002
def stNotArmed := 0x3003
def stFeRunning := 0x3004
def stXfRunning := 0x3005
def stXsRunning := 0x3006
def stStarterRunning := 0x3007
def stFeStopped := 0x3008
def stXfStopped := 0x3009
def stPpStopped := 0x300A
def stDensStopped := 0x300B
def stLinkDown := 0x300C
def stKeelDown := 0x300D
def stTableInUse := 0x300E
def stSeatState := 0x300F
def stIslandLive := 0x3010
def stRecordBusy := 0x3011
def stStreamBusy := 0x3012
def stStreamIdle := 0x3013
def stNoData := 0x3014
def stCoxBusy := 0x3015
def stXsUnaligned := 0x3016
def stCoreBusy := 0x3017
def stLaneBudget := 0x4001
def stSeatBudget := 0x4002
def stNoSpare := 0x4003
def stPpBudget := 0x4004
def stSpgRate := 0x4005
def stAcqTooLong := 0x4006
def stAcqRate := 0x4007
def stXsKeelBudget := 0x4008
def stBoundaryPast := 0x5001
def stCoxLate := 0x5002
def stQuiesceTimeout := 0x6001
def stSeatFailed := 0x6002
def stDmaError := 0x6003
def stAborted := 0x6004
def stFwCheck := 0x6005
def stCalFault := 0x6006

/-- A command's completion has been formed: under QUIET with status OK nothing is written and WAIT ends, otherwise the
entry waits for its completion ring (R276, R277, R269). -/
def Side.deliverOne (x : Side) (ring : Fin 8) (id : Nat) (fl : CmdEntry) (en : Entry) : Side :=
  let h := x.host
  let h := { h with remote := h.remote.filter (fun p => p != (ring, id)) }
  let h := { h with staged := h.staged.map (fun (c : Staged) =>
      if c.issuer == x.who then { c with awaits := c.awaits.filter (· != id) } else c) }
  if fl.quiet && en.status == stOK then
    { x with host := { h with cmd := lmod h.cmd ring.val (fun r => if r.waitId == some id then { r with waitId := none } else r) } }
  else
    { x with host := { h with compl := h.compl ++ [⟨x.get (CMDQ_CFG.CQ ring.val), ring, id, fl.irqNow, en⟩] } }

/-- The entry of a completion (R275). -/
def entryOf (op : Nat) (e : CmdEntry) (ring : Fin 8) (remote : Bool) (st t : Nat) (r0 r1 : Int) : Entry :=
  ⟨e.tag.toNat, st, op, t, ring.val, remote, r0, r1⟩

/-- R284: every FENCE of this side's rings that awaits nothing more completes; a FENCE may await an earlier one. -/
def Side.settleFences : Nat → Side → Side
  | 0, x => x
  | n + 1, x =>
    match x.host.staged.find? (fun c => c.op == 1 && c.running && c.awaits.isEmpty) with
    | none => x
    | some c =>
      let x := { x with host := { x.host with staged := x.host.staged.filter (fun d => !(d.id == c.id && d.issuer == c.issuer)) } }
      Side.settleFences n (x.deliverOne c.ring c.id c.e (entryOf c.op c.e c.ring false stOK x.now (lget c.aux 0 0) 0))

/-- A completion reaches its issuing side. -/
def Side.deliver (x : Side) (ring : Fin 8) (id : Nat) (fl : CmdEntry) (en : Entry) : Side :=
  let x := x.deliverOne ring id fl en
  x.settleFences x.host.staged.length

/-- The command leaves its staging entry on the acting side. -/
def Side.unstage (x : Side) (c : Staged) : Side :=
  { x with host := { x.host with staged := x.host.staged.filter (fun d => !(d.id == c.id && d.issuer == c.issuer)) } }

/-- The staged command with its record replaced. -/
def Side.restage (x : Side) (c : Staged) : Side :=
  { x with host := { x.host with staged := x.host.staged.map (fun d => if d.id == c.id && d.issuer == c.issuer then c else d) } }

/-- R273, R274: a command that acts on `actor` completes with a status, its instant and results; a remote command's
completion goes back through the Keel. -/
def State.complete (s : State) (actor : SideId) (c : Staged) (st t : Nat) (r0 r1 : Int) : State :=
  let s := s.mod actor (fun x => x.unstage c)
  let en := entryOf c.op c.e c.ring (c.issuer != actor) st t r0 r1
  if c.issuer == actor then s.mod actor (fun x => x.deliver c.ring c.id c.e en)
  else { s with keel := { s.keel with dones := s.keel.dones ++ [(c.issuer, c.ring, c.id, c.e, en)] } }

/-- A refusal: the command completes with a status, dated now on the acting side (R275). -/
def State.refuse (s : State) (actor : SideId) (c : Staged) (st : Nat) : State :=
  s.complete actor c st (s.side actor).now 0 0

/-- The staged command goes on: it has taken effect and will complete when its effect is whole. -/
def State.keepRunning (s : State) (actor : SideId) (c : Staged) : State :=
  s.mod actor (fun x => x.restage { c with running := true })

/-- The first running command of an opcode on a side that meets a condition. -/
def Side.runningCmd (x : Side) (op : Nat) (p : Staged → Bool) : Option Staged :=
  x.host.staged.find? (fun c => c.op == op && c.running && p c)

/-! ### Packings and host memory (R250 to R252) -/

/-- R250, R251: the bytes of words in a packing. -/
def packBytes (dense : Bool) (ws : List Word) : List Byte :=
  if dense then
    let v := ws.zipIdx.foldl (fun a p => a + p.1.toNat * 2 ^ (36 * p.2)) 0
    bytesOf ((9 * ws.length + 1) / 2) v
  else ws.flatMap (fun w => bytesOf 8 w.toNat)

/-- Where a side's DMA goes: the stroke endpoint in single-port operation (R38). -/
def State.endpoint (s : State) (i : SideId) : SideId :=
  if s.stroke.on HOST_CFG.ROUTE_BOW then .stroke else i

/-- R259: the path of a side's DMA is open: its own endpoint, or through the Keel to the stroke endpoint. -/
def State.dmaOpen (s : State) (i : SideId) : Bool :=
  s.endpoint i == i || s.keel.up

/-- Bytes written to host memory by a side. -/
def State.dmaWrite (s : State) (i : SideId) (addr : Nat) (bs : List Byte) : State :=
  s.mod (s.endpoint i) (fun x => { x with host := { x.host with mem := bputs x.host.mem addr bs } })

/-- R281: an endpoint signals a vector: a message is sent, or a masked vector becomes pending. -/
def HostSide.sendVec (h : HostSide) (v : Nat) : HostSide :=
  let e := lget h.msix v ⟨0, 0, true⟩
  if e.mask then { h with pba := dedup (h.pba ++ [v]) } else { h with msi := h.msi ++ [⟨v, e.addr, e.data⟩] }

/-- R259: a vector of a side signalled as a vector of its endpoint. -/
def State.signal (s : State) (i : SideId) (v : Nat) : State :=
  let v' := if s.endpoint i == i then v else 32 + v
  s.mod (s.endpoint i) (fun x => { x with host := x.host.sendVec v' })

/-! ### Free values -/

/-- A free value is taken: the next value the spec leaves open. -/
def State.takeFree (s : State) : Word × State := (Config.freeValue s.free, { s with free := s.free + 1 })

end Machine
end Sys2Proof
end

