-- ==== Sys2Proof/Machine/Mem.lean ====
section
/-! DEFINITION. Memories under the block product code: SRAM (R314 to R322), DRAM (R293 to R298) and the memories of the Cox
cores (R330). Reads decode a block from the stored bits that differ from what was written; writes make new checks or go
through a merge or gather buffer; poison marks the records it lies in (R323). -/

namespace Sys2Proof.Machine

/-- Which memory of a side. -/
inductive MemSel where
  | sram | dram | cox
  deriving DecidableEq, Repr

/-- Words of a block. -/
def MemSel.n : MemSel → Nat
  | .dram => 16
  | _ => 8

/-- The memory selected. -/
def Side.memOf (x : Side) : MemSel → BpcMem
  | .sram => x.sram.mem
  | .dram => x.dram.mem
  | .cox => x.coxMem

/-- The memory selected, replaced. -/
def Side.setMem (x : Side) (k : MemSel) (m : BpcMem) : Side :=
  match k with
  | .sram => { x with sram := { x.sram with mem := m } }
  | .dram => { x with dram := { x.dram with mem := m } }
  | .cox => { x with coxMem := m }

/-! ### Checks and decoding -/

/-- Remainder of A(x)·x^n divided by a polynomial of degree n, A taken most significant bit first over `bits` bits. -/
def polyRem (n poly : Nat) : Nat → Nat → Nat → Nat
  | 0, _, r => r
  | b + 1, a, r =>
    let r2 := 2 * r
    let hi := bitAt r (n - 1)
    let bit := bitAt a b
    let r3 := r2 % 2 ^ n
    polyRem n poly b a (if hi != bit then Nat.xor r3 (poly % 2 ^ n) else r3)

/-- R316: the 4-bit address check of block G of a side. -/
def acSram (sd g : Nat) : Nat := polyRem 4 0x13 22 (sd * 2 ^ 21 + g) 0

/-- R293: the 12-bit address check of DRAM block B of a side. -/
def acDram (sd b : Nat) : Nat := polyRem 12 0x1053 36 (sd * 2 ^ 35 + b) 0

/-- The address check of a block of a memory; a Cox memory counts blocks within itself (R330). -/
def Side.ac (x : Side) (k : MemSel) (blk : Nat) : Nat :=
  match k with
  | .sram => acSram x.who.n blk
  | .dram => acDram x.who.n blk
  | .cox => acSram x.who.n (blk % 1024)

/-- What a stored bit (word i, bit b) is: rows it counts in, column it counts in, bit of the address check. -/
def bpcBit (dram : Bool) (i b : Nat) : Option Nat × Option Nat × Option Nat :=
  if b < 36 then (some i, some b, none)
  else if b == 36 then (some i, none, none)
  else if dram then
    (if i < 12 then (none, some (3 * i + (b - 37)), none) else (none, none, some (3 * (i - 12) + (b - 37))))
  else
    let n := 5 * i + (b - 37)
    if n < 36 then (none, some n, none) else (some 7, none, some (n - 36))

/-- The parity of a count. -/
def oddIn {α : Type} (l : List α) (p : α → Bool) : Bool := (l.filter p).length % 2 == 1

/-- The stored bit that holds column parity j or bit a of the address check (R293, R316). -/
def colBit (dram : Bool) (j : Nat) : Nat × Nat := if dram then (j / 3, 37 + j % 3) else (j / 5, 37 + j % 5)
def acBit (dram : Bool) (a : Nat) : Nat × Nat := if dram then (12 + a / 3, 37 + a % 3) else colBit false (36 + a)

/-- How a block decodes (R294, R317): poisoned, clean, mended at a stored bit (row, bit), or uncorrectable. -/
inductive BpcOut where
  | poisoned | clean | bad
  | mended (bit : Nat × Nat)
  deriving DecidableEq, Repr

/-- R294, R317: the decoding table. `flips` are the stored bits that differ from a valid block, `acd` the address checks'
difference. -/
def bpcDecode (dram poison : Bool) (flips : List (Nat × Nat)) (acd : Nat) : BpcOut :=
  let n := if dram then 16 else 8
  let acN := if dram then 12 else 4
  let fs := flips.map (fun f => bpcBit dram f.1 f.2)
  let rows := (List.range n).filter (fun i => oddIn fs (fun f => f.1 == some i) != poison)
  let cols := (List.range 36).filter (fun j => oddIn fs (fun f => f.2.1 == some j))
  let s := Nat.xor acd (Nat.xor (maskN acN (fun a => oddIn fs (fun f => f.2.2 == some a))) (if poison then 2 ^ acN - 1 else 0))
  let one := (List.range acN).find? (fun a => s == 2 ^ a)
  if rows.length == n && cols.isEmpty && s == 2 ^ acN - 1 then .poisoned
  else match rows, cols with
    | [], [] => if s == 0 then .clean else if dram then one.elim .bad (fun a => .mended (acBit dram a)) else .bad
    | [i], [j] => if s == 0 then .mended (i, j) else .bad
    | [i], [] =>
      if s == 0 then .mended (i, 36) else if !dram && i == 7 then one.elim .bad (fun a => .mended (acBit dram a)) else .bad
    | [], [j] => if s == 0 then .mended (colBit dram j) else .bad
    | _, _ => .bad

/-- The stored data words of a block: what was written with the flipped data bits. -/
def BpcMem.stored (m : BpcMem) (n blk : Nat) : List Word :=
  let fl := (aget m.flips blk).getD []
  (List.range n).map (fun i =>
    wget m.words (n * blk + i) ^^^ wordN (maskN 36 (fun j => oddIn fl (fun f => f.1 == i && f.2 == j))))

/-- A word with bit j inverted. -/
def flipBit (w : Word) (j : Nat) : Word := w ^^^ wordN (2 ^ j)

/-- Data words with a stored bit mended; a check bit is none of them. -/
def mendWords (ws : List Word) (b : Nat × Nat) : List Word := if b.2 < 36 then lmod ws b.1 (fun w => flipBit w b.2) else ws

/-! ### Where a block lies -/

/-- R297: subchannels in the interleave. -/
def Dram.nsub (d : Dram) : Nat := 2 * d.chans.length

/-- R297: subchannel number s and block index L of DRAM block B. -/
def Side.dramPlace (x : Side) (b : Nat) : Nat × Nat :=
  let g := 2 ^ min 8 (x.get DRAM_MAP.GRAIN_LOG2)
  let n := max 1 x.dram.nsub
  let u := b / g
  (u % n, u / n * g + b % g)

/-- Where a DRAM block lies in its subchannel's devices (R298). -/
structure DramLoc where
  col  : Nat
  bg   : Nat
  bank : Nat
  rank : Nat
  row  : Nat
  deriving DecidableEq, Repr

/-- R292: column, row and rank bits of the side's modules. -/
def Side.dramBits (x : Side) : Nat × Nat × Nat :=
  (if x.on DRAM_CFG.X8 then 6 else 7, if x.on DRAM_CFG.D32 then 17 else 16,
    b2n (x.on DRAM_CFG.RANKS2 && !(!x.on DRAM_CFG.X8 && x.on DRAM_CFG.D32)))

/-- R298: the fields of block index L by ORDER, with the bank bits hashed. -/
def Side.dramLoc (x : Side) (l : Nat) : DramLoc :=
  let (cb, rb, rk) := x.dramBits
  let at_ := fun (lo n : Nat) => l / 2 ^ lo % 2 ^ n
  let d : DramLoc := match x.get DRAM_MAP.ORDER with
    | 0 => ⟨at_ 0 cb, at_ cb 3, at_ (cb + 3) 2, at_ (cb + 5) rk, at_ (cb + 5 + rk) rb⟩
    | 1 => ⟨at_ 3 cb, at_ 0 3, at_ (cb + 3) 2, at_ (cb + 5) rk, at_ (cb + 5 + rk) rb⟩
    | 2 => ⟨at_ 5 cb, at_ 0 3, at_ 3 2, at_ (cb + 5) rk, at_ (cb + 5 + rk) rb⟩
    | _ => ⟨at_ 0 cb, at_ (cb + rk) 3, at_ (cb + rk + 3) 2, at_ cb rk, at_ (cb + 5 + rk) rb⟩
  if x.on DRAM_MAP.HASH then { d with bg := Nat.xor d.bg (d.row % 8), bank := Nat.xor d.bank (d.row / 8 % 4) } else d

/-- Channel and subchannel within it that hold DRAM block B. -/
def Side.dramChan (x : Side) (b : Nat) : Nat × Nat :=
  let nc := max 1 x.dram.chans.length
  let s := (x.dramPlace b).1
  (lget x.dram.chans (s % nc) 0, s / nc)

/-! ### Ports and self-refresh (R299, R311) -/

/-- R299: the DRAM ports of a side, each a source of the ordering rules. -/
def acqPort (c : Chan) : Nat := c.n
def portSpill : Nat := 2
def portScan : Nat := 3
def portTone : Nat := 4
def portCox : Nat := 5
def portHost : Nat := 6
def portScrub : Nat := 7

/-- R301: the level of a real-time port's buffer has become `level`: the port enters panic at PANIC_ON and leaves it at PANIC_OFF. -/
def Side.portLevel (x : Side) (p level : Nat) : Side :=
  if level ≥ x.get (DRAM_PANIC.ON p) then { x with dram := { x.dram with panic := lset x.dram.panic p true } }
  else if level ≤ x.get (DRAM_PANIC.OFF p) then { x with dram := { x.dram with panic := lset x.dram.panic p false } }
  else x

/-- R311: requests for a block's channel wait: it is in self-refresh. -/
def Side.asleep (x : Side) (k : MemSel) (blk : Nat) : Bool := k == .dram && x.on (DRAM_STAT.SR (x.dramChan blk).1)

/-- R311: a read of words of a memory meets a channel in self-refresh, and waits. -/
def Side.readWaits (x : Side) (k : MemSel) (addr len : Nat) : Bool :=
  k == .dram && len != 0 && (List.range ((addr + len - 1) / 16 + 1 - addr / 16)).any (fun i => x.asleep k (addr / 16 + i))

/-- R311: some DRAM channel is in self-refresh. -/
def Side.anyAsleep (x : Side) : Bool := x.dram.chans.any (fun i => x.on (DRAM_STAT.SR i))

/-- The source ID a decoder reports against (R294, R317, R330). -/
def Side.decoder (x : Side) (k : MemSel) (blk : Nat) : Nat :=
  match k with
  | .sram => srcOf 3 0 16
  | .dram => let p := x.dramChan blk; srcOf 3 (p.1 + 1) (16 + p.2)
  | .cox => srcOf 5 1 (16 + blk / 4096)

/-- R414: a decoder's syndrome. -/
def Side.decSyn (x : Side) (k : MemSel) (blk code : Nat) : Nat :=
  code * 2 ^ 34 + match k with
    | .sram => blk % 2 ^ 21
    | .dram => (x.dramPlace blk).2 % 2 ^ 30
    | .cox => blk % 1024

/-- R39: the device address of a block's first word. -/
def Side.devAddr (x : Side) (k : MemSel) (blk : Nat) : Nat :=
  x.who.n * 2 ^ 43 + (match k with | .sram => 0 | .dram => 1 | .cox => 4) * 2 ^ 39 + k.n * blk

/-- R321: a block of the density store. -/
def densStore (k : MemSel) (blk : Nat) : Bool := k == .sram && blk < 2 ^ 20

/-! ### Live records (R323, R234) -/

/-- The length of a slot of the IQ ring (R222). -/
def segW (b : List Word) : Nat :=
  if bitAt (lget b 0 0).toNat 32 then ((lget b 1 0).toNat + (lget b 2 0).toNat + 15) / 16 * 16 else (lget b 5 0).toNat

/-- Word w of the IQ ring holds a sample of first … last written in a slot. -/
def iqHas (b : List Word) (mA slot first last w : Nat) : Bool :=
  let sw := segW b
  let base := (lget b 4 0).toNat + slot * sw
  decide (sw ≠ 0 ∧ base ≤ w ∧ w < base + sw ∧ first ≤ last ∧ mA ≤ first) &&
    decide (first + ((w - base) + sw - (first - mA) % sw) % sw ≤ last)

/-- The words of a spectra line in its ring, WF (R223). -/
def lineW (b : List Word) : Nat :=
  let nb := bitsOf (lget b 9 0).toNat 15 0 + 1 - bitsOf (lget b 9 0).toNat 31 16
  16 * ((4 + (nb + 1) / 2 + 15) / 16)

/-- Lines of a slot of the spectra ring, NL (R223). -/
def lineN (b : List Word) : Nat :=
  let seg := bitAt (lget b 0 0).toNat 32
  (lget b 7 0).toNat / ((if seg then (lget b 3 0).toNat % 65536 + 1 else 1) * lineW b)

/-- Where line L lands while slot j is written (R223). -/
def lineAt (b : List Word) (j l : Nat) : Nat :=
  (lget b 6 0).toNat + (j * lineN b + l % max 1 (lineN b)) * lineW b

/-- Word w lies in one of a slot's lines l0 … l0 + n − 1. -/
def spHas (b : List Word) (slot l0 n w : Nat) : Bool :=
  (List.range (min n (lineN b))).any (fun i =>
    let a := lineAt b slot (l0 + n - 1 - i)
    decide (a ≤ w ∧ w < a + lineW b))

/-- A segment (or single record) holds word w: its own slot, and the shared part in the slot before. -/
def segHas (b : List Word) (mA : Nat) (g : Seg) (w : Nat) : Bool :=
  let iq := bitAt (lget b 0 0).toNat 33
  let sp := bitAt (lget b 0 0).toNat 34
  let slot := g.num - 1
  (iq && (iqHas b mA slot (g.first + g.share) g.last w
      || (g.share != 0 && iqHas b mA (slot - 1) g.first (g.first + g.share - 1) w)))
  || (sp && (spHas b slot (g.spFirst + g.spShare) (g.spLines - g.spShare) w
      || (g.spShare != 0 && spHas b (slot - 1) g.spFirst g.spShare w)))
  || (bitAt (lget b 0 0).toNat 32 && decide ((lget b 8 0).toNat + 16 * slot ≤ w ∧ w < (lget b 8 0).toNat + 16 * slot + 16))

/-- Acquisition of a channel. -/
def Side.acqOf (x : Side) (c : Chan) : Acq := lget x.acq c.n Acq.init
/-- Acquisition of a channel replaced. -/
def Side.setAcq (x : Side) (c : Chan) (v : Acq) : Side := { x with acq := lset x.acq c.n v }

/-- Bits of a word of a memory set, checks renewed with it. -/
def Side.orWord (x : Side) (k : MemSel) (w : Nat) (v : Word) : Side :=
  let m := x.memOf k
  x.setMem k { m with words := wput m.words w (wget m.words w ||| v) }

/-- A finished segment's table entry takes POISON (R234, R231). -/
def Side.flagEntry (x : Side) (b : List Word) (num : Nat) : Side :=
  if bitAt (lget b 0 0).toNat 32 then x.orWord .dram ((lget b 8 0).toNat + 16 * (num - 1)) (wordN (2 ^ 33)) else x

/-- A record's header takes POISON. -/
def Side.flagHeader (x : Side) (c : Chan) : Side :=
  let a := x.acqOf c
  (x.setAcq c { a with hdr := lmod a.hdr 0 (fun w => w ||| wordN (2 ^ 31)) }).raise (ACQ_STAT.POISON_SEEN c.n)

/-- The part of the armed record that is being written holds one of some words: samples of its slot, or lines. -/
def Rec.holds (r : Rec) (ws : List Nat) : Bool :=
  (bitAt (lget r.block 0 0).toNat 33 && r.next > r.mA && ws.any (iqHas r.block r.mA r.slot r.slotM (r.next - 1)))
    || (bitAt (lget r.block 0 0).toNat 34 && ws.any (spHas r.block r.slot r.slotL (r.nextL - r.slotL)))

/-- R323, R234: words of the armed record have been poisoned. -/
def Side.markArmed (x : Side) (c : Chan) (ws : List Nat) : Side :=
  let a := x.acqOf c
  match a.armed with
  | none => x
  | some r =>
    let cur := r.holds ws
    let hit := r.segs.filter (fun g => ws.any (segHas r.block r.mA g))
    if !cur && hit.isEmpty then x
    else
      let x := hit.foldl (fun x g => x.flagEntry r.block g.num) x
      (x.setAcq c { a with armed := some { r with poison := true, segPoison := r.segPoison || cur } }).flagHeader c

/-- R323, R234: words of the last completed record have been poisoned. The header belongs to the record armed last (R231). -/
def Side.markLast (x : Side) (c : Chan) (ws : List Nat) : Side :=
  let a := x.acqOf c
  match a.last with
  | none => x
  | some d =>
    let hit := d.segs.filter (fun g => ws.any (segHas d.block d.mA g))
    if hit.isEmpty then x
    else
      let x := hit.foldl (fun x g => x.flagEntry d.block g.num) x
      (if a.armed.isSome then x.raise (ACQ_STAT.POISON_SEEN c.n) else x.flagHeader c).event 0x03 x.now c.n d.num

/-- R323, R234: DRAM block B has been poisoned: the live records of a channel that hold it are marked. -/
def Side.markRecord (x : Side) (c : Chan) (blk : Nat) : Side :=
  let ws := (List.range 16).map (fun i => 16 * blk + i)
  (x.markArmed c ws).markLast c ws

/-- R323 for both channels of the side. -/
def Side.markRecords (x : Side) (blk : Nat) : Side := (x.markRecord .c0 blk).markRecord .c1 blk

/-! ### Poison and whole blocks -/

/-- The stored bits of a block replaced: data words, no deviation, poisoned or not. -/
def BpcMem.store (m : BpcMem) (n blk : Nat) (ws : List Word) (poison : Bool) : BpcMem :=
  { m with
    words := wputs m.words (n * blk) ws
    flips := adel m.flips blk
    poison := if poison then aput m.poison blk () else adel m.poison blk
    inj := adel m.inj blk }

/-- A block's reports carry INJ when the bad checks were injected (R420). -/
def Side.blkInj (x : Side) (k : MemSel) (blk : Nat) : Bool := (aget (x.memOf k).inj blk).isSome

/-- R319: a block is poisoned with the data as read; counted, logged, and reported against its decoder. -/
def Side.poisonBlk (x : Side) (k : MemSel) (blk : Nat) (ws : List Word) (code : Nat) : Side :=
  let inj := x.blkInj k blk
  let x := x.setMem k ((x.memOf k).store k.n blk ws true)
  let x := x.inc POISON_COUNT.whole
  let x := if x.on POISON_ADDR_HI.VALID then x
    else
      let a := x.devAddr k blk
      ((x.setReg POISON_ADDR_LO.whole.idx (wordN a)).set POISON_ADDR_HI.ADDR_HI (a / 2 ^ 36)).raise POISON_ADDR_HI.VALID
  let x := x.report 1 (x.decoder k blk) (x.decSyn k blk code) inj
  if k == .dram then x.markRecords blk else x

/-- The counters of mended and of uncorrectable reads (R294, R317); Cox memories have none. -/
def Side.countRead (x : Side) (k : MemSel) (blk : Nat) (bad : Bool) : Side :=
  match k with
  | .sram => if bad then x.inc SRAM_UNCORR.whole else x.inc SRAM_CORR.whole
  | .dram => let c := (x.dramChan blk).1; if bad then x.inc (DRAM_UNCORR.whole c) else x.inc (DRAM_CORR.whole c)
  | .cox => x

/-- R321: a density-store block found uncorrectable is rewritten with zero cells. -/
def Side.zeroBlk (x : Side) (k : MemSel) (blk : Nat) : Side :=
  let inj := x.blkInj k blk
  let x := x.setMem k ((x.memOf k).store k.n blk (List.replicate k.n 0) false)
  (x.inc SRAM_DENS_ZERO.whole).report 0 (x.decoder k blk) (x.decSyn k blk 3) inj

/-- A read of a block, which the array answers with block `reached` (R293, R316): the words delivered, whether they come from
a poisoned block (R322), and the stored bit that the decoder mended. -/
def Side.decodeBlk (x : Side) (k : MemSel) (blk reached : Nat) : Side × List Word × Bool × Option (Nat × Nat) :=
  let m := x.memOf k
  let ws := m.stored k.n reached
  let acd := Nat.xor (x.ac k blk) (x.ac k reached)
  match bpcDecode (k == .dram) (aget m.poison reached).isSome ((aget m.flips reached).getD []) acd with
  | .poisoned => (x, ws, true, none)
  | .clean => (x, ws, false, none)
  | .mended b =>
    ((x.countRead k blk false).report 0 (x.decoder k blk) (x.decSyn k blk 0) (x.blkInj k blk), mendWords ws b, false, some b)
  | .bad =>
    let x := x.countRead k blk true
    if densStore k blk then (x.zeroBlk k blk, List.replicate k.n 0, false, none)
    else (x.poisonBlk k blk ws 1, ws, true, none)

/-- R420: a whole-block write stores injected checks when an injection is armed for its decoder. -/
def Side.writeBlk (x : Side) (k : MemSel) (blk : Nat) (ws : List Word) : Side :=
  let chk := x.get FAULT_INJ.CHK
  let (hit, x) := x.takeInj (x.decoder k blk)
  let m := (x.memOf k).store k.n blk ws false
  let m := if hit then
      { m with flips := aput m.flips blk (if bitAt chk 0 then [(0, 36), (1, 36)] else [(0, 36)]), inj := aput m.inj blk () }
    else m
  x.setMem k m

/-! ### Narrow writes (R296, R318) -/

/-- Words of an entry laid over the words read. -/
def overlay (ws : List Word) (ns : List (Nat × Word)) : List Word := ns.foldl (fun l p => lset l p.1 p.2) ws

/-- An entry leaves its buffer: the block is read, decoded, merged and written; over a block that is uncorrectable or
poisoned the merged block is written poisoned. An entry for a channel in self-refresh waits (R311). -/
def Side.flushEnt (x : Side) (k : MemSel) (e : MergeEnt) : Side :=
  if x.asleep k e.blk then x
  else
  let m := x.memOf k
  let x := x.setMem k { m with buf := m.buf.filter (fun f => f.blk != e.blk || f.src != e.src) }
  if e.words.length == k.n then x.writeBlk k e.blk (overlay (List.replicate k.n 0) e.words)
  else
    let m := x.memOf k
    let ws := m.stored k.n e.blk
    match bpcDecode (k == .dram) (aget m.poison e.blk).isSome ((aget m.flips e.blk).getD []) 0 with
    | .poisoned => x.poisonBlk k e.blk (overlay ws e.words) 2
    | .clean => x.writeBlk k e.blk (overlay ws e.words)
    | .mended b =>
      ((x.countRead k e.blk false).report 0 (x.decoder k e.blk) (x.decSyn k e.blk 0) (x.blkInj k e.blk)).writeBlk k e.blk
        (overlay (mendWords ws b) e.words)
    | .bad =>
      let x := x.countRead k e.blk true
      if densStore k e.blk then (x.zeroBlk k e.blk).writeBlk k e.blk (overlay (List.replicate k.n 0) e.words)
      else x.poisonBlk k e.blk (overlay ws e.words) 2

/-- Entries leave their buffer, oldest first. -/
def Side.flushEnts (x : Side) (k : MemSel) (p : MergeEnt → Bool) : Side :=
  ((x.memOf k).buf.filter p).foldl (fun x e => x.flushEnt k e) x

/-- The entries of a block leave their buffer. -/
def Side.flushBlk (x : Side) (k : MemSel) (blk : Nat) : Side := x.flushEnts k (fun e => e.blk == blk)

/-- Every entry of a memory leaves its buffer, oldest first (R284). -/
def Side.flushAll (x : Side) (k : MemSel) : Side := x.flushEnts k (fun _ => true)

/-- R314: the bank of an SRAM block: 256 + (G mod 128) in the general store. The density store's spread is by column and
not visible (R154); the model counts its blocks over the channel's 128 banks in the same way. -/
def sramBank (blk : Nat) : Nat := if blk < 2 ^ 20 then 128 * (blk / 2 ^ 19) + blk % 128 else 256 + blk % 128

/-- The buffer an entry occupies: bank group of an SRAM block, controller of a DRAM block. -/
def Side.bufGroup (x : Side) (k : MemSel) (blk : Nat) : Nat :=
  match k with
  | .sram => sramBank blk / 8
  | .dram => (x.dramChan blk).1
  | .cox => blk / 1024

/-- R318, R296: entries a buffer holds. -/
def MemSel.bufMax : MemSel → Nat
  | .dram => 32
  | _ => 64

/-- An entry is the one that words of a source for a block go to: of any source in SRAM (R318), of the same source in DRAM (R296). -/
def MemSel.takes (k : MemSel) (src blk : Nat) (e : MergeEnt) : Bool := e.blk == blk && (k != .dram || e.src == src)

/-- R296: a DRAM source that writes to a block leaves its entry of another block. -/
def Side.leaveOthers (x : Side) (k : MemSel) (src blk : Nat) : Side :=
  if k == .dram then x.flushEnts k (fun e => e.src == src && e.blk != blk) else x

/-- An entry is put into its buffer; the oldest of a full buffer leaves. -/
def Side.openEnt (x : Side) (k : MemSel) (e : MergeEnt) : Side :=
  let g := x.bufGroup k e.blk
  let same := (x.memOf k).buf.filter (fun f => x.bufGroup k f.blk == g)
  let x := if same.length ≥ k.bufMax then same.head?.elim x (x.flushEnt k) else x
  let m := x.memOf k
  x.setMem k { m with buf := m.buf ++ [e] }

/-- A write of part of a block enters its buffer. -/
def Side.writePart (x : Side) (k : MemSel) (src blk : Nat) (ns : List (Nat × Word)) : Side :=
  let x := x.leaveOthers k src blk
  match (x.memOf k).buf.find? (k.takes src blk) with
  | some e =>
    let e := { e with words := ns.foldl (fun l p => aput l p.1 p.2) e.words }
    let m := x.memOf k
    let x := x.setMem k { m with buf := m.buf.map (fun f => if k.takes src blk f then e else f) }
    if e.words.length == k.n then x.flushEnt k e else x
  | none => x.openEnt k ⟨blk, src, ns.foldl (fun l p => aput l p.1 p.2) []⟩

/-- A write of a whole block is direct, and an older entry that its words would have gone to is overwritten with it. While the block's
channel is in self-refresh it waits as an entry (R311). -/
def Side.writeWhole (x : Side) (k : MemSel) (src blk : Nat) (ws : List Word) : Side :=
  let x := x.leaveOthers k src blk
  let m := x.memOf k
  let x := x.setMem k { m with buf := m.buf.filter (fun f => !k.takes src blk f) }
  if x.asleep k blk then x.openEnt k ⟨blk, src, ws.zipIdx.map (fun p => (p.2, p.1))⟩ else x.writeBlk k blk ws

/-- Words written by a source from a word address on (R296, R318). -/
def Side.writeRange (x : Side) (k : MemSel) (src addr : Nat) (ws : List Word) : Side :=
  if ws.isEmpty then x
  else
    let n := k.n
    let b0 := addr / n
    let b1 := (addr + ws.length - 1) / n
    (List.range (b1 + 1 - b0)).foldl (fun x i =>
      let blk := b0 + i
      let lo := max addr (n * blk)
      let hi := min (addr + ws.length) (n * blk + n)
      let part := (ws.drop (lo - addr)).take (hi - lo)
      if hi - lo == n then x.writeWhole k src blk part
      else x.writePart k src blk (part.zipIdx.map (fun p => (lo - n * blk + p.2, p.1)))) x

/-! ### Reads -/

/-- A block read by any reader: its buffered words are flushed first (R296, R318). -/
def Side.readBlk (x : Side) (k : MemSel) (blk : Nat) : Side × List Word × Bool :=
  let r := (x.flushBlk k blk).decodeBlk k blk blk
  (r.1, r.2.1, r.2.2.1)

/-- Words read from an address on: the words, those of poisoned blocks as zero (R322), and how many poisoned blocks were
met. -/
def Side.readRange (x : Side) (k : MemSel) (addr len : Nat) : Side × List Word × Nat :=
  if len == 0 then (x, [], 0)
  else
    let n := k.n
    let b0 := addr / n
    let b1 := (addr + len - 1) / n
    let r := (List.range (b1 + 1 - b0)).foldl (fun (acc : Side × List Word × Nat) i =>
      let r := acc.1.readBlk k (b0 + i)
      (r.1, acc.2.1 ++ (if r.2.2 then List.replicate n 0 else r.2.1), acc.2.2 + b2n r.2.2)) (x, [], 0)
    (r.1, (r.2.1.drop (addr - n * b0)).take len, r.2.2)

/-- One word read: side, word (zero from a poisoned block), poison flag. -/
def Side.readWord (x : Side) (k : MemSel) (addr : Nat) : Side × Word × Bool :=
  let r := x.readRange k addr 1
  (r.1, lget r.2.1 0 0, r.2.2 != 0)

/-- Memory is in its canonical form. -/
def BpcMem.wf (m : BpcMem) : Bool := wordsWf m.words && asorted m.flips && asorted m.poison && asorted m.inj

end Sys2Proof.Machine
end

