-- ==== Sys2Proof/Machine/Blocks.lean ====
section
/-! DEFINITION. Parameter blocks as lists of words: the fields of the front-end (R71), transform (R102) and Starter (R218)
blocks, the bits of each word that a block keeps, and condition descriptors (R200). -/

namespace Sys2Proof.Machine

/-- Word i of a block as a number. -/
def bw (b : List Word) (i : Nat) : Nat := (lget b i 0).toNat

/-- Bits [hi:lo] of word i of a block. -/
def bf (b : List Word) (i hi lo : Nat) : Nat := bitsOf (bw b i) hi lo

/-- Bit n of word i of a block. -/
def bb (b : List Word) (i n : Nat) : Bool := bitAt (bw b i) n

/-- A block with the bits outside the masks cleared: reserved and write-only fields read back as zero (R4, R285). -/
def blkKeep (masks : List Nat) (b : List Word) : List Word :=
  masks.zipIdx.map (fun p => lget b p.2 0 &&& wordN p.1)

/-- A mask of bits [hi:lo]. -/
def bitMask (hi lo : Nat) : Nat := (2 ^ (hi + 1 - lo) - 1) * 2 ^ lo

/-- A channel as a number's low bit. -/
def chanOf (n : Nat) : Chan := if n % 2 == 1 then .c1 else .c0

/-! ### FRONT_END (R71) -/

def feMasks : List Nat := [bitMask 35 25 + bitMask 23 19, 0xFFF, bitMask 35 0, bitMask 31 0, bitMask 35 0]
def feRun (b : List Word) : Bool := bb b 0 35
def feSpec (b : List Word) : Bool := bb b 0 34
def feDecim (b : List Word) : Nat := bf b 0 33 29
def feResp (b : List Word) : Nat := bf b 0 28 26
def feEqEn (b : List Word) : Bool := bb b 0 25
def feSwap (b : List Word) : Bool := bb b 0 24
def feFadeK (b : List Word) : Nat := bf b 0 23 19
def feFreq (b : List Word) : Nat := bf b 1 11 0 * 2 ^ 36 + bw b 2
def fePhase (b : List Word) : Nat := bf b 3 31 0
def feOfs (b : List Word) : Int := sx 36 (bw b 4)

/-! ### TRANSFORM (R102) -/

def xfMasks : List Nat := [bitMask 35 22, bitMask 17 0]
def xfRun (b : List Word) : Bool := bb b 0 35
/-- R102: LOG2N, p of N = 2^p. DESIGN CHOICE (assumption log 124): R102 admits 6 to 16 (R1, R76) but the field [34:31] has 4 bits, so no
block can encode 16; the field is read as it is laid out, and N = 65,536 cannot be selected. -/
def xfLog2N (b : List Word) : Nat := bf b 0 34 31
def xfOfCode (b : List Word) : Nat := bf b 0 30 29
def xfWin (b : List Word) : Nat := bf b 0 28 26
def xfSeatsReq (b : List Word) : Nat := bf b 0 25 22
def xfGain (b : List Word) : Int := sx 18 (bw b 1)

/-! ### STARTER (R218) and condition descriptors (R200) -/

/-- R200: the fields of a condition descriptor. -/
def descMask : Nat := bitMask 35 26 + bitMask 17 0

def stMasks : List Nat :=
  [bitMask 35 2] ++ List.replicate 4 (bitMask 35 0) ++ List.replicate 2 (bitMask 35 33 + bitMask 16 0)
    ++ List.replicate 2 (bitMask 35 0)
    ++ (List.range 4).flatMap (fun _ => [descMask, bitMask 35 0]) ++ List.replicate 4 (bitMask 35 0)
    ++ (List.range 32).flatMap (fun _ => [descMask, bitMask 35 6])
def stRun (b : List Word) : Bool := bb b 0 35
def stRestart (b : List Word) : Nat := bf b 0 34 32
/-- Word of the descriptor of slot (s, i); its action is the next word. -/
def stCondAt (s i : Nat) : Nat := 21 + 8 * s + 2 * i
/-- The action of slot (s, i). -/
def stAct (b : List Word) (s i : Nat) : Nat := bw b (22 + 8 * s + 2 * i)
/-- The slot is a transition. -/
def stEn (b : List Word) (s i : Nat) : Bool := bitAt (stAct b s i) 35
/-- The descriptor of slot (s, i). -/
def stCond (b : List Word) (s i : Nat) : Nat := bw b (stCondAt s i)
/-- The source of counter k. -/
def stSrc (b : List Word) (k : Nat) : Nat := bw b (9 + 2 * k)
/-- Descriptor fields. -/
def dType (d : Nat) : Nat := bitsOf d 35 32
def dCh (d : Nat) : Nat := bitsOf d 31 31
def dIdx (d : Nat) : Nat := bitsOf d 30 28
def dMode (d : Nat) : Nat := bitsOf d 27 26
def dParam (d : Nat) : Nat := bitsOf d 17 0

/-- Every slot (s, i). -/
def stSlots : List (Nat × Nat) := (List.range 8).flatMap (fun s => (List.range 4).map (fun i => (s, i)))

/-- R201: used descriptors: those of enabled slots, and counter sources other than NEVER. -/
def stUsed (b : List Word) : List Nat :=
  (stSlots.filter (fun p => stEn b p.1 p.2)).map (fun p => stCond b p.1 p.2)
    ++ ((List.range 4).map (stSrc b)).filter (fun d => dType d != 0)

/-- An occurrence is one of a descriptor's condition. -/
def matchOcc (d : Nat) : Occ → Bool
  | .mask ch k nv => dType d == 1 && dCh d == ch.n && dIdx d == k.val && nv ≥ dParam d
  | .band ch j l => dType d == 2 && dCh d == ch.n && dIdx d == j.val && (if dMode d == 0 then l > dParam d else l < dParam d)
  | .iq ch n up => dType d == 3 && dCh d == ch.n && dIdx d == n.val && (dMode d == 0) == up
  | .trigin i fall _ => dType d == 4 && dIdx d == i.val && bitAt (dMode d) (b2n fall)
  | .split src m _ => dType d == 5 && dIdx d == src.val && dMode d == m.val
  | .xside e => dType d == 6 && dIdx d == e.val
  | .dtrig => dType d == 7
  | .timer k => dType d == 8 && dIdx d == k.val
  | .count k => dType d == 9 && dIdx d == k.val

/-- A program uses time-domain (IQ) conditions of a channel. -/
def stUsesIq (b : List Word) (c : Nat) : Bool := (stUsed b).any (fun d => dType d == 3 && dCh d == c)

/-- A program uses frequency-domain (MASK, BAND) conditions of a channel. -/
def stUsesFreq (b : List Word) (c : Nat) : Bool := (stUsed b).any (fun d => (dType d == 1 || dType d == 2) && dCh d == c)

def stStopEn (b : List Word) (c : Nat) : Bool := bb b (5 + c) 35
def stStopMask (b : List Word) (c : Nat) : Nat := bf b (5 + c) 34 33
def stStopN (b : List Word) (c : Nat) : Nat := bf b (5 + c) 16 0
def stPostStop (b : List Word) (c : Nat) : Nat := bw b (7 + c)

/-! ### Commands that carry a block (R285) -/

/-- TARGET source ID of a CONFIGURE. -/
def Staged.target (c : Staged) : Nat := c.e.op5 % 65536
/-- BLOCK_TYPE of a CONFIGURE. -/
def Staged.blkType (c : Staged) : Nat := bitsOf c.e.op5 23 16

/-- Every running CONFIGURE of a block and target that meets a condition completes, dated its effect instant (R273). -/
def State.finishCfg (s : State) (sd : SideId) (ty target : Nat) (p : Staged → Bool) : State :=
  ((s.side sd).host.staged.filter (fun c => c.op == 2 && c.running && c.blkType == ty && c.target == target && p c)).foldl
    (fun s c => s.complete sd c stOK (lget c.aux 0 0).toNat 0 0) s

/-- A CONFIGURE that has taken effect at t and waits for `mark` before every field is in force (R273). -/
def State.cfgWaits (s : State) (sd : SideId) (c : Staged) (t : Nat) (mark : Int) : State :=
  s.mod sd (fun x => x.restage { c with running := true, aux := [(t : Int), mark] })

/-- The mark of a CONFIGURE that waits. -/
def Staged.mark (c : Staged) : Int := lget c.aux 1 0

/-- Source IDs of a channel's islands (R13). -/
def Side.feSrc (x : Side) (c : Chan) : Nat := x.src (srcOf 0 c.n 8)
def Side.ppSrc (x : Side) (c : Chan) : Nat := x.src (srcOf 2 c.n 0)
def Side.densSrc (x : Side) (c : Chan) : Nat := x.src (srcOf 2 (2 + c.n) 0)
def Side.startSrc (x : Side) : Nat := x.src (srcOf 2 4 0)

/-! ### Channels in use -/

/-- The channel is armed. -/
def Side.armed (x : Side) (c : Chan) : Bool := (x.acqOf c).armed.isSome

/-- A stream of the channel runs. -/
def Side.streaming (x : Side) (c : Chan) : Bool := x.strm.any (fun t => t.bound && t.ch == c)

/-- Fields of the SPECTRAL block that concern the cross-spectrum (R150). -/
def ppXsEn (b : List Word) : Bool := bb b 0 16
def ppXsRemote (b : List Word) : Bool := bb b 0 15
def ppXsRch (b : List Word) : Nat := bf b 0 14 14

/-- R72, R103: the channel is armed, streaming, or feeds an enabled spectral, density or trigger product, the other channel's cross-spectrum
of which it is the partner (R144) included. -/
def Side.chanActive (x : Side) (c : Chan) (timeDomain : Bool) : Bool :=
  x.armed c || x.streaming c || x.on (PP_STAT.RUNNING c.n) || x.on (DENS_STAT.RUNNING c.n)
    || (x.on (PP_STAT.XS_RUNNING c.other.n) && !ppXsRemote (lget x.pp c.other.n Pp.init).block)
    || (x.on STARTER_STAT.RUNNING && (stUsesFreq x.starter.force c.n || (timeDomain && stUsesIq x.starter.force c.n)))

end Sys2Proof.Machine
end

