-- ==== Sys2Proof/Machine/RaceTime.lean ====
section
/-! DEFINITION. Race time (R169 to R181): the accumulator and its DEVCLK edge, loads and increments, steps, discipline to PPS,
and the syncs across the Keel; and the Starter's list of undecided instants, which a step reorders (R194 to R196). -/

namespace Sys2Proof.Machine

/-! ### Roles (R25, R28, R34) -/

/-- The side is crew: the Keel is up and it does not hold cox. -/
def Side.isCrew (x : Side) : Bool := x.on KEEL_COX_STAT.KEEL_UP && !x.on KEEL_COX_STAT.COX_HELD

/-- The side is the cox side: it holds cox and the Keel is up. -/
def Side.isCox (x : Side) : Bool := x.on KEEL_COX_STAT.KEEL_UP && x.on KEEL_COX_STAT.COX_HELD

/-- Split crew (R28). -/
def Side.isSolo (x : Side) : Bool := x.on KEEL_COX_STAT.SPLIT_CREW

/-! ### Instants of the Starter (R194 to R196) -/

/-- An instant is earlier than another: by epoch, then by race time (R196). -/
def earlier (ep t ep' t' : Nat) : Bool := decide (ep < ep') || (ep == ep' && decide (t < t'))

/-- The instant (ep, t) changed by f, made if it is missing. -/
def instMod (ep t : Nat) (f : Inst → Inst) : List Inst → List Inst
  | [] => [f ⟨ep, t, [], [], [], []⟩]
  | a :: r =>
    if a.ep == ep && a.t == t then f a :: r
    else if earlier a.ep a.t ep t then a :: instMod ep t f r
    else f ⟨ep, t, [], [], [], []⟩ :: a :: r

/-- The horizon H in race-time LSBs (R195). -/
def Side.hLsb (x : Side) : Nat := nsLsb x.starter.h

/-- What the steps of race time since an epoch have added to it. -/
def Starter.offset (st : Starter) (ep : Nat) : Int := (st.steps.take (st.ep - ep)).foldl (fun a p => a + p.2) 0

/-- The present race time as it would read had none of the steps since an epoch been made. -/
def Side.nowIn (x : Side) (ep : Nat) : Int := (x.now : Int) - x.starter.offset ep

/-- R195, R196: the Starter decides an instant at its race time + H, whatever steps have come since. -/
def Side.instDue (x : Side) (ep t : Nat) : Bool := decide (x.nowIn ep ≥ ((t + x.hLsb : Nat) : Int))

/-- R195: an input in use: some program in force or to come has a descriptor that an occurrence meets. -/
def Starter.uses (st : Starter) (o : Occ) : Bool :=
  (st.force :: st.next.map (·.2.2)).any (fun b => (stUsed b).any (fun d => matchOcc d o))

/-- R194, R196: an occurrence of an input in use reaches the Starter while its program runs; after its instant has been decided it is
dropped and counted. `last` is the last sample of the frame that made it (R206). -/
def Side.occurIn (x : Side) (o : Occ) (ep t : Nat) (last : List (Nat × Nat)) : Side :=
  let st := x.starter
  if !x.on STARTER_STAT.RUNNING || earlier ep t st.fromEp st.fromT || !st.uses o then x
  else if earlier ep t st.decEp st.decided || x.nowIn ep > ((t + x.hLsb : Nat) : Int) then (x.inc LATE_OCC.whole).raise STARTER_STAT.LATE_SEEN
  else
    { x with starter := { st with
        insts := instMod ep t (fun i => if i.occ.contains o then i else { i with occ := i.occ ++ [o], last := i.last ++ last }) st.insts } }

/-- An occurrence stamped in the present epoch. -/
def Side.occur (x : Side) (o : Occ) (t : Nat) : Side := x.occurIn o x.starter.ep t []

/-! ### Steps (R171) -/

/-- R196: at a step a running timer keeps its remaining duration, and later stamps follow earlier ones; so do pulses to come and those
that run, and requests. -/
def Starter.step (st : Starter) (now : Nat) (d : Int) : Starter :=
  let move := fun (e : Nat) => ((e : Int) + d).toNat
  { st with
    ep := st.ep + 1
    steps := (now, d) :: st.steps
    timers := st.timers.map (fun o => o.map (fun e => if e.1 == st.ep && e.2 > now then (e.1 + 1, move e.2) else e))
    outs := st.outs.map (fun o => o.map move)
    pulses := st.pulses.map (fun p => (p.1, move p.2))
    reqs := st.reqs.map move
    accepted := st.accepted.map move }

/-- Epoch and race time at which a duration that began in an epoch ends: a step before its end moves it (R196). -/
def Starter.place (st : Starter) (ep e : Nat) : Nat × Nat :=
  ((st.steps.take (st.ep - ep)).reverse).zipIdx.foldl (fun (q : Nat × Nat) p =>
    if q.1 == ep + p.2 && q.2 > p.1.1 then (q.1 + 1, ((q.2 : Int) + p.1.2).toNat) else q) (ep, e)

/-- R171: race time steps by d LSBs. Ties and the instant of a handover move with it (R183, R181), SYNCED clears on a crew side
(R179). -/
def Side.step (x : Side) (d : Int) (cause : Nat) : Side :=
  let rta := (((x.rt.rta : Int) + d * 2 ^ 24) % (2 ^ 96 : Int)).toNat
  let x := { x with
    rt := { x.rt with rta := rta, syncRun := 0, ppsFrom := ((x.rt.ppsFrom : Int) + d).toNat }
    split := { x.split with ties := x.split.ties.map (fun (k : Tie) => { k with rt := k.rt + d }) }
    fe := x.fe.map (fun (f : FrontEnd) => { f with steps := (f.lemcT.head?.elim 0 (·.1), d) :: f.steps })
    starter := x.starter.step x.now d }
  let x := (x.raise RT_STAT.STEP_SEEN).inc RT_STEP_COUNT.whole
  let x := if x.on KEEL_COX_STAT.COX_HELD then x else x.drop RT_STAT.SYNCED
  x.event 0x09 x.now d cause

/-- R147: after a step on either side, cross-side pairing may be lost. -/
def State.markStep (s : State) : State :=
  let f := fun (x : Side) => { x with pp := x.pp.map (fun p => { p with xs := { p.xs with gap := true } }) }
  (s.mod .stroke f).mod .bow f

/-! ### The DEVCLK edge (R169, R170, R172) -/

/-- A commit of INC takes effect (R170). -/
def Side.applyInc (x : Side) : Side :=
  match x.rt.incPend with
  | none => x
  | some v => { x with rt := { x.rt with inc := v, incPend := none } }.put RT_STAT.RUN (v != 0)

/-- A load takes effect (R172): RTA's fraction below race time and P are cleared, F is kept; it is a step with cause 0. -/
def Side.applyLoad (x : Side) : Side :=
  match x.rt.loadPend with
  | none => x
  | some v =>
    let d : Int := (v : Int) - x.now
    let x := { x with rt := { x.rt with loadPend := none, p := 0, rta := x.rt.rta / 2 ^ 24 * 2 ^ 24 } }
    x.step d 0

/-- INC_eff (R169): 0 while INC is 0. -/
def Side.incEff (x : Side) : Int := if x.rt.inc == 0 then 0 else (x.rt.inc : Int) + x.rt.f + x.rt.p

/-- RTA advances by INC_eff. -/
def Side.advance (x : Side) : Side :=
  { x with rt := { x.rt with rta := (((x.rt.rta : Int) + x.incEff) % (2 ^ 96 : Int)).toNat } }

/-- R53: at an internal LEMC boundary of a running front end its race time is kept. -/
def Side.markLemc (x : Side) (c : Chan) : Side :=
  let fe := x.feOf c
  let cy := x.get (JESD_LEMC_INFO.CYCLES c.n)
  if x.on (FE_STAT.RUNNING c.n) && cy != 0 && x.rt.edges ≥ fe.startEdge && (x.rt.edges - fe.startEdge) % cy == 0 then
    x.setFe c { fe with lemcT := ((x.rt.edges - fe.startEdge) / cy, x.rt.rta, x.rt.inc) :: fe.lemcT }
  else x

/-- R13: the race-time base island. -/
def rtSrc : Nat := srcOf 5 6 0

/-- R169, R170, R172: what race time does at a DEVCLK edge. -/
def Side.rtEdge (x : Side) : Side :=
  let x := x.applyInc
  if x.rt.loadPend.isSome then x.applyLoad else x.advance

/-- A rising DEVCLK edge of a side; race time stands still while its base island does not run (R19). A repair in progress ends
(assumption log 127). -/
def Side.devclk (x : Side) : Side :=
  let x := { x with rt := { x.rt with edges := x.rt.edges + 1 } }
  let x := if x.on SRAM_REPAIR_STAT.BUSY then x.drop SRAM_REPAIR_STAT.BUSY else x
  let x := if x.islRuns rtSrc then x.rtEdge else x
  (x.markLemc .c0).markLemc .c1

/-- RT_INC_COMMIT. -/
def execRtIncCommit (sd : SideId) (s : State) : Host.Outcome State Fault Refusal :=
  .next (s.mod sd (fun x => if x.islRuns rtSrc then x.applyInc else x))

/-- RT_LOAD. -/
def execRtLoad (sd : SideId) (s : State) : Host.Outcome State Fault Refusal :=
  .next (if (s.side sd).rt.loadPend.isSome && (s.side sd).islRuns rtSrc
    then (s.mod sd (fun x => x.applyLoad)).markStep else s)

/-- A commit of RT_LOAD (R172): ignored on the crew side with the Keel up. -/
def Side.wRtLoad (x : Side) (v : Nat) : Side :=
  if x.isCrew then x.raise RT_STAT.LOAD_IGNORED else { x with rt := { x.rt with loadPend := some v } }

/-- A commit of RT_INC (R170). -/
def Side.wRtInc (x : Side) (v : Nat) : Side := { x with rt := { x.rt with incPend := some (v % 2 ^ 48) } }

/-- A write of RT_SET_SEC (R176). -/
def Side.wSetSec (x : Side) (v : Word) : Side :=
  let x := x.set RT_SET_SEC.SEC (bitsOf v.toNat 31 0)
  if bitAt v.toNat 35 && x.isCrew then x.raise RT_STAT.LOAD_IGNORED else x.put RT_SET_SEC.ARM (bitAt v.toNat 35)

/-- A write of RT_CTRL: DISC_EN 0 → 1 makes the next edge the first (R174); 1 → 0 ends the loop, whose terms are zero when no
loop runs (R169). -/
def Side.wRtCtrl (x : Side) (v : Word) : Side :=
  let old := x.on RT_CTRL.DISC_EN
  let x := x.setReg RT_CTRL.whole.idx v
  let new := x.on RT_CTRL.DISC_EN
  if !old && new then { x with rt := { x.rt with ppsFirst := true, ppsLast := none } }
  else if old && !new && !x.isCrew then { x with rt := { x.rt with f := 0, p := 0 } }
  else x

/-! ### Stamps (R183, R184) -/

/-- A calibration value in force: what calibration installed, else the fuse value (R389, R404, R406). -/
def Side.calForce (x : Side) (idx : Nat) : Word :=
  match aget x.cal.force idx with
  | some w => w
  | none => if x.fuse then Config.fuse x.who idx else 0

/-- R183: split time of a stamp made by interpolator unit u, in units of 2^−12 ns. -/
def Side.splitTime (x : Side) (u : Nat) (st : SplitStamp) : Int :=
  let f := CAL_FINE.FINE u st.tap.val
  (4096 * st.coarse : Nat) + (bitsOf (x.calForce f.idx).toNat f.hi f.lo : Nat)

/-- The interpolator in service of an input, 0 for A and 1 for B (R182). -/
def Side.ipOf (x : Side) (src : Nat) : Nat :=
  if src < 4 then x.get (SPLIT_IN_CFG.IP_B src) else b2n (bitAt (x.get EVT_IN_CFG.IP_B) (src - 4))

/-- The race time of the next DEVCLK edge, with a load or an increment that it takes (R169, R170, R172, R19). -/
def Side.nextEdge (x : Side) : Nat := if x.islRuns rtSrc then x.rtEdge.now else x.now

/-- R183, R184: the race time of an edge with a split time; while stamps are INVALID, that of the next DEVCLK edge. Race time wraps
at 72 bits (R8). -/
def Side.stampTime (x : Side) (ts : Int) : Nat :=
  if x.on SPLIT_STAT.INVALID then x.nextEdge
  else
    match x.split.ties.dropWhile (fun k => decide (k.ts > ts)) with
    | k :: k' :: _ =>
      let dt := (k.ts - k'.ts).toNat
      let rate := if dt == 0 then 0 else rhe (sx 72 (ux 72 (k.rt - k'.rt)) * 2 ^ 32) dt
      ux 72 (k.rt + rheP ((ts - k.ts) * rate) 32)
    | [k] => ux 72 k.rt
    | [] => x.now

/-- TIE (R183, R184): the fourth and older ties are not kept. -/
def Side.tie (x : Side) (st : SplitStamp) : Side :=
  if !x.on PLL_STAT.T_LOCK then x
  else
    let ts := x.splitTime 16 st
    let x := { x with split := { x.split with ties := (⟨ts, x.now, st.coarse, st.tap.val⟩ :: x.split.ties).take 4, tieRun := x.split.tieRun + 1 } }
    if x.split.tieRun ≥ 2 then x.drop SPLIT_STAT.INVALID else x

/-! ### Discipline (R173 to R177) -/

/-- sat36 of R175. -/
def satF (v : Int) : Int := if v > 2 ^ 35 - 1 then 2 ^ 35 - 1 else if v < -(2 ^ 35 - 1) then -(2 ^ 35 - 1) else v

/-- round_half_even(2^64/INC), the DEVCLK edges of a second (R175); 1 while INC is 0. -/
def Side.ndcNominal (x : Side) : Nat := if x.rt.inc == 0 then 1 else max 1 (rhe (2 ^ 64) x.rt.inc).toNat

/-- R175: the loop terms that a residual e gives after NDC edges. -/
def Side.discipline (x : Side) (e : Int) (ndc kp ki : Nat) : Side :=
  let q := rhe (e * 2 ^ 24) (max 1 ndc)
  { x with rt := { x.rt with f := satF (x.rt.f - rheP q ki), p := -(rheP q kp) } }

/-- The whole second nearest to an edge time. -/
def nearSec (u : Int) : Int := rheP u 40

/-- R177: a residual result, kept for records too (R231). -/
def Side.ppsResult (x : Side) (e sec : Int) : Side :=
  let ec := max (-536870911) (min 536870911 e)
  let v := ux 30 ec + ux 32 sec * 2 ^ 30
  let x := x.newResult PPS_RESID_LO.whole.idx (v % 2 ^ 26) (v / 2 ^ 26) true
  let r := ((x.reg PPS_RESID_LO.whole.idx).toNat, (x.reg PPS_RESID_HI.whole.idx).toNat)
  { x with acq := x.acq.map (fun a => { a with resid := (r :: a.resid).take 2 }) }

/-- R175: 8 accepted edges running within LOCK_TOL set PPS_LOCK. -/
def Side.ppsLock (x : Side) (e : Int) : Side :=
  if e.natAbs ≤ x.get RT_CTRL.LOCK_TOL then
    let n := x.rt.lockRun + 1
    let x := { x with rt := { x.rt with lockRun := n } }
    if n ≥ 8 then x.raise RT_STAT.PPS_LOCK else x
  else { x with rt := { x.rt with lockRun := 0 } }.drop RT_STAT.PPS_LOCK

/-- R175 to R177, R180, R184: an accepted edge with edge time u. Answers the side and whether race time stepped. -/
def Side.ppsAccept (x : Side) (u : Int) (invalid : Bool) : Side × Bool :=
  let sn := nearSec u
  let e := u - sn * 2 ^ 40
  let armed := x.on RT_SET_SEC.ARM
  let sec := if armed then (x.get RT_SET_SEC.SEC : Int) else sn
  let disc := x.on RT_CTRL.DISC_EN
  let x := x.drop RT_STAT.PPS_LOST
  let (x, st1) := if armed then
      let x := x.drop RT_SET_SEC.ARM
      if sec != sn then (x.step ((sec - sn) * 2 ^ 40) 1, true) else (x, false)
    else (x, false)
  let x := x.ppsResult e sec
  if !disc then (x, st1)
  else
    let x := if x.on KEEL_COX_STAT.COX_HELD then x.drop RT_STAT.UNSYNCED else x
    let ndc := match x.rt.ppsLast with
      | some n => x.rt.edges - n
      | none => x.ndcNominal
    let x := { x with rt := { x.rt with ppsFirst := false, ppsLast := some x.rt.edges } }
    if invalid then (x, st1)
    else if e.natAbs > 2 ^ x.get RT_CTRL.STEP_EXP then
      let x := x.step (-e) 2
      (({ x with rt := { x.rt with p := 0 } }).ppsLock e, true)
    else ((x.discipline e ndc (x.get RT_CTRL.KP) (x.get RT_CTRL.KI)).ppsLock e, st1)

/-- PPS_EDGE (R173, R174): a stamped edge, taken where its slope is the one PPS_FALL selects and the race-time base runs (R19). The
crew's own discipline is off, and edges stamped before a handover are the old cox's (R181). -/
def Side.ppsEdge (x : Side) (fall : Bool) (st : SplitStamp) : Side × Bool :=
  let rt := x.stampTime (x.splitTime (2 * 6 + x.ipOf 6) st)
  let disc := x.on RT_CTRL.DISC_EN
  let armed := x.on RT_SET_SEC.ARM
  if fall != x.on RT_CTRL.PPS_FALL || !x.islRuns rtSrc || x.isCrew || !(disc || armed) || rt < x.rt.ppsFrom then (x, false)
  else
    let u : Int := (rt : Int) - x.getS PPS_OFFSET.OFFSET
    let e := u - nearSec u * 2 ^ 40
    if (disc && x.rt.ppsFirst) || armed || e.natAbs ≤ x.get RT_CTRL.PPS_WIN * 2 ^ 10 then x.ppsAccept u (x.on SPLIT_STAT.INVALID)
    else (x.inc PPS_REJECT.whole, false)

/-- PPS_EDGE. -/
def execPpsEdge (sd : SideId) (e : PpsEdge) (s : State) : Host.Outcome State Fault Refusal :=
  let r := (s.side sd).ppsEdge e.fall e.st
  let s := s.setSide sd r.1
  .next (if r.2 then s.markStep else s)

/-- PPS_LOST (R174): holdover. -/
def execPpsLost (sd : SideId) (s : State) : Host.Outcome State Fault Refusal :=
  .next (s.mod sd (fun x =>
    if x.on RT_CTRL.DISC_EN && !x.isCrew && x.islRuns rtSrc then
      (({ x with rt := { x.rt with p := 0, ppsLast := none, lockRun := 0 } }).raise RT_STAT.PPS_LOST).drop RT_STAT.PPS_LOCK
    else x))

/-! ### Syncs across the Keel (R178, R179) -/

/-- The side that holds cox while the Keel is up and settled. -/
def State.coxSide (s : State) : Option SideId :=
  if !s.keel.up || s.keel.resolving then none
  else if s.stroke.on KEEL_COX_STAT.COX_HELD then some .stroke
  else if s.bow.on KEEL_COX_STAT.COX_HELD then some .bow
  else none

/-- A message put on the Keel towards a side. -/
def State.send (s : State) (dst : SideId) (m : KeelMsg) : State :=
  { s with keel := { s.keel with msgs := s.keel.msgs ++ [(dst, m)] } }

/-- The first message in flight that p accepts, and the rest. -/
def takeMsg (p : SideId → KeelMsg → Bool) : List (SideId × KeelMsg) → Option ((SideId × KeelMsg) × List (SideId × KeelMsg))
  | [] => none
  | a :: r =>
    if p a.1 a.2 then some (a, r)
    else (takeMsg p r).map (fun q => (q.1, a :: q.2))

/-- RT_SYNC_SEND (R178): a race-time base that is stopped sends none (R19). -/
def execRtSyncSend (s : State) : Host.Outcome State Fault Refusal :=
  .next (match s.coxSide with
    | some c => if (s.side c).islRuns rtSrc then s.send c.other (.rtSync (s.side c).now) else s
    | none => s)

/-- R22: the fixed Keel latency of 48 ns in race-time LSBs. -/
def keelLsb : Nat := 52777

/-- R178 to R180: the crew acts on a sync. Answers whether race time stepped. -/
def Side.sync (x : Side) (t : Nat) : Side × Bool :=
  let d : Int := (t : Int) + keelLsb - x.now
  let x := (x.set RT_XSYNC_ERR.D (ux 36 (satS 36 d))).drop RT_STAT.UNSYNCED
  let ndc := match x.rt.syncLast with
    | some n => x.rt.edges - n
    | none => x.ndcNominal
  let x := { x with rt := { x.rt with syncLast := some x.rt.edges } }
  if d.natAbs > 65536 then
    let x := x.step d 3
    ({ x with rt := { x.rt with p := 0 } }, true)
  else
    let x := x.discipline (-d) ndc 2 6
    if d.natAbs ≤ 6 then
      let n := x.rt.syncRun + 1
      let x := { x with rt := { x.rt with syncRun := n } }
      (if n ≥ 64 then x.raise RT_STAT.SYNCED else x, false)
    else ({ x with rt := { x.rt with syncRun := 0 } }.drop RT_STAT.SYNCED, false)

/-- CROSS_SIDE_SYNC: the oldest sync in flight reaches the crew side; a stopped race-time base takes none (R19). -/
def execCrossSideSync (s : State) : Host.Outcome State Fault Refusal :=
  .next (match takeMsg (fun _ m => match m with | .rtSync _ => true | _ => false) s.keel.msgs with
    | some ((dst, .rtSync t), rest) =>
      let s := { s with keel := { s.keel with msgs := rest } }
      if (s.side dst).isCrew && (s.side dst).islRuns rtSrc then
        let r := (s.side dst).sync t
        let s := s.setSide dst r.1
        if r.2 then s.markStep else s
      else s
    | _ => s)

end Sys2Proof.Machine
end

