-- ==== Sys2Proof/Machine/Split.lean ====
section
/-! DEFINITION. The split timer (R182 to R191): measurements, event stamps, the split ring, interpolator swaps and thresholds. -/

namespace Sys2Proof.Machine

/-! ### The split ring (R191) -/

/-- LOG2LEN: values other than 6 to 16 act as 6. -/
def log2Len (v : Nat) : Nat := if 6 ≤ v ∧ v ≤ 16 then v else 6

/-- Word 0 of a split-ring entry. -/
def splitWord0 (ty src : Nat) (fall inv close ipB : Bool) (slot : Nat) (exp rst : Bool) (num : Nat) : Word :=
  wordN (ty * 2 ^ 32 + src * 2 ^ 29 + b2n fall * 2 ^ 28 + b2n inv * 2 ^ 27 + b2n close * 2 ^ 26 + b2n ipB * 2 ^ 25
    + slot % 32 * 2 ^ 20 + b2n exp * 2 ^ 19 + b2n rst * 2 ^ 18 + num % 65536)

/-- Words a … a + n − 1 of space 0 lie in the general store (R314). -/
def inGeneral (a n : Nat) : Bool := decide (2 ^ 23 ≤ a ∧ a + n ≤ 2 ^ 24)

/-- R191: an entry is written to the ring, or dropped and counted when the ring is full. -/
def State.splitEntry (s : State) (sd : SideId) (w0 : Word) (t aux : Nat) : State :=
  let x := s.side sd
  let len := 2 ^ log2Len (x.get SPLIT_RING_CFG.LOG2LEN)
  let wp := x.get SPLIT_WP.WP
  if (wp + 2 ^ 36 - x.get SPLIT_RP.RP) % 2 ^ 36 ≥ len then
    s.mod sd (fun x => (x.inc SPLIT_RING_DROP.whole).raise SPLIT_STAT.DROP_SEEN)
  else
    let ws := [w0, wordN (t / 2 ^ 36), wordN t, wordN aux]
    let base := x.pair SPLIT_BASE_LO.whole.idx
    let e := wp % len
    let s := s.mod sd (fun x => x.set SPLIT_WP.WP ((wp + 1) % 2 ^ 36))
    if x.on SPLIT_RING_CFG.HOST then
      let dense := x.on SPLIT_RING_CFG.HOST_DENSE
      if s.dmaOpen sd then s.dmaWrite sd (base + e * (if dense then 18 else 32)) (packBytes dense ws) else s
    else s.mod sd (fun x => if inGeneral (base + 4 * e) 4 then x.writeRange .sram (srcOf 5 2 0) (base + 4 * e) ws else x)

/-! ### Measurements (R186 to R189) -/

/-- R186: the length of the window in race-time LSBs. -/
def Side.windowLsb (x : Side) : Nat := nsLsb (max 1 (x.get SPLIT_WINDOW.WINDOW))

/-- The open measurement closes: its close entry, its result (R189), and its close occurrence (R200). -/
def State.closeMeas (s : State) (sd : SideId) (m : Meas) (t : Nat) (expired restarted : Bool) : State :=
  let inv := (s.side sd).on SPLIT_STAT.INVALID
  let s := s.splitEntry sd (splitWord0 3 0 false false false false m.slots expired restarted m.num) 0 0
  s.mod sd (fun x =>
    let x := { x with split := { x.split with meas := none } }.drop SPLIT_STAT.WINDOW_OPEN
    let x := x.newResult SPLIT_MEAS_RESULT.whole.idx (m.num % 65536 + m.tooClose % 32 * 2 ^ 16 + m.slots % 32 * 2 ^ 21) 0 false
    x.occur (.split (Fin.ofNat 8 m.src) 3 inv) t)

/-- WINDOW_EXPIRY (R186): the open window ends before NSTOP. -/
def execWindowExpiry (sd : SideId) (s : State) : Host.Outcome State Fault Refusal :=
  let x := s.side sd
  .next (match x.split.meas with
    | some m => s.closeMeas sd m (m.start + x.windowLsb) true false
    | none => s)

/-- R185: THRESH and TERM50 of a SPLIT input come into force; codes above 4,000 act as 4,000. -/
def Side.applyThr (x : Side) (i : Nat) : Side :=
  { x with split := { x.split with thr := lset x.split.thr i (min 4000 (x.get (SPLIT_IN_CFG.THRESH i)), x.on (SPLIT_IN_CFG.TERM50 i)) } }

/-- A start opens a window (R186); waiting thresholds come into force (R185). -/
def State.openMeas (s : State) (sd : SideId) (src : Nat) (fall ipB : Bool) (ts : Int) (rt : Nat) : State :=
  let x := s.side sd
  let inv := x.on SPLIT_STAT.INVALID
  let num := x.split.measNum + 1
  let s := s.mod sd (fun x =>
    let x := { x with split := { x.split with meas := some ⟨src, rt, ts, ts, 0, 0, num⟩, measNum := num } }.raise SPLIT_STAT.WINDOW_OPEN
    let x := (List.range 4).foldl (fun x i => x.applyThr i) x
    x.occur (.split (Fin.ofNat 8 src) 1 inv) rt)
  s.splitEntry sd (splitWord0 1 src fall inv false ipB 0 false false num) rt 0

/-- A stop takes the next slot of the open window (R186, R187); NSTOP slots close it. -/
def State.stopMeas (s : State) (sd : SideId) (m : Meas) (src : Nat) (fall ipB : Bool) (ts : Int) (rt : Nat) : State :=
  let x := s.side sd
  let inv := x.on SPLIT_STAT.INVALID
  let near := decide (ts - m.lastTs < 6144)
  let m' := { m with slots := m.slots + 1, lastTs := ts, tooClose := m.tooClose + b2n near }
  let s := s.mod sd (fun x =>
    let x := { x with split := { x.split with meas := some m' } }
    if near then x.inc SPLIT_TOO_CLOSE.whole else x.occur (.split (Fin.ofNat 8 src) 2 inv) rt)
  let iv := rt - m.start
  let s := s.splitEntry sd (splitWord0 2 src fall inv near ipB m'.slots false false m.num) (if near then 0 else rt)
    (if near then 0 else if iv ≥ 2 ^ 36 then 2 ^ 36 - 1 else iv)
  if m'.slots > x.get SPLIT_MEAS_CFG.NSTOP_M1 then s.closeMeas sd m' rt false false else s

/-- A qualifying edge with no window open: a start opens one, a stop is an orphan. -/
def State.edgeClosed (s : State) (sd : SideId) (src : Nat) (fall ipB : Bool) (ts : Int) (rt : Nat) : State :=
  let x := s.side sd
  if x.on (SPLIT_IN_CFG.START src) then s.openMeas sd src fall ipB ts rt
  else if x.on (SPLIT_IN_CFG.STOP src) then s.mod sd (fun x => x.inc SPLIT_ORPHAN.whole)
  else s

/-- A slope code admits an edge (R190). -/
def slopeOk (code : Nat) (fall : Bool) : Bool := if fall then code ≥ 2 else code % 2 == 1

/-- SPLIT_EDGE (R186 to R188). Every timed edge is an occurrence of its input too (R200). -/
def State.splitEdge (s : State) (sd : SideId) (src : Nat) (fall : Bool) (st : SplitStamp) : State :=
  let x := s.side sd
  if !slopeOk (x.get (SPLIT_IN_CFG.SLOPE src)) fall then s
  else
    let ip := x.ipOf src
    let ts := x.splitTime (2 * src + ip) st
    let rt := x.stampTime ts
    let ipB := ip == 1
    let inv := x.on SPLIT_STAT.INVALID
    let any := fun (s : State) => s.mod sd (fun x => x.occur (.split (Fin.ofNat 8 src) 0 inv) rt)
    if !x.on SPLIT_MEAS_CFG.MEAS_EN then any s
    else
      match x.split.meas with
      | none => any (s.edgeClosed sd src fall ipB ts rt)
      | some m =>
        if x.on (SPLIT_IN_CFG.STOP src) then
          if rt - m.start ≤ x.windowLsb then
            let s' := s.stopMeas sd m src fall ipB ts rt
            if ts - m.lastTs < 6144 then s' else any s'
          else any ((s.closeMeas sd m rt true false).edgeClosed sd src fall ipB ts rt)
        else if x.on (SPLIT_IN_CFG.START src) then
          if x.on SPLIT_MEAS_CFG.RESTART_ON_START then any ((s.closeMeas sd m rt false true).openMeas sd src fall ipB ts rt)
          else any (s.mod sd (fun x => x.inc SPLIT_START_IGN.whole))
        else any s

/-- SPLIT_EDGE. -/
def execSplitEdge (sd : SideId) (src : Fin 4) (fall : Bool) (st : SplitStamp) (s : State) : Host.Outcome State Fault Refusal :=
  .next (s.splitEdge sd src.val fall st)

/-! ### Event class (R190) -/

/-- The slope code of event source 4 + i. -/
def Side.evtSlope (x : Side) (i : Nat) : Nat := bitsOf (x.get EVT_IN_CFG.EN_SLOPE) (7 - 2 * i) (6 - 2 * i)

/-- R190: an edge on event source 4 + i is stamped, or counted within the dead time. Answers the stamp's race time. -/
def State.stampEvent (s : State) (sd : SideId) (i : Nat) (fall : Bool) (st : SplitStamp) : State × Option Nat :=
  let x := s.side sd
  if !slopeOk (x.evtSlope i) fall then (s, none)
  else
    let src := 4 + i
    let ip := x.ipOf src
    let ts := x.splitTime (2 * src + ip) st
    let near := match lget x.split.evtLast i none with
      | some l => decide (ts - l < 8192)
      | none => false
    if near then
      (s.mod sd (fun x => { x with split := { x.split with evtDead := lmod x.split.evtDead i (· + 1) } }.inc SPLIT_DEAD.whole), none)
    else
      let rt := x.stampTime ts
      let inv := x.on SPLIT_STAT.INVALID
      let n := lget x.split.evtCnt i 0 + 1
      let dead := lget x.split.evtDead i 0
      let s := s.mod sd (fun x =>
        let x := { x with split := { x.split with
          evtCnt := lset x.split.evtCnt i n, evtLast := lset x.split.evtLast i (some ts), evtDead := lset x.split.evtDead i 0 } }
        if i < 2 then x.occur (.trigin (Fin.ofNat 2 i) fall inv) rt else x.occur (.split (Fin.ofNat 8 src) 0 inv) rt)
      (s.splitEntry sd (splitWord0 0 src fall inv false (ip == 1) 0 false false n) rt (dead % 2 ^ 36), some rt)

/-! ### Configuration -/

/-- SPLIT_MEAS_CFG written: MEAS_EN 0 → 1 restarts the numbering (R189), 1 → 0 drops an open window. -/
def Side.wMeasCfg (x : Side) (v : Word) : Side :=
  let old := x.on SPLIT_MEAS_CFG.MEAS_EN
  let x := x.setReg SPLIT_MEAS_CFG.whole.idx v
  let new := x.on SPLIT_MEAS_CFG.MEAS_EN
  if !old && new then { x with split := { x.split with measNum := 0 } }
  else if old && !new then { x with split := { x.split with meas := none } }.drop SPLIT_STAT.WINDOW_OPEN
  else x

/-- R191: every input is off and the measurement unit too. -/
def Side.splitOff (x : Side) : Bool :=
  (List.range 4).all (fun i => x.get (SPLIT_IN_CFG.SLOPE i) == 0 && x.evtSlope i == 0) && !x.on SPLIT_MEAS_CFG.MEAS_EN

/-- R191: a write that would change the ring's place or size (registers with these indexes): pointers restart, or it is ignored while an
input is on. -/
def Side.wSplitRing (x : Side) (idx : List Nat) (f : Side → Side) : Side :=
  let y := f x
  if idx.all (fun i => y.reg i == x.reg i) then x
  else if x.splitOff then (y.set SPLIT_WP.WP 0).set SPLIT_RP.RP 0
  else x.raise SPLIT_STAT.CFG_IGNORED

/-- SPLIT_RING_CFG written. -/
def Side.wSplitRingCfg (x : Side) (v : Word) : Side := x.wSplitRing [SPLIT_RING_CFG.whole.idx] (fun x => x.setReg SPLIT_RING_CFG.whole.idx v)

/-- RING_BASE committed. -/
def Side.wSplitBase (x : Side) (v : Nat) : Side := x.wSplitRing [SPLIT_BASE_LO.whole.idx, SPLIT_BASE_LO.whole.idx + 1] (fun x => x.setPair SPLIT_BASE_LO.whole.idx v)

/-- R182: a swap is requested for an input. -/
def Side.reqSwap (x : Side) (src : Nat) : Side :=
  { x with split := { x.split with swapReq := dedup (x.split.swapReq ++ [src]) } }

/-- SPLIT_IN_CFGn written: SWAP_IP requests a swap, IP_B is read-only (R193). -/
def Side.wSplitIn (x : Side) (i : Nat) (v : Word) : Side :=
  let b := x.get (SPLIT_IN_CFG.IP_B i)
  let x := ((x.setReg (SPLIT_IN_CFG.whole i).idx v).set (SPLIT_IN_CFG.SWAP_IP i) 0).set (SPLIT_IN_CFG.IP_B i) b
  if bitAt v.toNat 18 then x.reqSwap i else x

/-- EVT_IN_CFG written. -/
def Side.wEvtIn (x : Side) (v : Word) : Side :=
  let b := x.get EVT_IN_CFG.IP_B
  let x := ((x.setReg EVT_IN_CFG.whole.idx v).set EVT_IN_CFG.SWAP_IP 0).set EVT_IN_CFG.IP_B b
  (List.range 4).foldl (fun x i => if bitAt v.toNat (24 + i) then x.reqSwap (4 + i) else x) x

/-- The interpolators of an input change service (R182). -/
def Side.swapIps (x : Side) (src : Nat) : Side :=
  if src < 4 then x.put (SPLIT_IN_CFG.IP_B src) (!x.on (SPLIT_IN_CFG.IP_B src))
  else x.set EVT_IN_CFG.IP_B (Nat.xor (x.get EVT_IN_CFG.IP_B) (2 ^ (src - 4)))

/-- A swap may take effect: for a SPLIT input no window is open. -/
def Side.swapFree (x : Side) (src : Nat) : Bool := src ≥ 4 || x.split.meas.isNone

/-- THRESHOLD_APPLY (R185). -/
def execThresholdApply (sd : SideId) (src : Fin 4) (s : State) : Host.Outcome State Fault Refusal :=
  .next (s.mod sd (fun x => x.applyThr src.val))

end Sys2Proof.Machine
end

