-- ==== Sys2Proof/Machine/FrontEnd.lean ====
section
/-! DEFINITION. The channel front end (R53 to R74): sample times, the chain from converter codes to analysis samples, the
frame grid, equaliser swaps and fades, and the FRONT_END block. -/

namespace Sys2Proof.Machine

/-! ### Link parameters (R47, R50) -/

/-- L, the logical lanes of a channel. -/
def Side.jesdL (x : Side) (c : Chan) : Nat := 2 ^ x.get (JESD_CFG.L_CODE c.n)
/-- M: 1 real, 2 complex. -/
def Side.jesdM (x : Side) (c : Chan) : Nat := if x.on (JESD_CFG.CPLX c.n) then 2 else 1
/-- N', bits of a converter code. -/
def Side.jesdNp (x : Side) (c : Chan) : Nat := if x.on (JESD_CFG.NP16 c.n) then 16 else 12
/-- E, multiblocks of an extended multiblock. -/
def Side.jesdE (x : Side) (c : Chan) : Nat := x.get (JESD_CFG.E_M1 c.n) + 1
/-- R47: octets of a frame per lane. -/
def jesdFrame (m np l : Nat) : Nat := if np == 12 then 3 else if l ≥ 2 * m then 1 else 2 * m / l
/-- F of a channel. -/
def Side.jesdF (x : Side) (c : Chan) : Nat := jesdFrame (x.jesdM c) (x.jesdNp c) (x.jesdL c)
/-- S, samples of a frame per converter. -/
def Side.jesdS (x : Side) (c : Chan) : Nat := 8 * x.jesdF c * x.jesdL c / (x.jesdM c * x.jesdNp c)
/-- R50: samples of an LEMC period. -/
def Side.samplesOf (x : Side) (c : Chan) : Nat := x.jesdE c * 256 / x.jesdF c * x.jesdS c

/-- R54: converter samples of an analysis sample. -/
def Side.dTotal (x : Side) (c : Chan) : Nat :=
  2 ^ (feDecim (x.feOf c).force + (if x.on (JESD_CFG.CPLX c.n) then 0 else 1))

/-- R81: the nominal converter rate as a fraction of hertz. -/
def Side.fConv (x : Side) (c : Chan) : Nat × Nat :=
  (x.get (JESD_CFG.LANE_RATE c.n) * 10 ^ 6 * x.jesdL c * 64, 66 * x.jesdM c * x.jesdNp c)

/-- R60: an analysis rate above 10.002 GS/s. -/
def Side.tooFast (x : Side) (c : Chan) (d : Nat) : Bool :=
  let f := x.fConv c
  f.1 > 10002000000 * f.2 * 2 ^ (d + (if x.on (JESD_CFG.CPLX c.n) then 0 else 1))

/-! ### Sample times (R53, R54) -/

/-- RTA and INC at internal LEMC boundary k: kept, or extrapolated from the latest one kept. -/
def Side.lemcAt (x : Side) (c : Chan) (k : Nat) : Int × Nat :=
  let fe := x.feOf c
  match fe.lemcT.find? (fun p => p.1 == k) with
  | some p => (p.2.1, p.2.2)
  | none =>
    match fe.lemcT with
    | p :: _ =>
      let stepped := (fe.steps.filter (fun q => q.1 ≥ p.1)).foldl (fun a q => a + q.2 * 2 ^ 24) (0 : Int)
      ((p.2.1 : Int) + ((k : Int) - p.1) * x.get (JESD_LEMC_INFO.CYCLES c.n) * x.incEff + stepped, x.rt.inc)
    | [] => (x.rt.rta, x.rt.inc)

/-- R53: race time of converter sample j; the whole sum is rounded once. INC is the one in force at the LEMC boundary (assumption log
130: DEDUCED). -/
def Side.tConv (x : Side) (c : Chan) (j : Nat) : Nat :=
  let n := max 1 (x.get (JESD_LEMC_INFO.SAMPLES c.n))
  let q := j % n
  let b := x.lemcAt c (j / n)
  let a := b.1 * n + (q * x.get (JESD_LEMC_INFO.CYCLES c.n) * b.2 : Nat) - feOfs (x.feOf c).force * (n * 2 ^ 24 : Nat)
  (rhe a (n * 2 ^ 24)).toNat

/-- R196: the Starter's epoch of analysis sample m: that of its LEMC boundary, by which it is timed (R53). -/
def Side.sampleEp (x : Side) (c : Chan) (m : Nat) : Nat :=
  let k := x.dTotal c * m / max 1 (x.get (JESD_LEMC_INFO.SAMPLES c.n))
  x.starter.ep - ((x.feOf c).steps.filter (fun q => q.1 ≥ k)).length

/-- R54: race time of analysis sample m. -/
def Side.tSample (x : Side) (c : Chan) (m : Nat) : Nat := x.tConv c (x.dTotal c * m)

/-- Analysis sample m lies at or after race time t of an epoch. -/
def Side.sampleFrom (x : Side) (c : Chan) (ep t m : Nat) : Bool :=
  decide (x.sampleEp c m > ep) || (x.sampleEp c m == ep && decide (x.tSample c m ≥ t))

/-! ### The frame grid (R76) -/

/-- The step S of the grid in force. -/
def FrontEnd.gridStep (fe : FrontEnd) : Nat := 2 ^ (fe.gridP - fe.gridOf)

/-- The first frame boundary at or after analysis sample m. -/
def FrontEnd.boundaryFrom (fe : FrontEnd) (m : Nat) : Nat :=
  if m ≤ fe.m0 then fe.m0 else fe.m0 + (m - fe.m0 + fe.gridStep - 1) / fe.gridStep * fe.gridStep

/-- The least number in lo … hi that has a property monotone in it; hi if none below has. -/
def leastFrom (p : Nat → Bool) : Nat → Nat → Nat → Nat
  | 0, _, hi => hi
  | n + 1, lo, hi =>
    if lo ≥ hi then hi
    else
      let m := (lo + hi) / 2
      if p m then leastFrom p n lo m else leastFrom p n (m + 1) hi

/-- The first frame of a channel's grid whose first sample's race time is at or after t. -/
def Side.frameAfter (x : Side) (c : Chan) (t : Nat) : Nat :=
  let fe := x.feOf c
  leastFrom (fun k => x.sampleFrom c x.starter.ep t (fe.m0 + k * fe.gridStep)) 64 0 (2 ^ 48)

/-- R76: boundaries that staged commands have resolved on a channel's grid keep their race times when the grid is redrawn. -/
def Side.fixFrames (x : Side) (c : Chan) : Side :=
  let fe := x.feOf c
  { x with host := { x.host with staged := x.host.staged.map (fun st => match st.bnd with
    | .frame ch k => if ch == c then { st with bnd := .drawn c (x.tSample c (fe.m0 + k * fe.gridStep)) } else st
    | _ => st) } }

/-- The first frame at or after a boundary: that frame itself for boundary kind FRAME of the channel. -/
def Side.frameAt (x : Side) (c : Chan) (b : Bnd) (t : Nat) : Nat :=
  match b with
  | .frame ch k => if ch == c then k else x.frameAfter c t
  | _ => x.frameAfter c t

/-! ### The chain (R55 to R66) -/

/-- A filter output: sums over a line, newest input first, rounded by 2^19 and saturated (R63); its marks (R51); and how many
components saturated. -/
def firOut (coef : Nat → Int) (len : Nat) (xs : List Smp) : Smp × Nat :=
  let w := xs.take len
  let acc := w.zipIdx.foldl (fun (a : Int × Int) p => (a.1 + coef p.2 * p.1.i, a.2 + coef p.2 * p.1.q)) (0, 0)
  let i := rheP acc.1 19
  let q := rheP acc.2 19
  (⟨satS 18 i, satS 18 q, w.any (·.crc), w.any (·.lost)⟩, b2n (clipS 18 i) + b2n (clipS 18 q))

/-- An input enters a delay line. -/
def Line.push (l : Line) (cap : Nat) (s : Smp) : Line := ⟨l.n + 1, (s :: l.x).take cap⟩

/-- R61: a half-band stage takes an input; output m comes with input 2m + 71. -/
def hbStep (l : Line) (s : Smp) : Line × Option Smp × Nat :=
  let l := l.push 143 s
  if l.n ≥ 72 && l.n % 2 == 0 then
    let o := firOut (fun k => hbC ((k : Int) - 71)) 143 l.x
    (l, some o.1, o.2)
  else (l, none, 0)

/-- R60: the half-band chain. -/
def hbChain : List Line → Smp → List Line × Option Smp × Nat
  | [], s => ([], some s, 0)
  | l :: r, s =>
    match hbStep l s with
    | (l', none, n) => (l' :: r, none, n)
    | (l', some s', n) =>
      let t := hbChain r s'
      (l' :: t.1, t.2.1, n + t.2.2)

/-- R62: the final stage takes an input; output m comes with input m + G. -/
def finStep (r : Nat) (l : Line) (s : Smp) : Line × Option Smp × Nat :=
  let g := finG r
  let len := if r == 4 then 48 else if r ≥ 6 then 1 else 2 * g + 1
  let l := l.push len s
  if r ≥ 6 then (l, some s, 0)
  else if l.n > g then
    let o := firOut (fun k => if r == 4 then finC 4 k else finC r ((k : Int) - g)) len l.x
    (l, some o.1, o.2)
  else (l, none, 0)

/-- Tap t of an equaliser bank (R64). -/
def FrontEnd.tap (fe : FrontEnd) (bank t : Nat) : Word := wget fe.eqTab (64 * bank + t)

/-- R64: the output of a bank over the 64 inputs of a line. -/
def FrontEnd.eqOut (fe : FrontEnd) (bank : Nat) (xs : List Smp) : Int × Int × Nat :=
  let acc := xs.zipIdx.foldl (fun (a : Int × Int) p =>
    let e := fe.tap bank p.2
    (a.1 + smpI e * p.1.i - smpQ e * p.1.q, a.2 + smpI e * p.1.q + smpQ e * p.1.i)) (0, 0)
  let i := rheP acc.1 16
  let q := rheP acc.2 16
  (satS 18 i, satS 18 q, b2n (clipS 18 i) + b2n (clipS 18 q))

/-- R64, R66: the equaliser's output m from its line, whose newest input is m + 32. -/
def FrontEnd.eqSample (fe : FrontEnd) (en : Bool) (bank m : Nat) : Smp × Nat :=
  let xs := fe.eq.x.take 64
  if !en then (lget xs 32 ⟨0, 0, false, false⟩, 0)
  else
    let crc := xs.any (·.crc)
    let lost := xs.any (·.lost)
    match fe.fade with
    | some f =>
      if f.mb ≤ m && m < f.mb + f.k then
        let a := fe.eqOut f.old xs
        let b := fe.eqOut (1 - f.old) xs
        let i := (m - f.mb : Nat)
        let mixed := fun (u v : Int) => rhe (u * ((f.k : Int) - i) + v * i) f.k
        (⟨mixed a.1 b.1, mixed a.2.1 b.2.1, crc, lost⟩, a.2.2 + b.2.2)
      else let a := fe.eqOut bank xs; (⟨a.1, a.2.1, crc, lost⟩, a.2.2)
    | none => let a := fe.eqOut bank xs; (⟨a.1, a.2.1, crc, lost⟩, a.2.2)

/-- R55: a converter code as a signed 18-bit value, and how many times it saturated. -/
def fmtCode (cplx inv : Bool) (np : Nat) (ci cq : Nat) : Int × Int × Nat :=
  let i := sx np ci * 2 ^ (18 - np)
  if !cplx then (i, 0, 0)
  else
    let q := sx np cq * 2 ^ (18 - np)
    if inv then (i, satS 18 (-q), b2n (clipS 18 (-q))) else (i, q, 0)

/-- R58: NCO changes due at converter sample j. -/
def FrontEnd.ncoDue (fe : FrontEnd) : FrontEnd :=
  (fe.nco.filter (fun p => p.1 ≤ fe.j)).foldl
    (fun fe p => { fe with freq := p.2.1, phase := p.2.2, ncoHist := (fe.j, fe.acc, p.2.1, p.2.2) :: fe.ncoHist })
    { fe with nco := fe.nco.filter (fun p => p.1 > fe.j) }

/-- R56: the phase of converter sample j. -/
def FrontEnd.ncoPhase (fe : FrontEnd) : Nat := (fe.acc / 2 ^ 16 + fe.phase) % 2 ^ 32

/-- R59: the NCO phase of a converter sample already passed. -/
def FrontEnd.phaseAt (fe : FrontEnd) (j : Nat) : Nat :=
  match fe.ncoHist.find? (fun p => p.1 ≤ j) with
  | some (j0, a, f, ph) => ((a + (j - j0) * f) % 2 ^ 48 / 2 ^ 16 + ph) % 2 ^ 32
  | none => 0

/-- A converter code goes through formatter, mixer, half-band chain and final stage into the equaliser's line: the front end,
whether an equaliser input came, and saturations. -/
def FrontEnd.feed (fe : FrontEnd) (cplx : Bool) (np ci cq : Nat) (crc lost : Bool) : FrontEnd × Bool × Nat :=
  let fe := { fe.ncoDue with codes := (ci, cq, crc, lost) :: fe.codes }
  let f := fmtCode cplx (feSpec fe.force) np ci cq
  let y := mix f.1 f.2.1 fe.ncoPhase
  let n0 := f.2.2 + b2n (clipS 18 y.1) + b2n (clipS 18 y.2)
  let fe := { fe with j := fe.j + 1, acc := (fe.acc + fe.freq) % 2 ^ 48 }
  let h := hbChain fe.hb ⟨satS 18 y.1, satS 18 y.2, crc, lost⟩
  let fe := { fe with hb := h.1 }
  match h.2.1 with
  | none => (fe, false, n0 + h.2.2)
  | some s =>
    let g := finStep (feResp fe.force) fe.fin s
    let fe := { fe with fin := g.1 }
    match g.2.1 with
    | none => (fe, false, n0 + h.2.2 + g.2.2)
    | some s => ({ fe with eq := fe.eq.push 64 s }, true, n0 + h.2.2 + g.2.2)

/-- R58: a change whose sample j_c the mixer has already passed, as a FRAME boundary with K = 0 gives it, applies to that sample all
the same: the chain takes the codes received since j = 0 again, the change in its place. Analysis samples that have left stay as
they were. -/
def FrontEnd.ncoRedo (fe : FrontEnd) (cplx : Bool) (np jc freq phase : Nat) : FrontEnd :=
  let past := fe.ncoHist.reverse.map (fun p => (p.1, p.2.2.1, p.2.2.2))
  let later := fe.nco.filter (fun p => p.1 > fe.j)
  let start : FrontEnd := { fe with
    j := 0, acc := 0, hb := fe.hb.map (fun _ => ⟨0, []⟩), fin := ⟨0, []⟩, eq := ⟨0, []⟩, codes := [], ncoHist := []
    nco := past.filter (fun p => p.1 < jc) ++ [(jc, freq, phase)] }
  let r := fe.codes.reverse.foldl (fun fe k => (fe.feed cplx np k.1 k.2.1 k.2.2.1 k.2.2.2).1) start
  { r with nco := later }

/-! ### Swaps and fades (R65 to R67) -/

/-- FADING and PENDING follow the fade and the pending request. -/
def Side.feFlags (x : Side) (c : Chan) : Side :=
  let fe := x.feOf c
  (x.put (FE_STAT.FADING c.n) fe.fade.isSome).put (FE_STAT.PENDING c.n) fe.swapPend.isSome

/-- The active bank toggles. -/
def Side.toggleBank (x : Side) (c : Chan) : Side := x.put (FE_STAT.ACTIVE_BANK c.n) (!x.on (FE_STAT.ACTIVE_BANK c.n))

/-- R66: a fade that has reached its completion sample by analysis sample m ends, with its event. -/
def Side.fadeDone (x : Side) (c : Chan) (m : Nat) : Side :=
  let fe := x.feOf c
  match fe.fade with
  | some f =>
    if m ≥ f.mb + f.k then
      let x := ((x.setFe c { fe with fade := none }).set (FE_STAT.ACTIVE_BANK c.n) (1 - f.old)).feFlags c
      x.event 0x07 (x.tSample c (f.mb + f.k)) (c.n + 2 * (1 - f.old) : Nat) 0
    else x
  | none => x

/-- R65, R67: a pending request whose frame boundary has come by analysis sample m starts its fade, or toggles the bank while
the equaliser is off. -/
def Side.fadeStart (x : Side) (c : Chan) (m : Nat) : Side :=
  let fe := x.feOf c
  match fe.swapPend with
  | some (k, mb) =>
    if m ≥ mb && fe.fade.isNone then
      if feEqEn fe.force then
        (x.setFe c { fe with swapPend := none, fade := some ⟨mb, 2 ^ k, x.get (FE_STAT.ACTIVE_BANK c.n)⟩ }).feFlags c
      else ((x.setFe c { fe with swapPend := none }).toggleBank c).feFlags c
    else x
  | none => x

/-- R65: a swap request is accepted while the front end runs. -/
def Side.swapRequest (x : Side) (c : Chan) (k : Nat) : Side :=
  let fe := x.feOf c
  let mb := match fe.fade with
    | some f => fe.boundaryFrom (f.mb + f.k)
    | none => fe.boundaryFrom fe.m
  let x := if fe.swapPend.isSome then x.raise (FE_STAT.XF_OVERRUN c.n) else x
  (x.setFe c { fe with swapPend := some (k, mb) }).feFlags c

/-- R67: a bank is in use by an enabled equaliser. -/
def Side.bankBusy (x : Side) (c : Chan) (bank : Nat) : Bool :=
  let fe := x.feOf c
  feEqEn fe.block && (x.get (FE_STAT.ACTIVE_BANK c.n) == bank || fe.fade.isSome || fe.swapPend.isSome)

/-! ### Codes into analysis samples (R51 to R54) -/

/-- R51: a code of converter cv, sample j, was carried in part by a failing lane multiblock (JESD204C transport order). -/
def Side.codeBad (x : Side) (c : Chan) (j cv : Nat) : Bool :=
  let f := x.jesdF c
  let s := max 1 (x.jesdS c)
  let np := x.jesdNp c
  let p := (cv * s + j % s) * np
  (List.range ((p + np - 1) / 8 + 1 - p / 8)).any (fun o =>
    let oct := p / 8 + o
    (x.jesdOf c).bad.contains (oct / f, (j / s * f + oct % f) / 256))

/-- The island of a receive lane takes words (R13, R16). DESIGN CHOICE (assumption log 126): lane islands 0 to 7 are the logical
lanes; JESD_LANE_MAP is not applied. -/
def Side.laneRuns (x : Side) (c : Chan) (lane : Nat) : Bool := x.islTakes (srcOf 0 c.n lane)

/-- The receive lanes in use and the front-end island of a channel take words (R16). -/
def Side.ingestOpen (x : Side) (c : Chan) : Bool :=
  x.islTakes (srcOf 0 c.n 8) && (List.range (x.jesdL c)).all (fun i => x.laneRuns c i)

/-- R52: a converter code of extended multiblock k is substituted; a multiblock is counted once. -/
def Side.substitute (x : Side) (c : Chan) (k : Nat) : Side :=
  let g := x.jesdOf c
  let x := x.raise (FE_STAT.INGEST_LOST_SEEN c.n)
  if g.lostUpTo.all (fun u => decide (k ≥ u)) then
    (x.setJesd c { g with lostUpTo := some (k + 1) }).inc (JESD_LOST_EMB.whole c.n)
  else x

/-- R52: the extended multiblock of a code is substituted by zero codes; the side with it counted. DESIGN CHOICE (assumption
log 126): so are the codes that come while a receive lane in use or the front-end island does not take words (R16, R18). -/
def Side.codeLost (x : Side) (c : Chan) (j : Nat) : Side × Bool :=
  let k := j / max 1 (x.get (JESD_LEMC_INFO.SAMPLES c.n))
  let g := x.jesdOf c
  let x := if g.outage && g.resumeAt.any (fun r => decide (k ≥ r))
    then x.setJesd c { g with outage := false, resumeAt := none, lostFrom := none } else x
  let g := x.jesdOf c
  if (g.outage && g.lostFrom.all (fun a => decide (k ≥ a))) || !x.ingestOpen c then (x.substitute c k, true) else (x, false)

/-- A converter code reaches the front end: the side, and the analysis sample that leaves with it, if one does. -/
def Side.feCode (x : Side) (c : Chan) (code : ConvCode) : Side × List ASmp :=
  let j := (x.feOf c).j
  let (x, lost) := x.codeLost c j
  let cplx := x.on (JESD_CFG.CPLX c.n)
  let crc := !lost && (x.codeBad c j 0 || (cplx && x.codeBad c j 1))
  let r := (x.feOf c).feed cplx (x.jesdNp c) (if lost then 0 else code.i.toNat) (if lost then 0 else code.q.toNat) crc lost
  let fe := r.1
  let (x, n, out) :=
    if r.2.1 && fe.eq.n ≥ 33 then
      let m := fe.eq.n - 33
      if m < fe.m0 then
        let y := fe.eqSample (feEqEn fe.force) (x.get (FE_STAT.ACTIVE_BANK c.n)) m
        (x.setFe c fe, y.2, [])
      else
        let x := ((x.setFe c fe).fadeDone c m).fadeStart c m
        let fe := x.feOf c
        let y := fe.eqSample (feEqEn fe.force) (x.get (FE_STAT.ACTIVE_BANK c.n)) m
        let x := x.setFe c { fe with m := m + 1 }
        (x, y.2, [⟨m, smpW y.1.i y.1.q, (residue y.1.i, residue y.1.q), y.1.crc, y.1.lost, x.tSample c m⟩])
    else (x.setFe c fe, 0, [])
  let n := n + r.2.2
  let x := if n == 0 then x else (x.bump (FE_SAT_COUNT.whole c.n) n).raise (FE_STAT.SAT_SEEN c.n)
  (x, out)

/-- Codes one after the other. -/
def Side.feCodes (x : Side) (c : Chan) (codes : List ConvCode) : Side × List ASmp :=
  codes.foldl (fun (a : Side × List ASmp) code =>
    let r := a.1.feCode c code
    (r.1, a.2 ++ r.2)) (x, [])

/-- R62, R69: the origin of the frame grid of a block. -/
def feOrigin (resp dTot : Nat) : Nat := (71 * (dTot - 1) + (finGPast resp + 31) * dTot + dTot - 1) / dTot

/-- R68: the chain group delay D_conv. -/
def feDelay (resp dTot : Nat) : Nat := 71 * (dTot - 1) + (finG resp + 32) * dTot

end Sys2Proof.Machine
end

