-- ==== Sys2Proof/Machine/Transform.lean ====
section
/-! DEFINITION. The transform lanes (R76 to R104): seats and the lane budget, dispatch and release of frames, replay of a
quarantined seat, mirrored handover and return of a seat, and the TRANSFORM block. -/

namespace Sys2Proof.Machine

/-! ### Lane budget (R81) -/

/-- f_lane in MHz that a start is judged by: the lower of the PLL-F value in force and its ladder's target. -/
def Side.laneMhz (x : Side) : Nat :=
  let f := lget x.clk.f 0 0
  match x.clk.target with
  | some t => min f (lget t 0 0)
  | none => f

/-- Spread depth in units of 0.05 % (R359). -/
def spreadOf (mode depth : Nat) : Nat := if mode == 1 then depth else if mode == 2 then 5 else 0

/-- The greater spread depth of PLL-F in force and its ladder's target. -/
def Side.spread (x : Side) : Nat :=
  let u := spreadOf (lget x.clk.f 1 0) (lget x.clk.f 2 0)
  match x.clk.target with
  | some t => max u (spreadOf (lget t 1 0) (lget t 2 0))
  | none => u

/-- R358: FB for F MHz: 8 × 1.0005 × F × 10^6 × 2^24 / f_REF. -/
def fbOf (f : Nat) (ref100 : Bool) : Nat := (rhe (8004000 * f * 2 ^ 24) (if ref100 then 10 ^ 8 else 10 ^ 7)).toNat

/-- C_seat in samples per second at f MHz and u units of spread. -/
def seatRate (f u : Nat) : Nat := 4 * f * 2001 * (2000 - u)

/-- R81: seats needed for an analysis rate fc/D at an overlap, f_lane in MHz, spread in units of 0.05 %. -/
def seatsNeeded (fc : Nat × Nat) (d ofCode f u : Nat) : Nat :=
  let den := max 1 (fc.2 * d * seatRate f u)
  (fc.1 * 2 ^ ofCode + den - 1) / den

/-- NEEDED of a channel with a block's overlap at f MHz and u units of spread. -/
def Side.needed (x : Side) (c : Chan) (b : List Word) (f u : Nat) : Nat :=
  seatsNeeded (x.fConv c) (x.dTotal c) (xfOfCode b) f u

/-! ### Seats and slots (R79, R80) -/

/-- State code of a seat. -/
def Side.seatSt (x : Side) (s : Nat) : Nat := x.get (SEAT_STAT.STATE s)

/-- The SPARE seats, lowest first. -/
def Side.spares (x : Side) : List Nat := (List.range 9).filter (fun s => x.seatSt s == 0)

/-- The job of a seat. -/
def Side.jobOf (x : Side) (s : Nat) : SeatJob := lget x.seatJob s .none

/-- A seat's job replaced. -/
def Side.setJob (x : Side) (s : Nat) (j : SeatJob) : Side := { x with seatJob := lset x.seatJob s j }

/-- Seats that hold slot j of a channel, ACTIVE or REPLAY. -/
def Side.holders (x : Side) (c : Chan) (j : Nat) : List Nat :=
  (List.range 9).filter (fun s => (x.seatSt s == 1 || x.seatSt s == 2) && x.get (SEAT_STAT.CH s) == c.n && x.get (SEAT_STAT.SLOT s) == j)

/-- Slots of a channel, those of a cross-side partner after its own (R147). -/
def Side.slotsOf (x : Side) (c : Chan) : Nat :=
  x.get (XF_STAT.SEATS c.n) + (lget x.pp c.n Pp.init).xs.slots

/-- Frames after which a slot's turn comes again: its channel's own slots, or those of a cross-side partner, which follow them
(R84, R147). -/
def Side.slotTurn (x : Side) (c : Chan) (j : Nat) : Nat :=
  max 1 (if j < x.get (XF_STAT.SEATS c.n) then (x.xfOf c).seats else (lget x.pp c.n Pp.init).xs.slots)

/-- The mirroring seat of slot j, still in MIRROR, that the slot's frame k goes to alone: from the handover on, or from k_m on once
the retiring seat has tripped (R98, R99). -/
def Side.mirrorFor (x : Side) (c : Chan) (j k : Nat) : Option Nat :=
  (List.range 9).findSome? (fun s => match x.jobOf s with
    | .retire new km ch slot tripped _ _ =>
      if ch == c.n && slot == j && x.seatSt new == 3 && (if tripped then decide (k ≥ km) else decide (k ≥ km + 2 * x.slotTurn c j))
      then some new else none
    | _ => none)

/-- R99: frame k of slot j is one that the mirror of a tripped retiring seat delivers in its place. -/
def Side.fromMirror (x : Side) (c : Chan) (j k : Nat) : Bool :=
  (List.range 9).any (fun s => match x.jobOf s with
    | .retire _ km ch slot tripped _ _ =>
      ch == c.n && slot == j && tripped && decide (km ≤ k) && decide (k < km + 2 * x.slotTurn c j)
    | _ => false)

/-- The seat that serves frame k of a slot: a retiring seat serves frames up to its handover (R98), then its mirror; an ACTIVE seat
comes before one in REPLAY. -/
def Side.server (x : Side) (c : Chan) (j k : Nat) : Option Nat :=
  match x.mirrorFor c j k with
  | some s => some s
  | none =>
    let hs := x.holders c j
    (hs.filter (fun s => x.seatSt s == 1) ++ hs.filter (fun s => x.seatSt s == 2)).find? (fun s => match x.jobOf s with
      | .retire _ km _ _ _ _ _ => decide (k < km + 2 * x.slotTurn c j)
      | _ => true)

/-- A slot has no seat (R94): nobody holds it, and no mirror of a tripped seat serves it. -/
def Side.slotVacant (x : Side) (c : Chan) (j : Nat) : Bool :=
  (x.holders c j).isEmpty && !(List.range 9).any (fun s => match x.jobOf s with
    | .retire new _ ch slot true _ _ => ch == c.n && slot == j && x.seatSt new == 3
    | _ => false)

/-- R82, R94: NO_SPARE of both channels and VACANT of each follow the seats. -/
def Side.seatFlags (x : Side) : Side :=
  let none_ := x.spares.isEmpty
  let x := (x.put (XF_STAT.NO_SPARE 0) none_).put (XF_STAT.NO_SPARE 1) none_
  [Chan.c0, Chan.c1].foldl (fun x c =>
    x.put (XF_STAT.VACANT c.n) ((List.range (x.slotsOf c)).any (x.slotVacant c))) x

/-- A seat put into a state in a slot. -/
def Side.setSeat (x : Side) (s st ch slot : Nat) (lag : Bool) : Side :=
  (((x.set (SEAT_STAT.STATE s) st).set (SEAT_STAT.CH s) ch).set (SEAT_STAT.SLOT s) slot).put (SEAT_STAT.LAGGING s) lag

/-- A seat becomes SPARE. -/
def Side.freeSeat (x : Side) (s : Nat) : Side := (x.setSeat s 0 0 0 false).drop (SEAT_STAT.RESET_SINCE s)

/-- Slots lo … lo + n − 1 of a channel take the lowest SPARE seats (R80). -/
def Side.allocSeats (x : Side) (c : Chan) (lo n : Nat) : Side :=
  ((x.spares.take n).zipIdx.foldl (fun x p => x.setSeat p.1 1 c.n (lo + p.2) false) x).seatFlags

/-- Seats in slots lo and above of a channel become SPARE; seats mirroring for it too. -/
def Side.releaseSeats (x : Side) (c : Chan) (lo : Nat) : Side :=
  ((List.range 9).foldl (fun x s =>
    if (x.seatSt s == 1 || x.seatSt s == 2 || x.seatSt s == 3) && x.get (SEAT_STAT.CH s) == c.n && x.get (SEAT_STAT.SLOT s) ≥ lo
    then x.freeSeat s else x) x).seatFlags

/-! ### Dispatch and release (R84 to R86) -/

/-- Samples m … m + n − 1 out of the samples kept, if all are there. -/
def takeSamples (buf : List ASmp) (m n : Nat) : Option (List ASmp) :=
  let l := (buf.dropWhile (fun a => a.m < m)).take n
  if l.length == n && l.all (fun a => decide (a.m < m + n)) && (l.head?.elim false (fun a => a.m == m)) then some l else none

/-- R91: a frame is VOID. -/
def Side.countVoid (x : Side) (c : Chan) (n : Nat) : Side :=
  if n == 0 then x else (x.bump (XF_VOID_COUNT.whole c.n) n).raise (XF_STAT.DEGRADED c.n)

/-- R93: frames marked RECOMPUTED. -/
def Side.countReplay (x : Side) (c : Chan) (n : Nat) : Side :=
  if n == 0 then x else (x.bump (XF_REPLAY_COUNT.whole c.n) n).raise (XF_STAT.REPLAY_SEEN c.n)

/-- R88: the window and gain of a frame whose first sample is m: changes whose sample has come are in force. -/
def Xform.winAt (xf : Xform) (m : Nat) : Xform :=
  (xf.winChg.filter (fun w => w.1 ≤ m)).foldl
    (fun xf w => { xf with force := [wordN (putBits (bw xf.force 0) 28 26 w.2.1), wordN (ux 18 w.2.2)] })
    { xf with winChg := xf.winChg.filter (fun w => w.1 > m) }

/-- Frame k of slot j goes to the slot's seat (R84): the seat, none for a frame that becomes VOID; whether it is RECOMPUTED, as a frame
that had begun to enter a seat which tripped (R93) or that a mirror delivers for one (R99); and the side with the frame counted.
From the first frame that had not begun on, a seat in REPLAY is ACTIVE, with LAGGING = 1. -/
def Side.assign (x : Side) (c : Chan) (j k : Nat) (overrun : Bool) : Option Nat × Bool × Side :=
  let xf := x.xfOf c
  let mark := xf.marked.find? (fun e => e.1 == j && e.2.1 == k)
  let server := x.server c j k
  let void := overrun || server.isNone || mark.elim false (·.2.2)
  let recomp := !void && (mark.isSome || x.fromMirror c j k)
  let x := if xf.marked.isEmpty then x else x.setXf c { xf with marked := xf.marked.filter (fun e => !(e.1 == j && e.2.1 == k)) }
  let x := match server with
    | some s => if mark.isNone && x.seatSt s == 2 then x.setSeat s 1 c.n j true else x
    | none => x
  let x := if void then x.countVoid c 1 else if recomp then x.countReplay c 1 else x
  (if void then none else server, recomp, x)

/-- The frame k of a slot made of its samples. -/
def mkFrame (k slot : Nat) (seat : Option Nat) (recomp : Bool) (p win : Nat) (gain : Int) (l : List ASmp) : Frame where
  k := k
  slot := slot
  seat := seat
  p := p
  win := win
  gain := gain
  x := l.map (·.w)
  res := l.map (·.r)
  tf := l.head?.elim 0 (·.t)
  tl := l.getLast?.elim 0 (·.t)
  crc := l.any (·.crc)
  lost := l.any (·.lost)
  recomp := recomp
  void := seat.isNone
  passed := false

/-- FRAME_DISPATCH (R84): the next frame of a running transform goes to its slot's seat once its samples are there. Answers
whether a frame was dispatched. -/
def Side.dispatch (x : Side) (c : Chan) (overrun : Bool) : Side × Bool :=
  let xf := x.xfOf c
  let fe := x.feOf c
  let p := xfLog2N xf.force
  let st := 2 ^ (p - xfOfCode xf.force)
  let k := xf.kNext
  let m := fe.m0 + k * st
  if !xf.run then (x, false)
  else
    match takeSamples xf.buf m (2 ^ p) with
    | none => (x, false)
    | some l =>
      let slot := k % max 1 xf.seats
      let a := x.assign c slot k overrun
      let xf := ((a.2.2).xfOf c).winAt m
      let f := mkFrame k slot a.1 a.2.1 p (xfWin xf.force) (xfGain xf.force) l
      (a.2.2.setXf c { xf with kNext := k + 1, buf := xf.buf.filter (fun a => a.m ≥ m + st), flight := xf.flight ++ [f] }, true)

/-- R103: frames whose samples were all emitted are dispatched, one after the other. -/
def Side.dispatchAll : Nat → Chan → Side → Side
  | 0, _, x => x
  | n + 1, c, x =>
    let r := x.dispatch c false
    if r.2 then Side.dispatchAll n c r.1 else x

/-- R98 step 3: before frame k of slot j is dispatched, the slot's mirroring seat becomes ACTIVE with LAGGING = 0 if the frame is the
first, or a later one, that goes to it alone. -/
def Side.handOver (x : Side) (c : Chan) (j k : Nat) : Side :=
  (List.range 9).foldl (fun x s => match x.jobOf s with
    | .retire new km ch slot _ _ _ =>
      if ch == c.n && slot == j && k ≥ km + 2 * x.slotTurn c j && x.seatSt new == 3 then x.setSeat new 1 ch slot false else x
    | _ => x) x

/-- FRAME_DISPATCH. A CONFIGURE of the TRANSFORM block completes with the first frame its WINDOW and RAM_GAIN apply to (R88). -/
def execFrameDispatch (sd : SideId) (ch : Chan) (overrun : Bool) (s : State) : Host.Outcome State Fault Refusal :=
  let x := s.side sd
  let xf := x.xfOf ch
  let r := (x.handOver ch (xf.kNext % max 1 xf.seats) xf.kNext).dispatch ch overrun
  .next (if r.2 then
      (s.setSide sd r.1).finishCfg sd 2 (x.feSrc ch) (fun c => !(r.1.xfOf ch).winChg.any (fun w => (w.1 : Int) == c.mark))
    else s)

/-- R107 to R111: the bins of a frame, with their residue codes. -/
def Frame.bins (f : Frame) (ram : List (Nat × Word)) (ramRes : List (Nat × Nat)) : Bins :=
  let t := if f.void then (0, []) else transform f.p f.win ram f.x
  let r := if f.void then [] else (seatChecks f.p f.win ram ramRes f.x f.res).2
  ⟨f.k, f.p, f.win, f.gain, t.1, t.2, r, f.tf, f.tl, f.crc, f.lost, f.recomp, f.void⟩

/-- R86, R122: a frame's bins may leave the combiner: it is VOID, or has passed every checker. -/
def Frame.checked (f : Frame) (ram : List (Nat × Word)) (ramRes : List (Nat × Nat)) : Bool :=
  f.void || (seatChecks f.p f.win ram ramRes f.x f.res).1

/-- Frames of a channel's slots that are in seats or the combiner: its own, then those of a cross-side partner (R147). -/
def Side.flights (x : Side) (c : Chan) : List Frame := (x.xfOf c).flight ++ (lget x.pp c.n Pp.init).xs.flight

/-- A change of the frames of a channel's slots. -/
def Side.mapFlights (x : Side) (c : Chan) (g : List Frame → List Frame) : Side :=
  let x := x.setXf c { x.xfOf c with flight := g (x.xfOf c).flight }
  let pp := lget x.pp c.n Pp.init
  if pp.xs.flight.isEmpty then x
  else { x with pp := lset x.pp c.n { pp with xs := { pp.xs with flight := g pp.xs.flight } } }

/-- The frames of a seat that are still in its retained store (R85). -/
def Side.retained (x : Side) (c : Chan) (seat : Nat) : List Frame := (x.flights c).filter (fun f => f.seat == some seat && !f.passed)

/-- A seat in REPLAY for a slot that another seat serves (R99) is done with its last frame: it becomes SPARE. -/
def Side.replayOver (x : Side) (c : Chan) : Side :=
  if (List.range 9).all (fun s => x.seatSt s != 2) then x
  else
    ((List.range 9).foldl (fun x s =>
      let j := x.get (SEAT_STAT.SLOT s)
      if x.seatSt s == 2 && x.get (SEAT_STAT.CH s) == c.n && (x.retained c s).isEmpty
          && !(x.xfOf c).marked.any (fun e => e.1 == j)
          && ((x.holders c j).any (fun u => x.seatSt u == 1) || (x.mirrorFor c j (2 ^ 64)).isSome)
      then x.freeSeat s else x) x).seatFlags

/-- FRAME_RELEASE (R86): the oldest frame's bins go to the post-processor, once it has passed every checker. -/
def Side.release (x : Side) (c : Chan) : Side :=
  let xf := x.xfOf c
  let fe := x.feOf c
  match xf.flight with
  | [] => x
  | f :: r =>
    if !f.checked fe.ramWin fe.ramRes then x
    else (x.setXf c { xf with flight := r, released := xf.released ++ [f.bins fe.ramWin fe.ramRes] }).replayOver c


/-! ### Trips (R92 to R95, R99) -/

/-- The first n frames that meet a condition take a change. -/
def changeFirst (n : Nat) (p : Frame → Bool) (g : Frame → Frame) : List Frame → List Frame
  | [] => []
  | f :: r => match n with
    | 0 => f :: r
    | n + 1 => if p f then g f :: changeFirst n p g r else f :: changeFirst (n + 1) p g r

/-- The staged command that a retirement belongs to. -/
def Side.cmdOf (x : Side) (issuer : SideId) (id : Nat) : Option Staged :=
  x.host.staged.find? (fun c => c.id == id && c.issuer == issuer)

/-- A running command fails or completes, dated its effect instant unless it is refused now. -/
def State.endCmd (s : State) (sd : SideId) (issuer : SideId) (id st : Nat) (r0 r1 : Int) : State :=
  match (s.side sd).cmdOf issuer id with
  | some c =>
    let t := if st ≥ 0x2000 then (s.side sd).now else (lget c.aux 0 0).toNat
    s.complete sd c st t r0 r1
  | none => s

/-- A mirror that runs for a retiring seat which has not tripped: the retiring seat, the mirror and the command. -/
def Side.mirrorJob (x : Side) : Option (Nat × Nat × SideId × Nat) :=
  (List.range 9).findSome? (fun s => match x.jobOf s with
    | .retire new _ _ _ false i id => if x.seatSt new == 3 then some (s, new, i, id) else none
    | _ => none)

/-- The retirement that a mirroring seat serves: the retiring seat, k_m, that it has tripped, and the command. -/
def Side.jobOfMirror (x : Side) (seat : Nat) : Option (Nat × Nat × Bool × SideId × Nat) :=
  (List.range 9).findSome? (fun s => match x.jobOf s with
    | .retire new km _ _ tripped i id => if new == seat then some (s, km, tripped, i, id) else none
    | _ => none)

/-- R99: a mirror is abandoned: the retiring seat keeps its slot and the command fails. -/
def State.dropMirror (s : State) (sd : SideId) (old new : Nat) (issuer : SideId) (id st : Nat) : State :=
  (s.mod sd (fun x => (x.setJob old .none).freeSeat new)).endCmd sd issuer id st 0 0

/-- The first frame of a slot that is not dispatched. -/
def Side.nextIn (x : Side) (c : Chan) (j : Nat) : Nat :=
  let n := x.slotTurn c j
  let own := j < x.get (XF_STAT.SEATS c.n)
  let k0 := if own then (x.xfOf c).kNext else (lget x.pp c.n Pp.init).xs.nextK
  let i := if own then j else j - x.get (XF_STAT.SEATS c.n)
  k0 + (i + n - k0 % n) % n

/-- Samples of the slot's next frame are there to be loaded. -/
def Side.mayLoad (x : Side) (c : Chan) (j : Nat) : Bool :=
  let fe := x.feOf c
  if j < x.get (XF_STAT.SEATS c.n) then decide (fe.m > fe.m0 + x.nextIn c j * fe.gridStep)
  else !(lget x.pp c.n Pp.init).xs.rx.isEmpty

/-- The slot's next frame, which had begun to enter a seat that tripped, is to be RECOMPUTED, or VOID. -/
def Side.markNext (x : Side) (c : Chan) (j : Nat) (void : Bool) : Side :=
  x.setXf c { x.xfOf c with marked := (x.xfOf c).marked ++ [(j, x.nextIn c j, void)] }

/-- R92, R93: a seat replays the retained frames of a quarantined one. -/
def Side.replayOn (x : Side) (c : Chan) (old new : Nat) (only : Frame → Bool) : Side :=
  let hit := fun (f : Frame) => f.seat == some old && !f.passed && only f
  let n := ((x.flights c).filter (fun f => hit f && !f.recomp)).length
  (x.mapFlights c (fun l => l.map (fun f => if hit f then { f with seat := some new, recomp := true } else f))).countReplay c n

/-- R94: the retained frames of a quarantined seat are VOID, and so are those of its slot that had begun and wait to be replayed. -/
def Side.voidOf (x : Side) (c : Chan) (old j : Nat) (only : Frame → Bool) : Side :=
  let hit := fun (f : Frame) => f.seat == some old && !f.passed && only f
  let n := ((x.flights c).filter hit).length
  let x := (x.mapFlights c (fun l => l.map (fun f => if hit f then { f with seat := none, void := true } else f))).countVoid c n
  x.setXf c { x.xfOf c with marked := (x.xfOf c).marked.map (fun e => if e.1 == j then (e.1, e.2.1, true) else e) }

/-- A seat is quarantined. -/
def Side.quarSeat (x : Side) (seat : Nat) : Side :=
  ((x.set (SEAT_STAT.STATE seat) 4).drop (SEAT_STAT.LAGGING seat)).drop (SEAT_STAT.RESET_SINCE seat)

/-- R99: the retiring seat of a mirror trips: the mirror delivers the frames from k_m on; earlier ones of the slot are replayed by
R93 or VOID by R94. Answers the class and syndrome of the report. -/
def Side.tripRetiring (x : Side) (c : Chan) (seat new km : Nat) (loading : Bool) : Side × Nat × Nat :=
  let j := x.get (SEAT_STAT.SLOT seat)
  let syn := (x.retained c seat).head?.elim 0 (·.k)
  let early := loading && x.mayLoad c j && decide (x.nextIn c j < km)
  let y := (x.quarSeat seat).replayOn c seat new (fun f => f.k ≥ km)
  if (y.retained c seat).isEmpty && !early then (y.seatFlags, 0, syn)
  else
    match y.spares with
    | sp :: _ =>
      let y := (y.setSeat sp 2 c.n j false).replayOn c seat sp (fun _ => true)
      ((if early then y.markNext c j false else y).seatFlags, 0, syn)
    | [] =>
      let first := (y.retained c seat).head?.elim (y.nextIn c j) (·.k)
      let y := (y.voidOf c seat j (fun _ => true)).raise (XF_STAT.DEGRADED c.n)
      ((if early then y.markNext c j true else y).seatFlags, 2, first)

/-- R92 to R95: a seat that serves a slot trips, and a SPARE seat, or a mirror that is abandoned for it, replays its frames, or they are
VOID. Answers the class and syndrome of the report. -/
def State.tripServing (s : State) (sd : SideId) (seat : Nat) (loading : Bool) : State × Nat × Nat :=
  let x := s.side sd
  let c := chanOf (x.get (SEAT_STAT.CH seat))
  let j := x.get (SEAT_STAT.SLOT seat)
  let syn := (x.retained c seat).head?.elim 0 (·.k)
  let load := loading && x.mayLoad c j
  let (s, spare) := match x.spares, x.mirrorJob with
    | n :: _, _ => (s, some n)
    | [], some (old, new, i, id) => (s.dropMirror sd old new i id stNoSpare, some new)
    | [], none => (s, none)
  let x := (s.side sd).quarSeat seat
  match spare with
  | some n =>
    let y := (x.setSeat n 2 c.n j false).replayOn c seat n (fun _ => true)
    (s.setSide sd (if load then y.markNext c j false else y).seatFlags, 0, syn)
  | none =>
    let first := (x.retained c seat).head?.elim (x.nextIn c j) (·.k)
    let y := (x.voidOf c seat j (fun _ => true)).raise (XF_STAT.DEGRADED c.n)
    (s.setSide sd (if load then y.markNext c j true else y).seatFlags, 2, first)

/-- The local response to a trip in a seat that serves a slot (R92 to R95, R99); `loading` says that the slot's next frame had begun
to enter the seat. Answers the class and syndrome of its report. -/
def State.tripActive (s : State) (sd : SideId) (seat : Nat) (loading : Bool) : State × Nat × Nat :=
  let x := s.side sd
  let c := chanOf (x.get (SEAT_STAT.CH seat))
  match x.jobOf seat with
  | .retire new km ch sl false i id =>
    let r := if x.seatSt new == 3 || x.seatSt new == 1 then
        let r := x.tripRetiring c seat new km loading
        (s.setSide sd r.1, r.2)
      else s.tripServing sd seat loading
    (r.1.mod sd (fun x => (x.setJob seat (.retire new km ch sl true i id)).seatFlags), r.2)
  | _ => s.tripServing sd seat loading

/-- R92 to R95, R99: a seat trips, or a wire of it breaks (R411), `passed` results of it having passed its final checker. Answers the
class and syndrome of the trip's own report, none where the seat's state makes it no matter. -/
def State.seatTrip (s : State) (sd : SideId) (seat passed : Nat) (loading : Bool) : State × Option (Nat × Nat) :=
  let x := s.side sd
  let c := chanOf (x.get (SEAT_STAT.CH seat))
  let serve := fun (s : State) =>
    let s := s.mod sd (fun x => x.mapFlights c (changeFirst passed (fun f => f.seat == some seat && !f.passed) (fun f => { f with passed := true })))
    let r := s.tripActive sd seat loading
    (r.1, some (r.2.1, r.2.2))
  match x.seatSt seat with
  | 0 => (s.setSide sd (x.quarSeat seat).seatFlags, some (0, 0))
  | 3 =>
    match x.jobOfMirror seat with
    | some (old, km, false, i, id) =>
      let s := s.dropMirror sd old seat i id stSeatFailed
      (s.mod sd (fun x => (x.quarSeat seat).seatFlags), some (0, km))
    | some (old, _, true, i, id) => serve ((s.mod sd (fun x => x.setJob old .none)).endCmd sd i id stSeatFailed 0 0)
    | none => (s.setSide sd (x.quarSeat seat).seatFlags, some (0, 0))
  | 1 | 2 => serve s
  | _ => (s, none)

/-- A trip of a seat is counted and reported with its class. -/
def State.tripSeat (s : State) (sd : SideId) (t : SeatTrip) : State :=
  let r := s.seatTrip sd t.seat.val t.passed t.loading
  match r.2 with
  | some (cls, syn) => r.1.mod sd (fun x =>
    let i := x.takeInj (srcOf 1 t.seat.val 0)
    (i.2.inc (SEAT_STAT.TRIPS t.seat.val)).report cls (srcOf 1 t.seat.val 0) (syn % 2 ^ 36) i.1)
  | none => r.1

/-- R95: the order in which seats that trip together are served: seats that hold no slot's frames first, then by the oldest retained
frame. -/
def Side.tripKey (x : Side) (t : SeatTrip) : Nat :=
  let seat := t.seat.val
  let c := chanOf (x.get (SEAT_STAT.CH seat))
  if x.seatSt seat == 1 || x.seatSt seat == 2 then
    1 + (((x.retained c seat).drop t.passed).head?.elim (x.nextIn c (x.get (SEAT_STAT.SLOT seat))) (·.k))
  else 0

/-- CHECKER_TRIP (R92); `also` is a second seat that trips before the first is served (R95). -/
def execCheckerTrip (sd : SideId) (t : SeatTrip) (also : Option SeatTrip) (s : State) : Host.Outcome State Fault Refusal :=
  .next (match also with
    | none => s.tripSeat sd t
    | some u => if (s.side sd).tripKey u < (s.side sd).tripKey t then (s.tripSeat sd u).tripSeat sd t else (s.tripSeat sd t).tripSeat sd u)

/-! ### LANE_RETIRE and LANE_RETURN (R97 to R100) -/

/-- The seat a source ID of a side names. -/
def seatOfSrc (src : Nat) : Option Nat :=
  if bitsOf src 14 12 == 1 && bitsOf src 11 6 ≤ 8 && bitsOf src 5 0 == 0 then some (bitsOf src 11 6) else none

/-- R97, R98: LANE_RETIRE takes effect. k_m is the slot's first frame whose first sample enters the seat after the boundary: the first one
not dispatched, or, if its samples have begun to leave the front end, that one or the next as a free value says, for when a seat begins
to load a frame the spec does not state. DESIGN CHOICE (assumption log 124): a seat whose retirement still runs is refused with
SEAT_STATE. -/
def effLaneRetire (sd : SideId) (st : Staged) (t : Nat) (s : State) : State :=
  let x := s.side sd
  match seatOfSrc (st.e.op4 % 65536) with
  | none => s.refuse sd st stBadSource
  | some seat =>
    if x.seatSt seat != 1 || (match x.jobOf seat with | .none => false | _ => true) then s.refuse sd st stSeatState
    else
      match x.spares with
      | [] => s.refuse sd st stNoSpare
      | new :: _ =>
        let c := chanOf (x.get (SEAT_STAT.CH seat))
        let slot := x.get (SEAT_STAT.SLOT seat)
        let n := x.slotTurn c slot
        let k := x.nextIn c slot
        let (km, s) := if x.mayLoad c slot then
            let v := s.takeFree
            (if bitAt v.1.toNat 0 then k + n else k, v.2)
          else (k, s)
        let x := (x.setSeat new 3 c.n slot false).setJob seat (.retire new km c.n slot false st.issuer st.id)
        (s.setSide sd x.seatFlags).cfgWaits sd st t (km + 2 * n)

/-- LANE_RETIRE_DONE (R98 step 4, R99): the retiring seat has finished its frames. -/
def execLaneRetireDone (sd : SideId) (seat : Fin 9) (mismatches : BitVec 8) (s : State) : Host.Outcome State Fault Refusal :=
  let x := s.side sd
  .next (match x.jobOf seat.val with
    | .retire new km ch slot tripped i id =>
      let c := chanOf ch
      let n := x.slotTurn c slot
      if x.nextIn c slot < km + 2 * n then s
      else
        let x := x.mapFlights c (fun l => l.map (fun f => if f.seat == some seat.val then { f with passed := true } else f))
        let x := if x.seatSt new == 3 then x.setSeat new 1 ch slot false else x
        let x := if tripped then x else ((x.set (SEAT_STAT.STATE seat.val) 5).drop (SEAT_STAT.LAGGING seat.val)).drop (SEAT_STAT.RESET_SINCE seat.val)
        let x := (x.setJob seat.val .none).seatFlags
        let mm := if tripped then 0 else mismatches.toNat
        (s.setSide sd x).endCmd sd i id (if mm == 0 then stOK else stMirrorMismatch) (new + mm * 256 : Nat) (km + 2 * n : Nat)
    | _ => s)

/-- R100: LANE_RETURN takes effect: 64 test frames run. -/
def effLaneReturn (sd : SideId) (st : Staged) (t : Nat) (s : State) : State :=
  let x := s.side sd
  match seatOfSrc (st.e.op4 % 65536) with
  | none => s.refuse sd st stBadSource
  | some seat =>
    if !(x.seatSt seat == 4 || x.seatSt seat == 5) || !x.on (SEAT_STAT.RESET_SINCE seat)
        || (match x.jobOf seat with | .none => false | _ => true) then s.refuse sd st stSeatState
    else (s.setSide sd (x.setJob seat (.return st.id))).cfgWaits sd st t 0

/-- R94: the vacant slot that a returning seat fills: channel 0 first, lowest slot first. -/
def Side.vacantSlot (x : Side) : Option (Nat × Nat) :=
  [Chan.c0, Chan.c1].findSome? (fun c =>
    ((List.range (x.slotsOf c)).find? (x.slotVacant c)).map (fun j => (c.n, j)))

/-- A healthy seat becomes SPARE, or fills a vacant slot at once (R94). -/
def Side.seatBack (x : Side) (seat : Nat) : Side :=
  let x := x.freeSeat seat
  (match x.vacantSlot with
    | some (c, j) => x.setSeat seat 1 c j false
    | none => x).seatFlags

/-- LANE_RETURN_DONE (R100). -/
def execLaneReturnDone (sd : SideId) (seat : Fin 9) (trip : Option (Fin 64)) (s : State) : Host.Outcome State Fault Refusal :=
  let x := s.side sd
  .next (match x.jobOf seat.val with
    | .return id =>
      match x.runningCmd 0x41 (fun c => c.id == id && seatOfSrc (c.e.op4 % 65536) == some seat.val) with
      | none => s
      | some c =>
        let x := x.setJob seat.val .none
        match trip with
        | none => (s.setSide sd (x.seatBack seat.val)).complete sd c stOK (lget c.aux 0 0).toNat 0 0
        | some n =>
          let i := x.takeInj (srcOf 1 seat.val 0)
          let x := ((i.2.quarSeat seat.val).inc (SEAT_STAT.TRIPS seat.val)).report 0 (srcOf 1 seat.val 0) n.val i.1
          (s.setSide sd x).refuse sd c stSeatFailed
    | _ => s)

/-! ### The TRANSFORM block (R103) -/

/-- Retirements of seats in slots lo and above of a channel whose frames end cannot end themselves, and fail. -/
def State.endRetires (s : State) (sd : SideId) (c : Chan) (lo : Nat) : State :=
  (List.range 9).foldl (fun s seat => match (s.side sd).jobOf seat with
    | .retire _ _ ch slot _ i id =>
      if ch == c.n && slot ≥ lo then (s.mod sd (fun x => x.setJob seat .none)).endCmd sd i id stSeatState 0 0 else s
    | _ => s) s

/-- R103: RUN 1 → 0: unreleased frames are discarded, the channel's seats become SPARE. -/
def State.stopXf (s : State) (sd : SideId) (c : Chan) : State :=
  (s.endRetires sd c 0).mod sd (fun x =>
    let xf := x.xfOf c
    let x := x.setXf c { xf with run := false, seats := 0, winChg := [], buf := [], flight := [], released := [], marked := [] }
    ((x.drop (XF_STAT.RUNNING c.n)).set (XF_STAT.SEATS c.n) 0).releaseSeats c 0)

/-- R76: the first grid frame whose first sample has not left the front end. -/
def FrontEnd.nextFrame (fe : FrontEnd) : Nat := (fe.boundaryFrom fe.m - fe.m0) / fe.gridStep

/-- R103: CONFIGURE of the TRANSFORM block takes effect at instant t. -/
def effTransform (sd : SideId) (c : Chan) (st : Staged) (t : Nat) (s : State) : State :=
  let x := s.side sd
  let xf := x.xfOf c
  let new := blkKeep xfMasks st.words
  let was := xf.run
  let bad := xfLog2N new < 6 || xfSeatsReq new > 9
  let ok := fun (x : Side) => (s.setSide sd x).complete sd st stOK t 0 0
  if !was && xfRun new then
    if !x.on (FE_STAT.RUNNING c.n) then s.refuse sd st stFeStopped
    else if bad then s.refuse sd st stBadParam
    else
      let need := x.needed c new x.laneMhz x.spread
      let seats := if xfSeatsReq new == 0 then need else xfSeatsReq new
      if xfSeatsReq new != 0 && xfSeatsReq new < need then s.refuse sd st stLaneBudget
      else if x.spares.length < seats then s.refuse sd st stSeatBudget
      else
        let x := x.fixFrames c
        let fe := { x.feOf c with gridP := xfLog2N new, gridOf := xfOfCode new }
        let x := x.setFe c fe
        let x := x.setXf c { xf with block := new, force := new, run := true, seats := seats, kNext := fe.nextFrame,
                                     winChg := [], buf := [], flight := [], released := [], marked := [] }
        let x := ((x.raise (XF_STAT.RUNNING c.n)).set (XF_STAT.SEATS c.n) seats).set (XF_STAT.NEEDED c.n) need
        ok (x.allocSeats c 0 seats)
  else if was && !xfRun new then
    if x.chanActive c false then s.refuse sd st stChannelActive
    else if bad then s.refuse sd st stBadParam
    else
      let s := (s.stopXf sd c).mod sd (fun x => x.setXf c { x.xfOf c with block := new })
      let s := s.finishCfg sd 2 (x.feSrc c) (fun _ => true)
      s.complete sd st stOK t 0 0
  else if was then
    if xfLog2N new != xfLog2N xf.block || xfOfCode new != xfOfCode xf.block || xfSeatsReq new != xfSeatsReq xf.block
    then s.refuse sd st stXfRunning
    else if xfWin new == xfWin xf.block && xfGain new == xfGain xf.block then ok x
    else
      let fe := x.feOf c
      let m := if x.on (FE_STAT.RUNNING c.n) then fe.m0 + max xf.kNext (x.frameAt c st.bnd t) * fe.gridStep else 0
      let x := x.setXf c { xf with block := new, winChg := xf.winChg ++ [(m, xfWin new, xfGain new)] }
      (s.setSide sd x).cfgWaits sd st t m
  else if bad then s.refuse sd st stBadParam
  else ok (x.setXf c { xf with block := new })

/-- R89: the RAM window of a channel is in use. -/
def Side.winBusy (x : Side) (c : Chan) : Bool :=
  let xf := x.xfOf c
  xf.run && (xfWin xf.force == 7 || xfWin xf.block == 7 || xf.winChg.any (fun w => w.2.1 == 7) || xf.flight.any (fun f => f.win == 7))

end Sys2Proof.Machine
end

