-- ==== Sys2Proof/Machine/FrontCfg.lean ====
section
/-! DEFINITION. Starting, stopping and changing the front end (R58, R65, R72), and the receivers' use of it. -/

namespace Sys2Proof.Machine

/-! ### Start, stop and changes (R72) -/

/-- R72: the limits of DECIM, RESPONSE and FADE_K. -/
def Side.feBad (x : Side) (c : Chan) (b : List Word) : Bool :=
  feDecim b > 16 || x.tooFast c (feDecim b) || feResp b == 7 || feFadeK b < 6 || feFadeK b > 16

/-- FE_START: the front end starts at an internal LEMC boundary, which becomes j = 0 (R53, R56, R69, R76), with the block of the start;
NCO changes accepted since wait for their samples (R58). -/
def Side.startFe (x : Side) (c : Chan) : Side :=
  let fe := x.feOf c
  let b := fe.force
  let xf := x.xfOf c
  let d := 2 ^ (feDecim b + (if x.on (JESD_CFG.CPLX c.n) then 0 else 1))
  let m0 := feOrigin (feResp b) d
  let stages := feDecim b + (if x.on (JESD_CFG.CPLX c.n) then 0 else 1)
  let x := x.setFe c { fe with
    starting := false, j := 0, acc := 0, freq := feFreq b, phase := fePhase b
    ncoHist := [(0, 0, feFreq b, fePhase b)], codes := []
    hb := List.replicate stages ⟨0, []⟩, fin := ⟨0, []⟩, eq := ⟨0, []⟩
    m := m0, m0 := m0, startEdge := x.rt.edges, lemcT := [(0, x.rt.rta, x.rt.inc)], steps := []
    gridP := xfLog2N xf.block, gridOf := xfOfCode xf.block, fade := none, swapPend := none }
  let g := x.jesdOf c
  let down := !x.on (JESD_STAT.LINK_UP c.n)
  let x := x.setJesd c { g with
    mbs := List.replicate 8 0, bad := [], outage := down, resumeAt := none
    lostFrom := if down then some 0 else none, lostUpTo := none }
  let x := x.setAcq c { x.acqOf c with lastPost := none }
  let x := x.setXf c { xf with kNext := 0, buf := [], marked := [], winChg := xf.winChg.map (fun w => (0, w.2)) }
  ((x.raise (FE_STAT.RUNNING c.n)).feFlags c).setPair (FE_ORIGIN_LO.whole c.n).idx (x.tSample c m0)

/-- A DEVCLK edge is a boundary of a channel's internal LEMC. -/
def Side.atLemc (x : Side) (c : Chan) : Bool :=
  match (x.jesdOf c).lemc with
  | some e =>
    let cy := x.get (JESD_LEMC_INFO.CYCLES c.n)
    cy != 0 && ((x.rt.edges : Int) - e) % cy == 0
  | none => false

/-- The CONFIGURE that started the front end completes, dated the LEMC boundary (R273). -/
def State.startedFe (s : State) (sd : SideId) (c : Chan) (t : Nat) : State :=
  let x := s.side sd
  (x.host.staged.filter (fun d => d.op == 2 && d.running && d.blkType == 1 && d.target == x.feSrc c && d.mark == -1)).foldl
    (fun s d => s.complete sd d stOK t 0 0) s

/-- FE_START: at an internal LEMC boundary. -/
def execFeStart (sd : SideId) (ch : Chan) (s : State) : Host.Outcome State Fault Refusal :=
  let x := s.side sd
  .next (if (x.feOf ch).starting && x.atLemc ch then (s.setSide sd (x.startFe ch)).startedFe sd ch x.now else s)

/-- NCO_CHANGE (R58): a change whose converter sample is the next one takes effect. -/
def State.ncoChange (s : State) (sd : SideId) (ch : Chan) : State :=
  let x := s.side sd
  let fe := x.feOf ch
  if fe.nco.any (fun p => p.1 ≤ fe.j) then
    (s.setSide sd (x.setFe ch fe.ncoDue)).finishCfg sd 1 (x.feSrc ch) (fun c => c.mark ≥ 0 && c.mark ≤ fe.j)
  else s

/-- NCO_CHANGE. -/
def execNcoChange (sd : SideId) (ch : Chan) (s : State) : Host.Outcome State Fault Refusal := .next (s.ncoChange sd ch)

/-- FADE_START (R65). -/
def execFadeStart (sd : SideId) (ch : Chan) (s : State) : Host.Outcome State Fault Refusal :=
  .next (s.mod sd (fun x => if x.on (FE_STAT.RUNNING ch.n) then x.fadeStart ch (x.feOf ch).m else x))

/-- EQ_FADE_DONE (R66). -/
def execEqFadeDone (sd : SideId) (ch : Chan) (s : State) : Host.Outcome State Fault Refusal :=
  .next (s.mod sd (fun x => if x.on (FE_STAT.RUNNING ch.n) then x.fadeDone ch (x.feOf ch).m else x))

/-- R72: RUN 1 → 0: a running fade ends, a pending swap toggles, the filter state is discarded. The transform has every frame
whose samples were all emitted (R103). -/
def Side.stopFe (x : Side) (c : Chan) : Side :=
  let x := (Side.dispatchAll (x.xfOf c).buf.length c x).fixFrames c
  let fe := x.feOf c
  let x := match fe.fade with
    | some f => x.set (FE_STAT.ACTIVE_BANK c.n) (1 - f.old)
    | none => x
  let x := if fe.swapPend.isSome then x.toggleBank c else x
  let x := x.setFe c { fe with starting := false, nco := [], hb := [], fin := ⟨0, []⟩, eq := ⟨0, []⟩, codes := [], fade := none, swapPend := none }
  let x := x.setJesd c { x.jesdOf c with bad := [], outage := false, resumeAt := none, lostFrom := none, lostUpTo := none }
  let x := (x.drop (FE_STAT.RUNNING c.n)).feFlags c
  if x.on (XF_STAT.RUNNING c.n) then x.raise (XF_STAT.FE_LOST c.n) else x

/-- A cross-spectrum of a side takes the samples of a channel of the other side (R147). -/
def Side.takesFrom (y : Side) (c : Chan) : Bool :=
  [Chan.c0, Chan.c1].any (fun o => y.on (PP_STAT.XS_RUNNING o.n) && ppXsRemote (lget y.pp o.n Pp.init).block
    && chanOf (ppXsRch (lget y.pp o.n Pp.init).block) == c)

/-- R58: the converter sample D_total·m_b of a change with boundary `b` and instant t. Before an accepted start the first frame boundary of
the run is its origin. -/
def Side.ncoSample (x : Side) (c : Chan) (b : Bnd) (t : Nat) (running : Bool) : Nat :=
  let fe := x.feOf c
  if running then x.dTotal c * (fe.m0 + x.frameAt c b t * fe.gridStep)
  else x.dTotal c * feOrigin (feResp fe.force) (x.dTotal c)

/-- R72: CONFIGURE of the FRONT_END block takes effect at instant t. DESIGN CHOICE (assumption log 124): EQ_SWAP = 1 with RUN 1 → 0
toggles ACTIVE_BANK once more after the stop, as a swap request with the front end stopped does (R67), and the block's other fields
are stored; a block with RUN = 1 that comes between an accepted start and its LEMC boundary is judged as RUN staying 1. -/
def effFrontEnd (sd : SideId) (c : Chan) (st : Staged) (t : Nat) (s : State) : State :=
  let x := s.side sd
  let fe := x.feOf c
  let new := st.words
  let kept := blkKeep feMasks new
  let was := feRun fe.block
  let running := x.on (FE_STAT.RUNNING c.n)
  let stored := fun (x : Side) => x.setFe c { x.feOf c with block := kept }
  if !was && feRun new then
    if !x.on (JESD_STAT.LINK_UP c.n) then s.refuse sd st stLinkDown
    else if x.feBad c new then s.refuse sd st stBadParam
    else
      let x := x.setFe c { fe with block := kept, force := kept, starting := true, nco := [] }
      let x := if feSwap new then x.toggleBank c else x
      (s.setSide sd x).cfgWaits sd st t (-1)
  else if was && !feRun new then
    if x.chanActive c true || (s.side sd.other).takesFrom c then s.refuse sd st stChannelActive
    else if x.feBad c new then s.refuse sd st stBadParam
    else
      let x := stored (x.stopFe c)
      let x := if feSwap new then x.toggleBank c else x
      let s := (s.setSide sd x).finishCfg sd 1 (x.feSrc c) (fun _ => true)
      s.complete sd st stOK t 0 0
  else if was then
    if feSpec new != feSpec fe.block || feDecim new != feDecim fe.block || feResp new != feResp fe.block
        || feEqEn new != feEqEn fe.block || feOfs new != feOfs fe.block then s.refuse sd st stFeRunning
    else if feFadeK new < 6 || feFadeK new > 16 then s.refuse sd st stBadParam
    else
      let x := stored x
      let x := if !feSwap new then x else if running then x.swapRequest c (feFadeK new) else x.toggleBank c
      if feFreq new != feFreq fe.block || fePhase new != fePhase fe.block then
        let jc := x.ncoSample c st.bnd t running
        let fe' := x.feOf c
        let x := x.setFe c (if jc < fe'.j then fe'.ncoRedo (x.on (JESD_CFG.CPLX c.n)) (x.jesdNp c) jc (feFreq new) (fePhase new)
          else { fe' with nco := fe'.nco ++ [(jc, feFreq new, fePhase new)] })
        ((s.setSide sd x).cfgWaits sd st t jc).ncoChange sd c
      else (s.setSide sd x).complete sd st stOK t 0 0
  else
    if x.feBad c new then s.refuse sd st stBadParam
    else
      let x := stored x
      let x := if feSwap new then x.toggleBank c else x
      (s.setSide sd x).complete sd st stOK t 0 0

end Sys2Proof.Machine
end

