-- ==== Sys2Proof/Machine/Jesd.lean ====
section
/-! DEFINITION. The JESD204C receivers (R46 to R52): configuration and its lock, bring-up, multiblock checks, loss and
resumption of a link. -/

namespace Sys2Proof.Machine

/-- The logical lanes in use. -/
def Side.lanes (x : Side) (c : Chan) : List Nat := List.range (x.jesdL c)

/-- R48: the configuration in the registers is one the receiver accepts. DESIGN CHOICE (assumption log 125): only the logical lanes in
use (L_CODE) are held to distinct physical lanes, and the converter-rate columns of R47's table are no part of "a row of the
table": LANE_RATE alone is held to its limits. -/
def Side.jesdOk (x : Side) (c : Chan) : Bool :=
  let e := x.jesdE c
  let r := x.get (JESD_CFG.LANE_RATE c.n)
  let m := x.get (JESD_LANE_MAP.MAP c.n)
  let phys := (x.lanes c).map (fun i => m / 8 ^ i % 8)
  (x.jesdNp c == 16 || e == 3) && e * 256 % x.jesdF c == 0 && 6000 ≤ r && r ≤ 32500 && (dedup phys).length == phys.length

/-- The step a receiver begins bring-up with; a running front end keeps its internal LEMC (R52). -/
def Side.jesdStart (x : Side) (c : Chan) : Side :=
  let g := x.jesdOf c
  let x := ((x.set (JESD_STAT.SH_LOCK c.n) 0).set (JESD_STAT.EMB_LOCK c.n) 0).drop (JESD_STAT.LINK_UP c.n)
  if x.on (FE_STAT.RUNNING c.n) then x.setJesd c { g with step := 1 }
  else (x.drop (JESD_STAT.ALIGNED c.n)).setJesd c { g with step := 1, lemc := none }

/-- R52: zero codes are substituted from the first extended multiblock not fully received on. -/
def Side.beginOutage (x : Side) (c : Chan) : Side :=
  if !x.on (FE_STAT.RUNNING c.n) then x
  else
    let g := x.jesdOf c
    let k := ((x.lanes c).map (fun i => lget g.mbs i 0)).foldl min (lget g.mbs 0 0) / x.jesdE c
    if g.outage then x.setJesd c { g with resumeAt := none }
    else x.setJesd c { g with outage := true, resumeAt := none, lostFrom := some k }

/-- R52: a running link goes down: LINK_LOST and its event. -/
def Side.linkDown (x : Side) (c : Chan) : Side :=
  let x := (x.drop (JESD_STAT.LINK_UP c.n)).raise (JESD_STAT.LINK_LOST c.n)
  (x.event 0x08 x.now c.n 0).beginOutage c

/-- R48: a write of JESD_CFG. The lock is judged on LINK_EN before the write. DESIGN CHOICE (assumption log 125): CFG_ERR is cleared by the
next enable that is accepted, and by clearing LINK_EN; the spec names no clearing. -/
def Side.wJesdCfg (x : Side) (c : Chan) (v : Word) : Side :=
  let r := (JESD_CFG.whole c.n).idx
  let old := x.reg r
  let v := v &&& wordN (bitMask 35 5)
  let en := bitAt v.toNat 35
  if x.on (JESD_CFG.LINK_EN c.n) then
    if en then (if v == old then x else x.raise (JESD_STAT.CFG_LOCKED c.n))
    else
      let x := x.setReg r v
      let x := if x.on (FE_STAT.RUNNING c.n) then x.linkDown c else x.drop (JESD_STAT.LINK_UP c.n)
      let x := ((x.set (JESD_STAT.SH_LOCK c.n) 0).set (JESD_STAT.EMB_LOCK c.n) 0).drop (JESD_STAT.CFG_ERR c.n)
      x.setJesd c { x.jesdOf c with step := 0 }
  else
    let x := x.setReg r v
    if !en then x
    else if x.jesdOk c then (x.drop (JESD_STAT.CFG_ERR c.n)).jesdStart c
    else (x.raise (JESD_STAT.CFG_ERR c.n)).setJesd c { x.jesdOf c with step := 0 }

/-- R48: a write of JESD_LANE_MAP, ignored while the link is enabled. -/
def Side.wLaneMap (x : Side) (c : Chan) (v : Word) : Side :=
  if x.on (JESD_CFG.LINK_EN c.n) then x.raise (JESD_STAT.CFG_LOCKED c.n)
  else x.setReg (JESD_LANE_MAP.whole c.n).idx (v &&& wordN (bitMask 31 0))

/-- Every lane in use has its bit set in a field. -/
def Side.allLanes (x : Side) (c : Chan) (f : Fld) : Bool := (x.lanes c).all (fun i => bitAt (x.get f) i)

/-- R49: the step follows the lanes' locks: headers, then extended multiblocks, then the measurement, or on a running internal
LEMC the release. -/
def Side.jesdAdvance (x : Side) (c : Chan) : Side :=
  let g := x.jesdOf c
  let g := if g.step == 1 && x.allLanes c (JESD_STAT.SH_LOCK c.n) then { g with step := 2 } else g
  let g := if g.step == 2 && x.allLanes c (JESD_STAT.EMB_LOCK c.n)
    then { g with step := if g.lemc.isSome then 5 else 3 } else g
  x.setJesd c g

/-- SH_LOCK (R49 step 1). -/
def execShLock (sd : SideId) (ch : Chan) (lane : Fin 8) (s : State) : Host.Outcome State Fault Refusal :=
  .next (s.mod sd (fun x =>
    if x.laneRuns ch lane.val && (x.jesdOf ch).step == 1 && lane.val < x.jesdL ch then (x.orBit (JESD_STAT.SH_LOCK ch.n) lane.val).jesdAdvance ch else x))

/-- EMB_LOCK (R49 step 2). -/
def execEmbLock (sd : SideId) (ch : Chan) (lane : Fin 8) (s : State) : Host.Outcome State Fault Refusal :=
  .next (s.mod sd (fun x =>
    if x.laneRuns ch lane.val && ((x.jesdOf ch).step == 1 || (x.jesdOf ch).step == 2) && bitAt (x.get (JESD_STAT.SH_LOCK ch.n)) lane.val
    then (x.orBit (JESD_STAT.EMB_LOCK ch.n) lane.val).jesdAdvance ch else x))

/-- LEMC_MEASURE (R49 step 3, R50): the DEVCLK cycles of 16 extended multiblocks. -/
def Side.lemcMeasure (x : Side) (c : Chan) (counts : List Nat) : Side :=
  let n := lget counts 0 0
  if (x.jesdOf c).step != 3 || counts.length != 16 then x
  else if n != 0 && counts.all (· == n) then
    let x := (x.set (JESD_LEMC_INFO.CYCLES c.n) n).set (JESD_LEMC_INFO.SAMPLES c.n) (x.samplesOf c)
    x.setJesd c { x.jesdOf c with step := 4 }
  else (x.raise (JESD_STAT.CFG_ERR c.n)).setJesd c { x.jesdOf c with step := 0 }

/-- LEMC_MEASURE. -/
def execLemcMeasure (sd : SideId) (ch : Chan) (counts : List Nat) (s : State) : Host.Outcome State Fault Refusal :=
  .next (s.mod sd (fun x => x.lemcMeasure ch counts))

/-- R49: a SYSREF edge aligns a receiver that waits for it; in mode 1 a later edge is checked. -/
def Side.sysref (x : Side) (c : Chan) : Side :=
  let g := x.jesdOf c
  if g.step == 4 then (x.raise (JESD_STAT.ALIGNED c.n)).setJesd c { g with step := 5, lemc := some x.rt.edges }
  else if g.lemc.isSome && x.on (JESD_CFG.LINK_EN c.n) && x.get (JESD_CFG.SYSREF_MODE c.n) == 1 && !x.atLemc c
  then x.raise (JESD_STAT.SYSREF_MISALIGN c.n) else x

/-- SYSREF_EDGE: the edge of the side reaches both channels. -/
def execSysrefEdge (sd : SideId) (s : State) : Host.Outcome State Fault Refusal :=
  .next (s.mod sd (fun x => (x.sysref .c0).sysref .c1))

/-- R49 step 5: a lane's data had not arrived by the release point: LATE_LANE is set and the link does not come up. -/
def Side.lateLane (x : Side) (c : Chan) : Side :=
  (x.raise (JESD_STAT.LATE_LANE c.n)).setJesd c { x.jesdOf c with step := 0 }

/-- LINK_UP (R49 step 5): the elastic buffers release their data, or a lane is late; under a running front end whose codes are
substituted, LINK_RESUME brings the link up. -/
def execLinkUp (sd : SideId) (ch : Chan) (late : Bool) (s : State) : Host.Outcome State Fault Refusal :=
  .next (s.mod sd (fun x =>
    let g := x.jesdOf ch
    if g.step != 5 then x
    else if late then x.lateLane ch
    else if g.outage then x
    else (x.raise (JESD_STAT.LINK_UP ch.n)).setJesd ch { g with step := 6 }))

/-- LANE_MULTIBLOCK (R51): a lane's multiblock is received whole and checked. -/
def Side.laneMultiblock (x : Side) (c : Chan) (lane : Nat) (ok : Bool) : Side :=
  let g := x.jesdOf c
  if !x.laneRuns c lane || g.step != 6 || lane ≥ x.jesdL c then x
  else
    let x := if ok then x else (x.inc (JESD_CRC_ERR.whole c.n)).orBit (JESD_STAT.CRC_SEEN c.n) lane
    if !x.on (FE_STAT.RUNNING c.n) then x
    else
      let n := lget g.mbs lane 0
      let k := (x.feOf c).j / max 1 (x.get (JESD_LEMC_INFO.SAMPLES c.n)) * x.jesdE c
      let bad := g.bad.filter (fun p => p.2 ≥ k)
      x.setJesd c { g with mbs := lset g.mbs lane (n + 1), bad := if ok then bad else bad ++ [(lane, n)] }

/-- LANE_MULTIBLOCK. -/
def execLaneMultiblock (sd : SideId) (ch : Chan) (lane : Fin 8) (crcOk : Bool) (s : State) : Host.Outcome State Fault Refusal :=
  .next (s.mod sd (fun x => x.laneMultiblock ch lane.val crcOk))

/-- LINK_LOST (R52): sync-header lock is lost on a lane of a running link; the receiver reacquires. -/
def execLinkLost (sd : SideId) (ch : Chan) (lane : Fin 8) (s : State) : Host.Outcome State Fault Refusal :=
  .next (s.mod sd (fun x =>
    if !x.laneRuns ch lane.val || (x.jesdOf ch).step != 6 || lane.val ≥ x.jesdL ch then x
    else
      let x := x.linkDown ch
      let x := (x.andNotBit (JESD_STAT.SH_LOCK ch.n) lane.val).andNotBit (JESD_STAT.EMB_LOCK ch.n) lane.val
      x.setJesd ch { x.jesdOf ch with step := 1 }))

/-- LINK_RESUME (R52, step 5 of R49): from the next whole extended multiblock on, received codes are used again, unless a lane's data
are late. -/
def execLinkResume (sd : SideId) (l : LinkData) (s : State) : Host.Outcome State Fault Refusal :=
  let ch := l.ch
  .next (s.mod sd (fun x =>
    let g := x.jesdOf ch
    if g.step != 5 || !g.outage then x
    else if l.late then x.lateLane ch
    else
      let cy := max 1 (x.get (JESD_LEMC_INFO.CYCLES ch.n))
      let k := (x.rt.edges - (x.feOf ch).startEdge + cy - 1) / cy
      (x.raise (JESD_STAT.LINK_UP ch.n)).setJesd ch { g with
        step := 6, resumeAt := some k, mbs := List.replicate 8 (k * x.jesdE ch) }))

end Sys2Proof.Machine
end

