-- ==== Sys2Proof/Machine/Memory.lean ====
section
/-! DEFINITION. The commands of the memories: block reads and buffer timeouts (R294, R296, R317, R318), the scrubber and soft
repair (R324, R326), refresh (R305 to R307), drift correction (R310), self-refresh and rate switch (R311, R312). -/

namespace Sys2Proof.Machine

/-- Stored bits of a block inverted. -/
def Side.upset (x : Side) (k : MemSel) (blk : Nat) (fs : List (Nat × Nat)) : Side :=
  let m := x.memOf k
  let l := fs.foldl (fun l f => if l.contains f then l.filter (· != f) else l ++ [f]) ((aget m.flips blk).getD [])
  x.setMem k { m with flips := if l.isEmpty then adel m.flips blk else aput m.flips blk l }

/-- A block read as the row gives it: bits that have decayed, and the block that the array answered with. -/
def State.readRow (s : State) (sd : SideId) (k : MemSel) (blk reached : Nat) (fs : List (Nat × Nat)) : State :=
  let x := (s.side sd).upset k reached fs
  let r := (x.flushBlk k blk).decodeBlk k blk reached
  (s.setSide sd r.1).setRd (if r.2.2.1 then List.replicate k.n 0 else r.2.1)

/-- SRAM_READ (R317). -/
def execSramRead (sd : SideId) (blk reached : Nat) (flips : List (Fin 8 × Fin 42)) (s : State) : Host.Outcome State Fault Refusal :=
  .next (if blk < 2 ^ 21 && reached < 2 ^ 21 then s.readRow sd .sram blk reached (flips.map (fun f => (f.1.val, f.2.val))) else s)

/-- DRAM_READ (R294). A read of a channel in self-refresh waits (R311). -/
def execDramRead (sd : SideId) (blk reached : Nat) (flips : List (Fin 16 × Fin 40)) (s : State) : Host.Outcome State Fault Refusal :=
  let e := (s.side sd).dram.extent / 16
  .next (if blk < e && reached < e && !(s.side sd).asleep .dram blk then s.readRow sd .dram blk reached (flips.map (fun f => (f.1.val, f.2.val))) else s)

/-- MERGE_TIMEOUT (R318), of the SRAM or of a Cox core's memories (R330). -/
def execMergeTimeout (sd : SideId) (b : MergeBlk) (s : State) : Host.Outcome State Fault Refusal :=
  .next (s.mod sd (fun x => x.flushBlk (if b.cox then .cox else .sram) b.blk))

/-- GATHER_TIMEOUT (R296): 1 µs has passed for a port's block. -/
def execGatherTimeout (sd : SideId) (b : GatherBlk) (s : State) : Host.Outcome State Fault Refusal :=
  .next (s.mod sd (fun x => x.flushEnts .dram (MemSel.dram.takes b.port.val b.blk)))

/-! ### Soft repair (R315, R326) -/

/-- R315: the physical row of word i of an SRAM block within its bank. -/
def sramRow (blk i : Nat) : Nat :=
  let n := blk % 2 ^ (if blk < 2 ^ 20 then 19 else 20) / 128
  16 * (n / 8) + 2 * i + n / 4 % 2

/-- R315: physical rows of a bank. -/
def bankRows (bank : Nat) : Nat := if bank < 256 then 8192 else 16384

/-- The four blocks whose words share a physical row of a bank. -/
def rowBlocks (bank row : Nat) : List Nat :=
  (List.range 4).map (fun j =>
    let n := 8 * (row / 16) + 4 * (row % 2) + j
    if bank < 256 then 2 ^ 19 * (bank / 128) + 128 * n + bank % 128 else 2 ^ 20 + 128 * n + (bank - 256))

/-- R326: word i of a block is read and decoded through the block, and written to a spare row: a stored bit of it that the decoder mends
is right from then on. -/
def Side.respare (x : Side) (b i : Nat) : Side :=
  let r := (x.flushBlk .sram b).decodeBlk .sram b b
  match r.2.2.2 with
  | some bit => if bit.1 == i then r.1.upset .sram b [bit] else r.1
  | none => r.1

/-- R326: a row's words are decoded and written to a spare of its bank; BUSY stands until the next DEVCLK edge (assumption log 127). -/
def Side.repairRow (x : Side) (bank row : Nat) : Side :=
  if (x.sram.repairs.filter (fun r => r.1 == bank)).length ≥ 16 then x.raise SRAM_REPAIR_STAT.SPARES_OUT
  else
    let i := row % 16 / 2
    let x := (rowBlocks bank row).foldl (fun x b => x.respare b i) x
    let x := { x with sram := { x.sram with repairs := x.sram.repairs ++ [(bank, row)] } }.raise SRAM_REPAIR_STAT.BUSY
    ((x.set SRAM_REPAIR_STAT.LAST_BANK bank).set SRAM_REPAIR_STAT.LAST_ROW row).inc SRAM_REPAIR_COUNT.whole

/-- A write of SRAM_REPAIR_REQ (R326). -/
def Side.wRepairReq (x : Side) (v : Word) : Side :=
  let x := (x.set SRAM_REPAIR_REQ.BANK (bitsOf v.toNat 34 26)).set SRAM_REPAIR_REQ.ROW (bitsOf v.toNat 25 12)
  if !bitAt v.toNat 35 then x
  else
    let bank := bitsOf v.toNat 34 26
    let row := bitsOf v.toNat 25 12
    if bank > 383 || row ≥ bankRows bank || x.on SRAM_REPAIR_STAT.BUSY then x.raise SRAM_REPAIR_STAT.REFUSED
    else x.repairRow bank row

/-! ### The scrubber (R324) -/

/-- What the scrubber does with a block: a mended block is written back, the rest is the read's own doing. Answers the stored bit it
corrected. -/
def Side.scrubRead (x : Side) (k : MemSel) (blk : Nat) : Side × Option (Nat × Nat) :=
  let r := (x.flushBlk k blk).decodeBlk k blk blk
  (if r.2.2.2.isSome then r.1.setMem k ((r.1.memOf k).store k.n blk r.2.1 false) else r.1, r.2.2.2)

/-- The scrubber's next SRAM block: rows mended in two passes running are repaired with AUTO_REPAIR (R326). -/
def Side.scrubSram (x : Side) (fs : List (Nat × Nat)) : Side :=
  let blk := x.sram.scrubS
  let (x, bit) := (x.upset .sram blk fs).scrubRead .sram blk
  let x := match bit with
    | none => x
    | some b =>
      let row := (sramBank blk, sramRow blk b.1)
      let x := { x with sram := { x.sram with fixedNow := dedup (x.sram.fixedNow ++ [row]) } }
      if x.on SCRUB_CFG.AUTO_REPAIR && x.sram.fixedOld.contains row then x.repairRow row.1 row.2 else x
  if blk + 1 < 2 ^ 21 then { x with sram := { x.sram with scrubS := blk + 1 } }
  else { x with sram := { x.sram with scrubS := 0, fixedOld := x.sram.fixedNow, fixedNow := [] } }.inc SCRUB_STAT.SRAM_PASSES

/-- The scrubber's next DRAM block; a channel in self-refresh is skipped (R324). -/
def Side.scrubDram (x : Side) (fs : List (Nat × Nat)) : Side :=
  let blk := x.sram.scrubD
  let e := x.dram.extent / 16
  if e == 0 then x
  else
    let x := if x.on (DRAM_STAT.SR (x.dramChan blk).1) then x.raise SCRUB_STAT.SR_SKIP
      else ((x.upset .dram blk fs).scrubRead .dram blk).1
    if blk + 1 < e then { x with sram := { x.sram with scrubD := blk + 1 } }
    else { x with sram := { x.sram with scrubD := 0 } }.inc SCRUB_STAT.DRAM_PASSES

/-- SCRUB_BLOCK (R324): nothing while its scrub is off. `behind` says whether the scrubber is more than 1 s behind its schedule. -/
def execScrubBlock (sd : SideId) (dram : Bool) (flips : List (Fin 16 × Fin 42)) (behind : Bool) (s : State) : Host.Outcome State Fault Refusal :=
  let fs := flips.map (fun f => (f.1.val, f.2.val))
  .next (s.mod sd (fun x =>
    if dram then (if x.on SCRUB_CFG.DRAM_EN then (x.put SCRUB_STAT.BEHIND behind).scrubDram (fs.filter (fun f => f.2 < 40)) else x)
    else (if x.on SCRUB_CFG.SRAM_EN then (x.put SCRUB_STAT.BEHIND behind).scrubSram (fs.filter (fun f => f.1 < 8)) else x)))

/-- A write of POISON_ADDR_HI (R327): bit 35 set clears the log. -/
def Side.wPoisonHi (x : Side) (v : Word) : Side :=
  if bitAt v.toNat 35 then (x.setReg POISON_ADDR_LO.whole.idx 0).setReg POISON_ADDR_HI.whole.idx 0 else x

/-! ### Refresh (R305 to R307) -/

/-- The register field that holds p of a subchannel. -/
def owedFld (dc sub : Nat) : Fld := if sub == 0 then DRAM_STAT.OWED0 dc else DRAM_STAT.OWED1 dc

/-- Deficit refreshes run back to back until p = 3. -/
def Side.clearDeficit (x : Side) (dc sub : Nat) : Side :=
  let p := x.get (owedFld dc sub)
  if p ≥ 4 then (x.bump DRAM_REF_DEFICIT.whole (p - 3)).set (owedFld dc sub) 3 else x

/-- The channel is in service and not in self-refresh. -/
def Side.dramLive (x : Side) (dc : Nat) : Bool :=
  x.on (DRAM_STAT.TRAINED dc) && !x.on (DRAM_STAT.SR dc)

/-- A port in panic, of those with a request for the subchannel, waits. -/
def Side.panicWaits (x : Side) (waits : Nat) : Bool := (List.range 5).any (fun p => lget x.dram.panic p false && bitAt waits p)

/-- R306, R307: a subchannel with p ≥ 4 issues its deficit refreshes at once; a transaction in progress is broken. -/
def Side.issueDeficit (x : Side) (dc sub : Nat) (inTrans : Bool) : Side :=
  if x.get (owedFld dc sub) ≥ 4 then (if inTrans then x.inc DRAM_BURST_BREAK.whole else x).clearDeficit dc sub else x

/-- R305: p rises; a refresh in deficit breaks a transaction (R307), one not in deficit waits for panic and transactions. -/
def Side.refreshDue (x : Side) (dc sub waits : Nat) (inTrans : Bool) : Side :=
  let p := x.get (owedFld dc sub) + 1
  let x := x.set (owedFld dc sub) p
  if p ≥ 4 then x.issueDeficit dc sub inTrans
  else if x.panicWaits waits || inTrans then x
  else x.set (owedFld dc sub) (p - 1)

/-- REFRESH_DUE: `levels` are the words waiting in SPILL's buffer and missing from SCAN's and TONE's (ports 2 to 4), as they have become
one after the other since the last; `waits` the real-time ports with a request for the subchannel. -/
def execRefreshDue (sd : SideId) (dc : Fin 4) (sub : Fin 2) (ports : PortReport) (inTrans : Bool) (s : State) :
    Host.Outcome State Fault Refusal :=
  .next (s.mod sd (fun x =>
    let x := ports.levels.foldl (fun x l => x.portLevel (2 + l.1.val) l.2.toNat) x
    if x.dramLive dc.val then x.refreshDue dc.val sub.val ports.waits.toNat inTrans else x))

/-- REFRESH_ISSUE (R305): a postponed refresh is issued. -/
def execRefreshIssue (sd : SideId) (dc : Fin 4) (sub : Fin 2) (s : State) : Host.Outcome State Fault Refusal :=
  .next (s.mod sd (fun x => if x.dramLive dc.val then x.set (owedFld dc.val sub.val) (x.get (owedFld dc.val sub.val) - 1) else x))

/-- R391: the board threshold event: an input with REF = 1 has HIGH set. -/
def Side.boardHot (x : Side) : Bool :=
  (List.range 16).any (fun i => x.on (MON_IN_CFG.REF i) && bitAt (x.get MON_STATE.HIGH) i)

/-- R306: a subchannel enters or leaves doubled mode as its temperature and the board threshold event say. -/
def Side.refMode (x : Side) (dc sub : Nat) (inTrans : Bool) : Side :=
  let r := lget x.dram.ref (2 * dc + sub) ⟨false, false⟩
  let want := r.hot || x.boardHot
  if want == r.doubled then x
  else
    let x := { x with dram := { x.dram with ref := lset x.dram.ref (2 * dc + sub) { r with doubled := want } } }
    let p := x.get (owedFld dc sub)
    let x := x.put (DRAM_STAT.REF2X dc) ((lget x.dram.ref (2 * dc) ⟨false, false⟩).doubled || (lget x.dram.ref (2 * dc + 1) ⟨false, false⟩).doubled)
    if want then (x.set (owedFld dc sub) (2 * p)).issueDeficit dc sub inTrans
    else x.set (owedFld dc sub) ((p + 1) / 2)

/-- Every subchannel in service follows the board threshold event; bit 2·c + u of `inTrans` says that a real-time transaction is in
progress on subchannel u of channel c. -/
def Side.refModes (x : Side) (inTrans : Nat) : Side :=
  (List.range 8).foldl (fun x i =>
    if x.on (DRAM_STAT.TRAINED (i / 2)) then x.refMode (i / 2) (i % 2) (bitAt inTrans i) else x) x

/-- MR4_READ (R305). -/
def execMr4Read (sd : SideId) (dc : Fin 4) (sub : Fin 2) (r : Mr4) (s : State) : Host.Outcome State Fault Refusal :=
  .next (s.mod sd (fun x =>
    if x.dramLive dc.val then
      { x with dram := { x.dram with ref := lmod x.dram.ref (2 * dc.val + sub.val) (fun q => { q with hot := r.hot }) } }.refMode dc.val sub.val r.inTrans
    else x))

/-! ### Drift (R310) -/

/-- One lane's write delay follows its drift by at most a tap; beyond 8 taps from training it stays and is reported. -/
def Side.driftLane (x : Side) (dc sub lane : Nat) (d : Int) : Side :=
  let k := 2 * dc + sub
  let row := lget x.dram.drift k []
  let row := row ++ List.replicate (20 - row.length) 0
  let v := lget row lane 0 + max (-1) (min 1 d)
  if v > 8 || v < -8 then
    x.report 0 (srcOf 3 (dc + 1) 19) (lane % 32 + 32 * sub + 64 * ux 8 v) false
  else { x with dram := { x.dram with drift := lset x.dram.drift k (lset row lane v) } }

/-- DQS_OSC (R310). -/
def execDqsOsc (sd : SideId) (dc : Fin 4) (sub : Fin 2) (drifts : List (Fin 20 × Int)) (s : State) : Host.Outcome State Fault Refusal :=
  .next (s.mod sd (fun x =>
    if x.dramLive dc.val then drifts.foldl (fun x d => x.driftLane dc.val sub.val d.1.val d.2) x else x))

/-! ### Self-refresh, rate switch, panic levels (R301, R311, R312) -/

/-- The value in force of a scan-out shadow register (R431): its copy, else its reset value. -/
def Side.soForce (x : Side) (f : Fld) : Nat :=
  bitsOf (((aget x.so.force f.idx).getD (wordN ((findReg f.idx).elim 0 (fun r => r.reset)))).toNat) f.hi f.lo

/-- R311: the scan-out reads DRAM. -/
def Side.soReadsDram (x : Side) : Bool :=
  x.on SO_CTRL.EN && (x.soForce SO_WF.W_EN == 1 || (x.soForce SO_OV.O_EN == 1 && x.soForce SO_OV.O_HOST == 0))

/-- A set's mode (R376). -/
def ToneSet.mode (t : ToneSet) : Nat := bitsOf t.w6 25 24

/-- R311: tone playback runs. -/
def Side.playbackRuns (x : Side) : Bool :=
  (List.range 2).any (fun o => match (lget x.tone o Tone.init).force with
    | some t => t.mode == 3 && x.on (if o == 0 then TONE_CFG.EN0 else TONE_CFG.EN1) && !(lget x.tone o Tone.init).pbEnd
    | none => false)

/-- R311: why self-refresh entry and exit are refused. -/
def Side.srBlocked (x : Side) : Bool :=
  x.acq.any (fun a => a.armed.isSome) || x.strm.any (fun t => t.bound && !t.spill.isEmpty) || x.soReadsDram || x.playbackRuns

/-- R284, R311: what a FENCE with MEM = 1 awaits beside commands: writes that wait for a DRAM channel in self-refresh. -/
def memWaits : Nat := 2 ^ 64

/-- A FENCE that awaits such writes goes on once every one of them is in memory. -/
def Side.fenceMem (x : Side) : Side :=
  if x.host.staged.any (fun d => d.awaits.contains memWaits) then
    let x := x.flushAll .dram
    if x.dram.mem.buf.isEmpty then
      ({ x with host := { x.host with staged := x.host.staged.map (fun d =>
        if d.awaits.contains memWaits then { d with awaits := d.awaits.filter (· != memWaits) } else d) } } : Side).settleFences x.host.staged.length
    else x
  else x

/-- R311: a channel leaves self-refresh; requests that wait as whole blocks are served. -/
def Side.leaveSr (x : Side) (dc : Nat) : Side :=
  ((x.drop (DRAM_STAT.SR dc)).flushEnts .dram (fun e => e.words.length == 16)).fenceMem

/-- Refresh owed at entry is issued before entry. -/
def Side.enterSr (x : Side) (dc : Nat) : Side :=
  ((x.set (DRAM_STAT.OWED0 dc) 0).set (DRAM_STAT.OWED1 dc) 0).raise (DRAM_STAT.SR dc)

/-- R311: SR_REQ changes. -/
def Side.setSrReq (x : Side) (req : Nat) : Side :=
  if x.get DRAM_LP_CTRL.SR_REQ == req then x
  else if x.srBlocked then x.raise DRAM_LP_CTRL.LP_REFUSED
  else
    let x := x.set DRAM_LP_CTRL.SR_REQ req
    (List.range 4).foldl (fun x c =>
      if !x.on (DRAM_STAT.TRAINED c) then x
      else if bitAt req c then x.enterSr c else x.leaveSr c) x

/-- R312: a rate switch starts, or is refused. -/
def Side.startFc (x : Side) : Side :=
  if x.dram.fcBusy then x
  else if x.get DRAM_CFG.POP != 15 || (List.range 4).any (fun c => x.on (DRAM_STAT.MAPPED_OUT c)) || x.get DRAM_CFG.ALT_RATE == 7
      || x.srBlocked then x.raise DRAM_LP_CTRL.LP_REFUSED
  else
    let x := { x with dram := { x.dram with fcBusy := true } }
    let x := (x.set PLL_STAT.M_LOCK 0)
    (List.range 4).foldl (fun x c => x.enterSr c) x

/-- A write of DRAM_LP_CTRL (R311 to R313): SR_REQ, FC_REQ and the two bits cleared by writing 1. -/
def Side.wDramLp (x : Side) (v : Word) : Side :=
  let x := if bitAt v.toNat 30 then x.drop DRAM_LP_CTRL.LP_REFUSED else x
  let x := if bitAt v.toNat 29 then x.drop DRAM_LP_CTRL.FC_DONE else x
  let x := x.setSrReq (bitsOf v.toNat 35 32)
  if bitAt v.toNat 31 then x.startFc else x

/-- The data rate of a code, in MT/s (R313). -/
def rateMts (c : Nat) : Nat := lget [4800, 5200, 5600, 6000, 6400] c 6400

/-- R226: ACQ_LIMIT in units of 10^6 words/s. -/
def Side.setAcqLimit (x : Side) : Side :=
  let r := rateMts (if x.on DRAM_CFG.ALT_SEL then x.get DRAM_CFG.ALT_RATE else x.get DRAM_CFG.RATE)
  x.set ACQ_LIMIT.MWPS (3 * x.dram.nsub * r / 4)

/-- FC_DONE (R312): PLL-M has relocked with its lock fields, the other set is in use, the channels are back. -/
def execFcDone (sd : SideId) (s : State) : Host.Outcome State Fault Refusal :=
  .next (s.mod sd (fun x =>
    if !x.dram.fcBusy then x
    else
      let x := { x with dram := { x.dram with fcBusy := false } }
      let x := { x with clk := { x.clk with m := [x.get PLL_LOCK_CFG.WIN_M, x.get PLL_LOCK_CFG.NC_M], mLost := false, mCoast := false } }
      let x := x.raise PLL_STAT.M_LOCK
      let x := (x.put DRAM_CFG.ALT_SEL (!x.on DRAM_CFG.ALT_SEL)).setAcqLimit
      let x := (List.range 4).foldl (fun x c => if bitAt (x.get DRAM_LP_CTRL.SR_REQ) c then x else x.leaveSr c) x
      x.raise DRAM_LP_CTRL.FC_DONE))

/-- A write of DRAM_PANICn (R301): OFF at or above ON is taken as ON − 1. -/
def Side.wDramPanic (x : Side) (n : Nat) (v : Word) : Side :=
  let on := bitsOf v.toNat 35 18
  let off := bitsOf v.toNat 17 0
  (x.set (DRAM_PANIC.ON n) on).set (DRAM_PANIC.OFF n) (if off ≥ on then on - 1 else off)

end Sys2Proof.Machine
end

