-- ==== Sys2Proof/Machine/Starter.lean ====
section
/-! DEFINITION. The Starter (R194 to R220): descriptors and their occurrences, the horizon, the decision of an instant, GO
outcomes and trigger records, FORCE, cross-side lines and device triggers, TRIGOUT, stop tests and the STARTER block. -/

namespace Sys2Proof.Machine

/-! ### Descriptors (R200, R203) -/

/-- An occurrence is a stamp with INVALID (R184, R210). -/
def occInvalid : Occ → Bool
  | .trigin _ _ inv => inv
  | .split _ _ inv => inv
  | _ => false

/-- R200: the field values of a descriptor are listed. -/
def descOk (d : Nat) : Bool :=
  let i := dIdx d
  let m := dMode d
  let p := dParam d
  match dType d with
  | 0 => dCh d == 0 && i == 0 && m == 0 && p == 0
  | 1 => i ≤ 3 && m == 0 && 1 ≤ p && p ≤ 65536
  | 2 => m ≤ 1
  | 3 => i ≤ 1 && m ≤ 1 && p == 0
  | 4 => dCh d == 0 && i ≤ 1 && 1 ≤ m && p == 0
  | 5 => dCh d == 0 && i != 4 && i != 5 && (i ≤ 3 || m == 0) && p == 0
  | 6 => dCh d == 0 && m == 0 && p == 0
  | 7 => dCh d == 0 && i == 0 && m == 0 && p == 0
  | 8 => dCh d == 0 && i ≤ 3 && m == 0 && p == 0
  | 9 => dCh d == 0 && i ≤ 3 && m == 0 && p == 0
  | _ => false

/-- MASK_EN and BAND_EN of a SPECTRAL block (R150). -/
def ppMaskEn (b : List Word) (k : Nat) : Bool := bb b 0 (17 + k)
def ppBandEn (b : List Word) (j : Nat) : Bool := bb b 0 (21 + j)

/-- The post-processor of a channel. -/
def Side.ppOf (x : Side) (c : Chan) : Pp := lget x.pp c.n Pp.init
/-- The post-processor of a channel replaced. -/
def Side.setPp (x : Side) (c : Chan) (v : Pp) : Side := { x with pp := lset x.pp c.n v }

/-- R201, R203: a used descriptor names an enabled mask or band, or an input whose stamping is enabled. -/
def Side.usedOk (x : Side) (d : Nat) : Bool :=
  match dType d with
  | 1 => ppMaskEn (x.ppOf (chanOf (dCh d))).block (dIdx d)
  | 2 => ppBandEn (x.ppOf (chanOf (dCh d))).block (dIdx d)
  | 4 => x.evtSlope (dIdx d) != 0
  | 5 =>
    if dIdx d ≥ 4 then x.evtSlope (dIdx d - 4) != 0
    else x.get (SPLIT_IN_CFG.SLOPE (dIdx d)) != 0 && (dMode d == 0 || x.on SPLIT_MEAS_CFG.MEAS_EN)
  | _ => true

/-- A slot's GO reaches a channel. -/
def goNames (act c : Nat) : Bool := bitAt act 31 && bitAt act (29 + c)

/-- R219: a field fails R200, R201, R202, R203, R204, R212 or R213. -/
def Side.starterBad (x : Side) (b : List Word) : Bool :=
  let named := fun k => stSlots.any (fun p => stEn b p.1 p.2 && dType (stCond b p.1 p.2) == 9 && dIdx (stCond b p.1 p.2) == k)
  stSlots.any (fun p => !descOk (stCond b p.1 p.2)) || (List.range 4).any (fun k => !descOk (stSrc b k))
    || (stUsed b).any (fun d => !x.usedOk d)
    || (List.range 4).any (fun i => bf b (1 + i) 17 0 > bf b (1 + i) 35 18)
    || (List.range 4).any (fun k => named k && (dType (stSrc b k) == 0 || dType (stSrc b k) == 9))
    || (List.range 2).any (fun c => stStopN b c == 0 || stStopN b c > 65536
        || (stStopEn b c && !ppMaskEn (x.ppOf (chanOf c)).block (stStopMask b c))
        || (stStopEn b c && stSlots.any (fun p => stEn b p.1 p.2 && goNames (stAct b p.1 p.2) c)))

/-! ### The horizon (R195, R217) -/

/-- Λ_fe of a channel in nanoseconds: the bound of R70 with the block it runs or will run with. -/
def Side.lamFe (x : Side) (c : Chan) : ℚ :=
  let b := (x.feOf c).block
  let f := x.fConv c
  let d := 2 ^ (feDecim b + (if x.on (JESD_CFG.CPLX c.n) then 0 else 1))
  let ofs : ℚ := ((max 0 (feOfs b) * 10 ^ 9 : Int) : ℚ) / 2 ^ 40
  ofs + (feDelay (feResp b) d * f.2 * 10 ^ 9 : Nat) / (f.1 : ℚ)
    + (x.get (JESD_CFG.RBD c.n) * 66000 : Nat) / (x.get (JESD_CFG.LANE_RATE c.n) : ℚ) + 80

/-- λ_F of a channel at f_lane in MHz. -/
def Side.lamF (x : Side) (c : Chan) (f : Nat) : ℚ :=
  let n := 2 ^ xfLog2N (x.xfOf c).block
  x.lamFe c + 16 + ((n / 4 + n / 64 + 288) * 1000 : Nat) / (f : ℚ)

/-- λ of a descriptor. -/
def Side.lamOf (x : Side) (f d : Nat) : ℚ :=
  match dType d with
  | 1 => x.lamF (chanOf (dCh d)) f
  | 2 => x.lamF (chanOf (dCh d)) f
  | 3 => x.lamFe (chanOf (dCh d)) + 40
  | 4 => 60
  | 5 => 80
  | _ => 0

/-- R195: the horizon H of a block in nanoseconds at f_lane in MHz. -/
def Side.horizon (x : Side) (b : List Word) (f : Nat) : Nat :=
  let ls := (stUsed b).map (x.lamOf f)
    ++ ((List.range 2).filter (stStopEn b)).map (fun c => x.lamF (chanOf c) f)
  (Rat.ceil (ls.foldl max 0 + 64)).toNat

/-- R217: D_TO in nanoseconds. -/
def trigoutDelay (h : Nat) : Nat := if h ≤ 1200 then 1200 else (h + 99) / 100 * 100

/-! ### GO and the acquisition (R206 to R210) -/

/-- Fields of the RECORD block (R221). -/
def rcContent (b : List Word) : Nat := bf b 0 34 33
def rcIq (b : List Word) : Bool := bitAt (rcContent b) 0
def rcSp (b : List Word) : Bool := bitAt (rcContent b) 1
def rcSeg (b : List Word) : Bool := bb b 0 32
def rcDrain (b : List Word) : Bool := bb b 0 31
def rcPre (b : List Word) : Nat := bw b 1
def rcPost (b : List Word) : Nat := bw b 2
def rcNseg (b : List Word) : Nat := if rcSeg b then bf b 3 15 0 + 1 else 1

/-- How a GO fares at a channel (R207). -/
inductive GoOut where
  | ignored | missed | fill | accepted
  deriving DecidableEq, Repr

/-- The first analysis sample at or after race time t of an epoch. -/
def Side.sampleIn (x : Side) (c : Chan) (ep t : Nat) : Nat := leastFrom (x.sampleFrom c ep t) 64 (x.feOf c).m0 (2 ^ 56)

/-- The first analysis sample whose race time is at or after t. -/
def Side.sampleAt (x : Side) (c : Chan) (t : Nat) : Nat := x.sampleIn c x.starter.ep t

/-- R206: m_T of a GO at instant (ep, t): the last sample of the frame for a MASK or BAND occurrence of the channel itself, else the first
sample at or after t. -/
def Side.trigSample (x : Side) (c : Chan) (ep t : Nat) (own : Option Nat) : Nat := own.getD (x.sampleIn c ep t)

/-- R207: the outcome of a GO with trigger sample m_T. A channel that no longer writes m_T (R229) takes none. -/
def Side.goOutcome (x : Side) (c : Chan) (mT : Nat) : GoOut × Nat :=
  let a := x.acqOf c
  match a.armed with
  | none => (.ignored, mT)
  | some r =>
    let lastTrig := r.trigs.getLast?
    let full := r.trigs.length ≥ rcNseg r.block
    if r.stopM.any (fun u => decide (mT ≥ u)) then (.ignored, mT)
    else if full && lastTrig.any (fun g => decide (mT > g.mLast)) then (.ignored, mT)
    else if lget r.stop 0 0 == 1 then (.missed, mT)
    else if full || lastTrig.any (fun g => decide (mT ≤ g.mLast)) || a.lastPost.any (fun l => decide (mT ≤ l)) then (.missed, mT)
    else if mT < r.mA + rcPre r.block then (.fill, mT)
    else (.accepted, mT)

/-- The number of a channel's next accepted trigger. -/
def Side.trigNumOf (x : Side) (c : Chan) : Nat := lget x.starter.trigNum c.n 0 + 1

/-- R206, R230: a trigger is accepted: the record, or its next segment, ends at mLast. -/
def Side.acceptTrig (x : Side) (c : Chan) (mT mLast : Nat) (words : List Word) : Side :=
  let a := x.acqOf c
  match a.armed with
  | none => x
  | some r =>
    let x := x.setAcq c { a with armed := some { r with trigs := r.trigs ++ [⟨mT, mLast, words⟩] } }
    { x with starter := { x.starter with trigNum := lset x.starter.trigNum c.n (x.trigNumOf c) } }

/-- R210: the words of a trigger record. -/
def trigWords (w0 bitmap t w4 num : Nat) : List Word :=
  [wordN w0, wordN bitmap, wordN (t / 2 ^ 36), wordN t, wordN w4, wordN num, 0, 0]

/-- A GO's outcome is counted, and an accepted one makes its trigger. -/
def Side.applyGo (x : Side) (c : Chan) (o : GoOut × Nat) (w0 bitmap t : Nat) : Side :=
  match o.1 with
  | .ignored => x
  | .missed => x.inc (MISSED.whole c.n)
  | .fill => x.inc (FILL_IGNORED.whole c.n)
  | .accepted =>
    let post := (x.acqOf c).armed.elim 1 (fun r => rcPost r.block)
    x.acceptTrig c o.2 (o.2 + post - 1) (trigWords w0 bitmap t 0 (x.trigNumOf c))

/-! ### TRIGOUT (R217) -/

/-- The block whose TRIGOUT and device-trigger fields are in force. -/
def Side.stBlk (x : Side) : List Word := if x.on STARTER_STAT.RUNNING then x.starter.force else x.starter.block

/-- The Starter and acquisition island, without the side bit. -/
def starterSrc : Nat := srcOf 2 4 0

/-- TOi_SRC selects a channel. -/
def toSrc (b : List Word) (pin c : Nat) : Bool := bitAt (if pin == 0 then bf b 0 31 30 else bf b 0 29 28) c

/-- Pulses for instant (ep, t) on the pins of a mask. -/
def Side.pulse (x : Side) (ep t : Nat) (p : Nat → Bool) : Side :=
  let u := ((t : Int) + x.starter.offset ep).toNat
  { x with starter := { x.starter with pulses := x.starter.pulses ++ ((List.range 2).filter p).map (fun i => (i, u)) } }

/-- R217: the level of a TRIGOUT pin; TO_POL makes it active low. -/
def Side.trigoutPin (x : Side) (pin : Nat) : Bool := (lget x.starter.outs pin none).isSome != bb x.stBlk 0 (18 + pin)

/-- TRIGOUT_PULSE: the pin asserts at the first DEVCLK edge at or after t + D_TO; a running pulse ends at the later end. -/
def Side.trigoutPulse (x : Side) (pin : Nat) : Side :=
  let st := x.starter
  match st.pulses.find? (fun p => p.1 == pin && x.islRuns starterSrc && decide (x.now ≥ p.2 + nsLsb st.dTo)) with
  | none => x
  | some p =>
    let e := x.now + nsLsb (8 * max 1 (bf x.stBlk 0 27 20))
    let e := max e ((lget st.outs pin none).getD 0)
    { x with starter := { st with pulses := st.pulses.erase p, outs := lset st.outs pin (some e) } }

/-- TRIGOUT_PULSE. -/
def execTrigoutPulse (sd : SideId) (pin : Fin 2) (s : State) : Host.Outcome State Fault Refusal :=
  .next (s.mod sd (fun x => x.trigoutPulse pin.val))

/-- TRIGOUT_END: the pulse time has run out. -/
def execTrigoutEnd (sd : SideId) (pin : Fin 2) (s : State) : Host.Outcome State Fault Refusal :=
  .next (s.mod sd (fun x =>
    if (lget x.starter.outs pin.val none).any (fun e => decide (x.now ≥ e))
    then { x with starter := { x.starter with outs := lset x.starter.outs pin.val none } } else x))

/-! ### The decision of an instant (R198, R199) -/

/-- R219: the block in force for an instant. -/
def Starter.blkAt (st : Starter) (ep t : Nat) : Starter :=
  let due := fun (p : Nat × Nat × List Word) => decide (p.1 < ep) || (p.1 == ep && decide (p.2.1 ≤ t))
  (st.next.filter due).foldl (fun st p => { st with force := p.2.2 }) { st with next := st.next.filter (fun p => !due p) }

/-- R205: the instants with those that running timers form. -/
def Starter.withTimers (st : Starter) : List Inst :=
  st.timers.foldl (fun l o => match o with
    | some e => instMod e.1 e.2 id l
    | none => l) st.insts

/-- The first undecided instant, once it is to be decided (R195). A quiesced Starter decides none. -/
def Side.frontInst (x : Side) : Option Inst :=
  match x.starter.withTimers with
  | i :: _ => if x.instDue i.ep i.t && x.islRuns starterSrc then some i else none
  | [] => none

/-- The program evaluates an instant. -/
def Side.evaluates (x : Side) (i : Inst) : Bool :=
  x.on STARTER_STAT.RUNNING && !earlier i.ep i.t x.starter.fromEp x.starter.fromT

/-- R198, R204: counter k latches at an instant, once. -/
def Side.latch (x : Side) (i : Inst) (k : Nat) : Side × Inst :=
  let b := (x.starter.blkAt i.ep i.t).force
  if i.latched.contains k || !x.evaluates i then (x, i)
  else
    let i := { i with latched := i.latched ++ [k] }
    if i.occ.any (matchOcc (stSrc b k)) then
      let x := x.inc (STARTER_CNT.whole k)
      if x.get (STARTER_CNT.whole k) == bw b (10 + 2 * k) then (x, { i with occ := i.occ ++ [.count (Fin.ofNat 4 k)] }) else (x, i)
    else (x, i)

/-- Counters 0 … k latch. -/
def Side.latchTo (x : Side) (i : Inst) (k : Nat) : Side × Inst :=
  (List.range (k + 1)).foldl (fun (a : Side × Inst) j => a.1.latch a.2 j) (x, i)

/-- COUNT (R204): counters up to k latch at the first undecided instant. -/
def execCount (sd : SideId) (k : Fin 4) (s : State) : Host.Outcome State Fault Refusal :=
  .next (s.mod sd (fun x => match x.frontInst with
    | some i =>
      let r := x.latchTo i k.val
      { r.1 with starter := { r.1.starter with insts := instMod i.ep i.t (fun _ => r.2) r.1.starter.insts } }
    | none => x))

/-- TIMER (R205): an expired timer forms an instant. -/
def execTimer (sd : SideId) (k : Fin 4) (s : State) : Host.Outcome State Fault Refusal :=
  .next (s.mod sd (fun x => match lget x.starter.timers k.val none with
    | some e =>
      if x.nowIn e.1 ≥ (e.2 : Int) && x.islRuns starterSrc
      then { x with starter := { x.starter with insts := instMod e.1 e.2 id x.starter.insts } } else x
    | none => x))

/-- R205: timers that expire at t make their occurrences and stop. -/
def Side.expire (x : Side) (i : Inst) : Side × Inst :=
  (List.range 4).foldl (fun (a : Side × Inst) k =>
    if lget a.1.starter.timers k none == some (i.ep, i.t) then
      ({ a.1 with starter := { a.1.starter with timers := lset a.1.starter.timers k none } },
        { a.2 with occ := a.2.occ ++ [.timer (Fin.ofNat 4 k)] })
    else a) (x, i)

/-- R198: BITMAP over every enabled slot. -/
def bitmapOf (b : List Word) (occ : List Occ) : Nat :=
  maskN 32 (fun n => stEn b (n / 4) (n % 4) && occ.any (matchOcc (stCond b (n / 4) (n % 4))))

/-- R199 steps 1 to 3: counters cleared, timers stopped and started. -/
def Side.actCounters (x : Side) (b : List Word) (act ep t : Nat) : Side :=
  let x := (List.range 4).foldl (fun x k => if bitAt act (8 + k) then x.set (STARTER_CNT.whole k) 0 else x) x
  (List.range 4).foldl (fun x k =>
    let v := if bitAt act (16 + k) then some (x.starter.place ep (t + 256 * max 1 (bw b (17 + k))))
      else if bitAt act (12 + k) then none else lget x.starter.timers k none
    { x with starter := { x.starter with timers := lset x.starter.timers k v } }) x

/-- R199 steps 4 and 5, R214 to R216: lines and a device trigger are raised at t_r. -/
def State.raise (s : State) (sd : SideId) (act tr : Nat) : State :=
  let lines := bitsOf act 27 20
  let n := ((List.range 8).filter (bitAt lines)).length
  let dt := bitAt act 28
  if s.keel.resolving then s.mod sd (fun x => x.bump KEEL_XTRIG_DISCARD.whole (n + b2n dt))
  else if s.keel.up then
    let s := if n == 0 then s else s.send sd.other (.xside (BitVec.ofNat 8 lines) tr)
    if dt then s.mod sd (fun x => { x with starter := { x.starter with reqs := x.starter.reqs ++ [tr] } }) else s
  else if dt then s.mod sd (fun x => (x.inc DTRIG_SOLO.whole).occur .dtrig (tr + keelLsb)) else s

/-- R206: the last sample of the frame of channel c that met descriptor d at an instant. -/
def Inst.frameOf (i : Inst) (d : Nat) (c : Chan) : Option Nat :=
  if (dType d == 1 || dType d == 2) && dCh d == c.n then aget i.last c.n else none

/-- The outcomes of a GO at the channels of a mask, descriptor d having won. -/
def Side.goOuts (x : Side) (m : Nat) (i : Inst) (d : Nat) : List (Chan × GoOut × Nat) :=
  ([Chan.c0, Chan.c1].filter (fun c => bitAt m c.n)).map (fun c =>
    (c, x.goOutcome c (x.trigSample c i.ep i.t (i.frameOf d c))))

/-- INSTANT (R198): the first undecided instant is decided. -/
def State.decideInst (s : State) (sd : SideId) : State :=
  let x := s.side sd
  match x.frontInst with
  | none => s
  | some i0 =>
    let evals := x.evaluates i0
    let st0 := x.starter
    let x := { x with starter := { st0.blkAt i0.ep i0.t with
      insts := st0.insts.filter (fun i => !(i.ep == i0.ep && i.t == i0.t))
      decEp := i0.ep, decided := i0.t + 1 } }
    let (x, i) := x.latchTo i0 3
    let (x, i) := if evals then x.expire i else (x, i)
    let b := x.starter.force
    let t := i.t
    let bm := if evals then bitmapOf b i.occ else 0
    let from_ := x.get STARTER_STAT.STATE
    let win := (List.range 4).find? (fun n => bitAt bm (4 * from_ + n))
    let act := win.elim 0 (fun n => stAct b from_ n)
    let x := if win.isSome then x.actCounters b act i.ep t else x
    let s := s.setSide sd x
    let s := if win.isSome then s.raise sd act (((t + x.hLsb : Nat) : Int) + x.starter.offset i.ep).toNat else s
    let x := s.side sd
    let fch := i.force.foldl (fun a f => Nat.lor a f.1) 0
    let fto := i.force.foldl (fun a f => Nat.lor a f.2.1) 0
    let sch := if bitAt act 31 then bitsOf act 30 29 else 0
    let outs := x.goOuts (Nat.lor sch fch) i (win.elim 0 (fun n => stCond b from_ n))
    let mine := outs.filter (fun o => bitAt sch o.1.n)
    let back := mine.any (fun o => o.2.1 == .fill) && !mine.any (fun o => o.2.1 == .accepted)
    let next := if back then stRestart b else bitsOf act 34 32
    let inv := win.elim false (fun n => i.occ.any (fun o => matchOcc (stCond b from_ n) o && occInvalid o))
    let x := outs.foldl (fun x o =>
      let seq := bitAt sch o.1.n
      let forced := bitAt fch o.1.n
      let w0 := if seq then b2n forced * 2 ^ 33 + b2n inv * 2 ^ 32 + from_ * 2 ^ 29 + win.getD 0 * 2 ^ 27 + next * 2 ^ 24
        else 2 ^ 34
      x.applyGo o.1 o.2 w0 bm t) x
    let acc := outs.filter (fun o => o.2.1 == .accepted)
    let x := x.pulse i.ep t (fun p => bitAt act (6 + p) || bitAt fto p || acc.any (fun o => toSrc x.stBlk p o.1.n))
    let x := if win.isSome then x.set STARTER_STAT.STATE next else x
    let am := maskN 2 (fun c => acc.any (fun o => o.1.n == c))
    i.force.foldl (fun s f => match (s.side sd).cmdOf f.2.2.1 f.2.2.2 with
      | some c => s.complete sd c stOK t (Nat.land am f.1 : Nat) (t % 2 ^ 36 : Nat)
      | none => s) (s.setSide sd x)

/-- INSTANT. -/
def execInstant (sd : SideId) (s : State) : Host.Outcome State Fault Refusal := .next (s.decideInst sd)

/-- OCCURRENCE (R196). -/
def execOccurrence (sd : SideId) (o : Occ) (t : RaceTime) (s : State) : Host.Outcome State Fault Refusal :=
  .next (s.mod sd (fun x => x.occur o t.toNat))

/-- R211: FORCE takes effect: it joins instant t. -/
def effForce (sd : SideId) (st : Staged) (t : Nat) (s : State) : State :=
  let x := s.side sd
  if earlier x.starter.ep t x.starter.decEp x.starter.decided || x.now > t + x.hLsb then s.refuse sd st stBoundaryPast
  else
    let f := (st.e.op4 % 4, bitsOf st.e.op4 3 2, st.issuer, st.id)
    let x := { x with starter := { x.starter with
      insts := instMod x.starter.ep t (fun i => { i with force := i.force ++ [f] }) x.starter.insts } }
    (s.setSide sd x).cfgWaits sd st t 0

/-! ### Across the Keel (R214 to R216) -/

/-- XSIDE (R214): the oldest lines in flight towards a side are presented, or discarded during a resolution (R31). -/
def execXside (sd : SideId) (s : State) : Host.Outcome State Fault Refusal :=
  .next (match takeMsg (fun d m => d == sd && (match m with | .xside _ _ => true | _ => false)) s.keel.msgs with
    | some ((_, .xside lines t), rest) =>
      let s := { s with keel := { s.keel with msgs := rest } }
      let es := (List.range 8).filter (bitAt lines.toNat)
      if s.keel.resolving then s.mod sd.other (fun x => x.bump KEEL_XTRIG_DISCARD.whole es.length)
      else s.mod sd (fun x => es.foldl (fun x e => x.occur (.xside (Fin.ofNat 8 e)) (t + keelLsb)) x)
    | _ => s)

/-- R215: an accepted request with arbitration time b stands less than DT_HOLDOFF nanoseconds before a. -/
def Side.holdsOff (x : Side) (a b : Nat) : Bool := decide (b ≤ a ∧ (a - b) * 10 ^ 9 < bf x.stBlk 0 17 2 * 2 ^ 40)

/-- R215, R33: the side that arbitrates a request, given the cox side, and its arbitration time: until T the side that held cox before the
handover, afterwards the new one. -/
def State.arbiter (s : State) (c : SideId) (by_ : SideId) (t : Nat) : SideId × Nat :=
  let at_ := fun (h : SideId) => if by_ == h then t else t + keelLsb
  match s.keel.moved with
  | some (o, tm) => if at_ o < tm then (o, at_ o) else (c, at_ c)
  | none => (c, at_ c)

/-- R215: the requests with the earliest arbitration time are accepted or rejected together. Both sides keep the times accepted. -/
def State.arbitrate (s : State) (c : SideId) : State :=
  let all := [SideId.stroke, SideId.bow].flatMap (fun b => (s.side b).starter.reqs.map (fun t => (b, t, s.arbiter c b t)))
  match (all.map (fun q => q.2.2.2)).min? with
  | none => s
  | some a =>
    let hit := all.filter (fun q => q.2.2.2 == a)
    let h := hit.head?.elim c (fun q => q.2.2.1)
    if (s.side h).now < a || !(s.side h).islRuns starterSrc then s
    else
      let ok := !(s.side h).starter.accepted.any ((s.side h).holdsOff a)
      let end_ := fun (s : State) (b : SideId) => s.mod b (fun x =>
        let n := (hit.filter (fun q => q.1 == b)).length
        let x := { x with starter := { x.starter with
          reqs := x.starter.reqs.filter (fun t => !hit.any (fun q => q.1 == b && q.2.1 == t))
          accepted := if ok then a :: x.starter.accepted else x.starter.accepted } }
        if ok then x.occur .dtrig (a + keelLsb) else x.bump DTRIG_REJECT.whole n)
      end_ (end_ s .stroke) .bow

/-- DTRIG_REQUEST. -/
def execDtrigRequest (s : State) : Host.Outcome State Fault Refusal :=
  .next (match s.coxSide with
    | some c => s.arbitrate c
    | none => s)

/-! ### Detectors and stop tests (R202, R212) -/

/-- R202: the magnitude detectors of a channel take an analysis sample. -/
def Side.detect (x : Side) (c : Chan) (a : ASmp) : Side :=
  let ep := x.sampleEp c a.m
  if !x.on STARTER_STAT.RUNNING || !x.islTakes starterSrc || a.crc || a.lost || earlier ep a.t x.starter.fromEp x.starter.fromT then x
  else
    let b := (x.starter.blkAt ep a.t).force
    let m2 := (smpI a.w * smpI a.w + smpQ a.w * smpQ a.w).toNat
    (List.range 2).foldl (fun x d =>
      let i := 2 * c.n + d
      let hi := bf b (1 + i) 35 18
      let lo := bf b (1 + i) 17 0
      if !x.starter.high.contains i && m2 ≥ hi * hi then
        { x with starter := { x.starter with high := x.starter.high ++ [i] } }.occurIn (.iq c (Fin.ofNat 2 d) true) ep a.t []
      else if x.starter.high.contains i && m2 < lo * lo then
        { x with starter := { x.starter with high := x.starter.high.filter (· != i) } }.occurIn (.iq c (Fin.ofNat 2 d) false) ep a.t []
      else x) x

/-- R212: the stop test of an armed channel on a frame: NV and BFIRST of its mask, the frame's last sample and t_last. -/
def Side.stopTest (x : Side) (c : Chan) (nv bfirst mLast tl : Nat) : Side :=
  match (x.acqOf c).armed with
  | none => x
  | some r =>
    if lget r.stop 0 0 != 1 || x.starter.spent.contains c.n || mLast < r.armM || nv < lget r.stop 2 0
        || r.stopM.any (fun u => decide (mLast ≥ u)) || !x.islTakes starterSrc then x
    else
      let info := bfirst % 2 ^ 16 * 2 ^ 17 + nv
      let x := x.acceptTrig c mLast (mLast + lget r.stop 3 0) (trigWords (2 * 2 ^ 34) 0 tl info (x.trigNumOf c))
      let x := { x with starter := { x.starter with spent := c.n :: x.starter.spent } }
      let x := (x.setPair (STOP_TIME_LO.whole c.n).idx tl).setReg (STOP_INFO.whole c.n).idx
        (wordN (2 ^ 35 + lget r.stop 1 0 * 2 ^ 33 + info))
      let x := x.event 0x04 x.now c.n (tl % 2 ^ 36 : Nat)
      x.pulse (x.sampleEp c mLast) tl (fun p => toSrc x.stBlk p c.n)

/-! ### The STARTER block (R219) -/

/-- Instants that only a FORCE keeps. -/
def forcedOnly (l : List Inst) : List Inst :=
  (l.map (fun (i : Inst) => { i with occ := [], latched := [], last := [] })).filter (fun i => !i.force.isEmpty)

/-- The program starts. -/
def Side.startProgram (x : Side) (b : List Word) (t : Nat) : Side :=
  let h := x.horizon b x.laneMhz
  let st := x.starter
  let x := { x with starter := { st with
    block := b, force := b, next := [], h := h, dTo := trigoutDelay h, steps := [], fromEp := st.ep, fromT := t, timers := [none, none, none, none], high := [],
    insts := forcedOnly st.insts } }
  let x := (List.range 4).foldl (fun x k => x.set (STARTER_CNT.whole k) 0) x
  (((x.raise STARTER_STAT.RUNNING).set STARTER_STAT.STATE (stRestart b)).put STARTER_STAT.TO_LATE (h > 1200)).set STARTER_STAT.H_NS h

/-- The program stops: undecided occurrences are discarded. -/
def Side.stopProgram (x : Side) (b : List Word) : Side :=
  let st := x.starter
  let x := { x with starter := { st with
    block := b, next := [], insts := forcedOnly st.insts, timers := [none, none, none, none] } }
  x.drop STARTER_STAT.RUNNING

/-- R219: CONFIGURE of the STARTER block takes effect at instant t. -/
def effStarter (sd : SideId) (st : Staged) (t : Nat) (s : State) : State :=
  let x := s.side sd
  let b := blkKeep stMasks st.words
  let was := x.on STARTER_STAT.RUNNING
  let start := !was && stRun b
  let ok := fun (x : Side) => (s.setSide sd x).complete sd st stOK t 0 0
  if start && [Chan.c0, Chan.c1].any (fun c => stUsesIq b c.n && !x.on (FE_STAT.RUNNING c.n)) then s.refuse sd st stFeStopped
  else if start && [Chan.c0, Chan.c1].any (fun c => (stUsesFreq b c.n || stStopEn b c.n) && !x.on (PP_STAT.RUNNING c.n))
  then s.refuse sd st stPpStopped
  else if x.starterBad b then s.refuse sd st stBadParam
  else if start then ok (x.startProgram b t)
  else if was && !stRun b then
    if x.armed .c0 || x.armed .c1 then s.refuse sd st stChannelActive else ok (x.stopProgram b)
  else if was then
    if x.horizon b x.laneMhz != x.starter.h then s.refuse sd st stStarterRunning
    else ok { x with starter := { x.starter with block := b, next := x.starter.next ++ [(x.starter.ep, t, b)] } }
  else ok { x with starter := { x.starter with block := b } }

end Sys2Proof.Machine
end

