-- ==== Sys2Proof/Machine/Rings.lean ====
section
/-! DEFINITION. The rings a side writes (R262 to R267, R276, R281): their registers, the engine's half of the doorbell page,
moderated interrupts, and ring errors. An out-ring is named by a number: 0 to 7 completion rings, 8 the event ring, 9 to 24
stream rings. -/

namespace Sys2Proof.Machine

/-- Register index of an out-ring's configuration. -/
def outCfgIdx (n : Nat) : Nat :=
  if n < 8 then (CQ_CFG.whole n).idx else if n == 8 then EVQ_CFG.whole.idx else (STRQ_CFG.whole (n - 9)).idx

/-- Register index of an out-ring's base. -/
def outBaseIdx (n : Nat) : Nat :=
  if n < 8 then (CQ_BASE_LO.whole n).idx else if n == 8 then EVQ_BASE_LO.whole.idx else (STRQ_BASE_LO.whole (n - 9)).idx

/-- Byte offset of an out-ring's engine index in the doorbell page (R264). -/
def outIndexAt (n : Nat) : Nat := if n < 8 then 0x840 + 8 * n else if n == 8 then 0x880 else 0x900 + 8 * (n - 9)

/-- The configuration word of an out-ring (R289). -/
def Side.outCfg (x : Side) (n : Nat) : Nat := (x.reg (outCfgIdx n)).toNat

/-- Entries of an out-ring. -/
def Side.outSize (x : Side) (n : Nat) : Nat := 2 ^ bitsOf (x.outCfg n) 34 31

/-- An out-ring's indexes and moderation. -/
def Side.outRing (x : Side) (n : Nat) : OutRing :=
  if n < 8 then lget x.host.cq n OutRing.init else if n == 8 then x.host.evq else lget x.host.strq (n - 9) OutRing.init

/-- An out-ring replaced. -/
def Side.setOutRing (x : Side) (n : Nat) (r : OutRing) : Side :=
  let h := x.host
  { x with host := if n < 8 then { h with cq := lset h.cq n r } else if n == 8 then { h with evq := r }
    else { h with strq := lset h.strq (n - 9) r } }

/-- The error bit of an out-ring (R267). -/
def outErr (n : Nat) : Fld × Nat :=
  if n < 8 then (RING_ERR.CQ_ERR, n) else if n == 8 then (RING_ERR.EVQ_ERR, 0) else (RING_ERR.STRQ_ERR, n - 9)

/-- An out-ring is enabled and not stopped. -/
def Side.outOn (x : Side) (n : Nat) : Bool :=
  bitAt (x.outCfg n) 35 && !bitAt (x.get (outErr n).1) (outErr n).2

/-- An 8-byte engine index is written into the doorbell page (R264). -/
def State.putIndex (s : State) (sd : SideId) (off v : Nat) : State :=
  s.dmaWrite sd ((s.side sd).pair DB_PAGE_LO.whole.idx + off) (bytesOf 8 v)

/-- R281: an out-ring signals: its count and timer restart. -/
def State.ringSignal (s : State) (sd : SideId) (n : Nat) : State :=
  let x := s.side sd
  (s.setSide sd (x.setOutRing n { x.outRing n with count := 0 })).signal sd (bitsOf (x.outCfg n) 30 26)

/-- R281: an out-ring has written an entry (or closed a buffer): it signals at MOD_COUNT entries or for an entry of the third
kind, else its timer runs. -/
def State.ringWrote (s : State) (sd : SideId) (n : Nat) (third : Bool) : State :=
  let x := s.side sd
  let r := x.outRing n
  let mc := bitsOf (x.outCfg n) 25 18
  if third || (mc != 0 && r.count + 1 ≥ mc) then s.ringSignal sd n
  else s.setSide sd (x.setOutRing n { r with count := r.count + 1 })

/-- R267: a ring is stopped; `num` is its number in RING_ERROR (R280). -/
def Side.stopRing (x : Side) (f : Fld) (i num cause : Nat) : Side :=
  if bitAt (x.get f) i then x else (x.orBit f i).event 0x10 x.now num cause

/-- Words as bytes of the dense packing, and back: 9 bytes hold 2 words (R251). -/
def unpackDense : Nat → List Byte → List Word
  | 0, _ => []
  | n + 1, bs =>
    let v := numOf (bs.take 9)
    wordN v :: wordN (v / 2 ^ 36) :: unpackDense n (bs.drop 9)

/-- A word of a memory as last written, waiting writes included. -/
def Side.peek (x : Side) (k : MemSel) (addr : Nat) : Word :=
  ((x.memOf k).buf.filter (fun e => e.blk == addr / k.n)).foldl (fun w e => (aget e.words (addr % k.n)).getD w) (wget (x.memOf k).words addr)

end Sys2Proof.Machine
end

