-- ==== Sys2Proof/Machine/Streams.lean ====
section
/-! DEFINITION. The stream formatter (R235 to R243): items from the sources, packets, host buffers, the spill, gaps, and the
commands STREAM_START and STREAM_STOP. -/

namespace Sys2Proof.Machine

/-! ### FLAGS (R238), counted from bit 16 -/

def flStart := 2 ^ 0
def flEnd := 2 ^ 1
def flGap := 2 ^ 2
def flUnsynced := 2 ^ 3
def flIngest := 2 ^ 4
def flRecomp := 2 ^ 5
def flVoid := 2 ^ 6
def flPoison := 2 ^ 7
def flTruncated := 2 ^ 8
def flSrcStopped := 2 ^ 9
def flSpilled := 2 ^ 10
def flStopEnd := 2 ^ 11

/-- FLAGS of marks. -/
def flMarks (unsynced ingest recomp void : Bool) : Nat :=
  b2n unsynced * flUnsynced + b2n ingest * flIngest + b2n recomp * flRecomp + b2n void * flVoid

/-- The source ID of the stream formatter, without the side bit. -/
def fmtSrc : Nat := srcOf 4 2 0

/-- A stream ring's binding. -/
def Side.strmOf (x : Side) (r : Nat) : Strm := lget x.strm r Strm.init

/-- A stream ring's binding replaced; its status registers follow. -/
def Side.setStrm (x : Side) (r : Nat) (t : Strm) : Side :=
  let x := { x with strm := lset x.strm r t }
  let used := t.spill.foldl (fun a p => a + (64 + (p.bytes.length + 63) / 64 * 64)) 0
  (((x.put (STREAM_STAT.BOUND r) t.bound).set (STREAM_STAT.SOURCE r) (if t.bound then t.source else 0)).put
    (STREAM_STAT.SPILLING r) (!t.spill.isEmpty)).set (STREAM_SPILL.whole r) ((2 * used + 8) / 9)

/-! ### Items -/

/-- Items offered to every stream that a condition selects, each from its own binding. While the formatter takes none, or an island of
the channel's ingest, they are lost (R16, R18); a record comes from DRAM. -/
def Side.offer (x : Side) (p : Strm → Bool) (f : Strm → List Item) : Side :=
  { x with strm := x.strm.map (fun t =>
      if t.bound && t.endFlag != flSrcStopped && p t then
        let lost := !x.islTakes fmtSrc || (t.source != 4 && !x.ingestOpen t.ch)
        { t with items := t.items ++ (f t).map (fun i => if lost then { i with words := [] } else i) }
      else t) }

/-- R18: a channel's images in the making are lost while an island that forms them is quiesced; each stream counts one item for the
interval (assumption log 131: DESIGN CHOICE). -/
def Side.loseImages (x : Side) (p : Strm → Bool) (time : Nat) : Side :=
  x.offer (fun t => p t && !(match t.items.getLast? with
    | some i => i.words.isEmpty
    | none => t.gap.isSome)) (fun _ => [⟨time, flEnd, 0, []⟩])

/-- A race time lies within a stream's bounds. -/
def Strm.takes (t : Strm) (ref : Nat) : Bool := ref ≥ t.fromT && t.stopT.all (fun u => decide (ref < u))

/-- An analysis sample of a channel (source IQ). -/
def Side.offerIq (x : Side) (c : Chan) (a : ASmp) : Side :=
  let fl := flMarks (x.on RT_STAT.UNSYNCED) (a.crc || a.lost) false false
  x.offer (fun t => t.source == 0 && t.ch == c && t.takes a.t) (fun _ => [⟨a.t, fl, 0, [a.w]⟩])

/-- R236: a source of a channel stops: the streams bound to it get a last packet with SRC_STOPPED. -/
def Side.srcStop (x : Side) (c : Chan) (src : Nat) : Side :=
  (List.range 16).foldl (fun x r =>
    let t := x.strmOf r
    if t.bound && t.source == src && t.ch == c && t.endFlag != flSrcStopped then
      ({ x with strm := lset x.strm r { t with endFlag := if t.ended then t.endFlag else flSrcStopped } }).raise (STREAM_STAT.SRC_STOPPED r)
    else x) x

/-- The frame of a channel that its post-processor takes next. -/
def Side.nextPp (x : Side) (c : Chan) : Nat :=
  let xf := x.xfOf c
  match xf.released, xf.flight with
  | b :: _, _ => b.k
  | [], f :: _ => f.k
  | [], [] => xf.kNext

/-- t_last of frame k of a channel (R77). -/
def Side.tLastOf (x : Side) (c : Chan) (k : Nat) : Nat :=
  let fe := x.feOf c
  x.tSample c (fe.m0 + k * fe.gridStep + 2 ^ fe.gridP - 1)

/-- Race time of the first sample of frame k of a channel. -/
def Side.tFirstOf (x : Side) (c : Chan) (k : Nat) : Nat := x.tSample c ((x.feOf c).m0 + k * (x.feOf c).gridStep)

/-- The last sample of frame k. -/
def Side.frameEnd (x : Side) (c : Chan) (k : Nat) : Nat :=
  let fe := x.feOf c
  fe.m0 + k * fe.gridStep + 2 ^ fe.gridP - 1

/-- The first sample of a trigger's record or segment (R224, R228). -/
def Rec.firstOf (r : Rec) (g : Trig) (last : Nat) : Nat :=
  if lget r.stop 0 0 == 1 then last + 1 - min (bw r.block 5) (last + 1 - r.mA) else g.mT - rcPre r.block

/-- The least trigger sample that a GO, or the stop test of a frame, not yet decided can still have. -/
def Side.earliestTrig (x : Side) (c : Chan) (r : Rec) : Nat :=
  if lget r.stop 0 0 == 1 && x.on (PP_STAT.RUNNING c.n) then x.frameEnd c (x.nextPp c)
  else x.sampleAt c (x.now - x.hLsb)

/-- The armed record of a channel may still give a record or segment whose T_FIRST lies before race time u (R236, R238). -/
def Side.recAhead (x : Side) (c : Chan) (u : Nat) : Bool :=
  match (x.acqOf c).armed with
  | none => false
  | some r =>
    let first := match r.trigs[r.segs.length]? with
      | some g => r.firstOf g (min g.mLast (r.stopM.getD (g.mLast + 1) - 1))
      | none =>
        let mT := x.earliestTrig c r
        r.firstOf ⟨mT, mT, []⟩ (mT + (if lget r.stop 0 0 == 1 then lget r.stop 3 0 else 0))
    decide (x.tSample c first < u)

/-- The image in progress of a slot, or pair of frames, may still have its T_FIRST before race time u. -/
def Side.imageAhead (x : Side) (c : Chan) (slot u : Nat) : Bool :=
  let pp := x.ppOf c
  if slot < 6 then
    let sl := lget pp.slots slot Slot.init
    sl.on && (sl.frames != 0 && sl.tFirst < u || x.tFirstOf c (x.nextPp c) < u)
  else
    x.on (PP_STAT.XS_RUNNING c.n) && (pp.xs.frames != 0 && pp.xs.tFirst < u || pp.xs.own.any (fun f => f.tf < u)
      || x.tFirstOf c (x.nextPp c) < u)

/-- The period in progress of the density engine may still have its T_FIRST before race time u. -/
def Side.densAhead (x : Side) (c : Chan) (u : Nat) : Bool :=
  let d := lget x.dens c.n Dens.init
  x.on (DENS_STAT.RUNNING c.n) && (d.count != 0 && d.tFirst < u || d.queue.any (fun f => f.tf < u) || x.tFirstOf c (x.nextPp c) < u)

/-- No item of a stream can come any more: its source has stopped, or every item still to come has its race time (R238) at or after the
stop's boundary. -/
def Side.srcPast (x : Side) (t : Strm) : Bool :=
  t.endFlag == flSrcStopped ||
  match t.stopT with
  | none => false
  | some u =>
    match t.source with
    | 0 => !x.on (FE_STAT.RUNNING t.ch.n) || x.tSample t.ch (x.feOf t.ch).m ≥ u
    | 1 => !x.on (XF_STAT.RUNNING t.ch.n) || x.tLastOf t.ch (x.nextPp t.ch) ≥ u
    | 2 => !x.on (PP_STAT.RUNNING t.ch.n) || !x.imageAhead t.ch t.slot u
    | 3 => !x.densAhead t.ch u
    | _ => !t.recHead && !x.recAhead t.ch u

/-! ### Packets (R238, R239) -/

/-- A component scaled by a power of two and clamped. -/
def narrow (bits shift : Nat) (v : Int) : Nat := ux bits (satS bits (rheP v shift))

/-- Payload bytes of words in a packing code. -/
def payload (pack : Nat) (ws : List Word) : List Byte :=
  match pack with
  | 0 => packBytes false ws
  | 1 => packBytes true ws
  | 2 => ws.flatMap (fun w => bytesOf 3 (narrow 12 6 (smpI w) * 2 ^ 12 + narrow 12 6 (smpQ w)))
  | _ => ws.flatMap (fun w => bytesOf 4 (narrow 16 2 (smpI w) * 2 ^ 16 + narrow 16 2 (smpQ w)))

/-- Word 4 of a record header: the sample-rate descriptor (R231). -/
def Side.rateWord (x : Side) (c : Chan) : Nat :=
  x.get (JESD_LEMC_INFO.CYCLES c.n) * 2 ^ 18 + x.get (JESD_LEMC_INFO.SAMPLES c.n)

/-- Whether the input is real, and d, at word 5 of a record header. -/
def Side.rateReal (x : Side) (c : Chan) : Nat := b2n (!x.on (JESD_CFG.CPLX c.n))

/-- AUX of an IQ packet. -/
def Side.iqAux (x : Side) (c : Chan) : Nat :=
  x.rateWord c + x.rateReal c * 2 ^ 36 + feDecim (x.feOf c).force * 2 ^ 37

/-- A packet as it lies in a buffer or in the spill. -/
def Packet.image (p : Packet) (r pack source : Nat) : List Byte :=
  let q0 := p.bytes.length * 2 ^ 32 + p.flags * 2 ^ 16 + r * 2 ^ 12 + pack * 2 ^ 8 + source
  [q0, p.seq, p.time / 2 ^ 36, p.time % 2 ^ 36, p.index, p.lost, p.aux, 0].flatMap (bytesOf 8)
    ++ p.bytes ++ List.replicate ((64 - p.bytes.length % 64) % 64) 0

/-- Bytes of a packet with its header and padding. -/
def Packet.size (p : Packet) : Nat := 64 + (p.bytes.length + 63) / 64 * 64

/-- A packet of items, its number not yet given. -/
def packetOf (t : Strm) (items : List Item) (flags aux n : Nat) : Packet where
  flags := Nat.lor flags (items.foldl (fun a i => Nat.lor a i.flags) 0)
  seq := 0
  time := items.head?.elim 0 (·.time)
  index := t.index
  lost := 0
  aux := aux
  items := n
  bytes := payload t.pack (items.flatMap (·.words))

/-- Items of a unit packet as they count: an image or record counts once, with its last packet. -/
def Strm.unitCount (t : Strm) (i : Item) : Nat :=
  if t.source < 3 then 1 else b2n (bitAt i.flags 1)

/-- R236: the last packet of a stream that ends. -/
def Strm.endPacket (t : Strm) (items : List Item) (aux : Nat) : Packet × Strm :=
  let n := items.foldl (fun a i => a + t.unitCount i) 0
  let p := packetOf t items t.endFlag aux n
  ({ p with time := items.head?.elim (t.stopT.getD 0) (·.time) }, { t with items := t.items.drop items.length, ended := true, index := t.index + n })

/-- The next packet of an IQ stream. -/
def Strm.iqPacket (t : Strm) (past : Bool) (aux : Nat) : Option (Packet × Strm) :=
  let n := 2 ^ t.pktLog2
  let run := t.items.takeWhile (fun i => !i.words.isEmpty)
  let more := run.length < t.items.length
  let fin := past && !more && !t.ended && t.endFlag != 0
  if run.length > n || (run.length == n && !fin) || (more && !run.isEmpty) then
    let is := run.take n
    some (packetOf t is 0 aux is.length, { t with items := t.items.drop is.length, index := t.index + is.length })
  else if fin then some (t.endPacket run aux) else none

/-- The next packet of a stream whose items are packets. -/
def Strm.unitPacket (t : Strm) (past : Bool) : Option (Packet × Strm) :=
  let fin := past && !t.ended && t.endFlag != 0
  match t.items with
  | [] => if fin then some (t.endPacket [] 0) else none
  | i :: rest =>
    if rest.isEmpty && fin then some (t.endPacket [i] i.recn)
    else
      let n := t.unitCount i
      some (packetOf t [i] 0 i.recn n, { t with items := rest, index := t.index + n })

/-! ### DRAIN (R230) -/

/-- INGEST, UNSYNCED, RECOMP and VOID over samples first … last and lines that end there. -/
def Rec.flagsIn (r : Rec) (first last : Nat) : Bool × Bool × Bool × Bool :=
  let ms := r.marks.filter (fun p => decide (first ≤ p.1 ∧ p.1 ≤ last))
  let ls := r.lineMarks.filter (fun p => decide (first ≤ p.1 ∧ p.1 ≤ last))
  (ms.any (·.2.1) || ls.any (·.2.1), ms.any (·.2.2), ls.any (·.2.2.1), ls.any (·.2.2.2))

/-- FLAGS of a complete record or segment: those of its header, or of its segment table entry (R231). -/
def recFlags (entry : Bool) (w0 : Word) : Nat :=
  let v := w0.toNat
  if entry then flMarks (bitAt v 32) (bitAt v 31) (bitAt v 30) (bitAt v 29) + b2n (bitAt v 33) * flPoison
  else flMarks (bitAt v 29) (bitAt v 28) (bitAt v 27) (bitAt v 26) + b2n (bitAt v 31) * flPoison + b2n (bitAt v 33) * flTruncated

/-- The armed or last record of a channel that a stream drains: block, m_A, end of the samples written, m_first and m_last if it
was triggered, whether it is complete, and FLAGS of its marks so far. -/
structure Drain where
  num   : Nat
  block : List Word
  mA    : Nat
  upTo  : Nat
  span  : Option (Nat × Nat)
  done  : Bool
  marks : Nat
  deriving DecidableEq, Repr

/-- The record of a channel that has a number, if it is armed or the last one. -/
def Side.drainOf (x : Side) (c : Chan) (num : Nat) : Option Drain :=
  let a := x.acqOf c
  match a.armed with
  | some r =>
    if r.num == num && rcDrain r.block then
      let span := (r.trigs.head?).map (fun g => (g.mT - rcPre r.block, g.mLast))
      let f := span.elim (false, false, false, false) (fun p => r.flagsIn p.1 (r.next - 1))
      some ⟨num, r.block, r.mA, r.next, span, false,
        flMarks f.2.1 f.1 false false + b2n r.poison * flPoison + b2n r.truncated.isSome * flTruncated⟩
    else none
  | none =>
    match a.last with
    | some d =>
      if d.num == num && rcDrain d.block then
        let g := d.segs.head?
        some ⟨num, d.block, d.mA, g.elim d.mA (·.last + 1), g.map (fun g => (g.first, g.last)), true, recFlags false (lget a.hdr 0 0)⟩
      else none
    | none => none

/-- Samples m … m + n − 1 out of slot 0 of a record's ring, and poisoned blocks met (R222); a block that both ends of the span lie in
counts once. -/
def Side.ringRead (x : Side) (b : List Word) (mA slot m n : Nat) : Side × List Word × Nat :=
  let sw := max 1 (segW b)
  let base := bw b 4 + slot * sw
  let o := (m - mA) % sw
  let k := min n (sw - o)
  let r1 := x.readRange .dram (base + o) k
  let r2 := r1.1.readRange .dram base (n - k)
  let twice := k < n && (base + (n - k) - 1) / 16 == (base + o) / 16 && (aget r2.1.dram.mem.poison ((base + o) / 16)).isSome
  (r2.1, r1.2.1 ++ r2.2.1, r1.2.2 + r2.2.2 - b2n twice)

/-- The next packet of a RECORD stream in DRAIN mode: the header, samples, and a last one with END, which a stop makes the stream's
last. Samples wait while a DRAM channel is in self-refresh (R311). -/
def Side.drainPacket (x : Side) (t : Strm) (d : Drain) : Option (Side × Packet × Strm) :=
  let n := 2 ^ t.pktLog2
  let fin := if t.stopT.isSome then t.endFlag else 0
  let next := fun (t : Strm) => { t with recNum := none, recHead := false, index := t.index + 1, ended := t.stopT.isSome }
  match d.span with
  | none =>
    if d.done then
      some (x, packetOf t [⟨0, flStart + flEnd + d.marks, d.num, (x.acqOf t.ch).hdr⟩] fin d.num 1, next t)
    else none
  | some (first, last) =>
    if !t.recHead then
      some (x, packetOf t [⟨x.tSample t.ch first, flStart + d.marks, d.num, (x.acqOf t.ch).hdr⟩] 0 d.num 0, { t with recHead := true, recNext := first })
    else if x.anyAsleep then none
    else
      let avail := min d.upTo (last + 1) - t.recNext
      let out := fun (k fl cnt : Nat) (t' : Strm) =>
        let r := x.ringRead d.block d.mA 0 t.recNext k
        some (r.1, packetOf t [⟨x.tSample t.ch first, Nat.lor d.marks (if r.2.2 == 0 then 0 else flPoison), d.num, r.2.1⟩] fl d.num cnt, t')
      if avail > n || (avail == n && !d.done) then out n 0 0 { t with recNext := t.recNext + n }
      else if d.done then out avail (flEnd + fin) 1 (next t)
      else none

/-- A stream that is being stopped still drains a record: it has begun, or the record's T_FIRST lies before the boundary. -/
def Side.drains (x : Side) (t : Strm) (d : Drain) : Bool :=
  t.recHead || t.stopT.all (fun u => d.span.elim d.done (fun p => decide (x.tSample t.ch p.1 < u)))

/-- The next packet of a bound stream ring, the side after reading it, and the binding once it is taken. -/
def Side.nextPacket (x : Side) (r : Nat) : Option (Side × Packet × Strm) :=
  let t := x.strmOf r
  let past := x.srcPast t
  if !t.bound then none
  else if t.source == 0 then (t.iqPacket past (x.iqAux t.ch)).map (fun q => (x, q))
  else if t.source == 4 && t.items.isEmpty then
    match (t.recNum.bind (x.drainOf t.ch)).filter (x.drains t) with
    | some d => x.drainPacket t d
    | none => (t.unitPacket past).map (fun q => (x, q))
  else (t.unitPacket past).map (fun q => (x, q))

/-! ### Buffers (R237) -/

/-- Quadword 1 of the open descriptor is written back and its buffer is closed. -/
def State.writeBack (s : State) (sd : SideId) (r q1 : Nat) : State :=
  let x := s.side sd
  let o := x.outRing (9 + r)
  let a := x.pair (outBaseIdx (9 + r)) + 16 * (o.ci % x.outSize (9 + r)) + 8
  let s := (s.dmaWrite sd a (bytesOf 8 q1)).mod sd (fun x => x.setOutRing (9 + r) { o with ci := o.ci + 1 })
  (s.putIndex sd (outIndexAt (9 + r)) (o.ci + 1)).ringWrote sd (9 + r) false

/-- The open buffer of a stream ring is closed. -/
def State.closeBuf (s : State) (sd : SideId) (r : Nat) : State :=
  let t := (s.side sd).strmOf r
  match t.buf with
  | some (_, _, used, n) =>
    (s.mod sd (fun x => x.setStrm r { t with buf := none })).writeBack sd r (used + n % 2 ^ 16 * 2 ^ 32 + 2 ^ 63)
  | none => s

/-- How an attempt to place a packet ended. -/
inductive Placed where
  | done | noRoom | small
  deriving DecidableEq, Repr

/-- A packet's bytes go into the open buffer, or into the next one posted; `desc` is what the read of its descriptor brought, and
a failed read stops the ring (R267). -/
def State.place (s : State) (sd : SideId) (r : Nat) (hostOk : Bool) (desc : Option (BitVec 64 × BitVec 32)) (bs : List Byte) :
    State × Placed :=
  let put := fun (s : State) (addr len used n : Nat) =>
    (s.dmaWrite sd (addr + used) bs).mod sd (fun x => x.setStrm r { x.strmOf r with buf := some (addr, len, used + bs.length, n + 1) })
  if !hostOk || !s.dmaOpen sd || !(s.side sd).islRuns fmtSrc then (s, .noRoom)
  else
    match ((s.side sd).strmOf r).buf with
    | some (addr, len, used, n) =>
      if used + bs.length ≤ len then (put s addr len used n, .done) else (s.closeBuf sd r, .small)
    | none =>
      let x := s.side sd
      let o := x.outRing (9 + r)
      if !x.outOn (9 + r) || o.pi == o.ci then (s, .noRoom)
      else
        match desc with
        | none => (s.setSide sd (x.stopRing RING_ERR.STRQ_ERR r (17 + r) 2), .noRoom)
        | some (addr, len) =>
          if len.toNat < bs.length then
            ((s.mod sd (fun x => x.raise (STREAM_STAT.SMALL_SEEN r))).writeBack sd r (2 ^ 48 + 2 ^ 63), .small)
          else (put s addr.toNat len.toNat 0 0, .done)

/-- As `place`, once more after a full buffer was closed. -/
def State.placeNext (s : State) (sd : SideId) (r : Nat) (hostOk : Bool) (desc : Option (BitVec 64 × BitVec 32)) (bs : List Byte) :
    State × Placed :=
  let open_ := ((s.side sd).strmOf r).buf.isSome
  let q := s.place sd r hostOk desc bs
  if open_ && q.2 == .small then q.1.place sd r hostOk desc bs else q

/-! ### The spill (R240) -/

/-- Bytes a spill holds at most. -/
def Strm.spillCap (t : Strm) : Nat := t.spillLen / 2 * 9

/-- Bytes in the spill. -/
def Strm.spillUsed (t : Strm) : Nat := t.spill.foldl (fun a p => a + p.size) 0

/-- Bytes written at a byte offset of a region that is packed 9 bytes to 2 words, without wrap. -/
def Side.putDense (x : Side) (base off : Nat) (bs : List Byte) : Side :=
  if bs.isEmpty then x
  else
    let p0 := off / 9
    let n := (off + bs.length - 1) / 9 + 1 - p0
    let old := packBytes true ((List.range (2 * n)).map (fun i => x.peek .dram (base + 2 * p0 + i)))
    let new := old.take (off - 9 * p0) ++ bs ++ old.drop (off - 9 * p0 + bs.length)
    x.writeRange .dram portSpill (base + 2 * p0) (unpackDense n new)

/-- Bytes read at a byte offset of such a region, and whether a poisoned block was met. -/
def Side.getDense (x : Side) (base off n : Nat) : Side × List Byte × Bool :=
  if n == 0 then (x, [], false)
  else
    let p0 := off / 9
    let k := (off + n - 1) / 9 + 1 - p0
    let r := x.readRange .dram (base + 2 * p0) (2 * k)
    (r.1, ((packBytes true r.2.1).drop (off - 9 * p0)).take n, r.2.2 != 0)

/-- A packet enters the spill. -/
def Side.spillPut (x : Side) (r : Nat) (p : Packet) : Side :=
  let t := x.strmOf r
  let bs := p.image r t.pack t.source
  let k := min bs.length (t.spillCap - t.spillW)
  let x := (x.putDense t.spillBase t.spillW (bs.take k)).putDense t.spillBase 0 (bs.drop k)
  x.setStrm r { t with spill := t.spill ++ [p], spillW := (t.spillW + bs.length) % max 1 t.spillCap }

/-- A numbered packet is accepted: directly while the spill is empty, else into the spill, 64 bytes of which stay free for a gap
marker. A RECORD stream only waits (R241). -/
def State.accept (s : State) (sd : SideId) (r : Nat) (hostOk : Bool) (desc : Option (BitVec 64 × BitVec 32)) (p : Packet) :
    State × Placed :=
  let t := (s.side sd).strmOf r
  let p := { p with seq := t.seq }
  let made := fun (s : State) (direct : Bool) => s.mod sd (fun x =>
    let t := x.strmOf r
    let x := x.setStrm r { t with seq := t.seq + 1, sent := t.sent + b2n direct }
    let x := x.set (STREAM_SEQ.whole r) (p.seq % 2 ^ 36)
    if p.flags / flGap % 2 == 1 then (x.raise (STREAM_STAT.GAP_SEEN r)).setStrm r { x.strmOf r with gap := none } else x)
  let q := if t.spill.isEmpty then s.placeNext sd r hostOk desc (p.image r t.pack t.source) else (s, .noRoom)
  match q.2 with
  | .done => (made q.1 true, .done)
  | .small => q
  | .noRoom =>
    let t := (q.1.side sd).strmOf r
    let keep := if p.flags / flGap % 2 == 1 then 0 else 64
    if t.source != 4 && t.spillUsed + p.size + keep ≤ t.spillCap then
      (made (q.1.mod sd (fun x => x.spillPut r p)) false, .done)
    else q

/-- The gap marker of a run of lost items. -/
def gapPacket (g : Nat × Nat × Nat) : Packet := ⟨flGap, 0, g.1, g.2.1, g.2.2, 0, 0, []⟩

/-- Items are lost: they join the run that waits for a marker. -/
def Side.lose (x : Side) (r : Nat) (t : Strm) (time index n : Nat) : Side :=
  let g := match t.gap with
    | some (u, i, k) => (u, i, k + n)
    | none => (time, index, n)
  (x.setStrm r { t with gap := some g, lost := t.lost + n }).bump (STREAM_LOST.whole r) n

/-- Items that were lost on their way leave the head of the queue. -/
def Side.skipLost (x : Side) (r : Nat) : Side :=
  let t := x.strmOf r
  let l := t.items.takeWhile (fun i => i.words.isEmpty)
  match l with
  | [] => x
  | i :: _ =>
    let n := l.foldl (fun a i => a + t.unitCount i) 0
    x.lose r { t with items := t.items.drop l.length, index := t.index + n } i.time t.index n

/-- STREAM_PACKET (R240): the next packet of a ring, with the marker of a run of lost items before it, goes to the host, to the spill, or
is dropped and joins the run. -/
def State.streamPacket (s : State) (sd : SideId) (r : Nat) (hostOk : Bool) (desc : Option (BitVec 64 × BitVec 32)) : State :=
  let x := (s.side sd).skipLost r
  match x.nextPacket r with
  | none => s.setSide sd x
  | some (x', p, t') =>
    let s := s.setSide sd x'
    let q := match (x.strmOf r).gap with
      | some g => s.accept sd r hostOk desc (gapPacket g)
      | none => (s, .done)
    let q := if q.2 == .done then q.1.accept sd r hostOk desc p else q
    let take := fun (s : State) => s.mod sd (fun x =>
      let t := x.strmOf r
      x.setStrm r { t with items := t'.items, index := t'.index, ended := t'.ended, recNum := t'.recNum, recHead := t'.recHead, recNext := t'.recNext })
    match q.2 with
    | .done => take q.1
    | .small => q.1
    | .noRoom =>
      let u := x.strmOf r
      let n := if u.source == 3 then (if u.gap.isNone then 1 else b2n (bitAt p.flags 0)) else p.items
      if u.source == 4 then q.1
      else if t'.ended && n == 0 then s
      else
        let s := (take s).mod sd (fun x => x.setStrm r { x.strmOf r with ended := u.ended })
        if n == 0 then s else s.mod sd (fun x => x.lose r (x.strmOf r) p.time p.index n)

/-- STREAM_PACKET. -/
def execStreamPacket (sd : SideId) (r : Fin 16) (hostOk : Bool) (desc : Option (BitVec 64 × BitVec 32)) (s : State) :
    Host.Outcome State Fault Refusal :=
  .next (s.streamPacket sd r.val hostOk desc)

/-- R322: what a spilled packet that is read back becomes: itself with SPILLED, or over a poisoned block the marker of its items. -/
def Packet.unspilled (p : Packet) (body : List Byte) (poison : Bool) : Packet :=
  if poison && p.flags / flGap % 2 == 0 then { gapPacket (p.time, p.index, p.items) with flags := flGap + flSpilled, seq := p.seq, items := p.items }
  else { p with bytes := if poison then [] else body, flags := Nat.lor p.flags flSpilled }

/-- SPILL_DRAIN (R240): the oldest spilled packet is read back from DRAM and delivered. Its poisoned items are lost (R322). -/
def State.spillDrain (s : State) (sd : SideId) (r : Nat) (hostOk : Bool) (desc : Option (BitVec 64 × BitVec 32)) : State :=
  let t := (s.side sd).strmOf r
  match t.spill with
  | [] => s
  | p :: rest =>
    let k := min p.size (t.spillCap - t.spillR)
    let g1 := (s.side sd).getDense t.spillBase t.spillR k
    let g2 := g1.1.getDense t.spillBase 0 (p.size - k)
    let bad := g1.2.2 || g2.2.2
    let p' := p.unspilled (((g1.2.1 ++ g2.2.1).drop 64).take p.bytes.length) bad
    let q := (s.setSide sd g2.1).placeNext sd r hostOk desc (p'.image r t.pack t.source)
    if q.2 == .done then q.1.mod sd (fun x =>
      let t := x.strmOf r
      let n := if bad && p.flags / flGap % 2 == 0 then p.items else 0
      let x := x.setStrm r { t with spill := rest, spillR := (t.spillR + p.size) % max 1 t.spillCap, sent := t.sent + 1, lost := t.lost + n }
      if p'.flags / flGap % 2 == 1 && p.flags / flGap % 2 == 0 then (x.bump (STREAM_LOST.whole r) n).raise (STREAM_STAT.GAP_SEEN r) else x)
    else q.1

/-- SPILL_DRAIN. -/
def execSpillDrain (sd : SideId) (r : Fin 16) (hostOk : Bool) (desc : Option (BitVec 64 × BitVec 32)) (s : State) :
    Host.Outcome State Fault Refusal :=
  .next (if (s.side sd).anyAsleep then s else s.spillDrain sd r.val hostOk desc)

/-! ### STREAM_START and STREAM_STOP (R235, R236) -/

/-- R235: a field of STREAM_START is out of range, or SPECTRA bins are in the wrong order. -/
def streamBad (e : CmdEntry) : Bool :=
  let src := bitsOf e.op4 7 4
  let pack := bitsOf e.op4 10 9
  let pkt := bitsOf e.op4 14 11
  let div := bitsOf e.op4 22 15
  src > 4 || (if src == 0 then pack == 0 else pack ≥ 2)
    || ((src == 0 || src == 4) && (pkt < 8 || pkt > 14)) || (src == 3 && (pkt < 10 || pkt > 14))
    || (src == 1 && div > 16) || ((src == 0 || src == 4) && div != 0)
    || (src == 1 && bitsOf e.op5 31 16 > bitsOf e.op5 15 0)
    || e.op6 % 16 != 0 || (e.op7 != 0 && (e.op7 % 16 != 0 || e.op7 < 4096))

/-- STREAM_START takes effect. -/
def effStreamStart (sd : SideId) (st : Staged) (t : Nat) (s : State) : State :=
  let x := s.side sd
  let e := st.e
  let r := e.op4 % 16
  let src := bitsOf e.op4 7 4
  let c := chanOf (bitsOf e.op4 8 8)
  if (x.strmOf r).bound || (src == 4 && x.strm.any (fun u => u.bound && u.source == 4 && u.ch == c)) then s.refuse sd st stStreamBusy
  else if src == 0 && !x.on (FE_STAT.RUNNING c.n) then s.refuse sd st stFeStopped
  else if src == 1 && !x.on (XF_STAT.RUNNING c.n) then s.refuse sd st stXfStopped
  else if src == 2 && !x.on (PP_STAT.RUNNING c.n) then s.refuse sd st stPpStopped
  else if src == 3 && !x.on (DENS_STAT.RUNNING c.n) then s.refuse sd st stDensStopped
  else if streamBad e || !bitAt (x.outCfg (9 + r)) 35 || (src == 1 && bitsOf e.op5 15 0 ≥ 2 ^ xfLog2N (x.xfOf c).force)
      || (e.op7 != 0 && e.op6 + e.op7 > x.dram.extent) then s.refuse sd st stBadParam
  else
    let rn := match src == 4, (x.acqOf c).armed with
      | true, some a => if rcDrain a.block then some a.num else none
      | _, _ => none
    let u : Strm := { Strm.init with
      bound := true, source := src, ch := c, pack := bitsOf e.op4 10 9, pktLog2 := bitsOf e.op4 14 11
      div := bitsOf e.op4 22 15, slot := bitsOf e.op4 25 23, lo := bitsOf e.op5 31 16, hi := bitsOf e.op5 15 0
      spillBase := e.op6, spillLen := e.op7, fromT := t, recNum := rn }
    let x := (x.setStrm r u).drop (STREAM_STAT.SRC_STOPPED r)
    (s.setSide sd x).complete sd st stOK t 0 0

/-- A stream ring is unbound and its STREAM_STOP completes. -/
def State.unbind (s : State) (sd : SideId) (r : Nat) (st : Staged) (t : Nat) : State :=
  let s := s.closeBuf sd r
  let u := (s.side sd).strmOf r
  let s := s.mod sd (fun x => (x.setStrm r Strm.init).drop (STREAM_STAT.SRC_STOPPED r))
  s.complete sd st stOK t u.sent u.lost

/-- STREAM_STOP takes effect. -/
def effStreamStop (sd : SideId) (st : Staged) (t : Nat) (s : State) : State :=
  let x := s.side sd
  let r := st.e.op4 % 16
  let u := x.strmOf r
  if !u.bound then s.refuse sd st stStreamIdle
  else if bitAt st.e.op4 4 then
    let n := u.spill.foldl (fun a p => a + p.items) 0
      + u.items.foldl (fun a i => a + (if u.source < 3 then 1 else u.unitCount i)) 0
    let x := (x.setStrm r { u with lost := u.lost + n, items := [], spill := [] }).bump (STREAM_LOST.whole r) n
    (s.setSide sd x).unbind sd r st t
  else
    let u := { u with
      stopT := some t, endFlag := if u.endFlag == 0 then flStopEnd else u.endFlag
      items := u.items.filter (fun i => decide (i.time < t)) }
    (s.setSide sd (x.setStrm r u)).cfgWaits sd st t 0

/-- STREAM_STOP_DONE (R236): every packet has reached the host. -/
def execStreamStopDone (sd : SideId) (r : Fin 16) (s : State) : Host.Outcome State Fault Refusal :=
  let x := s.side sd
  let u := x.strmOf r.val
  .next (match x.runningCmd 0x21 (fun c => c.e.op4 % 16 == r.val) with
    | some c =>
      if u.bound && u.ended && u.items.isEmpty && u.spill.isEmpty then s.unbind sd r.val c (lget c.aux 0 0).toNat else s
    | none => s)

end Sys2Proof.Machine
end

