-- ==== Sys2Proof/Machine/AcqBuffer.lean ====
section
/-! DEFINITION. The write buffer of an acquisition port (R299, R301, R304): which samples of an armed record are to be written, the words
that wait, panic, and what a full buffer does. -/

namespace Sys2Proof.Machine

/-- The trigger whose post-trigger part, or whose segment, is being written. -/
def Rec.cur (r : Rec) : Option Trig := r.trigs[r.segs.length]?

/-- A sample may be written: it lies within the triggered span, or no GO and no stop can still end the record before it. -/
def Side.mayWrite (x : Side) (c : Chan) (r : Rec) (a : ASmp) : Bool :=
  let ep := x.sampleEp c a.m
  r.stopM.all (fun u => decide (a.m < u)) && !(rcSeg r.block && r.segs.length ≥ rcNseg r.block) &&
  match r.cur with
  | some g => a.m ≤ g.mLast
  | none =>
    decide (x.nowIn ep > ((a.t + x.hLsb : Nat) : Int)) && !(x.starter.withTimers.any (fun i => !earlier ep a.t i.ep i.t))
      && (lget r.stop 0 0 != 1 || x.starter.spent.contains c.n || !x.on (PP_STAT.RUNNING c.n) || a.m ≤ x.frameEnd c (x.nextPp c))

/-- Words of a channel's acquisition port. -/
def acqBuffer : Nat := 32768

/-- Samples of a record that have reached the write buffer: those that nothing can keep from being written (assumption log 132). -/
def Side.readySamples (x : Side) (c : Chan) (r : Rec) : Nat := (r.samples.takeWhile (x.mayWrite c r)).length

/-- Words of lines, record's and spectrogram's, that wait in a channel's write buffer. -/
def Side.waitingWords (x : Side) (c : Chan) (r : Rec) : Nat :=
  r.lines.foldl (fun a l => a + l.words.length) 0 + (x.ppOf c).spg.foldl (fun a l => a + l.words.length) 0

/-- The level of a channel's write buffer. -/
def Side.acqLevel (x : Side) (c : Chan) (r : Rec) : Nat := (if rcIq r.block then x.readySamples c r else 0) + x.waitingWords c r

/-- R301: panic of an acquisition port follows its level. -/
def Side.acqPanic (x : Side) (c : Chan) : Side :=
  match (x.acqOf c).armed with
  | some r => x.portLevel (acqPort c) (x.acqLevel c r)
  | none => x.portLevel (acqPort c) ((x.ppOf c).spg.foldl (fun a l => a + l.words.length) 0)

/-- R304: writing of a record stops for good at its first sample that is not in the buffer: `room` samples are; the words that found it
full are counted. -/
def Side.overflow (x : Side) (c : Chan) (r : Rec) (room words : Nat) : Side :=
  (x.setAcq c { x.acqOf c with armed := some { r with truncated := some (r.next + room), samples := r.samples.take room } }).bump
    (ACQ_WB_OVF.whole c.n) words

/-- R304: a record's samples that find the write buffer full are discarded. -/
def Side.fillBuffer (x : Side) (c : Chan) (r : Rec) : Side :=
  let n := if rcIq r.block then x.readySamples c r else 0
  let room := acqBuffer - x.waitingWords c r
  if n > room then x.overflow c r room (n - room) else x.setAcq c { x.acqOf c with armed := some r }

end Sys2Proof.Machine
end

