-- ==== Sys2Proof/Machine/Spectral.lean ====
section
/-! DEFINITION. The spectral post-processor (R127 to R152): traces and their images, band powers, masks, the spectrogram, the
cross-spectrum, and the SPECTRAL block. -/

namespace Sys2Proof.Machine

/-! ### The SPECTRAL block (R150) -/

def ppMasks : List Nat :=
  [bitMask 35 10, bitMask 35 18, bitMask 35 20 + bitMask 18 0, bitMask 31 0] ++ List.replicate 8 (bitMask 31 0)
    ++ (List.range 6).flatMap (fun _ => [bitMask 35 31 + bitMask 29 7, bitMask 31 0, bitMask 18 0])
    ++ [bitMask 35 27, bitMask 35 0]
def ppRun (b : List Word) : Bool := bb b 0 35
def ppTraceEn (b : List Word) (t : Nat) : Bool := bb b 0 (29 + t)
def ppAvgK (b : List Word) : Nat := bf b 0 13 10
def ppBandGain (b : List Word) : Int := sx 18 (bf b 1 35 18)
def ppXsK (b : List Word) : Nat := bf b 2 35 20 + 1
def ppXsBase (b : List Word) : Nat := bf b 2 18 0
def ppXbLo (b : List Word) : Nat := bf b 3 31 16
def ppXbHi (b : List Word) : Nat := bf b 3 15 0
def ppBLo (b : List Word) (j : Nat) : Nat := bf b (4 + j) 31 16
def ppBHi (b : List Word) (j : Nat) : Nat := bf b (4 + j) 15 0
def ppSpgEn (b : List Word) : Bool := bb b 30 35
def ppSpgSlot (b : List Word) : Nat := bf b 30 34 32
def ppSpgLog (b : List Word) : Nat := bf b 30 31 27
def ppSpgBase (b : List Word) : Nat := bw b 31
/-- The settings of trace slot t, and HOLD_CLR of a block for it. -/
def ppSlot (b : List Word) (t : Nat) : List Word :=
  [lget b (12 + 3 * t) 0, lget b (13 + 3 * t) 0, lget b (14 + 3 * t) 0]
def ppHoldClr (b : List Word) (t : Nat) : Bool := bb b (12 + 3 * t) 30

/-- Settings of a slot. -/
def tcDet (c : List Word) : Nat := bf c 0 35 33
def tcHold (c : List Word) : Nat := bf c 0 32 31
def tcComb (c : List Word) : Nat := bf c 0 29 28
def tcNpCode (c : List Word) : Nat := bf c 0 27 24
def tcK (c : List Word) : Nat := bf c 0 23 8 + 1
def tcEvt (c : List Word) : Bool := bb c 0 7
def tcLo (c : List Word) : Nat := bf c 1 31 16
def tcHi (c : List Word) : Nat := bf c 1 15 0
def tcBase (c : List Word) : Nat := bf c 2 18 0
/-- R129: W and NP. -/
def tcW (c : List Word) : Nat := tcHi c + 1 - tcLo c
def tcNp (c : List Word) : Nat := if tcComb c == 0 then tcW c else 2 ^ (8 + tcNpCode c)

/-- R136: WI for a number of points. -/
def imgW (np : Nat) : Nat := 16 * ((8 + (np + 1) / 2 + 15) / 16)
/-- R146: WX for a number of bins. -/
def imgWX (nx : Nat) : Nat := 16 * ((8 + nx + 15) / 16)
/-- Bins of the cross-spectrum. -/
def ppNx (b : List Word) : Nat := ppXbHi b + 1 - ppXbLo b

/-- R150: encoding limits, for enabled and disabled products alike. -/
def ppEncBad (b : List Word) : Bool :=
  (List.range 6).any (fun t => tcDet (ppSlot b t) ≥ 6 || tcHold (ppSlot b t) == 3 || tcNpCode (ppSlot b t) ≥ 6)
    || ppSpgSlot b ≥ 6 || ppSpgLog b < 6 || ppSpgLog b > 16

/-- R129: bin limits and NP of an enabled slot at N bins. -/
def ppSlotBad (b : List Word) (n t : Nat) : Bool :=
  let c := ppSlot b t
  ppTraceEn b t && (tcLo c > tcHi c || tcHi c ≥ n || tcNp c > tcW c)

/-- R137: limits of an enabled band. -/
def ppBandBad (b : List Word) (n j : Nat) : Bool := ppBandEn b j && (ppBLo b j > ppBHi b j || ppBHi b j ≥ n)

/-- Regions of enabled products in the general store: offset and length. -/
def ppRegions (b : List Word) : List (Nat × Nat) :=
  ((List.range 6).filter (ppTraceEn b)).map (fun t =>
      let c := ppSlot b t
      (16 * tcBase c, 2 * tcNp c + 2 * imgW (tcNp c)))
    ++ (if ppXsEn b then [(16 * ppXsBase b, 8 * ppNx b + 2 * imgWX (ppNx b) + 2 * imgW (ppNx b))] else [])

/-- Two regions overlap. -/
def overlaps (a b : Nat × Nat) : Bool := decide (a.1 < b.1 + b.2 ∧ b.1 < a.1 + a.2)

/-- Some two regions of a list overlap. -/
def anyOverlap : List (Nat × Nat) → Bool
  | [] => false
  | a :: r => r.any (overlaps a) || anyOverlap r

/-- R150: a region lies outside the general store or overlaps another. -/
def ppRegionBad (b : List Word) : Bool :=
  (ppRegions b).any (fun r => r.1 + r.2 > 2 ^ 23) || anyOverlap (ppRegions b)

/-! ### Start checks (R127, R143, R144, R147) -/

/-- R127: a channel that fails the post-processor's rate check. -/
def Side.ppTooFast (x : Side) (c : Chan) : Bool :=
  let f := x.fConv c
  f.1 * 2 ^ xfOfCode (x.xfOf c).force > 4 * seatRate x.laneMhz x.spread * f.2 * x.dTotal c

/-- R143: the spectrogram's source slot is too fast. -/
def Side.spgTooFast (x : Side) (c : Chan) (b : List Word) : Bool :=
  let f := x.fConv c
  let t := ppSlot b (ppSpgSlot b)
  imgW (tcNp t) * f.1 * 2 ^ xfOfCode (x.xfOf c).force > 250000000 * f.2 * x.dTotal c * 2 ^ xfLog2N (x.xfOf c).force * tcK t

/-- The partner of a cross-spectrum (R144). -/
def Side.xsPartner (x : Side) (c : Chan) (b : List Word) : SideId × Chan :=
  if ppXsRemote b then (x.who.other, chanOf (ppXsRch b)) else (x.who, c.other)

/-- Two instants differ by less than half an analysis sample period. -/
def Side.nearT (x : Side) (c : Chan) (a b : Nat) : Bool :=
  let f := x.fConv c
  2 * ((a : Int) - b).natAbs * f.1 < 2 ^ 40 * f.2 * x.dTotal c

/-- R144: the grids of two channels allow a pairing. -/
def pairable (x y : Side) (c d : Chan) : Bool :=
  let fe := x.feOf c
  let t := x.tSample c (fe.m0 + fe.nextFrame * fe.gridStep)
  let f := x.fConv c
  let half := 2 ^ 39 * f.2 * x.dTotal c / max 1 f.1
  let g := y.feOf d
  let u := y.tSample d (g.m0 + y.frameAfter d (t - half) * g.gridStep)
  y.on (FE_STAT.RUNNING d.n) && x.nearT c t u

/-- R144: fs, LOG2N, OF_CODE or WINDOW of the partners differ. -/
def xsDiffer (x y : Side) (c d : Chan) : Bool :=
  let f := x.fConv c
  let g := y.fConv d
  let a := (x.xfOf c).block
  let b := (y.xfOf d).block
  f.1 * g.2 * y.dTotal d != g.1 * f.2 * x.dTotal c || xfLog2N a != xfLog2N b || xfOfCode a != xfOfCode b || xfWin a != xfWin b

/-- fs of a channel is above 3.2 GS/s. -/
def Side.fsAbove (x : Side) (c : Chan) : Bool :=
  let f := x.fConv c
  f.1 > 3200000000 * f.2 * x.dTotal c

/-- Partner channels of the other side whose samples a side takes from the Keel. -/
def Side.xsRemotes (x : Side) : List Chan :=
  dedup (([Chan.c0, Chan.c1].filter (fun o => x.on (PP_STAT.XS_RUNNING o.n) && ppXsRemote (x.ppOf o).block)).map
    (fun o => chanOf (ppXsRch (x.ppOf o).block)))

/-- R147: seats a cross-side partner needs. -/
def Side.xsNeed (x y : Side) (c d : Chan) : Nat :=
  seatsNeeded (y.fConv d) (y.dTotal d) (xfOfCode (x.xfOf c).force) x.laneMhz x.spread

/-- R144, R147: the checks of a cross-spectrum, in the order of these rules; 0 if they pass. A cross-spectrum that stays enabled has
its partner checked; the shares and seats that enabling takes, and the partner side's send that it starts, are looked at when it is
enabled. -/
def State.xsCheck (s : State) (sd : SideId) (c : Chan) (b : List Word) (enable : Bool) : Nat :=
  let x := s.side sd
  let p := x.xsPartner c b
  let y := s.side p.1
  let far := ppXsRemote b
  if xsDiffer x y c p.2 then stXsMismatch
  else if !(far && !y.on (FE_STAT.RUNNING p.2.n)) && !pairable x y c p.2 then stXsUnaligned
  else if !far then 0
  else if x.fsAbove c || y.fsAbove p.2 then stXsMismatch
  else if !enable then 0
  else
    let sum := (dedup (x.xsRemotes ++ [p.2])).foldl (fun (a : ℚ) d => a + (y.fConv d).1 / ((y.fConv d).2 * y.dTotal d : Nat)) 0
    if sum > 3200000000 then stXsKeelBudget
    else if !y.on (FE_STAT.RUNNING p.2.n) then stFeStopped
    else if !s.keel.up then stKeelDown
    else if x.spares.length < x.xsNeed y c p.2 then stSeatBudget
    else 0

/-- R150, R151: the checks at RUN 0 → 1 and, with `start` false, those of a block on a running post-processor, of every enabled
product; 0 if they pass. `xsOn` says that the cross-spectrum goes from off to on. -/
def State.ppCheck (s : State) (sd : SideId) (c : Chan) (b : List Word) (start xsOn : Bool) : Nat :=
  let x := s.side sd
  let n := 2 ^ xfLog2N (x.xfOf c).force
  let xs := if ppXsEn b then s.xsCheck sd c b xsOn else 0
  if start && x.ppTooFast c then stPpBudget
  else if (List.range 6).any (ppSlotBad b n) || (List.range 8).any (ppBandBad b n) then stBadParam
  else if ppSpgEn b && x.spgTooFast c b then stSpgRate
  else if xs != 0 then xs
  else if ppEncBad b || (ppXsEn b && (ppXbLo b > ppXbHi b || ppXbHi b ≥ n)) || ppRegionBad b
      || (ppSpgEn b && ppSpgBase b % 16 != 0) then stBadParam
  else 0

/-! ### The power accumulator (R132) -/

/-- pacc_add; n = 0 is empty. -/
def paccAdd (p : Nat × Int × Nat) (c : Nat) : Nat × Int × Nat :=
  let (m, ze) := lin c
  let (a, e, n) := p
  if n == 0 then (m, ze, 1)
  else if ze > e then (a / 2 ^ (min (ze - e).toNat 63) + m, ze, n + 1)
  else (a + m / 2 ^ (min (e - ze).toNat 63), e, n + 1)

/-- pacc_result over the values added. -/
def paccResult (p : Nat × Int × Nat) : Nat :=
  levelOf (rhe (p.1 * 256 : Nat) (max 1 p.2.2)).toNat (p.2.1 - 34)

/-! ### Traces (R129 to R136) -/

/-- The first bin and the number of bins of point j, counted from T_LO. -/
def ptBins (c : List Word) (j : Nat) : Nat × Nat :=
  let np := tcNp c
  let w := tcW c
  let a := j * w / max 1 np
  (tcLo c + a, (j + 1) * w / max 1 np - a)

/-- Levels of the bins of a point. -/
def ptLevels (c : List Word) (lv : Array Nat) (j : Nat) : List Nat :=
  let p := ptBins c j
  (List.range p.2).map (fun i => lv.getD (p.1 + i) 0)

/-- R130: the per-frame value of a point. -/
def ptValue (comb : Nat) (l : List Nat) : Nat :=
  match comb with
  | 0 => lget l 0 0
  | 1 => l.foldl max 0
  | 2 => paccResult (l.foldl paccAdd (0, 0, 0))
  | _ => lget l 0 0

/-- R131: a point takes a frame; `first` says that nothing has contributed yet. -/
def Pt.add (det : Nat) (first : Bool) (p : Pt) (l : List Nat) (v : Nat) : Pt :=
  let q := match det with
    | 4 => paccAdd (p.a, p.e, p.n) v
    | 5 => l.foldl paccAdd (p.a, p.e, p.n)
    | _ => (p.a, p.e, p.n)
  ⟨max p.hi v, if first then v else min p.lo v, v, p.sum + v, q.1, q.2.1, q.2.2⟩

/-- R131: the value of a point over Kc frames. -/
def Pt.value (det kc : Nat) (p : Pt) : Nat :=
  match det with
  | 0 => p.hi
  | 1 => p.lo
  | 2 => p.lst
  | 3 => (rhe p.sum (max 1 kc)).toNat
  | _ => paccResult (p.a, p.e, p.n)

/-- Pairs of 18-bit values in words; a missing last one reads 0. -/
def pairWords : List Nat → List Word
  | [] => []
  | [a] => [wordN (a * 2 ^ 18)]
  | a :: b :: r => wordN (a * 2 ^ 18 + b) :: pairWords r

/-- R135: the header of an image. -/
def imgHeader (seq : Nat) (void empty recomp ingest : Bool) (slot kc lo np tf tl : Nat) : List Word :=
  [wordN seq, wordN (b2n void * 2 ^ 35 + b2n empty * 2 ^ 34 + b2n recomp * 2 ^ 33 + b2n ingest * 2 ^ 32 + slot * 2 ^ 29 + kc),
   wordN (lo * 2 ^ 20 + np), wordN (tf / 2 ^ 36), wordN tf, wordN (tl / 2 ^ 36), wordN tl, 0]

/-- The buffer of a slot that a running TRACE_READ copies (R136). -/
def Side.traceLock (x : Side) (c : Chan) (slot : Nat) : Option Nat :=
  (x.host.staged.find? (fun st => st.op == 0x23 && st.running && st.e.op4 % 65536 == x.ppSrc c && bitsOf st.e.op4 18 16 == slot
      && lget st.aux 1 (-1) ≥ 0)).map (fun st => (lget st.aux 1 0).toNat)

/-- R136: an image of a slot is completed: into the buffer that no copy holds, which becomes current. -/
def Side.putImage (x : Side) (c : Chan) (slot base wi : Nat) (img : List Word) : Side :=
  let pp := x.ppOf c
  let i := lget pp.images slot ⟨0, 0, 0, none, 0⟩
  let buf := match x.traceLock c slot with
    | some b => 1 - b
    | none => if i.made == 0 then 0 else 1 - i.cur.getD 1
  let i := { i with base := base, wi := wi, len := img.length, cur := some buf, made := i.made + 1 }
  let x := x.setPp c { pp with images := lset pp.images slot i }
  (x.writeRange .sram (srcOf 2 c.n 0) (base + buf * wi) (img ++ List.replicate (wi - img.length) 0)).orBit (PP_STAT.TRACE_DONE c.n) slot

/-- A completed image goes to the streams of the slot, every DIV-th one; its race time is T_FIRST (R236, R238). -/
def Side.offerImage (x : Side) (c : Chan) (slot : Nat) (img : List Word) (tf fl : Nat) : Side :=
  let sel := fun (t : Strm) => t.source == 2 && t.ch == c && t.slot == slot && t.stopT.all (fun u => decide (tf < u))
  let x := x.offer (fun t => sel t && t.seen % max 1 t.div == 0) (fun _ => [⟨tf, Nat.lor fl (flMarks (x.on RT_STAT.UNSYNCED) false false false), 0, img⟩])
  { x with strm := x.strm.map (fun t => if t.bound && sel t then { t with seen := t.seen + 1 } else t) }

/-- FLAGS of an image. -/
def imgFlags (void recomp ingest : Bool) : Nat := flMarks false ingest recomp void

/-- R133: the hold after an accumulation's values, and the points shown. -/
def holdNext (hold : Nat) (h : Option (List Nat)) (vals : List Nat) (empty : Bool) : Option (List Nat) × List Nat :=
  if hold == 0 then (none, vals)
  else if empty then (h, h.getD vals)
  else
    let v := match h with
      | none => vals
      | some l => l.zipWith (fun a b => if hold == 1 then max a b else min a b) vals
    (some v, v)

/-- R131 to R136, R142: a slot's accumulation is complete. -/
def Side.traceDone (x : Side) (c : Chan) (t : Nat) (sl : Slot) : Side :=
  let cfg := sl.cfg
  let np := tcNp cfg
  let empty := sl.kc == 0
  let vals := if empty then List.replicate np 0 else sl.pts.map (Pt.value (tcDet cfg) sl.kc)
  let (h, shown) := holdNext (tcHold cfg) sl.hold vals empty
  let seq := sl.seq + 1
  let img := imgHeader seq sl.void empty sl.recomp sl.ingest t sl.kc (tcLo cfg) np sl.tFirst sl.tLast ++ pairWords shown
  let wi := imgW np
  let x := x.putImage c t (2 ^ 23 + 16 * tcBase cfg + 2 * np) wi img
  let pp := x.ppOf c
  let x := x.setPp c { pp with
    slots := lset pp.slots t { sl with frames := 0, kc := 0, pts := [], void := false, recomp := false, ingest := false, seq := seq, hold := h } }
  let x := if tcEvt cfg then x.event 0x05 x.now (t + 8 * c.n : Nat) seq else x
  let x := x.offerImage c t img sl.tFirst (imgFlags sl.void sl.recomp sl.ingest)
  if ppSpgEn pp.block && ppSpgSlot pp.block == t then
    let addr := ppSpgBase pp.block + (seq - 1) % 2 ^ ppSpgLog pp.block * wi
    let x := x.setPp c { x.ppOf c with spg := (x.ppOf c).spg ++ [⟨seq, addr, img ++ List.replicate (wi - img.length) 0⟩] }
    let x := x.acqPanic c
    x.set (SPG_SEQ.SEQ c.n) seq
  else x

/-- R133, R134: settings that wait for an accumulation that begins with a frame of first instant tf. -/
def Slot.begin (sl : Slot) (tf : Nat) : Slot :=
  (sl.next.filter (fun n => n.1 ≤ tf)).foldl (fun sl n => { sl with cfg := n.2.1, hold := if n.2.2 then none else sl.hold })
    { sl with next := sl.next.filter (fun n => n.1 > tf) }

/-- Marks of a frame. -/
def Bins.ingest (f : Bins) : Bool := f.crc || f.lost

/-- R322: a product reads its working state, words a … a + n − 1 of the general store: whether poison was met; the state is then
rewritten whole. What the words hold is the part's own (assumption log 16). -/
def Side.workRead (x : Side) (c : Chan) (a n : Nat) : Side × Bool :=
  let here := fun (b : Nat) => decide (a / 8 ≤ b ∧ b ≤ (a + n - 1) / 8)
  let m := x.sram.mem
  if m.poison.any (fun p => here p.1) || m.flips.any (fun p => here p.1) then
    let r := x.readRange .sram a n
    if r.2.2 == 0 then (r.1, false) else (r.1.writeRange .sram (srcOf 2 c.n 0) a (List.replicate n 0), true)
  else (x, false)

/-- A slot takes a frame. -/
def Side.traceFrame (x : Side) (c : Chan) (f : Bins) (void : Bool) (lv : Array Nat) (t : Nat) : Side :=
  let sl := lget (x.ppOf c).slots t Slot.init
  if !sl.on || f.tf < sl.fromT then x
  else
    let sl := if sl.frames == 0 then { sl.begin f.tf with tFirst := f.tf, skip := false } else sl
    let cfg := sl.cfg
    let w := x.workRead c (2 ^ 23 + 16 * tcBase cfg) (2 * tcNp cfg)
    let x := w.1
    let pp := x.ppOf c
    let sl := if w.2 then { sl with hold := none, skip := sl.frames != 0 } else sl
    let sl := if sl.skip then { sl with kc := 0, pts := [], void := false, recomp := false, ingest := false }
      else if void then { sl with void := true }
      else
        let old := if sl.kc == 0 then List.replicate (tcNp cfg) Pt.init else sl.pts
        { sl with
          kc := sl.kc + 1, recomp := sl.recomp || f.recomp, ingest := sl.ingest || f.ingest
          pts := old.zipIdx.map (fun p =>
            let l := ptLevels cfg lv p.2
            Pt.add (tcDet cfg) (sl.kc == 0) p.1 l (ptValue (tcComb cfg) l)) }
    let sl := { sl with frames := sl.frames + 1, tLast := f.tl }
    if sl.frames ≥ tcK cfg then
      (if sl.skip then x.setPp c { pp with slots := lset pp.slots t { sl with frames := 0, skip := false } } else x.traceDone c t sl)
    else x.setPp c { pp with slots := lset pp.slots t sl }

/-! ### Bands (R137, R138) -/

/-- Number of bits of a natural number. -/
def bitlen (v : Nat) : Nat := if v == 0 then 0 else log2n v + 1

/-- R137: BLEVEL of a band in a frame. -/
def bandLevel (f : Bins) (lo hi : Nat) (ramB : Int) : Nat :=
  let s := ((f.y.drop lo).take (hi + 1 - lo)).foldl (fun a y => a + binPower y) 0
  if s == 0 then 0
  else
    let sh := bitlen s - 36
    let b := if f.win == 7 then ramB else lget (lget bandTab f.win []) (f.p - 6) 0
    levelOfG (s / 2 ^ sh) ((sh : Int) - 2 * f.fx - 32) (winGain f.win f.p f.gain - b)

/-- R138, R151: band and mask fields in force from a frame on; a changed band begins a new group. -/
def Pp.applyBands (pp : Pp) (tf : Nat) : Pp :=
  (pp.bandChg.filter (fun s => s.fromT ≤ tf)).foldl (fun pp s =>
    let o := pp.force
    let n := s.block
    { pp with force := n, bands := pp.bands.zipIdx.map (fun p =>
        if ppAvgK o != ppAvgK n || ppBandEn o p.2 != ppBandEn n p.2 || ppBLo o p.2 != ppBLo n p.2 || ppBHi o p.2 != ppBHi n p.2
        then ⟨0, 0, 0, 0, false⟩ else p.1) })
    { pp with bandChg := pp.bandChg.filter (fun s => s.fromT > tf) }

/-- An occurrence of a frame of a channel that ends with sample mLast (R200, R206). -/
def Side.occurFrame (x : Side) (c : Chan) (o : Occ) (mLast t : Nat) : Side :=
  if x.islTakes starterSrc then x.occurIn o (x.sampleEp c mLast) t [(c.n, mLast)] else x

/-- A band takes a frame: its BLEVEL goes to the Starter, unless the frame carries an ingest mark (R52, R201), and into its group. -/
def Side.bandFrame (x : Side) (c : Chan) (f : Bins) (void : Bool) (mLast j : Nat) : Side :=
  let pp := x.ppOf c
  let b := pp.force
  if !ppBandEn b j then x
  else
    let g := lget pp.bands j ⟨0, 0, 0, 0, false⟩
    let lv := bandLevel f (ppBLo b j) (ppBHi b j) (ppBandGain b)
    let x := if void || f.ingest then x else x.occurFrame c (.band c (Fin.ofNat 8 j) lv) mLast f.tl
    let q := if void then (g.a, g.e, g.kc) else paccAdd (g.a, g.e, g.kc) lv
    let g : Band := ⟨g.frames + 1, q.2.2, q.1, q.2.1, g.ingest || (!void && f.ingest)⟩
    if g.frames ≥ 2 ^ ppAvgK b then
      let v := if g.kc == 0 then 2 ^ 18 else b2n g.ingest * 2 ^ 19 + paccResult (g.a, g.e, g.kc)
      (x.newResult (BAND_RESULT.whole c.n j).idx v 0 false).setPp c { pp with bands := lset pp.bands j ⟨0, 0, 0, 0, false⟩ }
    else x.setPp c { pp with bands := lset pp.bands j g }

/-! ### Masks (R139 to R141) -/

/-- R139: the entry that never violates, which every entry holds after reset. -/
def neverMask : Word := wordN 0x3FFFF0000

/-- Words of a mask bank. -/
def Pp.maskMem (pp : Pp) (bank : Nat) : List (Nat × Word) := if bank == 0 then pp.mask0 else pp.mask1

/-- An entry of a mask bank. -/
def Pp.maskWord (pp : Pp) (bank k b : Nat) : Word := (aget (pp.maskMem bank) (65536 * k + b)).getD neverMask

/-- The bank of a mask that was active at a race time. -/
def Pp.bankAt (pp : Pp) (k t : Nat) : Nat :=
  match (lget pp.banks k []).find? (fun p => p.1 ≤ t) with
  | some p => p.2
  | none => 0

/-- The bank that is active now. -/
def Pp.bankNow (pp : Pp) (k : Nat) : Nat := ((lget pp.banks k []).head?).elim 0 (·.2)

/-- R139: a level violates an entry. -/
def violates (e : Word) (lv : Nat) : Bool :=
  e != neverMask && (decide (lv > bitsOf e.toNat 35 18) || decide (lv < bitsOf e.toNat 17 0))

/-- R141: NV and BFIRST of mask k over a frame's levels. -/
def Pp.maskTest (pp : Pp) (k tf : Nat) (lv : List Nat) : Nat × Nat :=
  let bank := pp.bankAt k tf
  let v := (lv.zipIdx.filter (fun p => violates (pp.maskWord bank k p.2) p.1)).map (·.2)
  (v.length, v.headD 0)

/-- A mask takes a frame; one that carries an ingest mark meets no MASK condition and no stop test (R52, R201, R212). -/
def Side.maskFrame (x : Side) (c : Chan) (f : Bins) (lv : List Nat) (mLast k : Nat) : Side :=
  let pp := x.ppOf c
  if !ppMaskEn pp.force k then x
  else
    let r := pp.maskTest k f.tf lv
    let x := if f.ingest then x else x.occurFrame c (.mask c (Fin.ofNat 4 k) r.1) mLast f.tl
    let x := if r.1 > 0 then x.inc (MASK_VIOL.whole c.n k) else x
    if !f.ingest && (x.acqOf c).armed.any (fun a => lget a.stop 1 0 == k) then x.stopTest c r.1 r.2 mLast f.tl else x

/-- R140: the idle bank of a mask becomes active at a race time. -/
def Side.maskActive (x : Side) (c : Chan) (k t : Nat) : Side :=
  let pp := x.ppOf c
  x.setPp c { pp with banks := lset pp.banks k ((t, 1 - pp.bankNow k) :: lget pp.banks k []) }

/-- R140 steps 1 and 2: the active bank of a mask copied into the idle one, with entries from b on replaced. -/
def Pp.loadMask (pp : Pp) (k b : Nat) (ws : List Word) : Pp :=
  let a := pp.bankNow k
  let mine := (pp.maskMem a).filter (fun p => p.1 / 65536 == k)
  let rest := (pp.maskMem (1 - a)).filter (fun p => p.1 / 65536 != k)
  let m := mine.foldl (fun m p => aput m p.1 p.2) rest
  let m := ws.zipIdx.foldl (fun m p => if p.1 == neverMask then adel m (65536 * k + b + p.2) else aput m (65536 * k + b + p.2) p.1) m
  if a == 0 then { pp with mask1 := m } else { pp with mask0 := m }

/-- R140: a LOAD_TABLE to mask k of a channel takes effect; word 0 of its result is the words written. -/
def effLoadMask (sd : SideId) (c : Chan) (k b : Nat) (st : Staged) (t : Nat) (s : State) : State :=
  let x := s.side sd
  let pp := x.ppOf c
  if pp.swaps.any (fun w => w.mask == k) then s.refuse sd st stTableInUse
  else
    let x := x.setPp c (pp.loadMask k b st.words)
    if x.on (FE_STAT.RUNNING c.n) then
      let x := x.setPp c { x.ppOf c with swaps := pp.swaps ++ [⟨k, t, st.issuer, st.id⟩] }
      (s.setSide sd x).cfgWaits sd st t 0
    else (s.setSide sd (x.maskActive c k x.now)).complete sd st stOK x.now st.words.length 0

/-- MASK_SWAP (R140): at the first frame boundary after the write the idle bank becomes active. -/
def execMaskSwap (sd : SideId) (ch : Chan) (k : Fin 4) (s : State) : Host.Outcome State Fault Refusal :=
  let x := s.side sd
  let pp := x.ppOf ch
  let fe := x.feOf ch
  .next (match pp.swaps.find? (fun w => w.mask == k.val) with
    | none => s
    | some w =>
      let t := if x.on (FE_STAT.RUNNING ch.n) then x.tSample ch (fe.boundaryFrom fe.m) else x.now
      let x := (x.setPp ch { pp with swaps := pp.swaps.filter (fun v => v.mask != k.val) }).maskActive ch k.val t
      let s := s.setSide sd x
      match x.cmdOf w.issuer w.id with
      | some c => s.complete sd c stOK t c.words.length 0
      | none => s)

/-! ### The cross-spectrum (R144 to R147) -/

/-- R145: the phase code round_half_even(2^18·atan2(si, sr)/2π) mod 2^18, by quadrants and a search over half steps. -/
def phaseCode (sr si : Int) : Nat :=
  if sr == 0 && si == 0 then 0
  else
    let (q, u, v) : Nat × Int × Int :=
      if sr > 0 && si ≥ 0 then (0, sr, si)
      else if sr ≤ 0 && si > 0 then (1, si, -sr)
      else if sr < 0 && si ≤ 0 then (2, -sr, -si)
      else (3, -si, sr)
    let n := leastFrom (fun n => decide (v * fxCos (2 * n + 1) (2 ^ 19) < u * fxSin (2 * n + 1) (2 ^ 19))) 20 0 (2 ^ 16)
    (q * 2 ^ 16 + n) % 2 ^ 18

/-- R145: MAG, PHASE and COH of a bin over Kc pairs, with the window's gain constant. -/
def xsBin (kc : Nat) (g : Int) (sr si : Int) (sx sy : Nat) : Nat × Nat × Nat :=
  if kc == 0 then (0, 0, 0)
  else
    let sh := bitlen (max sr.natAbs si.natAbs) - 17
    let cr := rheP sr sh
    let ci := rheP si sh
    let m2 := (cr * cr + ci * ci).toNat
    let mag := if m2 == 0 then 0
      else clampLevel (131072 + g + rhe (levelK * (l2 m2 + (2 * (sh : Int) - 96) * 2 ^ 16 - 2 * l2 kc)) (2 ^ 37))
    let coh := if sx * sy == 0 then 0 else (rhe (2 ^ 17 * (sr * sr + si * si)) (sx * sy)).toNat
    (mag, phaseCode sr si, coh)

/-- The sums of bins xbLo … take a pair of frames. -/
def XSpec.addPair (xs : XSpec) (lo nx : Nat) (f g : Bins) : XSpec :=
  let z := fun (l : List Int) => if xs.kc == 0 then List.replicate nx (0 : Int) else l
  let zn := fun (l : List Nat) => if xs.kc == 0 then List.replicate nx 0 else l
  let a := ((f.y.drop lo).take nx).map (fun v => (v.1 * 2 ^ (8 - f.fx), v.2 * 2 ^ (8 - f.fx)))
  let c := ((g.y.drop lo).take nx).map (fun v => (v.1 * 2 ^ (8 - g.fx), v.2 * 2 ^ (8 - g.fx)))
  let ac := a.zip c
  { xs with
    kc := xs.kc + 1
    sr := (z xs.sr).zipWith (fun s p => s + (p.1.1 * p.2.1 + p.1.2 * p.2.2)) ac
    si := (z xs.si).zipWith (fun s p => s + (p.1.2 * p.2.1 - p.1.1 * p.2.2)) ac
    sx := (zn xs.sx).zipWith (fun s p => s + binPower p) a
    sy := (zn xs.sy).zipWith (fun s p => s + binPower p) c
    recomp := xs.recomp || f.recomp || g.recomp
    ingest := xs.ingest || f.ingest || g.ingest }

/-- R145, R146: a cross-spectrum accumulation is complete: both images, dated like a trace. -/
def Side.xsDone (x : Side) (c : Chan) (g : Int) : Side :=
  let pp := x.ppOf c
  let b := pp.block
  let xs := pp.xs
  let nx := ppNx b
  let seq := xs.seqX + 1
  let empty := xs.kc == 0
  let z := fun (l : List Int) => if empty then List.replicate nx (0 : Int) else l
  let zn := fun (l : List Nat) => if empty then List.replicate nx 0 else l
  let v := (((z xs.sr).zip (z xs.si)).zip ((zn xs.sx).zip (zn xs.sy))).map (fun p => xsBin xs.kc g p.1.1 p.1.2 p.2.1 p.2.2)
  let hdr := fun slot => imgHeader seq xs.void empty xs.recomp xs.ingest slot xs.kc (ppXbLo b) nx xs.tFirst xs.tLast
  let img6 := hdr 6 ++ v.map (fun p => wordN (p.1 * 2 ^ 18 + p.2.1))
  let img7 := hdr 7 ++ pairWords (v.map (fun p => p.2.2))
  let base := 2 ^ 23 + 16 * ppXsBase b + 8 * nx
  let x := x.setPp c { pp with xs := { xs with frames := 0, kc := 0, sr := [], si := [], sx := [], sy := [], void := false, recomp := false, ingest := false, seqX := seq } }
  let x := x.putImage c 6 base (imgWX nx) img6
  let x := x.putImage c 7 (base + 2 * imgWX nx) (imgW nx) img7
  let fl := imgFlags xs.void xs.recomp xs.ingest
  (x.offerImage c 6 img6 xs.tFirst fl).offerImage c 7 img7 xs.tFirst fl

/-- A frame of X lacks a partner (R144). -/
def Side.xsGap (x : Side) (c : Chan) : Side := (x.inc (XS_GAP.whole c.n)).raise (PP_STAT.XS_GAP_SEEN c.n)

/-- A frame of X takes its place in the accumulation, with its partner or without (R144). -/
def Side.xsTake (x : Side) (c : Chan) (f : Bins) (p : Option Bins) : Side :=
  let b := (x.ppOf c).block
  let w := x.workRead c (2 ^ 23 + 16 * ppXsBase b) (8 * ppNx b)
  let x := w.1
  let pp := x.ppOf c
  let xs := if pp.xs.frames == 0 then { pp.xs with tFirst := f.tf, skip := false } else pp.xs
  let xs := if w.2 && xs.frames != 0 then { xs with skip := true } else xs
  let xs : XSpec := { xs with frames := xs.frames + 1, tLast := f.tl, void := xs.void || f.void || p.any (fun g => g.void) }
  let xs := match p with
    | some g => if f.void || g.void then xs else xs.addPair (ppXbLo b) (ppNx b) f g
    | none => xs
  let xs := if xs.skip then { xs with kc := 0, sr := [], si := [], sx := [], sy := [], void := false, recomp := false, ingest := false } else xs
  let x := x.setPp c { pp with xs := xs }
  let x := if p.isNone then x.xsGap c else x
  if xs.frames < ppXsK b then x
  else if xs.skip then x.setPp c { pp with xs := { xs with frames := 0, skip := false } }
  else x.xsDone c (winGain f.win f.p f.gain)

/-- R144, R147: frames of X are paired with partner frames as far as both are there. `open_` says that partner frames can still
come. Once pairing is lost, frames of X only count as lacking a partner. -/
def Side.xsPump (x : Side) (c : Chan) (open_ : Bool) : Nat → Side
  | 0 => x
  | n + 1 =>
    let pp := x.ppOf c
    let xs := pp.xs
    match xs.own with
    | [] => x
    | f :: own =>
      let part := xs.part.dropWhile (fun g => g.tf < f.tf && !x.nearT c f.tf g.tf)
      let lone := fun (x : Side) => (x.setPp c { pp with xs := { xs with own := own, part := part } }).xsTake c f none
      if xs.dead then ((x.setPp c { pp with xs := { xs with own := own, part := [] } }).xsGap c).xsPump c open_ n
      else match part with
      | [] => if open_ then x.setPp c { pp with xs := { xs with part := part } } else (lone x).xsPump c open_ n
      | g :: rest =>
        if x.nearT c f.tf g.tf && f.p == g.p then
          ((x.setPp c { pp with xs := { xs with own := own, part := rest, gap := false } }).xsTake c f (some g)).xsPump c open_ n
        else if xs.gap && ppXsRemote pp.block then
          (((x.setPp c { pp with xs := { xs with own := own, part := [], dead := true } }).xsGap c).raise (PP_STAT.XS_LOST c.n)).xsPump c open_ n
        else (lone x).xsPump c open_ n

/-- Partner frames of a channel's cross-spectrum can still come: its transform runs, or the Keel is up. -/
def State.xsOpen (s : State) (sd : SideId) (c : Chan) : Bool :=
  let x := s.side sd
  let b := (x.ppOf c).block
  let p := x.xsPartner c b
  if ppXsRemote b then s.keel.up && (s.side p.1).on (FE_STAT.RUNNING p.2.n) else x.on (XF_STAT.RUNNING p.2.n)

/-- The pairing of a channel's cross-spectrum goes on. -/
def State.pumpXs (s : State) (sd : SideId) (c : Chan) : State :=
  let o := s.xsOpen sd c
  s.mod sd (fun x => if x.on (PP_STAT.XS_RUNNING c.n) then x.xsPump c o ((x.ppOf c).xs.own.length + 1) else x)

/-- The cross-spectrum of a channel ends: its seats become SPARE, images are kept. -/
def Side.xsStop (x : Side) (c : Chan) : Side :=
  if !x.on (PP_STAT.XS_RUNNING c.n) then x
  else
    let pp := x.ppOf c
    let lo := x.get (XF_STAT.SEATS c.n)
    let x := x.releaseSeats c lo
    let x := x.setXf c { x.xfOf c with marked := (x.xfOf c).marked.filter (fun e => e.1 < lo) }
    ((x.setPp c { pp with xs := XSpec.init }).drop (PP_STAT.XS_RUNNING c.n)).seatFlags

/-- The cross-spectrum of a channel starts at a boundary (R147). -/
def State.xsStart (s : State) (sd : SideId) (c : Chan) (b : List Word) (t : Nat) : State :=
  let x := s.side sd
  let p := x.xsPartner c b
  let y := s.side p.1
  let far := ppXsRemote b
  let need := if far then x.xsNeed y c p.2 else 0
  let k := if far then y.frameAfter p.2 t else 0
  let pp := x.ppOf c
  let x := x.setPp c { pp with
    xs := { XSpec.init with fromT := t, slots := need, nextK := k }
    images := pp.images.zipIdx.map (fun i => if i.2 ≥ 6 then { i.1 with made := 0 } else i.1) }
  s.setSide sd ((x.raise (PP_STAT.XS_RUNNING c.n)).allocSeats c (x.get (XF_STAT.SEATS c.n)) need)

/-- XS_PARTNER_FRAME, a dispatch (R84, R147): the partner's next frame, whose samples have crossed the Keel, goes to the seat of its
slot. A frame without a seat is VOID. -/
def Side.partnerDispatch (x : Side) (c : Chan) (m0 : Nat) : Side :=
  let pp := x.ppOf c
  let xs := pp.xs
  let xf := x.xfOf c
  let n := xfLog2N xf.force
  let st := 2 ^ (n - xfOfCode xf.force)
  let k := match xs.rx with
    | a :: _ => max xs.nextK ((a.m - m0 + st - 1) / st)
    | [] => xs.nextK
  match takeSamples xs.rx (m0 + k * st) (2 ^ n) with
  | none => x
  | some l =>
    let slot := x.get (XF_STAT.SEATS c.n) + k % max 1 xs.slots
    let a := (x.handOver c slot k).assign c slot k false
    let f := mkFrame k slot a.1 a.2.1 n (xfWin xf.force) (xfGain xf.force) l
    a.2.2.setPp c { pp with xs := { xs with
      flight := xs.flight ++ [f], nextK := k + 1, rx := xs.rx.filter (fun a => a.m ≥ m0 + (k + 1) * st) } }

/-- XS_PARTNER_FRAME, a release (R86, R147): the partner's oldest frame, once it has passed every checker, waits to be paired. -/
def Side.partnerRelease (x : Side) (c : Chan) : Side :=
  let pp := x.ppOf c
  let fe := x.feOf c
  match pp.xs.flight with
  | [] => x
  | f :: r =>
    if !f.checked fe.ramWin fe.ramRes then x
    else (x.setPp c { pp with xs := { pp.xs with flight := r, part := pp.xs.part ++ [f.bins fe.ramWin fe.ramRes] } }).replayOver c

/-- XS_PARTNER_FRAME (R147). -/
def State.partnerFrame (s : State) (sd : SideId) (c : Chan) (release : Bool) : State :=
  let x := s.side sd
  let p := x.xsPartner c (x.ppOf c).block
  if release then (s.setSide sd (x.partnerRelease c)).pumpXs sd c
  else s.setSide sd (x.partnerDispatch c ((s.side p.1).feOf p.2).m0)

/-- XS_PARTNER_FRAME: a partner's frame goes to its seat, or with `release` leaves it to be paired. -/
def execXsPartnerFrame (sd : SideId) (p : PartnerStep) (s : State) : Host.Outcome State Fault Refusal :=
  let x := s.side sd
  .next (if !x.pwr.fatal && x.on (PP_STAT.XS_RUNNING p.ch.n) && ppXsRemote (x.ppOf p.ch).block then s.partnerFrame sd p.ch p.release else s)

/-- FRAME_RELEASE: the oldest frame leaves the combiner, in order. -/
def execFrameRelease (sd : SideId) (ch : Chan) (s : State) : Host.Outcome State Fault Refusal :=
  .next (s.mod sd (fun x => if x.pwr.fatal then x else x.release ch))

/-! ### A frame (R128) -/

/-- The header and data words of a spectra line (R223). -/
def lineWords (f : Bins) (void : Bool) (lv : List Nat) (lo hi : Nat) : List Word :=
  let nb := hi + 1 - lo
  let data := if void then List.replicate ((nb + 1) / 2) 0 else pairWords ((lv.drop lo).take nb)
  let wf := 16 * ((4 + (nb + 1) / 2 + 15) / 16)
  let ws := [wordN f.k, wordN (f.tl / 2 ^ 36), wordN f.tl,
    wordN (b2n void * 2 ^ 35 + b2n f.recomp * 2 ^ 34 + b2n f.lost * 2 ^ 33 + b2n f.crc * 2 ^ 32 + nb)] ++ data
  ws ++ List.replicate (wf - ws.length) 0

/-- A frame's line goes to an armed record with spectra (R223); a full buffer takes none (R304). -/
def Side.recordLine (x : Side) (c : Chan) (f : Bins) (void : Bool) (lv : List Nat) (mLast : Nat) : Side :=
  let a := x.acqOf c
  match a.armed with
  | some r =>
    if bitAt (rcContent r.block) 1 && f.k % 2 ^ bf r.block 0 28 25 == 0 && f.k ≥ r.kA && r.truncated.all (fun m => decide (mLast < m))
        && x.islTakes starterSrc then
      let l : SpLine := ⟨f.k, mLast, lineWords f void lv (bf r.block 9 31 16) (bf r.block 9 15 0), f.ingest, f.recomp, void⟩
      if x.acqLevel c r + l.words.length > acqBuffer then x.overflow c r (x.readySamples c r) l.words.length
      else (x.setAcq c { a with armed := some { r with lines := r.lines ++ [l] } }).acqPanic c
    else x
  | none => x

/-- A frame's line goes to the SPECTRA streams of the channel. -/
def Side.offerLine (x : Side) (c : Chan) (f : Bins) (void : Bool) (lv : List Nat) : Side :=
  let fl := flMarks (x.on RT_STAT.UNSYNCED) f.ingest f.recomp void
  x.offer (fun t => t.source == 1 && t.ch == c && f.k % 2 ^ t.div == 0 && f.tf ≥ t.fromT && t.stopT.all (fun u => decide (f.tl < u)))
    (fun t => [⟨f.tl, fl, 0, lineWords f void lv t.lo t.hi⟩])

/-- The products of a running post-processor take a frame. -/
def Side.products (x : Side) (c : Chan) (f : Bins) (void : Bool) (lv : List Nat) (mLast : Nat) : Side :=
  if f.tf < (x.ppOf c).fromT then x
  else
    let arr := lv.toArray
    let x := x.setPp c ((x.ppOf c).applyBands f.tf)
    let x := (List.range 6).foldl (fun x t => x.traceFrame c f void arr t) x
    let x := (List.range 8).foldl (fun x j => x.bandFrame c f void mLast j) x
    let x := if void then x else (List.range 4).foldl (fun x k => x.maskFrame c f lv mLast k) x
    let x := if x.on (PP_STAT.XS_RUNNING c.n) && f.tf ≥ (x.ppOf c).xs.fromT then
        let pp := x.ppOf c
        x.setPp c { pp with xs := { pp.xs with own := pp.xs.own ++ [if void then { f with void := true } else f] } }
      else x
    let d := lget x.dens c.n Dens.init
    if x.on (DENS_STAT.RUNNING c.n) && f.tf ≥ d.fromT then
      { x with dens := lset x.dens c.n { d with queue := d.queue ++ [⟨f.k, lv, f.tf, f.tl, void, f.recomp, f.ingest⟩] } }
    else x

/-- A CONFIGURE of the SPECTRAL block has every change in force. -/
def Side.ppSettled (x : Side) (c : Chan) (st : Staged) : Bool :=
  let pp := x.ppOf c
  let t := (lget st.aux 0 0).toNat
  !(pp.bandChg.any (fun b => b.fromT == t) || pp.slots.any (fun sl => sl.next.any (fun n => n.1 == t)))

/-- Every CONFIGURE of the SPECTRAL block of a channel that is whole completes (R273). -/
def State.finishPp (s : State) (sd : SideId) (c : Chan) : State :=
  let x := s.side sd
  s.finishCfg sd 3 (x.ppSrc c) (x.ppSettled c)

/-- A committed frame of a channel is there for the other channel's same-side cross-spectrum (R144). -/
def Side.feedPartner (x : Side) (c : Chan) (f : Bins) : Side :=
  let o := c.other
  let pp := x.ppOf o
  if x.on (PP_STAT.XS_RUNNING o.n) && !ppXsRemote pp.block then
    x.setPp o { pp with xs := { pp.xs with part := pp.xs.part ++ [f] } }
  else x

/-- PP_FRAME (R128): the oldest released frame is committed, once its last group of bins has passed its checkers (R122). -/
def State.frameCommit (s : State) (sd : SideId) (c : Chan) : State :=
  let x := s.side sd
  let xf := x.xfOf c
  match xf.released with
  | [] => s
  | f :: rest =>
    let run := x.on (PP_STAT.RUNNING c.n)
    let pp := x.ppOf c
    let void := f.void || (run && pp.voidHead)
    if !void && !ppChecks f.y f.res f.fx (winGain f.win f.p f.gain) then s
    else
    let fe := x.feOf c
    let mLast := fe.m0 + f.k * fe.gridStep + 2 ^ f.p - 1
    let g := winGain f.win f.p f.gain
    let lv := if void then [] else f.y.map (fun y => binLevel y f.fx g)
    let x := (x.setXf c { xf with released := rest }).setPp c { pp with voidHead := false }
    let x := (x.recordLine c f void lv mLast).offerLine c f void lv
    let x := if run then x.products c f void lv mLast else x
    let x := x.feedPartner c (if void then { f with void := true } else f)
    (((s.setSide sd x).pumpXs sd c).pumpXs sd c.other).finishPp sd c

/-- R18: a frame that a quiesced post-processor does not take is lost to every product, and to the channel's streams. -/
def Side.frameLost (x : Side) (c : Chan) : Side :=
  let xf := x.xfOf c
  match xf.released with
  | [] => x
  | f :: rest =>
    let x := x.setXf c { xf with released := rest }
    let x := x.offer (fun t => t.source == 1 && t.ch == c && f.k % 2 ^ t.div == 0 && f.tf ≥ t.fromT && t.stopT.all (fun u => decide (f.tl < u)))
      (fun _ => [⟨f.tl, 0, 0, []⟩])
    x.loseImages (fun t => (t.source == 2 || t.source == 3) && t.ch == c && t.stopT.all (fun u => decide (f.tf < u))) f.tf

/-- PP_FRAME. -/
def execPpFrame (sd : SideId) (ch : Chan) (s : State) : Host.Outcome State Fault Refusal :=
  .next (if (s.side sd).islTakes (srcOf 2 ch.n 0) then s.frameCommit sd ch else s.mod sd (fun x => x.frameLost ch))

/-- R122: the frame whose group tripped twice is treated as VOID. -/
def Side.ppVoid (x : Side) (c : Chan) : Side :=
  let pp := x.ppOf c
  match (x.xfOf c).released with
  | [] => x
  | f :: _ => if !x.on (PP_STAT.RUNNING c.n) || f.void || pp.voidHead then x else (x.setPp c { pp with voidHead := true }).countVoid c 1

/-- PP_CHECKER_TRIP (R122): the group recomputed once passes, or trips again and the frame becomes VOID. -/
def Side.ppTrip (x : Side) (c : Chan) (again : Bool) : Side :=
  match (x.xfOf c).released with
  | [] => x
  | f :: _ =>
    if !x.on (PP_STAT.RUNNING c.n) then x
    else
      let i := x.takeInj (srcOf 2 c.n 0)
      let y := if again then i.2.ppVoid c else i.2
      y.report (if again then 2 else 0) (srcOf 2 c.n 0) (f.k % 2 ^ 36) i.1

/-- PP_CHECKER_TRIP. -/
def execPpCheckerTrip (sd : SideId) (ch : Chan) (again : Bool) (s : State) : Host.Outcome State Fault Refusal :=
  .next (s.mod sd (fun x => x.ppTrip ch again))

/-- R142: a line is written in order: word 0 as 0xF_FFFF_FFFF, the words after it, then the true SEQ in word 0. -/
def Side.writeLine (x : Side) (c : Chan) (l : SpgLine) : Side :=
  let put := fun (x : Side) (a : Nat) (ws : List Word) => x.writeRange .dram (acqPort c) a ws
  put (put (put x l.addr [wordN (2 ^ 36 - 1)]) (l.addr + 1) l.words.tail) l.addr [wordN l.seq]

/-- SPG_LINE_WRITE (R142, R143): the oldest line that waits is written through the acquisition port, or dropped. -/
def Side.spgLine (x : Side) (c : Chan) (inTime : Bool) : Side :=
  let pp := x.ppOf c
  match pp.spg with
  | [] => x
  | l :: rest =>
    let x := (x.setPp c { pp with spg := rest }).acqPanic c
    if inTime then (if l.addr + l.words.length ≤ x.dram.extent then x.writeLine c l else x)
    else (x.inc (SPG_DROP.whole c.n)).raise (PP_STAT.SPG_DROP_SEEN c.n)

/-- SPG_LINE_WRITE. -/
def execSpgLineWrite (sd : SideId) (ch : Chan) (inTime : Bool) (s : State) : Host.Outcome State Fault Refusal :=
  .next (s.mod sd (fun x => x.spgLine ch inTime))

/-! ### The block takes effect (R151) -/

/-- Trace slot t takes its fields from a new block at instant t0 (R133, R134). -/
def Pp.slotChange (pp : Pp) (new : List Word) (t t0 : Nat) : Pp :=
  let old := ppTraceEn pp.block t
  let sl := lget pp.slots t Slot.init
  let cfg := ppSlot (blkKeep ppMasks new) t
  let put := fun (v : Slot) => { pp with slots := lset pp.slots t v }
  if !ppTraceEn new t then put { Slot.init with seq := sl.seq }
  else if !old then
    { put { Slot.init with on := true, cfg := cfg, fromT := t0 } with images := lset pp.images t { lget pp.images t ⟨0, 0, 0, none, 0⟩ with made := 0 } }
  else
    let was := ppSlot pp.block t
    let restart := ppHoldClr new t || tcDet was != tcDet cfg || tcComb was != tcComb cfg || tcNpCode was != tcNpCode cfg
      || tcLo was != tcLo cfg || tcHi was != tcHi cfg || tcHold was != tcHold cfg
    if was == cfg && !restart then pp else put { sl with next := sl.next ++ [(t0, cfg, restart)] }

/-- Band and mask fields of two blocks differ. -/
def bandsDiffer (o n : List Word) : Bool :=
  bf o 0 28 17 != bf n 0 28 17 || ppAvgK o != ppAvgK n || bw o 1 != bw n 1
    || (List.range 8).any (fun j => bw o (4 + j) != bw n (4 + j))

/-- R151: the post-processor starts: products take the first frame at or after the boundary. -/
def State.ppStart (s : State) (sd : SideId) (c : Chan) (new : List Word) (t : Nat) : State :=
  let b := blkKeep ppMasks new
  let x := s.side sd
  let pp := { x.ppOf c with
    block := b, force := b, fromT := t, bandChg := [], voidHead := false
    slots := (List.range 6).map (fun i => if ppTraceEn b i then { Slot.init with on := true, cfg := ppSlot b i, fromT := t } else Slot.init)
    bands := List.replicate 8 ⟨0, 0, 0, 0, false⟩ }
  let pp := { pp with images := pp.images.zipIdx.map (fun i => if i.2 < 6 && ppTraceEn b i.2 then { i.1 with made := 0 } else i.1) }
  let s := s.setSide sd ((x.setPp c pp).raise (PP_STAT.RUNNING c.n))
  if ppXsEn b then s.xsStart sd c b t else s

/-- Density stops with the transform or the post-processor (R167); its stream ends (R236). -/
def Side.densStop (x : Side) (c : Chan) : Side :=
  if !x.on (DENS_STAT.RUNNING c.n) then x
  else
    let d := lget x.dens c.n Dens.init
    let x := { x with dens := lset x.dens c.n { d with
      queue := [], period := 0, block := lset d.block 0 (lget d.block 0 0 &&& wordN (2 ^ 35 - 1)) } }
    (x.drop (DENS_STAT.RUNNING c.n)).srcStop c 3

/-- R151: the post-processor stops at once: accumulations in progress are discarded, images kept. -/
def Side.ppStop (x : Side) (c : Chan) : Side :=
  let x := (x.xsStop c).densStop c
  let pp := x.ppOf c
  let x := x.setPp c { pp with
    slots := pp.slots.map (fun sl => { Slot.init with seq := sl.seq }), bands := List.replicate 8 ⟨0, 0, 0, 0, false⟩, bandChg := [], voidHead := false }
  (x.drop (PP_STAT.RUNNING c.n)).srcStop c 2

/-- R151: CONFIGURE of the SPECTRAL block takes effect at instant t. -/
def effSpectral (sd : SideId) (c : Chan) (st : Staged) (t : Nat) (s : State) : State :=
  let x := s.side sd
  let pp := x.ppOf c
  let new := st.words
  let old := pp.block
  let was := x.on (PP_STAT.RUNNING c.n)
  let kept := blkKeep ppMasks new
  if !was && ppRun new then
    if !x.on (XF_STAT.RUNNING c.n) then s.refuse sd st stXfStopped
    else
      match s.ppCheck sd c new true (ppXsEn new) with
      | 0 => (s.ppStart sd c new t).complete sd st stOK t 0 0
      | e => s.refuse sd st e
  else if was && !ppRun new then
    if x.armed c && ((x.on STARTER_STAT.RUNNING && stUsesFreq x.starter.force c.n)
        || (x.acqOf c).armed.any (fun r => lget r.stop 0 0 == 1)) then s.refuse sd st stChannelActive
    else if ppEncBad new then s.refuse sd st stBadParam
    else
      let s := (s.endRetires sd c (x.get (XF_STAT.SEATS c.n))).mod sd (fun x => x.ppStop c)
      let s := s.mod sd (fun x => x.setPp c { x.ppOf c with block := kept })
      ((s.finishPp sd c).finishCfg sd 4 (x.densSrc c) (fun _ => true)).complete sd st stOK t 0 0
  else if was then
    if ppXsEn old && ppXsEn new && (ppXsRemote old != ppXsRemote new || ppXsRch old != ppXsRch new || bw old 2 != bw kept 2
        || bw old 3 != bw kept 3) then s.refuse sd st stXsRunning
    else
      match s.ppCheck sd c new false (ppXsEn new && !ppXsEn old) with
      | 0 =>
        let pp := (List.range 6).foldl (fun (pp : Pp) i => pp.slotChange new i t) pp
        let pp := if bandsDiffer old kept then { pp with bandChg := pp.bandChg ++ [⟨t, kept⟩] } else pp
        let s := s.setSide sd (x.setPp c { pp with block := kept })
        let s := if ppXsEn old && !ppXsEn new
          then (s.endRetires sd c (x.get (XF_STAT.SEATS c.n))).mod sd (fun x => x.xsStop c) else s
        let s := if ppXsEn new && !ppXsEn old then s.xsStart sd c kept t else s
        (s.cfgWaits sd st t 0).finishPp sd c
      | e => s.refuse sd st e
  else if ppEncBad new then s.refuse sd st stBadParam
  else (s.setSide sd (x.setPp c { pp with block := kept })).complete sd st stOK t 0 0

/-! ### TRACE_READ (R148) -/

/-- Another TRACE_READ of the slot copies. -/
def Side.traceBusy (x : Side) (c : Chan) (slot : Nat) : Bool := (x.traceLock c slot).isSome

/-- A TRACE_READ begins to copy the current image: instant, buffer, SEQ, length, address. -/
def Side.traceBegin (x : Side) (c : Chan) (st : Staged) (t : Nat) : Side :=
  let slot := bitsOf st.e.op4 18 16
  let i := lget (x.ppOf c).images slot ⟨0, 0, 0, none, 0⟩
  let buf := i.cur.getD 0
  let a := i.base + buf * i.wi
  let r := x.readWord .sram a
  r.1.restage { st with running := true, aux := [(t : Int), buf, r.2.1.toNat, i.len, a] }

/-- TRACE_READ takes effect: copies of one slot run one after the other. -/
def effTraceRead (sd : SideId) (c : Chan) (st : Staged) (t : Nat) (s : State) : State :=
  let x := s.side sd
  let slot := bitsOf st.e.op4 18 16
  let i := lget (x.ppOf c).images slot ⟨0, 0, 0, none, 0⟩
  let need := if bitAt st.e.op4 19 then (9 * i.len + 1) / 2 else 8 * i.len
  if i.cur.isNone then s.refuse sd st stNoData
  else if st.e.op6 % 2 ^ 32 < need then s.refuse sd st stBadParam
  else if x.traceBusy c slot then s.mod sd (fun x => x.restage { st with running := true, aux := [(t : Int), -1] })
  else s.setSide sd (x.traceBegin c st t)

end Sys2Proof.Machine
end

