-- ==== Sys2Proof/Machine/Density.lean ====
section
/-! DEFINITION. The density engine (R153 to R168): mapping of levels to cells, thinning, periods, swaps with decay, copies, and
the DENSITY block. -/

namespace Sys2Proof.Machine

/-! ### The DENSITY block (R167) -/

def deMasks : List Nat := [bitMask 35 11, bitMask 31 0, bitMask 35 18, bitMask 35 0]
def deRun (b : List Word) : Bool := bb b 0 35
def dePeriodSel (b : List Word) : Nat := bf b 0 34 33
def deShift (b : List Word) : Nat := bf b 0 32 29
def deDecay (b : List Word) : Nat := bf b 0 28 20
def deThinMin (b : List Word) : Nat := bf b 0 19 12
def deSwapEvt (b : List Word) : Bool := bb b 0 11
def deLo (b : List Word) : Nat := bf b 1 31 16
def deHi (b : List Word) : Nat := bf b 1 15 0
def deBase (b : List Word) : Nat := bf b 2 35 18
def dePeriod (b : List Word) : Nat := bw b 3
/-- R155: W and NC. -/
def deW (b : List Word) : Nat := deHi b + 1 - deLo b
def deNc (b : List Word) : Nat := min (deW b) 4096

/-- The density engine of a channel. -/
def Side.densOf (x : Side) (c : Chan) : Dens := lget x.dens c.n Dens.init
/-- The density engine of a channel replaced. -/
def Side.setDens (x : Side) (c : Chan) (d : Dens) : Side := { x with dens := lset x.dens c.n d }

/-- R167: a field is outside its limit, whatever RUN does. -/
def deFieldBad (b : List Word) : Bool := dePeriodSel b == 3 || deShift b > 8 || deDecay b > 256 || deLo b > deHi b

/-- R159: the thinning factor a block needs at f MHz and u units of spread. -/
def Side.densTh (x : Side) (c : Chan) (b : List Word) (f u : Nat) : Nat :=
  let fc := x.fConv c
  let q := max 8 ((deNc b + 127) / 128)
  let den := max 1 (fc.2 * x.dTotal c * 2 ^ xfLog2N (x.xfOf c).force * f * 2001 * (2000 - u))
  max (max 1 (deThinMin b)) ((8 * fc.1 * 2 ^ xfOfCode (x.xfOf c).force * q + den - 1) / den)

/-- R161: PERIOD is outside the limits of its mode. -/
def Side.periodBad (x : Side) (c : Chan) (b : List Word) : Bool :=
  let p := dePeriod b
  let f := x.fConv c
  let so := fun f => x.soForce f
  match dePeriodSel b with
  | 0 => p < 4167 || p > 3600000000
  | 1 => p * 2 ^ xfLog2N (x.xfOf c).force * f.2 * x.dTotal c * 240 < f.1 * 2 ^ xfOfCode (x.xfOf c).force
  | _ =>
    let h := so SO_HTIM.H_ACTIVE + so SO_HTIM.H_FP + so SO_HTIM.H_SYNC + so SO_BP.H_BP
    let v := so SO_VTIM.V_ACTIVE + so SO_VTIM.V_FP + so SO_VTIM.V_SYNC + so SO_BP.V_BP
    p < 1 || p > 255 || !x.so.run || p * h * v * 240 < so SO_PCLK.PCLK_KHZ * 1000

/-- The checks at a start and at a change of mapping. -/
def Side.densBad (x : Side) (c : Chan) (b : List Word) : Bool :=
  x.densTh c b x.laneMhz x.spread > 255 || x.periodBad c b || deHi b ≥ 2 ^ xfLog2N (x.xfOf c).force

/-! ### The store (R154, R162) -/

/-- Word offset in space 0 of buffer u of a channel. -/
def planeBase (c : Chan) (u : Nat) : Nat := 0x400000 * c.n + 0x200000 * u

/-- Words of a plane. -/
def planeLen : Nat := 2 ^ 21

/-- A plane set to zero. -/
def Side.clearPlane (x : Side) (c : Chan) (u : Nat) : Side :=
  let b := planeBase c u
  let out := fun (a : Nat) => !(decide (b ≤ a) && decide (a < b + planeLen))
  let m := x.sram.mem
  { x with sram := { x.sram with mem := { m with
      words := m.words.filter (fun p => out p.1), flips := m.flips.filter (fun p => out (8 * p.1))
      inj := m.inj.filter (fun p => out (8 * p.1)), buf := m.buf.filter (fun e => out (8 * e.blk)) } } }

/-- The words of a plane that are not zero, by offset within it. -/
def Side.planeWords (x : Side) (c : Chan) (u : Nat) : List (Nat × Word) :=
  let b := planeBase c u
  (x.sram.mem.words.filter (fun p => decide (b ≤ p.1) && decide (p.1 < b + planeLen))).map (fun p => (p.1 - b, p.2))

/-- A plane read through the decoders of its blocks: errors are mended in what is read, uncorrectable blocks become zero (R317, R321).
The words that are not zero, by offset within the plane. -/
def Side.readPlane (x : Side) (c : Chan) (u : Nat) : Side × List (Nat × Word) :=
  let b := planeBase c u
  let x := x.flushEnts .sram (fun e => decide (b ≤ 8 * e.blk) && decide (8 * e.blk < b + planeLen))
  let bs := x.sram.mem.flips.filter (fun p => decide (b ≤ 8 * p.1) && decide (8 * p.1 < b + planeLen))
  let r := bs.foldl (fun (a : Side × List (Nat × List Word)) p =>
    let q := a.1.decodeBlk .sram p.1 p.1
    (q.1, a.2 ++ [(8 * p.1 - b, q.2.1)])) (x, [])
  (r.1, r.2.foldl (fun l p => wputs l p.1 p.2) (r.1.planeWords c u))

/-- R162: a word of cells after decay. -/
def decayWord (d : Nat) (w : Word) : Word :=
  wordN (bitsOf w.toNat 35 18 * d / 256 * 2 ^ 18 + bitsOf w.toNat 17 0 * d / 256)

/-- The words of a plane, decayed, become the content of the other buffer. -/
def Side.decayInto (x : Side) (c : Chan) (u d : Nat) (ws : List (Nat × Word)) : Side :=
  let x := x.clearPlane c (1 - u)
  let m := x.sram.mem
  { x with sram := { x.sram with mem := { m with
      words := ws.foldl (fun l p => wput l (planeBase c (1 - u) + p.1) (decayWord d p.2)) m.words } } }

/-- R153: one count in cell (col, row) of a buffer; whether it was clamped. -/
def Side.countCell (x : Side) (c : Chan) (u col row : Nat) : Side × Bool :=
  let a := planeBase c u + 2048 * row + col / 2
  let r := x.readBlk .sram (a / 8)
  let w := (lget r.2.1 (a % 8) 0).toNat
  let (hi, lo) := if col % 2 == 0 then (35, 18) else (17, 0)
  let v := bitsOf w hi lo
  if v ≥ 262143 then (r.1, true)
  else (r.1.writeWhole .sram (srcOf 2 (2 + c.n) 0) (a / 8) (lset r.2.1 (a % 8) (wordN (putBits w hi lo (v + 1)))), false)

/-- R155: the value of column col: the greatest level of its bins. -/
def colValue (b : List Word) (lv : Array Nat) (col : Nat) : Nat :=
  let w := deW b
  let nc := max 1 (deNc b)
  let lo := col * w / nc
  (List.range ((col + 1) * w / nc - lo)).foldl (fun a i => max a (lv.getD (deLo b + lo + i) 0)) 0

/-- R156: the row of a column value. -/
def cellRow (b : List Word) (v : Nat) : Nat :=
  (max 0 (min 1023 (((v : Int) - deBase b) / ((2 ^ deShift b : Nat) : Int)))).toNat

/-- R157: a frame's increments in the active plane; whether a cell was clamped. -/
def Side.countFrame (x : Side) (c : Chan) (u : Nat) (b : List Word) (lv : List Nat) : Side × Bool :=
  let arr := lv.toArray
  (List.range (deNc b)).foldl (fun (a : Side × Bool) col =>
    let r := a.1.countCell c u col (cellRow b (colValue b arr col))
    (r.1, a.2 || r.2)) (x, false)

/-! ### Swaps (R161 to R164) -/

/-- R166: the header of the image of the period that ends. -/
def Side.densHeader (x : Side) (c : Chan) (d : Dens) : List Word :=
  [wordN d.period,
   wordN (b2n d.void * 2 ^ 35 + b2n d.recomp * 2 ^ 34 + b2n d.ingest * 2 ^ 33 + b2n d.sat * 2 ^ 32 + b2n d.restart * 2 ^ 31
     + x.get (DENS_STAT.TH c.n) * 2 ^ 13 + x.get (DENS_STAT.NC c.n)),
   wordN d.frames, wordN (d.tFirst / 2 ^ 36), wordN d.tFirst, wordN (d.tLast / 2 ^ 36), wordN d.tLast,
   wordN (deBase d.force * 2 ^ 18 + deShift d.force * 2 ^ 14 + d.decay)]

/-- R164: a swap within the composition of a display frame that draws the channel's plane is counted once. -/
def Side.densTear (x : Side) (c : Chan) : Side :=
  let so := x.so
  if x.soForce SO_DENS.D_EN == 1 && x.soForce SO_DENS.D_CH == c.n && !so.tear && 0 < so.line
      && so.line < x.soForce SO_VTIM.V_ACTIVE then
    { x with so := { so with tear := true } }.inc (DENS_TEAR.whole c.n)
  else x

/-- Words cut into packets of a stream: START on the first, END on the last. -/
def chunkItems (fl tf n : Nat) : Nat → List Word → List Item
  | 0, _ => []
  | k + 1, ws => if ws.isEmpty then [] else ⟨tf, fl, 0, ws.take n⟩ :: chunkItems fl tf n k (ws.drop n)

/-- The image of a period goes to the DENSITY streams of the channel, every DIV-th one. -/
def Side.offerDens (x : Side) (c : Chan) (d : Dens) (hdr : List Word) (plane : List (Nat × Word)) : Side :=
  let sel := fun (t : Strm) => t.source == 3 && t.ch == c && t.stopT.all (fun v => decide (d.tFirst < v))
  let fl := flMarks (x.on RT_STAT.UNSYNCED) d.ingest d.recomp d.void
  let x := x.offer (fun t => sel t && t.seen % max 1 t.div == 0) (fun t =>
    let is := chunkItems fl d.tFirst (2 ^ t.pktLog2) planeLen (hdr ++ wgets plane 0 planeLen)
    is.zipIdx.map (fun p => { p.1 with
      flags := Nat.lor p.1.flags ((if p.2 == 0 then flStart else 0) + (if p.2 + 1 == is.length then flEnd else 0)) }))
  { x with strm := x.strm.map (fun t => if t.bound && sel t then { t with seen := t.seen + 1 } else t) }

/-- R166: a copy that runs is cut: what it reads of its plane now is kept for it. -/
def Side.cutCopy (x : Side) (c : Chan) : Side :=
  match (x.densOf c).copy with
  | some k => if k.cut.isSome then x
    else
      let r := x.readPlane c k.buf
      (r.1.setDens c { r.1.densOf c with copy := some { k with cut := some r.2 } }).raise (DENS_STAT.OVERRUN_SEEN c.n)
  | none => x

/-- A DENSITY_READ of a channel that has not begun its copy: aux holds its instant, and 1 once it may begin. -/
def Side.densReads (x : Side) (c : Chan) : List Staged :=
  x.host.staged.filter (fun st => st.op == 0x22 && st.running && st.e.op4 % 65536 == x.densSrc c && lget st.aux 1 0 ≤ 1)

/-- One swap: the active plane becomes the held one and the next period begins with a frame whose t_last is `tl`, which is T_base of a
new PERIOD, or of a period of another mode (R167; assumption log 129). -/
def Side.densSwap (x : Side) (c : Chan) (tl : Nat) : Side :=
  let x := x.cutCopy c
  let d := x.densOf c
  let u := 1 - d.held
  let r := x.readPlane c u
  let x := r.1
  let hdr := x.densHeader c d
  let x := if d.remap then x.clearPlane c d.held else x.decayInto c u (deDecay d.block) r.2
  let newPer := dePeriodSel d.force != dePeriodSel d.block || dePeriod d.force != dePeriod d.block
  let d' := { d with
    held := u, hdr := hdr, period := d.period + 1, count := 0, frames := 0, void := false, recomp := false, ingest := false, sat := false
    restart := d.remap, decay := if d.remap then 0 else deDecay d.block, tFirst := 0, tLast := 0, remap := false, force := d.block
    tBase := if newPer then tl else d.tBase, perN := if newPer then 0 else d.perN + 1
    blanks := if dePeriodSel d.force == 2 then d.blanks.drop (dePeriod d.force) else [] }
  let x := (((x.setDens c d').set (DENS_SEQ.SEQ c.n) d.period).set (DENS_STAT.HELD_BUF c.n) u)
  let x := if d.remap then (x.set (DENS_STAT.TH c.n) (x.densTh c d.block x.laneMhz x.spread)).set (DENS_STAT.NC c.n) (deNc d.block) else x
  let x := if d.sat then x.raise (DENS_STAT.SAT_SEEN c.n) else x
  let x := if deSwapEvt d.block then x.event 0x06 x.now d.period u else x
  let x := (x.densTear c).offerDens c d hdr r.2
  (x.densReads c).foldl (fun x st => x.restage { st with aux := [lget st.aux 0 0, 1] }) x

/-- The active period has ended before a frame with t_last `tl` (R161). -/
def Dens.ended (d : Dens) (tl : Nat) : Bool :=
  match dePeriodSel d.force with
  | 0 => decide ((tl : Int) ≥ d.tBase + rhe ((d.perN + 1) * dePeriod d.force * 2 ^ 40 : Nat) (10 ^ 6))
  | 1 => d.count ≥ dePeriod d.force
  | _ => match d.blanks[dePeriod d.force - 1]? with
    | some t => decide (tl ≥ t)
    | none => false

/-- R163: every period that ended before a frame is swapped, in order. -/
def Side.densSwaps (x : Side) (c : Chan) (tl : Nat) : Nat → Side
  | 0 => x
  | n + 1 => if (x.densOf c).ended tl then (x.densSwap c tl).densSwaps c tl n else x

/-- A bound on the swaps a frame can make. -/
def Dens.swapBound (d : Dens) (tl : Nat) : Nat :=
  (tl - d.tBase) * 10 ^ 6 / (4166 * 2 ^ 40) + d.blanks.length + 2

/-- DENSITY_FRAME (R157, R159, R163): the frame at the head of the engine's queue. -/
def Side.densFrame (x : Side) (c : Chan) : Side :=
  let d := x.densOf c
  match d.queue with
  | [] => x
  | f :: rest =>
    let d := { d with queue := rest }
    let d := if d.period == 0 then { d with period := 1, tBase := f.tl, perN := 0 } else d
    let x := (x.setDens c d).densSwaps c f.tl (d.swapBound f.tl)
    let d := x.densOf c
    let d := { d with tFirst := if d.count == 0 then f.tf else d.tFirst, tLast := f.tl, count := d.count + 1 }
    if f.k % max 1 (x.get (DENS_STAT.TH c.n)) != 0 then (x.setDens c d).inc (DENS_THINNED.whole c.n)
    else
      let d := { d with void := d.void || f.void, recomp := d.recomp || f.recomp, ingest := d.ingest || f.ingest }
      if f.void then (x.setDens c d).inc (DENS_VOID.whole c.n)
      else
        let r := x.countFrame c (1 - d.held) d.force f.levels
        r.1.setDens c { d with frames := d.frames + 1, sat := d.sat || r.2 }

/-- R18: a frame that a quiesced density engine does not take is lost, and its channel's DENSITY streams miss the interval. -/
def Side.densLost (x : Side) (c : Chan) : Side :=
  let d := x.densOf c
  match d.queue with
  | [] => x
  | f :: rest =>
    (x.setDens c { d with queue := rest }).loseImages (fun t => t.source == 3 && t.ch == c && t.stopT.all (fun u => decide (f.tf < u))) f.tf

/-- DENSITY_FRAME: a swap brings every waiting field into force (R167, R273). -/
def execDensityFrame (sd : SideId) (ch : Chan) (s : State) : Host.Outcome State Fault Refusal :=
  let x := s.side sd
  .next (
    if !x.on (DENS_STAT.RUNNING ch.n) then s
    else if !x.islTakes (srcOf 2 (2 + ch.n) 0) then s.setSide sd (x.densLost ch)
    else
      let y := x.densFrame ch
      let s := s.setSide sd y
      if (y.densOf ch).period != (x.densOf ch).period && (x.densOf ch).period != 0 then s.finishCfg sd 4 (x.densSrc ch) (fun _ => true) else s)

/-! ### DENSITY_READ (R165) -/

/-- A copy begins from the held plane. -/
def Side.copyBegin (x : Side) (c : Chan) (st : Staged) : Side :=
  let d := x.densOf c
  ((x.setDens c { d with copy := some ⟨st.issuer, st.id, d.hdr, d.held, none⟩ }).raise (DENS_STAT.COPYING c.n)).restage
    { st with running := true, aux := [lget st.aux 0 0, 2] }

/-- DENSITY_READ takes effect. -/
def effDensityRead (sd : SideId) (c : Chan) (st : Staged) (t : Nat) (s : State) : State :=
  let x := s.side sd
  let wait := bitAt st.e.op4 20
  let need := if bitAt st.e.op4 19 then 9437220 else 16777280
  if !wait && x.get (DENS_SEQ.SEQ c.n) == 0 then s.refuse sd st stNoData
  else if st.e.op6 % 2 ^ 32 < need then s.refuse sd st stBadParam
  else if wait then s.mod sd (fun x => x.restage { st with running := true, aux := [(t : Int), 0] })
  else if (x.densOf c).copy.isSome then s.mod sd (fun x => x.restage { st with running := true, aux := [(t : Int), 1] })
  else s.setSide sd (x.copyBegin c { st with aux := [(t : Int)] })

/-- A DENSITY_READ's WAIT. -/
def Staged.densWait (st : Staged) : Bool := bitAt st.e.op4 20

/-- DENSITY_COPY_START: the first DENSITY_READ that may begin does so; one with WAIT = 0 is checked again. -/
def State.copyStart (s : State) (sd : SideId) (c : Chan) : State :=
  let x := s.side sd
  if (x.densOf c).copy.isSome then s
  else
    match (x.densReads c).find? (fun st => lget st.aux 1 0 == 1) with
    | none => s
    | some st =>
      if !st.densWait && x.get (DENS_SEQ.SEQ c.n) == 0 then s.refuse sd st stNoData else s.setSide sd (x.copyBegin c st)

/-- DENSITY_COPY_START. -/
def execDensityCopyStart (sd : SideId) (ch : Chan) (s : State) : Host.Outcome State Fault Refusal := .next (s.copyStart sd ch)

/-! ### The block takes effect (R167) -/

/-- The density engine restarts: both buffers are cleared, and the first frame is the first one at or after the boundary. A
DENSITY_READ with WAIT = 1 that has not begun waits for the first swap of the new run (R165). -/
def Side.densStart (x : Side) (c : Chan) (b : List Word) (t : Nat) : Side :=
  let x := x.cutCopy c
  let x := ((x.densReads c).filter Staged.densWait).foldl (fun x st => x.restage { st with aux := [lget st.aux 0 0, 0] }) x
  let x := (x.clearPlane c 0).clearPlane c 1
  let d := x.densOf c
  let x := x.setDens c { Dens.init with
    block := b, force := b, fromT := t, held := d.held, restart := true, hdr := d.hdr, copy := d.copy }
  (((x.raise (DENS_STAT.RUNNING c.n)).set (DENS_SEQ.SEQ c.n) 0).set (DENS_STAT.TH c.n) (x.densTh c b x.laneMhz x.spread)).set
    (DENS_STAT.NC c.n) (deNc b)

/-- Fields of the mapping differ. -/
def mappingDiffers (o n : List Word) : Bool :=
  deLo o != deLo n || deHi o != deHi n || deBase o != deBase n || deShift o != deShift n || deThinMin o != deThinMin n
    || dePeriodSel o != dePeriodSel n

/-- R167: CONFIGURE of the DENSITY block takes effect at instant t. -/
def effDensity (sd : SideId) (c : Chan) (st : Staged) (t : Nat) (s : State) : State :=
  let x := s.side sd
  let d := x.densOf c
  let b := blkKeep deMasks st.words
  let was := x.on (DENS_STAT.RUNNING c.n)
  if deFieldBad b then s.refuse sd st stBadParam
  else if !was && deRun b then
    if !x.on (PP_STAT.RUNNING c.n) then s.refuse sd st stPpStopped
    else if x.densBad c b then s.refuse sd st stBadParam
    else (s.setSide sd (x.densStart c b t)).complete sd st stOK t (x.frameAt c st.bnd t : Nat) 0
  else if was && !deRun b then
    let x := x.densStop c
    let s := (s.setSide sd (x.setDens c { x.densOf c with block := b })).finishCfg sd 4 (x.densSrc c) (fun _ => true)
    s.complete sd st stOK t 0 0
  else if was then
    if mappingDiffers d.block b then
      if x.densBad c b then s.refuse sd st stBadParam
      else (s.setSide sd (x.setDens c { d with block := b, remap := true })).cfgWaits sd st t 0
    else if dePeriod d.block != dePeriod b && x.periodBad c b then s.refuse sd st stBadParam
    else
      let s := s.setSide sd (x.setDens c { d with block := b })
      if dePeriod d.block != dePeriod b || deDecay d.block != deDecay b then s.cfgWaits sd st t 0
      else s.complete sd st stOK t 0 0
  else (s.setSide sd (x.setDens c { d with block := b })).complete sd st stOK t 0 0

/-- R161: a start of vertical blanking, for periods that follow the display. -/
def Side.densBlank (x : Side) : Side :=
  [Chan.c0, Chan.c1].foldl (fun x c =>
    let d := x.densOf c
    if x.on (DENS_STAT.RUNNING c.n) && dePeriodSel d.force == 2 then x.setDens c { d with blanks := d.blanks ++ [x.now] } else x) x

end Sys2Proof.Machine
end

