-- ==== Sys2Proof/Machine/Records.lean ====
section
/-! DEFINITION. Records (R221 to R234): the RECORD block, ARM and DISARM, writing of samples and lines, segments, completion, headers
and segment tables, and what READ_RECORD copies. -/

namespace Sys2Proof.Machine

/-! ### The RECORD block (R221, R222) -/

def rcMasks : List Nat :=
  [bitMask 35 25, bitMask 35 0, bitMask 35 0, bitMask 15 0] ++ List.replicate 5 (bitMask 35 0) ++ [bitMask 31 0]
def rcDoneEvt (b : List Word) : Bool := bb b 0 30
def rcSegEvt (b : List Word) : Bool := bb b 0 29
def rcThin (b : List Word) : Nat := bf b 0 28 25
def rcSpLo (b : List Word) : Nat := bf b 9 31 16
def rcSpHi (b : List Word) : Nat := bf b 9 15 0

/-- R221: CONFIGURE of the RECORD block takes effect. -/
def effRecord (sd : SideId) (st : Staged) (t : Nat) (s : State) : State :=
  let x := s.side sd
  let b := blkKeep rcMasks st.words
  let c := chanOf (bf b 0 35 35)
  if x.armed c then s.refuse sd st stChannelActive
  else if rcContent b == 0 || rcPost b == 0 then s.refuse sd st stBadParam
  else (s.setSide sd (x.setAcq c { x.acqOf c with block := b })).complete sd st stOK t 0 0

/-! ### ARM (R225, R226) -/

/-- Step between the lines of a record, in samples. -/
def Side.lineStep (x : Side) (c : Chan) (b : List Word) : Nat := (x.feOf c).gridStep * 2 ^ rcThin b

/-- k_A (R223): the least qualifying frame whose last sample is at or after m_A. -/
def Side.firstLine (x : Side) (c : Chan) (b : List Word) (mA : Nat) : Nat :=
  let st := x.lineStep c b
  let e0 := x.frameEnd c 0
  if mA ≤ e0 then 0 else (mA - e0 + st - 1) / st * 2 ^ rcThin b

/-- Regions of a record in DRAM that are in use: offset and length. -/
def rcRegions (b : List Word) : List (Nat × Nat) :=
  (if rcIq b then [(bw b 4, bw b 5)] else []) ++ (if rcSp b then [(bw b 6, bw b 7)] else [])
    ++ (if rcSeg b then [(bw b 8, 16 * rcNseg b)] else [])

/-- R226: the write rate of a channel's record, in words per second. -/
def Side.recRate (x : Side) (c : Chan) (b : List Word) : ℚ :=
  let f := x.fConv c
  let fs : ℚ := (f.1 : ℚ) / (f.2 * x.dTotal c : Nat)
  let xf := (x.xfOf c).force
  (if rcIq b then fs else 0)
    + (if rcSp b then fs * (2 ^ xfOfCode xf * lineW b : Nat) / (2 ^ xfLog2N xf * 2 ^ rcThin b : Nat) else 0)

/-- The RECORD stream of a channel, by ring. -/
def Side.recStream (x : Side) (c : Chan) : Option Nat :=
  (List.range 16).find? (fun r => (x.strmOf r).bound && (x.strmOf r).source == 4 && (x.strmOf r).ch == c)

/-- A READ_RECORD of the channel runs, or a RECORD stream still reads its last record. -/
def Side.recBusy (x : Side) (c : Chan) : Bool :=
  (x.runningCmd 0x13 (fun st => st.e.op4 % 2 == c.n)).isSome
    || (match x.recStream c with
      | some r => (x.strmOf r).recNum.isSome || !(x.strmOf r).items.isEmpty
      | none => false)

/-- R226: the checks of ARM for a channel, in order; 0 if they pass. `rate` is what the other channels being armed add. -/
def Side.armCheck (x : Side) (c : Chan) (rate : ℚ) : Nat :=
  let b := (x.acqOf c).block
  let stop := stStopEn x.starter.block c.n
  let n := 2 ^ xfLog2N (x.xfOf c).force
  let span := rcPre b + rcPost b
  if x.armed c then stChannelArmed
  else if x.recBusy c then stRecordBusy
  else if !x.on (FE_STAT.RUNNING c.n) then stFeStopped
  else if rcSp b && !x.on (XF_STAT.RUNNING c.n) then stXfStopped
  else if (rcSeg b && (rcDrain b || stop)) || (rcDrain b && stop) || (rcDrain b && rcContent b != 1)
      || (rcDrain b && (x.recStream c).isNone) || (rcSp b && (rcSpHi b ≥ n || rcSpLo b > rcSpHi b))
      || (rcRegions b).any (fun r => r.1 % 16 != 0 || r.1 + r.2 > x.dram.extent) || anyOverlap (rcRegions b) then stBadParam
  else if (!rcDrain b && ((rcIq b && (if rcSeg b then segW b * rcNseg b > bw b 5 else span > bw b 5))
        || (rcSp b && lineN b < (span - 1) / x.lineStep c b + 1)))
      || (rcDrain b && rcPre b ≥ bw b 5) || (stop && stPostStop x.starter.block c.n ≥ bw b 5) then stAcqTooLong
  else
    let live := ([Chan.c0, Chan.c1].filter (fun d => x.armed d)).foldl
      (fun (a : ℚ) d => a + (x.acqOf d).armed.elim 0 (fun r => x.recRate d r.block)) 0
    if live + rate + x.recRate c b > (x.get ACQ_LIMIT.MWPS * 10 ^ 6 : Nat) then stAcqRate else 0

/-- A channel is armed from a boundary on. -/
def Side.armOne (x : Side) (c : Chan) (t : Nat) : Side :=
  let a := x.acqOf c
  let b := a.block
  let mA := max (x.sampleAt c t) (x.feOf c).m
  let num := x.get (ACQ_RECNUM.RECNUM c.n) + 1
  let sb := x.starter.block
  let en := stStopEn sb c.n
  let r : Rec := {
    num := num, block := b, stop := [b2n en, stStopMask sb c.n, stStopN sb c.n, stPostStop sb c.n], armM := x.sampleAt c t, mA := mA
    slot := 0, slotM := mA, next := mA, samples := [], marks := [], lines := [], lineMarks := [], kA := x.firstLine c b mA, nextL := 0, slotL := 0
    trigs := [], segs := [], poison := false, segPoison := false, stopM := none, truncated := none }
  let fe := x.feOf c
  let hdr := [wordN (b2n (rcSeg b) * 2 ^ 34 + rcContent b * 2 ^ 24), wordN num, 0, 0, wordN (x.rateWord c),
    wordN (x.rateReal c * 2 ^ 35 + feDecim fe.force * 2 ^ 30), 0,
    wordN (feResp fe.force * 2 ^ 33 + feDelay (feResp fe.force) (x.dTotal c) % 2 ^ 25)] ++ List.replicate 24 0
  let x := x.setAcq c { a with armed := some r, hdr := hdr }
  let x := { x with starter := { x.starter with
    spent := x.starter.spent.filter (· != c.n), trigNum := lset x.starter.trigNum c.n 0 } }
  let x := match rcDrain b, x.recStream c with
    | true, some q => { x with strm := lmod x.strm q (fun u => { u with recNum := some num, recHead := false }) }
    | _, _ => x
  ((((((x.set (ACQ_RECNUM.RECNUM c.n) num).raise (ACQ_STAT.ARMED c.n)).drop (ACQ_STAT.DONE c.n)).drop (ACQ_STAT.IN_POST c.n)).put
    (ACQ_STAT.DRAIN c.n) (rcDrain b)).set (ACQ_STAT.SEGS c.n) 0).drop (STOP_INFO.FIRED c.n)

/-- Channels that a CH operand names. -/
def namedChans (m : Nat) : List Chan := [Chan.c0, Chan.c1].filter (fun c => bitAt m c.n)

/-- ARM takes effect: both named channels, or none. -/
def effArm (sd : SideId) (st : Staged) (t : Nat) (s : State) : State :=
  let x := s.side sd
  let cs := namedChans (st.e.op4 % 4)
  let rateOf := fun (c : Chan) => x.recRate c (x.acqOf c).block
  match cs with
  | [] => s.refuse sd st stBadParam
  | c :: rest =>
    let others := fun (d : Chan) => (cs.filter (· != d)).foldl (fun (a : ℚ) e => a + rateOf e) 0
    match cs.findSome? (fun d => if x.armCheck d (others d) == 0 then none else some (x.armCheck d (others d))) with
    | some e => s.refuse sd st e
    | none =>
      let x := (c :: rest).foldl (fun x d => x.armOne d t) x
      let mA := (x.acqOf c).armed.elim 0 (·.mA)
      (s.setSide sd x).complete sd st stOK t (x.tSample c mA % 2 ^ 36 : Nat) (x.get (ACQ_RECNUM.RECNUM c.n))

/-- DISARM takes effect (R229): writing stops at the boundary. -/
def effDisarm (sd : SideId) (st : Staged) (t : Nat) (s : State) : State :=
  let x := s.side sd
  let cs := namedChans (st.e.op4 % 4)
  if cs.isEmpty then s.refuse sd st stBadParam
  else if cs.any (fun c => !x.armed c) then s.refuse sd st stNotArmed
  else
    let x := cs.foldl (fun x c =>
      let a := x.acqOf c
      x.setAcq c { a with armed := a.armed.map (fun r => { r with stopM := some ((r.stopM.getD (x.sampleAt c t)).min (x.sampleAt c t)) }) }) x
    (s.setSide sd x).cfgWaits sd st t 0

/-! ### Writing (R222, R223, R230, R304) -/

/-- The last sample of a trigger's record or segment, as a DISARM may cut it. -/
def Rec.lastOf (r : Rec) (g : Trig) : Nat :=
  match r.stopM with
  | some u => min g.mLast (u - 1)
  | none => g.mLast

/-- The first sample a DRAIN stream has not yet read (R230). -/
def Side.readPoint (x : Side) (c : Chan) (r : Rec) : Option Nat :=
  match r.trigs.head? with
  | none => none
  | some g =>
    let first := g.mT - rcPre r.block
    match x.recStream c with
    | some q => let u := x.strmOf q; if u.recHead && u.recNum == some r.num then some u.recNext else some first
    | none => some first

/-- One sample is written, or ends the writing of a DRAIN record for good. -/
def Side.writeSample (x : Side) (c : Chan) (r : Rec) (a : ASmp) : Side × Rec :=
  if rcDrain r.block && (x.readPoint c r).any (fun p => decide (a.m ≥ p + segW r.block)) then
    (x, { r with truncated := some a.m, samples := [] })
  else
    let addr := bw r.block 4 + r.slot * segW r.block + (a.m - r.mA) % max 1 (segW r.block)
    let x := if rcIq r.block then x.writeRange .dram (acqPort c) addr [a.w] else x
    (x, { r with next := a.m + 1, samples := r.samples.drop 1 })

/-- Samples are written as far as they may be. -/
def Side.writeSamples (x : Side) (c : Chan) (r : Rec) : Nat → Side × Rec
  | 0 => (x, r)
  | n + 1 =>
    match r.samples with
    | [] => (x, r)
    | a :: _ =>
      if !x.mayWrite c r a then (x, r)
      else
        let q := x.writeSample c r a
        q.1.writeSamples c q.2 n

/-- Lines of frames that end within what has been written are written (R223). -/
def Side.writeLines (x : Side) (c : Chan) (r : Rec) : Nat → Side × Rec
  | 0 => (x, r)
  | n + 1 =>
    match r.lines with
    | [] => (x, r)
    | l :: rest =>
      if l.endM ≥ r.next then (x, r)
      else
        let x := x.writeRange .dram (acqPort c) (lineAt r.block r.slot ((l.k - r.kA) / 2 ^ rcThin r.block)) l.words
        x.writeLines c { r with lines := rest, nextL := r.nextL + 1, lineMarks := r.lineMarks ++ [(l.endM, l.ingest, l.recomp, l.void)] } n

/-- IN_POST follows the record (R243). -/
def Side.postFlag (x : Side) (c : Chan) (r : Rec) : Side :=
  x.put (ACQ_STAT.IN_POST c.n) (r.cur.any (fun g => decide (r.next ≥ g.mT)) && r.truncated.isNone)

/-- ACQ_WRITE: at most `n` samples that are ready are written, and the lines that end within what has been written. A quiesced acquisition
writes nothing (R16). -/
def Side.acqWrite (x : Side) (c : Chan) (n : Nat) : Side :=
  let a := x.acqOf c
  match a.armed with
  | none => x
  | some r =>
    if !x.islRuns starterSrc then x
    else
      let q := x.writeSamples c r (min n r.samples.length)
      let q := q.1.writeLines c q.2 q.2.lines.length
      let a := q.1.acqOf c
      let r := match a.armed with
        | some v => { q.2 with poison := v.poison, segPoison := v.segPoison }
        | none => q.2
      ((q.1.setAcq c { a with armed := some r }).postFlag c r).acqPanic c

/-- ACQ_WRITE; how many samples memory takes the row says. -/
def execAcqWrite (sd : SideId) (ch : Chan) (n : Nat) (s : State) : Host.Outcome State Fault Refusal :=
  .next (s.mod sd (fun x => x.acqWrite ch n))

/-- An analysis sample reaches an armed channel (R222): into its write buffer as soon as it is to be written. A quiesced acquisition takes
none, and the record ends there as by R304 (R18). -/
def Side.recordSample (x : Side) (c : Chan) (a : ASmp) : Side :=
  match (x.acqOf c).armed with
  | some r =>
    if a.m < r.mA || r.truncated.isSome then x
    else if !x.islTakes starterSrc then x.setAcq c { x.acqOf c with armed := some { r with truncated := some a.m } }
    else
      let u := x.on RT_STAT.UNSYNCED
      let i := a.crc || a.lost
      (x.fillBuffer c { r with
        samples := r.samples ++ [a], marks := if u || i then r.marks ++ [(a.m, i, u)] else r.marks }).acqPanic c
  | none => x

/-! ### Segments and completion (R224, R227 to R231) -/

/-- Line index and number of the lines whose last sample lies in first … last. -/
def Side.linesIn (x : Side) (c : Chan) (r : Rec) (first last : Nat) : Nat × Nat :=
  let st := max 1 (x.lineStep c r.block)
  let e0 := x.frameEnd c r.kA
  let l0 := if first ≤ e0 then 0 else (first - e0 + st - 1) / st
  if last < e0 then (l0, 0) else (l0, (last - e0) / st + 1 - l0)

/-- The span of the record or segment that a trigger makes. -/
def Side.segOf (x : Side) (c : Chan) (r : Rec) (g : Trig) : Seg :=
  let last := r.lastOf g
  let first := r.firstOf g last
  let prev := r.segs.getLast?.elim 0 (fun s => s.last + 1)
  let ls := x.linesIn c r first last
  let ls := if x.pwr.fatal then (ls.1, min ls.2 (r.nextL - ls.1)) else ls
  { num := r.segs.length + 1, first := first, last := last, share := min (prev - first) (last + 1 - first), spFirst := ls.1, spLines := if rcSp r.block then ls.2 else 0
    spShare := if rcSp r.block && prev > first then (x.linesIn c r first (prev - 1)).2 else 0, disarmed := last < g.mLast }

/-- Every line that ends at or before a sample has come and is written. -/
def Side.linesDone (x : Side) (c : Chan) (r : Rec) (last : Nat) : Bool :=
  !rcSp r.block || (r.lines.all (fun l => decide (l.endM > last)) && (x.pwr.fatal || decide (x.frameEnd c (x.nextPp c) > last)))

/-- P(D_total·m) (R59, R231). -/
def Side.ncoAt (x : Side) (c : Chan) (m : Nat) : Nat := (x.feOf c).phaseAt (x.dTotal c * m)

/-- R231: a segment table entry. -/
def Side.segEntry (x : Side) (c : Chan) (r : Rec) (g : Trig) (s : Seg) : List Word :=
  let f := r.flagsIn s.first s.last
  let t := x.tSample c s.first
  let poison := r.segPoison || x.dram.mem.poison.any (fun p => (List.range 16).any (fun i => segHas r.block r.mA s (16 * p.1 + i)))
  [wordN (2 ^ 35 + b2n s.disarmed * 2 ^ 34 + b2n poison * 2 ^ 33 + b2n f.2.1 * 2 ^ 32 + b2n f.1 * 2 ^ 31 + b2n f.2.2.1 * 2 ^ 30
      + b2n f.2.2.2 * 2 ^ 29 + s.num),
   wordN (s.first - r.mA), wordN s.share, wordN (t / 2 ^ 36), wordN t, wordN (x.ncoAt c s.first), wordN s.spFirst, wordN s.spShare] ++ g.words

/-- A record's segment is ready to be completed. -/
def Side.segReady (x : Side) (c : Chan) (r : Rec) : Option (Trig × Seg) :=
  match r.cur with
  | some g =>
    let last := r.lastOf g
    if r.next > last && x.linesDone c r last then some (g, x.segOf c r g) else none
  | none => none

/-! ### Record data (R224, R233) -/

/-- The samples of a segment or single record in time order, and poisoned blocks met. -/
def Side.segSamples (x : Side) (b : List Word) (mA : Nat) (g : Seg) : Side × List Word × Nat :=
  let r1 := x.ringRead b mA (g.num - 2) g.first g.share
  let r2 := r1.1.ringRead b mA (g.num - 1) (g.first + g.share) (g.last + 1 - (g.first + g.share))
  (r2.1, r1.2.1 ++ r2.2.1, r1.2.2 + r2.2.2)

/-- The lines of a segment in order. -/
def Side.segLines (x : Side) (b : List Word) (g : Seg) : Side × List (List Word) × Nat :=
  (List.range g.spLines).foldl (fun (a : Side × List (List Word) × Nat) i =>
    let slot := if i < g.spShare then g.num - 2 else g.num - 1
    let r := a.1.readRange .dram (lineAt b slot (g.spFirst + i)) (lineW b)
    (r.1, a.2.1 ++ [r.2.1], a.2.2 + r.2.2)) (x, [], 0)

/-- Words cut into groups of n. -/
def groupsOf (n : Nat) : Nat → List Word → List (List Word)
  | 0, _ => []
  | k + 1, ws => if ws.isEmpty then [] else ws.take n :: groupsOf n k (ws.drop n)

/-- A finished record or segment goes to the RECORD stream of the channel (SOURCE 4): header and entry, samples, lines, all with its
marks (R238). -/
def Side.offerRecord (x : Side) (c : Chan) (num : Nat) (b : List Word) (mA : Nat) (g : Option Seg) (head : List Word) (marks : Nat) : Side :=
  match x.recStream c with
  | none => x
  | some q =>
    let u := x.strmOf q
    let t := g.elim 0 (fun s => x.tSample c s.first)
    if rcDrain b || !u.stopT.all (fun v => decide (t < v)) then x
    else
      let r1 := match g with
        | some s => if rcIq b then x.segSamples b mA s else (x, [], 0)
        | none => (x, [], 0)
      let r2 := match g with
        | some s => r1.1.segLines b s
        | none => (r1.1, [], 0)
      let f := Nat.lor marks (if r1.2.2 + r2.2.2 == 0 then 0 else flPoison)
      let ps := head :: groupsOf (2 ^ u.pktLog2) r1.2.1.length r1.2.1 ++ r2.2.1
      let is : List Item := ps.zipIdx.map (fun p =>
        ⟨t, f + (if p.2 == 0 then flStart else 0) + (if p.2 + 1 == ps.length then flEnd else 0), num, p.1⟩)
      r2.1.offer (fun v => v.source == 4 && v.ch == c) (fun _ => is)

/-- SEGMENT_DONE (R227): the segment's table entry is written; the writer goes to the next slot. -/
def Side.segmentDone (x : Side) (c : Chan) : Side :=
  let a := x.acqOf c
  match a.armed with
  | none => x
  | some r =>
    if !rcSeg r.block || r.truncated.isSome then x
    else
      match x.segReady c r with
      | none => x
      | some (g, s) =>
        let entry := x.segEntry c r g s
        let r := { r with segs := r.segs ++ [s], slot := r.slot + 1, slotM := s.last + 1, slotL := r.nextL, segPoison := false }
        let x := x.setAcq c { a with armed := some r }
        let x := x.writeRange .dram (acqPort c) (bw r.block 8 + 16 * (s.num - 1)) entry
        let x := (x.set (ACQ_STAT.SEGS c.n) r.segs.length).drop (ACQ_STAT.IN_POST c.n)
        let x := if rcSegEvt r.block then x.event 0x02 x.now c.n s.num else x
        x.offerRecord c r.num r.block r.mA (some s) ((x.acqOf c).hdr ++ entry) (recFlags true (lget entry 0 0))

/-- SEGMENT_DONE. -/
def execSegmentDone (sd : SideId) (ch : Chan) (s : State) : Host.Outcome State Fault Refusal :=
  .next (s.mod sd (fun x => if x.islRuns starterSrc then x.segmentDone ch else x))

/-- R230, R304: how a record whose writing stopped for good at sample m ends: at the race time of m_last, once what was buffered is written.
With no trigger it waits for one, or for a DISARM (assumption log 132: DESIGN CHOICE). -/
def Side.truncEnd (x : Side) (c : Chan) (r : Rec) (m : Nat) : Option (List Seg × Nat) :=
  match r.cur with
  | none => if r.stopM.isSome then some (r.segs, 0) else none
  | some g =>
    let last := r.lastOf g
    if !x.pwr.fatal && (x.now < x.tSample c last || r.next < min m (last + 1)) then none
    else
      let first := r.firstOf g last
      if rcSeg r.block then some (r.segs, g.mLast + 1 - max first m)
      else
        let s := x.segOf c r g
        let ls := x.linesIn c r first (m - 1)
        some (if m > first then [{ s with
            first := first, last := min last (m - 1), disarmed := false, spLines := if rcSp r.block then min ls.2 (r.nextL - ls.1) else 0 }] else [],
          g.mLast + 1 - max first m)

/-- R229: samples of finished segments that a DISARM kept from being written. -/
def Rec.cutSamples (r : Rec) : Nat := (r.trigs.zip r.segs).foldl (fun n p => n + (p.1.mLast - p.2.last)) 0

/-- How an armed record ends, if it can now: its finished spans, and samples not written. -/
def Side.recEnd (x : Side) (c : Chan) (r : Rec) : Option (List Seg × Nat) :=
  let stopped := r.stopM.any (fun u => x.pwr.fatal || decide (r.next ≥ u))
  match r.truncated with
  | some m => x.truncEnd c r m
  | none =>
    if rcSeg r.block then
      (if r.segs.length ≥ rcNseg r.block || (stopped && r.cur.isNone) then some (r.segs, r.cutSamples) else none)
    else
      match r.cur with
      | some g => (x.segReady c r).map (fun p => ([p.2], g.mLast - p.2.last))
      | none => if stopped then some ([], 0) else none

/-- R231: the header of a complete record. -/
def Side.recHeader (x : Side) (c : Chan) (r : Rec) (segs : List Seg) (lost : Nat) : List Word :=
  let a := x.acqOf c
  let b := r.block
  let g0 := segs.head?
  let first := g0.elim 0 (·.first)
  let fl := match g0, segs.getLast? with
    | some p, some q => r.flagsIn p.first q.last
    | _, _ => (false, false, false, false)
  let t := if g0.isSome then x.tSample c first else 0
  let dis := r.stopM.isSome && (lost != 0 || segs.length < rcNseg b)
  let len := if rcIq b then segs.foldl (fun n s => n + (s.last + 1 - s.first - s.share)) 0 else 0
  let lines := segs.foldl (fun n s => n + (s.spLines - s.spShare)) 0
  let trig := (if segs.isEmpty then none else r.trigs[segs.length - 1]?).elim (List.replicate 8 (0 : Word)) (·.words)
  let res := fun i => lget a.resid i (0, 0)
  let w0 := 2 ^ 35 + b2n (rcSeg b) * 2 ^ 34 + b2n r.truncated.isSome * 2 ^ 33 + b2n dis * 2 ^ 32 + b2n r.poison * 2 ^ 31
    + b2n (lget r.stop 0 0 == 1 && !r.trigs.isEmpty) * 2 ^ 30 + b2n fl.2.1 * 2 ^ 29 + b2n fl.1 * 2 ^ 28 + b2n fl.2.2.1 * 2 ^ 27
    + b2n fl.2.2.2 * 2 ^ 26 + rcContent b * 2 ^ 24 + segs.length
  [wordN w0, wordN r.num, wordN (t / 2 ^ 36), wordN t] ++ (a.hdr.drop 4).take 2
    ++ [wordN (if g0.isSome then x.ncoAt c first else 0), lget a.hdr 7 0, wordN (first - (if g0.isSome then r.mA else 0)), wordN len, wordN lost,
      wordN (g0.elim 0 (·.spFirst)), wordN lines]
    ++ trig ++ [wordN (res 0).1, wordN (res 0).2, wordN (res 1).1, wordN (res 1).2] ++ List.replicate 7 0

/-- R272: a record of a channel completes: commands that wait for it have its race time as their boundary. -/
def Side.dateRecord (x : Side) (c : Chan) (n : Nat) : Side :=
  { x with host := { x.host with staged := x.host.staged.map (fun d => if d.bnd == .record c n then { d with bnd := .time x.now } else d) } }

/-- RECORD_DONE (R227): the record is complete and the channel leaves the armed state. -/
def Side.recordDone (x : Side) (c : Chan) : Side :=
  let a := x.acqOf c
  match a.armed with
  | none => x
  | some r =>
    match x.recEnd c r with
    | none => x
    | some (segs, lost) =>
      let hdr := x.recHeader c r segs lost
      let w0 := (lget hdr 0 0).toNat
      let post := ((r.trigs.getLast?).map r.lastOf).or a.lastPost
      let x := x.dateRecord c r.num
      let x := x.setAcq c { a with armed := none, hdr := hdr, last := some ⟨r.num, r.block, r.mA, segs, rcDrain r.block⟩, lastPost := post }
      let x := (((x.drop (ACQ_STAT.ARMED c.n)).raise (ACQ_STAT.DONE c.n)).drop (ACQ_STAT.IN_POST c.n)).drop (ACQ_STAT.DRAIN c.n)
      let x := (x.set (ACQ_STAT.SEGS c.n) segs.length)
      let x := if bitAt w0 33 then x.raise (ACQ_STAT.TRUNC_SEEN c.n) else x
      let st := if bitAt w0 31 then stContainsPoison else if bitAt w0 33 then stTruncated else if bitAt w0 32 then stDisarmed else stOK
      let x := if rcDoneEvt r.block then x.eventSt 0x01 st x.now (c.n + 2 * segs.length : Nat) r.num else x
      if rcSeg r.block then x else x.offerRecord c r.num r.block r.mA segs.head? hdr (recFlags false (lget hdr 0 0))

/-- DISARMs whose records are all complete (R229). -/
def State.finishDisarm (s : State) (sd : SideId) : State :=
  ((s.side sd).host.staged.filter (fun st => st.op == 0x11 && st.running
      && (namedChans (st.e.op4 % 4)).all (fun c => ((s.side sd).acqOf c).armed.all (fun r => r.stopM.isNone)))).foldl
    (fun s st => s.complete sd st stOK (lget st.aux 0 0).toNat 0 0) s

/-- RECORD_DONE. -/
def execRecordDone (sd : SideId) (ch : Chan) (s : State) : Host.Outcome State Fault Refusal :=
  .next (if (s.side sd).islRuns starterSrc then (s.mod sd (fun x => x.recordDone ch)).finishDisarm sd else s)

/-! ### READ_RECORD (R233) -/

/-- What a READ_RECORD names: the record, the segment, the part; or the status it fails with. -/
def Side.readPart (x : Side) (e : CmdEntry) : Except Nat (DoneRec × Option Seg) :=
  let c := chanOf (e.op4 % 2)
  let part := bitsOf e.op4 2 1
  let n := e.op7 % 2 ^ 17
  let a := x.acqOf c
  if x.armed c then .error stRecordBusy
  else
    match a.last with
    | none => .error stNoData
    | some d =>
      let seg := rcSeg d.block
      if part == 3 || (!seg && n != 0) || (seg && n == 0 && part != 2) || n > rcNseg d.block then .error stBadParam
      else
        let g := if seg then (if n == 0 then none else d.segs[n - 1]?) else d.segs.head?
        if d.drained || d.segs.isEmpty || (seg && n != 0 && g.isNone) then .error stNoData
        else if (part == 0 && !rcIq d.block) || (part == 1 && !rcSp d.block) then .error stBadParam
        else .ok (d, g)

/-- The words a READ_RECORD copies. -/
def Side.readLen (d : DoneRec) (g : Option Seg) (part n : Nat) : Nat :=
  match part, g with
  | 0, some s => s.last + 1 - s.first
  | 1, some s => s.spLines * lineW d.block
  | 2, _ => if n == 0 then 32 else 48
  | _, _ => 0

/-- READ_RECORD takes effect: its copy runs, one at a time per channel. -/
def effReadRecord (sd : SideId) (st : Staged) (t : Nat) (s : State) : State :=
  let x := s.side sd
  match x.readPart st.e with
  | .error e => s.refuse sd st e
  | .ok (d, g) =>
    let k := Side.readLen d g (bitsOf st.e.op4 2 1) (st.e.op7 % 2 ^ 17)
    let need := if bitAt st.e.op4 19 then (9 * k + 1) / 2 else 8 * k
    if st.e.op6 % 2 ^ 32 < need then s.refuse sd st stBadParam else s.cfgWaits sd st t 0

/-- The words of a READ_RECORD and the poisoned blocks it met. -/
def Side.recWords (x : Side) (e : CmdEntry) (d : DoneRec) (g : Option Seg) : Side × List Word × Nat :=
  let c := chanOf (e.op4 % 2)
  match bitsOf e.op4 2 1, g with
  | 0, some s => x.segSamples d.block d.mA s
  | 1, some s => let r := x.segLines d.block s; (r.1, r.2.1.flatten, r.2.2)
  | 2, _ =>
    let n := e.op7 % 2 ^ 17
    if n == 0 then (x, (x.acqOf c).hdr, 0)
    else
      let r := x.readRange .dram (bw d.block 8 + 16 * (n - 1)) 16
      (r.1, (r.1.acqOf c).hdr ++ r.2.1, r.2.2)
  | _, _ => (x, [], 0)

end Sys2Proof.Machine
end

