-- ==== Sys2Proof/Machine/Sample.lean ====
section
/-! DEFINITION. Analysis samples (R53, R54): converter codes go through the front end, and every sample that leaves it reaches the
transform, the detectors, the armed record, the IQ streams and a cross-side partner. -/

namespace Sys2Proof.Machine

/-- An analysis sample reaches everything on its own side that takes it. -/
def Side.spread1 (x : Side) (c : Chan) (a : ASmp) : Side :=
  let x := x.detect c a
  let x := if x.on (XF_STAT.RUNNING c.n) then x.setXf c { x.xfOf c with buf := (x.xfOf c).buf ++ [a] } else x
  (x.recordSample c a).offerIq c a

/-- Samples cross the Keel to each cross-spectrum of the other side whose partner is the channel (R147). -/
def Side.takePartner (y : Side) (c : Chan) (as : List ASmp) : Side :=
  [Chan.c0, Chan.c1].foldl (fun y o =>
    let pp := y.ppOf o
    if y.on (PP_STAT.XS_RUNNING o.n) && ppXsRemote pp.block && chanOf (ppXsRch pp.block) == c
    then y.setPp o { pp with xs := { pp.xs with rx := pp.xs.rx ++ as } } else y) y

/-- ANALYSIS_SAMPLE: codes received since the last one. -/
def State.analysis (s : State) (sd : SideId) (c : Chan) (codes : List ConvCode) : State :=
  let x := s.side sd
  if !x.on (FE_STAT.RUNNING c.n) then s
  else
    let r := x.feCodes c codes
    let s := s.setSide sd (r.2.foldl (fun x a => x.spread1 c a) r.1)
    let s := if s.keel.up then s.mod sd.other (fun y => y.takePartner c r.2) else s
    s.finishCfg sd 1 (x.feSrc c) (fun st => st.mark ≥ 0 && st.mark < ((s.side sd).feOf c).j)

/-- ANALYSIS_SAMPLE. -/
def execAnalysisSample (sd : SideId) (ch : Chan) (codes : List ConvCode) (s : State) : Host.Outcome State Fault Refusal :=
  .next (s.analysis sd ch codes)

end Sys2Proof.Machine
end

