-- ==== Sys2Proof/Machine/Clocks.lean ====
section
/-! DEFINITION. The PLLs of a side (R356 to R369): commits and their checks, the ladder of PLL-F, lock, loss of lock and loss of the
reference; and the flags of the tone outputs that gating changes (R382, R384). -/

namespace Sys2Proof.Machine

/-! ### Tone flags (R380 to R384) -/

/-- An output's enable bit. -/
def toneEn (o : Nat) : Fld := if o == 0 then TONE_CFG.EN0 else TONE_CFG.EN1

/-- A tone output. -/
def Side.toneOf (x : Side) (o : Nat) : Tone := lget x.tone o Tone.init
/-- A tone output replaced. -/
def Side.setTone (x : Side) (o : Nat) (t : Tone) : Side := { x with tone := lset x.tone o t }

/-- Mode in force. -/
def Tone.mode (t : Tone) : Nat := t.force.elim 0 ToneSet.mode

/-- The output is held at mid-scale (R370, R372, R380 to R382). -/
def Side.toneMuted (x : Side) (o : Nat) : Bool :=
  let t := x.toneOf o
  x.pwr.fatal || !x.on (toneEn o) || !t.strobed || t.hold.isSome || t.pll || t.mode == 0

/-- TONE_STATo follows the output. -/
def Side.toneFlags (x : Side) (o : Nat) : Side :=
  let t := x.toneOf o
  let x := (x.put (TONE_STAT.LIVE o) (!x.toneMuted o)).put (TONE_STAT.STAGED o) t.staged.isSome
  let x := (x.set (TONE_STAT.MODE o) t.mode).put (TONE_STAT.RANGE_SETTLING o) t.hold.isSome
  (x.put (TONE_STAT.MUTED_PLL o) t.pll).set (TONE_STAT.RANGE o) (t.force.elim 0 (fun s => bitsOf s.w6 23 16))

/-! ### Reports (R361, R367) -/

/-- R367: PLL_LOSS of a loop: event, count, and a report of class Deferred, for PLL-T Contained. -/
def Side.pllLost (x : Side) (lp : Nat) (ref : Bool) : Side :=
  let v := lp + 4 * b2n ref
  let x := ((x.event 0x20 x.now v 0).inc PLL_LOSS_COUNT.whole).raise PLL_STAT.LOSS_SEEN
  x.report (if lp == 1 then 2 else 1) (srcOf 5 8 (16 + lp)) v false

/-- PLL_CHANGE_DONE with its status, recorded in PLL_CHANGE_STAT (R361). -/
def Side.pllDone (x : Side) (lp st v : Nat) : Side :=
  let x := x.set (if lp == 0 then PLL_CHANGE_STAT.STATUS_F else PLL_CHANGE_STAT.STATUS_T) st
  x.eventSt 0x22 st x.now lp (if st == stOK then v else 0 : Nat)

/-! ### PLL-F: commits (R361, R362) -/

/-- A running transform of a channel, its cross-side partner included, fits its seats at f MHz and u units of spread. -/
def State.seatsFit (s : State) (sd : SideId) (c : Chan) (f u : Nat) : Bool :=
  let x := s.side sd
  let xf := x.xfOf c
  let pp := x.ppOf c
  let own := !x.on (XF_STAT.RUNNING c.n) || x.needed c xf.force f u ≤ x.get (XF_STAT.SEATS c.n)
  let p := x.xsPartner c pp.block
  let y := s.side p.1
  own && (!(x.on (PP_STAT.XS_RUNNING c.n) && ppXsRemote pp.block)
    || seatsNeeded (y.fConv p.2) (y.dTotal p.2) (xfOfCode xf.force) f u ≤ pp.xs.slots)

/-- R362: the checks of a PLL-F commit, in order; 0 if they pass. -/
def State.pllFCheck (s : State) (sd : SideId) (new : List Nat) : Nat :=
  let x := s.side sd
  let at_ := fun i => lget new i 0
  let f := min (lget x.clk.f 0 0) (at_ 0)
  let u := max (spreadOf (lget x.clk.f 1 0) (lget x.clk.f 2 0)) (spreadOf (at_ 1) (at_ 2))
  let cs := [Chan.c0, Chan.c1]
  if at_ 1 == 3 || at_ 2 > 10 || at_ 0 < 625 || at_ 0 > 1250 || at_ 4 > 4 then stBadParam
  else if cs.any (fun c => x.on (FE_STAT.RUNNING c.n) && decide ((x.fConv c).1 > seatRate f u * (x.fConv c).2))
      || cs.any (fun c => !s.seatsFit sd c f u)
      || cs.any (fun c => x.on (PP_STAT.RUNNING c.n)
          && decide ((x.fConv c).1 * 2 ^ xfOfCode (x.xfOf c).force > 4 * seatRate f u * (x.fConv c).2 * x.dTotal c))
      || cs.any (fun c => x.on (DENS_STAT.RUNNING c.n) && decide (x.densTh c (x.densOf c).force f u > x.get (DENS_STAT.TH c.n)))
      || (x.on STARTER_STAT.RUNNING && decide (x.horizon x.starter.force f > x.starter.h)) then stLaneBudget
  else 0

/-- R363: the next step of the ladder is committed; the spread rests until the last step has locked. -/
def Side.ladderNext (x : Side) : Side :=
  match x.clk.target with
  | none => x
  | some t =>
    let c := lget x.clk.f 0 0
    let goal := lget t 0 0
    let n := if goal ≥ c then min goal (c * 101 / 100) else max goal ((c * 99 + 99) / 100)
    let x := { x with clk := { x.clk with
      f := [n, lget x.clk.f 1 0, lget x.clk.f 2 0, lget t 3 0, lget t 4 0], fb := fbOf n (x.on PLL_LOCK_CFG.REF100) } }
    (((x.raise PLL_STAT.F_STEPPING).drop PLL_STAT.F_LOCK).set PLL_STAT.FAB_ACTIVE n)

/-- A PLL-F commit is taken: checked, and applied by a ladder or refused whole. -/
def State.takeF (s : State) (sd : SideId) (new : List Nat) : State :=
  let st := s.pllFCheck sd new
  s.mod sd (fun x =>
    let x := { x with clk := { x.clk with pendF := none } }.drop PLL_STAT.PEND_F
    if st != 0 then x.pllDone 0 st 0 else ({ x with clk := { x.clk with target := some new } } : Side).ladderNext)

/-- A step of the ladder has locked: the next one is committed, or the change ends (R363). -/
def Side.ladderLocked (x : Side) : Side :=
  match x.clk.target with
  | none => x
  | some t =>
    if lget x.clk.f 0 0 == lget t 0 0 then
      ({ x with clk := { x.clk with f := t, target := none } }.drop PLL_STAT.F_STEPPING).pllDone 0 stOK (lget t 0 0)
    else x.ladderNext

/-- PLL-F declares lock: COAST clears, the ladder goes on, and a pending commit is taken once no ladder runs (R361, R364). -/
def State.lockF (s : State) (sd : SideId) : State :=
  let s := s.mod sd (fun x =>
    let x := if x.clk.fLost then x.event 0x21 x.now 0 0 else x
    let x := { x with clk := { x.clk with fLost := false, coast := false } }
    ((x.raise PLL_STAT.F_LOCK).drop PLL_STAT.F_COAST).ladderLocked)
  match (s.side sd).clk.target, (s.side sd).clk.pendF with
  | none, some new => s.takeF sd new
  | _, _ => s

/-- LADDER_STEP: the step in force locks. -/
def execLadderStep (sd : SideId) (s : State) : Host.Outcome State Fault Refusal :=
  let x := s.side sd
  .next (if x.clk.target.isSome && !x.clk.fLost && !x.on PLL_STAT.REF_LOST then s.lockF sd else s)

/-- A write of PLL_COMMIT.F (R361). -/
def State.commitF (s : State) (sd : SideId) : State :=
  let x := s.side sd
  let new := [x.get PLLF_CFG.FAB_MHZ, x.get PLLF_CFG.SS_MODE, x.get PLLF_CFG.SS_DEPTH, x.get PLL_LOCK_CFG.WIN_F, x.get PLL_LOCK_CFG.NC_F]
  if x.on PLL_STAT.F_LOCK && x.clk.target.isNone && !x.on PLL_STAT.F_COAST then s.takeF sd new
  else s.mod sd (fun x => ({ x with clk := { x.clk with pendF := some new } } : Side).raise PLL_STAT.PEND_F)

/-! ### PLL-T (R365) -/

/-- PLL-T is gated: tones mute (R382), the coarse counter stops and stamps are INVALID (R184). -/
def Side.gateT (x : Side) : Side :=
  let x := (x.drop PLL_STAT.T_LOCK).raise SPLIT_STAT.INVALID
  let x := { x with split := { x.split with ties := [], tieRun := 0 }, tone := x.tone.map (fun (t : Tone) => { t with pll := true }) }
  (x.toneFlags 0).toneFlags 1

/-- A PLL-T commit is taken: T_MULT and NC are checked. -/
def Side.takeT (x : Side) (new : List Nat) : Side :=
  let x := { x with clk := { x.clk with pendT := none } }.drop PLL_STAT.PEND_T
  if lget new 0 0 < 8 || lget new 0 0 > 12 || lget new 2 0 > 4 then x.pllDone 1 stBadParam 0
  else
    let x := { x with clk := { x.clk with tm := new, tComm := true } }.set PLL_STAT.T_ACTIVE (lget new 0 0)
    x.gateT.pllDone 1 stOK (lget new 0 0)

/-- PLL-T declares lock. -/
def Side.lockT (x : Side) : Side :=
  let x := if x.clk.tLost then x.event 0x21 x.now 1 0 else x
  let x := { x with clk := { x.clk with tLost := false, tComm := false } }.raise PLL_STAT.T_LOCK
  match x.clk.pendT with
  | some new => x.takeT new
  | none => x

/-- A write of PLL_COMMIT.T (R361). -/
def Side.commitT (x : Side) : Side :=
  let new := [x.get PLLT_CFG.T_MULT, x.get PLL_LOCK_CFG.WIN_T, x.get PLL_LOCK_CFG.NC_T]
  if x.on PLL_STAT.T_LOCK then x.takeT new
  else { x with clk := { x.clk with pendT := some new } }.raise PLL_STAT.PEND_T

/-- A write of PLL_COMMIT. -/
def State.wPllCommit (s : State) (sd : SideId) (v : Nat) : State :=
  let s := if bitAt v 35 then s.commitF sd else s
  if bitAt v 34 then s.mod sd (fun x => x.commitT) else s

/-! ### Lock and loss (R360, R364 to R367) -/

/-- PLL-M declares lock after a loss, with its lock fields (R361, R366). -/
def Side.lockM (x : Side) : Side :=
  let x := x.event 0x21 x.now 2 0
  let x := { x with clk := { x.clk with mLost := false, m := [x.get PLL_LOCK_CFG.WIN_M, x.get PLL_LOCK_CFG.NC_M] } }
  (x.raise PLL_STAT.M_LOCK).drop PLL_STAT.M_COAST

/-- The loops have been started (INIT_STAT.PHASE 1). -/
def Side.pllsRun (x : Side) : Bool := x.get PLL_STAT.FAB_ACTIVE != 0

/-- PLL_LOCK: an unlocked loop in acquisition declares lock. -/
def execPllLock (sd : SideId) (lp : Fin 3) (s : State) : Host.Outcome State Fault Refusal :=
  let x := s.side sd
  .next (
    if !x.pllsRun || x.on PLL_STAT.REF_LOST then s
    else match lp.val with
      | 0 => if x.on PLL_STAT.F_LOCK || x.clk.coast then s else s.lockF sd
      | 1 => if x.on PLL_STAT.T_LOCK then s else s.mod sd (fun x => x.lockT)
      | _ => if x.clk.mLost && x.on PLL_STAT.M_COAST && !x.clk.mCoast then s.mod sd (fun x => x.lockM) else s)

/-- A loop loses lock or its reference: PLL-F and PLL-M coast, PLL-T is gated. -/
def Side.lossOf (x : Side) (lp : Nat) (ref : Bool) : Side :=
  let x := match lp with
    | 0 => ({ x with clk := { x.clk with fLost := true, coast := true } }.drop PLL_STAT.F_LOCK).raise PLL_STAT.F_COAST
    | 1 => { x with clk := { x.clk with tLost := true } }.gateT
    | _ => ({ x with clk := { x.clk with mLost := true, mCoast := true } }.drop PLL_STAT.M_LOCK).raise PLL_STAT.M_COAST
  x.pllLost lp ref

/-- A loop is locked. -/
def Side.locked (x : Side) (lp : Nat) : Bool :=
  x.on (match lp with | 0 => PLL_STAT.F_LOCK | 1 => PLL_STAT.T_LOCK | _ => PLL_STAT.M_LOCK)

/-- PLL_LOSS: a locked loop, or PLL-F on a step of its ladder, loses lock with the reference present. -/
def execPllLoss (sd : SideId) (lp : Fin 3) (s : State) : Host.Outcome State Fault Refusal :=
  .next (s.mod sd (fun x =>
    if x.locked lp.val || (lp.val == 0 && x.clk.target.isSome && !x.clk.fLost) then x.lossOf lp.val false else x))

/-- REFCLK_LOST: one loss for each loop that has been started. -/
def execRefclkLost (sd : SideId) (s : State) : Host.Outcome State Fault Refusal :=
  .next (s.mod sd (fun x =>
    if !x.pllsRun || x.on PLL_STAT.REF_LOST then x
    else
      let x := ((x.raise PLL_STAT.REF_LOST).lossOf 0 true).lossOf 1 true
      if x.on PLL_STAT.M_LOCK || x.on PLL_STAT.M_COAST then x.lossOf 2 true else x.pllLost 2 true))

/-- REFCLK_RETURN: the loops re-enter acquisition at once. -/
def execRefclkReturn (sd : SideId) (s : State) : Host.Outcome State Fault Refusal :=
  .next (s.mod sd (fun x =>
    if x.on PLL_STAT.REF_LOST then ({ x with clk := { x.clk with coast := false, mCoast := false } } : Side).drop PLL_STAT.REF_LOST else x))

/-- COAST_EXPIRY: 64 reference cycles after a loss of lock PLL-F, or PLL-M (R366), re-enters acquisition. -/
def execCoastExpiry (l : CoastLoop) (s : State) : Host.Outcome State Fault Refusal :=
  .next (s.mod l.sd (fun x => if x.on PLL_STAT.REF_LOST then x
    else if l.pllM then { x with clk := { x.clk with mCoast := false } } else { x with clk := { x.clk with coast := false } }))

end Sys2Proof.Machine
end

