-- ==== Sys2Proof/Machine/Tone.lean ====
section
/-! DEFINITION. Tone outputs (R370 to R384): staged sets, load strobes and their distribution, the codes of the DAC, tracking steps,
playback and the range hold; and stamps of the event-class inputs, one of which makes strobes (R190, R378). -/

namespace Sys2Proof.Machine

/-! ### A set (R376) -/

def ToneSet.phase (t : ToneSet) : Nat := bitsOf t.w5 63 48
def ToneSet.freq (t : ToneSet) : Nat := bitsOf t.w5 47 0
def ToneSet.loop (t : ToneSet) : Bool := bitAt t.w6 28
def ToneSet.clr (t : ToneSet) : Bool := bitAt t.w6 27
def ToneSet.trk (t : ToneSet) : Chan := chanOf (bitsOf t.w6 26 26)
def ToneSet.range (t : ToneSet) : Nat := bitsOf t.w6 23 16
def ToneSet.amp (t : ToneSet) : Nat := bitsOf t.w6 15 0
def ToneSet.trkN (t : ToneSet) : Nat := bitsOf t.w7 63 48
def ToneSet.step (t : ToneSet) : Nat := bitsOf t.w7 47 0
def ToneSet.pbLen (t : ToneSet) : Nat := 16 * bitsOf t.w7 63 36
def ToneSet.pbBase (t : ToneSet) : Nat := bitsOf t.w7 35 0

/-- The tone output a source ID names on a side. -/
def Side.toneNo (x : Side) (src : Nat) : Option Nat :=
  (List.range 2).find? (fun o => x.src (srcOf 5 4 (16 + o)) == src)

/-- TONE_STAGE takes effect (R376). -/
def effToneStage (sd : SideId) (st : Staged) (t : Nat) (s : State) : State :=
  let x := s.side sd
  let v : ToneSet := ⟨st.e.op5, bitsOf st.e.op6 28 0, st.e.op7⟩
  match x.toneNo (st.e.op4 % 65536) with
  | none => s.refuse sd st stBadSource
  | some o =>
    if v.range > 240 || (v.mode == 3 && (v.pbBase % 16 != 0 || v.pbLen == 0 || decide (v.pbBase + v.pbLen > x.dram.extent)))
    then s.refuse sd st stBadParam
    else if v.mode == 2 && !x.on (FE_STAT.RUNNING v.trk.n) then s.refuse sd st stFeStopped
    else
      let u := x.toneOf o
      (s.setSide sd ((x.setTone o { u with staged := some v }).toneFlags o)).complete sd st stOK t (b2n u.staged.isSome : Nat) 0

/-! ### Load strobes (R377 to R379) -/

/-- One microsecond in race-time LSBs. -/
def usLsb : Nat := nsLsb 1000

/-- A strobe with its commands joins the strobes to come; equal instants are one strobe. -/
def addDue (t : Nat) (cs : List (SideId × Nat)) : List (Nat × List (SideId × Nat)) → List (Nat × List (SideId × Nat))
  | [] => [(t, cs)]
  | p :: r => if p.1 == t then (t, p.2 ++ cs) :: r else if t < p.1 then (t, cs) :: p :: r else p :: addDue t cs r

/-- A side takes a strobe at t. -/
def Side.dueStrobe (x : Side) (t : Nat) (cs : List (SideId × Nat)) : Side :=
  { x with strobe := { x.strobe with due := addDue t cs x.strobe.due } }

/-- R378, R379: a strobe requested by a side is fixed: by itself in split crew or with LOCAL, else by the cox side. -/
def State.reqStrobe (s : State) (sd : SideId) (loc : Bool) (t : Nat) (cs : List (SideId × Nat)) : State :=
  if loc || !s.keel.up then s.mod sd (fun x => x.dueStrobe t cs)
  else if (s.side sd).isCox then (s.mod sd (fun x => x.dueStrobe t cs)).send sd.other (.strobe t)
  else
    (s.mod sd (fun x => { x with strobe := { x.strobe with reqs := x.strobe.reqs ++ cs } })).send sd.other (.strobeReq t)

/-- STROBE takes effect at its execution: t_s is one microsecond ahead, or the boundary. -/
def effStrobe (sd : SideId) (st : Staged) (s : State) : State :=
  let x := s.side sd
  let loc := st.e.op4 % 2 == 1
  let t := match st.bnd with
    | .time t => t
    | _ => x.now + usLsb
  if t < x.now + usLsb then s.refuse sd st stBoundaryPast
  else if !loc && s.keel.resolving then s.refuse sd st stCoxBusy
  else
    let s := s.mod sd (fun x => x.restage { st with running := true, aux := [(t : Int)] })
    s.reqStrobe sd loc t [(st.issuer, st.id)]

/-- STROBE_DISTRIBUTION: the oldest strobe block in flight arrives: a crew side's request at the side it was sent to as cox, which fixes
it and sends it back, also where cox has moved meanwhile (R33 step 2); or t_s at the side that asked or follows. -/
def State.strobeArrive (s : State) : State :=
  match takeMsg (fun _ m => match m with | .strobe _ => true | .strobeReq _ => true | _ => false) s.keel.msgs with
  | some ((dst, .strobeReq t), rest) =>
    let s := { s with keel := { s.keel with msgs := rest } }
    (s.mod dst (fun x => x.dueStrobe t [])).send dst.other (.strobe t)
  | some ((dst, .strobe t), rest) =>
    let s := { s with keel := { s.keel with msgs := rest } }
    s.mod dst (fun x =>
        let mine := fun (q : SideId × Nat) => (x.cmdOf q.1 q.2).any (fun c => lget c.aux 0 0 == (t : Int))
        ({ x with strobe := { x.strobe with reqs := x.strobe.reqs.filter (fun q => !mine q) } } : Side).dueStrobe t
          (x.strobe.reqs.filter mine))
  | _ => s

/-- STROBE_DISTRIBUTION. -/
def execStrobeDistribution (s : State) : Host.Outcome State Fault Refusal := .next s.strobeArrive

/-- An output at a strobe: its staged set replaces the set in force; after gating the set in force applies again (R377, R380 to
R382). Answers whether a staged set was taken. -/
def Side.strobeTone (x : Side) (o t : Nat) : Side × Bool :=
  let u := x.toneOf o
  let took := u.staged.isSome
  if !x.on PLL_STAT.T_LOCK then (x, false)
  else if !x.on (toneEn o) then ((x.setTone o { u with pll := false }).toneFlags o, false)
  else if !took && !u.pll then ((x.setTone o { u with strobed := true }).toneFlags o, false)
  else
    let f := if took then u.staged else u.force
    let r0 := u.force.elim 0 ToneSet.range
    let r1 := f.elim 0 ToneSet.range
    let u := { u with
      staged := none, force := f, acc := if f.any ToneSet.clr then 0 else u.acc
      trkK0 := none, trkJ := 0, trkT := t, pbPos := 0, pbEnd := false, pbSub := 0, l1 := [], l2 := []
      strobed := true, pll := false, hold := if r0 != r1 then some (t + nsLsb 2000) else u.hold }
    ((x.setTone o u).toneFlags o, took)

/-- LOAD_STROBE: the first strobe whose t_s has come is taken; its commands complete, dated t_s. -/
def State.loadStrobe (s : State) (sd : SideId) : State :=
  let x := s.side sd
  match x.strobe.due with
  | [] => s
  | (t, cs) :: rest =>
    if x.now < t then s
    else
      let x := { x with strobe := { x.strobe with due := rest, done := t :: x.strobe.done } }
      let a := x.strobeTone 0 t
      let b := a.1.strobeTone 1 t
      let x := b.1.setPair TONE_LAST_STB_LO.whole.idx t
      let x := if x.on TONE_CFG.STB_EVT then x.event 0x23 t (b2n a.2 + 2 * b2n b.2 : Nat) (t % 2 ^ 36 : Nat) else x
      cs.foldl (fun s q => match (s.side sd).cmdOf q.1 q.2 with
        | some c => s.complete sd c stOK t 0 0
        | none => s) (s.setSide sd x)

/-- LOAD_STROBE. -/
def execLoadStrobe (sd : SideId) (s : State) : Host.Outcome State Fault Refusal := .next (s.loadStrobe sd)

/-! ### Codes (R371 to R375) -/

/-- R371: entry i of the sine table; entry 4,096 is 131,071. -/
def toneQ (i : Nat) : Int := if i ≥ 4096 then 131071 else fxRound 131071 (fxSin i 16384)

/-- SIN of a 24-bit phase. -/
def toneSin (th : Nat) : Int :=
  let qd := th / 2 ^ 22 % 4
  let x : Nat := if qd % 2 == 1 then 2 ^ 22 - th % 2 ^ 22 else th % 2 ^ 22
  let i : Nat := x / 1024
  let f : Nat := x % 1024
  let v := if f == 0 then toneQ i else toneQ i + rheP ((toneQ (i + 1) - toneQ i) * f) 10
  if qd < 2 then v else -v

/-- COS of a 24-bit phase. -/
def toneCos (th : Nat) : Int := toneSin ((th + 2 ^ 22) % 2 ^ 24)

/-- The phase of the next sample. -/
def Tone.theta (t : Tone) (v : ToneSet) : Nat := (t.acc / 2 ^ 24 + v.phase * 2 ^ 8) % 2 ^ 24

/-- The frequency in force; tracking adds its steps (R373). -/
def Tone.freqNow (t : Tone) (v : ToneSet) : Nat :=
  if v.mode == 2 then (v.freq + (if v.trkN == 0 then t.trkJ else t.trkJ % (v.trkN + 1)) * v.step) % 2 ^ 48 else v.freq

/-- R374: an interpolation stage takes an input, or a zero between inputs. -/
def upStep (l : List (Int × Int)) (s : Int × Int) : List (Int × Int) × (Int × Int) :=
  let l := (s :: l).take 143
  let acc := l.zipIdx.foldl (fun (a : Int × Int) p =>
    let c := hbC ((p.2 : Int) - 71)
    (a.1 + c * p.1.1, a.2 + c * p.1.2)) (0, 0)
  (l, (satS 18 (rheP (2 * acc.1) 19), satS 18 (rheP (2 * acc.2) 19)))

/-- R375: the playback sample that is due: from DRAM, or zero after the end or while the prefetch is empty. -/
def Side.pbSample (x : Side) (o : Nat) (v : ToneSet) (ready : Bool) : Side × (Int × Int) :=
  let t := x.toneOf o
  if t.pbEnd then (x, (0, 0))
  else
    let next := t.pbPos + 1
    let t' := if next < v.pbLen then { t with pbPos := next } else if v.loop then { t with pbPos := 0 } else { t with pbPos := next, pbEnd := true }
    let y := x.setTone o t'
    if !ready then ((y.inc (TONE_UNDERRUN.whole o)).raise (TONE_STAT.UNDERRUN_SEEN o), (0, 0))
    else
      let r := y.readWord .dram (v.pbBase + t.pbPos)
      let w := r.2.1
      (if r.2.2 then r.1.raise (TONE_STAT.PSN_SEEN o) else r.1, (smpI w, smpQ w))

/-- The interpolated sample of a DAC sample in PLAYBACK. -/
def Side.pbNext (x : Side) (o : Nat) (v : ToneSet) (ready : Bool) : Side × (Int × Int) :=
  let sub := (x.toneOf o).pbSub
  let r := if sub == 0 then x.pbSample o v ready else (x, (0, 0))
  let t := r.1.toneOf o
  let a := if sub % 2 == 0 then upStep t.l1 r.2 else (t.l1, (0, 0))
  let b := upStep t.l2 a.2
  (r.1.setTone o { t with l1 := a.1, l2 := b.1, pbSub := (sub + 1) % 4 }, b.2)

/-- sat14 of a code, and whether it clamped. -/
def code14 (v : Int) (amp : Nat) : Int × Bool := let c := rheP (v * amp) 20; (satS 14 c, clipS 14 c)

/-- The origin frame of tracking is passed once its first sample's race time has come (R373). -/
def Side.trkSettle (x : Side) (o : Nat) : Side :=
  let t := x.toneOf o
  match t.force with
  | some v =>
    if v.mode != 2 || t.trkK0.isSome || !x.on (FE_STAT.RUNNING v.trk.n) then x
    else
      let k := x.frameAfter v.trk t.trkT
      let fe := x.feOf v.trk
      let u := x.tSample v.trk (fe.m0 + k * fe.gridStep)
      if x.now ≥ u then x.setTone o { t with trkK0 := some k, trkT := u } else x
  | none => x

/-- TRACKING_STEP: the next frame boundary of TRK_CH has come. -/
def Side.trkStep (x : Side) (o : Nat) : Side :=
  let x := x.trkSettle o
  let t := x.toneOf o
  match t.force with
  | some v =>
    if v.mode != 2 || t.trkK0.isNone || !x.on (FE_STAT.RUNNING v.trk.n) then x
    else
      let fe := x.feOf v.trk
      let u := x.tSample v.trk (fe.m0 + x.frameAfter v.trk (t.trkT + 1) * fe.gridStep)
      if x.now ≥ u then x.setTone o { t with trkJ := t.trkJ + 1, trkT := u } else x
  | none => x

/-- TRACKING_STEP. -/
def execTrackingStep (sd : SideId) (o : Fin 2) (s : State) : Host.Outcome State Fault Refusal :=
  .next (s.mod sd (fun x => if x.on PLL_STAT.T_LOCK then x.trkStep o.val else x))

/-- DAC_SAMPLE: the code of a sample is formed and the NCO advances; a muted output stays at mid-scale. -/
def Side.dacSample (x : Side) (o : Nat) (ready : Bool) : Side :=
  let x := x.trkSettle o
  let t := x.toneOf o
  match t.force with
  | none => x.setTone o { t with code := 0 }
  | some v =>
    if v.mode == 0 || !x.on (toneEn o) then x.setTone o { t with code := 0 }
    else
      let th := t.theta v
      let r := if v.mode == 3 then
          let p := x.pbNext o v ready
          (p.1, satS 18 (rheP (p.2.1 * toneCos th - p.2.2 * toneSin th) 17))
        else (x, toneSin th)
      let c := code14 r.2 v.amp
      let x := if c.2 then r.1.raise (TONE_STAT.SAT_SEEN o) else r.1
      let t := x.toneOf o
      x.setTone o { t with acc := (t.acc + t.freqNow v) % 2 ^ 48, code := if x.toneMuted o then 0 else c.1 }

/-- DAC_SAMPLE: there are none while PLL-T is gated. -/
def execDacSample (sd : SideId) (o : Fin 2) (prefetched : Bool) (s : State) : Host.Outcome State Fault Refusal :=
  .next (s.mod sd (fun x => if x.on PLL_STAT.T_LOCK then x.dacSample o.val prefetched else x))

/-! ### Enable and range (R380, R381) -/

/-- RANGE_SETTLED: the hold has run out. -/
def execRangeSettled (sd : SideId) (o : Fin 2) (s : State) : Host.Outcome State Fault Refusal :=
  .next (s.mod sd (fun x =>
    let t := x.toneOf o.val
    if t.hold.any (fun e => decide (x.now ≥ e)) then (x.setTone o.val { t with hold := none }).toneFlags o.val else x))

/-- An output's enable changes: it is muted, with nothing in force, and keeps its staged set. -/
def Side.toneEnable (x : Side) (o : Nat) (was : Bool) : Side :=
  let t := x.toneOf o
  if was == x.on (toneEn o) then x
  else (x.setTone o { t with force := none, strobed := false, hold := none, code := 0 }).toneFlags o

/-- A write of TONE_CFG. -/
def Side.wToneCfg (x : Side) (v : Word) : Side :=
  let a := x.on TONE_CFG.EN0
  let b := x.on TONE_CFG.EN1
  ((x.setReg TONE_CFG.whole.idx (v &&& wordN (bitMask 35 32))).toneEnable 0 a).toneEnable 1 b

/-! ### Event-class stamps (R190) -/

/-- EVENT_STAMP: an edge on TRIGIN0, TRIGIN1, PPS_IN or LDSTB; a stamp of LDSTB makes a strobe on the cox side, or in split crew on
its own (R378, R379). -/
def State.eventStamp (s : State) (sd : SideId) (i : Nat) (fall : Bool) (st : SplitStamp) : State :=
  let r := s.stampEvent sd i fall st
  let s := r.1
  let x := s.side sd
  match r.2 with
  | none => s
  | some t =>
    if i != 3 || !x.on TONE_CFG.LDSTB_EN then s
    else if s.keel.resolving then s.mod sd (fun x => x.inc TONE_STB_DISCARD.whole)
    else if x.isCrew then s
    else s.reqStrobe sd false (t + usLsb) []

/-- EVENT_STAMP. -/
def execEventStamp (sd : SideId) (src : Fin 4) (fall : Bool) (st : SplitStamp) (s : State) : Host.Outcome State Fault Refusal :=
  .next (s.eventStamp sd src.val fall st)

end Sys2Proof.Machine
end

