-- ==== Sys2Proof/Machine/Monitor.lean ====
section
/-! DEFINITION. The monitor converter (R385 to R395): slots of the modulators, corrected results, thresholds and their effects, and
the result buffer with its resize. -/

namespace Sys2Proof.Machine

/-- The converter's island, without the side bit. -/
def monSrc : Nat := srcOf 5 3 0

/-! ### Slots (R386) -/

/-- Enabled inputs of a modulator, ascending. -/
def Side.monInputs (x : Side) (md : Nat) : List Nat :=
  ((List.range 4).map (fun k => md + 4 * k)).filter (fun i => x.on (MON_IN_CFG.EN i))

/-- A modulator begins a slot after one on input `cur`: the next enabled input, with 4 discarded periods when the multiplexer
changes. -/
def Side.nextSlot (x : Side) (md : Nat) (cur : Option Nat) : Side :=
  let l := x.monInputs md
  let nxt := match cur with
    | some c => (l.find? (fun i => decide (i > c))).orElse (fun _ => l.head?)
    | none => l.head?
  { x with mon := { x.mon with cur := lset x.mon.cur md nxt, drop := lset x.mon.drop md (if nxt == cur then 0 else 4) } }

/-! ### The FIR stage (R387) -/

/-- Coefficients of a response, for s[2k] to s[2k − 3]. -/
def monFir (sel : Nat) : List Int :=
  match sel with
  | 0 => [16, 0, 0, 0]
  | 2 => [4, 4, 4, 4]
  | 3 => [2, 6, 6, 2]
  | _ => [-2, 20, -2, 0]

/-- Σ c[n]·s[2k − n] of a modulator whose sinc4 stage gives s1 = s[2k − 1] and s0 = s[2k]. -/
def Mon.firSum (m : Mon) (md : Nat) (s1 s0 : Int) : Int :=
  ((monFir m.fir).zip (s0 :: s1 :: lget m.hist md [])).foldl (fun a p => a + p.1 * p.2) 0

/-- y[k], a sixteenth of the sum, as the signed 24-bit raw value. The spec states neither the rounding of a sum that 16 does not divide
(one of its two neighbours: a free bit) nor a value outside 24 bits (a free value). DESIGN CHOICE (assumption log 137). -/
def State.monRaw (s : State) (sum : Int) : Int × State :=
  let y := sum / 16
  let f := s.takeFree
  if y < -8388608 || y > 8388607 || (sum % 16 != 0 && y == 8388607) then (sx 24 f.1.toNat, f.2)
  else if sum % 16 == 0 then (y, s)
  else (y + b2n (bitAt f.1.toNat 0), f.2)

/-- Every modulator begins a new slot on the input it serves (R388, R394). -/
def Side.monRestart (x : Side) : Side := { x with mon := { x.mon with drop := [4, 4, 4, 4] } }

/-! ### The buffer (R392, R393) -/

/-- R393: a staged resize takes effect as the buffer wraps. -/
def Side.monResize (x : Side) (new : Nat) : Side :=
  let old := 2 ^ x.get MON_STAT.LOG2LEN_ACTIVE
  let len := 2 ^ new
  let rp := x.get MON_RP.RP
  let lost := if rp ≥ len then old - rp else if len < old then old - len else 0
  let x := if rp ≥ len then x.set MON_RP.RP 0 else x
  let x := if lost == 0 then x else (x.bump RING_RESIZE_DROP.whole lost).raise MON_STAT.RESIZE_DROP_SEEN
  ({ x with mon := { x.mon with resize := none } }.drop MON_STAT.RESIZE_PEND).set MON_STAT.LOG2LEN_ACTIVE new

/-- R392: a result word goes to the buffer, or is dropped. -/
def State.monBuffer (s : State) (sd : SideId) (w : Word) : State :=
  let x := s.side sd
  let len := 2 ^ x.get MON_STAT.LOG2LEN_ACTIVE
  let wp := x.get MON_WP.WP
  let base := x.pair MON_BASE_LO.whole.idx
  if !x.on MON_CFG.BUF_EN then s
  else if (wp + 1) % len == x.get MON_RP.RP then s.mod sd (fun x => (x.inc MON_RING_DROP.whole).raise MON_STAT.DROP_SEEN)
  else
    let s :=
      if x.on MON_CFG.HOST then
        (if !s.dmaOpen sd then s
        else if x.on MON_CFG.HOST_DENSE then
          let at_ := base + wp / 2 * 9
          let old := numOf ((List.range 9).map (fun i => bget (s.side (s.endpoint sd)).host.mem (at_ + i)))
          s.dmaWrite sd at_ (bytesOf 9 (putBits old (36 * (wp % 2) + 35) (36 * (wp % 2)) w.toNat))
        else s.dmaWrite sd (base + 8 * wp) (bytesOf 8 w.toNat))
      else s.mod sd (fun x => if inGeneral (base + wp) 1 then x.writeRange .sram monSrc (base + wp) [w] else x)
    s.mod sd (fun x =>
      let x := x.set MON_WP.WP ((wp + 1) % len)
      match x.mon.resize with
      | some n => if wp + 1 == len then x.monResize n else x
      | none => x)

/-! ### Results (R389 to R391) -/

/-- A change of HIGH or LOW of an input (R391): direction 0 HIGH set, 1 cleared, 2 LOW set, 3 cleared. -/
def Side.crossing (x : Side) (i dir : Nat) (v : Int) : Side :=
  let f := if dir < 2 then MON_STATE.HIGH else MON_STATE.LOW
  let set := dir % 2 == 0
  let x := if set then x.orBit f i else x.andNotBit f i
  let x := if x.on (MON_IN_CFG.EVT i) then x.event 0x0F x.now (i + 16 * dir : Nat) v else x
  if set && x.on (MON_IN_CFG.FLT i) then x.report 2 (srcOf 5 3 (16 + i)) (ux 36 v) false else x

/-- R390: a value is compared with the thresholds of its input. -/
def Side.thresholds (x : Side) (i : Nat) (v : Int) (inTrans : Nat) : Side :=
  let hy : Int := x.get (MON_IN_CFG.HYST i)
  let hi := x.getS (MON_HI.HI i)
  let lo := x.getS (MON_LO.LO i)
  let h := bitAt (x.get MON_STATE.HIGH) i
  let l := bitAt (x.get MON_STATE.LOW) i
  let x := if !h && v > hi then x.crossing i 0 v else if h && v ≤ hi - hy then x.crossing i 1 v else x
  let x := if !l && v < lo then x.crossing i 2 v else if l && v ≥ lo + hy then x.crossing i 3 v else x
  x.refModes inTrans

/-- R389: the corrected value of a raw result, and whether it was clamped. -/
def Side.corrected (x : Side) (i : Nat) (raw : Int) : Int × Bool :=
  let g := bitsOf (x.calForce (MON_CORR_LO.whole i).idx).toNat 23 0
  let o := sx 24 (x.calForce (MON_CORR_HI.whole i).idx).toNat
  let v := rheP ((raw - o) * g) 22
  (satS 24 v, clipS 24 v)

/-- A kept output period of input i gives a result. -/
def State.monValue (s : State) (sd : SideId) (i : Nat) (raw : Int) (inTrans : Nat) : State :=
  let x := s.side sd
  let r := x.corrected i raw
  let n := lget x.mon.seqs i 0
  let w := wordN (i * 2 ^ 32 + n % 256 * 2 ^ 24 + ux 24 r.1)
  let x := if r.2 then x.raise MON_STAT.SAT_SEEN else x
  let x := { x with mon := { x.mon with seqs := lset x.mon.seqs i ((n + 1) % 256) } }.setReg (MON_LAST.whole i).idx w
  (s.setSide sd (x.thresholds i r.1 inTrans)).monBuffer sd w

/-- R388: DEC_LOG2 and FIR_SEL come into force at the start of modulator 0's output period. -/
def Side.monFilter (x : Side) : Side :=
  let d := x.get MON_CFG.DEC_LOG2
  let f := x.get MON_CFG.FIR_SEL
  if d == x.mon.dec && f == x.mon.fir then x
  else { x with mon := { x.mon with dec := d, fir := f, hist := List.replicate 4 [0, 0] } }.monRestart

/-- R404: calibration item 3 runs, and no results are formed. -/
def Side.calConverts (x : Side) : Bool := x.cal.job.any (fun j => !j.restore && j.left.head? == some 3)

/-- MON_RESULT: an output period of a modulator ends, with the sinc4 stage's two outputs in it; the first four of a slot are discarded. -/
def State.monPeriod (s : State) (sd : SideId) (md : Nat) (s1 s0 : Int) (inTrans : Nat) : State :=
  let x := s.side sd
  if s.held || !x.islRuns monSrc || x.calConverts then s
  else
    let d := lget x.mon.drop md 0
    let s := match lget x.mon.cur md none with
      | none => s
      | some i =>
        let sum := x.mon.firSum md s1 s0
        let s := s.mod sd (fun x => { x with mon := { x.mon with hist := lset x.mon.hist md [s0, s1] } })
        if d > 0 then s.mod sd (fun x => { x with mon := { x.mon with drop := lset x.mon.drop md (d - 1) } })
        else
          let r := s.monRaw sum
          (r.2.monValue sd i r.1 inTrans).mod sd (fun x => x.nextSlot md (some i))
    if md == 0 then s.mod sd (fun x => x.monFilter) else s

/-- MON_RESULT; `inTrans` as in `Side.refModes`. -/
def execMonResult (sd : SideId) (md : Fin 4) (p : MonPeriod) (s : State) : Host.Outcome State Fault Refusal :=
  .next (s.monPeriod sd md.val p.s1.toInt p.s0.toInt p.inTrans.toNat)

/-! ### Configuration -/

/-- R388, R392, R393: a write of MON_CFG, judged on BUF_EN before it. -/
def Side.wMonCfg (x : Side) (v : Word) : Side :=
  let w := v.toNat
  let was := x.on MON_CFG.BUF_EN
  let now_ := bitAt w 28
  let host := bitsOf w 27 26
  let same := host == bitsOf (x.reg MON_CFG.whole.idx).toNat 27 26
  let x := if was && !same then x.raise MON_STAT.CFG_IGNORED else x
  let hostN := if was then bitsOf (x.reg MON_CFG.whole.idx).toNat 27 26 else host
  let dec := if bitsOf w 35 32 < 8 then 8 else bitsOf w 35 32
  let len := log2Len (bitsOf w 25 21)
  let x := x.setReg MON_CFG.whole.idx
    (wordN (dec * 2 ^ 32 + bitsOf w 31 29 * 2 ^ 29 + b2n now_ * 2 ^ 28 + hostN * 2 ^ 26 + bitsOf w 25 21 * 2 ^ 21))
  if !was && now_ then
    ((({ x with mon := { x.mon with resize := none } }.set MON_WP.WP 0).set MON_RP.RP 0).drop MON_STAT.RESIZE_PEND).set
      MON_STAT.LOG2LEN_ACTIVE len
  else if was then
    (if len == x.get MON_STAT.LOG2LEN_ACTIVE then { x with mon := { x.mon with resize := none } }.drop MON_STAT.RESIZE_PEND
    else ({ x with mon := { x.mon with resize := some len } } : Side).raise MON_STAT.RESIZE_PEND)
  else x

/-- R392: a commit of MON_BASE, ignored while the buffer is enabled. -/
def Side.wMonBase (x : Side) (v : Nat) : Side :=
  if x.on MON_CFG.BUF_EN then x.raise MON_STAT.CFG_IGNORED else x.setPair MON_BASE_LO.whole.idx v

/-- A write of MON_IN_CFGi: an idle modulator begins a slot at once; REF changes the board threshold event (R391). -/
def Side.wMonIn (x : Side) (i : Nat) (v : Word) (inTrans : Nat) : Side :=
  let x := x.setReg (MON_IN_CFG.whole i).idx v
  let x := if (lget x.mon.cur (i % 4) none).isNone then x.nextSlot (i % 4) none else x
  x.refModes inTrans

end Sys2Proof.Machine
end

