-- ==== Sys2Proof/Machine/Calibration.lean ====
section
/-! DEFINITION. Calibration (R396 to R408): the store and the values in force, runs of the five items and their agreement, CAL_RUN,
CAL_RESTORE, and the swaps of interpolators (R182, R401). -/

namespace Sys2Proof.Machine

/-! ### Items and their store entries (R396, R408) -/

/-- Store entries of an item: register indexes. -/
def calRegs (item : Nat) : List Nat :=
  match item with
  | 0 => (List.range 17).flatMap (fun u => (List.range 256).map (fun t => (CAL_FINE.whole u t).idx))
  | 1 => (List.range 4).map (fun i => (CAL_THR_OFS.whole i).idx)
  | 2 => (List.range 2).flatMap (fun o => (List.range 64).map (fun j => (CAL_TONE_TRIM.whole o j).idx))
  | 3 => (List.range 32).map (fun i => (MON_CORR_LO.whole 0).idx + i)
  | _ => (List.range 8).map (fun i => (CAL_KEEL_SKEW.whole i).idx)

/-- Bits of a store entry of an item. -/
def calBits (item : Nat) : Nat := lget [13, 16, 8, 24, 7] item 36

/-- The item whose store holds a register. -/
def calItemOf (idx : Nat) : Option Nat :=
  let f := (CAL_FINE.whole 0 0).idx
  let o := (CAL_THR_OFS.whole 0).idx
  let t := (CAL_TONE_TRIM.whole 0 0).idx
  let m := (MON_CORR_LO.whole 0).idx
  let k := (CAL_KEEL_SKEW.whole 0).idx
  if f ≤ idx && idx < f + 17 * 256 then some 0
  else if o ≤ idx && idx < o + 4 then some 1
  else if t ≤ idx && idx < t + 128 then some 2
  else if m ≤ idx && idx < m + 32 then some 3
  else if k ≤ idx && idx < k + 8 then some 4
  else none

/-- The interpolator of a CAL_FINE register; 16 is the tie interpolator. -/
def calUnit (idx : Nat) : Nat := (idx - (CAL_FINE.whole 0 0).idx) / 256

/-- The interpolator of an input that is out of service. -/
def Side.idleUnit (x : Side) (src : Nat) : Nat := 2 * src + (1 - x.ipOf src)

/-- The unit of an input is out of service. -/
def Side.unitIdle (x : Side) (u : Nat) : Bool := u < 16 && x.idleUnit (u / 2) == u

/-- R396: the two runs of an entry agree. -/
def calAgree (item idx : Nat) (v1 v2 : Int) : Bool :=
  let d := (v1 - v2).natAbs
  match item with
  | 0 => d ≤ 2
  | 1 => d ≤ 1000
  | 2 => d ≤ 10
  | 3 => if (idx - (MON_CORR_LO.whole 0).idx) % 2 == 0 then d * 10 ^ 6 ≤ 2 * v1.natAbs else d ≤ 33
  | _ => d ≤ 4

/-! ### What a run measures (R401 to R405) -/

/-- R401: the tap centres from the counts of the taps below and of the tap itself. -/
def fineOf : Nat → List Nat → List Int
  | _, [] => []
  | c, n :: l => rhe ((2 * c + n) * 4096 : Nat) (2 ^ 21) :: fineOf (c + n) l

/-- R402: the comparator offset V_node - V_dac. No result is stated for a difference that the 16-bit entry cannot hold. -/
def offsetOf (node dac : Int) : Int :=
  if clipS 16 (node - dac) then sx 16 (bitsOf (Config.calOpen 1 node dac).toNat 15 0) else node - dac

/-- R404: the gain that maps a reference onto its value in microvolts. No result is stated for a span that gives none in the unsigned
24-bit entry. -/
def gainOf (uv zero ref : Int) : Int :=
  let span := ref - zero
  let g := rhe (2 ^ 22 * uv) span.toNat
  if span ≤ 0 || g < 0 || g ≥ 2 ^ 24 then ((Config.calOpen 3 uv span).toNat : Nat) else g

/-- R389, R404: a raw code as input 12 gives it when corrected by its new pair. -/
def byRefv (gain zero raw : Int) : Int := satS 24 (rheP ((raw - zero) * gain) 22)

/-- R385: an input's full scale in quarters of REFV: 1.25 V, 2.5 V or 5.0 V. -/
def calRange (i : Nat) : Nat := if i == 7 then 2 else if i == 9 || i == 12 then 4 else 1

/-- R404: the pairs of inputs 4 to 15 that a run of item 3 gives. Input 12 is measured against CAL_REFV, the others against REFV and the
divider taps as input 12 then reads them; a 5.0 V input is measured against REFV itself. -/
def monPairs (refv : Int) (r : CalRun) : List (Nat × Int) :=
  let of := fun i => (r.inputs.find? (fun p => p.1.val == i)).map (fun p => (p.2.1.toInt, p.2.2.toInt))
  match of 12 with
  | none => []
  | some (z, f) =>
    let g := gainOf refv z f
    let uv := fun i => match calRange i with | 1 => byRefv g z r.fourth.toInt | 2 => byRefv g z r.half.toInt | _ => refv
    (List.range 12).flatMap (fun k =>
      let i := k + 4
      match of i with
      | none => []
      | some (zero, ref) => [((MON_CORR_LO.whole i).idx, gainOf (uv i) zero ref), ((MON_CORR_HI.whole i).idx, zero)])

/-- The entries of an item and the values one run gives them. -/
def Side.calMeasure (x : Side) (item : Nat) (r : CalRun) : List (Nat × Int) :=
  match item with
  | 0 => r.counts.flatMap (fun p => ((fineOf 0 ((p.2.map (·.toNat)).take 256)).zipIdx).map (fun q => ((CAL_FINE.whole p.1.val q.2).idx, q.1)))
  | 1 => r.nodes.map (fun p => ((CAL_THR_OFS.whole p.1.val).idx, offsetOf p.2.1.toInt p.2.2.toInt))
  | 2 => r.cells.map (fun p => ((CAL_TONE_TRIM.whole (p.1.val / 64) (p.1.val % 64)).idx, p.2.toInt))
  | 3 => monPairs (x.get CAL_REFV.UV) r
  | _ => r.skews.map (fun p => ((CAL_KEEL_SKEW.whole p.1.val).idx, (p.2.toNat : Int)))

/-- The entries that both runs of an item give, with their values in the first run and in the second. -/
def Side.calEntries (x : Side) (item : Nat) (r : CalRuns) : List (Nat × Int × Int) :=
  let b := x.calMeasure item r.run2
  (x.calMeasure item r.run1).zipIdx.filterMap (fun p => match b[p.2]? with
    | some q => if q.1 == p.1.1 then some (p.1.1, p.1.2, q.2) else none
    | none => none)

/-- R397: REFV as the values in force read it, or CAL_REFV, lies outside 2,475,000 to 2,525,000 microvolts. -/
def Side.refvBad (x : Side) (raw : Int) : Bool :=
  let v := (x.corrected 12 raw).1
  let r := x.get CAL_REFV.UV
  v < 2475000 || v > 2525000 || r < 2475000 || r > 2525000

/-- R397: the installed value of an entry. -/
def calValue (item : Nat) (v1 v2 : Int) : Word := wordN (ux (calBits item) (rhe (v1 + v2) 2))

/-! ### Store, staged values and values in force -/

/-- A value comes into force. -/
def Side.calPut (x : Side) (p : Nat × Word) : Side := { x with cal := { x.cal with force := aput x.cal.force p.1 p.2 } }

/-- Staged values of an item. -/
def Side.calStaged (x : Side) (item : Nat) : List (Nat × Word) := (aget x.cal.staged item).getD []

/-- Values of an item staged for its boundary; they replace what is staged for the same entries. -/
def Side.calStage (x : Side) (item : Nat) (vs : List (Nat × Word)) : Side :=
  let old := (x.calStaged item).filter (fun p => !vs.any (fun q => q.1 == p.1))
  let l := old ++ vs
  { x with cal := { x.cal with staged := if l.isEmpty then adel x.cal.staged item else aput x.cal.staged item l } }

/-- R183, R401: the ties' split times follow a new table of the tie interpolator. -/
def Side.retie (x : Side) : Side :=
  { x with split := { x.split with ties := x.split.ties.map (fun (k : Tie) =>
      { k with ts := x.splitTime 16 ⟨k.coarse, Fin.ofNat 256 k.tap⟩ }) } }

/-- Staged values of an item that p admits come into force. -/
def Side.calBring (x : Side) (item : Nat) (p : Nat → Bool) : Side :=
  let l := x.calStaged item
  let go := l.filter (fun q => p q.1)
  let stay := l.filter (fun q => !p q.1)
  let x := go.foldl Side.calPut x
  let x := { x with cal := { x.cal with staged := if stay.isEmpty then adel x.cal.staged item else aput x.cal.staged item stay } }
  if item == 0 && go.any (fun q => calUnit q.1 == 16) then x.retie else x

/-- R402: the code that drives a SPLIT input's threshold DAC. -/
def Side.thrDac (x : Side) (i : Nat) : Nat :=
  let o := sx 16 (x.calForce (CAL_THR_OFS.whole i).idx).toNat
  (max 0 (min 4095 (rhe (((lget x.split.thr i (0, false)).1 * 750 : Nat) - o) 750))).toNat

/-- R406, R400: a host write to a store entry. -/
def Side.wCalStore (x : Side) (idx : Nat) (v : Word) : Side :=
  match calItemOf idx with
  | none => x.setReg idx v
  | some n =>
    if x.cal.job.any (fun j => bitAt j.mask n) then x.raise CAL_STAT.WRITE_IGNORED
    else (x.setReg idx (v &&& wordN (2 ^ calBits n - 1))).orBit CAL_STAT.EDITED n

/-- A host commit of a MON_CORR pair. -/
def Side.wMonCorr (x : Side) (idx : Nat) (lo hi : Word) : Side := (x.wCalStore idx lo).wCalStore (idx + 1) hi

/-! ### A run of an item (R397) -/

/-- Entries measured of an item that count: those the method measures on this side now. -/
def Side.calUsable (x : Side) (item : Nat) (j : CalJob) (init : Bool) (idx : Nat) : Bool :=
  calItemOf idx == some item &&
  match item with
  | 0 =>
    let u := calUnit idx
    if init then true else if u == 16 then !j.second else x.unitIdle u && !j.late.contains (u / 2)
  | 1 => init || x.get (SPLIT_IN_CFG.SLOPE (idx - (CAL_THR_OFS.whole 0).idx)) == 0
  | 2 => !x.on (TONE_STAT.LIVE ((idx - (CAL_TONE_TRIM.whole 0 0).idx) / 64))
  | 3 => idx ≥ (MON_CORR_LO.whole 4).idx
  | _ => true

/-- The group of entries that agree or disagree together: an interpolator of item 0, else the item. -/
def calGroup (item idx : Nat) : Nat := if item == 0 then calUnit idx else 0

/-- R397: agreed groups are written into the store and staged. Answers the side, whether any group disagreed, and whether any was
installed. -/
def Side.calInstall (x : Side) (item : Nat) (es : List (Nat × Int × Int)) : Side × Bool × Bool :=
  let badGroups := dedup ((es.filter (fun e => !calAgree item e.1 e.2.1 e.2.2)).map (fun e => calGroup item e.1))
  let good := es.filter (fun e => !badGroups.contains (calGroup item e.1))
  let vs := good.map (fun e => (e.1, calValue item e.2.1 e.2.2))
  let x := vs.foldl (fun x p => x.setReg p.1 p.2) x
  (x.calStage item vs, !badGroups.isEmpty, !vs.isEmpty)

/-- R397: the causes that keep an item from running. -/
def Side.calFaults (x : Side) (item : Nat) (refv : Int) (fault3 : Bool) : Bool :=
  (item == 0 && !x.on PLL_STAT.T_LOCK) || ((item == 3 || item == 1) && x.refvBad refv) || (item == 1 && fault3) || (item == 4 && !x.on KEEL_COX_STAT.KEEL_UP)

/-- CAL_STAT after an item: agreed and installed, disagreed or faulted. -/
def Side.calMark (x : Side) (item : Nat) (dis fault any : Bool) : Side :=
  let x := if dis then x.orBit CAL_STAT.DISAGREE item else x
  let x := if fault then x.orBit CAL_STAT.FAULT item else x
  if !dis && !fault && any then ((x.orBit CAL_STAT.VALID item).andNotBit CAL_STAT.RESTORED item).andNotBit CAL_STAT.EDITED item else x

/-- R398: an item's runs in INIT_STAT.PHASE 6; its values are in force when the phase ends. -/
def Side.calInit (x : Side) (item : Nat) (runs : CalRuns) (fault3 : Bool) : Side × Bool :=
  if item == 4 && !x.on KEEL_COX_STAT.KEEL_UP then (x, false)
  else if x.calFaults item runs.refv.toInt fault3 then (x.calMark item false true false, true)
  else
    let j : CalJob := ⟨false, 0, false, [], x.who, 0, [], [], 0, 0, 0, 0, 0⟩
    let r := x.calInstall item ((x.calEntries item runs).filter (fun e => x.calUsable item j true e.1))
    ((r.1.calBring item (fun _ => true)).calMark item r.2.1 false r.2.2, false)

/-! ### CAL_RUN and CAL_RESTORE (R399, R400, R407) -/

/-- The calibration job replaced. -/
def Side.setCalJob (x : Side) (j : CalJob) : Side := { x with cal := { x.cal with job := some j } }

/-- The order of a run's items. -/
def calOrder (mask : Nat) : List Nat := [3, 1, 0, 2, 4].filter (fun n => bitAt mask n)

/-- Every value of an item is in force: the job goes on; a restored item is marked (R407). -/
def Side.calArrived (x : Side) (item : Nat) : Side :=
  match x.cal.job with
  | none => x
  | some j =>
    if !j.waiting.contains item || !(x.calStaged item).isEmpty then x
    else
      let j' := { j with waiting := j.waiting.filter (· != item) }
      if j.restore then
        ((((x.setCalJob { j' with installed := j'.installed + 2 ^ item }).orBit CAL_STAT.RESTORED item).andNotBit CAL_STAT.VALID item)).andNotBit
          CAL_STAT.EDITED item
      else x.setCalJob j'

/-- The staged values that need wait for no boundary: tables of interpolators out of service (R182). -/
def Side.calIdle (x : Side) : Side := (x.calBring 0 (fun r => x.unitIdle (calUnit r))).calArrived 0

/-- A CAL_RUN or CAL_RESTORE begins. -/
def Side.calBegin (x : Side) (st : Staged) : Side :=
  let mask := st.e.op4 % 32
  let x := (x.restage { st with running := true, aux := [lget st.aux 0 0, 1] }).raise CAL_STAT.RUNNING
  let items := calOrder mask
  if st.op == 0x31 then
    let x := x.setCalJob ⟨true, mask, false, [], st.issuer, st.id, [], items, 0, 0, 0, 0, 0⟩
    let x := items.foldl (fun x n => x.calStage n ((calRegs n).map (fun r => (r, x.reg r)))) x
    x.calIdle
  else x.setCalJob ⟨false, mask, false, [], st.issuer, st.id, items, [], 0, 0, 0, 0, 0⟩

/-- A job that is done completes, and the next one that waits begins; the fuel bounds jobs with nothing to do. -/
def State.calSettle (sd : SideId) : Nat → State → State
  | 0, s => s
  | n + 1, s =>
    let x := s.side sd
    match x.cal.job with
    | some j =>
      if !j.left.isEmpty || !j.waiting.isEmpty then s
      else
        let s := s.setSide sd ({ x with cal := { x.cal with job := none, swaps := [] } }.drop CAL_STAT.RUNNING)
        let st := if j.faulted != 0 then stCalFault else if j.disagreed != 0 then stCalDisagree else stOK
        let r0 : Int := (j.installed + 32 * j.disagreed + 1024 * j.faulted : Nat)
        let s := match (s.side sd).cmdOf j.issuer j.id with
          | some c => s.complete sd c st (lget c.aux 0 0).toNat r0 (if j.restore then 0 else j.splitOut + 16 * j.toneOut : Nat)
          | none => s
        State.calSettle sd n s
    | none =>
      match x.host.staged.find? (fun c => (c.op == 0x30 || c.op == 0x31) && c.running && lget c.aux 1 0 == 0) with
      | some c => State.calSettle sd n (s.setSide sd (x.calBegin c))
      | none => s

/-- CAL_RUN and CAL_RESTORE take effect: one runs at a time. -/
def effCal (sd : SideId) (st : Staged) (t : Nat) (s : State) : State :=
  let s := s.mod sd (fun x => x.restage { st with running := true, aux := [(t : Int), 0] })
  State.calSettle sd (2 * (s.side sd).host.staged.length + 2) s

/-- The job settles after a change. -/
def State.calGoOn (s : State) (sd : SideId) : State := State.calSettle sd (2 * (s.side sd).host.staged.length + 2) s

/-- An item of a CAL_RUN ends: it is marked, and its values that are not yet in force are awaited. -/
def Side.calEnd (x : Side) (item : Nat) (dis fault any : Bool) : Side :=
  match x.cal.job with
  | none => x
  | some j =>
    let x := x.calMark item dis fault any
    let bit := 2 ^ item
    let j := { j with
      left := j.left.drop 1
      waiting := if (x.calStaged item).isEmpty then j.waiting else j.waiting ++ [item]
      installed := if !dis && !fault && any then j.installed + bit else j.installed
      disagreed := if dis then j.disagreed + bit else j.disagreed
      faulted := if fault then j.faulted + bit else j.faulted
      second := false, late := [] }
    let x := x.setCalJob j
    if item == 3 then x.monRestart else x

/-- CAL_ITEM_DONE of item 0: first the interpolators out of service and the tie interpolator, then after the swaps the others. A
disagreement of the first part is kept in `disagreed` until the item ends. -/
def Side.calTaps (x : Side) (j : CalJob) (runs : CalRuns) : Side :=
  if x.calFaults 0 0 false then ({ x with cal := { x.cal with swaps := [] } }).calEnd 0 false true false
  else if j.second && !x.cal.swaps.isEmpty then x
  else
    let r := x.calInstall 0 ((x.calEntries 0 runs).filter (fun e => x.calUsable 0 j false e.1))
    let x := r.1.calBring 0 (fun q => r.1.unitIdle (calUnit q))
    if !j.second then
      let x := x.setCalJob { j with second := true, disagreed := if r.2.1 then j.disagreed + 1 else j.disagreed }
      let x := { x with cal := { x.cal with swaps := List.range 8 } }
      (List.range 8).foldl (fun x src => x.reqSwap src) x
    else
      let dis := r.2.1 || j.disagreed % 2 == 1
      let out := maskN 4 (fun i => j.late.contains i)
      let x := x.setCalJob { j with disagreed := j.disagreed - j.disagreed % 2, splitOut := Nat.lor j.splitOut out }
      x.calEnd 0 dis (!j.late.isEmpty) true

/-- CAL_ITEM_DONE: the two runs of the item in progress have ended. -/
def State.calItemDone (s : State) (sd : SideId) (item : Nat) (runs : CalRuns) : State :=
  let x := s.side sd
  match x.cal.job with
  | none => s
  | some j =>
    if j.left.head? != some item then s
    else
      let x :=
        if item == 0 then x.calTaps j runs
        else if x.calFaults item runs.refv.toInt (bitAt j.faulted 3) then x.calEnd item false true false
        else
          let r := x.calInstall item ((x.calEntries item runs).filter (fun e => x.calUsable item j false e.1))
          let skipped := maskN 4 (fun i => item == 1 && x.get (SPLIT_IN_CFG.SLOPE i) != 0)
          let live := maskN 2 (fun o => item == 2 && x.on (TONE_STAT.LIVE o))
          let y := r.1.setCalJob { j with splitOut := Nat.lor j.splitOut skipped, toneOut := Nat.lor j.toneOut live }
          y.calEnd item r.2.1 (skipped != 0) r.2.2
      (s.setSide sd x).calGoOn sd

/-- CAL_ITEM_DONE. -/
def execCalItemDone (sd : SideId) (item : Fin 5) (runs : CalRuns) (s : State) : Host.Outcome State Fault Refusal :=
  .next (s.calItemDone sd item.val runs)

/-- CAL_APPLY: the boundary of an item has come; an interpolator's table waits until it is out of service. -/
def execCalApply (sd : SideId) (item : Fin 5) (s : State) : Host.Outcome State Fault Refusal :=
  .next ((s.mod sd (fun x =>
    let ok := fun r => item.val != 0 || calUnit r == 16 || x.unitIdle (calUnit r)
    (x.calBring item.val ok).calArrived item.val)).calGoOn sd)

/-- CAL_RESTORE_TIMEOUT: the item stays staged, and the command completes without it. -/
def execCalRestoreTimeout (sd : SideId) (item : Fin 5) (s : State) : Host.Outcome State Fault Refusal :=
  .next ((s.mod sd (fun x => match x.cal.job with
    | some j =>
      if j.restore && j.waiting.contains item.val then
        x.setCalJob { j with waiting := j.waiting.filter (· != item.val), faulted := j.faulted + 2 ^ item.val }
      else x
    | none => x)).calGoOn sd)

/-- TIE: a new table of the tie interpolator comes into force immediately after a tie (R396, R401). -/
def execTie (sd : SideId) (st : SplitStamp) (s : State) : Host.Outcome State Fault Refusal :=
  .next (if !(s.side sd).on PLL_STAT.T_LOCK then s
    else (s.mod sd (fun x => ((x.tie st).calBring 0 (fun r => calUnit r == 16)).calArrived 0)).calGoOn sd)

/-! ### Swaps (R182, R401) -/

/-- INTERPOLATOR_SWAP: a requested swap is taken while no window is open; tables that waited for the interpolator now out of
service come into force. -/
def execInterpolatorSwap (sd : SideId) (src : Fin 8) (s : State) : Host.Outcome State Fault Refusal :=
  let x := s.side sd
  .next (
    if !x.split.swapReq.contains src.val || !x.swapFree src.val then s
    else
      let x := x.swapIps src.val
      let x := { x with
        split := { x.split with swapReq := x.split.swapReq.filter (· != src.val) }
        cal := { x.cal with swaps := x.cal.swaps.filter (· != src.val) } }
      (s.setSide sd x.calIdle).calGoOn sd)

/-- CAL_SWAP_TIMEOUT: the swap of an input is not taken; its second interpolator is left unchanged. -/
def execCalSwapTimeout (sd : SideId) (src : Fin 8) (s : State) : Host.Outcome State Fault Refusal :=
  .next (s.mod sd (fun x => match x.cal.job with
    | some j =>
      if x.cal.swaps.contains src.val then
        let x := { x with
          split := { x.split with swapReq := x.split.swapReq.filter (· != src.val) }
          cal := { x.cal with swaps := x.cal.swaps.filter (· != src.val) } }
        x.setCalJob { j with late := j.late ++ [src.val] }
      else x
    | none => x))

end Sys2Proof.Machine
end

