-- ==== Sys2Proof/Machine/ScanOut.lean ====
section
/-! DEFINITION. The front-panel scan-out (R422 to R439): composition of a line, shadows and commits, vertical blanking, timing changes
and the DisplayPort link. -/

namespace Sys2Proof.Machine

/-! ### The link (R422, R423, R438) -/

/-- Link rates by code, in bit/s per lane. -/
def dpRate (r : Nat) : Nat := lget [1620000000, 2700000000, 5400000000, 8100000000] r 0

/-- Bits per component by code. -/
def dpBpc (b : Nat) : Nat := 6 + 2 * b

/-- R423: a link of a lane code and a rate code carries a mode. -/
def carries (pclkKhz bpcCode lanes rate : Nat) : Bool := pclkKhz * 3 * dpBpc bpcCode * 10 ^ 6 ≤ 776 * 2 ^ lanes * dpRate rate

/-- The settings tried in order: each lower rate, then fewer lanes. -/
def dpOrder (lanes rate : Nat) : List (Nat × Nat) :=
  ((List.range (lanes + 1)).reverse).flatMap (fun l => ((List.range (rate + 1)).reverse).map (fun r => (l, r)))

/-- The first setting at which a sink trains, under the configured one. -/
def dpFirst (k : DpSink) (lanes rate : Nat) : Option (Nat × Nat) :=
  (dpOrder (min lanes k.lanes.val) (min rate k.rate.val)).find? (fun p => k.trains.any (fun q => q.1.val == p.1 && q.2.val == p.2))

/-- DP_LINK with its cause (R438). -/
def Side.dpEvent (x : Side) (cause : Nat) : Side :=
  x.event 0x24 x.now (b2n (x.on SO_STAT.LINK_UP) + 2 * x.get SO_LINK_ACT.LANES + 8 * x.get SO_LINK_ACT.RATE : Nat) cause

/-- The trained link carries the mode in force. -/
def Side.dpFits (x : Side) : Bool :=
  carries (x.soForce SO_PCLK.PCLK_KHZ) (x.soForce SO_LINK.BPC) (x.get SO_LINK_ACT.LANES) (x.get SO_LINK_ACT.RATE)

/-- The source trains with the sink that is plugged (R423). -/
def Side.dpTrain (x : Side) : Side :=
  match x.so.sink with
  | none => x
  | some k =>
    match dpFirst k (x.soForce SO_LINK.LANES) (x.soForce SO_LINK.RATE) with
    | none => (((((x.drop SO_STAT.LINK_UP).drop SO_STAT.NO_FIT).set SO_LINK_ACT.LANES 0).set SO_LINK_ACT.RATE 0).raise
        SO_STAT.LINK_FAIL).dpEvent 3
    | some p =>
      let x := (x.set SO_LINK_ACT.LANES p.1).set SO_LINK_ACT.RATE p.2
      let fit := x.dpFits
      ((x.put SO_STAT.LINK_UP fit).put SO_STAT.NO_FIT (!fit)).dpEvent (if fit then 0 else 4)

/-- The link island runs. -/
def Side.dpRuns (x : Side) : Bool := x.islRuns (srcOf 4 3 1)

/-- HPD_PLUG: DP_HPD has been high for 100 ms. -/
def execHpdPlug (sd : SideId) (sink : DpSink) (s : State) : Host.Outcome State Fault Refusal :=
  .next (s.mod sd (fun x =>
    if s.held || !x.dpRuns then x
    else ({ x with so := { x.so with sink := some sink } }.raise SO_STAT.HPD).dpTrain))

/-- HPD_UNPLUG: DP_HPD has been low for 2 ms; the source stops sending. -/
def execHpdUnplug (sd : SideId) (s : State) : Host.Outcome State Fault Refusal :=
  .next (s.mod sd (fun x =>
    if !x.on SO_STAT.HPD then x
    else
      let x := { x with so := { x.so with sink := none } }
      ((((x.drop SO_STAT.HPD).drop SO_STAT.LINK_UP).drop SO_STAT.NO_FIT).setReg SO_LINK_ACT.whole.idx 0).dpEvent 1))

/-- IRQ_HPD: the sink's status is read, and the link retrained if it reports loss of lock. -/
def execIrqHpd (sd : SideId) (lost : Bool) (sink : DpSink) (s : State) : Host.Outcome State Fault Refusal :=
  .next (s.mod sd (fun x =>
    if !x.on SO_STAT.HPD || !lost || !x.dpRuns then x
    else
      let x := { x with so := { x.so with sink := some sink } }
      ((x.drop SO_STAT.LINK_UP).dpEvent 2).dpTrain))

/-! ### Shadows and commits (R431, R432, R435) -/

/-- Register indexes of the shadows. -/
def soShadows : List Nat :=
  (List.range 18).map (fun i => SO_HTIM.whole.idx + i) ++ (List.range 16).map (fun i => (SO_TRACE.whole 0).idx + i)

/-- R432: the shadows are refused. -/
def Side.soBad (x : Side) : Bool :=
  let g := fun f => x.get f
  let ha := g SO_HTIM.H_ACTIVE
  let va := g SO_VTIM.V_ACTIVE
  let vb := g SO_VTIM.V_FP + g SO_VTIM.V_SYNC + g SO_BP.V_BP
  let pk := g SO_PCLK.PCLK_KHZ
  let tot := (ha + g SO_HTIM.H_FP + g SO_HTIM.H_SYNC + g SO_BP.H_BP) * (va + vb)
  let plotX := g SO_PLOT_X.PX0 + g SO_PLOT_X.PW
  ha < 640 || ha > 4096 || va < 480 || va > 2160 || pk < 25000 || pk > 600000 || pk * 1000 > 240 * tot
    || g SO_LINK.LANES == 3 || g SO_LINK.BPC == 3
    || !carries pk (g SO_LINK.BPC) (g SO_LINK.LANES) (g SO_LINK.RATE)
    || g SO_HTIM.H_FP < 8 || g SO_HTIM.H_SYNC < 8 || g SO_BP.H_BP < 8 || vb < 3 || ha % 8 != 0
    || ((x.on SO_DENS.D_EN || (List.range 8).any (fun i => x.on (SO_TRACE.TEN i)))
        && (plotX > ha || decide (g SO_PLOT_Y.PY0 + g SO_PLOT_Y.PH > va)))
    || (x.on SO_WF.W_EN && (plotX > ha || decide (g SO_WF.WY0 + g SO_WF.WH > va)))
    || (x.on SO_OV.O_EN && (decide (g SO_OV_X.OX0 + g SO_OV_X.OW > ha) || decide (g SO_OV_Y.OY0 + g SO_OV_Y.OH > va)))
    || g SO_DENS.DC0 + g SO_DENS.DCW_M1 + 1 > 4096 || g SO_DENS_R.DR0 + g SO_DENS_R.DRH_M1 + 1 > 1024
    || g SO_DENS.PSHIFT == 15 || (List.range 8).any (fun i => g (SO_TRACE.TSLOT i) ≥ 6)

/-- Every shadow and the shadow palette are copied into force. -/
def Side.soCopy (x : Side) : Side :=
  { x with so := { x.so with force := soShadows.map (fun i => (i, x.reg i)), pal := x.so.palS } }

/-- A shadow and the value in force of a field differ. -/
def Side.soChanges (x : Side) (f : Fld) : Bool := x.get f != x.soForce f

/-- Settings that retrain the link differ between the shadows and what is in force. -/
def Side.soRelinks (x : Side) : Bool := x.soChanges SO_LINK.LANES || x.soChanges SO_LINK.RATE

/-- The link after the shadows have come into force: retrained where LANES or RATE changed, else judged against the new mode. -/
def Side.soRefit (x : Side) (relink : Bool) : Side :=
  if relink then x.dpTrain
  else if !x.on SO_STAT.LINK_UP && !x.on SO_STAT.NO_FIT then x
  else
    let fit := x.dpFits
    if fit == x.on SO_STAT.LINK_UP then x
    else ((x.put SO_STAT.LINK_UP fit).put SO_STAT.NO_FIT (!fit)).dpEvent (if fit then 0 else 4)

/-- A commit that passed R432: a change of PCLK, LANES or RATE stops the timing generator and retrains the link as needed (R436). -/
def Side.soApply (x : Side) : Side :=
  let relink := x.soRelinks
  let stop := relink || x.soChanges SO_PCLK.PCLK_KHZ
  let x := x.soCopy
  (if stop then { x with so := { x.so with run := false, relock := true, idle := 2 } } else x).soRefit relink

/-- A commit is requested; within vertical blanking it is late. -/
def Side.soRequest (x : Side) : Side :=
  let x := x.raise SO_STAT.PENDING
  if x.so.blank then x.raise SO_STAT.LATE_COMMIT_SEEN else x

/-- DISPLAY_COMMIT takes effect (R433). -/
def effDisplayCommit (sd : SideId) (st : Staged) (t : Nat) (s : State) : State :=
  let x := s.side sd
  if st.e.op4 % 65536 != x.src (srcOf 4 3 0) then s.refuse sd st stBadSource
  else if !x.on SO_CTRL.EN then s.refuse sd st stBadParam
  else s.setSide sd ((x.restage { st with running := true, aux := [(t : Int), b2n x.so.blank] }).soRequest)

/-- R435: EN goes from 0 to 1, with the checks of a commit, or from 1 to 0. -/
def Side.soEnable (x : Side) (en : Bool) : Side :=
  if en == x.on SO_CTRL.EN then x
  else if en then
    if x.soBad then x.raise SO_STAT.CFG_REFUSED
    else
      let x := (x.soCopy.soRefit x.soRelinks).raise SO_CTRL.EN
      { x with so := { x.so with run := false, relock := true, idle := 0, blank := false, line := 0, pix := [], tear := false } }
  else { x with so := { x.so with run := false, relock := false, blank := false, line := 0, pix := [], tear := false } }.drop SO_CTRL.EN

/-- A write of SO_CTRL (R431, R435, R438). -/
def Side.wSoCtrl (x : Side) (v : Word) : Side :=
  let x := (x.put SO_CTRL.VBL_EVT (bitAt v.toNat 33)).soEnable (bitAt v.toNat 35)
  if bitAt v.toNat 34 then x.soRequest else x

/-- TIMING_RESTART: the synthesiser has locked; the generator starts at line 0. -/
def execTimingRestart (sd : SideId) (s : State) : Host.Outcome State Fault Refusal :=
  .next (s.mod sd (fun x =>
    if x.so.relock && x.on SO_CTRL.EN then { x with so := { x.so with run := true, relock := false, blank := false } } else x))

/-! ### The cut-off (R424, R428, R429, R431) -/

/-- R429: the copy of trace i: none if its slot has no image, its image is EMPTY, or a poisoned block was met. -/
def Side.soTrace (x : Side) (i : Nat) : Side × Option SoTrace :=
  if x.soForce (SO_TRACE.TEN i) == 0 then (x, none)
  else
    let g := lget (x.ppOf (chanOf (x.soForce (SO_TRACE.TCH i)))).images (x.soForce (SO_TRACE.TSLOT i)) ⟨0, 0, 0, none, 0⟩
    match g.cur with
    | none => (x, none)
    | some b =>
      let r := x.readRange .sram (g.base + b * g.wi) g.len
      let w := fun k => (lget r.2.1 k 0).toNat
      if r.2.2 != 0 then (r.1.raise SO_STAT.PSN_SEEN, none)
      else if bitAt (w 1) 34 then (r.1, none)
      else
        let np := bitsOf (w 2) 19 0
        (r.1, some ⟨np, (List.range np).map (fun j => if j % 2 == 0 then bitsOf (w (8 + j / 2)) 35 18 else bitsOf (w (8 + j / 2)) 17 0)⟩)

/-- The copies of every enabled trace, and NEWEST of the waterfall's channel. -/
def Side.soLatch (x : Side) : Side :=
  let r := (List.range 8).foldl (fun (a : Side × List (Option SoTrace)) i =>
    let t := a.1.soTrace i
    (t.1, a.2 ++ [t.2])) (x, [])
  let x := r.1
  { x with so := { x.so with
    traces := r.2, newest := (x.reg (SPG_SEQ.whole (x.soForce SO_WF.W_CH)).idx).toNat, line := 0, pix := [], blank := true, tear := false } }

/-- Running DISPLAY_COMMITs complete at a cut-off. -/
def State.soFinish (s : State) (sd : SideId) (refused : Bool) : State :=
  let n : Int := (s.side sd).get SO_FRAME.whole
  ((s.side sd).host.staged.filter (fun c => c.op == 0x70 && c.running)).foldl (fun s c =>
    s.complete sd c (if refused then stBadParam else if lget c.aux 1 0 == 1 then stLateCommit else stOK) (s.side sd).now n 0) s

/-- The pixel island runs. -/
def Side.soRuns (x : Side) : Bool := x.islRuns (srcOf 4 3 0)

/-- VBLANK: the start of vertical blanking, and the cut-off. -/
def State.vblank (s : State) (sd : SideId) : State :=
  let x := s.side sd
  if !x.on SO_CTRL.EN || !x.so.run || !x.soRuns then s
  else
    let x := (x.set SO_FRAME.whole ((x.get SO_FRAME.whole + 1) % 2 ^ 36)).setPair SO_VBL_TIME_LO.whole.idx x.now
    let x := if x.on SO_CTRL.VBL_EVT then x.event 0x25 x.now (x.get SO_FRAME.whole) (x.now % 2 ^ 36 : Nat) else x
    let x := { x with so := { x.so with idle := x.so.idle - 1 } }.densBlank
    if !x.on SO_STAT.PENDING then s.setSide sd x.soLatch
    else
      let bad := x.soBad
      let x := x.drop SO_STAT.PENDING
      let x := if bad then x.raise SO_STAT.CFG_REFUSED else x.soApply
      (s.setSide sd x.soLatch).soFinish sd bad

/-- VBLANK. -/
def execVblank (sd : SideId) (s : State) : Host.Outcome State Fault Refusal := .next (s.vblank sd)

/-! ### Composition of a line (R425 to R430, R434) -/

/-- A position lies within a range. -/
def within (v lo n : Nat) : Bool := lo ≤ v && decide (v < lo + n)

/-- An entry of the palette in force. -/
def Side.pal (x : Side) (i : Nat) : Nat := (wget x.so.pal (min i 4095)).toNat % 2 ^ 30

/-- R426: the density layer of a pixel. -/
def Side.soDensity (x : Side) (xp yp : Nat) (c : Nat) : Side × Nat :=
  let ch := chanOf (x.soForce SO_DENS.D_CH)
  let col := x.soForce SO_DENS.DC0 + xp * (x.soForce SO_DENS.DCW_M1 + 1) / max 1 (x.soForce SO_PLOT_X.PW)
  let row := x.soForce SO_DENS_R.DR0 + yp * (x.soForce SO_DENS_R.DRH_M1 + 1) / max 1 (x.soForce SO_PLOT_Y.PH)
  let r := x.readWord .sram (planeBase ch (x.densOf ch).held + 2048 * row + col / 2)
  let n := if col % 2 == 0 then bitsOf r.2.1.toNat 35 18 else bitsOf r.2.1.toNat 17 0
  (r.1, if n == 0 && x.soForce SO_DENS.ZERO_BG == 1 then c else x.pal (n / 2 ^ x.soForce SO_DENS.PSHIFT))

/-- R428: the spectrogram line that a waterfall row shows, read once for the row; none if it fails its check. -/
def Side.soWfLine (x : Side) (q : Nat) : Side × Option (List Word) :=
  let b := (x.ppOf (chanOf (x.soForce SO_WF.W_CH))).block
  let wi := imgW (tcNp (ppSlot b (ppSpgSlot b)))
  if x.so.newest < q + 1 || q ≥ 2 ^ ppSpgLog b then (x, none)
  else
    let n := x.so.newest - q
    let r := x.readRange .dram (ppSpgBase b + (n - 1) % 2 ^ ppSpgLog b * wi) wi
    if r.2.2 != 0 then (r.1.raise SO_STAT.PSN_SEEN, none)
    else if (lget r.2.1 0 0).toNat != n then (r.1, none) else (r.1, some r.2.1)

/-- The colour of a waterfall pixel. -/
def Side.soWfPixel (x : Side) (ws : List Word) (xp : Nat) : Nat :=
  let np := bitsOf (lget ws 2 0).toNat 19 0
  let j := xp * np / max 1 (x.soForce SO_PLOT_X.PW)
  let w := (lget ws (8 + j / 2) 0).toNat
  let lv : Nat := if j % 2 == 0 then bitsOf w 35 18 else bitsOf w 17 0
  x.pal ((lv - x.soForce SO_WF_BASE.WBASE) / 2 ^ x.soForce SO_WF.WSHIFT)

/-- R429: h of a trace at a column. -/
def Side.soTraceY (x : Side) (i : Nat) (t : SoTrace) (xp : Nat) : Nat :=
  let lv := lget t.lev (xp * t.np / max 1 (x.soForce SO_PLOT_X.PW)) 0
  min ((lv - x.soForce (SO_TRACE.TBASE i)) / 2 ^ x.soForce (SO_TRACE.TSHIFT i)) (x.soForce SO_PLOT_Y.PH - 1)

/-- R429: a pixel is on trace i. -/
def Side.onTrace (x : Side) (i xp yp : Nat) : Bool :=
  match lget x.so.traces i none with
  | none => false
  | some t =>
    let a := x.soTraceY i t xp
    let b := x.soTraceY i t (xp - 1)
    let k := x.soForce (SO_TRACE.THICK i)
    min a b ≤ yp + k && yp ≤ max a b + k

/-- R430: an overlay pixel blended over a colour. -/
def ovBlend (p : BitVec 32) (c : Nat) : Nat :=
  let a := bitsOf p.toNat 31 24
  let one := fun (k : Nat) =>
    let v8 := bitsOf p.toNat (8 * k + 7) (8 * k)
    let v10 := Nat.lor (v8 * 4) (v8 / 64)
    (rhe ((a * v10 + (255 - a) * bitsOf c (10 * k + 9) (10 * k) : Nat)) 255).toNat * 2 ^ (10 * k)
  one 2 + one 1 + one 0

/-- R425: a component at the width of a BPC code. -/
def outComp (code v10 : Nat) : Nat :=
  match code with
  | 0 => min (rhe v10 16).toNat 63
  | 1 => min (rhe v10 4).toNat 255
  | _ => v10

/-- R425: out(c): the three components as sent, R in [29:20], G in [19:10], B in [9:0]. -/
def outColour (code c : Nat) : Nat :=
  outComp code (bitsOf c 29 20) * 2 ^ 20 + outComp code (bitsOf c 19 10) * 2 ^ 10 + outComp code (bitsOf c 9 0)

/-- R430: the overlay row of a line; none makes the overlay transparent for the line. -/
def Side.soOverlay (x : Side) (y : Nat) (given : Option (List (BitVec 32))) : Side × Option (List (BitVec 32)) :=
  if x.soForce SO_OV.O_EN == 0 || !within y (x.soForce SO_OV_Y.OY0) (x.soForce SO_OV_Y.OH) then (x, none)
  else
    match given with
    | none => (x.inc OV_MISS.whole, none)
    | some ps =>
      if x.soForce SO_OV.O_HOST == 1 then (x, some ps)
      else
        let base := x.soForce SO_OV_BASE_HI.OV_BASE * 2 ^ 36 + x.soForce SO_OV_BASE_LO.OV_BASE
        let r := x.readRange .dram (base + (y - x.soForce SO_OV_Y.OY0) * x.soForce SO_OV_PITCH.OV_PITCH) (x.soForce SO_OV_X.OW)
        if r.2.2 != 0 then ((r.1.inc OV_MISS.whole).raise SO_STAT.PSN_SEEN, none)
        else (r.1, some (r.2.1.map (fun w => BitVec.ofNat 32 w.toNat)))

/-- R425: the colour of a pixel. -/
def Side.soPixel (x : Side) (px py : Nat) (wf : Option (List Word)) (ov : Option (List (BitVec 32))) : Side × Nat :=
  let px0 := x.soForce SO_PLOT_X.PX0
  let ph := x.soForce SO_PLOT_Y.PH
  let inX := within px px0 (x.soForce SO_PLOT_X.PW)
  let plot := inX && within py (x.soForce SO_PLOT_Y.PY0) ph
  let xp := px - px0
  let yp := x.soForce SO_PLOT_Y.PY0 + ph - 1 - py
  let c := x.soForce SO_BG.BG
  let r := if x.soForce SO_DENS.D_EN == 1 && plot then x.soDensity xp yp c else (x, c)
  let c := match wf with
    | some ws => if inX then x.soWfPixel ws xp else r.2
    | none => r.2
  let c := if plot then (List.range 8).foldl (fun c i => if x.onTrace i xp yp then x.soForce (SO_TCOL.TCOL i) else c) c else c
  let ox := x.soForce SO_OV_X.OX0
  let c := match ov with
    | some ps => if within px ox (x.soForce SO_OV_X.OW) then ovBlend (lget ps (px - ox) 0) c else c
    | none => c
  (r.1, outColour (x.soForce SO_LINK.BPC) c)

/-- LINE_COMPOSE: the next line is composed as far as it is ready in time; later pixels are BG (R434). -/
def Side.compose (x : Side) (ready : Nat) (overlay : Option (List (BitVec 32))) : Side :=
  let y := x.so.line
  let n := x.soForce SO_HTIM.H_ACTIVE
  if !x.on SO_CTRL.EN || !x.soRuns || y ≥ x.soForce SO_VTIM.V_ACTIVE then x
  else
    let o := x.soOverlay y overlay
    let wy := x.soForce SO_WF.WY0
    let w := if x.soForce SO_WF.W_EN == 1 && within y wy (x.soForce SO_WF.WH) then o.1.soWfLine (y - wy) else (o.1, none)
    let r := (List.range (min ready n)).foldl (fun (a : Side × List Nat) px =>
      let p := a.1.soPixel px y w.2 o.2
      (p.1, p.2 :: a.2)) (w.1, [])
    let bg := outColour (x.soForce SO_LINK.BPC) (x.soForce SO_BG.BG)
    let row := r.2.reverse ++ List.replicate (n - ready) bg
    let x := r.1
    let x := { x with so := { x.so with line := y + 1, pix := (row :: x.so.pix).take 2, blank := x.so.blank && y < 2 } }
    if ready < n && x.so.idle == 0 then (x.inc SO_UNDERRUN.whole).raise SO_STAT.UNDERRUN_SEEN else x

/-- LINE_COMPOSE: an overlay in host memory comes only while the host path serves it (R437). -/
def execLineCompose (sd : SideId) (ready : BitVec 13) (overlay : Option (List (BitVec 32))) (s : State) : Host.Outcome State Fault Refusal :=
  let host := (s.side sd).soForce SO_OV.O_HOST == 1
  let served := s.dmaOpen sd && (s.side (s.endpoint sd)).on HOST_STAT.LINK_UP
  .next (s.mod sd (fun x => x.compose ready.toNat (if host && !served then none else overlay)))

end Sys2Proof.Machine
end

