-- ==== Sys2Proof/Machine/Keel.lean ====
section
/-! DEFINITION. Islands (R12 to R19): quiesce and resume; the Keel going up and down (R24); and cox (R25 to R35): split crew,
resolution, conflicts, handover and claim. The access-error log (R261) stands here because a Keel outage writes into it. -/

namespace Sys2Proof.Machine

/-! ### The access-error log (R261) -/

/-- Causes of a logged access. -/
def accBadAddr := 0
def accEarly := 1
def accPartial := 2
def accKeel := 3
def accPoison := 4

/-- R261: an access is logged on a side: the first since the log was cleared is kept, all are counted. -/
def Side.accErr (x : Side) (cause m : Nat) (write : Bool) (addr : Nat) : Side :=
  let x := (x.inc ACC_ERR_COUNT.whole).raise HOST_STAT.ERR_SEEN
  let x := if cause == accEarly then x.raise HOST_STAT.ACCESS_BEFORE_READY else x
  if x.on ACC_ERR_HI.VALID then x
  else
    let x := (x.set ACC_ERR_LO.ADDR_LO (addr % 2 ^ 36)).set ACC_ERR_HI.ADDR_HI (addr / 2 ^ 36)
    (((x.set ACC_ERR_HI.CAUSE cause).set ACC_ERR_HI.MASTER m).put ACC_ERR_HI.WRITE write).raise ACC_ERR_HI.VALID

/-! ### Islands (R16 to R19, R287) -/

/-- The channel on whose analysis path an island lies; the Starter and acquisition island lies on both (R18). -/
def analysisOf (l : Nat) : List Chan :=
  if l < 0x80 then [chanOf (bitsOf l 11 6)]
  else if bitsOf l 14 12 == 2 then (if bitsOf l 11 6 == 4 then [.c0, .c1] else [chanOf (bitsOf l 11 6)])
  else []

/-- R18: the island may not be quiesced by a command of a ring of side `issuer`. -/
def Side.islLive (x : Side) (l : Nat) (issuer : SideId) (force : Bool) : Bool :=
  (match seatOfSrc l with
    | some seat => !([0, 4, 5].contains (x.seatSt seat))
    | none => false)
  || (!force && (analysisOf l).any (fun c => x.armed c || x.streaming c))
  || (issuer == x.who && (l == srcOf 4 0 0 || l == srcOf 4 1 0))

/-- A condition of an island. -/
def Side.islCond (x : Side) (l : Nat) (c : IslCond) : Bool := (x.islOf l).any (fun i => i.cond == c)

/-- The island stops (R16 step 3); a seat remembers its state (R101). -/
def Side.islStop (x : Side) (l : Nat) : Side :=
  match seatOfSrc l with
  | some seat =>
    ((x.setIsl l (some ⟨.quiesced, false, x.seatSt seat⟩)).set (SEAT_STAT.STATE seat) 6).seatFlags
  | none => x.setIsl l (some ⟨.quiesced, false, 0⟩)

/-- Every running ISLAND_QUIESCE of an island completes. -/
def State.endQuiesce (s : State) (sd : SideId) (l st : Nat) (r0 : Int) : State :=
  ((s.side sd).host.staged.filter (fun c => c.op == 0x42 && c.running && c.e.op4 % 2 ^ 15 == l)).foldl
    (fun s c => s.complete sd c st (if st == stOK then (lget c.aux 0 0).toNat else (s.side sd).now) r0 0) s

/-- ISLAND_QUIESCE takes effect (R16, R18, R287). -/
def effQuiesce (sd : SideId) (st : Staged) (t : Nat) (s : State) : State :=
  let x := s.side sd
  let l := st.e.op4 % 2 ^ 15
  if !isIsland l then s.refuse sd st stBadSource
  else if x.islCond l .quiesced then s.complete sd st stOK t 1 0
  else if x.islLive l st.issuer st.e.force then s.refuse sd st stIslandLive
  else if x.islCond l .quarantined then (s.setSide sd (x.islStop l)).complete sd st stOK t 1 0
  else (s.setSide sd (x.setIsl l (some ⟨.draining, false, 0⟩))).cfgWaits sd st t 0

/-- The Cox cluster island. -/
def coxSrc : Nat := srcOf 5 1 0

/-- The active register set of a core. -/
def Core.act (c : Core) : RegSet := if c.ctx then c.shadow else c.main

/-- R348: a WAIT of the core is an idle point. -/
def Core.idlePoint (c : Core) : Bool := !c.ctx && c.act.loops.isEmpty && c.ops.isEmpty

/-- R354: every core is HALTED, or WAITING at an idle point. -/
def Side.coxStill (x : Side) : Bool := x.cores.all (fun c => c.st == 0 || (c.st == 2 && c.idlePoint))

/-- An acquisition holds nothing that is still to be decided or written (R16). -/
def Side.acqDrained (x : Side) : Bool :=
  x.starter.insts.isEmpty && x.starter.pulses.isEmpty
    && [Chan.c0, Chan.c1].all (fun c => (x.acqOf c).armed.all (fun r => x.acqLevel c r == 0) && (x.ppOf c).spg.isEmpty)

/-- A seat works on no frame. -/
def Side.seatDrained (x : Side) (seat : Nat) : Bool :=
  [Chan.c0, Chan.c1].all (fun c => ((x.xfOf c).flight ++ (x.ppOf c).xs.flight).all (fun f => f.seat != some seat))

/-- R16 step 2: an island has completed the work in hand, and its output FIFOs are empty. Islands not named hold no work between two
commands. -/
def State.drained (s : State) (sd : SideId) (l : Nat) : Bool :=
  let x := s.side sd
  let cl := bitsOf l 11 6
  match bitsOf l 14 12, cl with
  | 1, _ => x.seatDrained cl
  | 2, 4 => x.acqDrained
  | 2, _ => cl < 2 || (lget x.dens (cl - 2) Dens.init).copy.isNone
  | 3, 0 => x.sram.mem.buf.isEmpty
  | 3, _ => x.dram.mem.buf.all (fun e => (x.dramChan e.blk).1 + 1 != cl)
  | 4, 1 => x.host.compl.isEmpty && x.host.events.isEmpty
  | 4, 2 => x.strm.all (fun t => t.items.isEmpty && t.spill.isEmpty)
  | 5, 1 => x.coxStill
  | 5, 5 => s.keel.reads.isEmpty && s.keel.cmds.isEmpty && s.keel.dones.isEmpty
  | _, _ => true

/-- QUIESCED (R16): a draining island has drained. -/
def execQuiesced (sd : SideId) (src : SourceId) (s : State) : Host.Outcome State Fault Refusal :=
  let l := src.toNat % 2 ^ 15
  .next (if (s.side sd).islCond l .draining && s.drained sd l then (s.mod sd (fun x => x.islStop l)).endQuiesce sd l stOK 1 else s)

/-- QUIESCE_TIMEOUT (R17): the island runs on. -/
def execQuiesceTimeout (sd : SideId) (src : SourceId) (s : State) : Host.Outcome State Fault Refusal :=
  let l := src.toNat % 2 ^ 15
  .next (if (s.side sd).islCond l .draining then (s.mod sd (fun x => x.setIsl l none)).endQuiesce sd l stQuiesceTimeout 0 else s)

/-- A quiesced island runs again (R16, R19, R101). -/
def Side.islStart (x : Side) (l : Nat) : Side :=
  match x.islOf l with
  | none => x
  | some i =>
    let x := x.setIsl l none
    let x := match seatOfSrc l with
      | some seat =>
        let x := x.set (SEAT_STAT.STATE seat) i.seat
        (if i.reset then x.raise (SEAT_STAT.RESET_SINCE seat) else x).seatFlags
      | none => x
    if l == monSrc then x.monRestart
    else if l == rtSrc && x.isSolo then x.raise RT_STAT.UNSYNCED
    else x

/-- ISLAND_RESUME takes effect (R287). -/
def effResume (sd : SideId) (st : Staged) (t : Nat) (s : State) : State :=
  let l := st.e.op4 % 2 ^ 15
  if !isIsland l then s.refuse sd st stBadSource
  else (s.mod sd (fun x => if x.islCond l .quiesced then x.islStart l else x)).complete sd st stOK t 0 0

/-! ### The link (R24) -/

/-- The Keel island of a side. -/
def keelSrc : Nat := srcOf 5 5 0

/-- A side can hold up its end of the Keel: its PLLs have locked (R450), its Keel island runs, and it is in no fatal state. -/
def Side.keelReady (x : Side) : Bool := decide (x.get INIT_STAT.PHASE ≥ 2) && x.islRuns keelSrc && !x.pwr.fatal

/-- R281: staged STROBE requests that wait for a cox side fail while cox is being resolved. -/
def State.failStrobes (s : State) (sd : SideId) : State :=
  let rq := (s.side sd).strobe.reqs
  let s := s.mod sd (fun x => { x with strobe := { x.strobe with reqs := [] } })
  rq.foldl (fun s r => match (s.side sd).cmdOf r.1 r.2 with
    | some c => s.refuse sd c stCoxBusy
    | none => s) s

/-- A side at link-up: KEEL_UP, and cox is being resolved. -/
def Side.keelRise (x : Side) : Side :=
  (((x.raise KEEL_COX_STAT.KEEL_UP).drop KEEL_COX_STAT.SPLIT_CREW).raise KEEL_COX_STAT.RESOLVING).event 0x0B x.now 0 0

/-- KEEL_UP (R24, R29): the link comes up where both ends can, and resolution begins. -/
def execKeelUp (s : State) : Host.Outcome State Fault Refusal :=
  .next (if s.keel.up || s.held || !s.stroke.keelReady || !s.bow.keelReady then s
    else
      let s := { s with keel := { s.keel with up := true, everUp := true, resolving := true } }
      let s := (s.mod .stroke Side.keelRise).mod .bow Side.keelRise
      (s.failStrobes .stroke).failStrobes .bow)

/-- R216: device-trigger requests that are not arbitrated at Keel-down are presented in split crew (assumption log 133: DEDUCED). -/
def Side.soloReqs (x : Side) : Side :=
  let rq := x.starter.reqs
  rq.foldl (fun x t => (x.inc DTRIG_SOLO.whole).occur .dtrig (t + keelLsb)) { x with starter := { x.starter with reqs := [] } }

/-- A side at Keel-down (R28, R179, R180): it runs solo, a held cox has been held from here on, and a crew's own loop has
ended. -/
def Side.keelSink (x : Side) : Side :=
  let crew := x.isCrew
  let x := (((x.drop KEEL_COX_STAT.KEEL_UP).raise KEEL_COX_STAT.SPLIT_CREW).drop KEEL_COX_STAT.RESOLVING).put
    KEEL_COX_STAT.HELD_THROUGH (x.on KEEL_COX_STAT.COX_HELD)
  let x := ((x.drop RT_STAT.SYNCED).raise RT_STAT.UNSYNCED).set FAULT_SUMMARY.whole 0
  let x := { x with rt := { x.rt with syncRun := 0, syncLast := none, ppsFrom := 0 } }
  let x := x.soloReqs
  let x := if crew && !x.on RT_CTRL.DISC_EN then { x with rt := { x.rt with f := 0, p := 0 } } else x
  x.event 0x0A x.now 0 0

/-- R33: a staged handover is cancelled. -/
def State.cancelHandovers (s : State) : State :=
  s.keel.handover.foldl (fun s h => match (s.side h.actor).cmdOf h.issuer h.id with
    | some c => s.refuse h.actor c stKeelDown
    | none => s) { s with keel := { s.keel with handover := [] } }

/-- R258, R345: a core's long loads from the other side complete with zero data and KEEL_DOWN, and are logged. -/
def Side.cutLoads (x : Side) : Side :=
  let hit := fun (o : LongOp) => o.remote && decide (o.dest < 3) && o.status != stKeelDown
  let x := x.cores.zipIdx.foldl (fun x p => (p.1.ops.filter hit).foldl (fun x o =>
    x.accErr accKeel (2 + 4 * x.who.n + p.2) false o.addr) x) x
  { x with cores := x.cores.map (fun k => { k with ops := k.ops.map (fun o =>
      if hit o then { o with words := o.words.map (fun _ => 0), status := stKeelDown, poison := false } else o) }) }

/-- R258: remote reads in flight complete with zero data and are logged. -/
def State.cutReads (s : State) : State :=
  let s := (s.mod .stroke Side.cutLoads).mod .bow Side.cutLoads
  let s' := s.keel.reads.foldl (fun s r => s.mod r.1 (fun x => x.accErr accKeel r.2.1 false r.2.2.1)) s
  { s' with keel := { s'.keel with reads := s.keel.reads.map (fun r => (r.1, r.2.1, r.2.2.1, r.2.2.2.1.map (fun _ => 0), false)) } }

/-- The Keel is declared down (R24): messages on it are lost, and cross-spectra go on without a partner (R147). -/
def State.keelFall (s : State) : State :=
  if !s.keel.up then s
  else
    let s := { s with keel := { s.keel with up := false, resolving := false, msgs := [], moved := none } }
    let s := ((s.mod .stroke Side.keelSink).mod .bow Side.keelSink).cancelHandovers.cutReads
    (((s.pumpXs .stroke .c0).pumpXs .stroke .c1).pumpXs .bow .c0).pumpXs .bow .c1

/-- KEEL_DOWN. -/
def execKeelDown (s : State) : Host.Outcome State Fault Refusal := .next s.keelFall

/-- KEEL_RETRAIN (R24): a retrain is attempted; KEEL_UP says when it has succeeded. -/
def execKeelRetrain (_ : SideId) (s : State) : Host.Outcome State Fault Refusal := .next s

/-- SPLIT_CREW_TIMEOUT (R27): both sides begin to run solo. -/
def execSplitCrewTimeout (s : State) : Host.Outcome State Fault Refusal :=
  .next (if s.keel.up || s.keel.everUp || s.held then s
    else
      let f := fun (x : Side) => x.raise KEEL_COX_STAT.SPLIT_CREW
      ({ s with keel := { s.keel with everUp := true } }.mod .stroke f).mod .bow f)

/-! ### Resolution (R26, R29 to R31) -/

/-- The epoch one above the higher of two (R26). -/
def epochAbove (a b : Nat) : Nat := min (max a b + 1) (2 ^ 24 - 1)

/-- R29: the winner, its epoch after resolution, and whether the other side lost a conflict. -/
def State.resolve (s : State) : SideId × Nat × Bool :=
  let a := s.stroke
  let b := s.bow
  let ha := a.on KEEL_COX_STAT.COX_HELD
  let hb := b.on KEEL_COX_STAT.COX_HELD
  let ea := a.get KEEL_COX_STAT.EPOCH
  let eb := b.get KEEL_COX_STAT.EPOCH
  let ta := a.on KEEL_COX_STAT.HELD_THROUGH
  let tb := b.on KEEL_COX_STAT.HELD_THROUGH
  let pref := SideId.ofBit s.pkg.coxpref
  let up := epochAbove ea eb
  match ha, hb with
  | true, false => (.stroke, ea, false)
  | false, true => (.bow, eb, false)
  | false, false => (pref, up, false)
  | true, true =>
    if ta != tb then (if ta then .stroke else .bow, up, true)
    else if ea != eb then (if ea > eb then .stroke else .bow, up, true)
    else (pref, up, true)

/-- The winner holds cox (R29); SYNCED is always set there (R179), and UNSYNCED clears with no discipline to wait for (R180). -/
def Side.takeCox (x : Side) (epoch : Nat) : Side :=
  let x := ((x.raise KEEL_COX_STAT.COX_HELD).set KEEL_COX_STAT.EPOCH epoch)
  if x.on RT_CTRL.DISC_EN then x else x.drop RT_STAT.UNSYNCED

/-- R30: the losing side of a conflict: it drops its device-wide state, steps to the winner's race time, and logs
COX_CONFLICT. -/
def Side.loseCox (x : Side) (epoch loserEp winnerEp : Nat) (winner : SideId) (d : Int) : Side :=
  let st := x.starter
  let x := { x with
    starter := { st with reqs := [], accepted := [] }
    strobe := { x.strobe with due := [] } }.set FAULT_SUMMARY.whole 0
  let x := if d == 0 then x else x.step d 3
  let x := { x with rt := { x.rt with p := 0 } }
  let x := x.raise KEEL_COX_STAT.CONFLICT_SEEN
  let x := x.logFault ⟨0, x.src (srcOf 7 1 0), epoch, false, false, false⟩ false
  x.event 0x0C x.now (loserEp + winnerEp * 2 ^ 24 + winner.n * 2 ^ 48 : Nat) d

/-- R30: staged strobe distribution is dropped: the STROBE commands that waited for those strobes fail. -/
def State.dropStrobes (s : State) (sd : SideId) : State :=
  let cs := (s.side sd).strobe.due.flatMap (fun d => d.2)
  cs.foldl (fun s r => match (s.side sd).cmdOf r.1 r.2 with
    | some c => s.refuse sd c stCoxBusy
    | none => s) s

/-- COX_RESOLUTION (R29). -/
def execCoxResolution (s : State) : Host.Outcome State Fault Refusal :=
  .next (if !s.keel.up || !s.keel.resolving then s
    else
      let (w, ep, conflict) := s.resolve
      let l := w.other
      let lEp := (s.side l).get KEEL_COX_STAT.EPOCH
      let wEp := (s.side w).get KEEL_COX_STAT.EPOCH
      let d : Int := ((s.side w).now : Int) - (s.side l).now
      let s := { s with keel := { s.keel with resolving := false } }
      let s := if conflict then s.dropStrobes l else s
      let clr := fun (x : Side) => x.drop KEEL_COX_STAT.RESOLVING
      let s := (s.mod w (fun x => (clr x).takeCox ep)).mod l (fun x =>
        (((clr x).drop KEEL_COX_STAT.COX_HELD).drop KEEL_COX_STAT.HELD_THROUGH).set KEEL_COX_STAT.EPOCH ep)
      let s := s.mod w (fun x => x.raise RT_STAT.SYNCED)
      if conflict then
        let s := s.mod l (fun x => x.loseCox ep lEp wEp w d)
        if d == 0 then s else s.markStep
      else s)

/-! ### Handover and claim (R32 to R34) -/

/-- The side of TARGET. -/
def coxTarget (e : CmdEntry) : SideId := SideId.ofBit (bitAt e.op4 0)

/-- COX_HANDOVER is executed on a side with boundary T (R32 to R34). -/
def stageHandover (sd : SideId) (st : Staged) (t : Nat) (s : State) : State :=
  let target := coxTarget st.e
  let x := s.side sd
  let put := fun (claim : Bool) =>
    let h : Handover := ⟨target, t, st.issuer, sd, st.id, claim⟩
    ({ s with keel := { s.keel with handover := s.keel.handover ++ [h] } }).cfgWaits sd st t 0
  if s.keel.up then
    if (s.side target).on KEEL_COX_STAT.COX_HELD then s.complete sd st stOK x.now 0 0
    else if t < st.texec + nsLsb 2000 then s.refuse sd st stCoxLate
    else if s.keel.resolving then s.refuse sd st stCoxBusy
    else put false
  else if !bitAt st.e.op4 1 || target != sd then s.refuse sd st stKeelDown
  else put true

/-- R34: a claim: the side takes cox with the Keel down. A side that holds cox already keeps its epoch: R26 raises it for a side that
takes cox, and the rule is silent on a present holder. Log entry 110: DESIGN CHOICE. -/
def Side.claimCox (x : Side) (other : Nat) : Side :=
  if x.on KEEL_COX_STAT.COX_HELD then x else x.takeCox (epochAbove (x.get KEEL_COX_STAT.EPOCH) other)

/-- R33, R181: cox moves at T. -/
def State.moveCox (s : State) (w : SideId) (t : Nat) : State :=
  let l := w.other
  let ep := epochAbove ((s.side l).get KEEL_COX_STAT.EPOCH) 0
  let new := fun (x : Side) =>
    let x := (x.takeCox ep).raise RT_STAT.SYNCED
    let x := if x.on RT_CTRL.DISC_EN then { x with rt := { x.rt with ppsFirst := true, ppsLast := none } } else x
    { x with rt := { x.rt with ppsFrom := t } }
  let old := fun (x : Side) =>
    let x := ((x.drop KEEL_COX_STAT.COX_HELD).drop KEEL_COX_STAT.HELD_THROUGH).set KEEL_COX_STAT.EPOCH ep
    let x := (x.drop RT_STAT.SYNCED).set FAULT_SUMMARY.whole 0
    { x with rt := { x.rt with p := 0, syncRun := 0, syncLast := none } }
  let ev := fun (x : Side) => x.event 0x0D t (w.n + 2 * ep : Nat) 0
  let s := (s.mod w (fun x => ev (new x))).mod l (fun x => ev (old x))
  { s with keel := { s.keel with moved := some (l, t) } }

/-- A staged handover's boundary has come, in race time of the side that acts. -/
def State.handoverDue (s : State) (h : Handover) : Bool :=
  decide ((s.side (if h.claim then h.target else h.target.other)).now ≥ h.t)

/-- COX_TAKEN: the earliest staged handover whose boundary has come is made; a claim met by a Keel that has come up meanwhile is
treated as a handover of the side that holds cox (R34). One whose command is no longer staged has been discarded with it, and a side in
a fatal state takes no cox (R28). -/
def execCoxTaken (s : State) : Host.Outcome State Fault Refusal :=
  .next (match s.keel.handover.find? s.handoverDue with
    | none => s
    | some h =>
      if s.keel.resolving then s
      else
        let s := { s with keel := { s.keel with handover := s.keel.handover.erase h } }
        match (s.side h.actor).cmdOf h.issuer h.id with
        | none => s
        | some c =>
          let s := if (s.side h.target).on KEEL_COX_STAT.COX_HELD || (s.side h.target).pwr.fatal then s
            else if s.keel.up then s.moveCox h.target h.t
            else s.mod h.target (fun x => x.claimCox 0)
          s.complete h.actor c stOK h.t 0 0)

end Sys2Proof.Machine
end

