-- ==== Sys2Proof/Machine/Faults.lean ====
section
/-! DEFINITION. Faults (R409 to R421): reports, broken wires, the actions of each class, the fatal states, acknowledgement,
injection, summaries across the Keel, the watchdog and ALIVE. -/

namespace Sys2Proof.Machine

/-! ### Sources and classes (R411 to R413) -/

/-- The island a source lies in: its own, or that of its cluster (R12). -/
def islandOfSrc (l : Nat) : Nat := if bitsOf l 5 0 < 16 then l else l / 64 * 64

/-- R410: the collector masks the wires of an island that is quiesced or quarantined. -/
def Side.masked (x : Side) (l : Nat) : Bool :=
  let i := islandOfSrc l
  x.islCond i .quiesced || x.islCond i .quarantined ||
  (match seatOfSrc i with
    | some seat => x.seatSt seat == 4 || x.seatSt seat == 6
    | none => false)

/-- A core that a source names. -/
def coreOfSrc (l : Nat) : Option Nat :=
  if bitsOf l 14 6 == 5 * 64 + 1 && 16 ≤ bitsOf l 5 0 && bitsOf l 5 0 < 20 then some (bitsOf l 5 0 - 16) else none

/-- Fixed functions that report (R294, R310, R317, R328, R367, R391). -/
def reportingFixed : List Nat :=
  [srcOf 3 0 16] ++ (List.range 4).flatMap (fun c => [16, 17, 19].map (srcOf 3 (c + 1)))
    ++ (List.range 4).map (fun c => srcOf 5 1 (16 + c)) ++ (List.range 16).map (fun i => srcOf 5 3 (16 + i))
    ++ (List.range 3).map (fun i => srcOf 5 8 (16 + i))

/-- A source the engine reports (R13). -/
def isReporter (l : Nat) : Bool := isIsland l || reportingFixed.contains l

/-- The source's own chapter classes and handles its reports: fixed functions, seats and post-processors. -/
def ownChapter (l : Nat) : Bool := bitsOf l 5 0 ≥ 16 || bitsOf l 14 12 == 1 || l == srcOf 2 0 0 || l == srcOf 2 1 0

/-- R412: the class of a report; `given` is the class a chapter's own rule gives it. -/
def reportClass (l given : Nat) : Nat :=
  if ownChapter l then min given 2
  else if l == srcOf 5 0 0 then 4
  else if l == srcOf 5 7 0 || l == srcOf 5 6 0 || l == srcOf 4 1 0 || l == srcOf 3 0 0 then 3
  else 2

/-! ### Cox cores that stop (R343, R349) -/

/-- A core changed. -/
def Side.modCore (x : Side) (c : Nat) (f : Core → Core) : Side := { x with cores := lmod x.cores c f }

/-- A core. -/
def Side.coreOf (x : Side) (c : Nat) : Core := lget x.cores c Core.init

/-- A core halts with a cause. -/
def Core.halt (k : Core) (cause : Nat) : Core := { k with st := 0, cause := cause, slot := none, inSlot := false, waitTag := none }

/-- R414: the syndrome of a core's report. -/
def coreSyn (cause pc : Nat) : Nat := cause * 2 ^ 13 + pc % 2 ^ 13

/-- R343, R349, R354: a core halts and reports a fault of class Contained. -/
def Side.trapCore (x : Side) (c cause : Nat) : Side :=
  let pc := (x.coreOf c).pc
  (x.modCore c (fun k => k.halt cause)).report 2 (srcOf 5 1 (16 + c)) (coreSyn cause pc) false

/-! ### Fatal states (R417, R419) -/

/-- R417: an armed channel's record completes as if disarmed now; samples that have not left the front end are not written. -/
def Side.cutRecord (x : Side) (c : Chan) : Side :=
  let a := x.acqOf c
  match a.armed with
  | none => x
  | some r =>
    let u := (x.feOf c).m
    x.setAcq c { a with armed := some { r with stopM := some ((r.stopM.getD u).min u) } }

/-- The record of a channel is finished with what there is. -/
def Side.endRecord (x : Side) (c : Chan) : Side := ((x.acqWrite c ((x.acqOf c).armed.elim 0 (·.samples.length))).segmentDone c).recordDone c

/-- The islands of the Ingest, Transform and Product regions stop. -/
def Side.stopRegions (x : Side) : Side :=
  (islands.filter (fun l => bitsOf l 14 12 < 3)).foldl (fun x l => x.quarantine l) x

/-- Commands in staging entries complete with ABORTED, FENCEs first, which would otherwise end as the others leave. -/
def State.abortStaged (s : State) (sd : SideId) : State :=
  let cs := (s.side sd).host.staged
  (cs.filter (fun c => c.op == 1) ++ cs.filter (fun c => c.op != 1)).foldl (fun s c => s.refuse sd c stAborted) s

/-- R418: what a side says of itself. -/
def Side.summary (x : Side) : Nat × Nat × Nat :=
  (x.get FAULT_STAT.WORST, x.get FAULT_STAT.OUT_COUNT,
    if x.on FAULT_STAT.DEV_FATAL then 2 else if x.on FAULT_STAT.SIDE_FATAL then 1 else 0)

/-- R421: a half of FAULT_SUMMARY. -/
def summaryHalf (v : Nat × Nat × Nat) : Nat := 2 ^ 17 + v.1 * 2 ^ 14 + b2n (v.2.2 != 0) * 2 ^ 13 + min v.2.1 63 * 2 ^ 7

/-- The half of FAULT_SUMMARY for a side. -/
def summaryFld : SideId → Fld
  | .stroke => FAULT_SUMMARY.STROKE
  | .bow => FAULT_SUMMARY.BOW

/-- R418: a side sends its summary; the cox side presents its own with the other's. -/
def State.sendSummary (s : State) (sd : SideId) : State :=
  if !s.keel.up then s
  else
    let v := (s.side sd).summary
    let s := s.mod sd (fun x => if x.isCox then x.set (summaryFld sd) (summaryHalf v) else x)
    s.send sd.other (.summary v.1 v.2.1 v.2.2)

/-- R417: a side enters Side-fatal state, or Device-fatal state, in which ALIVE stops too (R419). -/
def State.fatal (s : State) (sd : SideId) (dev : Bool) : State :=
  let was := (s.side sd).pwr.fatal
  let s := s.mod sd (fun x =>
    let x := if dev then (x.raise FAULT_STAT.DEV_FATAL).drop FAULT_STAT.ALIVE_RUN else x.raise FAULT_STAT.SIDE_FATAL
    x.faultRefresh)
  if was then s.sendSummary sd
  else
    let s := s.mod sd (fun x =>
      let x := { ((x.cutRecord .c0).cutRecord .c1) with pwr := { x.pwr with fatal := true } }
      let x := if x.on (FE_STAT.RUNNING 0) then x.stopFe .c0 else x
      let x := if x.on (FE_STAT.RUNNING 1) then x.stopFe .c1 else x
      let x := (x.endRecord .c0).endRecord .c1
      let x := { x.stopProgram x.starter.block with starter := { (x.stopProgram x.starter.block).starter with insts := [] } }
      let x := (List.range 5).foldl (fun x k => (x.srcStop .c0 k).srcStop .c1 k) x
      let x := (x.toneFlags 0).toneFlags 1
      (x.stopRegions.drop KEEL_COX_STAT.COX_HELD).drop KEEL_COX_STAT.HELD_THROUGH)
    (s.abortStaged sd).sendSummary sd

/-- R413: the action of a class on a source's island or side. -/
def State.classAct (s : State) (sd : SideId) (cls l : Nat) : State :=
  if cls ≥ 3 then s.fatal sd (cls == 4)
  else if cls == 2 && !ownChapter l then s.mod sd (fun x => x.quarantine (islandOfSrc l))
  else s

/-! ### Reports (R409 to R411, R415) -/

/-- An injection of mode 1 or 2 is armed for a checker of a source: whether it is, and the side after it has fired (R420). -/
def Side.takeInjChk (x : Side) (l chk : Nat) : Bool × Side :=
  if x.get FAULT_INJ.CHK == chk then x.takeInj l else (false, x)

/-- The local response to a trip, as its own chapter gives it: what remains to be reported, as class and syndrome; a checker whose chapter
gives none reports its index (R414). -/
def State.respond (s : State) (sd : SideId) (l given chk syn passed : Nat) (loading : Bool) : State × Option (Nat × Nat) :=
  match seatOfSrc l with
  | some seat =>
    let r := s.seatTrip sd seat passed loading
    (r.1.mod sd (fun x => if r.2.isSome then x.inc (SEAT_STAT.TRIPS seat) else x), r.2.map (fun p => (p.1, p.2 % 2 ^ 36)))
  | none =>
    match coreOfSrc l with
    | some c =>
      let k := (s.side sd).coreOf c
      if k.st == 0 then (s, none) else (s.mod sd (fun x => x.modCore c (fun k => k.halt 3)), some (2, coreSyn 3 k.pc))
    | none => (s, some (reportClass l given, if ownChapter l then syn else chk))

/-- FAULT_REPORT: the collector takes a checker's report, logs it and takes the actions of its class. -/
def execFaultReport (sd : SideId) (r : FaultRep) (s : State) : Host.Outcome State Fault Refusal :=
  let l := r.src.toNat % 2 ^ 15
  let x := s.side sd
  .next (if s.held || !isReporter l || x.masked l then s
    else if r.again then s.mod sd (fun x => x.inc FAULT_LOST.whole)
    else
      let s := s.mod sd (fun x => { x with col := { x.col with broken := x.col.broken.erase (l, r.chk.toNat) } })
      let (inj, x) := (s.side sd).takeInjChk l r.chk.toNat
      let (s, v) := (s.setSide sd x).respond sd l r.cls.code r.chk.toNat r.syn.toNat r.passed r.loading
      match v with
      | none => s
      | some (cls, syn) => (s.mod sd (fun x => x.report cls l syn inj)).classAct sd cls l)

/-- R411: the local response where the verdict of a broken wire's checker is unknown. A post-processor cannot pass the frame it holds. -/
def State.respondBroken (s : State) (sd : SideId) (l passed : Nat) (loading : Bool) : State :=
  match seatOfSrc l with
  | some seat => (s.seatTrip sd seat passed loading).1
  | none =>
    match coreOfSrc l with
    | some c => s.mod sd (fun x => x.modCore c (fun k => if k.st == 0 then k else k.halt 3))
    | none => s.mod sd (fun x => if l == srcOf 2 0 0 then x.ppVoid .c0 else if l == srcOf 2 1 0 then x.ppVoid .c1 else x)

/-- WIRE_BROKEN (R410, R411): the pair of a wire reads (0,0) or (1,1) on two samples, and is reported once, at least as Contained, with the
local response of a trip; a pair that reads (0,1) or (1,0) again may be reported again. -/
def execWireBroken (sd : SideId) (cls : FaultClass) (src : SourceId) (chk : BitVec 8) (w : WireRead) (s : State) : Host.Outcome State Fault Refusal :=
  let l := src.toNat % 2 ^ 15
  let x := s.side sd
  let key := (l, chk.toNat)
  .next (if s.held || !isReporter l || x.masked l then s
    else if w.rails == 1 || w.rails == 2 then s.mod sd (fun x => { x with col := { x.col with broken := x.col.broken.erase key } })
    else if x.col.broken.contains key then s
    else
      let s := s.mod sd (fun x => { x with col := { x.col with broken := key :: x.col.broken } })
      let s := s.respondBroken sd l w.passed w.loading
      let inj := x.get FAULT_INJ.MODE == 3 && x.get FAULT_INJ.SRC == x.src l && x.get FAULT_INJ.CHK == chk.toNat
      let c := max 2 (reportClass l cls.code)
      let s := s.mod sd (fun x => x.logFault ⟨c, x.src l, chk.toNat * 2 ^ 8 + w.rails.toNat, true, inj, false⟩ true)
      s.classAct sd c l)

/-! ### Acknowledgement and injection (R416, R420) -/

/-- A write of FAULT_ACK (R416). -/
def Side.wFaultAck (x : Side) (v : Word) : Side :=
  let seq := bitsOf v.toNat 29 16
  if bitAt v.toNat 35 then
    if x.on FAULT_STAT.FIRST_VALID && bitsOf (x.reg FAULT_FIRST_W2.whole.idx).toNat 29 16 == seq then
      let x := (x.setPair FAULT_FIRST_LO.whole.idx 0).setReg FAULT_FIRST_W2.whole.idx 0
      (x.setReg FAULT_FIRST_W3.whole.idx 0).drop FAULT_STAT.FIRST_VALID
    else x.raise FAULT_STAT.ACK_STALE
  else
    match x.outEntry (bitsOf v.toNat 15 0) with
    | some i => if x.get (FAULT_OUT.SEQ i) == seq then (x.set (FAULT_OUT.whole i) 0).faultRefresh else x.raise FAULT_STAT.ACK_STALE
    | none => x.raise FAULT_STAT.ACK_STALE

/-- R420: a source of the side that has checkers: its islands, its block decoders and its cores. -/
def Side.hasChecker (x : Side) (src : Nat) : Bool :=
  let l := src % 2 ^ 15
  src == x.src l && (isIsland l || l == srcOf 3 0 16 || (coreOfSrc l).isSome
    || (bitsOf l 14 12 == 3 && 1 ≤ bitsOf l 11 6 && bitsOf l 11 6 ≤ 4 && (bitsOf l 5 0 == 16 || bitsOf l 5 0 == 17)))

/-- A write of FAULT_INJ (R420). A forced rail that is let go reads valid again (R410). -/
def Side.wFaultInj (x : Side) (v : Word) : Side :=
  let n := v.toNat
  let mode := bitsOf n 35 34
  let src := bitsOf n 31 16
  let cls := reportClass (src % 2 ^ 15) 0
  if !x.hasChecker src || (cls ≥ 3 && !x.on FAULT_CFG.INJ_FATAL) || (mode != 0 && x.on FAULT_INJ.MODE) then x.raise FAULT_STAT.INJ_REFUSED
  else
    let x := if mode == 0 && x.get FAULT_INJ.MODE == 3 then
        { x with col := { x.col with broken := x.col.broken.erase (x.get FAULT_INJ.SRC % 2 ^ 15, x.get FAULT_INJ.CHK) } }
      else x
    (((x.set FAULT_INJ.MODE mode).set FAULT_INJ.RAIL (bitsOf n 33 33)).set FAULT_INJ.SRC src).set FAULT_INJ.CHK (bitsOf n 15 8)

/-! ### Summaries, watchdog and ALIVE (R418, R419) -/

/-- FAULT_SUMMARY_SEND. -/
def execFaultSummarySend (sd : SideId) (s : State) : Host.Outcome State Fault Refusal := .next (s.sendSummary sd)

/-- R418: a summary of the other side is received: presented on the cox side, a fatal state logged once, and a Device-fatal state
shared. -/
def State.takeSummary (s : State) (sd : SideId) (v : Nat × Nat × Nat) : State :=
  let s := s.mod sd (fun x =>
    let x := if x.isCox then (x.set (summaryFld sd) (summaryHalf x.summary)).set (summaryFld sd.other) (summaryHalf v) else x
    let x := if v.2.2 > x.col.told then
        x.logFault ⟨2 + v.2.2, sd.other.n * 2 ^ 15 + srcOf 7 0 0, 0, false, false, true⟩ true
      else x
    { x with col := { x.col with told := v.2.2 } })
  if v.2.2 == 2 && !(s.side sd).on FAULT_STAT.DEV_FATAL then s.fatal sd true else s

/-- FAULT_SUMMARY: the oldest summary in flight towards the side. -/
def execFaultSummary (sd : SideId) (s : State) : Host.Outcome State Fault Refusal :=
  .next (match takeMsg (fun d m => d == sd && (match m with | .summary _ _ _ => true | _ => false)) s.keel.msgs with
    | some ((_, .summary w c f), rest) => { s with keel := { s.keel with msgs := rest } }.takeSummary sd (w, c, f)
    | _ => s)

/-- The always-on domain of a side has been released (R450). -/
def State.alwaysOn (s : State) (sd : SideId) : Bool := !s.held && (s.side sd).get INIT_STAT.PHASE != 0

/-- WATCHDOG_EXPIRY (R419). -/
def execWatchdogExpiry (sd : SideId) (s : State) : Host.Outcome State Fault Refusal :=
  .next (if s.alwaysOn sd then (s.mod sd (fun x => x.raise FAULT_STAT.WD_EXPIRED)).fatal sd true else s)

/-- ALIVE_TOGGLE (R419). -/
def execAliveToggle (sd : SideId) (s : State) : Host.Outcome State Fault Refusal :=
  .next (if s.alwaysOn sd && (s.side sd).on FAULT_STAT.ALIVE_RUN
    then s.mod sd (fun x => { x with col := { x.col with alive := !x.col.alive } }) else s)

end Sys2Proof.Machine
end

