-- ==== Sys2Proof/Machine/CoxImage.lean ====
section
/-! DEFINITION. Firmware images of the Cox cores (R350) and the start of a core (R331, R352). -/

namespace Sys2Proof.Machine

/-- R329: the word offset of a core's memory: 0 and 1 the program banks, 2 X, 3 Y. -/
def coxBase (c part : Nat) : Nat := 0x8000 * c + 0x2000 * part

/-- A word of a program bank, as its decoder delivers it (R330). -/
def Side.prog (x : Side) (c bank a : Nat) : Word := (x.readWord .cox (coxBase c bank + a % 8192)).2.1

/-- One bit of the reflected CRC-32 of IEEE 802.3. -/
def crcBit (r : Nat) : Nat := if r % 2 == 1 then Nat.xor (r / 2) 0xEDB88320 else r / 2

/-- One byte. -/
def crcByte (r b : Nat) : Nat := (List.range 8).foldl (fun r _ => crcBit r) (Nat.xor r b)

/-- R350: a word goes in as 5 little-endian bytes, the upper nibble zero. -/
def crcWord (r : Nat) (w : Word) : Nat := (List.range 5).foldl (fun r i => crcByte r (w.toNat / 256 ^ i % 256)) r

/-- The CRC-32 of words. -/
def crc32 (ws : List Word) : Nat := Nat.xor (ws.foldl crcWord 0xFFFFFFFF) 0xFFFFFFFF

/-- LENGTH of the image in a bank. -/
def Side.imageLen (x : Side) (c bank : Nat) : Nat := bitsOf (x.prog c bank 0x1FFC).toNat 12 0
/-- VERSION. -/
def Side.imageVersion (x : Side) (c bank : Nat) : Nat := (x.prog c bank 0x1FFD).toNat
/-- ENTRY. -/
def Side.imageEntry (x : Side) (c bank : Nat) : Nat := bitsOf (x.prog c bank 0x1FFF).toNat 12 0

/-- R350: the image in a bank passes its check. -/
def Side.imageOk (x : Side) (c bank : Nat) : Bool :=
  let n := x.imageLen c bank
  bitsOf (x.prog c bank 0x1FFC).toNat 35 24 == 0x0C1 && 1 ≤ n && n ≤ 8188 &&
  (x.prog c bank 0x1FFE).toNat ==
    crc32 ((List.range n).map (fun i => x.prog c bank i) ++ [x.prog c bank 0x1FFC, x.prog c bank 0x1FFD]) &&
  x.imageEntry c bank < n

/-- R331, R352: a core is started in a bank with g0 = ARG; its registers are cleared. LA, TSEL, the alarm and the captured RT_HI
are not among them; a SWITCH that is pending stays so. -/
def Side.startCore (x : Side) (c bank : Nat) (arg : Word) : Side :=
  let e := x.imageEntry c bank
  x.modCore c (fun k =>
    { Core.init with
      st := 1, cause := k.cause, bank := bank, pc := e, la := k.la, tsel := k.tsel, alarmLo := k.alarmLo, alarmHi := k.alarmHi
      armed := k.armed, rtHi := k.rtHi, sw := k.sw, arg := k.arg
      main := { RegSet.init with g := lset RegSet.init.g 0 arg, gr := lset RegSet.init.gr 0 (residue arg.toInt) } })

end Sys2Proof.Machine
end

