-- ==== Sys2Proof/Machine/Power.lean ====
section
/-! DEFINITION. Resets and start-up (R444 to R452), island reset (R449), the reset of a host region (R260), and DRAM channel
map-out (R454, R455). -/

namespace Sys2Proof.Machine

/-- Registers lo … hi return to their reset values. -/
def Side.dropRegs (x : Side) (lo hi : Nat) : Side :=
  { x with regs := x.regs.filter (fun p => decide (p.1 < lo ∨ hi < p.1)) }

/-! ### The host region (R260) -/

/-- Commands carried by a side's rings leave staging without a completion, on both sides and on their way. -/
def State.dropIssued (s : State) (sd : SideId) : State :=
  let noCopy := fun (x : Side) (c : Chan) => match (x.densOf c).copy with
    | some k => if k.issuer == sd then (x.setDens c { x.densOf c with copy := none }).drop (DENS_STAT.COPYING c.n) else x
    | none => x
  let f := fun (x : Side) =>
    noCopy (noCopy { x with host := { x.host with staged := x.host.staged.filter (fun c => c.issuer != sd) } } .c0) .c1
  let k := s.keel
  ({ s with keel := { k with cmds := k.cmds.filter (fun c => c.2.issuer != sd), dones := k.dones.filter (fun d => d.1 != sd) } }.mod .stroke f).mod .bow f

/-- R230: a record in DRAIN mode whose stream ends is cut at what has been written. -/
def Side.cutDrain (x : Side) (c : Chan) : Side :=
  let a := x.acqOf c
  match a.armed with
  | some r =>
    if rcDrain r.block && r.truncated.isNone then
      x.setAcq c { a with armed := some { r with truncated := some r.next, samples := [], lines := [] } }
    else x
  | none => x

/-- The ring and DMA engine starts afresh; what it has written in host memory, and the messages sent, stand. -/
def Side.ringsReset (x : Side) : Side :=
  let h := x.host
  ({ x with host := { HostSide.init with
    nextId := h.nextId, staged := h.staged, mem := h.mem, msi := h.msi, msix := h.msix, pba := h.pba, aer := h.aer } }).dropRegs 0x2000 0x2FFF

/-- The PCIe core starts afresh (R244, R260): its MSI-X table and error log. -/
def Side.pcieReset (x : Side) : Side := { x with host := { x.host with msix := MsixEnt.initTable, pba := [], aer := [] } }

/-- The stream formatter starts afresh: no stream is bound. -/
def Side.formatterReset (x : Side) : Side :=
  (({ x with strm := List.replicate 16 Strm.init }.dropRegs 0x9040 0x907F).cutDrain .c0).cutDrain .c1

/-- PERST_N is asserted on a side (R260). -/
def State.perst (s : State) (sd : SideId) : State :=
  let s := s.dropIssued sd
  let s := { s with keel := { s.keel with reads := s.keel.reads.filter (fun r => !(r.1 == sd && r.2.1 < 2)) } }
  s.mod sd (fun x => ((x.ringsReset.formatterReset).pcieReset).dropRegs 0x1000 0x1FFF)

/-! ### RESET_N (R444 to R446) -/

/-- A side after RESET_N; host memory lies outside it. -/
def Side.cold (x : Side) : Side :=
  let y := Side.init x.who
  { y with host := { y.host with nextId := x.host.nextId, mem := x.host.mem, msi := x.host.msi } }

/-- Both dies are reset entirely. -/
def State.coldReset (s : State) : State :=
  { s with stroke := s.stroke.cold, bow := s.bow.cold, keel := Keel.init }

/-- RESET_N is asserted. -/
def execResetN (s : State) : Host.Outcome State Fault Refusal :=
  .next (if s.pkg.resetN then s
    else { s.coldReset with pkg := { s.pkg with resetN := true, cause := if s.pkg.railOk then 1 else s.pkg.cause } })

/-- A side leaves reset: its straps and the cause of its start can be read (R445, R458). -/
def Side.leaveReset (x : Side) (pkg : Package) : Side :=
  let x := (x.put KEEL_COX_STAT.COXPREF pkg.coxpref).put RESET_STAT.COXPREF pkg.coxpref
  (x.put RESET_STAT.BOOTSRC pkg.bootsrc).set RESET_STAT.CAUSE pkg.cause

/-- The dies leave reset. -/
def State.release (s : State) : State := (s.mod .stroke (fun x => x.leaveReset s.pkg)).mod .bow (fun x => x.leaveReset s.pkg)

/-- RESET_N is released (R445). -/
def execResetNRelease (coxpref bootsrc : Bool) (s : State) : Host.Outcome State Fault Refusal :=
  .next (if !s.pkg.resetN then s
    else
      let s := { s with pkg := { s.pkg with resetN := false, coxpref := coxpref, bootsrc := bootsrc } }
      if s.pkg.railOk then s.release else s)

/-- A rail leaves its range (R444). -/
def execRailOutOfRange (s : State) : Host.Outcome State Fault Refusal :=
  .next { s.coldReset with pkg := { s.pkg with railOk := false, cause := if s.pkg.resetN then s.pkg.cause else 3 } }

/-- RAIL_VALID (R444): the dies restart, unless RESET_N is low. -/
def execRailValid (s : State) : Host.Outcome State Fault Refusal :=
  .next (if s.pkg.railOk then s
    else
      let s := { s with pkg := { s.pkg with railOk := true } }
      if s.pkg.resetN then s else s.release)

/-! ### Start-up (R450 to R452) -/

/-- Start-up stops with a code (R249). -/
def Side.initFail (x : Side) (code : Nat) : Side := (x.raise INIT_STAT.FAILED).set INIT_STAT.FAIL_CODE code

/-- PHASE 1 (R357): the reference is measured and the three loops lock. -/
def Side.initPlls (x : Side) (ref100 : Bool) : Side :=
  let x := { x with clk := { Clk.init with fb := fbOf (lget Clk.init.f 0 0) ref100, fLost := false, tLost := false, mLost := false } }
  let x := (((x.put PLL_LOCK_CFG.REF100 ref100).raise PLL_STAT.F_LOCK).raise PLL_STAT.T_LOCK).raise PLL_STAT.M_LOCK
  ((x.set PLL_STAT.FAB_ACTIVE (lget Clk.init.f 0 0)).set PLL_STAT.T_ACTIVE (lget Clk.init.tm 0 0)).set INIT_STAT.PHASE 2

/-- PHASE 2: fuses are loaded; VID lies from 0 to 52 (R441). -/
def Side.initFuses (x : Side) : Side :=
  let x := { x with fuse := true }
  let x := x.set AVS_VID.VID ((Config.fuse x.who AVS_VID.whole.idx).toNat % 53)
  (x.set RESET_STAT.STEP (bitsOf (Config.fuse x.who RESET_STAT.whole.idx).toNat 20 16)).set INIT_STAT.PHASE 3

/-- PHASE 3 (R325): memories are filled. -/
def Side.initSram (x : Side) : Side :=
  ({ x with sram := ⟨BpcMem.init, [], [], [], 0, 0⟩, coxMem := BpcMem.init }.set INIT_STAT.FILL_PCT 100).set INIT_STAT.PHASE 4

/-- R292: blocks of a subchannel. -/
def subBlocks (m : DramModule) : Nat :=
  let rk := b2n (m.ranks2 && !(!m.x8 && m.d32))
  2 ^ ((if m.x8 then 6 else 7) + 5 + (if m.d32 then 17 else 16) + rk)

/-- R308: the pass window of a Vref step, the longest run of passing taps: its first tap and its width. Of equal runs the first counts
(assumption log 128). -/
def passWindow (w : BitVec 128) : Nat × Nat :=
  if w == 0 then (0, 0)
  else
    ((List.range 128).foldl (fun (a : (Nat × Nat) × (Nat × Nat)) t =>
      if bitAt w.toNat t then
        let run := if a.1.2 == 0 then (t, 1) else (a.1.1, a.1.2 + 1)
        (run, if run.2 > a.2.2 then run else a.2)
      else ((0, 0), a.2)) ((0, 0), (0, 0))).2

/-- R308: the eye of a sweep over 64 Vref steps: the Vref with the widest window, the lower middle one of equals; the delay in the
middle of its window. None if no tap passes in any step. -/
def eyeOf (sweep : List (BitVec 128)) : Option Eye :=
  let ws := (List.range 64).map (fun v => passWindow (lget sweep v 0))
  let best := ws.foldl (fun a w => max a w.2) 0
  if best == 0 then none
  else
    let vs := (List.range 64).filter (fun v => (lget ws v (0, 0)).2 == best)
    let v := lget vs ((vs.length - 1) / 2) 0
    let w := lget ws v (0, 0)
    some ⟨(2 * w.1 + best - 1) / 2, v, best⟩

/-- R309: a repeat places the delay within 2 taps and the Vref within 2 steps. -/
def Eye.near (a b : Eye) : Bool :=
  decide (a.delay ≤ b.delay + 2 ∧ b.delay ≤ a.delay + 2 ∧ a.vref ≤ b.vref + 2 ∧ b.vref ≤ a.vref + 2)

/-- R308, R309: the training of a channel's lanes: read and write eyes, or OUT_CAUSE 3 or 4. -/
def trainLanes (n : Nat) (lanes : List LaneSweeps) : Except Nat (List (Eye × Eye)) :=
  (List.range n).foldr (fun i (r : Except Nat (List (Eye × Eye))) =>
    let l := lget lanes i ⟨[], [], [], []⟩
    match r, eyeOf l.read, eyeOf l.write, eyeOf l.read2, eyeOf l.write2 with
    | .error 3, _, _, _, _ => .error 3
    | .error e, some _, some _, some _, some _ => .error e
    | .ok es, some a, some b, some c, some d => if a.near c && b.near d then .ok ((a, b) :: es) else .error 4
    | _, _, _, _, _ => .error 3) (.ok [])

/-- R308: WORST_MARGIN of a channel's lanes. -/
def worstMargin (es : List (Eye × Eye)) : Nat := es.foldl (fun a e => min a (min e.1.width e.2.width / 2)) 63

/-- R451, R452: a directory as read: the flash answers with FORMAT, and its CRC and the side's descriptor bit stand. -/
def flashOk (dir : Option (List Word)) : Bool := dir.any (fun d => bitsOf (lget d 0 0).toNat 35 24 == 0x0D5)
def dramDescOk (sd : SideId) (dir : Option (List Word)) : Bool :=
  flashOk dir && dir.any (fun d => crc32 (d.take 5) == bitsOf (lget d 5 0).toNat 31 0 && bitAt (lget d 0 0).toNat sd.n)

/-- R290, R309, R450: why a populated channel is left out before its training; 0 if it is trained. -/
def outCause (keep : Bool) (m : Option DramModule) (ref : DramModule) : Nat :=
  match m with
  | _ => if keep then 5 else match m with
    | none => 1
    | some m => if m.ranks2 != ref.ranks2 || m.x8 != ref.x8 || m.d32 != ref.d32 then 2 else 0

/-- R291: the parameters of what a channel presents: from its SPD hub, else, on a memory-down channel, from the descriptor; else it is
absent. -/
def paramsOf (desc : Bool) (cfg : Nat) (m : DramModule) : Option DramModule :=
  if m.spd then some m
  else if desc && bitAt cfg 28 then
    some { m with ranks2 := bitAt cfg 27, x8 := bitAt cfg 26, d32 := bitAt cfg 25, rate := Fin.ofNat 5 (min 4 (bitsOf cfg 35 33)) }
  else none

/-- PHASE 4 (R290 to R292, R308, R309, R450 to R452): the flash directory is read and the channels are trained. -/
def Side.initDram (x : Side) (dir : Option (List Word)) (mods : List DramModule) : Side :=
  let desc := dramDescOk x.who dir
  let w := fun i => (lget (dir.getD []) i 0).toNat
  let cfg := if desc then w (1 + 2 * x.who.n) else 0
  let map := w (2 + 2 * x.who.n)
  let md := fun c => paramsOf desc cfg (lget mods c ⟨false, false, false, false, 0, [], []⟩)
  let pop := (List.range 4).filter (fun c => (md c).isSome)
  let ref := (md (pop.head?.getD 0)).getD ⟨false, false, false, false, 0, [], []⟩
  let cap := if desc then min 4 (bitsOf cfg 35 33) else 4
  let rate := pop.foldl (fun a c => min a ((md c).elim 4 (·.rate.val))) cap
  let alt := if desc && pop.length == 4 && bitsOf cfg 32 30 ≤ 4 then bitsOf cfg 32 30 else 7
  let keep := x.get DRAM_MAPOUT.KEEP_OUT
  let n := if ref.x8 then 10 else 20
  let train := fun c =>
    let e := outCause (bitAt keep c) (md c) ref
    if e != 0 then .error e
    else match trainLanes n ((md c).elim [] (·.lanes)) with
      | .error e => .error e
      | .ok es => if alt == 7 then .ok (es, []) else match trainLanes n ((md c).elim [] (·.lanes2)) with
        | .error e => .error e
        | .ok fs => .ok (es, fs)
  let rs : List (Except Nat (List (Eye × Eye) × List (Eye × Eye))) := (List.range 4).map train
  let good := (List.range 4).filter (fun c => match rs[c]? with | some (.ok _) => true | _ => false)
  let x := (x.put RESET_STAT.FLASH_OK (flashOk dir)).put RESET_STAT.DESC_OK desc
  let x := ((x.set DRAM_CFG.RATE rate).set DRAM_CFG.ALT_RATE alt).put DRAM_CFG.MEMDOWN (desc && bitAt cfg 28)
  let x := if pop.isEmpty then x else ((x.put DRAM_CFG.RANKS2 ref.ranks2).put DRAM_CFG.X8 ref.x8).put DRAM_CFG.D32 ref.d32
  let x := (x.set DRAM_CFG.POP (maskN 4 pop.contains)).set DRAM_CFG.NSUB (2 * good.length)
  let x := if desc then ((x.set DRAM_MAP.GRAIN_LOG2 (bitsOf map 35 32)).set DRAM_MAP.ORDER (bitsOf map 31 30)).put DRAM_MAP.HASH (bitAt map 29)
    else x
  let x := rs.zipIdx.foldl (fun x r => match r.1 with
    | .ok es => (x.raise (DRAM_STAT.TRAINED r.2)).set (DRAM_STAT.WORST_MARGIN r.2) (worstMargin es.1)
    | .error e => ((x.raise (DRAM_STAT.MAPPED_OUT r.2)).set (DRAM_STAT.OUT_CAUSE r.2) e).orBit INIT_STAT.DRAM_OUT r.2) x
  let x := { x with
    pwr := { x.pwr with img := if flashOk dir then bitsOf (w 0) 9 2 / 16 ^ x.who.n % 16 else 0 }
    dram := { Dram.init with
      chans := good, subCap := if pop.isEmpty then 0 else subBlocks ref
      train := rs.map (fun (r : Except Nat (List (Eye × Eye) × List (Eye × Eye))) => match r with | .ok es => es.1 | .error _ => [])
      train2 := rs.map (fun (r : Except Nat (List (Eye × Eye) × List (Eye × Eye))) => match r with | .ok es => es.2 | .error _ => []) } }
  (x.set INIT_STAT.FILL_PCT 0).set INIT_STAT.PHASE 5

/-- R297: the extent of space 1 in words. -/
def Dram.words (d : Dram) : Nat := 16 * d.nsub * d.subCap

/-- PHASE 5 (R325): DRAM is filled. -/
def Side.initFill (x : Side) : Side :=
  let x := { x with dram := { x.dram with mem := BpcMem.init, extent := x.dram.words } }
  let x := (x.set INIT_STAT.DRAM_OK (maskN 4 x.dram.chans.contains)).setAcqLimit
  (x.set INIT_STAT.FILL_PCT 100).set INIT_STAT.PHASE 6

/-- Runs that measure nothing. -/
def CalRun.none : CalRun := ⟨[], [], [], 0, 0, [], []⟩
def CalRuns.none : CalRuns := ⟨0, CalRun.none, CalRun.none⟩

/-- PHASE 6 (R398): every item runs, in the order 3, 1, 0, 2, 4. -/
def Side.initCal (x : Side) (runs : List CalRuns) : Side :=
  let r := [3, 1, 0, 2, 4].foldl (fun (a : Side × Bool) n =>
    let q := a.1.calInit n (lget runs n CalRuns.none) a.2
    (q.1, if n == 3 then q.2 else a.2)) (x, false)
  r.1.set INIT_STAT.PHASE 7

/-- R354: core c is loaded from its flash image and started, or stays HALTED with cause 8. An image that the flash directory does not
name fails (R452). -/
def Side.bootCore (x : Side) (c : Nat) (image : List Word) : Side :=
  let image := if bitAt x.pwr.img c then image else []
  let x := if image.isEmpty then x else x.writeRange .cox portCox (coxBase c 0) (image.take 8192)
  if !image.isEmpty && x.imageOk c 0 then (x.startCore c 0 0).orBit RESET_STAT.IMG_OK (4 * x.who.n + c)
  else (x.trapCore c 8).andNotBit RESET_STAT.IMG_OK (4 * x.who.n + c)

/-- PHASE 7 (R354, R452) and READY. -/
def Side.initCores (x : Side) (flash : Bool) (images : List (List Word)) : Side :=
  let x := if flash then (List.range 4).foldl (fun x c => x.bootCore c (lget images c [])) x else x
  (x.raise INIT_STAT.READY).set INIT_STAT.PHASE 8

/-- INIT_PHASE (R450): the phase whose result is given ends, and the next begins. -/
def execInitPhase (sd : SideId) (r : InitResult) (s : State) : Host.Outcome State Fault Refusal :=
  let x := s.side sd
  .next (if s.held || x.on INIT_STAT.READY || x.on INIT_STAT.FAILED then s
    else s.mod sd (fun x =>
      match x.get INIT_STAT.PHASE, r with
      | 0, .alwaysOn => x.set INIT_STAT.PHASE 1
      | 1, .pllLock ref100 refOk => if refOk then x.initPlls ref100 else x.initFail 1
      | 2, .fuseLoad ok => if ok then x.initFuses else x.initFail 2
      | 3, .sramFill ok => if ok then x.initSram else x.initFail 3
      | 4, .dramTrain dir mods => x.initDram dir mods
      | 5, .dramFill => x.initFill
      | 6, .calibration trip runs => if trip then x.initFail 4 else x.initCal runs
      | 7, .coxRelease images => x.initCores (!s.pkg.bootsrc) images
      | _, _ => x))

/-! ### Side reset (R447, R448) -/

/-- A write of SIDE_RESET. -/
def Side.wSideReset (x : Side) (v : Word) : Side :=
  if bitsOf v.toNat 35 24 != 0x5D3 || x.pwr.resetPend || x.on FAULT_STAT.DEV_FATAL then x
  else { x with pwr := { x.pwr with resetPend := true } }

/-- R446, R477: registers of the always-on domain and of the PCIe core's link that a side reset keeps. -/
def sideKeeps (x : Side) : List (Fld × Nat) :=
  ([KEEL_COX_STAT.EPOCH, KEEL_COX_STAT.COXPREF, RESET_STAT.whole, FAULT_STAT.FIRST_VALID, FAULT_STAT.ALIVE_RUN,
      FAULT_HIST_WP.whole, FAULT_CNT_CORR.whole, FAULT_CNT_DEF.whole, FAULT_CNT_CONT.whole, FAULT_CNT_WIRE.whole, FAULT_LOST.whole,
      DRAM_MAPOUT.KEEP_OUT, HOST_STAT.LINK_UP, HOST_STAT.SPEED, HOST_STAT.WIDTH,
      FAULT_FIRST_LO.whole, ⟨FAULT_FIRST_LO.whole.idx + 1, 35, 0⟩, FAULT_FIRST_W2.whole, FAULT_FIRST_W3.whole]
    ++ (List.range 128).map (fun w => (⟨(FAULT_HIST_LO.whole 0).idx + w, 35, 0⟩ : Fld))).map (fun f => (f, x.get f))

/-- A side after its reset: as after RESET_N but for what it keeps, starting from PHASE 1. -/
def Side.warm (x : Side) : Side :=
  let y := (sideKeeps x).foldl (fun y p => if y.get p.1 == p.2 then y else y.set p.1 p.2) x.cold
  let y := { y with col := ⟨[], x.col.alive, 0⟩, host := { y.host with aer := x.host.aer } }
  let n := x.get RESET_STAT.SIDE_RESETS
  let y := (y.set RESET_STAT.SIDE_RESETS (min (n + 1) 65535)).set RESET_STAT.CAUSE 2
  y.set INIT_STAT.PHASE 1

/-- R274, R447: commands of the other side's rings that act on a side, or whose completions are on their way from it, complete
with ABORTED. -/
def State.abortRemote (s : State) (sd : SideId) : State :=
  let o := sd.other
  let l := (s.side sd).host.staged.filter (fun c => c.issuer == o) ++ (s.keel.cmds.filter (fun c => c.1 == sd)).map (·.2)
  let d := s.keel.dones.filter (fun d => d.1 == o)
  let t := (s.side o).now
  let s := { s with keel := { s.keel with cmds := s.keel.cmds.filter (fun c => c.1 != sd), dones := s.keel.dones.filter (fun d => d.1 != o) } }
  let s := l.foldl (fun s c => s.mod o (fun x => x.deliver c.ring c.id c.e (entryOf c.op c.e c.ring true stAborted t 0 0))) s
  d.foldl (fun s p => s.mod o (fun x =>
    x.deliver p.2.1 p.2.2.1 p.2.2.2.1 { p.2.2.2.2 with status := stAborted, time := t, r0 := 0, r1 := 0 })) s

/-- SIDE_RESET_ASSERT (R447). -/
def execSideResetAssert (sd : SideId) (s : State) : Host.Outcome State Fault Refusal :=
  .next (if !(s.side sd).pwr.resetPend || s.held then s
    else ((s.abortRemote sd).dropIssued sd).mod sd Side.warm)

/-! ### Island reset (R449) -/

/-- R449: an island's registers and working memories return to their reset state; SRAM and DRAM contents stand. -/
def Side.islClear (x : Side) (l : Nat) : Side :=
  let u := bitsOf l 5 0
  let cl := bitsOf l 11 6
  let c := chanOf cl
  match bitsOf l 14 12 with
  | 0 =>
    if u < 8 then
      let x := (x.andNotBit (JESD_STAT.SH_LOCK c.n) u).andNotBit (JESD_STAT.EMB_LOCK c.n) u
      if (x.jesdOf c).step == 0 || u ≥ x.jesdL c then x else (x.linkDown c).setJesd c { (x.linkDown c).jesdOf c with step := 1 }
    else
      let x := (((x.densStop c).releaseSeats c 0).srcStop c 0).srcStop c 1
      let x := x.dropRegs (0x7000 + 0x100 * c.n) (0x70FF + 0x100 * c.n) |>.dropRegs (0x8100 + 0x100 * c.n) (0x81FF + 0x100 * c.n)
      (((x.setFe c FrontEnd.init).setXf c Xform.init).setJesd c Jesd.init).seatFlags
  | 2 =>
    if cl < 2 then
      let x := ((x.xsStop c).densStop c).srcStop c 2
      (x.setPp c Pp.init).dropRegs (0x8400 + 0x100 * c.n) (0x84FF + 0x100 * c.n)
    else if cl < 4 then (x.setDens c Dens.init).dropRegs (0x8600 + 0x100 * c.n) (0x86FF + 0x100 * c.n)
    else
      let x := { x with starter := { Starter.init with ep := x.starter.ep + 1 }, acq := [Acq.init, Acq.init] }
      (x.dropRegs 0x9000 0x9023)
  | 3 =>
    if cl == 0 then ({ x with sram := { x.sram with fixedNow := [], fixedOld := [], scrubS := 0, scrubD := 0 } }).dropRegs 0xB000 0xBFFF
    else ((x.set (DRAM_CORR.whole (cl - 1)) 0).set (DRAM_UNCORR.whole (cl - 1)) 0)
  | 4 =>
    match cl with
    | 0 => (((x.drop HOST_STAT.LINK_UP).set HOST_STAT.SPEED 0).set HOST_STAT.WIDTH 0).pcieReset
    | 1 => x.ringsReset
    | 2 => x.formatterReset
    | _ => if u == 0 then { x with so := { ScanOut.init with sink := x.so.sink } }.dropRegs 0xF000 0xF013 |>.dropRegs 0xF015 0xFFFF
      else { x with so := { x.so with sink := none } }.dropRegs 0xF014 0xF014
  | 5 =>
    match cl with
    | 0 => ((x.dropRegs 0x5000 0x5000).dropRegs 0x5003 0x5003).dropRegs 0x5040 0x507F |>.faultRefresh
    | 1 => { x with cores := List.replicate 4 Core.init, coxMem := BpcMem.init }.dropRegs 0xC000 0xCFFF
    | 2 => { x with split := { SplitT.init with measNum := x.split.measNum } }.dropRegs 0x4400 0x4FFF
    | 3 => { x with mon := Mon.init }.dropRegs 0xE000 0xEFFF
    | 4 => { x with tone := [Tone.init, Tone.init], strobe := { x.strobe with due := [], reqs := [] } }.dropRegs 0xD000 0xDFFF
    | 5 => x.dropRegs 0x3001 0x3001
    | 6 =>
      let rt := { RaceT.init with rta := x.rt.rta, edges := x.rt.edges }
      let x := { x with rt := rt }.dropRegs 0x4000 0x400F
      if x.isCox then x.raise RT_STAT.SYNCED else x
    | 7 => { x with bus := ⟨[], [], []⟩ }.dropRegs SNAP_STAT.whole.idx SNAP_STAT.whole.idx
    | _ => x
  | _ => x

/-- A write of ISL_RESET (R449). -/
def State.wIslReset (s : State) (sd : SideId) (v : Word) : State :=
  let n := v.toNat
  let src := bitsOf n 15 0
  let l := src % 2 ^ 15
  let s := s.mod sd (fun x =>
    let x := if bitAt n 34 then x.drop ISL_RESET.REFUSED else x
    if bitAt n 33 then x.drop ISL_RESET.DONE else x)
  let x := s.side sd
  if !bitAt n 35 then s.mod sd (fun x => x.set ISL_RESET.SRC src)
  else if src != x.src l || !x.islCond l .quiesced then s.mod sd (fun x => x.raise ISL_RESET.REFUSED)
  else
    let s := if l == srcOf 4 1 0 then s.dropIssued sd else s
    let s := s.mod sd (fun x =>
      let x := (x.islClear l).setIsl l ((x.islOf l).map (fun i => { i with reset := true }))
      (x.set ISL_RESET.SRC src).raise ISL_RESET.DONE)
    if l == keelSrc then s.keelFall else s

/-! ### DRAM channel map-out (R454, R455) -/

/-- R454: why a map-out is refused; 0 if it is not. -/
def Side.mapoutCause (x : Side) (mask : Nat) : Nat :=
  let sh := fun (f : Fld) => x.on f
  if x.armed .c0 || x.armed .c1 || (x.runningCmd 0x13 (fun _ => true)).isSome then 1
  else if x.strm.any (fun t => t.bound && t.spillLen != 0) then 2
  else if [Chan.c0, Chan.c1].any (fun c => ppSpgEn (x.ppOf c).block) then 3
  else if sh SO_WF.W_EN || x.soForce SO_WF.W_EN != 0 || (sh SO_OV.O_EN && !sh SO_OV.O_HOST)
      || (x.soForce SO_OV.O_EN != 0 && x.soForce SO_OV.O_HOST == 0)
      || x.tone.any (fun t => t.force.any (fun e => e.mode == 3) || t.staged.any (fun e => e.mode == 3)) then 4
  else if x.on DRAM_LP_CTRL.SR_REQ || x.dram.fcBusy then 5
  else if (List.range 4).any (fun c => bitAt mask c && !x.dram.chans.contains c) || x.dram.chans.all (bitAt mask) then 6
  else if x.on DRAM_MAPOUT.BUSY then 7
  else 0

/-- R455 steps 1 to 3: an accepted map-out begins. -/
def Side.mapoutStart (x : Side) (mask : Nat) : Side :=
  let x := (x.raise DRAM_MAPOUT.BUSY).flushAll .dram
  let x := (List.range 4).foldl (fun x c =>
    if !bitAt mask c then x
    else
      let x := (((x.raise (DRAM_STAT.MAPPED_OUT c)).drop (DRAM_STAT.TRAINED c)).set (DRAM_STAT.OUT_CAUSE c) 5).raise (DRAM_STAT.SR c)
      (x.orBit DRAM_MAPOUT.KEEP_OUT c).orBit INIT_STAT.DRAM_OUT c) x
  let d := x.dram
  let x := { x with dram := { d with chans := d.chans.filter (fun c => !bitAt mask c), extent := 0, mapout := some mask } }
  x.set DRAM_CFG.NSUB x.dram.nsub

/-- A write of DRAM_MAPOUT (R454): a refused one changes nothing but REFUSED and CAUSE. -/
def Side.wMapout (x : Side) (v : Word) : Side :=
  let n := v.toNat
  let mask := bitsOf n 31 28
  let bad := if bitAt n 35 then x.mapoutCause mask else 0
  if bad != 0 then (x.raise DRAM_MAPOUT.REFUSED).set DRAM_MAPOUT.CAUSE bad
  else
    let x := if bitAt n 33 then x.drop DRAM_MAPOUT.DONE else x
    let x := if bitAt n 32 then x.drop DRAM_MAPOUT.REFUSED else x
    let x := (x.set DRAM_MAPOUT.MASK mask).set DRAM_MAPOUT.KEEP_OUT (bitsOf n 27 24)
    if bitAt n 35 then x.mapoutStart mask else x

/-- MAPOUT_DONE (R455 steps 4 and 5). -/
def execMapoutDone (sd : SideId) (s : State) : Host.Outcome State Fault Refusal :=
  .next (s.mod sd (fun x =>
    if !x.on DRAM_MAPOUT.BUSY then x
    else
      let x := { x with
        dram := { x.dram with mem := BpcMem.init, extent := x.dram.words, mapout := none }
        sram := { x.sram with scrubD := 0 } }
      (x.setAcqLimit.drop DRAM_MAPOUT.BUSY).raise DRAM_MAPOUT.DONE))

end Sys2Proof.Machine
end

