-- ==== Sys2Proof/Machine/Spaces.lean ====
section
/-! DEFINITION. The device address spaces other than the set-up registers (R39, R41): SRAM, DRAM, tables (R75, R89, R123, R139,
R371, R427), Cox memories (R329) and record metadata (R232). -/

namespace Sys2Proof.Machine

/-- R39: side, space and word offset of a device address. -/
def devSide (a : Nat) : SideId := SideId.ofBit (bitAt a 43)
def devSpace (a : Nat) : Nat := bitsOf a 42 39
def devOff (a : Nat) : Nat := a % 2 ^ 39

/-- R39: the device address of an offset in a space of a side. -/
def devOf (sd : SideId) (space off : Nat) : Nat := sd.n * 2 ^ 43 + space * 2 ^ 39 + off

/-- The memory behind a space, and its extent in words. -/
def Side.spaceMem (x : Side) (space : Nat) : Option (MemSel × Nat) :=
  match space with
  | 0 => some (.sram, 2 ^ 24)
  | 1 => some (.dram, x.dram.extent)
  | 4 => some (.cox, 0x20000)
  | _ => none

/-- R311: a read of words of a space meets a DRAM channel in self-refresh, and waits. -/
def Side.spaceWaits (x : Side) (space off n : Nat) : Bool :=
  match x.spaceMem space with
  | some (k, _) => x.readWaits k off n
  | none => false

/-! ### Tables (space 3) -/

/-- R75: a front-end ROM word at an offset from 0x10_1000. DESIGN CHOICE (assumption log 124): the single coefficient 2^19 of response 6 does
not fit the 20-bit two's-complement word of R75; the ROM word holds it as the positive number 0x8_0000. -/
def feRom (o : Nat) : Option Word :=
  if o < 143 then some (wordOf (hbC ((o : Int) - 71)))
  else if o < 0x100 then none
  else
    let r := (o - 0x100) / 0x100
    let n := o % 0x100
    if r > 6 then none
    else if r == 4 then (if n < 48 then some (wordOf (finC 4 n)) else none)
    else if n < 2 * finG r + 1 then some (wordOf (finC r ((n : Int) - finG r))) else none

/-- A constant of a 77-entry table laid out by window code and p − 6. -/
def wcEntry (tab : List (List Int)) (o : Nat) : Option Word :=
  if o / 16 < 7 && o % 16 < 11 then some (wordOf (lget (lget tab (o / 16) []) (o % 16) 0)) else none

/-- R123: an arithmetic ROM word at an offset from 0x30_0000; offsets not listed read as zero. -/
def arithRom (o : Nat) : Word :=
  if o < 0x100 then (wcEntry gainTab o).getD 0
  else if o < 0x500 then wordOf (log2Tab (o - 0x100))
  else if o < 0x900 then wordOf (exp2Tab (o - 0x500))
  else if 0x1000 ≤ o && o ≤ 0x5000 then wordOf (twC (o - 0x1000) 65536)
  else 0

/-- A word of space 3; none beyond every table. -/
def Side.tableWord (x : Side) (o : Nat) : Option Word :=
  if o < 0x100000 then none
  else if o < 0x101000 then
    (if o < 0x100200 && o % 0x100 < 128 then some (wget (x.feOf (chanOf (o / 0x100))).eqTab (o % 0x100)) else none)
  else if o < 0x200000 then feRom (o - 0x101000)
  else if o < 0x220000 then some (wget (x.feOf (chanOf (o / 0x10000))).ramWin (o % 0x10000))
  else if o < 0x300000 then none
  else if o < 0x400000 then some (arithRom (o - 0x300000))
  else if o < 0x480000 then
    let pp := x.ppOf (chanOf (o / 0x40000))
    let k := o / 0x10000 % 4
    some (pp.maskWord (pp.bankNow k) k (o % 0x10000))
  else if o < 0x500000 then wcEntry bandTab (o - 0x480000)
  else if o < 0x600000 then (if o < 0x501000 then some (wordOf (toneQ (o - 0x500000))) else none)
  else if o < 0x601000 then some (wget x.so.palS (o - 0x600000))
  else none

/-! ### Record metadata (space 5, R232) -/

/-- The RECORD block of a channel's record, armed or last; before any, the block stored. -/
def Acq.recBlock (a : Acq) : List Word :=
  match a.armed, a.last with
  | some r, _ => r.block
  | none, some d => d.block
  | none, none => a.block

/-- A word of space 5 as the side holds it, and whether it came from a poisoned block; none beyond the space. A word of the segment
table is read from DRAM. -/
def Side.metaWord (x : Side) (o : Nat) : Side × Option Word × Bool :=
  if o < 0x200 then (x, if o % 0x100 < 32 then some (lget (x.acqOf (chanOf (o / 0x100))).hdr (o % 0x100) 0) else none, false)
  else if 0x100000 ≤ o && o < 0x300000 then
    let b := (x.acqOf (chanOf (o / 0x100000 - 1))).recBlock
    let a := (lget b 8 0).toNat + o % 0x100000
    if a < x.dram.extent then
      let r := x.readWord .dram a
      (r.1, some r.2.1, r.2.2)
    else (x, none, false)
  else (x, none, false)

/-- R232: the high word of the two-word value whose low word lies at an offset of space 5. -/
def metaHigh (o : Nat) : Option Nat :=
  if o < 0x200 then
    match o % 0x100 with
    | 3 => some (o - 1)
    | 16 => some (o - 1)
    | 21 => some (o + 1)
    | 23 => some (o + 1)
    | _ => none
  else none

/-- The low word of the two-word value whose high word lies at an offset of space 5. -/
def metaLow (o : Nat) : Option Nat :=
  if o < 0x200 then
    match o % 0x100 with
    | 2 => some (o + 1)
    | 15 => some (o + 1)
    | 22 => some (o - 1)
    | 24 => some (o - 1)
    | _ => none
  else none

/-! ### Memories -/

/-- R136, R146: a word of the general store holds a product's working state, which only the part itself reads. -/
def Side.working (x : Side) (w : Nat) : Bool :=
  [Chan.c0, Chan.c1].any (fun c =>
    let pp := x.ppOf c
    x.on (PP_STAT.RUNNING c.n) &&
      (((List.range 6).any (fun t =>
          let g := lget pp.slots t Slot.init
          let b := 2 ^ 23 + 16 * tcBase g.cfg
          g.on && decide (b ≤ w ∧ w < b + 2 * tcNp g.cfg)))
        || (ppXsEn pp.block &&
          (let b := 2 ^ 23 + 16 * ppXsBase pp.block
           decide (b ≤ w ∧ w < b + 8 * ppNx pp.block)))))

/-- Words read from a memory space: the words, those of poisoned blocks and those beyond the extent as zero; poisoned blocks met; and
the first offset beyond the extent. A working word is a free value. -/
def State.memRead (s : State) (sd : SideId) (space off n : Nat) : State × List Word × Nat × Option Nat :=
  match (s.side sd).spaceMem space with
  | none => (s, List.replicate n 0, 0, if n == 0 then none else some off)
  | some (k, ext) =>
    let n' := min n (ext - off)
    let r := (s.side sd).readRange k off n'
    let s := s.setSide sd r.1
    let fill := r.2.1.zipIdx.foldl (fun (acc : State × List Word) p =>
      if space == 0 && (s.side sd).working (off + p.2) && (aget (s.side sd).sram.mem.poison ((off + p.2) / 8)).isNone then
        let f := acc.1.takeFree
        (f.2, acc.2 ++ [f.1])
      else (acc.1, acc.2 ++ [p.1])) (s, [])
    (fill.1, fill.2 ++ List.replicate (n - n') 0, r.2.2, if n' < n then some (off + n') else none)

/-- R351, R353: a program bank that may not be written now: its core runs in it, or a pending switch will enter it. -/
def Side.progBusy (x : Side) (c bank : Nat) : Bool :=
  let k := x.coreOf c
  (k.st != 0 && k.bank == bank) || (k.sw.isSome && k.bank != bank)

/-- R329, R351: a word of space 4 that a write may not change. -/
def Side.coxLocked (x : Side) (o : Nat) : Bool :=
  let part := o / 0x2000 % 4
  part < 2 && x.progBusy (o / 0x8000) part

/-- The words of a write that may be written, in runs: offset and words. -/
def okRuns (ok : Nat → Bool) (off : Nat) (ws : List Word) : List (Nat × List Word) :=
  let r := ws.zipIdx.foldl (fun (acc : List (Nat × Nat × List Word)) p =>
    let o := off + p.2
    if !ok o then acc
    else match acc with
      | (a, n, l) :: rest => if a + n == o then (a, n + 1, p.1 :: l) :: rest else (o, 1, [p.1]) :: acc
      | [] => [(o, 1, [p.1])]) []
  r.reverse.map (fun g => (g.1, g.2.2.reverse))

/-- Words written to a memory space through a port: the first offset beyond the extent, or in a bank that may not be written; such
words are dropped (R41, R330). -/
def Side.memWrite (x : Side) (space port off : Nat) (ws : List Word) : Side × Option Nat :=
  match x.spaceMem space with
  | none => (x, if ws.isEmpty then none else some off)
  | some (k, ext) =>
    let ok := fun o => decide (o < ext) && !(space == 4 && x.coxLocked o)
    ((okRuns ok off ws).foldl (fun x g => x.writeRange k port g.1 g.2) x,
      ((List.range ws.length).map (off + ·)).find? (fun o => !ok o))

end Sys2Proof.Machine
end

