-- ==== Sys2Proof/Machine/Bus.lean ====
section
/-! DEFINITION. The set-up register bus (R36 to R45, R246, R247, R249, R257, R258, R475, R476): masters and paths, reads by
snapshot and freshness, staged and whole commits, and what a write of each register does. -/

namespace Sys2Proof.Machine

/-! ### Masters and paths (R36, R257, R258) -/

/-- The set-up register bus and PCIe core islands (R13). -/
def busSrc : Nat := srcOf 5 7 0
def pcieSrc : Nat := srcOf 4 0 0

/-- R36: the side a master that accesses side `sd` belongs to; master 10 acts for the side's other side. -/
def masterSide (sd : SideId) (m : Nat) : SideId :=
  if m == 10 then sd.other else if m == 0 || (2 ≤ m && m ≤ 5) then .stroke else .bow

/-- What becomes of an access on its way: it is not made, it reaches the side, or the Keel that it needs is down. -/
inductive Path where
  | none | reaches | keelDown
  deriving DecidableEq, Repr

/-- R16: the endpoint of a PCIe master carries accesses: its link is up and its core runs (R248). -/
def State.endpointUp (s : State) (h : SideId) : Bool := (s.side h).on HOST_STAT.LINK_UP && (s.side h).islTakes pcieSrc

/-- The way of an access of a master to side `sd`. -/
def State.path (s : State) (sd : SideId) (m : Nat) : Path :=
  let h := masterSide sd m
  if s.held || (m < 2 && !s.endpointUp h) then .none
  else if h != sd && !s.keel.up then .keelDown
  else if h != sd && !((s.side h).islTakes keelSrc && (s.side sd).islTakes keelSrc) then .none
  else .reaches

/-- R258: an access that the Keel cannot carry is logged on the requester's side. -/
def State.keelLost (s : State) (sd : SideId) (m : Nat) (write : Bool) (addr : Nat) : State :=
  s.mod (masterSide sd m) (fun x => x.accErr accKeel m write addr)

/-! ### Reads (R42, R44, R45) -/

/-- R475, R249: a register is served before READY: identity, host, Keel and cox, race time, fault collector. -/
def servedEarly (idx : Nat) : Bool :=
  [0, 1, 3, 5].contains (idx / 0x1000) || (0x4000 ≤ idx && idx < 0x4400)

/-- A register is served now; indexes beyond every block are reserved (R476). -/
def Side.serves (x : Side) (idx : Nat) : Bool := x.on INIT_STAT.READY || servedEarly idx || idx ≥ 0x12000

/-- COXCORE_STAT of a core (R355). -/
def Core.statWord (k : Core) : Word :=
  wordN (k.st * 2 ^ 34 + b2n k.sw.isSome * 2 ^ 33 + k.bank * 2 ^ 32 + b2n k.ctx * 2 ^ 31 + k.cause * 2 ^ 27 + b2n k.main.sat * 2 ^ 26 + b2n k.main.gov * 2 ^ 25
    + b2n k.main.psn * 2 ^ 24 + k.pc % 2 ^ 13)

/-- The value a register presents to a master: those the state holds elsewhere are formed from it. -/
def Side.live (x : Side) (m idx : Nat) : Word :=
  if idx == RT_NOW_LO.whole.idx then wordN x.now
  else if idx == RT_NOW_HI.whole.idx then wordN (x.now / 2 ^ 36)
  else if idx == RT_LOAD_LO.whole.idx || idx == RT_LOAD_HI.whole.idx then 0
  else if idx == RT_FREQ_ADJ.whole.idx then wordOf x.rt.f
  else if (COXCORE_STAT.whole 0).idx ≤ idx && idx < (COXCORE_STAT.whole 4).idx then (x.coreOf (idx % 4)).statWord
  else match findReg idx with
    | none => 0
    | some r =>
      let w := x.reg idx
      match r.kind with
      | .rcLo => if bitAt w.toNat 35 && !x.bus.seen.contains (idx, m) then w ||| wordN (2 ^ 34) else w
      | _ => w

/-- R42: a low word is read: its high word goes into the master's snapshot slot. -/
def Side.capture (x : Side) (m key : Nat) (hi : Word) : Side := { x with bus := { x.bus with snap := aput x.bus.snap m (key, hi) } }

/-- R42: a high word read by a master: the captured word of the same pair, else the live word, with MISS. -/
def Side.readHigh (x : Side) (m key : Nat) (live : Word) : Side × Word :=
  match aget x.bus.snap m with
  | some (k, w) => if k == key then (x, w) else (x.orBit SNAP_STAT.MISS m, live)
  | none => (x.orBit SNAP_STAT.MISS m, live)

/-- R247: the register is the low word of a pair whose high word follows it. -/
def hasHigh (idx : Nat) : Bool := match findReg (idx + 1) with
  | some r => r.kind == .rsHi || r.kind == .wHi
  | none => false

/-- R247: the registers from an index on are the two words of one two-word value; R261, R327: the log pairs are never written as one. -/
def writesPair (idx : Nat) : Bool := idx % 2 == 0 && hasHigh idx && idx != ACC_ERR_LO.whole.idx && idx != POISON_ADDR_LO.whole.idx

/-- The device address of a register (R475). -/
def Side.regAddr (x : Side) (idx : Nat) : Nat := devOf x.who 2 idx

/-- A read of a register by a master. -/
def Side.busRead (x : Side) (m idx : Nat) : Side × Word :=
  if !x.serves idx then (x.accErr accEarly m false (x.regAddr idx), 0)
  else match findReg idx with
    | none => (x, 0)
    | some r =>
      let w := x.live m idx
      match r.kind with
      | .rsLo => (x.capture m idx (x.live m (idx + 1)), w)
      | .rcLo =>
        let x := { x with bus := { x.bus with seen := dedup (x.bus.seen ++ [(idx, m)]) } }
        (if hasHigh idx then x.capture m idx (x.live m (idx + 1)) else x, w)
      | .rsHi => x.readHigh m (idx - 1) w
      | _ => (x, w)

/-- R41: a bad access of a space is logged on the side that holds the address. DESIGN CHOICE (assumption log 136): of an access that
crosses the tunnel, R41's side that received it is taken as that one. -/
def Side.badAddr (x : Side) (m : Nat) (write : Bool) (addr : Nat) : Side := x.accErr accBadAddr m write addr

/-- The key of a space 5 pair in a snapshot slot. -/
def metaKey (lo : Nat) : Nat := 2 ^ 39 + lo

/-- A read of one word of space 5 (R232, R42). -/
def Side.metaRead (x : Side) (m off : Nat) : Side × Word × Bool :=
  match x.metaWord off with
  | (x, none, _) => (x.badAddr m false (devOf x.who 5 off), 0, false)
  | (x, some w, p) =>
    match metaHigh off, metaLow off with
    | some h, _ => (x.capture m (metaKey off) (lget (x.acqOf (chanOf (off / 0x100))).hdr (h % 0x100) 0), w, p)
    | none, some l =>
      let r := x.readHigh m (metaKey l) w
      (r.1, r.2, p)
    | none, none => (x, w, p)

/-- A read of one word of the device address space by a master, on the side that holds it: the word, and whether a poisoned block was
met. -/
def State.readOne (s : State) (sd : SideId) (m space off : Nat) : State × Word × Bool :=
  let x := s.side sd
  match space with
  | 2 =>
    if off < 2 ^ 20 then
      let r := x.busRead m off
      (s.setSide sd r.1, r.2, false)
    else (s.setSide sd (x.badAddr m false (devOf sd 2 off)), 0, false)
  | 3 =>
    match x.tableWord off with
    | some w => (s, w, false)
    | none => (s.setSide sd (x.badAddr m false (devOf sd 3 off)), 0, false)
  | 5 =>
    let r := x.metaRead m off
    (s.setSide sd r.1, r.2.1, r.2.2)
  | _ =>
    let r := s.memRead sd space off 1
    let s := match r.2.2.2 with
      | some o => r.1.mod sd (fun x => x.badAddr m false (devOf sd space o))
      | none => r.1
    (s, lget r.2.1 0 0, r.2.2.1 != 0)

/-- R249: an access of the host to another space than the registers comes before READY. -/
def Side.early (x : Side) (m space : Nat) : Bool := m < 2 && space != 2 && !x.on INIT_STAT.READY

/-- R256: what a host's read of a word adds: a poisoned block is logged. -/
def State.readLogged (s : State) (sd : SideId) (m space off : Nat) : State × Word × Bool :=
  if (s.side sd).early m space then (s.mod sd (fun x => x.accErr accEarly m false (devOf sd space off)), 0, false)
  else
    let r := s.readOne sd m space off
    (if r.2.2 && m < 2 then r.1.mod sd (fun x => x.accErr accPoison m false (devOf sd space off)) else r.1, r.2)

/-- R256: the endpoint of a host's read of poison marks the completion. -/
def State.readEp (s : State) (h : SideId) (m : Nat) (poison : Bool) : Bool := poison && m < 2 && (s.side h).on HOST_CFG.POISON_EP

/-- What a read returns goes to the requester: at once on its own side, through the Keel otherwise (R257). -/
def State.returnRead (s : State) (sd : SideId) (m addr : Nat) (ws : List Word) (ep : Bool) : State :=
  if masterSide sd m == sd then { s with rd := ws, ep := ep }
  else { s with rd := [], ep := false, keel := { s.keel with reads := s.keel.reads ++ [(masterSide sd m, m, addr, ws, ep)] } }

/-- A read of one word by a master, from its start: nothing is read where the access is not made; one that waits for a DRAM channel in
self-refresh (R311) has not been made. -/
def State.busReadCmd (s : State) (sd : SideId) (m space off : Nat) : State :=
  match s.path sd m with
  | .none => s.setRd []
  | .keelDown => (s.keelLost sd m false (devOf sd space off)).setRd [0]
  | .reaches =>
    if (s.side sd).spaceWaits space off 1 || (space == 5 && off ≥ 0x200 && (s.side sd).anyAsleep) then s
    else if !(s.side sd).islTakes busSrc && space == 2 then s.setRd []
    else
      let r := s.readLogged sd m space off
      r.1.returnRead sd m (devOf sd space off) [r.2.1] (s.readEp (masterSide sd m) m r.2.2)

/-- HIGH_WORD_READ (R42). -/
def execHighWordRead (sd : SideId) (m : Fin 11) (space : BitVec 4) (off : BitVec 39) (s : State) : Host.Outcome State Fault Refusal :=
  .next (s.busReadCmd sd m.val space.toNat off.toNat)

/-- RESULT_READ (R45). -/
def execResultRead (sd : SideId) (m : Fin 11) (idx : BitVec 20) (s : State) : Host.Outcome State Fault Refusal :=
  .next (s.busReadCmd sd m.val 2 idx.toNat)

/-! ### Host and ring registers (R255, R259, R261, R265, R289) -/

/-- R254: the words a merge unit's bytes belong to, with whether every byte of each has arrived. -/
def wordsTouched (dense : Bool) (u : Nat) (bytes : List (Nat × Byte)) : List (Nat × Bool) :=
  let have_ := fun b => bytes.any (fun p => p.1 == b)
  if dense then
    (List.range 8).filterMap (fun k =>
      let lo := 36 * k / 8
      let hi := (36 * k + 35) / 8
      let bs := (List.range (hi + 1 - lo)).map (· + lo)
      if bs.any have_ then some (8 * u + k, bs.all have_) else none)
  else
    let bs := List.range 5
    if bs.any have_ then [(u, bs.all have_)] else []

/-- A window's configuration: EN, DENSE and the device address of its base (R253). -/
def Side.winCfg (x : Side) (n : Nat) : Bool × Bool × Nat :=
  (x.on (WIN_CFG.EN n), x.on (WIN_CFG.DENSE n), x.get (WIN_CFG.BASE n) * 2 ^ 16)

/-- R254, R36 (master 0 or 1 is the side's PCIe function): a window's merge unit is emptied: incomplete words are discarded, counted and logged. -/
def Side.emptyMerge (x : Side) (n : Nat) : Side :=
  let u := lget x.host.win n ⟨none, []⟩
  let x := { x with host := { x.host with win := lset x.host.win n ⟨none, []⟩ } }
  match u.unit with
  | none => x
  | some i =>
    let cfg := x.winCfg n
    ((wordsTouched cfg.2.1 i u.bytes).filter (fun p => !p.2)).foldl (fun x p =>
      (x.inc WIN_PARTIAL.whole).accErr accPartial x.who.n true (cfg.2.2 + p.1)) x

/-- A write of WIN_CFGn (R255). -/
def Side.wWinCfg (x : Side) (n : Nat) (w : Word) : Side := (x.emptyMerge n).setReg (WIN_CFG.whole n).idx w

/-- R259: a bow command ring, stream ring or copy is active. -/
def Side.ringsActive (x : Side) : Bool :=
  (List.range 8).any (fun i => x.on (CMDQ_CFG.EN i)) || (List.range 16).any (fun i => x.on (STRQ_CFG.EN i))
    || x.host.staged.any (fun c => [0x13, 0x22, 0x23].contains c.op && c.running)

/-- A write of HOST_CFG (R259, R261). -/
def State.wHostCfg (s : State) (sd : SideId) (w : Word) : State :=
  let x := s.side sd
  let route := bitAt w.toNat 35 && sd == .stroke
  if route != x.on HOST_CFG.ROUTE_BOW && s.bow.ringsActive then s.mod sd (fun x => x.raise HOST_STAT.ROUTE_REFUSED)
  else s.mod sd (fun x => (x.put HOST_CFG.ROUTE_BOW route).put HOST_CFG.POISON_EP (bitAt w.toNat 34))

/-- A write of NUDGE (R265): a read of the doorbell page is asked for while polling is enabled. -/
def Side.wNudge (x : Side) : Side :=
  if x.on DB_CFG.EN then { x with host := { x.host with nudged := true } } else x

/-- A write of DB_CFG. -/
def Side.wDbCfg (x : Side) (w : Word) : Side :=
  let x := x.setReg DB_CFG.whole.idx w
  if x.on DB_CFG.EN then x else { x with host := { x.host with nudged := false } }

/-- The configuration register of the ring whose base pair begins at an index (R289). -/
def baseCfg (lo : Nat) : Option Nat :=
  if lo == DB_PAGE_LO.whole.idx then some DB_CFG.whole.idx
  else if lo == EVQ_BASE_LO.whole.idx then some EVQ_CFG.whole.idx
  else if (CMDQ_BASE_LO.whole 0).idx ≤ lo && lo < (CMDQ_BASE_LO.whole 8).idx then some (CMDQ_CFG.whole ((lo - (CMDQ_BASE_LO.whole 0).idx) / 2)).idx
  else if (CQ_BASE_LO.whole 0).idx ≤ lo && lo < (CQ_BASE_LO.whole 8).idx then some (CQ_CFG.whole ((lo - (CQ_BASE_LO.whole 0).idx) / 2)).idx
  else if (STRQ_BASE_LO.whole 0).idx ≤ lo && lo < (STRQ_BASE_LO.whole 16).idx
    then some (STRQ_CFG.whole ((lo - (STRQ_BASE_LO.whole 0).idx) / 2)).idx
  else none

/-- A commit of a ring's base: ignored while the ring is enabled. -/
def Side.wBase (x : Side) (lo cfg v : Nat) : Side :=
  if v == x.pair lo then x
  else if bitAt (x.reg cfg).toNat 35 then x.raise RING_ERR.CFG_REFUSED
  else x.setPair lo v

/-- A ring configuration register: command ring i, or out-ring n (R289). -/
inductive RingReg where
  | cmd (i : Nat)
  | out (n : Nat)
  deriving DecidableEq, Repr

/-- The ring a configuration register belongs to. -/
def ringReg (idx : Nat) : Option RingReg :=
  if (CMDQ_CFG.whole 0).idx ≤ idx && idx < (CMDQ_CFG.whole 8).idx then some (.cmd (idx - (CMDQ_CFG.whole 0).idx))
  else if (CQ_CFG.whole 0).idx ≤ idx && idx < (CQ_CFG.whole 8).idx then some (.out (idx - (CQ_CFG.whole 0).idx))
  else if idx == EVQ_CFG.whole.idx then some (.out 8)
  else if (STRQ_CFG.whole 0).idx ≤ idx && idx < (STRQ_CFG.whole 16).idx then some (.out (9 + (idx - (STRQ_CFG.whole 0).idx)))
  else none

/-- R289: EN 1 → 0 of a ring is refused. -/
def Side.ringHeld (x : Side) : RingReg → Bool
  | .cmd _ => false
  | .out n =>
    if n < 8 then (List.range 8).any (fun i => x.on (CMDQ_CFG.EN i) && x.get (CMDQ_CFG.CQ i) == n) || x.host.compl.any (fun c => c.cq == n)
    else if n == 8 then false
    else (lget x.strm (n - 9) Strm.init).bound

/-- R289: EN 0 → 1: the ring's indexes are 0 and its error bit is clear. -/
def Side.ringStart (x : Side) : RingReg → Side
  | .cmd i => ({ x with host := { x.host with cmd := lset x.host.cmd i ⟨0, 0, none⟩ } } : Side).andNotBit RING_ERR.CMD_ERR i
  | .out n => (x.setOutRing n OutRing.init).andNotBit (outErr n).1 (outErr n).2

/-- The event ring is disabled: events that wait are dropped and counted (R279). -/
def Side.evqStop (x : Side) : Side :=
  let n := x.host.events.length
  ({ x with host := { x.host with events := [], dropped := x.host.dropped + n, overflow := none } } : Side).bump EVT_DROP.whole n

/-- A write of a ring's configuration (R289). -/
def Side.wRingCfg (x : Side) (r : RingReg) (idx : Nat) (w : Word) : Side :=
  let o := (x.reg idx).toNat
  let n := w.toNat
  let en0 := bitAt o 35
  let en1 := bitAt n 35
  let lg := bitsOf n 34 31
  if (en0 && bitsOf o 34 31 != lg) || (!en0 && en1 && (lg < 6 || lg > 16)) || (en0 && !en1 && x.ringHeld r) then x.raise RING_ERR.CFG_REFUSED
  else
    let x := x.setReg idx w
    if !en0 && en1 then x.ringStart r
    else if en0 && !en1 && r == .out 8 then x.evqStop
    else x

/-- A write of ACC_ERR_HI (R261): bit 35 set clears the log. -/
def Side.wAccErrHi (x : Side) (v : Word) : Side :=
  if bitAt v.toNat 35 then (x.setReg ACC_ERR_LO.whole.idx 0).setReg ACC_ERR_HI.whole.idx 0 else x

/-- A write of FAULT_STAT (R421): W1C bits, and OUT_OVF cleared by writing 0. -/
def Side.wFaultStat (x : Side) (v : Word) (w : Word) : Side :=
  let ovf := x.on FAULT_STAT.OUT_OVF && bitAt v.toNat FAULT_STAT.OUT_OVF.lo
  ((x.setReg FAULT_STAT.whole.idx w).put FAULT_STAT.OUT_OVF ovf).faultRefresh

/-- A write of COXCORE_MBOX_INc (R355): interrupt source 0 of the core is raised. -/
def Side.wMboxIn (x : Side) (c : Nat) (v : Word) : Side :=
  (x.setReg (COXCORE_MBOX_IN.whole c).idx v).modCore c (fun k => { k with ipend := if bitAt k.ipend 0 then k.ipend else k.ipend + 1 })

/-! ### Writes (R43, R246, R247) -/

/-- R5: an ordinary register after a write: software's bits, the rest kept, and the bits that writing 1 clears. -/
def mergeWrite (r : RegRow) (old v : Word) : Word :=
  let w := (old &&& ~~~(wordN r.rw)) ||| (v &&& wordN r.rw)
  w &&& ~~~(v &&& wordN r.w1c)

/-- A register of a run of n, and which. -/
def inRun (f : Nat → Fld) (n idx : Nat) : Option Nat :=
  if (f 0).idx ≤ idx && idx < (f 0).idx + n then some (idx - (f 0).idx) else none

/-- A write of a register that is not a word of a pair, with the effect its own rule gives it. Which subchannels have a transaction in
progress when MON_IN_CFG changes the refresh mode (R307) the write does not say: a free value does (assumption log 134). -/
def State.plainWrite (s : State) (sd : SideId) (idx : Nat) (r : RegRow) (v : Word) : State :=
  let x := s.side sd
  let w := mergeWrite r (x.reg idx) v
  let upd := fun (f : Side → Side) => s.mod sd f
  let bits := fun hi lo => v &&& wordN (bitMask hi lo)
  if idx == SIDE_RESET.whole.idx then upd (·.wSideReset v)
  else if idx == ISL_RESET.whole.idx then s.wIslReset sd v
  else if idx == HOST_CFG.whole.idx then s.wHostCfg sd w
  else if idx == DB_CFG.whole.idx then upd (·.wDbCfg w)
  else if idx == NUDGE.whole.idx then upd (·.wNudge)
  else if idx == RT_SET_SEC.whole.idx then upd (·.wSetSec v)
  else if idx == RT_CTRL.whole.idx then upd (·.wRtCtrl w)
  else if idx == EVT_IN_CFG.whole.idx then upd (·.wEvtIn (w ||| bits 27 24))
  else if idx == SPLIT_MEAS_CFG.whole.idx then upd (·.wMeasCfg w)
  else if idx == SPLIT_RING_CFG.whole.idx then upd (·.wSplitRingCfg w)
  else if idx == FAULT_STAT.whole.idx then upd (·.wFaultStat v w)
  else if idx == FAULT_ACK.whole.idx then upd (·.wFaultAck v)
  else if idx == FAULT_INJ.whole.idx then upd (·.wFaultInj v)
  else if idx == PLL_COMMIT.whole.idx then s.wPllCommit sd v.toNat
  else if idx == DRAM_LP_CTRL.whole.idx then upd (·.wDramLp v)
  else if idx == DRAM_MAPOUT.whole.idx then upd (·.wMapout v)
  else if idx == SRAM_REPAIR_REQ.whole.idx then upd (·.wRepairReq v)
  else if idx == TONE_CFG.whole.idx then upd (·.wToneCfg v)
  else if idx == MON_CFG.whole.idx then upd (·.wMonCfg v)
  else if idx == SO_CTRL.whole.idx then upd (·.wSoCtrl v)
  else if idx == CAL_STAT.whole.idx then upd (·.setReg idx w)
  else if 0x10000 ≤ idx then upd (·.wCalStore idx w)
  else match ringReg idx with
  | some g => upd (·.wRingCfg g idx w)
  | none =>
    match inRun WIN_CFG.whole 4 idx with
    | some n => upd (·.wWinCfg n w)
    | none =>
      match inRun SPLIT_IN_CFG.whole 4 idx with
      | some i => upd (·.wSplitIn i (w ||| bits 18 18))
      | none =>
        match inRun DRAM_PANIC.whole 5 idx with
        | some n => upd (·.wDramPanic n v)
        | none =>
          match inRun COXCORE_MBOX_IN.whole 4 idx with
          | some c => upd (·.wMboxIn c v)
          | none =>
            match inRun MON_IN_CFG.whole 16 idx with
            | some i =>
              let f := s.takeFree
              f.2.mod sd (·.wMonIn i w (f.1.toNat % 2 ^ 8))
            | none =>
              if idx == (JESD_CFG.whole 0).idx then upd (·.wJesdCfg .c0 v)
              else if idx == (JESD_CFG.whole 1).idx then upd (·.wJesdCfg .c1 v)
              else if idx == (JESD_LANE_MAP.whole 0).idx then upd (·.wLaneMap .c0 v)
              else if idx == (JESD_LANE_MAP.whole 1).idx then upd (·.wLaneMap .c1 v)
              else upd (·.setReg idx w)

/-- A two-word value is committed (R43): the words that software may write; a read-only pair keeps its value. -/
def State.commitPair (s : State) (sd : SideId) (lo : Nat) (hw lw : Word) : State :=
  let rw := fun i => match findReg i with
    | some r => wordN r.rw
    | none => 0
  let h := hw &&& rw (lo + 1)
  let l := lw &&& rw lo
  let v := pairN h l
  let upd := fun (f : Side → Side) => s.mod sd f
  if lo == RT_LOAD_LO.whole.idx then upd (fun x => (x.setPair lo (pairN hw lw)).wRtLoad (pairN hw lw))
  else if lo == RT_INC_LO.whole.idx then upd (fun x => (x.setPair lo v).wRtInc v)
  else if lo == SPLIT_BASE_LO.whole.idx then upd (·.wSplitBase v)
  else if lo == MON_BASE_LO.whole.idx then upd (·.wMonBase v)
  else if (MON_CORR_LO.whole 0).idx ≤ lo && lo < (MON_CORR_LO.whole 16).idx then upd (·.wMonCorr lo l h)
  else if lo == SO_OV_BASE_LO.whole.idx then upd (·.setPair lo v)
  else match baseCfg lo with
    | some c => upd (·.wBase lo c v)
    | none => s

/-- R43: the log pairs ACC_ERR and POISON_ADDR, by the index of a word of theirs: what a write of it does. -/
def State.logWrite (s : State) (sd : SideId) (idx : Nat) (v : Word) : Option State :=
  if idx == ACC_ERR_LO.whole.idx || idx == POISON_ADDR_LO.whole.idx then some s
  else if idx == ACC_ERR_HI.whole.idx then some (s.mod sd (·.wAccErrHi v))
  else if idx == POISON_ADDR_HI.whole.idx then some (s.mod sd (·.wPoisonHi v))
  else none

/-- A high word is staged in the master's slot (R43). -/
def Side.stageHigh (x : Side) (m lo : Nat) (v : Word) : Side := { x with bus := { x.bus with stage := aput x.bus.stage m (lo, v) } }

/-- A low word is written (R43): with the staged high word of the same pair, else alone. -/
def State.writeLow (s : State) (sd : SideId) (m lo : Nat) (v : Word) : State :=
  let x := s.side sd
  match aget x.bus.stage m with
  | some (k, h) =>
    if k == lo then (s.mod sd (fun x => { x with bus := { x.bus with stage := adel x.bus.stage m } })).commitPair sd lo h v
    else (s.mod sd (fun x => x.orBit SNAP_STAT.STAGE_MISS m)).commitPair sd lo (x.reg (lo + 1)) v
  | none => s.commitPair sd lo (x.reg (lo + 1)) v

/-- A write of a register by a master, on the side that holds it. -/
def State.regWrite (s : State) (sd : SideId) (m idx : Nat) (v : Word) : State :=
  let x := s.side sd
  if !x.serves idx then s.mod sd (fun x => x.accErr accEarly m true (x.regAddr idx))
  else match findReg idx with
    | none => s
    | some r =>
      match s.logWrite sd idx v with
      | some s => s
      | none =>
        match r.kind with
        | .rsHi => s.mod sd (fun x => x.stageHigh m (idx - 1) v)
        | .wHi => s.mod sd (fun x => x.stageHigh m (idx - 1) v)
        | .rsLo => s.writeLow sd m idx v
        | .wLo => s.writeLow sd m idx v
        | .rcLo => if hasHigh idx then s.writeLow sd m idx v else s
        | .plain => s.plainWrite sd idx r v

/-- One write that covers two registers from an index on (R246, R247): the words of one pair are committed together. -/
def State.pairWriteReg (s : State) (sd : SideId) (m idx : Nat) (lo hi : Word) : State :=
  if writesPair idx && (s.side sd).serves idx then s.commitPair sd idx hi lo
  else (s.regWrite sd m idx lo).regWrite sd m (idx + 1) hi

/-- A write by a master, from its start; the word or words it carries are applied by `f` on the side that holds them. -/
def State.busWriteBy (s : State) (sd : SideId) (m idx : Nat) (f : State → State) : State :=
  match s.path sd m with
  | .none => s
  | .keelDown => s.keelLost sd m true (devOf sd 2 idx)
  | .reaches => if (s.side sd).islTakes busSrc then f s else s

/-- A whole write of one register by a master. -/
def State.busWrite (s : State) (sd : SideId) (m idx : Nat) (v : Word) : State :=
  s.busWriteBy sd m idx (fun s => s.regWrite sd m idx v)

/-- R246: a write with byte enables: bytes 0 to 4 whole, or nothing. -/
def State.regWriteBe (s : State) (sd : SideId) (m idx : Nat) (v : Word) (be : Nat) : State :=
  let x := s.side sd
  if be % 32 == 31 then s.regWrite sd m idx v
  else if be % 32 == 0 then s
  else if !x.serves idx then s.mod sd (fun x => x.accErr accEarly m true (x.regAddr idx))
  else if (findReg idx).isNone then s
  else s.mod sd (fun x => x.accErr accPartial m true (x.regAddr idx))

/-! ### TLPs outside the windows (R244 to R248) -/

/-- R245: an endpoint logs an error. -/
def State.aerLog (s : State) (h : SideId) (e : AerErr) : State :=
  s.mod h (fun x => { x with host := { x.host with aer := dedup (x.host.aer ++ [e]) } })

/-- R40: the side and the register index of a slot of BAR0. -/
def barSide (slot : Nat) : SideId := SideId.ofBit (bitAt slot 20)
def barIdx (slot : Nat) : Nat := slot % 2 ^ 20

/-- R246: a read TLP of BAR0 of endpoint h: the registers of the slots it covers, one at a time in increasing order. -/
def State.barRead (s : State) (h : SideId) (off len : Nat) : State :=
  let slot := off / 8
  let n := if len == 0 then 0 else min ((off + len - 1) / 8 + 1) (2 ^ 21) - slot
  let sd := barSide slot
  let addr := devOf sd 2 (barIdx slot)
  match s.path sd h.n with
  | .none => s.setRd []
  | .keelDown => (s.keelLost sd h.n false addr).setRd (List.replicate n 0)
  | .reaches =>
    if !(s.side sd).islTakes busSrc then s.setRd []
    else
      let r := (List.range n).foldl (fun (a : State × List Word) i =>
        let q := a.1.readLogged sd h.n 2 (barIdx (slot + i))
        (q.1, a.2 ++ [q.2.1])) (s, [])
      r.1.returnRead sd h.n addr r.2 false

/-- R246: the slots that a write TLP's bytes from an offset of BAR0 on cover: slot, the word in it, and its byte enables. -/
def barSlots (off : Nat) (bytes : List (Option Byte)) : List (Nat × Word × Nat) :=
  let ps := bytes.zipIdx.map (fun p => (off + p.2, p.1))
  (dedup (ps.map (fun p => p.1 / 8))).map (fun k =>
    let own := ps.filter (fun p => p.1 / 8 == k)
    (k, wordN (own.foldl (fun a p => a + (p.2.elim 0 (·.toNat)) * 256 ^ (p.1 % 8)) 0),
      own.foldl (fun a p => a + b2n p.2.isSome * 2 ^ (p.1 % 8)) 0))

/-- R43, R246, R247: slots of a write TLP act one at a time, the two words of one value together. -/
def State.barWrite (h : SideId) : List (Nat × Word × Nat) → State → State
  | [], s => s
  | (k, v, be) :: (k', v', be') :: rest, s =>
    let sd := barSide k
    let idx := barIdx k
    if k' == k + 1 && writesPair idx && be % 32 == 31 && be' % 32 == 31 then
      State.barWrite h rest (s.busWriteBy sd h.n idx (fun s => s.pairWriteReg sd h.n idx v v'))
    else State.barWrite h ((k', v', be') :: rest) (s.busWriteBy sd h.n idx (fun s => s.regWriteBe sd h.n idx v be))
  | [(k, v, be)], s => s.busWriteBy (barSide k) h.n (barIdx k) (fun s => s.regWriteBe (barSide k) h.n (barIdx k) v be)

/-- R244: the doubleword of BAR4 at an offset: the MSI-X table from 0, its pending bits from 0x8000, zero elsewhere. -/
def HostSide.bar4Word (x : HostSide) (o : Nat) : Nat :=
  if o < 1024 then
    let e := lget x.msix (o / 16) ⟨0, 0, true⟩
    match o / 4 % 4 with
    | 0 => e.addr.toNat % 2 ^ 32
    | 1 => e.addr.toNat / 2 ^ 32
    | 2 => e.data.toNat
    | _ => b2n e.mask
  else if 0x8000 ≤ o && o < 0x8008 then
    maskN 32 (fun i => x.pba.contains (8 * (o - 0x8000) / 32 * 32 + i))
  else 0

/-- R244, R281: one byte written at an offset of BAR4; a vector that is unmasked while it is pending is sent. -/
def HostSide.bar4Byte (x : HostSide) (o : Nat) (b : Byte) : HostSide :=
  if o < 1024 then
    let i := o / 16
    let e := lget x.msix i ⟨0, 0, true⟩
    let put := fun (old k : Nat) => old - old / 256 ^ k % 256 * 256 ^ k + b.toNat * 256 ^ k
    let e' : MsixEnt :=
      if o % 16 < 8 then { e with addr := BitVec.ofNat 64 (put e.addr.toNat (o % 8)) }
      else if o % 16 < 12 then { e with data := BitVec.ofNat 32 (put e.data.toNat (o % 4)) }
      else if o % 16 == 12 then { e with mask := b.getLsbD 0 }
      else e
    let y := { x with msix := lset x.msix i e' }
    if !e'.mask && y.pba.contains i then { y with pba := y.pba.filter (· != i) }.sendVec i else y
  else x

/-- Bytes written from an offset of BAR4 on. -/
def HostSide.bar4Write (h : HostSide) (off : Nat) (bytes : List (Option Byte)) : HostSide :=
  bytes.zipIdx.foldl (fun h p => match p.1 with
    | some b => h.bar4Byte (off + p.2) b
    | none => h) h

/-- R244: a doubleword of configuration space: the identity. The spec gives nothing else of it: a free value stands there. -/
def State.configRead (s : State) (h : SideId) (dw : Nat) : State :=
  let f := s.takeFree
  if dw == 0 then s.setRd [wordN ((0x4810 + h.n) * 2 ^ 16 + 0x1F6B)]
  else if dw == 2 then f.2.setRd [wordN (0x118000 * 256 + f.1.toNat % 256)]
  else f.2.setRd [wordN (f.1.toNat % 2 ^ 32)]

/-- LOW_WORD_READ (R42); or a read TLP of an endpoint (R245, R246, R248). -/
def execLowWordRead (sd : SideId) (m : Fin 11) (via : ReadVia) (off : BitVec 39) (s : State) : Host.Outcome State Fault Refusal :=
  let o := off.toNat
  .next (match via with
    | .dev space => s.busReadCmd sd m.val space.toNat o
    | .bar0 len => s.barRead sd (o % 2 ^ 24) len
    | .bar4 len =>
      if s.held || !s.endpointUp sd then s.setRd []
      else s.setRd ((List.range (if len == 0 then 0 else (o % 2 ^ 16 + len - 1) / 4 + 1 - o % 2 ^ 16 / 4)).map (fun i =>
        wordN ((s.side sd).host.bar4Word (4 * (o % 2 ^ 16 / 4 + i)))))
    | .config => if s.held || !s.endpointUp sd then s.setRd [] else s.configRead sd (o % 1024)
    | .noBar => if s.held || !s.endpointUp sd then s.setRd [] else (s.aerLog sd .unsupportedRequest).setRd [])

/-! ### The rows -/

/-- HIGH_WORD_WRITE (R43). -/
def execHighWordWrite (sd : SideId) (m : Fin 11) (idx : BitVec 20) (v : Word) (s : State) : Host.Outcome State Fault Refusal :=
  .next (s.busWrite sd m.val idx.toNat v)

/-- LOW_WORD_WRITE (R43). -/
def execLowWordWrite (sd : SideId) (m : Fin 11) (idx : BitVec 20) (v : Word) (s : State) : Host.Outcome State Fault Refusal :=
  .next (s.busWrite sd m.val idx.toNat v)

/-- PAIR_WRITE (R247). -/
def execPairWrite (sd : SideId) (m : Fin 11) (idx : BitVec 20) (lo hi : Word) (s : State) : Host.Outcome State Fault Refusal :=
  .next (s.busWriteBy sd m.val idx.toNat (fun s => s.pairWriteReg sd m.val idx.toNat lo hi))

/-- The word and the byte enables that the bytes written from a slot's first byte on make: none where the enable is 0. -/
def slotWord (bytes : List (Option Byte)) : Word := wordN ((bytes.take 8).zipIdx.foldl (fun a p => a + (p.1.elim 0 (·.toNat)) * 256 ^ p.2) 0)
def slotBe (bytes : List (Option Byte)) : Nat := (bytes.take 8).zipIdx.foldl (fun a p => a + b2n p.1.isSome * 2 ^ p.2) 0

/-- REGISTER_WRITE (R246); or a write TLP of an endpoint (R245): a poisoned one to BAR0 is dropped and logged. -/
def execRegisterWrite (sd : SideId) (m : Fin 11) (place : WriteAt) (bytes : List (Option Byte)) (ep : Bool) (s : State) :
    Host.Outcome State Fault Refusal :=
  .next (match place with
    | .reg idx => s.busWriteBy sd m.val idx.toNat (fun s => s.regWriteBe sd m.val idx.toNat (slotWord bytes) (slotBe bytes))
    | .bar0 off =>
      if s.held || !s.endpointUp sd then s
      else if ep then s.aerLog sd .poisonedTlp
      else State.barWrite sd (barSlots off.toNat bytes) s
    | .bar4 off =>
      if s.held || !s.endpointUp sd then s
      else s.mod sd (fun x => { x with host := x.host.bar4Write off.toNat bytes })
    | .noBar => if s.held || !s.endpointUp sd then s else s.aerLog sd .unsupportedRequest)

/-- JESD_CFG_WRITE (R48). -/
def execJesdCfgWrite (sd : SideId) (m : Fin 11) (ch : Chan) (v : Word) (s : State) : Host.Outcome State Fault Refusal :=
  .next (s.busWrite sd m.val (JESD_CFG.whole ch.n).idx v)

/-- RT_SET_SEC (R176). -/
def execRtSetSec (sd : SideId) (m : Fin 11) (v : Word) (s : State) : Host.Outcome State Fault Refusal :=
  .next (s.busWrite sd m.val RT_SET_SEC.whole.idx v)

/-- SWAP_IP (R182): n = 0 to 3 names SPLIT_IN_CFGn, 4 EVT_IN_CFG. -/
def execSwapIp (sd : SideId) (m : Fin 11) (n : Fin 5) (v : Word) (s : State) : Host.Outcome State Fault Refusal :=
  .next (s.busWrite sd m.val (if n.val == 4 then EVT_IN_CFG.whole.idx else (SPLIT_IN_CFG.whole n.val).idx) v)

/-- SPLIT_RING_CFG_WRITE (R191). -/
def execSplitRingCfgWrite (sd : SideId) (m : Fin 11) (v : Word) (s : State) : Host.Outcome State Fault Refusal :=
  .next (s.busWrite sd m.val SPLIT_RING_CFG.whole.idx v)

/-- WIN_CFG_WRITE (R255). -/
def execWinCfgWrite (sd : SideId) (m : Fin 11) (n : Fin 4) (v : Word) (s : State) : Host.Outcome State Fault Refusal :=
  .next (s.busWrite sd m.val (WIN_CFG.whole n.val).idx v)

/-- ROUTE_BOW_WRITE (R259). -/
def execRouteBowWrite (sd : SideId) (m : Fin 11) (v : Word) (s : State) : Host.Outcome State Fault Refusal :=
  .next (s.busWrite sd m.val HOST_CFG.whole.idx v)

/-- ACC_ERR_CLEAR (R261). -/
def execAccErrClear (sd : SideId) (m : Fin 11) (v : Word) (s : State) : Host.Outcome State Fault Refusal :=
  .next (s.busWrite sd m.val ACC_ERR_HI.whole.idx v)

/-- NUDGE (R265). -/
def execNudge (sd : SideId) (m : Fin 11) (s : State) : Host.Outcome State Fault Refusal :=
  .next (s.busWrite sd m.val NUDGE.whole.idx 0)

/-- RING_CFG_WRITE (R289). -/
def execRingCfgWrite (sd : SideId) (m : Fin 11) (idx : BitVec 20) (v : Word) (s : State) : Host.Outcome State Fault Refusal :=
  .next (s.busWrite sd m.val idx.toNat v)

/-- CAL_STORE_WRITE (R406). -/
def execCalStoreWrite (sd : SideId) (m : Fin 11) (idx : BitVec 20) (v : Word) (s : State) : Host.Outcome State Fault Refusal :=
  .next (s.busWrite sd m.val idx.toNat v)

/-- COXCORE_MBOX_IN (R355). -/
def execCoxcoreMboxIn (sd : SideId) (m : Fin 11) (c : Fin 4) (v : Word) (s : State) : Host.Outcome State Fault Refusal :=
  .next (s.busWrite sd m.val (COXCORE_MBOX_IN.whole c.val).idx v)

/-- PLL_COMMIT_F (R362). -/
def execPllCommitF (sd : SideId) (m : Fin 11) (s : State) : Host.Outcome State Fault Refusal :=
  .next (s.busWrite sd m.val PLL_COMMIT.whole.idx (wordN (2 ^ 35)))

/-- PLL_COMMIT_T (R365). -/
def execPllCommitT (sd : SideId) (m : Fin 11) (s : State) : Host.Outcome State Fault Refusal :=
  .next (s.busWrite sd m.val PLL_COMMIT.whole.idx (wordN (2 ^ 34)))

/-- TONE_CFG_WRITE (R380). -/
def execToneCfgWrite (sd : SideId) (m : Fin 11) (v : Word) (s : State) : Host.Outcome State Fault Refusal :=
  .next (s.busWrite sd m.val TONE_CFG.whole.idx v)

/-- MON_CFG_WRITE (R388). -/
def execMonCfgWrite (sd : SideId) (m : Fin 11) (v : Word) (s : State) : Host.Outcome State Fault Refusal :=
  .next (s.busWrite sd m.val MON_CFG.whole.idx v)

/-- SR_REQ (R311): a write of DRAM_LP_CTRL. -/
def execSrReq (sd : SideId) (m : Fin 11) (v : Word) (s : State) : Host.Outcome State Fault Refusal :=
  .next (s.busWrite sd m.val DRAM_LP_CTRL.whole.idx v)

/-- FC_REQ (R312): a write of DRAM_LP_CTRL. -/
def execFcReq (sd : SideId) (m : Fin 11) (v : Word) (s : State) : Host.Outcome State Fault Refusal :=
  .next (s.busWrite sd m.val DRAM_LP_CTRL.whole.idx v)

/-- DRAM_PANIC_WRITE (R301). -/
def execDramPanicWrite (sd : SideId) (m : Fin 11) (n : Fin 5) (v : Word) (s : State) : Host.Outcome State Fault Refusal :=
  .next (s.busWrite sd m.val (DRAM_PANIC.whole n.val).idx v)

/-- SRAM_REPAIR_REQ (R326). -/
def execSramRepairReq (sd : SideId) (m : Fin 11) (v : Word) (s : State) : Host.Outcome State Fault Refusal :=
  .next (s.busWrite sd m.val SRAM_REPAIR_REQ.whole.idx v)

/-- POISON_ADDR_CLEAR (R327). -/
def execPoisonAddrClear (sd : SideId) (m : Fin 11) (v : Word) (s : State) : Host.Outcome State Fault Refusal :=
  .next (s.busWrite sd m.val POISON_ADDR_HI.whole.idx v)

/-- FAULT_ACK (R416). -/
def execFaultAck (sd : SideId) (m : Fin 11) (v : Word) (s : State) : Host.Outcome State Fault Refusal :=
  .next (s.busWrite sd m.val FAULT_ACK.whole.idx v)

/-- FAULT_INJ (R420). -/
def execFaultInj (sd : SideId) (m : Fin 11) (v : Word) (s : State) : Host.Outcome State Fault Refusal :=
  .next (s.busWrite sd m.val FAULT_INJ.whole.idx v)

/-- SO_COMMIT (R431): a write of SO_CTRL. -/
def execSoCommit (sd : SideId) (m : Fin 11) (v : Word) (s : State) : Host.Outcome State Fault Refusal :=
  .next (s.busWrite sd m.val SO_CTRL.whole.idx v)

/-- SO_ENABLE (R435): a write of SO_CTRL. -/
def execSoEnable (sd : SideId) (m : Fin 11) (v : Word) (s : State) : Host.Outcome State Fault Refusal :=
  .next (s.busWrite sd m.val SO_CTRL.whole.idx v)

/-- SIDE_RESET (R447). -/
def execSideReset (sd : SideId) (m : Fin 11) (v : Word) (s : State) : Host.Outcome State Fault Refusal :=
  .next (s.busWrite sd m.val SIDE_RESET.whole.idx v)

/-- ISL_RESET (R449). -/
def execIslReset (sd : SideId) (m : Fin 11) (v : Word) (s : State) : Host.Outcome State Fault Refusal :=
  .next (s.busWrite sd m.val ISL_RESET.whole.idx v)

/-- DRAM_MAPOUT (R454). -/
def execDramMapout (sd : SideId) (m : Fin 11) (v : Word) (s : State) : Host.Outcome State Fault Refusal :=
  .next (s.busWrite sd m.val DRAM_MAPOUT.whole.idx v)

end Sys2Proof.Machine
end

