-- ==== Sys2Proof/Machine/HostLink.lean ====
section
/-! DEFINITION. The host link (R244 to R260): PERST_N and link-up, BAR2 windows and their merge units, remote reads; and what the
engine does with the rings in host memory (R262 to R267, R274 to R281): doorbell reads, completions, events, moderation. -/

namespace Sys2Proof.Machine

/-! ### The endpoint (R248, R260) -/

/-- PERST_N (R260). -/
def execPerstN (sd : SideId) (s : State) : Host.Outcome State Fault Refusal := .next (if s.held then s else s.perst sd)

/-- PCIE_LINK_UP (R248): in single-port operation the bow PCIe core stays in detect (R259). -/
def execPcieLinkUp (sd : SideId) (speed width : Fin 5) (s : State) : Host.Outcome State Fault Refusal :=
  .next (if s.held || !(s.side sd).islRuns pcieSrc || (sd == .bow && s.stroke.on HOST_CFG.ROUTE_BOW) then s
    else s.mod sd (fun x =>
      ((x.raise HOST_STAT.LINK_UP).set HOST_STAT.SPEED (speed.val + 1)).set HOST_STAT.WIDTH (2 ^ width.val)))

/-! ### Windows (R253 to R257) -/

/-- R253: the word and, in its unit, the byte of a byte offset in a window; none outside a dense window. -/
def winByte (dense : Bool) (ob : Nat) : Option (Nat × Nat) :=
  if dense then (if ob < 603979776 then some (ob / 36, ob % 36) else none) else some (ob / 8, ob % 8)

/-- The word a byte offset of a window lies in; at a nibble shared by two words, the lower. -/
def winWord (dense : Bool) (ob : Nat) : Nat := if dense then 8 * (ob / 36) + (ob % 36) * 8 / 36 else ob / 8

/-- The same; at a shared nibble, the upper. -/
def winWordTop (dense : Bool) (ob : Nat) : Nat := if dense then 8 * (ob / 36) + ((ob % 36) * 8 + 7) / 36 else ob / 8

/-- A word's bits out of the bytes of a merge unit. -/
def mergedWord (dense : Bool) (w : Nat) (bytes : List (Nat × Byte)) : Word :=
  let v := bytes.foldl (fun a p => a + p.2.toNat * 256 ^ p.1) 0
  if dense then wordN (v / 2 ^ (36 * (w % 8))) else wordN v

/-- R41, R249, R254: words written by a master, through a DRAM port (R299), to an offset of a space, on the side that holds
them; true where the write is logged with BAD_ADDRESS. Tables are written with LOAD_TABLE only, ROM images and record headers never:
such words are dropped. -/
def State.writeWord (s : State) (sd : SideId) (m port space off : Nat) (v : Word) : State × Bool :=
  let x := s.side sd
  let bad := (s.mod sd (fun x => x.badAddr m true (devOf sd space off)), true)
  match space with
  | 2 => if off < 2 ^ 20 then (if x.islTakes busSrc then s.regWrite sd m off v else s, false) else bad
  | 3 => if (x.tableWord off).isSome then (s, false) else bad
  | 5 =>
    if off < 0x200 then (if (x.metaWord off).2.1.isSome then (s, false) else bad)
    else if 0x100000 ≤ off && off < 0x300000 then
      let a := (lget (x.acqOf (chanOf (off / 0x100000 - 1))).recBlock 8 0).toNat + off % 0x100000
      if a < x.dram.extent then (s.mod sd (fun x => x.writeRange .dram port a [v]), false) else bad
    else bad
  | _ => bad

/-- R154: words written to the density store of a running density engine leave its cells undefined: free values. -/
def State.undefWords (s : State) (sd : SideId) (space off : Nat) (ws : List Word) : List Word × State :=
  let x := s.side sd
  ws.zipIdx.foldl (fun (a : List Word × State) p =>
    let o := off + p.2
    if space == 0 && o < 2 ^ 23 && x.on (DENS_STAT.RUNNING (o / 2 ^ 22)) then
      let f := a.2.takeFree
      (a.1 ++ [f.1], f.2)
    else (a.1 ++ [p.1], a.2)) ([], s)

/-- Words written by a master from an offset of a space on: by block to a memory, one by one elsewhere. -/
def State.writeSpan (s : State) (sd : SideId) (m port space off : Nat) (ws : List Word) : State × Bool :=
  match (s.side sd).spaceMem space with
  | some _ =>
    let (ws, s) := s.undefWords sd space off ws
    let r := (s.side sd).memWrite space port off ws
    match r.2 with
    | some o => (s.setSide sd (r.1.badAddr m true (devOf sd space o)), true)
    | none => (s.setSide sd r.1, false)
  | none =>
    ws.zipIdx.foldl (fun (acc : State × Bool) p =>
      let r := acc.1.writeWord sd m port space (off + p.2) p.1
      (r.1, acc.2 || r.2)) (s, false)

/-- R247: words of one TLP from an offset of a space on: the two words of one register value together, others one at a time. -/
def State.storeWords (s : State) (sd : SideId) (m space off : Nat) (ws : List Word) : State :=
  match ws with
  | [lo, hi] =>
    if space == 2 && off < 2 ^ 20 then (if (s.side sd).islTakes busSrc then s.pairWriteReg sd m off lo hi else s)
    else (s.writeSpan sd m portHost space off ws).1
  | _ => (s.writeSpan sd m portHost space off ws).1

/-- A word, or the two words of one register value, leave a window's merge unit towards their device address. -/
def State.winStore (s : State) (sd : SideId) (base w : Nat) (ws : List Word) : State :=
  let t := devSide base
  let off := devOff base + w
  let addr := devOf t (devSpace base) off
  match s.path t sd.n with
  | .none => s
  | .keelDown => s.keelLost t sd.n true addr
  | .reaches =>
    if off ≥ 2 ^ 39 then s.mod t (fun x => x.badAddr sd.n true addr)
    else if (s.side t).early sd.n (devSpace base) then s.mod t (fun x => x.accErr accEarly sd.n true addr)
    else s.storeWords t sd.n (devSpace base) off ws

/-- A word of a window that a TLP's bytes, by merge unit and byte of it, cover whole. -/
def tlpWord (dense : Bool) (ins : List (Nat × Nat × Byte)) (w : Nat) : Option Word :=
  let u := if dense then w / 8 else w
  let bs := (ins.filter (fun p => p.1 == u)).map (·.2)
  if (wordsTouched dense u bs).contains (w, true) then some (mergedWord dense w bs) else none

/-- R254: a word whose bytes have all arrived is written; R247: with the other word of its pair where one TLP covers both. -/
def State.winWordOut (s : State) (sd : SideId) (cfg : Bool × Bool × Nat) (ins : List (Nat × Nat × Byte)) (w : Nat) (v : Word) : State :=
  let lo := w - w % 2
  let pair := devSpace cfg.2.2 == 2 && writesPair (devOff cfg.2.2 + lo)
  match tlpWord cfg.2.1 ins lo, tlpWord cfg.2.1 ins (lo + 1) with
  | some l, some h => if pair then (if w == lo then s else s.winStore sd cfg.2.2 lo [l, h]) else s.winStore sd cfg.2.2 w [v]
  | _, _ => s.winStore sd cfg.2.2 w [v]

/-- R254: bytes of one unit arrive, of the TLP `ins`: a word of which every byte has arrived is written; a unit that is whole is empty. -/
def State.mergeUnit (s : State) (sd : SideId) (win u : Nat) (ins : List (Nat × Nat × Byte)) : State :=
  let bs := (ins.filter (fun p => p.1 == u)).map (·.2)
  let s := s.mod sd (fun x => if (lget x.host.win win ⟨none, []⟩).unit == some u then x else x.emptyMerge win)
  let x := s.side sd
  let cfg := x.winCfg win
  let bytes := bs.foldl (fun l p => aput l p.1 p.2) (lget x.host.win win ⟨none, []⟩).bytes
  let ws := wordsTouched cfg.2.1 u bytes
  let now_ := (wordsTouched cfg.2.1 u bs).map (·.1)
  let whole := ws.all (·.2) && (ws.length == 8 || !cfg.2.1)
  let s := s.setSide sd { x with host := { x.host with win := lset x.host.win win (if whole then ⟨none, []⟩ else ⟨some u, bytes⟩) } }
  (ws.filter (fun p => p.2 && now_.contains p.1)).foldl (fun s p => s.winWordOut sd cfg ins p.1 (mergedWord cfg.2.1 p.1 bytes)) s

/-- WINDOW_WRITE (R254): a write TLP's bytes, from a byte offset of a window on; a poisoned one is dropped and logged (R245). -/
def execWindowWrite (sd : SideId) (win : Fin 4) (off : BitVec 30) (d : WinData) (s : State) : Host.Outcome State Fault Refusal :=
  let x := s.side sd
  let cfg := x.winCfg win.val
  .next (
    if s.held || !s.endpointUp sd then s
    else if d.ep then s.aerLog sd .poisonedTlp
    else if !cfg.1 || d.bytes.isEmpty then s
    else if !x.on INIT_STAT.READY then s.mod sd (fun x => x.accErr accEarly sd.n true (cfg.2.2 + winWord cfg.2.1 off.toNat))
    else
      let ps := d.bytes.zipIdx.map (fun p => (winByte cfg.2.1 (off.toNat + p.2), p.1))
      let ins := ps.filterMap (fun p => p.1.map (fun q => (q.1, q.2, p.2)))
      let s := (dedup (ins.map (·.1))).foldl (fun s u =>
        s.mergeUnit sd win.val u ins) s
      if ins.length < ps.length then
        s.mod sd (fun x => x.badAddr sd.n true (cfg.2.2 + winWord cfg.2.1 (off.toNat + ins.length)))
      else s)

/-- The first word of a range that lies in a poisoned block of a memory. -/
def Side.firstPoison (x : Side) (space off n : Nat) : Option Nat :=
  match x.spaceMem space with
  | none => none
  | some (k, _) => ((List.range n).map (off + ·)).find? (fun o => (aget (x.memOf k).poison (o / k.n)).isSome)

/-- R247, R253, R256: n words read from an offset of a space, on the side that holds them: one by one from registers, tables and
metadata, by block from a memory. -/
def State.readSpan (s : State) (sd : SideId) (m space off n : Nat) : State × List Word × Bool :=
  match (s.side sd).spaceMem space with
  | none =>
    if space == 2 && !(s.side sd).islTakes busSrc then (s, [], false)
    else (List.range n).foldl (fun (acc : State × List Word × Bool) i =>
      let r := acc.1.readLogged sd m space (off + i)
      (r.1, acc.2.1 ++ [r.2.1], acc.2.2 || r.2.2)) (s, [], false)
  | some _ =>
    let r := s.memRead sd space off n
    let s := match r.2.2.2 with
      | some o => r.1.mod sd (fun x => x.badAddr m false (devOf sd space o))
      | none => r.1
    if r.2.2.1 == 0 then (s, r.2.1, false)
    else
      let a := ((s.side sd).firstPoison space off n).getD off
      (if m < 2 then s.mod sd (fun x => x.accErr accPoison m false (devOf sd space a)) else s, r.2.1, true)

/-- WINDOW_READ (R253, R254, R256, R257): the words that hold `len` bytes from a byte offset of a window on. One that waits for a DRAM
channel in self-refresh (R311) has not been made. -/
def execWindowRead (sd : SideId) (win : Fin 4) (off : BitVec 30) (len : Nat) (s : State) : Host.Outcome State Fault Refusal :=
  let cfg := (s.side sd).winCfg win.val
  let base := cfg.2.2
  let w0 := winWord cfg.2.1 off.toNat
  let n := if len == 0 then 0 else winWordTop cfg.2.1 (off.toNat + len - 1) + 1 - w0
  let inside := if cfg.2.1 && 2 ^ 27 ≤ w0 + n then 2 ^ 27 - w0 else n
  let t := devSide base
  let addr := base + w0
  let zeros := List.replicate n (0 : Word)
  let s0 := s
  .next (
    if s.held || !s.endpointUp sd then s.setRd []
    else
      let s := s.mod sd (fun x => x.emptyMerge win.val)
      if !cfg.1 then s.setRd zeros
      else if !(s.side sd).on INIT_STAT.READY then (s.mod sd (fun x => x.accErr accEarly sd.n false addr)).setRd zeros
      else match s.path t sd.n with
      | .none => s.setRd []
      | .keelDown => (s.keelLost t sd.n false addr).setRd zeros
      | .reaches =>
        if (s.side t).spaceWaits (devSpace base) (devOff base + w0) inside then s0
        else if (s.side t).early sd.n (devSpace base) then
          (s.mod t (fun x => x.accErr accEarly sd.n false addr)).returnRead t sd.n addr zeros false
        else
          let r := s.readSpan t sd.n (devSpace base) (devOff base + w0) inside
          let s := if inside < n then r.1.mod t (fun x => x.badAddr sd.n false (base + w0 + inside)) else r.1
          s.returnRead t sd.n addr (r.2.1 ++ List.replicate (n - inside) 0) (s.readEp sd sd.n r.2.2))

/-- WINDOW_MERGE_TIMEOUT (R254). -/
def execWindowMergeTimeout (sd : SideId) (win : Fin 4) (s : State) : Host.Outcome State Fault Refusal :=
  .next (s.mod sd (fun x => x.emptyMerge win.val))

/-- TUNNEL_READ_DONE (R257, R258): the oldest remote read of a side's masters completes. -/
def execTunnelReadDone (sd : SideId) (s : State) : Host.Outcome State Fault Refusal :=
  .next (match s.keel.reads.find? (fun r => r.1 == sd) with
    | some r => { s with rd := r.2.2.2.1, ep := r.2.2.2.2, keel := { s.keel with reads := s.keel.reads.erase r } }
    | none => s)

/-! ### The doorbell page (R263 to R267) -/

/-- The ring and DMA engine of a side works: its island runs and its path to host memory is open (R259). -/
def State.dmaWorks (s : State) (sd : SideId) : Bool := !s.held && (s.side sd).islRuns (srcOf 4 1 0) && s.dmaOpen sd

/-- A command ring takes a producer index (R263, R265, R267). -/
def Side.takeCmdPi (x : Side) (i v : Nat) : Side :=
  let r := lget x.host.cmd i ⟨0, 0, none⟩
  if !x.on (CMDQ_CFG.EN i) || bitAt (x.get RING_ERR.CMD_ERR) i then x
  else if v < r.pi || v > r.ci + 2 ^ x.get (CMDQ_CFG.LOG2SIZE i) then x.stopRing RING_ERR.CMD_ERR i i 1
  else { x with host := { x.host with cmd := lset x.host.cmd i { r with pi := v } } }

/-- A completion ring or the event ring takes a consumer index. -/
def Side.takeCi (x : Side) (n v : Nat) : Side :=
  let r := x.outRing n
  if !x.outOn n then x
  else if v < r.ci || v > r.pi then x.stopRing (outErr n).1 (outErr n).2 (8 + n) 1
  else x.setOutRing n { r with ci := v }

/-- A stream ring takes a producer index. -/
def Side.takeStrPi (x : Side) (i v : Nat) : Side :=
  let r := x.outRing (9 + i)
  if !x.outOn (9 + i) then x
  else if v < r.pi || v > r.ci + x.outSize (9 + i) then x.stopRing RING_ERR.STRQ_ERR i (17 + i) 1
  else x.setOutRing (9 + i) { r with pi := v }

/-- The host half of the page has been read (R264): every index is taken whole. -/
def Side.takePage (x : Side) (page : List (BitVec 64)) : Side :=
  let w := fun i => (lget page i 0).toNat
  let x := (List.range 8).foldl (fun x i => x.takeCmdPi i (w i)) x
  let x := (List.range 9).foldl (fun x n => x.takeCi n (w (8 + n))) x
  (List.range 16).foldl (fun x i => x.takeStrPi i (w (32 + i))) x

/-- DOORBELL_POLL (R265, R267): `page` holds the 48 words of offsets 0x000 to 0x17F, none where the read failed. -/
def execDoorbellPoll (sd : SideId) (page : Option (List (BitVec 64))) (s : State) : Host.Outcome State Fault Refusal :=
  let x := s.side sd
  .next (
    if !x.on DB_CFG.EN || !s.dmaWorks sd then s
    else
      let x := { x with host := { x.host with nudged := false } }
      s.setSide sd (match page with
        | some ws => { x with host := { x.host with dbFailed := false } }.takePage ws
        | none =>
          let y := (x.inc DB_READ_ERR.whole).raise RING_ERR.DB_ERR
          if x.host.dbFailed then y else { y with host := { y.host with dbFailed := true } }.event 0x10 y.now 63 2))

/-! ### Completions and events (R274 to R281) -/

/-- The four words of an entry, PHASE included (R275). -/
def Entry.words (e : Entry) (phase : Nat) : List Nat :=
  [e.tag % 2 ^ 32 * 2 ^ 32 + e.status % 2 ^ 16 * 2 ^ 16 + e.code % 256 * 256 + e.time / 2 ^ 64 % 256,
   e.time % 2 ^ 64,
   e.ring % 8 * 2 ^ 61 + b2n e.remote * 2 ^ 60 + ux 60 e.r0,
   phase * 2 ^ 63 + ux 60 e.r1]

/-- R276: an entry is written into its slot of an out-ring, then the engine's index; `third` is R281's third condition. -/
def State.writeEntry (s : State) (sd : SideId) (n : Nat) (e : Entry) (third : Bool) : State :=
  let x := s.side sd
  let r := x.outRing n
  let size := x.outSize n
  let base := x.pair (outBaseIdx n)
  let s := s.dmaWrite sd (base + 32 * (r.pi % size)) ((e.words (1 - r.pi / size % 2)).flatMap (fun w => bytesOf 8 w))
  let s := s.mod sd (fun x => x.setOutRing n { r with pi := r.pi + 1 })
  (s.putIndex sd (outIndexAt n) (r.pi + 1)).ringWrote sd n third

/-- The ring's WAIT ends with the command that set it (R269). -/
def Side.endWait (x : Side) (ring id : Nat) : Side :=
  { x with host := { x.host with cmd := lmod x.host.cmd ring (fun r => if r.waitId == some id then { r with waitId := none } else r) } }

/-- COMPLETION_WRITE (R276): the oldest completion of a ring, if the ring has room. -/
def execCompletionWrite (sd : SideId) (cq : Fin 8) (s : State) : Host.Outcome State Fault Refusal :=
  let x := s.side sd
  let r := x.outRing cq.val
  .next (match x.host.compl.find? (fun c => c.cq == cq.val) with
    | none => s
    | some c =>
      if !x.outOn cq.val || !s.dmaWorks sd || r.pi - r.ci ≥ x.outSize cq.val then s
      else
        let s := s.writeEntry sd cq.val c.e (c.irqNow || c.e.status ≥ 0x2000)
        s.mod sd (fun x => ({ x with host := { x.host with compl := x.host.compl.erase c } } : Side).endWait c.ring.val c.id))

/-- An event that cannot be written is dropped and counted (R279). -/
def Side.dropEvent (x : Side) : Side :=
  match x.host.events with
  | [] => x
  | _ :: r => ({ x with host := { x.host with events := r, dropped := x.host.dropped + 1 } } : Side).inc EVT_DROP.whole

/-- EVENT_WRITE (R278, R279): the last free slot is kept for EVENT_OVERFLOW, which is written when the host has freed space. -/
def execEventWrite (sd : SideId) (s : State) : Host.Outcome State Fault Refusal :=
  let x := s.side sd
  let r := x.outRing 8
  let room := r.pi + 1 < r.ci + x.outSize 8
  .next (
    if !x.on EVQ_CFG.EN || x.on RING_ERR.EVQ_ERR then s.setSide sd x.dropEvent
    else if !s.dmaWorks sd then s
    else match x.host.overflow with
    | some t =>
      if room then
        (s.writeEntry sd 8 ⟨0, stOK, 0x11, t, 0, false, x.host.dropped, 0⟩ true).mod sd (fun x =>
          { x with host := { x.host with overflow := none, dropped := 0 } })
      else s.setSide sd x.dropEvent
    | none =>
      match x.host.events with
      | [] => s
      | e :: rest =>
        if room then
          (s.writeEntry sd 8 e ([0x0E, 0x10].contains e.code)).mod sd (fun x => { x with host := { x.host with events := rest } })
        else s.setSide sd { x.dropEvent with host := { x.dropEvent.host with overflow := some x.now } })

/-- R281: the moderation timer of an out-ring runs: an entry is not yet signalled, and MOD_COUNT and MOD_TIME are not 0. -/
def Side.modTimed (x : Side) (n : Nat) : Bool :=
  decide (0 < (x.outRing n).count) && bitsOf (x.outCfg n) 25 18 != 0 && bitsOf (x.outCfg n) 17 8 != 0

/-- MOD_TIME (R281): the moderation time of an out-ring has passed since its first entry not yet signalled. -/
def execModTime (sd : SideId) (src : Fin 25) (s : State) : Host.Outcome State Fault Refusal :=
  .next (if (s.side sd).modTimed src.val && s.dmaWorks sd then s.ringSignal sd src.val else s)

/-- REMOTE_COMPLETION (R274): the oldest completion on its way to a side arrives with REMOTE = 1. -/
def execRemoteCompletion (sd : SideId) (s : State) : Host.Outcome State Fault Refusal :=
  .next (if !s.keel.up then s
    else match s.keel.dones.find? (fun d => d.1 == sd) with
    | some d =>
      ({ s with keel := { s.keel with dones := s.keel.dones.erase d } } : State).mod sd (fun x => x.deliver d.2.1 d.2.2.1 d.2.2.2.1 d.2.2.2.2)
    | none => s)

end Sys2Proof.Machine
end

