-- ==== Sys2Proof/Machine/Flags.lean ====
section
/-! DEFINITION. The sticky flags of a Cox core: saturation (R336) and the wrap counts of accumulators (R339). Each operation answers
its value and whether it sets a flag. -/

namespace Sys2Proof.Machine

/-- R336: a value saturated to 36 bits, and whether it was clamped. -/
def sat36 (v : Int) : Word × Bool := (wordOf (satS 36 v), clipS 36 v)

/-- An accumulator part as a held value of n bits and a wrap count. -/
structure Held where
  v : Int
  w : Int
  deriving DecidableEq, Repr

/-- R339: the true value of an accumulator part of n bits. -/
def Held.true_ (n : Nat) (h : Held) : Int := h.v + h.w * (2 ^ n : Nat)

/-- R339: the part that holds a true value: its held bits and wrap count; true where the count would leave −8 … 7. -/
def settle (n : Nat) (t : Int) : Held × Bool :=
  let v := sx n (ux n t)
  let w := (t - v) / ((2 ^ n : Nat) : Int)
  if w > 7 then (⟨v, 7⟩, true) else if w < -8 then (⟨v, -8⟩, true) else (⟨v, w⟩, false)

/-- The whole of an accumulator. -/
def Acc.whole (a : Acc) : Held := ⟨a.v.toInt, a.w⟩
/-- Its low half (R337). -/
def Acc.lo (a : Acc) : Held := ⟨sx 44 a.v.toNat, a.wLo⟩
/-- Its high half. -/
def Acc.hi (a : Acc) : Held := ⟨sx 44 (a.v.toNat / 2 ^ 44), a.wHi⟩

/-- The accumulator with its whole replaced. -/
def Acc.putWhole (a : Acc) (h : Held) : Acc := { a with v := BitVec.ofInt 88 h.v, w := h.w }

/-- The accumulator with its halves replaced. -/
def Acc.putHalves (a : Acc) (hi lo : Held) : Acc :=
  { a with v := BitVec.ofNat 88 (ux 44 hi.v * 2 ^ 44 + ux 44 lo.v), wHi := hi.w, wLo := lo.w }

/-- The accumulator with its wrap counts cleared. -/
def Acc.noWraps (a : Acc) : Acc := { a with w := 0, wLo := 0, wHi := 0 }

/-- The sum of a true value and a term, in an accumulator part of n bits, and whether GOV is set. -/
def Held.add (n : Nat) (h : Held) (t : Int) : Held × Bool := settle n (h.true_ n + t)

/-- R338: a part shifted right by SH, rounded half to even or toward −∞. -/
def shiftRnd (rnd : Bool) (sh : Nat) (v : Int) : Int := if rnd then rheP v sh else floorDiv v (2 ^ sh)

end Sys2Proof.Machine
end

