-- ==== Sys2Proof/Machine/Operands.lean ====
section
/-! DEFINITION. Operands of Cox core instructions: the active register set, reads under the hazards of R340, address registers and
their modification (R334), control registers (R332). -/

namespace Sys2Proof.Machine

/-! ### Registers under hazards (R340) -/

/-- No hazard is open. -/
def Hazard.none : Hazard := ⟨[], [], [], []⟩

/-- The active set changed. -/
def Core.modAct (k : Core) (f : RegSet → RegSet) : Core :=
  if k.ctx then { k with shadow := f k.shadow } else { k with main := f k.main }

/-- The value register g holds. -/
def Core.gHeld (k : Core) (g : Nat) : Word := lget k.act.g g 0

/-- R340: register g as any reader other than a branch sees it: the old value just after a local load. -/
def Core.g (k : Core) (g : Nat) : Word := (aget k.hz.ldOld g).getD (k.gHeld g)

/-- R340: register g as a branch test sees it: the old value just after an ALU operation, MOVI, MFC or a local load. -/
def Core.gBranch (k : Core) (g : Nat) : Word := (aget k.hz.aluOld g).getD (k.g g)

/-- The accumulator a register set holds. -/
def Core.accHeld (k : Core) (i : Nat) : Acc := lget k.act.acc i ⟨0, 0, 0, 0⟩

/-- R340: an accumulator as an ACC operation sees it: the value before a MAC just issued. -/
def Core.acc (k : Core) (i : Nat) : Acc := (aget k.hz.accOld i).getD (k.accHeld i)

/-- Register g of a set written, with its residue code (R349). -/
def RegSet.putG (r : RegSet) (g : Nat) (v : Word) : RegSet := { r with g := lset r.g g v, gr := lset r.gr g (residue v.toInt) }

/-- Register g written. -/
def Core.putG (k : Core) (g : Nat) (v : Word) : Core := k.modAct (fun r => r.putG g v)

/-- Register g written by an ALU operation, MOVI or MFC: a branch just after sees the old value. -/
def Core.putAlu (k : Core) (g : Nat) (v : Word) : Core :=
  { k.putG g v with hz := { k.hz with aluOld := aput k.hz.aluOld g (k.gHeld g) } }

/-- Register g written by a local load: any reader just after sees the old value. -/
def Core.putLoad (k : Core) (g : Nat) (v : Word) : Core :=
  { k.putG g v with hz := { k.hz with ldOld := aput k.hz.ldOld g ((aget k.hz.ldOld g).getD (k.gHeld g)) } }

/-- An accumulator written, with the residue codes of its halves (R349). -/
def Core.putAcc (k : Core) (i : Nat) (a : Acc) : Core :=
  k.modAct (fun r => { r with acc := lset r.acc i a, ar := lset r.ar i (residue a.hi.v, residue a.lo.v) })

/-- An accumulator written by a MAC. -/
def Core.putMac (k : Core) (i : Nat) (a : Acc) : Core :=
  { k.putAcc i a with hz := { k.hz with accOld := aput k.hz.accOld i (k.accHeld i) } }

/-- R333: sticky flags set. -/
def Core.setSat (k : Core) (b : Bool) : Core := k.modAct (fun r => { r with sat := r.sat || b })
def Core.setGov (k : Core) (b : Bool) : Core := k.modAct (fun r => { r with gov := r.gov || b })
def Core.setPsn (k : Core) (b : Bool) : Core := k.modAct (fun r => { r with psn := r.psn || b })

/-! ### Addresses (R334) -/

/-- R340: an address register, modifier or long address as address generation sees it: keys 0 to 7 for x0 to y3, 8 to 15 for AMOD, 16
to 19 for la. -/
def Core.ag (k : Core) (key : Nat) : Nat :=
  (aget k.hz.agOld key).getD
    (if key < 8 then lget k.act.xy key 0 else if key < 16 then lget k.amod (key - 8) 0 else lget k.la (key - 16) 0)

/-- MODE, STEP and M of a modifier. -/
def amMode (a : Nat) : Nat := bitsOf a 35 34
def amStep (a : Nat) : Int := sx 13 (bitsOf a 33 21)
def amLen (a : Nat) : Nat := bitsOf a 20 8 + 1

/-- The least power of two that is not below M. -/
def ceilPow (m : Nat) : Nat := if 2 ^ log2n m == m then m else 2 ^ (log2n m + 1)

/-- R334: the access halts the core. -/
def amBad (a : Nat) : Bool := amMode a == 3 || (amMode a == 2 && ceilPow (amLen a) != amLen a)

/-- The low k bits of n reversed. -/
def revBits (k n : Nat) : Nat := maskN k (fun i => bitAt n (k - 1 - i))

/-- R334: next(r, amt). -/
def nextAddr (a r : Nat) (amt : Int) : Nat :=
  let m := amLen a
  let kk := ceilPow m
  let b := r - r % kk
  match amMode a with
  | 0 => ux 13 ((r : Int) + amt)
  | 1 => (b + (((r % kk : Nat) + amt) % (m : Int)).toNat) % 8192
  | _ => (b + revBits (log2n m) ((revBits (log2n m) (r % kk) + revBits (log2n m) (amt % (m : Int)).toNat) % m)) % 8192

/-- R335: the amount of a MOD field. -/
def modAmt (a md : Nat) : Int :=
  match md with
  | 0 => 0
  | 1 => 1
  | 2 => amStep a
  | _ => -amStep a

/-- The address an access through register r (0 to 7) uses. -/
def Core.addr (k : Core) (r : Nat) : Nat := k.ag r

/-- The register after the access. -/
def Core.postMod (k : Core) (old : Core) (r md : Nat) : Core :=
  if md == 0 then k
  else
    let a := old.ag (8 + r)
    k.modAct (fun s => { s with xy := lset s.xy r (nextAddr a (old.ag r) (modAmt a md)) })

/-! ### Control registers (R332) -/

/-- The status register as a word. -/
def RegSet.sr (r : RegSet) : Word := wordN (b2n r.sat * 2 ^ 35 + b2n r.gov * 2 ^ 34 + b2n r.psn * 2 ^ 33)

/-- TBUSY. -/
def Core.tbusy (k : Core) : Nat := maskN 16 (fun t => k.ops.any (fun o => o.tag == t))

/-- The value MFC reads; `x` is the core's side and c its number. -/
def Side.mfc (x : Side) (c creg : Nat) : Word :=
  let k := x.coreOf c
  if creg < 8 then wordN (lget k.act.xy creg 0)
  else if creg < 16 then wordN (lget k.amod (creg - 8) 0)
  else if 20 ≤ creg && creg < 28 then
    (let a := lget k.la ((creg - 20) / 2) 0
     if creg % 2 == 0 then wordN a else wordN (a / 2 ^ 36))
  else match creg with
    | 16 => k.act.sr
    | 17 => wordN k.imask
    | 18 => wordN k.ipend
    | 19 => wordN k.ipc
    | 28 => wordN k.tbusy
    | 29 => wordN k.tsel
    | 30 => wordN (lget k.tagSt k.tsel 0)
    | 31 => x.reg (COXCORE_MBOX_IN.whole c).idx
    | 32 => x.reg (COXCORE_MBOX_OUT.whole c).idx
    | 33 => wordN k.alarmLo
    | 34 => wordN k.alarmHi
    | 35 => wordN x.now
    | 36 => wordN k.rtHi
    | 37 => wordN (x.who.n * 4 + c)
    | 38 => wordN k.act.loops.length
    | _ => 0

/-- What MFC of a register does beside reading it: RT_LO captures RT_HI. -/
def Side.mfcEffect (x : Side) (c creg : Nat) : Side :=
  if creg == 35 then x.modCore c (fun k => { k with rtHi := x.now / 2 ^ 36 % 2 ^ 36 }) else x

/-- MTC of a register that address generation reads: the next instruction sees the old value (R340). -/
def Core.agHazard (k : Core) (key : Nat) : Core :=
  { k with hz := { k.hz with agOld := aput k.hz.agOld key ({ k with hz := Hazard.none }.ag key) } }

/-- A core after MTC of a register of its own. Read-only registers ignore it. -/
def Core.mtc (k : Core) (creg : Nat) (v : Nat) : Core :=
  if creg < 8 then (k.agHazard creg).modAct (fun r => { r with xy := lset r.xy creg (v % 8192) })
  else if creg < 16 then { k.agHazard creg with amod := lset k.amod (creg - 8) (v / 256 * 256) }
  else if 20 ≤ creg && creg < 28 then
    (let i := (creg - 20) / 2
     let a := lget k.la i 0
     { k.agHazard (16 + i) with la := lset k.la i (if creg % 2 == 0 then a / 2 ^ 36 * 2 ^ 36 + v else v % 256 * 2 ^ 36 + a % 2 ^ 36) })
  else match creg with
    | 16 => k.modAct (fun r => { r with sat := bitAt v 35, gov := bitAt v 34, psn := bitAt v 33 })
    | 17 => { k with imask := v % 65536 }
    | 18 => { k with ipend := maskN 16 (fun i => bitAt k.ipend i && !bitAt v i) }
    | 19 => { k with ipc := v % 8192 }
    | 29 => { k with tsel := v % 16 }
    | 33 => { k with alarmLo := v, armed := true }
    | 34 => { k with alarmHi := v }
    | _ => k

/-- MTC by core c: a register of the core, or MBOX_OUT. -/
def Side.mtc (x : Side) (c creg : Nat) (v : Word) : Side :=
  if creg == 32 then x.setReg (COXCORE_MBOX_OUT.whole c).idx v else x.modCore c (fun k => k.mtc creg v.toNat)

end Sys2Proof.Machine
end

