-- ==== Sys2Proof/Machine/Cox.lean ====
section
/-! DEFINITION. The Cox cores: issue of an instruction, its checks and the program counter (R335, R340 to R343, R347); the ALU, MAC,
LOCAL, ACC, CTRL and LONG classes (R336 to R339, R341, R342, R344, R345); interrupts (R346 to R348); loading, starting and switching
(R350 to R353). -/

namespace Sys2Proof.Machine

/-! ### Issue -/

/-- R328: a core's fixed-function source. -/
def coreSrc (c : Nat) : Nat := srcOf 5 1 (16 + c)

/-- The Cox cluster of a side is clocked. -/
def State.coxRuns (s : State) (sd : SideId) : Bool := !s.held && (s.side sd).islRuns coxSrc

/-- R347: the lowest pending source with its IMASK bit set. -/
def Core.dueSrc (k : Core) : Option Nat := (List.range 16).find? (fun i => bitAt k.ipend i && bitAt k.imask i)

/-- The next instruction is one of the last two of the loop body in progress. -/
def Core.bodyEnd (k : Core) : Bool :=
  match k.act.loops with
  | [] => false
  | l :: _ => k.pc == l.last || (k.pc + 1 == l.last && l.start ≤ k.pc)

/-- R347: the boundary is eligible. -/
def Core.eligible (k : Core) : Bool := k.st != 0 && !k.ctx && !k.inSlot && (k.st == 2 || k.waitTag.isSome || !k.bodyEnd)

/-- R347: an interrupt is taken before the next instruction. -/
def Core.intDue (k : Core) : Bool := k.eligible && k.dueSrc.isSome

/-- A core issues: it runs, no HALT waits for its tags (R352), and no interrupt comes first. -/
def State.mayIssue (s : State) (sd : SideId) (c : Nat) : Bool :=
  let k := (s.side sd).coreOf c
  s.coxRuns sd && k.st != 0 && k.halts.isEmpty && !k.intDue

/-- The word at a core's PC: none from a poisoned block (R343). -/
def Side.fetch (x : Side) (c : Nat) : Side × Option Word :=
  let k := x.coreOf c
  let r := x.readWord .cox (coxBase c k.bank + k.pc % 8192)
  (r.1, if r.2.2 then none else some r.2.1)

/-! ### Checks (R342, R343) -/

/-- R341: an instruction with a delay slot. -/
def isBranch : Instr → Bool
  | .bra .. => true
  | .beqz .. => true
  | .bnez .. => true
  | .bltz .. => true
  | .bgez .. => true
  | .call .. => true
  | .ret .. => true
  | .rti .. => true
  | .brar .. => true
  | _ => false

/-- R343: not allowed in a delay slot. -/
def notInSlot (i : Instr) : Bool :=
  isBranch i || (match i with
    | .loop .. => true
    | .loopr .. => true
    | .halt .. => true
    | .wait .. => true
    | _ => false)

/-- R342, R343: the checks of a LOOP with its COUNT and END. -/
def Core.loopBad (k : Core) (count last : Nat) : Option Nat :=
  if last ≤ k.pc || (match k.act.loops with
      | [] => false
      | l :: _ => decide (last ≥ l.last)) then some 4
  else if count != 0 && k.act.loops.length ≥ 3 then some 5
  else none

/-- R334: an access through address register r halts the core. -/
def Core.agBad (k : Core) (r : Nat) : Bool := amBad (k.ag (8 + r))

/-- The address register of a LOCAL access: x or y. -/
def localReg (y : Bool) (j : Fin 4) : Nat := (if y then 4 else 0) + j.val

/-- R334: a LOCAL access halts the core. -/
def Core.localBad (k : Core) (y : Bool) : LocalAddr → Bool
  | .ind j _ => k.agBad (localReg y j)
  | .dir _ => false

/-- R343: the cause with which the core halts on an instruction; none if it executes. -/
def Core.violation (k : Core) (i : Instr) : Option Nat :=
  if notInSlot i && k.inSlot then some 4
  else if isBranch i && (k.act.loops.head?).any (fun l => l.last == k.pc) then some 4
  else
    let mac := fun (o : MacArgs) => if (o.x.en && k.agBad o.x.k.val) || (o.y.en && k.agBad (4 + o.y.k.val)) then some 4 else none
    let local_ := fun y a => if k.localBad y a then some 4 else none
    match i with
    | .loop _ _ n e => k.loopBad n.toNat e.toNat
    | .loopr _ _ g e => k.loopBad ((k.gBranch g.val).toNat % 65536) e.toNat
    | .call .. => if k.calls.length ≥ 8 then some 6 else none
    | .ret .. => if k.calls.isEmpty then some 6 else none
    | .mpy _ _ o => mac o
    | .mac _ _ o => mac o
    | .msu _ _ o => mac o
    | .mpys _ _ o => mac o
    | .macs _ _ o => mac o
    | .msus _ _ o => mac o
    | .macx _ _ o => mac o
    | .nomac _ _ o => mac o
    | .ldx _ _ _ a => local_ false a
    | .stx _ _ _ a => local_ false a
    | .ldy _ _ _ a => local_ true a
    | .sty _ _ _ a => local_ true a
    | _ => none

/-- Leading zeros of a word. -/
def leadZeros (a : Word) : Nat := if a == 0 then 36 else 35 - log2n a.toNat

/-- Two halves, each a sum or difference modulo 2^18. -/
def halves (f : Int → Int → Int) (a b : Word) : Word :=
  smpW (f (smpI a) (smpI b)) (f (smpQ a) (smpQ b))

/-! ### Residues (R349) -/

/-- R349: a result that wraps modulo 2^n: c wraps change its residue by −c. -/
def RVal.wrap (n : Nat) (a : RVal) : RVal :=
  let v := sx n (ux n a.v)
  ⟨v, resOf (a.r < 3) (a.r + 3 - residue ((a.v - v) / (2 ^ n : Nat)))⟩

/-- Register g as a reader sees it, with its residue code. -/
def Core.gR (k : Core) (g : Nat) : RVal :=
  match aget k.hz.ldOld g with
  | some w => RVal.of w.toInt
  | none => ⟨(k.gHeld g).toInt, lget k.act.gr g 0⟩

/-- Register g passes its checker. -/
def Core.gOk (k : Core) (g : Fin 16) : Bool := (k.gR g.val).ok

/-- Operand B of an ALU instruction with its residue; an immediate's is formed as it enters. -/
def Core.bR (k : Core) (signed : Bool) : AluB → RVal
  | .reg b => k.gR b.val
  | .imm v => RVal.of (if signed then v.toInt else v.toNat)

/-- The operands of an ALU instruction pass their checkers, and its arithmetic result, with the residue that R119 forms, does. -/
def Core.aluOk (k : Core) (o : AluArgs) (f : RVal → RVal → RVal) : Bool :=
  k.gOk o.a && (k.bR true o.b).ok && (RVal.wrap 36 (f (k.gR o.a.val) (k.bR true o.b))).ok

/-- The operands of an ALU instruction that is computed twice pass their checkers, and both results agree. -/
def Core.twinOk (k : Core) (o : AluArgs) (signed : Bool) (f : Word → Word → Bool) : Bool :=
  let b := match o.b with
    | .reg b => k.g b.val
    | .imm v => if signed then v.signExtend 36 else v.setWidth 36
  k.gOk o.a && (k.bR signed o.b).ok && f (k.g o.a.val) b

/-- The halves of an accumulator with their residues. -/
def accHalves (a : Acc) (r : Nat × Nat) : RVal × RVal := (⟨a.hi.v, r.1⟩, ⟨a.lo.v, r.2⟩)

/-- The halves of accumulator i as a MAC reads it. -/
def Core.macR (k : Core) (i : Nat) : RVal × RVal := accHalves (k.accHeld i) (lget k.act.ar i (0, 0))

/-- The halves of accumulator i as an ACC operation reads it. -/
def Core.accR (k : Core) (i : Nat) : RVal × RVal :=
  match aget k.hz.accOld i with
  | some a => (RVal.of a.hi.v, RVal.of a.lo.v)
  | none => k.macR i

/-- R339, R349: the true value of a part of n bits with wrap count w: 2^n ≡ 1. -/
def trueR (n : Nat) (h : RVal) (w : Int) : RVal := h.add (RVal.mul (RVal.of w) (RVal.of (2 ^ n : Nat)))

/-- The whole of an accumulator out of its halves: the high half takes up the low half's sign. -/
def wholeR (h : RVal × RVal) : RVal := RVal.wrap 88 ((h.1.shl 44).add (h.2.add (RVal.of (if h.2.v < 0 then (2 ^ 44 : Nat) else 0))))

/-- R339: parts of an accumulator by mode: width, value with residue, wrap count. -/
def partsR (pair : Bool) (a : Acc) (h : RVal × RVal) : List (Nat × RVal × Int) :=
  if pair then [(44, h.1, a.wHi), (44, h.2, a.wLo)] else [(88, wholeR h, a.w)]

/-- R337: the residues of the 18-bit fields of an operand: the high one's is formed from the word's and the low one's. -/
def fieldsR (g : RVal) (w : Word) : RVal × RVal :=
  let lo := RVal.of (smpQ w)
  (⟨smpI w, resOf (g.r < 3) (g.r + 3 - lo.r + (if smpQ w < 0 then 2 else 0))⟩, lo)

/-- A MAC instruction's products, by part. -/
def Core.prodR (k : Core) (o : MacArgs) (pair cross : Bool) : List RVal :=
  let x := k.gR o.a.val
  let y := k.gR o.b.val
  if pair then
    let fx := fieldsR x (k.g o.a.val)
    let fy := fieldsR y (k.g o.b.val)
    [fx.1.mul (if cross then fy.2 else fy.1), fx.2.mul (if cross then fy.1 else fy.2)]
  else [x.mul y]

/-- The operands of a MAC instruction pass their checkers, and so do its products and its sums, compensated for the change in w. -/
def Core.macOk (k : Core) (o : MacArgs) (pair cross add : Bool) (sub : Bool) : Bool :=
  let old := if add then partsR pair (k.accHeld o.acc.val) (k.macR o.acc.val)
    else (if pair then [(44, RVal.of 0, (0 : Int)), (44, RVal.of 0, 0)] else [(88, RVal.of 0, 0)])
  k.gOk o.a && k.gOk o.b && (!o.x.en || !o.x.st || k.gOk o.x.g) &&
    (old.zip (k.prodR o pair cross)).all (fun p =>
      let t := trueR p.1.1 p.1.2.1 p.1.2.2
      p.2.ok && (RVal.wrap p.1.1 (if sub then t.sub p.2 else t.add p.2)).ok)

/-- The accumulator an ACC instruction reads passes its checkers; `f` judges each part: width, true value, held value. -/
def Core.accOk (k : Core) (o : AccArgs) (f : Nat → RVal → RVal → Bool) : Bool :=
  (partsR o.pair (k.acc o.acc.val) (k.accR o.acc.val)).all (fun p => p.2.1.ok && f p.1 (trueR p.1 p.2.1 p.2.2) p.2.1)

/-- R349, R120: a rounding shift of STSAT or ASR. -/
def shiftOk (o : AccArgs) (v : RVal) : Bool := !o.rnd || o.sh == 0 || (v.shr o.sh.toNat).ok

/-- ADDA and SUBA: both accumulators, part by part. -/
def Core.addAccOk (k : Core) (o : AccArgs) (sub : Bool) : Bool :=
  let a := partsR o.pair (k.acc o.acc.val) (k.accR o.acc.val)
  let j := o.g.val % 4
  let b := partsR o.pair (k.acc j) (k.accR j)
  (a.zip b).all (fun p =>
    let t := trueR p.1.1 p.1.2.1 p.1.2.2
    let u := trueR p.2.1 p.2.2.1 p.2.2.2
    p.1.2.1.ok && p.2.2.1.ok && (RVal.wrap p.1.1 (if sub then t.sub u else t.add u)).ok)

/-- R349: everything an instruction reads and forms on a core passes its checkers. -/
def Core.checks (k : Core) (i : Instr) : Bool :=
  let two := fun (o : AluArgs) (f : Int → Int → Int) => k.twinOk o false (fun a b =>
    halves f a b == wordN (ux 18 (f (bitsOf a.toNat 35 18) (bitsOf b.toNat 35 18)) * 2 ^ 18 + ux 18 (f (bitsOf a.toNat 17 0) (bitsOf b.toNat 17 0))))
  match i with
  | .add _ _ o => k.aluOk o RVal.add
  | .sub _ _ o => k.aluOk o RVal.sub
  | .adds _ _ o => k.aluOk o RVal.add && k.twinOk o true (fun a b => (sat36 (a.toInt + b.toInt)).1.toInt == max (-2 ^ 35) (min (2 ^ 35 - 1) (a.toInt + b.toInt)))
  | .subs _ _ o => k.aluOk o RVal.sub && k.twinOk o true (fun a b => (sat36 (a.toInt - b.toInt)).1.toInt == max (-2 ^ 35) (min (2 ^ 35 - 1) (a.toInt - b.toInt)))
  | .and _ _ o => k.twinOk o false (fun a b => (a &&& b) == ~~~(~~~a ||| ~~~b))
  | .or _ _ o => k.twinOk o false (fun a b => (a ||| b) == ~~~(~~~a &&& ~~~b))
  | .xor _ _ o => k.twinOk o false (fun a b => (a ^^^ b) == ((a ||| b) &&& ~~~(a &&& b)))
  | .not _ _ o => k.gOk o.a
  | .neg _ _ o => k.gOk o.a && (RVal.wrap 36 (k.gR o.a.val).neg).ok
  | .abs _ _ o => k.gOk o.a
  | .min _ _ o => k.twinOk o true (fun a b => (if a.toInt ≤ b.toInt then a else b) == (if b.slt a then b else a))
  | .max _ _ o => k.twinOk o true (fun a b => (if a.toInt ≤ b.toInt then b else a) == (if b.slt a then a else b))
  | .mov _ _ o => k.gOk o.a
  | .shl _ _ o => k.twinOk o false (fun a b => (a <<< (b.toNat % 64)) == wordN (a.toNat * 2 ^ (b.toNat % 64)))
  | .shra _ _ o => k.twinOk o false (fun a b => a.sshiftRight (b.toNat % 64) == wordOf (floorDiv a.toInt (2 ^ (b.toNat % 64))))
  | .shrl _ _ o => k.twinOk o false (fun a b => (a >>> (b.toNat % 64)) == wordN (a.toNat / 2 ^ (b.toNat % 64)))
  | .lzc _ _ o => k.gOk o.a && leadZeros (k.g o.a.val) == ((List.range 36).filter (fun j => decide ((k.g o.a.val).toNat < 2 ^ j))).length
  | .addh _ _ o => two o (· + ·)
  | .subh _ _ o => two o (· - ·)
  | .pack _ _ o => k.twinOk o false (fun _ _ => true)
  | .seq _ _ o => k.twinOk o true (fun a b => (a == b) == (a ^^^ b == 0))
  | .slt _ _ o => k.twinOk o true (fun a b => a.slt b == decide (a.toInt - b.toInt < 0))
  | .sltu _ _ o => k.twinOk o false (fun a b => a.ult b == decide ((a.toNat : Int) - b.toNat < 0))
  | .movi _ _ d hi _ => !hi || k.gOk d
  | .mpy _ _ o => k.macOk o false false false false
  | .mac _ _ o => k.macOk o false false true false
  | .msu _ _ o => k.macOk o false false true true
  | .mpys _ _ o => k.macOk o true false false false
  | .macs _ _ o => k.macOk o true false true false
  | .msus _ _ o => k.macOk o true false true true
  | .macx _ _ o => k.macOk o true true true false
  | .nomac _ _ o => !o.x.en || !o.x.st || k.gOk o.x.g
  | .stx _ _ g _ => k.gOk g
  | .sty _ _ g _ => k.gOk g
  | .lda _ _ o => k.gOk o.g
  | .stsat _ _ o => k.accOk o (fun n t _ =>
      let w := if n == 44 then 18 else 36
      let v := shiftRnd o.rnd o.sh.toNat t.v
      shiftOk o t && satS w v == max (-2 ^ (w - 1)) (min (2 ^ (w - 1) - 1) v))
  | .mova _ _ o => k.accOk o (fun _ _ _ => true)
  | .adda _ _ o => k.addAccOk o false
  | .suba _ _ o => k.addAccOk o true
  | .asr _ _ o => k.accOk o (fun _ _ h => shiftOk o h)
  | .nega _ _ o => k.accOk o (fun n t _ => (RVal.wrap n t.neg).ok)
  | .beqz _ _ g _ => (aget k.hz.aluOld g.val).isSome || k.gOk g
  | .bnez _ _ g _ => (aget k.hz.aluOld g.val).isSome || k.gOk g
  | .bltz _ _ g _ => (aget k.hz.aluOld g.val).isSome || k.gOk g
  | .bgez _ _ g _ => (aget k.hz.aluOld g.val).isSome || k.gOk g
  | .brar _ _ g => (aget k.hz.aluOld g.val).isSome || k.gOk g
  | .loopr _ _ g _ => (aget k.hz.aluOld g.val).isSome || k.gOk g
  | .sig _ _ g => k.gOk g
  | .stl _ _ o => k.gOk o.g
  | .bldx _ _ o => k.gOk o.g
  | .bstx _ _ o => k.gOk o.g
  | .bldy _ _ o => k.gOk o.g
  | .bsty _ _ o => k.gOk o.g
  | .mtc _ _ _ g => k.gOk g
  | _ => true

/-! ### The program counter (R341, R342) -/

/-- The loop stack of the active set replaced. -/
def Core.setLoops (k : Core) (l : List Loop) : Core := k.modAct (fun r => { r with loops := l })

/-- R342: the next address, with the loop in progress followed. -/
def Core.seqNext (k : Core) : Core :=
  match k.act.loops with
  | l :: rest =>
    if k.pc == l.last then
      (if l.left > 1 then { k.setLoops ({ l with left := l.left - 1 } :: rest) with pc := l.start }
       else { k.setLoops rest with pc := (k.pc + 1) % 8192 })
    else { k with pc := (k.pc + 1) % 8192 }
  | [] => { k with pc := (k.pc + 1) % 8192 }

/-- The PC after an instruction: a delay slot ends with the branch it belongs to; that of RTI restores the main set (R348), which it leaves
under the hazards of the shared registers alone (R340). -/
def Core.advance (k : Core) : Core :=
  if !k.inSlot then k.seqNext
  else
    match k.slot with
    | none => { k with inSlot := false }.seqNext
    | some t =>
      let k := { k with pc := t, slot := none, inSlot := false }
      if k.rti then { k with rti := false, ctx := false, hz := { Hazard.none with agOld := k.hz.agOld.filter (fun p => decide (8 ≤ p.1)) } } else k

/-- A branch: its delay slot comes next, then the target if it is taken (R341). -/
def Core.branchTo (k : Core) (t : Option Nat) : Core := { k with pc := (k.pc + 1) % 8192, slot := t, inSlot := true }

/-- The core goes on after an instruction. -/
def Side.goOn (x : Side) (c : Nat) : Side := x.modCore c Core.advance

/-- An instruction issues on a core of a side if it is the one at the PC: `body` gets the core before it, whose hazards it reads under,
and the state in which they are past. R349: where a checker trips the core halts with cause 3. -/
def State.issue (s : State) (sd : SideId) (c : Fin 4) (i : Instr) (body : Core → State → State) : State :=
  let k := (s.side sd).coreOf c.val
  if !s.mayIssue sd c.val || (k.st == 2 && i != .wait sd c) then s
  else
    let r := (s.side sd).fetch c.val
    match r.2 with
    | none => s
    | some w =>
      if decodeCox sd c w != some i then s
      else
        match k.violation i with
        | some cause => s.setSide sd (r.1.trapCore c.val cause)
        | none =>
          if !k.checks i then s.setSide sd (r.1.trapCore c.val 3)
          else body k (s.setSide sd (r.1.modCore c.val (fun q => { q with hz := Hazard.none })))

/-- An instruction that acts on its side alone and goes on to the next. -/
def State.issueSide (s : State) (sd : SideId) (c : Fin 4) (i : Instr) (body : Core → Side → Side) : Host.Outcome State Fault Refusal :=
  .next (s.issue sd c i (fun k s => s.mod sd (fun x => (body k x).goOn c.val)))

/-- An instruction that acts on its core alone and sets its PC itself. -/
def State.issueCore (s : State) (sd : SideId) (c : Fin 4) (i : Instr) (body : Core → Core → Core) : Host.Outcome State Fault Refusal :=
  .next (s.issue sd c i (fun k s => s.mod sd (fun x => x.modCore c.val (body k))))

/-! ### ALU (R336) -/

/-- Operand B: a register, or IMM18 extended. -/
def Core.aluB (k : Core) (signed : Bool) : AluB → Word
  | .reg b => k.g b.val
  | .imm v => if signed then v.signExtend 36 else v.setWidth 36

/-- An ALU instruction: gD takes the result, SAT is set where it was clamped. -/
def aluBody (c : Nat) (o : AluArgs) (signed : Bool) (f : Word → Word → Word × Bool) (k : Core) (x : Side) : Side :=
  let r := f (k.g o.a.val) (k.aluB signed o.b)
  x.modCore c (fun q => (q.putAlu o.d.val r.1).setSat r.2)

/-- A shift count: B[5:0]. -/
def shCount (b : Word) : Nat := b.toNat % 64

def execAluNop (sd : SideId) (c : Fin 4) (o : AluArgs) (s : State) : Host.Outcome State Fault Refusal :=
  s.issueSide sd c (.aluNop sd c o) (fun _ x => x)

def execAdd (sd : SideId) (c : Fin 4) (o : AluArgs) (s : State) : Host.Outcome State Fault Refusal :=
  s.issueSide sd c (.add sd c o) (aluBody c.val o true (fun a b => (a + b, false)))

def execSub (sd : SideId) (c : Fin 4) (o : AluArgs) (s : State) : Host.Outcome State Fault Refusal :=
  s.issueSide sd c (.sub sd c o) (aluBody c.val o true (fun a b => (a - b, false)))

def execAdds (sd : SideId) (c : Fin 4) (o : AluArgs) (s : State) : Host.Outcome State Fault Refusal :=
  s.issueSide sd c (.adds sd c o) (aluBody c.val o true (fun a b => sat36 (a.toInt + b.toInt)))

def execSubs (sd : SideId) (c : Fin 4) (o : AluArgs) (s : State) : Host.Outcome State Fault Refusal :=
  s.issueSide sd c (.subs sd c o) (aluBody c.val o true (fun a b => sat36 (a.toInt - b.toInt)))

def execAnd (sd : SideId) (c : Fin 4) (o : AluArgs) (s : State) : Host.Outcome State Fault Refusal :=
  s.issueSide sd c (.and sd c o) (aluBody c.val o false (fun a b => (a &&& b, false)))

def execOr (sd : SideId) (c : Fin 4) (o : AluArgs) (s : State) : Host.Outcome State Fault Refusal :=
  s.issueSide sd c (.or sd c o) (aluBody c.val o false (fun a b => (a ||| b, false)))

def execXor (sd : SideId) (c : Fin 4) (o : AluArgs) (s : State) : Host.Outcome State Fault Refusal :=
  s.issueSide sd c (.xor sd c o) (aluBody c.val o false (fun a b => (a ^^^ b, false)))

def execNot (sd : SideId) (c : Fin 4) (o : AluArgs) (s : State) : Host.Outcome State Fault Refusal :=
  s.issueSide sd c (.not sd c o) (aluBody c.val o false (fun a _ => (~~~a, false)))

def execNeg (sd : SideId) (c : Fin 4) (o : AluArgs) (s : State) : Host.Outcome State Fault Refusal :=
  s.issueSide sd c (.neg sd c o) (aluBody c.val o false (fun a _ => (-a, false)))

def execAbs (sd : SideId) (c : Fin 4) (o : AluArgs) (s : State) : Host.Outcome State Fault Refusal :=
  s.issueSide sd c (.abs sd c o) (aluBody c.val o false (fun a _ => sat36 (a.toInt.natAbs : Int)))

def execMin (sd : SideId) (c : Fin 4) (o : AluArgs) (s : State) : Host.Outcome State Fault Refusal :=
  s.issueSide sd c (.min sd c o) (aluBody c.val o true (fun a b => (if a.toInt ≤ b.toInt then a else b, false)))

def execMax (sd : SideId) (c : Fin 4) (o : AluArgs) (s : State) : Host.Outcome State Fault Refusal :=
  s.issueSide sd c (.max sd c o) (aluBody c.val o true (fun a b => (if a.toInt ≤ b.toInt then b else a, false)))

def execMov (sd : SideId) (c : Fin 4) (o : AluArgs) (s : State) : Host.Outcome State Fault Refusal :=
  s.issueSide sd c (.mov sd c o) (aluBody c.val o true (fun a _ => (a, false)))

def execShl (sd : SideId) (c : Fin 4) (o : AluArgs) (s : State) : Host.Outcome State Fault Refusal :=
  s.issueSide sd c (.shl sd c o) (aluBody c.val o false (fun a b => (a <<< shCount b, false)))

def execShra (sd : SideId) (c : Fin 4) (o : AluArgs) (s : State) : Host.Outcome State Fault Refusal :=
  s.issueSide sd c (.shra sd c o) (aluBody c.val o false (fun a b => (a.sshiftRight (shCount b), false)))

def execShrl (sd : SideId) (c : Fin 4) (o : AluArgs) (s : State) : Host.Outcome State Fault Refusal :=
  s.issueSide sd c (.shrl sd c o) (aluBody c.val o false (fun a b => (a >>> shCount b, false)))

def execLzc (sd : SideId) (c : Fin 4) (o : AluArgs) (s : State) : Host.Outcome State Fault Refusal :=
  s.issueSide sd c (.lzc sd c o) (aluBody c.val o false (fun a _ => (wordN (leadZeros a), false)))

def execAddh (sd : SideId) (c : Fin 4) (o : AluArgs) (s : State) : Host.Outcome State Fault Refusal :=
  s.issueSide sd c (.addh sd c o) (aluBody c.val o false (fun a b => (halves (· + ·) a b, false)))

def execSubh (sd : SideId) (c : Fin 4) (o : AluArgs) (s : State) : Host.Outcome State Fault Refusal :=
  s.issueSide sd c (.subh sd c o) (aluBody c.val o false (fun a b => (halves (· - ·) a b, false)))

def execPack (sd : SideId) (c : Fin 4) (o : AluArgs) (s : State) : Host.Outcome State Fault Refusal :=
  s.issueSide sd c (.pack sd c o) (aluBody c.val o false (fun a b => (smpW (smpQ a) (smpQ b), false)))

def execSeq (sd : SideId) (c : Fin 4) (o : AluArgs) (s : State) : Host.Outcome State Fault Refusal :=
  s.issueSide sd c (.seq sd c o) (aluBody c.val o true (fun a b => (wordN (b2n (a == b)), false)))

def execSlt (sd : SideId) (c : Fin 4) (o : AluArgs) (s : State) : Host.Outcome State Fault Refusal :=
  s.issueSide sd c (.slt sd c o) (aluBody c.val o true (fun a b => (wordN (b2n (a.slt b)), false)))

def execSltu (sd : SideId) (c : Fin 4) (o : AluArgs) (s : State) : Host.Outcome State Fault Refusal :=
  s.issueSide sd c (.sltu sd c o) (aluBody c.val o false (fun a b => (wordN (b2n (a.ult b)), false)))

/-- MOVI (R335): HI = 0 gives the sign-extended immediate; HI = 1 replaces gD[35:18]. -/
def execMovi (sd : SideId) (c : Fin 4) (d : Fin 16) (hi : Bool) (v : BitVec 18) (s : State) : Host.Outcome State Fault Refusal :=
  s.issueSide sd c (.movi sd c d hi v) (fun k x =>
    x.modCore c.val (fun q => q.putAlu d.val
      (if hi then wordN (v.toNat * 2 ^ 18 + (k.g d.val).toNat % 2 ^ 18) else v.signExtend 36)))

/-! ### Local memories (R335, R345) -/

/-- The X or Y memory of a core. -/
def dataBase (c : Nat) (y : Bool) : Nat := coxBase c (if y then 3 else 2)

/-- An interrupt source raised on one core. -/
def Core.raise (k : Core) (i : Nat) : Core := if bitAt k.ipend i then k else { k with ipend := k.ipend + 2 ^ i }

/-- R345: a local read: from a poisoned block it gives zero, sets PSN and raises source 14. -/
def Side.localRead (x : Side) (c : Nat) (y : Bool) (a : Nat) : Side × Word :=
  let r := x.readWord .cox (dataBase c y + a % 8192)
  (if r.2.2 then r.1.modCore c (fun k => (k.setPsn true).raise 14) else r.1, r.2.1)

/-- A local write. -/
def Side.localWrite (x : Side) (c : Nat) (y : Bool) (a : Nat) (v : Word) : Side :=
  x.writeRange .cox portCox (dataBase c y + a % 8192) [v]

/-- A local access: a load into gG or a store of gG, at address a. -/
def localAt (c : Nat) (y store : Bool) (g a : Nat) (k : Core) (x : Side) : Side :=
  if store then x.localWrite c y a (k.g g)
  else
    let r := x.localRead c y a
    r.1.modCore c (fun q => q.putLoad g r.2)

/-- A LOCAL instruction. -/
def localBody (c : Nat) (y store : Bool) (g : Fin 16) (a : LocalAddr) (k : Core) (x : Side) : Side :=
  match a with
  | .dir d => localAt c y store g.val d.toNat k x
  | .ind j md => (localAt c y store g.val (k.addr (localReg y j)) k x).modCore c (fun q => q.postMod k (localReg y j) md.val)

def execLdx (sd : SideId) (c : Fin 4) (g : Fin 16) (a : LocalAddr) (s : State) : Host.Outcome State Fault Refusal :=
  s.issueSide sd c (.ldx sd c g a) (localBody c.val false false g a)

def execStx (sd : SideId) (c : Fin 4) (g : Fin 16) (a : LocalAddr) (s : State) : Host.Outcome State Fault Refusal :=
  s.issueSide sd c (.stx sd c g a) (localBody c.val false true g a)

def execLdy (sd : SideId) (c : Fin 4) (g : Fin 16) (a : LocalAddr) (s : State) : Host.Outcome State Fault Refusal :=
  s.issueSide sd c (.ldy sd c g a) (localBody c.val true false g a)

def execSty (sd : SideId) (c : Fin 4) (g : Fin 16) (a : LocalAddr) (s : State) : Host.Outcome State Fault Refusal :=
  s.issueSide sd c (.sty sd c g a) (localBody c.val true true g a)

/-! ### MAC (R337) -/

/-- The parallel moves: if both load the same g, the Y value is kept. -/
def macMoves (c : Nat) (o : MacArgs) (k : Core) (x : Side) : Side :=
  let x := if o.x.en then
      (localAt c false o.x.st o.x.g.val (k.addr o.x.k.val) k x).modCore c (fun q => q.postMod k o.x.k.val o.x.md.val)
    else x
  if o.y.en then
    (localAt c true false o.y.g.val (k.addr (4 + o.y.k.val)) k x).modCore c (fun q => q.postMod k (4 + o.y.k.val) o.y.md.val)
  else x

/-- A MAC instruction: `f` gives the accumulator from its value and the operands, and whether GOV is set. -/
def macBody (c : Nat) (o : MacArgs) (f : Acc → Word → Word → Acc × Bool) (k : Core) (x : Side) : Side :=
  let r := f (k.accHeld o.acc.val) (k.g o.a.val) (k.g o.b.val)
  macMoves c o k (x.modCore c (fun q => (q.putMac o.acc.val r.1).setGov r.2))

/-- Whole mode: the product, added with a factor. -/
def macWhole (sign : Int) (a : Acc) (x y : Word) : Acc × Bool :=
  let h := a.whole.add 88 (sign * (x.toInt * y.toInt))
  (a.putWhole h.1, h.2)

/-- Pair mode: a product for each half, added with a factor. -/
def macHalves (sign : Int) (cross : Bool) (a : Acc) (x y : Word) : Acc × Bool :=
  let hi := a.hi.add 44 (sign * (smpI x * (if cross then smpQ y else smpI y)))
  let lo := a.lo.add 44 (sign * (smpQ x * (if cross then smpI y else smpQ y)))
  (a.putHalves hi.1 lo.1, hi.2 || lo.2)

/-- An accumulator that holds zero. -/
def Acc.zero : Acc := ⟨0, 0, 0, 0⟩

def execMpy (sd : SideId) (c : Fin 4) (o : MacArgs) (s : State) : Host.Outcome State Fault Refusal :=
  s.issueSide sd c (.mpy sd c o) (macBody c.val o (fun _ x y => macWhole 1 Acc.zero x y))

def execMac (sd : SideId) (c : Fin 4) (o : MacArgs) (s : State) : Host.Outcome State Fault Refusal :=
  s.issueSide sd c (.mac sd c o) (macBody c.val o (macWhole 1))

def execMsu (sd : SideId) (c : Fin 4) (o : MacArgs) (s : State) : Host.Outcome State Fault Refusal :=
  s.issueSide sd c (.msu sd c o) (macBody c.val o (macWhole (-1)))

def execMpys (sd : SideId) (c : Fin 4) (o : MacArgs) (s : State) : Host.Outcome State Fault Refusal :=
  s.issueSide sd c (.mpys sd c o) (macBody c.val o (fun _ x y => macHalves 1 false Acc.zero x y))

def execMacs (sd : SideId) (c : Fin 4) (o : MacArgs) (s : State) : Host.Outcome State Fault Refusal :=
  s.issueSide sd c (.macs sd c o) (macBody c.val o (macHalves 1 false))

def execMsus (sd : SideId) (c : Fin 4) (o : MacArgs) (s : State) : Host.Outcome State Fault Refusal :=
  s.issueSide sd c (.msus sd c o) (macBody c.val o (macHalves (-1) false))

def execMacx (sd : SideId) (c : Fin 4) (o : MacArgs) (s : State) : Host.Outcome State Fault Refusal :=
  s.issueSide sd c (.macx sd c o) (macBody c.val o (macHalves 1 true))

def execNomac (sd : SideId) (c : Fin 4) (o : MacArgs) (s : State) : Host.Outcome State Fault Refusal :=
  s.issueSide sd c (.nomac sd c o) (macMoves c.val o)

/-! ### ACC (R338, R339) -/

/-- A part with a wrap count other than 0 sets GOV when its true value is read. -/
def Held.wrapped (h : Held) : Bool := h.w != 0

/-- An ACC instruction that changes its accumulator: each part by `f`, which answers whether GOV is set. -/
def accBody (c : Nat) (o : AccArgs) (f : Nat → Held → Held × Bool) (k : Core) (x : Side) : Side :=
  let a := k.acc o.acc.val
  let r : Acc × Bool := if o.pair then
      let hi := f 44 a.hi
      let lo := f 44 a.lo
      (a.putHalves hi.1 lo.1, hi.2 || lo.2)
    else
      let h := f 88 a.whole
      (a.putWhole h.1, h.2)
  x.modCore c (fun q => (q.putAcc o.acc.val r.1).setGov r.2)

def execClra (sd : SideId) (c : Fin 4) (o : AccArgs) (s : State) : Host.Outcome State Fault Refusal :=
  s.issueSide sd c (.clra sd c o) (fun _ x => x.modCore c.val (fun q => q.putAcc o.acc.val Acc.zero))

/-- LDA: sign-extended gG << SH; in pair mode each half from its field. -/
def execLda (sd : SideId) (c : Fin 4) (o : AccArgs) (s : State) : Host.Outcome State Fault Refusal :=
  s.issueSide sd c (.lda sd c o) (fun k x =>
    let g := k.g o.g.val
    let sh : Int := (2 ^ o.sh.toNat : Nat)
    let a := if o.pair then Acc.zero.putHalves ⟨smpI g * sh, 0⟩ ⟨smpQ g * sh, 0⟩ else Acc.zero.putWhole ⟨g.toInt * sh, 0⟩
    x.modCore c.val (fun q => q.putAcc o.acc.val a))

/-- An accumulator read into gG: `f` gives each part's result at its width. -/
def accRead (c : Nat) (o : AccArgs) (f : Nat → Nat → Held → Int × Bool) (k : Core) (x : Side) : Side :=
  let a := k.acc o.acc.val
  if o.pair then
    let hi := f 44 18 a.hi
    let lo := f 44 18 a.lo
    x.modCore c (fun q => ((q.putG o.g.val (smpW hi.1 lo.1)).setGov (a.hi.wrapped || a.lo.wrapped)).setSat (hi.2 || lo.2))
  else
    let h := f 88 36 a.whole
    x.modCore c (fun q => ((q.putG o.g.val (wordOf h.1)).setGov a.whole.wrapped).setSat h.2)

/-- STSAT: the true value shifted and clamped; R339: with a wrap count other than 0 it counts as clamped. -/
def execStsat (sd : SideId) (c : Fin 4) (o : AccArgs) (s : State) : Host.Outcome State Fault Refusal :=
  s.issueSide sd c (.stsat sd c o) (accRead c.val o (fun n w h =>
    let v := shiftRnd o.rnd o.sh.toNat (h.true_ n)
    (satS w v, clipS w v || h.wrapped)))

/-- MOVA: held bits, without saturation. -/
def execMova (sd : SideId) (c : Fin 4) (o : AccArgs) (s : State) : Host.Outcome State Fault Refusal :=
  s.issueSide sd c (.mova sd c o) (accRead c.val o (fun _ _ h => (floorDiv h.v (2 ^ o.sh.toNat), false)))

/-- ADDA and SUBA: true values of both accumulators. -/
def addAcc (sign : Int) (c : Nat) (o : AccArgs) (k : Core) (x : Side) : Side :=
  let b := k.acc (o.g.val % 4)
  let part := fun (n : Nat) (h t : Held) =>
    let r := settle n (h.true_ n + sign * t.true_ n)
    (r.1, r.2 || h.wrapped || t.wrapped)
  let a := k.acc o.acc.val
  let r : Acc × Bool := if o.pair then
      let hi := part 44 a.hi b.hi
      let lo := part 44 a.lo b.lo
      (a.putHalves hi.1 lo.1, hi.2 || lo.2)
    else
      let h := part 88 a.whole b.whole
      (a.putWhole h.1, h.2)
  x.modCore c (fun q => (q.putAcc o.acc.val r.1).setGov r.2)

def execAdda (sd : SideId) (c : Fin 4) (o : AccArgs) (s : State) : Host.Outcome State Fault Refusal :=
  s.issueSide sd c (.adda sd c o) (addAcc 1 c.val o)

def execSuba (sd : SideId) (c : Fin 4) (o : AccArgs) (s : State) : Host.Outcome State Fault Refusal :=
  s.issueSide sd c (.suba sd c o) (addAcc (-1) c.val o)

/-- ASR: the held bits shifted; the wrap count is cleared. -/
def execAsr (sd : SideId) (c : Fin 4) (o : AccArgs) (s : State) : Host.Outcome State Fault Refusal :=
  s.issueSide sd c (.asr sd c o) (accBody c.val o (fun n h => (⟨sx n (ux n (shiftRnd o.rnd o.sh.toNat h.v)), 0⟩, h.wrapped)))

def execNega (sd : SideId) (c : Fin 4) (o : AccArgs) (s : State) : Host.Outcome State Fault Refusal :=
  s.issueSide sd c (.nega sd c o) (accBody c.val o (fun n h => settle n (-(h.true_ n))))

/-! ### CTRL (R341, R342, R348) -/

/-- A conditional branch on gG. -/
def State.condBranch (s : State) (sd : SideId) (c : Fin 4) (i : Instr) (g : Fin 16) (t : BitVec 13) (p : Int → Bool) :
    Host.Outcome State Fault Refusal :=
  s.issueCore sd c i (fun k q => q.branchTo (if p (k.gBranch g.val).toInt then some t.toNat else none))

def execBra (sd : SideId) (c : Fin 4) (target : BitVec 13) (s : State) : Host.Outcome State Fault Refusal :=
  s.issueCore sd c (.bra sd c target) (fun _ q => q.branchTo (some target.toNat))

def execBeqz (sd : SideId) (c : Fin 4) (g : Fin 16) (target : BitVec 13) (s : State) : Host.Outcome State Fault Refusal :=
  s.condBranch sd c (.beqz sd c g target) g target (fun v => v == 0)

def execBnez (sd : SideId) (c : Fin 4) (g : Fin 16) (target : BitVec 13) (s : State) : Host.Outcome State Fault Refusal :=
  s.condBranch sd c (.bnez sd c g target) g target (fun v => v != 0)

def execBltz (sd : SideId) (c : Fin 4) (g : Fin 16) (target : BitVec 13) (s : State) : Host.Outcome State Fault Refusal :=
  s.condBranch sd c (.bltz sd c g target) g target (fun v => decide (v < 0))

def execBgez (sd : SideId) (c : Fin 4) (g : Fin 16) (target : BitVec 13) (s : State) : Host.Outcome State Fault Refusal :=
  s.condBranch sd c (.bgez sd c g target) g target (fun v => decide (v ≥ 0))

/-- CALL pushes the address after its delay slot. -/
def execCall (sd : SideId) (c : Fin 4) (target : BitVec 13) (s : State) : Host.Outcome State Fault Refusal :=
  s.issueCore sd c (.call sd c target) (fun k q => { q with calls := (k.pc + 2) % 8192 :: q.calls }.branchTo (some target.toNat))

def execRet (sd : SideId) (c : Fin 4) (s : State) : Host.Outcome State Fault Refusal :=
  s.issueCore sd c (.ret sd c) (fun k q => { q with calls := q.calls.tail }.branchTo k.calls.head?)

def execRti (sd : SideId) (c : Fin 4) (s : State) : Host.Outcome State Fault Refusal :=
  s.issueCore sd c (.rti sd c) (fun k q => { q with rti := true }.branchTo (some k.ipc))

def execHalt (sd : SideId) (c : Fin 4) (s : State) : Host.Outcome State Fault Refusal :=
  s.issueCore sd c (.halt sd c) (fun _ q => q.seqNext.halt 1)

def execBrar (sd : SideId) (c : Fin 4) (g : Fin 16) (s : State) : Host.Outcome State Fault Refusal :=
  s.issueCore sd c (.brar sd c g) (fun k q => q.branchTo (some ((k.gBranch g.val).toNat % 8192)))

/-- R342: a level is pushed; COUNT = 0 skips the body. -/
def Core.pushLoop (k : Core) (count last : Nat) : Core :=
  if count == 0 then { k with pc := (last + 1) % 8192 }
  else { k.setLoops (⟨(k.pc + 1) % 8192, last, count⟩ :: k.act.loops) with pc := (k.pc + 1) % 8192 }

def execLoop (sd : SideId) (c : Fin 4) (cnt : BitVec 16) (endAt : BitVec 13) (s : State) : Host.Outcome State Fault Refusal :=
  s.issueCore sd c (.loop sd c cnt endAt) (fun _ q => q.pushLoop cnt.toNat endAt.toNat)

def execLoopr (sd : SideId) (c : Fin 4) (g : Fin 16) (endAt : BitVec 13) (s : State) : Host.Outcome State Fault Refusal :=
  s.issueCore sd c (.loopr sd c g endAt) (fun k q => q.pushLoop ((k.gBranch g.val).toNat % 65536) endAt.toNat)

/-- SIG (R335): source 10 + gG[1:0] on that core; the issuing core itself is ignored. R346's table counts its sources by the issuer
instead. Log entry 54: DESIGN CHOICE. -/
def execSig (sd : SideId) (c : Fin 4) (g : Fin 16) (s : State) : Host.Outcome State Fault Refusal :=
  s.issueSide sd c (.sig sd c g) (fun k x =>
    let n := (k.g g.val).toNat % 4
    if n == c.val then x else x.modCore n (fun q => q.raise (10 + n)))

def execSwi (sd : SideId) (c : Fin 4) (s : State) : Host.Outcome State Fault Refusal :=
  s.issueSide sd c (.swi sd c) (fun _ x => x.modCore c.val (fun q => q.raise 15))

/-- WAITT: the core stalls until the tag is idle. -/
def execWaitt (sd : SideId) (c : Fin 4) (tag : Fin 16) (s : State) : Host.Outcome State Fault Refusal :=
  s.issueCore sd c (.waitt sd c tag) (fun k q =>
    if k.ops.any (fun o => o.tag == tag.val) then { q with waitTag := some tag.val } else q.advance)

/-! ### Switching and halting (R352, R353) -/

/-- R352: RESULT0 and RESULT1 of COXCORE_START. -/
def Side.coreResult (x : Side) (c : Nat) : Int × Int :=
  let k := x.coreOf c
  ((k.bank + 2 * b2n (k.st != 0) : Nat), (x.imageVersion c k.bank : Nat))

/-- R353: a pending switch takes place at an idle point. -/
def State.switchNow (s : State) (sd : SideId) (c : Nat) : State :=
  let x := s.side sd
  let k := x.coreOf c
  match k.sw with
  | none => s
  | some p =>
    let b := 1 - k.bank
    let e := x.imageEntry c b
    let x := x.modCore c (fun q => { q with
      bank := b, pc := e, st := 1, imask := 0, sw := none, hz := Hazard.none, main := q.main.putG 0 q.arg })
    let r := x.coreResult c
    let s := s.setSide sd x
    match x.cmdOf p.1 p.2 with
    | some cmd => s.complete sd cmd stOK x.now r.1 r.2
    | none => s

/-- WAIT (R340, R348): with an enabled interrupt pending it ends; at an idle point a pending switch takes place (R353); else the core
is WAITING. -/
def execWait (sd : SideId) (c : Fin 4) (s : State) : Host.Outcome State Fault Refusal :=
  .next (s.issue sd c (.wait sd c) (fun k s =>
    if k.dueSrc.isSome then s.mod sd (fun x => x.modCore c.val (fun q => { q with st := 1 }.seqNext))
    else if k.sw.isSome && k.idlePoint then s.switchNow sd c.val
    else s.mod sd (fun x => x.modCore c.val (fun q => { q with st := 2 }))))

/-- CORE_SWITCH (R353): a core that is stalled in WAIT is at an idle point with a switch pending. -/
def execCoreSwitch (sd : SideId) (c : Fin 4) (s : State) : Host.Outcome State Fault Refusal :=
  let k := (s.side sd).coreOf c.val
  .next (if s.mayIssue sd c.val && k.st == 2 && k.idlePoint then s.switchNow sd c.val else s)

/-- SWITCH_TIMEOUT (R353): 100 ms without an idle point. -/
def execSwitchTimeout (sd : SideId) (c : Fin 4) (s : State) : Host.Outcome State Fault Refusal :=
  let x := s.side sd
  .next (match (x.coreOf c.val).sw with
    | none => s
    | some p =>
      let s := s.mod sd (fun x => x.modCore c.val (fun k => { k with sw := none }))
      match x.cmdOf p.1 p.2 with
      | some cmd => s.complete sd cmd stQuiesceTimeout x.now 0 0
      | none => s)

/-- R352: the HALT commands that wait for a core complete: it halts, or has halted before. -/
def State.haltsDone (s : State) (sd : SideId) (c : Nat) : State :=
  let k := (s.side sd).coreOf c
  let s := s.mod sd (fun x => x.modCore c (fun q => { (if q.st == 0 then q else q.halt 2) with halts := [] }))
  let r := (s.side sd).coreResult c
  k.halts.foldl (fun s p => match (s.side sd).cmdOf p.1 p.2 with
    | some cmd => s.complete sd cmd stOK (lget cmd.aux 0 0).toNat r.1 r.2
    | none => s) s

/-- CORE_HALTED (R352): a HALT takes place once no tag is outstanding. -/
def execCoreHalted (sd : SideId) (c : Fin 4) (s : State) : Host.Outcome State Fault Refusal :=
  let k := (s.side sd).coreOf c.val
  .next (if s.held || k.halts.isEmpty || (k.st != 0 && !k.ops.isEmpty) then s else s.haltsDone sd c.val)

/-- R352: the core starts in a bank whose image passes its check; HALT commands that found it halted complete first. -/
def State.startBank (s : State) (sd : SideId) (c bank : Nat) (st : Staged) (t : Nat) : State :=
  if !(s.side sd).imageOk c bank then s.refuse sd st stFwCheck
  else
    let s := s.haltsDone sd c
    let x := (s.side sd).startCore c bank (wordN st.e.op6)
    let r := x.coreResult c
    (s.setSide sd x).complete sd st stOK t r.1 r.2

/-- COXCORE_START takes effect (R352, R353). -/
def effCoreStart (sd : SideId) (st : Staged) (t : Nat) (s : State) : State :=
  let x := s.side sd
  match coreOfSrc (st.e.op4 % 2 ^ 15) with
  | none => s.refuse sd st stBadSource
  | some c =>
    let k := x.coreOf c
    match st.e.op5 % 4 with
    | 0 => if k.st != 0 then s.refuse sd st stCoreBusy else s.startBank sd c (bitsOf st.e.op5 2 2) st t
    | 1 =>
      if k.st == 0 then s.complete sd st stOK t (x.coreResult c).1 (x.coreResult c).2
      else (s.mod sd (fun x => x.modCore c (fun q => { q with halts := q.halts ++ [(st.issuer, st.id)] }))).cfgWaits sd st t 0
    | 2 =>
      if k.sw.isSome then s.refuse sd st stCoreBusy
      else if k.st == 0 then s.startBank sd c (1 - k.bank) st t
      else (s.mod sd (fun x => x.modCore c (fun q => { q with sw := some (st.issuer, st.id), arg := wordN st.e.op6 }))).cfgWaits sd st t 0
    | _ => s.refuse sd st stBadParam

/-- COXCORE_LOAD takes effect (R351). -/
def effCoreLoad (sd : SideId) (st : Staged) (t : Nat) (s : State) : State :=
  let a := st.e.w1.toNat % 2 ^ 44
  let o := devOff a
  let n := st.words.length
  let part := o / 0x2000
  if devSpace a != 4 || o + n > 0x20000 || (o + n - 1) / 0x2000 != part then s.refuse sd st stBadAddress
  else if part % 4 < 2 && (s.side sd).progBusy (part / 4) (part % 4) then s.refuse sd st stCoreBusy
  else (s.mod sd (fun x => x.writeRange .cox portHost o st.words)).complete sd st stOK t n 0

/-! ### Interrupts (R346, R347) -/

/-- INTERRUPT_ENTRY (R347). -/
def execInterruptEntry (sd : SideId) (c : Fin 4) (s : State) : Host.Outcome State Fault Refusal :=
  let k := (s.side sd).coreOf c.val
  .next (match k.dueSrc with
    | some i =>
      if s.coxRuns sd && k.halts.isEmpty && k.eligible then
        s.mod sd (fun x => x.modCore c.val (fun q => { q with
          st := 1, ipc := q.pc, ipend := q.ipend - 2 ^ i, ctx := true, pc := 16 * i, waitTag := none, hz := Hazard.none }))
      else s
    | none => s)

/-- ALARM (R332, R346): race time has reached a core's alarm. -/
def execAlarm (sd : SideId) (c : Fin 4) (s : State) : Host.Outcome State Fault Refusal :=
  .next (s.mod sd (fun x =>
    let k := x.coreOf c.val
    if k.armed && x.now ≥ k.alarmHi * 2 ^ 36 + k.alarmLo then x.modCore c.val (fun q => { q with armed := false }.raise 1) else x))

/-- The code of a halt (R355). -/
def illegalCode : IllegalCause → Nat
  | .illegal => 4
  | .loopStack => 5
  | .callStack => 6
  | .poisonedFetch => 7

/-- R343: the cause with which the core halts on what it fetches; none if an instruction executes. -/
def Core.haltCause (k : Core) (sd : SideId) (c : Fin 4) : Option Word → Option Nat
  | none => some 7
  | some w =>
    match decodeCox sd c w with
    | none => some 4
    | some i => k.violation i

/-- ILLEGAL (R343): what the core fetches next halts it with this cause. -/
def execIllegal (sd : SideId) (c : Fin 4) (cause : IllegalCause) (s : State) : Host.Outcome State Fault Refusal :=
  let k := (s.side sd).coreOf c.val
  .next (if !s.mayIssue sd c.val || k.st != 1 then s
    else
      let r := (s.side sd).fetch c.val
      if k.haltCause sd c r.2 == some (illegalCode cause) then s.setSide sd (r.1.trapCore c.val (illegalCode cause)) else s)

/-! ### LONG (R344, R345) -/

/-- A core's master ID (R328). -/
def coreMaster (sd : SideId) (c : Nat) : Nat := 2 + 4 * sd.n + c

/-- An offset lies within a space (R41). -/
def Side.inSpace (x : Side) (space off : Nat) : Bool :=
  match space with
  | 2 => off < 2 ^ 20
  | 3 => (x.tableWord off).isSome
  | 5 => (x.metaWord off).2.1.isSome
  | _ => match x.spaceMem space with
    | some p => off < p.2
    | none => false

/-- Words of X or Y memory from an address on, wrapping at 8,192; and whether a poisoned block was met. -/
def Side.dataWords (x : Side) (c : Nat) (y : Bool) (a n : Nat) : Side × List Word × Bool :=
  let n1 := min n (8192 - a % 8192)
  let r := x.readRange .cox (dataBase c y + a % 8192) n1
  let q := r.1.readRange .cox (dataBase c y) (n - n1)
  (q.1, r.2.1 ++ q.2.1, r.2.2 + q.2.2 != 0)

/-- Words written to X or Y memory, wrapping. -/
def Side.putDataWords (x : Side) (c : Nat) (y : Bool) (a : Nat) (ws : List Word) : Side :=
  let n1 := 8192 - a % 8192
  (x.writeRange .cox portCox (dataBase c y + a % 8192) (ws.take n1)).writeRange .cox portCox (dataBase c y) (ws.drop n1)

/-- What a long operation moves: a word of g, or a block of X or Y. -/
inductive LongKind where
  | word | blockX | blockY
  deriving DecidableEq, Repr

/-- A LONG instruction's device address, local address and count. -/
def Core.longAddr (k : Core) (o : LongArgs) : Nat := (k.ag (16 + o.k.val) + o.off.toNat) % 2 ^ 44

/-- The count of a block operation: gG[20:13], 0 for 256. -/
def Core.longCount (k : Core) (kind : LongKind) (o : LongArgs) : Nat :=
  match kind with
  | .word => 1
  | _ => let n := bitsOf (k.g o.g.val).toNat 20 13; if n == 0 then 256 else n

/-- R340: the instruction stalls: its tag is busy, or a block operation waits for another. -/
def Core.longStalls (k : Core) (kind : LongKind) (o : LongArgs) : Bool :=
  k.ops.any (fun p => p.tag == o.tag.val) || (kind != .word && k.ops.any (fun p => p.dest == 1 || p.dest == 2 || p.dest == 4))

/-- A LONG instruction stalls as R340 says; it waits as well while its access is not made, or, a load, for a DRAM channel in
self-refresh (R311). -/
def State.longWaits (s : State) (sd : SideId) (c : Nat) (kind : LongKind) (load : Bool) (o : LongArgs) : Bool :=
  let k := (s.side sd).coreOf c
  let a := k.longAddr o
  let t := devSide a
  k.longStalls kind o || match s.path t (coreMaster sd c) with
    | .none => true
    | .keelDown => false
    | .reaches => (devSpace a == 2 && !(s.side t).islTakes busSrc)
        || (load && (s.side t).spaceWaits (devSpace a) (devOff a) (k.longCount kind o))

/-- A LONG instruction issues once nothing holds it. -/
def State.issueLong (s : State) (sd : SideId) (c : Fin 4) (i : Instr) (kind : LongKind) (load : Bool) (o : LongArgs)
    (body : Core → State → State) : Host.Outcome State Fault Refusal :=
  .next (if s.longWaits sd c.val kind load o then s else s.issue sd c i body)

/-- The operation is outstanding until its tag completes; la is increased with INC. -/
def longOut (sd : SideId) (c : Nat) (k : Core) (kind : LongKind) (o : LongArgs) (op : LongOp) (s : State) : State :=
  s.mod sd (fun x => (x.modCore c (fun q =>
    let q := { q with ops := q.ops ++ [op] }
    if o.inc then { q with la := lset q.la o.k.val ((k.ag (16 + o.k.val) + k.longCount kind o) % 2 ^ 44) } else q)).goOn c)

/-- A long load: the words it will land, and its status. -/
def longLoad (sd : SideId) (c : Nat) (kind : LongKind) (o : LongArgs) (k : Core) (s : State) : State :=
  let addr := k.longAddr o
  let t := devSide addr
  let n := k.longCount kind o
  let m := coreMaster sd c
  let dest := match kind with
    | .word => 0
    | .blockX => 1
    | .blockY => 2
  let place := match kind with
    | .word => o.g.val
    | _ => (k.g o.g.val).toNat % 8192
  let op : LongOp := ⟨o.tag.val, k.ctx, dest, place, List.replicate n 0, stOK, false, t != sd, addr⟩
  match s.path t m with
  | .none => s
  | .keelDown => longOut sd c k kind o { op with status := stKeelDown } (s.keelLost t m false addr)
  | .reaches =>
    let ok := (List.range n).all (fun i => (s.side t).inSpace (devSpace addr) (devOff addr + i))
    let r := s.readSpan t m (devSpace addr) (devOff addr) n
    longOut sd c k kind o { op with
      words := r.2.1, poison := r.2.2, status := if !ok then stBadAddress else if r.2.2 then stContainsPoison else stOK } r.1

/-- A long store: its words are read at issue. -/
def longStore (sd : SideId) (c : Nat) (kind : LongKind) (o : LongArgs) (k : Core) (s : State) : State :=
  let addr := k.longAddr o
  let t := devSide addr
  let n := k.longCount kind o
  let m := coreMaster sd c
  let src := match kind with
    | .word => (s.side sd, [k.g o.g.val], false)
    | .blockX => (s.side sd).dataWords c false ((k.g o.g.val).toNat % 8192) n
    | .blockY => (s.side sd).dataWords c true ((k.g o.g.val).toNat % 8192) n
  let op : LongOp := ⟨o.tag.val, k.ctx, if kind == .word then 3 else 4, 0, [], stOK, src.2.2, t != sd, addr⟩
  match s.path t m with
  | .none => s
  | .keelDown => longOut sd c k kind o { op with status := stKeelDown } ((s.setSide sd src.1).keelLost t m true addr)
  | .reaches =>
    let r := (s.setSide sd src.1).writeSpan t m (if t == sd then portCox else portHost) (devSpace addr) (devOff addr) src.2.1
    longOut sd c k kind o { op with status := if r.2 then stBadAddress else if src.2.2 then stContainsPoison else stOK } r.1

def execLdl (sd : SideId) (c : Fin 4) (o : LongArgs) (s : State) : Host.Outcome State Fault Refusal :=
  s.issueLong sd c (.ldl sd c o) .word true o (longLoad sd c.val .word o)

def execStl (sd : SideId) (c : Fin 4) (o : LongArgs) (s : State) : Host.Outcome State Fault Refusal :=
  s.issueLong sd c (.stl sd c o) .word false o (longStore sd c.val .word o)

def execBldx (sd : SideId) (c : Fin 4) (o : LongArgs) (s : State) : Host.Outcome State Fault Refusal :=
  s.issueLong sd c (.bldx sd c o) .blockX true o (longLoad sd c.val .blockX o)

def execBstx (sd : SideId) (c : Fin 4) (o : LongArgs) (s : State) : Host.Outcome State Fault Refusal :=
  s.issueLong sd c (.bstx sd c o) .blockX false o (longStore sd c.val .blockX o)

def execBldy (sd : SideId) (c : Fin 4) (o : LongArgs) (s : State) : Host.Outcome State Fault Refusal :=
  s.issueLong sd c (.bldy sd c o) .blockY true o (longLoad sd c.val .blockY o)

def execBsty (sd : SideId) (c : Fin 4) (o : LongArgs) (s : State) : Host.Outcome State Fault Refusal :=
  s.issueLong sd c (.bsty sd c o) .blockY false o (longStore sd c.val .blockY o)

/-- MTC (R332). -/
def execMtc (sd : SideId) (c : Fin 4) (creg : BitVec 6) (g : Fin 16) (s : State) : Host.Outcome State Fault Refusal :=
  s.issueSide sd c (.mtc sd c creg g) (fun k x => x.mtc c.val creg.toNat (k.g g.val))

/-- MFC (R332). -/
def execMfc (sd : SideId) (c : Fin 4) (creg : BitVec 6) (g : Fin 16) (s : State) : Host.Outcome State Fault Refusal :=
  s.issueSide sd c (.mfc sd c creg g) (fun _ x =>
    let v := x.mfc c.val creg.toNat
    (x.mfcEffect c.val creg.toNat).modCore c.val (fun q => q.putAlu g.val v))

/-- R344: an outstanding operation's words land in the set that issued it. -/
def Side.land (x : Side) (c : Nat) (o : LongOp) : Side :=
  let inSet := fun (f : RegSet → RegSet) (x : Side) =>
    x.modCore c (fun k => if o.shadow then { k with shadow := f k.shadow } else { k with main := f k.main })
  let x := match o.dest with
    | 0 => inSet (fun r => r.putG o.place (lget o.words 0 0)) x
    | 1 => x.putDataWords c false o.place o.words
    | 2 => x.putDataWords c true o.place o.words
    | _ => x
  inSet (fun r => { r with psn := r.psn || o.poison }) x

/-- TAG_COMPLETE (R344, R345): the operation lands, the tag shows its status, source 2 is raised, and a WAITT for it goes on. -/
def execTagComplete (sd : SideId) (c : Fin 4) (tag : Fin 16) (s : State) : Host.Outcome State Fault Refusal :=
  let x := s.side sd
  let k := x.coreOf c.val
  .next (match k.ops.find? (fun o => o.tag == tag.val) with
    | none => s
    | some o =>
      if s.held then s
      else
        let x := x.modCore c.val (fun q => { q with ops := q.ops.filter (fun p => p.tag != tag.val), tagSt := lset q.tagSt tag.val o.status }.raise 2)
        let x := x.land c.val o
        s.setSide sd (x.modCore c.val (fun q =>
          if q.waitTag == some tag.val then ({ q with waitTag := none } : Core).advance else q)))

end Sys2Proof.Machine
end

