-- ==== Sys2Proof/Machine/Copies.lean ====
section
/-! DEFINITION. Operand data and copies of ring commands: to and from host memory or the device address space (R252, R285, R322), and
the ends of TRACE_READ (R148), DENSITY_READ (R165, R166) and READ_RECORD (R233, R234). -/

namespace Sys2Proof.Machine

/-- The ring and DMA engine as the source of writes (R13). -/
def dmaSrc : Nat := srcOf 4 1 0

/-! ### The device address space -/

/-- n words from a device address on lie within its space (R41). -/
def State.devFits (s : State) (a n : Nat) : Bool :=
  (List.range n).all (fun i => (s.side (devSide a)).inSpace (devSpace a) (devOff a + i))

/-- The part of a device address range a command of a side can reach: the status it fails with, or 0. -/
def State.devCheck (s : State) (sd : SideId) (a n : Nat) : Nat :=
  if devSide a != sd && !s.keel.up then stKeelDown else if !s.devFits a n then stBadAddress else stOK

/-- Words read from a device address by the ring and DMA engine of a side, and whether a poisoned block was met (R322). -/
def State.devRead (s : State) (sd : SideId) (a n : Nat) : State × List Word × Bool :=
  let t := devSide a
  match (s.side t).spaceMem (devSpace a) with
  | some _ =>
    let r := s.memRead t (devSpace a) (devOff a) n
    (r.1, r.2.1, r.2.2.1 != 0)
  | none =>
    (List.range n).foldl (fun (acc : State × List Word × Bool) i =>
      let r := acc.1.readOne t sd.n (devSpace a) (devOff a + i)
      (r.1, acc.2.1 ++ [r.2.1], acc.2.2 || r.2.2)) (s, [], false)

/-- A copy's words go to host memory in a packing, or to a device address, a word to a word. -/
def State.copyOut (s : State) (sd : SideId) (dev dense : Bool) (addr : Nat) (ws : List Word) : State :=
  if dev then (s.writeSpan (devSide addr) sd.n portHost (devSpace addr) (devOff addr) ws).1
  else s.dmaWrite sd addr (packBytes dense ws)

/-- The destination of a TRACE_READ, DENSITY_READ or READ_RECORD: DEV, PACK and address. -/
def CmdEntry.dest (e : CmdEntry) : Bool × Bool × Nat :=
  let dev := bitAt e.op4 63
  (dev, bitAt e.op4 19, if dev then e.op5 % 2 ^ 44 else e.op5)

/-- The destination can take n words, by its address. -/
def State.destCheck (s : State) (sd : SideId) (e : CmdEntry) (n : Nat) : Nat :=
  let d := CmdEntry.dest e
  if d.1 then s.devCheck sd d.2.2 n else stOK

/-- The words of a copy are written to its destination. -/
def State.copyTo (s : State) (sd : SideId) (e : CmdEntry) (ws : List Word) : State :=
  let d := CmdEntry.dest e
  s.copyOut sd d.1 d.2.1 d.2.2 ws

/-! ### Ends of copies -/

/-- Words of the general store as a copy delivers them: a poisoned block as zero. -/
def State.readImage (s : State) (sd : SideId) (addr n : Nat) : State × List Word × Bool :=
  let r := (s.side sd).readRange .sram addr n
  (s.setSide sd r.1, r.2.1, r.2.2 != 0)

/-- The next TRACE_READ of a slot begins its copy. -/
def Side.traceNext (x : Side) (c : Chan) (slot : Nat) : Side :=
  match x.host.staged.find? (fun st => st.op == 0x23 && st.running && st.e.op4 % 65536 == x.ppSrc c && bitsOf st.e.op4 18 16 == slot) with
  | some st => x.traceBegin c st (lget st.aux 0 0).toNat
  | none => x

/-- TRACE_READ_DONE (R148): the oldest copy that runs is written whole. -/
def execTraceReadDone (sd : SideId) (s : State) : Host.Outcome State Fault Refusal :=
  let x := s.side sd
  .next (match x.runningCmd 0x23 (fun st => decide (lget st.aux 1 (-1) ≥ 0)) with
    | none => s
    | some st =>
      if !s.dmaWorks sd then s
      else
        let len := (lget st.aux 3 0).toNat
        let r := s.readImage sd (lget st.aux 4 0).toNat len
        let s := (r.1.copyTo sd st.e r.2.1).complete sd st (if r.2.2 then stContainsPoison else stOK) (lget st.aux 0 0).toNat (lget st.aux 2 0) len
        s.mod sd (fun x => x.traceNext (if st.e.op4 % 65536 == x.ppSrc .c0 then .c0 else .c1) (bitsOf st.e.op4 18 16)))

/-- The words of a density image: header, then the plane. -/
def densImage (hdr : List Word) (plane : List (Nat × Word)) : List Word := hdr ++ wgets plane 0 planeLen

/-- DENSITY_READ_DONE (R165, R166): a whole image, or the first `copied` words of one that was cut. -/
def execDensityReadDone (sd : SideId) (ch : Chan) (copied : Nat) (s : State) : Host.Outcome State Fault Refusal :=
  let x := s.side sd
  let d := x.densOf ch
  .next (match d.copy with
    | none => s
    | some k =>
      if !s.dmaWorks sd then s
      else
        let (x, plane) := match k.cut with
          | some ws => (x, ws)
          | none => x.readPlane ch k.buf
        let img := densImage k.hdr plane
        let ws := if k.cut.isSome then img.take copied else img
        let x := (x.setDens ch { x.densOf ch with copy := none }).drop (DENS_STAT.COPYING ch.n)
        let s := s.setSide sd x
        match x.cmdOf k.issuer k.id with
        | some st =>
          (s.copyTo sd st.e ws).complete sd st (if k.cut.isSome then stDensOverrun else stOK)
            (lget st.aux 0 0).toNat (lget k.hdr 0 0).toNat ws.length
        | none => s)

/-- READ_RECORD_DONE (R233, R234): the oldest copy of a channel's record is written whole; it waits while a DRAM channel is in self-refresh
(R311). -/
def execReadRecordDone (sd : SideId) (ch : Chan) (s : State) : Host.Outcome State Fault Refusal :=
  let x := s.side sd
  .next (match x.runningCmd 0x13 (fun st => chanOf (st.e.op4 % 2) == ch) with
    | none => s
    | some st =>
      if !s.dmaWorks sd || x.anyAsleep then s
      else
        match x.readPart st.e with
        | .error e => s.refuse sd st e
        | .ok (d, g) =>
          let r := x.recWords st.e d g
          ((s.setSide sd r.1).copyTo sd st.e r.2.1).complete sd st (if r.2.2 == 0 then stOK else stContainsPoison)
            (lget st.aux 0 0).toNat r.2.1.length r.2.2)

end Sys2Proof.Machine
end

