-- ==== Sys2Proof/Machine/RingCmds.lean ====
section
/-! DEFINITION. Commands of the command rings: execution (R270, R271), boundaries (R272), effect order (R273), the other side (R274),
FENCE (R284), CONFIGURE and READBACK (R285), LOAD_TABLE (R286), and one row per opcode (R282). -/

namespace Sys2Proof.Machine

/-! ### Step 1: opcode, boundary kind, side (R270, R272, R282) -/

/-- The boundary kinds an opcode accepts; none for an opcode that is not in the table. -/
def opKinds (op : Nat) : Option (List Nat) :=
  match op with
  | 0x00 => some [0, 1, 2, 3, 4]
  | 0x01 => some [0]
  | 0x02 => some [0, 1, 2, 3, 4]
  | 0x03 => some [0]
  | 0x10 => some [0, 3]
  | 0x11 => some [0, 3]
  | 0x12 => some [0, 3]
  | 0x13 => some [0]
  | 0x20 => some [0, 1, 3]
  | 0x21 => some [0, 1, 3]
  | 0x22 => some [0]
  | 0x23 => some [0]
  | 0x30 => some [0]
  | 0x31 => some [0]
  | 0x40 => some [0, 1, 3]
  | 0x41 => some [0]
  | 0x42 => some [0]
  | 0x43 => some [0]
  | 0x44 => some [0, 3]
  | 0x50 => some [0]
  | 0x51 => some [0, 3]
  | 0x60 => some [0]
  | 0x61 => some [0, 3]
  | 0x70 => some [0]
  | _ => none

/-- READBACK of a CONFIGURE (R285). -/
def CmdEntry.readback (e : CmdEntry) : Bool := bitAt e.op5 33

/-- R270: the side a command's target names, if it has a target. -/
def targetSide (op : Nat) (e : CmdEntry) : Option SideId :=
  if op == 0x02 then some (SideId.ofBit (bitAt e.op5 15))
  else if [0x22, 0x23, 0x40, 0x41, 0x42, 0x43, 0x51, 0x60, 0x70].contains op then some (SideId.ofBit (bitAt e.op4 15))
  else if op == 0x03 || op == 0x50 then some (devSide e.w1.toNat)
  else none

/-- R285: the length of a block type. -/
def blkLen (ty : Nat) : Nat :=
  match ty with
  | 1 => 5
  | 2 => 2
  | 3 => 32
  | 4 => 4
  | 5 => 85
  | 6 => 10
  | _ => 0

/-- R285: the island of a block type, and the channel it belongs to, that a source ID names; none if it is not that type's island. -/
def blkChan (ty src : Nat) : Option Chan :=
  let l := src % 2 ^ 15
  let at_ := fun (f : Chan → Nat) => [Chan.c0, Chan.c1].find? (fun c => f c == l)
  match ty with
  | 1 => at_ (fun c => srcOf 0 c.n 8)
  | 2 => at_ (fun c => srcOf 0 c.n 8)
  | 3 => at_ (fun c => srcOf 2 c.n 0)
  | 4 => at_ (fun c => srcOf 2 (2 + c.n) 0)
  | 5 => if l == srcOf 2 4 0 then some .c0 else none
  | 6 => if l == srcOf 2 4 0 then some .c0 else none
  | _ => none

/-- NWORDS of a LOAD_TABLE or COXCORE_LOAD. -/
def CmdEntry.nwords (e : CmdEntry) : Nat := e.op5 % 2 ^ 17

/-- R271 step 1: the status a command fails with at once, or 0. DESIGN CHOICE (assumption log 136): a CONFIGURE whose TARGET is a reserved
source code answers BAD_BLOCK by R285, not R13's BAD_SOURCE. -/
def stepOne (op : Nat) (e : CmdEntry) : Nat :=
  match opKinds op with
  | none => stBadOpcode
  | some ks =>
    let kind := e.boundary.toNat
    if !ks.contains kind then stBadParam
    else if e.other && ((targetSide op e).isSome || op == 0x01) then stBadParam
    else if op == 0x02 then
      let ty := bitsOf e.op5 23 16
      if blkLen ty == 0 || bitsOf e.op5 31 24 != blkLen ty || (blkChan ty e.op5).isNone then stBadBlock
      else if CmdEntry.readback e && kind != 0 then stBadParam
      else stOK
    else if op == 0x03 || op == 0x50 then
      (if CmdEntry.nwords e == 0 || CmdEntry.nwords e > 65536 then stBadParam else stOK)
    else stOK

/-- R270: the side a command acts on. -/
def actingSide (sd : SideId) (op : Nat) (e : CmdEntry) : SideId :=
  (targetSide op e).getD (if e.other then sd.other else sd)

/-! ### Step 2: operand data (R245, R285, R286, R322) -/

/-- The words of operand data a command reads. -/
def operandLen (op : Nat) (e : CmdEntry) : Nat :=
  if op == 0x02 then (if CmdEntry.readback e then 0 else blkLen (bitsOf e.op5 23 16))
  else if op == 0x03 || op == 0x50 then CmdEntry.nwords e
  else 0

/-- Words of the sparse packing: bits [35:0] of each 8-byte slot (R250). -/
def unpackSparse : Nat → List Byte → List Word
  | 0, _ => []
  | n + 1, bs => wordN (numOf (bs.take 8)) :: unpackSparse n (bs.drop 8)

/-- n words out of bytes in a packing (R250, R251). -/
def unpackBytes (dense : Bool) (n : Nat) (bs : List Byte) : List Word :=
  if dense then (unpackDense ((n + 1) / 2) bs).take n else unpackSparse n bs

/-- Operand data: from the device address space with DEV, else what the DMA read brought; or the status of its failure. -/
def State.operand (s : State) (sd : SideId) (op : Nat) (e : CmdEntry) (data : DmaData) : State × Except Nat (List Word) :=
  let n := operandLen op e
  if n == 0 then (s, .ok [])
  else if bitAt e.op5 63 then
    let a := e.op4 % 2 ^ 44
    if s.devCheck sd a n != stOK then (s, .error (s.devCheck sd a n))
    else
      let r := s.devRead sd a n
      (r.1, if r.2.2 then .error stDmaError else .ok r.2.1)
  else if !data.ok || data.poisoned then (s, .error stDmaError)
  else (s, .ok (unpackBytes (bitAt e.op5 32) n data.bytes))

/-- R311: operand data in the device address space waits for a DRAM channel in self-refresh. -/
def State.operandWaits (s : State) (op : Nat) (e : CmdEntry) : Bool :=
  let a := e.op4 % 2 ^ 44
  operandLen op e != 0 && bitAt e.op5 63 && (s.side (devSide a)).spaceWaits (devSpace a) (devOff a) (operandLen op e)

/-! ### Step 3: the boundary (R272) -/

/-- The boundary instant of a command executed at texec, resolved on the side it acts on; or the status it fails with. FORCE (R211), STROBE
(R378) and, with the Keel up, COX_HANDOVER (R33) judge a RACE_TIME in the past themselves. -/
def Side.resolveBnd (x : Side) (up : Bool) (texec op : Nat) (e : CmdEntry) : Except Nat Bnd :=
  let c := chanOf (e.w2.toNat % 2)
  match e.boundary.toNat with
  | 1 =>
    let fe := x.feOf c
    let k := e.w3.toNat % 2 ^ 36
    if !x.on (FE_STAT.RUNNING c.n) then .error stFeStopped
    else if k == 0 then .ok (.frame c fe.nextFrame)
    else if k < fe.nextFrame then .error stBoundaryPast
    else .ok (.frame c k)
  | 2 => match (x.acqOf c).armed with
    | some r => .ok (.record c r.num)
    | none => .ok .now
  | 3 =>
    let t := e.w2.toNat % 2 ^ 36 * 2 ^ 36 + e.w3.toNat % 2 ^ 36
    if t < texec && !(op == 0x12 || op == 0x61 || (op == 0x44 && up)) then .error stBoundaryPast else .ok (.time t)
  | 4 => .ok (.strobe (x.strobe.done.length + 1))
  | _ => .ok .now

/-- The boundary instant of a staged command, once it has come. A record that completes dates the commands that wait for it
(`Side.dateRecord`); one that ends otherwise (ISL_RESET) lets them go on now: DESIGN CHOICE (assumption log 136). -/
def Side.instantOf (x : Side) (st : Staged) : Option Nat :=
  match st.bnd with
  | .now => some st.texec
  | .time t => if x.now ≥ t then some t else none
  | .frame c k =>
    let t := x.tSample c ((x.feOf c).m0 + k * (x.feOf c).gridStep)
    if x.now ≥ t then some t else none
  | .drawn _ t => if x.now ≥ t then some t else none
  | .record c n => if (x.acqOf c).armed.any (fun r => r.num == n) then none else some x.now
  | .strobe n => if n ≤ x.strobe.done.length then some (lget x.strobe.done (x.strobe.done.length - n) x.now) else none

/-! ### READBACK (R285) -/

/-- The SPECTRAL block in force: band and mask fields and slot settings as they apply, the rest as stored. -/
def Pp.blockNow (pp : Pp) : List Word :=
  let bm := wordN (bitMask 28 17 + bitMask 13 10)
  let w0 := (lget pp.block 0 0 &&& ~~~bm) ||| (lget pp.force 0 0 &&& bm)
  let slot := fun t =>
    let g := lget pp.slots t Slot.init
    if g.on then g.cfg else ppSlot pp.block t
  [w0, lget pp.force 1 0, lget pp.block 2 0, lget pp.block 3 0] ++ (List.range 8).map (fun j => lget pp.force (4 + j) 0)
    ++ (List.range 6).flatMap slot ++ [lget pp.block 30 0, lget pp.block 31 0]

/-- The block of a type in force on a channel, or stored while its stage does not run. -/
def Side.blockNow (x : Side) (ty : Nat) (c : Chan) : List Word :=
  match ty with
  | 1 =>
    let fe := x.feOf c
    if x.on (FE_STAT.RUNNING c.n) then
      [lget fe.block 0 0, wordN (fe.freq / 2 ^ 36), wordN fe.freq, wordN fe.phase, lget fe.block 4 0]
    else fe.block
  | 2 => if (x.xfOf c).run then (lget (x.xfOf c).block 0 0 &&& ~~~wordN (bitMask 28 26) ||| (lget (x.xfOf c).force 0 0 &&& wordN (bitMask 28 26)))
      :: (x.xfOf c).force.drop 1 else (x.xfOf c).block
  | 3 => if x.on (PP_STAT.RUNNING c.n) then (x.ppOf c).blockNow else (x.ppOf c).block
  | 4 => if x.on (DENS_STAT.RUNNING c.n) then (x.densOf c).force else (x.densOf c).block
  | 5 => if x.on STARTER_STAT.RUNNING then x.starter.force else x.starter.block
  | _ => (x.acqOf c).block

/-- READBACK takes effect. The RECORD block's channel is left open: a free value names it. -/
def effReadback (sd : SideId) (st : Staged) (t : Nat) (s : State) : State :=
  let ty := st.blkType
  let open_ := ty == 6
  let f := s.takeFree
  let c := if open_ then chanOf f.1.toNat else (blkChan ty st.target).getD .c0
  let s := if open_ then f.2 else s
  let dev := bitAt st.e.op5 63
  let addr := if dev then st.e.op4 % 2 ^ 44 else st.e.op4
  if dev && s.devCheck sd addr (blkLen ty) != stOK then s.refuse sd st (s.devCheck sd addr (blkLen ty))
  else (s.copyOut sd dev (bitAt st.e.op5 32) addr ((s.side sd).blockNow ty c)).complete sd st stOK t 0 0

/-- CONFIGURE takes effect (R285). -/
def effConfigure (sd : SideId) (st : Staged) (t : Nat) (s : State) : State :=
  match blkChan st.blkType st.target with
  | none => s.refuse sd st stBadBlock
  | some c =>
    match st.blkType with
    | 1 => effFrontEnd sd c st t s
    | 2 => effTransform sd c st t s
    | 3 => effSpectral sd c st t s
    | 4 => effDensity sd c st t s
    | 5 => effStarter sd st t s
    | _ => effRecord sd st t s

/-! ### LOAD_TABLE (R67, R89, R140, R286, R427) -/

/-- A RAM table of space 3. -/
inductive RamTable where
  | eq (c : Chan) (bank i : Nat)
  | window (c : Chan) (n : Nat)
  | mask (c : Chan) (k b : Nat)
  | palette (i : Nat)
  deriving DecidableEq, Repr

/-- The RAM table that holds n entries from an offset of space 3 on, whole. DESIGN CHOICE (assumption log 136): each of a channel's two
equaliser banks is a table of its own. -/
def ramTable (o n : Nat) : Option RamTable :=
  if 0x100000 ≤ o && o < 0x100200 && o % 0x100 < 128 then
    (if o % 64 + n ≤ 64 then some (.eq (chanOf (o / 0x100)) (o / 64 % 2) (o % 64)) else none)
  else if 0x200000 ≤ o && o < 0x220000 then
    (if o % 0x10000 + n ≤ 0x10000 then some (.window (chanOf (o / 0x10000)) (o % 0x10000)) else none)
  else if 0x400000 ≤ o && o < 0x480000 then
    (if o % 0x10000 + n ≤ 0x10000 then some (.mask (chanOf (o / 0x40000)) (o / 0x10000 % 4) (o % 0x10000)) else none)
  else if 0x600000 ≤ o && o < 0x601000 then
    (if o % 0x1000 + n ≤ 0x1000 then some (.palette (o % 0x1000)) else none)
  else none

/-- LOAD_TABLE takes effect. -/
def effLoadTable (sd : SideId) (st : Staged) (t : Nat) (s : State) : State :=
  let x := s.side sd
  let a := st.e.w1.toNat % 2 ^ 44
  let n := st.words.length
  let ok := fun (x : Side) => (s.setSide sd x).complete sd st stOK t n 0
  match if devSpace a == 3 then ramTable (devOff a) n else none with
  | none => s.refuse sd st stBadAddress
  | some (.eq c bank i) =>
    if x.bankBusy c bank then s.refuse sd st stTableInUse
    else let fe := x.feOf c; ok (x.setFe c { fe with eqTab := wputs fe.eqTab (64 * bank + i) st.words })
  | some (.window c i) =>
    if st.words.any (fun w => decide (w.toInt < -131072) || decide (w.toInt > 131072)) then s.refuse sd st stBadParam
    else if x.winBusy c then s.refuse sd st stTableInUse
    else
      let fe := x.feOf c
      ok (x.setFe c { fe with
        ramWin := wputs fe.ramWin i st.words
        ramRes := st.words.zipIdx.foldl (fun m p => if residue p.1.toInt == 0 then adel m (i + p.2) else aput m (i + p.2) (residue p.1.toInt)) fe.ramRes })
  | some (.mask c k b) => effLoadMask sd c k b st t s
  | some (.palette i) => ok { x with so := { x.so with palS := wputs x.so.palS i (st.words.map (fun w => wordN (w.toNat % 2 ^ 30))) } }

/-! ### Copies -/

/-- TRACE_READ takes effect: its source and destination are checked, then R148. -/
def effTrace (sd : SideId) (st : Staged) (t : Nat) (s : State) : State :=
  match blkChan 3 (st.e.op4 % 65536) with
  | none => s.refuse sd st stBadSource
  | some c =>
    let i := lget ((s.side sd).ppOf c).images (bitsOf st.e.op4 18 16) ⟨0, 0, 0, none, 0⟩
    let d := s.destCheck sd st.e i.len
    if i.cur.isSome && d != stOK then s.refuse sd st d else effTraceRead sd c st t s

/-- DENSITY_READ takes effect: its source and destination are checked, then R165. -/
def effDensRead (sd : SideId) (st : Staged) (t : Nat) (s : State) : State :=
  match blkChan 4 (st.e.op4 % 65536) with
  | none => s.refuse sd st stBadSource
  | some c =>
    let d := s.destCheck sd st.e (8 + planeLen)
    if d != stOK then s.refuse sd st d else effDensityRead sd c st t s

/-- READ_RECORD takes effect: what it names and its destination are checked, then R233. -/
def effRecRead (sd : SideId) (st : Staged) (t : Nat) (s : State) : State :=
  match (s.side sd).readPart st.e with
  | .error e => s.refuse sd st e
  | .ok (d, g) =>
    let c := s.destCheck sd st.e (Side.readLen d g (bitsOf st.e.op4 2 1) (st.e.op7 % 2 ^ 17))
    if c != stOK then s.refuse sd st c else effReadRecord sd st t s

/-- LANE_RETIRE takes effect: a FRAME boundary names the seat's channel (R97). -/
def effRetire (sd : SideId) (st : Staged) (t : Nat) (s : State) : State :=
  let x := s.side sd
  let ch := match st.bnd with
    | .frame c _ => some c
    | .drawn c _ => some c
    | _ => none
  match ch, seatOfSrc (st.e.op4 % 2 ^ 15) with
  | some c, some seat => if x.seatSt seat == 1 && x.get (SEAT_STAT.CH seat) != c.n then s.refuse sd st stBadParam
      else effLaneRetire sd st t s
  | _, _ => effLaneRetire sd st t s

/-! ### Effects (R273, R282) -/

/-- A staged command takes effect at instant t on the side it acts on. FENCE, COX_HANDOVER and STROBE took theirs at execution. -/
def effectOf (sd : SideId) (st : Staged) (t : Nat) (s : State) : State :=
  match st.op with
  | 0x00 => s.complete sd st stOK t 0 0
  | 0x02 => if CmdEntry.readback st.e then effReadback sd st t s else effConfigure sd st t s
  | 0x03 => effLoadTable sd st t s
  | 0x10 => effArm sd st t s
  | 0x11 => effDisarm sd st t s
  | 0x12 => effForce sd st t s
  | 0x13 => effRecRead sd st t s
  | 0x20 => effStreamStart sd st t s
  | 0x21 => effStreamStop sd st t s
  | 0x22 => effDensRead sd st t s
  | 0x23 => effTrace sd st t s
  | 0x30 => effCal sd st t s
  | 0x31 => effCal sd st t s
  | 0x40 => effRetire sd st t s
  | 0x41 => effLaneReturn sd st t s
  | 0x42 => effQuiesce sd st t s
  | 0x43 => effResume sd st t s
  | 0x50 => effCoreLoad sd st t s
  | 0x51 => effCoreStart sd st t s
  | 0x60 => effToneStage sd st t s
  | 0x70 => effDisplayCommit sd st t s
  | _ => s

/-- R273: the island a command names or works on, without the side bit. -/
def islandOf (st : Staged) : Option Nat :=
  let src := st.e.op4 % 2 ^ 15
  match st.op with
  | 0x02 => some (st.target % 2 ^ 15)
  | 0x03 =>
    match ramTable (devOff (st.e.w1.toNat % 2 ^ 44)) 1 with
    | some (.eq c _ _) => some (srcOf 0 c.n 8)
    | some (.window c _) => some (srcOf 0 c.n 8)
    | some (.mask c _ _) => some (srcOf 2 c.n 0)
    | some (.palette _) => some (srcOf 4 3 0)
    | none => none
  | 0x10 => some (srcOf 2 4 0)
  | 0x11 => some (srcOf 2 4 0)
  | 0x12 => some (srcOf 2 4 0)
  | 0x13 => some (srcOf 2 4 0)
  | 0x22 => some src
  | 0x23 => some src
  | 0x40 => some src
  | 0x41 => some src
  | 0x42 => some src
  | 0x43 => some src
  | 0x50 => some (srcOf 5 1 0)
  | 0x51 => some (srcOf 5 1 0)
  | 0x60 => some (srcOf 5 4 0)
  | 0x70 => some (srcOf 4 3 0)
  | _ => none

/-- The command waits for its boundary, or behind a command that does. -/
def Staged.waits (st : Staged) : Bool := !st.running && st.op != 0x01

/-- Two staged commands name the same island. -/
def sameIsland (a b : Staged) : Bool := (islandOf a).isSome && islandOf a == islandOf b

/-- R273: an earlier-executed command for the same island still waits. -/
def Side.behind (x : Side) (st : Staged) : Bool :=
  (x.host.staged.takeWhile (fun d => !(d.id == st.id && d.issuer == st.issuer))).any (fun d => d.waits && sameIsland d st)

/-- R273: commands for an island whose boundary came while an earlier one waited take effect after it, at its instant. -/
def State.releaseIsland (sd : SideId) (st : Staged) (t : Nat) : Nat → State → State
  | 0, s => s
  | n + 1, s =>
    match (s.side sd).host.staged.find? (fun d => d.waits && sameIsland d st) with
    | some d => if d.reached then State.releaseIsland sd st t n (effectOf sd d t s) else s
    | none => s

/-- A staged command's boundary has come, with instant t: it takes effect, or waits for an earlier one of its island. -/
def State.runStaged (s : State) (sd : SideId) (st : Staged) (t : Nat) : State :=
  let x := s.side sd
  if x.behind st then s.setSide sd (x.restage { st with reached := true })
  else State.releaseIsland sd st t x.host.staged.length (effectOf sd st t s)

/-! ### FENCE (R284) -/

/-- The commands a FENCE waits for: earlier ones of its ring, or of every ring of the side. -/
def Side.fenceAwaits (x : Side) (st : Staged) : List Nat :=
  let all := bitAt st.e.op4 0
  ((x.host.staged.filter (fun d => d.issuer == x.who && d.id != st.id && (all || d.ring == st.ring))).map (·.id))
    ++ ((x.host.remote.filter (fun p => all || p.1 == st.ring)).map (·.2))

/-- FENCE begins to wait; with MEM = 1 every accepted write is in memory. -/
def effFence (sd : SideId) (st : Staged) (s : State) : State :=
  s.mod sd (fun x =>
    let w := x.fenceAwaits st
    let mem := bitAt st.e.op4 1
    let x := if mem then ((x.flushAll .sram).flushAll .cox).flushAll .dram else x
    (x.restage { st with running := true, awaits := w ++ (if mem && !x.dram.mem.buf.isEmpty then [memWaits] else []), aux := [(w.length : Int)] }).settleFences (x.host.staged.length + 1))

/-! ### Execution (R271, R274) -/

/-- R353: a SWITCH checks the other bank at execution. -/
def Side.switchBad (x : Side) (st : Staged) : Bool :=
  st.op == 0x51 && st.e.op5 % 4 == 2 &&
    (match coreOfSrc (st.e.op4 % 2 ^ 15) with
     | some c => !x.imageOk c (1 - (x.coreOf c).bank)
     | none => false)

/-- Steps 3 and 4 on the side a command acts on: its boundary is resolved and it is staged; IMMEDIATE commands other than CONFIGURE take
effect here. -/
def State.arrive (s : State) (sd : SideId) (st : Staged) : State :=
  let x := s.side sd
  match x.resolveBnd s.keel.up st.texec st.op st.e with
  | .error e => s.refuse sd st e
  | .ok b =>
    let st := { st with bnd := b }
    if x.switchBad st then s.refuse sd st stFwCheck
    else
      let s := s.mod sd (fun x => { x with host := { x.host with staged := x.host.staged ++ [st] } })
      if st.op == 0x01 then effFence sd st s
      else if st.op == 0x44 then stageHandover sd st (match b with | .time t => t | _ => st.texec + nsLsb 2000) s
      else if st.op == 0x61 then effStrobe sd st s
      else if st.op == 0x02 && !CmdEntry.readback st.e then s
      else match b with
        | .now => s.runStaged sd st st.texec
        | .time t => if t ≤ x.now then s.runStaged sd st t else s
        | _ => s

/-- Staging entries of a ring that are occupied (R271): commands on either side, and completions not yet written. -/
def Side.occupied (x : Side) (ring : Fin 8) : Nat :=
  (x.host.staged.filter (fun d => d.issuer == x.who && d.ring == ring)).length + (x.host.remote.filter (fun p => p.1 == ring)).length
    + (x.host.compl.filter (fun c => c.ring == ring)).length

/-- R271, R284: a ring can execute its next command. -/
def State.ringCan (s : State) (sd : SideId) (ring : Fin 8) : Bool :=
  let x := s.side sd
  let r := lget x.host.cmd ring.val ⟨0, 0, none⟩
  s.dmaWorks sd && x.on (CMDQ_CFG.EN ring.val) && !bitAt (x.get RING_ERR.CMD_ERR) ring.val && decide (r.ci < r.pi) && r.waitId.isNone
    && decide (x.occupied ring < 8) && !x.pwr.fatal
    && !x.host.staged.any (fun d => d.op == 0x01 && d.issuer == sd && bitAt d.e.op4 0)

/-- R271: the rings are served round-robin: it is a ring's turn if none from the one whose turn comes next up to it can execute. -/
def State.ringTurn (s : State) (sd : SideId) (ring : Fin 8) : Bool :=
  let t := (s.side sd).host.turn
  (List.finRange 8).all (fun j => !((j - t) < (ring - t)) || !s.ringCan sd j)

/-- R271: a ring executes its next command. -/
def State.ringReady (s : State) (sd : SideId) (ring : Fin 8) : Bool := s.ringCan sd ring && s.ringTurn sd ring

/-- A ring's next entry is taken: its identifier is used up, CMD_CI passes it, and the turn passes on. -/
def State.takeEntry (s : State) (sd : SideId) (ring : Fin 8) (wait : Bool) : State :=
  let x := s.side sd
  let h := x.host
  let ci := (lget h.cmd ring.val ⟨0, 0, none⟩).ci + 1
  let h := { h with nextId := h.nextId + 1, turn := ring + 1, cmd := lmod h.cmd ring.val (fun r => { r with ci := ci, waitId := if wait then some h.nextId else none }) }
  (s.setSide sd { x with host := h }).putIndex sd (0x800 + 8 * ring.val) ci

/-- The next command of a ring executes (R271); one that acts on the other side is sent through the Keel (R274). -/
def issueCmd (sd : SideId) (ring : Fin 8) (op : Nat) (e : CmdEntry) (data : DmaData) (s : State) : State :=
  if !s.ringReady sd ring || s.operandWaits op e then s
  else
    let x := s.side sd
    let st : Staged := ⟨x.host.nextId, sd, ring, op, e, [], .now, x.now, false, false, [], []⟩
    let s := s.takeEntry sd ring e.wait
    if stepOne op e != stOK then s.refuse sd st (stepOne op e)
    else
      let r := s.operand sd op e data
      match r.2 with
      | .error f => r.1.refuse sd st f
      | .ok ws =>
        let s := r.1
        let st := { st with words := ws }
        let a := actingSide sd op e
        if a == sd then s.arrive sd st
        else if !s.keel.up then s.refuse sd st stKeelDown
        else
          let s := s.mod sd (fun x => { x with host := { x.host with remote := x.host.remote ++ [(ring, st.id)] } })
          { s with keel := { s.keel with cmds := s.keel.cmds ++ [(a, st)] } }

/-- No operand data. -/
def noData : DmaData := ⟨true, false, []⟩

/-- REMOTE_COMMAND (R274): the oldest command sent to a side reaches it and is staged there. -/
def execRemoteCommand (sd : SideId) (s : State) : Host.Outcome State Fault Refusal :=
  .next (if s.held || !s.keel.up then s
    else match s.keel.cmds.find? (fun p => p.1 == sd) with
    | none => s
    | some p =>
      let s := { s with keel := { s.keel with cmds := s.keel.cmds.erase p } }
      if (s.side sd).pwr.fatal then s.refuse sd p.2 stAborted else s.arrive sd p.2)

/-- BOUNDARY_REACHED (R273): the boundary of staged command n of a side has come. -/
def execBoundaryReached (sd : SideId) (n : Nat) (s : State) : Host.Outcome State Fault Refusal :=
  let x := s.side sd
  .next (if s.held then s else match x.host.staged[n]? with
    | none => s
    | some st =>
      if !st.waits then s
      else if st.reached then (if x.behind st then s else s.runStaged sd st x.now)
      else match x.instantOf st with
        | some t => s.runStaged sd st t
        | none => s)

/-! ### The rows of CONFIGURE -/

/-- The first staged CONFIGURE of a block type and channel whose boundary has come takes effect. -/
def State.applyBlock (s : State) (sd : SideId) (ty : Nat) (p : Staged → Bool) : State :=
  let x := s.side sd
  if s.held then s else
  match x.host.staged.find? (fun st => st.op == 0x02 && st.waits && !CmdEntry.readback st.e && st.blkType == ty && p st
      && (st.reached || (x.instantOf st).isSome)) with
  | none => s
  | some st => if st.reached && x.behind st then s else s.runStaged sd st ((if st.reached then none else x.instantOf st).getD x.now)

/-- CONFIGURE (R285): READBACK = 0. -/
def execConfigure (sd : SideId) (ring : Fin 8) (e : CmdEntry) (data : DmaData) (s : State) : Host.Outcome State Fault Refusal :=
  .next (issueCmd sd ring 0x02 { e with w5 := e.w5 &&& ~~~(BitVec.ofNat 64 (2 ^ 33)) } data s)

/-- READBACK (R285): READBACK = 1. -/
def execReadback (sd : SideId) (ring : Fin 8) (e : CmdEntry) (s : State) : Host.Outcome State Fault Refusal :=
  .next (issueCmd sd ring 0x02 { e with w5 := e.w5 ||| BitVec.ofNat 64 (2 ^ 33) } noData s)

/-- CONFIGURE_FRONT_END (R72). -/
def execConfigureFrontEnd (sd : SideId) (ch : Chan) (s : State) : Host.Outcome State Fault Refusal :=
  .next (s.applyBlock sd 1 (fun st => blkChan 1 st.target == some ch))

/-- CONFIGURE_TRANSFORM (R103). -/
def execConfigureTransform (sd : SideId) (ch : Chan) (s : State) : Host.Outcome State Fault Refusal :=
  .next (s.applyBlock sd 2 (fun st => blkChan 2 st.target == some ch))

/-- CONFIGURE_SPECTRAL (R151). -/
def execConfigureSpectral (sd : SideId) (ch : Chan) (s : State) : Host.Outcome State Fault Refusal :=
  .next (s.applyBlock sd 3 (fun st => blkChan 3 st.target == some ch))

/-- CONFIGURE_DENSITY (R167). -/
def execConfigureDensity (sd : SideId) (ch : Chan) (s : State) : Host.Outcome State Fault Refusal :=
  .next (s.applyBlock sd 4 (fun st => blkChan 4 st.target == some ch))

/-- CONFIGURE_STARTER (R219). -/
def execConfigureStarter (sd : SideId) (s : State) : Host.Outcome State Fault Refusal :=
  .next (s.applyBlock sd 5 (fun _ => true))

/-- CONFIGURE_RECORD (R221): word 0 [35] names the channel. -/
def execConfigureRecord (sd : SideId) (ch : Chan) (s : State) : Host.Outcome State Fault Refusal :=
  .next (s.applyBlock sd 6 (fun st => chanOf (bf st.words 0 35 35) == ch))

/-! ### The rows of the other opcodes (R282) -/

/-- NOP (R283). -/
def execNop (sd : SideId) (ring : Fin 8) (e : CmdEntry) (s : State) : Host.Outcome State Fault Refusal := .next (issueCmd sd ring 0x00 e noData s)

/-- FENCE (R284). -/
def execFence (sd : SideId) (ring : Fin 8) (e : CmdEntry) (s : State) : Host.Outcome State Fault Refusal := .next (issueCmd sd ring 0x01 e noData s)

/-- LOAD_TABLE (R286). -/
def execLoadTable (sd : SideId) (ring : Fin 8) (e : CmdEntry) (data : DmaData) (s : State) : Host.Outcome State Fault Refusal :=
  .next (issueCmd sd ring 0x03 e data s)

/-- ARM (R225, R226). -/
def execArm (sd : SideId) (ring : Fin 8) (e : CmdEntry) (s : State) : Host.Outcome State Fault Refusal := .next (issueCmd sd ring 0x10 e noData s)

/-- DISARM (R229). -/
def execDisarm (sd : SideId) (ring : Fin 8) (e : CmdEntry) (s : State) : Host.Outcome State Fault Refusal := .next (issueCmd sd ring 0x11 e noData s)

/-- FORCE (R211). -/
def execForce (sd : SideId) (ring : Fin 8) (e : CmdEntry) (s : State) : Host.Outcome State Fault Refusal := .next (issueCmd sd ring 0x12 e noData s)

/-- READ_RECORD (R233). -/
def execReadRecord (sd : SideId) (ring : Fin 8) (e : CmdEntry) (s : State) : Host.Outcome State Fault Refusal :=
  .next (issueCmd sd ring 0x13 e noData s)

/-- STREAM_START (R235). -/
def execStreamStart (sd : SideId) (ring : Fin 8) (e : CmdEntry) (s : State) : Host.Outcome State Fault Refusal :=
  .next (issueCmd sd ring 0x20 e noData s)

/-- STREAM_STOP (R236). -/
def execStreamStop (sd : SideId) (ring : Fin 8) (e : CmdEntry) (s : State) : Host.Outcome State Fault Refusal :=
  .next (issueCmd sd ring 0x21 e noData s)

/-- DENSITY_READ (R165). -/
def execDensityRead (sd : SideId) (ring : Fin 8) (e : CmdEntry) (s : State) : Host.Outcome State Fault Refusal :=
  .next (issueCmd sd ring 0x22 e noData s)

/-- TRACE_READ (R148). -/
def execTraceRead (sd : SideId) (ring : Fin 8) (e : CmdEntry) (s : State) : Host.Outcome State Fault Refusal :=
  .next (issueCmd sd ring 0x23 e noData s)

/-- CAL_RUN (R399). -/
def execCalRun (sd : SideId) (ring : Fin 8) (e : CmdEntry) (s : State) : Host.Outcome State Fault Refusal := .next (issueCmd sd ring 0x30 e noData s)

/-- CAL_RESTORE (R405). -/
def execCalRestore (sd : SideId) (ring : Fin 8) (e : CmdEntry) (s : State) : Host.Outcome State Fault Refusal :=
  .next (issueCmd sd ring 0x31 e noData s)

/-- LANE_RETIRE (R97). -/
def execLaneRetire (sd : SideId) (ring : Fin 8) (e : CmdEntry) (s : State) : Host.Outcome State Fault Refusal :=
  .next (issueCmd sd ring 0x40 e noData s)

/-- LANE_RETURN (R100). -/
def execLaneReturn (sd : SideId) (ring : Fin 8) (e : CmdEntry) (s : State) : Host.Outcome State Fault Refusal :=
  .next (issueCmd sd ring 0x41 e noData s)

/-- ISLAND_QUIESCE (R16, R287). -/
def execIslandQuiesce (sd : SideId) (ring : Fin 8) (e : CmdEntry) (s : State) : Host.Outcome State Fault Refusal :=
  .next (issueCmd sd ring 0x42 e noData s)

/-- ISLAND_RESUME (R16, R287). -/
def execIslandResume (sd : SideId) (ring : Fin 8) (e : CmdEntry) (s : State) : Host.Outcome State Fault Refusal :=
  .next (issueCmd sd ring 0x43 e noData s)

/-- COX_HANDOVER (R32 to R34). -/
def execCoxHandover (sd : SideId) (ring : Fin 8) (e : CmdEntry) (s : State) : Host.Outcome State Fault Refusal :=
  .next (issueCmd sd ring 0x44 e noData s)

/-- COXCORE_LOAD (R351). -/
def execCoxcoreLoad (sd : SideId) (ring : Fin 8) (e : CmdEntry) (data : DmaData) (s : State) : Host.Outcome State Fault Refusal :=
  .next (issueCmd sd ring 0x50 e data s)

/-- COXCORE_START (R352). -/
def execCoxcoreStart (sd : SideId) (ring : Fin 8) (e : CmdEntry) (s : State) : Host.Outcome State Fault Refusal :=
  .next (issueCmd sd ring 0x51 e noData s)

/-- TONE_STAGE (R376). -/
def execToneStage (sd : SideId) (ring : Fin 8) (e : CmdEntry) (s : State) : Host.Outcome State Fault Refusal :=
  .next (issueCmd sd ring 0x60 e noData s)

/-- STROBE (R379). -/
def execStrobe (sd : SideId) (ring : Fin 8) (e : CmdEntry) (s : State) : Host.Outcome State Fault Refusal := .next (issueCmd sd ring 0x61 e noData s)

/-- DISPLAY_COMMIT (R431). -/
def execDisplayCommit (sd : SideId) (ring : Fin 8) (e : CmdEntry) (s : State) : Host.Outcome State Fault Refusal :=
  .next (issueCmd sd ring 0x70 e noData s)

/-- BAD_OPCODE (R282): an entry whose opcode is not in the table; or an entry whose DMA read failed, which stops the ring (R267). -/
def execBadOpcode (sd : SideId) (ring : Fin 8) (read : Bool) (e : CmdEntry) (s : State) : Host.Outcome State Fault Refusal :=
  .next (
    if !read then (if s.ringReady sd ring then s.mod sd (fun x => x.stopRing RING_ERR.CMD_ERR ring.val ring.val 2) else s)
    else if (opKinds e.opcode.toNat).isSome then s
    else issueCmd sd ring e.opcode.toNat e noData s)

end Sys2Proof.Machine
end

