-- ==== Sys2Proof/Machine/SmbusTap.lean ====
section
/-! DEFINITION. The SMBus target (R469) and the test access port (R470). -/

namespace Sys2Proof.Machine

/-! ### SMBus (R469) -/

/-- The package with its state replaced. -/
def State.modPkg (s : State) (f : Package → Package) : State := { s with pkg := f s.pkg }

/-- R442: with VDD off the SMBus pins are high-impedance. -/
def State.smbOn (s : State) : Bool := s.pkg.railOk

/-- SMB_ALERT_N is asserted while FAULT_N of either side is. -/
def State.smbAlert (s : State) : Bool := s.stroke.on FAULT_STAT.FAULT_N || s.bow.on FAULT_STAT.FAULT_N

/-- SET_INDEX: [20] side, [19:0] register index. -/
def execSmbSetIndex (v : BitVec 24) (s : State) : Host.Outcome State Fault Refusal :=
  .next (if s.smbOn then s.modPkg (fun p => { p with smbSide := bitAt v.toNat 20, smbIdx := v.toNat % 2 ^ 20 }) else s)

/-- A READ of a register returns a value: the side is not held in reset and the register is served; AVS_VID from PHASE 2 on. -/
def State.smbServes (s : State) (sd : SideId) (idx : Nat) : Bool :=
  let x := s.side sd
  !s.held && (if idx == AVS_VID.whole.idx then decide (x.get INIT_STAT.PHASE ≥ 2) else x.serves idx)

/-- READ: the register without side effects, FRESH as no master has seen it; the index advances. -/
def execSmbRead (s : State) : Host.Outcome State Fault Refusal :=
  let sd := SideId.ofBit s.pkg.smbSide
  let idx := s.pkg.smbIdx
  let ok := s.smbServes sd idx
  .next (if !s.smbOn then s
    else ((if ok then s.setRd [(s.side sd).live 11 idx] else s.setRd [0]).modPkg (fun p => { p with smbIdx := (idx + 1) % 2 ^ 20, smbZero := !ok })))

/-- STATUS: the always-on domains that run, and whether the last READ returned zero. -/
def execSmbStatus (s : State) : Host.Outcome State Fault Refusal :=
  .next (if s.smbOn then s.setRd [wordN (3 * b2n (!s.held) + 4 * b2n s.pkg.smbZero)] else s)

/-! ### The test access port (R470) -/

/-- Cells of the boundary register. -/
def boundaryLen : Nat := 4710

/-- n bits the spec leaves open: what the cells of the boundary register capture. -/
def State.takeBits (s : State) (n : Nat) : List Bool × State :=
  ((List.range n).map (fun i => (Config.freeValue (s.free + i)).getLsbD 0), { s with free := s.free + n })

/-- The boundary register is captured, shifted by the bits of `shift`, the first of which enters first, and updated. The cell of A1 is
nearest TDO. -/
def State.boundaryScan (s : State) (ir : Nat) (shift : List Bool) : State :=
  let c := s.takeBits boundaryLen
  let r := c.1 ++ shift
  c.2.modPkg (fun p => { p with tapIr := ir, tdo := r.take shift.length, boundary := r.drop shift.length })

/-- R470: outputs follow the boundary register. -/
def State.outputsFollow (s : State) : Bool := [0x00, 0x03, 0x04, 0x08, 0x09].contains s.pkg.tapIr

/-- EXTEST. -/
def execExtest (shift : List Bool) (s : State) : Host.Outcome State Fault Refusal := .next (s.boundaryScan 0x00 shift)

/-- SAMPLE/PRELOAD. -/
def execSamplePreload (shift : List Bool) (s : State) : Host.Outcome State Fault Refusal := .next (s.boundaryScan 0x01 shift)

/-- IDCODE: the 32 bits of 0x0481_0F2D leave at TDO, least significant first. -/
def execIdcode (s : State) : Host.Outcome State Fault Refusal :=
  .next (s.modPkg (fun p => { p with tapIr := 0x02, tdo := (List.range 32).map (bitAt 0x04810F2D) }))

/-- HIGHZ: the bypass register is selected; it captures 0. -/
def execHighz (s : State) : Host.Outcome State Fault Refusal := .next (s.modPkg (fun p => { p with tapIr := 0x03, bypass := false, tdo := [] }))

/-- CLAMP: the bypass register is selected; it captures 0. -/
def execClamp (s : State) : Host.Outcome State Fault Refusal := .next (s.modPkg (fun p => { p with tapIr := 0x04, bypass := false, tdo := [] }))

/-- EXTEST_PULSE. -/
def execExtestPulse (shift : List Bool) (s : State) : Host.Outcome State Fault Refusal := .next (s.boundaryScan 0x08 shift)

/-- EXTEST_TRAIN. -/
def execExtestTrain (shift : List Bool) (s : State) : Host.Outcome State Fault Refusal := .next (s.boundaryScan 0x09 shift)

/-- BYPASS, or a code that is not listed: the bypass register captures 0, which leaves at TDO as a bit is shifted in. -/
def execBypass (code : BitVec 8) (tdi : Bool) (s : State) : Host.Outcome State Fault Refusal :=
  .next (if [0x00, 0x01, 0x02, 0x03, 0x04, 0x08, 0x09].contains code.toNat then s
    else s.modPkg (fun p => { p with tapIr := code.toNat, bypass := tdi, tdo := [false] }))

end Sys2Proof.Machine
end

