-- ==== Sys2Proof/Machine/Dispatch.lean ====
section
/-! DEFINITION. One arm per row of the opcode table: what a command does to everything but the queue. -/

namespace Sys2Proof.Machine

def exec (i : Instr) (s : State) : Host.Outcome State Fault Refusal :=
  match i with
  | .islandQuiesce sd ring e => Sys2Proof.Machine.execIslandQuiesce sd ring e s
  | .quiesced sd src => Sys2Proof.Machine.execQuiesced sd src s
  | .quiesceTimeout sd src => Sys2Proof.Machine.execQuiesceTimeout sd src s
  | .islandResume sd ring e => Sys2Proof.Machine.execIslandResume sd ring e s
  | .keelUp => Sys2Proof.Machine.execKeelUp s
  | .keelDown => Sys2Proof.Machine.execKeelDown s
  | .keelRetrain sd => Sys2Proof.Machine.execKeelRetrain sd s
  | .coxResolution => Sys2Proof.Machine.execCoxResolution s
  | .splitCrewTimeout => Sys2Proof.Machine.execSplitCrewTimeout s
  | .coxHandover sd ring e => Sys2Proof.Machine.execCoxHandover sd ring e s
  | .coxTaken => Sys2Proof.Machine.execCoxTaken s
  | .lowWordRead sd m via off => Sys2Proof.Machine.execLowWordRead sd m via off s
  | .highWordRead sd m space off => Sys2Proof.Machine.execHighWordRead sd m space off s
  | .resultRead sd m idx => Sys2Proof.Machine.execResultRead sd m idx s
  | .highWordWrite sd m idx v => Sys2Proof.Machine.execHighWordWrite sd m idx v s
  | .lowWordWrite sd m idx v => Sys2Proof.Machine.execLowWordWrite sd m idx v s
  | .pairWrite sd m idx lo hi => Sys2Proof.Machine.execPairWrite sd m idx lo hi s
  | .registerWrite sd m place bytes ep => Sys2Proof.Machine.execRegisterWrite sd m place bytes ep s
  | .jesdCfgWrite sd m ch v => Sys2Proof.Machine.execJesdCfgWrite sd m ch v s
  | .shLock sd ch lane => Sys2Proof.Machine.execShLock sd ch lane s
  | .embLock sd ch lane => Sys2Proof.Machine.execEmbLock sd ch lane s
  | .lemcMeasure sd ch counts => Sys2Proof.Machine.execLemcMeasure sd ch counts s
  | .sysrefEdge sd => Sys2Proof.Machine.execSysrefEdge sd s
  | .linkUp sd ch late => Sys2Proof.Machine.execLinkUp sd ch late s
  | .laneMultiblock sd ch lane crcOk => Sys2Proof.Machine.execLaneMultiblock sd ch lane crcOk s
  | .linkLost sd ch lane => Sys2Proof.Machine.execLinkLost sd ch lane s
  | .linkResume sd l => Sys2Proof.Machine.execLinkResume sd l s
  | .analysisSample sd ch codes => Sys2Proof.Machine.execAnalysisSample sd ch codes s
  | .configure sd ring e data => Sys2Proof.Machine.execConfigure sd ring e data s
  | .readback sd ring e => Sys2Proof.Machine.execReadback sd ring e s
  | .configureFrontEnd sd ch => Sys2Proof.Machine.execConfigureFrontEnd sd ch s
  | .feStart sd ch => Sys2Proof.Machine.execFeStart sd ch s
  | .ncoChange sd ch => Sys2Proof.Machine.execNcoChange sd ch s
  | .fadeStart sd ch => Sys2Proof.Machine.execFadeStart sd ch s
  | .eqFadeDone sd ch => Sys2Proof.Machine.execEqFadeDone sd ch s
  | .loadTable sd ring e data => Sys2Proof.Machine.execLoadTable sd ring e data s
  | .configureTransform sd ch => Sys2Proof.Machine.execConfigureTransform sd ch s
  | .frameDispatch sd ch overrun => Sys2Proof.Machine.execFrameDispatch sd ch overrun s
  | .frameRelease sd ch => Sys2Proof.Machine.execFrameRelease sd ch s
  | .checkerTrip sd t also => Sys2Proof.Machine.execCheckerTrip sd t also s
  | .laneRetire sd ring e => Sys2Proof.Machine.execLaneRetire sd ring e s
  | .laneRetireDone sd seat mismatches => Sys2Proof.Machine.execLaneRetireDone sd seat mismatches s
  | .laneReturn sd ring e => Sys2Proof.Machine.execLaneReturn sd ring e s
  | .laneReturnDone sd seat trip => Sys2Proof.Machine.execLaneReturnDone sd seat trip s
  | .ppCheckerTrip sd ch again => Sys2Proof.Machine.execPpCheckerTrip sd ch again s
  | .configureSpectral sd ch => Sys2Proof.Machine.execConfigureSpectral sd ch s
  | .ppFrame sd ch => Sys2Proof.Machine.execPpFrame sd ch s
  | .maskSwap sd ch k => Sys2Proof.Machine.execMaskSwap sd ch k s
  | .spgLineWrite sd ch inTime => Sys2Proof.Machine.execSpgLineWrite sd ch inTime s
  | .xsPartnerFrame sd p => Sys2Proof.Machine.execXsPartnerFrame sd p s
  | .traceRead sd ring e => Sys2Proof.Machine.execTraceRead sd ring e s
  | .traceReadDone sd => Sys2Proof.Machine.execTraceReadDone sd s
  | .configureDensity sd ch => Sys2Proof.Machine.execConfigureDensity sd ch s
  | .densityFrame sd ch => Sys2Proof.Machine.execDensityFrame sd ch s
  | .densityRead sd ring e => Sys2Proof.Machine.execDensityRead sd ring e s
  | .densityCopyStart sd ch => Sys2Proof.Machine.execDensityCopyStart sd ch s
  | .densityReadDone sd ch copied => Sys2Proof.Machine.execDensityReadDone sd ch copied s
  | .tie sd st => Sys2Proof.Machine.execTie sd st s
  | .rtIncCommit sd => Sys2Proof.Machine.execRtIncCommit sd s
  | .rtLoad sd => Sys2Proof.Machine.execRtLoad sd s
  | .rtSetSec sd m v => Sys2Proof.Machine.execRtSetSec sd m v s
  | .ppsEdge sd e => Sys2Proof.Machine.execPpsEdge sd e s
  | .ppsLost sd => Sys2Proof.Machine.execPpsLost sd s
  | .rtSyncSend => Sys2Proof.Machine.execRtSyncSend s
  | .crossSideSync => Sys2Proof.Machine.execCrossSideSync s
  | .splitEdge sd src fall st => Sys2Proof.Machine.execSplitEdge sd src fall st s
  | .windowExpiry sd => Sys2Proof.Machine.execWindowExpiry sd s
  | .eventStamp sd src fall st => Sys2Proof.Machine.execEventStamp sd src fall st s
  | .swapIp sd m n v => Sys2Proof.Machine.execSwapIp sd m n v s
  | .interpolatorSwap sd src => Sys2Proof.Machine.execInterpolatorSwap sd src s
  | .thresholdApply sd src => Sys2Proof.Machine.execThresholdApply sd src s
  | .splitRingCfgWrite sd m v => Sys2Proof.Machine.execSplitRingCfgWrite sd m v s
  | .occurrence sd o t => Sys2Proof.Machine.execOccurrence sd o t s
  | .instant sd => Sys2Proof.Machine.execInstant sd s
  | .timer sd k => Sys2Proof.Machine.execTimer sd k s
  | .count sd k => Sys2Proof.Machine.execCount sd k s
  | .force sd ring e => Sys2Proof.Machine.execForce sd ring e s
  | .xside sd => Sys2Proof.Machine.execXside sd s
  | .dtrigRequest => Sys2Proof.Machine.execDtrigRequest s
  | .trigoutPulse sd pin => Sys2Proof.Machine.execTrigoutPulse sd pin s
  | .trigoutEnd sd pin => Sys2Proof.Machine.execTrigoutEnd sd pin s
  | .configureStarter sd => Sys2Proof.Machine.execConfigureStarter sd s
  | .configureRecord sd ch => Sys2Proof.Machine.execConfigureRecord sd ch s
  | .arm sd ring e => Sys2Proof.Machine.execArm sd ring e s
  | .acqWrite sd ch n => Sys2Proof.Machine.execAcqWrite sd ch n s
  | .segmentDone sd ch => Sys2Proof.Machine.execSegmentDone sd ch s
  | .recordDone sd ch => Sys2Proof.Machine.execRecordDone sd ch s
  | .disarm sd ring e => Sys2Proof.Machine.execDisarm sd ring e s
  | .readRecord sd ring e => Sys2Proof.Machine.execReadRecord sd ring e s
  | .readRecordDone sd ch => Sys2Proof.Machine.execReadRecordDone sd ch s
  | .streamStart sd ring e => Sys2Proof.Machine.execStreamStart sd ring e s
  | .streamStop sd ring e => Sys2Proof.Machine.execStreamStop sd ring e s
  | .streamStopDone sd r => Sys2Proof.Machine.execStreamStopDone sd r s
  | .streamPacket sd r hostOk desc => Sys2Proof.Machine.execStreamPacket sd r hostOk desc s
  | .spillDrain sd r hostOk desc => Sys2Proof.Machine.execSpillDrain sd r hostOk desc s
  | .perstN sd => Sys2Proof.Machine.execPerstN sd s
  | .pcieLinkUp sd speed width => Sys2Proof.Machine.execPcieLinkUp sd speed width s
  | .windowWrite sd win off d => Sys2Proof.Machine.execWindowWrite sd win off d s
  | .windowRead sd win off len => Sys2Proof.Machine.execWindowRead sd win off len s
  | .windowMergeTimeout sd win => Sys2Proof.Machine.execWindowMergeTimeout sd win s
  | .winCfgWrite sd m n v => Sys2Proof.Machine.execWinCfgWrite sd m n v s
  | .routeBowWrite sd m v => Sys2Proof.Machine.execRouteBowWrite sd m v s
  | .accErrClear sd m v => Sys2Proof.Machine.execAccErrClear sd m v s
  | .tunnelReadDone sd => Sys2Proof.Machine.execTunnelReadDone sd s
  | .doorbellPoll sd page => Sys2Proof.Machine.execDoorbellPoll sd page s
  | .nudge sd m => Sys2Proof.Machine.execNudge sd m s
  | .boundaryReached sd n => Sys2Proof.Machine.execBoundaryReached sd n s
  | .completionWrite sd cq => Sys2Proof.Machine.execCompletionWrite sd cq s
  | .eventWrite sd => Sys2Proof.Machine.execEventWrite sd s
  | .modTime sd src => Sys2Proof.Machine.execModTime sd src s
  | .ringCfgWrite sd m idx v => Sys2Proof.Machine.execRingCfgWrite sd m idx v s
  | .remoteCommand sd => Sys2Proof.Machine.execRemoteCommand sd s
  | .remoteCompletion sd => Sys2Proof.Machine.execRemoteCompletion sd s
  | .nop sd ring e => Sys2Proof.Machine.execNop sd ring e s
  | .fence sd ring e => Sys2Proof.Machine.execFence sd ring e s
  | .calRun sd ring e => Sys2Proof.Machine.execCalRun sd ring e s
  | .calRestore sd ring e => Sys2Proof.Machine.execCalRestore sd ring e s
  | .calItemDone sd item runs => Sys2Proof.Machine.execCalItemDone sd item runs s
  | .calApply sd item => Sys2Proof.Machine.execCalApply sd item s
  | .calRestoreTimeout sd item => Sys2Proof.Machine.execCalRestoreTimeout sd item s
  | .calStoreWrite sd m idx v => Sys2Proof.Machine.execCalStoreWrite sd m idx v s
  | .coxcoreLoad sd ring e data => Sys2Proof.Machine.execCoxcoreLoad sd ring e data s
  | .coxcoreStart sd ring e => Sys2Proof.Machine.execCoxcoreStart sd ring e s
  | .coreHalted sd c => Sys2Proof.Machine.execCoreHalted sd c s
  | .coreSwitch sd c => Sys2Proof.Machine.execCoreSwitch sd c s
  | .switchTimeout sd c => Sys2Proof.Machine.execSwitchTimeout sd c s
  | .toneStage sd ring e => Sys2Proof.Machine.execToneStage sd ring e s
  | .strobe sd ring e => Sys2Proof.Machine.execStrobe sd ring e s
  | .displayCommit sd ring e => Sys2Proof.Machine.execDisplayCommit sd ring e s
  | .aluNop sd c o => Sys2Proof.Machine.execAluNop sd c o s
  | .add sd c o => Sys2Proof.Machine.execAdd sd c o s
  | .sub sd c o => Sys2Proof.Machine.execSub sd c o s
  | .adds sd c o => Sys2Proof.Machine.execAdds sd c o s
  | .subs sd c o => Sys2Proof.Machine.execSubs sd c o s
  | .and sd c o => Sys2Proof.Machine.execAnd sd c o s
  | .or sd c o => Sys2Proof.Machine.execOr sd c o s
  | .xor sd c o => Sys2Proof.Machine.execXor sd c o s
  | .not sd c o => Sys2Proof.Machine.execNot sd c o s
  | .neg sd c o => Sys2Proof.Machine.execNeg sd c o s
  | .abs sd c o => Sys2Proof.Machine.execAbs sd c o s
  | .min sd c o => Sys2Proof.Machine.execMin sd c o s
  | .max sd c o => Sys2Proof.Machine.execMax sd c o s
  | .mov sd c o => Sys2Proof.Machine.execMov sd c o s
  | .shl sd c o => Sys2Proof.Machine.execShl sd c o s
  | .shra sd c o => Sys2Proof.Machine.execShra sd c o s
  | .shrl sd c o => Sys2Proof.Machine.execShrl sd c o s
  | .lzc sd c o => Sys2Proof.Machine.execLzc sd c o s
  | .addh sd c o => Sys2Proof.Machine.execAddh sd c o s
  | .subh sd c o => Sys2Proof.Machine.execSubh sd c o s
  | .pack sd c o => Sys2Proof.Machine.execPack sd c o s
  | .seq sd c o => Sys2Proof.Machine.execSeq sd c o s
  | .slt sd c o => Sys2Proof.Machine.execSlt sd c o s
  | .sltu sd c o => Sys2Proof.Machine.execSltu sd c o s
  | .movi sd c d hi v => Sys2Proof.Machine.execMovi sd c d hi v s
  | .mpy sd c o => Sys2Proof.Machine.execMpy sd c o s
  | .mac sd c o => Sys2Proof.Machine.execMac sd c o s
  | .msu sd c o => Sys2Proof.Machine.execMsu sd c o s
  | .mpys sd c o => Sys2Proof.Machine.execMpys sd c o s
  | .macs sd c o => Sys2Proof.Machine.execMacs sd c o s
  | .msus sd c o => Sys2Proof.Machine.execMsus sd c o s
  | .macx sd c o => Sys2Proof.Machine.execMacx sd c o s
  | .nomac sd c o => Sys2Proof.Machine.execNomac sd c o s
  | .ldx sd c g a => Sys2Proof.Machine.execLdx sd c g a s
  | .stx sd c g a => Sys2Proof.Machine.execStx sd c g a s
  | .ldy sd c g a => Sys2Proof.Machine.execLdy sd c g a s
  | .sty sd c g a => Sys2Proof.Machine.execSty sd c g a s
  | .clra sd c o => Sys2Proof.Machine.execClra sd c o s
  | .lda sd c o => Sys2Proof.Machine.execLda sd c o s
  | .stsat sd c o => Sys2Proof.Machine.execStsat sd c o s
  | .mova sd c o => Sys2Proof.Machine.execMova sd c o s
  | .adda sd c o => Sys2Proof.Machine.execAdda sd c o s
  | .suba sd c o => Sys2Proof.Machine.execSuba sd c o s
  | .asr sd c o => Sys2Proof.Machine.execAsr sd c o s
  | .nega sd c o => Sys2Proof.Machine.execNega sd c o s
  | .bra sd c target => Sys2Proof.Machine.execBra sd c target s
  | .beqz sd c g target => Sys2Proof.Machine.execBeqz sd c g target s
  | .bnez sd c g target => Sys2Proof.Machine.execBnez sd c g target s
  | .bltz sd c g target => Sys2Proof.Machine.execBltz sd c g target s
  | .bgez sd c g target => Sys2Proof.Machine.execBgez sd c g target s
  | .call sd c target => Sys2Proof.Machine.execCall sd c target s
  | .ret sd c => Sys2Proof.Machine.execRet sd c s
  | .rti sd c => Sys2Proof.Machine.execRti sd c s
  | .halt sd c => Sys2Proof.Machine.execHalt sd c s
  | .wait sd c => Sys2Proof.Machine.execWait sd c s
  | .loopr sd c g endAt => Sys2Proof.Machine.execLoopr sd c g endAt s
  | .sig sd c g => Sys2Proof.Machine.execSig sd c g s
  | .swi sd c => Sys2Proof.Machine.execSwi sd c s
  | .waitt sd c tag => Sys2Proof.Machine.execWaitt sd c tag s
  | .brar sd c g => Sys2Proof.Machine.execBrar sd c g s
  | .loop sd c cnt endAt => Sys2Proof.Machine.execLoop sd c cnt endAt s
  | .ldl sd c o => Sys2Proof.Machine.execLdl sd c o s
  | .stl sd c o => Sys2Proof.Machine.execStl sd c o s
  | .bldx sd c o => Sys2Proof.Machine.execBldx sd c o s
  | .bstx sd c o => Sys2Proof.Machine.execBstx sd c o s
  | .bldy sd c o => Sys2Proof.Machine.execBldy sd c o s
  | .bsty sd c o => Sys2Proof.Machine.execBsty sd c o s
  | .mtc sd c creg g => Sys2Proof.Machine.execMtc sd c creg g s
  | .mfc sd c creg g => Sys2Proof.Machine.execMfc sd c creg g s
  | .illegal sd c cause => Sys2Proof.Machine.execIllegal sd c cause s
  | .tagComplete sd c tag => Sys2Proof.Machine.execTagComplete sd c tag s
  | .interruptEntry sd c => Sys2Proof.Machine.execInterruptEntry sd c s
  | .alarm sd c => Sys2Proof.Machine.execAlarm sd c s
  | .coxcoreMboxIn sd m c v => Sys2Proof.Machine.execCoxcoreMboxIn sd m c v s
  | .pllCommitF sd m => Sys2Proof.Machine.execPllCommitF sd m s
  | .pllCommitT sd m => Sys2Proof.Machine.execPllCommitT sd m s
  | .ladderStep sd => Sys2Proof.Machine.execLadderStep sd s
  | .pllLock sd lp => Sys2Proof.Machine.execPllLock sd lp s
  | .pllLoss sd lp => Sys2Proof.Machine.execPllLoss sd lp s
  | .refclkLost sd => Sys2Proof.Machine.execRefclkLost sd s
  | .refclkReturn sd => Sys2Proof.Machine.execRefclkReturn sd s
  | .coastExpiry l => Sys2Proof.Machine.execCoastExpiry l s
  | .loadStrobe sd => Sys2Proof.Machine.execLoadStrobe sd s
  | .strobeDistribution => Sys2Proof.Machine.execStrobeDistribution s
  | .rangeSettled sd o => Sys2Proof.Machine.execRangeSettled sd o s
  | .trackingStep sd o => Sys2Proof.Machine.execTrackingStep sd o s
  | .toneCfgWrite sd m v => Sys2Proof.Machine.execToneCfgWrite sd m v s
  | .monResult sd md p => Sys2Proof.Machine.execMonResult sd md p s
  | .monCfgWrite sd m v => Sys2Proof.Machine.execMonCfgWrite sd m v s
  | .refreshDue sd dc sub ports inTrans => Sys2Proof.Machine.execRefreshDue sd dc sub ports inTrans s
  | .refreshIssue sd dc sub => Sys2Proof.Machine.execRefreshIssue sd dc sub s
  | .mr4Read sd dc sub r => Sys2Proof.Machine.execMr4Read sd dc sub r s
  | .gatherTimeout sd b => Sys2Proof.Machine.execGatherTimeout sd b s
  | .dramRead sd blk reached flips => Sys2Proof.Machine.execDramRead sd blk reached flips s
  | .dqsOsc sd dc sub drifts => Sys2Proof.Machine.execDqsOsc sd dc sub drifts s
  | .srReq sd m v => Sys2Proof.Machine.execSrReq sd m v s
  | .fcReq sd m v => Sys2Proof.Machine.execFcReq sd m v s
  | .fcDone sd => Sys2Proof.Machine.execFcDone sd s
  | .dramPanicWrite sd m n v => Sys2Proof.Machine.execDramPanicWrite sd m n v s
  | .sramRead sd blk reached flips => Sys2Proof.Machine.execSramRead sd blk reached flips s
  | .mergeTimeout sd b => Sys2Proof.Machine.execMergeTimeout sd b s
  | .scrubBlock sd dram flips behind => Sys2Proof.Machine.execScrubBlock sd dram flips behind s
  | .sramRepairReq sd m v => Sys2Proof.Machine.execSramRepairReq sd m v s
  | .poisonAddrClear sd m v => Sys2Proof.Machine.execPoisonAddrClear sd m v s
  | .faultReport sd r => Sys2Proof.Machine.execFaultReport sd r s
  | .wireBroken sd cls src chk w => Sys2Proof.Machine.execWireBroken sd cls src chk w s
  | .faultAck sd m v => Sys2Proof.Machine.execFaultAck sd m v s
  | .faultInj sd m v => Sys2Proof.Machine.execFaultInj sd m v s
  | .faultSummarySend sd => Sys2Proof.Machine.execFaultSummarySend sd s
  | .faultSummary sd => Sys2Proof.Machine.execFaultSummary sd s
  | .watchdogExpiry sd => Sys2Proof.Machine.execWatchdogExpiry sd s
  | .aliveToggle sd => Sys2Proof.Machine.execAliveToggle sd s
  | .vblank sd => Sys2Proof.Machine.execVblank sd s
  | .lineCompose sd ready overlay => Sys2Proof.Machine.execLineCompose sd ready overlay s
  | .soCommit sd m v => Sys2Proof.Machine.execSoCommit sd m v s
  | .soEnable sd m v => Sys2Proof.Machine.execSoEnable sd m v s
  | .timingRestart sd => Sys2Proof.Machine.execTimingRestart sd s
  | .hpdPlug sd sink => Sys2Proof.Machine.execHpdPlug sd sink s
  | .hpdUnplug sd => Sys2Proof.Machine.execHpdUnplug sd s
  | .irqHpd sd lost sink => Sys2Proof.Machine.execIrqHpd sd lost sink s
  | .resetN => Sys2Proof.Machine.execResetN s
  | .resetNRelease coxpref bootsrc => Sys2Proof.Machine.execResetNRelease coxpref bootsrc s
  | .railOutOfRange => Sys2Proof.Machine.execRailOutOfRange s
  | .initPhase sd r => Sys2Proof.Machine.execInitPhase sd r s
  | .sideReset sd m v => Sys2Proof.Machine.execSideReset sd m v s
  | .sideResetAssert sd => Sys2Proof.Machine.execSideResetAssert sd s
  | .islReset sd m v => Sys2Proof.Machine.execIslReset sd m v s
  | .dramMapout sd m v => Sys2Proof.Machine.execDramMapout sd m v s
  | .mapoutDone sd => Sys2Proof.Machine.execMapoutDone sd s
  | .smbSetIndex v => Sys2Proof.Machine.execSmbSetIndex v s
  | .smbRead => Sys2Proof.Machine.execSmbRead s
  | .smbStatus => Sys2Proof.Machine.execSmbStatus s
  | .extest shift => Sys2Proof.Machine.execExtest shift s
  | .samplePreload shift => Sys2Proof.Machine.execSamplePreload shift s
  | .idcode => Sys2Proof.Machine.execIdcode s
  | .highz => Sys2Proof.Machine.execHighz s
  | .clamp => Sys2Proof.Machine.execClamp s
  | .extestPulse shift => Sys2Proof.Machine.execExtestPulse shift s
  | .extestTrain shift => Sys2Proof.Machine.execExtestTrain shift s
  | .bypass code tdi => Sys2Proof.Machine.execBypass code tdi s
  | .badOpcode sd ring read e => Sys2Proof.Machine.execBadOpcode sd ring read e s
  | .dacSample sd o prefetched => Sys2Proof.Machine.execDacSample sd o prefetched s
  | .calSwapTimeout sd src => Sys2Proof.Machine.execCalSwapTimeout sd src s
  | .railValid => Sys2Proof.Machine.execRailValid s

end Sys2Proof.Machine
end

