-- ==== Sys2Proof/Machine/Tick.lean ====
section
/-! DEFINITION. What the block does while no command waits: one rising DEVCLK edge of both sides (R169, R170, R172). -/

namespace Sys2Proof.Machine

/-- A side takes a load of race time at its next DEVCLK edge (R172). -/
def Side.loadDue (x : Side) : Bool := x.rt.loadPend.isSome && x.islRuns rtSrc

/-- One DEVCLK edge of both sides; nothing while the dies are held in reset. -/
def State.tick (s : State) : State :=
  if s.held then s
  else
    let t := (s.mod .stroke (fun x => x.devclk)).mod .bow (fun x => x.devclk)
    if s.stroke.loadDue || s.bow.loadDue then t.markStep else t

end Sys2Proof.Machine
end

