-- ==== Sys2Proof/WellFormed.lean ====
section
/-! DEFINITION. Commands whose operands the spec allows: a core instruction that an encoding spells (R335 to R338, R343), a ring
command whose data and READBACK bit fit its row (R285, R286), and happenings whose parts have the size the spec gives them. -/

namespace Sys2Proof

/-- R343: classes 0x1 has no ADDH, SUBH or PACK: operand B is a register. -/
def AluArgs.regOnly (o : AluArgs) : Bool := match o.b with
  | .reg _ => true
  | .imm _ => false

/-- R338: SH is at most 52, and at most 26 in pair mode. -/
def AccArgs.shOk (o : AccArgs) : Bool := decide (o.sh.toNat ≤ if o.pair then 26 else 52)

/-- R268: the entry's OPCODE. -/
def CmdEntry.isOp (e : CmdEntry) (op : Nat) : Bool := e.w0.toNat % 256 == op

/-- R250, R251, R285: operand data of n words, in the packing word 5 [32] names. -/
def DmaData.fits (d : DmaData) (e : CmdEntry) (n : Nat) : Bool :=
  !d.ok || d.bytes.length == (if e.w5.getLsbD 32 then (9 * n + 1) / 2 else 8 * n)

/-- NWORDS of a CONFIGURE, and of a LOAD_TABLE or COXCORE_LOAD (R285, R286). -/
def CmdEntry.blkWords (e : CmdEntry) : Nat := (e.w5.extractLsb' 24 8).toNat
def CmdEntry.tabWords (e : CmdEntry) : Nat := (e.w5.extractLsb' 0 17).toNat

/-- R282: the opcodes of the table. -/
def opcodes : List Nat :=
  [0x00, 0x01, 0x02, 0x03, 0x10, 0x11, 0x12, 0x13, 0x20, 0x21, 0x22, 0x23, 0x30, 0x31, 0x40, 0x41, 0x42, 0x43, 0x44, 0x50, 0x51, 0x60,
   0x61, 0x70]

/-- R470: codes of TAP instructions other than BYPASS. -/
def tapCodes : List Nat := [0x00, 0x01, 0x02, 0x03, 0x04, 0x08, 0x09]

/-- R36: the master number of a side's endpoint. -/
def endpoint (sd : SideId) : Nat := if sd = .stroke then 0 else 1

/-- The command is one the spec allows. Rows without a condition of their own allow every value of their operands' types. -/
def Instr.wf (i : Instr) : Bool :=
  match i with
  | .nop _ _ e => e.isOp 0x00
  | .fence _ _ e => e.isOp 0x01
  | .configure _ _ e d => e.isOp 0x02 && !e.w5.getLsbD 33 && (e.w5.getLsbD 63 || d.fits e e.blkWords)
  | .readback _ _ e => e.isOp 0x02 && e.w5.getLsbD 33
  | .loadTable _ _ e d => e.isOp 0x03 && (e.w5.getLsbD 63 || d.fits e e.tabWords)
  | .arm _ _ e => e.isOp 0x10
  | .disarm _ _ e => e.isOp 0x11
  | .force _ _ e => e.isOp 0x12
  | .readRecord _ _ e => e.isOp 0x13
  | .streamStart _ _ e => e.isOp 0x20
  | .streamStop _ _ e => e.isOp 0x21
  | .densityRead _ _ e => e.isOp 0x22
  | .traceRead _ _ e => e.isOp 0x23
  | .calRun _ _ e => e.isOp 0x30
  | .calRestore _ _ e => e.isOp 0x31
  | .laneRetire _ _ e => e.isOp 0x40
  | .laneReturn _ _ e => e.isOp 0x41
  | .islandQuiesce _ _ e => e.isOp 0x42
  | .islandResume _ _ e => e.isOp 0x43
  | .coxHandover _ _ e => e.isOp 0x44
  | .coxcoreLoad _ _ e d => e.isOp 0x50 && (e.w5.getLsbD 63 || d.fits e e.tabWords)
  | .coxcoreStart _ _ e => e.isOp 0x51
  | .toneStage _ _ e => e.isOp 0x60
  | .strobe _ _ e => e.isOp 0x61
  | .displayCommit _ _ e => e.isOp 0x70
  | .badOpcode _ _ read e => !read || !opcodes.contains (e.w0.toNat % 256)
  | .doorbellPoll _ page => match page with
    | none => true
    | some ws => ws.length == 48
  | .windowWrite _ _ _ d => !d.bytes.isEmpty
  | .registerWrite sd m place bs ep => match place with
    | .reg _ => bs.length == 8 && !ep
    | .bar0 _ => m.val == endpoint sd && !bs.isEmpty
    | .bar4 _ => m.val == endpoint sd && !bs.isEmpty && !ep
    | .noBar => m.val == endpoint sd
  | .lowWordRead sd m via off => match via with
    | .dev _ => true
    | .bar0 n => m.val == endpoint sd && decide (n ≥ 1 ∧ off.toNat < 2 ^ 24)
    | .bar4 n => m.val == endpoint sd && decide (n ≥ 1 ∧ off.toNat < 2 ^ 16)
    | .config => m.val == endpoint sd && decide (off.toNat < 1024)
    | .noBar => m.val == endpoint sd
  | .windowRead _ _ _ n => decide (n ≥ 1)
  | .bypass code _ => !tapCodes.contains code.toNat
  | .addh _ _ o => o.regOnly
  | .subh _ _ o => o.regOnly
  | .pack _ _ o => o.regOnly
  | .clra _ _ o => o.shOk
  | .lda _ _ o => o.shOk
  | .stsat _ _ o => o.shOk
  | .mova _ _ o => o.shOk
  | .adda _ _ o => o.shOk
  | .suba _ _ o => o.shOk
  | .asr _ _ o => o.shOk
  | .nega _ _ o => o.shOk
  | .mtc _ _ r _ => decide (r.toNat ≤ 38)
  | .mfc _ _ r _ => decide (r.toNat ≤ 38)
  | _ => true

end Sys2Proof
end

