-- ==== Sys2Proof/Safety.lean ====
section
/-! DEFINITION. What statements about the engine are made of: that a command has an effect, that a core executes an instruction, what an
instruction leaves of its core, and the conditions under which commands and register accesses are carried out. -/

namespace Sys2Proof.Machine

/-! ### Commands -/

/-- A command completes: `exec` answers a next state, of which P holds. -/
def Does (i : Instr) (s : State) (P : State → Prop) : Prop := ∃ t, exec i s = .next t ∧ P t

/-! ### Cox instructions -/

/-- The side a core belongs to once the core has fetched its next word; the read may have mended or poisoned a block (R294, R330). -/
def State.fetched (s : State) (sd : SideId) (c : Fin 4) : Side := ((s.side sd).fetch c.val).1

/-- R335, R340 to R343, R347, R349: core c of a side runs, no interrupt comes first, and the word at its PC is instruction i, which it may
execute and whose operands pass the core's checkers. -/
def State.executes (s : State) (sd : SideId) (c : Fin 4) (i : Instr) : Bool :=
  let k := (s.side sd).coreOf c.val
  s.mayIssue sd c.val && k.st == 1 && ((s.side sd).fetch c.val).2.any (fun w => decodeCox sd c w == some i) && k.violation i == none
    && k.checks i && (s.side sd).cores.length == 4

/-- The instruction completes: the state changes on its side alone, there in the cores alone, and there in core c alone, whose state before
and after it are in relation P. -/
def OnCore (s : State) (sd : SideId) (c : Fin 4) (i : Instr) (P : Core → Core → Prop) : Prop :=
  Does i s (fun t => t = s.setSide sd (t.side sd) ∧ t.side sd = { s.fetched sd c with cores := (t.side sd).cores }
    ∧ (∀ j, j ≠ c.val → (t.side sd).coreOf j = (s.fetched sd c).coreOf j)
    ∧ P ((s.fetched sd c).coreOf c.val) ((t.side sd).coreOf c.val))

/-- The register set a core had active. -/
def Core.setOf (k : Core) (shadow : Bool) : RegSet := if shadow then k.shadow else k.main

/-- R341, R342, R348: the core goes on to the next instruction: its PC, delay slot and loops are as the PC rules leave them. -/
def Core.goesOn (k k' : Core) : Prop :=
  k'.pc = k.advance.pc ∧ k'.slot = k.advance.slot ∧ k'.inSlot = k.advance.inSlot ∧ k'.rti = k.advance.rti ∧ k'.ctx = k.advance.ctx
    ∧ (k'.setOf k.ctx).loops = (k.advance.setOf k.ctx).loops

/-- What an instruction leaves of its core that writes at most its active register set and control registers named apart: the run state
and bank, the other set, the calls, the tags, and all that a SWITCH, a HALT or an alarm waits with. -/
def Core.kept (k k' : Core) : Prop :=
  k'.st = k.st ∧ k'.cause = k.cause ∧ k'.bank = k.bank ∧ k'.setOf (!k.ctx) = k.setOf (!k.ctx) ∧ k'.calls = k.calls ∧ k'.ops = k.ops
    ∧ k'.tagSt = k.tagSt ∧ k'.waitTag = k.waitTag ∧ k'.sw = k.sw ∧ k'.arg = k.arg ∧ k'.halts = k.halts

/-- The control registers of a core that are neither in a register set nor in `Core.kept` are left. -/
def Core.keptCtl (k k' : Core) : Prop :=
  k'.amod = k.amod ∧ k'.la = k.la ∧ k'.imask = k.imask ∧ k'.ipend = k.ipend ∧ k'.ipc = k.ipc ∧ k'.tsel = k.tsel
    ∧ k'.alarmLo = k.alarmLo ∧ k'.alarmHi = k.alarmHi ∧ k'.armed = k.armed ∧ k'.rtHi = k.rtHi

/-- R336, R340: gD takes v, SAT is set where the result was clamped; nothing else of the set changes, and nothing else of the core; a
branch just after still tests the old gD. -/
def Core.wroteG (d : Fin 16) (v : Word) (clamped : Bool) (k k' : Core) : Prop :=
  k.goesOn k' ∧ k.kept k' ∧ k.keptCtl k' ∧ (k'.setOf k.ctx).g = lset k.act.g d.val v ∧ (k'.setOf k.ctx).sat = (k.act.sat || clamped)
    ∧ (k'.setOf k.ctx).gov = k.act.gov ∧ (k'.setOf k.ctx).psn = k.act.psn ∧ (k'.setOf k.ctx).acc = k.act.acc
    ∧ (k'.setOf k.ctx).xy = k.act.xy ∧ (k.rti = false → k'.gBranch d.val = k.gHeld d.val)

/-! ### Accumulators and local memories -/

/-- R339: a part of n bits with held value v and wrap count w takes the sum of its true value and t: the held bits wrap; the count follows,
and stays at its limit with GOV set where it would leave −8 … 7. -/
def PartSum {n : Nat} (v : BitVec n) (w t : Int) (v' : BitVec n) (w' : Int) (gov : Bool) : Prop :=
  v' = v + BitVec.ofInt n t ∧
    (let sum := v.toInt + w * 2 ^ n + t
     if sum < -8 * 2 ^ n - 2 ^ (n - 1) then w' = -8 ∧ gov = true
     else if 7 * 2 ^ n + 2 ^ (n - 1) ≤ sum then w' = 7 ∧ gov = true
     else v'.toInt + w' * 2 ^ n = sum ∧ gov = false)

/-- R337: the high and the low half of an accumulator. -/
def Acc.hiBits (a : Acc) : BitVec 44 := a.v.extractLsb' 44 44
def Acc.loBits (a : Acc) : BitVec 44 := a.v.extractLsb' 0 44

/-- The instruction completes: the state changes on its side alone; the side before and after it are in relation P, and cores other than c
change in their pending interrupts at most. -/
def OnSide (s : State) (sd : SideId) (c : Fin 4) (i : Instr) (P : Side → Side → Prop) : Prop :=
  Does i s (fun t => t = s.setSide sd (t.side sd)
    ∧ (∀ j, j ≠ c.val → { (t.side sd).coreOf j with ipend := ((s.fetched sd c).coreOf j).ipend } = (s.fetched sd c).coreOf j)
    ∧ P (s.fetched sd c) (t.side sd))

/-- R337: an accumulator takes a value, GOV is set where `gov` says so; of the other accumulators and of SAT nothing changes, and what an
instruction keeps is kept. Without a parallel move nothing else changes. -/
def MacDone (c : Fin 4) (o : MacArgs) (p : Acc → Word → Word → Acc → Bool → Prop) (x x' : Side) : Prop :=
  let k := x.coreOf c.val
  let k' := x'.coreOf c.val
  (∃ a gov, p (k.accHeld o.acc.val) (k.g o.a.val) (k.g o.b.val) a gov ∧ (k'.setOf k.ctx).acc = lset k.act.acc o.acc.val a
      ∧ (k'.setOf k.ctx).gov = (k.act.gov || gov))
    ∧ (k'.setOf k.ctx).sat = k.act.sat ∧ k.goesOn k' ∧ k.kept k' ∧ k'.amod = k.amod ∧ k'.la = k.la
    ∧ (o.x.en = false → o.y.en = false → (k'.setOf k.ctx).g = k.act.g ∧ (k'.setOf k.ctx).xy = k.act.xy
      ∧ (k'.setOf k.ctx).psn = k.act.psn ∧ k.keptCtl k' ∧ x'.coxMem = x.coxMem)

/-- R345: what an access of a core to word a of its memory reads, hazards past: zero from a poisoned block, which also sets PSN. -/
def Side.readsLocal (x : Side) (c : Fin 4) (y : Bool) (a : Nat) : Word × Bool :=
  ((x.modCore c.val (fun q => { q with hz := Hazard.none })).readWord .cox (dataBase c.val y + a % 8192)).2

/-- The memories of the Cox cores hold no deviating bit, no poison and no write that waits. -/
def Side.coxClean (x : Side) : Bool := x.coxMem.flips.isEmpty && x.coxMem.poison.isEmpty && x.coxMem.buf.isEmpty

/-- R318: a narrow write to word a only joins the merge buffer: the buffer has room and holds nothing of the word's block. -/
def Side.roomFor (x : Side) (a : Nat) : Prop := x.coxMem.buf.length < 64 ∧ ∀ e ∈ x.coxMem.buf, e.blk ≠ a / 8

/-! ### Completions of ring commands (R273 to R277) -/

/-- The completion of a command that acted on a side has been formed, with a status, instant and results, and the command has left its staging
entry: its entry waits for its completion ring, or goes back through the Keel where the other side issued it. Under QUIET a status of OK writes
nothing (R276). -/
def State.answered (t : State) (actor : SideId) (c : Staged) (st tm : Nat) (r0 r1 : Int) : Prop :=
  let en := entryOf c.op c.e c.ring (c.issuer != actor) st tm r0 r1
  (∀ d ∈ (t.side actor).host.staged, ¬(d.id = c.id ∧ d.issuer = c.issuer))
    ∧ (c.issuer = actor → (c.e.quiet && st == stOK) = false → ∃ w ∈ (t.side actor).host.compl, w.ring = c.ring ∧ w.id = c.id ∧ w.e = en)
    ∧ (c.issuer ≠ actor → (c.issuer, c.ring, c.id, c.e, en) ∈ t.keel.dones)

/-! ### Register accesses (R40 to R45, R249, R257) -/

/-- A master's access to a register of a side is carried out: the path carries it, the side's register bus runs, the register is served. -/
def State.opens (s : State) (sd : SideId) (m : Fin 11) (idx : Nat) : Bool :=
  s.path sd m.val == .reaches && (s.side sd).islTakes busSrc && (s.side sd).serves idx

/-- The kind of a register; none for a reserved index. -/
def kindOf (idx : Nat) : Option RegKind := (findReg idx).map (·.kind)

/-- What the last read returned to the reader. -/
def State.returned (s : State) (w : Word) : State := { s with rd := [w], ep := false }

/-! ### Commands of the rings (R270 to R273) -/

/-- The next command of a ring of a side executes, acts on that side, passes its checks, and its operand data comes: the command, with its
boundary resolved, and the state in which it is staged. -/
def State.takes (s : State) (sd : SideId) (ring : Fin 8) (op : Nat) (e : CmdEntry) (data : DmaData) : Option (Staged × State) :=
  let n := (s.side sd).host.nextId
  let r := (s.takeEntry sd ring e.wait).operand sd op e data
  let x := r.1.side sd
  let t := (s.side sd).now
  if s.ringReady sd ring && !s.operandWaits op e && stepOne op e == stOK && actingSide sd op e == sd then
    match r.2, x.resolveBnd r.1.keel.up t op e with
    | .ok ws, .ok b =>
      let st : Staged := ⟨n, sd, ring, op, e, ws, b, t, false, false, [], []⟩
      if x.switchBad st then none
      else some (st, r.1.mod sd (fun x => { x with host := { x.host with staged := x.host.staged ++ [st] } }))
    | _, _ => none
  else none

/-- It executes with boundary IMMEDIATE and no other command staged on its side. -/
def State.takesNow (s : State) (sd : SideId) (ring : Fin 8) (op : Nat) (e : CmdEntry) (data : DmaData) (st : Staged) (z : State) : Prop :=
  s.takes sd ring op e data = some (st, z) ∧ st.bnd = .now ∧ (s.side sd).host.staged = []

/-- A CONFIGURE of a block is the one command staged on a side, and the instant t of its boundary has come. -/
def State.configures (s : State) (sd : SideId) (ty : Nat) (ch : Chan) (st : Staged) (t : Nat) : Prop :=
  s.held = false ∧ (s.side sd).host.staged = [st] ∧ st.op = 0x02 ∧ st.waits = true ∧ CmdEntry.readback st.e = false ∧ st.blkType = ty
    ∧ blkChan ty st.target = some ch ∧ st.reached = false ∧ (s.side sd).instantOf st = some t

/-- A staged command goes on running, with what it keeps for its completion. -/
def State.runs (z : State) (sd : SideId) (st : Staged) (aux : List Int) : State :=
  z.mod sd (fun x => x.restage { st with running := true, aux := aux })

/-! ### Canonical memories -/

/-- The memories of a side and host memory behind its endpoint are in their one canonical form. -/
def Side.memWf (x : Side) : Bool := x.sram.mem.wf && x.dram.mem.wf && x.coxMem.wf
def Side.canonical (x : Side) : Bool := x.memWf && bytesWf x.host.mem

/-- Both sides hold their memories in canonical form. -/
def State.canonical (s : State) : Bool := s.stroke.canonical && s.bow.canonical

end Sys2Proof.Machine
end

