-- ==== Sys2Proof/Certificates/Slice0/Obligations.lean ====
section
/-! DEFINITION. The statements for the provers. Each docstring cites the rules of spec/ that its clauses formalise, part by part, and names the
log entries of notes/assumptions that clauses rest on. -/

open Sys2Proof Sys2Proof.Machine

/-! ### The Cox cores: ALU -/

/-- AluArithmetic: R336: the wrapping and saturating sums, NEG and ABS: gD takes the result at 36 bits, SAT is set where the result was
clamped, and nothing else of the core changes but its PC. AluLogic: R336: bitwise operations, moves, shifts by B[5:0] and LZC; MOVI
(R335). AluCompareAndHalves: R336: comparisons, MIN and MAX, and the operations on halves, which have the register form only; NOP changes
no register. -/
def Obligations.AluResults : Prop :=
  (-- AluArithmetic
   ∀ (s : State) (sd : SideId) (c : Fin 4) (o : AluArgs),
     (s.executes sd c (.add sd c o) = true →
       OnCore s sd c (.add sd c o) (fun k k' => k.wroteG o.d (k.g o.a.val + k.aluB true o.b) false k'))
     ∧ (s.executes sd c (.sub sd c o) = true →
       OnCore s sd c (.sub sd c o) (fun k k' => k.wroteG o.d (k.g o.a.val - k.aluB true o.b) false k'))
     ∧ (s.executes sd c (.adds sd c o) = true →
       OnCore s sd c (.adds sd c o) (fun k k' => let v := (k.g o.a.val).toInt + (k.aluB true o.b).toInt
         k.wroteG o.d (BitVec.ofInt 36 (max (-2 ^ 35) (min v (2 ^ 35 - 1)))) (decide (v < -2 ^ 35 ∨ 2 ^ 35 ≤ v)) k'))
     ∧ (s.executes sd c (.subs sd c o) = true →
       OnCore s sd c (.subs sd c o) (fun k k' => let v := (k.g o.a.val).toInt - (k.aluB true o.b).toInt
         k.wroteG o.d (BitVec.ofInt 36 (max (-2 ^ 35) (min v (2 ^ 35 - 1)))) (decide (v < -2 ^ 35 ∨ 2 ^ 35 ≤ v)) k'))
     ∧ (s.executes sd c (.neg sd c o) = true →
       OnCore s sd c (.neg sd c o) (fun k k' => k.wroteG o.d (-(k.g o.a.val)) false k'))
     ∧ (s.executes sd c (.abs sd c o) = true →
       OnCore s sd c (.abs sd c o) (fun k k' => k.wroteG o.d
         (if k.g o.a.val = BitVec.ofNat 36 (2 ^ 35) then BitVec.ofNat 36 (2 ^ 35 - 1)
           else if (k.g o.a.val).toInt < 0 then -(k.g o.a.val) else k.g o.a.val)
         (decide (k.g o.a.val = BitVec.ofNat 36 (2 ^ 35))) k'))) ∧
  (-- AluLogic
   ∀ (s : State) (sd : SideId) (c : Fin 4) (o : AluArgs),
     (s.executes sd c (.and sd c o) = true →
       OnCore s sd c (.and sd c o) (fun k k' => k.wroteG o.d (k.g o.a.val &&& k.aluB false o.b) false k'))
     ∧ (s.executes sd c (.or sd c o) = true →
       OnCore s sd c (.or sd c o) (fun k k' => k.wroteG o.d (k.g o.a.val ||| k.aluB false o.b) false k'))
     ∧ (s.executes sd c (.xor sd c o) = true →
       OnCore s sd c (.xor sd c o) (fun k k' => k.wroteG o.d (k.g o.a.val ^^^ k.aluB false o.b) false k'))
     ∧ (s.executes sd c (.not sd c o) = true →
       OnCore s sd c (.not sd c o) (fun k k' => k.wroteG o.d (~~~(k.g o.a.val)) false k'))
     ∧ (s.executes sd c (.mov sd c o) = true →
       OnCore s sd c (.mov sd c o) (fun k k' => k.wroteG o.d (k.g o.a.val) false k'))
     ∧ (s.executes sd c (.shl sd c o) = true → OnCore s sd c (.shl sd c o) (fun k k' =>
         let n := ((k.aluB false o.b).extractLsb' 0 6).toNat
         k.wroteG o.d (if n < 36 then k.g o.a.val <<< n else 0) false k'))
     ∧ (s.executes sd c (.shrl sd c o) = true → OnCore s sd c (.shrl sd c o) (fun k k' =>
         let n := ((k.aluB false o.b).extractLsb' 0 6).toNat
         k.wroteG o.d (if n < 36 then k.g o.a.val >>> n else 0) false k'))
     ∧ (s.executes sd c (.shra sd c o) = true → OnCore s sd c (.shra sd c o) (fun k k' =>
         let n := ((k.aluB false o.b).extractLsb' 0 6).toNat
         k.wroteG o.d (BitVec.ofInt 36 ((k.g o.a.val).toInt / 2 ^ n)) false k'))
     ∧ (s.executes sd c (.lzc sd c o) = true → OnCore s sd c (.lzc sd c o) (fun k k' =>
         ∃ n, n ≤ 36 ∧ (∀ j, 36 - n ≤ j → j < 36 → (k.g o.a.val).getLsbD j = false)
           ∧ (n < 36 → (k.g o.a.val).getLsbD (35 - n) = true) ∧ k.wroteG o.d (BitVec.ofNat 36 n) false k'))
     ∧ (∀ (d : Fin 16) (v : BitVec 18), (s.executes sd c (.movi sd c d false v) = true →
         OnCore s sd c (.movi sd c d false v) (fun k k' => k.wroteG d (v.signExtend 36) false k'))
       ∧ (s.executes sd c (.movi sd c d true v) = true →
         OnCore s sd c (.movi sd c d true v) (fun k k' => k.wroteG d (v ++ (k.g d.val).extractLsb' 0 18) false k')))) ∧
  (-- AluCompareAndHalves
   ∀ (s : State) (sd : SideId) (c : Fin 4) (o : AluArgs),
     (s.executes sd c (.seq sd c o) = true → OnCore s sd c (.seq sd c o) (fun k k' =>
         k.wroteG o.d (if k.g o.a.val = k.aluB true o.b then 1 else 0) false k'))
     ∧ (s.executes sd c (.slt sd c o) = true → OnCore s sd c (.slt sd c o) (fun k k' =>
         k.wroteG o.d (if (k.g o.a.val).toInt < (k.aluB true o.b).toInt then 1 else 0) false k'))
     ∧ (s.executes sd c (.sltu sd c o) = true → OnCore s sd c (.sltu sd c o) (fun k k' =>
         k.wroteG o.d (if (k.g o.a.val).toNat < (k.aluB false o.b).toNat then 1 else 0) false k'))
     ∧ (s.executes sd c (.min sd c o) = true → OnCore s sd c (.min sd c o) (fun k k' =>
         k.wroteG o.d (BitVec.ofInt 36 (min (k.g o.a.val).toInt (k.aluB true o.b).toInt)) false k'))
     ∧ (s.executes sd c (.max sd c o) = true → OnCore s sd c (.max sd c o) (fun k k' =>
         k.wroteG o.d (BitVec.ofInt 36 (max (k.g o.a.val).toInt (k.aluB true o.b).toInt)) false k'))
     ∧ (s.executes sd c (.aluNop sd c o) = true → OnCore s sd c (.aluNop sd c o) (fun k k' => k.goesOn k' ∧ k.kept k' ∧ k.keptCtl k'
         ∧ (k'.setOf k.ctx).g = k.act.g ∧ (k'.setOf k.ctx).sat = k.act.sat ∧ (k'.setOf k.ctx).gov = k.act.gov
         ∧ (k'.setOf k.ctx).psn = k.act.psn ∧ (k'.setOf k.ctx).acc = k.act.acc ∧ (k'.setOf k.ctx).xy = k.act.xy))
     ∧ (∀ b : Fin 16, o.b = .reg b →
       (s.executes sd c (.addh sd c o) = true → OnCore s sd c (.addh sd c o) (fun k k' => k.wroteG o.d
         (((k.g o.a.val).extractLsb' 18 18 + (k.g b.val).extractLsb' 18 18) ++ ((k.g o.a.val).extractLsb' 0 18 + (k.g b.val).extractLsb' 0 18))
         false k'))
       ∧ (s.executes sd c (.subh sd c o) = true → OnCore s sd c (.subh sd c o) (fun k k' => k.wroteG o.d
         (((k.g o.a.val).extractLsb' 18 18 - (k.g b.val).extractLsb' 18 18) ++ ((k.g o.a.val).extractLsb' 0 18 - (k.g b.val).extractLsb' 0 18))
         false k'))
       ∧ (s.executes sd c (.pack sd c o) = true → OnCore s sd c (.pack sd c o) (fun k k' => k.wroteG o.d
         ((k.g o.a.val).extractLsb' 0 18 ++ (k.g b.val).extractLsb' 0 18) false k'))))

/-! ### The Cox cores: MAC and LOCAL -/

/-- MacWhole: R337, R339: whole mode: the 72-bit product replaces the accumulator, or is added to it or taken from it. MacPair: R337, R339:
pair mode: each half takes the product of 18-bit fields, MACX the crossed ones. -/
def Obligations.MacProducts : Prop :=
  (-- MacWhole
   ∀ (s : State) (sd : SideId) (c : Fin 4) (o : MacArgs),
     (s.executes sd c (.mpy sd c o) = true → OnSide s sd c (.mpy sd c o) (MacDone c o (fun _ x y a' gov =>
       a' = ⟨BitVec.ofInt 88 (x.toInt * y.toInt), 0, 0, 0⟩ ∧ gov = false)))
     ∧ (s.executes sd c (.mac sd c o) = true → OnSide s sd c (.mac sd c o) (MacDone c o (fun a x y a' gov =>
       PartSum a.v a.w (x.toInt * y.toInt) a'.v a'.w gov ∧ a'.wHi = a.wHi ∧ a'.wLo = a.wLo)))
     ∧ (s.executes sd c (.msu sd c o) = true → OnSide s sd c (.msu sd c o) (MacDone c o (fun a x y a' gov =>
       PartSum a.v a.w (-(x.toInt * y.toInt)) a'.v a'.w gov ∧ a'.wHi = a.wHi ∧ a'.wLo = a.wLo)))) ∧
  (-- MacPair
   ∀ (s : State) (sd : SideId) (c : Fin 4) (o : MacArgs),
     let hi := fun (x : Word) => (x.extractLsb' 18 18).toInt
     let lo := fun (x : Word) => (x.extractLsb' 0 18).toInt
     let sum := fun (a : Acc) (h l : Int) (a' : Acc) (gov : Bool) => a'.w = a.w ∧ ∃ g1 g2, gov = (g1 || g2)
       ∧ PartSum a.hiBits a.wHi h a'.hiBits a'.wHi g1 ∧ PartSum a.loBits a.wLo l a'.loBits a'.wLo g2
     (s.executes sd c (.mpys sd c o) = true → OnSide s sd c (.mpys sd c o) (MacDone c o (fun _ x y a' gov =>
       a'.hiBits = BitVec.ofInt 44 (hi x * hi y) ∧ a'.loBits = BitVec.ofInt 44 (lo x * lo y) ∧ a'.w = 0 ∧ a'.wHi = 0 ∧ a'.wLo = 0 ∧ gov = false)))
     ∧ (s.executes sd c (.macs sd c o) = true → OnSide s sd c (.macs sd c o) (MacDone c o (fun a x y a' gov =>
       sum a (hi x * hi y) (lo x * lo y) a' gov)))
     ∧ (s.executes sd c (.msus sd c o) = true → OnSide s sd c (.msus sd c o) (MacDone c o (fun a x y a' gov =>
       sum a (-(hi x * hi y)) (-(lo x * lo y)) a' gov)))
     ∧ (s.executes sd c (.macx sd c o) = true → OnSide s sd c (.macx sd c o) (MacDone c o (fun a x y a' gov =>
       sum a (hi x * lo y) (lo x * hi y) a' gov))))

/-- R335, R337: the parallel moves, as NOMAC makes them: XMOVE loads or stores at X[xk], YMOVE loads Y[yk], the Y value is kept where both
load one register, each address register is modified after its access (R334), and nothing else of the core changes. -/
def Obligations.ParallelMoves : Prop := ∀ (s : State) (sd : SideId) (c : Fin 4) (o : MacArgs),
  s.executes sd c (.nomac sd c o) = true → OnSide s sd c (.nomac sd c o) (fun x x' =>
    let k := x.coreOf c.val
    let k' := x'.coreOf c.val
    let r := k'.setOf k.ctx
    let xa := k.addr o.x.k.val
    let ya := k.addr (4 + o.y.k.val)
    let step := fun (xy : List Nat) (i md : Nat) => if md = 0 then xy
      else lset xy i (nextAddr (k.ag (8 + i)) (k.addr i) (modAmt (k.ag (8 + i)) md))
    k.goesOn k' ∧ k.kept k' ∧ r.acc = k.act.acc ∧ r.sat = k.act.sat ∧ r.gov = k.act.gov ∧ k'.amod = k.amod ∧ k'.la = k.la
      ∧ r.xy = (let xy := if o.x.en then step k.act.xy o.x.k.val o.x.md.val else k.act.xy
                if o.y.en then step xy (4 + o.y.k.val) o.y.md.val else xy)
      ∧ (o.x.en = false → o.y.en = false → r.g = k.act.g ∧ r.psn = k.act.psn ∧ x'.coxMem = x.coxMem ∧ k'.ipend = k.ipend)
      ∧ (o.x.en = true → o.x.st = false → o.y.en = false → r.g = lset k.act.g o.x.g.val (x.readsLocal c false xa).1
          ∧ r.psn = (k.act.psn || (x.readsLocal c false xa).2))
      ∧ (o.x.en = false → o.y.en = true → r.g = lset k.act.g o.y.g.val (x.readsLocal c true ya).1
          ∧ r.psn = (k.act.psn || (x.readsLocal c true ya).2))
      ∧ (o.x.en = true → o.x.st = false → o.y.en = true → x.coxClean = true →
          r.g = lset (lset k.act.g o.x.g.val (x.peek .cox (dataBase c.val false + xa % 8192))) o.y.g.val
            (x.peek .cox (dataBase c.val true + ya % 8192)))
      ∧ (o.x.en = true → o.x.st = true → o.y.en = false → r.g = k.act.g ∧ r.psn = k.act.psn ∧
          (let w := dataBase c.val false + xa % 8192
           x.roomFor w → ∀ b, x'.peek .cox b = if b = w then k.g o.x.g.val else x.peek .cox b)))

/-- LocalLoads: R335, R345: LDX and LDY load a word of the core's X or Y memory at a direct address or through an address register, which is
modified after the access; the register is seen one instruction later (R340). LocalStores: R335, R318: STX and STY store gG at the same
addresses; no register changes but the address register, and no other word of the core memories changes. -/
def Obligations.LocalLoadsAndStores : Prop :=
  (-- LocalLoads
   ∀ (s : State) (sd : SideId) (c : Fin 4) (g : Fin 16) (m : LocalAddr) (y : Bool),
     let i : Instr := if y then .ldy sd c g m else .ldx sd c g m
     s.executes sd c i = true → OnSide s sd c i (fun x x' =>
       let k := x.coreOf c.val
       let k' := x'.coreOf c.val
       let r := k'.setOf k.ctx
       let a := match m with
         | .dir d => d.toNat
         | .ind j _ => k.addr (localReg y j)
       k.goesOn k' ∧ k.kept k' ∧ r.acc = k.act.acc ∧ r.sat = k.act.sat ∧ r.gov = k.act.gov ∧ k'.amod = k.amod ∧ k'.la = k.la
         ∧ r.g = lset k.act.g g.val (x.readsLocal c y a).1 ∧ r.psn = (k.act.psn || (x.readsLocal c y a).2)
         ∧ ((x.readsLocal c y a).2 = true → bitAt k'.ipend 14 = true)
         ∧ (k.rti = false → k'.g g.val = k.gHeld g.val)
         ∧ r.xy = match m with
           | .dir _ => k.act.xy
           | .ind j md => if md.val = 0 then k.act.xy else lset k.act.xy (localReg y j)
               (nextAddr (k.ag (8 + localReg y j)) (k.addr (localReg y j)) (modAmt (k.ag (8 + localReg y j)) md.val)))) ∧
  (-- LocalStores
   ∀ (s : State) (sd : SideId) (c : Fin 4) (g : Fin 16) (m : LocalAddr) (y : Bool),
     let i : Instr := if y then .sty sd c g m else .stx sd c g m
     s.executes sd c i = true → OnSide s sd c i (fun x x' =>
       let k := x.coreOf c.val
       let k' := x'.coreOf c.val
       let r := k'.setOf k.ctx
       let w := dataBase c.val y + (match m with
         | .dir d => d.toNat
         | .ind j _ => k.addr (localReg y j)) % 8192
       k.goesOn k' ∧ k.kept k' ∧ r.acc = k.act.acc ∧ r.g = k.act.g ∧ r.sat = k.act.sat ∧ r.gov = k.act.gov ∧ r.psn = k.act.psn
         ∧ k'.amod = k.amod ∧ k'.la = k.la
         ∧ (x.roomFor w → ∀ b, x'.peek .cox b = if b = w then k.g g.val else x.peek .cox b)
         ∧ r.xy = match m with
           | .dir _ => k.act.xy
           | .ind j md => if md.val = 0 then k.act.xy else lset k.act.xy (localReg y j)
               (nextAddr (k.ag (8 + localReg y j)) (k.addr (localReg y j)) (modAmt (k.ag (8 + localReg y j)) md.val))))

/-! ### The Cox cores: ACC -/

/-- AccWrites: R338, R339: CLRA and LDA set the accumulator and clear its wrap counts; ADDA, SUBA and NEGA replace its true value; ASR shifts
the held bits. Nothing else of the core changes. AccReads: R338, R339: STSAT gives the shifted true value, rounded and clamped to 36 bits
or to 18 bits for each half, and sets SAT where it clamps or a part has wrapped; MOVA gives held bits without saturation; both set GOV where a part they read has wrapped. The model's choices
it rests on: log entry 51. -/
def Obligations.AccumulatorOperations : Prop :=
  (-- AccWrites
   ∀ (s : State) (sd : SideId) (c : Fin 4) (o : AccArgs),
     let done := fun (i : Instr) (p : Core → Acc → Bool → Prop) => OnCore s sd c i (fun k k' =>
       k.goesOn k' ∧ k.kept k' ∧ k.keptCtl k' ∧ (k'.setOf k.ctx).g = k.act.g ∧ (k'.setOf k.ctx).xy = k.act.xy
         ∧ (k'.setOf k.ctx).sat = k.act.sat ∧ (k'.setOf k.ctx).psn = k.act.psn
         ∧ ∃ a gov, p k a gov ∧ (k'.setOf k.ctx).acc = lset k.act.acc o.acc.val a ∧ (k'.setOf k.ctx).gov = (k.act.gov || gov))
     let hi := fun (x : Word) => (x.extractLsb' 18 18).toInt
     let lo := fun (x : Word) => (x.extractLsb' 0 18).toInt
     let trueOf := fun (a : Acc) => a.v.toInt + a.w * 2 ^ 88
     let trueHi := fun (a : Acc) => a.hiBits.toInt + a.wHi * 2 ^ 44
     let trueLo := fun (a : Acc) => a.loBits.toInt + a.wLo * 2 ^ 44
     let sum := fun (k : Core) (sign : Int) (a' : Acc) (gov : Bool) =>
       let a := k.acc o.acc.val
       let b := k.acc (o.g.val % 4)
       if o.pair then a'.w = a.w ∧ ∃ g1 g2, gov = (g1 || g2 || a.wHi != 0 || a.wLo != 0 || b.wHi != 0 || b.wLo != 0)
           ∧ PartSum a.hiBits a.wHi (sign * trueHi b) a'.hiBits a'.wHi g1 ∧ PartSum a.loBits a.wLo (sign * trueLo b) a'.loBits a'.wLo g2
       else a'.wHi = a.wHi ∧ a'.wLo = a.wLo ∧ ∃ g1, gov = (g1 || a.w != 0 || b.w != 0) ∧ PartSum a.v a.w (sign * trueOf b) a'.v a'.w g1
     (s.executes sd c (.clra sd c o) = true → done (.clra sd c o) (fun _ a' gov => a' = ⟨0, 0, 0, 0⟩ ∧ gov = false))
     ∧ (s.executes sd c (.lda sd c o) = true → done (.lda sd c o) (fun k a' gov => gov = false ∧ a'.w = 0 ∧ a'.wHi = 0 ∧ a'.wLo = 0
         ∧ (if o.pair then a'.hiBits = BitVec.ofInt 44 (hi (k.g o.g.val) * 2 ^ o.sh.toNat) ∧ a'.loBits = BitVec.ofInt 44 (lo (k.g o.g.val) * 2 ^ o.sh.toNat)
            else a'.v = (k.g o.g.val).signExtend 88 <<< o.sh.toNat)))
     ∧ (s.executes sd c (.adda sd c o) = true → done (.adda sd c o) (fun k a' gov => sum k 1 a' gov))
     ∧ (s.executes sd c (.suba sd c o) = true → done (.suba sd c o) (fun k a' gov => sum k (-1) a' gov))
     ∧ (s.executes sd c (.nega sd c o) = true → done (.nega sd c o) (fun k a' gov =>
         let a := k.acc o.acc.val
         if o.pair then a'.w = a.w ∧ ∃ g1 g2, gov = (g1 || g2) ∧ PartSum (0 : BitVec 44) 0 (-(trueHi a)) a'.hiBits a'.wHi g1
             ∧ PartSum (0 : BitVec 44) 0 (-(trueLo a)) a'.loBits a'.wLo g2
         else a'.wHi = a.wHi ∧ a'.wLo = a.wLo ∧ PartSum (0 : BitVec 88) 0 (-(trueOf a)) a'.v a'.w gov))
     ∧ (s.executes sd c (.asr sd c o) = true → done (.asr sd c o) (fun k a' gov =>
         let a := k.acc o.acc.val
         if o.pair then a'.w = a.w ∧ a'.wHi = 0 ∧ a'.wLo = 0 ∧ gov = (a.wHi != 0 || a.wLo != 0)
             ∧ a'.hiBits = BitVec.ofInt 44 (shiftRnd o.rnd o.sh.toNat a.hiBits.toInt) ∧ a'.loBits = BitVec.ofInt 44 (shiftRnd o.rnd o.sh.toNat a.loBits.toInt)
         else a'.w = 0 ∧ a'.wHi = a.wHi ∧ a'.wLo = a.wLo ∧ gov = (a.w != 0) ∧ a'.v = BitVec.ofInt 88 (shiftRnd o.rnd o.sh.toNat a.v.toInt)))) ∧
  (-- AccReads
   ∀ (s : State) (sd : SideId) (c : Fin 4) (o : AccArgs),
     let done := fun (i : Instr) (p : Core → Acc → Word → Bool → Prop) => OnCore s sd c i (fun k k' =>
       let a := k.acc o.acc.val
       k.goesOn k' ∧ k.kept k' ∧ k.keptCtl k' ∧ (k'.setOf k.ctx).acc = k.act.acc ∧ (k'.setOf k.ctx).xy = k.act.xy
         ∧ (k'.setOf k.ctx).psn = k.act.psn ∧ (k'.setOf k.ctx).gov = (k.act.gov || (if o.pair then a.wHi != 0 || a.wLo != 0 else a.w != 0))
         ∧ ∃ v clamped, p k a v clamped ∧ (k'.setOf k.ctx).g = lset k.act.g o.g.val v ∧ (k'.setOf k.ctx).sat = (k.act.sat || clamped))
     (s.executes sd c (.stsat sd c o) = true → done (.stsat sd c o) (fun _ a v clamped =>
         if o.pair then
           let h := shiftRnd o.rnd o.sh.toNat (a.hiBits.toInt + a.wHi * 2 ^ 44)
           let l := shiftRnd o.rnd o.sh.toNat (a.loBits.toInt + a.wLo * 2 ^ 44)
           (v.extractLsb' 18 18).toInt = max (-2 ^ 17) (min h (2 ^ 17 - 1)) ∧ (v.extractLsb' 0 18).toInt = max (-2 ^ 17) (min l (2 ^ 17 - 1))
             ∧ clamped = (decide (h < -2 ^ 17 ∨ 2 ^ 17 ≤ h) || decide (l < -2 ^ 17 ∨ 2 ^ 17 ≤ l) || a.wHi != 0 || a.wLo != 0)
         else
           let t := shiftRnd o.rnd o.sh.toNat (a.v.toInt + a.w * 2 ^ 88)
           v.toInt = max (-2 ^ 35) (min t (2 ^ 35 - 1)) ∧ clamped = (decide (t < -2 ^ 35 ∨ 2 ^ 35 ≤ t) || a.w != 0)))
     ∧ (s.executes sd c (.mova sd c o) = true → done (.mova sd c o) (fun _ a v clamped => clamped = false
         ∧ (if o.pair then v = a.hiBits.extractLsb' o.sh.toNat 18 ++ a.loBits.extractLsb' o.sh.toNat 18
            else v = a.v.extractLsb' o.sh.toNat 36))))

/-! ### The Cox cores: CTRL -/

/-- R341: a branch goes to its delay slot first, then to its target if it is taken; conditional branches test gG as a branch sees it (R340).
CALL pushes the address after its delay slot, RET pops it, RTI goes to IPC. Registers, flags, accumulators and loops are left. -/
def Obligations.Branches : Prop := ∀ (s : State) (sd : SideId) (c : Fin 4) (g : Fin 16) (t : BitVec 13),
  let goes := fun (i : Instr) (to_ : Core → Option Nat) (calls : Core → List Nat) (rti : Bool) => OnCore s sd c i (fun k k' =>
    k'.pc = (k.pc + 1) % 8192 ∧ k'.inSlot = true ∧ k'.slot = to_ k ∧ k'.calls = calls k ∧ k'.rti = (k.rti || rti) ∧ k'.ctx = k.ctx
      ∧ k'.main = k.main ∧ k'.shadow = k.shadow ∧ k'.st = k.st ∧ k'.bank = k.bank ∧ k'.cause = k.cause ∧ k'.ops = k.ops ∧ k'.tagSt = k.tagSt
      ∧ k.keptCtl k' ∧ k'.sw = k.sw ∧ k'.halts = k.halts)
  let test := fun (p : Int → Prop) (_ : DecidablePred p) (k : Core) => if p (k.gBranch g.val).toInt then some t.toNat else none
  (s.executes sd c (.bra sd c t) = true → goes (.bra sd c t) (fun _ => some t.toNat) Core.calls false)
  ∧ (s.executes sd c (.beqz sd c g t) = true → goes (.beqz sd c g t) (test (fun v => v = 0) inferInstance) Core.calls false)
  ∧ (s.executes sd c (.bnez sd c g t) = true → goes (.bnez sd c g t) (test (fun v => v ≠ 0) inferInstance) Core.calls false)
  ∧ (s.executes sd c (.bltz sd c g t) = true → goes (.bltz sd c g t) (test (fun v => v < 0) inferInstance) Core.calls false)
  ∧ (s.executes sd c (.bgez sd c g t) = true → goes (.bgez sd c g t) (test (fun v => 0 ≤ v) inferInstance) Core.calls false)
  ∧ (s.executes sd c (.brar sd c g) = true → goes (.brar sd c g) (fun k => some ((k.gBranch g.val).extractLsb' 0 13).toNat) Core.calls false)
  ∧ (s.executes sd c (.call sd c t) = true → goes (.call sd c t) (fun _ => some t.toNat) (fun k => (k.pc + 2) % 8192 :: k.calls) false)
  ∧ (s.executes sd c (.ret sd c) = true → goes (.ret sd c) (fun k => k.calls.head?) (fun k => k.calls.tail) false)
  ∧ (s.executes sd c (.rti sd c) = true → goes (.rti sd c) (fun k => some k.ipc) Core.calls true)

/-- PcRules: R341, R342, R348: where a core goes on after an instruction that is no branch: to the next word; at a loop's END back to its
start until the last pass, which pops the level; after a delay slot to the target of a taken branch, and after that of an RTI into the
main set. Loops: R342: LOOP and LOOPR push a level whose body begins at the next word and ends at END, with the count as it is then; a
count of 0 skips to END + 1. -/
def Obligations.SequencingAndLoops : Prop :=
  (-- PcRules
   ∀ (k k' : Core), k.goesOn k' →
     let next := (k.pc + 1) % 8192
     (k.slot = none → k.act.loops = [] → k'.pc = next ∧ k'.inSlot = false)
     ∧ (k.slot = none → ∀ l r, k.act.loops = l :: r → k.pc ≠ l.last → k'.pc = next ∧ (k'.setOf k.ctx).loops = l :: r)
     ∧ (k.slot = none → ∀ l r, k.act.loops = l :: r → k.pc = l.last → 1 < l.left →
         k'.pc = l.start ∧ (k'.setOf k.ctx).loops = ⟨l.start, l.last, l.left - 1⟩ :: r)
     ∧ (k.slot = none → ∀ l r, k.act.loops = l :: r → k.pc = l.last → l.left ≤ 1 → k'.pc = next ∧ (k'.setOf k.ctx).loops = r)
     ∧ (∀ t, k.inSlot = true → k.slot = some t → k'.pc = t ∧ k'.inSlot = false ∧ k'.slot = none ∧ k'.rti = false
         ∧ k'.ctx = (k.ctx && !k.rti))) ∧
  (-- Loops
   ∀ (s : State) (sd : SideId) (c : Fin 4) (g : Fin 16) (n : BitVec 16) (last : BitVec 13),
     let done := fun (i : Instr) (count : Core → Nat) => OnCore s sd c i (fun k k' =>
       (if count k = 0 then k'.pc = (last.toNat + 1) % 8192 ∧ (k'.setOf k.ctx).loops = k.act.loops
         else k'.pc = (k.pc + 1) % 8192 ∧ (k'.setOf k.ctx).loops = ⟨(k.pc + 1) % 8192, last.toNat, count k⟩ :: k.act.loops)
       ∧ k.kept k' ∧ k.keptCtl k' ∧ k'.ctx = k.ctx ∧ (k'.setOf k.ctx).g = k.act.g ∧ (k'.setOf k.ctx).acc = k.act.acc
       ∧ (k'.setOf k.ctx).xy = k.act.xy ∧ (k'.setOf k.ctx).sat = k.act.sat ∧ (k'.setOf k.ctx).gov = k.act.gov ∧ (k'.setOf k.ctx).psn = k.act.psn)
     (s.executes sd c (.loop sd c n last) = true → done (.loop sd c n last) (fun _ => n.toNat))
     ∧ (s.executes sd c (.loopr sd c g last) = true → done (.loopr sd c g last) (fun k => ((k.gBranch g.val).extractLsb' 0 16).toNat)))

/-- R335, R340, R348, R355: HALT stops the core with cause 1, its registers kept; WAIT makes it WAITING unless an enabled interrupt is
pending; SWI raises source 15 on the core, SIG source 10 + n on core n of the side and nothing where n is the core itself; WAITT goes on
when its tag is idle and stalls otherwise. -/
def Obligations.CoreControl : Prop := ∀ (s : State) (sd : SideId) (c : Fin 4) (g tag : Fin 16),
  let sets := fun (k k' : Core) => k'.main = k.main ∧ k'.shadow = k.shadow
  (s.executes sd c (.halt sd c) = true → OnCore s sd c (.halt sd c) (fun k k' => k'.st = 0 ∧ k'.cause = 1 ∧ k'.ctx = k.ctx
    ∧ (k'.setOf k.ctx).g = k.act.g ∧ (k'.setOf k.ctx).acc = k.act.acc ∧ (k'.setOf k.ctx).xy = k.act.xy ∧ k'.calls = k.calls ∧ k'.ops = k.ops
    ∧ k.keptCtl k'))
  ∧ (s.executes sd c (.wait sd c) = true → ((s.side sd).coreOf c.val).dueSrc = none → ((s.side sd).coreOf c.val).sw = none →
      OnCore s sd c (.wait sd c) (fun k k' => k'.st = 2 ∧ k'.pc = k.pc ∧ sets k k' ∧ k.keptCtl k' ∧ k'.ctx = k.ctx))
  ∧ (s.executes sd c (.swi sd c) = true → OnCore s sd c (.swi sd c) (fun k k' => k.goesOn k' ∧ k.kept k' ∧ bitAt k'.ipend 15 = true
      ∧ (∀ j, j ≠ 15 → bitAt k'.ipend j = bitAt k.ipend j) ∧ (k'.setOf k.ctx).g = k.act.g ∧ (k'.setOf k.ctx).acc = k.act.acc))
  ∧ (s.executes sd c (.sig sd c g) = true → OnSide s sd c (.sig sd c g) (fun x x' =>
      let k := x.coreOf c.val
      let n := ((k.g g.val).extractLsb' 0 2).toNat
      k.goesOn (x'.coreOf c.val) ∧ k.kept (x'.coreOf c.val) ∧ (x'.coreOf c.val).ipend = k.ipend
        ∧ (n ≠ c.val → bitAt (x'.coreOf n).ipend (10 + n) = true ∧ ∀ j, j ≠ 10 + n → bitAt (x'.coreOf n).ipend j = bitAt (x.coreOf n).ipend j)
        ∧ (∀ j, j ≠ n → j ≠ c.val → x'.coreOf j = x.coreOf j) ∧ x' = { x with cores := x'.cores }))
  ∧ (s.executes sd c (.waitt sd c tag) = true → OnCore s sd c (.waitt sd c tag) (fun k k' => k.kept { k' with waitTag := k.waitTag } ∧ k.keptCtl k'
      ∧ (k'.setOf k.ctx).g = k.act.g ∧ (k'.setOf k.ctx).acc = k.act.acc
      ∧ (if k.ops.any (fun o => o.tag == tag.val) then k'.pc = k.pc ∧ k'.waitTag = some tag.val else k.goesOn k' ∧ k'.waitTag = k.waitTag)))

/-! ### The Cox cores: control registers -/

/-- ControlWrites: R332: MTC: each register takes its bits of gG; IPEND's bits written 1 are cleared; ALARM_LO arms the alarm; the read-only
registers ignore the write. ControlReads: R332: MFC: gG takes the register; RT_LO reads race time and captures RT_HI; MBOX_IN and MBOX_OUT
read the mailboxes. Nothing else changes. -/
def Obligations.ControlRegisters : Prop :=
  (-- ControlWrites
   ∀ (s : State) (sd : SideId) (c : Fin 4) (n : BitVec 6) (g : Fin 16),
     let r := n.toNat
     s.executes sd c (.mtc sd c n g) = true →
     (r ≠ 32 → OnCore s sd c (.mtc sd c n g) (fun k k' =>
         let v := (k.g g.val).toNat
         k.goesOn k' ∧ k.kept k' ∧ (k'.setOf k.ctx).g = k.act.g ∧ (k'.setOf k.ctx).acc = k.act.acc ∧ k'.rtHi = k.rtHi
         ∧ (k'.setOf k.ctx).xy = (if r < 8 then lset k.act.xy r (v % 2 ^ 13) else k.act.xy)
         ∧ k'.amod = (if 8 ≤ r ∧ r < 16 then lset k.amod (r - 8) (v - v % 2 ^ 8) else k.amod)
         ∧ (k'.setOf k.ctx).sat = (if r = 16 then bitAt v 35 else k.act.sat)
         ∧ (k'.setOf k.ctx).gov = (if r = 16 then bitAt v 34 else k.act.gov)
         ∧ (k'.setOf k.ctx).psn = (if r = 16 then bitAt v 33 else k.act.psn)
         ∧ k'.imask = (if r = 17 then v % 2 ^ 16 else k.imask)
         ∧ (∀ j < 16, bitAt k'.ipend j = (bitAt k.ipend j && !(r = 18 && bitAt v j)))
         ∧ k'.ipc = (if r = 19 then v % 2 ^ 13 else k.ipc)
         ∧ k'.la = (if 20 ≤ r ∧ r < 28 then
             let i := (r - 20) / 2
             let a := lget k.la i 0
             lset k.la i (if r % 2 = 0 then a / 2 ^ 36 * 2 ^ 36 + v else v % 2 ^ 8 * 2 ^ 36 + a % 2 ^ 36) else k.la)
         ∧ k'.tsel = (if r = 29 then v % 16 else k.tsel)
         ∧ k'.alarmLo = (if r = 33 then v else k.alarmLo) ∧ k'.armed = (r = 33 || k.armed)
         ∧ k'.alarmHi = (if r = 34 then v else k.alarmHi)))
     ∧ (r = 32 → exec (.mtc sd c n g) s = .next (s.setSide sd
         (let x := s.fetched sd c
          (((x.modCore c.val (fun q => { q with hz := Hazard.none })).setReg (COXCORE_MBOX_OUT.whole c.val).idx
             (((s.side sd).coreOf c.val).g g.val)).modCore c.val Core.advance))))) ∧
  (-- ControlReads
   ∀ (s : State) (sd : SideId) (c : Fin 4) (n : BitVec 6) (g : Fin 16),
     let r := n.toNat
     let x := s.fetched sd c
     s.executes sd c (.mfc sd c n g) = true →
     OnCore s sd c (.mfc sd c n g) (fun k k' => ∃ v : Word,
       k.wroteG g v false { k' with rtHi := k.rtHi }
       ∧ k'.rtHi = (if r = 35 then x.now / 2 ^ 36 % 2 ^ 36 else k.rtHi)
       ∧ (r < 8 → v = BitVec.ofNat 36 (lget k.act.xy r 0)) ∧ (8 ≤ r → r < 16 → v = BitVec.ofNat 36 (lget k.amod (r - 8) 0))
       ∧ (r = 16 → v.getLsbD 35 = k.act.sat ∧ v.getLsbD 34 = k.act.gov ∧ v.getLsbD 33 = k.act.psn ∧ v.extractLsb' 0 33 = 0)
       ∧ (r = 17 → v = BitVec.ofNat 36 k.imask) ∧ (r = 18 → v = BitVec.ofNat 36 k.ipend) ∧ (r = 19 → v = BitVec.ofNat 36 k.ipc)
       ∧ (20 ≤ r → r < 28 → v = BitVec.ofNat 36 (lget k.la ((r - 20) / 2) 0 / 2 ^ (36 * (r % 2))))
       ∧ (r = 28 → ∀ t < 16, v.getLsbD t = k.ops.any (fun o => o.tag == t))
       ∧ (r = 29 → v = BitVec.ofNat 36 k.tsel) ∧ (r = 30 → v = BitVec.ofNat 36 (lget k.tagSt k.tsel 0))
       ∧ (r = 31 → v = x.reg (COXCORE_MBOX_IN.whole c.val).idx) ∧ (r = 32 → v = x.reg (COXCORE_MBOX_OUT.whole c.val).idx)
       ∧ (r = 33 → v = BitVec.ofNat 36 k.alarmLo) ∧ (r = 34 → v = BitVec.ofNat 36 k.alarmHi)
       ∧ (r = 35 → v = BitVec.ofNat 36 x.now) ∧ (r = 36 → v = BitVec.ofNat 36 k.rtHi)
       ∧ (r = 37 → v = BitVec.ofNat 36 (x.who.n * 4 + c.val)) ∧ (r = 38 → v = BitVec.ofNat 36 k.act.loops.length)))

/-! ### The Cox cores: LONG -/

/-- LongLoads: R344: a long load that nothing holds, over a path that reaches its target, reads its words at once and stays outstanding under
its tag; its status says whether a word lies in no space or was poisoned; la is increased with INC; the core goes on. LongStores: R344: a
long store takes its words from gG, or from X or Y memory, at issue; its status says whether an address takes no store or a word was
poisoned; it stays outstanding under its tag. R10: across a Keel that is down a long operation answers KEEL_DOWN and accesses nothing.
LongStall: R344, R311: while an operation's tag is outstanding a LONG instruction of that tag stalls, and so does a block operation while
another is outstanding, and a load of a channel in self-refresh: the state is as before. The model's choices it rests on: log entries 46,
49, 139. -/
def Obligations.LongOperations : Prop :=
  (-- LongLoads
   ∀ (s : State) (sd : SideId) (c : Fin 4) (o : LongArgs),
     let goes := fun (i : Instr) (kind : LongKind) (dest : Nat) (place : Core → Nat) => s.executes sd c i = true →
       s.longWaits sd c.val kind true o = false →
       let k := (s.side sd).coreOf c.val
       let z := s.setSide sd ((s.fetched sd c).modCore c.val (fun q => { q with hz := Hazard.none }))
       let a := k.longAddr o
       let sp := devSpace a
       let n := k.longCount kind o
       let t := devSide a
       let out := fun (words : List Word) (status : Nat) (poison : Bool) (q : Core) => ({ q with
         ops := q.ops ++ [⟨o.tag.val, k.ctx, dest, place k, words, status, poison, t != sd, a⟩]
         la := if o.inc then lset q.la o.k.val ((k.ag (16 + o.k.val) + n) % 2 ^ 44) else q.la } : Core).advance
       (z.path t (coreMaster sd c.val) = .reaches →
         let r := z.readSpan t (coreMaster sd c.val) sp (devOff a) n
         exec i s = .next (r.1.mod sd (fun x => x.modCore c.val (out r.2.1
           (if ∃ j < n, (z.side t).inSpace sp (devOff a + j) = false then 0x2004 else if r.2.2 then 0x1002 else 0) r.2.2))))
       ∧ (z.path t (coreMaster sd c.val) = .keelDown →
         exec i s = .next ((z.keelLost t (coreMaster sd c.val) false a).mod sd (fun x =>
           x.modCore c.val (out (List.replicate n 0) 0x300D false))))
     goes (.ldl sd c o) .word 0 (fun _ => o.g.val)
     ∧ goes (.bldx sd c o) .blockX 1 (fun k => (k.g o.g.val).toNat % 2 ^ 13)
     ∧ goes (.bldy sd c o) .blockY 2 (fun k => (k.g o.g.val).toNat % 2 ^ 13)) ∧
  (-- LongStores
   ∀ (s : State) (sd : SideId) (c : Fin 4) (o : LongArgs),
     let goes := fun (i : Instr) (kind : LongKind) (dest : Nat) (y : Option Bool) => s.executes sd c i = true →
       s.longWaits sd c.val kind false o = false →
       let k := (s.side sd).coreOf c.val
       let z := s.setSide sd ((s.fetched sd c).modCore c.val (fun q => { q with hz := Hazard.none }))
       let a := k.longAddr o
       let n := k.longCount kind o
       let t := devSide a
       let src := match y with
         | none => (z.side sd, [k.g o.g.val], false)
         | some y => (z.side sd).dataWords c.val y ((k.g o.g.val).toNat % 2 ^ 13) n
       let out := fun (status : Nat) (q : Core) => ({ q with
         ops := q.ops ++ [⟨o.tag.val, k.ctx, dest, 0, [], status, src.2.2, t != sd, a⟩]
         la := if o.inc then lset q.la o.k.val ((k.ag (16 + o.k.val) + n) % 2 ^ 44) else q.la } : Core).advance
       (z.path t (coreMaster sd c.val) = .reaches →
         let r := (z.setSide sd src.1).writeSpan t (coreMaster sd c.val) (if t = sd then portCox else portHost) (devSpace a) (devOff a) src.2.1
         exec i s = .next (r.1.mod sd (fun x => x.modCore c.val (out (if r.2 then 0x2004 else if src.2.2 then 0x1002 else 0)))))
       ∧ (z.path t (coreMaster sd c.val) = .keelDown →
         exec i s = .next (((z.setSide sd src.1).keelLost t (coreMaster sd c.val) true a).mod sd (fun x => x.modCore c.val (out 0x300D))))
     goes (.stl sd c o) .word 3 none ∧ goes (.bstx sd c o) .blockX 4 (some false) ∧ goes (.bsty sd c o) .blockY 4 (some true)) ∧
  (-- LongStall
   ∀ (s : State) (sd : SideId) (c : Fin 4) (o : LongArgs),
     let stays := fun (i : Instr) (kind : LongKind) (load : Bool) => s.longWaits sd c.val kind load o = true → exec i s = .next s
     stays (.ldl sd c o) .word true ∧ stays (.stl sd c o) .word false ∧ stays (.bldx sd c o) .blockX true ∧ stays (.bstx sd c o) .blockX false
     ∧ stays (.bldy sd c o) .blockY true ∧ stays (.bsty sd c o) .blockY false)

/-! ### The Cox cores: what happens to them -/

/-- TagCompletion: R344, R346: TAG_COMPLETE: the words of a load land in gG of the set that issued it, or in X or Y memory; a poisoned word
sets that set's PSN; the tag is idle and TSTAT shows its status; source 2 becomes pending; a WAITT that waits for the tag goes on.
Interrupts: R347: interrupt entry: the lowest enabled pending source i is taken: the core runs in the other register set from 16 × i, IPC
holds where it was, and the source is no longer pending. R332, R346: an armed alarm whose time race time has reached raises source 1,
once. The model's choices it rests on: log entries 46, 48. -/
def Obligations.TagsAndInterrupts : Prop :=
  (-- TagCompletion
   ∀ (s : State) (sd : SideId) (c : Fin 4) (tag : Fin 16) (p : LongOp),
     let k := (s.side sd).coreOf c.val
     s.held = false → (s.side sd).cores.length = 4 → k.ops.find? (fun o => o.tag == tag.val) = some p → p.dest ≠ 1 → p.dest ≠ 2 →
     Does (.tagComplete sd c tag) s (fun t =>
       t = s.setSide sd (t.side sd) ∧ t.side sd = { s.side sd with cores := (t.side sd).cores }
       ∧ (∀ j, j ≠ c.val → (t.side sd).coreOf j = (s.side sd).coreOf j)
       ∧ (let k' := (t.side sd).coreOf c.val
          k'.ops = k.ops.filter (fun o => o.tag ≠ tag.val) ∧ k'.tagSt = lset k.tagSt tag.val p.status
          ∧ (∀ j, bitAt k'.ipend j = (j == 2 || bitAt k.ipend j))
          ∧ (k'.setOf p.shadow).g = (if p.dest = 0 then lset (k.setOf p.shadow).g p.place (lget p.words 0 0) else (k.setOf p.shadow).g)
          ∧ (k'.setOf p.shadow).psn = ((k.setOf p.shadow).psn || p.poison) ∧ (k'.setOf p.shadow).acc = (k.setOf p.shadow).acc
          ∧ (k'.setOf (!p.shadow)).g = (k.setOf (!p.shadow)).g ∧ (k'.setOf (!p.shadow)).acc = (k.setOf (!p.shadow)).acc
          ∧ k'.st = k.st ∧ k'.bank = k.bank ∧ k'.la = k.la ∧ k'.calls = k.calls
          ∧ (k.waitTag ≠ some tag.val → k'.pc = k.pc ∧ k'.waitTag = k.waitTag)
          ∧ (k.waitTag = some tag.val → k'.waitTag = none ∧ (k.inSlot = false → k.act.loops = [] → k'.pc = (k.pc + 1) % 2 ^ 13))))) ∧
  (-- Interrupts
   ∀ (s : State) (sd : SideId) (c : Fin 4) (i : Nat),
     let k := (s.side sd).coreOf c.val
     let x := s.side sd
     (s.coxRuns sd = true → k.halts = [] → k.eligible = true → i < 16 → bitAt k.ipend i = true → bitAt k.imask i = true →
       (∀ j < i, (bitAt k.ipend j && bitAt k.imask j) = false) →
       exec (.interruptEntry sd c) s = .next (s.mod sd (fun x => x.modCore c.val (fun q => { q with
         st := 1, ipc := q.pc, ipend := q.ipend - 2 ^ i, ctx := true, pc := 16 * i, waitTag := none, hz := Hazard.none }))))
     ∧ (k.armed = true → k.alarmHi * 2 ^ 36 + k.alarmLo ≤ x.now →
       exec (.alarm sd c) s = .next (s.mod sd (fun x => x.modCore c.val (fun q => { q with
         armed := false, ipend := if bitAt q.ipend 1 then q.ipend else q.ipend + 2 }))))
     ∧ (k.armed = false ∨ x.now < k.alarmHi * 2 ^ 36 + k.alarmLo → exec (.alarm sd c) s = .next s))

/-- IllegalHalts: R343, R355: a word that no core executes halts the core: it is HALTED with the cause's code, its PC kept, and a fault of
class Contained is reported for it. HaltAndSwitch: R352, R353: a core that a HALT waits for and that holds no outstanding tag is HALTED
with cause 2. A SWITCH takes place in WAIT at an idle point: the core runs the other bank from its entry point, with IMASK 0 and g0 = ARG.
A core HALTED by a HALT or stalled keeps all else; a SWITCH that times out is no longer pending and answers QUIESCE_TIMEOUT. The model's
choices it rests on: log entry 52. -/
def Obligations.CoresStop : Prop :=
  (-- IllegalHalts
   ∀ (s : State) (sd : SideId) (c : Fin 4) (cause : IllegalCause),
     let x := s.side sd
     let code := match cause with
       | .illegal => 4
       | .loopStack => 5
       | .callStack => 6
       | .poisonedFetch => 7
     s.mayIssue sd c.val = true → (x.coreOf c.val).st = 1 → x.cores.length = 4 →
     (x.coreOf c.val).haltCause sd c (x.fetch c.val).2 = some code →
     Does (.illegal sd c cause) s (fun t =>
       t = s.setSide sd (((s.fetched sd c).modCore c.val (fun k =>
         { k with st := 0, cause := code, slot := none, inSlot := false, waitTag := none })).logFault
           ⟨2, x.src (srcOf 5 1 (16 + c.val)), code * 2 ^ 13 + (x.coreOf c.val).pc % 2 ^ 13, false, false, false⟩ true))) ∧
  (-- HaltAndSwitch
   ∀ (s : State) (sd : SideId) (c : Fin 4) (p : SideId × Nat) (st : Staged),
     let x := s.side sd
     let k := x.coreOf c.val
     (s.held = false → x.cores.length = 4 → k.halts = [p] → k.ops = [] → x.cmdOf p.1 p.2 = some st →
       let y := x.modCore c.val (fun q => if q.st = 0 then { q with halts := [] }
         else { q with st := 0, cause := 2, slot := none, inSlot := false, waitTag := none, halts := [] })
       exec (.coreHalted sd c) s = .next ((s.setSide sd y).complete sd st 0 (lget st.aux 0 0).toNat (k.bank : Nat) (x.imageVersion c.val k.bank : Nat)))
     ∧ (s.mayIssue sd c.val = true → x.cores.length = 4 → k.st = 2 → k.ctx = false → k.main.loops = [] → k.ops = [] → k.sw = some p →
       x.cmdOf p.1 p.2 = some st →
       let b := 1 - k.bank
       let y := x.modCore c.val (fun q => { q with
         bank := b, pc := x.imageEntry c.val b, st := 1, imask := 0, sw := none, hz := Hazard.none, main := q.main.putG 0 q.arg })
       exec (.coreSwitch sd c) s = .next ((s.setSide sd y).complete sd st 0 x.now (b + 2 : Nat) (x.imageVersion c.val b : Nat)))
     ∧ (k.sw = some p → x.cmdOf p.1 p.2 = some st →
       exec (.switchTimeout sd c) s = .next ((s.mod sd (fun x => x.modCore c.val (fun k => { k with sw := none }))).complete sd st 0x6001 x.now 0 0)))

/-! ### The register bus -/

/-- SnapshotReads: R42, R45: reads of two-word values by a master of the register's own side: a low word fills the master's snapshot slot with
the high word; a high word comes from a slot that holds its pair, else it is the live word and MISS is set; a result's low word shows
FRESH until this master has read it. No read of these kinds changes anything else. StagedWrites: R43: a high word written to a pair waits
in the master's staging slot; a low word of the same pair commits both and empties the slot; with the slot empty, or holding another pair,
it commits the low word alone with the register's own high word, and the latter sets STAGE_MISS. R247: one write of both words commits
both and leaves the slot. The model's choices it rests on: log entry 27. -/
def Obligations.SnapshotAndStagingSlots : Prop :=
  (-- SnapshotReads
   ∀ (s : State) (sd : SideId) (m : Fin 11) (off : BitVec 39) (i : BitVec 20),
     let n := off.toNat
     let x := s.side sd
     masterSide sd m.val = sd →
     (n < 2 ^ 20 → s.opens sd m n = true → kindOf n = some .rsLo →
       exec (.lowWordRead sd m (.dev 2) off) s = .next ((s.mod sd (fun x => { x with bus := { x.bus with
         snap := aput x.bus.snap m.val (n, x.live m.val (n + 1)) } })).returned (x.live m.val n)))
     ∧ (n < 2 ^ 20 → s.opens sd m n = true → kindOf n = some .rsHi → (∀ w, aget x.bus.snap m.val = some (n - 1, w) →
         exec (.highWordRead sd m 2 off) s = .next (s.returned w))
       ∧ ((∀ w, aget x.bus.snap m.val ≠ some (n - 1, w)) →
         exec (.highWordRead sd m 2 off) s = .next ((s.mod sd (fun x => x.orBit SNAP_STAT.MISS m.val)).returned (x.live m.val n))))
     ∧ (s.opens sd m i.toNat = true → kindOf i.toNat = some .rcLo →
         exec (.resultRead sd m i) s = .next ((s.mod sd (fun x => { x with bus := { x.bus with
           seen := dedup (x.bus.seen ++ [(i.toNat, m.val)])
           snap := if hasHigh i.toNat then aput x.bus.snap m.val (i.toNat, x.live m.val (i.toNat + 1)) else x.bus.snap } })).returned
             (x.live m.val i.toNat))
         ∧ (i.toNat ≠ RT_FREQ_ADJ.whole.idx → (x.live m.val i.toNat).getLsbD 34 = ((x.reg i.toNat).getLsbD 34
             || (x.reg i.toNat).getLsbD 35 && !x.bus.seen.contains (i.toNat, m.val))))) ∧
  (-- StagedWrites
   ∀ (s : State) (sd : SideId) (m : Fin 11) (i : BitVec 20) (v hi : Word),
     let n := i.toNat
     let x := s.side sd
     let slotless := fun (x : Side) => { x with bus := { x.bus with stage := adel x.bus.stage m.val } }
     s.opens sd m n = true → n ≠ ACC_ERR_LO.whole.idx → n ≠ POISON_ADDR_LO.whole.idx → n ≠ ACC_ERR_HI.whole.idx → n ≠ POISON_ADDR_HI.whole.idx →
     (kindOf n = some .rsHi ∨ kindOf n = some .wHi →
       exec (.highWordWrite sd m i v) s = .next (s.mod sd (fun x => { x with bus := { x.bus with stage := aput x.bus.stage m.val (n - 1, v) } })))
     ∧ (kindOf n = some .rsLo ∨ kindOf n = some .wLo →
       (∀ w, aget x.bus.stage m.val = some (n, w) → exec (.lowWordWrite sd m i v) s = .next ((s.mod sd slotless).commitPair sd n w v))
       ∧ (aget x.bus.stage m.val = none → exec (.lowWordWrite sd m i v) s = .next (s.commitPair sd n (x.reg (n + 1)) v))
       ∧ (∀ k w, aget x.bus.stage m.val = some (k, w) → k ≠ n →
           exec (.lowWordWrite sd m i v) s
             = .next ((s.mod sd (fun x => x.orBit SNAP_STAT.STAGE_MISS m.val)).commitPair sd n (x.reg (n + 1)) v))
       ∧ (hasHigh n = true → n % 2 = 0 → exec (.pairWrite sd m i v hi) s = .next (s.commitPair sd n hi v))))

/-- PairCommits: R289, R43: a commit of a ring's base address sets the pair while the ring is not enabled; else it changes nothing but
RING_ERR.CFG_REFUSED, which it sets where the value differs. Shown of the event ring. R191: a pair that no rule of its own guards takes
both words. RegisterWrites: R246: a register changes only by a write that covers bytes 0 to 4 of its slot; one that covers some of them is
logged as PARTIAL_WRITE, one that covers none does nothing. A register that no rule of its own governs takes the bits software writes,
keeps the others, and clears those that writing 1 clears; shown of PLL_LOCK_CFG. The model's choices it rests on: log entry 24. -/
def Obligations.RegisterCommits : Prop :=
  (-- PairCommits
   ∀ (s : State) (sd : SideId) (h l : Word),
     let x := s.side sd
     let p := EVQ_BASE_LO.whole.idx
     let v := fun (a : Nat) => pairN (h &&& wordN (((findReg (a + 1)).map RegRow.rw).getD 0)) (l &&& wordN (((findReg a).map RegRow.rw).getD 0))
     (x.pair p = v p → s.commitPair sd p h l = s)
     ∧ (x.pair p ≠ v p → x.on EVQ_CFG.EN = false → s.commitPair sd p h l = s.mod sd (fun x => x.setPair p (v p)))
     ∧ (x.pair p ≠ v p → x.on EVQ_CFG.EN = true → s.commitPair sd p h l = s.mod sd (fun x => x.raise RING_ERR.CFG_REFUSED))
     ∧ s.commitPair sd SO_OV_BASE_LO.whole.idx h l = s.mod sd (fun x => x.setPair SO_OV_BASE_LO.whole.idx (v SO_OV_BASE_LO.whole.idx))) ∧
  (-- RegisterWrites
   ∀ (s : State) (sd : SideId) (m : Fin 11) (i : BitVec 20) (bytes : List (Option Byte)) (ep : Bool),
     let n := i.toNat
     let v := slotWord bytes
     let be := slotBe bytes % 32
     s.opens sd m n = true →
     (be = 0 → exec (.registerWrite sd m (.reg i) bytes ep) s = .next s)
     ∧ (be ≠ 0 → be ≠ 31 → kindOf n ≠ none →
         exec (.registerWrite sd m (.reg i) bytes ep) s = .next (s.mod sd (fun x => x.accErr accPartial m.val true (x.regAddr n))))
     ∧ (be = 31 → n = PLL_LOCK_CFG.whole.idx → ∀ r, findReg n = some r →
         exec (.registerWrite sd m (.reg i) bytes ep) s = .next (s.mod sd (fun x => x.setReg n
           (((x.reg n &&& ~~~(wordN r.rw)) ||| (v &&& wordN r.rw)) &&& ~~~(v &&& wordN r.w1c))))))

/-- R249: before READY a register of a block that is not served reads zero, a write of it is dropped, and each access is logged with cause
ACCESS_BEFORE_READY. R258, R10: an access across a Keel that is down returns zero or writes nothing, and is logged on the requester's
side. The model's choices it rests on: log entries 18, 19. -/
def Obligations.RefusedAccesses : Prop := ∀ (s : State) (sd : SideId) (m : Fin 11) (off : BitVec 39) (i : BitVec 20) (v : Word),
  (s.path sd m.val = .reaches → (s.side sd).islTakes busSrc = true →
    (masterSide sd m.val = sd → off.toNat < 2 ^ 20 → (s.side sd).serves off.toNat = false →
      exec (.lowWordRead sd m (.dev 2) off) s = .next ((s.mod sd (fun x => x.accErr accEarly m.val false (x.regAddr off.toNat))).returned 0))
    ∧ ((s.side sd).serves i.toNat = false →
      exec (.highWordWrite sd m i v) s = .next (s.mod sd (fun x => x.accErr accEarly m.val true (x.regAddr i.toNat)))))
  ∧ (s.path sd m.val = .keelDown →
    exec (.lowWordRead sd m (.dev 2) off) s = .next ((s.mod sd.other (fun x => x.accErr accKeel m.val false (devOf sd 2 off.toNat))).returned 0)
    ∧ exec (.highWordWrite sd m i v) s = .next (s.mod sd.other (fun x => x.accErr accKeel m.val true (devOf sd 2 i.toNat))))
  ∧ (s.path sd m.val = .none → exec (.highWordWrite sd m i v) s = .next s)

/-! ### Control registers with rules of their own -/

/-- TimeAndDisplayWrites: R176, R182, R191, R365, R431, R435, R438: RT_SET_SEC arms except on the crew side; SWAP_IP asks for a swap; the
split ring's configuration changes while all inputs are off, and restarts its pointers; COMMIT of SO_CTRL leaves a commit pending, late
within blanking; EN starts scan-out from a configuration that R432 accepts, and 0 stops it. LinkAndConverterWrites: R48, R380, R388: a
link whose LINK_EN goes to 1 begins bring-up if its configuration is allowed, and shows CFG_ERR if not; a write while it is enabled is
ignored with CFG_LOCKED; disabling a link of a stopped front end takes it down. TONE_CFG and MON_CFG take their bits; DEC_LOG2 is at least
8. The model's choices it rests on: log entries 60, 95. -/
def Obligations.TimeDisplayAndLinkWrites : Prop :=
  (-- TimeAndDisplayWrites
   ∀ (s : State) (sd : SideId) (m : Fin 11) (n : Fin 4) (v : Word),
     let x := s.side sd
     (s.opens sd m RT_SET_SEC.whole.idx = true → (x.isCrew = false ∨ bitAt v.toNat 35 = false) →
       exec (.rtSetSec sd m v) s = .next (s.mod sd (fun x =>
         (x.set RT_SET_SEC.SEC (v.toNat % 2 ^ 32)).set RT_SET_SEC.ARM (if bitAt v.toNat 35 then 1 else 0))))
     ∧ (s.opens sd m RT_SET_SEC.whole.idx = true → x.isCrew = true → bitAt v.toNat 35 = true →
       exec (.rtSetSec sd m v) s = .next (s.mod sd (fun x => (x.set RT_SET_SEC.SEC (v.toNat % 2 ^ 32)).set RT_STAT.LOAD_IGNORED 1)))
     ∧ (s.opens sd m (SPLIT_IN_CFG.whole n.val).idx = true → bitAt v.toNat 18 = true →
       Does (.swapIp sd m (n.castSucc) v) s (fun t => (t.side sd).split.swapReq = dedup (x.split.swapReq ++ [n.val])
         ∧ (t.side sd).get (SPLIT_IN_CFG.IP_B n.val) = x.get (SPLIT_IN_CFG.IP_B n.val) ∧ (t.side sd).on (SPLIT_IN_CFG.SWAP_IP n.val) = false))
     ∧ (s.opens sd m SPLIT_RING_CFG.whole.idx = true → ∀ r, findReg SPLIT_RING_CFG.whole.idx = some r →
         let y := x.setReg SPLIT_RING_CFG.whole.idx (mergeWrite r (x.reg SPLIT_RING_CFG.whole.idx) v)
         (y.reg SPLIT_RING_CFG.whole.idx ≠ x.reg SPLIT_RING_CFG.whole.idx → x.splitOff = true →
           exec (.splitRingCfgWrite sd m v) s = .next (s.setSide sd ((y.set SPLIT_WP.WP 0).set SPLIT_RP.RP 0)))
         ∧ (y.reg SPLIT_RING_CFG.whole.idx ≠ x.reg SPLIT_RING_CFG.whole.idx → x.splitOff = false →
           exec (.splitRingCfgWrite sd m v) s = .next (s.mod sd (fun x => x.set SPLIT_STAT.CFG_IGNORED 1)))
         ∧ (y.reg SPLIT_RING_CFG.whole.idx = x.reg SPLIT_RING_CFG.whole.idx → exec (.splitRingCfgWrite sd m v) s = .next s))
     ∧ (s.opens sd m SO_CTRL.whole.idx = true →
       let y := x.set SO_CTRL.VBL_EVT (if bitAt v.toNat 33 then 1 else 0)
       (bitAt v.toNat 35 = x.on SO_CTRL.EN → bitAt v.toNat 34 = true → exec (.soCommit sd m v) s = .next (s.setSide sd
           (if x.so.blank then (y.set SO_STAT.PENDING 1).set SO_STAT.LATE_COMMIT_SEEN 1 else y.set SO_STAT.PENDING 1)))
       ∧ (bitAt v.toNat 35 = true → x.on SO_CTRL.EN = false → bitAt v.toNat 34 = false → y.soBad = false →
           let z := (y.soCopy.soRefit y.soRelinks).set SO_CTRL.EN 1
           exec (.soEnable sd m v) s = .next (s.setSide sd
             { z with so := { z.so with run := false, relock := true, idle := 0, blank := false, line := 0, pix := [], tear := false } }))
       ∧ (bitAt v.toNat 35 = true → x.on SO_CTRL.EN = false → bitAt v.toNat 34 = false → y.soBad = true →
           exec (.soEnable sd m v) s = .next (s.setSide sd (y.set SO_STAT.CFG_REFUSED 1)))
       ∧ (bitAt v.toNat 35 = false → x.on SO_CTRL.EN = true → bitAt v.toNat 34 = false → exec (.soEnable sd m v) s = .next (s.setSide sd
           { (y.set SO_CTRL.EN 0) with so := { x.so with run := false, relock := false, blank := false, line := 0, pix := [], tear := false } })))) ∧
  (-- LinkAndConverterWrites
   ∀ (s : State) (sd : SideId) (m : Fin 11) (ch : Chan) (v : Word),
     let x := s.side sd
     let r := (JESD_CFG.whole ch.n).idx
     let w := v &&& wordN (2 ^ 36 - 2 ^ 5)
     (s.opens sd m r = true → x.on (JESD_CFG.LINK_EN ch.n) = false → bitAt w.toNat 35 = true →
       ((x.setReg r w).jesdOk ch = true →
         exec (.jesdCfgWrite sd m ch v) s = .next (s.setSide sd (((x.setReg r w).set (JESD_STAT.CFG_ERR ch.n) 0).jesdStart ch)))
       ∧ ((x.setReg r w).jesdOk ch = false → exec (.jesdCfgWrite sd m ch v) s
           = .next (s.setSide sd (((x.setReg r w).set (JESD_STAT.CFG_ERR ch.n) 1).setJesd ch { x.jesdOf ch with step := 0 }))))
     ∧ (s.opens sd m r = true → x.on (JESD_CFG.LINK_EN ch.n) = true → bitAt w.toNat 35 = true → w ≠ x.reg r →
       exec (.jesdCfgWrite sd m ch v) s = .next (s.mod sd (fun x => x.set (JESD_STAT.CFG_LOCKED ch.n) 1)))
     ∧ (s.opens sd m r = true → x.on (JESD_CFG.LINK_EN ch.n) = true → w = x.reg r → exec (.jesdCfgWrite sd m ch v) s = .next s)
     ∧ (s.opens sd m r = true → x.on (JESD_CFG.LINK_EN ch.n) = true → bitAt w.toNat 35 = false → x.on (FE_STAT.RUNNING ch.n) = false →
       exec (.jesdCfgWrite sd m ch v) s = .next (s.setSide sd (((((x.setReg r w).set (JESD_STAT.LINK_UP ch.n) 0).set (JESD_STAT.SH_LOCK ch.n) 0).set
         (JESD_STAT.EMB_LOCK ch.n) 0).set (JESD_STAT.CFG_ERR ch.n) 0 |>.setJesd ch { x.jesdOf ch with step := 0 })))
     ∧ (s.opens sd m r = true → x.on (JESD_CFG.LINK_EN ch.n) = false → bitAt w.toNat 35 = false →
       exec (.jesdCfgWrite sd m ch v) s = .next (s.mod sd (fun x => x.setReg r w)))
     ∧ (s.opens sd m TONE_CFG.whole.idx = true → ∀ o : Fin 2,
       let en := fun (x : Side) => x.on (toneEn o.val)
       Does (.toneCfgWrite sd m v) s (fun t => en (t.side sd) = bitAt v.toNat (toneEn o.val).lo
         ∧ (en (t.side sd) ≠ en x → x.tone.length = 2 → ((t.side sd).toneOf o.val).force = none ∧ ((t.side sd).toneOf o.val).code = 0
           ∧ ((t.side sd).toneOf o.val).staged = (x.toneOf o.val).staged)
         ∧ (en (t.side sd) = en x → (t.side sd).toneOf o.val = x.toneOf o.val)))
     ∧ (s.opens sd m MON_CFG.whole.idx = true → x.on MON_CFG.BUF_EN = false →
       Does (.monCfgWrite sd m v) s (fun t => (t.side sd).reg MON_CFG.whole.idx = wordN (max 8 (bitsOf v.toNat 35 32) * 2 ^ 32 + bitsOf v.toNat 31 21 * 2 ^ 21)
         ∧ (bitAt v.toNat 28 = true → (t.side sd).on MON_WP.WP = false ∧ (t.side sd).on MON_RP.RP = false
             ∧ (t.side sd).get MON_STAT.LOG2LEN_ACTIVE = log2Len (bitsOf v.toNat 25 21)))))

/-- HostWrites: R255, R259, R261, R265, R355, R389, R406: a window's configuration empties its merge unit; ROUTE_BOW changes only while no
ring or copy of the bow is active; ACC_ERR's CLEAR clears the log; NUDGE asks for a read of the doorbell page while polling; a calibration
value takes its field's bits and marks its item edited unless a run holds it; a mailbox word raises source 0 of its core.
RingConfigWrites: R289: a ring's configuration: SIZE is from 6 to 16 and does not change while EN is 1, and a completion ring in use is
not disabled: else nothing changes but CFG_REFUSED. A command ring that is enabled starts at index 0 with its error bit clear. The model's
choices it rests on: log entries 20, 25, 26. -/
def Obligations.HostRegisterWrites : Prop :=
  (-- HostWrites
   ∀ (s : State) (sd : SideId) (m : Fin 11) (n c : Fin 4) (i : BitVec 20) (v : Word),
     let x := s.side sd
     (s.opens sd m (WIN_CFG.whole n.val).idx = true → ∀ r, findReg (WIN_CFG.whole n.val).idx = some r →
       exec (.winCfgWrite sd m n v) s = .next (s.mod sd (fun y => (y.emptyMerge n.val).setReg (WIN_CFG.whole n.val).idx
         (mergeWrite r (x.reg (WIN_CFG.whole n.val).idx) v))))
     ∧ (s.opens .stroke m HOST_CFG.whole.idx = true → bitAt v.toNat 35 ≠ s.stroke.on HOST_CFG.ROUTE_BOW →
       (s.bow.ringsActive = true → exec (.routeBowWrite .stroke m v) s = .next (s.mod .stroke (fun x => x.set HOST_STAT.ROUTE_REFUSED 1)))
       ∧ (s.bow.ringsActive = false → exec (.routeBowWrite .stroke m v) s = .next (s.mod .stroke (fun x =>
           (x.set HOST_CFG.ROUTE_BOW (if bitAt v.toNat 35 then 1 else 0)).set HOST_CFG.POISON_EP (if bitAt v.toNat 34 then 1 else 0)))))
     ∧ (s.opens sd m ACC_ERR_HI.whole.idx = true →
       exec (.accErrClear sd m v) s = .next (if bitAt v.toNat 35 then
         s.mod sd (fun x => (x.setReg ACC_ERR_LO.whole.idx 0).setReg ACC_ERR_HI.whole.idx 0) else s))
     ∧ (s.opens sd m NUDGE.whole.idx = true → x.on DB_CFG.EN = true →
       exec (.nudge sd m) s = .next (s.mod sd (fun x => { x with host := { x.host with nudged := true } })))
     ∧ (s.opens sd m i.toNat = true → ∀ k, calItemOf i.toNat = some k → k ≠ 3 → ∀ r, findReg i.toNat = some r → r.kind = .plain →
       exec (.calStoreWrite sd m i v) s = .next (s.mod sd (fun y => if y.cal.job.any (fun j => bitAt j.mask k) then y.set CAL_STAT.WRITE_IGNORED 1
         else (y.setReg i.toNat (mergeWrite r (x.reg i.toNat) v &&& wordN (2 ^ calBits k - 1))).orBit CAL_STAT.EDITED k)))
     ∧ (s.opens sd m (COXCORE_MBOX_IN.whole c.val).idx = true →
       exec (.coxcoreMboxIn sd m c v) s = .next (s.mod sd (fun x => (x.setReg (COXCORE_MBOX_IN.whole c.val).idx v).modCore c.val (fun k =>
         { k with ipend := if bitAt k.ipend 0 then k.ipend else k.ipend + 1 }))))) ∧
  (-- RingConfigWrites
   ∀ (s : State) (sd : SideId) (m : Fin 11) (k : Fin 8) (i : BitVec 20) (v : Word) (r : RegRow),
     let x := s.side sd
     let n := i.toNat
     let lg := bitsOf (mergeWrite r (x.reg n) v).toNat 34 31
     let en := bitAt (mergeWrite r (x.reg n) v).toNat 35
     n = (CMDQ_CFG.whole k.val).idx → findReg n = some r → s.opens sd m n = true →
     ((x.on (CMDQ_CFG.EN k.val) = true → lg ≠ bitsOf (x.reg n).toNat 34 31 →
         exec (.ringCfgWrite sd m i v) s = .next (s.mod sd (fun x => x.set RING_ERR.CFG_REFUSED 1)))
     ∧ (x.on (CMDQ_CFG.EN k.val) = false → en = true → lg < 6 ∨ 16 < lg →
         exec (.ringCfgWrite sd m i v) s = .next (s.mod sd (fun x => x.set RING_ERR.CFG_REFUSED 1)))
     ∧ (x.on (CMDQ_CFG.EN k.val) = false → en = true → 6 ≤ lg → lg ≤ 16 →
         exec (.ringCfgWrite sd m i v) s = .next (s.mod sd (fun y => { (y.setReg n (mergeWrite r (x.reg n) v)) with
           host := { y.host with cmd := lset y.host.cmd k.val ⟨0, 0, none⟩ } }.andNotBit RING_ERR.CMD_ERR k.val)))
     ∧ (x.on (CMDQ_CFG.EN k.val) = true → en = false → lg = bitsOf (x.reg n).toNat 34 31 →
         exec (.ringCfgWrite sd m i v) s = .next (s.mod sd (fun y => y.setReg n (mergeWrite r (x.reg n) v))))))

/-- R301, R311, R312, R326, R327: self-refresh is entered with the refreshes owed issued, and left; a rate switch takes every channel into
self-refresh; what playback, an armed channel, a spill or scan-out needs refuses both with LP_REFUSED. A panic level's OFF stays below its
ON. A repair of a row that does not exist is refused. POISON_ADDR's CLEAR clears the log. The model's choices it rests on: log entry 87. -/
def Obligations.MemoryRegisterWrites : Prop := ∀ (s : State) (sd : SideId) (m : Fin 11) (n : Fin 5) (v : Word),
  let x := s.side sd
  let bits := fun hi lo => bitsOf v.toNat hi lo
  (s.opens sd m DRAM_LP_CTRL.whole.idx = true → bits 31 29 = 0 → bits 35 32 ≠ x.get DRAM_LP_CTRL.SR_REQ →
    (x.srBlocked = true → exec (.srReq sd m v) s = .next (s.mod sd (fun x => x.set DRAM_LP_CTRL.LP_REFUSED 1)))
    ∧ (x.srBlocked = false → Does (.srReq sd m v) s (fun t => ∀ c < 4, (t.side sd).get DRAM_LP_CTRL.SR_REQ = bits 35 32
        ∧ (t.side sd).on (DRAM_STAT.SR c) = (if x.on (DRAM_STAT.TRAINED c) then bitAt (bits 35 32) c else x.on (DRAM_STAT.SR c))
        ∧ (x.on (DRAM_STAT.TRAINED c) = true → bitAt (bits 35 32) c = true → (t.side sd).on (DRAM_STAT.OWED0 c) = false ∧ (t.side sd).on (DRAM_STAT.OWED1 c) = false))))
  ∧ (s.opens sd m DRAM_LP_CTRL.whole.idx = true → bits 31 29 = 4 → bits 35 32 = x.get DRAM_LP_CTRL.SR_REQ → x.dram.fcBusy = false →
    (x.srBlocked = true → exec (.fcReq sd m v) s = .next (s.mod sd (fun x => x.set DRAM_LP_CTRL.LP_REFUSED 1)))
    ∧ (x.srBlocked = false → x.get DRAM_CFG.POP = 15 → (∀ c < 4, x.on (DRAM_STAT.MAPPED_OUT c) = false) → x.get DRAM_CFG.ALT_RATE ≠ 7 →
      Does (.fcReq sd m v) s (fun t => (t.side sd).dram.fcBusy = true ∧ (t.side sd).on PLL_STAT.M_LOCK = false
        ∧ ∀ c < 4, (t.side sd).on (DRAM_STAT.SR c) = true ∧ (t.side sd).on (DRAM_STAT.OWED0 c) = false)))
  ∧ (s.opens sd m (DRAM_PANIC.whole n.val).idx = true →
    exec (.dramPanicWrite sd m n v) s = .next (s.mod sd (fun x => (x.set (DRAM_PANIC.ON n.val) (bits 35 18)).set (DRAM_PANIC.OFF n.val)
      (if bits 17 0 < bits 35 18 then bits 17 0 else bits 35 18 - 1))))
  ∧ (s.opens sd m SRAM_REPAIR_REQ.whole.idx = true →
    let y := (x.set SRAM_REPAIR_REQ.BANK (bits 34 26)).set SRAM_REPAIR_REQ.ROW (bits 25 12)
    (bitAt v.toNat 35 = false → exec (.sramRepairReq sd m v) s = .next (s.setSide sd y))
    ∧ (bitAt v.toNat 35 = true → 383 < bits 34 26 ∨ bankRows (bits 34 26) ≤ bits 25 12 ∨ x.on SRAM_REPAIR_STAT.BUSY = true →
        exec (.sramRepairReq sd m v) s = .next (s.setSide sd (y.set SRAM_REPAIR_STAT.REFUSED 1)))
    ∧ (bitAt v.toNat 35 = true → bits 34 26 ≤ 383 → bits 25 12 < bankRows (bits 34 26) → x.on SRAM_REPAIR_STAT.BUSY = false →
        exec (.sramRepairReq sd m v) s = .next (s.setSide sd (y.repairRow (bits 34 26) (bits 25 12)))))
  ∧ (s.opens sd m POISON_ADDR_HI.whole.idx = true →
    exec (.poisonAddrClear sd m v) s = .next (if bitAt v.toNat 35 then
      s.mod sd (fun x => (x.setReg POISON_ADDR_LO.whole.idx 0).setReg POISON_ADDR_HI.whole.idx 0) else s))

/-- FaultWrites: R416, R420: an acknowledgement with FIRST clears the first-fault record of its number, any other a FAULT_OUT entry; one whose
number is not that entry's sets ACK_STALE. An injection of a source without checkers, of a fatal class without INJ_FATAL, or over another
injection is refused; else it is set. ResetWrites: R447, R449, R454: a write of SIDE_RESET with the key leaves a side reset pending; no
other value does. ISL_RESET resets an island that is quiesced and no other. A map-out that R454 refuses changes REFUSED and CAUSE alone; a
write without GO takes MASK and KEEP_OUT. The model's choices it rests on: log entries 103, 104, 105, 107. -/
def Obligations.FaultAndResetWrites : Prop :=
  (-- FaultWrites
   ∀ (s : State) (sd : SideId) (m : Fin 11) (v : Word),
     let x := s.side sd
     let bits := fun hi lo => bitsOf v.toNat hi lo
     (s.opens sd m FAULT_ACK.whole.idx = true →
       let first := FAULT_FIRST_W2.whole.idx
       let stale := s.mod sd (fun x => x.set FAULT_STAT.ACK_STALE 1)
       (bitAt v.toNat 35 = true → x.on FAULT_STAT.FIRST_VALID = true → bitsOf (x.reg first).toNat 29 16 = bits 29 16 →
         exec (.faultAck sd m v) s = .next (s.mod sd (fun x =>
           (((x.setPair FAULT_FIRST_LO.whole.idx 0).setReg first 0).setReg FAULT_FIRST_W3.whole.idx 0).set FAULT_STAT.FIRST_VALID 0)))
       ∧ (bitAt v.toNat 35 = true → x.on FAULT_STAT.FIRST_VALID = false ∨ bitsOf (x.reg first).toNat 29 16 ≠ bits 29 16 →
         exec (.faultAck sd m v) s = .next stale)
       ∧ (∀ i, bitAt v.toNat 35 = false → x.outEntry (bits 15 0) = some i → x.get (FAULT_OUT.SEQ i) = bits 29 16 →
         exec (.faultAck sd m v) s = .next (s.mod sd (fun x => (x.set (FAULT_OUT.whole i) 0).faultRefresh)))
       ∧ (bitAt v.toNat 35 = false → x.outEntry (bits 15 0) = none → exec (.faultAck sd m v) s = .next stale))
     ∧ (s.opens sd m FAULT_INJ.whole.idx = true →
       (x.hasChecker (bits 31 16) = false → exec (.faultInj sd m v) s = .next (s.mod sd (fun x => x.set FAULT_STAT.INJ_REFUSED 1)))
       ∧ (bits 35 34 ≠ 0 → x.on FAULT_INJ.MODE = true → exec (.faultInj sd m v) s = .next (s.mod sd (fun x => x.set FAULT_STAT.INJ_REFUSED 1)))
       ∧ (x.hasChecker (bits 31 16) = true → x.on FAULT_CFG.INJ_FATAL = true → x.on FAULT_INJ.MODE = false →
         exec (.faultInj sd m v) s = .next (s.mod sd (fun x => (((x.set FAULT_INJ.MODE (bits 35 34)).set FAULT_INJ.RAIL (bits 33 33)).set
           FAULT_INJ.SRC (bits 31 16)).set FAULT_INJ.CHK (bits 15 8)))))) ∧
  (-- ResetWrites
   ∀ (s : State) (sd : SideId) (m : Fin 11) (v : Word),
     let x := s.side sd
     let bits := fun hi lo => bitsOf v.toNat hi lo
     let src := bits 15 0
     (s.opens sd m SIDE_RESET.whole.idx = true →
       (bits 35 24 = 0x5D3 → x.on FAULT_STAT.DEV_FATAL = false →
         exec (.sideReset sd m v) s = .next (s.mod sd (fun x => { x with pwr := { x.pwr with resetPend := true } })))
       ∧ (bits 35 24 ≠ 0x5D3 → exec (.sideReset sd m v) s = .next s))
     ∧ (s.opens sd m ISL_RESET.whole.idx = true → bits 34 33 = 0 →
       (bitAt v.toNat 35 = false → exec (.islReset sd m v) s = .next (s.mod sd (fun x => x.set ISL_RESET.SRC src)))
       ∧ (bitAt v.toNat 35 = true → x.islCond (src % 2 ^ 15) .quiesced = false →
           exec (.islReset sd m v) s = .next (s.mod sd (fun x => x.set ISL_RESET.REFUSED 1)))
       ∧ (bitAt v.toNat 35 = true → src = x.src (src % 2 ^ 15) → x.islCond (src % 2 ^ 15) .quiesced = true → src % 2 ^ 15 ≠ srcOf 4 1 0 →
           src % 2 ^ 15 ≠ keelSrc → exec (.islReset sd m v) s = .next (s.mod sd (fun x =>
             (((x.islClear (src % 2 ^ 15)).setIsl (src % 2 ^ 15) ((x.islOf (src % 2 ^ 15)).map (fun i => { i with reset := true }))).set
               ISL_RESET.SRC src).set ISL_RESET.DONE 1))))
     ∧ (s.opens sd m DRAM_MAPOUT.whole.idx = true →
       (bitAt v.toNat 35 = true → x.mapoutCause (bits 31 28) ≠ 0 → exec (.dramMapout sd m v) s = .next (s.mod sd (fun y =>
         (y.set DRAM_MAPOUT.REFUSED 1).set DRAM_MAPOUT.CAUSE (x.mapoutCause (bits 31 28)))))
       ∧ (bits 35 35 = 0 → bits 33 32 = 0 → exec (.dramMapout sd m v) s = .next (s.mod sd (fun x =>
         (x.set DRAM_MAPOUT.MASK (bits 31 28)).set DRAM_MAPOUT.KEEP_OUT (bits 27 24))))
       ∧ (bits 35 35 = 1 → bits 33 32 = 0 → x.mapoutCause (bits 31 28) = 0 → exec (.dramMapout sd m v) s = .next (s.mod sd (fun x =>
         ((x.set DRAM_MAPOUT.MASK (bits 31 28)).set DRAM_MAPOUT.KEEP_OUT (bits 27 24)).mapoutStart (bits 31 28))))))

/-! ### Clocks -/

/-- ClockCommits: R361, R362, R365: a commit of PLL-F or PLL-T takes the fields of its configuration as they are now; it is taken at once
while the loop is locked, else it is left pending. R363: one step of the ladder goes at most 1 % towards the committed frequency.
ClockLoops: R361, R364 to R367: a loop that locks leaves coasting, and PLL-F's ladder goes on; with the ladder at its goal the change is
done. A loss of lock lets PLL-F and PLL-M coast and gates PLL-T; with the reference lost every loop that runs loses lock; its return, or
the coast's end, lets PLL-F, and PLL-M, acquire again; an acquired PLL-M takes its lock fields. The model's choices it rests on: log entries 89, 90. -/
def Obligations.ClockChanges : Prop :=
  (-- ClockCommits
   ∀ (s : State) (sd : SideId) (m : Fin 11),
     let x := s.side sd
     let f := [x.get PLLF_CFG.FAB_MHZ, x.get PLLF_CFG.SS_MODE, x.get PLLF_CFG.SS_DEPTH, x.get PLL_LOCK_CFG.WIN_F, x.get PLL_LOCK_CFG.NC_F]
     let t := [x.get PLLT_CFG.T_MULT, x.get PLL_LOCK_CFG.WIN_T, x.get PLL_LOCK_CFG.NC_T]
     (s.opens sd m PLL_COMMIT.whole.idx = true →
       (x.on PLL_STAT.F_LOCK = true → x.clk.target = none → x.on PLL_STAT.F_COAST = false → exec (.pllCommitF sd m) s = .next (s.takeF sd f))
       ∧ (x.on PLL_STAT.F_LOCK = false → exec (.pllCommitF sd m) s = .next (s.mod sd (fun x =>
           ({ x with clk := { x.clk with pendF := some f } } : Side).set PLL_STAT.PEND_F 1)))
       ∧ (x.on PLL_STAT.T_LOCK = true → exec (.pllCommitT sd m) s = .next (s.mod sd (fun x => x.takeT t)))
       ∧ (x.on PLL_STAT.T_LOCK = false → exec (.pllCommitT sd m) s = .next (s.mod sd (fun x =>
           ({ x with clk := { x.clk with pendT := some t } } : Side).set PLL_STAT.PEND_T 1))))
     ∧ (∀ g : List Nat, x.clk.target = some g →
         let a := lget x.clk.f 0 0
         let b := lget (x.ladderNext).clk.f 0 0
         x.ladderNext.get PLL_STAT.FAB_ACTIVE = b % 2 ^ 11 ∧ (a ≤ lget g 0 0 → b ≤ lget g 0 0 ∧ 100 * b ≤ 101 * a)
         ∧ (lget g 0 0 ≤ a → lget g 0 0 ≤ b ∧ 99 * a ≤ 100 * b))) ∧
  (-- ClockLoops
   ∀ (s : State) (sd : SideId) (g : List Nat),
     let x := s.side sd
     (x.clk.target = some g → x.clk.fLost = false → x.on PLL_STAT.REF_LOST = false → lget x.clk.f 0 0 = lget g 0 0 → x.clk.pendF = none →
       exec (.ladderStep sd) s = .next (s.mod sd (fun x =>
         ({ ((({ x with clk := { x.clk with fLost := false, coast := false } } : Side).set PLL_STAT.F_LOCK 1).set PLL_STAT.F_COAST 0) with
             clk := { x.clk with f := g, target := none, fLost := false, coast := false } }.set PLL_STAT.F_STEPPING 0).pllDone 0 0 (lget g 0 0))))
     ∧ (x.clk.target = some g → x.clk.fLost = false → x.on PLL_STAT.REF_LOST = false → lget x.clk.f 0 0 ≠ lget g 0 0 →
       exec (.ladderStep sd) s = .next (s.mod sd (fun x =>
         ((({ x with clk := { x.clk with fLost := false, coast := false } } : Side).set PLL_STAT.F_LOCK 1).set PLL_STAT.F_COAST 0).ladderNext)))
     ∧ (x.clk.target = none → exec (.ladderStep sd) s = .next s)
     ∧ (x.pllsRun = true → x.on PLL_STAT.REF_LOST = false → x.clk.mLost = true → x.on PLL_STAT.M_COAST = true → x.clk.mCoast = false →
       exec (.pllLock sd 2) s = .next (s.mod sd (fun x => x.lockM)))
     ∧ (x.clk.target = none → x.clk.pendF = none → x.clk.coast = false → x.pllsRun = true → x.on PLL_STAT.REF_LOST = false →
         x.on PLL_STAT.F_LOCK = false →
       exec (.pllLock sd 0) s = .next (s.mod sd (fun x =>
         ({ (if x.clk.fLost then x.event 0x21 x.now 0 0 else x) with clk := { x.clk with fLost := false } }.set PLL_STAT.F_LOCK 1).set
           PLL_STAT.F_COAST 0)))
     ∧ (x.clk.pendT = none → x.pllsRun = true → x.on PLL_STAT.REF_LOST = false → x.on PLL_STAT.T_LOCK = false →
       exec (.pllLock sd 1) s = .next (s.mod sd (fun x =>
         { (if x.clk.tLost then x.event 0x21 x.now 1 0 else x) with clk := { x.clk with tLost := false, tComm := false } }.set PLL_STAT.T_LOCK 1)))
     ∧ (x.on PLL_STAT.F_LOCK = true → exec (.pllLoss sd 0) s = .next (s.mod sd (fun x =>
         ((({ x with clk := { x.clk with fLost := true, coast := true } } : Side).set PLL_STAT.F_LOCK 0).set PLL_STAT.F_COAST 1).pllLost 0 false)))
     ∧ (x.on PLL_STAT.T_LOCK = true → exec (.pllLoss sd 1) s = .next (s.mod sd (fun x =>
         (({ x with clk := { x.clk with tLost := true } } : Side).gateT).pllLost 1 false)))
     ∧ (x.on PLL_STAT.M_LOCK = true → exec (.pllLoss sd 2) s = .next (s.mod sd (fun x =>
         ((({ x with clk := { x.clk with mLost := true, mCoast := true } } : Side).set PLL_STAT.M_LOCK 0).set PLL_STAT.M_COAST 1).pllLost 2 false)))
     ∧ (x.pllsRun = true → x.on PLL_STAT.REF_LOST = false → Does (.refclkLost sd) s (fun t =>
         (t.side sd).on PLL_STAT.REF_LOST = true ∧ (t.side sd).on PLL_STAT.F_LOCK = false ∧ (t.side sd).on PLL_STAT.F_COAST = true
         ∧ (t.side sd).on PLL_STAT.T_LOCK = false ∧ (x.on PLL_STAT.M_LOCK = true → (t.side sd).on PLL_STAT.M_COAST = true)))
     ∧ (x.on PLL_STAT.REF_LOST = true → exec (.refclkReturn sd) s = .next (s.mod sd (fun x =>
         ({ x with clk := { x.clk with coast := false, mCoast := false } } : Side).set PLL_STAT.REF_LOST 0)))
     ∧ (x.on PLL_STAT.REF_LOST = false →
       exec (.coastExpiry ⟨sd, false⟩) s = .next (s.mod sd (fun x => { x with clk := { x.clk with coast := false } }))
       ∧ exec (.coastExpiry ⟨sd, true⟩) s = .next (s.mod sd (fun x => { x with clk := { x.clk with mCoast := false } }))))

/-! ### Islands, the Keel and cox -/

/-- IslandDrains: R16, R17, R101: a draining island that has drained stops, and a seat shows QUIESCED; one that does not drain in time runs
on. Either answers the commands that wait for it; with none waiting nothing else changes. KeelUpAndDown: R24, R26, R28, R29: the Keel
comes up only where both ends are ready, and cox is then being resolved; when it falls, staged handovers end, what it carried is lost,
each side is in split crew and remembers whether it held cox all along; retraining changes nothing; without a Keel since reset both sides begin solo once the
time for it is over. The model's choices it rests on: log entries 72, 73, 109, 112, 122. -/
def Obligations.IslandsAndKeel : Prop :=
  (-- IslandDrains
   ∀ (s : State) (sd : SideId) (src : SourceId),
     let x := s.side sd
     let l := src.toNat % 2 ^ 15
     let waits := x.host.staged.filter (fun st => st.op == 0x42 && st.running && st.e.op4 % 2 ^ 15 == l)
     let stopped := s.mod sd (fun x => match seatOfSrc l with
       | none => x.setIsl l (some ⟨.quiesced, false, 0⟩)
       | some k => ((x.setIsl l (some ⟨.quiesced, false, x.seatSt k⟩)).set (SEAT_STAT.STATE k) 6).seatFlags)
     let goesOn := s.mod sd (fun x => x.setIsl l none)
     (x.islCond l .draining = true → s.drained sd l = true →
       (waits = [] → exec (.quiesced sd src) s = .next stopped)
       ∧ (∀ st, waits = [st] → exec (.quiesced sd src) s = .next (stopped.complete sd st 0 (lget st.aux 0 0).toNat 1 0)))
     ∧ (x.islCond l .draining = true →
       (waits = [] → exec (.quiesceTimeout sd src) s = .next goesOn)
       ∧ (∀ st, waits = [st] → exec (.quiesceTimeout sd src) s = .next (goesOn.complete sd st 0x6001 x.now 0 0)))
     ∧ (s.drained sd l = false → exec (.quiesced sd src) s = .next s)
     ∧ (x.islCond l .draining = false → exec (.quiesced sd src) s = .next s ∧ exec (.quiesceTimeout sd src) s = .next s)) ∧
  (-- KeelUpAndDown
   ∀ (s : State) (sd sd' : SideId),
     (s.keel.up = false → s.held = false → s.stroke.keelReady = true → s.bow.keelReady = true →
       Does .keelUp s (fun t => t.keel.up = true ∧ t.keel.everUp = true ∧ t.keel.resolving = true ∧ t.keel.handover = s.keel.handover
         ∧ (t.side sd).strobe.reqs = []
         ∧ (t.side sd).on KEEL_COX_STAT.KEEL_UP = true ∧ (t.side sd).on KEEL_COX_STAT.SPLIT_CREW = false
         ∧ (t.side sd).on KEEL_COX_STAT.RESOLVING = true ∧ (t.side sd).on KEEL_COX_STAT.COX_HELD = (s.side sd).on KEEL_COX_STAT.COX_HELD
         ∧ (t.side sd).get KEEL_COX_STAT.EPOCH = (s.side sd).get KEEL_COX_STAT.EPOCH))
     ∧ (s.keel.up = true ∨ s.stroke.keelReady = false ∨ s.bow.keelReady = false → exec .keelUp s = .next s)
     ∧ (s.keel.up = true → Does .keelDown s (fun t => t.keel.up = false ∧ t.keel.resolving = false ∧ t.keel.handover = [] ∧ t.keel.moved = none
         ∧ (t.side sd).on KEEL_COX_STAT.KEEL_UP = false ∧ (t.side sd).on KEEL_COX_STAT.SPLIT_CREW = true))
     ∧ (s.keel.up = true → s.keel.handover = [] →
         let a := ({ s with keel := { s.keel with up := false, resolving := false, msgs := [], moved := none } }.mod .stroke Side.keelSink).mod .bow Side.keelSink
         exec .keelDown s = .next ((((a.cutReads.pumpXs .stroke .c0).pumpXs .stroke .c1).pumpXs .bow .c0).pumpXs .bow .c1)
         ∧ (a.side sd).on KEEL_COX_STAT.KEEL_UP = false ∧ (a.side sd).on KEEL_COX_STAT.SPLIT_CREW = true
         ∧ (a.side sd).on KEEL_COX_STAT.RESOLVING = false ∧ (a.side sd).on KEEL_COX_STAT.HELD_THROUGH = (s.side sd).on KEEL_COX_STAT.COX_HELD
         ∧ (a.side sd).on RT_STAT.SYNCED = false ∧ (a.side sd).on RT_STAT.UNSYNCED = true)
     ∧ (s.keel.up = false → exec .keelDown s = .next s)
     ∧ exec (.keelRetrain sd') s = .next s
     ∧ (s.keel.up = true ∨ s.keel.everUp = true → exec .splitCrewTimeout s = .next s)
     ∧ (s.keel.up = false → s.keel.everUp = false → s.held = false →
         let f := fun (x : Side) => x.set KEEL_COX_STAT.SPLIT_CREW 1
         exec .splitCrewTimeout s = .next (({ s with keel := { s.keel with everUp := true } }.mod .stroke f).mod .bow f)))

/-- CoxResolution: R29: resolution: a side that alone holds cox keeps it with its epoch; where neither holds it the preferred side takes it
with an epoch above both; of two holders the one that held it throughout, else the higher epoch, else the preferred side. Then one side
holds cox, both show its epoch, and the holder is synced. CoxHandover: R33, R34: at its boundary a handover moves cox: the new side holds
it with an epoch one higher, the old one does not, and both show that epoch; a claim takes it with the Keel down. Its command is answered
OK, dated the boundary. The model's choices it rests on: log entries 72, 73, 110, 111. -/
def Obligations.CoxRole : Prop :=
  (-- CoxResolution
   ∀ (s : State),
     let held := fun (x : Side) => x.on KEEL_COX_STAT.COX_HELD
     let thru := fun (x : Side) => x.on KEEL_COX_STAT.HELD_THROUGH
     let ep := fun (x : Side) => x.get KEEL_COX_STAT.EPOCH
     let pref := SideId.ofBit s.pkg.coxpref
     let higher := if ep s.bow < ep s.stroke then SideId.stroke else if ep s.stroke < ep s.bow then SideId.bow else pref
     let w := match held s.stroke, held s.bow with
       | true, false => SideId.stroke
       | false, true => SideId.bow
       | false, false => pref
       | true, true => match thru s.stroke, thru s.bow with
         | true, false => SideId.stroke
         | false, true => SideId.bow
         | _, _ => higher
     let e := if held s.stroke = held s.bow then min (max (ep s.stroke) (ep s.bow) + 1) (2 ^ 24 - 1) else ep (s.side w)
     s.keel.up = true → s.keel.resolving = true →
     Does .coxResolution s (fun t => t.keel.resolving = false ∧ held (t.side w) = true ∧ held (t.side w.other) = false
       ∧ ep (t.side w) = e ∧ ep (t.side w.other) = e ∧ (t.side w).on RT_STAT.SYNCED = true
       ∧ (t.side w).on KEEL_COX_STAT.RESOLVING = false ∧ (t.side w.other).on KEEL_COX_STAT.RESOLVING = false)) ∧
  (-- CoxHandover
   ∀ (s : State) (h : Handover) (st : Staged),
     let z := { s with keel := { s.keel with handover := s.keel.handover.erase h } }
     s.keel.handover.find? s.handoverDue = some h → s.keel.resolving = false → (s.side h.actor).cmdOf h.issuer h.id = some st →
     let may := (s.side h.target).on KEEL_COX_STAT.COX_HELD = false ∧ (s.side h.target).pwr.fatal = false
     (s.keel.up = true → may →
       exec .coxTaken s = .next ((z.moveCox h.target h.t).complete h.actor st 0 h.t 0 0)
       ∧ (let y := z.moveCox h.target h.t
          let e := min ((s.side h.target.other).get KEEL_COX_STAT.EPOCH + 1) (2 ^ 24 - 1)
          (y.side h.target).on KEEL_COX_STAT.COX_HELD = true ∧ (y.side h.target.other).on KEEL_COX_STAT.COX_HELD = false
          ∧ (y.side h.target).get KEEL_COX_STAT.EPOCH = e ∧ (y.side h.target.other).get KEEL_COX_STAT.EPOCH = e
          ∧ (y.side h.target).on RT_STAT.SYNCED = true ∧ (y.side h.target.other).on RT_STAT.SYNCED = false))
     ∧ (s.keel.up = false → may →
       exec .coxTaken s = .next ((z.mod h.target (fun x => x.takeCox (min (x.get KEEL_COX_STAT.EPOCH + 1) (2 ^ 24 - 1)))).complete h.actor st 0 h.t 0 0))
     ∧ (¬ may → exec .coxTaken s = .next (z.complete h.actor st 0 h.t 0 0)))

/-! ### Commands of the rings -/

/-- RingExecution: R269, R271 to R273: executing a command advances its ring's consumer index and the identifiers by one and stages it once,
with the instant of execution; a command whose boundary has not come waits, staged, and has no other effect; one that fails its first
checks is completed with their status and staged nowhere. Completions: R273 to R277: completing a command forms its completion with TAG,
status, opcode, instant and results, and frees its staging entry; the registers, memories, cores and everything of a side but its host
region are left as they are, and so is the other side. The model's choices it rests on: log entries 35, 36. -/
def Obligations.RingExecution : Prop :=
  (-- RingExecution
   ∀ (s : State) (sd : SideId) (ring : Fin 8) (e : CmdEntry) (data : DmaData) (op : Nat) (st : Staged) (z : State),
     (∀ r, s.takes sd ring op e data = some (st, z) → (s.side sd).host.cmd[ring.val]? = some r →
         st.id = (s.side sd).host.nextId ∧ st.op = op ∧ st.e = e ∧ st.running = false
         ∧ (e.w5.getLsbD 63 = false → (z.side sd).host.nextId = st.id + 1 ∧ st.texec = (s.side sd).now ∧ z.pending = s.pending ∧ z.pkg = s.pkg
             ∧ (z.side sd).host.staged = (s.side sd).host.staged ++ [st]
             ∧ ∃ q, (z.side sd).host.cmd[ring.val]? = some q ∧ q.ci = r.ci + 1 ∧ q.waitId = if e.wait then some st.id else none))
     ∧ (s.takes sd ring 0x10 e noData = some (st, z) → (∀ t, st.bnd = .time t → st.texec < t) → st.bnd ≠ .now → exec (.arm sd ring e) s = .next z)
     ∧ (s.ringReady sd ring = true → stepOne 0x00 e ≠ 0 → Does (.nop sd ring e) s (fun t =>
         t.answered sd ⟨(s.side sd).host.nextId, sd, ring, 0x00, e, [], .now, (s.side sd).now, false, false, [], []⟩ (stepOne 0x00 e) (s.side sd).now 0 0))) ∧
  (-- Completions
   ∀ (s : State) (sd i : SideId) (st : Staged) (code t : Nat) (r0 r1 : Int),
     (s.complete sd st code t r0 r1).answered sd st code t r0 r1
     ∧ { (s.complete sd st code t r0 r1).side i with host := HostSide.init } = { s.side i with host := HostSide.init }
     ∧ (s.complete sd st code t r0 r1).pkg = s.pkg ∧ (s.complete sd st code t r0 r1).pending = s.pending)

/-- R282 to R287: NOP answers OK; FENCE with nothing to wait for answers OK; CONFIGURE is staged with its block's words; READBACK writes the
block in force to host memory; LOAD_TABLE replaces the table's words from its offset on, and is refused for a coefficient bank in use; an
opcode of no command answers BAD_OPCODE; an entry that cannot be read stops its ring. The model's choices it rests on: log entries 3, 33,
34, 41, 44. -/
def Obligations.RingBasics : Prop := ∀ (s : State) (sd : SideId) (ring : Fin 8) (e : CmdEntry) (data : DmaData) (st : Staged) (z : State),
  let x := z.side sd
  (s.takesNow sd ring 0x00 e noData st z → exec (.nop sd ring e) s = .next (z.complete sd st 0 st.texec 0 0))
  ∧ (s.takesNow sd ring 0x01 e noData st z → (s.side sd).host.remote = [] → bitAt e.op4 1 = false →
      Does (.fence sd ring e) s (fun t => t.answered sd { st with running := true, aux := [0] } 0 st.texec 0 0))
  ∧ (∀ f : CmdEntry, f = { e with w5 := e.w5 &&& ~~~(BitVec.ofNat 64 (2 ^ 33)) } → s.takes sd ring 0x02 f data = some (st, z) →
      exec (.configure sd ring e data) s = .next z)
  ∧ (∀ f : CmdEntry, f = { e with w5 := e.w5 ||| BitVec.ofNat 64 (2 ^ 33) } → s.takesNow sd ring 0x02 f noData st z → st.blkType ≠ 6 →
      bitAt f.op5 63 = false → ∀ c, blkChan st.blkType st.target = some c →
      exec (.readback sd ring e) s = .next ((z.dmaWrite sd f.op4 (packBytes (bitAt f.op5 32) (x.blockNow st.blkType c))).complete sd st 0 st.texec 0 0))
  ∧ (s.takesNow sd ring 0x03 e data st z → ∀ a, a = st.e.w1.toNat % 2 ^ 44 → devSpace a = 3 →
      let done := fun (y : Side) => exec (.loadTable sd ring e data) s = .next ((z.setSide sd y).complete sd st 0 st.texec st.words.length 0)
      (∀ c b i, ramTable (devOff a) st.words.length = some (.eq c b i) → x.bankBusy c b = false →
        done (x.setFe c { x.feOf c with eqTab := wputs (x.feOf c).eqTab (64 * b + i) st.words }))
      ∧ (∀ c b i, ramTable (devOff a) st.words.length = some (.eq c b i) → x.bankBusy c b = true →
        exec (.loadTable sd ring e data) s = .next (z.complete sd st 0x300E x.now 0 0))
      ∧ (∀ c i, ramTable (devOff a) st.words.length = some (.window c i) → x.winBusy c = false →
          (∀ w ∈ st.words, -131072 ≤ w.toInt ∧ w.toInt ≤ 131072) →
        done (x.setFe c { x.feOf c with
          ramWin := wputs (x.feOf c).ramWin i st.words
          ramRes := st.words.zipIdx.foldl (fun m p => if residue p.1.toInt == 0 then adel m (i + p.2) else aput m (i + p.2) (residue p.1.toInt))
            (x.feOf c).ramRes }))
      ∧ (∀ i, ramTable (devOff a) st.words.length = some (.palette i) →
        done { x with so := { x.so with palS := wputs x.so.palS i (st.words.map (fun w => wordN (w.toNat % 2 ^ 30))) } }))
  ∧ (s.ringReady sd ring = true → opKinds e.opcode.toNat = none → Does (.badOpcode sd ring true e) s (fun t =>
      t.answered sd ⟨(s.side sd).host.nextId, sd, ring, e.opcode.toNat, e, [], .now, (s.side sd).now, false, false, [], []⟩ 0x2001 (s.side sd).now 0 0))
  ∧ (opKinds e.opcode.toNat ≠ none → exec (.badOpcode sd ring true e) s = .next s)
  ∧ (s.ringReady sd ring = true → exec (.badOpcode sd ring false e) s = .next (s.mod sd (fun x =>
      x.stopRing RING_ERR.CMD_ERR ring.val ring.val 2)))

/-- R148, R165, R211, R225, R229, R233, R235, R236: ARM gives the channel's next record its number and starts it; DISARM stops the record at
its instant and waits for its end; FORCE joins the pool's instant; the copies wait until they end; STREAM_START binds a stream with its
parameters; STREAM_STOP ends it at its instant. The model's choices it rests on: log entries 43, 45, 78. -/
def Obligations.RingRecords : Prop := ∀ (s : State) (sd : SideId) (ring : Fin 8) (e : CmdEntry) (st : Staged) (z : State) (c : Chan),
  let x := z.side sd
  let t := st.texec
  (s.takesNow sd ring 0x10 e noData st z → e.op4 % 4 = 2 ^ c.n → x.armCheck c 0 = 0 →
    let y := x.armOne c t
    exec (.arm sd ring e) s = .next ((z.setSide sd y).complete sd st 0 t (y.tSample c ((y.acqOf c).armed.elim 0 Rec.mA) % 2 ^ 36 : Nat)
      (y.get (ACQ_RECNUM.RECNUM c.n)))
    ∧ y.on (ACQ_STAT.ARMED c.n) = true ∧ y.get (ACQ_RECNUM.RECNUM c.n) = (x.get (ACQ_RECNUM.RECNUM c.n) + 1) % 2 ^ 36
    ∧ y.on (ACQ_STAT.DONE c.n) = false)
  ∧ (∀ r, s.takesNow sd ring 0x11 e noData st z → e.op4 % 4 = 2 ^ c.n → (x.acqOf c).armed = some r →
    exec (.disarm sd ring e) s = .next ((z.setSide sd (x.setAcq c { x.acqOf c with
      armed := some { r with stopM := some (min (r.stopM.getD (x.sampleAt c t)) (x.sampleAt c t)) } })).runs sd st [(t : Int), 0]))
  ∧ (s.takesNow sd ring 0x11 e noData st z → e.op4 % 4 = 2 ^ c.n → (x.acqOf c).armed = none →
    exec (.disarm sd ring e) s = .next (z.complete sd st 0x3003 x.now 0 0))
  ∧ (s.takesNow sd ring 0x12 e noData st z → earlier x.starter.ep t x.starter.decEp x.starter.decided = false → x.now ≤ t + x.hLsb →
    exec (.force sd ring e) s = .next ((z.mod sd (fun x => { x with starter := { x.starter with
      insts := instMod x.starter.ep t (fun i => { i with force := i.force ++ [(e.op4 % 4, bitsOf e.op4 3 2, sd, st.id)] }) x.starter.insts } })).runs
        sd st [(t : Int), 0]))
  ∧ (∀ d g, s.takesNow sd ring 0x13 e noData st z → x.readPart e = .ok (d, g) →
      let k := Side.readLen d g (bitsOf e.op4 2 1) (e.op7 % 2 ^ 17)
      z.destCheck sd e k = 0 → (if bitAt e.op4 19 then (9 * k + 1) / 2 else 8 * k) ≤ e.op6 % 2 ^ 32 →
    exec (.readRecord sd ring e) s = .next (z.runs sd st [(t : Int), 0]))
  ∧ (s.takesNow sd ring 0x20 e noData st z →
      let r := e.op4 % 16
      let src := bitsOf e.op4 7 4
      let c := chanOf (bitsOf e.op4 8 8)
      (x.strmOf r).bound = false → streamBad e = false → bitAt (x.outCfg (9 + r)) 35 = true →
      (src = 0 → x.on (FE_STAT.RUNNING c.n) = true) → (src = 1 → x.on (XF_STAT.RUNNING c.n) = true ∧ bitsOf e.op5 15 0 < 2 ^ xfLog2N (x.xfOf c).force) →
      (src = 2 → x.on (PP_STAT.RUNNING c.n) = true) → (src = 3 → x.on (DENS_STAT.RUNNING c.n) = true) →
      (src = 4 → ∀ u ∈ x.strm, ¬(u.bound = true ∧ u.source = 4 ∧ u.ch = c)) →
      (e.op7 = 0 ∨ e.op6 + e.op7 ≤ x.dram.extent) →
    exec (.streamStart sd ring e) s = .next ((z.setSide sd ((x.setStrm r { Strm.init with
      bound := true, source := src, ch := c, pack := bitsOf e.op4 10 9, pktLog2 := bitsOf e.op4 14 11
      div := bitsOf e.op4 22 15, slot := bitsOf e.op4 25 23, lo := bitsOf e.op5 31 16, hi := bitsOf e.op5 15 0
      spillBase := e.op6, spillLen := e.op7, fromT := t
      recNum := if src = 4 then ((x.acqOf c).armed.filter (fun a => rcDrain a.block)).map Rec.num else none }).set (STREAM_STAT.SRC_STOPPED r) 0)).complete sd st 0 t 0 0))
  ∧ (s.takesNow sd ring 0x20 e noData st z → (x.strmOf (e.op4 % 16)).bound = true →
    exec (.streamStart sd ring e) s = .next (z.complete sd st 0x3012 x.now 0 0))
  ∧ (s.takesNow sd ring 0x21 e noData st z →
      let r := e.op4 % 16
      let u := x.strmOf r
      (u.bound = false → exec (.streamStop sd ring e) s = .next (z.complete sd st 0x3013 x.now 0 0))
      ∧ (u.bound = true → bitAt e.op4 4 = false → exec (.streamStop sd ring e) s = .next ((z.setSide sd (x.setStrm r { u with
          stopT := some t, endFlag := if u.endFlag = 0 then flStopEnd else u.endFlag
          items := u.items.filter (fun i => decide (i.time < t)) })).runs sd st [(t : Int), 0]))
      ∧ (u.bound = true → bitAt e.op4 4 = true →
          let n := u.spill.foldl (fun a p => a + p.items) 0 + u.items.foldl (fun a i => a + (if u.source < 3 then 1 else u.unitCount i)) 0
          exec (.streamStop sd ring e) s = .next ((z.setSide sd
            ((x.setStrm r { u with lost := u.lost + n, items := [], spill := [] }).bump (STREAM_LOST.whole r) n)).unbind sd r st t)))
  ∧ (s.takesNow sd ring 0x22 e noData st z → ∀ c, blkChan 4 (e.op4 % 65536) = some c → z.destCheck sd e (8 + planeLen) = 0 →
      (if bitAt e.op4 19 then 9437220 else 16777280) ≤ e.op6 % 2 ^ 32 → bitAt e.op4 20 = true →
    exec (.densityRead sd ring e) s = .next (z.runs sd st [(t : Int), 0]))
  ∧ (s.takesNow sd ring 0x23 e noData st z → ∀ c, blkChan 3 (e.op4 % 65536) = some c →
      let k := bitsOf e.op4 18 16
      let i := lget (x.ppOf c).images k ⟨0, 0, 0, none, 0⟩
      i.cur ≠ none → z.destCheck sd e i.len = 0 → (if bitAt e.op4 19 then (9 * i.len + 1) / 2 else 8 * i.len) ≤ e.op6 % 2 ^ 32 →
      x.traceBusy c k = false → exec (.traceRead sd ring e) s = .next (z.setSide sd (x.traceBegin c st t)))

/-- R16, R33, R97, R100, R287, R379, R399, R405, R431: an island begins to drain, and one that is quiesced already, or runs again, answers at
once; a handover to the side that holds cox answers at once, another is staged; a seat's lane begins to retire or to return; a calibration
begins with its items; a strobe is fixed one microsecond ahead; a commit of the display waits for blanking. The model's choices it rests
on: log entries 38, 102. -/
def Obligations.RingSystem : Prop := ∀ (s : State) (sd : SideId) (ring : Fin 8) (e : CmdEntry) (st : Staged) (z : State),
  let x := z.side sd
  let t := st.texec
  let l := e.op4 % 2 ^ 15
  (s.takesNow sd ring 0x42 e noData st z → isIsland l = true →
    (x.islCond l .quiesced = true → exec (.islandQuiesce sd ring e) s = .next (z.complete sd st 0 t 1 0))
    ∧ (x.islOf l = none → x.islLive l sd e.force = false →
      exec (.islandQuiesce sd ring e) s = .next ((z.mod sd (fun x => x.setIsl l (some ⟨.draining, false, 0⟩))).runs sd st [(t : Int), 0])))
  ∧ (s.takesNow sd ring 0x43 e noData st z → isIsland l = true → x.islCond l .quiesced = true →
    exec (.islandResume sd ring e) s = .next ((z.mod sd (fun x => x.islStart l)).complete sd st 0 t 0 0))
  ∧ (s.takes sd ring 0x44 e noData = some (st, z) → z.keel.up = true →
    ((z.side (coxTarget e)).on KEEL_COX_STAT.COX_HELD = true → exec (.coxHandover sd ring e) s = .next (z.complete sd st 0 x.now 0 0))
    ∧ (∀ T, st.bnd = .time T → t + nsLsb 2000 ≤ T → (z.side (coxTarget e)).on KEEL_COX_STAT.COX_HELD = false → z.keel.resolving = false →
      exec (.coxHandover sd ring e) s = .next (({ z with keel := { z.keel with
        handover := z.keel.handover ++ [⟨coxTarget e, T, sd, sd, st.id, false⟩] } } : State).runs sd st [(T : Int), 0])))
  ∧ (s.takesNow sd ring 0x40 e noData st z → ∀ k n r, seatOfSrc (e.op4 % 65536) = some k → x.seatSt k = 1 → x.jobOf k = .none → x.spares = n :: r →
      let c := chanOf (x.get (SEAT_STAT.CH k))
      let slot := x.get (SEAT_STAT.SLOT k)
      let m := x.slotTurn c slot
      let done := fun (y : State) (km : Nat) => exec (.laneRetire sd ring e) s = .next ((y.setSide sd ((x.setSeat n 3 c.n slot false).setJob k
        (.retire n km c.n slot false sd st.id)).seatFlags).runs sd st [(t : Int), (km + 2 * m : Nat)])
      (x.mayLoad c slot = false → done z (x.nextIn c slot))
      ∧ (x.mayLoad c slot = true → ∃ km, (km = x.nextIn c slot ∨ km = x.nextIn c slot + m) ∧ done z.takeFree.2 km))
  ∧ (s.takesNow sd ring 0x40 e noData st z → ∀ k, seatOfSrc (e.op4 % 65536) = some k → x.seatSt k = 1 → x.jobOf k = .none → x.spares = [] →
      exec (.laneRetire sd ring e) s = .next (z.complete sd st 0x4003 x.now 0 0))
  ∧ (s.takesNow sd ring 0x41 e noData st z → ∀ k, seatOfSrc (e.op4 % 65536) = some k → x.seatSt k = 4 ∨ x.seatSt k = 5 →
      x.on (SEAT_STAT.RESET_SINCE k) = true → x.jobOf k = .none →
      exec (.laneReturn sd ring e) s = .next ((z.setSide sd (x.setJob k (.return st.id))).runs sd st [(t : Int), 0]))
  ∧ (s.takesNow sd ring 0x30 e noData st z → e.op4 % 32 ≠ 0 → x.cal.job = none →
      exec (.calRun sd ring e) s = .next (z.mod sd (fun x => ((x.restage { st with running := true, aux := [(t : Int), 1] }).set CAL_STAT.RUNNING 1).setCalJob
        ⟨false, e.op4 % 32, false, [], sd, st.id, calOrder (e.op4 % 32), [], 0, 0, 0, 0, 0⟩)))
  ∧ (s.takesNow sd ring 0x31 e noData st z → e.op4 % 32 ≠ 0 → e.op4 % 2 = 0 → x.cal.job = none →
      exec (.calRestore sd ring e) s = .next (z.mod sd (fun x => ((calOrder (e.op4 % 32)).foldl
        (fun x n => x.calStage n ((calRegs n).map (fun r => (r, x.reg r))))
        (((x.restage { st with running := true, aux := [(t : Int), 1] }).set CAL_STAT.RUNNING 1).setCalJob
          ⟨true, e.op4 % 32, false, [], sd, st.id, [], calOrder (e.op4 % 32), 0, 0, 0, 0, 0⟩)).calIdle)))
  ∧ (s.takesNow sd ring 0x61 e noData st z → e.op4 % 2 = 1 ∨ z.keel.up = false → z.keel.resolving = false →
      exec (.strobe sd ring e) s = .next ((z.runs sd st [((x.now + usLsb : Nat) : Int)]).mod sd (fun x =>
        x.dueStrobe (x.now + usLsb) [(sd, st.id)])))
  ∧ (s.takesNow sd ring 0x70 e noData st z → e.op4 % 65536 = x.src (srcOf 4 3 0) → x.on SO_CTRL.EN = true →
      exec (.displayCommit sd ring e) s = .next ((z.runs sd st [(t : Int), if x.so.blank then 1 else 0]).mod sd (fun x =>
        if x.so.blank then (x.set SO_STAT.PENDING 1).set SO_STAT.LATE_COMMIT_SEEN 1 else x.set SO_STAT.PENDING 1)))

/-- R351 to R353, R376: COXCORE_LOAD writes its words within one memory of a core that does not run from it; COXCORE_START starts a halted
core in the bank that passes its check, with g0 = ARG, after the HALTs that found it halted; of a core that runs, HALT and SWITCH wait for their point and a START is refused;
TONE_STAGE stages a tone's set for the next strobe. The model's choices it rests on: log entries 40, 53. -/
def Obligations.RingCoxCores : Prop := ∀ (s : State) (sd : SideId) (ring : Fin 8) (e : CmdEntry) (data : DmaData) (st : Staged) (z : State),
  let x := z.side sd
  let t := st.texec
  (s.takesNow sd ring 0x50 e data st z →
    let a := e.w1.toNat % 2 ^ 44
    let o := devOff a
    let n := st.words.length
    let p := o / 0x2000
    devSpace a = 4 → o + n ≤ 0x20000 → (o + n - 1) / 0x2000 = p → (p % 4 < 2 → x.progBusy (p / 4) (p % 4) = false) →
    exec (.coxcoreLoad sd ring e data) s = .next ((z.mod sd (fun x => x.writeRange .cox portHost o st.words)).complete sd st 0 t n 0))
  ∧ (s.takesNow sd ring 0x51 e noData st z → ∀ c, coreOfSrc (e.op4 % 2 ^ 15) = some c →
    let k := x.coreOf c
    let b := bitsOf e.op5 2 2
    (e.op5 % 4 = 0 → k.st = 0 → x.imageOk c b = true → c < x.cores.length →
      exec (.coxcoreStart sd ring e) s = .next (((z.haltsDone sd c).mod sd (fun x => x.startCore c b (wordN e.op6))).complete sd st 0 t
        (b + 2 : Nat) (x.imageVersion c b : Nat)))
    ∧ (e.op5 % 4 = 0 → k.st ≠ 0 → exec (.coxcoreStart sd ring e) s = .next (z.complete sd st 0x3017 x.now 0 0))
    ∧ (e.op5 % 4 = 0 → k.st = 0 → x.imageOk c b = false → exec (.coxcoreStart sd ring e) s = .next (z.complete sd st stFwCheck x.now 0 0))
    ∧ (e.op5 % 4 = 1 → k.st = 0 → exec (.coxcoreStart sd ring e) s = .next (z.complete sd st 0 t (x.coreResult c).1 (x.coreResult c).2))
    ∧ (e.op5 % 4 = 1 → k.st ≠ 0 → exec (.coxcoreStart sd ring e) s = .next
        ((z.mod sd (fun x => x.modCore c (fun q => { q with halts := q.halts ++ [(sd, st.id)] }))).runs sd st [(t : Int), 0]))
    ∧ (e.op5 % 4 = 2 → k.st ≠ 0 → k.sw = none → exec (.coxcoreStart sd ring e) s = .next
        ((z.mod sd (fun x => x.modCore c (fun q => { q with sw := some (sd, st.id), arg := wordN e.op6 }))).runs sd st [(t : Int), 0])))
  ∧ (s.takesNow sd ring 0x60 e noData st z → ∀ o, x.toneNo (e.op4 % 65536) = some o →
    let v : ToneSet := ⟨e.op5, bitsOf e.op6 28 0, e.op7⟩
    v.range ≤ 240 → v.mode < 2 → exec (.toneStage sd ring e) s = .next ((z.mod sd (fun x =>
      (x.setTone o { x.toneOf o with staged := some v }).toneFlags o)).complete sd st 0 t (if (x.toneOf o).staged.isSome then 1 else 0) 0))

/-! ### Parameter blocks -/

/-- ChannelBlocks: R72, R103, R151: a CONFIGURE of a channel's front end, transform or spectral block: of a stage that rests and stays so, the
block is stored; RUN starts it, where the stage before it runs and its checks pass: the front end waits for its boundary, the transform
takes its seats, the post-processor starts; else the command is refused and the block stays. EngineBlocks: R167, R219, R221: the same of
the density engine, the Starter's program and a channel's record: the engine starts only with its channel's post-processor, a program with
the stages it uses, and an armed channel's record is not changed. The model's choices it rests on: log entries 66, 123. -/
def Obligations.BlockConfiguration : Prop :=
  (-- ChannelBlocks
   ∀ (s : State) (sd : SideId) (ch : Chan) (st : Staged) (t : Nat),
     let x := s.side sd
     let fe := x.feOf ch
     let xf := x.xfOf ch
     let b1 := blkKeep feMasks st.words
     let b2 := blkKeep xfMasks st.words
     let b3 := blkKeep ppMasks st.words
     (s.configures sd 1 ch st t → feRun fe.block = false →
       let go := exec (.configureFrontEnd sd ch) s
       let sw := fun (y : Side) => if feSwap st.words = true then y.toggleBank ch else y
       (feRun st.words = true → x.on (JESD_STAT.LINK_UP ch.n) = true → x.feBad ch st.words = false →
         go = .next ((s.setSide sd (sw (x.setFe ch { fe with block := b1, force := b1, starting := true, nco := [] }))).runs sd st [(t : Int), -1]))
       ∧ (feRun st.words = true → x.on (JESD_STAT.LINK_UP ch.n) = false → go = .next (s.complete sd st 0x300C x.now 0 0))
       ∧ (feRun st.words = false → x.feBad ch st.words = false →
         go = .next ((s.setSide sd (sw (x.setFe ch { fe with block := b1 }))).complete sd st 0 t 0 0))
       ∧ (x.on (JESD_STAT.LINK_UP ch.n) = true → x.feBad ch st.words = true → go = .next (s.complete sd st 0x2002 x.now 0 0)))
     ∧ (s.configures sd 1 ch st t → feRun fe.block = true → feRun st.words = false →
       (x.chanActive ch true = true ∨ (s.side sd.other).takesFrom ch = true →
         exec (.configureFrontEnd sd ch) s = .next (s.complete sd st 0x3001 x.now 0 0))
       ∧ (x.chanActive ch true = false → (s.side sd.other).takesFrom ch = false → x.feBad ch st.words = true →
         exec (.configureFrontEnd sd ch) s = .next (s.complete sd st 0x2002 x.now 0 0)))
     ∧ (s.configures sd 2 ch st t → xf.run = false →
       let go := exec (.configureTransform sd ch) s
       let bad := xfLog2N b2 < 6 ∨ 9 < xfSeatsReq b2
       let need := x.needed ch b2 x.laneMhz x.spread
       let seats := if xfSeatsReq b2 = 0 then need else xfSeatsReq b2
       let y := x.fixFrames ch
       let fe2 := { fe with gridP := xfLog2N b2, gridOf := xfOfCode b2 }
       (xfRun b2 = true → x.on (FE_STAT.RUNNING ch.n) = true → ¬bad → need ≤ seats → seats ≤ x.spares.length →
         go = .next ((s.setSide sd (((((y.setFe ch fe2).setXf ch { xf with
           block := b2, force := b2, run := true, seats := seats, kNext := fe2.nextFrame, winChg := [], buf := [], flight := [], released := []
           marked := [] }).set
             (XF_STAT.RUNNING ch.n) 1).set (XF_STAT.SEATS ch.n) seats).set (XF_STAT.NEEDED ch.n) need |>.allocSeats ch 0 seats)).complete sd st 0 t 0 0))
       ∧ (xfRun b2 = true → x.on (FE_STAT.RUNNING ch.n) = false → go = .next (s.complete sd st 0x3008 x.now 0 0))
       ∧ (xfRun b2 = true → x.on (FE_STAT.RUNNING ch.n) = true → ¬bad → need ≤ seats → x.spares.length < seats →
         go = .next (s.complete sd st 0x4002 x.now 0 0))
       ∧ (xfRun b2 = false → ¬bad → go = .next ((s.setSide sd (x.setXf ch { xf with block := b2 })).complete sd st 0 t 0 0))
       ∧ (xfRun b2 = false → bad → go = .next (s.complete sd st 0x2002 x.now 0 0)))
     ∧ (s.configures sd 3 ch st t → x.on (PP_STAT.RUNNING ch.n) = false →
       let go := exec (.configureSpectral sd ch) s
       (ppRun st.words = true → x.on (XF_STAT.RUNNING ch.n) = true → s.ppCheck sd ch st.words true (ppXsEn st.words) = 0 →
         go = .next ((s.ppStart sd ch st.words t).complete sd st 0 t 0 0))
       ∧ (ppRun st.words = true → x.on (XF_STAT.RUNNING ch.n) = false → go = .next (s.complete sd st 0x3009 x.now 0 0))
       ∧ (ppRun st.words = false → ppEncBad st.words = false →
         go = .next ((s.setSide sd (x.setPp ch { x.ppOf ch with block := b3 })).complete sd st 0 t 0 0)))) ∧
  (-- EngineBlocks
   ∀ (s : State) (sd : SideId) (ch : Chan) (st : Staged) (t : Nat),
     let x := s.side sd
     let b4 := blkKeep deMasks st.words
     let b5 := blkKeep stMasks st.words
     let b6 := blkKeep rcMasks st.words
     let uses := fun (c : Chan) => (stUsesIq b5 c.n = true → x.on (FE_STAT.RUNNING c.n) = true)
       ∧ (stUsesFreq b5 c.n = true ∨ stStopEn b5 c.n = true → x.on (PP_STAT.RUNNING c.n) = true)
     (s.configures sd 4 ch st t → x.on (DENS_STAT.RUNNING ch.n) = false → deFieldBad b4 = false →
       let go := exec (.configureDensity sd ch) s
       (deRun b4 = true → x.on (PP_STAT.RUNNING ch.n) = true → x.densBad ch b4 = false →
         go = .next ((s.setSide sd (x.densStart ch b4 t)).complete sd st 0 t (x.frameAt ch st.bnd t : Nat) 0))
       ∧ (deRun b4 = true → x.on (PP_STAT.RUNNING ch.n) = false → go = .next (s.complete sd st 0x300A x.now 0 0))
       ∧ (deRun b4 = false → go = .next ((s.setSide sd (x.setDens ch { x.densOf ch with block := b4 })).complete sd st 0 t 0 0)))
     ∧ (s.configures sd 5 .c0 st t → x.starterBad b5 = false →
       let go := exec (.configureStarter sd) s
       let run := x.on STARTER_STAT.RUNNING
       (run = false → stRun b5 = true → uses .c0 → uses .c1 → go = .next ((s.setSide sd (x.startProgram b5 t)).complete sd st 0 t 0 0))
       ∧ (run = true → stRun b5 = false → x.armed .c0 = false → x.armed .c1 = false →
         go = .next ((s.setSide sd (x.stopProgram b5)).complete sd st 0 t 0 0))
       ∧ (run = true → stRun b5 = false → x.armed .c0 = true ∨ x.armed .c1 = true → go = .next (s.complete sd st 0x3001 x.now 0 0))
       ∧ (run = false → stRun b5 = false → go = .next ((s.setSide sd { x with starter := { x.starter with block := b5 } }).complete sd st 0 t 0 0)))
     ∧ (s.configures sd 6 .c0 st t → ch = chanOf (bf st.words 0 35 35) → chanOf (bf b6 0 35 35) = ch →
       let go := exec (.configureRecord sd ch) s
       (x.armed ch = true → go = .next (s.complete sd st 0x3001 x.now 0 0))
       ∧ (x.armed ch = false → rcContent b6 ≠ 0 → rcPost b6 ≠ 0 →
         go = .next ((s.setSide sd (x.setAcq ch { x.acqOf ch with block := b6 })).complete sd st 0 t 0 0))
       ∧ (x.armed ch = false → rcContent b6 = 0 ∨ rcPost b6 = 0 → go = .next (s.complete sd st 0x2002 x.now 0 0))))

/-! ### Links and front ends -/

/-- LinkBringUp: R49, R50: bring-up of a link: a lane's header lock, then its multiblock lock, then the measured period of the extended
multiblock, then a SYSREF edge, then the release of the elastic buffers, each only at its step; 16 equal counts are the period, unequal
ones CFG_ERR. LinkRunning: R51, R52: a multiblock of a running link is checked, and one that fails is counted and its lane named; a lane
that loses header lock takes the link down and it reacquires; its codes are used again from the next whole extended multiblock on, unless a
lane's data are late. The
model's choices it rests on: log entry 57. -/
def Obligations.LinkReceivers : Prop :=
  (-- LinkBringUp
   ∀ (s : State) (sd : SideId) (ch : Chan) (lane : Fin 8) (n : Nat) (counts : List Nat),
     let x := s.side sd
     let g := x.jesdOf ch
     let lanes := fun (y : Side) (f : Nat → Fld) => y.allLanes ch (f ch.n)
     (x.laneRuns ch lane.val = true → g.step = 1 → lane.val < x.jesdL ch →
       let y := x.orBit (JESD_STAT.SH_LOCK ch.n) lane.val
       (lanes y JESD_STAT.SH_LOCK = false → exec (.shLock sd ch lane) s = .next (s.setSide sd (y.setJesd ch g)))
       ∧ (lanes y JESD_STAT.SH_LOCK = true → lanes y JESD_STAT.EMB_LOCK = false →
         exec (.shLock sd ch lane) s = .next (s.setSide sd (y.setJesd ch { g with step := 2 }))))
     ∧ (x.laneRuns ch lane.val = true → g.step = 2 → bitAt (x.get (JESD_STAT.SH_LOCK ch.n)) lane.val = true →
       let y := x.orBit (JESD_STAT.EMB_LOCK ch.n) lane.val
       (lanes y JESD_STAT.EMB_LOCK = true →
         exec (.embLock sd ch lane) s = .next (s.setSide sd (y.setJesd ch { g with step := if g.lemc = none then 3 else 5 })))
       ∧ (lanes y JESD_STAT.EMB_LOCK = false → exec (.embLock sd ch lane) s = .next (s.setSide sd (y.setJesd ch g))))
     ∧ (g.step = 3 → counts = List.replicate 16 n → n ≠ 0 → exec (.lemcMeasure sd ch counts) s = .next (s.mod sd (fun x =>
         ((x.set (JESD_LEMC_INFO.CYCLES ch.n) n).set (JESD_LEMC_INFO.SAMPLES ch.n) (x.samplesOf ch)).setJesd ch { g with step := 4 })))
     ∧ (g.step = 3 → counts.length = 16 → (∃ c ∈ counts, c ≠ lget counts 0 0) → exec (.lemcMeasure sd ch counts) s = .next (s.mod sd (fun x =>
         (x.set (JESD_STAT.CFG_ERR ch.n) 1).setJesd ch { g with step := 0 })))
     ∧ ((x.jesdOf .c0).step = 4 → (x.jesdOf .c1).step ≠ 4 → (x.jesdOf .c1).lemc = none →
         exec (.sysrefEdge sd) s = .next (s.mod sd (fun x =>
           (x.set (JESD_STAT.ALIGNED 0) 1).setJesd .c0 { x.jesdOf .c0 with step := 5, lemc := some x.rt.edges })))
     ∧ (g.step = 5 → g.outage = false →
         exec (.linkUp sd ch false) s = .next (s.mod sd (fun x => (x.set (JESD_STAT.LINK_UP ch.n) 1).setJesd ch { g with step := 6 }))
         ∧ exec (.linkUp sd ch true) s = .next (s.mod sd (fun x => (x.set (JESD_STAT.LATE_LANE ch.n) 1).setJesd ch { g with step := 0 })))
     ∧ (g.step = 5 → g.outage = true →
         let late := s.mod sd (fun x => (x.set (JESD_STAT.LATE_LANE ch.n) 1).setJesd ch { g with step := 0 })
         exec (.linkUp sd ch false) s = .next s ∧ exec (.linkUp sd ch true) s = .next late ∧ exec (.linkResume sd ⟨ch, true⟩) s = .next late)
     ∧ (g.step ≠ 5 → exec (.linkUp sd ch false) s = .next s)) ∧
  (-- LinkRunning
   ∀ (s : State) (sd : SideId) (ch : Chan) (lane : Fin 8),
     let x := s.side sd
     let g := x.jesdOf ch
     (x.laneRuns ch lane.val = true → g.step = 6 → lane.val < x.jesdL ch →
       (x.on (FE_STAT.RUNNING ch.n) = false → exec (.laneMultiblock sd ch lane true) s = .next s)
       ∧ (x.on (FE_STAT.RUNNING ch.n) = true → exec (.laneMultiblock sd ch lane true) s = .next (s.setSide sd (x.setJesd ch { g with
           mbs := lset g.mbs lane.val (lget g.mbs lane.val 0 + 1)
           bad := g.bad.filter (fun p => p.2 ≥ (x.feOf ch).j / max 1 (x.get (JESD_LEMC_INFO.SAMPLES ch.n)) * x.jesdE ch) })))
       ∧ (x.on (FE_STAT.RUNNING ch.n) = false → exec (.laneMultiblock sd ch lane false) s = .next (s.mod sd (fun x =>
           (x.bump (JESD_CRC_ERR.whole ch.n) 1).orBit (JESD_STAT.CRC_SEEN ch.n) lane.val)))
       ∧ Does (.linkLost sd ch lane) s (fun t => (t.side sd).on (JESD_STAT.LINK_UP ch.n) = false ∧ (t.side sd).on (JESD_STAT.LINK_LOST ch.n) = true
           ∧ bitAt ((t.side sd).get (JESD_STAT.SH_LOCK ch.n)) lane.val = false ∧ bitAt ((t.side sd).get (JESD_STAT.EMB_LOCK ch.n)) lane.val = false
           ∧ (x.jesd.length = 2 → ((t.side sd).jesdOf ch).step = 1
             ∧ (x.on (FE_STAT.RUNNING ch.n) = true → ((t.side sd).jesdOf ch).outage = true))))
     ∧ (g.step = 5 → g.outage = true → x.jesd.length = 2 → Does (.linkResume sd ⟨ch, false⟩) s (fun t => (t.side sd).on (JESD_STAT.LINK_UP ch.n) = true
         ∧ ((t.side sd).jesdOf ch).step = 6 ∧ ((t.side sd).jesdOf ch).outage = true
         ∧ ∃ k, ((t.side sd).jesdOf ch).resumeAt = some k
           ∧ x.rt.edges - (x.feOf ch).startEdge ≤ k * max 1 (x.get (JESD_LEMC_INFO.CYCLES ch.n))
           ∧ ((t.side sd).jesdOf ch).mbs = List.replicate 8 (k * x.jesdE ch))))

/-- FrontEndChanges: R53, R56, R58, R62, R65 to R67, R69: a front end starts at a boundary of its internal LEMC, with its samples numbered
from its origin and the block of its start; an NCO change takes effect before the converter sample it names; a fade starts at its frame's
boundary, or the bank changes at once with the equaliser off; at its end the other bank is active, and an event says so. AnalysisSamples:
R53, R54: an analysis sample that leaves the front end is numbered, goes to the detectors, the transform's buffer, the armed record and
the channel's IQ streams, and to a cross-spectrum of the other side while the Keel is up; with the front end stopped codes have no effect.
The model's choices it rests on: log entry 61. -/
def Obligations.FrontEndSamples : Prop :=
  (-- FrontEndChanges
   ∀ (s : State) (sd : SideId) (ch : Chan),
     let x := s.side sd
     let fe := x.feOf ch
     let quiet := ∀ d ∈ x.host.staged, d.running = false
     (quiet → fe.starting = true → x.atLemc ch = true → x.fe.length = 2 → x.jesd.length = 2 → Does (.feStart sd ch) s (fun t =>
       let y := t.side sd
       let d := 2 ^ (feDecim fe.force + (if x.on (JESD_CFG.CPLX ch.n) then 0 else 1))
       y.on (FE_STAT.RUNNING ch.n) = true ∧ (y.feOf ch).force = fe.force ∧ (y.feOf ch).nco = fe.nco ∧ (y.feOf ch).starting = false ∧ (y.feOf ch).j = 0
         ∧ (y.feOf ch).m = feOrigin (feResp fe.force) d ∧ (y.feOf ch).m0 = feOrigin (feResp fe.force) d
         ∧ (y.feOf ch).freq = feFreq fe.force ∧ (y.feOf ch).phase = fePhase fe.force ∧ (y.feOf ch).startEdge = x.rt.edges
         ∧ ((y.jesdOf ch).outage = true ↔ x.on (JESD_STAT.LINK_UP ch.n) = false)))
     ∧ (fe.starting = false → exec (.feStart sd ch) s = .next s)
     ∧ (∀ k f p, quiet → fe.nco = [(k, f, p)] → (k ≤ fe.j → exec (.ncoChange sd ch) s = .next (s.setSide sd (x.setFe ch { fe with
         nco := [], freq := f, phase := p, ncoHist := (fe.j, fe.acc, f, p) :: fe.ncoHist })))
       ∧ (fe.j < k → exec (.ncoChange sd ch) s = .next s))
     ∧ (∀ k m, x.on (FE_STAT.RUNNING ch.n) = true → fe.swapPend = some (k, m) → fe.fade = none → m ≤ fe.m →
       (feEqEn fe.force = true → exec (.fadeStart sd ch) s = .next (s.setSide sd ((x.setFe ch { fe with
           swapPend := none, fade := some ⟨m, 2 ^ k, x.get (FE_STAT.ACTIVE_BANK ch.n)⟩ }).feFlags ch)))
       ∧ (feEqEn fe.force = false → exec (.fadeStart sd ch) s = .next (s.setSide sd (((x.setFe ch { fe with swapPend := none }).put
           (FE_STAT.ACTIVE_BANK ch.n) (!x.on (FE_STAT.ACTIVE_BANK ch.n))).feFlags ch))))
     ∧ (∀ f, x.on (FE_STAT.RUNNING ch.n) = true → fe.fade = some f →
       (f.mb + f.k ≤ fe.m → exec (.eqFadeDone sd ch) s = .next (s.setSide sd
         (let y := (((x.setFe ch { fe with fade := none }).set (FE_STAT.ACTIVE_BANK ch.n) (1 - f.old)).feFlags ch)
          y.event 0x07 (y.tSample ch (f.mb + f.k)) (ch.n + 2 * (1 - f.old) : Nat) 0)))
       ∧ (fe.m < f.mb + f.k → exec (.eqFadeDone sd ch) s = .next s))) ∧
  (-- AnalysisSamples
   ∀ (s : State) (sd : SideId) (ch : Chan) (codes : List ConvCode),
     let x := s.side sd
     let r := x.feCodes ch codes
     let y := s.setSide sd (r.2.foldl (fun x a => x.spread1 ch a) r.1)
     let z := if s.keel.up then y.mod sd.other (fun w => w.takePartner ch r.2) else y
     (x.on (FE_STAT.RUNNING ch.n) = true → (∀ d ∈ (z.side sd).host.staged, d.running = false) →
       exec (.analysisSample sd ch codes) s = .next z)
     ∧ (x.on (FE_STAT.RUNNING ch.n) = false → exec (.analysisSample sd ch codes) s = .next s)
     ∧ (∀ (w : Side) (a : ASmp), let v := w.detect ch a
         (v.on (XF_STAT.RUNNING ch.n) = false → w.spread1 ch a = (v.recordSample ch a).offerIq ch a)
         ∧ (v.on (XF_STAT.RUNNING ch.n) = true →
           w.spread1 ch a = ((v.setXf ch { v.xfOf ch with buf := (v.xfOf ch).buf ++ [a] }).recordSample ch a).offerIq ch a))
     ∧ (∀ (fe : FrontEnd) cplx np ci cq crc lost, fe.nco = [] → (fe.feed cplx np ci cq crc lost).1.j = fe.j + 1
         ∧ (fe.feed cplx np ci cq crc lost).1.acc = (fe.acc + fe.freq) % 2 ^ 48))

/-! ### Transform frames and seats -/

/-- R84, R86, R93, R118 to R122: the next frame goes to the seat of its slot once all its samples are there, with the window in force for it;
samples no later frame needs are dropped; a frame that overruns, or whose slot no seat holds, is VOID, and one that had begun to enter a
seat which tripped is RECOMPUTED or VOID. Frames leave in order, the oldest first, to the post-processor, once they pass their checkers. The model's choices it rests on: log entry 64. -/
def Obligations.FrameFlow : Prop := ∀ (s : State) (sd : SideId) (ch : Chan) (overrun : Bool) (l : List ASmp) (f : Frame) (r : List Frame),
  let x := s.side sd
  let xf := x.xfOf ch
  let p := xfLog2N xf.force
  let hop := 2 ^ (p - xfOfCode xf.force)
  let k := xf.kNext
  let m := (x.feOf ch).m0 + k * hop
  let slot := k % max 1 xf.seats
  let mark := xf.marked.find? (fun e => e.1 == slot && e.2.1 == k)
  let void := overrun || (x.server ch slot k).isNone || mark.elim false (·.2.2)
  ((∀ q, x.jobOf q = .none) → xf.run = true → (∀ d ∈ x.host.staged, d.running = false) → takeSamples xf.buf m (2 ^ p) = some l → x.xf.length = 2 →
    Does (.frameDispatch sd ch overrun) s (fun t =>
      let y := (t.side sd).xfOf ch
      y.kNext = k + 1 ∧ y.buf = xf.buf.filter (fun a => a.m ≥ m + hop)
      ∧ ∃ g, y.flight = xf.flight ++ [g] ∧ g.k = k ∧ g.slot = slot ∧ g.x = l.map (·.w) ∧ g.res = l.map (·.r) ∧ g.p = p
        ∧ g.recomp = (!void && mark.isSome) ∧ g.void = void ∧ g.seat = (if void then none else x.server ch slot k)
        ∧ (xf.winChg = [] → g.win = xfWin xf.force ∧ g.gain = xfGain xf.force)))
  ∧ (xf.run = false → (∀ q, x.jobOf q = .none) → exec (.frameDispatch sd ch overrun) s = .next s)
  ∧ (x.pwr.fatal = false → xf.flight = f :: r →
    let ram := (x.feOf ch).ramWin
    let res := (x.feOf ch).ramRes
    (f.checked ram res = true → exec (.frameRelease sd ch) s = .next (s.mod sd (fun x =>
      (x.setXf ch { xf with flight := r, released := xf.released ++ [f.bins ram res] }).replayOver ch)))
    ∧ (f.checked ram res = false → exec (.frameRelease sd ch) s = .next s))

/-- SeatTrips: R92 to R95, R99: a trip in a SPARE seat quarantines it; in an ACTIVE seat it quarantines it and the lowest SPARE takes its slot
in REPLAY with the frames it retained, marked RECOMPUTED, as is the frame that had begun to enter it; with no spare they are VOID and the
channel is DEGRADED. The trip is counted in every case. Of two seats that trip together the one with the older frame is served first. SeatRepairs: R98 to R100: when a retirement's mirror has run, its seat is RETIRED, the mirroring seat ACTIVE in
the slot, and the command is answered with the new seat and the mismatches; a seat whose return passes is SPARE, or fills a vacant slot;
one that trips again is quarantined and the command fails. -/
def Obligations.SeatTripsAndRepairs : Prop :=
  (-- SeatTrips
   ∀ (s : State) (sd : SideId) (trip u : SeatTrip) (n : Nat) (r : List Nat),
     let seat := trip.seat
     let x := s.side sd
     let c := chanOf (x.get (SEAT_STAT.CH seat.val))
     let st := fun (t : State) (q : Nat) => (t.side sd).get (SEAT_STAT.STATE q)
     let trips := fun (t : State) => (t.side sd).get (SEAT_STAT.TRIPS seat.val)
     let counted := fun (t : State) => trips t = min (x.get (SEAT_STAT.TRIPS seat.val) + 1) (2 ^ 16 - 1)
     let mine := fun (f : Frame) => f.seat == some seat.val && !f.passed
     let left := changeFirst trip.passed mine (fun f => { f with passed := true }) (x.xfOf c).flight
     let j := x.get (SEAT_STAT.SLOT seat.val)
     let load := trip.loading && x.mayLoad c j
     let marks := fun (void : Bool) (l : List (Nat × Nat × Bool)) => if load then l ++ [(j, x.nextIn c j, void)] else l
     (x.seatSt seat.val = 0 → Does (.checkerTrip sd trip none) s (fun t => st t seat.val = 4 ∧ counted t ∧ (t.side sd).xf = x.xf))
     ∧ (x.seatSt seat.val = 1 → x.jobOf seat.val = .none → x.spares = n :: r → x.xf.length = 2 →
       Does (.checkerTrip sd trip none) s (fun t => st t seat.val = 4 ∧ st t n = 2 ∧ (t.side sd).get (SEAT_STAT.CH n) = c.n
         ∧ (t.side sd).get (SEAT_STAT.SLOT n) = x.get (SEAT_STAT.SLOT seat.val) ∧ counted t
         ∧ ((t.side sd).xfOf c).flight = left.map (fun f => if mine f then { f with seat := some n, recomp := true } else f)
         ∧ ((t.side sd).xfOf c).marked = marks false (x.xfOf c).marked))
     ∧ (x.seatSt seat.val = 1 → x.jobOf seat.val = .none → x.spares = [] → x.mirrorJob = none → x.xf.length = 2 →
       Does (.checkerTrip sd trip none) s (fun t => st t seat.val = 4 ∧ (t.side sd).on (XF_STAT.DEGRADED c.n) = true ∧ counted t
         ∧ ((t.side sd).xfOf c).flight = left.map (fun f => if mine f then { f with seat := none, void := true } else f)
         ∧ ((t.side sd).xfOf c).marked = marks true ((x.xfOf c).marked.map (fun e => if e.1 == j then (e.1, e.2.1, true) else e))))
     ∧ (4 ≤ x.seatSt seat.val → exec (.checkerTrip sd trip none) s = .next s)
     ∧ (x.tripKey u < x.tripKey trip → exec (.checkerTrip sd trip (some u)) s = .next ((s.tripSeat sd u).tripSeat sd trip))
     ∧ (x.tripKey trip ≤ x.tripKey u → exec (.checkerTrip sd trip (some u)) s = .next ((s.tripSeat sd trip).tripSeat sd u))) ∧
  (-- SeatRepairs
   ∀ (s : State) (sd : SideId) (seat : Fin 9) (n km slot id : Nat) (ch : Chan) (mm : BitVec 8) (st : Staged) (b : Fin 64),
     let x := s.side sd
     let code := if mm = 0 then 0 else 0x1001
     let at_ := fun (t : State) (q : Nat) => (t.side sd).get (SEAT_STAT.STATE q)
     let turn := x.slotTurn ch slot
     (x.jobOf seat.val = .retire n km ch.n slot false sd id → x.cmdOf sd id = some st → km + 2 * turn ≤ x.nextIn ch slot → x.seatSt n = 3 →
         n < 9 → n ≠ seat.val → x.seatJob.length = 9 →
       Does (.laneRetireDone sd seat mm) s (fun t => at_ t seat.val = 5 ∧ at_ t n = 1 ∧ (t.side sd).get (SEAT_STAT.CH n) = ch.n
         ∧ (t.side sd).get (SEAT_STAT.SLOT n) = slot % 16 ∧ (t.side sd).jobOf seat.val = .none
         ∧ t.answered sd st code (lget st.aux 0 0).toNat (n + mm.toNat * 256 : Nat) (km + 2 * turn : Nat)))
     ∧ (x.jobOf seat.val = .retire n km ch.n slot false sd id → x.nextIn ch slot < km + 2 * turn → exec (.laneRetireDone sd seat mm) s = .next s)
     ∧ (x.jobOf seat.val = .return id → x.runningCmd 0x41 (fun c => c.id == id && seatOfSrc (c.e.op4 % 65536) == some seat.val) = some st →
       (exec (.laneReturnDone sd seat none) s = .next ((s.setSide sd ((x.setJob seat.val .none).seatBack seat.val)).complete sd st 0 (lget st.aux 0 0).toNat 0 0))
       ∧ Does (.laneReturnDone sd seat (some b)) s (fun t => at_ t seat.val = 4 ∧ t.answered sd st 0x6002 x.now 0 0)))

/-! ### Spectral products and density -/

/-- R18, R122, R128, R140, R142, R143, R147: the post-processor takes the oldest released frame once its bins pass their checkers, and feeds
its products while it runs; the frames that come while it is quiesced are lost; a group that trips twice makes the frame VOID; a mask's
idle bank becomes active at the next frame boundary; a spectrogram line is written through the acquisition port, its first word last, or
dropped and counted; a partner's frame goes to its seat, and from it to be paired. The model's choices it rests on: log entries 69, 70,
131. -/
def Obligations.SpectralFrames : Prop := ∀ (s : State) (sd : SideId) (ch : Chan) (k : Fin 4) (f : Bins) (rest : List Bins),
  let x := s.side sd
  let xf := x.xfOf ch
  let pp := x.ppOf ch
  let quiet := ∀ d ∈ x.host.staged, d.running = false
  let taken := (x.setXf ch { xf with released := rest }).setPp ch { pp with voidHead := false }
  let void := f.void || (x.on (PP_STAT.RUNNING ch.n) && pp.voidHead)
  let lv := if void then [] else f.y.map (fun y => binLevel y f.fx (winGain f.win f.p f.gain))
  let mLast := (x.feOf ch).m0 + f.k * (x.feOf ch).gridStep + 2 ^ f.p - 1
  let passes := void || ppChecks f.y f.res f.fx (winGain f.win f.p f.gain)
  (quiet → xf.released = f :: rest → x.islTakes (srcOf 2 ch.n 0) = true → passes = true → x.on (PP_STAT.XS_RUNNING ch.n) = false →
    x.on (PP_STAT.XS_RUNNING ch.other.n) = false →
    (x.on (PP_STAT.RUNNING ch.n) = false → exec (.ppFrame sd ch) s
      = .next (s.setSide sd ((taken.recordLine ch f void lv mLast).offerLine ch f void lv)))
    ∧ (x.on (PP_STAT.RUNNING ch.n) = true → f.tf < pp.fromT → x.pp.length = 2 → (x.acqOf ch).armed = none → exec (.ppFrame sd ch) s
      = .next (s.setSide sd ((taken.recordLine ch f void lv mLast).offerLine ch f void lv))))
  ∧ (xf.released = f :: rest → x.islTakes (srcOf 2 ch.n 0) = true → passes = false → exec (.ppFrame sd ch) s = .next s)
  ∧ (x.islTakes (srcOf 2 ch.n 0) = false → exec (.ppFrame sd ch) s = .next (s.mod sd (fun x => x.frameLost ch)))
  ∧ (xf.released = f :: rest → x.on (PP_STAT.RUNNING ch.n) = true → x.get FAULT_INJ.MODE = 0 →
    exec (.ppCheckerTrip sd ch false) s = .next (s.mod sd (fun x => x.report 0 (srcOf 2 ch.n 0) (f.k % 2 ^ 36) false))
    ∧ (f.void = false → pp.voidHead = false → exec (.ppCheckerTrip sd ch true) s = .next (s.mod sd (fun x =>
      ((x.setPp ch { pp with voidHead := true }).countVoid ch 1).report 2 (srcOf 2 ch.n 0) (f.k % 2 ^ 36) false))))
  ∧ (∀ w st, x.pp.length = 2 → pp.swaps = [w] → w.mask = k.val → x.cmdOf w.issuer w.id = some st →
      let t := if x.on (FE_STAT.RUNNING ch.n) then x.tSample ch ((x.feOf ch).boundaryFrom (x.feOf ch).m) else x.now
      exec (.maskSwap sd ch k) s = .next ((s.setSide sd (x.setPp ch { pp with
        swaps := [], banks := lset pp.banks k.val ((t, 1 - pp.bankNow k.val) :: lget pp.banks k.val []) })).complete sd st 0 t st.words.length 0))
  ∧ (∀ l r, pp.spg = l :: r →
      let y := (x.setPp ch { pp with spg := r }).acqPanic ch
      let put := fun (y : Side) (a : Nat) (ws : List Word) => y.writeRange .dram (acqPort ch) a ws
      (l.addr + l.words.length ≤ x.dram.extent → exec (.spgLineWrite sd ch true) s = .next (s.setSide sd
        (put (put (put y l.addr [wordN (2 ^ 36 - 1)]) (l.addr + 1) l.words.tail) l.addr [wordN l.seq])))
      ∧ (x.dram.extent < l.addr + l.words.length → exec (.spgLineWrite sd ch true) s = .next (s.setSide sd y))
      ∧ exec (.spgLineWrite sd ch false) s = .next (s.setSide sd ((y.bump (SPG_DROP.whole ch.n) 1).set (PP_STAT.SPG_DROP_SEEN ch.n) 1)))
  ∧ (x.pwr.fatal = false → x.on (PP_STAT.XS_RUNNING ch.n) = true → ppXsRemote pp.block = true →
      let p := x.xsPartner ch pp.block
      let m0 := ((s.side p.1).feOf p.2).m0
      let n := xfLog2N xf.force
      let hop := 2 ^ (n - xfOfCode xf.force)
      ∀ a r l, pp.xs.rx = a :: r →
        let k := max pp.xs.nextK ((a.m - m0 + hop - 1) / hop)
        let slot := x.get (XF_STAT.SEATS ch.n) + k % max 1 pp.xs.slots
        takeSamples pp.xs.rx (m0 + k * hop) (2 ^ n) = some l → (∀ q, x.jobOf q = .none) → xf.marked = [] → x.pp.length = 2 →
        Does (.xsPartnerFrame sd ⟨ch, false⟩) s (fun t =>
          let z := ((t.side sd).ppOf ch).xs
          z.nextK = k + 1 ∧ z.rx = pp.xs.rx.filter (fun a => a.m ≥ m0 + (k + 1) * hop) ∧ z.part = pp.xs.part
          ∧ ∃ g, z.flight = pp.xs.flight ++ [g] ∧ g.k = k ∧ g.slot = slot ∧ g.x = l.map (·.w) ∧ g.p = n ∧ g.recomp = false
            ∧ g.seat = x.server ch slot k ∧ g.void = (x.server ch slot k).isNone))
  ∧ (x.pwr.fatal = false → x.on (PP_STAT.XS_RUNNING ch.n) = true → ppXsRemote pp.block = true → ∀ g r, pp.xs.flight = g :: r →
      let ram := (x.feOf ch).ramWin
      let res := (x.feOf ch).ramRes
      (g.checked ram res = true → exec (.xsPartnerFrame sd ⟨ch, true⟩) s = .next ((s.setSide sd ((x.setPp ch { pp with xs := { pp.xs with
        flight := r, part := pp.xs.part ++ [g.bins ram res] } }).replayOver ch)).pumpXs sd ch)))

/-- R148, R157, R163, R165, R166: a copy of a trace image is written whole and answered with its sequence number and length; a density frame
counts into the active plane, thinned and VOID frames being counted apart, or is lost to a quiesced engine; a density copy begins from the held plane and is answered with
its words. The model's choices it rests on: log entry 71. -/
def Obligations.DensityAndCopies : Prop := ∀ (s : State) (sd : SideId) (ch : Chan) (st : Staged) (f : DFrame) (rest : List DFrame),
  let x := s.side sd
  let d := x.densOf ch
  (x.host.staged = [st] → st.op = 0x23 → st.running = true → 0 ≤ lget st.aux 1 (-1) → s.dmaWorks sd = true →
    Does (.traceReadDone sd) s (fun t => t.answered sd st (if (s.readImage sd (lget st.aux 4 0).toNat (lget st.aux 3 0).toNat).2.2 then 0x1002 else 0)
        (lget st.aux 0 0).toNat (lget st.aux 2 0) ((lget st.aux 3 0).toNat : Nat)))
  ∧ (x.on (DENS_STAT.RUNNING ch.n) = true → x.islTakes (srcOf 2 (2 + ch.n) 0) = true → d.queue = f :: rest → d.period ≠ 0 →
      ({ d with queue := rest } : Dens).ended f.tl = false → x.dens.length = 2 →
    let d1 := { d with queue := rest, tFirst := if d.count = 0 then f.tf else d.tFirst, tLast := f.tl, count := d.count + 1 }
    (f.k % max 1 (x.get (DENS_STAT.TH ch.n)) ≠ 0 → exec (.densityFrame sd ch) s
      = .next (s.mod sd (fun x => (x.setDens ch d1).bump (DENS_THINNED.whole ch.n) 1)))
    ∧ (f.k % max 1 (x.get (DENS_STAT.TH ch.n)) = 0 → f.void = true → exec (.densityFrame sd ch) s = .next (s.mod sd (fun x =>
        (x.setDens ch { d1 with void := true, recomp := d.recomp || f.recomp, ingest := d.ingest || f.ingest }).bump (DENS_VOID.whole ch.n) 1)))
    ∧ (f.k % max 1 (x.get (DENS_STAT.TH ch.n)) = 0 → f.void = false → Does (.densityFrame sd ch) s (fun t =>
        ((t.side sd).densOf ch).frames = d.frames + 1 ∧ ((t.side sd).densOf ch).count = d.count + 1 ∧ ((t.side sd).densOf ch).void = d.void
        ∧ ((t.side sd).densOf ch).held = d.held ∧ ((t.side sd).densOf ch).queue = rest)))
  ∧ (x.on (DENS_STAT.RUNNING ch.n) = true → x.islTakes (srcOf 2 (2 + ch.n) 0) = false →
    exec (.densityFrame sd ch) s = .next (s.mod sd (fun x => x.densLost ch)))
  ∧ (d.copy = none → x.densReads ch = [st] → lget st.aux 1 0 = 1 → st.densWait = true ∨ x.get (DENS_SEQ.SEQ ch.n) ≠ 0 →
    exec (.densityCopyStart sd ch) s = .next (s.mod sd (fun x => ((x.setDens ch { d with copy := some ⟨st.issuer, st.id, d.hdr, d.held, none⟩ }).set
      (DENS_STAT.COPYING ch.n) 1).restage { st with running := true, aux := [lget st.aux 0 0, 2] })))
  ∧ (∀ n c ws, d.copy = some c → c.cut = some ws → s.dmaWorks sd = true → x.cmdOf c.issuer c.id = some st →
    let img := (densImage c.hdr ws).take n
    exec (.densityReadDone sd ch n) s = .next (((s.mod sd (fun x => (x.setDens ch { d with copy := none }).set (DENS_STAT.COPYING ch.n) 0)).copyTo
      sd st.e img).complete sd st 0x1005 (lget st.aux 0 0).toNat (lget c.hdr 0 0).toNat img.length))
  ∧ (∀ n c, d.copy = some c → c.cut = none → s.dmaWorks sd = true →
    let r := x.readPlane ch c.buf
    let img := densImage c.hdr r.2
    r.1.cmdOf c.issuer c.id = some st → exec (.densityReadDone sd ch n) s = .next (((s.setSide sd ((r.1.setDens ch { r.1.densOf ch with
      copy := none }).set (DENS_STAT.COPYING ch.n) 0)).copyTo sd st.e img).complete sd st 0 (lget st.aux 0 0).toNat (lget c.hdr 0 0).toNat img.length))

/-! ### Race time -/

/-- R19, R170, R171, R172, R178, R179, R183: an increment and a load take effect; a tie is kept while F_T is locked; the cox side sends its race
time, and the crew side moves to it: by a step over 65,536 LSBs, else by its loop. A race-time base that is stopped
sends and takes nothing. -/
def Obligations.RaceTimeCommands : Prop := ∀ (s : State) (sd : SideId) (st : SplitStamp) (v t : Nat) (rest : List (SideId × KeelMsg)),
  let x := s.side sd
  (x.islRuns (srcOf 5 6 0) = true → x.rt.incPend = some v → Does (.rtIncCommit sd) s (fun u =>
      (u.side sd).rt = { x.rt with inc := v, incPend := none } ∧ (u.side sd).on RT_STAT.RUN = (v != 0) ∧ u.side sd.other = s.side sd.other))
  ∧ (x.islRuns (srcOf 5 6 0) = false → exec (.rtIncCommit sd) s = .next s ∧ exec (.rtLoad sd) s = .next s)
  ∧ (x.islRuns (srcOf 5 6 0) = true → x.rt.loadPend = some v → Does (.rtLoad sd) s (fun u =>
      (u.side sd).rt.rta = v % 2 ^ 72 * 2 ^ 24 ∧ (u.side sd).rt.p = 0 ∧ (u.side sd).rt.f = x.rt.f ∧ (u.side sd).rt.loadPend = none
      ∧ (u.side sd).rt.inc = x.rt.inc ∧ (u.side sd).on RT_STAT.STEP_SEEN = true
      ∧ (u.side sd).get RT_STEP_COUNT.whole = min (x.get RT_STEP_COUNT.whole + 1) (2 ^ 36 - 1) ∧ (s.side sd.other).rt = (u.side sd.other).rt))
  ∧ (x.on PLL_STAT.T_LOCK = false → exec (.tie sd st) s = .next s)
  ∧ (x.on PLL_STAT.T_LOCK = true → x.calStaged 0 = [] → x.cal.job = none → (∀ d ∈ x.host.staged, d.op ≠ 0x30 ∧ d.op ≠ 0x31) →
    Does (.tie sd st) s (fun u =>
      (u.side sd).split.ties = (⟨x.splitTime 16 st, (x.now : Int), st.coarse, st.tap.val⟩ :: x.split.ties).take 4
      ∧ (u.side sd).split.tieRun = x.split.tieRun + 1
      ∧ (u.side sd).on SPLIT_STAT.INVALID = (x.on SPLIT_STAT.INVALID && decide (x.split.tieRun = 0)) ∧ u.side sd.other = s.side sd.other))
  ∧ (s.coxSide = some sd → x.islRuns (srcOf 5 6 0) = false → exec .rtSyncSend s = .next s)
  ∧ (s.coxSide = some sd → x.islRuns (srcOf 5 6 0) = true → exec .rtSyncSend s
      = .next { s with keel := { s.keel with msgs := s.keel.msgs ++ [(sd.other, .rtSync x.now)] } })
  ∧ (s.coxSide = none → exec .rtSyncSend s = .next s)
  ∧ (s.keel.msgs = (sd, .rtSync t) :: rest →
      (x.isCrew = false ∨ x.islRuns (srcOf 5 6 0) = false → exec .crossSideSync s = .next { s with keel := { s.keel with msgs := rest } })
      ∧ (x.isCrew = true → x.islRuns (srcOf 5 6 0) = true →
        let d : Int := (t : Int) + 52777 - x.now
        let n := match x.rt.syncLast with
          | some e => x.rt.edges - e
          | none => x.ndcNominal
        let q := rhe (-d * 2 ^ 24) (max 1 n)
        Does .crossSideSync s (fun u =>
          let y := u.side sd
          u.keel = { s.keel with msgs := rest } ∧ y.get RT_XSYNC_ERR.D = ux 36 (satS 36 d) ∧ y.on RT_STAT.UNSYNCED = false
            ∧ y.rt.syncLast = some x.rt.edges
            ∧ (65536 < d.natAbs → y.rt.rta = (((x.rt.rta : Int) + d * 2 ^ 24) % 2 ^ 96).toNat ∧ y.rt.p = 0 ∧ y.rt.f = x.rt.f
              ∧ y.on RT_STAT.STEP_SEEN = true ∧ y.on RT_STAT.SYNCED = false)
            ∧ (d.natAbs ≤ 65536 → y.rt.rta = x.rt.rta ∧ y.rt.f = satF (x.rt.f - rheP q 6) ∧ y.rt.p = -rheP q 2
              ∧ (d.natAbs ≤ 6 → y.rt.syncRun = x.rt.syncRun + 1
                ∧ y.on RT_STAT.SYNCED = (x.on RT_STAT.SYNCED || decide (64 ≤ x.rt.syncRun + 1)))
              ∧ (6 < d.natAbs → y.rt.syncRun = 0 ∧ y.on RT_STAT.SYNCED = false)))))

/-- R19, R173 to R177, R180: an edge of the PPS input. Only edges of the slope PPS_FALL selects are taken, by a base that runs. A crew side and a side without discipline or an armed second take none; an edge outside the
window is counted; an accepted one leaves its residual, and steps race time where it is off by more than the step bound, or else moves the
loop. The model's choices it rests on: log entries 75, 76. -/
def Obligations.PpsEdges : Prop := ∀ (s : State) (sd : SideId) (fall : Bool) (st : SplitStamp),
  let x := s.side sd
  let takes := x.islRuns (srcOf 5 6 0) && (fall == x.on RT_CTRL.PPS_FALL)
  let rt := x.stampTime (x.splitTime (12 + x.ipOf 6) st)
  let u : Int := (rt : Int) - x.getS PPS_OFFSET.OFFSET
  let sec := rheP u 40
  let e := u - sec * 2 ^ 40
  let inWin := e.natAbs ≤ x.get RT_CTRL.PPS_WIN * 2 ^ 10
  let n := match x.rt.ppsLast with
    | some k => x.rt.edges - k
    | none => x.ndcNominal
  let q := rhe (e * 2 ^ 24) (max 1 n)
  (takes = false ∨ x.isCrew = true ∨ (x.on RT_CTRL.DISC_EN = false ∧ x.on RT_SET_SEC.ARM = false) ∨ rt < x.rt.ppsFrom →
    exec (.ppsEdge sd ⟨fall, st⟩) s = .next s)
  ∧ (takes = true → x.isCrew = false → x.on RT_CTRL.DISC_EN = true → x.on RT_SET_SEC.ARM = false → x.rt.ppsFrom ≤ rt →
      (x.rt.ppsFirst = false → ¬inWin → exec (.ppsEdge sd ⟨fall, st⟩) s = .next (s.mod sd (fun x => x.inc PPS_REJECT.whole)))
      ∧ (inWin ∨ x.rt.ppsFirst = true → Does (.ppsEdge sd ⟨fall, st⟩) s (fun t =>
        let y := t.side sd
        let r := ux 30 (max (-536870911) (min 536870911 e)) + ux 32 sec * 2 ^ 30
        y.get PPS_RESID_LO.whole = 2 ^ 35 + (bitsOf (x.reg PPS_RESID_LO.whole.idx).toNat 33 26 + 1) % 256 * 2 ^ 26 + r % 2 ^ 26
          ∧ y.get PPS_RESID_HI.whole = r / 2 ^ 26 % 2 ^ 36 ∧ y.on RT_STAT.PPS_LOST = false ∧ y.rt.ppsLast = some x.rt.edges ∧ y.rt.ppsFirst = false
          ∧ (x.on SPLIT_STAT.INVALID = true → y.rt.rta = x.rt.rta ∧ y.rt.f = x.rt.f ∧ y.rt.p = x.rt.p)
          ∧ (x.on SPLIT_STAT.INVALID = false → 2 ^ x.get RT_CTRL.STEP_EXP < e.natAbs →
            y.rt.rta = (((x.rt.rta : Int) - e * 2 ^ 24) % 2 ^ 96).toNat ∧ y.rt.p = 0 ∧ y.rt.f = x.rt.f ∧ y.on RT_STAT.STEP_SEEN = true)
          ∧ (x.on SPLIT_STAT.INVALID = false → e.natAbs ≤ 2 ^ x.get RT_CTRL.STEP_EXP →
            y.rt.rta = x.rt.rta ∧ y.rt.f = satF (x.rt.f - rheP q (x.get RT_CTRL.KI)) ∧ y.rt.p = -rheP q (x.get RT_CTRL.KP)
            ∧ (e.natAbs ≤ x.get RT_CTRL.LOCK_TOL → y.rt.lockRun = x.rt.lockRun + 1
              ∧ y.on RT_STAT.PPS_LOCK = (x.on RT_STAT.PPS_LOCK || decide (8 ≤ x.rt.lockRun + 1)))
            ∧ (x.get RT_CTRL.LOCK_TOL < e.natAbs → y.rt.lockRun = 0 ∧ y.on RT_STAT.PPS_LOCK = false)))))
  ∧ (takes = true → x.isCrew = false → x.on RT_CTRL.DISC_EN = false → x.on RT_SET_SEC.ARM = true → x.rt.ppsFrom ≤ rt → Does (.ppsEdge sd ⟨fall, st⟩) s (fun t =>
      (t.side sd).on RT_SET_SEC.ARM = false ∧ (t.side sd).rt.f = x.rt.f ∧ (t.side sd).rt.p = x.rt.p
        ∧ ((x.get RT_SET_SEC.SEC : Int) ≠ sec →
          (t.side sd).rt.rta = (((x.rt.rta : Int) + ((x.get RT_SET_SEC.SEC : Int) - sec) * 2 ^ 64) % 2 ^ 96).toNat
            ∧ (t.side sd).on RT_STAT.STEP_SEEN = true)
        ∧ ((x.get RT_SET_SEC.SEC : Int) = sec → (t.side sd).rt.rta = x.rt.rta)))
  ∧ (x.isCrew = false → x.on RT_CTRL.DISC_EN = true → x.islRuns (srcOf 5 6 0) = true → Does (.ppsLost sd) s (fun t =>
      (t.side sd).rt = { x.rt with p := 0, ppsLast := none, lockRun := 0 } ∧ (t.side sd).on RT_STAT.PPS_LOST = true
        ∧ (t.side sd).on RT_STAT.PPS_LOCK = false ∧ t.side sd.other = s.side sd.other))
  ∧ (x.isCrew = true ∨ x.on RT_CTRL.DISC_EN = false ∨ x.islRuns (srcOf 5 6 0) = false → exec (.ppsLost sd) s = .next s)

/-! ### The split timer -/

/-- R185 to R191, R200: an edge that its input's slope admits is stamped. With the measurement unit on, a start opens a window, with the
thresholds written before it in force, a stop in it
takes the next slot and the last slot closes it, and what fits neither is counted; every entry goes to the split ring. A window that
expires closes. The model's choices it rests on: log entry 121. -/
def Obligations.SplitMeasurements : Prop := ∀ (s : State) (sd : SideId) (src : Fin 4) (fall : Bool) (st : SplitStamp) (m : Meas) (w0 : Word)
    (t aux : Nat),
  let x := s.side sd
  let ip := x.ipOf src.val
  let ts := x.splitTime (2 * src.val + ip) st
  let rt := x.stampTime ts
  let inv := x.on SPLIT_STAT.INVALID
  let slope := x.get (SPLIT_IN_CFG.SLOPE src.val)
  let admitted := if fall then 2 ≤ slope else slope % 2 = 1
  let seen := fun (x : Side) => x.occur (.split (Fin.ofNat 8 src.val) 0 inv) rt
  let start := x.on (SPLIT_IN_CFG.START src.val)
  let stop := x.on (SPLIT_IN_CFG.STOP src.val)
  let len := 2 ^ log2Len (x.get SPLIT_RING_CFG.LOG2LEN)
  let wp := x.get SPLIT_WP.WP
  let base := x.pair SPLIT_BASE_LO.whole.idx
  let used := (wp + 2 ^ 36 - x.get SPLIT_RP.RP) % 2 ^ 36
  let near := ts - m.lastTs < 6144
  let word0 := fun (ty : Nat) (close : Bool) (slot num : Nat) => wordN (ty * 2 ^ 32 + src.val * 2 ^ 29 + b2n fall * 2 ^ 28 + b2n inv * 2 ^ 27
    + b2n close * 2 ^ 26 + b2n (ip == 1) * 2 ^ 25 + slot % 32 * 2 ^ 20 + num % 65536)
  -- an entry: dropped and counted while the ring is full, else four words in the general store
  (len ≤ used → s.splitEntry sd w0 t aux = s.mod sd (fun x => (x.inc SPLIT_RING_DROP.whole).raise SPLIT_STAT.DROP_SEEN))
  ∧ (used < len → x.on SPLIT_RING_CFG.HOST = false → 2 ^ 23 ≤ base → base + 4 * len ≤ 2 ^ 24 →
      s.splitEntry sd w0 t aux = s.mod sd (fun x => (x.set SPLIT_WP.WP ((wp + 1) % 2 ^ 36)).writeRange .sram (srcOf 5 2 0) (base + 4 * (wp % len))
        [w0, wordN (t / 2 ^ 36), wordN t, wordN aux]))
  -- edges
  ∧ (¬admitted → exec (.splitEdge sd src fall st) s = .next s)
  ∧ (admitted → x.on SPLIT_MEAS_CFG.MEAS_EN = false → exec (.splitEdge sd src fall st) s = .next (s.mod sd seen))
  ∧ (admitted → x.on SPLIT_MEAS_CFG.MEAS_EN = true → x.split.meas = none →
      (start = true → ∃ u : State, u.side sd.other = s.side sd.other ∧ (u.side sd).split.measNum = x.split.measNum + 1
        ∧ (u.side sd).split.meas = some ⟨src.val, rt, ts, ts, 0, 0, x.split.measNum + 1⟩ ∧ (u.side sd).on SPLIT_STAT.WINDOW_OPEN = true
        ∧ (x.split.thr.length = 4 → ∀ j : Fin 4, lget (u.side sd).split.thr j.val (0, false)
            = (min 4000 (x.get (SPLIT_IN_CFG.THRESH j.val)), x.on (SPLIT_IN_CFG.TERM50 j.val)))
        ∧ exec (.splitEdge sd src fall st) s = .next ((u.splitEntry sd (word0 1 false 0 (x.split.measNum + 1)) rt 0).mod sd seen))
      ∧ (start = false → stop = true → exec (.splitEdge sd src fall st) s = .next ((s.mod sd (fun x => x.inc SPLIT_ORPHAN.whole)).mod sd seen))
      ∧ (start = false → stop = false → exec (.splitEdge sd src fall st) s = .next (s.mod sd seen)))
  ∧ (admitted → x.on SPLIT_MEAS_CFG.MEAS_EN = true → x.split.meas = some m →
      (stop = true → rt - m.start ≤ nsLsb (max 1 (x.get SPLIT_WINDOW.WINDOW)) → m.slots + 1 ≤ x.get SPLIT_MEAS_CFG.NSTOP_M1 →
        let m' := { m with slots := m.slots + 1, lastTs := ts, tooClose := m.tooClose + if near then 1 else 0 }
        let y := { x with split := { x.split with meas := some m' } }
        (near → exec (.splitEdge sd src fall st) s
          = .next ((s.setSide sd (y.inc SPLIT_TOO_CLOSE.whole)).splitEntry sd (word0 2 true m'.slots m.num) 0 0))
        ∧ (¬near → exec (.splitEdge sd src fall st) s
          = .next (((s.setSide sd (y.occur (.split (Fin.ofNat 8 src.val) 2 inv) rt)).splitEntry sd (word0 2 false m'.slots m.num) rt
            (min (rt - m.start) (2 ^ 36 - 1))).mod sd seen)))
      ∧ (stop = true → rt - m.start ≤ nsLsb (max 1 (x.get SPLIT_WINDOW.WINDOW)) → x.get SPLIT_MEAS_CFG.NSTOP_M1 < m.slots + 1 →
        Does (.splitEdge sd src fall st) s (fun u => (u.side sd).split.meas = none ∧ (u.side sd).on SPLIT_STAT.WINDOW_OPEN = false
          ∧ (u.side sd).get SPLIT_MEAS_RESULT.RESULT = m.num % 65536 + (m.tooClose + if near then 1 else 0) % 32 * 2 ^ 16 + (m.slots + 1) % 32 * 2 ^ 21))
      ∧ (stop = false → start = true → x.on SPLIT_MEAS_CFG.RESTART_ON_START = false →
        exec (.splitEdge sd src fall st) s = .next ((s.mod sd (fun x => x.inc SPLIT_START_IGN.whole)).mod sd seen))
      ∧ (stop = false → start = true → x.on SPLIT_MEAS_CFG.RESTART_ON_START = true → Does (.splitEdge sd src fall st) s (fun u =>
        (u.side sd).split.meas = some ⟨src.val, rt, ts, ts, 0, 0, x.split.measNum + 1⟩
          ∧ (u.side sd).get SPLIT_MEAS_RESULT.RESULT = m.num % 65536 + m.tooClose % 32 * 2 ^ 16 + m.slots % 32 * 2 ^ 21))
      ∧ (stop = false → start = false → exec (.splitEdge sd src fall st) s = .next (s.mod sd seen)))
  ∧ (x.split.meas = none → exec (.windowExpiry sd) s = .next s)
  ∧ (x.split.meas = some m → Does (.windowExpiry sd) s (fun u => (u.side sd).split.meas = none ∧ (u.side sd).on SPLIT_STAT.WINDOW_OPEN = false
      ∧ (u.side sd).get SPLIT_MEAS_RESULT.RESULT = m.num % 65536 + m.tooClose % 32 * 2 ^ 16 + m.slots % 32 * 2 ^ 21
      ∧ (u.side sd).split.measNum = x.split.measNum))

/-- R182, R185, R190, R378, R379: an edge of an event-class input is stamped into an entry and makes its occurrence, or falls within the dead
time and is counted; one of LDSTB also requests a strobe 1 µs later. A requested swap of interpolators is taken while no window is open; a
threshold's code is limited to 4,000. -/
def Obligations.SplitInputs : Prop := ∀ (s : State) (sd : SideId) (i : Fin 4) (src : Fin 8) (fall : Bool) (st : SplitStamp),
  let x := s.side sd
  let ip := x.ipOf (4 + i.val)
  let ts := x.splitTime (2 * (4 + i.val) + ip) st
  let rt := x.stampTime ts
  let inv := x.on SPLIT_STAT.INVALID
  let slope := bitsOf (x.get EVT_IN_CFG.EN_SLOPE) (7 - 2 * i.val) (6 - 2 * i.val)
  let admitted := if fall then 2 ≤ slope else slope % 2 = 1
  let near := ∃ l, lget x.split.evtLast i.val none = some l ∧ ts - l < 8192
  let n := lget x.split.evtCnt i.val 0 + 1
  let occ := if i.val < 2 then Occ.trigin (Fin.ofNat 2 i.val) fall inv else Occ.split (Fin.ofNat 8 (4 + i.val)) 0 inv
  let w0 := wordN ((4 + i.val) * 2 ^ 29 + b2n fall * 2 ^ 28 + b2n inv * 2 ^ 27 + b2n (ip == 1) * 2 ^ 25 + n % 65536)
  let split := { x.split with
    evtCnt := lset x.split.evtCnt i.val n, evtLast := lset x.split.evtLast i.val (some ts), evtDead := lset x.split.evtDead i.val 0 }
  let stamped := (s.mod sd (fun x => ({ x with split := split } : Side).occur occ rt)).splitEntry sd w0 rt (lget x.split.evtDead i.val 0 % 2 ^ 36)
  (¬admitted → exec (.eventStamp sd i fall st) s = .next s)
  ∧ (admitted → near → exec (.eventStamp sd i fall st) s = .next (s.mod sd (fun x =>
      ({ x with split := { x.split with evtDead := lmod x.split.evtDead i.val (· + 1) } } : Side).inc SPLIT_DEAD.whole)))
  ∧ (admitted → ¬near → i ≠ 3 ∨ x.on TONE_CFG.LDSTB_EN = false → exec (.eventStamp sd i fall st) s = .next stamped)
  ∧ (admitted → ¬near → i = 3 → x.on TONE_CFG.LDSTB_EN = true → s.keel.resolving = false → s.keel.up = false → x.isCrew = false →
      exec (.eventStamp sd i fall st) s = .next (stamped.mod sd (fun x => x.dueStrobe (rt + nsLsb 1000) [])))
  ∧ (admitted → ¬near → i = 3 → x.on TONE_CFG.LDSTB_EN = true → s.keel.resolving = true →
      exec (.eventStamp sd i fall st) s = .next (stamped.mod sd (fun x => x.inc TONE_STB_DISCARD.whole)))
  ∧ (src.val ∉ x.split.swapReq ∨ (src.val < 4 ∧ x.split.meas ≠ none) → exec (.interpolatorSwap sd src) s = .next s)
  ∧ (src.val ∈ x.split.swapReq → 4 ≤ src.val ∨ x.split.meas = none → x.cal.job = none →
      (∀ d ∈ x.host.staged, d.op ≠ 0x30 ∧ d.op ≠ 0x31) → Does (.interpolatorSwap sd src) s (fun t =>
        (t.side sd).split.swapReq = x.split.swapReq.filter (· != src.val)
        ∧ (∀ j : Fin 8, (t.side sd).ipOf j.val = if j = src then 1 - x.ipOf j.val else x.ipOf j.val)
        ∧ t.side sd.other = s.side sd.other))
  ∧ exec (.thresholdApply sd i) s = .next (s.mod sd (fun x => { x with split := { x.split with
      thr := lset x.split.thr i.val (min 4000 (x.get (SPLIT_IN_CFG.THRESH i.val)), x.on (SPLIT_IN_CFG.TERM50 i.val)) } }))

/-! ### The Starter -/

/-- R194 to R196, R204, R205, R214 to R217: an occurrence of an input in use joins its instant, or is dropped and counted once the instant is
decided or past the horizon; an expired timer forms an instant; counters latch at the first undecided instant; lines and device triggers
cross the Keel; a TRIGOUT pulse begins when its time has come and ends when it has run out. The model's choices it rests on: log entries
77, 133. -/
def Obligations.StarterInputs : Prop := ∀ (s : State) (sd : SideId) (o : Occ) (t : RaceTime) (k : Fin 4) (pin : Fin 2) (lines : BitVec 8)
    (u e : Nat) (te : Nat × Nat) (rest : List (SideId × KeelMsg)) (i : Inst) (p : Nat × Nat),
  let x := s.side sd
  let st := x.starter
  let taken := x.on STARTER_STAT.RUNNING = true ∧ earlier st.ep t.toNat st.fromEp st.fromT = false ∧ st.uses o = true
  let late := earlier st.ep t.toNat st.decEp st.decided = true ∨ t.toNat + nsLsb st.h < x.now
  (¬taken → exec (.occurrence sd o t) s = .next s)
  ∧ (taken → late → exec (.occurrence sd o t) s = .next (s.mod sd (fun x => (x.inc LATE_OCC.whole).raise STARTER_STAT.LATE_SEEN)))
  ∧ (taken → ¬late →
      Does (.occurrence sd o t) s (fun v =>
        (∃ a ∈ (v.side sd).starter.insts, a.ep = st.ep ∧ a.t = t.toNat ∧ o ∈ a.occ)
        ∧ (∀ a ∈ st.insts, ¬(a.ep = st.ep ∧ a.t = t.toNat) → a ∈ (v.side sd).starter.insts)
        ∧ v = s.setSide sd { x with starter := { st with insts := (v.side sd).starter.insts } }))
  ∧ (lget st.timers k.val none = some te → (te.2 : Int) ≤ x.nowIn te.1 → x.islRuns (srcOf 2 4 0) = true → exec (.timer sd k) s = .next (s.mod sd (fun x =>
      { x with starter := { x.starter with insts := instMod te.1 te.2 id x.starter.insts } })))
  ∧ (lget st.timers k.val none = some te → x.nowIn te.1 < te.2 ∨ x.islRuns (srcOf 2 4 0) = false → exec (.timer sd k) s = .next s)
  ∧ (lget st.timers k.val none = none → exec (.timer sd k) s = .next s)
  ∧ (x.frontInst = none → exec (.count sd k) s = .next s ∧ exec (.instant sd) s = .next s)
  ∧ (k = 0 → x.frontInst = some i → x.evaluates i = true → 0 ∉ i.latched →
      let b := (st.blkAt i.ep i.t).force
      (i.occ.any (matchOcc (stSrc b 0)) = false → exec (.count sd k) s = .next (s.mod sd (fun x => { x with starter := { x.starter with
        insts := instMod i.ep i.t (fun _ => { i with latched := i.latched ++ [0] }) x.starter.insts } })))
      ∧ (i.occ.any (matchOcc (stSrc b 0)) = true → Does (.count sd k) s (fun v =>
        let n := min (x.get (STARTER_CNT.whole 0) + 1) (2 ^ 36 - 1)
        (v.side sd).get (STARTER_CNT.whole 0) = n
        ∧ (v.side sd).starter.insts = instMod i.ep i.t (fun _ =>
            { i with latched := i.latched ++ [0], occ := if n = bw b 10 then i.occ ++ [.count 0] else i.occ }) st.insts)))
  ∧ (s.keel.msgs = (sd, .xside lines u) :: rest →
      let es := (List.range 8).filter (fun e => lines.toNat / 2 ^ e % 2 = 1)
      (s.keel.resolving = false → exec (.xside sd) s = .next (({ s with keel := { s.keel with msgs := rest } } : State).mod sd (fun x =>
        es.foldl (fun x e => x.occur (.xside (Fin.ofNat 8 e)) (u + 52777)) x)))
      ∧ (s.keel.resolving = true → exec (.xside sd) s = .next (({ s with keel := { s.keel with msgs := rest } } : State).mod sd.other (fun x =>
        x.bump KEEL_XTRIG_DISCARD.whole es.length))))
  ∧ (s.coxSide = none → exec .dtrigRequest s = .next s)
  ∧ (s.coxSide = some sd → s.keel.moved = none → st.reqs = [u] → (s.side sd.other).starter.reqs = [] → x.islRuns (srcOf 2 4 0) = true → u ≤ x.now →
      -- DT_HOLDOFF is in nanoseconds
      let held := ∃ b ∈ st.accepted, b ≤ u ∧ (u - b) * 10 ^ 9 < bf x.stBlk 0 17 2 * 2 ^ 40
      let f := fun (z : Side) => ({ z with starter := { z.starter with reqs := [], accepted := u :: z.starter.accepted } } : Side).occur .dtrig (u + 52777)
      (¬held → exec .dtrigRequest s = .next ((s.mod .stroke f).mod .bow f))
      ∧ (held → Does .dtrigRequest s (fun v =>
        (v.side sd).get DTRIG_REJECT.whole = min (x.get DTRIG_REJECT.whole + 1) (2 ^ 36 - 1) ∧ (v.side sd).starter = { st with reqs := [] }
          ∧ (v.side sd.other).starter = (s.side sd.other).starter)))
  ∧ (st.pulses = [p] → p.1 = pin.val → p.2 + nsLsb st.dTo ≤ x.now → x.islRuns (srcOf 2 4 0) = true → exec (.trigoutPulse sd pin) s = .next (s.mod sd (fun x =>
      { x with starter := { st with
        pulses := [], outs := lset st.outs pin.val (some (max (x.now + nsLsb (8 * max 1 (bf x.stBlk 0 27 20))) ((lget st.outs pin.val none).getD 0))) } })))
  ∧ (x.islRuns (srcOf 2 4 0) = false ∨ (∀ q ∈ st.pulses, q.1 = pin.val → x.now < q.2 + nsLsb st.dTo) → exec (.trigoutPulse sd pin) s = .next s)
  ∧ (lget st.outs pin.val none = some e → e ≤ x.now → exec (.trigoutEnd sd pin) s = .next (s.mod sd (fun x =>
      { x with starter := { x.starter with outs := lset x.starter.outs pin.val none } })))
  ∧ (lget st.outs pin.val none = some e → x.now < e → exec (.trigoutEnd sd pin) s = .next s)
  -- the pin, active low under TO_POL
  ∧ x.trigoutPin pin.val = xor (lget st.outs pin.val none).isSome (bb x.stBlk 0 (18 + pin.val))

/-- R198, R199, R206 to R211: the first undecided instant is decided: the enabled slot with the lowest number of the state whose condition
holds wins, its actions are taken, the machine goes to the next state, and a GO makes a trigger at each armed channel that accepts it; an
instant at which no slot of the state holds changes no state. The model's choices it rests on: log entries 77, 78. -/
def Obligations.StarterDecision : Prop := ∀ (s : State) (sd : SideId) (i : Inst),
  let x := s.side sd
  let st := x.starter
  let b := st.force
  let state := x.get STARTER_STAT.STATE
  let holds := fun n => stEn b state n = true ∧ i.occ.any (matchOcc (stCond b state n)) = true
  let later := { st with insts := st.insts.filter (fun a => !(a.ep == i.ep && a.t == i.t)), decEp := i.ep, decided := i.t + 1 }
  x.frontInst = some i → i.ep = st.ep → x.evaluates i = true → st.next = [] → (∀ k < 4, lget st.timers k none = none) →
    (∀ k < 4, k ∈ i.latched) → i.force = [] → state < 8 →
    ((∀ n < 4, ¬holds n) → exec (.instant sd) s = .next (s.setSide sd { x with starter := later }))
    ∧ (∀ n < 4, holds n → (∀ j < n, ¬holds j) →
        let act := stAct b state n
        -- without a GO
        (bitAt act 31 = false → bitsOf act 7 6 = 0 → bitsOf act 28 20 = 0 → Does (.instant sd) s (fun t =>
          let y := t.side sd
          t = s.setSide sd y ∧ y.get STARTER_STAT.STATE = bitsOf act 34 32
            ∧ (∀ k < 4, y.get (STARTER_CNT.whole k) = if bitAt act (8 + k) then 0 else x.get (STARTER_CNT.whole k))
            ∧ (st.timers.length = 4 → ∀ k < 4, lget y.starter.timers k none
              = if bitAt act (16 + k) then some (i.ep, i.t + 256 * max 1 (bw b (17 + k))) else none)
            ∧ y.starter.insts = later.insts ∧ y.starter.decided = i.t + 1 ∧ y.acq = x.acq ∧ y.starter.pulses = st.pulses))
        -- a GO at one armed channel
        ∧ (∀ (c : Chan) (r : Rec), bitAt act 31 = true → bitsOf act 30 29 = 2 ^ c.n → bitsOf act 28 20 = 0 → x.acq.length = 2 →
          (x.acqOf c).armed = some r → x.goOutcome c (x.trigSample c i.ep i.t (i.frameOf (stCond b state n) c))
            = (.accepted, x.trigSample c i.ep i.t (i.frameOf (stCond b state n) c)) → Does (.instant sd) s (fun t =>
            let y := t.side sd
            let mT := x.trigSample c i.ep i.t (i.frameOf (stCond b state n) c)
            y.get STARTER_STAT.STATE = bitsOf act 34 32
              ∧ ∃ ws, (y.acqOf c).armed = some { r with trigs := r.trigs ++ [⟨mT, mT + rcPost r.block - 1, ws⟩] }
                ∧ ws[2]? = some (wordN (i.t / 2 ^ 36)) ∧ ws[3]? = some (wordN i.t) ∧ ws[1]? = some (wordN (bitmapOf b i.occ)))))

/-! ### Records and streams -/

/-- R222, R224, R227, R229 to R231, R243, R304: a sample that may be written goes to its place in the record's region; what finds the write
buffer full is discarded and ends the writing for good; a finished segment gets its table entry and a record that has ended its header,
and the channel leaves the armed state; a quiesced acquisition does none of this. A DISARM completes when no record of its channels is
armed, and READ_RECORD copies what it names. The model's choices it rests on: log entries 80, 132. -/
def Obligations.RecordProgress : Prop := ∀ (s : State) (sd : SideId) (ch : Chan) (r : Rec) (a : ASmp) (g : Trig) (sg : Seg) (segs : List Seg)
    (lost n : Nat) (st : Staged),
  let x := s.side sd
  let q := x.acqOf ch
  let runs := x.islRuns (srcOf 2 4 0) = true
  (¬runs → exec (.acqWrite sd ch n) s = .next s ∧ exec (.segmentDone sd ch) s = .next s ∧ exec (.recordDone sd ch) s = .next s)
  ∧ (q.armed = none → exec (.acqWrite sd ch n) s = .next s ∧ exec (.segmentDone sd ch) s = .next s
    ∧ (x.host.staged = [] → exec (.recordDone sd ch) s = .next s))
  ∧ (q.armed = some r → runs → x.acq.length = 2 →
    -- writing; the level of the port's buffer may change its panic state
    (r.truncated = none → r.samples = [a] → r.lines = [] → rcIq r.block = true → rcDrain r.block = false → x.mayWrite ch r a = true → 0 < n →
      Does (.acqWrite sd ch n) s (fun t =>
        (∃ p1 p2, ((t.side sd).acqOf ch).armed = some { r with next := a.m + 1, samples := [], poison := p1, segPoison := p2 })
        ∧ (t.side sd).dram = { (x.writeRange .dram (acqPort ch) (bw r.block 4 + r.slot * segW r.block + (a.m - r.mA) % max 1 (segW r.block)) [a.w]).dram with
            panic := (t.side sd).dram.panic }))
    ∧ (r.samples = [a] → x.mayWrite ch r a = false → r.lines = [] → Does (.acqWrite sd ch n) s (fun t =>
        ((t.side sd).acqOf ch).armed = some r ∧ (t.side sd).dram = { x.dram with panic := (t.side sd).dram.panic }))
    -- a full buffer
    ∧ (rcIq r.block = true → x.waitingWords ch r ≤ acqBuffer → acqBuffer < x.readySamples ch r + x.waitingWords ch r →
        let y := x.fillBuffer ch r
        let room := acqBuffer - x.waitingWords ch r
        (y.acqOf ch).armed = some { r with truncated := some (r.next + room), samples := r.samples.take room }
          ∧ y.get (ACQ_WB_OVF.whole ch.n) = min (x.get (ACQ_WB_OVF.whole ch.n) + (x.readySamples ch r - room)) (2 ^ 36 - 1) ∧ y.dram = x.dram)
    -- a segment
    ∧ (rcSeg r.block = true → r.truncated = none → x.segReady ch r = some (g, sg) → x.recStream ch = none →
      let r' := { r with segs := r.segs ++ [sg], slot := r.slot + 1, slotM := sg.last + 1, slotL := r.nextL, segPoison := false }
      Does (.segmentDone sd ch) s (fun t =>
        (∃ p1 p2, ((t.side sd).acqOf ch).armed = some { r' with poison := p1, segPoison := p2 })
        ∧ (t.side sd).get (ACQ_STAT.SEGS ch.n) = (r.segs.length + 1) % 2 ^ 17 ∧ (t.side sd).on (ACQ_STAT.IN_POST ch.n) = false
        ∧ (t.side sd).dram = ((x.setAcq ch { q with armed := some r' }).writeRange .dram (acqPort ch) (bw r.block 8 + 16 * (sg.num - 1)) (x.segEntry ch r g sg)).dram))
    ∧ (rcSeg r.block = false ∨ r.truncated ≠ none ∨ x.segReady ch r = none → exec (.segmentDone sd ch) s = .next s)
    -- the record
    ∧ (x.recEnd ch r = none → x.host.staged = [] → exec (.recordDone sd ch) s = .next s)
    ∧ (x.recEnd ch r = some (segs, lost) → x.recStream ch = none → x.host.staged = [] → segs.length ≤ 65536 → Does (.recordDone sd ch) s (fun t =>
        let y := t.side sd
        let hdr := x.recHeader ch r segs lost
        y.acqOf ch = { q with
            armed := none, hdr := hdr, last := some ⟨r.num, r.block, r.mA, segs, rcDrain r.block⟩, lastPost := ((r.trigs.getLast?).map r.lastOf).or q.lastPost }
          ∧ y.on (ACQ_STAT.ARMED ch.n) = false ∧ y.on (ACQ_STAT.DONE ch.n) = true ∧ y.on (ACQ_STAT.IN_POST ch.n) = false
          ∧ y.on (ACQ_STAT.DRAIN ch.n) = false ∧ y.dram = x.dram ∧ (r.truncated ≠ none → y.on (ACQ_STAT.TRUNC_SEEN ch.n) = true))))
  ∧ (q.armed = none → runs → x.host.staged = [st] → st.op = 0x11 → st.running = true → st.e.op4 % 4 = 2 ^ ch.n →
      exec (.recordDone sd ch) s = .next (s.complete sd st 0 (lget st.aux 0 0).toNat 0 0))
  ∧ (x.host.staged = [st] → st.op = 0x13 → st.running = true → chanOf (st.e.op4 % 2) = ch → s.dmaWorks sd = true → x.anyAsleep = false →
      (∀ code, x.readPart st.e = .error code → exec (.readRecordDone sd ch) s = .next (s.refuse sd st code))
      ∧ (q.armed = none → q.last ≠ none → bitsOf st.e.op4 2 1 = 3 → exec (.readRecordDone sd ch) s = .next (s.refuse sd st 0x2002))
      ∧ (∀ d, x.readPart st.e = .ok (d, none) → bitsOf st.e.op4 2 1 = 2 → st.e.op7 % 2 ^ 17 = 0 → exec (.readRecordDone sd ch) s
        = .next ((s.copyTo sd st.e q.hdr).complete sd st 0 (lget st.aux 0 0).toNat q.hdr.length 0))
      ∧ (∀ d s', x.readPart st.e = .ok (d, some s') → bitsOf st.e.op4 2 1 = 0 →
        let w := x.segSamples d.block d.mA s'
        exec (.readRecordDone sd ch) s = .next (((s.setSide sd w.1).copyTo sd st.e w.2.1).complete sd st (if w.2.2 = 0 then 0 else 0x1002)
          (lget st.aux 0 0).toNat w.2.1.length w.2.2)))
  ∧ ((∀ d ∈ x.host.staged, ¬(d.op = 0x13 ∧ d.running = true)) ∨ x.anyAsleep = true ∨ s.dmaWorks sd = false → exec (.readRecordDone sd ch) s = .next s)

/-- R236 to R241: a whole packet of an IQ stream goes into the open buffer under the next sequence number; while the host takes nothing and
the stream has no spill its samples are lost and counted; a spilled packet is delivered with SPILLED; a stream whose last packet has gone
is unbound. The model's choices it rests on: log entries 82, 83. -/
def Obligations.StreamProgress : Prop := ∀ (s : State) (sd : SideId) (r : Fin 16) (desc : Option (BitVec 64 × BitVec 32)) (addr len used n : Nat)
    (p : Packet) (rest : List Packet) (st : Staged),
  let x := s.side sd
  let u := x.strmOf r.val
  let k := 2 ^ u.pktLog2
  (u.bound = false → u.items = [] → ∀ b, exec (.streamPacket sd r b desc) s = .next s)
  ∧ (u.bound = true → u.source = 0 → u.stopT = none → u.endFlag = 0 → u.spill = [] → u.gap = none → u.items.length = k → x.strm.length = 16 →
    (∀ i ∈ u.items, i.words ≠ [] ∧ i.flags = 0) →
    let pk := { packetOf u u.items 0 (x.iqAux u.ch) k with seq := u.seq }
    (s.dmaOpen sd = true → x.islRuns (srcOf 4 2 0) = true → u.buf = some (addr, len, used, n) → used + pk.size ≤ len →
      Does (.streamPacket sd r true desc) s (fun t =>
        (t.side sd).strmOf r.val = { u with items := [], index := u.index + k, seq := u.seq + 1, sent := u.sent + 1, buf := some (addr, len, used + pk.size, n + 1) }
        ∧ (t.side (s.endpoint sd)).host.mem = bputs (s.side (s.endpoint sd)).host.mem (addr + used) (pk.image r.val u.pack 0)
        ∧ (t.side sd).get (STREAM_SEQ.whole r.val) = u.seq % 2 ^ 36))
    ∧ (u.spillLen = 0 → Does (.streamPacket sd r false desc) s (fun t =>
        (t.side sd).strmOf r.val = { u with
          items := [], index := u.index + k, lost := u.lost + k, gap := some ((u.items.head?).elim 0 (·.time), u.index, k) }
        ∧ (t.side sd).get (STREAM_LOST.whole r.val) = min (x.get (STREAM_LOST.whole r.val) + k) (2 ^ 36 - 1)
        ∧ (t.side (s.endpoint sd)).host.mem = (s.side (s.endpoint sd)).host.mem)))
  -- the spill; a packet read over a poisoned block becomes the marker of its items (R322)
  ∧ (u.spill = [] ∨ x.anyAsleep = true → ∀ b, exec (.spillDrain sd r b desc) s = .next s)
  ∧ (u.spill = p :: rest → x.anyAsleep = false → x.strm.length = 16 →
      Does (.spillDrain sd r false desc) s (fun t => (t.side sd).strmOf r.val = u)
      ∧ (s.dmaOpen sd = true → x.islRuns (srcOf 4 2 0) = true → u.buf = some (addr, len, used, n) →
        let g1 := x.getDense u.spillBase u.spillR (min p.size (u.spillCap - u.spillR))
        let g2 := g1.1.getDense u.spillBase 0 (p.size - min p.size (u.spillCap - u.spillR))
        let out := { u with spill := rest, spillR := (u.spillR + p.size) % max 1 u.spillCap, sent := u.sent + 1 }
        (g1.2.2 = false → g2.2.2 = false → used + p.size ≤ len → Does (.spillDrain sd r true desc) s (fun t =>
          (t.side sd).strmOf r.val = { out with buf := some (addr, len, used + p.size, n + 1) }))
        ∧ (g1.2.2 = true ∨ g2.2.2 = true → p.flags / 4 % 2 = 0 → used + 64 ≤ len → Does (.spillDrain sd r true desc) s (fun t =>
          (t.side sd).strmOf r.val = { out with lost := u.lost + p.items, buf := some (addr, len, used + 64, n + 1) }
          ∧ (t.side sd).get (STREAM_LOST.whole r.val) = min (x.get (STREAM_LOST.whole r.val) + p.items) (2 ^ 36 - 1)
          ∧ (t.side sd).on (STREAM_STAT.GAP_SEEN r.val) = true))))
  ∧ (u.bound = true → u.ended = true → u.items = [] → u.spill = [] → u.buf = none → x.host.staged = [st] → st.op = 0x21 → st.running = true →
      st.e.op4 % 16 = r.val → exec (.streamStopDone sd r) s = .next ((s.mod sd (fun x => (x.setStrm r.val Strm.init).drop
        (STREAM_STAT.SRC_STOPPED r.val))).complete sd st 0 (lget st.aux 0 0).toNat u.sent u.lost))
  ∧ (u.ended = false → exec (.streamStopDone sd r) s = .next s)

/-! ### The host link -/

/-- R40, R244 to R246, R248, R253 to R258, R260: PERST_N resets a side's host registers, rings, streams and MSI-X table; a link comes up; a
TLP of BAR0 is an access to one register after another, BAR4 holds the MSI-X table, configuration space the identity, and a poisoned write
or a request outside the BARs is dropped and logged; a window's write joins whole words and sends them to their device address, its reads
bring words, or zeros; a unit left incomplete is counted; a remote read comes back. The model's choices it rests on: log entries 17, 19,
26, 135, 139. -/
def Obligations.HostLink : Prop := ∀ (s : State) (sd : SideId) (win : Fin 4) (off : BitVec 30) (bytes : List Byte) (speed width : Fin 5) (len m a : Nat)
    (ws : List Word) (ep : Bool) (rest : List (SideId × Nat × Nat × List Word × Bool)) (o : BitVec 39) (o0 : BitVec 24) (o4 : BitVec 16)
    (bs : List (Option Byte)) (v : Fin 64) (p : Fin 11) (d : WinData),
  let x := s.side sd
  let base := x.get (WIN_CFG.BASE win.val) * 2 ^ 16
  let dense := x.on (WIN_CFG.DENSE win.val)
  let up := s.held = false ∧ x.on HOST_STAT.LINK_UP = true ∧ x.islTakes (srcOf 4 0 0) = true
  let enabled := x.on (WIN_CFG.EN win.val)
  -- PERST_N, and the link
  (s.held = true → exec (.perstN sd) s = .next s ∧ exec (.pcieLinkUp sd speed width) s = .next s)
  ∧ (s.held = false → Does (.perstN sd) s (fun t =>
      let y := t.side sd
      let mine := fun (z : Side) (k : DensCopy) => z.dens.any (fun d => d.copy == some k) = true ∧ k.issuer = sd
      ((∀ k, ¬mine x k) → y.regs = x.regs.filter (fun p => !(0x1000 ≤ p.1 && p.1 ≤ 0x2FFF) && !(0x9040 ≤ p.1 && p.1 ≤ 0x907F)))
        ∧ (x.dens.length = 2 → ∀ k, ¬mine y k) ∧ y.host.msix = List.replicate 64 ⟨0, 0, true⟩ ∧ y.host.pba = [] ∧ y.host.aer = []
        ∧ (∀ r < 16, y.strmOf r = Strm.init) ∧ (∀ i, ∀ c ∈ (t.side i).host.staged, c.issuer ≠ sd)
        ∧ y.host.compl = [] ∧ y.host.events = [] ∧ y.host.mem = x.host.mem ∧ y.fe = x.fe ∧ y.xf = x.xf ∧ y.starter = x.starter))
  ∧ (s.held = false → x.islRuns (srcOf 4 0 0) = true → sd = .stroke ∨ s.stroke.on HOST_CFG.ROUTE_BOW = false →
      exec (.pcieLinkUp sd speed width) s = .next (s.mod sd (fun x =>
        ((x.set HOST_STAT.LINK_UP 1).set HOST_STAT.SPEED (speed.val + 1)).set HOST_STAT.WIDTH (2 ^ width.val))))
  ∧ (s.stroke.on HOST_CFG.ROUTE_BOW = true → exec (.pcieLinkUp .bow speed width) s = .next s)
  -- TLPs outside the windows
  ∧ (¬up → exec (.lowWordRead sd p (.bar0 len) o) s = .next (s.setRd []) ∧ exec (.lowWordRead sd p (.bar4 len) o) s = .next (s.setRd [])
    ∧ exec (.lowWordRead sd p .config o) s = .next (s.setRd []) ∧ exec (.lowWordRead sd p .noBar o) s = .next (s.setRd [])
    ∧ exec (.registerWrite sd p (.bar0 o0) bs ep) s = .next s ∧ exec (.registerWrite sd p (.bar4 o4) bs ep) s = .next s
    ∧ exec (.registerWrite sd p .noBar bs ep) s = .next s ∧ exec (.windowWrite sd win off d) s = .next s)
  ∧ (up →
    let logged := fun (e : AerErr) => s.mod sd (fun x => { x with host := { x.host with aer := dedup (x.host.aer ++ [e]) } })
    exec (.registerWrite sd p (.bar0 o0) bs true) s = .next (logged .poisonedTlp)
    ∧ exec (.windowWrite sd win off ⟨bytes, true⟩) s = .next (logged .poisonedTlp)
    ∧ exec (.registerWrite sd p .noBar bs ep) s = .next (logged .unsupportedRequest)
    ∧ exec (.lowWordRead sd p .noBar o) s = .next ((logged .unsupportedRequest).setRd [])
    -- slot 8i of BAR0: bit 23 names the side, bits 22 to 3 the register
    ∧ (∀ m : Fin 11, m.val = sd.n → o0.toNat % 8 = 0 →
      let t := SideId.ofBit (bitAt o0.toNat 23)
      let idx := o0.toNat / 8 % 2 ^ 20
      exec (.lowWordRead sd m (.bar0 8) (o0.setWidth 39)) s = exec (.lowWordRead t m (.dev 2) (BitVec.ofNat 39 idx)) s
      ∧ (∀ b0 b1 b2 b3 b4 b5 b6 b7 : Byte,
          let q := [b0, b1, b2, b3, b4, b5, b6, b7].map some
          exec (.registerWrite sd m (.bar0 o0) q false) s = exec (.registerWrite t m (.reg (BitVec.ofNat 20 idx)) q false) s
            ∧ slotWord q = wordN (b0.toNat + b1.toNat * 2 ^ 8 + b2.toNat * 2 ^ 16 + b3.toNat * 2 ^ 24 + b4.toNat * 2 ^ 32)))
    -- BAR4: entry v of the MSI-X table, read and unmasked
    ∧ (x.host.msix.length = 64 →
      let e := lget x.host.msix v.val ⟨0, 0, true⟩
      let on := lset x.host.msix v.val { e with mask := false }
      exec (.lowWordRead sd p (.bar4 16) (BitVec.ofNat 39 (16 * v.val))) s = .next (s.setRd
        [wordN (e.addr.toNat % 2 ^ 32), wordN (e.addr.toNat / 2 ^ 32), wordN e.data.toNat, wordN (b2n e.mask)])
      ∧ exec (.registerWrite sd p (.bar4 (BitVec.ofNat 16 (16 * v.val + 12))) [some 0] false) s = .next (s.mod sd (fun x =>
        let h := if x.host.pba.contains v.val = true
          then { x.host with msix := on, pba := x.host.pba.filter (· != v.val), msi := x.host.msi ++ [⟨v.val, e.addr, e.data⟩] }
          else { x.host with msix := on }
        { x with host := h })))
    ∧ exec (.lowWordRead sd p .config 0) s = .next (s.setRd [wordN ((if sd = .stroke then 0x4810 else 0x4811) * 2 ^ 16 + 0x1F6B)])
    ∧ Does (.lowWordRead sd p .config 2) s (fun t => ∃ w, t.rd = [w] ∧ w.toNat / 2 ^ 8 = 0x118000)
    ∧ Does (.lowWordRead sd p .config o) s (fun t => t.rd.length = 1 ∧ t.stroke = s.stroke ∧ t.bow = s.bow ∧ t.keel = s.keel))
  -- writes through a window
  ∧ (enabled = false → exec (.windowWrite sd win off ⟨bytes, false⟩) s = .next s)
  ∧ (up → enabled = true → x.on INIT_STAT.READY = false → bytes ≠ [] → Does (.windowWrite sd win off ⟨bytes, false⟩) s (fun t =>
      (t.side sd).get ACC_ERR_COUNT.whole = min (x.get ACC_ERR_COUNT.whole + 1) (2 ^ 36 - 1) ∧ (t.side sd).on HOST_STAT.ACCESS_BEFORE_READY = true
        ∧ (t.side sd).sram = x.sram ∧ (t.side sd).dram = x.dram))
  ∧ (up → enabled = true → x.on INIT_STAT.READY = true → dense = false → base = (sd.n * 2 ^ 43 : Nat) → off.toNat % 8 = 0 → bytes.length = 8 →
      lget x.host.win win.val ⟨none, []⟩ = ⟨none, []⟩ → off.toNat / 8 < 2 ^ 24 → x.host.win.length = 4 →
      -- not in the store of a density engine that runs, whose cells become undefined (R154)
      (off.toNat / 8 < 2 ^ 23 → x.on (DENS_STAT.RUNNING (off.toNat / 8 / 2 ^ 22)) = false) →
      exec (.windowWrite sd win off ⟨bytes, false⟩) s = .next (s.mod sd (fun x => x.writeRange .sram portHost (off.toNat / 8)
        [wordN (bytes.zipIdx.foldl (fun v p => v + p.1.toNat * 256 ^ p.2) 0)])))
  -- reads through a window
  ∧ (¬up → exec (.windowRead sd win off len) s = .next (s.setRd []))
  ∧ (up → enabled = false → dense = false → 0 < len → lget x.host.win win.val ⟨none, []⟩ = ⟨none, []⟩ → x.host.win.length = 4 →
      Does (.windowRead sd win off len) s (fun t =>
        t.rd = List.replicate ((off.toNat + len - 1) / 8 + 1 - off.toNat / 8) 0 ∧ t.ep = false ∧ (t.side sd).regs = x.regs))
  ∧ (up → enabled = true → x.on INIT_STAT.READY = true → dense = false → base = (sd.n * 2 ^ 43 + 2 ^ 39 : Nat) → off.toNat % 8 = 0 → len = 8 →
      lget x.host.win win.val ⟨none, []⟩ = ⟨none, []⟩ → off.toNat / 8 < x.dram.extent → x.host.win.length = 4 →
      (x.spaceWaits 1 (off.toNat / 8) 1 = true → exec (.windowRead sd win off len) s = .next s)
      ∧ (x.spaceWaits 1 (off.toNat / 8) 1 = false → (x.readRange .dram (off.toNat / 8) 1).2.2 = 0 → Does (.windowRead sd win off len) s (fun t => t.rd = (x.readRange .dram (off.toNat / 8) 1).2.1 ∧ t.ep = false
        ∧ (t.side sd).dram = (x.readRange .dram (off.toNat / 8) 1).1.dram)))
  ∧ (exec (.windowMergeTimeout sd win) s = .next (s.mod sd (fun x => x.emptyMerge win.val)))
  ∧ (∀ (y : Side) (k : Nat) (b : Byte), (lget y.host.win win.val ⟨none, []⟩) = ⟨some k, [(0, b)]⟩ → y.on (WIN_CFG.DENSE win.val) = false →
      y.host.win.length = 4 → (y.emptyMerge win.val).get WIN_PARTIAL.whole = min (y.get WIN_PARTIAL.whole + 1) (2 ^ 36 - 1)
        ∧ lget (y.emptyMerge win.val).host.win win.val ⟨none, []⟩ = ⟨none, []⟩)
  ∧ (s.keel.reads = (sd, m, a, ws, ep) :: rest →
      exec (.tunnelReadDone sd) s = .next { s with rd := ws, ep := ep, keel := { s.keel with reads := rest } })
  ∧ (s.keel.reads = [] → exec (.tunnelReadDone sd) s = .next s)

/-- R263 to R267, R274 to R281: a read of the doorbell page takes each ring's index; a completion and an event are written into the next slots
of their rings, with the engine's index after them; while an event ring has one free slot left events are dropped and counted; moderation
signals; a command and a completion cross the Keel; a staged command takes effect when its boundary has come. The model's choices it rests
on: log entries 22, 23, 135, 136. -/
def Obligations.HostRings : Prop := ∀ (s : State) (sd : SideId) (page : List (BitVec 64)) (cq : Fin 8) (src : Fin 25) (c : ComplWait) (rest : List ComplWait)
    (e : Entry) (es : List Entry) (st : Staged) (b : Bnd) (t id n : Nat) (ring : Fin 8) (fl : CmdEntry),
  let x := s.side sd
  let works := s.dmaWorks sd = true
  let h := s.endpoint sd
  -- the doorbell page
  (x.on DB_CFG.EN = false ∨ s.dmaWorks sd = false → ∀ p, exec (.doorbellPoll sd p) s = .next s)
  ∧ (x.on DB_CFG.EN = true → works →
      exec (.doorbellPoll sd (some page)) s = .next (s.setSide sd
        ({ x with host := { x.host with nudged := false, dbFailed := false } }.takePage page))
      ∧ (∀ y : Side, ∀ i < 8, ∀ v, y.on (CMDQ_CFG.EN i) = true → bitAt (y.get RING_ERR.CMD_ERR) i = false → y.host.cmd.length = 8 →
        let r := lget y.host.cmd i ⟨0, 0, none⟩
        (r.pi ≤ v → v ≤ r.ci + 2 ^ y.get (CMDQ_CFG.LOG2SIZE i) → (lget (y.takeCmdPi i v).host.cmd i ⟨0, 0, none⟩) = { r with pi := v })
        ∧ (v < r.pi ∨ r.ci + 2 ^ y.get (CMDQ_CFG.LOG2SIZE i) < v → bitAt ((y.takeCmdPi i v).get RING_ERR.CMD_ERR) i = true
          ∧ (y.takeCmdPi i v).host.cmd = y.host.cmd))
      ∧ Does (.doorbellPoll sd none) s (fun u => (u.side sd).on RING_ERR.DB_ERR = true
        ∧ (u.side sd).get DB_READ_ERR.whole = min (x.get DB_READ_ERR.whole + 1) (2 ^ 36 - 1) ∧ (u.side sd).host.cmd = x.host.cmd))
  -- completions
  ∧ (x.host.compl = c :: rest → c.cq = cq.val → x.outOn cq.val = true → works → x.host.cq.length = 8 →
      let r := x.outRing cq.val
      let size := x.outSize cq.val
      (size ≤ r.pi - r.ci → exec (.completionWrite sd cq) s = .next s)
      ∧ (r.pi - r.ci < size → Does (.completionWrite sd cq) s (fun u =>
        ((u.side sd).outRing cq.val).pi = r.pi + 1 ∧ ((u.side sd).outRing cq.val).ci = r.ci ∧ (u.side sd).host.compl = rest
        ∧ (u.side h).host.mem = bputs (bputs (s.side h).host.mem (x.pair (CQ_BASE_LO.whole cq.val).idx + 32 * (r.pi % size))
            ((c.e.words (1 - r.pi / size % 2)).flatMap (fun w => bytesOf 8 w)))
          (x.pair DB_PAGE_LO.whole.idx + (0x840 + 8 * cq.val)) (bytesOf 8 (r.pi + 1)))))
  ∧ (x.host.compl = [] → exec (.completionWrite sd cq) s = .next s)
  -- events
  ∧ (x.on EVQ_CFG.EN = true → x.on RING_ERR.EVQ_ERR = false → works → x.host.overflow = none → x.host.events = e :: es →
      let r := x.outRing 8
      (r.pi + 1 < r.ci + x.outSize 8 → Does (.eventWrite sd) s (fun u =>
        ((u.side sd).outRing 8).pi = r.pi + 1 ∧ (u.side sd).host.events = es
        ∧ (u.side h).host.mem = bputs (bputs (s.side h).host.mem (x.pair EVQ_BASE_LO.whole.idx + 32 * (r.pi % x.outSize 8))
            ((e.words (1 - r.pi / x.outSize 8 % 2)).flatMap (fun w => bytesOf 8 w)))
          (x.pair DB_PAGE_LO.whole.idx + 0x880) (bytesOf 8 (r.pi + 1))))
      ∧ (r.ci + x.outSize 8 ≤ r.pi + 1 → Does (.eventWrite sd) s (fun u =>
        (u.side sd).host.events = es ∧ (u.side sd).host.overflow = some x.now ∧ (u.side sd).host.dropped = x.host.dropped + 1
        ∧ (u.side sd).get EVT_DROP.whole = min (x.get EVT_DROP.whole + 1) (2 ^ 36 - 1))))
  ∧ (x.on EVQ_CFG.EN = true → x.on RING_ERR.EVQ_ERR = false → works → x.host.overflow = some t → (x.outRing 8).pi + 1 < (x.outRing 8).ci + x.outSize 8 →
      Does (.eventWrite sd) s (fun u => (u.side sd).host.overflow = none ∧ (u.side sd).host.dropped = 0 ∧ ((u.side sd).outRing 8).pi = (x.outRing 8).pi + 1))
  -- moderation
  ∧ (let timed := 0 < (x.outRing src.val).count ∧ bitsOf (x.outCfg src.val) 25 18 ≠ 0 ∧ bitsOf (x.outCfg src.val) 17 8 ≠ 0
    (timed → works → exec (.modTime sd src) s
      = .next ((s.mod sd (fun x => x.setOutRing src.val { x.outRing src.val with count := 0 })).signal sd (bitsOf (x.outCfg src.val) 30 26)))
    ∧ (¬timed ∨ s.dmaWorks sd = false → exec (.modTime sd src) s = .next s))
  ∧ (h = sd → ∀ (v : Nat) (en : MsixEnt), lget x.host.msix v ⟨0, 0, true⟩ = en →
      ((s.signal sd v).side sd).host = (if en.mask then { x.host with pba := dedup (x.host.pba ++ [v]) }
        else { x.host with msi := x.host.msi ++ [⟨v, en.addr, en.data⟩] }))
  -- across the Keel
  ∧ (s.held = false → s.keel.up = true → s.keel.cmds = [(sd, st)] → x.pwr.fatal = false → st.op ≠ 0x01 → st.op ≠ 0x44 → st.op ≠ 0x61 →
      x.resolveBnd s.keel.up st.texec st.op st.e = .ok b → b ≠ .now → (∀ u, b ≠ .time u) → st.op ≠ 0x51 →
      exec (.remoteCommand sd) s = .next (({ s with keel := { s.keel with cmds := [] } } : State).mod sd (fun x => { x with host := { x.host with
        staged := x.host.staged ++ [{ st with bnd := b }] } })))
  ∧ (s.held = true ∨ s.keel.up = false → exec (.remoteCommand sd) s = .next s)
  ∧ (s.held = true → exec (.boundaryReached sd n) s = .next s)
  ∧ (s.keel.up = true → s.keel.dones = [(sd, ring, id, fl, e)] → x.host.staged = [] → Does (.remoteCompletion sd) s (fun u =>
      u.keel = { s.keel with dones := [] } ∧ (u.side sd).host.remote = x.host.remote.filter (fun p => p != (ring, id))
      ∧ (¬(fl.quiet = true ∧ e.status = 0) → (u.side sd).host.compl = x.host.compl ++ [⟨x.get (CMDQ_CFG.CQ ring.val), ring, id, fl.irqNow, e⟩])
      ∧ (fl.quiet = true → e.status = 0 → (u.side sd).host.compl = x.host.compl)))
  ∧ (s.held = false → x.host.staged = [st] → st.waits = true → st.reached = false → x.instantOf st = some t →
      exec (.boundaryReached sd 0) s = .next (State.releaseIsland sd st t 1 (effectOf sd st t s)))
  ∧ (s.held = false → x.host.staged = [st] → st.waits = true → st.reached = false → x.instantOf st = none → exec (.boundaryReached sd 0) s = .next s)

/-! ### Calibration, tone outputs and the monitor converter -/

/-- R182, R396 to R401, R407: an item whose two runs agree is installed and staged, one that disagrees or cannot run leaves the store; staged
values come into force at their boundary; an item whose boundary does not come, and an input whose swap is not taken, are left out. The
model's choices it rests on: log entry 97. -/
def Obligations.CalibrationItems : Prop := ∀ (s : State) (sd : SideId) (item : Fin 5) (src : Fin 8) (runs : CalRuns) (j : CalJob) (l : List Nat)
    (idx k : Nat) (v1 v2 : Int) (v : Word),
  let x := s.side sd
  let m := item.val
  let faulted := fun (j : CalJob) => x.calFaults m runs.refv.toInt (bitAt j.faulted 3)
  -- what a run measures: tap centres from the counts of the code density test, comparator offsets, gains
  (∀ (ns : List Nat) (t : Fin ns.length), (fineOf 0 ns)[t.val]? = some (rhe ((2 * (ns.take t.val).sum + ns[t]) * 4096 : Nat) (2 ^ 21)))
  ∧ (-32768 ≤ v1 - v2 → v1 - v2 ≤ 32767 → offsetOf v1 v2 = v1 - v2)
  ∧ (∀ zero ref : Int, zero < ref → 0 ≤ rhe (2 ^ 22 * v1) (ref - zero).toNat → rhe (2 ^ 22 * v1) (ref - zero).toNat < 2 ^ 24 →
      gainOf v1 zero ref = rhe (2 ^ 22 * v1) (ref - zero).toNat) ∧
  (x.cal.job = none → exec (.calItemDone sd item runs) s = .next s ∧ exec (.calSwapTimeout sd src) s = .next s)
  ∧ (x.cal.job = some j → j.left.head? ≠ some m → exec (.calItemDone sd item runs) s = .next s)
  -- item 0: the tables of the interpolators out of service, then the swaps
  ∧ (x.cal.job = some j → m = 0 → j.left = 0 :: l → j.second = false → x.on PLL_STAT.T_LOCK = true → Does (.calItemDone sd item runs) s (fun t =>
      (t.side sd).cal.swaps = List.range 8 ∧ (∀ src < 8, src ∈ (t.side sd).split.swapReq)
        ∧ ∃ j', (t.side sd).cal.job = some j' ∧ j'.second = true ∧ j'.left = j.left ∧ j'.installed = j.installed ∧ j'.faulted = j.faulted))
  ∧ (x.cal.job = some j → j.left = m :: k :: l → 2 ≤ m → x.calEntries m runs = [(idx, v1, v2)] → x.calUsable m j false idx = true → x.calStaged m = [] → asorted x.cal.staged = true →
      (faulted j = false → calAgree m idx v1 v2 = true →
        let w := wordN (ux (calBits m) (rhe (v1 + v2) 2))
        Does (.calItemDone sd item runs) s (fun t =>
          (t.side sd).reg idx = w ∧ (t.side sd).calStaged m = [(idx, w)] ∧ bitAt ((t.side sd).get CAL_STAT.VALID) m = true
            ∧ (t.side sd).cal.force = x.cal.force
            ∧ ∃ j', (t.side sd).cal.job = some j' ∧ j'.left = k :: l ∧ j'.waiting = j.waiting ++ [m] ∧ j'.installed = j.installed + 2 ^ m
              ∧ j'.disagreed = j.disagreed ∧ j'.faulted = j.faulted))
      ∧ (faulted j = false → calAgree m idx v1 v2 = false → Does (.calItemDone sd item runs) s (fun t =>
          (t.side sd).reg idx = x.reg idx ∧ bitAt ((t.side sd).get CAL_STAT.DISAGREE) m = true ∧ (t.side sd).cal.force = x.cal.force
            ∧ ∃ j', (t.side sd).cal.job = some j' ∧ j'.left = k :: l ∧ j'.waiting = j.waiting ∧ j'.disagreed = j.disagreed + 2 ^ m))
      ∧ (faulted j = true → Does (.calItemDone sd item runs) s (fun t =>
          (t.side sd).reg idx = x.reg idx ∧ bitAt ((t.side sd).get CAL_STAT.FAULT) m = true ∧ (t.side sd).cal.force = x.cal.force
            ∧ ∃ j', (t.side sd).cal.job = some j' ∧ j'.left = k :: l ∧ j'.waiting = j.waiting ∧ j'.faulted = j.faulted + 2 ^ m)))
  ∧ (x.cal.job = none → (∀ d ∈ x.host.staged, d.op ≠ 0x30 ∧ d.op ≠ 0x31) → x.calStaged m = [(idx, v)] → m ≠ 0 → asorted x.cal.staged = true →
      Does (.calApply sd item) s (fun t => (t.side sd).calForce idx = v ∧ (t.side sd).calStaged m = [] ∧ (t.side sd).regs = x.regs))
  ∧ (x.cal.job = some j → j.restore = true → j.left = [] → k ∈ j.waiting → k ≠ m → m ∈ j.waiting → Does (.calRestoreTimeout sd item) s (fun t =>
      (t.side sd).cal = { x.cal with job := some { j with waiting := j.waiting.filter (· != m), faulted := j.faulted + 2 ^ m } }
        ∧ t.side sd.other = s.side sd.other))
  ∧ (x.cal.job = some j → j.restore = true → j.left = [] → k ∈ j.waiting → m ∉ j.waiting → exec (.calRestoreTimeout sd item) s = .next s)
  ∧ (x.cal.job = some j → src.val ∈ x.cal.swaps → exec (.calSwapTimeout sd src) s = .next (s.mod sd (fun x => { x with
      split := { x.split with swapReq := x.split.swapReq.filter (· != src.val) }
      cal := { x.cal with swaps := x.cal.swaps.filter (· != src.val), job := some { j with late := j.late ++ [src.val] } } })))
  ∧ (x.cal.job = some j → src.val ∉ x.cal.swaps → exec (.calSwapTimeout sd src) s = .next s)

/-- ToneOutputs: R370 to R373, R377 to R382: a load strobe whose instant has come replaces each enabled output's set in force by its staged
one; a strobe crosses the Keel; a range hold runs out; an NCO sample is formed and the accumulator advances; tracking steps; while PLL-T
is not locked there are no samples. MonitorResults: R385 to R389: the first periods of a slot are discarded; then a raw result is
corrected, numbered and shown in the input's last result. The model's choices it rests on: log entries 91, 92, 93, 94, 95. -/
def Obligations.TonesAndMonitor : Prop :=
  (-- ToneOutputs
   ∀ (s : State) (sd : SideId) (o : Fin 2) (ready : Bool) (t e k : Nat) (cs : List (SideId × Nat))
       (rest : List (Nat × List (SideId × Nat))) (msgs : List (SideId × KeelMsg)) (v : ToneSet),
     let x := s.side sd
     let u := x.toneOf o.val
     let en := x.on (if o.val = 0 then TONE_CFG.EN0 else TONE_CFG.EN1)
     let locked := x.on PLL_STAT.T_LOCK
     (x.strobe.due = [] → exec (.loadStrobe sd) s = .next s)
     ∧ (x.strobe.due = (t, cs) :: rest → x.now < t → exec (.loadStrobe sd) s = .next s)
     ∧ (x.strobe.due = (t, []) :: rest → t ≤ x.now → x.tone.length = 2 → Does (.loadStrobe sd) s (fun z =>
         let y := z.side sd
         y.strobe.due = rest ∧ y.pair TONE_LAST_STB_LO.whole.idx = t % 2 ^ 72
           ∧ (locked = true → en = true → u.staged = some v → (y.toneOf o.val).force = some v ∧ (y.toneOf o.val).staged = none
             ∧ (y.toneOf o.val).acc = (if v.clr then 0 else u.acc) ∧ (y.toneOf o.val).strobed = true)
           ∧ (locked = true → en = true → u.staged = none → u.pll = false → y.toneOf o.val = { u with strobed := true })
           ∧ (locked = false → y.toneOf o.val = u)))
     ∧ (s.keel.msgs = (sd, .strobeReq t) :: msgs → exec .strobeDistribution s = .next
         ((({ s with keel := { s.keel with msgs := msgs ++ [(sd.other, .strobe t)] } } : State)).mod sd (fun x => x.dueStrobe t [])))
     ∧ (s.keel.msgs = (sd, .strobe t) :: msgs → x.strobe.reqs = [] → exec .strobeDistribution s = .next
         ((({ s with keel := { s.keel with msgs := msgs } } : State)).mod sd (fun x => x.dueStrobe t [])))
     ∧ (u.hold = some e → e ≤ x.now → exec (.rangeSettled sd o) s
         = .next (s.mod sd (fun x => (x.setTone o.val { u with hold := none }).toneFlags o.val)))
     ∧ (u.hold = none → exec (.rangeSettled sd o) s = .next s)
     ∧ (locked = false → exec (.dacSample sd o ready) s = .next s ∧ exec (.trackingStep sd o) s = .next s)
     ∧ (locked = true → u.force = none → exec (.dacSample sd o ready) s = .next (s.mod sd (fun x => x.setTone o.val { u with code := 0 }))
         ∧ exec (.trackingStep sd o) s = .next s)
     ∧ (locked = true → u.force = some v → v.mode = 1 → x.tone.length = 2 →
         exec (.trackingStep sd o) s = .next s
         ∧ (en = false → exec (.dacSample sd o ready) s = .next (s.mod sd (fun x => x.setTone o.val { u with code := 0 })))
         ∧ (en = true → Does (.dacSample sd o ready) s (fun z =>
           let c := rheP (toneSin ((u.acc / 2 ^ 24 + v.phase * 2 ^ 8) % 2 ^ 24) * v.amp) 20
           (z.side sd).toneOf o.val = { u with
             acc := (u.acc + v.freq) % 2 ^ 48, code := if x.toneMuted o.val then 0 else max (-8192) (min 8191 c) }
           ∧ (c < -8192 ∨ 8191 < c → (z.side sd).on (TONE_STAT.SAT_SEEN o.val) = true))))
     ∧ (locked = true → u.force = some v → v.mode = 2 → u.trkK0 = some k → x.on (FE_STAT.RUNNING v.trk.n) = true →
         let fe := x.feOf v.trk
         let b := x.tSample v.trk (fe.m0 + x.frameAfter v.trk (u.trkT + 1) * fe.gridStep)
         (b ≤ x.now → exec (.trackingStep sd o) s = .next (s.mod sd (fun x => x.setTone o.val { u with trkJ := u.trkJ + 1, trkT := b })))
         ∧ (x.now < b → exec (.trackingStep sd o) s = .next s))) ∧
  (-- MonitorResults
   ∀ (s : State) (sd : SideId) (md : Fin 4) (s1 s0 : BitVec 24) (inTrans : BitVec 8) (i d : Nat) (h0 h1 : Int),
     let x := s.side sd
     let c := Instr.monResult sd md ⟨s1, s0, inTrans⟩
     let sum := x.mon.firSum md.val s1.toInt s0.toInt
     let fits := -8388608 ≤ sum / 16 ∧ sum / 16 < 8388607
     let g := bitsOf (x.calForce (MON_CORR_LO.whole i).idx).toNat 23 0
     let ofs := sx 24 (x.calForce (MON_CORR_HI.whole i).idx).toNat
     let v := fun (raw : Int) => satS 24 (rheP ((raw - ofs) * g) 22)
     let n := lget x.mon.seqs i 0
     -- the response in force, over this period's two outputs and those before them
     (lget x.mon.hist md.val [] = [h0, h1] → sum =
       if x.mon.fir = 0 then 16 * s0.toInt else if x.mon.fir = 2 then 4 * (s0.toInt + s1.toInt + h0 + h1)
       else if x.mon.fir = 3 then 2 * s0.toInt + 6 * s1.toInt + 6 * h0 + 2 * h1 else -2 * s0.toInt + 20 * s1.toInt - 2 * h0)
     ∧ (s.held = true ∨ x.islRuns (srcOf 5 3 0) = false ∨ x.calConverts = true → exec c s = .next s)
     ∧ (s.held = false → x.islRuns (srcOf 5 3 0) = true → x.calConverts = false → md.val ≠ 0 → lget x.mon.cur md.val none = none →
         exec c s = .next s)
     ∧ (s.held = false → x.islRuns (srcOf 5 3 0) = true → x.calConverts = false → lget x.mon.cur md.val none = some i →
         (lget x.mon.drop md.val 0 = d + 1 → md.val ≠ 0 → exec c s = .next (s.mod sd (fun x => { x with mon := { x.mon with
           hist := lset x.mon.hist md.val [s0.toInt, s1.toInt], drop := lset x.mon.drop md.val d } })))
         ∧ (lget x.mon.drop md.val 0 = 0 → i < 16 → x.mon.seqs.length = 16 → Does c s (fun t =>
           (∃ raw : Int, (fits → sum % 16 = 0 → raw = sum / 16) ∧ (fits → raw = sum / 16 ∨ raw = sum / 16 + 1) ∧ -8388608 ≤ raw ∧ raw ≤ 8388607
             ∧ (t.side sd).reg (MON_LAST.whole i).idx = wordN (i * 2 ^ 32 + n % 256 * 2 ^ 24 + ux 24 (v raw)))
           ∧ lget (t.side sd).mon.seqs i 0 = (n + 1) % 256
           ∧ (x.on MON_CFG.BUF_EN = true → (x.get MON_WP.WP + 1) % 2 ^ x.get MON_STAT.LOG2LEN_ACTIVE = x.get MON_RP.RP →
             (t.side sd).get MON_RING_DROP.whole = min (x.get MON_RING_DROP.whole + 1) (2 ^ 36 - 1))))))

/-! ### Memories -/

/-- R293, R294, R316, R317, R319, R322, R324: a block read answers with its words, with zeros where it is poisoned, and with the words as
written where one stored data bit has decayed, which is counted; the scrubber mends such a block, goes on to the next and shows whether it
is behind. The model's choices it rests on: log entries 85, 86. -/
def Obligations.BlockReads : Prop := ∀ (s : State) (sd : SideId) (blk : Nat) (i : Fin 8) (i' : Fin 16) (j : Fin 36) (late : Bool),
  let x := s.side sd
  let sm := x.sram.mem
  let dm := x.dram.mem
  let dataS := (List.range 8).map (fun k => wget sm.words (8 * blk + k))
  let dataD := (List.range 16).map (fun k => wget dm.words (16 * blk + k))
  (2 ^ 21 ≤ blk → exec (.sramRead sd blk blk []) s = .next s)
  ∧ (blk < 2 ^ 21 → aget sm.flips blk = none → (∀ e ∈ sm.buf, e.blk ≠ blk) →
      (aget sm.poison blk = none → exec (.sramRead sd blk blk []) s = .next (s.setRd dataS))
      ∧ (aget sm.poison blk = some () → exec (.sramRead sd blk blk []) s = .next (s.setRd (List.replicate 8 0)))
      ∧ (aget sm.poison blk = none → Does (.sramRead sd blk blk [(i, Fin.castLE (by decide) j)]) s (fun t =>
        t.rd = dataS ∧ (t.side sd).get SRAM_CORR.whole = min (x.get SRAM_CORR.whole + 1) (2 ^ 36 - 1)
          ∧ (t.side sd).sram.mem.words = sm.words ∧ aget (t.side sd).sram.mem.flips blk = some [(i.val, j.val)])))
  ∧ (x.dram.extent / 16 ≤ blk ∨ x.on (DRAM_STAT.SR (x.dramChan blk).1) = true → exec (.dramRead sd blk blk []) s = .next s)
  ∧ (blk < x.dram.extent / 16 → x.on (DRAM_STAT.SR (x.dramChan blk).1) = false → aget dm.flips blk = none → (∀ e ∈ dm.buf, e.blk ≠ blk) →
      (aget dm.poison blk = none → exec (.dramRead sd blk blk []) s = .next (s.setRd dataD))
      ∧ (aget dm.poison blk = some () → exec (.dramRead sd blk blk []) s = .next (s.setRd (List.replicate 16 0)))
      ∧ (aget dm.poison blk = none → Does (.dramRead sd blk blk [(i', Fin.castLE (by decide) j)]) s (fun t =>
        t.rd = dataD ∧ (t.side sd).dram.mem.words = dm.words ∧ aget (t.side sd).dram.mem.flips blk = some [(i'.val, j.val)])))
  ∧ (x.on SCRUB_CFG.SRAM_EN = false → exec (.scrubBlock sd false [] late) s = .next s)
  ∧ (x.on SCRUB_CFG.SRAM_EN = true → x.sram.scrubS = blk → aget sm.flips blk = none → aget sm.poison blk = none → (∀ e ∈ sm.buf, e.blk ≠ blk) →
      (blk + 1 < 2 ^ 21 → exec (.scrubBlock sd false [] late) s = .next (s.mod sd (fun x =>
        { x.put SCRUB_STAT.BEHIND late with sram := { x.sram with scrubS := blk + 1 } }))
        ∧ (wordsWf sm.words = true → x.on SCRUB_CFG.AUTO_REPAIR = false →
          Does (.scrubBlock sd false [(Fin.castLE (by decide) i, Fin.castLE (by decide) j)] late) s (fun t =>
            (t.side sd).sram.mem.words = sm.words ∧ aget (t.side sd).sram.mem.flips blk = none
              ∧ (t.side sd).get SRAM_CORR.whole = min (x.get SRAM_CORR.whole + 1) (2 ^ 36 - 1) ∧ (t.side sd).sram.scrubS = blk + 1)))
      ∧ (blk + 1 = 2 ^ 21 → Does (.scrubBlock sd false [] late) s (fun t => (t.side sd).sram.scrubS = 0
        ∧ (t.side sd).get SCRUB_STAT.SRAM_PASSES = min (x.get SCRUB_STAT.SRAM_PASSES + 1) (2 ^ 18 - 1))))
  ∧ (x.on SCRUB_CFG.DRAM_EN = false → exec (.scrubBlock sd true [] late) s = .next s)
  ∧ (x.on SCRUB_CFG.DRAM_EN = true → blk + 1 < x.dram.extent / 16 → x.sram.scrubD = blk → x.on (DRAM_STAT.SR (x.dramChan blk).1) = true →
      Does (.scrubBlock sd true [] late) s (fun t => (t.side sd).on SCRUB_STAT.SR_SKIP = true ∧ (t.side sd).dram = x.dram
        ∧ (t.side sd).sram = { x.sram with scrubD := blk + 1 }))

/-- R296, R305 to R307, R310, R312, R318: a word that has waited is merged into its block; refreshes are owed, issued, broken and doubled; a
lane's delay follows its drift by a tap; a rate switch ends. R301: a port enters panic at PANIC_ON and leaves it at PANIC_OFF. The
model's choices it rests on: log entries 84, 88, 139. -/
def Obligations.MemoryUpkeep : Prop := ∀ (s : State) (sd : SideId) (dc : Fin 4) (sub : Fin 2) (hot inTrans cox : Bool) (levels : List (Fin 3 × BitVec 16))
    (waits : BitVec 5) (blk i : Nat) (w : Word) (port : Fin 8) (src : Nat) (lane : Fin 20) (d : Int),
  let x := s.side sd
  let mk := if cox then MemSel.cox else .sram
  let sm := x.memOf mk
  let filled := fun (x : Side) => levels.foldl (fun x l => x.portLevel (2 + l.1.val) l.2.toNat) x
  let panic := ∃ q < 5, lget (filled x).dram.panic q false = true ∧ bitAt waits.toNat q = true
  let owed := if sub.val = 0 then DRAM_STAT.OWED0 dc.val else DRAM_STAT.OWED1 dc.val
  let p := x.get owed
  let live := x.on (DRAM_STAT.TRAINED dc.val) = true ∧ x.on (DRAM_STAT.SR dc.val) = false
  let k := 2 * dc.val + sub.val
  let r := lget x.dram.ref k ⟨false, false⟩
  -- buffers
  ((∀ e ∈ sm.buf, e.blk ≠ blk) → exec (.mergeTimeout sd ⟨cox, blk⟩) s = .next s)
  ∧ ((∀ e ∈ x.dram.mem.buf, e.blk ≠ blk ∨ e.src ≠ port.val) ∨ x.on (DRAM_STAT.SR (x.dramChan blk).1) = true → exec (.gatherTimeout sd ⟨port, blk⟩) s = .next s)
  ∧ (sm.buf = [⟨blk, src, [(i, w)]⟩] → i < 8 → aget sm.flips blk = none → aget sm.poison blk = none → x.get FAULT_INJ.MODE = 0 →
      wordsWf sm.words = true → Does (.mergeTimeout sd ⟨cox, blk⟩) s (fun t =>
        let tm := (t.side sd).memOf mk
        tm.buf = [] ∧ wget tm.words (8 * blk + i) = w ∧ (∀ a, a ≠ 8 * blk + i → wget tm.words a = wget sm.words a)
          ∧ (t.side sd).dram = x.dram ∧ (t.side sd).regs = x.regs ∧ (t.side sd).memOf (if cox then .sram else .cox) = x.memOf (if cox then .sram else .cox)))
  ∧ (x.dram.mem.buf = [⟨blk, port.val, [(i, w)]⟩] → x.on (DRAM_STAT.SR (x.dramChan blk).1) = false → i < 16 → aget x.dram.mem.flips blk = none → aget x.dram.mem.poison blk = none →
      x.get FAULT_INJ.MODE = 0 → wordsWf x.dram.mem.words = true → Does (.gatherTimeout sd ⟨port, blk⟩) s (fun t =>
        (t.side sd).dram.mem.buf = [] ∧ wget (t.side sd).dram.mem.words (16 * blk + i) = w
          ∧ (∀ a, a ≠ 16 * blk + i → wget (t.side sd).dram.mem.words a = wget x.dram.mem.words a) ∧ (t.side sd).sram = x.sram ∧ (t.side sd).regs = x.regs))
  -- refresh
  ∧ (∀ q : Fin 5, x.dram.panic.length = 5 → ∀ n, lget (x.portLevel q.val n).dram.panic q.val false
      = if x.get (DRAM_PANIC.ON q.val) ≤ n then true else if n ≤ x.get (DRAM_PANIC.OFF q.val) then false else lget x.dram.panic q.val false)
  ∧ (¬live → exec (.refreshDue sd dc sub ⟨levels, waits⟩ inTrans) s = .next (s.mod sd filled) ∧ exec (.refreshIssue sd dc sub) s = .next s
      ∧ exec (.mr4Read sd dc sub ⟨hot, inTrans⟩) s = .next s ∧ exec (.dqsOsc sd dc sub [(lane, d)]) s = .next s)
  ∧ (live → p < 3 → Does (.refreshDue sd dc sub ⟨levels, waits⟩ inTrans) s (fun t =>
      (panic ∨ inTrans = true → (t.side sd).get owed = p + 1) ∧ (¬panic → inTrans = false → (t.side sd).get owed = p)
        ∧ (t.side sd).get DRAM_REF_DEFICIT.whole = x.get DRAM_REF_DEFICIT.whole
        ∧ (t.side sd).get DRAM_BURST_BREAK.whole = x.get DRAM_BURST_BREAK.whole))
  ∧ (live → p = 3 → Does (.refreshDue sd dc sub ⟨levels, waits⟩ inTrans) s (fun t =>
      (t.side sd).get owed = 3 ∧ (t.side sd).get DRAM_REF_DEFICIT.whole = min (x.get DRAM_REF_DEFICIT.whole + 1) (2 ^ 36 - 1)
        ∧ (t.side sd).get DRAM_BURST_BREAK.whole = min (x.get DRAM_BURST_BREAK.whole + if inTrans then 1 else 0) (2 ^ 36 - 1)))
  ∧ (live → Does (.refreshIssue sd dc sub) s (fun t => (t.side sd).get owed = p - 1))
  ∧ (live → x.dram.ref.length = 8 → p ≤ 3 → Does (.mr4Read sd dc sub ⟨hot, inTrans⟩) s (fun t =>
      lget (t.side sd).dram.ref k ⟨false, false⟩ = ⟨hot, hot || x.boardHot⟩
        ∧ (r.doubled = false → hot || x.boardHot → (t.side sd).get owed = min (2 * p) 3 ∧ (t.side sd).on (DRAM_STAT.REF2X dc.val) = true
          ∧ (t.side sd).get DRAM_BURST_BREAK.whole = min (x.get DRAM_BURST_BREAK.whole + if 2 ≤ p ∧ inTrans = true then 1 else 0) (2 ^ 36 - 1))
        ∧ (r.doubled = true → (hot || x.boardHot) = false → (t.side sd).get owed = (p + 1) / 2)
        ∧ (r.doubled = (hot || x.boardHot) → (t.side sd).regs = x.regs)))
  -- drift
  ∧ (live → x.dram.drift.length = 8 →
      let v := lget (lget x.dram.drift k []) lane.val 0 + max (-1) (min 1 d)
      (-8 ≤ v → v ≤ 8 → Does (.dqsOsc sd dc sub [(lane, d)]) s (fun t =>
        lget (lget (t.side sd).dram.drift k []) lane.val 0 = v ∧ (t.side sd).regs = x.regs))
      ∧ (v < -8 ∨ 8 < v → Does (.dqsOsc sd dc sub [(lane, d)]) s (fun t => (t.side sd).dram = x.dram)))
  -- the rate switch
  ∧ (x.dram.fcBusy = false → exec (.fcDone sd) s = .next s)
  ∧ (x.dram.fcBusy = true → (∀ e ∈ x.dram.mem.buf, e.words.length ≠ 16) → (∀ c ∈ x.host.staged, memWaits ∉ c.awaits) → Does (.fcDone sd) s (fun t =>
      let y := t.side sd
      y.dram = { x.dram with fcBusy := false } ∧ y.on PLL_STAT.M_LOCK = true ∧ y.on DRAM_CFG.ALT_SEL = !x.on DRAM_CFG.ALT_SEL
        ∧ y.on DRAM_LP_CTRL.FC_DONE = true ∧ y.on (DRAM_STAT.SR dc.val) = (bitAt (x.get DRAM_LP_CTRL.SR_REQ) dc.val && x.on (DRAM_STAT.SR dc.val))
        ∧ y.clk.m = [x.get PLL_LOCK_CFG.WIN_M, x.get PLL_LOCK_CFG.NC_M] ∧ y.clk.mLost = false))

/-! ### Faults -/

/-- FaultReports: R409 to R417: what a collector does with a report. One of an island's checkers is logged with the next sequence number in
history and, the first of its kind, as the first fault; an island whose report is Contained is quarantined, one that makes the side fatal
stops it; a running core halts; a repeated report is only counted; a broken wire is logged once, until it reads valid again. FaultSharing: R418, R419: a side's
summary goes to the other side, and a Device-fatal state is shared; an expired watchdog makes the device fatal and stops ALIVE, which
toggles while it runs. The model's choices it rests on: log entries 98, 99, 101, 113, 138. -/
def Obligations.FaultCollection : Prop :=
  (-- FaultReports
   ∀ (s : State) (sd : SideId) (r : FaultRep) (cls : FaultClass) (src : SourceId) (chk : BitVec 8) (rails : BitVec 2)
       (passed : Nat) (loading : Bool),
     let x := s.side sd
     let l := r.src.toNat % 2 ^ 15
     let seq := x.get FAULT_HIST_WP.whole % 16384
     let e := seq % 32
     let c := reportClass l r.cls.code
     let logged := fun (t : State) (c syn : Nat) =>
       let y := t.side sd
       y.get FAULT_HIST_WP.whole = (x.get FAULT_HIST_WP.whole + 1) % 2 ^ 36
         ∧ y.pair (FAULT_HIST_LO.whole e).idx = x.now
         ∧ y.reg (FAULT_HIST_W2.whole e).idx = wordN (c * 2 ^ 33 + seq * 2 ^ 16 + x.src l) ∧ y.reg (FAULT_HIST_W3.whole e).idx = wordN syn
         ∧ (x.on FAULT_STAT.FIRST_VALID = true → y.reg FAULT_FIRST_W2.whole.idx = x.reg FAULT_FIRST_W2.whole.idx)
         ∧ (x.on FAULT_STAT.FIRST_VALID = false → x.get FAULT_CFG.FIRST_MIN ≤ c → y.on FAULT_STAT.FIRST_VALID = true
           ∧ y.reg FAULT_FIRST_W2.whole.idx = wordN (c * 2 ^ 33 + seq * 2 ^ 16 + x.src l) ∧ y.pair FAULT_FIRST_LO.whole.idx = x.now)
     let heard := s.held = false ∧ isReporter l = true ∧ x.masked l = false
     let plain := seatOfSrc l = none ∧ coreOfSrc l = none
     let l' := src.toNat % 2 ^ 15
     let c' := max 2 (reportClass l' cls.code)
     (¬heard → exec (.faultReport sd r) s = .next s)
     ∧ (heard → r.again = true → exec (.faultReport sd r) s = .next (s.mod sd (fun x => x.inc FAULT_LOST.whole)))
     ∧ (heard → r.again = false → x.get FAULT_INJ.MODE = 0 → plain → c < 3 → Does (.faultReport sd r) s (fun t =>
         logged t c (if ownChapter l then r.syn.toNat else r.chk.toNat) ∧ t.side sd.other = s.side sd.other
           ∧ (c = 2 → ownChapter l = false → (t.side sd).islRuns (islandOfSrc l) = false)
           ∧ ((c ≠ 2 ∨ ownChapter l = true) → (t.side sd).isl = x.isl)))
     ∧ (heard → r.again = false → x.get FAULT_INJ.MODE = 0 → plain → 3 ≤ c → Does (.faultReport sd r) s (fun t =>
         (t.side sd).pwr.fatal = true ∧ (t.side sd).on (if c = 4 then FAULT_STAT.DEV_FATAL else FAULT_STAT.SIDE_FATAL) = true
           ∧ (t.side sd).on KEEL_COX_STAT.COX_HELD = (x.on KEEL_COX_STAT.COX_HELD && x.pwr.fatal)))
     ∧ (∀ k < 4, heard → r.again = false → x.get FAULT_INJ.MODE = 0 → l = srcOf 5 1 (16 + k) → x.cores.length = 4 →
         ((x.coreOf k).st = 0 → Does (.faultReport sd r) s (fun t => (t.side sd).regs = x.regs ∧ (t.side sd).cores = x.cores))
         ∧ ((x.coreOf k).st ≠ 0 → Does (.faultReport sd r) s (fun t => ((t.side sd).coreOf k).st = 0 ∧ ((t.side sd).coreOf k).cause = 3
           ∧ logged t 2 (3 * 2 ^ 13 + (x.coreOf k).pc % 2 ^ 13))))
     ∧ (s.held = true ∨ isReporter l' = false ∨ x.masked l' = true ∨ ((l', chk.toNat) ∈ x.col.broken ∧ rails ≠ 1 ∧ rails ≠ 2) →
         exec (.wireBroken sd cls src chk ⟨rails, passed, loading⟩) s = .next s)
     ∧ (s.held = false → isReporter l' = true → x.masked l' = false → rails = 1 ∨ rails = 2 → exec (.wireBroken sd cls src chk ⟨rails, passed, loading⟩) s
         = .next (s.mod sd (fun x => { x with col := { x.col with broken := x.col.broken.erase (l', chk.toNat) } })))
     ∧ (∀ k < 4, s.held = false → isReporter l' = true → x.masked l' = false → (l', chk.toNat) ∉ x.col.broken → rails = 0 ∨ rails = 3 →
         l' = srcOf 5 1 (16 + k) → x.cores.length = 4 → (x.coreOf k).st ≠ 0 → Does (.wireBroken sd cls src chk ⟨rails, passed, loading⟩) s (fun t =>
           ((t.side sd).coreOf k).st = 0 ∧ ((t.side sd).coreOf k).cause = 3))
     ∧ (s.held = false → isReporter l' = true → x.masked l' = false → (l', chk.toNat) ∉ x.col.broken → rails = 0 ∨ rails = 3 → c' = 2 →
         seatOfSrc l' = none → coreOfSrc l' = none → Does (.wireBroken sd cls src chk ⟨rails, passed, loading⟩) s (fun t =>
           (t.side sd).col.broken = (l', chk.toNat) :: x.col.broken
             ∧ (t.side sd).get FAULT_CNT_WIRE.whole = min (x.get FAULT_CNT_WIRE.whole + 1) (2 ^ 36 - 1)
             ∧ (t.side sd).reg (FAULT_HIST_W3.whole e).idx = wordN (chk.toNat * 2 ^ 8 + rails.toNat)
             ∧ (ownChapter l' = false → (t.side sd).islRuns (islandOfSrc l') = false)))) ∧
  (-- FaultSharing
   ∀ (s : State) (sd : SideId) (w n : Nat) (rest : List (SideId × KeelMsg)),
     let x := s.side sd
     let v := x.summary
     (s.keel.up = false → exec (.faultSummarySend sd) s = .next s)
     ∧ (s.keel.up = true → x.isCox = false → exec (.faultSummarySend sd) s
         = .next { s with keel := { s.keel with msgs := s.keel.msgs ++ [(sd.other, .summary v.1 v.2.1 v.2.2)] } })
     ∧ (s.keel.up = true → x.isCox = true → exec (.faultSummarySend sd) s
         = .next (({ s with keel := { s.keel with msgs := s.keel.msgs ++ [(sd.other, .summary v.1 v.2.1 v.2.2)] } } : State).mod sd (fun x =>
           x.set (if sd = .stroke then FAULT_SUMMARY.STROKE else FAULT_SUMMARY.BOW)
             (2 ^ 17 + v.1 * 2 ^ 14 + (if v.2.2 = 0 then 0 else 2 ^ 13) + min v.2.1 63 * 2 ^ 7))))
     ∧ (s.keel.msgs = [] → exec (.faultSummary sd) s = .next s)
     ∧ (s.keel.msgs = (sd, .summary w n 0) :: rest → x.isCox = false → exec (.faultSummary sd) s
         = .next (({ s with keel := { s.keel with msgs := rest } } : State).mod sd (fun x => { x with col := { x.col with told := 0 } })))
     ∧ (s.keel.msgs = (sd, .summary w n 2) :: rest → Does (.faultSummary sd) s (fun t => (t.side sd).on FAULT_STAT.DEV_FATAL = true ∧ (t.side sd).col.told = 2))
     ∧ (s.held = true ∨ x.get INIT_STAT.PHASE = 0 → exec (.watchdogExpiry sd) s = .next s ∧ exec (.aliveToggle sd) s = .next s)
     ∧ (s.held = false → x.get INIT_STAT.PHASE ≠ 0 → Does (.watchdogExpiry sd) s (fun t =>
         (t.side sd).on FAULT_STAT.WD_EXPIRED = true ∧ (t.side sd).on FAULT_STAT.DEV_FATAL = true ∧ (t.side sd).on FAULT_STAT.ALIVE_RUN = false
           ∧ (t.side sd).pwr.fatal = true))
     ∧ (s.held = false → x.get INIT_STAT.PHASE ≠ 0 →
         (x.on FAULT_STAT.ALIVE_RUN = true → exec (.aliveToggle sd) s = .next (s.mod sd (fun x => { x with col := { x.col with alive := !x.col.alive } })))
         ∧ (x.on FAULT_STAT.ALIVE_RUN = false → exec (.aliveToggle sd) s = .next s)))

/-! ### Scan-out -/

/-- R422 to R425, R431 to R436, R438: vertical blanking counts the frame and dates it, and a commit that waits is copied into force or
refused; a line is composed of the layers that show, and of the background from where it is late; a restarted generator runs; a plugged
sink is trained at the first setting that works, an unplugged one loses the link. The model's choices it rests on: log entries 116, 117. -/
def Obligations.ScanOutEvents : Prop := ∀ (s : State) (sd : SideId) (ready : BitVec 13) (ov : Option (List (BitVec 32))) (sink : DpSink) (p : Nat × Nat)
    (st : Staged),
  let x := s.side sd
  let runs := x.on SO_CTRL.EN = true ∧ x.so.run = true ∧ x.islRuns (srcOf 4 3 0) = true
  let n := x.soForce SO_HTIM.H_ACTIVE
  let bpc := x.soForce SO_LINK.BPC
  let fits := carries (x.soForce SO_PCLK.PCLK_KHZ) bpc p.1 p.2
  let first := dpFirst sink (x.soForce SO_LINK.LANES) (x.soForce SO_LINK.RATE)
  let bg := outColour bpc (x.soForce SO_BG.BG)
  let plot := fun px => x.soForce SO_PLOT_X.PX0 ≤ px ∧ px < x.soForce SO_PLOT_X.PX0 + x.soForce SO_PLOT_X.PW
    ∧ x.soForce SO_PLOT_Y.PY0 ≤ x.so.line ∧ x.so.line < x.soForce SO_PLOT_Y.PY0 + x.soForce SO_PLOT_Y.PH
  let yp := x.soForce SO_PLOT_Y.PY0 + x.soForce SO_PLOT_Y.PH - 1 - x.so.line
  let trained := fun (y : Side) => y.so.sink = some sink ∧ (first = some p → y.get SO_LINK_ACT.LANES = p.1 ∧ y.get SO_LINK_ACT.RATE = p.2
    ∧ y.on SO_STAT.LINK_UP = fits ∧ y.on SO_STAT.NO_FIT = !fits)
      ∧ (first = none → y.on SO_STAT.LINK_UP = false ∧ y.on SO_STAT.LINK_FAIL = true ∧ y.get SO_LINK_ACT.LANES = 0 ∧ y.get SO_LINK_ACT.RATE = 0)
  -- vertical blanking
  (¬runs → exec (.vblank sd) s = .next s)
  ∧ (runs → Does (.vblank sd) s (fun t => (t.side sd).get SO_FRAME.whole = (x.get SO_FRAME.whole + 1) % 2 ^ 36
      ∧ (x.host.staged = [] → (t.side sd).pair SO_VBL_TIME_LO.whole.idx = x.now ∧ (t.side sd).so.line = 0 ∧ (t.side sd).so.blank = true)
      ∧ (t.side sd).on SO_STAT.PENDING = false
      ∧ (x.host.staged = [] → x.on SO_STAT.PENDING = false → (t.side sd).so.force = x.so.force)
      ∧ (x.host.staged = [] → x.on SO_STAT.PENDING = true → x.soBad = false →
        (t.side sd).so.force = soShadows.map (fun i => (i, x.reg i)) ∧ (t.side sd).so.pal = x.so.palS)
      ∧ (x.host.staged = [] → x.on SO_STAT.PENDING = true → x.soBad = true →
        (t.side sd).so.force = x.so.force ∧ (t.side sd).on SO_STAT.CFG_REFUSED = true)
      ∧ (x.on SO_STAT.PENDING = true → x.host.staged = [st] → st.op = 0x70 → st.running = true → t.answered sd st
        (if x.soBad then 0x2002 else if lget st.aux 1 0 = 1 then 0x1007 else 0) x.now (((x.get SO_FRAME.whole + 1) % 2 ^ 36 : Nat)) 0)))
  -- lines
  ∧ (x.on SO_CTRL.EN = false ∨ x.islRuns (srcOf 4 3 0) = false ∨ x.soForce SO_VTIM.V_ACTIVE ≤ x.so.line → exec (.lineCompose sd ready ov) s = .next s)
  ∧ (x.on SO_CTRL.EN = true → x.islRuns (srcOf 4 3 0) = true → x.so.line < x.soForce SO_VTIM.V_ACTIVE → x.soForce SO_OV.O_EN = 0 →
      x.soForce SO_WF.W_EN = 0 → x.soForce SO_DENS.D_EN = 0 → Does (.lineCompose sd ready ov) s (fun t =>
        let y := t.side sd
        y.so.line = x.so.line + 1 ∧ (∃ row, y.so.pix = (row :: x.so.pix).take 2 ∧ row.length = n
          ∧ (∀ px, px < n → ready.toNat ≤ px → row[px]? = some bg)
          ∧ (∀ px, px < n → px < ready.toNat → ¬plot px → row[px]? = some bg)
          ∧ (∀ px, px < n → px < ready.toNat → plot px → row[px]? = some (outColour bpc ((List.range 8).foldl (fun c i =>
            if x.onTrace i (px - x.soForce SO_PLOT_X.PX0) yp then x.soForce (SO_TCOL.TCOL i) else c) (x.soForce SO_BG.BG)))))
        ∧ (ready.toNat < n → x.so.idle = 0 → y.get SO_UNDERRUN.whole = min (x.get SO_UNDERRUN.whole + 1) (2 ^ 36 - 1)
          ∧ y.on SO_STAT.UNDERRUN_SEEN = true)
        ∧ (n ≤ ready.toNat → y.regs = x.regs)))
  -- an overlay in host memory needs the host path (R437)
  ∧ (x.soForce SO_OV.O_HOST = 1 → s.dmaOpen sd = false ∨ (s.side (s.endpoint sd)).on HOST_STAT.LINK_UP = false →
      exec (.lineCompose sd ready ov) s = exec (.lineCompose sd ready none) s)
  ∧ (x.so.relock = true → x.on SO_CTRL.EN = true → exec (.timingRestart sd) s = .next (s.mod sd (fun x =>
      { x with so := { x.so with run := true, relock := false, blank := false } })))
  ∧ (x.so.relock = false ∨ x.on SO_CTRL.EN = false → exec (.timingRestart sd) s = .next s)
  -- the link
  ∧ (s.held = true ∨ x.islRuns (srcOf 4 3 1) = false → exec (.hpdPlug sd sink) s = .next s)
  ∧ (s.held = false → x.islRuns (srcOf 4 3 1) = true → Does (.hpdPlug sd sink) s (fun t => trained (t.side sd) ∧ (t.side sd).on SO_STAT.HPD = true))
  ∧ (x.on SO_STAT.HPD = false → exec (.hpdUnplug sd) s = .next s ∧ ∀ b, exec (.irqHpd sd b sink) s = .next s)
  ∧ (exec (.irqHpd sd false sink) s = .next s)
  ∧ (x.on SO_STAT.HPD = true → x.islRuns (srcOf 4 3 1) = true → Does (.irqHpd sd true sink) s (fun t => trained (t.side sd)))
  ∧ (x.on SO_STAT.HPD = true → Does (.hpdUnplug sd) s (fun t => (t.side sd).so.sink = none ∧ (t.side sd).on SO_STAT.HPD = false
      ∧ (t.side sd).on SO_STAT.LINK_UP = false ∧ (t.side sd).on SO_STAT.NO_FIT = false ∧ (t.side sd).get SO_LINK_ACT.LANES = 0))

/-! ### Resets, start-up, SMBus and the test access port -/

/-- PackageResets: R444, R445: RESET_N low or a rail out of range resets both dies, host memory and the messages sent standing; they leave
reset when both are good, with the straps in their registers and the cause of the reset. StartUp: R249, R325, R357, R447, R450, R451,
R455: each phase of start-up that succeeds leads to the next and the last to READY, one that fails stops it with its code; a side reset
keeps the side's history and epoch and starts at phase 1; a map-out ends with the new extent. The model's choices it rests on: log entries
5, 9, 107, 108. -/
def Obligations.ResetAndStartUp : Prop :=
  (-- PackageResets
   ∀ (s : State) (coxpref bootsrc : Bool) (sd : SideId),
     let cold := fun (x : Side) => { Side.init x.who with host := { (Side.init x.who).host with nextId := x.host.nextId, mem := x.host.mem, msi := x.host.msi } }
     let reset := { s with stroke := cold s.stroke, bow := cold s.bow, keel := Keel.init }
     let left := fun (t : State) => ∀ i, (t.side i).on RESET_STAT.COXPREF = t.pkg.coxpref ∧ (t.side i).on KEEL_COX_STAT.COXPREF = t.pkg.coxpref
       ∧ (t.side i).on RESET_STAT.BOOTSRC = t.pkg.bootsrc ∧ (t.side i).get RESET_STAT.CAUSE = t.pkg.cause % 8 ∧ (t.side i).fe = (s.side i).fe
     (s.pkg.resetN = true → exec .resetN s = .next s)
     ∧ (s.pkg.resetN = false → exec .resetN s
         = .next { reset with pkg := { s.pkg with resetN := true, cause := if s.pkg.railOk then 1 else s.pkg.cause } })
     ∧ (exec .railOutOfRange s = .next { reset with pkg := { s.pkg with railOk := false, cause := if s.pkg.resetN then s.pkg.cause else 3 } })
     ∧ (s.pkg.resetN = false → exec (.resetNRelease coxpref bootsrc) s = .next s)
     ∧ (s.pkg.resetN = true → s.pkg.railOk = false → exec (.resetNRelease coxpref bootsrc) s
         = .next { s with pkg := { s.pkg with resetN := false, coxpref := coxpref, bootsrc := bootsrc } })
     ∧ (s.pkg.resetN = true → s.pkg.railOk = true → Does (.resetNRelease coxpref bootsrc) s (fun t =>
         t.pkg = { s.pkg with resetN := false, coxpref := coxpref, bootsrc := bootsrc } ∧ t.held = false ∧ left t ∧ t.keel = s.keel))
     ∧ (s.pkg.railOk = true → exec .railValid s = .next s)
     ∧ (s.pkg.railOk = false → s.pkg.resetN = true → exec .railValid s = .next { s with pkg := { s.pkg with railOk := true } })
     ∧ (s.pkg.railOk = false → s.pkg.resetN = false → Does .railValid s (fun t =>
         t.pkg = { s.pkg with railOk := true } ∧ t.held = false ∧ left t ∧ (t.side sd).host = (s.side sd).host))) ∧
  (-- StartUp
   ∀ (s : State) (sd : SideId) (r : InitResult) (ref100 : Bool) (images : List (List Word)) (runs : List CalRuns),
     let x := s.side sd
     let phase := x.get INIT_STAT.PHASE
     let begun := s.held = false ∧ x.on INIT_STAT.READY = false ∧ x.on INIT_STAT.FAILED = false
     let fails := fun (r : InitResult) (code : Nat) => exec (.initPhase sd r) s
       = .next (s.mod sd (fun x => (x.set INIT_STAT.FAILED 1).set INIT_STAT.FAIL_CODE code))
     (¬begun → exec (.initPhase sd r) s = .next s)
     ∧ (begun → phase = 0 → exec (.initPhase sd .alwaysOn) s = .next (s.mod sd (fun x => x.set INIT_STAT.PHASE 1)))
     ∧ (begun → phase = 1 → fails (.pllLock ref100 false) 1 ∧ Does (.initPhase sd (.pllLock ref100 true)) s (fun t =>
         (t.side sd).get INIT_STAT.PHASE = 2 ∧ (t.side sd).on PLL_STAT.F_LOCK = true ∧ (t.side sd).on PLL_STAT.T_LOCK = true
           ∧ (t.side sd).on PLL_STAT.M_LOCK = true ∧ (t.side sd).on PLL_LOCK_CFG.REF100 = ref100))
     ∧ (begun → phase = 2 → fails (.fuseLoad false) 2 ∧ Does (.initPhase sd (.fuseLoad true)) s (fun t =>
         (t.side sd).get INIT_STAT.PHASE = 3 ∧ (t.side sd).fuse = true ∧ (t.side sd).get AVS_VID.VID ≤ 52))
     ∧ (begun → phase = 3 → fails (.sramFill false) 3 ∧ Does (.initPhase sd (.sramFill true)) s (fun t =>
         (t.side sd).get INIT_STAT.PHASE = 4 ∧ (t.side sd).get INIT_STAT.FILL_PCT = 100 ∧ ∀ a, wget (t.side sd).sram.mem.words a = 0))
     ∧ (begun → phase = 4 → Does (.initPhase sd (.dramTrain none [])) s (fun t =>
         (t.side sd).get INIT_STAT.PHASE = 5 ∧ (t.side sd).dram.chans = [] ∧ (t.side sd).get DRAM_CFG.POP = 0
           ∧ ∀ c < 4, (t.side sd).on (DRAM_STAT.MAPPED_OUT c) = true ∧ (bitAt (x.get DRAM_MAPOUT.KEEP_OUT) c = false →
             (t.side sd).get (DRAM_STAT.OUT_CAUSE c) = 1)))
     ∧ (begun → phase = 5 → Does (.initPhase sd .dramFill) s (fun t =>
         (t.side sd).get INIT_STAT.PHASE = 6 ∧ (t.side sd).dram.extent = 16 * (2 * x.dram.chans.length) * x.dram.subCap
           ∧ ∀ a, wget (t.side sd).dram.mem.words a = 0))
     ∧ (begun → phase = 6 → fails (.calibration true runs) 4 ∧ Does (.initPhase sd (.calibration false runs)) s (fun t => (t.side sd).get INIT_STAT.PHASE = 7))
     ∧ (begun → phase = 7 → Does (.initPhase sd (.coxRelease images)) s (fun t =>
         (t.side sd).get INIT_STAT.PHASE = 8 ∧ (t.side sd).on INIT_STAT.READY = true ∧ (s.pkg.bootsrc = true → (t.side sd).cores = x.cores)))
     -- side reset
     ∧ (s.held = true ∨ x.pwr.resetPend = false → exec (.sideResetAssert sd) s = .next s)
     ∧ (s.held = false → x.pwr.resetPend = true → Does (.sideResetAssert sd) s (fun t =>
         let y := t.side sd
         y.get INIT_STAT.PHASE = 1 ∧ y.on INIT_STAT.READY = false ∧ y.pwr.resetPend = false ∧ y.get RESET_STAT.CAUSE = 2
           ∧ y.get RESET_STAT.SIDE_RESETS = min (x.get RESET_STAT.SIDE_RESETS + 1) 65535
           ∧ y.get FAULT_HIST_WP.whole = x.get FAULT_HIST_WP.whole ∧ y.get KEEL_COX_STAT.EPOCH = x.get KEEL_COX_STAT.EPOCH
           ∧ y.on HOST_STAT.LINK_UP = x.on HOST_STAT.LINK_UP ∧ y.fe = (Side.init sd).fe ∧ y.host.mem = x.host.mem
           ∧ ∀ d ∈ (t.side sd.other).host.staged, d.issuer ≠ sd))
     -- DRAM map-out
     ∧ (x.on DRAM_MAPOUT.BUSY = false → exec (.mapoutDone sd) s = .next s)
     ∧ (x.on DRAM_MAPOUT.BUSY = true → Does (.mapoutDone sd) s (fun t =>
         (t.side sd).on DRAM_MAPOUT.BUSY = false ∧ (t.side sd).on DRAM_MAPOUT.DONE = true
           ∧ (t.side sd).dram = { x.dram with mem := BpcMem.init, extent := 16 * (2 * x.dram.chans.length) * x.dram.subCap, mapout := none })))

/-- R469, R470: SMBus sets its index, reads a register without side effects and goes on to the next, and tells which dies run; the test access
port shifts the boundary register, the identification code and the bypass bit. The model's choices it rests on: log entries 8, 114, 115. -/
def Obligations.SmbusAndTap : Prop := ∀ (s : State) (v : BitVec 24) (shift : List Bool) (code : BitVec 8) (tdi : Bool),
  let p := s.pkg
  let on := p.railOk = true
  let sd : SideId := if p.smbSide then .bow else .stroke
  let next := (p.smbIdx + 1) % 2 ^ 20
  -- AVS_VID is served from phase 2 on
  let served := s.held = false ∧ if p.smbIdx = AVS_VID.whole.idx then 2 ≤ (s.side sd).get INIT_STAT.PHASE else (s.side sd).serves p.smbIdx = true
  let scanned := fun (t : State) (ir : Nat) => t.pkg.tapIr = ir ∧ t.pkg.tdo.length = shift.length
    ∧ (shift.length ≤ 4710 → t.pkg.boundary.drop (4710 - shift.length) = shift) ∧ t.stroke = s.stroke ∧ t.bow = s.bow ∧ t.keel = s.keel
  (¬on → exec (.smbSetIndex v) s = .next s ∧ exec .smbRead s = .next s ∧ exec .smbStatus s = .next s)
  ∧ (on → exec (.smbSetIndex v) s = .next { s with pkg := { p with smbSide := v.toNat / 2 ^ 20 % 2 = 1, smbIdx := v.toNat % 2 ^ 20 } })
  ∧ (on → served → exec .smbRead s
      = .next { s with rd := [(s.side sd).live 11 p.smbIdx], ep := false, pkg := { p with smbIdx := next, smbZero := false } })
  ∧ (on → ¬served → exec .smbRead s
      = .next { s with rd := [0], ep := false, pkg := { p with smbIdx := next, smbZero := true } })
  ∧ (on → exec .smbStatus s = .next { s with rd := [wordN ((if s.held then 0 else 3) + if p.smbZero then 4 else 0)], ep := false })
  ∧ Does (.extest shift) s (fun t => scanned t 0x00) ∧ Does (.samplePreload shift) s (fun t => scanned t 0x01)
  ∧ Does (.extestPulse shift) s (fun t => scanned t 0x08) ∧ Does (.extestTrain shift) s (fun t => scanned t 0x09)
  ∧ Does .idcode s (fun t => t.pkg.tapIr = 0x02 ∧ t.pkg.tdo.length = 32 ∧ (∀ i < 32, t.pkg.tdo[i]? = some ((0x04810F2D : Nat).testBit i))
      ∧ t = { s with pkg := t.pkg })
  ∧ exec .highz s = .next { s with pkg := { p with tapIr := 0x03, bypass := false, tdo := [] } }
  ∧ exec .clamp s = .next { s with pkg := { p with tapIr := 0x04, bypass := false, tdo := [] } }
  ∧ (code.toNat ∉ [0x00, 0x01, 0x02, 0x03, 0x04, 0x08, 0x09] →
      exec (.bypass code tdi) s = .next { s with pkg := { p with tapIr := code.toNat, bypass := tdi, tdo := [false] } })
  ∧ (code.toNat ∈ [0x00, 0x01, 0x02, 0x03, 0x04, 0x08, 0x09] → exec (.bypass code tdi) s = .next s)

/-! ### The block as a whole -/

/-- One step takes the command at the front of the queue and runs it with the rest of the queue. -/
def Obligations.StepTakesFront : Prop := ∀ (s : State) (c : Instr) (rest : List Instr),
  step { s with pending := c :: rest } = exec c { s with pending := rest }

/-- R169, R170, R172, R183, and log entry 1: with an empty queue one DEVCLK edge of both sides passes: each side's accumulator advances by
INC_eff, a committed increment and a load taking effect at the edge; it stands still while the race-time base island does not run, and
nothing happens while the dies are held in reset. A repair in progress ends (log entry 127). -/
def Obligations.IdleIsOneEdge : Prop := ∀ (s : State) (sd : SideId) (v w : Nat),
  let x := s.side sd
  let runs := x.islRuns (srcOf 5 6 0) = true
  s.pending = [] →
    (s.held = true → step s = .next s)
    ∧ (s.held = false → ∃ t, step s = .next t ∧ t.pending = [] ∧ t.keel = s.keel ∧ t.pkg = s.pkg
      ∧ (t.side sd).rt.edges = x.rt.edges + 1 ∧ (t.side sd).rt.f = x.rt.f
      ∧ (t.side sd).on SRAM_REPAIR_STAT.BUSY = false
      ∧ (¬runs → (t.side sd).rt = { x.rt with edges := x.rt.edges + 1 } ∧ (x.on SRAM_REPAIR_STAT.BUSY = false → (t.side sd).regs = x.regs))
      ∧ (runs → x.rt.loadPend = none → x.rt.incPend = none → (x.on SRAM_REPAIR_STAT.BUSY = false → (t.side sd).regs = x.regs) ∧ (t.side sd).rt = { x.rt with
        edges := x.rt.edges + 1
        rta := if x.rt.inc = 0 then x.rt.rta % 2 ^ 96 else (((x.rt.rta : Int) + x.rt.inc + x.rt.f + x.rt.p) % 2 ^ 96).toNat })
      ∧ (runs → x.rt.loadPend = none → x.rt.incPend = some v → (t.side sd).rt.inc = v ∧ (t.side sd).on RT_STAT.RUN = (v != 0)
        ∧ (t.side sd).rt.rta = if v = 0 then x.rt.rta % 2 ^ 96 else (((x.rt.rta : Int) + v + x.rt.f + x.rt.p) % 2 ^ 96).toNat)
      ∧ (runs → x.rt.loadPend = some w → (t.side sd).rt.rta = w % 2 ^ 72 * 2 ^ 24 ∧ (t.side sd).rt.p = 0
        ∧ (t.side sd).on RT_STAT.STEP_SEEN = true))

/-- R26, R28, R35, R170, R446: what reset leaves: both dies held, no register changed from its reset value, the cox epoch 0 and no side
holding cox, race time, INC, F and P zero, memories that list nothing, and an empty queue on which a step changes nothing. The model's
choices it rests on: log entries 5, 6, 8, 12. -/
def Obligations.ResetState : Prop := State.reset.held = true ∧ State.reset.pending = [] ∧ State.reset.keel.up = false ∧ step State.reset = .next State.reset
    ∧ State.reset.canonical = true
    ∧ ∀ sd, let x := State.reset.side sd
      x.who = sd ∧ x.regs = [] ∧ x.on INIT_STAT.READY = false ∧ x.get INIT_STAT.PHASE = 0 ∧ x.get KEEL_COX_STAT.EPOCH = 0
        ∧ x.on KEEL_COX_STAT.COX_HELD = false ∧ x.on KEEL_COX_STAT.KEEL_UP = false ∧ x.on KEEL_COX_STAT.SPLIT_CREW = true
        ∧ x.rt.rta = 0 ∧ x.rt.inc = 0 ∧ x.rt.f = 0 ∧ x.rt.p = 0 ∧ x.on SPLIT_STAT.INVALID = true ∧ x.get FAULT_HIST_WP.whole = 0
        ∧ x.sram.mem = BpcMem.init ∧ x.dram.mem = BpcMem.init ∧ x.coxMem = BpcMem.init ∧ x.host.mem = []
        ∧ (∀ k < 4, (x.coreOf k).st = 0) ∧ x.pwr.fatal = false

/-- Every step keeps the memories of both sides, and host memory, in their canonical form: addresses rising, nothing listed that an unlisted
address reads as. The model's choices it rests on: log entry 12. -/
def Obligations.StepKeepsMemoriesCanonical : Prop := ∀ s t : State, s.canonical = true → step s = .next t → t.canonical = true

/-- R335 to R338, R343: the word that a well-formed core instruction is encoded as decodes to it; what a word decodes to is well-formed and is
encoded as a word that decodes to the same. -/
def Obligations.CoxEncoding : Prop := (∀ (i : Instr) (w : Word), i.wf = true → encodeCox i = some w → ∃ sd c, decodeCox sd c w = some i)
  ∧ (∀ (sd : SideId) (c : Fin 4) (w : Word) (i : Instr), decodeCox sd c w = some i →
      i.wf = true ∧ ∃ w', encodeCox i = some w' ∧ decodeCox sd c w' = some i)

/-- R335, R349: words of each class and what they stand for. -/
def Obligations.CoxWords : Prop := ∀ (sd : SideId) (c : Fin 4),
  let xm : XMove := ⟨true, false, 0, 1, 2⟩
  let ym : YMove := ⟨true, 0, 1, 3⟩
  decodeCox sd c 0x504000000 = some (.clra sd c ⟨1, 0, 0, false, false⟩)
    ∧ decodeCox sd c 0x3E0042513 = some (.nomac sd c ⟨0, 0, 0, xm, ym⟩)
    ∧ decodeCox sd c 0x3891C2513 = some (.macs sd c ⟨1, 2, 3, xm, ym⟩)
    ∧ decodeCox sd c 0x701000105 = some (.loop sd c 256 0x105)
    ∧ decodeCox sd c 0x5259A4000 = some (.stsat sd c ⟨1, 6, 26, false, true⟩)
    ∧ decodeCox sd c 0x004C48000 = some (.add sd c ⟨3, 1, .reg 2⟩)
    ∧ decodeCox sd c 0x108C40005 = some (.sub sd c ⟨3, 1, .imm 5⟩)
    ∧ decodeCox sd c 0x228012345 = some (.movi sd c 2 true 0x12345)
    ∧ decodeCox sd c 0x40AA00000 = some (.ldx sd c 5 (.ind 1 1)) ∧ decodeCox sd c 0x4E2000123 = some (.sty sd c 1 (.dir 0x123))
    ∧ decodeCox sd c 0x614000200 = some (.beqz sd c 4 0x200) ∧ decodeCox sd c 0x6E7000000 = some (.brar sd c 7)
    ∧ decodeCox sd c 0x804CC0400 = some (.ldl sd c ⟨2, 1, true, 3, 0x10⟩)
    ∧ decodeCox sd c 0x90AE00000 = some (.mtc sd c 5 7) ∧ decodeCox sd c 0x9CC200000 = some (.mfc sd c 38 1)
    ∧ decodeCox sd c 0x000000000 = some (.aluNop sd c ⟨0, 0, .reg 0⟩) ∧ decodeCox sd c 0xA00000000 = none

/-- R277: a completion that reaches its issuing side is written unless the command asked for QUIET and its status is OK, in which case none
is. -/
def Obligations.QuietCompletions : Prop := ∀ (x : Side) (ring : Fin 8) (id : Nat) (e : CmdEntry) (en : Entry),
  x.host.staged = [] →
    (e.quiet = true → en.status = 0 → (x.deliver ring id e en).host.compl = x.host.compl)
    ∧ (e.quiet = false ∨ en.status ≠ 0 → (x.deliver ring id e en).host.compl = x.host.compl ++ [⟨x.get (CMDQ_CFG.CQ ring.val), ring, id, e.irqNow, en⟩])

/-- R251: dense packing: n words take ⌈4.5·n⌉ bytes, bit b of word k is bit 36k + b of the bytes as one little-endian number, and with n odd
the high nibble of the last byte is zero. -/
def Obligations.DensePacking : Prop := ∀ ws : List Word,
  let bs := packBytes true ws
  bs.length = (9 * ws.length + 1) / 2
    ∧ (∀ k w, ws[k]? = some w → ∀ b < 36, ∃ y, bs[(36 * k + b) / 8]? = some y ∧ y.getLsbD ((36 * k + b) % 8) = w.getLsbD b)
    ∧ (ws.length % 2 = 1 → ∃ y, bs.getLast? = some y ∧ y.toNat < 16)
end

