-- ==== Sys2Proof/Laws/Bits.lean ====
section
/-! SUPPORT. Laws of bit fields and of the sparse lists that hold memories and registers. -/

namespace Sys2Proof.Machine

/-! ### Sparse lists -/

@[simp] theorem aget_nil {α : Type} (k : Nat) : aget ([] : List (Nat × α)) k = none := rfl

theorem aget_aput_self {α : Type} (l : List (Nat × α)) (k : Nat) (v : α) : aget (aput l k v) k = some v := by
  induction l with
  | nil => simp [aput, aget]
  | cons p r ih =>
    obtain ⟨k', v'⟩ := p
    by_cases h : k' = k
    · simp [aput, aget, h]
    · by_cases h2 : k < k'
      · simp [aput, aget, h, h2]
      · simp [aput, aget, h, h2, ih]

theorem aget_aput_ne {α : Type} (l : List (Nat × α)) (k j : Nat) (v : α) (hj : j ≠ k) : aget (aput l k v) j = aget l j := by
  induction l with
  | nil => simp [aput, aget, hj.symm]
  | cons p r ih =>
    obtain ⟨k', v'⟩ := p
    by_cases h : k' = k
    · subst h; simp [aput, aget, hj.symm]
    · by_cases h2 : k < k'
      · simp only [aput, beq_iff_eq, h, h2, if_true, if_false, aget, hj.symm]
        by_cases h3 : j < k
        · have : j < k' := by omega
          simp [h3, this, show k' ≠ j by omega]
        · simp [h3]
      · simp only [aput, beq_iff_eq, h, h2, if_false, aget, ih]

theorem asorted_tail {α : Type} {a : Nat × α} {r : List (Nat × α)} (h : asorted (a :: r) = true) : asorted r = true := by
  cases r with
  | nil => rfl
  | cons b r => simp only [asorted, Bool.and_eq_true] at h; exact h.2

/-- In a sorted list every later key is above the first. -/
theorem asorted_head_lt {α : Type} {a : Nat × α} {r : List (Nat × α)} (h : asorted (a :: r) = true) : ∀ p ∈ r, a.1 < p.1 := by
  induction r generalizing a with
  | nil => simp
  | cons b r ih =>
    simp only [asorted, Bool.and_eq_true, decide_eq_true_eq] at h
    intro p hp
    rcases List.mem_cons.1 hp with rfl | hp
    · exact h.1
    · exact lt_trans h.1 (ih h.2 p hp)

theorem asorted_cons {α : Type} {a : Nat × α} {r : List (Nat × α)} (h : ∀ p ∈ r, a.1 < p.1) (hr : asorted r = true) : asorted (a :: r) = true := by
  cases r with
  | nil => rfl
  | cons b r => simp only [asorted, Bool.and_eq_true, decide_eq_true_eq]; exact ⟨h b (by simp), hr⟩

theorem mem_aput {α : Type} (l : List (Nat × α)) (k : Nat) (v : α) : ∀ p ∈ aput l k v, p = (k, v) ∨ p ∈ l := by
  induction l with
  | nil => simp [aput]
  | cons q r ih =>
    obtain ⟨k', v'⟩ := q
    intro p hp
    simp only [aput, beq_iff_eq] at hp
    split at hp
    · rcases List.mem_cons.1 hp with h | h <;> simp [h]
    · split at hp
      · rcases List.mem_cons.1 hp with h | h
        · simp [h]
        · exact .inr h
      · rcases List.mem_cons.1 hp with h | h
        · simp [h]
        · rcases ih p h with h | h <;> simp [h]

theorem mem_adel {α : Type} (l : List (Nat × α)) (k : Nat) : ∀ p ∈ adel l k, p ∈ l := by
  induction l with
  | nil => simp [adel]
  | cons q r ih =>
    obtain ⟨k', v'⟩ := q
    intro p hp
    simp only [adel, beq_iff_eq] at hp
    split at hp
    · simp [hp]
    · split at hp
      · exact hp
      · rcases List.mem_cons.1 hp with h | h
        · simp [h]
        · simp [ih p h]

/-- Writing keeps keys strictly rising. -/
theorem asorted_aput {α : Type} (l : List (Nat × α)) (k : Nat) (v : α) (h : asorted l = true) : asorted (aput l k v) = true := by
  induction l with
  | nil => rfl
  | cons q r ih =>
    obtain ⟨k', v'⟩ := q
    have hlt := asorted_head_lt h
    have hr := asorted_tail h
    simp only [aput, beq_iff_eq]
    split
    · next e => subst e; exact asorted_cons hlt hr
    · split
      · next e e2 =>
        refine asorted_cons (fun p hp => ?_) h
        rcases List.mem_cons.1 hp with rfl | hp
        · exact e2
        · exact lt_trans e2 (hlt p hp)
      · next e e2 =>
        refine asorted_cons (fun p hp => ?_) (ih hr)
        rcases mem_aput r k v p hp with rfl | hp
        · show k' < k; omega
        · exact hlt p hp

/-- Removing keeps keys strictly rising. -/
theorem asorted_adel {α : Type} (l : List (Nat × α)) (k : Nat) (h : asorted l = true) : asorted (adel l k) = true := by
  induction l with
  | nil => rfl
  | cons q r ih =>
    obtain ⟨k', v'⟩ := q
    have hlt := asorted_head_lt h
    have hr := asorted_tail h
    simp only [adel, beq_iff_eq]
    split
    · exact hr
    · split
      · exact h
      · exact asorted_cons (fun p hp => hlt p (mem_adel r k p hp)) (ih hr)

theorem aget_none_of_lt {α : Type} (l : List (Nat × α)) (k : Nat) (h : ∀ p ∈ l, k < p.1) : aget l k = none := by
  cases l with
  | nil => rfl
  | cons q r =>
    obtain ⟨k', v'⟩ := q
    have := h (k', v') (by simp)
    have h' : k < k' := this
    simp [aget, show k' ≠ k by omega, h']

theorem aget_adel_self {α : Type} (l : List (Nat × α)) (k : Nat) (h : asorted l = true) : aget (adel l k) k = none := by
  induction l with
  | nil => rfl
  | cons q r ih =>
    obtain ⟨k', v'⟩ := q
    have hlt := asorted_head_lt h
    simp only [adel, beq_iff_eq]
    split
    · next e => subst e; exact aget_none_of_lt r _ hlt
    · split
      · next e e2 => simp [aget, e, e2]
      · next e e2 => simp [aget, e, e2, ih (asorted_tail h)]

theorem aget_adel_ne {α : Type} (l : List (Nat × α)) (k j : Nat) (hj : j ≠ k) (h : asorted l = true) : aget (adel l k) j = aget l j := by
  induction l with
  | nil => rfl
  | cons q r ih =>
    obtain ⟨k', v'⟩ := q
    have hlt := asorted_head_lt h
    simp only [adel, beq_iff_eq]
    split
    · next e =>
      subst e
      by_cases hl : j < k'
      · rw [aget_none_of_lt r j (fun p hp => lt_trans hl (hlt p hp))]; simp [aget, hj.symm, hl]
      · simp [aget, hj.symm, hl]
    · split
      · rfl
      · next e e2 => simp only [aget, ih (asorted_tail h)]

/-! ### Word and byte memories -/

/-- A word memory reads what was last written at an address. -/
theorem wget_wput_self (m : List (Nat × Word)) (k : Nat) (v : Word) (h : asorted m = true) : wget (wput m k v) k = v := by
  unfold wget wput
  by_cases hv : v = 0
  · simp [hv, aget_adel_self m k h]
  · rw [if_neg (by simpa using hv), aget_aput_self]; rfl

/-- Writing a word leaves every other address alone. -/
theorem wget_wput_ne (m : List (Nat × Word)) (k j : Nat) (v : Word) (hj : j ≠ k) (h : asorted m = true) : wget (wput m k v) j = wget m j := by
  unfold wget wput
  by_cases hv : v = 0
  · simp [hv, aget_adel_ne m k j hj h]
  · rw [if_neg (by simpa using hv), aget_aput_ne m k j v hj]

/-- Writing a word keeps the canonical form. -/
theorem wordsWf_wput (m : List (Nat × Word)) (k : Nat) (v : Word) (h : wordsWf m = true) : wordsWf (wput m k v) = true := by
  simp only [wordsWf, Bool.and_eq_true, List.all_eq_true, bne_iff_ne] at h ⊢
  unfold wput
  by_cases hv : v = 0
  · simp only [hv, beq_self_eq_true, if_true]
    exact ⟨asorted_adel m k h.1, fun p hp => h.2 p (mem_adel m k p hp)⟩
  · simp only [beq_iff_eq, hv, if_false]
    refine ⟨asorted_aput m k v h.1, fun p hp => ?_⟩
    rcases mem_aput m k v p hp with rfl | hp
    · exact hv
    · exact h.2 p hp

/-- Writing words keeps the canonical form. -/
theorem wordsWf_wputs (ws : List Word) : ∀ (m : List (Nat × Word)) (k : Nat), wordsWf m = true → wordsWf (wputs m k ws) = true := by
  induction ws with
  | nil => intro m k h; exact h
  | cons v r ih => intro m k h; exact ih _ _ (wordsWf_wput m k v h)

theorem asorted_of_wordsWf {m : List (Nat × Word)} (h : wordsWf m = true) : asorted m = true := by
  simp only [wordsWf, Bool.and_eq_true] at h; exact h.1

/-- Words written outside an address leave it alone. -/
theorem wget_wputs_out (ws : List Word) : ∀ (m : List (Nat × Word)) (k j : Nat), wordsWf m = true → (j < k ∨ k + ws.length ≤ j) →
    wget (wputs m k ws) j = wget m j := by
  induction ws with
  | nil => intro m k j _ _; rfl
  | cons v r ih =>
    intro m k j h hj
    simp only [List.length_cons] at hj
    rw [wputs, ih (wput m k v) (k + 1) j (wordsWf_wput m k v h) (by omega),
      wget_wput_ne m k j v (by omega) (asorted_of_wordsWf h)]

/-- Words written are read back. -/
theorem wget_wputs_in (ws : List Word) : ∀ (m : List (Nat × Word)) (k i : Nat), wordsWf m = true → i < ws.length →
    wget (wputs m k ws) (k + i) = lget ws i 0 := by
  induction ws with
  | nil => intro m k i _ hi; simp at hi
  | cons v r ih =>
    intro m k i h hi
    cases i with
    | zero =>
      rw [wputs]
      show wget (wputs (wput m k v) (k + 1) r) k = _
      rw [wget_wputs_out r (wput m k v) (k + 1) k (wordsWf_wput m k v h) (by omega),
        wget_wput_self m k v (asorted_of_wordsWf h)]
      rfl
    | succ i =>
      rw [wputs, show k + (i + 1) = k + 1 + i by omega, ih (wput m k v) (k + 1) i (wordsWf_wput m k v h) (by simpa using hi)]
      rfl

/-- Host memory reads what was last written at an address. -/
theorem bget_bput_self (m : List (Nat × Byte)) (k : Nat) (v : Byte) (h : asorted m = true) : bget (bput m k v) k = v := by
  unfold bget bput
  by_cases hv : v = 0
  · simp [hv, aget_adel_self m k h]
  · rw [if_neg (by simpa using hv), aget_aput_self]; rfl

/-- Writing a byte leaves every other address alone. -/
theorem bget_bput_ne (m : List (Nat × Byte)) (k j : Nat) (v : Byte) (hj : j ≠ k) (h : asorted m = true) : bget (bput m k v) j = bget m j := by
  unfold bget bput
  by_cases hv : v = 0
  · simp [hv, aget_adel_ne m k j hj h]
  · rw [if_neg (by simpa using hv), aget_aput_ne m k j v hj]

/-- Writing a byte keeps the canonical form. -/
theorem bytesWf_bput (m : List (Nat × Byte)) (k : Nat) (v : Byte) (h : bytesWf m = true) : bytesWf (bput m k v) = true := by
  simp only [bytesWf, Bool.and_eq_true, List.all_eq_true, bne_iff_ne] at h ⊢
  unfold bput
  by_cases hv : v = 0
  · simp only [hv, beq_self_eq_true, if_true]
    exact ⟨asorted_adel m k h.1, fun p hp => h.2 p (mem_adel m k p hp)⟩
  · simp only [beq_iff_eq, hv, if_false]
    refine ⟨asorted_aput m k v h.1, fun p hp => ?_⟩
    rcases mem_aput m k v p hp with rfl | hp
    · exact hv
    · exact h.2 p hp

/-- Writing bytes keeps the canonical form. -/
theorem bytesWf_bputs (bs : List Byte) : ∀ (m : List (Nat × Byte)) (k : Nat), bytesWf m = true → bytesWf (bputs m k bs) = true := by
  induction bs with
  | nil => intro m k h; exact h
  | cons v r ih => intro m k h; exact ih _ _ (bytesWf_bput m k v h)

theorem asorted_of_bytesWf {m : List (Nat × Byte)} (h : bytesWf m = true) : asorted m = true := by
  simp only [bytesWf, Bool.and_eq_true] at h; exact h.1

/-- Bytes written outside an address leave it alone. -/
theorem bget_bputs_out (bs : List Byte) : ∀ (m : List (Nat × Byte)) (k j : Nat), bytesWf m = true → (j < k ∨ k + bs.length ≤ j) →
    bget (bputs m k bs) j = bget m j := by
  induction bs with
  | nil => intro m k j _ _; rfl
  | cons v r ih =>
    intro m k j h hj
    simp only [List.length_cons] at hj
    rw [bputs, ih (bput m k v) (k + 1) j (bytesWf_bput m k v h) (by omega), bget_bput_ne m k j v (by omega) (asorted_of_bytesWf h)]

/-! ### Lists -/

theorem lget_lset_self {α : Type} (l : List α) (i : Nat) (v d : α) (h : i < l.length) : lget (lset l i v) i d = v := by
  simp [lget, lset, h]

theorem lget_lset_ne {α : Type} (l : List α) (i j : Nat) (v d : α) (h : j ≠ i) : lget (lset l i v) j d = lget l j d := by
  simp [lget, lset, h.symm]

@[simp] theorem lset_length {α : Type} (l : List α) (i : Nat) (v : α) : (lset l i v).length = l.length := by simp [lset]

/-! ### Bit fields -/

/-- The bits of a field. -/
theorem testBit_bitsOf (w hi lo i : Nat) : (bitsOf w hi lo).testBit i = (decide (i < hi + 1 - lo) && w.testBit (lo + i)) := by
  simp [bitsOf, Nat.testBit_mod_two_pow, Nat.testBit_div_two_pow, Nat.add_comm]

/-- A number with a field replaced, bit by bit. -/
theorem testBit_putBits (w hi lo v i : Nat) (h : lo ≤ hi + 1) :
    (putBits w hi lo v).testBit i = if lo ≤ i ∧ i ≤ hi then v.testBit (i - lo) else w.testBit i := by
  have e : putBits w hi lo v = 2 ^ lo * (2 ^ (hi + 1 - lo) * (w / 2 ^ lo / 2 ^ (hi + 1 - lo)) + v % 2 ^ (hi + 1 - lo)) + w % 2 ^ lo := by
    unfold putBits bitsOf
    have e1 := Nat.div_add_mod w (2 ^ lo)
    have e2 := Nat.div_add_mod (w / 2 ^ lo) (2 ^ (hi + 1 - lo))
    generalize w / 2 ^ lo / 2 ^ (hi + 1 - lo) = q at *
    generalize w / 2 ^ lo % 2 ^ (hi + 1 - lo) = r at *
    generalize v % 2 ^ (hi + 1 - lo) = v' at *
    have e3 : w = 2 ^ lo * (2 ^ (hi + 1 - lo) * q) + 2 ^ lo * r + w % 2 ^ lo := by
      rw [← Nat.mul_add, e2, e1]
    rw [Nat.mul_add, Nat.mul_comm r, Nat.mul_comm v']
    omega
  rw [e, Nat.testBit_two_pow_mul_add _ (Nat.mod_lt _ (Nat.two_pow_pos lo)),
    Nat.testBit_two_pow_mul_add _ (Nat.mod_lt _ (Nat.two_pow_pos _))]
  by_cases h1 : i < lo
  · simp [h1, Nat.testBit_mod_two_pow, show ¬ lo ≤ i by omega]
  · by_cases h2 : i - lo < hi + 1 - lo
    · simp [h1, h2, Nat.testBit_mod_two_pow, show lo ≤ i by omega, show i ≤ hi by omega]
    · simp [h1, h2, show ¬ i ≤ hi by omega, Nat.testBit_div_two_pow]
      congr 1; omega

/-- A field reads what was put into it. -/
theorem bitsOf_putBits_self (w hi lo v : Nat) (h : lo ≤ hi + 1) : bitsOf (putBits w hi lo v) hi lo = v % 2 ^ (hi + 1 - lo) := by
  apply Nat.eq_of_testBit_eq
  intro i
  rw [testBit_bitsOf, testBit_putBits _ _ _ _ _ h, Nat.testBit_mod_two_pow]
  by_cases h1 : i < hi + 1 - lo
  · simp [h1, show lo + i ≤ hi by omega]
  · simp [h1]

/-- A field that does not meet the one put keeps its value. -/
theorem bitsOf_putBits_out (w hi lo v h l : Nat) (hlo : lo ≤ hi + 1) (hd : h < lo ∨ hi < l) : bitsOf (putBits w hi lo v) h l = bitsOf w h l := by
  apply Nat.eq_of_testBit_eq
  intro i
  rw [testBit_bitsOf, testBit_bitsOf, testBit_putBits _ _ _ _ _ hlo]
  by_cases h1 : i < h + 1 - l
  · simp [h1, show ¬ (lo ≤ l + i ∧ l + i ≤ hi) by omega]
  · simp [h1]

/-- A field above another keeps its value whatever the width of a word cuts off above it. -/
theorem bitsOf_mod (w n hi lo : Nat) (h : hi < n) : bitsOf (w % 2 ^ n) hi lo = bitsOf w hi lo := by
  apply Nat.eq_of_testBit_eq
  intro i
  rw [testBit_bitsOf, testBit_bitsOf, Nat.testBit_mod_two_pow]
  by_cases h1 : i < hi + 1 - lo
  · simp [h1, show lo + i < n by omega]
  · simp [h1]

end Sys2Proof.Machine
end

