-- ==== Sys2Proof/Laws/State.lean ====
section
/-! SUPPORT. Laws of State: what each elementary update of a side, a register or a core leaves and changes. -/

namespace Sys2Proof.Machine

/-! ### Sides -/

@[simp] theorem SideId.other_other (i : SideId) : i.other.other = i := by cases i <;> rfl
@[simp] theorem SideId.other_ne (i : SideId) : i.other ≠ i := by cases i <;> decide
@[simp] theorem SideId.ne_other (i : SideId) : i ≠ i.other := by cases i <;> decide
@[simp] theorem SideId.beq_other (i : SideId) : (i == i.other) = false := by cases i <;> rfl
@[simp] theorem SideId.other_beq (i : SideId) : (i.other == i) = false := by cases i <;> rfl

@[simp] theorem State.side_setSide (s : State) (i : SideId) (x : Side) : (s.setSide i x).side i = x := by cases i <;> rfl
@[simp] theorem State.side_setSide_other (s : State) (i : SideId) (x : Side) : (s.setSide i x).side i.other = s.side i.other := by
  cases i <;> rfl
@[simp] theorem State.side_mod (s : State) (i : SideId) (f : Side → Side) : (s.mod i f).side i = f (s.side i) := by cases i <;> rfl
@[simp] theorem State.side_mod_other (s : State) (i : SideId) (f : Side → Side) : (s.mod i f).side i.other = s.side i.other := by
  cases i <;> rfl
@[simp] theorem State.setSide_setSide (s : State) (i : SideId) (x y : Side) : (s.setSide i x).setSide i y = s.setSide i y := by
  cases i <;> rfl
@[simp] theorem State.mod_setSide (s : State) (i : SideId) (x : Side) (f : Side → Side) : (s.setSide i x).mod i f = s.setSide i (f x) := by
  cases i <;> rfl
@[simp] theorem State.mod_mod (s : State) (i : SideId) (f g : Side → Side) : (s.mod i f).mod i g = s.mod i (fun x => g (f x)) := by
  cases i <;> rfl
@[simp] theorem State.setSide_self (s : State) (i : SideId) : s.setSide i (s.side i) = s := by cases i <;> rfl
@[simp] theorem State.side_setRd (s : State) (w : List Word) (i : SideId) : (s.setRd w).side i = s.side i := by cases i <;> rfl
@[simp] theorem State.setRd_rd (s : State) (w : List Word) : (s.setRd w).rd = w := rfl
@[simp] theorem State.setRd_ep (s : State) (w : List Word) : (s.setRd w).ep = false := rfl
@[simp] theorem State.held_setSide (s : State) (i : SideId) (x : Side) : (s.setSide i x).held = s.held := by cases i <;> rfl
@[simp] theorem State.held_mod (s : State) (i : SideId) (f : Side → Side) : (s.mod i f).held = s.held := by cases i <;> rfl

/-! ### Registers and their fields -/

theorem Side.reg_of_regs (x y : Side) (h : y.regs = x.regs) (hf : y.fuse = x.fuse) (hw : y.who = x.who) (i : Nat) : y.reg i = x.reg i := by
  unfold Side.reg; rw [h, hf, hw]

@[simp] theorem Side.reg_setReg (x : Side) (i : Nat) (v : Word) : (x.setReg i v).reg i = v := by
  unfold Side.reg; simp [Side.setReg, aget_aput_self]

theorem Side.reg_setReg_ne (x : Side) (i j : Nat) (v : Word) (h : j ≠ i) : (x.setReg i v).reg j = x.reg j := by
  unfold Side.reg; simp [Side.setReg, aget_aput_ne _ _ _ _ h]

/-- A field that has been set reads as set, cut to its width. -/
theorem Side.get_set (x : Side) (f : Fld) (v : Nat) (h : f.lo ≤ f.hi) (h36 : f.hi < 36) : (x.set f v).get f = v % 2 ^ (f.hi + 1 - f.lo) := by
  simp only [Side.get, Side.set, Side.reg_setReg, wordN, BitVec.toNat_ofNat]
  rw [bitsOf_mod _ _ _ _ h36, bitsOf_putBits_self _ _ _ _ (by omega)]

/-- Setting a field leaves the fields of other registers. -/
theorem Side.get_set_ne (x : Side) (f g : Fld) (v : Nat) (h : g.idx ≠ f.idx) : (x.set f v).get g = x.get g := by
  simp only [Side.get, Side.set, Side.reg_setReg_ne _ _ _ _ h]

/-- Setting a field leaves the other fields of its register. -/
theorem Side.get_set_out (x : Side) (f g : Fld) (v : Nat) (h : g.idx = f.idx) (hf : f.lo ≤ f.hi) (hg : g.hi < 36)
    (hd : g.hi < f.lo ∨ f.hi < g.lo) : (x.set f v).get g = x.get g := by
  simp only [Side.get, Side.set, h, Side.reg_setReg, wordN, BitVec.toNat_ofNat]
  rw [bitsOf_mod _ _ _ _ hg, bitsOf_putBits_out _ _ _ _ _ _ (by omega) hd]

/-- A register other than a field's is left by setting the field. -/
theorem Side.reg_set_ne (x : Side) (f : Fld) (v j : Nat) (h : j ≠ f.idx) : (x.set f v).reg j = x.reg j := Side.reg_setReg_ne _ _ _ _ h

@[simp] theorem Side.raise_eq (x : Side) (f : Fld) : x.raise f = x.set f 1 := rfl
@[simp] theorem Side.drop_eq (x : Side) (f : Fld) : x.drop f = x.set f 0 := rfl
@[simp] theorem Side.put_eq (x : Side) (f : Fld) (b : Bool) : x.put f b = x.set f (b2n b) := rfl

@[simp] theorem Side.reg_modCore (x : Side) (c : Nat) (f : Core → Core) (i : Nat) : (x.modCore c f).reg i = x.reg i := rfl
@[simp] theorem Side.get_modCore (x : Side) (c : Nat) (f : Core → Core) (g : Fld) : (x.modCore c f).get g = x.get g := rfl

/-! ### Cores -/

theorem lget_lmod_self {α : Type} (l : List α) (i : Nat) (f : α → α) (d : α) (h : i < l.length) : lget (lmod l i f) i d = f (lget l i d) := by
  simp [lget, lmod, h]

theorem lget_lmod_ne {α : Type} (l : List α) (i j : Nat) (f : α → α) (d : α) (h : j ≠ i) : lget (lmod l i f) j d = lget l j d := by
  simp [lget, lmod, Ne.symm h]

@[simp] theorem lmod_length {α : Type} (l : List α) (i : Nat) (f : α → α) : (lmod l i f).length = l.length := by simp [lmod]

theorem lmod_lmod {α : Type} (l : List α) (i : Nat) (f g : α → α) : lmod (lmod l i f) i g = lmod l i (fun x => g (f x)) := by
  unfold lmod
  induction l generalizing i with
  | nil => cases i <;> rfl
  | cons a r ih => cases i with
    | zero => rfl
    | succ n => simp [ih]

theorem Side.coreOf_modCore (x : Side) (c : Nat) (f : Core → Core) (h : c < x.cores.length) : (x.modCore c f).coreOf c = f (x.coreOf c) :=
  lget_lmod_self _ _ _ _ h

theorem Side.coreOf_modCore_ne (x : Side) (c j : Nat) (f : Core → Core) (h : j ≠ c) : (x.modCore c f).coreOf j = x.coreOf j :=
  lget_lmod_ne _ _ _ _ _ h

@[simp] theorem Side.modCore_modCore (x : Side) (c : Nat) (f g : Core → Core) : (x.modCore c f).modCore c g = x.modCore c (fun k => g (f k)) := by
  simp [Side.modCore, lmod_lmod]

@[simp] theorem Side.modCore_cores_length (x : Side) (c : Nat) (f : Core → Core) : (x.modCore c f).cores.length = x.cores.length := by
  simp [Side.modCore]

/-! ### Fields an update leaves, one by one -/

@[simp] theorem Side.setReg_who (x : Side) (i : Nat) (v : Word) : (x.setReg i v).who = x.who := rfl
@[simp] theorem Side.set_who (x : Side) (f : Fld) (v : Nat) : (x.set f v).who = x.who := rfl
@[simp] theorem Side.modCore_who (x : Side) (c : Nat) (f : Core → Core) : (x.modCore c f).who = x.who := rfl
@[simp] theorem Side.modCore_regs (x : Side) (c : Nat) (f : Core → Core) : (x.modCore c f).regs = x.regs := rfl
@[simp] theorem Side.setReg_fuse (x : Side) (i : Nat) (v : Word) : (x.setReg i v).fuse = x.fuse := rfl
@[simp] theorem Side.set_fuse (x : Side) (f : Fld) (v : Nat) : (x.set f v).fuse = x.fuse := rfl
@[simp] theorem Side.modCore_fuse (x : Side) (c : Nat) (f : Core → Core) : (x.modCore c f).fuse = x.fuse := rfl
@[simp] theorem Side.setReg_bus (x : Side) (i : Nat) (v : Word) : (x.setReg i v).bus = x.bus := rfl
@[simp] theorem Side.set_bus (x : Side) (f : Fld) (v : Nat) : (x.set f v).bus = x.bus := rfl
@[simp] theorem Side.modCore_bus (x : Side) (c : Nat) (f : Core → Core) : (x.modCore c f).bus = x.bus := rfl
@[simp] theorem Side.setReg_host (x : Side) (i : Nat) (v : Word) : (x.setReg i v).host = x.host := rfl
@[simp] theorem Side.set_host (x : Side) (f : Fld) (v : Nat) : (x.set f v).host = x.host := rfl
@[simp] theorem Side.modCore_host (x : Side) (c : Nat) (f : Core → Core) : (x.modCore c f).host = x.host := rfl
@[simp] theorem Side.setReg_isl (x : Side) (i : Nat) (v : Word) : (x.setReg i v).isl = x.isl := rfl
@[simp] theorem Side.set_isl (x : Side) (f : Fld) (v : Nat) : (x.set f v).isl = x.isl := rfl
@[simp] theorem Side.modCore_isl (x : Side) (c : Nat) (f : Core → Core) : (x.modCore c f).isl = x.isl := rfl
@[simp] theorem Side.setReg_col (x : Side) (i : Nat) (v : Word) : (x.setReg i v).col = x.col := rfl
@[simp] theorem Side.set_col (x : Side) (f : Fld) (v : Nat) : (x.set f v).col = x.col := rfl
@[simp] theorem Side.modCore_col (x : Side) (c : Nat) (f : Core → Core) : (x.modCore c f).col = x.col := rfl
@[simp] theorem Side.setReg_rt (x : Side) (i : Nat) (v : Word) : (x.setReg i v).rt = x.rt := rfl
@[simp] theorem Side.set_rt (x : Side) (f : Fld) (v : Nat) : (x.set f v).rt = x.rt := rfl
@[simp] theorem Side.modCore_rt (x : Side) (c : Nat) (f : Core → Core) : (x.modCore c f).rt = x.rt := rfl
@[simp] theorem Side.setReg_split (x : Side) (i : Nat) (v : Word) : (x.setReg i v).split = x.split := rfl
@[simp] theorem Side.set_split (x : Side) (f : Fld) (v : Nat) : (x.set f v).split = x.split := rfl
@[simp] theorem Side.modCore_split (x : Side) (c : Nat) (f : Core → Core) : (x.modCore c f).split = x.split := rfl
@[simp] theorem Side.setReg_jesd (x : Side) (i : Nat) (v : Word) : (x.setReg i v).jesd = x.jesd := rfl
@[simp] theorem Side.set_jesd (x : Side) (f : Fld) (v : Nat) : (x.set f v).jesd = x.jesd := rfl
@[simp] theorem Side.modCore_jesd (x : Side) (c : Nat) (f : Core → Core) : (x.modCore c f).jesd = x.jesd := rfl
@[simp] theorem Side.setReg_fe (x : Side) (i : Nat) (v : Word) : (x.setReg i v).fe = x.fe := rfl
@[simp] theorem Side.set_fe (x : Side) (f : Fld) (v : Nat) : (x.set f v).fe = x.fe := rfl
@[simp] theorem Side.modCore_fe (x : Side) (c : Nat) (f : Core → Core) : (x.modCore c f).fe = x.fe := rfl
@[simp] theorem Side.setReg_xf (x : Side) (i : Nat) (v : Word) : (x.setReg i v).xf = x.xf := rfl
@[simp] theorem Side.set_xf (x : Side) (f : Fld) (v : Nat) : (x.set f v).xf = x.xf := rfl
@[simp] theorem Side.modCore_xf (x : Side) (c : Nat) (f : Core → Core) : (x.modCore c f).xf = x.xf := rfl
@[simp] theorem Side.setReg_seatJob (x : Side) (i : Nat) (v : Word) : (x.setReg i v).seatJob = x.seatJob := rfl
@[simp] theorem Side.set_seatJob (x : Side) (f : Fld) (v : Nat) : (x.set f v).seatJob = x.seatJob := rfl
@[simp] theorem Side.modCore_seatJob (x : Side) (c : Nat) (f : Core → Core) : (x.modCore c f).seatJob = x.seatJob := rfl
@[simp] theorem Side.setReg_pp (x : Side) (i : Nat) (v : Word) : (x.setReg i v).pp = x.pp := rfl
@[simp] theorem Side.set_pp (x : Side) (f : Fld) (v : Nat) : (x.set f v).pp = x.pp := rfl
@[simp] theorem Side.modCore_pp (x : Side) (c : Nat) (f : Core → Core) : (x.modCore c f).pp = x.pp := rfl
@[simp] theorem Side.setReg_dens (x : Side) (i : Nat) (v : Word) : (x.setReg i v).dens = x.dens := rfl
@[simp] theorem Side.set_dens (x : Side) (f : Fld) (v : Nat) : (x.set f v).dens = x.dens := rfl
@[simp] theorem Side.modCore_dens (x : Side) (c : Nat) (f : Core → Core) : (x.modCore c f).dens = x.dens := rfl
@[simp] theorem Side.setReg_starter (x : Side) (i : Nat) (v : Word) : (x.setReg i v).starter = x.starter := rfl
@[simp] theorem Side.set_starter (x : Side) (f : Fld) (v : Nat) : (x.set f v).starter = x.starter := rfl
@[simp] theorem Side.modCore_starter (x : Side) (c : Nat) (f : Core → Core) : (x.modCore c f).starter = x.starter := rfl
@[simp] theorem Side.setReg_acq (x : Side) (i : Nat) (v : Word) : (x.setReg i v).acq = x.acq := rfl
@[simp] theorem Side.set_acq (x : Side) (f : Fld) (v : Nat) : (x.set f v).acq = x.acq := rfl
@[simp] theorem Side.modCore_acq (x : Side) (c : Nat) (f : Core → Core) : (x.modCore c f).acq = x.acq := rfl
@[simp] theorem Side.setReg_strm (x : Side) (i : Nat) (v : Word) : (x.setReg i v).strm = x.strm := rfl
@[simp] theorem Side.set_strm (x : Side) (f : Fld) (v : Nat) : (x.set f v).strm = x.strm := rfl
@[simp] theorem Side.modCore_strm (x : Side) (c : Nat) (f : Core → Core) : (x.modCore c f).strm = x.strm := rfl
@[simp] theorem Side.setReg_sram (x : Side) (i : Nat) (v : Word) : (x.setReg i v).sram = x.sram := rfl
@[simp] theorem Side.set_sram (x : Side) (f : Fld) (v : Nat) : (x.set f v).sram = x.sram := rfl
@[simp] theorem Side.modCore_sram (x : Side) (c : Nat) (f : Core → Core) : (x.modCore c f).sram = x.sram := rfl
@[simp] theorem Side.setReg_dram (x : Side) (i : Nat) (v : Word) : (x.setReg i v).dram = x.dram := rfl
@[simp] theorem Side.set_dram (x : Side) (f : Fld) (v : Nat) : (x.set f v).dram = x.dram := rfl
@[simp] theorem Side.modCore_dram (x : Side) (c : Nat) (f : Core → Core) : (x.modCore c f).dram = x.dram := rfl
@[simp] theorem Side.setReg_cal (x : Side) (i : Nat) (v : Word) : (x.setReg i v).cal = x.cal := rfl
@[simp] theorem Side.set_cal (x : Side) (f : Fld) (v : Nat) : (x.set f v).cal = x.cal := rfl
@[simp] theorem Side.modCore_cal (x : Side) (c : Nat) (f : Core → Core) : (x.modCore c f).cal = x.cal := rfl
@[simp] theorem Side.setReg_cores (x : Side) (i : Nat) (v : Word) : (x.setReg i v).cores = x.cores := rfl
@[simp] theorem Side.set_cores (x : Side) (f : Fld) (v : Nat) : (x.set f v).cores = x.cores := rfl
@[simp] theorem Side.setReg_coxMem (x : Side) (i : Nat) (v : Word) : (x.setReg i v).coxMem = x.coxMem := rfl
@[simp] theorem Side.set_coxMem (x : Side) (f : Fld) (v : Nat) : (x.set f v).coxMem = x.coxMem := rfl
@[simp] theorem Side.modCore_coxMem (x : Side) (c : Nat) (f : Core → Core) : (x.modCore c f).coxMem = x.coxMem := rfl
@[simp] theorem Side.setReg_clk (x : Side) (i : Nat) (v : Word) : (x.setReg i v).clk = x.clk := rfl
@[simp] theorem Side.set_clk (x : Side) (f : Fld) (v : Nat) : (x.set f v).clk = x.clk := rfl
@[simp] theorem Side.modCore_clk (x : Side) (c : Nat) (f : Core → Core) : (x.modCore c f).clk = x.clk := rfl
@[simp] theorem Side.setReg_tone (x : Side) (i : Nat) (v : Word) : (x.setReg i v).tone = x.tone := rfl
@[simp] theorem Side.set_tone (x : Side) (f : Fld) (v : Nat) : (x.set f v).tone = x.tone := rfl
@[simp] theorem Side.modCore_tone (x : Side) (c : Nat) (f : Core → Core) : (x.modCore c f).tone = x.tone := rfl
@[simp] theorem Side.setReg_strobe (x : Side) (i : Nat) (v : Word) : (x.setReg i v).strobe = x.strobe := rfl
@[simp] theorem Side.set_strobe (x : Side) (f : Fld) (v : Nat) : (x.set f v).strobe = x.strobe := rfl
@[simp] theorem Side.modCore_strobe (x : Side) (c : Nat) (f : Core → Core) : (x.modCore c f).strobe = x.strobe := rfl
@[simp] theorem Side.setReg_mon (x : Side) (i : Nat) (v : Word) : (x.setReg i v).mon = x.mon := rfl
@[simp] theorem Side.set_mon (x : Side) (f : Fld) (v : Nat) : (x.set f v).mon = x.mon := rfl
@[simp] theorem Side.modCore_mon (x : Side) (c : Nat) (f : Core → Core) : (x.modCore c f).mon = x.mon := rfl
@[simp] theorem Side.setReg_so (x : Side) (i : Nat) (v : Word) : (x.setReg i v).so = x.so := rfl
@[simp] theorem Side.set_so (x : Side) (f : Fld) (v : Nat) : (x.set f v).so = x.so := rfl
@[simp] theorem Side.modCore_so (x : Side) (c : Nat) (f : Core → Core) : (x.modCore c f).so = x.so := rfl
@[simp] theorem Side.setReg_pwr (x : Side) (i : Nat) (v : Word) : (x.setReg i v).pwr = x.pwr := rfl
@[simp] theorem Side.set_pwr (x : Side) (f : Fld) (v : Nat) : (x.set f v).pwr = x.pwr := rfl
@[simp] theorem Side.modCore_pwr (x : Side) (c : Nat) (f : Core → Core) : (x.modCore c f).pwr = x.pwr := rfl
@[simp] theorem State.setSide_keel (s : State) (i : SideId) (x : Side) : (s.setSide i x).keel = s.keel := by cases i <;> rfl
@[simp] theorem State.mod_keel (s : State) (i : SideId) (f : Side → Side) : (s.mod i f).keel = s.keel := by cases i <;> rfl
@[simp] theorem State.setRd_keel (s : State) (w : List Word) : (s.setRd w).keel = s.keel := rfl
@[simp] theorem State.setSide_pkg (s : State) (i : SideId) (x : Side) : (s.setSide i x).pkg = s.pkg := by cases i <;> rfl
@[simp] theorem State.mod_pkg (s : State) (i : SideId) (f : Side → Side) : (s.mod i f).pkg = s.pkg := by cases i <;> rfl
@[simp] theorem State.setRd_pkg (s : State) (w : List Word) : (s.setRd w).pkg = s.pkg := rfl
@[simp] theorem State.setSide_rd (s : State) (i : SideId) (x : Side) : (s.setSide i x).rd = s.rd := by cases i <;> rfl
@[simp] theorem State.mod_rd (s : State) (i : SideId) (f : Side → Side) : (s.mod i f).rd = s.rd := by cases i <;> rfl
@[simp] theorem State.setSide_ep (s : State) (i : SideId) (x : Side) : (s.setSide i x).ep = s.ep := by cases i <;> rfl
@[simp] theorem State.mod_ep (s : State) (i : SideId) (f : Side → Side) : (s.mod i f).ep = s.ep := by cases i <;> rfl
@[simp] theorem State.setSide_free (s : State) (i : SideId) (x : Side) : (s.setSide i x).free = s.free := by cases i <;> rfl
@[simp] theorem State.mod_free (s : State) (i : SideId) (f : Side → Side) : (s.mod i f).free = s.free := by cases i <;> rfl
@[simp] theorem State.setRd_free (s : State) (w : List Word) : (s.setRd w).free = s.free := rfl
@[simp] theorem State.setSide_pending (s : State) (i : SideId) (x : Side) : (s.setSide i x).pending = s.pending := by cases i <;> rfl
@[simp] theorem State.mod_pending (s : State) (i : SideId) (f : Side → Side) : (s.mod i f).pending = s.pending := by cases i <;> rfl
@[simp] theorem State.setRd_pending (s : State) (w : List Word) : (s.setRd w).pending = s.pending := rfl

end Sys2Proof.Machine
end

