-- ==== Sys2Proof/Laws/Complete.lean ====
section
/-! SUPPORT. What completing a ring command does: its completion is formed, it leaves its staging entry, and registers, cores and the queue are
as before. -/

namespace Sys2Proof.Machine

/-- A side but for its host region. -/
def Side.noHost (x : Side) : Side := { x with host := HostSide.init }

theorem Side.noHost_deliverOne (x : Side) (ring : Fin 8) (id : Nat) (fl : CmdEntry) (en : Entry) :
    (x.deliverOne ring id fl en).noHost = x.noHost := by
  unfold Side.deliverOne; dsimp only; split <;> rfl

theorem Side.noHost_settleFences (n : Nat) : ∀ x : Side, (Side.settleFences n x).noHost = x.noHost := by
  induction n with
  | zero => intro x; rfl
  | succ n ih =>
    intro x
    unfold Side.settleFences
    split
    · rfl
    · dsimp only; rw [ih, Side.noHost_deliverOne]; rfl

theorem Side.noHost_deliver (x : Side) (ring : Fin 8) (id : Nat) (fl : CmdEntry) (en : Entry) : (x.deliver ring id fl en).noHost = x.noHost := by
  unfold Side.deliver; rw [Side.noHost_settleFences, Side.noHost_deliverOne]

theorem Side.noHost_unstage (x : Side) (c : Staged) : (x.unstage c).noHost = x.noHost := rfl

/-- Completions already formed stay; those of a side's fences may follow. -/
theorem Side.mem_compl_deliverOne (x : Side) (ring : Fin 8) (id : Nat) (fl : CmdEntry) (en : Entry) (w : ComplWait) (h : w ∈ x.host.compl) :
    w ∈ (x.deliverOne ring id fl en).host.compl := by
  unfold Side.deliverOne; dsimp only; split
  · exact h
  · exact List.mem_append_left _ h

theorem Side.mem_compl_settleFences (n : Nat) : ∀ (x : Side) (w : ComplWait), w ∈ x.host.compl → w ∈ (Side.settleFences n x).host.compl := by
  induction n with
  | zero => intro x w h; exact h
  | succ n ih =>
    intro x w h
    unfold Side.settleFences
    split
    · exact h
    · exact ih _ _ (Side.mem_compl_deliverOne _ _ _ _ _ _ h)

/-- A completion that is written waits for its ring. -/
theorem Side.deliverOne_compl (x : Side) (ring : Fin 8) (id : Nat) (fl : CmdEntry) (en : Entry) (h : (fl.quiet && en.status == stOK) = false) :
    ⟨x.get (CMDQ_CFG.CQ ring.val), ring, id, fl.irqNow, en⟩ ∈ (x.deliverOne ring id fl en).host.compl := by
  unfold Side.deliverOne
  dsimp only
  rw [if_neg (by simp [h])]
  simp

/-- A command that is not staged is not staged after a delivery. -/
theorem Side.staged_deliverOne (x : Side) (ring : Fin 8) (id : Nat) (fl : CmdEntry) (en : Entry) (p : Nat → SideId → Prop)
    (h : ∀ d ∈ x.host.staged, p d.id d.issuer) : ∀ d ∈ (x.deliverOne ring id fl en).host.staged, p d.id d.issuer := by
  have e : ∀ d ∈ (x.host.staged.map (fun (c : Staged) => if c.issuer == x.who then { c with awaits := c.awaits.filter (· != id) } else c)),
      p d.id d.issuer := by
    intro d hd
    obtain ⟨c, hc, rfl⟩ := List.mem_map.mp hd
    split <;> exact h c hc
  unfold Side.deliverOne; dsimp only; split <;> exact e

theorem Side.staged_settleFences (n : Nat) (p : Nat → SideId → Prop) : ∀ (x : Side), (∀ d ∈ x.host.staged, p d.id d.issuer) →
    ∀ d ∈ (Side.settleFences n x).host.staged, p d.id d.issuer := by
  induction n with
  | zero => intro x h; exact h
  | succ n ih =>
    intro x h
    unfold Side.settleFences
    split
    · exact h
    · refine ih _ (Side.staged_deliverOne _ _ _ _ _ p ?_)
      intro d hd
      exact h d (List.mem_of_mem_filter hd)

/-- R273, R276: a completed command is answered. -/
theorem State.answered_complete (s : State) (actor : SideId) (c : Staged) (st tm : Nat) (r0 r1 : Int) :
    (s.complete actor c st tm r0 r1).answered actor c st tm r0 r1 := by
  have hun : ∀ d ∈ ((s.side actor).unstage c).host.staged, ¬(d.id = c.id ∧ d.issuer = c.issuer) := by
    intro d hd
    have := (List.mem_filter.mp hd).2
    simp only [Bool.not_eq_true', Bool.and_eq_false_imp, beq_iff_eq, beq_eq_false_iff_ne] at this
    exact fun h => this h.1 h.2
  unfold State.complete
  by_cases hi : c.issuer = actor
  · subst hi
    simp only [beq_self_eq_true, if_true, State.mod_mod]
    refine ⟨?_, fun _ hq => ?_, fun h => absurd rfl h⟩
    · rw [State.side_mod]
      exact Side.staged_settleFences _ (fun i j => ¬(i = c.id ∧ j = c.issuer)) _
        (Side.staged_deliverOne _ _ _ _ _ (fun i j => ¬(i = c.id ∧ j = c.issuer)) hun)
    · refine ⟨⟨((s.side c.issuer).unstage c).get (CMDQ_CFG.CQ c.ring.val), c.ring, c.id, c.e.irqNow, _⟩, ?_, rfl, rfl, rfl⟩
      rw [State.side_mod]
      exact Side.mem_compl_settleFences _ _ _ (Side.deliverOne_compl _ _ _ _ _ hq)
  · have hb : (c.issuer == actor) = false := by simp [hi]
    simp only [hb, Bool.false_eq_true, if_false]
    refine ⟨?_, fun h => absurd h hi, fun _ => ?_⟩
    · have e : ∀ k : Keel, (({ s.mod actor (fun x => x.unstage c) with keel := k } : State).side actor) = (s.side actor).unstage c := by
        intro k; cases actor <;> rfl
      rw [e]; exact hun
    · simp

/-- Completing a command leaves every side but for its host region, and the package and queue. -/
theorem State.complete_noHost (s : State) (actor : SideId) (c : Staged) (st tm : Nat) (r0 r1 : Int) (i : SideId) :
    ((s.complete actor c st tm r0 r1).side i).noHost = (s.side i).noHost := by
  unfold State.complete
  by_cases hi : c.issuer = actor
  · simp only [hi, beq_self_eq_true, if_true, State.mod_mod]
    by_cases h : i = actor
    · subst h; rw [State.side_mod, Side.noHost_deliver, Side.noHost_unstage]
    · have : i = actor.other := by cases i <;> cases actor <;> simp_all [SideId.other]
      rw [this, State.side_mod_other]
  · have hb : (c.issuer == actor) = false := by simp [hi]
    simp only [hb, Bool.false_eq_true, if_false]
    by_cases h : i = actor
    · subst h
      have e : ∀ k : Keel, (({ s.mod i (fun x => x.unstage c) with keel := k } : State).side i) = (s.side i).unstage c := by
        intro k; cases i <;> rfl
      rw [e, Side.noHost_unstage]
    · have h' : i = actor.other := by cases i <;> cases actor <;> simp_all [SideId.other]
      have e : ∀ k : Keel, (({ s.mod actor (fun x => x.unstage c) with keel := k } : State).side actor.other) = s.side actor.other := by
        intro k; cases actor <;> rfl
      rw [h', e]

theorem State.refuse_noHost (s : State) (actor : SideId) (c : Staged) (st : Nat) (i : SideId) :
    ((s.refuse actor c st).side i).noHost = (s.side i).noHost := State.complete_noHost ..

/-- What is read of a side beside its host region agrees where the sides agree there. -/
theorem Side.reg_of_noHost {x y : Side} (h : y.noHost = x.noHost) (i : Nat) : y.reg i = x.reg i := by
  have h1 : y.regs = x.regs := (congrArg Side.regs h : y.noHost.regs = x.noHost.regs)
  have h2 : y.fuse = x.fuse := (congrArg Side.fuse h : y.noHost.fuse = x.noHost.fuse)
  have h3 : y.who = x.who := (congrArg Side.who h : y.noHost.who = x.noHost.who)
  exact Side.reg_of_regs x y h1 h2 h3 i

theorem Side.get_of_noHost {x y : Side} (h : y.noHost = x.noHost) (f : Fld) : y.get f = x.get f := by
  unfold Side.get; rw [Side.reg_of_noHost h]

theorem Side.cores_of_noHost {x y : Side} (h : y.noHost = x.noHost) : y.cores = x.cores :=
  (congrArg Side.cores h : y.noHost.cores = x.noHost.cores)

@[simp] theorem State.complete_pending (s : State) (actor : SideId) (c : Staged) (st tm : Nat) (r0 r1 : Int) :
    (s.complete actor c st tm r0 r1).pending = s.pending := by
  unfold State.complete; dsimp only; split <;> simp

@[simp] theorem State.complete_pkg (s : State) (actor : SideId) (c : Staged) (st tm : Nat) (r0 r1 : Int) :
    (s.complete actor c st tm r0 r1).pkg = s.pkg := by
  unfold State.complete; dsimp only; split <;> simp

end Sys2Proof.Machine
end

