-- ==== Sys2Proof/Laws/Core.lean ====
section
/-! SUPPORT. What the PC rules and writes of the active set leave of a core, field by field. -/

namespace Sys2Proof.Machine

/-- A set of a core depends on its two sets alone. -/
theorem Core.setOf_mk (k : Core) (b : Bool) : k.setOf b = if b then k.shadow else k.main := rfl

@[simp] theorem Core.modAct_st (k : Core) (f : RegSet → RegSet) : (k.modAct f).st = k.st := by unfold Core.modAct; split <;> rfl
@[simp] theorem Core.modAct_cause (k : Core) (f : RegSet → RegSet) : (k.modAct f).cause = k.cause := by unfold Core.modAct; split <;> rfl
@[simp] theorem Core.modAct_bank (k : Core) (f : RegSet → RegSet) : (k.modAct f).bank = k.bank := by unfold Core.modAct; split <;> rfl
@[simp] theorem Core.modAct_amod (k : Core) (f : RegSet → RegSet) : (k.modAct f).amod = k.amod := by unfold Core.modAct; split <;> rfl
@[simp] theorem Core.modAct_la (k : Core) (f : RegSet → RegSet) : (k.modAct f).la = k.la := by unfold Core.modAct; split <;> rfl
@[simp] theorem Core.modAct_calls (k : Core) (f : RegSet → RegSet) : (k.modAct f).calls = k.calls := by unfold Core.modAct; split <;> rfl
@[simp] theorem Core.modAct_ops (k : Core) (f : RegSet → RegSet) : (k.modAct f).ops = k.ops := by unfold Core.modAct; split <;> rfl
@[simp] theorem Core.modAct_tagSt (k : Core) (f : RegSet → RegSet) : (k.modAct f).tagSt = k.tagSt := by unfold Core.modAct; split <;> rfl
@[simp] theorem Core.modAct_imask (k : Core) (f : RegSet → RegSet) : (k.modAct f).imask = k.imask := by unfold Core.modAct; split <;> rfl
@[simp] theorem Core.modAct_ipend (k : Core) (f : RegSet → RegSet) : (k.modAct f).ipend = k.ipend := by unfold Core.modAct; split <;> rfl
@[simp] theorem Core.modAct_ipc (k : Core) (f : RegSet → RegSet) : (k.modAct f).ipc = k.ipc := by unfold Core.modAct; split <;> rfl
@[simp] theorem Core.modAct_tsel (k : Core) (f : RegSet → RegSet) : (k.modAct f).tsel = k.tsel := by unfold Core.modAct; split <;> rfl
@[simp] theorem Core.modAct_alarmLo (k : Core) (f : RegSet → RegSet) : (k.modAct f).alarmLo = k.alarmLo := by unfold Core.modAct; split <;> rfl
@[simp] theorem Core.modAct_alarmHi (k : Core) (f : RegSet → RegSet) : (k.modAct f).alarmHi = k.alarmHi := by unfold Core.modAct; split <;> rfl
@[simp] theorem Core.modAct_armed (k : Core) (f : RegSet → RegSet) : (k.modAct f).armed = k.armed := by unfold Core.modAct; split <;> rfl
@[simp] theorem Core.modAct_rtHi (k : Core) (f : RegSet → RegSet) : (k.modAct f).rtHi = k.rtHi := by unfold Core.modAct; split <;> rfl
@[simp] theorem Core.modAct_waitTag (k : Core) (f : RegSet → RegSet) : (k.modAct f).waitTag = k.waitTag := by unfold Core.modAct; split <;> rfl
@[simp] theorem Core.modAct_sw (k : Core) (f : RegSet → RegSet) : (k.modAct f).sw = k.sw := by unfold Core.modAct; split <;> rfl
@[simp] theorem Core.modAct_arg (k : Core) (f : RegSet → RegSet) : (k.modAct f).arg = k.arg := by unfold Core.modAct; split <;> rfl
@[simp] theorem Core.modAct_halts (k : Core) (f : RegSet → RegSet) : (k.modAct f).halts = k.halts := by unfold Core.modAct; split <;> rfl
@[simp] theorem Core.modAct_pc (k : Core) (f : RegSet → RegSet) : (k.modAct f).pc = k.pc := by unfold Core.modAct; split <;> rfl
@[simp] theorem Core.modAct_slot (k : Core) (f : RegSet → RegSet) : (k.modAct f).slot = k.slot := by unfold Core.modAct; split <;> rfl
@[simp] theorem Core.modAct_inSlot (k : Core) (f : RegSet → RegSet) : (k.modAct f).inSlot = k.inSlot := by unfold Core.modAct; split <;> rfl
@[simp] theorem Core.modAct_rti (k : Core) (f : RegSet → RegSet) : (k.modAct f).rti = k.rti := by unfold Core.modAct; split <;> rfl
@[simp] theorem Core.modAct_ctx (k : Core) (f : RegSet → RegSet) : (k.modAct f).ctx = k.ctx := by unfold Core.modAct; split <;> rfl
@[simp] theorem Core.modAct_hz (k : Core) (f : RegSet → RegSet) : (k.modAct f).hz = k.hz := by unfold Core.modAct; split <;> rfl
@[simp] theorem Core.seqNext_st (k : Core) : k.seqNext.st = k.st := by unfold Core.seqNext Core.setLoops; (repeat' split) <;> simp
@[simp] theorem Core.seqNext_cause (k : Core) : k.seqNext.cause = k.cause := by unfold Core.seqNext Core.setLoops; (repeat' split) <;> simp
@[simp] theorem Core.seqNext_bank (k : Core) : k.seqNext.bank = k.bank := by unfold Core.seqNext Core.setLoops; (repeat' split) <;> simp
@[simp] theorem Core.seqNext_amod (k : Core) : k.seqNext.amod = k.amod := by unfold Core.seqNext Core.setLoops; (repeat' split) <;> simp
@[simp] theorem Core.seqNext_la (k : Core) : k.seqNext.la = k.la := by unfold Core.seqNext Core.setLoops; (repeat' split) <;> simp
@[simp] theorem Core.seqNext_calls (k : Core) : k.seqNext.calls = k.calls := by unfold Core.seqNext Core.setLoops; (repeat' split) <;> simp
@[simp] theorem Core.seqNext_ops (k : Core) : k.seqNext.ops = k.ops := by unfold Core.seqNext Core.setLoops; (repeat' split) <;> simp
@[simp] theorem Core.seqNext_tagSt (k : Core) : k.seqNext.tagSt = k.tagSt := by unfold Core.seqNext Core.setLoops; (repeat' split) <;> simp
@[simp] theorem Core.seqNext_imask (k : Core) : k.seqNext.imask = k.imask := by unfold Core.seqNext Core.setLoops; (repeat' split) <;> simp
@[simp] theorem Core.seqNext_ipend (k : Core) : k.seqNext.ipend = k.ipend := by unfold Core.seqNext Core.setLoops; (repeat' split) <;> simp
@[simp] theorem Core.seqNext_ipc (k : Core) : k.seqNext.ipc = k.ipc := by unfold Core.seqNext Core.setLoops; (repeat' split) <;> simp
@[simp] theorem Core.seqNext_tsel (k : Core) : k.seqNext.tsel = k.tsel := by unfold Core.seqNext Core.setLoops; (repeat' split) <;> simp
@[simp] theorem Core.seqNext_alarmLo (k : Core) : k.seqNext.alarmLo = k.alarmLo := by unfold Core.seqNext Core.setLoops; (repeat' split) <;> simp
@[simp] theorem Core.seqNext_alarmHi (k : Core) : k.seqNext.alarmHi = k.alarmHi := by unfold Core.seqNext Core.setLoops; (repeat' split) <;> simp
@[simp] theorem Core.seqNext_armed (k : Core) : k.seqNext.armed = k.armed := by unfold Core.seqNext Core.setLoops; (repeat' split) <;> simp
@[simp] theorem Core.seqNext_rtHi (k : Core) : k.seqNext.rtHi = k.rtHi := by unfold Core.seqNext Core.setLoops; (repeat' split) <;> simp
@[simp] theorem Core.seqNext_waitTag (k : Core) : k.seqNext.waitTag = k.waitTag := by unfold Core.seqNext Core.setLoops; (repeat' split) <;> simp
@[simp] theorem Core.seqNext_sw (k : Core) : k.seqNext.sw = k.sw := by unfold Core.seqNext Core.setLoops; (repeat' split) <;> simp
@[simp] theorem Core.seqNext_arg (k : Core) : k.seqNext.arg = k.arg := by unfold Core.seqNext Core.setLoops; (repeat' split) <;> simp
@[simp] theorem Core.seqNext_halts (k : Core) : k.seqNext.halts = k.halts := by unfold Core.seqNext Core.setLoops; (repeat' split) <;> simp
@[simp] theorem Core.seqNext_slot (k : Core) : k.seqNext.slot = k.slot := by unfold Core.seqNext Core.setLoops; (repeat' split) <;> simp
@[simp] theorem Core.seqNext_inSlot (k : Core) : k.seqNext.inSlot = k.inSlot := by unfold Core.seqNext Core.setLoops; (repeat' split) <;> simp
@[simp] theorem Core.seqNext_rti (k : Core) : k.seqNext.rti = k.rti := by unfold Core.seqNext Core.setLoops; (repeat' split) <;> simp
@[simp] theorem Core.seqNext_ctx (k : Core) : k.seqNext.ctx = k.ctx := by unfold Core.seqNext Core.setLoops; (repeat' split) <;> simp
@[simp] theorem Core.seqNext_hz (k : Core) : k.seqNext.hz = k.hz := by unfold Core.seqNext Core.setLoops; (repeat' split) <;> simp
@[simp] theorem Core.advance_st (k : Core) : k.advance.st = k.st := by
  unfold Core.advance; (repeat' split) <;> (try dsimp only) <;> (repeat' split) <;> simp
@[simp] theorem Core.advance_cause (k : Core) : k.advance.cause = k.cause := by
  unfold Core.advance; (repeat' split) <;> (try dsimp only) <;> (repeat' split) <;> simp
@[simp] theorem Core.advance_bank (k : Core) : k.advance.bank = k.bank := by
  unfold Core.advance; (repeat' split) <;> (try dsimp only) <;> (repeat' split) <;> simp
@[simp] theorem Core.advance_amod (k : Core) : k.advance.amod = k.amod := by
  unfold Core.advance; (repeat' split) <;> (try dsimp only) <;> (repeat' split) <;> simp
@[simp] theorem Core.advance_la (k : Core) : k.advance.la = k.la := by
  unfold Core.advance; (repeat' split) <;> (try dsimp only) <;> (repeat' split) <;> simp
@[simp] theorem Core.advance_calls (k : Core) : k.advance.calls = k.calls := by
  unfold Core.advance; (repeat' split) <;> (try dsimp only) <;> (repeat' split) <;> simp
@[simp] theorem Core.advance_ops (k : Core) : k.advance.ops = k.ops := by
  unfold Core.advance; (repeat' split) <;> (try dsimp only) <;> (repeat' split) <;> simp
@[simp] theorem Core.advance_tagSt (k : Core) : k.advance.tagSt = k.tagSt := by
  unfold Core.advance; (repeat' split) <;> (try dsimp only) <;> (repeat' split) <;> simp
@[simp] theorem Core.advance_imask (k : Core) : k.advance.imask = k.imask := by
  unfold Core.advance; (repeat' split) <;> (try dsimp only) <;> (repeat' split) <;> simp
@[simp] theorem Core.advance_ipend (k : Core) : k.advance.ipend = k.ipend := by
  unfold Core.advance; (repeat' split) <;> (try dsimp only) <;> (repeat' split) <;> simp
@[simp] theorem Core.advance_ipc (k : Core) : k.advance.ipc = k.ipc := by
  unfold Core.advance; (repeat' split) <;> (try dsimp only) <;> (repeat' split) <;> simp
@[simp] theorem Core.advance_tsel (k : Core) : k.advance.tsel = k.tsel := by
  unfold Core.advance; (repeat' split) <;> (try dsimp only) <;> (repeat' split) <;> simp
@[simp] theorem Core.advance_alarmLo (k : Core) : k.advance.alarmLo = k.alarmLo := by
  unfold Core.advance; (repeat' split) <;> (try dsimp only) <;> (repeat' split) <;> simp
@[simp] theorem Core.advance_alarmHi (k : Core) : k.advance.alarmHi = k.alarmHi := by
  unfold Core.advance; (repeat' split) <;> (try dsimp only) <;> (repeat' split) <;> simp
@[simp] theorem Core.advance_armed (k : Core) : k.advance.armed = k.armed := by
  unfold Core.advance; (repeat' split) <;> (try dsimp only) <;> (repeat' split) <;> simp
@[simp] theorem Core.advance_rtHi (k : Core) : k.advance.rtHi = k.rtHi := by
  unfold Core.advance; (repeat' split) <;> (try dsimp only) <;> (repeat' split) <;> simp
@[simp] theorem Core.advance_waitTag (k : Core) : k.advance.waitTag = k.waitTag := by
  unfold Core.advance; (repeat' split) <;> (try dsimp only) <;> (repeat' split) <;> simp
@[simp] theorem Core.advance_sw (k : Core) : k.advance.sw = k.sw := by
  unfold Core.advance; (repeat' split) <;> (try dsimp only) <;> (repeat' split) <;> simp
@[simp] theorem Core.advance_arg (k : Core) : k.advance.arg = k.arg := by
  unfold Core.advance; (repeat' split) <;> (try dsimp only) <;> (repeat' split) <;> simp
@[simp] theorem Core.advance_halts (k : Core) : k.advance.halts = k.halts := by
  unfold Core.advance; (repeat' split) <;> (try dsimp only) <;> (repeat' split) <;> simp
@[simp] theorem Core.seqNext_set_g (k : Core) (b : Bool) : (k.seqNext.setOf b).g = (k.setOf b).g := by
  unfold Core.seqNext Core.setLoops Core.modAct Core.setOf; (repeat' split) <;> rfl
@[simp] theorem Core.seqNext_set_acc (k : Core) (b : Bool) : (k.seqNext.setOf b).acc = (k.setOf b).acc := by
  unfold Core.seqNext Core.setLoops Core.modAct Core.setOf; (repeat' split) <;> rfl
@[simp] theorem Core.seqNext_set_xy (k : Core) (b : Bool) : (k.seqNext.setOf b).xy = (k.setOf b).xy := by
  unfold Core.seqNext Core.setLoops Core.modAct Core.setOf; (repeat' split) <;> rfl
@[simp] theorem Core.seqNext_set_sat (k : Core) (b : Bool) : (k.seqNext.setOf b).sat = (k.setOf b).sat := by
  unfold Core.seqNext Core.setLoops Core.modAct Core.setOf; (repeat' split) <;> rfl
@[simp] theorem Core.seqNext_set_gov (k : Core) (b : Bool) : (k.seqNext.setOf b).gov = (k.setOf b).gov := by
  unfold Core.seqNext Core.setLoops Core.modAct Core.setOf; (repeat' split) <;> rfl
@[simp] theorem Core.seqNext_set_psn (k : Core) (b : Bool) : (k.seqNext.setOf b).psn = (k.setOf b).psn := by
  unfold Core.seqNext Core.setLoops Core.modAct Core.setOf; (repeat' split) <;> rfl
@[simp] theorem Core.advance_set_g (k : Core) (b : Bool) : (k.advance.setOf b).g = (k.setOf b).g := by
  unfold Core.advance; (repeat' split) <;> (try dsimp only) <;> (repeat' split) <;> first | rfl | exact Core.seqNext_set_g ..
@[simp] theorem Core.advance_set_acc (k : Core) (b : Bool) : (k.advance.setOf b).acc = (k.setOf b).acc := by
  unfold Core.advance; (repeat' split) <;> (try dsimp only) <;> (repeat' split) <;> first | rfl | exact Core.seqNext_set_acc ..
@[simp] theorem Core.advance_set_xy (k : Core) (b : Bool) : (k.advance.setOf b).xy = (k.setOf b).xy := by
  unfold Core.advance; (repeat' split) <;> (try dsimp only) <;> (repeat' split) <;> first | rfl | exact Core.seqNext_set_xy ..
@[simp] theorem Core.advance_set_sat (k : Core) (b : Bool) : (k.advance.setOf b).sat = (k.setOf b).sat := by
  unfold Core.advance; (repeat' split) <;> (try dsimp only) <;> (repeat' split) <;> first | rfl | exact Core.seqNext_set_sat ..
@[simp] theorem Core.advance_set_gov (k : Core) (b : Bool) : (k.advance.setOf b).gov = (k.setOf b).gov := by
  unfold Core.advance; (repeat' split) <;> (try dsimp only) <;> (repeat' split) <;> first | rfl | exact Core.seqNext_set_gov ..
@[simp] theorem Core.advance_set_psn (k : Core) (b : Bool) : (k.advance.setOf b).psn = (k.setOf b).psn := by
  unfold Core.advance; (repeat' split) <;> (try dsimp only) <;> (repeat' split) <;> first | rfl | exact Core.seqNext_set_psn ..

theorem Core.setOf_act (k : Core) : k.setOf k.ctx = k.act := rfl

theorem Core.modAct_set (k : Core) (f : RegSet → RegSet) : (k.modAct f).setOf k.ctx = f k.act := by
  unfold Core.modAct Core.setOf Core.act; split <;> rfl

theorem Core.modAct_set_other (k : Core) (f : RegSet → RegSet) : (k.modAct f).setOf (!k.ctx) = k.setOf (!k.ctx) := by
  unfold Core.modAct Core.setOf; cases k.ctx <;> rfl

theorem Core.modAct_act (k : Core) (f : RegSet → RegSet) : (k.modAct f).act = f k.act := by
  unfold Core.modAct Core.act; cases h : k.ctx <;> simp

theorem Core.seqNext_set_other (k : Core) : k.seqNext.setOf (!k.ctx) = k.setOf (!k.ctx) := by
  unfold Core.seqNext Core.setLoops
  split
  · split
    · split
      · exact Core.modAct_set_other k _
      · exact Core.modAct_set_other k _
    · rfl
  · rfl

theorem Core.advance_set_other (k : Core) : k.advance.setOf (!k.ctx) = k.setOf (!k.ctx) := by
  unfold Core.advance
  split
  · exact Core.seqNext_set_other k
  · split
    · exact Core.seqNext_set_other ({ k with inSlot := false } : Core)
    · dsimp only; split <;> rfl

/-- The PC rules look at the PC, the delay slot, the active set's loops and a pending RTI alone. -/
theorem Core.goesOn_of {k q : Core} (h1 : q.pc = k.pc) (h2 : q.slot = k.slot) (h3 : q.inSlot = k.inSlot) (h4 : q.rti = k.rti)
    (h5 : q.ctx = k.ctx) (h6 : q.act.loops = k.act.loops) : k.goesOn q.advance := by
  unfold Core.goesOn Core.advance
  rw [h3]
  unfold Core.act at h6
  cases hi : k.inSlot
  · simp only [Bool.not_false, if_true]
    unfold Core.seqNext Core.setLoops Core.modAct Core.setOf Core.act
    simp only [h1, h5] at h6 ⊢
    cases hc : k.ctx <;> simp only [hc, Bool.false_eq_true, if_false, if_true] at h6 ⊢ <;> rw [h6] <;> (repeat' split) <;> simp_all
  · simp only [Bool.not_true, Bool.false_eq_true, if_false, h2]
    cases hs : k.slot with
    | none =>
      unfold Core.seqNext Core.setLoops Core.modAct Core.setOf Core.act
      simp only [h1, h5] at h6 ⊢
      cases hc : k.ctx <;> simp only [hc, Bool.false_eq_true, if_false, if_true] at h6 ⊢ <;> rw [h6] <;> (repeat' split) <;> simp_all
    | some t =>
      unfold Core.setOf
      cases hr : k.rti <;> cases hc : k.ctx <;> simp_all

/-- With no RTI pending the context stays. -/
theorem Core.advance_ctx (k : Core) (h : k.rti = false) : k.advance.ctx = k.ctx := by
  unfold Core.advance; (repeat' split) <;> (try dsimp only) <;> (repeat' split) <;> simp_all

theorem Core.advance_hz (k : Core) (h : k.rti = false) : k.advance.hz = k.hz := by
  unfold Core.advance; (repeat' split) <;> (try dsimp only) <;> (repeat' split) <;> simp_all

/-- A core whose control is as k's but for its register set and hazards goes on, and keeps what such an instruction keeps. -/
theorem Core.kept_modAct (k : Core) (f : RegSet → RegSet) (h : Hazard) (hl : (f k.act).loops = k.act.loops) :
    k.goesOn ({ k.modAct f with hz := h } : Core).advance ∧ k.kept ({ k.modAct f with hz := h } : Core).advance
      ∧ k.keptCtl ({ k.modAct f with hz := h } : Core).advance
      ∧ ∀ b, (({ k.modAct f with hz := h } : Core).advance.setOf b).g = ((k.modAct f).setOf b).g
        ∧ (({ k.modAct f with hz := h } : Core).advance.setOf b).acc = ((k.modAct f).setOf b).acc
        ∧ (({ k.modAct f with hz := h } : Core).advance.setOf b).xy = ((k.modAct f).setOf b).xy
        ∧ (({ k.modAct f with hz := h } : Core).advance.setOf b).sat = ((k.modAct f).setOf b).sat
        ∧ (({ k.modAct f with hz := h } : Core).advance.setOf b).gov = ((k.modAct f).setOf b).gov
        ∧ (({ k.modAct f with hz := h } : Core).advance.setOf b).psn = ((k.modAct f).setOf b).psn := by
  refine ⟨Core.goesOn_of (by simp) (by simp) (by simp) (by simp) (by simp) ?_, ?_, ?_, ?_⟩
  · show (k.modAct f).act.loops = _
    rw [Core.modAct_act, hl]
  · refine ⟨by simp, by simp, by simp, ?_, by simp, by simp, by simp, by simp, by simp, by simp, by simp⟩
    have h1 : ∀ q : Core, q.ctx = k.ctx → q.advance.setOf (!k.ctx) = q.setOf (!k.ctx) := fun q hq => by
      rw [← hq]; exact Core.advance_set_other q
    exact (h1 ({ k.modAct f with hz := h } : Core) (Core.modAct_ctx k f)).trans (Core.modAct_set_other k f)
  · refine ⟨by simp, by simp, by simp, by simp, by simp, by simp, by simp, by simp, by simp, by simp⟩
  · intro b
    refine ⟨?_, ?_, ?_, ?_, ?_, ?_⟩ <;> simp <;> rfl

end Sys2Proof.Machine
end

