-- ==== Sys2Proof/Laws/Fetch.lean ====
section
/-! SUPPORT. What fetching an instruction can do to the cores: a decoder that mends or poisons a block reports it, and the event raises an
interrupt source; nothing else of a core changes. -/

namespace Sys2Proof.Machine

/-- The cores of a side with their pending interrupts left aside. -/
def Side.calm (x : Side) : List Core := x.cores.map (fun k => { k with ipend := 0 })

theorem Side.calm_of_cores {x y : Side} (h : y.cores = x.cores) : y.calm = x.calm := by unfold Side.calm; rw [h]

@[simp] theorem Side.calm_setReg (x : Side) (i : Nat) (v : Word) : (x.setReg i v).calm = x.calm := rfl
@[simp] theorem Side.calm_set (x : Side) (f : Fld) (v : Nat) : (x.set f v).calm = x.calm := rfl
@[simp] theorem Side.calm_bump (x : Side) (f : Fld) (n : Nat) : (x.bump f n).calm = x.calm := rfl
@[simp] theorem Side.calm_inc (x : Side) (f : Fld) : (x.inc f).calm = x.calm := rfl
@[simp] theorem Side.calm_setPair (x : Side) (i v : Nat) : (x.setPair i v).calm = x.calm := rfl
@[simp] theorem Side.calm_orBit (x : Side) (f : Fld) (i : Nat) : (x.orBit f i).calm = x.calm := by unfold Side.orBit; split <;> rfl

@[simp] theorem Side.calm_coxIrq (x : Side) (n : Nat) : (x.coxIrq n).calm = x.calm := by
  simp [Side.calm, Side.coxIrq, List.map_map, Function.comp_def]

@[simp] theorem Side.calm_eventSt (x : Side) (code st t : Nat) (a b : Int) : (x.eventSt code st t a b).calm = x.calm := by
  unfold Side.eventSt
  cases eventIrq code with
  | none => dsimp only; split <;> rfl
  | some n => dsimp only; split <;> exact Side.calm_coxIrq x n

@[simp] theorem Side.calm_event (x : Side) (code t : Nat) (a b : Int) : (x.event code t a b).calm = x.calm := Side.calm_eventSt ..

@[simp] theorem Side.calm_logRecord (x : Side) (r : Report) : (x.logRecord r).calm = x.calm := by
  unfold Side.logRecord; simp only []; split <;> simp

@[simp] theorem Side.calm_countReport (x : Side) (r : Report) : (x.countReport r).calm = x.calm := by
  unfold Side.countReport; simp only []; split <;> split <;> simp

@[simp] theorem Side.calm_outstanding (x : Side) (a b c : Nat) : (x.outstanding a b c).calm = x.calm := by
  unfold Side.outstanding; split
  · simp
  · split <;> simp

@[simp] theorem Side.calm_faultRefresh (x : Side) : x.faultRefresh.calm = x.calm := by simp [Side.faultRefresh]

@[simp] theorem Side.calm_logFault (x : Side) (r : Report) (own : Bool) : (x.logFault r own).calm = x.calm := by
  unfold Side.logFault; simp only []; split <;> split <;> simp

@[simp] theorem Side.calm_report (x : Side) (a b c : Nat) (i : Bool) : (x.report a b c i).calm = x.calm := Side.calm_logFault ..

@[simp] theorem Side.calm_takeInj (x : Side) (l : Nat) : (x.takeInj l).2.calm = x.calm := by
  unfold Side.takeInj; simp only []; repeat' split
  all_goals simp

@[simp] theorem Side.calm_setMem (x : Side) (k : MemSel) (m : BpcMem) : (x.setMem k m).calm = x.calm := by cases k <;> rfl

@[simp] theorem Side.calm_countRead (x : Side) (k : MemSel) (b : Nat) (bad : Bool) : (x.countRead k b bad).calm = x.calm := by
  cases k <;> simp only [Side.countRead] <;> (try split) <;> simp

@[simp] theorem Side.calm_zeroBlk (x : Side) (k : MemSel) (b : Nat) : (x.zeroBlk k b).calm = x.calm := by simp [Side.zeroBlk]

@[simp] theorem Side.calm_poisonBlk_cox (x : Side) (b : Nat) (ws : List Word) (c : Nat) : (x.poisonBlk .cox b ws c).calm = x.calm := by
  unfold Side.poisonBlk; simp only [show (MemSel.cox == MemSel.dram) = false from rfl, Bool.false_eq_true, if_false]; split <;> simp

@[simp] theorem Side.calm_writeBlk (x : Side) (k : MemSel) (b : Nat) (ws : List Word) : (x.writeBlk k b ws).calm = x.calm := by
  simp [Side.writeBlk]

@[simp] theorem Side.calm_flushEnt_cox (x : Side) (e : MergeEnt) : (x.flushEnt .cox e).calm = x.calm := by
  unfold Side.flushEnt; simp only []; repeat' split
  all_goals simp

theorem Side.calm_foldl {α : Type} (f : Side → α → Side) (h : ∀ x a, (f x a).calm = x.calm) (l : List α) :
    ∀ x, (l.foldl f x).calm = x.calm := by
  induction l with
  | nil => intro x; rfl
  | cons a r ih => intro x; exact (ih _).trans (h x a)

@[simp] theorem Side.calm_flushEnts_cox (x : Side) (p : MergeEnt → Bool) : (x.flushEnts .cox p).calm = x.calm :=
  Side.calm_foldl _ (fun x e => Side.calm_flushEnt_cox x e) _ x

@[simp] theorem Side.calm_flushBlk_cox (x : Side) (b : Nat) : (x.flushBlk .cox b).calm = x.calm := Side.calm_flushEnts_cox x _

@[simp] theorem Side.calm_leaveOthers_cox (x : Side) (src b : Nat) : x.leaveOthers .cox src b = x := rfl

@[simp] theorem Side.calm_openEnt_cox (x : Side) (e : MergeEnt) : (x.openEnt .cox e).calm = x.calm := by
  unfold Side.openEnt; dsimp only
  rw [Side.calm_setMem]
  split
  · cases ((x.memOf .cox).buf.filter (fun f => x.bufGroup .cox f.blk == x.bufGroup .cox e.blk)).head? with
    | none => rfl
    | some d => exact Side.calm_flushEnt_cox x d
  · rfl

@[simp] theorem Side.calm_decodeBlk_cox (x : Side) (b r : Nat) : (x.decodeBlk .cox b r).1.calm = x.calm := by
  unfold Side.decodeBlk; simp only []; repeat' split
  all_goals simp

@[simp] theorem Side.calm_readBlk_cox (x : Side) (b : Nat) : (x.readBlk .cox b).1.calm = x.calm := by simp [Side.readBlk]

theorem Side.calm_readRange_cox (x : Side) (a n : Nat) : (x.readRange .cox a n).1.calm = x.calm := by
  unfold Side.readRange; split
  · rfl
  · simp only []
    suffices h : ∀ (l : List Nat) (acc : Side × List Word × Nat), acc.1.calm = x.calm →
        (l.foldl (fun (acc : Side × List Word × Nat) i =>
          let r := acc.1.readBlk .cox (a / MemSel.cox.n + i)
          (r.1, acc.2.1 ++ (if r.2.2 then List.replicate MemSel.cox.n 0 else r.2.1), acc.2.2 + b2n r.2.2)) acc).1.calm = x.calm from h _ _ rfl
    intro l
    induction l with
    | nil => intro acc h; exact h
    | cons i r ih => intro acc h; exact ih _ (by simpa using h)

@[simp] theorem Side.calm_readWord_cox (x : Side) (a : Nat) : (x.readWord .cox a).1.calm = x.calm := Side.calm_readRange_cox ..

@[simp] theorem Side.calm_fetch (x : Side) (c : Nat) : (x.fetch c).1.calm = x.calm := Side.calm_readWord_cox ..

@[simp] theorem Side.calm_readWord_modCore (x : Side) (a c : Nat) (f : Core → Core) :
    ((x.modCore c f).readWord .cox a).1.calm = (x.modCore c f).calm := Side.calm_readWord_cox ..

/-! ### Writes -/

@[simp] theorem Side.calm_writePart_cox (x : Side) (src b : Nat) (ns : List (Nat × Word)) : (x.writePart .cox src b ns).calm = x.calm := by
  unfold Side.writePart; dsimp only
  repeat' split
  all_goals simp

@[simp] theorem Side.calm_writeWhole_cox (x : Side) (src b : Nat) (ws : List Word) : (x.writeWhole .cox src b ws).calm = x.calm := by
  unfold Side.writeWhole; dsimp only
  split <;> simp

@[simp] theorem Side.calm_writeRange_cox (x : Side) (src a : Nat) (ws : List Word) : (x.writeRange .cox src a ws).calm = x.calm := by
  unfold Side.writeRange
  split
  · rfl
  · refine Side.calm_foldl _ (fun x i => ?_) _ _
    dsimp only; split <;> simp

/-- Calm sides stay so under one change of a core that looks at its pending interrupts not at all. -/
theorem Side.calm_modCore {x y : Side} (h : y.calm = x.calm) (c : Nat) (f : Core → Core)
    (hf : ∀ k p, { f { k with ipend := p } with ipend := 0 } = ({ f k with ipend := 0 } : Core)) :
    (y.modCore c f).calm = (x.modCore c f).calm := by
  have e : ∀ z : Side, (z.modCore c f).calm = lmod z.calm c (fun k => { f k with ipend := 0 }) := by
    intro z
    unfold Side.calm Side.modCore lmod
    apply List.ext_getElem?
    intro i
    simp only [List.getElem?_map, List.getElem?_modify]
    by_cases hi : c = i
    · subst hi; cases z.cores[c]? with
      | none => simp
      | some k => simp only [if_true, Option.map_some]; exact congrArg some (hf k 0).symm
    · cases z.cores[i]? <;> simp [hi]
  rw [e, e, h]

/-- Calm cores agree in number. -/
theorem Side.cores_length_of_calm {x y : Side} (h : y.calm = x.calm) : y.cores.length = x.cores.length := by
  have := congrArg List.length h; simpa [Side.calm] using this

/-- Calm cores agree in everything but pending interrupts. -/
theorem Side.coreOf_of_calm {x y : Side} (h : y.calm = x.calm) (c : Nat) : y.coreOf c = { x.coreOf c with ipend := (y.coreOf c).ipend } := by
  have hl := Side.cores_length_of_calm h
  by_cases hc : c < x.cores.length
  · have e : y.calm[c]? = x.calm[c]? := by rw [h]
    have hy : c < y.cores.length := by omega
    simp only [Side.calm, List.getElem?_map, List.getElem?_eq_getElem hc, List.getElem?_eq_getElem hy, Option.map_some, Option.some.injEq] at e
    simp only [Side.coreOf, lget, List.getElem?_eq_getElem hc, List.getElem?_eq_getElem hy, Option.getD_some]
    have e' := congrArg (fun k : Core => ({ k with ipend := (y.cores[c]).ipend } : Core)) e
    exact e'
  · have hy : ¬ c < y.cores.length := by omega
    simp only [Side.coreOf, lget, List.getElem?_eq_none (Nat.le_of_not_lt hc), List.getElem?_eq_none (Nat.le_of_not_lt hy), Option.getD_none]

/-- The core as it stands after a fetch: the core before it, but for pending interrupts. -/
theorem Side.coreOf_fetch (x : Side) (c j : Nat) :
    (x.fetch c).1.coreOf j = { x.coreOf j with ipend := ((x.fetch c).1.coreOf j).ipend } := Side.coreOf_of_calm (Side.calm_fetch x c) j

@[simp] theorem Side.cores_length_fetch (x : Side) (c : Nat) : (x.fetch c).1.cores.length = x.cores.length :=
  Side.cores_length_of_calm (Side.calm_fetch x c)

end Sys2Proof.Machine
end

