-- ==== Sys2Proof/Laws/Cox.lean ====
section
/-! SUPPORT. What issuing a Cox instruction can do: an instruction that the core executes runs its body on the core as fetched. -/

namespace Sys2Proof.Machine

theorem State.issue_of_executes {s : State} {sd : SideId} {c : Fin 4} {i : Instr} (h : s.executes sd c i = true)
    (body : Core → State → State) :
    s.issue sd c i body = body ((s.side sd).coreOf c.val)
      (s.setSide sd ((s.fetched sd c).modCore c.val (fun q => { q with hz := Hazard.none }))) := by
  simp only [State.executes, Bool.and_eq_true, beq_iff_eq, Option.any_eq_true] at h
  obtain ⟨⟨⟨⟨⟨h1, h2⟩, w, h3, h3'⟩, h4⟩, h5⟩, _⟩ := h
  simp [State.issue, h1, h2, h3, h3', h4, h5, State.fetched]

theorem State.executes_cores {s : State} {sd : SideId} {c : Fin 4} {i : Instr} (h : s.executes sd c i = true) :
    (s.side sd).cores.length = 4 := by
  simp only [State.executes, Bool.and_eq_true, beq_iff_eq] at h; exact h.2

theorem State.executes_st {s : State} {sd : SideId} {c : Fin 4} {i : Instr} (h : s.executes sd c i = true) :
    ((s.side sd).coreOf c.val).st = 1 := by
  simp only [State.executes, Bool.and_eq_true, beq_iff_eq] at h; exact h.1.1.1.1.2

theorem State.executes_violation {s : State} {sd : SideId} {c : Fin 4} {i : Instr} (h : s.executes sd c i = true) :
    ((s.side sd).coreOf c.val).violation i = none := by
  simp only [State.executes, Bool.and_eq_true, beq_iff_eq] at h; exact h.1.1.2

/-- The core as fetched is the core before, but for pending interrupts. -/
theorem State.fetched_core (s : State) (sd : SideId) (c : Fin 4) (j : Nat) :
    (s.side sd).coreOf j = { (s.fetched sd c).coreOf j with ipend := ((s.side sd).coreOf j).ipend } := by
  have h := Side.coreOf_fetch (s.side sd) c.val j
  unfold State.fetched
  rw [h]

/-- An instruction that changes its core alone. -/
theorem onCore_of_core {s : State} {sd : SideId} {c : Fin 4} {i : Instr} {P : Core → Core → Prop} {f : Core → Core → Core}
    (hx : exec i s = .next (s.issue sd c i (fun k s => s.mod sd (fun x => x.modCore c.val (f k)))))
    (h : s.executes sd c i = true)
    (hP : ∀ p, (s.side sd).coreOf c.val = { (s.fetched sd c).coreOf c.val with ipend := p } →
      P ((s.fetched sd c).coreOf c.val)
      (f { (s.fetched sd c).coreOf c.val with ipend := p } { (s.fetched sd c).coreOf c.val with hz := Hazard.none })) :
    OnCore s sd c i P := by
  have hl : c.val < (s.fetched sd c).cores.length := by
    have h1 := State.executes_cores h
    have h2 := Side.cores_length_fetch (s.side sd) c.val
    have h3 := c.isLt
    unfold State.fetched
    omega
  refine ⟨_, hx, ?_⟩
  rw [State.issue_of_executes h]
  simp only [State.mod_setSide, State.side_setSide, Side.modCore_modCore]
  refine ⟨trivial, rfl, fun j hj => Side.coreOf_modCore_ne _ _ _ _ hj, ?_⟩
  rw [Side.coreOf_modCore _ _ _ hl, State.fetched_core s sd c c.val]
  exact hP _ (State.fetched_core s sd c c.val)

/-- An instruction that acts on its core alone and goes on. -/
theorem onCore_of_side {s : State} {sd : SideId} {c : Fin 4} {i : Instr} {P : Core → Core → Prop} {f : Core → Core → Core}
    {body : Core → Side → Side} (hb : ∀ k x, body k x = x.modCore c.val (f k))
    (hx : exec i s = s.issueSide sd c i body) (h : s.executes sd c i = true)
    (hP : ∀ p, (s.side sd).coreOf c.val = { (s.fetched sd c).coreOf c.val with ipend := p } →
      P ((s.fetched sd c).coreOf c.val)
      (f { (s.fetched sd c).coreOf c.val with ipend := p } { (s.fetched sd c).coreOf c.val with hz := Hazard.none }).advance) :
    OnCore s sd c i P := by
  refine onCore_of_core (f := fun k q => (f k q).advance) ?_ h hP
  rw [hx]; unfold State.issueSide; simp only [hb, Side.goOn, Side.modCore_modCore]

end Sys2Proof.Machine
end

