-- ==== Sys2Proof/Laws/Memory.lean ====
section
/-! SUPPORT. Every memory operation keeps the canonical form of a side's memories, and the memories after reset have it. -/

namespace Sys2Proof.Machine

/-- The three protected memories of a side. -/
def Side.mems (x : Side) : BpcMem × BpcMem × BpcMem := (x.sram.mem, x.dram.mem, x.coxMem)

theorem Side.memWf_of_mems {x y : Side} (h : y.mems = x.mems) : y.memWf = x.memWf := by
  have h1 : y.sram.mem = x.sram.mem := congrArg Prod.fst h
  have h2 : y.dram.mem = x.dram.mem := congrArg (fun p => p.2.1) h
  have h3 : y.coxMem = x.coxMem := congrArg (fun p => p.2.2) h
  simp only [Side.memWf, h1, h2, h3]

/-! ### What leaves the memories alone -/

@[simp] theorem Side.mems_set (x : Side) (f : Fld) (v : Nat) : (x.set f v).mems = x.mems := rfl
@[simp] theorem Side.mems_setReg (x : Side) (i : Nat) (v : Word) : (x.setReg i v).mems = x.mems := rfl
@[simp] theorem Side.mems_bump (x : Side) (f : Fld) (n : Nat) : (x.bump f n).mems = x.mems := rfl
@[simp] theorem Side.mems_inc (x : Side) (f : Fld) : (x.inc f).mems = x.mems := rfl
@[simp] theorem Side.mems_raise (x : Side) (f : Fld) : (x.raise f).mems = x.mems := rfl
@[simp] theorem Side.mems_drop (x : Side) (f : Fld) : (x.drop f).mems = x.mems := rfl
@[simp] theorem Side.mems_put (x : Side) (f : Fld) (b : Bool) : (x.put f b).mems = x.mems := rfl
@[simp] theorem Side.mems_setPair (x : Side) (i v : Nat) : (x.setPair i v).mems = x.mems := rfl
@[simp] theorem Side.mems_setAcq (x : Side) (c : Chan) (a : Acq) : (x.setAcq c a).mems = x.mems := rfl

@[simp] theorem Side.mems_coxIrq (x : Side) (n : Nat) : (x.coxIrq n).mems = x.mems := by
  unfold Side.coxIrq; rfl

@[simp] theorem Side.mems_event (x : Side) (code time : Nat) (r0 r1 : Int) : (x.event code time r0 r1).mems = x.mems := by
  unfold Side.event Side.eventSt
  dsimp only
  split <;> split <;> rfl

@[simp] theorem Side.mems_outstanding (x : Side) (a b c : Nat) : (x.outstanding a b c).mems = x.mems := by
  unfold Side.outstanding
  split
  · rfl
  · split <;> rfl

@[simp] theorem Side.mems_logRecord (x : Side) (r : Report) : (x.logRecord r).mems = x.mems := by
  unfold Side.logRecord; dsimp only; split <;> rfl

@[simp] theorem Side.mems_countReport (x : Side) (r : Report) : (x.countReport r).mems = x.mems := by
  unfold Side.countReport; dsimp only; split <;> split <;> rfl

@[simp] theorem Side.mems_faultRefresh (x : Side) : x.faultRefresh.mems = x.mems := rfl

@[simp] theorem Side.mems_report (x : Side) (cls l syn : Nat) (inj : Bool) : (x.report cls l syn inj).mems = x.mems := by
  unfold Side.report Side.logFault
  dsimp only
  split <;> split <;> simp

@[simp] theorem Side.mems_takeInj (x : Side) (l : Nat) : (x.takeInj l).2.mems = x.mems := by
  unfold Side.takeInj; dsimp only; split
  · dsimp only; split <;> rfl
  · rfl

@[simp] theorem Side.mems_countRead (x : Side) (k : MemSel) (b : Nat) (bad : Bool) : (x.countRead k b bad).mems = x.mems := by
  unfold Side.countRead; split
  · split <;> rfl
  · dsimp only; split <;> rfl
  · rfl

/-! ### Blocks -/

theorem BpcMem.wf_store {m : BpcMem} (h : m.wf = true) (n blk : Nat) (ws : List Word) (p : Bool) : (m.store n blk ws p).wf = true := by
  simp only [BpcMem.wf, Bool.and_eq_true] at h ⊢
  obtain ⟨⟨⟨h1, h2⟩, h3⟩, h4⟩ := h
  refine ⟨⟨⟨wordsWf_wputs _ _ _ h1, asorted_adel _ _ h2⟩, ?_⟩, asorted_adel _ _ h4⟩
  unfold BpcMem.store; dsimp only
  split
  · exact asorted_aput _ _ _ h3
  · exact asorted_adel _ _ h3

theorem Side.memOf_wf {x : Side} (h : x.memWf = true) (k : MemSel) : (x.memOf k).wf = true := by
  simp only [Side.memWf, Bool.and_eq_true] at h
  cases k
  · exact h.1.1
  · exact h.1.2
  · exact h.2

theorem Side.memWf_setMem {x : Side} (h : x.memWf = true) (k : MemSel) {m : BpcMem} (hm : m.wf = true) : (x.setMem k m).memWf = true := by
  simp only [Side.memWf, Bool.and_eq_true] at h ⊢
  cases k <;> simp [Side.setMem, hm, h.1.1, h.1.2, h.2]

theorem Side.memWf_orWord {x : Side} (h : x.memWf = true) (k : MemSel) (w : Nat) (v : Word) : (x.orWord k w v).memWf = true := by
  refine Side.memWf_setMem h k ?_
  have := Side.memOf_wf h k
  simp only [BpcMem.wf, Bool.and_eq_true] at this ⊢
  exact ⟨⟨⟨wordsWf_wput _ _ _ this.1.1.1, this.1.1.2⟩, this.1.2⟩, this.2⟩

theorem foldl_keeps {α β : Type} (p : α → Prop) (f : α → β → α) (hf : ∀ a b, p a → p (f a b)) : ∀ (l : List β) (a : α), p a → p (l.foldl f a)
  | [], _, h => h
  | b :: l, a, h => foldl_keeps p f hf l (f a b) (hf a b h)

theorem Side.memWf_flagEntry {x : Side} (h : x.memWf = true) (b : List Word) (n : Nat) : (x.flagEntry b n).memWf = true := by
  unfold Side.flagEntry; split
  · exact Side.memWf_orWord h _ _ _
  · exact h

theorem Side.memWf_flagEntries (b : List Word) : ∀ (l : List Seg) (x : Side), x.memWf = true →
    (l.foldl (fun x g => x.flagEntry b g.num) x).memWf = true
  | [], _, h => h
  | g :: l, x, h => Side.memWf_flagEntries b l (x.flagEntry b g.num) (Side.memWf_flagEntry h b g.num)

theorem Side.memWf_flagHeader {x : Side} (h : x.memWf = true) (c : Chan) : (x.flagHeader c).memWf = true := by
  rw [Side.memWf_of_mems (x := x) (by simp [Side.flagHeader])]; exact h

theorem Side.memWf_markArmed {x : Side} (h : x.memWf = true) (c : Chan) (ws : List Nat) : (x.markArmed c ws).memWf = true := by
  unfold Side.markArmed; dsimp only
  split
  · exact h
  · split
    · exact h
    · refine Side.memWf_flagHeader ?_ _
      rw [Side.memWf_of_mems (Side.mems_setAcq _ _ _)]
      exact Side.memWf_flagEntries _ _ x h

theorem Side.memWf_markLast {x : Side} (h : x.memWf = true) (c : Chan) (ws : List Nat) : (x.markLast c ws).memWf = true := by
  unfold Side.markLast; dsimp only
  split
  · exact h
  · split
    · exact h
    · rw [Side.memWf_of_mems (Side.mems_event _ _ _ _ _)]
      have h1 := Side.memWf_flagEntries
      split
      · rw [Side.memWf_of_mems (Side.mems_raise _ _)]; exact h1 _ _ x h
      · exact Side.memWf_flagHeader (h1 _ _ x h) _

theorem Side.memWf_markRecord {x : Side} (h : x.memWf = true) (c : Chan) (blk : Nat) : (x.markRecord c blk).memWf = true :=
  Side.memWf_markLast (Side.memWf_markArmed h c _) c _

theorem Side.memWf_markRecords {x : Side} (h : x.memWf = true) (blk : Nat) : (x.markRecords blk).memWf = true :=
  Side.memWf_markRecord (Side.memWf_markRecord h _ _) _ _

theorem Side.memWf_report {x : Side} (h : x.memWf = true) (cls l syn : Nat) (inj : Bool) : (x.report cls l syn inj).memWf = true := by
  rw [Side.memWf_of_mems (Side.mems_report _ _ _ _ _)]; exact h

theorem Side.memWf_poisonBlk {x : Side} (h : x.memWf = true) (k : MemSel) (blk : Nat) (ws : List Word) (code : Nat) :
    (x.poisonBlk k blk ws code).memWf = true := by
  have h1 := Side.memWf_setMem h k (BpcMem.wf_store (Side.memOf_wf h k) k.n blk ws true)
  unfold Side.poisonBlk; dsimp only
  split
  · refine Side.memWf_markRecords (Side.memWf_report ?_ _ _ _ _) _
    split
    · exact h1
    · exact h1
  · refine Side.memWf_report ?_ _ _ _ _
    split
    · exact h1
    · exact h1

theorem Side.memWf_zeroBlk {x : Side} (h : x.memWf = true) (k : MemSel) (blk : Nat) : (x.zeroBlk k blk).memWf = true :=
  Side.memWf_report (x := ((x.setMem k ((x.memOf k).store k.n blk (List.replicate k.n 0) false)).inc SRAM_DENS_ZERO.whole))
    (Side.memWf_setMem h k (BpcMem.wf_store (Side.memOf_wf h k) _ _ _ _)) _ _ _ _

theorem Side.memWf_countRead {x : Side} (h : x.memWf = true) (k : MemSel) (b : Nat) (bad : Bool) : (x.countRead k b bad).memWf = true := by
  rw [Side.memWf_of_mems (Side.mems_countRead _ _ _ _)]; exact h

/-- A block read keeps the canonical form. -/
theorem Side.memWf_decodeBlk {x : Side} (h : x.memWf = true) (k : MemSel) (blk reached : Nat) : (x.decodeBlk k blk reached).1.memWf = true := by
  unfold Side.decodeBlk; dsimp only
  split
  · exact h
  · exact h
  · exact Side.memWf_report (Side.memWf_countRead h _ _ _) _ _ _ _
  · split
    · exact Side.memWf_zeroBlk (Side.memWf_countRead h _ _ _) _ _
    · exact Side.memWf_poisonBlk (Side.memWf_countRead h _ _ _) _ _ _ _

/-- A write of a whole block keeps it. -/
theorem Side.memWf_writeBlk {x : Side} (h : x.memWf = true) (k : MemSel) (blk : Nat) (ws : List Word) : (x.writeBlk k blk ws).memWf = true := by
  have h1 : (x.takeInj (x.decoder k blk)).2.memWf = true := by rw [Side.memWf_of_mems (Side.mems_takeInj _ _)]; exact h
  unfold Side.writeBlk; dsimp only
  refine Side.memWf_setMem h1 k ?_
  have h2 := BpcMem.wf_store (Side.memOf_wf h1 k) k.n blk ws false
  split
  · simp only [BpcMem.wf, Bool.and_eq_true] at h2 ⊢
    exact ⟨⟨⟨h2.1.1.1, asorted_aput _ _ _ h2.1.1.2⟩, h2.1.2⟩, asorted_aput _ _ _ h2.2⟩
  · exact h2

theorem Side.memWf_setBuf {x : Side} (h : x.memWf = true) (k : MemSel) (b : List MergeEnt) : (x.setMem k { x.memOf k with buf := b }).memWf = true :=
  Side.memWf_setMem h k (Side.memOf_wf h k)

/-- A buffer entry that leaves its buffer keeps it. -/
theorem Side.memWf_flushEnt {x : Side} (h : x.memWf = true) (k : MemSel) (e : MergeEnt) : (x.flushEnt k e).memWf = true := by
  unfold Side.flushEnt
  split
  · exact h
  · have h1 := Side.memWf_setBuf h k ((x.memOf k).buf.filter (fun f => f.blk != e.blk || f.src != e.src))
    dsimp only
    split
    · exact Side.memWf_writeBlk h1 _ _ _
    · split
      · exact Side.memWf_poisonBlk h1 _ _ _ _
      · exact Side.memWf_writeBlk h1 _ _ _
      · exact Side.memWf_writeBlk (Side.memWf_report (Side.memWf_countRead h1 _ _ _) _ _ _ _) _ _ _
      · split
        · exact Side.memWf_writeBlk (Side.memWf_zeroBlk (Side.memWf_countRead h1 _ _ _) _ _) _ _ _
        · exact Side.memWf_poisonBlk (Side.memWf_countRead h1 _ _ _) _ _ _ _

theorem Side.memWf_flushEnts {x : Side} (h : x.memWf = true) (k : MemSel) (p : MergeEnt → Bool) : (x.flushEnts k p).memWf = true :=
  foldl_keeps (fun y : Side => y.memWf = true) _ (fun _ e hy => Side.memWf_flushEnt hy k e) _ x h

theorem Side.memWf_flushBlk {x : Side} (h : x.memWf = true) (k : MemSel) (blk : Nat) : (x.flushBlk k blk).memWf = true :=
  Side.memWf_flushEnts h k _

theorem Side.memWf_flushAll {x : Side} (h : x.memWf = true) (k : MemSel) : (x.flushAll k).memWf = true := Side.memWf_flushEnts h k _

theorem Side.memWf_leaveOthers {x : Side} (h : x.memWf = true) (k : MemSel) (src blk : Nat) : (x.leaveOthers k src blk).memWf = true := by
  unfold Side.leaveOthers; split
  · exact Side.memWf_flushEnts h k _
  · exact h

/-- An entry put into its buffer keeps it. -/
theorem Side.memWf_openEnt {x : Side} (h : x.memWf = true) (k : MemSel) (e : MergeEnt) : (x.openEnt k e).memWf = true := by
  unfold Side.openEnt; dsimp only
  refine Side.memWf_setBuf ?_ _ _
  split
  · cases ((x.memOf k).buf.filter (fun f => x.bufGroup k f.blk == x.bufGroup k e.blk)).head? with
    | none => exact h
    | some d => exact Side.memWf_flushEnt h k d
  · exact h

theorem Side.memWf_writePart {x : Side} (h : x.memWf = true) (k : MemSel) (src blk : Nat) (ns : List (Nat × Word)) :
    (x.writePart k src blk ns).memWf = true := by
  have h1 := Side.memWf_leaveOthers h k src blk
  unfold Side.writePart; dsimp only
  split
  · split
    · exact Side.memWf_flushEnt (Side.memWf_setBuf h1 _ _) _ _
    · exact Side.memWf_setBuf h1 _ _
  · exact Side.memWf_openEnt h1 _ _

theorem Side.memWf_writeWhole {x : Side} (h : x.memWf = true) (k : MemSel) (src blk : Nat) (ws : List Word) :
    (x.writeWhole k src blk ws).memWf = true := by
  have h1 := Side.memWf_setBuf (Side.memWf_leaveOthers h k src blk) k
    (((x.leaveOthers k src blk).memOf k).buf.filter (fun f => !k.takes src blk f))
  unfold Side.writeWhole; dsimp only
  split
  · exact Side.memWf_openEnt h1 _ _
  · exact Side.memWf_writeBlk h1 _ _ _

/-- A write of words keeps it. -/
theorem Side.memWf_writeRange {x : Side} (h : x.memWf = true) (k : MemSel) (src addr : Nat) (ws : List Word) :
    (x.writeRange k src addr ws).memWf = true := by
  unfold Side.writeRange; split
  · exact h
  · refine foldl_keeps (fun y : Side => y.memWf = true) _ (fun y i hy => ?_) _ x h
    dsimp only
    split
    · exact Side.memWf_writeWhole hy _ _ _ _
    · exact Side.memWf_writePart hy _ _ _ _

theorem Side.memWf_readBlk {x : Side} (h : x.memWf = true) (k : MemSel) (blk : Nat) : (x.readBlk k blk).1.memWf = true :=
  Side.memWf_decodeBlk (Side.memWf_flushBlk h _ _) _ _ _

/-- A read of words keeps it. -/
theorem Side.memWf_readRange {x : Side} (h : x.memWf = true) (k : MemSel) (addr len : Nat) : (x.readRange k addr len).1.memWf = true := by
  unfold Side.readRange; split
  · exact h
  · refine foldl_keeps (fun y : Side × List Word × Nat => y.1.memWf = true) _ (fun y i hy => ?_) _ (x, [], 0) h
    exact Side.memWf_readBlk hy _ _

/-- Bits that decay keep it. -/
theorem Side.memWf_upset {x : Side} (h : x.memWf = true) (k : MemSel) (blk : Nat) (fs : List (Nat × Nat)) : (x.upset k blk fs).memWf = true := by
  unfold Side.upset; dsimp only
  refine Side.memWf_setMem h k ?_
  have h2 := Side.memOf_wf h k
  simp only [BpcMem.wf, Bool.and_eq_true] at h2 ⊢
  refine ⟨⟨⟨h2.1.1.1, ?_⟩, h2.1.2⟩, h2.2⟩
  split
  · exact asorted_adel _ _ h2.1.1.2
  · exact asorted_aput _ _ _ h2.1.1.2

/-- Bytes written to host memory keep its canonical form, and the memories of both sides. -/
theorem State.canonical_dmaWrite {s : State} (h : s.canonical = true) (sd : SideId) (addr : Nat) (bs : List Byte) :
    (s.dmaWrite sd addr bs).canonical = true := by
  simp only [State.canonical, Side.canonical, Bool.and_eq_true] at h ⊢
  unfold State.dmaWrite State.mod
  cases s.endpoint sd
  · exact ⟨⟨h.1.1, bytesWf_bputs _ _ _ h.1.2⟩, h.2⟩
  · exact ⟨h.1, ⟨h.2.1, bytesWf_bputs _ _ _ h.2.2⟩⟩

/-- The memories of both sides right after reset. -/
theorem State.reset_memWf (sd : SideId) : (State.reset.side sd).memWf = true := by cases sd <;> decide

end Sys2Proof.Machine
end

