-- ==== Sys2Proof/Laws/Moves.lean ====
section
/-! SUPPORT. What local accesses and parallel moves do to the cores: a load changes its register and PSN, a store changes no core; pending
interrupts aside. -/

namespace Sys2Proof.Machine

theorem Core.setLoops_with_ipend (k : Core) (p : Nat) (l : List Loop) : ({ k with ipend := p } : Core).setLoops l = { k.setLoops l with ipend := p } := by
  unfold Core.setLoops Core.modAct; dsimp only; split <;> rfl

theorem Core.seqNext_with_ipend (k : Core) (p : Nat) : ({ k with ipend := p } : Core).seqNext = { k.seqNext with ipend := p } := by
  unfold Core.seqNext
  rw [show ({ k with ipend := p } : Core).act = k.act from rfl]
  cases k.act.loops with
  | nil => rfl
  | cons l r =>
    dsimp only
    simp only [Core.setLoops_with_ipend]
    split
    · split <;> rfl
    · rfl

@[simp] theorem Core.advance_with_ipend (k : Core) (p : Nat) : ({ k with ipend := p } : Core).advance = { k.advance with ipend := p } := by
  obtain ⟨st, cause, bank, ctx, pc, slot, inSlot, rti, main, shadow, amod, la, calls, ops, tagSt, imask, ipend, ipc, tsel, aL, aH, armed, rtHi, hz,
    wt, sw, arg, halts⟩ := k
  cases inSlot with
  | false => exact Core.seqNext_with_ipend _ p
  | true =>
    cases slot with
    | none => exact Core.seqNext_with_ipend ⟨st, cause, bank, ctx, pc, none, false, rti, main, shadow, amod, la, calls, ops, tagSt, imask, ipend, ipc, tsel,
        aL, aH, armed, rtHi, hz, wt, sw, arg, halts⟩ p
    | some t => cases rti <;> rfl

/-- One core changed by two functions that agree but for pending interrupts. -/
theorem Side.calm_modCore_congr (x : Side) (c : Nat) (f g : Core → Core)
    (h : ∀ k, ({ f k with ipend := 0 } : Core) = { g k with ipend := 0 }) : (x.modCore c f).calm = (x.modCore c g).calm := by
  unfold Side.calm Side.modCore lmod
  apply List.ext_getElem?
  intro i
  simp only [List.getElem?_map, List.getElem?_modify]
  by_cases hi : c = i
  · subst hi; cases x.cores[c]? with
    | none => simp
    | some k => simp only [if_true]; exact congrArg some (h k)
  · cases x.cores[i]? <;> simp [hi]

theorem Core.raise_calm (k : Core) (i : Nat) : ({ k.raise i with ipend := 0 } : Core) = { k with ipend := 0 } := by
  unfold Core.raise; split <;> rfl

/-- A function of a core that neither looks at its pending interrupts nor changes them. -/
def Core.calmFn (f : Core → Core) : Prop := ∀ k p, f { k with ipend := p } = { f k with ipend := p }

theorem Core.calmFn.at {f : Core → Core} (h : Core.calmFn f) (k : Core) (p : Nat) :
    ({ f { k with ipend := p } with ipend := 0 } : Core) = { f k with ipend := 0 } := by rw [h]

theorem Core.calmFn_modAct (f : RegSet → RegSet) : Core.calmFn (fun k => k.modAct f) := by
  intro k p; unfold Core.modAct; dsimp only; split <;> rfl

theorem Core.calmFn_setPsn (b : Bool) : Core.calmFn (fun k => k.setPsn b) := Core.calmFn_modAct _

theorem Core.calmFn_putLoad (g : Nat) (v : Word) : Core.calmFn (fun k => k.putLoad g v) := by
  intro k p; unfold Core.putLoad Core.putG Core.modAct Core.gHeld Core.act; dsimp only; split <;> rfl

theorem Core.calmFn_postMod (old : Core) (r md : Nat) : Core.calmFn (fun k => k.postMod old r md) := by
  intro k p; unfold Core.postMod; split
  · rfl
  · exact Core.calmFn_modAct _ k p

theorem Core.calmFn_advance : Core.calmFn Core.advance := fun k p => Core.advance_with_ipend k p

theorem Core.calmFn_comp {f g : Core → Core} (hf : Core.calmFn f) (hg : Core.calmFn g) : Core.calmFn (fun k => g (f k)) := by
  intro k p
  show g (f { k with ipend := p }) = { g (f k) with ipend := p }
  rw [hf k p, hg]

/-- Calm sides stay so under one change of a core. -/
theorem Side.calm_modCore_of {x y : Side} (h : y.calm = x.calm) (c : Nat) {f : Core → Core} (hf : Core.calmFn f) :
    (y.modCore c f).calm = (x.modCore c f).calm := Side.calm_modCore h c f (fun k p => hf.at k p)

/-- A local load: the register takes the word read, PSN follows a poisoned block. -/
theorem localAt_load_calm (c : Fin 4) (y : Bool) (g a : Nat) (k : Core) (x : Side) :
    (localAt c.val y false g a k x).calm
      = (x.modCore c.val (fun q => (q.setPsn (x.readWord .cox (dataBase c.val y + a % 8192)).2.2).putLoad g
          (x.readWord .cox (dataBase c.val y + a % 8192)).2.1)).calm := by
  unfold localAt Side.localRead
  simp only [Bool.false_eq_true, if_false]
  have hr : ((x.readWord .cox (dataBase c.val y + a % 8192)).1).calm = x.calm := Side.calm_readWord_cox ..
  cases hp : (x.readWord .cox (dataBase c.val y + a % 8192)).2.2
  · simp only [Bool.false_eq_true, if_false]
    rw [Side.calm_modCore_of hr c.val (Core.calmFn_putLoad g _)]
    apply Side.calm_modCore_congr
    intro k
    have : k.setPsn false = k := by unfold Core.setPsn Core.modAct; split <;> simp
    rw [this]
  · simp only [if_true, Side.modCore_modCore]
    have e : ∀ z : Side, (z.modCore c.val (fun k => ((k.setPsn true).raise 14).putLoad g (x.readWord .cox (dataBase c.val y + a % 8192)).2.1)).calm
        = (z.modCore c.val (fun q => (q.setPsn true).putLoad g (x.readWord .cox (dataBase c.val y + a % 8192)).2.1)).calm := by
      intro z
      apply Side.calm_modCore_congr
      intro k
      rw [← (Core.calmFn_putLoad g _).at ((k.setPsn true).raise 14) 0, ← (Core.calmFn_putLoad g _).at (k.setPsn true) 0, Core.raise_calm]
    rw [e]
    exact Side.calm_modCore_of hr c.val (Core.calmFn_comp (Core.calmFn_setPsn true) (Core.calmFn_putLoad g _))

/-- A clean memory of the Cox cores reads as written, and reading it changes nothing. -/
theorem Side.readWord_clean (x : Side) (a : Nat) (h : x.coxClean = true) : x.readWord .cox a = (x, wget x.coxMem.words a, false) := by
  simp only [Side.coxClean, Bool.and_eq_true, List.isEmpty_iff] at h
  obtain ⟨⟨hf, hp⟩, hb⟩ := h
  have e : x.readBlk .cox (a / 8) = (x, (List.range 8).map (fun i => wget x.coxMem.words (8 * (a / 8) + i)), false) := by
    have hfl : x.flushBlk .cox (a / 8) = x := by
      unfold Side.flushBlk Side.flushEnts
      simp only [Side.memOf, hb, List.filter_nil, List.foldl_nil]
    unfold Side.readBlk
    rw [hfl]
    unfold Side.decodeBlk BpcMem.stored
    simp only [Side.memOf, hf, hp, aget, Option.isSome_none, Option.getD_none]
    rw [show Nat.xor (x.ac .cox (a / 8)) (x.ac .cox (a / 8)) = 0 from Nat.xor_self _]
    have hd : bpcDecode (MemSel.cox == MemSel.dram) false [] 0 = .clean := by decide
    rw [hd]
    simp [MemSel.n, oddIn, maskN, sumN, wordN]
  unfold Side.readWord Side.readRange
  simp only [MemSel.n]
  have h1 : (a + 1 - 1) / 8 + 1 - a / 8 = 1 := by omega
  rw [h1]
  have e' : x.readBlk .cox (a / 8 + 0) = _ := e
  simp only [List.range_one, List.foldl_cons, List.foldl_nil, e', Nat.one_ne_zero, beq_iff_eq, if_false, Bool.false_eq_true, List.nil_append]
  refine Prod.ext rfl (Prod.ext ?_ ?_)
  · have h2 : a - 8 * (a / 8) < 8 := by omega
    simp [lget, h2]
    congr 1; omega
  · simp [b2n]

/-- A local store changes no core. -/
theorem localAt_store_calm (c : Nat) (y : Bool) (g a : Nat) (k : Core) (x : Side) : (localAt c y true g a k x).calm = x.calm := by
  unfold localAt Side.localWrite; simp

/-- What an instruction that acts on its side answers, given what it does to its core, pending interrupts aside. -/
theorem onSide_of_side {s : State} {sd : SideId} {c : Fin 4} {i : Instr} {P : Side → Side → Prop} {body : Core → Side → Side}
    {F : Core → Side → Core → Core} (hx : exec i s = s.issueSide sd c i body) (h : s.executes sd c i = true)
    (hb : ∀ k x, (body k x).calm = (x.modCore c.val (F k x)).calm)
    (hP : ∀ p q x', (s.side sd).coreOf c.val = { (s.fetched sd c).coreOf c.val with ipend := p } →
      x' = (body { (s.fetched sd c).coreOf c.val with ipend := p }
        ((s.fetched sd c).modCore c.val (fun q => { q with hz := Hazard.none }))).goOn c.val →
      x'.coreOf c.val = { (F { (s.fetched sd c).coreOf c.val with ipend := p }
        ((s.fetched sd c).modCore c.val (fun q => { q with hz := Hazard.none }))
        { (s.fetched sd c).coreOf c.val with hz := Hazard.none }).advance with ipend := q } → P (s.fetched sd c) x') :
    OnSide s sd c i P := by
  have hl : c.val < (s.fetched sd c).cores.length := by
    have h1 := State.executes_cores h
    have h2 := Side.cores_length_fetch (s.side sd) c.val
    have h3 := c.isLt
    unfold State.fetched
    omega
  refine ⟨_, hx, ?_⟩
  rw [State.issue_of_executes h]
  simp only [State.mod_setSide, State.side_setSide]
  rw [State.fetched_core s sd c c.val]
  generalize hp : ((s.side sd).coreOf c.val).ipend = p
  generalize hx0 : s.fetched sd c = x
  rw [hx0] at hl
  generalize hz : x.modCore c.val (fun q => { q with hz := Hazard.none }) = z
  generalize hk : ({ x.coreOf c.val with ipend := p } : Core) = k
  have hcz : z.coreOf c.val = { x.coreOf c.val with hz := Hazard.none } := by rw [← hz]; exact Side.coreOf_modCore _ _ _ hl
  have hzl : z.cores.length = x.cores.length := by rw [← hz]; simp
  have hcalm := hb k z
  refine ⟨trivial, fun j hj => ?_, ?_⟩
  · have e := Side.coreOf_of_calm hcalm j
    rw [Side.coreOf_modCore_ne _ _ _ _ hj] at e
    have e2 : z.coreOf j = x.coreOf j := by rw [← hz]; exact Side.coreOf_modCore_ne _ _ _ _ hj
    unfold Side.goOn
    rw [Side.coreOf_modCore_ne _ _ _ _ hj, e, e2]
  · have hlen : c.val < (body k z).cores.length := by
      have := Side.cores_length_of_calm hcalm; simp at this; omega
    have e : ((body k z).goOn c.val).coreOf c.val = { (F k z (z.coreOf c.val)).advance with ipend := ((body k z).coreOf c.val).ipend } := by
      unfold Side.goOn
      rw [Side.coreOf_modCore _ _ _ hlen]
      have e1 := Side.coreOf_of_calm hcalm c.val
      rw [Side.coreOf_modCore _ _ _ (by omega)] at e1
      conv_lhs => rw [e1]
      exact Core.advance_with_ipend _ _
    have hs : (s.side sd).coreOf c.val = { (s.fetched sd c).coreOf c.val with ipend := p } := by
      rw [← hp]; exact State.fetched_core s sd c c.val
    have := hP p ((body k z).coreOf c.val).ipend ((body k z).goOn c.val)
    rw [hx0, hz, hk, ← hcz] at this
    rw [hx0] at hs
    exact this (hs.trans hk) rfl e

end Sys2Proof.Machine
end

