-- ==== Sys2Proof/Laws/Outcome.lean ====
section
/-! SUPPORT. No command stops: exec and step answer a next state, whatever the command and the state. -/

namespace Sys2Proof.Machine

/-- Every command answers a next state in every state. -/
theorem exec_next (i : Instr) (s : State) : ∃ t, exec i s = .next t := by
  cases i <;> exact ⟨_, rfl⟩

/-- Every step answers a next state. -/
theorem step_next (s : State) : ∃ t, step s = .next t := by
  cases h : s.pending with
  | nil => exact ⟨_, by rw [step, h]⟩
  | cons i r =>
    obtain ⟨t, ht⟩ := exec_next i { s with pending := r }
    exact ⟨t, by rw [step, h]; exact ht⟩

end Sys2Proof.Machine
end

