-- ==== Sys2Proof/Laws/PerInstr.lean ====
section
/-! SUPPORT. The family CoxClass, one lemma per command: the word of a core instruction lies in one of the classes 0x0 to 0x9 that R343 gives
instructions; a command that is no core instruction has no word. -/

namespace Sys2Proof.Laws.CoxClass

open Sys2Proof.Machine

/-- The class of the command's word. -/
def Statement (i : Instr) : Prop := ∀ w, encodeCox i = some w → w.toNat / 2 ^ 32 ≤ 9

theorem b2n_le (b : Bool) : b2n b ≤ 1 := by cases b <;> decide

/-- A word below 10 times 2^32 has a class up to 9. -/
theorem word_class {n : Nat} (h : n < 10 * 2 ^ 32) : (wordN n).toNat / 2 ^ 32 ≤ 9 := by
  simp only [wordN, BitVec.toNat_ofNat]
  omega

theorem alu_class (op : Nat) (h : op ≤ 23) (o : AluArgs) : (encodeAlu op o).toNat / 2 ^ 32 ≤ 9 := by
  have h1 := o.d.isLt
  have h2 := o.a.isLt
  unfold encodeAlu
  split
  · rename_i b _
    have h3 := b.isLt
    exact word_class (by omega)
  · rename_i v _
    have h3 := v.isLt
    exact word_class (by omega)

theorem mac_class (op : Nat) (h : op ≤ 7) (o : MacArgs) : (encodeMac op o).toNat / 2 ^ 32 ≤ 9 := by
  have h1 := o.acc.isLt
  have h2 := o.a.isLt
  have h3 := o.b.isLt
  have h4 := b2n_le o.x.en
  have h5 := b2n_le o.x.st
  have h6 := o.x.k.isLt
  have h7 := o.x.md.isLt
  have h8 := o.x.g.isLt
  have h9 := b2n_le o.y.en
  have h10 := o.y.k.isLt
  have h11 := o.y.md.isLt
  have h12 := o.y.g.isLt
  exact word_class (by unfold encodeX encodeY; omega)

theorem local_class (op : Nat) (h : op ≤ 3) (g : Fin 16) (a : LocalAddr) : (encodeLocal op g a).toNat / 2 ^ 32 ≤ 9 := by
  have h1 := g.isLt
  unfold encodeLocal
  split
  · rename_i k md
    have h2 := k.isLt
    have h3 := md.isLt
    exact word_class (by omega)
  · rename_i d
    have h2 := d.isLt
    exact word_class (by omega)

theorem acc_class (op : Nat) (h : op ≤ 7) (o : AccArgs) : (encodeAcc op o).toNat / 2 ^ 32 ≤ 9 := by
  have h1 := o.acc.isLt
  have h2 := o.g.isLt
  have h3 := o.sh.isLt
  have h4 := b2n_le o.rnd
  have h5 := b2n_le o.pair
  exact word_class (by omega)

theorem ctrl_class (op g t : Nat) (h : op ≤ 15) (hg : g < 16) (ht : t < 2 ^ 13) : (encodeCtrl op g t).toNat / 2 ^ 32 ≤ 9 :=
  word_class (by omega)

theorem long_class (op : Nat) (h : op ≤ 5) (o : LongArgs) : (encodeLong op o).toNat / 2 ^ 32 ≤ 9 := by
  have h1 := o.g.isLt
  have h2 := o.k.isLt
  have h3 := b2n_le o.inc
  have h4 := o.tag.isLt
  have h5 := o.off.isLt
  exact word_class (by omega)

theorem creg_class (dir : Nat) (h : dir ≤ 1) (r : BitVec 6) (g : Fin 16) : (encodeCreg dir r g).toNat / 2 ^ 32 ≤ 9 := by
  have h1 := r.isLt
  have h2 := g.isLt
  exact word_class (by omega)

/-- The word of an instruction that has one. -/
theorem of_word {i : Instr} {v : Word} (h : encodeCox i = some v) (hv : v.toNat / 2 ^ 32 ≤ 9) : Statement i := by
  intro w e
  rw [h] at e
  cases e
  exact hv

/-- A command that has no word. -/
theorem of_none {i : Instr} (h : encodeCox i = none) : Statement i := by
  intro w e
  rw [h] at e
  cases e

theorem islandQuiesce (sd : SideId) (ring : Fin 8) (e : CmdEntry) : Statement (.islandQuiesce sd ring e) := of_none rfl
theorem quiesced (sd : SideId) (src : SourceId) : Statement (.quiesced sd src) := of_none rfl
theorem quiesceTimeout (sd : SideId) (src : SourceId) : Statement (.quiesceTimeout sd src) := of_none rfl
theorem islandResume (sd : SideId) (ring : Fin 8) (e : CmdEntry) : Statement (.islandResume sd ring e) := of_none rfl
theorem keelUp : Statement (.keelUp) := of_none rfl
theorem keelDown : Statement (.keelDown) := of_none rfl
theorem keelRetrain (sd : SideId) : Statement (.keelRetrain sd) := of_none rfl
theorem coxResolution : Statement (.coxResolution) := of_none rfl
theorem splitCrewTimeout : Statement (.splitCrewTimeout) := of_none rfl
theorem coxHandover (sd : SideId) (ring : Fin 8) (e : CmdEntry) : Statement (.coxHandover sd ring e) := of_none rfl
theorem coxTaken : Statement (.coxTaken) := of_none rfl
theorem lowWordRead (sd : SideId) (m : Fin 11) (via : ReadVia) (off : BitVec 39) : Statement (.lowWordRead sd m via off) := of_none rfl
theorem highWordRead (sd : SideId) (m : Fin 11) (space : BitVec 4) (off : BitVec 39) : Statement (.highWordRead sd m space off) := of_none rfl
theorem resultRead (sd : SideId) (m : Fin 11) (idx : BitVec 20) : Statement (.resultRead sd m idx) := of_none rfl
theorem highWordWrite (sd : SideId) (m : Fin 11) (idx : BitVec 20) (v : Word) : Statement (.highWordWrite sd m idx v) := of_none rfl
theorem lowWordWrite (sd : SideId) (m : Fin 11) (idx : BitVec 20) (v : Word) : Statement (.lowWordWrite sd m idx v) := of_none rfl
theorem pairWrite (sd : SideId) (m : Fin 11) (idx : BitVec 20) (lo hi : Word) : Statement (.pairWrite sd m idx lo hi) := of_none rfl
theorem registerWrite (sd : SideId) (m : Fin 11) (place : WriteAt) (bytes : List (Option Byte)) (ep : Bool) : Statement (.registerWrite sd m place bytes ep) := of_none rfl
theorem jesdCfgWrite (sd : SideId) (m : Fin 11) (ch : Chan) (v : Word) : Statement (.jesdCfgWrite sd m ch v) := of_none rfl
theorem shLock (sd : SideId) (ch : Chan) (lane : Fin 8) : Statement (.shLock sd ch lane) := of_none rfl
theorem embLock (sd : SideId) (ch : Chan) (lane : Fin 8) : Statement (.embLock sd ch lane) := of_none rfl
theorem lemcMeasure (sd : SideId) (ch : Chan) (counts : List Nat) : Statement (.lemcMeasure sd ch counts) := of_none rfl
theorem sysrefEdge (sd : SideId) : Statement (.sysrefEdge sd) := of_none rfl
theorem linkUp (sd : SideId) (ch : Chan) (late : Bool) : Statement (.linkUp sd ch late) := of_none rfl
theorem laneMultiblock (sd : SideId) (ch : Chan) (lane : Fin 8) (crcOk : Bool) : Statement (.laneMultiblock sd ch lane crcOk) := of_none rfl
theorem linkLost (sd : SideId) (ch : Chan) (lane : Fin 8) : Statement (.linkLost sd ch lane) := of_none rfl
theorem linkResume (sd : SideId) (l : LinkData) : Statement (.linkResume sd l) := of_none rfl
theorem analysisSample (sd : SideId) (ch : Chan) (codes : List ConvCode) : Statement (.analysisSample sd ch codes) := of_none rfl
theorem configure (sd : SideId) (ring : Fin 8) (e : CmdEntry) (data : DmaData) : Statement (.configure sd ring e data) := of_none rfl
theorem readback (sd : SideId) (ring : Fin 8) (e : CmdEntry) : Statement (.readback sd ring e) := of_none rfl
theorem configureFrontEnd (sd : SideId) (ch : Chan) : Statement (.configureFrontEnd sd ch) := of_none rfl
theorem feStart (sd : SideId) (ch : Chan) : Statement (.feStart sd ch) := of_none rfl
theorem ncoChange (sd : SideId) (ch : Chan) : Statement (.ncoChange sd ch) := of_none rfl
theorem fadeStart (sd : SideId) (ch : Chan) : Statement (.fadeStart sd ch) := of_none rfl
theorem eqFadeDone (sd : SideId) (ch : Chan) : Statement (.eqFadeDone sd ch) := of_none rfl
theorem loadTable (sd : SideId) (ring : Fin 8) (e : CmdEntry) (data : DmaData) : Statement (.loadTable sd ring e data) := of_none rfl
theorem configureTransform (sd : SideId) (ch : Chan) : Statement (.configureTransform sd ch) := of_none rfl
theorem frameDispatch (sd : SideId) (ch : Chan) (overrun : Bool) : Statement (.frameDispatch sd ch overrun) := of_none rfl
theorem frameRelease (sd : SideId) (ch : Chan) : Statement (.frameRelease sd ch) := of_none rfl
theorem checkerTrip (sd : SideId) (t : SeatTrip) (also : Option SeatTrip) : Statement (.checkerTrip sd t also) := of_none rfl
theorem laneRetire (sd : SideId) (ring : Fin 8) (e : CmdEntry) : Statement (.laneRetire sd ring e) := of_none rfl
theorem laneRetireDone (sd : SideId) (seat : Fin 9) (mismatches : BitVec 8) : Statement (.laneRetireDone sd seat mismatches) := of_none rfl
theorem laneReturn (sd : SideId) (ring : Fin 8) (e : CmdEntry) : Statement (.laneReturn sd ring e) := of_none rfl
theorem laneReturnDone (sd : SideId) (seat : Fin 9) (trip : Option (Fin 64)) : Statement (.laneReturnDone sd seat trip) := of_none rfl
theorem ppCheckerTrip (sd : SideId) (ch : Chan) (again : Bool) : Statement (.ppCheckerTrip sd ch again) := of_none rfl
theorem configureSpectral (sd : SideId) (ch : Chan) : Statement (.configureSpectral sd ch) := of_none rfl
theorem ppFrame (sd : SideId) (ch : Chan) : Statement (.ppFrame sd ch) := of_none rfl
theorem maskSwap (sd : SideId) (ch : Chan) (k : Fin 4) : Statement (.maskSwap sd ch k) := of_none rfl
theorem spgLineWrite (sd : SideId) (ch : Chan) (inTime : Bool) : Statement (.spgLineWrite sd ch inTime) := of_none rfl
theorem xsPartnerFrame (sd : SideId) (p : PartnerStep) : Statement (.xsPartnerFrame sd p) := of_none rfl
theorem traceRead (sd : SideId) (ring : Fin 8) (e : CmdEntry) : Statement (.traceRead sd ring e) := of_none rfl
theorem traceReadDone (sd : SideId) : Statement (.traceReadDone sd) := of_none rfl
theorem configureDensity (sd : SideId) (ch : Chan) : Statement (.configureDensity sd ch) := of_none rfl
theorem densityFrame (sd : SideId) (ch : Chan) : Statement (.densityFrame sd ch) := of_none rfl
theorem densityRead (sd : SideId) (ring : Fin 8) (e : CmdEntry) : Statement (.densityRead sd ring e) := of_none rfl
theorem densityCopyStart (sd : SideId) (ch : Chan) : Statement (.densityCopyStart sd ch) := of_none rfl
theorem densityReadDone (sd : SideId) (ch : Chan) (copied : Nat) : Statement (.densityReadDone sd ch copied) := of_none rfl
theorem tie (sd : SideId) (st : SplitStamp) : Statement (.tie sd st) := of_none rfl
theorem rtIncCommit (sd : SideId) : Statement (.rtIncCommit sd) := of_none rfl
theorem rtLoad (sd : SideId) : Statement (.rtLoad sd) := of_none rfl
theorem rtSetSec (sd : SideId) (m : Fin 11) (v : Word) : Statement (.rtSetSec sd m v) := of_none rfl
theorem ppsEdge (sd : SideId) (e : PpsEdge) : Statement (.ppsEdge sd e) := of_none rfl
theorem ppsLost (sd : SideId) : Statement (.ppsLost sd) := of_none rfl
theorem rtSyncSend : Statement (.rtSyncSend) := of_none rfl
theorem crossSideSync : Statement (.crossSideSync) := of_none rfl
theorem splitEdge (sd : SideId) (src : Fin 4) (fall : Bool) (st : SplitStamp) : Statement (.splitEdge sd src fall st) := of_none rfl
theorem windowExpiry (sd : SideId) : Statement (.windowExpiry sd) := of_none rfl
theorem eventStamp (sd : SideId) (src : Fin 4) (fall : Bool) (st : SplitStamp) : Statement (.eventStamp sd src fall st) := of_none rfl
theorem swapIp (sd : SideId) (m : Fin 11) (n : Fin 5) (v : Word) : Statement (.swapIp sd m n v) := of_none rfl
theorem interpolatorSwap (sd : SideId) (src : Fin 8) : Statement (.interpolatorSwap sd src) := of_none rfl
theorem thresholdApply (sd : SideId) (src : Fin 4) : Statement (.thresholdApply sd src) := of_none rfl
theorem splitRingCfgWrite (sd : SideId) (m : Fin 11) (v : Word) : Statement (.splitRingCfgWrite sd m v) := of_none rfl
theorem occurrence (sd : SideId) (o : Occ) (t : RaceTime) : Statement (.occurrence sd o t) := of_none rfl
theorem instant (sd : SideId) : Statement (.instant sd) := of_none rfl
theorem timer (sd : SideId) (k : Fin 4) : Statement (.timer sd k) := of_none rfl
theorem count (sd : SideId) (k : Fin 4) : Statement (.count sd k) := of_none rfl
theorem force (sd : SideId) (ring : Fin 8) (e : CmdEntry) : Statement (.force sd ring e) := of_none rfl
theorem xside (sd : SideId) : Statement (.xside sd) := of_none rfl
theorem dtrigRequest : Statement (.dtrigRequest) := of_none rfl
theorem trigoutPulse (sd : SideId) (pin : Fin 2) : Statement (.trigoutPulse sd pin) := of_none rfl
theorem trigoutEnd (sd : SideId) (pin : Fin 2) : Statement (.trigoutEnd sd pin) := of_none rfl
theorem configureStarter (sd : SideId) : Statement (.configureStarter sd) := of_none rfl
theorem configureRecord (sd : SideId) (ch : Chan) : Statement (.configureRecord sd ch) := of_none rfl
theorem arm (sd : SideId) (ring : Fin 8) (e : CmdEntry) : Statement (.arm sd ring e) := of_none rfl
theorem acqWrite (sd : SideId) (ch : Chan) (n : Nat) : Statement (.acqWrite sd ch n) := of_none rfl
theorem segmentDone (sd : SideId) (ch : Chan) : Statement (.segmentDone sd ch) := of_none rfl
theorem recordDone (sd : SideId) (ch : Chan) : Statement (.recordDone sd ch) := of_none rfl
theorem disarm (sd : SideId) (ring : Fin 8) (e : CmdEntry) : Statement (.disarm sd ring e) := of_none rfl
theorem readRecord (sd : SideId) (ring : Fin 8) (e : CmdEntry) : Statement (.readRecord sd ring e) := of_none rfl
theorem readRecordDone (sd : SideId) (ch : Chan) : Statement (.readRecordDone sd ch) := of_none rfl
theorem streamStart (sd : SideId) (ring : Fin 8) (e : CmdEntry) : Statement (.streamStart sd ring e) := of_none rfl
theorem streamStop (sd : SideId) (ring : Fin 8) (e : CmdEntry) : Statement (.streamStop sd ring e) := of_none rfl
theorem streamStopDone (sd : SideId) (r : Fin 16) : Statement (.streamStopDone sd r) := of_none rfl
theorem streamPacket (sd : SideId) (r : Fin 16) (hostOk : Bool) (desc : Option (BitVec 64 × BitVec 32)) : Statement (.streamPacket sd r hostOk desc) := of_none rfl
theorem spillDrain (sd : SideId) (r : Fin 16) (hostOk : Bool) (desc : Option (BitVec 64 × BitVec 32)) : Statement (.spillDrain sd r hostOk desc) := of_none rfl
theorem perstN (sd : SideId) : Statement (.perstN sd) := of_none rfl
theorem pcieLinkUp (sd : SideId) (speed : Fin 5) (width : Fin 5) : Statement (.pcieLinkUp sd speed width) := of_none rfl
theorem windowWrite (sd : SideId) (win : Fin 4) (off : BitVec 30) (d : WinData) : Statement (.windowWrite sd win off d) := of_none rfl
theorem windowRead (sd : SideId) (win : Fin 4) (off : BitVec 30) (len : Nat) : Statement (.windowRead sd win off len) := of_none rfl
theorem windowMergeTimeout (sd : SideId) (win : Fin 4) : Statement (.windowMergeTimeout sd win) := of_none rfl
theorem winCfgWrite (sd : SideId) (m : Fin 11) (n : Fin 4) (v : Word) : Statement (.winCfgWrite sd m n v) := of_none rfl
theorem routeBowWrite (sd : SideId) (m : Fin 11) (v : Word) : Statement (.routeBowWrite sd m v) := of_none rfl
theorem accErrClear (sd : SideId) (m : Fin 11) (v : Word) : Statement (.accErrClear sd m v) := of_none rfl
theorem tunnelReadDone (sd : SideId) : Statement (.tunnelReadDone sd) := of_none rfl
theorem doorbellPoll (sd : SideId) (page : Option (List (BitVec 64))) : Statement (.doorbellPoll sd page) := of_none rfl
theorem nudge (sd : SideId) (m : Fin 11) : Statement (.nudge sd m) := of_none rfl
theorem boundaryReached (sd : SideId) (n : Nat) : Statement (.boundaryReached sd n) := of_none rfl
theorem completionWrite (sd : SideId) (cq : Fin 8) : Statement (.completionWrite sd cq) := of_none rfl
theorem eventWrite (sd : SideId) : Statement (.eventWrite sd) := of_none rfl
theorem modTime (sd : SideId) (src : Fin 25) : Statement (.modTime sd src) := of_none rfl
theorem ringCfgWrite (sd : SideId) (m : Fin 11) (idx : BitVec 20) (v : Word) : Statement (.ringCfgWrite sd m idx v) := of_none rfl
theorem remoteCommand (sd : SideId) : Statement (.remoteCommand sd) := of_none rfl
theorem remoteCompletion (sd : SideId) : Statement (.remoteCompletion sd) := of_none rfl
theorem nop (sd : SideId) (ring : Fin 8) (e : CmdEntry) : Statement (.nop sd ring e) := of_none rfl
theorem fence (sd : SideId) (ring : Fin 8) (e : CmdEntry) : Statement (.fence sd ring e) := of_none rfl
theorem calRun (sd : SideId) (ring : Fin 8) (e : CmdEntry) : Statement (.calRun sd ring e) := of_none rfl
theorem calRestore (sd : SideId) (ring : Fin 8) (e : CmdEntry) : Statement (.calRestore sd ring e) := of_none rfl
theorem calItemDone (sd : SideId) (item : Fin 5) (runs : CalRuns) : Statement (.calItemDone sd item runs) := of_none rfl
theorem calApply (sd : SideId) (item : Fin 5) : Statement (.calApply sd item) := of_none rfl
theorem calRestoreTimeout (sd : SideId) (item : Fin 5) : Statement (.calRestoreTimeout sd item) := of_none rfl
theorem calStoreWrite (sd : SideId) (m : Fin 11) (idx : BitVec 20) (v : Word) : Statement (.calStoreWrite sd m idx v) := of_none rfl
theorem coxcoreLoad (sd : SideId) (ring : Fin 8) (e : CmdEntry) (data : DmaData) : Statement (.coxcoreLoad sd ring e data) := of_none rfl
theorem coxcoreStart (sd : SideId) (ring : Fin 8) (e : CmdEntry) : Statement (.coxcoreStart sd ring e) := of_none rfl
theorem coreHalted (sd : SideId) (c : Fin 4) : Statement (.coreHalted sd c) := of_none rfl
theorem coreSwitch (sd : SideId) (c : Fin 4) : Statement (.coreSwitch sd c) := of_none rfl
theorem switchTimeout (sd : SideId) (c : Fin 4) : Statement (.switchTimeout sd c) := of_none rfl
theorem toneStage (sd : SideId) (ring : Fin 8) (e : CmdEntry) : Statement (.toneStage sd ring e) := of_none rfl
theorem strobe (sd : SideId) (ring : Fin 8) (e : CmdEntry) : Statement (.strobe sd ring e) := of_none rfl
theorem displayCommit (sd : SideId) (ring : Fin 8) (e : CmdEntry) : Statement (.displayCommit sd ring e) := of_none rfl
theorem aluNop (sd : SideId) (c : Fin 4) (o : AluArgs) : Statement (.aluNop sd c o) := of_word rfl (alu_class _ (by omega) _)
theorem add (sd : SideId) (c : Fin 4) (o : AluArgs) : Statement (.add sd c o) := of_word rfl (alu_class _ (by omega) _)
theorem sub (sd : SideId) (c : Fin 4) (o : AluArgs) : Statement (.sub sd c o) := of_word rfl (alu_class _ (by omega) _)
theorem adds (sd : SideId) (c : Fin 4) (o : AluArgs) : Statement (.adds sd c o) := of_word rfl (alu_class _ (by omega) _)
theorem subs (sd : SideId) (c : Fin 4) (o : AluArgs) : Statement (.subs sd c o) := of_word rfl (alu_class _ (by omega) _)
theorem and (sd : SideId) (c : Fin 4) (o : AluArgs) : Statement (.and sd c o) := of_word rfl (alu_class _ (by omega) _)
theorem or (sd : SideId) (c : Fin 4) (o : AluArgs) : Statement (.or sd c o) := of_word rfl (alu_class _ (by omega) _)
theorem xor (sd : SideId) (c : Fin 4) (o : AluArgs) : Statement (.xor sd c o) := of_word rfl (alu_class _ (by omega) _)
theorem not (sd : SideId) (c : Fin 4) (o : AluArgs) : Statement (.not sd c o) := of_word rfl (alu_class _ (by omega) _)
theorem neg (sd : SideId) (c : Fin 4) (o : AluArgs) : Statement (.neg sd c o) := of_word rfl (alu_class _ (by omega) _)
theorem abs (sd : SideId) (c : Fin 4) (o : AluArgs) : Statement (.abs sd c o) := of_word rfl (alu_class _ (by omega) _)
theorem min (sd : SideId) (c : Fin 4) (o : AluArgs) : Statement (.min sd c o) := of_word rfl (alu_class _ (by omega) _)
theorem max (sd : SideId) (c : Fin 4) (o : AluArgs) : Statement (.max sd c o) := of_word rfl (alu_class _ (by omega) _)
theorem mov (sd : SideId) (c : Fin 4) (o : AluArgs) : Statement (.mov sd c o) := of_word rfl (alu_class _ (by omega) _)
theorem shl (sd : SideId) (c : Fin 4) (o : AluArgs) : Statement (.shl sd c o) := of_word rfl (alu_class _ (by omega) _)
theorem shra (sd : SideId) (c : Fin 4) (o : AluArgs) : Statement (.shra sd c o) := of_word rfl (alu_class _ (by omega) _)
theorem shrl (sd : SideId) (c : Fin 4) (o : AluArgs) : Statement (.shrl sd c o) := of_word rfl (alu_class _ (by omega) _)
theorem lzc (sd : SideId) (c : Fin 4) (o : AluArgs) : Statement (.lzc sd c o) := of_word rfl (alu_class _ (by omega) _)
theorem addh (sd : SideId) (c : Fin 4) (o : AluArgs) : Statement (.addh sd c o) := of_word rfl (alu_class _ (by omega) _)
theorem subh (sd : SideId) (c : Fin 4) (o : AluArgs) : Statement (.subh sd c o) := of_word rfl (alu_class _ (by omega) _)
theorem pack (sd : SideId) (c : Fin 4) (o : AluArgs) : Statement (.pack sd c o) := of_word rfl (alu_class _ (by omega) _)
theorem seq (sd : SideId) (c : Fin 4) (o : AluArgs) : Statement (.seq sd c o) := of_word rfl (alu_class _ (by omega) _)
theorem slt (sd : SideId) (c : Fin 4) (o : AluArgs) : Statement (.slt sd c o) := of_word rfl (alu_class _ (by omega) _)
theorem sltu (sd : SideId) (c : Fin 4) (o : AluArgs) : Statement (.sltu sd c o) := of_word rfl (alu_class _ (by omega) _)
theorem movi (sd : SideId) (c : Fin 4) (d : Fin 16) (hi : Bool) (v : BitVec 18) : Statement (.movi sd c d hi v) := of_word rfl (word_class (by have h0 := d.isLt; have h1 := b2n_le hi; have h2 := v.isLt; omega))
theorem mpy (sd : SideId) (c : Fin 4) (o : MacArgs) : Statement (.mpy sd c o) := of_word rfl (mac_class _ (by omega) _)
theorem mac (sd : SideId) (c : Fin 4) (o : MacArgs) : Statement (.mac sd c o) := of_word rfl (mac_class _ (by omega) _)
theorem msu (sd : SideId) (c : Fin 4) (o : MacArgs) : Statement (.msu sd c o) := of_word rfl (mac_class _ (by omega) _)
theorem mpys (sd : SideId) (c : Fin 4) (o : MacArgs) : Statement (.mpys sd c o) := of_word rfl (mac_class _ (by omega) _)
theorem macs (sd : SideId) (c : Fin 4) (o : MacArgs) : Statement (.macs sd c o) := of_word rfl (mac_class _ (by omega) _)
theorem msus (sd : SideId) (c : Fin 4) (o : MacArgs) : Statement (.msus sd c o) := of_word rfl (mac_class _ (by omega) _)
theorem macx (sd : SideId) (c : Fin 4) (o : MacArgs) : Statement (.macx sd c o) := of_word rfl (mac_class _ (by omega) _)
theorem nomac (sd : SideId) (c : Fin 4) (o : MacArgs) : Statement (.nomac sd c o) := of_word rfl (mac_class _ (by omega) _)
theorem ldx (sd : SideId) (c : Fin 4) (g : Fin 16) (a : LocalAddr) : Statement (.ldx sd c g a) := of_word rfl (local_class _ (by omega) _ _)
theorem stx (sd : SideId) (c : Fin 4) (g : Fin 16) (a : LocalAddr) : Statement (.stx sd c g a) := of_word rfl (local_class _ (by omega) _ _)
theorem ldy (sd : SideId) (c : Fin 4) (g : Fin 16) (a : LocalAddr) : Statement (.ldy sd c g a) := of_word rfl (local_class _ (by omega) _ _)
theorem sty (sd : SideId) (c : Fin 4) (g : Fin 16) (a : LocalAddr) : Statement (.sty sd c g a) := of_word rfl (local_class _ (by omega) _ _)
theorem clra (sd : SideId) (c : Fin 4) (o : AccArgs) : Statement (.clra sd c o) := of_word rfl (acc_class _ (by omega) _)
theorem lda (sd : SideId) (c : Fin 4) (o : AccArgs) : Statement (.lda sd c o) := of_word rfl (acc_class _ (by omega) _)
theorem stsat (sd : SideId) (c : Fin 4) (o : AccArgs) : Statement (.stsat sd c o) := of_word rfl (acc_class _ (by omega) _)
theorem mova (sd : SideId) (c : Fin 4) (o : AccArgs) : Statement (.mova sd c o) := of_word rfl (acc_class _ (by omega) _)
theorem adda (sd : SideId) (c : Fin 4) (o : AccArgs) : Statement (.adda sd c o) := of_word rfl (acc_class _ (by omega) _)
theorem suba (sd : SideId) (c : Fin 4) (o : AccArgs) : Statement (.suba sd c o) := of_word rfl (acc_class _ (by omega) _)
theorem asr (sd : SideId) (c : Fin 4) (o : AccArgs) : Statement (.asr sd c o) := of_word rfl (acc_class _ (by omega) _)
theorem nega (sd : SideId) (c : Fin 4) (o : AccArgs) : Statement (.nega sd c o) := of_word rfl (acc_class _ (by omega) _)
theorem bra (sd : SideId) (c : Fin 4) (target : BitVec 13) : Statement (.bra sd c target) := of_word rfl (ctrl_class _ _ _ (by omega) (by omega) (BitVec.isLt _))
theorem beqz (sd : SideId) (c : Fin 4) (g : Fin 16) (target : BitVec 13) : Statement (.beqz sd c g target) := of_word rfl (ctrl_class _ _ _ (by omega) (Fin.isLt _) (BitVec.isLt _))
theorem bnez (sd : SideId) (c : Fin 4) (g : Fin 16) (target : BitVec 13) : Statement (.bnez sd c g target) := of_word rfl (ctrl_class _ _ _ (by omega) (Fin.isLt _) (BitVec.isLt _))
theorem bltz (sd : SideId) (c : Fin 4) (g : Fin 16) (target : BitVec 13) : Statement (.bltz sd c g target) := of_word rfl (ctrl_class _ _ _ (by omega) (Fin.isLt _) (BitVec.isLt _))
theorem bgez (sd : SideId) (c : Fin 4) (g : Fin 16) (target : BitVec 13) : Statement (.bgez sd c g target) := of_word rfl (ctrl_class _ _ _ (by omega) (Fin.isLt _) (BitVec.isLt _))
theorem call (sd : SideId) (c : Fin 4) (target : BitVec 13) : Statement (.call sd c target) := of_word rfl (ctrl_class _ _ _ (by omega) (by omega) (BitVec.isLt _))
theorem ret (sd : SideId) (c : Fin 4) : Statement (.ret sd c) := of_word rfl (ctrl_class _ _ _ (by omega) (by omega) (by omega))
theorem rti (sd : SideId) (c : Fin 4) : Statement (.rti sd c) := of_word rfl (ctrl_class _ _ _ (by omega) (by omega) (by omega))
theorem halt (sd : SideId) (c : Fin 4) : Statement (.halt sd c) := of_word rfl (ctrl_class _ _ _ (by omega) (by omega) (by omega))
theorem wait (sd : SideId) (c : Fin 4) : Statement (.wait sd c) := of_word rfl (ctrl_class _ _ _ (by omega) (by omega) (by omega))
theorem loopr (sd : SideId) (c : Fin 4) (g : Fin 16) (endAt : BitVec 13) : Statement (.loopr sd c g endAt) := of_word rfl (ctrl_class _ _ _ (by omega) (Fin.isLt _) (BitVec.isLt _))
theorem sig (sd : SideId) (c : Fin 4) (g : Fin 16) : Statement (.sig sd c g) := of_word rfl (ctrl_class _ _ _ (by omega) (Fin.isLt _) (by omega))
theorem swi (sd : SideId) (c : Fin 4) : Statement (.swi sd c) := of_word rfl (ctrl_class _ _ _ (by omega) (by omega) (by omega))
theorem waitt (sd : SideId) (c : Fin 4) (tag : Fin 16) : Statement (.waitt sd c tag) := of_word rfl (ctrl_class _ _ _ (by omega) (Fin.isLt _) (by omega))
theorem brar (sd : SideId) (c : Fin 4) (g : Fin 16) : Statement (.brar sd c g) := of_word rfl (ctrl_class _ _ _ (by omega) (Fin.isLt _) (by omega))
theorem loop (sd : SideId) (c : Fin 4) (cnt : BitVec 16) (endAt : BitVec 13) : Statement (.loop sd c cnt endAt) := of_word rfl (word_class (by have h0 := cnt.isLt; have h1 := endAt.isLt; omega))
theorem ldl (sd : SideId) (c : Fin 4) (o : LongArgs) : Statement (.ldl sd c o) := of_word rfl (long_class _ (by omega) _)
theorem stl (sd : SideId) (c : Fin 4) (o : LongArgs) : Statement (.stl sd c o) := of_word rfl (long_class _ (by omega) _)
theorem bldx (sd : SideId) (c : Fin 4) (o : LongArgs) : Statement (.bldx sd c o) := of_word rfl (long_class _ (by omega) _)
theorem bstx (sd : SideId) (c : Fin 4) (o : LongArgs) : Statement (.bstx sd c o) := of_word rfl (long_class _ (by omega) _)
theorem bldy (sd : SideId) (c : Fin 4) (o : LongArgs) : Statement (.bldy sd c o) := of_word rfl (long_class _ (by omega) _)
theorem bsty (sd : SideId) (c : Fin 4) (o : LongArgs) : Statement (.bsty sd c o) := of_word rfl (long_class _ (by omega) _)
theorem mtc (sd : SideId) (c : Fin 4) (creg : BitVec 6) (g : Fin 16) : Statement (.mtc sd c creg g) := of_word rfl (creg_class _ (by omega) _ _)
theorem mfc (sd : SideId) (c : Fin 4) (creg : BitVec 6) (g : Fin 16) : Statement (.mfc sd c creg g) := of_word rfl (creg_class _ (by omega) _ _)
theorem illegal (sd : SideId) (c : Fin 4) (cause : IllegalCause) : Statement (.illegal sd c cause) := of_none rfl
theorem tagComplete (sd : SideId) (c : Fin 4) (tag : Fin 16) : Statement (.tagComplete sd c tag) := of_none rfl
theorem interruptEntry (sd : SideId) (c : Fin 4) : Statement (.interruptEntry sd c) := of_none rfl
theorem alarm (sd : SideId) (c : Fin 4) : Statement (.alarm sd c) := of_none rfl
theorem coxcoreMboxIn (sd : SideId) (m : Fin 11) (c : Fin 4) (v : Word) : Statement (.coxcoreMboxIn sd m c v) := of_none rfl
theorem pllCommitF (sd : SideId) (m : Fin 11) : Statement (.pllCommitF sd m) := of_none rfl
theorem pllCommitT (sd : SideId) (m : Fin 11) : Statement (.pllCommitT sd m) := of_none rfl
theorem ladderStep (sd : SideId) : Statement (.ladderStep sd) := of_none rfl
theorem pllLock (sd : SideId) (lp : Fin 3) : Statement (.pllLock sd lp) := of_none rfl
theorem pllLoss (sd : SideId) (lp : Fin 3) : Statement (.pllLoss sd lp) := of_none rfl
theorem refclkLost (sd : SideId) : Statement (.refclkLost sd) := of_none rfl
theorem refclkReturn (sd : SideId) : Statement (.refclkReturn sd) := of_none rfl
theorem coastExpiry (l : CoastLoop) : Statement (.coastExpiry l) := of_none rfl
theorem loadStrobe (sd : SideId) : Statement (.loadStrobe sd) := of_none rfl
theorem strobeDistribution : Statement (.strobeDistribution) := of_none rfl
theorem rangeSettled (sd : SideId) (o : Fin 2) : Statement (.rangeSettled sd o) := of_none rfl
theorem trackingStep (sd : SideId) (o : Fin 2) : Statement (.trackingStep sd o) := of_none rfl
theorem toneCfgWrite (sd : SideId) (m : Fin 11) (v : Word) : Statement (.toneCfgWrite sd m v) := of_none rfl
theorem monResult (sd : SideId) (md : Fin 4) (p : MonPeriod) : Statement (.monResult sd md p) := of_none rfl
theorem monCfgWrite (sd : SideId) (m : Fin 11) (v : Word) : Statement (.monCfgWrite sd m v) := of_none rfl
theorem refreshDue (sd : SideId) (dc : Fin 4) (sub : Fin 2) (ports : PortReport) (inTrans : Bool) : Statement (.refreshDue sd dc sub ports inTrans) := of_none rfl
theorem refreshIssue (sd : SideId) (dc : Fin 4) (sub : Fin 2) : Statement (.refreshIssue sd dc sub) := of_none rfl
theorem mr4Read (sd : SideId) (dc : Fin 4) (sub : Fin 2) (r : Mr4) : Statement (.mr4Read sd dc sub r) := of_none rfl
theorem gatherTimeout (sd : SideId) (b : GatherBlk) : Statement (.gatherTimeout sd b) := of_none rfl
theorem dramRead (sd : SideId) (blk reached : Nat) (flips : List (Fin 16 × Fin 40)) : Statement (.dramRead sd blk reached flips) := of_none rfl
theorem dqsOsc (sd : SideId) (dc : Fin 4) (sub : Fin 2) (drifts : List (Fin 20 × Int)) : Statement (.dqsOsc sd dc sub drifts) := of_none rfl
theorem srReq (sd : SideId) (m : Fin 11) (v : Word) : Statement (.srReq sd m v) := of_none rfl
theorem fcReq (sd : SideId) (m : Fin 11) (v : Word) : Statement (.fcReq sd m v) := of_none rfl
theorem fcDone (sd : SideId) : Statement (.fcDone sd) := of_none rfl
theorem dramPanicWrite (sd : SideId) (m : Fin 11) (n : Fin 5) (v : Word) : Statement (.dramPanicWrite sd m n v) := of_none rfl
theorem sramRead (sd : SideId) (blk reached : Nat) (flips : List (Fin 8 × Fin 42)) : Statement (.sramRead sd blk reached flips) := of_none rfl
theorem mergeTimeout (sd : SideId) (b : MergeBlk) : Statement (.mergeTimeout sd b) := of_none rfl
theorem scrubBlock (sd : SideId) (dram : Bool) (flips : List (Fin 16 × Fin 42)) (behind : Bool) : Statement (.scrubBlock sd dram flips behind) := of_none rfl
theorem sramRepairReq (sd : SideId) (m : Fin 11) (v : Word) : Statement (.sramRepairReq sd m v) := of_none rfl
theorem poisonAddrClear (sd : SideId) (m : Fin 11) (v : Word) : Statement (.poisonAddrClear sd m v) := of_none rfl
theorem faultReport (sd : SideId) (r : FaultRep) : Statement (.faultReport sd r) := of_none rfl
theorem wireBroken (sd : SideId) (cls : FaultClass) (src : SourceId) (chk : BitVec 8) (w : WireRead) : Statement (.wireBroken sd cls src chk w) := of_none rfl
theorem faultAck (sd : SideId) (m : Fin 11) (v : Word) : Statement (.faultAck sd m v) := of_none rfl
theorem faultInj (sd : SideId) (m : Fin 11) (v : Word) : Statement (.faultInj sd m v) := of_none rfl
theorem faultSummarySend (sd : SideId) : Statement (.faultSummarySend sd) := of_none rfl
theorem faultSummary (sd : SideId) : Statement (.faultSummary sd) := of_none rfl
theorem watchdogExpiry (sd : SideId) : Statement (.watchdogExpiry sd) := of_none rfl
theorem aliveToggle (sd : SideId) : Statement (.aliveToggle sd) := of_none rfl
theorem vblank (sd : SideId) : Statement (.vblank sd) := of_none rfl
theorem lineCompose (sd : SideId) (ready : BitVec 13) (overlay : Option (List (BitVec 32))) : Statement (.lineCompose sd ready overlay) := of_none rfl
theorem soCommit (sd : SideId) (m : Fin 11) (v : Word) : Statement (.soCommit sd m v) := of_none rfl
theorem soEnable (sd : SideId) (m : Fin 11) (v : Word) : Statement (.soEnable sd m v) := of_none rfl
theorem timingRestart (sd : SideId) : Statement (.timingRestart sd) := of_none rfl
theorem hpdPlug (sd : SideId) (sink : DpSink) : Statement (.hpdPlug sd sink) := of_none rfl
theorem hpdUnplug (sd : SideId) : Statement (.hpdUnplug sd) := of_none rfl
theorem irqHpd (sd : SideId) (lost : Bool) (sink : DpSink) : Statement (.irqHpd sd lost sink) := of_none rfl
theorem resetN : Statement (.resetN) := of_none rfl
theorem resetNRelease (coxpref bootsrc : Bool) : Statement (.resetNRelease coxpref bootsrc) := of_none rfl
theorem railOutOfRange : Statement (.railOutOfRange) := of_none rfl
theorem initPhase (sd : SideId) (r : InitResult) : Statement (.initPhase sd r) := of_none rfl
theorem sideReset (sd : SideId) (m : Fin 11) (v : Word) : Statement (.sideReset sd m v) := of_none rfl
theorem sideResetAssert (sd : SideId) : Statement (.sideResetAssert sd) := of_none rfl
theorem islReset (sd : SideId) (m : Fin 11) (v : Word) : Statement (.islReset sd m v) := of_none rfl
theorem dramMapout (sd : SideId) (m : Fin 11) (v : Word) : Statement (.dramMapout sd m v) := of_none rfl
theorem mapoutDone (sd : SideId) : Statement (.mapoutDone sd) := of_none rfl
theorem smbSetIndex (v : BitVec 24) : Statement (.smbSetIndex v) := of_none rfl
theorem smbRead : Statement (.smbRead) := of_none rfl
theorem smbStatus : Statement (.smbStatus) := of_none rfl
theorem extest (shift : List Bool) : Statement (.extest shift) := of_none rfl
theorem samplePreload (shift : List Bool) : Statement (.samplePreload shift) := of_none rfl
theorem idcode : Statement (.idcode) := of_none rfl
theorem highz : Statement (.highz) := of_none rfl
theorem clamp : Statement (.clamp) := of_none rfl
theorem extestPulse (shift : List Bool) : Statement (.extestPulse shift) := of_none rfl
theorem extestTrain (shift : List Bool) : Statement (.extestTrain shift) := of_none rfl
theorem bypass (code : BitVec 8) (tdi : Bool) : Statement (.bypass code tdi) := of_none rfl
theorem badOpcode (sd : SideId) (ring : Fin 8) (read : Bool) (e : CmdEntry) : Statement (.badOpcode sd ring read e) := of_none rfl
theorem dacSample (sd : SideId) (o : Fin 2) (prefetched : Bool) : Statement (.dacSample sd o prefetched) := of_none rfl
theorem calSwapTimeout (sd : SideId) (src : Fin 8) : Statement (.calSwapTimeout sd src) := of_none rfl
theorem railValid : Statement (.railValid) := of_none rfl

end Sys2Proof.Laws.CoxClass
end

