-- ==== Sys2Proof/Tests/Slice0.lean ====
section
/-! SUPPORT. Tests: ill-formed commands that the check refuses, numbers of the spec's own examples, core words written out from their encoding,
and for each statement of Certificates/Slice0/Obligations.lean with hypotheses a state and operands that meet them, clause by clause
(witness_X is of the part of a statement that its docstring calls X). -/

open Sys2Proof Sys2Proof.Machine

set_option Elab.async false
set_option maxRecDepth 4000
set_option linter.unusedVariables false

namespace Sys2Proof.Tests

/-! ### States the tests start from -/

/-- A side that has reached READY. -/
def rdySide (i : SideId) : Side := { Side.init i with regs := [(INIT_STAT.READY.idx, 1#36 <<< INIT_STAT.READY.lo)] }
/-- Both sides out of reset and READY. -/
def rdy : State := { State.reset with stroke := rdySide .stroke, bow := rdySide .bow, pkg := { State.reset.pkg with resetN := false, railOk := true } }
/-- A register set whose residue codes are those of what it holds (R349). -/
def sealed (q : RegSet) : RegSet :=
  { q with gr := q.g.map (fun w => residue w.toInt), ar := q.acc.map (fun a => (residue a.hi.v, residue a.lo.v)) }
/-- Core 1 of the stroke runs an instruction at word 3 of bank 0. -/
def coxAt (i : Instr) : State := rdy.mod .stroke (fun x => { x with
  coxMem := { x.coxMem with words := [(coxBase 1 0 + 3, (encodeCox i).getD 0)] } }.modCore 1 (fun k => { k with
    st := 1, pc := 3
    main := sealed { k.main with g := (List.range 16).map (fun n => wordN (n * 0x2345678F1 + 3)), xy := [1, 2, 3, 4, 5, 6, 7, 8]
                                 acc := [⟨5, 1, 2, 3⟩, ⟨0xFFFFFFFFFFFFFFFFFFFFF0, 0, 1, 0⟩, ⟨0x7FFFFFFFFFFFFFFFFFFFFF, 7, -8, 7⟩, ⟨0, 0, 0, 0⟩] } }))
/-- The stroke changed. -/
def on1 (f : Side → Side) : State := rdy.mod .stroke f
/-- The row of the register map that holds an index. -/
def rowOf (n : Nat) : RegRow := (findReg n).getD ⟨0, 0, 0, 0, 0, 0, .plain, false⟩
/-- The Keel up. -/
def keelUpSt (s : State) : State := { s with keel := { s.keel with up := true, everUp := true } }
/-- Ring 3 of the stroke takes its next entry; the stroke is changed. -/
def ringS (f : Side → Side) : State := rdy.mod .stroke (fun x => f
  { ((x.set (CMDQ_CFG.EN 3) 1).set HOST_STAT.LINK_UP 1).set (CMDQ_CFG.LOG2SIZE 3) 8 with host := { x.host with cmd := lset x.host.cmd 3 ⟨5, 2, none⟩, nextId := 77 } })
/-- Word 0 of an entry (R268): TAG, FLAGS, BOUNDARY, OPCODE. -/
def head0 (tag flags boundary op : Nat) : BitVec 64 := BitVec.ofNat 64 (tag * 2 ^ 32 + flags * 2 ^ 16 + boundary * 2 ^ 8 + op)
/-- An entry with operand words 1, 4, 5, 6, 7. -/
def ent (w1 w4 w5 w6 w7 : Nat) : CmdEntry := ⟨head0 0x1234 0 0 0, BitVec.ofNat 64 w1, 0, 0, BitVec.ofNat 64 w4, BitVec.ofNat 64 w5, BitVec.ofNat 64 w6, BitVec.ofNat 64 w7⟩
/-- What a ring's command becomes, staged. -/
def taken (s : State) (op : Nat) (e : CmdEntry) (d : DmaData) : Staged × State :=
  (s.takes .stroke 3 op e d).getD (⟨0, .stroke, 3, 0, e, [], .now, 0, false, false, [], []⟩, s)
/-- A ring entry of zeros. -/
def noEntry : CmdEntry := ⟨0, 0, 0, 0, 0, 0, 0, 0⟩
/-- Operand data in the sparse packing (R250). -/
def dat (ws : List Word) : DmaData := ⟨true, false, packBytes false ws⟩
/-- Channel 0's front-end block with word 0 set to `w`. -/
def feOn (x : Side) (w : Word) : Side :=
  x.setFe .c0 { x.feOf .c0 with block := lset (x.feOf .c0).block 0 w }
/-- The residue codes of an analysis sample's components (R118). -/
def smpR (w : Word) : Nat × Nat := (residue (smpI w), residue (smpQ w))
/-- Whether an outcome is a next state. -/
def goes : Host.Outcome State Fault Refusal → Bool
  | .next _ => true
  | _ => false
/-- The next state of a step; the state itself where there is none. -/
def nextOf (s : State) : State :=
  match step s with
  | .next t => t
  | _ => s
/-- A step that answers a next state answers that one. -/
theorem nextOf_eq (s : State) (h : goes (step s) = true) : step s = .next (nextOf s) := by
  unfold nextOf
  cases e : step s with
  | next t => rfl
  | fault r => rw [e] at h; exact Bool.noConfusion h
  | refused r => rw [e] at h; exact Bool.noConfusion h
/-- A list of one value reads as it everywhere. -/
theorem lget_all {α : Type} (l : List α) (d : α) (h : ∀ a ∈ l, a = d) (q : Nat) : lget l q d = d := by
  unfold lget
  cases e : l[q]? with
  | none => rfl
  | some a => exact h a (List.mem_of_getElem? e)

/-! ### Ill-formed commands, one per check of `Instr.wf` -/

theorem test_wf_configure_readback_bit : (Instr.configure .stroke 0 { noEntry with w0 := 2, w5 := 0x200000000 } (dat [])).wf = false := by decide
theorem test_wf_configure_data : (Instr.configure .stroke 0 { noEntry with w0 := 2, w5 := 0x5000000 } (dat [1])).wf = false := by decide
theorem test_wf_configure : (Instr.configure .stroke 0 { noEntry with w0 := 2, w5 := 0x2000000 } (dat [1, 2])).wf = true := by decide
/-- R268: a row's entry carries the row's OPCODE. -/
theorem test_wf_opcode : (Instr.configure .stroke 0 { noEntry with w0 := 3, w5 := 0x2000000 } (dat [1, 2])).wf = false
    ∧ (Instr.nop .stroke 0 { noEntry with w0 := 1 }).wf = false ∧ (Instr.arm .bow 3 noEntry).wf = false
    ∧ (Instr.fence .bow 3 { noEntry with w0 := 0x500010201 }).wf = true := by decide
theorem test_wf_readback : (Instr.readback .bow 1 { noEntry with w0 := 2 }).wf = false := by decide
theorem test_wf_loadTable : (Instr.loadTable .stroke 0 { noEntry with w0 := 3, w5 := 3 } (dat [1])).wf = false := by decide
theorem test_wf_coxcoreLoad : (Instr.coxcoreLoad .stroke 0 { noEntry with w0 := 0x50, w5 := 3 } (dat [1])).wf = false := by decide
theorem test_wf_badOpcode : (Instr.badOpcode .stroke 0 true { noEntry with w0 := 0x30 }).wf = false := by decide
theorem test_wf_doorbellPoll : (Instr.doorbellPoll .stroke (some [0, 0])).wf = false := by decide
theorem test_wf_windowWrite : (Instr.windowWrite .stroke 0 0 ⟨[], false⟩).wf = false := by decide
theorem test_wf_barWrite : (Instr.registerWrite .stroke 0 (.bar0 0) [] false).wf = false ∧ (Instr.registerWrite .stroke 0 (.bar4 0) [] false).wf = false := by
  decide
theorem test_wf_barRead : (Instr.lowWordRead .stroke 0 (.bar0 0) 0).wf = false ∧ (Instr.lowWordRead .bow 1 (.bar4 0) 0).wf = false := by decide
theorem test_wf_barOffset : (Instr.lowWordRead .stroke 0 (.bar0 8) 0x1000000).wf = false ∧ (Instr.lowWordRead .stroke 0 (.bar4 8) 0x10000).wf = false
    ∧ (Instr.lowWordRead .stroke 0 .config 1024).wf = false := by decide
theorem test_wf_barMaster : (Instr.lowWordRead .bow 0 .noBar 0).wf = false ∧ (Instr.registerWrite .stroke 1 .noBar [] false).wf = false := by decide
theorem test_wf_slot : (Instr.registerWrite .stroke 2 (.reg 0) [some 1] false).wf = false ∧
    (Instr.registerWrite .stroke 0 (.reg 0) (List.replicate 8 none) true).wf = false := by decide
theorem test_wf_windowRead : (Instr.windowRead .stroke 0 0 0).wf = false := by decide
theorem test_wf_bypass : (Instr.bypass 0x04 true).wf = false := by decide
theorem test_wf_halves : ∀ o : AluArgs, o.b = .imm 3 → (Instr.addh .stroke 0 o).wf = false ∧ (Instr.subh .stroke 0 o).wf = false
    ∧ (Instr.pack .stroke 0 o).wf = false := by
  rintro ⟨d, a, _⟩ rfl
  exact ⟨rfl, rfl, rfl⟩
theorem test_wf_shift_whole : ∀ o : AccArgs, o = ⟨0, 0, 53, false, false⟩ → (Instr.clra .stroke 0 o).wf = false ∧ (Instr.lda .stroke 0 o).wf = false
    ∧ (Instr.stsat .stroke 0 o).wf = false ∧ (Instr.mova .stroke 0 o).wf = false := by
  rintro _ rfl
  decide
theorem test_wf_shift_pair : ∀ o : AccArgs, o = ⟨0, 0, 27, false, true⟩ → (Instr.adda .stroke 0 o).wf = false ∧ (Instr.suba .stroke 0 o).wf = false
    ∧ (Instr.asr .stroke 0 o).wf = false ∧ (Instr.nega .stroke 0 o).wf = false := by
  rintro _ rfl
  decide
theorem test_wf_mtc : (Instr.mtc .stroke 0 39 1).wf = false := by decide
theorem test_wf_mfc : (Instr.mfc .stroke 0 39 1).wf = false := by decide

/-! ### Numbers the spec's own examples carry -/

/-- spec/01: seat 4 of the bow side, front end of channel D, DRAM controller 2 of the stroke side. -/
theorem test_source_ids : (Side.init .bow).src (srcOf 1 4 0) = 0x9100 ∧ (Side.init .bow).src (srcOf 0 1 8) = 0x8048
    ∧ (Side.init .stroke).src (srcOf 3 3 0) = 0x30C0 := by decide
/-- spec/04: the 64-point frame of constant input. -/
theorem test_transform_constant : transform 6 0 [] (List.replicate 64 (wordN (32768 * 2 ^ 18)))
    = (2, (List.range 64).map (fun n => if n = 32 then (65536, 0) else (0, 0))) := by decide +kernel
/-- spec/04: its level code, and that of a bin of a Hann frame. -/
theorem test_level_constant : binLevel (65536, 0) 2 (winGain 0 6 0) = 127989 := by decide +kernel
theorem test_level_hann : l2 3000000000 = 2063225 ∧ levelOfG 3000000000 (-38) (winGain 1 10 0) = 127590 := by decide +kernel
/-- spec/04: the residue relation of a rounding shift, and a flipped bit that trips it. -/
theorem test_residue : shiftCheck 7000001 3500000 1 = true ∧ shiftCheck 7000001 3500016 1 = false := by decide
/-- spec/05: the points of a trace slot: NP_CODE 5, T_LO 1,000, T_HI 50,999. -/
theorem test_trace_points :
    let c : List Word := [wordN (1 * 2 ^ 28 + 5 * 2 ^ 24), wordN (1000 * 2 ^ 16 + 50999)]
    tcW c = 50000 ∧ tcNp c = 8192 ∧ ptBins c 0 = (1000, 6) ∧ ptBins c 1 = (1006, 6) ∧ ptBins c 8191 = (50993, 7) := by decide +kernel
/-- spec/05: the cross-spectrum bin of two frames. -/
theorem test_cross_spectrum : xsBin 2 0 (2 ^ 33) (2 ^ 33) (2 ^ 35) (2 ^ 33) = (119127, 32768, 65536) := by decide +kernel
/-- spec/10: word 3 of a dense group holds bits 143 to 108: the high nibble of byte 13 and bytes 14 to 17. -/
theorem test_dense_word : (packBytes true [0, 0, 0, 0xABCDEF123, 0]).drop 13 = [0x30, 0x12, 0xEF, 0xCD, 0xAB, 0, 0, 0, 0, 0] := by decide +kernel
/-- spec/12: the block of segment 1 of channel B, on subchannel 1 of channel 3. -/
theorem test_dram_place :
    let x := Side.init .stroke
    let y := { x with dram := { x.dram with chans := [0, 1, 2, 3] } }.set DRAM_MAP.GRAIN_LOG2 2
    y.dramPlace 67108926 = (7, 8388614) ∧ y.dramChan 67108926 = (3, 1) ∧ y.dramChan 67108870 = (1, 0) := by decide +kernel

/-- spec/12: that block in its subchannel's devices, with one-rank x4 32 Gb modules, ORDER 0 and HASH 1. -/
theorem test_dram_location :
    let x := (((Side.init .stroke).set DRAM_MAP.HASH 1).set DRAM_CFG.D32 1).set DRAM_MAP.ORDER 0
    x.dramLoc 8388614 = ⟨6, 0, 0, 0, 2048⟩ := by decide +kernel
/-- spec/15: FB for F = 1,250 at 100 MHz. -/
theorem test_fb : fbOf 1250 true = 1678560461 := by decide +kernel
/-- spec/17: the VDDA raw value of the example of R389 by the rule's formula, worked by hand: 918,090.34 (log entry 137). -/
theorem test_monitor_value : rheP ((6160000 - -1200) * 625000) 22 = 918090 := by decide +kernel
/-- spec/18: the tap centres of both runs of the code density table. -/
theorem test_tap_centres : fineOf 0 [4200, 3900, 4150] = [8, 24, 40] ∧ fineOf 0 [4180, 3930, 4120] = [8, 24, 40] := by decide +kernel

/-! ### Words of the Cox cores and what they stand for, one or more of each class (R335, R343) -/

/-- A MAC with both moves, its word written out field by field (R335): hypotheses of the statement CoxEncoding, met. -/
theorem witness_CoxEncoding :
    (let i : Instr := .mac .stroke 1 (⟨2, 5, 4, ⟨true, true, 3, 1, 7⟩, ⟨true, 2, 3, 9⟩⟩ : MacArgs)
     let w : Word := 0x332A7AFB9
     i.wf = true ∧ encodeCox i = some w) ∧
    (let i : Instr := .mac .stroke 1 (⟨2, 5, 4, ⟨true, true, 3, 1, 7⟩, ⟨true, 2, 3, 9⟩⟩ : MacArgs)
     let w : Word := 0x332A7AFB9
     decodeCox .stroke 1 w = some i) := by decide +kernel

theorem test_cox_alu : decodeCox .stroke 0 0x004C48000 = some (.add .stroke 0 ⟨3, 1, .reg 2⟩)
    ∧ decodeCox .stroke 0 0x108C40005 = some (.sub .stroke 0 ⟨3, 1, .imm 5⟩) ∧ decodeCox .stroke 0 0x228012345 = some (.movi .stroke 0 2 true 0x12345) := by
  decide
theorem test_cox_mac : decodeCox .bow 3 0x3E0042513 = some (.nomac .bow 3 ⟨0, 0, 0, ⟨true, false, 0, 1, 2⟩, ⟨true, 0, 1, 3⟩⟩) := by decide
theorem test_cox_local : decodeCox .bow 2 0x40AA00000 = some (.ldx .bow 2 5 (.ind 1 1)) ∧ decodeCox .bow 2 0x4E2000123 = some (.sty .bow 2 1 (.dir 0x123)) := by
  decide
theorem test_cox_acc : decodeCox .stroke 1 0x5259A4000 = some (.stsat .stroke 1 ⟨1, 6, 26, false, true⟩) := by decide
theorem test_cox_ctrl : decodeCox .stroke 1 0x614000200 = some (.beqz .stroke 1 4 0x200) ∧ decodeCox .stroke 1 0x701000105 = some (.loop .stroke 1 256 0x105) := by
  decide
theorem test_cox_long : decodeCox .stroke 1 0x804CC0400 = some (.ldl .stroke 1 ⟨2, 1, true, 3, 0x10⟩) := by decide
theorem test_cox_special : decodeCox .stroke 1 0x90AE00000 = some (.mtc .stroke 1 5 7) ∧ decodeCox .stroke 1 0x9CC200000 = some (.mfc .stroke 1 38 1) := by
  decide
/-- R343: classes 0xA to 0xF, and an illegal operation of class 0, are no instruction. -/
theorem test_cox_illegal : (decodeCox .stroke 1 0xA00000000).isNone = true ∧ (decodeCox .stroke 1 0xF00000000).isNone = true := by decide

/-! ### Witnesses: the hypotheses of each statement, clause by clause, are met -/

theorem witness_AluArithmetic :
    (let s : State := coxAt (.add .stroke 1 (⟨3, 1, .reg 2⟩ : AluArgs))
     let sd : SideId := .stroke
     let c : Fin 4 := 1
     let o : AluArgs := (⟨3, 1, .reg 2⟩ : AluArgs)
     s.executes sd c (.add sd c o) = true) ∧
    (let s : State := coxAt (.sub .stroke 1 (⟨3, 1, .reg 2⟩ : AluArgs))
     let sd : SideId := .stroke
     let c : Fin 4 := 1
     let o : AluArgs := (⟨3, 1, .reg 2⟩ : AluArgs)
     s.executes sd c (.sub sd c o) = true) ∧
    (let s : State := coxAt (.adds .stroke 1 (⟨3, 1, .reg 2⟩ : AluArgs))
     let sd : SideId := .stroke
     let c : Fin 4 := 1
     let o : AluArgs := (⟨3, 1, .reg 2⟩ : AluArgs)
     s.executes sd c (.adds sd c o) = true) ∧
    (let s : State := coxAt (.subs .stroke 1 (⟨3, 1, .reg 2⟩ : AluArgs))
     let sd : SideId := .stroke
     let c : Fin 4 := 1
     let o : AluArgs := (⟨3, 1, .reg 2⟩ : AluArgs)
     s.executes sd c (.subs sd c o) = true) ∧
    (let s : State := coxAt (.neg .stroke 1 (⟨3, 1, .reg 2⟩ : AluArgs))
     let sd : SideId := .stroke
     let c : Fin 4 := 1
     let o : AluArgs := (⟨3, 1, .reg 2⟩ : AluArgs)
     s.executes sd c (.neg sd c o) = true) ∧
    (let s : State := coxAt (.abs .stroke 1 (⟨3, 1, .reg 2⟩ : AluArgs))
     let sd : SideId := .stroke
     let c : Fin 4 := 1
     let o : AluArgs := (⟨3, 1, .reg 2⟩ : AluArgs)
     s.executes sd c (.abs sd c o) = true) := by
  refine ⟨?_, ?_, ?_, ?_, ?_, ?_⟩ <;>
    (dsimp only; decide +kernel)

theorem witness_AluLogic :
    (let s : State := coxAt (.and .stroke 1 (⟨3, 1, .reg 2⟩ : AluArgs))
     let sd : SideId := .stroke
     let c : Fin 4 := 1
     let o : AluArgs := (⟨3, 1, .reg 2⟩ : AluArgs)
     s.executes sd c (.and sd c o) = true) ∧
    (let s : State := coxAt (.or .stroke 1 (⟨3, 1, .reg 2⟩ : AluArgs))
     let sd : SideId := .stroke
     let c : Fin 4 := 1
     let o : AluArgs := (⟨3, 1, .reg 2⟩ : AluArgs)
     s.executes sd c (.or sd c o) = true) ∧
    (let s : State := coxAt (.xor .stroke 1 (⟨3, 1, .reg 2⟩ : AluArgs))
     let sd : SideId := .stroke
     let c : Fin 4 := 1
     let o : AluArgs := (⟨3, 1, .reg 2⟩ : AluArgs)
     s.executes sd c (.xor sd c o) = true) ∧
    (let s : State := coxAt (.not .stroke 1 (⟨3, 1, .reg 2⟩ : AluArgs))
     let sd : SideId := .stroke
     let c : Fin 4 := 1
     let o : AluArgs := (⟨3, 1, .reg 2⟩ : AluArgs)
     s.executes sd c (.not sd c o) = true) ∧
    (let s : State := coxAt (.mov .stroke 1 (⟨3, 1, .reg 2⟩ : AluArgs))
     let sd : SideId := .stroke
     let c : Fin 4 := 1
     let o : AluArgs := (⟨3, 1, .reg 2⟩ : AluArgs)
     s.executes sd c (.mov sd c o) = true) ∧
    (let s : State := coxAt (.shl .stroke 1 (⟨3, 1, .reg 2⟩ : AluArgs))
     let sd : SideId := .stroke
     let c : Fin 4 := 1
     let o : AluArgs := (⟨3, 1, .reg 2⟩ : AluArgs)
     s.executes sd c (.shl sd c o) = true) ∧
    (let s : State := coxAt (.shrl .stroke 1 (⟨3, 1, .reg 2⟩ : AluArgs))
     let sd : SideId := .stroke
     let c : Fin 4 := 1
     let o : AluArgs := (⟨3, 1, .reg 2⟩ : AluArgs)
     s.executes sd c (.shrl sd c o) = true) ∧
    (let s : State := coxAt (.shra .stroke 1 (⟨3, 1, .reg 2⟩ : AluArgs))
     let sd : SideId := .stroke
     let c : Fin 4 := 1
     let o : AluArgs := (⟨3, 1, .reg 2⟩ : AluArgs)
     s.executes sd c (.shra sd c o) = true) ∧
    (let s : State := coxAt (.lzc .stroke 1 (⟨3, 1, .reg 2⟩ : AluArgs))
     let sd : SideId := .stroke
     let c : Fin 4 := 1
     let o : AluArgs := (⟨3, 1, .reg 2⟩ : AluArgs)
     s.executes sd c (.lzc sd c o) = true) ∧
    (let s : State := coxAt (.movi .stroke 1 3 false 0x2FFFF)
     let sd : SideId := .stroke
     let c : Fin 4 := 1
     let d : Fin 16 := 3
     let v : BitVec 18 := 0x2FFFF
     s.executes sd c (.movi sd c d false v) = true) ∧
    (let s : State := coxAt (.movi .stroke 1 3 true 0x2FFFF)
     let sd : SideId := .stroke
     let c : Fin 4 := 1
     let d : Fin 16 := 3
     let v : BitVec 18 := 0x2FFFF
     s.executes sd c (.movi sd c d true v) = true) := by
  refine ⟨?_, ?_, ?_, ?_, ?_, ?_, ?_, ?_, ?_, ?_, ?_⟩ <;>
    (dsimp only; decide +kernel)

theorem witness_AluCompareAndHalves :
    (let s : State := coxAt (.seq .stroke 1 (⟨3, 1, .reg 2⟩ : AluArgs))
     let sd : SideId := .stroke
     let c : Fin 4 := 1
     let o : AluArgs := (⟨3, 1, .reg 2⟩ : AluArgs)
     s.executes sd c (.seq sd c o) = true) ∧
    (let s : State := coxAt (.slt .stroke 1 (⟨3, 1, .reg 2⟩ : AluArgs))
     let sd : SideId := .stroke
     let c : Fin 4 := 1
     let o : AluArgs := (⟨3, 1, .reg 2⟩ : AluArgs)
     s.executes sd c (.slt sd c o) = true) ∧
    (let s : State := coxAt (.sltu .stroke 1 (⟨3, 1, .reg 2⟩ : AluArgs))
     let sd : SideId := .stroke
     let c : Fin 4 := 1
     let o : AluArgs := (⟨3, 1, .reg 2⟩ : AluArgs)
     s.executes sd c (.sltu sd c o) = true) ∧
    (let s : State := coxAt (.min .stroke 1 (⟨3, 1, .reg 2⟩ : AluArgs))
     let sd : SideId := .stroke
     let c : Fin 4 := 1
     let o : AluArgs := (⟨3, 1, .reg 2⟩ : AluArgs)
     s.executes sd c (.min sd c o) = true) ∧
    (let s : State := coxAt (.max .stroke 1 (⟨3, 1, .reg 2⟩ : AluArgs))
     let sd : SideId := .stroke
     let c : Fin 4 := 1
     let o : AluArgs := (⟨3, 1, .reg 2⟩ : AluArgs)
     s.executes sd c (.max sd c o) = true) ∧
    (let s : State := coxAt (.aluNop .stroke 1 ⟨0,0,.reg 0⟩)
     let sd : SideId := .stroke
     let c : Fin 4 := 1
     let o : AluArgs := ⟨0,0,.reg 0⟩
     s.executes sd c (.aluNop sd c o) = true) ∧
    (let s : State := coxAt (.addh .stroke 1 (⟨3, 1, .reg 2⟩ : AluArgs))
     let sd : SideId := .stroke
     let c : Fin 4 := 1
     let o : AluArgs := (⟨3, 1, .reg 2⟩ : AluArgs)
     let b : Fin 16 := 2
     o.b = .reg b ∧ s.executes sd c (.addh sd c o) = true) ∧
    (let s : State := coxAt (.subh .stroke 1 (⟨3, 1, .reg 2⟩ : AluArgs))
     let sd : SideId := .stroke
     let c : Fin 4 := 1
     let o : AluArgs := (⟨3, 1, .reg 2⟩ : AluArgs)
     let b : Fin 16 := 2
     o.b = .reg b ∧ s.executes sd c (.subh sd c o) = true) ∧
    (let s : State := coxAt (.pack .stroke 1 (⟨3, 1, .reg 2⟩ : AluArgs))
     let sd : SideId := .stroke
     let c : Fin 4 := 1
     let o : AluArgs := (⟨3, 1, .reg 2⟩ : AluArgs)
     let b : Fin 16 := 2
     o.b = .reg b ∧ s.executes sd c (.pack sd c o) = true) := by
  refine ⟨?_, ?_, ?_, ?_, ?_, ?_, ?_, ?_, ?_⟩ <;>
    (dsimp only; decide +kernel)

theorem witness_MacWhole :
    (let s : State := coxAt (.mpy .stroke 1 (⟨2, 5, 4, ⟨false, false, 0, 0, 0⟩, ⟨false, 0, 0, 0⟩⟩ : MacArgs))
     let sd : SideId := .stroke
     let c : Fin 4 := 1
     let o : MacArgs := (⟨2, 5, 4, ⟨false, false, 0, 0, 0⟩, ⟨false, 0, 0, 0⟩⟩ : MacArgs)
     s.executes sd c (.mpy sd c o) = true) ∧
    (let s : State := coxAt (.mac .stroke 1 (⟨2, 5, 4, ⟨false, false, 0, 0, 0⟩, ⟨false, 0, 0, 0⟩⟩ : MacArgs))
     let sd : SideId := .stroke
     let c : Fin 4 := 1
     let o : MacArgs := (⟨2, 5, 4, ⟨false, false, 0, 0, 0⟩, ⟨false, 0, 0, 0⟩⟩ : MacArgs)
     s.executes sd c (.mac sd c o) = true) ∧
    (let s : State := coxAt (.msu .stroke 1 (⟨2, 5, 4, ⟨false, false, 0, 0, 0⟩, ⟨false, 0, 0, 0⟩⟩ : MacArgs))
     let sd : SideId := .stroke
     let c : Fin 4 := 1
     let o : MacArgs := (⟨2, 5, 4, ⟨false, false, 0, 0, 0⟩, ⟨false, 0, 0, 0⟩⟩ : MacArgs)
     s.executes sd c (.msu sd c o) = true) := by
  refine ⟨?_, ?_, ?_⟩ <;>
    (dsimp only; decide +kernel)

theorem witness_MacPair :
    (let s : State := coxAt (.mpys .stroke 1 (⟨2, 5, 4, ⟨false, false, 0, 0, 0⟩, ⟨false, 0, 0, 0⟩⟩ : MacArgs))
     let sd : SideId := .stroke
     let c : Fin 4 := 1
     let o : MacArgs := (⟨2, 5, 4, ⟨false, false, 0, 0, 0⟩, ⟨false, 0, 0, 0⟩⟩ : MacArgs)
     s.executes sd c (.mpys sd c o) = true) ∧
    (let s : State := coxAt (.macs .stroke 1 (⟨2, 5, 4, ⟨false, false, 0, 0, 0⟩, ⟨false, 0, 0, 0⟩⟩ : MacArgs))
     let sd : SideId := .stroke
     let c : Fin 4 := 1
     let o : MacArgs := (⟨2, 5, 4, ⟨false, false, 0, 0, 0⟩, ⟨false, 0, 0, 0⟩⟩ : MacArgs)
     s.executes sd c (.macs sd c o) = true) ∧
    (let s : State := coxAt (.msus .stroke 1 (⟨2, 5, 4, ⟨false, false, 0, 0, 0⟩, ⟨false, 0, 0, 0⟩⟩ : MacArgs))
     let sd : SideId := .stroke
     let c : Fin 4 := 1
     let o : MacArgs := (⟨2, 5, 4, ⟨false, false, 0, 0, 0⟩, ⟨false, 0, 0, 0⟩⟩ : MacArgs)
     s.executes sd c (.msus sd c o) = true) ∧
    (let s : State := coxAt (.macx .stroke 1 (⟨2, 5, 4, ⟨false, false, 0, 0, 0⟩, ⟨false, 0, 0, 0⟩⟩ : MacArgs))
     let sd : SideId := .stroke
     let c : Fin 4 := 1
     let o : MacArgs := (⟨2, 5, 4, ⟨false, false, 0, 0, 0⟩, ⟨false, 0, 0, 0⟩⟩ : MacArgs)
     s.executes sd c (.macx sd c o) = true) := by
  refine ⟨?_, ?_, ?_, ?_⟩ <;>
    (dsimp only; decide +kernel)

theorem witness_ParallelMoves :
    (let s : State := coxAt (.nomac .stroke 1 (⟨2, 5, 4, ⟨false, false, 0, 0, 0⟩, ⟨false, 0, 0, 0⟩⟩ : MacArgs))
     let sd : SideId := .stroke
     let c : Fin 4 := 1
     let o : MacArgs := (⟨2, 5, 4, ⟨false, false, 0, 0, 0⟩, ⟨false, 0, 0, 0⟩⟩ : MacArgs)
     s.executes sd c (.nomac sd c o) = true) := by dsimp only; decide +kernel

theorem witness_LocalLoads :
    (let s : State := coxAt (.ldx .stroke 1 5 (.ind 1 1))
     let sd : SideId := .stroke
     let c : Fin 4 := 1
     let g : Fin 16 := 5
     let m : LocalAddr := .ind 1 1
     let y : Bool := false
     let i : Instr := if y then .ldy sd c g m else .ldx sd c g m
     s.executes sd c i = true) := by dsimp only; decide +kernel

theorem witness_LocalStores :
    (let s : State := coxAt (.stx .stroke 1 5 (.ind 1 1))
     let sd : SideId := .stroke
     let c : Fin 4 := 1
     let g : Fin 16 := 5
     let m : LocalAddr := .ind 1 1
     let y : Bool := false
     let i : Instr := if y then .sty sd c g m else .stx sd c g m
     s.executes sd c i = true) := by dsimp only; decide +kernel

theorem witness_AccWrites :
    (let s : State := coxAt (.clra .stroke 1 (⟨1, 0, 0, false, false⟩ : AccArgs))
     let sd : SideId := .stroke
     let c : Fin 4 := 1
     let o : AccArgs := (⟨1, 0, 0, false, false⟩ : AccArgs)
     s.executes sd c (.clra sd c o) = true) ∧
    (let s : State := coxAt (.lda .stroke 1 (⟨1, 2, 3, false, false⟩ : AccArgs))
     let sd : SideId := .stroke
     let c : Fin 4 := 1
     let o : AccArgs := (⟨1, 2, 3, false, false⟩ : AccArgs)
     s.executes sd c (.lda sd c o) = true) ∧
    (let s : State := coxAt (.adda .stroke 1 (⟨1, 2, 0, false, false⟩ : AccArgs))
     let sd : SideId := .stroke
     let c : Fin 4 := 1
     let o : AccArgs := (⟨1, 2, 0, false, false⟩ : AccArgs)
     s.executes sd c (.adda sd c o) = true) ∧
    (let s : State := coxAt (.suba .stroke 1 (⟨1, 2, 0, false, false⟩ : AccArgs))
     let sd : SideId := .stroke
     let c : Fin 4 := 1
     let o : AccArgs := (⟨1, 2, 0, false, false⟩ : AccArgs)
     s.executes sd c (.suba sd c o) = true) ∧
    (let s : State := coxAt (.nega .stroke 1 (⟨1, 0, 0, false, false⟩ : AccArgs))
     let sd : SideId := .stroke
     let c : Fin 4 := 1
     let o : AccArgs := (⟨1, 0, 0, false, false⟩ : AccArgs)
     s.executes sd c (.nega sd c o) = true) ∧
    (let s : State := coxAt (.asr .stroke 1 (⟨1, 2, 3, false, false⟩ : AccArgs))
     let sd : SideId := .stroke
     let c : Fin 4 := 1
     let o : AccArgs := (⟨1, 2, 3, false, false⟩ : AccArgs)
     s.executes sd c (.asr sd c o) = true) := by
  refine ⟨?_, ?_, ?_, ?_, ?_, ?_⟩ <;>
    (dsimp only; decide +kernel)

theorem witness_AccReads :
    (let s : State := coxAt (.stsat .stroke 1 (⟨1, 2, 3, false, false⟩ : AccArgs))
     let sd : SideId := .stroke
     let c : Fin 4 := 1
     let o : AccArgs := (⟨1, 2, 3, false, false⟩ : AccArgs)
     s.executes sd c (.stsat sd c o) = true) ∧
    (let s : State := coxAt (.mova .stroke 1 (⟨1, 2, 3, false, false⟩ : AccArgs))
     let sd : SideId := .stroke
     let c : Fin 4 := 1
     let o : AccArgs := (⟨1, 2, 3, false, false⟩ : AccArgs)
     s.executes sd c (.mova sd c o) = true) := by
  refine ⟨?_, ?_⟩ <;>
    (dsimp only; decide +kernel)

theorem witness_Branches :
    (let s : State := coxAt (.bra .stroke 1 0x55)
     let sd : SideId := .stroke
     let c : Fin 4 := 1
     let t : BitVec 13 := 0x55
     s.executes sd c (.bra sd c t) = true) ∧
    (let s : State := coxAt (.beqz .stroke 1 4 0x55)
     let sd : SideId := .stroke
     let c : Fin 4 := 1
     let g : Fin 16 := 4
     let t : BitVec 13 := 0x55
     s.executes sd c (.beqz sd c g t) = true) ∧
    (let s : State := coxAt (.bnez .stroke 1 4 0x55)
     let sd : SideId := .stroke
     let c : Fin 4 := 1
     let g : Fin 16 := 4
     let t : BitVec 13 := 0x55
     s.executes sd c (.bnez sd c g t) = true) ∧
    (let s : State := coxAt (.bltz .stroke 1 4 0x55)
     let sd : SideId := .stroke
     let c : Fin 4 := 1
     let g : Fin 16 := 4
     let t : BitVec 13 := 0x55
     s.executes sd c (.bltz sd c g t) = true) ∧
    (let s : State := coxAt (.bgez .stroke 1 4 0x55)
     let sd : SideId := .stroke
     let c : Fin 4 := 1
     let g : Fin 16 := 4
     let t : BitVec 13 := 0x55
     s.executes sd c (.bgez sd c g t) = true) ∧
    (let s : State := coxAt (.brar .stroke 1 4)
     let sd : SideId := .stroke
     let c : Fin 4 := 1
     let g : Fin 16 := 4
     s.executes sd c (.brar sd c g) = true) ∧
    (let s : State := coxAt (.call .stroke 1 0x55)
     let sd : SideId := .stroke
     let c : Fin 4 := 1
     let t : BitVec 13 := 0x55
     s.executes sd c (.call sd c t) = true) ∧
    (let s : State := (coxAt (.ret .stroke 1)).mod .stroke (fun x => x.modCore 1 (fun k => { k with calls := [7, 9] }))
     let sd : SideId := .stroke
     let c : Fin 4 := 1
     s.executes sd c (.ret sd c) = true) ∧
    (let s : State := (coxAt (.rti .stroke 1)).mod .stroke (fun x => x.modCore 1 (fun k => { k with ctx := true, ipc := 77 }))
     let sd : SideId := .stroke
     let c : Fin 4 := 1
     s.executes sd c (.rti sd c) = true) := by
  refine ⟨?_, ?_, ?_, ?_, ?_, ?_, ?_, ?_, ?_⟩ <;>
    (dsimp only; decide +kernel)

theorem witness_PcRules :
    (let s : State := (coxAt (.swi .stroke 1)).mod .stroke (fun x => x.modCore 1 (fun k => { k with pc := 8191 }))
     let k : Core := s.stroke.coreOf 1
     let k' : Core := k.advance
     k.goesOn k' ∧ k.slot = none ∧ k.act.loops = []) ∧
    (let s : State := (coxAt (.swi .stroke 1)).mod .stroke (fun x => x.modCore 1 (fun k => { k with main := { k.main with loops := [⟨1, 4, 3⟩, ⟨0, 9, 2⟩] } }))
     let k : Core := s.stroke.coreOf 1
     let k' : Core := k.advance
     let l := (lget k.act.loops 0 ⟨0, 0, 0⟩)
     let r := k.act.loops.drop 1
     k.goesOn k' ∧ k.slot = none ∧ k.act.loops = l :: r ∧ k.pc ≠ l.last) ∧
    (let s : State := (coxAt (.swi .stroke 1)).mod .stroke (fun x => x.modCore 1 (fun k => { k with main := { k.main with loops := [⟨1, 3, 2⟩, ⟨0, 9, 2⟩] } }))
     let k : Core := s.stroke.coreOf 1
     let k' : Core := k.advance
     let l := (lget k.act.loops 0 ⟨0, 0, 0⟩)
     let r := k.act.loops.drop 1
     k.goesOn k' ∧ k.slot = none ∧ k.act.loops = l :: r ∧ k.pc = l.last ∧ 1 < l.left) ∧
    (let s : State := (coxAt (.swi .stroke 1)).mod .stroke (fun x => x.modCore 1 (fun k => { k with main := { k.main with loops := [⟨1, 3, 1⟩, ⟨0, 9, 2⟩] } }))
     let k : Core := s.stroke.coreOf 1
     let k' : Core := k.advance
     let l := (lget k.act.loops 0 ⟨0, 0, 0⟩)
     let r := k.act.loops.drop 1
     k.goesOn k' ∧ k.slot = none ∧ k.act.loops = l :: r ∧ k.pc = l.last ∧ l.left ≤ 1) ∧
    (let s : State := (coxAt (.swi .stroke 1)).mod .stroke (fun x => x.modCore 1 (fun k => { k with inSlot := true, slot := some 66, ctx := true, rti := true }))
     let k : Core := s.stroke.coreOf 1
     let k' : Core := k.advance
     let t := (k.slot.getD 0)
     k.goesOn k' ∧ k.inSlot = true ∧ k.slot = some t) := by
  refine ⟨?_, ?_, ?_, ?_, ?_⟩ <;>
    (unfold Core.goesOn; dsimp only; decide +kernel)

theorem witness_Loops :
    (let s : State := coxAt (.loop .stroke 1 300 0x66)
     let sd : SideId := .stroke
     let c : Fin 4 := 1
     let n : BitVec 16 := 300
     let last : BitVec 13 := 0x66
     s.executes sd c (.loop sd c n last) = true) ∧
    (let s : State := coxAt (.loopr .stroke 1 4 0x66)
     let sd : SideId := .stroke
     let c : Fin 4 := 1
     let g : Fin 16 := 4
     let last : BitVec 13 := 0x66
     s.executes sd c (.loopr sd c g last) = true) := by
  refine ⟨?_, ?_⟩ <;>
    (dsimp only; decide +kernel)

theorem witness_CoreControl :
    (let s : State := coxAt (.halt .stroke 1)
     let sd : SideId := .stroke
     let c : Fin 4 := 1
     s.executes sd c (.halt sd c) = true) ∧
    (let s : State := coxAt (.wait .stroke 1)
     let sd : SideId := .stroke
     let c : Fin 4 := 1
     s.executes sd c (.wait sd c) = true ∧ ((s.side sd).coreOf c.val).dueSrc = none ∧ ((s.side sd).coreOf c.val).sw = none) ∧
    (let s : State := coxAt (.swi .stroke 1)
     let sd : SideId := .stroke
     let c : Fin 4 := 1
     s.executes sd c (.swi sd c) = true) ∧
    (let s : State := coxAt (.sig .stroke 1 4)
     let sd : SideId := .stroke
     let c : Fin 4 := 1
     let g : Fin 16 := 4
     s.executes sd c (.sig sd c g) = true) ∧
    (let s : State := coxAt (.waitt .stroke 1 6)
     let sd : SideId := .stroke
     let c : Fin 4 := 1
     let tag : Fin 16 := 6
     s.executes sd c (.waitt sd c tag) = true) := by
  refine ⟨?_, ?_, ?_, ?_, ?_⟩ <;>
    (dsimp only; decide +kernel)

theorem witness_ControlWrites :
    (let s : State := coxAt (.mtc .stroke 1 3 5)
     let sd : SideId := .stroke
     let c : Fin 4 := 1
     let n : BitVec 6 := 3
     let g : Fin 16 := 5
     let r := n.toNat
     s.executes sd c (.mtc sd c n g) = true ∧ r ≠ 32) ∧
    (let s : State := coxAt (.mtc .stroke 1 32 6)
     let sd : SideId := .stroke
     let c : Fin 4 := 1
     let n : BitVec 6 := 32
     let g : Fin 16 := 6
     let r := n.toNat
     s.executes sd c (.mtc sd c n g) = true ∧ r = 32) := by
  refine ⟨?_, ?_⟩ <;>
    (dsimp only; decide +kernel)

theorem witness_ControlReads :
    (let s : State := (coxAt (.mfc .stroke 1 3 5)).mod .stroke (fun x => (x.setReg (COXCORE_MBOX_IN.whole 1).idx 99).modCore 1 (fun k => { k with ops := [⟨6,false,0,1,[5],0,false,false,0⟩], imask := 0xFFFF, ipc := 5, la := [0x123456789AB, 1, 2, 3, 4], tsel := 3, alarmLo := 4, alarmHi := 3, rtHi := 33, tagSt := List.range 16 }))
     let sd : SideId := .stroke
     let c : Fin 4 := 1
     let n : BitVec 6 := 3
     let g : Fin 16 := 5
     s.executes sd c (.mfc sd c n g) = true) := by dsimp only; decide +kernel

/-- A LONG instruction of core 1 of the stroke, with an address in la1. -/
def longAt (i : Instr) (la : Nat) : State :=
  (coxAt i).mod .stroke (fun x => { x with dram := { x.dram with extent := 1024 } }.modCore 1 (fun k => { k with la := [0, la, 0, 0] }))

theorem witness_LongLoads :
    (let s : State := longAt (.ldl .stroke 1 (⟨5, 1, true, 3, 0x10⟩ : LongArgs)) (0x40)
     let sd : SideId := .stroke
     let c : Fin 4 := 1
     let o : LongArgs := (⟨5, 1, true, 3, 0x10⟩ : LongArgs)
     let k := (s.side sd).coreOf c.val
     let z := s.setSide sd ((s.fetched sd c).modCore c.val (fun q => { q with hz := Hazard.none }))
     let a := k.longAddr o
     let t := devSide a
     s.executes sd c (.ldl sd c o) = true ∧ s.longWaits sd c.val .word true o = false ∧ z.path t (coreMaster sd c.val) = .reaches) ∧
    (let s : State := longAt (.bldx .stroke 1 (⟨5, 1, true, 3, 0x10⟩ : LongArgs)) (0x40)
     let sd : SideId := .stroke
     let c : Fin 4 := 1
     let o : LongArgs := (⟨5, 1, true, 3, 0x10⟩ : LongArgs)
     let k := (s.side sd).coreOf c.val
     let z := s.setSide sd ((s.fetched sd c).modCore c.val (fun q => { q with hz := Hazard.none }))
     let a := k.longAddr o
     let t := devSide a
     s.executes sd c (.bldx sd c o) = true ∧ s.longWaits sd c.val .blockX true o = false ∧ z.path t (coreMaster sd c.val) = .reaches) ∧
    (let s : State := longAt (.bldy .stroke 1 (⟨5, 1, true, 3, 0x10⟩ : LongArgs)) (0x40)
     let sd : SideId := .stroke
     let c : Fin 4 := 1
     let o : LongArgs := (⟨5, 1, true, 3, 0x10⟩ : LongArgs)
     let k := (s.side sd).coreOf c.val
     let z := s.setSide sd ((s.fetched sd c).modCore c.val (fun q => { q with hz := Hazard.none }))
     let a := k.longAddr o
     let t := devSide a
     s.executes sd c (.bldy sd c o) = true ∧ s.longWaits sd c.val .blockY true o = false ∧ z.path t (coreMaster sd c.val) = .reaches) ∧
    (let s : State := longAt (.ldl .stroke 1 (⟨5, 1, true, 3, 0x10⟩ : LongArgs)) (2 ^ 43 + 0x40)
     let sd : SideId := .stroke
     let c : Fin 4 := 1
     let o : LongArgs := (⟨5, 1, true, 3, 0x10⟩ : LongArgs)
     let k := (s.side sd).coreOf c.val
     let z := s.setSide sd ((s.fetched sd c).modCore c.val (fun q => { q with hz := Hazard.none }))
     let a := k.longAddr o
     let t := devSide a
     s.executes sd c (.ldl sd c o) = true ∧ s.longWaits sd c.val .word true o = false ∧ z.path t (coreMaster sd c.val) = .keelDown) ∧
    (let s : State := longAt (.bldx .stroke 1 (⟨5, 1, true, 3, 0x10⟩ : LongArgs)) (2 ^ 43 + 0x40)
     let sd : SideId := .stroke
     let c : Fin 4 := 1
     let o : LongArgs := (⟨5, 1, true, 3, 0x10⟩ : LongArgs)
     let k := (s.side sd).coreOf c.val
     let z := s.setSide sd ((s.fetched sd c).modCore c.val (fun q => { q with hz := Hazard.none }))
     let a := k.longAddr o
     let t := devSide a
     s.executes sd c (.bldx sd c o) = true ∧ s.longWaits sd c.val .blockX true o = false ∧ z.path t (coreMaster sd c.val) = .keelDown) ∧
    (let s : State := longAt (.bldy .stroke 1 (⟨5, 1, true, 3, 0x10⟩ : LongArgs)) (2 ^ 43 + 0x40)
     let sd : SideId := .stroke
     let c : Fin 4 := 1
     let o : LongArgs := (⟨5, 1, true, 3, 0x10⟩ : LongArgs)
     let k := (s.side sd).coreOf c.val
     let z := s.setSide sd ((s.fetched sd c).modCore c.val (fun q => { q with hz := Hazard.none }))
     let a := k.longAddr o
     let t := devSide a
     s.executes sd c (.bldy sd c o) = true ∧ s.longWaits sd c.val .blockY true o = false ∧ z.path t (coreMaster sd c.val) = .keelDown) := by
  refine ⟨?_, ?_, ?_, ?_, ?_, ?_⟩ <;>
    (dsimp only; decide +kernel)

theorem witness_LongStores :
    (let s : State := longAt (.stl .stroke 1 (⟨5, 1, true, 3, 0x10⟩ : LongArgs)) (0x40)
     let sd : SideId := .stroke
     let c : Fin 4 := 1
     let o : LongArgs := (⟨5, 1, true, 3, 0x10⟩ : LongArgs)
     let k := (s.side sd).coreOf c.val
     let z := s.setSide sd ((s.fetched sd c).modCore c.val (fun q => { q with hz := Hazard.none }))
     let a := k.longAddr o
     let t := devSide a
     s.executes sd c (.stl sd c o) = true ∧ s.longWaits sd c.val .word false o = false ∧ z.path t (coreMaster sd c.val) = .reaches) ∧
    (let s : State := longAt (.bstx .stroke 1 (⟨5, 1, true, 3, 0x10⟩ : LongArgs)) (0x40)
     let sd : SideId := .stroke
     let c : Fin 4 := 1
     let o : LongArgs := (⟨5, 1, true, 3, 0x10⟩ : LongArgs)
     let k := (s.side sd).coreOf c.val
     let z := s.setSide sd ((s.fetched sd c).modCore c.val (fun q => { q with hz := Hazard.none }))
     let a := k.longAddr o
     let t := devSide a
     s.executes sd c (.bstx sd c o) = true ∧ s.longWaits sd c.val .blockX false o = false ∧ z.path t (coreMaster sd c.val) = .reaches) ∧
    (let s : State := longAt (.bsty .stroke 1 (⟨5, 1, true, 3, 0x10⟩ : LongArgs)) (0x40)
     let sd : SideId := .stroke
     let c : Fin 4 := 1
     let o : LongArgs := (⟨5, 1, true, 3, 0x10⟩ : LongArgs)
     let k := (s.side sd).coreOf c.val
     let z := s.setSide sd ((s.fetched sd c).modCore c.val (fun q => { q with hz := Hazard.none }))
     let a := k.longAddr o
     let t := devSide a
     s.executes sd c (.bsty sd c o) = true ∧ s.longWaits sd c.val .blockY false o = false ∧ z.path t (coreMaster sd c.val) = .reaches) ∧
    (let s : State := longAt (.stl .stroke 1 (⟨5, 1, true, 3, 0x10⟩ : LongArgs)) (2 ^ 43 + 0x40)
     let sd : SideId := .stroke
     let c : Fin 4 := 1
     let o : LongArgs := (⟨5, 1, true, 3, 0x10⟩ : LongArgs)
     let k := (s.side sd).coreOf c.val
     let z := s.setSide sd ((s.fetched sd c).modCore c.val (fun q => { q with hz := Hazard.none }))
     let a := k.longAddr o
     let t := devSide a
     s.executes sd c (.stl sd c o) = true ∧ s.longWaits sd c.val .word false o = false ∧ z.path t (coreMaster sd c.val) = .keelDown) ∧
    (let s : State := longAt (.bstx .stroke 1 (⟨5, 1, true, 3, 0x10⟩ : LongArgs)) (2 ^ 43 + 0x40)
     let sd : SideId := .stroke
     let c : Fin 4 := 1
     let o : LongArgs := (⟨5, 1, true, 3, 0x10⟩ : LongArgs)
     let k := (s.side sd).coreOf c.val
     let z := s.setSide sd ((s.fetched sd c).modCore c.val (fun q => { q with hz := Hazard.none }))
     let a := k.longAddr o
     let t := devSide a
     s.executes sd c (.bstx sd c o) = true ∧ s.longWaits sd c.val .blockX false o = false ∧ z.path t (coreMaster sd c.val) = .keelDown) ∧
    (let s : State := longAt (.bsty .stroke 1 (⟨5, 1, true, 3, 0x10⟩ : LongArgs)) (2 ^ 43 + 0x40)
     let sd : SideId := .stroke
     let c : Fin 4 := 1
     let o : LongArgs := (⟨5, 1, true, 3, 0x10⟩ : LongArgs)
     let k := (s.side sd).coreOf c.val
     let z := s.setSide sd ((s.fetched sd c).modCore c.val (fun q => { q with hz := Hazard.none }))
     let a := k.longAddr o
     let t := devSide a
     s.executes sd c (.bsty sd c o) = true ∧ s.longWaits sd c.val .blockY false o = false ∧ z.path t (coreMaster sd c.val) = .keelDown) := by
  refine ⟨?_, ?_, ?_, ?_, ?_, ?_⟩ <;>
    (dsimp only; decide +kernel)

theorem witness_LongStall :
    (let s : State := (longAt (.ldl .stroke 1 (⟨5, 1, true, 3, 0x10⟩ : LongArgs)) 0x40).mod .stroke (fun x => x.modCore 1 (fun k => { k with ops := [⟨3, false, 1, 0, [], 0, false, false, 0⟩] }))
     let sd : SideId := .stroke
     let c : Fin 4 := 1
     let o : LongArgs := (⟨5, 1, true, 3, 0x10⟩ : LongArgs)
     s.longWaits sd c.val .word true o = true) ∧
    (let s : State := (longAt (.bldx .stroke 1 (⟨5, 1, true, 3, 0x10⟩ : LongArgs)) 0x40).mod .stroke (fun x => x.modCore 1 (fun k => { k with ops := [⟨3, false, 1, 0, [], 0, false, false, 0⟩] }))
     let sd : SideId := .stroke
     let c : Fin 4 := 1
     let o : LongArgs := (⟨5, 1, true, 3, 0x10⟩ : LongArgs)
     s.longWaits sd c.val .blockX true o = true) ∧
    (let s : State := (longAt (.bldy .stroke 1 (⟨5, 1, true, 3, 0x10⟩ : LongArgs)) 0x40).mod .stroke (fun x => x.modCore 1 (fun k => { k with ops := [⟨3, false, 1, 0, [], 0, false, false, 0⟩] }))
     let sd : SideId := .stroke
     let c : Fin 4 := 1
     let o : LongArgs := (⟨5, 1, true, 3, 0x10⟩ : LongArgs)
     s.longWaits sd c.val .blockY true o = true) ∧
    (let s : State := (longAt (.stl .stroke 1 (⟨5, 1, true, 3, 0x10⟩ : LongArgs)) 0x40).mod .stroke (fun x => x.modCore 1 (fun k => { k with ops := [⟨3, false, 1, 0, [], 0, false, false, 0⟩] }))
     let sd : SideId := .stroke
     let c : Fin 4 := 1
     let o : LongArgs := (⟨5, 1, true, 3, 0x10⟩ : LongArgs)
     s.longWaits sd c.val .word false o = true) ∧
    (let s : State := (longAt (.bstx .stroke 1 (⟨5, 1, true, 3, 0x10⟩ : LongArgs)) 0x40).mod .stroke (fun x => x.modCore 1 (fun k => { k with ops := [⟨3, false, 1, 0, [], 0, false, false, 0⟩] }))
     let sd : SideId := .stroke
     let c : Fin 4 := 1
     let o : LongArgs := (⟨5, 1, true, 3, 0x10⟩ : LongArgs)
     s.longWaits sd c.val .blockX false o = true) ∧
    (let s : State := (longAt (.bsty .stroke 1 (⟨5, 1, true, 3, 0x10⟩ : LongArgs)) 0x40).mod .stroke (fun x => x.modCore 1 (fun k => { k with ops := [⟨3, false, 1, 0, [], 0, false, false, 0⟩] }))
     let sd : SideId := .stroke
     let c : Fin 4 := 1
     let o : LongArgs := (⟨5, 1, true, 3, 0x10⟩ : LongArgs)
     s.longWaits sd c.val .blockY false o = true) := by
  refine ⟨?_, ?_, ?_, ?_, ?_, ?_⟩ <;>
    (dsimp only; decide +kernel)

theorem witness_TagCompletion :
    (let s : State := rdy.mod .stroke (fun x => { x with host := { x.host with nextId := 3 } }.modCore 1 (fun k => { k with pc := 40, main := { k.main with g := (List.range 16).map wordN, acc := List.replicate 4 ⟨1,2,3,4⟩ }, st := 1, tagSt := List.replicate 16 0, ops := [⟨2,false,1,0,[],0,false,false,0⟩, ⟨6,true,0,7,[5],0x1002,true,false,0⟩], waitTag := some 6 }))
     let sd : SideId := .stroke
     let c : Fin 4 := 1
     let tag : Fin 16 := 6
     let p : LongOp := (((s.side sd).coreOf c.val).ops.find? (fun o => o.tag == tag.val)).getD ⟨6,true,0,7,[5],0x1002,true,false,0⟩
     let k := (s.side sd).coreOf c.val
     s.held = false ∧ (s.side sd).cores.length = 4 ∧ (k.ops.find? (fun o => o.tag == tag.val) = some p) ∧ p.dest ≠ 1 ∧ p.dest ≠ 2) := by dsimp only; decide +kernel

theorem witness_Interrupts :
    (let s : State := rdy.mod .stroke (fun x => { x with host := { x.host with nextId := 3 } }.modCore 1 (fun k => { k with pc := 40, main := { k.main with g := (List.range 16).map wordN, acc := List.replicate 4 ⟨1,2,3,4⟩ }, st := 1, imask := 0xFFF0, ipend := 0xFF21 }))
     let sd : SideId := .stroke
     let c : Fin 4 := 1
     let i : Nat := 5
     let k := (s.side sd).coreOf c.val
     s.coxRuns sd = true ∧ k.halts = [] ∧ k.eligible = true ∧ i < 16 ∧ bitAt k.ipend i = true ∧ bitAt k.imask i = true ∧ (∀ j < i, (bitAt k.ipend j && bitAt k.imask j) = false)) ∧
    (let s : State := rdy.mod .stroke (fun x => { x with host := { x.host with nextId := 3 } }.modCore 1 (fun k => { k with pc := 40, main := { k.main with g := (List.range 16).map wordN, acc := List.replicate 4 ⟨1,2,3,4⟩ }, st := 1, armed := true }))
     let sd : SideId := .stroke
     let c : Fin 4 := 1
     let k := (s.side sd).coreOf c.val
     let x := s.side sd
     k.armed = true ∧ k.alarmHi * 2 ^ 36 + k.alarmLo ≤ x.now) ∧
    (let s : State := rdy.mod .stroke (fun x => { x with host := { x.host with nextId := 3 } }.modCore 1 (fun k => { k with pc := 40, main := { k.main with g := (List.range 16).map wordN, acc := List.replicate 4 ⟨1,2,3,4⟩ }, st := 1, armed := false }))
     let sd : SideId := .stroke
     let c : Fin 4 := 1
     let k := (s.side sd).coreOf c.val
     let x := s.side sd
     (k.armed = false ∨ x.now < k.alarmHi * 2 ^ 36 + k.alarmLo)) := by
  refine ⟨?_, ?_, ?_⟩ <;>
    (dsimp only; decide +kernel)

theorem witness_IllegalHalts :
    (let s : State := (coxAt (.swi .stroke 1)).mod .stroke (fun x => { x with coxMem := { x.coxMem with words := [(coxBase 1 0 + 3, 0xA00000000)] } })
     let sd : SideId := .stroke
     let c : Fin 4 := 1
     let cause : IllegalCause := .illegal
     let x := s.side sd
     let code := (
              match cause with
    | .illegal => 4
    | .loopStack => 5
    | .callStack => 6
    | .poisonedFetch => 7)
     s.mayIssue sd c.val = true ∧ (x.coreOf c.val).st = 1 ∧ x.cores.length = 4 ∧ (x.coreOf c.val).haltCause sd c (x.fetch c.val).2 = some code) := by dsimp only; decide +kernel

theorem witness_HaltAndSwitch :
    (let s : State := rdy.mod .stroke (fun x => { x with host := { x.host with staged := [(⟨4, .stroke, 2, 0x51, (⟨head0 7 0 0 0, 0, 0, 0, 0, 0, 0, 0⟩ : CmdEntry), [], .now, 500, false, true, [], [500, 0]⟩ : Staged)] } }.modCore 1 (fun k => { k with pc := 40, main := { k.main with g := (List.range 16).map wordN, acc := List.replicate 4 ⟨1,2,3,4⟩ }, st := 1, halts := [(.stroke, 4)] }))
     let sd : SideId := .stroke
     let c : Fin 4 := 1
     let p : SideId × Nat := (.stroke, 4)
     let st : Staged := ((s.side sd).cmdOf p.1 p.2).getD (⟨4, .stroke, 2, 0x51, (⟨head0 7 0 0 0, 0, 0, 0, 0, 0, 0, 0⟩ : CmdEntry), [], .now, 500, false, true, [], [500, 0]⟩ : Staged)
     let x := s.side sd
     let k := x.coreOf c.val
     s.held = false ∧ x.cores.length = 4 ∧ k.halts = [p] ∧ k.ops = [] ∧ x.cmdOf p.1 p.2 = some st) ∧
    (let s : State := rdy.mod .stroke (fun x => { x with host := { x.host with staged := [(⟨4, .stroke, 2, 0x51, (⟨head0 7 0 0 0, 0, 0, 0, 0, 0, 0, 0⟩ : CmdEntry), [], .now, 500, false, true, [], [500, 0]⟩ : Staged)] } }.modCore 1 (fun k => { k with pc := 40, main := { k.main with g := (List.range 16).map wordN, acc := List.replicate 4 ⟨1,2,3,4⟩ }, st := 2, sw := some (.stroke, 4), arg := 99 }))
     let sd : SideId := .stroke
     let c : Fin 4 := 1
     let p : SideId × Nat := (.stroke, 4)
     let st : Staged := ((s.side sd).cmdOf p.1 p.2).getD (⟨4, .stroke, 2, 0x51, (⟨head0 7 0 0 0, 0, 0, 0, 0, 0, 0, 0⟩ : CmdEntry), [], .now, 500, false, true, [], [500, 0]⟩ : Staged)
     let x := s.side sd
     let k := x.coreOf c.val
     s.mayIssue sd c.val = true ∧ x.cores.length = 4 ∧ k.st = 2 ∧ k.ctx = false ∧ k.main.loops = [] ∧ k.ops = [] ∧ k.sw = some p ∧ x.cmdOf p.1 p.2 = some st) ∧
    (let s : State := rdy.mod .stroke (fun x => { x with host := { x.host with staged := [(⟨4, .stroke, 2, 0x51, (⟨head0 7 0 0 0, 0, 0, 0, 0, 0, 0, 0⟩ : CmdEntry), [], .now, 500, false, true, [], [500, 0]⟩ : Staged)] } }.modCore 1 (fun k => { k with pc := 40, main := { k.main with g := (List.range 16).map wordN, acc := List.replicate 4 ⟨1,2,3,4⟩ }, st := 1, sw := some (.stroke, 4) }))
     let sd : SideId := .stroke
     let c : Fin 4 := 1
     let p : SideId × Nat := (.stroke, 4)
     let st : Staged := ((s.side sd).cmdOf p.1 p.2).getD (⟨4, .stroke, 2, 0x51, (⟨head0 7 0 0 0, 0, 0, 0, 0, 0, 0, 0⟩ : CmdEntry), [], .now, 500, false, true, [], [500, 0]⟩ : Staged)
     let x := s.side sd
     let k := x.coreOf c.val
     k.sw = some p ∧ x.cmdOf p.1 p.2 = some st) := by
  refine ⟨?_, ?_, ?_⟩ <;>
    (dsimp only; decide +kernel)

theorem witness_SnapshotReads :
    (let s : State := on1 (fun x => { x with rt := { x.rt with rta := 2^90 + 12345 * 2^24 }, bus := { x.bus with snap := [(2, (RT_NOW_LO.whole.idx, 77))] } }.setReg PPS_RESID_LO.whole.idx (wordN (2^35 + 5)))
     let sd : SideId := .stroke
     let m : Fin 11 := 2
     let off : BitVec 39 := (BitVec.ofNat 39 (RT_NOW_LO.whole.idx))
     let n := off.toNat
     masterSide sd m.val = sd ∧ n < 2 ^ 20 ∧ s.opens sd m n = true ∧ kindOf n = some .rsLo) ∧
    (let s : State := on1 (fun x => { x with rt := { x.rt with rta := 2^90 + 12345 * 2^24 }, bus := { x.bus with snap := [(2, (RT_NOW_LO.whole.idx, 77))] } }.setReg PPS_RESID_LO.whole.idx (wordN (2^35 + 5)))
     let sd : SideId := .stroke
     let m : Fin 11 := 2
     let off : BitVec 39 := (BitVec.ofNat 39 (RT_NOW_HI.whole.idx))
     let n := off.toNat
     let x := s.side sd
     let w := 77
     masterSide sd m.val = sd ∧ n < 2 ^ 20 ∧ s.opens sd m n = true ∧ kindOf n = some .rsHi ∧ aget x.bus.snap m.val = some (n - 1, w)) ∧
    (let s : State := on1 (fun x => { x with rt := { x.rt with rta := 2^90 + 12345 * 2^24 }, bus := { x.bus with snap := [(2, (RT_NOW_LO.whole.idx, 77))] } }.setReg PPS_RESID_LO.whole.idx (wordN (2^35 + 5)))
     let sd : SideId := .stroke
     let m : Fin 11 := 2
     let i : BitVec 20 := (BitVec.ofNat 20 (PPS_RESID_LO.whole.idx))
     masterSide sd m.val = sd ∧ s.opens sd m i.toNat = true ∧ kindOf i.toNat = some .rcLo ∧ i.toNat ≠ RT_FREQ_ADJ.whole.idx) ∧
    (let s : State := on1 (fun x => { x with rt := { x.rt with rta := 2^90 + 12345 * 2^24 }, bus := { x.bus with snap := [(2, (RT_NOW_LO.whole.idx, 77))] } }.setReg PPS_RESID_LO.whole.idx (wordN (2^35 + 5)))
     let sd : SideId := .stroke
     let m : Fin 11 := 2
     let i : BitVec 20 := (BitVec.ofNat 20 (PPS_RESID_LO.whole.idx))
     masterSide sd m.val = sd ∧ s.opens sd m i.toNat = true ∧ kindOf i.toNat = some .rcLo) := by
  refine ⟨?_, ?_, ?_, ?_⟩ <;>
    (dsimp only; decide +kernel)

theorem witness_SnapshotReads_open :
    (let s : State := on1 (fun x => { x with rt := { x.rt with rta := 2^90 + 12345 * 2^24 } })
     let sd : SideId := .stroke
     let m : Fin 11 := 2
     let off : BitVec 39 := (BitVec.ofNat 39 (RT_NOW_HI.whole.idx))
     let n := off.toNat
     let x := s.side sd
     masterSide sd m.val = sd ∧ n < 2 ^ 20 ∧ s.opens sd m n = true ∧ kindOf n = some .rsHi ∧ (∀ w, aget x.bus.snap m.val ≠ some (n - 1, w))) := by
  dsimp only
  refine ⟨by decide +kernel, by decide +kernel, by decide +kernel, by decide +kernel, fun w => ?_⟩
  rw [show aget (State.side _ SideId.stroke).bus.snap (2 : Fin 11).val = none by decide +kernel]
  simp

theorem witness_StagedWrites :
    (let s : State := on1 (fun x => { x with bus := { x.bus with stage := [] } }.setReg DB_PAGE_HI.whole.idx 3)
     let sd : SideId := .stroke
     let m : Fin 11 := 2
     let i : BitVec 20 := (BitVec.ofNat 20 (DB_PAGE_HI.whole.idx))
     let n := i.toNat
     s.opens sd m n = true ∧ n ≠ ACC_ERR_LO.whole.idx ∧ n ≠ POISON_ADDR_LO.whole.idx ∧ n ≠ ACC_ERR_HI.whole.idx ∧ n ≠ POISON_ADDR_HI.whole.idx ∧ (kindOf n = some .rsHi ∨ kindOf n = some .wHi)) ∧
    (let s : State := on1 (fun x => { x with bus := { x.bus with stage := [(2, (DB_PAGE_LO.whole.idx, 5))] } }.setReg DB_PAGE_HI.whole.idx 3)
     let sd : SideId := .stroke
     let m : Fin 11 := 2
     let i : BitVec 20 := (BitVec.ofNat 20 (DB_PAGE_LO.whole.idx))
     let n := i.toNat
     let x := s.side sd
     let w := 5
     s.opens sd m n = true ∧ n ≠ ACC_ERR_LO.whole.idx ∧ n ≠ POISON_ADDR_LO.whole.idx ∧ n ≠ ACC_ERR_HI.whole.idx ∧ n ≠ POISON_ADDR_HI.whole.idx ∧ (kindOf n = some .rsLo ∨ kindOf n = some .wLo) ∧ aget x.bus.stage m.val = some (n, w)) ∧
    (let s : State := on1 (fun x => { x with bus := { x.bus with stage := [] } }.setReg DB_PAGE_HI.whole.idx 3)
     let sd : SideId := .stroke
     let m : Fin 11 := 2
     let i : BitVec 20 := (BitVec.ofNat 20 (DB_PAGE_LO.whole.idx))
     let n := i.toNat
     let x := s.side sd
     s.opens sd m n = true ∧ n ≠ ACC_ERR_LO.whole.idx ∧ n ≠ POISON_ADDR_LO.whole.idx ∧ n ≠ ACC_ERR_HI.whole.idx ∧ n ≠ POISON_ADDR_HI.whole.idx ∧ (kindOf n = some .rsLo ∨ kindOf n = some .wLo) ∧ aget x.bus.stage m.val = none) ∧
    (let s : State := on1 (fun x => { x with bus := { x.bus with stage := [(2, (RT_LOAD_LO.whole.idx, 5))] } }.setReg DB_PAGE_HI.whole.idx 3)
     let sd : SideId := .stroke
     let m : Fin 11 := 2
     let i : BitVec 20 := (BitVec.ofNat 20 (DB_PAGE_LO.whole.idx))
     let n := i.toNat
     let x := s.side sd
     let k := RT_LOAD_LO.whole.idx
     let w := 5
     s.opens sd m n = true ∧ n ≠ ACC_ERR_LO.whole.idx ∧ n ≠ POISON_ADDR_LO.whole.idx ∧ n ≠ ACC_ERR_HI.whole.idx ∧ n ≠ POISON_ADDR_HI.whole.idx ∧ (kindOf n = some .rsLo ∨ kindOf n = some .wLo) ∧ aget x.bus.stage m.val = some (k, w) ∧ k ≠ n) ∧
    (let s : State := on1 (fun x => { x with bus := { x.bus with stage := [] } }.setReg DB_PAGE_HI.whole.idx 3)
     let sd : SideId := .stroke
     let m : Fin 11 := 2
     let i : BitVec 20 := (BitVec.ofNat 20 (DB_PAGE_LO.whole.idx))
     let n := i.toNat
     s.opens sd m n = true ∧ n ≠ ACC_ERR_LO.whole.idx ∧ n ≠ POISON_ADDR_LO.whole.idx ∧ n ≠ ACC_ERR_HI.whole.idx ∧ n ≠ POISON_ADDR_HI.whole.idx ∧ (kindOf n = some .rsLo ∨ kindOf n = some .wLo) ∧ hasHigh n = true ∧ n % 2 = 0) := by
  refine ⟨?_, ?_, ?_, ?_, ?_⟩ <;>
    (dsimp only; decide +kernel)

theorem witness_PairCommits :
    (let s : State := on1 (fun x => x.setPair EVQ_BASE_LO.whole.idx (5 * 2^36 + 0x123456000))
     let sd : SideId := .stroke
     let h : Word := 5
     let l : Word := 0x123456789
     let x := s.side sd
     let p := EVQ_BASE_LO.whole.idx
     let v := fun (a : Nat) => pairN (h &&& wordN (((findReg (a + 1)).map RegRow.rw).getD 0)) (l &&& wordN (((findReg a).map RegRow.rw).getD 0))
     x.pair p = v p) ∧
    (let s : State := on1 (fun x => x.set EVQ_CFG.EN 0)
     let sd : SideId := .stroke
     let h : Word := 5
     let l : Word := 0x123456789
     let x := s.side sd
     let p := EVQ_BASE_LO.whole.idx
     let v := fun (a : Nat) => pairN (h &&& wordN (((findReg (a + 1)).map RegRow.rw).getD 0)) (l &&& wordN (((findReg a).map RegRow.rw).getD 0))
     x.pair p ≠ v p ∧ x.on EVQ_CFG.EN = false) ∧
    (let s : State := on1 (fun x => x.set EVQ_CFG.EN 1)
     let sd : SideId := .stroke
     let h : Word := 5
     let l : Word := 0x123456789
     let x := s.side sd
     let p := EVQ_BASE_LO.whole.idx
     let v := fun (a : Nat) => pairN (h &&& wordN (((findReg (a + 1)).map RegRow.rw).getD 0)) (l &&& wordN (((findReg a).map RegRow.rw).getD 0))
     x.pair p ≠ v p ∧ x.on EVQ_CFG.EN = true) := by
  refine ⟨?_, ?_, ?_⟩ <;>
    (dsimp only; decide +kernel)

theorem witness_RegisterWrites :
    (let s : State := rdy
     let sd : SideId := .stroke
     let m : Fin 11 := 2
     let i : BitVec 20 := (BitVec.ofNat 20 (PLL_LOCK_CFG.whole.idx))
     let bytes : List (Option Byte) := [none, none, none, none, none, some 5, some 6, some 7]
     let be := slotBe bytes % 32
     let n := i.toNat
     s.opens sd m n = true ∧ be = 0) ∧
    (let s : State := rdy
     let sd : SideId := .stroke
     let m : Fin 11 := 2
     let i : BitVec 20 := (BitVec.ofNat 20 (PLL_LOCK_CFG.whole.idx))
     let bytes : List (Option Byte) := [some 1, some 2, some 3, some 4, none, none, none, none]
     let be := slotBe bytes % 32
     let n := i.toNat
     s.opens sd m n = true ∧ be ≠ 0 ∧ be ≠ 31 ∧ kindOf n ≠ none) ∧
    (let s : State := on1 (fun x => x.setReg PLL_LOCK_CFG.whole.idx 0x0F0F0F0F0)
     let sd : SideId := .stroke
     let m : Fin 11 := 2
     let i : BitVec 20 := (BitVec.ofNat 20 (PLL_LOCK_CFG.whole.idx))
     let bytes : List (Option Byte) := [some 0xF0, some 0x78, some 0x56, some 0x34, some 0x12, none, none, none]
     let be := slotBe bytes % 32
     let n := i.toNat
     let r := rowOf PLL_LOCK_CFG.whole.idx
     s.opens sd m n = true ∧ be = 31 ∧ n = PLL_LOCK_CFG.whole.idx ∧ findReg n = some r) := by
  refine ⟨?_, ?_, ?_⟩ <;>
    (dsimp only; decide +kernel)

theorem witness_RefusedAccesses :
    (let s : State := { rdy with stroke := Side.init .stroke }
     let sd : SideId := .stroke
     let m : Fin 11 := 2
     let off : BitVec 39 := (BitVec.ofNat 39 (0x8000))
     s.path sd m.val = .reaches ∧ (s.side sd).islTakes busSrc = true ∧ masterSide sd m.val = sd ∧ off.toNat < 2 ^ 20 ∧ (s.side sd).serves off.toNat = false) ∧
    (let s : State := { rdy with stroke := Side.init .stroke }
     let sd : SideId := .stroke
     let m : Fin 11 := 2
     let i : BitVec 20 := (BitVec.ofNat 20 (0x8000))
     s.path sd m.val = .reaches ∧ (s.side sd).islTakes busSrc = true ∧ (s.side sd).serves i.toNat = false) ∧
    (let s : State := rdy
     let sd : SideId := .stroke
     let m : Fin 11 := 6
     s.path sd m.val = .keelDown) ∧
    (let s : State := rdy
     let sd : SideId := .stroke
     let m : Fin 11 := 0
     s.path sd m.val = .none) := by
  refine ⟨?_, ?_, ?_, ?_⟩ <;>
    (dsimp only; decide +kernel)

theorem witness_TimeAndDisplayWrites :
    (let s : State := rdy
     let sd : SideId := .stroke
     let m : Fin 11 := 2
     let v : Word := wordN (2^35 + 77)
     let x := s.side sd
     s.opens sd m RT_SET_SEC.whole.idx = true ∧ (x.isCrew = false ∨ bitAt v.toNat 35 = false)) ∧
    (let s : State := on1 (fun x => (x.set KEEL_COX_STAT.KEEL_UP 1))
     let sd : SideId := .stroke
     let m : Fin 11 := 2
     let v : Word := wordN (2^35 + 77)
     let x := s.side sd
     s.opens sd m RT_SET_SEC.whole.idx = true ∧ x.isCrew = true ∧ bitAt v.toNat 35 = true) ∧
    (let s : State := rdy
     let sd : SideId := .stroke
     let m : Fin 11 := 2
     let n : Fin 4 := 1
     let v : Word := wordN (2^18)
     s.opens sd m (SPLIT_IN_CFG.whole n.val).idx = true ∧ bitAt v.toNat 18 = true) ∧
    (let s : State := on1 (fun x => (x.set SPLIT_WP.WP 5).set SPLIT_RP.RP 4)
     let sd : SideId := .stroke
     let m : Fin 11 := 2
     let v : Word := wordN (5 * 2^31)
     let x := s.side sd
     let r := rowOf SPLIT_RING_CFG.whole.idx
     let y := x.setReg SPLIT_RING_CFG.whole.idx (mergeWrite r (x.reg SPLIT_RING_CFG.whole.idx) v)
     s.opens sd m SPLIT_RING_CFG.whole.idx = true ∧ findReg SPLIT_RING_CFG.whole.idx = some r ∧ y.reg SPLIT_RING_CFG.whole.idx ≠ x.reg SPLIT_RING_CFG.whole.idx ∧ x.splitOff = true) ∧
    (let s : State := on1 (fun x => x.set (SPLIT_IN_CFG.SLOPE 1) 1)
     let sd : SideId := .stroke
     let m : Fin 11 := 2
     let v : Word := wordN (5 * 2^31)
     let x := s.side sd
     let r := rowOf SPLIT_RING_CFG.whole.idx
     let y := x.setReg SPLIT_RING_CFG.whole.idx (mergeWrite r (x.reg SPLIT_RING_CFG.whole.idx) v)
     s.opens sd m SPLIT_RING_CFG.whole.idx = true ∧ findReg SPLIT_RING_CFG.whole.idx = some r ∧ y.reg SPLIT_RING_CFG.whole.idx ≠ x.reg SPLIT_RING_CFG.whole.idx ∧ x.splitOff = false) ∧
    (let s : State := on1 (fun x => x.set (SPLIT_IN_CFG.SLOPE 1) 1)
     let sd : SideId := .stroke
     let m : Fin 11 := 2
     let x := s.side sd
     let v : Word := x.reg SPLIT_RING_CFG.whole.idx
     let r := rowOf SPLIT_RING_CFG.whole.idx
     let y := x.setReg SPLIT_RING_CFG.whole.idx (mergeWrite r (x.reg SPLIT_RING_CFG.whole.idx) v)
     s.opens sd m SPLIT_RING_CFG.whole.idx = true ∧ findReg SPLIT_RING_CFG.whole.idx = some r ∧ y.reg SPLIT_RING_CFG.whole.idx = x.reg SPLIT_RING_CFG.whole.idx) ∧
    (let s : State := rdy
     let sd : SideId := .stroke
     let m : Fin 11 := 2
     let v : Word := wordN (2^34)
     let x := s.side sd
     s.opens sd m SO_CTRL.whole.idx = true ∧ bitAt v.toNat 35 = x.on SO_CTRL.EN ∧ bitAt v.toNat 34 = true) ∧
    (let s : State := on1 (fun x => ((((((((((x.set SO_HTIM.H_ACTIVE 1920).set SO_HTIM.H_FP 88).set SO_HTIM.H_SYNC 44).set SO_BP.H_BP 148).set SO_VTIM.V_ACTIVE 1080).set SO_VTIM.V_FP 4).set SO_VTIM.V_SYNC 5).set SO_BP.V_BP 36).set SO_PCLK.PCLK_KHZ 148500).set SO_LINK.LANES 4))
     let sd : SideId := .stroke
     let m : Fin 11 := 2
     let v : Word := wordN (2^35)
     let x := s.side sd
     let y := x.set SO_CTRL.VBL_EVT (if bitAt v.toNat 33 then 1 else 0)
     s.opens sd m SO_CTRL.whole.idx = true ∧ bitAt v.toNat 35 = true ∧ x.on SO_CTRL.EN = false ∧ bitAt v.toNat 34 = false ∧ y.soBad = false) ∧
    (let s : State := on1 (fun x => x.set SO_HTIM.H_ACTIVE 1)
     let sd : SideId := .stroke
     let m : Fin 11 := 2
     let v : Word := wordN (2^35)
     let x := s.side sd
     let y := x.set SO_CTRL.VBL_EVT (if bitAt v.toNat 33 then 1 else 0)
     s.opens sd m SO_CTRL.whole.idx = true ∧ bitAt v.toNat 35 = true ∧ x.on SO_CTRL.EN = false ∧ bitAt v.toNat 34 = false ∧ y.soBad = true) ∧
    (let s : State := on1 (fun x => x.set SO_CTRL.EN 1)
     let sd : SideId := .stroke
     let m : Fin 11 := 2
     let v : Word := wordN 7
     let x := s.side sd
     s.opens sd m SO_CTRL.whole.idx = true ∧ bitAt v.toNat 35 = false ∧ x.on SO_CTRL.EN = true ∧ bitAt v.toNat 34 = false) := by
  refine ⟨?_, ?_, ?_, ?_, ?_, ?_, ?_, ?_, ?_, ?_⟩ <;>
    (dsimp only; decide +kernel)

theorem witness_LinkAndConverterWrites :
    (let s : State := rdy
     let sd : SideId := .stroke
     let m : Fin 11 := 2
     let ch : Chan := .c0
     let v : Word := wordN (2^35 + 2 * 2^29 + 10000 * 2^5 + 3)
     let x := s.side sd
     let r := (JESD_CFG.whole ch.n).idx
     let w := v &&& wordN (2 ^ 36 - 2 ^ 5)
     s.opens sd m r = true ∧ x.on (JESD_CFG.LINK_EN ch.n) = false ∧ bitAt w.toNat 35 = true ∧ (x.setReg r w).jesdOk ch = true) ∧
    (let s : State := rdy
     let sd : SideId := .stroke
     let m : Fin 11 := 2
     let ch : Chan := .c0
     let v : Word := wordN (2^36 - 1)
     let x := s.side sd
     let r := (JESD_CFG.whole ch.n).idx
     let w := v &&& wordN (2 ^ 36 - 2 ^ 5)
     s.opens sd m r = true ∧ x.on (JESD_CFG.LINK_EN ch.n) = false ∧ bitAt w.toNat 35 = true ∧ (x.setReg r w).jesdOk ch = false) ∧
    (let s : State := on1 (fun x => x.set (JESD_CFG.LINK_EN 0) 1)
     let sd : SideId := .stroke
     let m : Fin 11 := 2
     let ch : Chan := .c0
     let v : Word := wordN (2^35 + 2^20)
     let x := s.side sd
     let r := (JESD_CFG.whole ch.n).idx
     let w := v &&& wordN (2 ^ 36 - 2 ^ 5)
     s.opens sd m r = true ∧ x.on (JESD_CFG.LINK_EN ch.n) = true ∧ bitAt w.toNat 35 = true ∧ w ≠ x.reg r) ∧
    (let s : State := on1 (fun x => (x.set (JESD_CFG.LINK_EN 0) 1).set (FE_STAT.RUNNING 0) 1)
     let sd : SideId := .stroke
     let m : Fin 11 := 2
     let ch : Chan := .c0
     let x := s.side sd
     let r := (JESD_CFG.whole ch.n).idx
     let v : Word := x.reg r
     let w := v &&& wordN (2 ^ 36 - 2 ^ 5)
     s.opens sd m r = true ∧ x.on (JESD_CFG.LINK_EN ch.n) = true ∧ w = x.reg r) ∧
    (let s : State := on1 (fun x => ((x.set (JESD_CFG.LINK_EN 0) 1).set (JESD_STAT.LINK_UP 0) 1).setJesd .c0 { x.jesdOf .c0 with step := 6 })
     let sd : SideId := .stroke
     let m : Fin 11 := 2
     let ch : Chan := .c0
     let v : Word := wordN (2^33)
     let x := s.side sd
     let r := (JESD_CFG.whole ch.n).idx
     let w := v &&& wordN (2 ^ 36 - 2 ^ 5)
     s.opens sd m r = true ∧ x.on (JESD_CFG.LINK_EN ch.n) = true ∧ bitAt w.toNat 35 = false ∧ x.on (FE_STAT.RUNNING ch.n) = false) ∧
    (let s : State := rdy
     let sd : SideId := .stroke
     let m : Fin 11 := 2
     let ch : Chan := .c0
     let v : Word := wordN (2^33 + 9)
     let x := s.side sd
     let r := (JESD_CFG.whole ch.n).idx
     let w := v &&& wordN (2 ^ 36 - 2 ^ 5)
     s.opens sd m r = true ∧ x.on (JESD_CFG.LINK_EN ch.n) = false ∧ bitAt w.toNat 35 = false) ∧
    (let s : State := on1 (fun x => { x with tone := x.tone.map (fun t => { t with code := 6, acc := 9, force := some ⟨1,2,3⟩, staged := some ⟨4,5,6⟩ }) })
     let sd : SideId := .stroke
     let m : Fin 11 := 2
     s.opens sd m TONE_CFG.whole.idx = true) ∧
    (let s : State := on1 (fun x => (x.set MON_WP.WP 5).set MON_RP.RP 7)
     let sd : SideId := .stroke
     let m : Fin 11 := 2
     let x := s.side sd
     s.opens sd m MON_CFG.whole.idx = true ∧ x.on MON_CFG.BUF_EN = false) := by
  refine ⟨?_, ?_, ?_, ?_, ?_, ?_, ?_, ?_⟩ <;>
    (dsimp only; decide +kernel)

theorem witness_HostWrites :
    (let s : State := on1 (fun x => { x with host := { x.host with win := lset x.host.win 1 ⟨some 3, [(0, 5)]⟩ } })
     let sd : SideId := .stroke
     let m : Fin 11 := 2
     let n : Fin 4 := 1
     let r := rowOf (WIN_CFG.whole 1).idx
     s.opens sd m (WIN_CFG.whole n.val).idx = true ∧ findReg (WIN_CFG.whole n.val).idx = some r) ∧
    (let s : State := rdy.mod .bow (fun x => x.set (CMDQ_CFG.EN 2) 1)
     let m : Fin 11 := 2
     let v : Word := wordN (2^35 + 3)
     s.opens .stroke m HOST_CFG.whole.idx = true ∧ bitAt v.toNat 35 ≠ s.stroke.on HOST_CFG.ROUTE_BOW ∧ s.bow.ringsActive = true) ∧
    (let s : State := rdy
     let m : Fin 11 := 2
     let v : Word := wordN (2^35 + 3)
     s.opens .stroke m HOST_CFG.whole.idx = true ∧ bitAt v.toNat 35 ≠ s.stroke.on HOST_CFG.ROUTE_BOW ∧ s.bow.ringsActive = false) ∧
    (let s : State := on1 (fun x => x.setReg ACC_ERR_HI.whole.idx 5)
     let sd : SideId := .stroke
     let m : Fin 11 := 2
     s.opens sd m ACC_ERR_HI.whole.idx = true) ∧
    (let s : State := on1 (fun x => x.set DB_CFG.EN 1)
     let sd : SideId := .stroke
     let m : Fin 11 := 2
     let x := s.side sd
     s.opens sd m NUDGE.whole.idx = true ∧ x.on DB_CFG.EN = true) ∧
    (let s : State := rdy
     let sd : SideId := .stroke
     let m : Fin 11 := 2
     let i : BitVec 20 := (BitVec.ofNat 20 ((CAL_THR_OFS.whole 2).idx))
     let k := (calItemOf i.toNat).getD 9
     let r := rowOf i.toNat
     s.opens sd m i.toNat = true ∧ calItemOf i.toNat = some k ∧ k ≠ 3 ∧ findReg i.toNat = some r ∧ r.kind = .plain) ∧
    (let s : State := rdy
     let sd : SideId := .stroke
     let m : Fin 11 := 2
     let c : Fin 4 := 3
     s.opens sd m (COXCORE_MBOX_IN.whole c.val).idx = true) := by
  refine ⟨?_, ?_, ?_, ?_, ?_, ?_, ?_⟩ <;>
    (dsimp only; decide +kernel)

theorem witness_RingConfigWrites :
    (let s : State := on1 (fun x => (x.set (CMDQ_CFG.EN 5) 1).set (CMDQ_CFG.LOG2SIZE 5) 8)
     let sd : SideId := .stroke
     let m : Fin 11 := 2
     let k : Fin 8 := 5
     let i : BitVec 20 := (BitVec.ofNat 20 ((CMDQ_CFG.whole 5).idx))
     let v : Word := wordN (2^35 + 9 * 2^31)
     let r : RegRow := rowOf (CMDQ_CFG.whole 5).idx
     let x := s.side sd
     let n := i.toNat
     let lg := bitsOf (mergeWrite r (x.reg n) v).toNat 34 31
     n = (CMDQ_CFG.whole k.val).idx ∧ findReg n = some r ∧ s.opens sd m n = true ∧ x.on (CMDQ_CFG.EN k.val) = true ∧ lg ≠ bitsOf (x.reg n).toNat 34 31) ∧
    (let s : State := rdy
     let sd : SideId := .stroke
     let m : Fin 11 := 2
     let k : Fin 8 := 5
     let i : BitVec 20 := (BitVec.ofNat 20 ((CMDQ_CFG.whole 5).idx))
     let v : Word := wordN (2^35 + 5 * 2^31)
     let r : RegRow := rowOf (CMDQ_CFG.whole 5).idx
     let x := s.side sd
     let n := i.toNat
     let lg := bitsOf (mergeWrite r (x.reg n) v).toNat 34 31
     let en := bitAt (mergeWrite r (x.reg n) v).toNat 35
     n = (CMDQ_CFG.whole k.val).idx ∧ findReg n = some r ∧ s.opens sd m n = true ∧ x.on (CMDQ_CFG.EN k.val) = false ∧ en = true ∧ (lg < 6 ∨ 16 < lg)) ∧
    (let s : State := on1 (fun x => x.set RING_ERR.CMD_ERR 255)
     let sd : SideId := .stroke
     let m : Fin 11 := 2
     let k : Fin 8 := 5
     let i : BitVec 20 := (BitVec.ofNat 20 ((CMDQ_CFG.whole 5).idx))
     let v : Word := wordN (2^35 + 6 * 2^31)
     let r : RegRow := rowOf (CMDQ_CFG.whole 5).idx
     let x := s.side sd
     let n := i.toNat
     let lg := bitsOf (mergeWrite r (x.reg n) v).toNat 34 31
     let en := bitAt (mergeWrite r (x.reg n) v).toNat 35
     n = (CMDQ_CFG.whole k.val).idx ∧ findReg n = some r ∧ s.opens sd m n = true ∧ x.on (CMDQ_CFG.EN k.val) = false ∧ en = true ∧ 6 ≤ lg ∧ lg ≤ 16) ∧
    (let s : State := on1 (fun x => (x.set (CMDQ_CFG.EN 5) 1).set (CMDQ_CFG.LOG2SIZE 5) 8)
     let sd : SideId := .stroke
     let m : Fin 11 := 2
     let k : Fin 8 := 5
     let i : BitVec 20 := (BitVec.ofNat 20 ((CMDQ_CFG.whole 5).idx))
     let v : Word := wordN (8 * 2^31 + 7)
     let r : RegRow := rowOf (CMDQ_CFG.whole 5).idx
     let x := s.side sd
     let n := i.toNat
     let lg := bitsOf (mergeWrite r (x.reg n) v).toNat 34 31
     let en := bitAt (mergeWrite r (x.reg n) v).toNat 35
     n = (CMDQ_CFG.whole k.val).idx ∧ findReg n = some r ∧ s.opens sd m n = true ∧ x.on (CMDQ_CFG.EN k.val) = true ∧ en = false ∧ lg = bitsOf (x.reg n).toNat 34 31) := by
  refine ⟨?_, ?_, ?_, ?_⟩ <;>
    (dsimp only; decide +kernel)

theorem witness_MemoryRegisterWrites :
    (let s : State := on1 (fun x => { x with acq := lset x.acq 1 { (x.acqOf .c1) with armed := some ⟨1, recordReset, [0,0,0,0], 0, 0, 0, 0, 0, [], [], [], [], 0, 0, 0, [], [], false, false, none, none⟩ } })
     let sd : SideId := .stroke
     let m : Fin 11 := 2
     let v : Word := wordN (3 * 2^32)
     let x := s.side sd
     let bits := fun hi lo => bitsOf v.toNat hi lo
     s.opens sd m DRAM_LP_CTRL.whole.idx = true ∧ bits 31 29 = 0 ∧ bits 35 32 ≠ x.get DRAM_LP_CTRL.SR_REQ ∧ x.srBlocked = true) ∧
    (let s : State := on1 (fun x => (((x.set (DRAM_STAT.TRAINED 1) 1).set (DRAM_STAT.OWED0 1) 2).set (DRAM_STAT.OWED1 1) 3))
     let sd : SideId := .stroke
     let m : Fin 11 := 2
     let v : Word := wordN (3 * 2^32)
     let x := s.side sd
     let bits := fun hi lo => bitsOf v.toNat hi lo
     s.opens sd m DRAM_LP_CTRL.whole.idx = true ∧ bits 31 29 = 0 ∧ bits 35 32 ≠ x.get DRAM_LP_CTRL.SR_REQ ∧ x.srBlocked = false) ∧
    (let s : State := on1 (fun x => { x with acq := lset x.acq 1 { (x.acqOf .c1) with armed := some ⟨1, recordReset, [0,0,0,0], 0, 0, 0, 0, 0, [], [], [], [], 0, 0, 0, [], [], false, false, none, none⟩ } })
     let sd : SideId := .stroke
     let m : Fin 11 := 2
     let v : Word := wordN (2^31)
     let x := s.side sd
     let bits := fun hi lo => bitsOf v.toNat hi lo
     s.opens sd m DRAM_LP_CTRL.whole.idx = true ∧ bits 31 29 = 4 ∧ bits 35 32 = x.get DRAM_LP_CTRL.SR_REQ ∧ x.dram.fcBusy = false ∧ x.srBlocked = true) ∧
    (let s : State := on1 (fun x => ((((x.set (DRAM_STAT.TRAINED 1) 1).set (DRAM_STAT.OWED0 1) 2).set (DRAM_STAT.OWED1 1) 3).set DRAM_CFG.POP 15).set DRAM_CFG.ALT_RATE 2)
     let sd : SideId := .stroke
     let m : Fin 11 := 2
     let v : Word := wordN (2^31)
     let x := s.side sd
     let bits := fun hi lo => bitsOf v.toNat hi lo
     s.opens sd m DRAM_LP_CTRL.whole.idx = true ∧ bits 31 29 = 4 ∧ bits 35 32 = x.get DRAM_LP_CTRL.SR_REQ ∧ x.dram.fcBusy = false ∧ x.srBlocked = false ∧ x.get DRAM_CFG.POP = 15 ∧ (∀ c < 4, x.on (DRAM_STAT.MAPPED_OUT c) = false) ∧ x.get DRAM_CFG.ALT_RATE ≠ 7) ∧
    (let s : State := rdy
     let sd : SideId := .stroke
     let m : Fin 11 := 2
     let n : Fin 5 := 3
     s.opens sd m (DRAM_PANIC.whole n.val).idx = true) ∧
    (let s : State := rdy
     let sd : SideId := .stroke
     let m : Fin 11 := 2
     let v : Word := wordN (3 * 2^26 + 7 * 2^12)
     s.opens sd m SRAM_REPAIR_REQ.whole.idx = true ∧ bitAt v.toNat 35 = false) ∧
    (let s : State := rdy
     let sd : SideId := .stroke
     let m : Fin 11 := 2
     let v : Word := wordN (2^35 + 384 * 2^26)
     let x := s.side sd
     let bits := fun hi lo => bitsOf v.toNat hi lo
     s.opens sd m SRAM_REPAIR_REQ.whole.idx = true ∧ bitAt v.toNat 35 = true ∧ (383 < bits 34 26 ∨ bankRows (bits 34 26) ≤ bits 25 12 ∨ x.on SRAM_REPAIR_STAT.BUSY = true)) ∧
    (let s : State := rdy
     let sd : SideId := .stroke
     let m : Fin 11 := 2
     let v : Word := wordN (2^35 + 383 * 2^26 + 16383 * 2^12)
     let x := s.side sd
     let bits := fun hi lo => bitsOf v.toNat hi lo
     s.opens sd m SRAM_REPAIR_REQ.whole.idx = true ∧ bitAt v.toNat 35 = true ∧ bits 34 26 ≤ 383 ∧ bits 25 12 < bankRows (bits 34 26) ∧ x.on SRAM_REPAIR_STAT.BUSY = false) ∧
    (let s : State := on1 (fun x => (x.setReg POISON_ADDR_LO.whole.idx 5).setReg POISON_ADDR_HI.whole.idx 6)
     let sd : SideId := .stroke
     let m : Fin 11 := 2
     s.opens sd m POISON_ADDR_HI.whole.idx = true) := by
  refine ⟨?_, ?_, ?_, ?_, ?_, ?_, ?_, ?_, ?_⟩ <;>
    (dsimp only; decide +kernel)

theorem witness_FaultWrites :
    (let s : State := on1 (fun x => ((x.set FAULT_STAT.FIRST_VALID 1).setReg FAULT_FIRST_W2.whole.idx (wordN (5 * 2^16 + 99))).setReg FAULT_FIRST_W3.whole.idx 7)
     let sd : SideId := .stroke
     let m : Fin 11 := 2
     let v : Word := wordN (2^35 + 5 * 2^16)
     let x := s.side sd
     let bits := fun hi lo => bitsOf v.toNat hi lo
     let first := FAULT_FIRST_W2.whole.idx
     s.opens sd m FAULT_ACK.whole.idx = true ∧ bitAt v.toNat 35 = true ∧ x.on FAULT_STAT.FIRST_VALID = true ∧ bitsOf (x.reg first).toNat 29 16 = bits 29 16) ∧
    (let s : State := rdy
     let sd : SideId := .stroke
     let m : Fin 11 := 2
     let v : Word := wordN (2^35)
     let x := s.side sd
     let bits := fun hi lo => bitsOf v.toNat hi lo
     let first := FAULT_FIRST_W2.whole.idx
     s.opens sd m FAULT_ACK.whole.idx = true ∧ bitAt v.toNat 35 = true ∧ (x.on FAULT_STAT.FIRST_VALID = false ∨ bitsOf (x.reg first).toNat 29 16 ≠ bits 29 16)) ∧
    (let s : State := on1 (fun x => (((x.set (FAULT_OUT.SEQ 3) 5).set (FAULT_OUT.SRC 3) 0x1234).set (FAULT_OUT.CLASS 3) 2).set (FAULT_OUT.VALID 3) 1)
     let sd : SideId := .stroke
     let m : Fin 11 := 2
     let v : Word := wordN (5 * 2^16 + 0x1234)
     let x := s.side sd
     let bits := fun hi lo => bitsOf v.toNat hi lo
     let i := 3
     s.opens sd m FAULT_ACK.whole.idx = true ∧ bitAt v.toNat 35 = false ∧ x.outEntry (bits 15 0) = some i ∧ x.get (FAULT_OUT.SEQ i) = bits 29 16) ∧
    (let s : State := rdy
     let sd : SideId := .stroke
     let m : Fin 11 := 2
     let v : Word := wordN 0x1234
     let x := s.side sd
     let bits := fun hi lo => bitsOf v.toNat hi lo
     s.opens sd m FAULT_ACK.whole.idx = true ∧ bitAt v.toNat 35 = false ∧ x.outEntry (bits 15 0) = none) ∧
    (let s : State := rdy
     let sd : SideId := .stroke
     let m : Fin 11 := 2
     let v : Word := wordN (2^34 + 0x7FFF * 2^16)
     let x := s.side sd
     let bits := fun hi lo => bitsOf v.toNat hi lo
     s.opens sd m FAULT_INJ.whole.idx = true ∧ x.hasChecker (bits 31 16) = false) ∧
    (let s : State := on1 (fun x => x.set FAULT_INJ.MODE 1)
     let sd : SideId := .stroke
     let m : Fin 11 := 2
     let v : Word := wordN (2^34 + 0x5000 * 2^16)
     let x := s.side sd
     let bits := fun hi lo => bitsOf v.toNat hi lo
     s.opens sd m FAULT_INJ.whole.idx = true ∧ bits 35 34 ≠ 0 ∧ x.on FAULT_INJ.MODE = true) ∧
    (let s : State := on1 (fun x => x.set FAULT_CFG.INJ_FATAL 1)
     let sd : SideId := .stroke
     let m : Fin 11 := 2
     let v : Word := wordN (2^34 + 2^33 + (srcOf 3 0 16) * 2^16 + 77 * 2^8)
     let x := s.side sd
     let bits := fun hi lo => bitsOf v.toNat hi lo
     s.opens sd m FAULT_INJ.whole.idx = true ∧ x.hasChecker (bits 31 16) = true ∧ x.on FAULT_CFG.INJ_FATAL = true ∧ x.on FAULT_INJ.MODE = false) := by
  refine ⟨?_, ?_, ?_, ?_, ?_, ?_, ?_⟩ <;>
    (dsimp only; decide +kernel)

theorem witness_ResetWrites :
    (let s : State := rdy
     let sd : SideId := .stroke
     let m : Fin 11 := 2
     let v : Word := wordN (0x5D3 * 2^24)
     let x := s.side sd
     let bits := fun hi lo => bitsOf v.toNat hi lo
     s.opens sd m SIDE_RESET.whole.idx = true ∧ bits 35 24 = 0x5D3 ∧ x.on FAULT_STAT.DEV_FATAL = false) ∧
    (let s : State := rdy
     let sd : SideId := .stroke
     let m : Fin 11 := 2
     let v : Word := wordN (0x5D2 * 2^24 + 5)
     let bits := fun hi lo => bitsOf v.toNat hi lo
     s.opens sd m SIDE_RESET.whole.idx = true ∧ bits 35 24 ≠ 0x5D3) ∧
    (let s : State := rdy
     let sd : SideId := .stroke
     let m : Fin 11 := 2
     let v : Word := wordN 0x5000
     let bits := fun hi lo => bitsOf v.toNat hi lo
     s.opens sd m ISL_RESET.whole.idx = true ∧ bits 34 33 = 0 ∧ bitAt v.toNat 35 = false) ∧
    (let s : State := rdy
     let sd : SideId := .stroke
     let m : Fin 11 := 2
     let v : Word := wordN (2^35 + srcOf 5 3 0)
     let x := s.side sd
     let bits := fun hi lo => bitsOf v.toNat hi lo
     let src := bits 15 0
     s.opens sd m ISL_RESET.whole.idx = true ∧ bits 34 33 = 0 ∧ bitAt v.toNat 35 = true ∧ x.islCond (src % 2 ^ 15) .quiesced = false) ∧
    (let s : State := on1 (fun x => x.setIsl (srcOf 5 3 0) (some ⟨.quiesced, false, 0⟩))
     let sd : SideId := .stroke
     let m : Fin 11 := 2
     let v : Word := wordN (2^35 + srcOf 5 3 0)
     let x := s.side sd
     let bits := fun hi lo => bitsOf v.toNat hi lo
     let src := bits 15 0
     s.opens sd m ISL_RESET.whole.idx = true ∧ bits 34 33 = 0 ∧ bitAt v.toNat 35 = true ∧ src = x.src (src % 2 ^ 15) ∧ x.islCond (src % 2 ^ 15) .quiesced = true ∧ src % 2 ^ 15 ≠ srcOf 4 1 0 ∧ src % 2 ^ 15 ≠ keelSrc) ∧
    (let s : State := rdy
     let sd : SideId := .stroke
     let m : Fin 11 := 2
     let v : Word := wordN (2^35 + 2^28)
     let x := s.side sd
     let bits := fun hi lo => bitsOf v.toNat hi lo
     s.opens sd m DRAM_MAPOUT.whole.idx = true ∧ bitAt v.toNat 35 = true ∧ x.mapoutCause (bits 31 28) ≠ 0) ∧
    (let s : State := rdy
     let sd : SideId := .stroke
     let m : Fin 11 := 2
     let v : Word := wordN (5 * 2^28 + 9 * 2^24 + 3)
     let bits := fun hi lo => bitsOf v.toNat hi lo
     s.opens sd m DRAM_MAPOUT.whole.idx = true ∧ bits 35 35 = 0 ∧ bits 33 32 = 0) ∧
    (let s : State := on1 (fun x => { x with dram := { x.dram with chans := [0, 1, 2], extent := 4096, mem := { x.dram.mem with words := [(5, 6)], buf := [⟨1, 2, [(3, 4)]⟩] } } })
     let sd : SideId := .stroke
     let m : Fin 11 := 2
     let v : Word := wordN (2^35 + 2 * 2^28 + 9 * 2^24)
     let x := s.side sd
     let bits := fun hi lo => bitsOf v.toNat hi lo
     s.opens sd m DRAM_MAPOUT.whole.idx = true ∧ bits 35 35 = 1 ∧ bits 33 32 = 0 ∧ x.mapoutCause (bits 31 28) = 0) := by
  refine ⟨?_, ?_, ?_, ?_, ?_, ?_, ?_, ?_⟩ <;>
    (dsimp only; decide +kernel)

theorem witness_ClockCommits :
    (let s : State := on1 (fun x => (x.set PLL_STAT.F_LOCK 1).set PLLF_CFG.FAB_MHZ 900)
     let sd : SideId := .stroke
     let m : Fin 11 := 2
     let x := s.side sd
     s.opens sd m PLL_COMMIT.whole.idx = true ∧ x.on PLL_STAT.F_LOCK = true ∧ x.clk.target = none ∧ x.on PLL_STAT.F_COAST = false) ∧
    (let s : State := rdy
     let sd : SideId := .stroke
     let m : Fin 11 := 2
     let x := s.side sd
     s.opens sd m PLL_COMMIT.whole.idx = true ∧ x.on PLL_STAT.F_LOCK = false) ∧
    (let s : State := on1 (fun x => (x.set PLL_STAT.T_LOCK 1).set PLLT_CFG.T_MULT 3)
     let sd : SideId := .stroke
     let m : Fin 11 := 2
     let x := s.side sd
     s.opens sd m PLL_COMMIT.whole.idx = true ∧ x.on PLL_STAT.T_LOCK = true) ∧
    (let s : State := rdy
     let sd : SideId := .stroke
     let m : Fin 11 := 2
     let x := s.side sd
     s.opens sd m PLL_COMMIT.whole.idx = true ∧ x.on PLL_STAT.T_LOCK = false) ∧
    (let s : State := on1 (fun x => ({ x with clk := { x.clk with f := [1000,0,0,0,0], target := some [1200,1,1,1,1] } } : Side))
     let sd : SideId := .stroke
     let x := s.side sd
     let f := [x.get PLLF_CFG.FAB_MHZ, x.get PLLF_CFG.SS_MODE, x.get PLLF_CFG.SS_DEPTH, x.get PLL_LOCK_CFG.WIN_F, x.get PLL_LOCK_CFG.NC_F]
     let g : List Nat := (s.stroke.clk.target).getD []
     let a := lget x.clk.f 0 0
     x.clk.target = some g ∧ a ≤ lget g 0 0) ∧
    (let s : State := on1 (fun x => ({ x with clk := { x.clk with f := [1300,0,0,0,0], target := some [1200,1,1,1,1] } } : Side))
     let sd : SideId := .stroke
     let x := s.side sd
     let f := [x.get PLLF_CFG.FAB_MHZ, x.get PLLF_CFG.SS_MODE, x.get PLLF_CFG.SS_DEPTH, x.get PLL_LOCK_CFG.WIN_F, x.get PLL_LOCK_CFG.NC_F]
     let g : List Nat := (s.stroke.clk.target).getD []
     let a := lget x.clk.f 0 0
     x.clk.target = some g ∧ lget g 0 0 ≤ a) ∧
    (let s : State := on1 (fun x => ({ x with clk := { x.clk with f := [1300,0,0,0,0], target := some [1200,1,1,1,1] } } : Side))
     let sd : SideId := .stroke
     let x := s.side sd
     let g : List Nat := (s.stroke.clk.target).getD []
     x.clk.target = some g) := by
  refine ⟨?_, ?_, ?_, ?_, ?_, ?_, ?_⟩ <;>
    (dsimp only; decide +kernel)

theorem witness_ClockLoops :
    (let s : State := on1 (fun x => ({ x with clk := { x.clk with f := [1000,0,0,0,0], target := some [1000,1,1,1,1], fLost := false, pendF := none } } : Side).set PLL_STAT.F_STEPPING 1 |>.set PLL_STAT.REF_LOST 0)
     let sd : SideId := .stroke
     let g : List Nat := (s.stroke.clk.target).getD []
     let x := s.side sd
     x.clk.target = some g ∧ x.clk.fLost = false ∧ x.on PLL_STAT.REF_LOST = false ∧ lget x.clk.f 0 0 = lget g 0 0 ∧ x.clk.pendF = none) ∧
    (let s : State := on1 (fun x => ({ x with clk := { x.clk with f := [1000,0,0,0,0], target := some [1100,1,1,1,1], fLost := false } } : Side).set PLL_STAT.F_STEPPING 1)
     let sd : SideId := .stroke
     let g : List Nat := (s.stroke.clk.target).getD []
     let x := s.side sd
     x.clk.target = some g ∧ x.clk.fLost = false ∧ x.on PLL_STAT.REF_LOST = false ∧ lget x.clk.f 0 0 ≠ lget g 0 0) ∧
    (let s : State := rdy
     let sd : SideId := .stroke
     let x := s.side sd
     x.clk.target = none) ∧
    (let s : State := on1 (fun x => (({ x with clk := { x.clk with mLost := true, mCoast := false } } : Side).set PLL_STAT.M_COAST 1).set PLL_STAT.FAB_ACTIVE 1000)
     let sd : SideId := .stroke
     let x := s.side sd
     x.pllsRun = true ∧ x.on PLL_STAT.REF_LOST = false ∧ x.clk.mLost = true ∧ x.on PLL_STAT.M_COAST = true ∧ x.clk.mCoast = false) ∧
    (let s : State := on1 (fun x => ({ x with clk := { x.clk with fLost := true, coast := false } } : Side).set PLL_STAT.FAB_ACTIVE 1000)
     let sd : SideId := .stroke
     let x := s.side sd
     x.clk.target = none ∧ x.clk.pendF = none ∧ x.clk.coast = false ∧ x.pllsRun = true ∧ x.on PLL_STAT.REF_LOST = false ∧ x.on PLL_STAT.F_LOCK = false) ∧
    (let s : State := on1 (fun x => ({ x with clk := { x.clk with tLost := true } } : Side).set PLL_STAT.FAB_ACTIVE 1000)
     let sd : SideId := .stroke
     let x := s.side sd
     x.clk.pendT = none ∧ x.pllsRun = true ∧ x.on PLL_STAT.REF_LOST = false ∧ x.on PLL_STAT.T_LOCK = false) ∧
    (let s : State := on1 (fun x => ({ x with clk := { x.clk with coast := false } } : Side).set PLL_STAT.F_LOCK 1)
     let sd : SideId := .stroke
     let x := s.side sd
     x.on PLL_STAT.F_LOCK = true) ∧
    (let s : State := on1 (fun x => ({ x with clk := { x.clk with coast := false } } : Side).set PLL_STAT.T_LOCK 1)
     let sd : SideId := .stroke
     let x := s.side sd
     x.on PLL_STAT.T_LOCK = true) ∧
    (let s : State := on1 (fun x => ({ x with clk := { x.clk with coast := false } } : Side).set PLL_STAT.M_LOCK 1)
     let sd : SideId := .stroke
     let x := s.side sd
     x.on PLL_STAT.M_LOCK = true) ∧
    (let s : State := on1 (fun x => ({ x with clk := { x.clk with coast := false } } : Side).set PLL_STAT.M_LOCK 1 |>.set PLL_STAT.FAB_ACTIVE 1000)
     let sd : SideId := .stroke
     let x := s.side sd
     x.pllsRun = true ∧ x.on PLL_STAT.REF_LOST = false) ∧
    (let s : State := on1 (fun x => ({ x with clk := { x.clk with coast := true } } : Side).set PLL_STAT.REF_LOST 1)
     let sd : SideId := .stroke
     let x := s.side sd
     x.on PLL_STAT.REF_LOST = true) ∧
    (let s : State := on1 (fun x => ({ x with clk := { x.clk with coast := true } } : Side))
     let sd : SideId := .stroke
     let x := s.side sd
     x.on PLL_STAT.REF_LOST = false) := by
  refine ⟨?_, ?_, ?_, ?_, ?_, ?_, ?_, ?_, ?_, ?_, ?_, ?_⟩ <;>
    (dsimp only; decide +kernel)

theorem witness_IslandDrains :
    (let s : State := on1 (fun x => x.setIsl (srcOf 5 3 0) (some ⟨.draining, false, 0⟩))
     let sd : SideId := .stroke
     let src : SourceId := (BitVec.ofNat 16 (srcOf 5 3 0))
     let x := s.side sd
     let l := src.toNat % 2 ^ 15
     let waits := x.host.staged.filter (fun st => st.op == 0x42 && st.running && st.e.op4 % 2 ^ 15 == l)
     x.islCond l .draining = true ∧ s.drained sd l = true ∧ waits = []) ∧
    (let s : State := on1 (fun x => x.setIsl (srcOf 1 2 0) (some ⟨.draining, false, 0⟩))
     let sd : SideId := .stroke
     let src : SourceId := (BitVec.ofNat 16 (srcOf 1 2 0))
     let x := s.side sd
     let l := src.toNat % 2 ^ 15
     let waits := x.host.staged.filter (fun st => st.op == 0x42 && st.running && st.e.op4 % 2 ^ 15 == l)
     x.islCond l .draining = true ∧ s.drained sd l = true ∧ waits = []) ∧
    (let s : State := on1 (fun x => { x with host := { x.host with staged := [(⟨4, .stroke, 2, 0x42, { noEntry with w4 := BitVec.ofNat 64 (srcOf 5 3 0) }, [], .now, 500, false, true, [], [500, 0]⟩ : Staged)] } }.setIsl (srcOf 5 3 0) (some ⟨.draining, false, 0⟩))
     let sd : SideId := .stroke
     let src : SourceId := (BitVec.ofNat 16 (srcOf 5 3 0))
     let x := s.side sd
     let l := src.toNat % 2 ^ 15
     let waits := x.host.staged.filter (fun st => st.op == 0x42 && st.running && st.e.op4 % 2 ^ 15 == l)
     let st : Staged := (⟨4, .stroke, 2, 0x42, { noEntry with w4 := BitVec.ofNat 64 (srcOf 5 3 0) }, [], .now, 500, false, true, [], [500, 0]⟩ : Staged)
     x.islCond l .draining = true ∧ s.drained sd l = true ∧ waits = [st]) ∧
    (let s : State := on1 (fun x => (x.setIsl coxSrc (some ⟨.draining, false, 0⟩)).modCore 2 (fun k => { k with st := 1, ops := [⟨6,false,0,1,[5],0,false,false,0⟩] }))
     let sd : SideId := .stroke
     let src : SourceId := (BitVec.ofNat 16 (coxSrc))
     let x := s.side sd
     let l := src.toNat % 2 ^ 15
     let waits := x.host.staged.filter (fun st => st.op == 0x42 && st.running && st.e.op4 % 2 ^ 15 == l)
     x.islCond l .draining = true ∧ waits = []) ∧
    (let s : State := on1 (fun x => { x with host := { x.host with staged := [(⟨4, .stroke, 2, 0x42, { noEntry with w4 := BitVec.ofNat 64 (srcOf 5 3 0) }, [], .now, 500, false, true, [], [500, 0]⟩ : Staged)] } }.setIsl (srcOf 5 3 0) (some ⟨.draining, false, 0⟩))
     let sd : SideId := .stroke
     let src : SourceId := (BitVec.ofNat 16 (srcOf 5 3 0))
     let x := s.side sd
     let l := src.toNat % 2 ^ 15
     let waits := x.host.staged.filter (fun st => st.op == 0x42 && st.running && st.e.op4 % 2 ^ 15 == l)
     let st : Staged := (⟨4, .stroke, 2, 0x42, { noEntry with w4 := BitVec.ofNat 64 (srcOf 5 3 0) }, [], .now, 500, false, true, [], [500, 0]⟩ : Staged)
     x.islCond l .draining = true ∧ waits = [st]) ∧
    (let s : State := on1 (fun x => (x.setIsl coxSrc (some ⟨.draining, false, 0⟩)).modCore 2 (fun k => { k with st := 1, ops := [⟨6,false,0,1,[5],0,false,false,0⟩] }))
     let sd : SideId := .stroke
     let src : SourceId := (BitVec.ofNat 16 (coxSrc))
     let x := s.side sd
     let l := src.toNat % 2 ^ 15
     let waits := x.host.staged.filter (fun st => st.op == 0x42 && st.running && st.e.op4 % 2 ^ 15 == l)
     s.drained sd l = false) ∧
    (let s : State := rdy
     let sd : SideId := .stroke
     let src : SourceId := (BitVec.ofNat 16 (srcOf 5 3 0))
     let x := s.side sd
     let l := src.toNat % 2 ^ 15
     let waits := x.host.staged.filter (fun st => st.op == 0x42 && st.running && st.e.op4 % 2 ^ 15 == l)
     x.islCond l .draining = false) := by
  refine ⟨?_, ?_, ?_, ?_, ?_, ?_, ?_⟩ <;>
    (dsimp only; decide +kernel)

theorem witness_KeelUpAndDown :
    (let s : State := ({ rdy with stroke := (fun (x : Side) => ((x.set KEEL_COX_STAT.COX_HELD 1).set KEEL_COX_STAT.HELD_THROUGH 0).set KEEL_COX_STAT.EPOCH 5|>.set INIT_STAT.PHASE 2) rdy.stroke, bow := (fun (x : Side) => ((x.set KEEL_COX_STAT.COX_HELD 0).set KEEL_COX_STAT.HELD_THROUGH 0).set KEEL_COX_STAT.EPOCH 6|>.set INIT_STAT.PHASE 8) rdy.bow, keel := { rdy.keel with up := false } } : State)
     s.keel.up = false ∧ s.held = false ∧ s.stroke.keelReady = true ∧ s.bow.keelReady = true) ∧
    (let s : State := on1 (fun x => x.setIsl keelSrc (some ⟨.quiesced, false, 0⟩))
     (s.keel.up = true ∨ s.stroke.keelReady = false ∨ s.bow.keelReady = false)) ∧
    (let s : State := ({ rdy with stroke := (fun (x : Side) => ((x.set KEEL_COX_STAT.COX_HELD 1).set KEEL_COX_STAT.HELD_THROUGH 0).set KEEL_COX_STAT.EPOCH 5) rdy.stroke, bow := (fun (x : Side) => ((x.set KEEL_COX_STAT.COX_HELD 0).set KEEL_COX_STAT.HELD_THROUGH 0).set KEEL_COX_STAT.EPOCH 6) rdy.bow, keel := { rdy.keel with up := true, handover := [⟨.bow, 500, .stroke, .stroke, 4, false⟩], msgs := [(.stroke, .rtSync 5)] } } : State)
     s.keel.up = true) ∧
    (let s : State := ({ rdy with stroke := (fun (x : Side) => ((x.set KEEL_COX_STAT.COX_HELD 1).set KEEL_COX_STAT.HELD_THROUGH 0).set KEEL_COX_STAT.EPOCH 5) rdy.stroke, bow := (fun (x : Side) => ((x.set KEEL_COX_STAT.COX_HELD 0).set KEEL_COX_STAT.HELD_THROUGH 0).set KEEL_COX_STAT.EPOCH 6) rdy.bow, keel := { rdy.keel with up := true, msgs := [(.stroke, .rtSync 5)] } } : State)
     s.keel.up = true ∧ s.keel.handover = []) ∧
    (let s : State := rdy
     s.keel.up = false) ∧
    (let s : State := keelUpSt rdy
     (s.keel.up = true ∨ s.keel.everUp = true)) ∧
    (let s : State := rdy
     s.keel.up = false ∧ s.keel.everUp = false ∧ s.held = false) := by
  refine ⟨?_, ?_, ?_, ?_, ?_, ?_, ?_⟩ <;>
    (dsimp only <;> decide +kernel)

theorem witness_CoxResolution :
    (let s : State := ({ rdy with stroke := (fun (x : Side) => ((x.set KEEL_COX_STAT.COX_HELD 1).set KEEL_COX_STAT.HELD_THROUGH 0).set KEEL_COX_STAT.EPOCH 5) rdy.stroke, bow := (fun (x : Side) => ((x.set KEEL_COX_STAT.COX_HELD 0).set KEEL_COX_STAT.HELD_THROUGH 0).set KEEL_COX_STAT.EPOCH 6) rdy.bow, keel := { rdy.keel with up := true, resolving := true } } : State)
     s.keel.up = true ∧ s.keel.resolving = true) := by dsimp only; decide +kernel

theorem witness_CoxHandover :
    (let s : State := ({ rdy with stroke := (fun (x : Side) => { (((x.set KEEL_COX_STAT.COX_HELD 1).set KEEL_COX_STAT.HELD_THROUGH 0).set KEEL_COX_STAT.EPOCH 5) with host := { x.host with staged := [(⟨4, .stroke, 2, 0x44, (⟨head0 7 0 0 0, 0, 0, 0, 0, 0, 0, 0⟩ : CmdEntry), [], .now, 500, false, true, [], [500]⟩ : Staged)] }, rt := { x.rt with rta := 600 * 2^24 } }) rdy.stroke, bow := (fun (x : Side) => { (((x.set KEEL_COX_STAT.COX_HELD 0).set KEEL_COX_STAT.HELD_THROUGH 0).set KEEL_COX_STAT.EPOCH 5) with rt := { x.rt with rta := 600 * 2^24 } }) rdy.bow, keel := { rdy.keel with up := true, handover := [⟨.bow, 500, .stroke, .stroke, 4, false⟩] } } : State)
     let h : Handover := (s.keel.handover.find? s.handoverDue).getD ⟨.bow, 500, .stroke, .stroke, 4, false⟩
     let st : Staged := ((s.side h.actor).cmdOf h.issuer h.id).getD (⟨4, .stroke, 2, 0x44, (⟨head0 7 0 0 0, 0, 0, 0, 0, 0, 0, 0⟩ : CmdEntry), [], .now, 500, false, true, [], [500]⟩ : Staged)
     s.keel.handover.find? s.handoverDue = some h ∧ s.keel.resolving = false ∧ (s.side h.actor).cmdOf h.issuer h.id = some st ∧ s.keel.up = true ∧ (s.side h.target).on KEEL_COX_STAT.COX_HELD = false ∧ (s.side h.target).pwr.fatal = false) ∧
    (let s : State := ({ rdy with stroke := (fun (x : Side) => { (((x.set KEEL_COX_STAT.COX_HELD 0).set KEEL_COX_STAT.HELD_THROUGH 0).set KEEL_COX_STAT.EPOCH 5) with host := { x.host with staged := [(⟨4, .stroke, 2, 0x44, (⟨head0 7 0 0 0, 0, 0, 0, 0, 0, 0, 0⟩ : CmdEntry), [], .now, 500, false, true, [], [500]⟩ : Staged)] }, rt := { x.rt with rta := 600 * 2^24 } }) rdy.stroke, bow := (fun (x : Side) => { (((x.set KEEL_COX_STAT.COX_HELD 0).set KEEL_COX_STAT.HELD_THROUGH 0).set KEEL_COX_STAT.EPOCH 5) with rt := { x.rt with rta := 600 * 2^24 } }) rdy.bow, keel := { rdy.keel with up := false, handover := [⟨.stroke, 500, .stroke, .stroke, 4, false⟩] } } : State)
     let h : Handover := (s.keel.handover.find? s.handoverDue).getD ⟨.bow, 500, .stroke, .stroke, 4, false⟩
     let st : Staged := ((s.side h.actor).cmdOf h.issuer h.id).getD (⟨4, .stroke, 2, 0x44, (⟨head0 7 0 0 0, 0, 0, 0, 0, 0, 0, 0⟩ : CmdEntry), [], .now, 500, false, true, [], [500]⟩ : Staged)
     s.keel.handover.find? s.handoverDue = some h ∧ s.keel.resolving = false ∧ (s.side h.actor).cmdOf h.issuer h.id = some st ∧ s.keel.up = false ∧ (s.side h.target).on KEEL_COX_STAT.COX_HELD = false ∧ (s.side h.target).pwr.fatal = false) ∧
    (let s : State := ({ rdy with stroke := (fun (x : Side) => { (((x.set KEEL_COX_STAT.COX_HELD 1).set KEEL_COX_STAT.HELD_THROUGH 0).set KEEL_COX_STAT.EPOCH 5) with host := { x.host with staged := [(⟨4, .stroke, 2, 0x44, (⟨head0 7 0 0 0, 0, 0, 0, 0, 0, 0, 0⟩ : CmdEntry), [], .now, 500, false, true, [], [500]⟩ : Staged)] }, rt := { x.rt with rta := 600 * 2^24 } }) rdy.stroke, bow := (fun (x : Side) => { (((x.set KEEL_COX_STAT.COX_HELD 0).set KEEL_COX_STAT.HELD_THROUGH 0).set KEEL_COX_STAT.EPOCH 5) with rt := { x.rt with rta := 600 * 2^24 } }) rdy.bow, keel := { rdy.keel with up := true, handover := [⟨.stroke, 500, .stroke, .stroke, 4, false⟩] } } : State)
     let h : Handover := (s.keel.handover.find? s.handoverDue).getD ⟨.bow, 500, .stroke, .stroke, 4, false⟩
     let st : Staged := ((s.side h.actor).cmdOf h.issuer h.id).getD (⟨4, .stroke, 2, 0x44, (⟨head0 7 0 0 0, 0, 0, 0, 0, 0, 0, 0⟩ : CmdEntry), [], .now, 500, false, true, [], [500]⟩ : Staged)
     s.keel.handover.find? s.handoverDue = some h ∧ s.keel.resolving = false ∧ (s.side h.actor).cmdOf h.issuer h.id = some st ∧ ¬((s.side h.target).on KEEL_COX_STAT.COX_HELD = false ∧ (s.side h.target).pwr.fatal = false)) := by
  refine ⟨?_, ?_, ?_⟩ <;>
    (dsimp only; decide +kernel)

theorem witness_RingExecution :
    (let s : State := ringS id
     let sd : SideId := .stroke
     let ring : Fin 8 := 3
     let e : CmdEntry := ent 0 0 0 0 0
     let data : DmaData := noData
     let op : Nat := 0
     let st : Staged := (taken s op e data).1
     let z : State := (taken s op e data).2
     let r := ⟨5, 2, none⟩
     s.takes sd ring op e data = some (st, z) ∧ (s.side sd).host.cmd[ring.val]? = some r ∧ e.w5.getLsbD 63 = false) ∧
    (let s : State := ringS id
     let sd : SideId := .stroke
     let ring : Fin 8 := 3
     let e : CmdEntry := ent 0 0 0 0 0
     let data : DmaData := noData
     let op : Nat := 0
     let st : Staged := (taken s op e data).1
     let z : State := (taken s op e data).2
     let r := ⟨5, 2, none⟩
     s.takes sd ring op e data = some (st, z) ∧ (s.side sd).host.cmd[ring.val]? = some r) ∧
    (let s : State := ringS id
     let sd : SideId := .stroke
     let ring : Fin 8 := 3
     let e : CmdEntry := { ent 0 0 0 0 0 with w0 := head0 0x1234 0 9 0 }
     s.ringReady sd ring = true ∧ stepOne 0x00 e ≠ 0) := by
  refine ⟨?_, ?_, ?_⟩ <;>
    (dsimp only; decide +kernel)

theorem witness_RingExecution_open :
    (let s : State := ringS id
     let sd : SideId := .stroke
     let ring : Fin 8 := 3
     let e : CmdEntry := { ent 0 1 0 0 0 with w0 := head0 0x1234 0 3 0, w3 := 500 }
     let op : Nat := 0x10
     let st : Staged := (taken s op e noData).1
     let z : State := (taken s op e noData).2
     s.takes sd ring 0x10 e noData = some (st, z) ∧ (∀ t, st.bnd = .time t → st.texec < t) ∧ st.bnd ≠ .now) := by
  dsimp only
  have h : (taken (ringS id) 0x10 { ent 0 1 0 0 0 with w0 := head0 0x1234 0 3 0, w3 := 500 } noData).1.bnd = .time 500 := by decide +kernel
  refine ⟨by decide +kernel, fun t e => ?_, by decide +kernel⟩
  rw [h] at e
  cases e
  decide +kernel

theorem witness_RingBasics :
    (let s : State := ringS (fun x => x)
     let sd : SideId := .stroke
     let ring : Fin 8 := 3
     let e : CmdEntry := ent 0 0 0 0 0
     let st : Staged := (taken s 0x00 (ent 0 0 0 0 0) noData).1
     let z : State := (taken s 0x00 (ent 0 0 0 0 0) noData).2
     s.takesNow sd ring 0x00 e noData st z) ∧
    (let s : State := ringS (fun x => x)
     let sd : SideId := .stroke
     let ring : Fin 8 := 3
     let e : CmdEntry := ent 0 0 0 0 0
     let st : Staged := (taken s 0x01 (ent 0 0 0 0 0) noData).1
     let z : State := (taken s 0x01 (ent 0 0 0 0 0) noData).2
     s.takesNow sd ring 0x01 e noData st z ∧ (s.side sd).host.remote = [] ∧ bitAt e.op4 1 = false) ∧
    (let s : State := ringS (fun x => x)
     let sd : SideId := .stroke
     let ring : Fin 8 := 3
     let e : CmdEntry := ent 0 4096 (srcOf 0 0 8 + 1 * 2 ^ 16 + 5 * 2 ^ 24 + 8589934592) 0 0
     let data : DmaData := (dat [5, 6])
     let st : Staged := (taken s 0x02 ({ (ent 0 4096 (srcOf 0 0 8 + 1 * 2 ^ 16 + 5 * 2 ^ 24 + 8589934592) 0 0) with w5 := (ent 0 4096 (srcOf 0 0 8 + 1 * 2 ^ 16 + 5 * 2 ^ 24 + 8589934592) 0 0).w5 &&& ~~~(BitVec.ofNat 64 (2 ^ 33)) }) (dat [5, 6])).1
     let z : State := (taken s 0x02 ({ (ent 0 4096 (srcOf 0 0 8 + 1 * 2 ^ 16 + 5 * 2 ^ 24 + 8589934592) 0 0) with w5 := (ent 0 4096 (srcOf 0 0 8 + 1 * 2 ^ 16 + 5 * 2 ^ 24 + 8589934592) 0 0).w5 &&& ~~~(BitVec.ofNat 64 (2 ^ 33)) }) (dat [5, 6])).2
     let f : CmdEntry := { (ent 0 4096 (srcOf 0 0 8 + 1 * 2 ^ 16 + 5 * 2 ^ 24 + 8589934592) 0 0) with w5 := (ent 0 4096 (srcOf 0 0 8 + 1 * 2 ^ 16 + 5 * 2 ^ 24 + 8589934592) 0 0).w5 &&& ~~~(BitVec.ofNat 64 (2 ^ 33)) }
     f = { e with w5 := e.w5 &&& ~~~(BitVec.ofNat 64 (2 ^ 33)) } ∧ s.takes sd ring 0x02 f data = some (st, z)) ∧
    (let s : State := ringS (fun x => x)
     let sd : SideId := .stroke
     let ring : Fin 8 := 3
     let e : CmdEntry := ent 0 4096 (srcOf 0 0 8 + 1 * 2 ^ 16 + 5 * 2 ^ 24 + 0) 0 0
     let st : Staged := (taken s 0x02 ({ (ent 0 4096 (srcOf 0 0 8 + 1 * 2 ^ 16 + 5 * 2 ^ 24 + 0) 0 0) with w5 := (ent 0 4096 (srcOf 0 0 8 + 1 * 2 ^ 16 + 5 * 2 ^ 24 + 0) 0 0).w5 ||| BitVec.ofNat 64 (2 ^ 33) }) noData).1
     let z : State := (taken s 0x02 ({ (ent 0 4096 (srcOf 0 0 8 + 1 * 2 ^ 16 + 5 * 2 ^ 24 + 0) 0 0) with w5 := (ent 0 4096 (srcOf 0 0 8 + 1 * 2 ^ 16 + 5 * 2 ^ 24 + 0) 0 0).w5 ||| BitVec.ofNat 64 (2 ^ 33) }) noData).2
     let f : CmdEntry := { (ent 0 4096 (srcOf 0 0 8 + 1 * 2 ^ 16 + 5 * 2 ^ 24 + 0) 0 0) with w5 := (ent 0 4096 (srcOf 0 0 8 + 1 * 2 ^ 16 + 5 * 2 ^ 24 + 0) 0 0).w5 ||| BitVec.ofNat 64 (2 ^ 33) }
     let c := (blkChan st.blkType st.target).getD .c0
     f = { e with w5 := e.w5 ||| BitVec.ofNat 64 (2 ^ 33) } ∧ s.takesNow sd ring 0x02 f noData st z ∧ st.blkType ≠ 6 ∧ bitAt f.op5 63 = false ∧ blkChan st.blkType st.target = some c) ∧
    (let s : State := ringS (fun x => x)
     let sd : SideId := .stroke
     let ring : Fin 8 := 3
     let e : CmdEntry := ent (devOf .stroke 3 0x100150) 0 2 0 0
     let data : DmaData := (dat [5, 6])
     let st : Staged := (taken s 0x03 (ent (devOf .stroke 3 0x100150) 0 2 0 0) (dat [5, 6])).1
     let z : State := (taken s 0x03 (ent (devOf .stroke 3 0x100150) 0 2 0 0) (dat [5, 6])).2
     let x := z.side sd
     let a := st.e.w1.toNat % 2 ^ 44
     let c := .c1
     let b := 1
     let i := 0x10
     s.takesNow sd ring 0x03 e data st z ∧ a = st.e.w1.toNat % 2 ^ 44 ∧ devSpace a = 3 ∧ ramTable (devOff a) st.words.length = some (.eq c b i) ∧ x.bankBusy c b = false) ∧
    (let s : State := ringS (fun x => x.setFe .c1 { x.feOf .c1 with block := (x.feOf .c1).block.map (fun w => w ||| wordN (2 ^ 25)) })
     let sd : SideId := .stroke
     let ring : Fin 8 := 3
     let e : CmdEntry := ent (devOf .stroke 3 0x100110) 0 2 0 0
     let data : DmaData := (dat [5, 6])
     let st : Staged := (taken s 0x03 (ent (devOf .stroke 3 0x100110) 0 2 0 0) (dat [5, 6])).1
     let z : State := (taken s 0x03 (ent (devOf .stroke 3 0x100110) 0 2 0 0) (dat [5, 6])).2
     let x := z.side sd
     let a := st.e.w1.toNat % 2 ^ 44
     let c := .c1
     let b := 0
     let i := 0x10
     s.takesNow sd ring 0x03 e data st z ∧ a = st.e.w1.toNat % 2 ^ 44 ∧ devSpace a = 3 ∧ ramTable (devOff a) st.words.length = some (.eq c b i) ∧ x.bankBusy c b = true) ∧
    (let s : State := ringS (fun x => x)
     let sd : SideId := .stroke
     let ring : Fin 8 := 3
     let e : CmdEntry := ent (devOf .stroke 3 0x20FFFE) 0 2 0 0
     let data : DmaData := (dat [5, 6])
     let st : Staged := (taken s 0x03 (ent (devOf .stroke 3 0x20FFFE) 0 2 0 0) (dat [5, 6])).1
     let z : State := (taken s 0x03 (ent (devOf .stroke 3 0x20FFFE) 0 2 0 0) (dat [5, 6])).2
     let x := z.side sd
     let a := st.e.w1.toNat % 2 ^ 44
     let c := .c0
     let i := 0xFFFE
     s.takesNow sd ring 0x03 e data st z ∧ a = st.e.w1.toNat % 2 ^ 44 ∧ devSpace a = 3 ∧ ramTable (devOff a) st.words.length = some (.window c i) ∧ x.winBusy c = false ∧ (∀ w ∈ st.words, -131072 ≤ w.toInt ∧ w.toInt ≤ 131072)) ∧
    (let s : State := ringS (fun x => x)
     let sd : SideId := .stroke
     let ring : Fin 8 := 3
     let e : CmdEntry := ent (devOf .stroke 3 0x600010) 0 2 0 0
     let data : DmaData := (dat [5, 6])
     let st : Staged := (taken s 0x03 (ent (devOf .stroke 3 0x600010) 0 2 0 0) (dat [5, 6])).1
     let z : State := (taken s 0x03 (ent (devOf .stroke 3 0x600010) 0 2 0 0) (dat [5, 6])).2
     let a := st.e.w1.toNat % 2 ^ 44
     let i := 0x10
     s.takesNow sd ring 0x03 e data st z ∧ a = st.e.w1.toNat % 2 ^ 44 ∧ devSpace a = 3 ∧ ramTable (devOff a) st.words.length = some (.palette i)) ∧
    (let s : State := ringS id
     let sd : SideId := .stroke
     let ring : Fin 8 := 3
     let e : CmdEntry := { ent 0 0 0 0 0 with w0 := head0 0x1234 0 0 0x55 }
     s.ringReady sd ring = true ∧ opKinds e.opcode.toNat = none) ∧
    (let e : CmdEntry := { ent 0 0 0 0 0 with w0 := head0 0x1234 0 0 0x10 }
     opKinds e.opcode.toNat ≠ none) ∧
    (let s : State := ringS id
     let sd : SideId := .stroke
     let ring : Fin 8 := 3
     s.ringReady sd ring = true) := by
  refine ⟨?_, ?_, ?_, ?_, ?_, ?_, ?_, ?_, ?_, ?_, ?_⟩
  · unfold State.takesNow; dsimp only; decide +kernel
  · unfold State.takesNow; dsimp only; decide +kernel
  · dsimp only; decide +kernel
  · unfold State.takesNow; dsimp only; decide +kernel
  · unfold State.takesNow; dsimp only; decide +kernel
  · unfold State.takesNow; dsimp only; decide +kernel
  · unfold State.takesNow
    dsimp only
    have h : (taken (ringS (fun x => x)) 3 (ent (devOf .stroke 3 0x20FFFE) 0 2 0 0) (dat [5, 6])).1.words = [5, 6] := by decide +kernel
    refine ⟨by decide +kernel, by decide +kernel, by decide +kernel, by decide +kernel, by decide +kernel, ?_⟩
    rw [h]
    simp [BitVec.toInt]
  · unfold State.takesNow; dsimp only; decide +kernel
  · dsimp only; decide +kernel
  · dsimp only; decide +kernel
  · dsimp only; decide +kernel

theorem witness_RingRecords :
    (let s : State := ringS (fun x => ((({ (((x.set (FE_STAT.RUNNING 0) 1).set (FE_STAT.RUNNING 1) 1).set ACQ_LIMIT.MWPS 20000) with dram := { x.dram with extent := 2^26 } } : Side).setAcq .c0 { x.acqOf .c0 with block := lset (x.acqOf .c0).block 5 4096 }).setAcq .c1 { x.acqOf .c1 with block := lset (x.acqOf .c1).block 5 4096 }))
     let sd : SideId := .stroke
     let ring : Fin 8 := 3
     let e : CmdEntry := ent 0 1 0 0 0
     let st : Staged := (taken s 0x10 (ent 0 1 0 0 0) noData).1
     let z : State := (taken s 0x10 (ent 0 1 0 0 0) noData).2
     let c : Chan := .c0
     let x := z.side sd
     s.takesNow sd ring 0x10 e noData st z ∧ e.op4 % 4 = 2 ^ c.n ∧ x.armCheck c 0 = 0) ∧
    (let s : State := ringS (fun x => x.setAcq .c0 { x.acqOf .c0 with armed := some ⟨9, recordReset, [], 0, 5, 0, 5, 5, [], [], [], [], 0, 0, 0, [], [], false, false, none, none⟩ })
     let sd : SideId := .stroke
     let ring : Fin 8 := 3
     let e : CmdEntry := ent 0 1 0 0 0
     let st : Staged := (taken s 0x11 (ent 0 1 0 0 0) noData).1
     let z : State := (taken s 0x11 (ent 0 1 0 0 0) noData).2
     let c : Chan := .c0
     let x := z.side sd
     let r := ⟨9, recordReset, [], 0, 5, 0, 5, 5, [], [], [], [], 0, 0, 0, [], [], false, false, none, none⟩
     s.takesNow sd ring 0x11 e noData st z ∧ e.op4 % 4 = 2 ^ c.n ∧ (x.acqOf c).armed = some r) ∧
    (let s : State := ringS (fun x => x.setAcq .c0 { x.acqOf .c0 with armed := some ⟨9, recordReset, [], 0, 5, 0, 5, 5, [], [], [], [], 0, 0, 0, [], [], false, false, none, none⟩ })
     let sd : SideId := .stroke
     let ring : Fin 8 := 3
     let e : CmdEntry := ent 0 2 0 0 0
     let st : Staged := (taken s 0x11 (ent 0 2 0 0 0) noData).1
     let z : State := (taken s 0x11 (ent 0 2 0 0 0) noData).2
     let c : Chan := .c1
     let x := z.side sd
     s.takesNow sd ring 0x11 e noData st z ∧ e.op4 % 4 = 2 ^ c.n ∧ (x.acqOf c).armed = none) ∧
    (let s : State := ringS (fun x => x)
     let sd : SideId := .stroke
     let ring : Fin 8 := 3
     let e : CmdEntry := ent 0 3 0 0 0
     let st : Staged := (taken s 0x12 (ent 0 3 0 0 0) noData).1
     let z : State := (taken s 0x12 (ent 0 3 0 0 0) noData).2
     let x := z.side sd
     let t := st.texec
     s.takesNow sd ring 0x12 e noData st z ∧ earlier x.starter.ep t x.starter.decEp x.starter.decided = false ∧ x.now ≤ t + x.hLsb) ∧
    (let s : State := ringS (fun x => x.setAcq .c0 { x.acqOf .c0 with last := some ⟨9, ((rdySide .stroke).acqOf .c0).block, 5, [⟨1, 100, 199, 3, 0, 10, 4, false⟩], false⟩ })
     let sd : SideId := .stroke
     let ring : Fin 8 := 3
     let e : CmdEntry := ent 0 0 0 4096 0
     let st : Staged := (taken s 0x13 (ent 0 0 0 4096 0) noData).1
     let z : State := (taken s 0x13 (ent 0 0 0 4096 0) noData).2
     let x := z.side sd
     let d := ((x.readPart e).toOption.getD (⟨9, recordReset, 5, [⟨1, 100, 199, 3, 0, 10, 4, false⟩], false⟩, none)).1
     let g := ((x.readPart e).toOption.getD (⟨9, recordReset, 5, [⟨1, 100, 199, 3, 0, 10, 4, false⟩], false⟩, none)).2
     let k := Side.readLen d g (bitsOf e.op4 2 1) (e.op7 % 2 ^ 17)
     s.takesNow sd ring 0x13 e noData st z ∧ x.readPart e = .ok (d, g) ∧ z.destCheck sd e k = 0 ∧ (if bitAt e.op4 19 then (9 * k + 1) / 2 else 8 * k) ≤ e.op6 % 2 ^ 32) ∧
    (let s : State := ringS (fun x => { ((((x.set (STRQ_CFG.EN 2) 1).set (FE_STAT.RUNNING 0) 1).set (FE_STAT.RUNNING 1) 1).set ACQ_LIMIT.MWPS 20000) with dram := { x.dram with extent := 2^20 } })
     let sd : SideId := .stroke
     let ring : Fin 8 := 3
     let e : CmdEntry := ent 0 (2 + 1*2^9 + 12*2^11 + 0*2^15) (5 * 2 ^ 16 + 9) 0 0
     let st : Staged := (taken s 0x20 (ent 0 (2 + 1*2^9 + 12*2^11 + 0*2^15) (5 * 2 ^ 16 + 9) 0 0) noData).1
     let z : State := (taken s 0x20 (ent 0 (2 + 1*2^9 + 12*2^11 + 0*2^15) (5 * 2 ^ 16 + 9) 0 0) noData).2
     let x := z.side sd
     let r := e.op4 % 16
     let src := bitsOf e.op4 7 4
     let c := chanOf (bitsOf e.op4 8 8)
     s.takesNow sd ring 0x20 e noData st z ∧ (x.strmOf r).bound = false ∧ streamBad e = false ∧ bitAt (x.outCfg (9 + r)) 35 = true ∧ (src = 0 → x.on (FE_STAT.RUNNING c.n) = true) ∧ (src = 1 → x.on (XF_STAT.RUNNING c.n) = true ∧ bitsOf e.op5 15 0 < 2 ^ xfLog2N (x.xfOf c).force) ∧ (src = 2 → x.on (PP_STAT.RUNNING c.n) = true) ∧ (src = 3 → x.on (DENS_STAT.RUNNING c.n) = true) ∧ (src = 4 → ∀ u ∈ x.strm, ¬(u.bound = true ∧ u.source = 4 ∧ u.ch = c)) ∧ (e.op7 = 0 ∨ e.op6 + e.op7 ≤ x.dram.extent)) ∧
    (let s : State := ringS (fun x => { ((((x.set (STRQ_CFG.EN 2) 1).set (FE_STAT.RUNNING 0) 1).set (FE_STAT.RUNNING 1) 1).set ACQ_LIMIT.MWPS 20000) with dram := { x.dram with extent := 2^20 } })
     let sd : SideId := .stroke
     let ring : Fin 8 := 3
     let e : CmdEntry := ent 0 (2 + 4*2^4 + 1*2^9 + 12*2^11 + 0*2^15) (5 * 2 ^ 16 + 9) 0 0
     let st : Staged := (taken s 0x20 (ent 0 (2 + 4*2^4 + 1*2^9 + 12*2^11 + 0*2^15) (5 * 2 ^ 16 + 9) 0 0) noData).1
     let z : State := (taken s 0x20 (ent 0 (2 + 4*2^4 + 1*2^9 + 12*2^11 + 0*2^15) (5 * 2 ^ 16 + 9) 0 0) noData).2
     let x := z.side sd
     let r := e.op4 % 16
     let src := bitsOf e.op4 7 4
     let c := chanOf (bitsOf e.op4 8 8)
     s.takesNow sd ring 0x20 e noData st z ∧ (x.strmOf r).bound = false ∧ streamBad e = false ∧ bitAt (x.outCfg (9 + r)) 35 = true ∧ (src = 0 → x.on (FE_STAT.RUNNING c.n) = true) ∧ (src = 1 → x.on (XF_STAT.RUNNING c.n) = true ∧ bitsOf e.op5 15 0 < 2 ^ xfLog2N (x.xfOf c).force) ∧ (src = 2 → x.on (PP_STAT.RUNNING c.n) = true) ∧ (src = 3 → x.on (DENS_STAT.RUNNING c.n) = true) ∧ (src = 4 → ∀ u ∈ x.strm, ¬(u.bound = true ∧ u.source = 4 ∧ u.ch = c)) ∧ (e.op7 = 0 ∨ e.op6 + e.op7 ≤ x.dram.extent)) ∧
    (let s : State := ringS (fun x => { (((((x.set (STRQ_CFG.EN 2) 1).set (XF_STAT.RUNNING 0) 1).set (FE_STAT.RUNNING 0) 1).set (FE_STAT.RUNNING 1) 1).set ACQ_LIMIT.MWPS 20000) with dram := { x.dram with extent := 2^20 } })
     let sd : SideId := .stroke
     let ring : Fin 8 := 3
     let e : CmdEntry := ent 0 (2 + 1*2^4 + 1*2^9 + 12*2^11 + 0*2^15) (5 * 2 ^ 16 + 9) 0 0
     let st : Staged := (taken s 0x20 (ent 0 (2 + 1*2^4 + 1*2^9 + 12*2^11 + 0*2^15) (5 * 2 ^ 16 + 9) 0 0) noData).1
     let z : State := (taken s 0x20 (ent 0 (2 + 1*2^4 + 1*2^9 + 12*2^11 + 0*2^15) (5 * 2 ^ 16 + 9) 0 0) noData).2
     let x := z.side sd
     let r := e.op4 % 16
     let src := bitsOf e.op4 7 4
     let c := chanOf (bitsOf e.op4 8 8)
     s.takesNow sd ring 0x20 e noData st z ∧ (x.strmOf r).bound = false ∧ streamBad e = false ∧ bitAt (x.outCfg (9 + r)) 35 = true ∧ (src = 0 → x.on (FE_STAT.RUNNING c.n) = true) ∧ (src = 1 → x.on (XF_STAT.RUNNING c.n) = true ∧ bitsOf e.op5 15 0 < 2 ^ xfLog2N (x.xfOf c).force) ∧ (src = 2 → x.on (PP_STAT.RUNNING c.n) = true) ∧ (src = 3 → x.on (DENS_STAT.RUNNING c.n) = true) ∧ (src = 4 → ∀ u ∈ x.strm, ¬(u.bound = true ∧ u.source = 4 ∧ u.ch = c)) ∧ (e.op7 = 0 ∨ e.op6 + e.op7 ≤ x.dram.extent)) ∧
    (let s : State := ringS (fun x => x.setStrm 2 { Strm.init with bound := true, items := [] })
     let sd : SideId := .stroke
     let ring : Fin 8 := 3
     let e : CmdEntry := ent 0 (2 + 1*2^9 + 12*2^11 + 0*2^15) (5 * 2 ^ 16 + 9) 0 0
     let st : Staged := (taken s 0x20 (ent 0 (2 + 1*2^9 + 12*2^11 + 0*2^15) (5 * 2 ^ 16 + 9) 0 0) noData).1
     let z : State := (taken s 0x20 (ent 0 (2 + 1*2^9 + 12*2^11 + 0*2^15) (5 * 2 ^ 16 + 9) 0 0) noData).2
     let x := z.side sd
     s.takesNow sd ring 0x20 e noData st z ∧ (x.strmOf (e.op4 % 16)).bound = true) ∧
    (let s : State := ringS (fun x => x)
     let sd : SideId := .stroke
     let ring : Fin 8 := 3
     let e : CmdEntry := ent 0 (2 + 1*2^9 + 12*2^11 + 0*2^15) (5 * 2 ^ 16 + 9) 0 0
     let st : Staged := (taken s 0x21 (ent 0 (2 + 1*2^9 + 12*2^11 + 0*2^15) (5 * 2 ^ 16 + 9) 0 0) noData).1
     let z : State := (taken s 0x21 (ent 0 (2 + 1*2^9 + 12*2^11 + 0*2^15) (5 * 2 ^ 16 + 9) 0 0) noData).2
     let x := z.side sd
     let r := e.op4 % 16
     let u := x.strmOf r
     s.takesNow sd ring 0x21 e noData st z ∧ u.bound = false) ∧
    (let s : State := ringS (fun x => x.setStrm 2 { Strm.init with bound := true, items := [] })
     let sd : SideId := .stroke
     let ring : Fin 8 := 3
     let e : CmdEntry := ent 0 2 0 0 0
     let st : Staged := (taken s 0x21 (ent 0 2 0 0 0) noData).1
     let z : State := (taken s 0x21 (ent 0 2 0 0 0) noData).2
     let x := z.side sd
     let r := e.op4 % 16
     let u := x.strmOf r
     s.takesNow sd ring 0x21 e noData st z ∧ u.bound = true ∧ bitAt e.op4 4 = false) ∧
    (let s : State := ringS (fun x => x.setStrm 2 { Strm.init with bound := true, items := [⟨5, 0, 0, [1, 2]⟩] })
     let sd : SideId := .stroke
     let ring : Fin 8 := 3
     let e : CmdEntry := ent 0 (2 + 2 ^ 4) 0 0 0
     let st : Staged := (taken s 0x21 (ent 0 (2 + 2 ^ 4) 0 0 0) noData).1
     let z : State := (taken s 0x21 (ent 0 (2 + 2 ^ 4) 0 0 0) noData).2
     let x := z.side sd
     let r := e.op4 % 16
     let u := x.strmOf r
     s.takesNow sd ring 0x21 e noData st z ∧ u.bound = true ∧ bitAt e.op4 4 = true) ∧
    (let s : State := ringS (fun x => x)
     let sd : SideId := .stroke
     let ring : Fin 8 := 3
     let e : CmdEntry := ent 0 (srcOf 2 3 0 + 2 ^ 20) 0 (2^32 - 1) 0
     let st : Staged := (taken s 0x22 (ent 0 (srcOf 2 3 0 + 2 ^ 20) 0 (2^32 - 1) 0) noData).1
     let z : State := (taken s 0x22 (ent 0 (srcOf 2 3 0 + 2 ^ 20) 0 (2^32 - 1) 0) noData).2
     let c : Chan := .c1
     let c := .c1
     s.takesNow sd ring 0x22 e noData st z ∧ blkChan 4 (e.op4 % 65536) = some c ∧ z.destCheck sd e (8 + planeLen) = 0 ∧ (if bitAt e.op4 19 then 9437220 else 16777280) ≤ e.op6 % 2 ^ 32 ∧ bitAt e.op4 20 = true) ∧
    (let s : State := ringS (fun x => x.setPp .c1 { x.ppOf .c1 with images := lset (x.ppOf .c1).images 2 ⟨0, 0, 64, some 1, 3⟩ })
     let sd : SideId := .stroke
     let ring : Fin 8 := 3
     let e : CmdEntry := ent 0 (srcOf 2 1 0 + 2 * 2 ^ 16) 0 65536 0
     let st : Staged := (taken s 0x23 (ent 0 (srcOf 2 1 0 + 2 * 2 ^ 16) 0 65536 0) noData).1
     let z : State := (taken s 0x23 (ent 0 (srcOf 2 1 0 + 2 * 2 ^ 16) 0 65536 0) noData).2
     let c : Chan := .c1
     let x := z.side sd
     let c := .c1
     let k := bitsOf e.op4 18 16
     let i := lget (x.ppOf c).images k ⟨0, 0, 0, none, 0⟩
     s.takesNow sd ring 0x23 e noData st z ∧ blkChan 3 (e.op4 % 65536) = some c ∧ i.cur ≠ none ∧ z.destCheck sd e i.len = 0 ∧ (if bitAt e.op4 19 then (9 * i.len + 1) / 2 else 8 * i.len) ≤ e.op6 % 2 ^ 32 ∧ x.traceBusy c k = false) := by
  refine ⟨?_, ?_, ?_, ?_, ?_, ?_, ?_, ?_, ?_, ?_, ?_, ?_, ?_, ?_⟩ <;>
    (unfold State.takesNow; dsimp only; decide +kernel)

theorem witness_RingSystem :
    (let s : State := ringS (fun x => x.setIsl (srcOf 5 7 0) (some ⟨.quiesced,false,0⟩))
     let sd : SideId := .stroke
     let ring : Fin 8 := 3
     let e : CmdEntry := ent 0 (srcOf 5 7 0) 0 0 0
     let st : Staged := (taken s 0x42 (ent 0 (srcOf 5 7 0) 0 0 0) noData).1
     let z : State := (taken s 0x42 (ent 0 (srcOf 5 7 0) 0 0 0) noData).2
     let x := z.side sd
     let l := e.op4 % 2 ^ 15
     s.takesNow sd ring 0x42 e noData st z ∧ isIsland l = true ∧ x.islCond l .quiesced = true) ∧
    (let s : State := ringS (fun x => x)
     let sd : SideId := .stroke
     let ring : Fin 8 := 3
     let e : CmdEntry := ent 0 (srcOf 5 7 0) 0 0 0
     let st : Staged := (taken s 0x42 (ent 0 (srcOf 5 7 0) 0 0 0) noData).1
     let z : State := (taken s 0x42 (ent 0 (srcOf 5 7 0) 0 0 0) noData).2
     let x := z.side sd
     let l := e.op4 % 2 ^ 15
     s.takesNow sd ring 0x42 e noData st z ∧ isIsland l = true ∧ x.islOf l = none ∧ x.islLive l sd e.force = false) ∧
    (let s : State := ringS (fun x => x.setIsl (srcOf 5 7 0) (some ⟨.quiesced,false,0⟩))
     let sd : SideId := .stroke
     let ring : Fin 8 := 3
     let e : CmdEntry := ent 0 (srcOf 5 7 0) 0 0 0
     let st : Staged := (taken s 0x43 (ent 0 (srcOf 5 7 0) 0 0 0) noData).1
     let z : State := (taken s 0x43 (ent 0 (srcOf 5 7 0) 0 0 0) noData).2
     let x := z.side sd
     let l := e.op4 % 2 ^ 15
     s.takesNow sd ring 0x43 e noData st z ∧ isIsland l = true ∧ x.islCond l .quiesced = true) ∧
    (let s : State := { ringS (fun x => x.set KEEL_COX_STAT.COX_HELD 1) with keel := { rdy.keel with up := true } }
     let sd : SideId := .stroke
     let ring : Fin 8 := 3
     let e : CmdEntry := ent 0 0 0 0 0
     let st : Staged := (taken s 0x44 (ent 0 0 0 0 0) noData).1
     let z : State := (taken s 0x44 (ent 0 0 0 0 0) noData).2
     s.takes sd ring 0x44 e noData = some (st, z) ∧ z.keel.up = true ∧ (z.side (coxTarget e)).on KEEL_COX_STAT.COX_HELD = true) ∧
    (let s : State := { ringS (fun x => x.set KEEL_COX_STAT.COX_HELD 1) with keel := { rdy.keel with up := true } }
     let sd : SideId := .stroke
     let ring : Fin 8 := 3
     let e : CmdEntry := { ent 0 1 0 0 0 with w0 := head0 0x1234 0 3 0, w3 := 51200000, w2 := 5 }
     let st : Staged := (taken s 0x44 ({ ent 0 1 0 0 0 with w0 := head0 0x1234 0 3 0, w3 := 51200000, w2 := 5 }) noData).1
     let z : State := (taken s 0x44 ({ ent 0 1 0 0 0 with w0 := head0 0x1234 0 3 0, w3 := 51200000, w2 := 5 }) noData).2
     let x := z.side sd
     let t := st.texec
     let T := (match st.bnd with | .time t => t | _ => 0)
     s.takes sd ring 0x44 e noData = some (st, z) ∧ z.keel.up = true ∧ st.bnd = .time T ∧ t + nsLsb 2000 ≤ T ∧ (z.side (coxTarget e)).on KEEL_COX_STAT.COX_HELD = false ∧ z.keel.resolving = false) ∧
    (let s : State := ringS (fun x => ((((x.set (SEAT_STAT.STATE 2) 1).set (SEAT_STAT.CH 2) 1).set (SEAT_STAT.SLOT 2) 1)|>.set (SEAT_STAT.STATE 0) 1))
     let sd : SideId := .stroke
     let ring : Fin 8 := 3
     let e : CmdEntry := ent 0 (srcOf 1 2 0) 0 0 0
     let st : Staged := (taken s 0x40 (ent 0 (srcOf 1 2 0) 0 0 0) noData).1
     let z : State := (taken s 0x40 (ent 0 (srcOf 1 2 0) 0 0 0) noData).2
     let x := z.side sd
     let k := 2
     let n := 1
     let c := chanOf (x.get (SEAT_STAT.CH k))
     let slot := x.get (SEAT_STAT.SLOT k)
     let r := [3, 4, 5, 6, 7, 8]
     s.takesNow sd ring 0x40 e noData st z ∧ seatOfSrc (e.op4 % 65536) = some k ∧ x.seatSt k = 1 ∧ x.jobOf k = .none ∧ x.spares = n :: r ∧ x.mayLoad c slot = false) ∧
    (let s : State := ringS (fun x => ((((((x.setFe .c1 { x.feOf .c1 with m := 100000 }).set (XF_STAT.SEATS 1) 2).set (SEAT_STAT.STATE 2) 1).set (SEAT_STAT.CH 2) 1).set (SEAT_STAT.SLOT 2) 1)|>.set (SEAT_STAT.STATE 0) 1))
     let sd : SideId := .stroke
     let ring : Fin 8 := 3
     let e : CmdEntry := ent 0 (srcOf 1 2 0) 0 0 0
     let st : Staged := (taken s 0x40 (ent 0 (srcOf 1 2 0) 0 0 0) noData).1
     let z : State := (taken s 0x40 (ent 0 (srcOf 1 2 0) 0 0 0) noData).2
     let x := z.side sd
     let k := 2
     let n := 1
     let c := chanOf (x.get (SEAT_STAT.CH k))
     let slot := x.get (SEAT_STAT.SLOT k)
     let r := [3, 4, 5, 6, 7, 8]
     s.takesNow sd ring 0x40 e noData st z ∧ seatOfSrc (e.op4 % 65536) = some k ∧ x.seatSt k = 1 ∧ x.jobOf k = .none ∧ x.spares = n :: r ∧ x.mayLoad c slot = true) ∧
    (let s : State := ringS (fun x => (List.range 9).foldl (fun x i => x.set (SEAT_STAT.STATE i) 1) x)
     let sd : SideId := .stroke
     let ring : Fin 8 := 3
     let e : CmdEntry := ent 0 (srcOf 1 2 0) 0 0 0
     let st : Staged := (taken s 0x40 (ent 0 (srcOf 1 2 0) 0 0 0) noData).1
     let z : State := (taken s 0x40 (ent 0 (srcOf 1 2 0) 0 0 0) noData).2
     let x := z.side sd
     let k := 2
     s.takesNow sd ring 0x40 e noData st z ∧ seatOfSrc (e.op4 % 65536) = some k ∧ x.seatSt k = 1 ∧ x.jobOf k = .none ∧ x.spares = []) ∧
    (let s : State := ringS (fun x => ((((x.set (SEAT_STAT.STATE 2) 4).set (SEAT_STAT.CH 2) 1).set (SEAT_STAT.SLOT 2) 1)|>.set (SEAT_STAT.RESET_SINCE 2) 1))
     let sd : SideId := .stroke
     let ring : Fin 8 := 3
     let e : CmdEntry := ent 0 (srcOf 1 2 0) 0 0 0
     let st : Staged := (taken s 0x41 (ent 0 (srcOf 1 2 0) 0 0 0) noData).1
     let z : State := (taken s 0x41 (ent 0 (srcOf 1 2 0) 0 0 0) noData).2
     let x := z.side sd
     let k := 2
     s.takesNow sd ring 0x41 e noData st z ∧ seatOfSrc (e.op4 % 65536) = some k ∧ (x.seatSt k = 4 ∨ x.seatSt k = 5) ∧ x.on (SEAT_STAT.RESET_SINCE k) = true ∧ x.jobOf k = .none) ∧
    (let s : State := ringS (fun x => x)
     let sd : SideId := .stroke
     let ring : Fin 8 := 3
     let e : CmdEntry := ent 0 20 0 0 0
     let st : Staged := (taken s 0x30 (ent 0 20 0 0 0) noData).1
     let z : State := (taken s 0x30 (ent 0 20 0 0 0) noData).2
     let x := z.side sd
     s.takesNow sd ring 0x30 e noData st z ∧ e.op4 % 32 ≠ 0 ∧ x.cal.job = none) ∧
    (let s : State := ringS (fun x => x)
     let sd : SideId := .stroke
     let ring : Fin 8 := 3
     let e : CmdEntry := ent 0 20 0 0 0
     let st : Staged := (taken s 0x31 (ent 0 20 0 0 0) noData).1
     let z : State := (taken s 0x31 (ent 0 20 0 0 0) noData).2
     let x := z.side sd
     s.takesNow sd ring 0x31 e noData st z ∧ e.op4 % 32 ≠ 0 ∧ e.op4 % 2 = 0 ∧ x.cal.job = none) ∧
    (let s : State := ringS (fun x => x)
     let sd : SideId := .stroke
     let ring : Fin 8 := 3
     let e : CmdEntry := ent 0 1 0 0 0
     let st : Staged := (taken s 0x61 (ent 0 1 0 0 0) noData).1
     let z : State := (taken s 0x61 (ent 0 1 0 0 0) noData).2
     s.takesNow sd ring 0x61 e noData st z ∧ (e.op4 % 2 = 1 ∨ z.keel.up = false) ∧ z.keel.resolving = false) ∧
    (let s : State := ringS (fun x => x.set SO_CTRL.EN 1)
     let sd : SideId := .stroke
     let ring : Fin 8 := 3
     let e : CmdEntry := ent 0 (srcOf 4 3 0) 0 0 0
     let st : Staged := (taken s 0x70 (ent 0 (srcOf 4 3 0) 0 0 0) noData).1
     let z : State := (taken s 0x70 (ent 0 (srcOf 4 3 0) 0 0 0) noData).2
     let x := z.side sd
     s.takesNow sd ring 0x70 e noData st z ∧ e.op4 % 65536 = x.src (srcOf 4 3 0) ∧ x.on SO_CTRL.EN = true) := by
  refine ⟨?_, ?_, ?_, ?_, ?_, ?_, ?_, ?_, ?_, ?_, ?_, ?_, ?_⟩
  · unfold State.takesNow; dsimp only; decide +kernel
  · unfold State.takesNow; dsimp only; decide +kernel
  · unfold State.takesNow; dsimp only; decide +kernel
  · dsimp only; decide +kernel
  · dsimp only; decide +kernel
  · unfold State.takesNow; dsimp only; decide +kernel
  · unfold State.takesNow; dsimp only; decide +kernel
  · unfold State.takesNow; dsimp only; decide +kernel
  · unfold State.takesNow; dsimp only; decide +kernel
  · unfold State.takesNow; dsimp only; decide +kernel
  · unfold State.takesNow; dsimp only; decide +kernel
  · unfold State.takesNow; dsimp only; decide +kernel
  · unfold State.takesNow; dsimp only; decide +kernel

theorem witness_RingCoxCores :
    (let s : State := ringS (fun x => x)
     let sd : SideId := .stroke
     let ring : Fin 8 := 3
     let e : CmdEntry := ent (devOf .stroke 4 0xA010) 0 2 0 0
     let data : DmaData := (dat [5, 6])
     let st : Staged := (taken s 0x50 (ent (devOf .stroke 4 0xA010) 0 2 0 0) (dat [5, 6])).1
     let z : State := (taken s 0x50 (ent (devOf .stroke 4 0xA010) 0 2 0 0) (dat [5, 6])).2
     let x := z.side sd
     let a := e.w1.toNat % 2 ^ 44
     let o := devOff a
     let n := st.words.length
     let p := o / 0x2000
     s.takesNow sd ring 0x50 e data st z ∧ devSpace a = 4 ∧ o + n ≤ 0x20000 ∧ (o + n - 1) / 0x2000 = p ∧ (p % 4 < 2 → x.progBusy (p / 4) (p % 4) = false)) ∧
    (let s : State := ringS (fun x => (let w := [(coxBase 1 1, 5), (coxBase 1 1 + 1, 6), (coxBase 1 1 + 0x1FFC, wordN (0x0C1 * 2 ^ 24 + 2)), (coxBase 1 1 + 0x1FFD, 7)];
  { x with coxMem := { x.coxMem with words := w ++ [(coxBase 1 1 + 0x1FFE, wordN (crc32 [5, 6, wordN (0x0C1 * 2 ^ 24 + 2), 7])), (coxBase 1 1 + 0x1FFF, 1)] } }))
     let sd : SideId := .stroke
     let ring : Fin 8 := 3
     let e : CmdEntry := ent 0 (srcOf 5 1 17) (0 + 1 * 4) 0x123 0
     let st : Staged := (taken s 0x51 (ent 0 (srcOf 5 1 17) (0 + 1 * 4) 0x123 0) noData).1
     let z : State := (taken s 0x51 (ent 0 (srcOf 5 1 17) (0 + 1 * 4) 0x123 0) noData).2
     let x := z.side sd
     let c := 1
     let k := x.coreOf c
     let b := bitsOf e.op5 2 2
     s.takesNow sd ring 0x51 e noData st z ∧ coreOfSrc (e.op4 % 2 ^ 15) = some c ∧ e.op5 % 4 = 0 ∧ k.st = 0 ∧ x.imageOk c b = true ∧ c < x.cores.length) ∧
    (let s : State := ringS (fun x => x.modCore 1 (fun k => { k with st := 1 }))
     let sd : SideId := .stroke
     let ring : Fin 8 := 3
     let e : CmdEntry := ent 0 (srcOf 5 1 17) (0 + 1 * 4) 0x123 0
     let st : Staged := (taken s 0x51 (ent 0 (srcOf 5 1 17) (0 + 1 * 4) 0x123 0) noData).1
     let z : State := (taken s 0x51 (ent 0 (srcOf 5 1 17) (0 + 1 * 4) 0x123 0) noData).2
     let x := z.side sd
     let c := 1
     let k := x.coreOf c
     s.takesNow sd ring 0x51 e noData st z ∧ coreOfSrc (e.op4 % 2 ^ 15) = some c ∧ e.op5 % 4 = 0 ∧ k.st ≠ 0) ∧
    (let s : State := ringS (fun x => x)
     let sd : SideId := .stroke
     let ring : Fin 8 := 3
     let e : CmdEntry := ent 0 (srcOf 5 1 17) (0 + 1 * 4) 0x123 0
     let st : Staged := (taken s 0x51 (ent 0 (srcOf 5 1 17) (0 + 1 * 4) 0x123 0) noData).1
     let z : State := (taken s 0x51 (ent 0 (srcOf 5 1 17) (0 + 1 * 4) 0x123 0) noData).2
     let x := z.side sd
     let c := 1
     let k := x.coreOf c
     let b := bitsOf e.op5 2 2
     s.takesNow sd ring 0x51 e noData st z ∧ coreOfSrc (e.op4 % 2 ^ 15) = some c ∧ e.op5 % 4 = 0 ∧ k.st = 0 ∧ x.imageOk c b = false) ∧
    (let s : State := ringS (fun x => x)
     let sd : SideId := .stroke
     let ring : Fin 8 := 3
     let e : CmdEntry := ent 0 (srcOf 5 1 17) (1 + 1 * 4) 0x123 0
     let st : Staged := (taken s 0x51 (ent 0 (srcOf 5 1 17) (1 + 1 * 4) 0x123 0) noData).1
     let z : State := (taken s 0x51 (ent 0 (srcOf 5 1 17) (1 + 1 * 4) 0x123 0) noData).2
     let x := z.side sd
     let c := 1
     let k := x.coreOf c
     let b := bitsOf e.op5 2 2
     s.takesNow sd ring 0x51 e noData st z ∧ coreOfSrc (e.op4 % 2 ^ 15) = some c ∧ e.op5 % 4 = 1 ∧ k.st = 0) ∧
    (let s : State := ringS (fun x => x.modCore 1 (fun k => { k with st := 1 }))
     let sd : SideId := .stroke
     let ring : Fin 8 := 3
     let e : CmdEntry := ent 0 (srcOf 5 1 17) (1 + 1 * 4) 0x123 0
     let st : Staged := (taken s 0x51 (ent 0 (srcOf 5 1 17) (1 + 1 * 4) 0x123 0) noData).1
     let z : State := (taken s 0x51 (ent 0 (srcOf 5 1 17) (1 + 1 * 4) 0x123 0) noData).2
     let x := z.side sd
     let c := 1
     let k := x.coreOf c
     s.takesNow sd ring 0x51 e noData st z ∧ coreOfSrc (e.op4 % 2 ^ 15) = some c ∧ e.op5 % 4 = 1 ∧ k.st ≠ 0) ∧
    (let s : State := ringS (fun x => (let w := [(coxBase 1 1, 5), (coxBase 1 1 + 1, 6), (coxBase 1 1 + 0x1FFC, wordN (0x0C1 * 2 ^ 24 + 2)), (coxBase 1 1 + 0x1FFD, 7)];
  { x with coxMem := { x.coxMem with words := w ++ [(coxBase 1 1 + 0x1FFE, wordN (crc32 [5, 6, wordN (0x0C1 * 2 ^ 24 + 2), 7])), (coxBase 1 1 + 0x1FFF, 1)] } }) |>.modCore 1 (fun k => { k with st := 1 }))
     let sd : SideId := .stroke
     let ring : Fin 8 := 3
     let e : CmdEntry := ent 0 (srcOf 5 1 17) (2 + 1 * 4) 0x123 0
     let st : Staged := (taken s 0x51 (ent 0 (srcOf 5 1 17) (2 + 1 * 4) 0x123 0) noData).1
     let z : State := (taken s 0x51 (ent 0 (srcOf 5 1 17) (2 + 1 * 4) 0x123 0) noData).2
     let x := z.side sd
     let c := 1
     let k := x.coreOf c
     s.takesNow sd ring 0x51 e noData st z ∧ coreOfSrc (e.op4 % 2 ^ 15) = some c ∧ e.op5 % 4 = 2 ∧ k.st ≠ 0 ∧ k.sw = none) ∧
    (let s : State := ringS (fun x => x)
     let sd : SideId := .stroke
     let ring : Fin 8 := 3
     let e : CmdEntry := ent 0 (srcOf 5 4 (16 + 1)) 77 0x01101234 9
     let st : Staged := (taken s 0x60 (ent 0 (srcOf 5 4 (16 + 1)) 77 0x01101234 9) noData).1
     let z : State := (taken s 0x60 (ent 0 (srcOf 5 4 (16 + 1)) 77 0x01101234 9) noData).2
     let x := z.side sd
     let o := 1
     let v : ToneSet := ⟨e.op5, bitsOf e.op6 28 0, e.op7⟩
     s.takesNow sd ring 0x60 e noData st z ∧ x.toneNo (e.op4 % 65536) = some o ∧ v.range ≤ 240 ∧ v.mode < 2) := by
  refine ⟨?_, ?_, ?_, ?_, ?_, ?_, ?_, ?_⟩ <;>
    (unfold State.takesNow; dsimp only; decide +kernel)

theorem witness_ChannelBlocks :
    (let s : State := on1 (fun x => let x : Side := { x.set (JESD_STAT.LINK_UP 0) 1 with clk := { x.clk with f := [2000, 1, 0, 0, 0] } }; { x with host := { x.host with staged := [(⟨4, .stroke, 2, 0x02, (⟨head0 7 0 0 0, 0, 0, 0, 0, (BitVec.ofNat 64 (srcOf 0 0 8 + 1 * 2 ^ 16 + 5 * 2 ^ 24)), 0, 0⟩ : CmdEntry), [wordN (2 ^ 35 + 5 * 2 ^ 29 + 10 * 2 ^ 19), 0, 0x123456, 0, 5], .now, 500, false, false, [], []⟩ : Staged)] } })
     let sd : SideId := .stroke
     let ch : Chan := .c0
     let st : Staged := (⟨4, .stroke, 2, 0x02, (⟨head0 7 0 0 0, 0, 0, 0, 0, (BitVec.ofNat 64 (srcOf 0 0 8 + 1 * 2 ^ 16 + 5 * 2 ^ 24)), 0, 0⟩ : CmdEntry), [wordN (2 ^ 35 + 5 * 2 ^ 29 + 10 * 2 ^ 19), 0, 0x123456, 0, 5], .now, 500, false, false, [], []⟩ : Staged)
     let t : Nat := 500
     let x := s.side sd
     let fe := x.feOf ch
     s.configures sd 1 ch st t ∧ feRun fe.block = false ∧ feRun st.words = true ∧ x.on (JESD_STAT.LINK_UP ch.n) = true ∧ x.feBad ch st.words = false) ∧
    (let s : State := on1 (fun x => let x : Side := x; { x with host := { x.host with staged := [(⟨4, .stroke, 2, 0x02, (⟨head0 7 0 0 0, 0, 0, 0, 0, (BitVec.ofNat 64 (srcOf 0 0 8 + 1 * 2 ^ 16 + 5 * 2 ^ 24)), 0, 0⟩ : CmdEntry), [wordN (2 ^ 35 + 5 * 2 ^ 29 + 10 * 2 ^ 19), 0, 0x123456, 0, 5], .now, 500, false, false, [], []⟩ : Staged)] } })
     let sd : SideId := .stroke
     let ch : Chan := .c0
     let st : Staged := (⟨4, .stroke, 2, 0x02, (⟨head0 7 0 0 0, 0, 0, 0, 0, (BitVec.ofNat 64 (srcOf 0 0 8 + 1 * 2 ^ 16 + 5 * 2 ^ 24)), 0, 0⟩ : CmdEntry), [wordN (2 ^ 35 + 5 * 2 ^ 29 + 10 * 2 ^ 19), 0, 0x123456, 0, 5], .now, 500, false, false, [], []⟩ : Staged)
     let t : Nat := 500
     let x := s.side sd
     let fe := x.feOf ch
     s.configures sd 1 ch st t ∧ feRun fe.block = false ∧ feRun st.words = true ∧ x.on (JESD_STAT.LINK_UP ch.n) = false) ∧
    (let s : State := on1 (fun x => let x : Side := { x.set (JESD_STAT.LINK_UP 0) 1 with clk := { x.clk with f := [2000, 1, 0, 0, 0] } }; { x with host := { x.host with staged := [(⟨4, .stroke, 2, 0x02, (⟨head0 7 0 0 0, 0, 0, 0, 0, (BitVec.ofNat 64 (srcOf 0 0 8 + 1 * 2 ^ 16 + 5 * 2 ^ 24)), 0, 0⟩ : CmdEntry), [wordN (5 * 2 ^ 29 + 10 * 2 ^ 19), 0, 0x123456, 0, 5], .now, 500, false, false, [], []⟩ : Staged)] } })
     let sd : SideId := .stroke
     let ch : Chan := .c0
     let st : Staged := (⟨4, .stroke, 2, 0x02, (⟨head0 7 0 0 0, 0, 0, 0, 0, (BitVec.ofNat 64 (srcOf 0 0 8 + 1 * 2 ^ 16 + 5 * 2 ^ 24)), 0, 0⟩ : CmdEntry), [wordN (5 * 2 ^ 29 + 10 * 2 ^ 19), 0, 0x123456, 0, 5], .now, 500, false, false, [], []⟩ : Staged)
     let t : Nat := 500
     let x := s.side sd
     let fe := x.feOf ch
     s.configures sd 1 ch st t ∧ feRun fe.block = false ∧ feRun st.words = false ∧ x.feBad ch st.words = false) ∧
    (let s : State := on1 (fun x => let x : Side := { x.set (JESD_STAT.LINK_UP 0) 1 with clk := { x.clk with f := [2000, 1, 0, 0, 0] } }; { x with host := { x.host with staged := [(⟨4, .stroke, 2, 0x02, (⟨head0 7 0 0 0, 0, 0, 0, 0, (BitVec.ofNat 64 (srcOf 0 0 8 + 1 * 2 ^ 16 + 5 * 2 ^ 24)), 0, 0⟩ : CmdEntry), [wordN (2 ^ 35 + 12 * 2 ^ 29 + 5 * 2 ^ 29 + 10 * 2 ^ 19), 0, 0x123456, 0, 5], .now, 500, false, false, [], []⟩ : Staged)] } })
     let sd : SideId := .stroke
     let ch : Chan := .c0
     let st : Staged := (⟨4, .stroke, 2, 0x02, (⟨head0 7 0 0 0, 0, 0, 0, 0, (BitVec.ofNat 64 (srcOf 0 0 8 + 1 * 2 ^ 16 + 5 * 2 ^ 24)), 0, 0⟩ : CmdEntry), [wordN (2 ^ 35 + 12 * 2 ^ 29 + 5 * 2 ^ 29 + 10 * 2 ^ 19), 0, 0x123456, 0, 5], .now, 500, false, false, [], []⟩ : Staged)
     let t : Nat := 500
     let x := s.side sd
     let fe := x.feOf ch
     s.configures sd 1 ch st t ∧ feRun fe.block = false ∧ x.on (JESD_STAT.LINK_UP ch.n) = true ∧ x.feBad ch st.words = true) ∧
    (let s : State := on1 (fun x => let x : Side := { feOn ((x.set (JESD_STAT.LINK_UP 0) 1).set (PP_STAT.RUNNING 0) 1) (wordN (2 ^ 35 + 10 * 2 ^ 19)) with clk := { x.clk with f := [2000, 1, 0, 0, 0] } }; { x with host := { x.host with staged := [(⟨4, .stroke, 2, 0x02, (⟨head0 7 0 0 0, 0, 0, 0, 0, (BitVec.ofNat 64 (srcOf 0 0 8 + 1 * 2 ^ 16 + 5 * 2 ^ 24)), 0, 0⟩ : CmdEntry), [wordN (5 * 2 ^ 29 + 10 * 2 ^ 19), 0, 0x123456, 0, 5], .now, 500, false, false, [], []⟩ : Staged)] } })
     let sd : SideId := .stroke
     let ch : Chan := .c0
     let st : Staged := (⟨4, .stroke, 2, 0x02, (⟨head0 7 0 0 0, 0, 0, 0, 0, (BitVec.ofNat 64 (srcOf 0 0 8 + 1 * 2 ^ 16 + 5 * 2 ^ 24)), 0, 0⟩ : CmdEntry), [wordN (5 * 2 ^ 29 + 10 * 2 ^ 19), 0, 0x123456, 0, 5], .now, 500, false, false, [], []⟩ : Staged)
     let t : Nat := 500
     let x := s.side sd
     let fe := x.feOf ch
     s.configures sd 1 ch st t ∧ feRun fe.block = true ∧ feRun st.words = false ∧ x.chanActive ch true = true) ∧
    (let s : State := on1 (fun x => let x : Side := { feOn (x.set (JESD_STAT.LINK_UP 0) 1) (wordN (2 ^ 35 + 10 * 2 ^ 19)) with clk := { x.clk with f := [2000, 1, 0, 0, 0] } }; { x with host := { x.host with staged := [(⟨4, .stroke, 2, 0x02, (⟨head0 7 0 0 0, 0, 0, 0, 0, (BitVec.ofNat 64 (srcOf 0 0 8 + 1 * 2 ^ 16 + 5 * 2 ^ 24)), 0, 0⟩ : CmdEntry), [wordN (17 * 2 ^ 29 + 10 * 2 ^ 19), 0, 0x123456, 0, 5], .now, 500, false, false, [], []⟩ : Staged)] } })
     let sd : SideId := .stroke
     let ch : Chan := .c0
     let st : Staged := (⟨4, .stroke, 2, 0x02, (⟨head0 7 0 0 0, 0, 0, 0, 0, (BitVec.ofNat 64 (srcOf 0 0 8 + 1 * 2 ^ 16 + 5 * 2 ^ 24)), 0, 0⟩ : CmdEntry), [wordN (17 * 2 ^ 29 + 10 * 2 ^ 19), 0, 0x123456, 0, 5], .now, 500, false, false, [], []⟩ : Staged)
     let t : Nat := 500
     let x := s.side sd
     let fe := x.feOf ch
     s.configures sd 1 ch st t ∧ feRun fe.block = true ∧ feRun st.words = false ∧ x.chanActive ch true = false ∧ (s.side sd.other).takesFrom ch = false ∧ x.feBad ch st.words = true) ∧
    (let s : State := on1 (fun x => let x : Side := { (x.set (FE_STAT.RUNNING 1) 1) with clk := { x.clk with f := [2000, 1, 0, 0, 0] } }; { x with host := { x.host with staged := [(⟨4, .stroke, 2, 0x02, (⟨head0 7 0 0 0, 0, 0, 0, 0, (BitVec.ofNat 64 (srcOf 0 1 8 + 2 * 2 ^ 16 + 2 * 2 ^ 24)), 0, 0⟩ : CmdEntry), [wordN (2 ^ 35 + 10 * 2 ^ 31 + 3 * 2 ^ 29 + 1 * 2 ^ 26 + 0 * 2 ^ 22), 0x10000], .now, 500, false, false, [], []⟩ : Staged)] } })
     let sd : SideId := .stroke
     let ch : Chan := .c1
     let st : Staged := (⟨4, .stroke, 2, 0x02, (⟨head0 7 0 0 0, 0, 0, 0, 0, (BitVec.ofNat 64 (srcOf 0 1 8 + 2 * 2 ^ 16 + 2 * 2 ^ 24)), 0, 0⟩ : CmdEntry), [wordN (2 ^ 35 + 10 * 2 ^ 31 + 3 * 2 ^ 29 + 1 * 2 ^ 26 + 0 * 2 ^ 22), 0x10000], .now, 500, false, false, [], []⟩ : Staged)
     let t : Nat := 500
     let x := s.side sd
     let xf := x.xfOf ch
     let b2 := blkKeep xfMasks st.words
     let bad := xfLog2N b2 < 6 ∨ 9 < xfSeatsReq b2
     let need := x.needed ch b2 x.laneMhz x.spread
     let seats := if xfSeatsReq b2 = 0 then need else xfSeatsReq b2
     s.configures sd 2 ch st t ∧ xf.run = false ∧ xfRun b2 = true ∧ x.on (FE_STAT.RUNNING ch.n) = true ∧ ¬bad ∧ need ≤ seats ∧ seats ≤ x.spares.length) ∧
    (let s : State := on1 (fun x => let x : Side := { (x) with clk := { x.clk with f := [2000, 1, 0, 0, 0] } }; { x with host := { x.host with staged := [(⟨4, .stroke, 2, 0x02, (⟨head0 7 0 0 0, 0, 0, 0, 0, (BitVec.ofNat 64 (srcOf 0 1 8 + 2 * 2 ^ 16 + 2 * 2 ^ 24)), 0, 0⟩ : CmdEntry), [wordN (2 ^ 35 + 10 * 2 ^ 31 + 3 * 2 ^ 29 + 1 * 2 ^ 26 + 2 * 2 ^ 22), 0x10000], .now, 500, false, false, [], []⟩ : Staged)] } })
     let sd : SideId := .stroke
     let ch : Chan := .c1
     let st : Staged := (⟨4, .stroke, 2, 0x02, (⟨head0 7 0 0 0, 0, 0, 0, 0, (BitVec.ofNat 64 (srcOf 0 1 8 + 2 * 2 ^ 16 + 2 * 2 ^ 24)), 0, 0⟩ : CmdEntry), [wordN (2 ^ 35 + 10 * 2 ^ 31 + 3 * 2 ^ 29 + 1 * 2 ^ 26 + 2 * 2 ^ 22), 0x10000], .now, 500, false, false, [], []⟩ : Staged)
     let t : Nat := 500
     let x := s.side sd
     let xf := x.xfOf ch
     let b2 := blkKeep xfMasks st.words
     s.configures sd 2 ch st t ∧ xf.run = false ∧ xfRun b2 = true ∧ x.on (FE_STAT.RUNNING ch.n) = false) ∧
    (let s : State := on1 (fun x => let x : Side := { ((List.range 9).foldl (fun x i => x.set (SEAT_STAT.STATE i) 1) (x.set (FE_STAT.RUNNING 1) 1)) with clk := { x.clk with f := [2000, 1, 0, 0, 0] } }; { x with host := { x.host with staged := [(⟨4, .stroke, 2, 0x02, (⟨head0 7 0 0 0, 0, 0, 0, 0, (BitVec.ofNat 64 (srcOf 0 1 8 + 2 * 2 ^ 16 + 2 * 2 ^ 24)), 0, 0⟩ : CmdEntry), [wordN (2 ^ 35 + 10 * 2 ^ 31 + 3 * 2 ^ 29 + 1 * 2 ^ 26 + 0 * 2 ^ 22), 0x10000], .now, 500, false, false, [], []⟩ : Staged)] } })
     let sd : SideId := .stroke
     let ch : Chan := .c1
     let st : Staged := (⟨4, .stroke, 2, 0x02, (⟨head0 7 0 0 0, 0, 0, 0, 0, (BitVec.ofNat 64 (srcOf 0 1 8 + 2 * 2 ^ 16 + 2 * 2 ^ 24)), 0, 0⟩ : CmdEntry), [wordN (2 ^ 35 + 10 * 2 ^ 31 + 3 * 2 ^ 29 + 1 * 2 ^ 26 + 0 * 2 ^ 22), 0x10000], .now, 500, false, false, [], []⟩ : Staged)
     let t : Nat := 500
     let x := s.side sd
     let xf := x.xfOf ch
     let b2 := blkKeep xfMasks st.words
     let bad := xfLog2N b2 < 6 ∨ 9 < xfSeatsReq b2
     let need := x.needed ch b2 x.laneMhz x.spread
     let seats := if xfSeatsReq b2 = 0 then need else xfSeatsReq b2
     s.configures sd 2 ch st t ∧ xf.run = false ∧ xfRun b2 = true ∧ x.on (FE_STAT.RUNNING ch.n) = true ∧ ¬bad ∧ need ≤ seats ∧ x.spares.length < seats) ∧
    (let s : State := on1 (fun x => let x : Side := x; { x with host := { x.host with staged := [(⟨4, .stroke, 2, 0x02, (⟨head0 7 0 0 0, 0, 0, 0, 0, (BitVec.ofNat 64 (srcOf 0 1 8 + 2 * 2 ^ 16 + 2 * 2 ^ 24)), 0, 0⟩ : CmdEntry), [wordN (10 * 2 ^ 31 + 3 * 2 ^ 29 + 1 * 2 ^ 26 + 2 * 2 ^ 22), 0x10000], .now, 500, false, false, [], []⟩ : Staged)] } })
     let sd : SideId := .stroke
     let ch : Chan := .c1
     let st : Staged := (⟨4, .stroke, 2, 0x02, (⟨head0 7 0 0 0, 0, 0, 0, 0, (BitVec.ofNat 64 (srcOf 0 1 8 + 2 * 2 ^ 16 + 2 * 2 ^ 24)), 0, 0⟩ : CmdEntry), [wordN (10 * 2 ^ 31 + 3 * 2 ^ 29 + 1 * 2 ^ 26 + 2 * 2 ^ 22), 0x10000], .now, 500, false, false, [], []⟩ : Staged)
     let t : Nat := 500
     let x := s.side sd
     let xf := x.xfOf ch
     let b2 := blkKeep xfMasks st.words
     let bad := xfLog2N b2 < 6 ∨ 9 < xfSeatsReq b2
     s.configures sd 2 ch st t ∧ xf.run = false ∧ xfRun b2 = false ∧ ¬bad) ∧
    (let s : State := on1 (fun x => let x : Side := x; { x with host := { x.host with staged := [(⟨4, .stroke, 2, 0x02, (⟨head0 7 0 0 0, 0, 0, 0, 0, (BitVec.ofNat 64 (srcOf 0 1 8 + 2 * 2 ^ 16 + 2 * 2 ^ 24)), 0, 0⟩ : CmdEntry), [wordN (5 * 2 ^ 31 + 3 * 2 ^ 29 + 1 * 2 ^ 26 + 2 * 2 ^ 22), 0x10000], .now, 500, false, false, [], []⟩ : Staged)] } })
     let sd : SideId := .stroke
     let ch : Chan := .c1
     let st : Staged := (⟨4, .stroke, 2, 0x02, (⟨head0 7 0 0 0, 0, 0, 0, 0, (BitVec.ofNat 64 (srcOf 0 1 8 + 2 * 2 ^ 16 + 2 * 2 ^ 24)), 0, 0⟩ : CmdEntry), [wordN (5 * 2 ^ 31 + 3 * 2 ^ 29 + 1 * 2 ^ 26 + 2 * 2 ^ 22), 0x10000], .now, 500, false, false, [], []⟩ : Staged)
     let t : Nat := 500
     let x := s.side sd
     let xf := x.xfOf ch
     let b2 := blkKeep xfMasks st.words
     let bad := xfLog2N b2 < 6 ∨ 9 < xfSeatsReq b2
     s.configures sd 2 ch st t ∧ xf.run = false ∧ xfRun b2 = false ∧ bad) ∧
    (let s : State := on1 (fun x => let x : Side := { (x.set (XF_STAT.RUNNING 1) 1) with clk := { x.clk with f := [2000, 1, 0, 0, 0] } }; { x with host := { x.host with staged := [(⟨4, .stroke, 2, 0x02, (⟨head0 7 0 0 0, 0, 0, 0, 0, (BitVec.ofNat 64 (srcOf 2 1 0 + 3 * 2 ^ 16 + 32 * 2 ^ 24)), 0, 0⟩ : CmdEntry), lset (lset spectralReset 0 (wordN (2 ^ 35))) 30 (wordN (6 * 2 ^ 27)), .now, 500, false, false, [], []⟩ : Staged)] } })
     let sd : SideId := .stroke
     let ch : Chan := .c1
     let st : Staged := (⟨4, .stroke, 2, 0x02, (⟨head0 7 0 0 0, 0, 0, 0, 0, (BitVec.ofNat 64 (srcOf 2 1 0 + 3 * 2 ^ 16 + 32 * 2 ^ 24)), 0, 0⟩ : CmdEntry), lset (lset spectralReset 0 (wordN (2 ^ 35))) 30 (wordN (6 * 2 ^ 27)), .now, 500, false, false, [], []⟩ : Staged)
     let t : Nat := 500
     let x := s.side sd
     s.configures sd 3 ch st t ∧ x.on (PP_STAT.RUNNING ch.n) = false ∧ ppRun st.words = true ∧ x.on (XF_STAT.RUNNING ch.n) = true ∧ s.ppCheck sd ch st.words true (ppXsEn st.words) = 0) ∧
    (let s : State := on1 (fun x => let x : Side := x; { x with host := { x.host with staged := [(⟨4, .stroke, 2, 0x02, (⟨head0 7 0 0 0, 0, 0, 0, 0, (BitVec.ofNat 64 (srcOf 2 1 0 + 3 * 2 ^ 16 + 32 * 2 ^ 24)), 0, 0⟩ : CmdEntry), lset (lset spectralReset 0 (wordN (2 ^ 35))) 30 (wordN (6 * 2 ^ 27)), .now, 500, false, false, [], []⟩ : Staged)] } })
     let sd : SideId := .stroke
     let ch : Chan := .c1
     let st : Staged := (⟨4, .stroke, 2, 0x02, (⟨head0 7 0 0 0, 0, 0, 0, 0, (BitVec.ofNat 64 (srcOf 2 1 0 + 3 * 2 ^ 16 + 32 * 2 ^ 24)), 0, 0⟩ : CmdEntry), lset (lset spectralReset 0 (wordN (2 ^ 35))) 30 (wordN (6 * 2 ^ 27)), .now, 500, false, false, [], []⟩ : Staged)
     let t : Nat := 500
     let x := s.side sd
     s.configures sd 3 ch st t ∧ x.on (PP_STAT.RUNNING ch.n) = false ∧ ppRun st.words = true ∧ x.on (XF_STAT.RUNNING ch.n) = false) ∧
    (let s : State := on1 (fun x => let x : Side := x; { x with host := { x.host with staged := [(⟨4, .stroke, 2, 0x02, (⟨head0 7 0 0 0, 0, 0, 0, 0, (BitVec.ofNat 64 (srcOf 2 1 0 + 3 * 2 ^ 16 + 32 * 2 ^ 24)), 0, 0⟩ : CmdEntry), lset spectralReset 4 (wordN 9), .now, 500, false, false, [], []⟩ : Staged)] } })
     let sd : SideId := .stroke
     let ch : Chan := .c1
     let st : Staged := (⟨4, .stroke, 2, 0x02, (⟨head0 7 0 0 0, 0, 0, 0, 0, (BitVec.ofNat 64 (srcOf 2 1 0 + 3 * 2 ^ 16 + 32 * 2 ^ 24)), 0, 0⟩ : CmdEntry), lset spectralReset 4 (wordN 9), .now, 500, false, false, [], []⟩ : Staged)
     let t : Nat := 500
     let x := s.side sd
     s.configures sd 3 ch st t ∧ x.on (PP_STAT.RUNNING ch.n) = false ∧ ppRun st.words = false ∧ ppEncBad st.words = false) := by
  refine ⟨?_, ?_, ?_, ?_, ?_, ?_, ?_, ?_, ?_, ?_, ?_, ?_, ?_, ?_⟩ <;>
    (unfold State.configures; dsimp only; decide +kernel)

theorem witness_EngineBlocks :
    (let s : State := on1 (fun x => let x : Side := { (x.set (PP_STAT.RUNNING 0) 1) with clk := { x.clk with f := [2000, 1, 0, 0, 0] } }; { x with host := { x.host with staged := [(⟨4, .stroke, 2, 0x02, (⟨head0 7 0 0 0, 0, 0, 0, 0, (BitVec.ofNat 64 (srcOf 2 2 0 + 4 * 2 ^ 16 + 4 * 2 ^ 24)), 0, 0⟩ : CmdEntry), (lset (lset densityReset 0 (wordN (2 ^ 35 + 5 * 2 ^ 29 + 256 * 2 ^ 20))) 3 5000), .now, 500, false, false, [], []⟩ : Staged)] } })
     let sd : SideId := .stroke
     let ch : Chan := .c0
     let st : Staged := (⟨4, .stroke, 2, 0x02, (⟨head0 7 0 0 0, 0, 0, 0, 0, (BitVec.ofNat 64 (srcOf 2 2 0 + 4 * 2 ^ 16 + 4 * 2 ^ 24)), 0, 0⟩ : CmdEntry), (lset (lset densityReset 0 (wordN (2 ^ 35 + 5 * 2 ^ 29 + 256 * 2 ^ 20))) 3 5000), .now, 500, false, false, [], []⟩ : Staged)
     let t : Nat := 500
     let x := s.side sd
     let b4 := blkKeep deMasks st.words
     s.configures sd 4 ch st t ∧ x.on (DENS_STAT.RUNNING ch.n) = false ∧ deFieldBad b4 = false ∧ deRun b4 = true ∧ x.on (PP_STAT.RUNNING ch.n) = true ∧ x.densBad ch b4 = false) ∧
    (let s : State := on1 (fun x => let x : Side := x; { x with host := { x.host with staged := [(⟨4, .stroke, 2, 0x02, (⟨head0 7 0 0 0, 0, 0, 0, 0, (BitVec.ofNat 64 (srcOf 2 2 0 + 4 * 2 ^ 16 + 4 * 2 ^ 24)), 0, 0⟩ : CmdEntry), (lset (lset densityReset 0 (wordN (2 ^ 35 + 5 * 2 ^ 29 + 256 * 2 ^ 20))) 3 5000), .now, 500, false, false, [], []⟩ : Staged)] } })
     let sd : SideId := .stroke
     let ch : Chan := .c0
     let st : Staged := (⟨4, .stroke, 2, 0x02, (⟨head0 7 0 0 0, 0, 0, 0, 0, (BitVec.ofNat 64 (srcOf 2 2 0 + 4 * 2 ^ 16 + 4 * 2 ^ 24)), 0, 0⟩ : CmdEntry), (lset (lset densityReset 0 (wordN (2 ^ 35 + 5 * 2 ^ 29 + 256 * 2 ^ 20))) 3 5000), .now, 500, false, false, [], []⟩ : Staged)
     let t : Nat := 500
     let x := s.side sd
     let b4 := blkKeep deMasks st.words
     s.configures sd 4 ch st t ∧ x.on (DENS_STAT.RUNNING ch.n) = false ∧ deFieldBad b4 = false ∧ deRun b4 = true ∧ x.on (PP_STAT.RUNNING ch.n) = false) ∧
    (let s : State := on1 (fun x => let x : Side := x; { x with host := { x.host with staged := [(⟨4, .stroke, 2, 0x02, (⟨head0 7 0 0 0, 0, 0, 0, 0, (BitVec.ofNat 64 (srcOf 2 2 0 + 4 * 2 ^ 16 + 4 * 2 ^ 24)), 0, 0⟩ : CmdEntry), (lset (lset densityReset 0 (wordN (5 * 2 ^ 29 + 256 * 2 ^ 20))) 3 5000), .now, 500, false, false, [], []⟩ : Staged)] } })
     let sd : SideId := .stroke
     let ch : Chan := .c0
     let st : Staged := (⟨4, .stroke, 2, 0x02, (⟨head0 7 0 0 0, 0, 0, 0, 0, (BitVec.ofNat 64 (srcOf 2 2 0 + 4 * 2 ^ 16 + 4 * 2 ^ 24)), 0, 0⟩ : CmdEntry), (lset (lset densityReset 0 (wordN (5 * 2 ^ 29 + 256 * 2 ^ 20))) 3 5000), .now, 500, false, false, [], []⟩ : Staged)
     let t : Nat := 500
     let x := s.side sd
     let b4 := blkKeep deMasks st.words
     s.configures sd 4 ch st t ∧ x.on (DENS_STAT.RUNNING ch.n) = false ∧ deFieldBad b4 = false ∧ deRun b4 = false) ∧
    (let s : State := on1 (fun x => let x : Side := x; { x with host := { x.host with staged := [(⟨4, .stroke, 2, 0x02, (⟨head0 7 0 0 0, 0, 0, 0, 0, (BitVec.ofNat 64 (srcOf 2 4 0 + 5 * 2 ^ 16 + 85 * 2 ^ 24)), 0, 0⟩ : CmdEntry), (lset starterReset 0 (wordN (2 ^ 35 + 12 * 2 ^ 20))), .now, 500, false, false, [], []⟩ : Staged)] } })
     let sd : SideId := .stroke
     let st : Staged := (⟨4, .stroke, 2, 0x02, (⟨head0 7 0 0 0, 0, 0, 0, 0, (BitVec.ofNat 64 (srcOf 2 4 0 + 5 * 2 ^ 16 + 85 * 2 ^ 24)), 0, 0⟩ : CmdEntry), (lset starterReset 0 (wordN (2 ^ 35 + 12 * 2 ^ 20))), .now, 500, false, false, [], []⟩ : Staged)
     let t : Nat := 500
     let x := s.side sd
     let b5 := blkKeep stMasks st.words
     let uses := (
              fun (c : Chan) => (stUsesIq b5 c.n = true → x.on (FE_STAT.RUNNING c.n) = true)
    ∧ (stUsesFreq b5 c.n = true ∨ stStopEn b5 c.n = true → x.on (PP_STAT.RUNNING c.n) = true))
     let run := x.on STARTER_STAT.RUNNING
     s.configures sd 5 .c0 st t ∧ x.starterBad b5 = false ∧ run = false ∧ stRun b5 = true ∧ uses .c0 ∧ uses .c1) ∧
    (let s : State := on1 (fun x => let x : Side := x.set STARTER_STAT.RUNNING 1; { x with host := { x.host with staged := [(⟨4, .stroke, 2, 0x02, (⟨head0 7 0 0 0, 0, 0, 0, 0, (BitVec.ofNat 64 (srcOf 2 4 0 + 5 * 2 ^ 16 + 85 * 2 ^ 24)), 0, 0⟩ : CmdEntry), (lset starterReset 0 (wordN (12 * 2 ^ 20))), .now, 500, false, false, [], []⟩ : Staged)] } })
     let sd : SideId := .stroke
     let st : Staged := (⟨4, .stroke, 2, 0x02, (⟨head0 7 0 0 0, 0, 0, 0, 0, (BitVec.ofNat 64 (srcOf 2 4 0 + 5 * 2 ^ 16 + 85 * 2 ^ 24)), 0, 0⟩ : CmdEntry), (lset starterReset 0 (wordN (12 * 2 ^ 20))), .now, 500, false, false, [], []⟩ : Staged)
     let t : Nat := 500
     let x := s.side sd
     let b5 := blkKeep stMasks st.words
     let run := x.on STARTER_STAT.RUNNING
     s.configures sd 5 .c0 st t ∧ x.starterBad b5 = false ∧ run = true ∧ stRun b5 = false ∧ x.armed .c0 = false ∧ x.armed .c1 = false) ∧
    (let s : State := on1 (fun x => let x : Side := (x.setAcq .c0 { x.acqOf .c0 with armed := some ⟨9, recordReset, [], 0, 5, 0, 5, 5, [], [], [], [], 0, 0, 0, [], [], false, false, none, none⟩ }).set STARTER_STAT.RUNNING 1; { x with host := { x.host with staged := [(⟨4, .stroke, 2, 0x02, (⟨head0 7 0 0 0, 0, 0, 0, 0, (BitVec.ofNat 64 (srcOf 2 4 0 + 5 * 2 ^ 16 + 85 * 2 ^ 24)), 0, 0⟩ : CmdEntry), (lset starterReset 0 (wordN (12 * 2 ^ 20))), .now, 500, false, false, [], []⟩ : Staged)] } })
     let sd : SideId := .stroke
     let st : Staged := (⟨4, .stroke, 2, 0x02, (⟨head0 7 0 0 0, 0, 0, 0, 0, (BitVec.ofNat 64 (srcOf 2 4 0 + 5 * 2 ^ 16 + 85 * 2 ^ 24)), 0, 0⟩ : CmdEntry), (lset starterReset 0 (wordN (12 * 2 ^ 20))), .now, 500, false, false, [], []⟩ : Staged)
     let t : Nat := 500
     let x := s.side sd
     let b5 := blkKeep stMasks st.words
     let run := x.on STARTER_STAT.RUNNING
     s.configures sd 5 .c0 st t ∧ x.starterBad b5 = false ∧ run = true ∧ stRun b5 = false ∧ (x.armed .c0 = true ∨ x.armed .c1 = true)) ∧
    (let s : State := on1 (fun x => let x : Side := x; { x with host := { x.host with staged := [(⟨4, .stroke, 2, 0x02, (⟨head0 7 0 0 0, 0, 0, 0, 0, (BitVec.ofNat 64 (srcOf 2 4 0 + 5 * 2 ^ 16 + 85 * 2 ^ 24)), 0, 0⟩ : CmdEntry), (lset starterReset 0 (wordN (12 * 2 ^ 20))), .now, 500, false, false, [], []⟩ : Staged)] } })
     let sd : SideId := .stroke
     let st : Staged := (⟨4, .stroke, 2, 0x02, (⟨head0 7 0 0 0, 0, 0, 0, 0, (BitVec.ofNat 64 (srcOf 2 4 0 + 5 * 2 ^ 16 + 85 * 2 ^ 24)), 0, 0⟩ : CmdEntry), (lset starterReset 0 (wordN (12 * 2 ^ 20))), .now, 500, false, false, [], []⟩ : Staged)
     let t : Nat := 500
     let x := s.side sd
     let b5 := blkKeep stMasks st.words
     let run := x.on STARTER_STAT.RUNNING
     s.configures sd 5 .c0 st t ∧ x.starterBad b5 = false ∧ run = false ∧ stRun b5 = false) ∧
    (let s : State := on1 (fun x => let x : Side := x.setAcq .c1 { x.acqOf .c1 with armed := some ⟨9, recordReset, [], 0, 5, 0, 5, 5, [], [], [], [], 0, 0, 0, [], [], false, false, none, none⟩ }; { x with host := { x.host with staged := [(⟨4, .stroke, 2, 0x02, (⟨head0 7 0 0 0, 0, 0, 0, 0, (BitVec.ofNat 64 (srcOf 2 4 0 + 6 * 2 ^ 16 + 10 * 2 ^ 24)), 0, 0⟩ : CmdEntry), [wordN (2 ^ 33 + 2 ^ 35), 0, 0x400, 0, 0, 4096, 0, 0, 0, 0x3FF], .now, 500, false, false, [], []⟩ : Staged)] } })
     let sd : SideId := .stroke
     let ch : Chan := .c1
     let st : Staged := (⟨4, .stroke, 2, 0x02, (⟨head0 7 0 0 0, 0, 0, 0, 0, (BitVec.ofNat 64 (srcOf 2 4 0 + 6 * 2 ^ 16 + 10 * 2 ^ 24)), 0, 0⟩ : CmdEntry), [wordN (2 ^ 33 + 2 ^ 35), 0, 0x400, 0, 0, 4096, 0, 0, 0, 0x3FF], .now, 500, false, false, [], []⟩ : Staged)
     let t : Nat := 500
     let x := s.side sd
     let b6 := blkKeep rcMasks st.words
     s.configures sd 6 .c0 st t ∧ ch = chanOf (bf st.words 0 35 35) ∧ chanOf (bf b6 0 35 35) = ch ∧ x.armed ch = true) ∧
    (let s : State := on1 (fun x => let x : Side := x; { x with host := { x.host with staged := [(⟨4, .stroke, 2, 0x02, (⟨head0 7 0 0 0, 0, 0, 0, 0, (BitVec.ofNat 64 (srcOf 2 4 0 + 6 * 2 ^ 16 + 10 * 2 ^ 24)), 0, 0⟩ : CmdEntry), [wordN (2 ^ 33 + 2 ^ 35), 0, 0x400, 0, 0, 4096, 0, 0, 0, 0x3FF], .now, 500, false, false, [], []⟩ : Staged)] } })
     let sd : SideId := .stroke
     let ch : Chan := .c1
     let st : Staged := (⟨4, .stroke, 2, 0x02, (⟨head0 7 0 0 0, 0, 0, 0, 0, (BitVec.ofNat 64 (srcOf 2 4 0 + 6 * 2 ^ 16 + 10 * 2 ^ 24)), 0, 0⟩ : CmdEntry), [wordN (2 ^ 33 + 2 ^ 35), 0, 0x400, 0, 0, 4096, 0, 0, 0, 0x3FF], .now, 500, false, false, [], []⟩ : Staged)
     let t : Nat := 500
     let x := s.side sd
     let b6 := blkKeep rcMasks st.words
     s.configures sd 6 .c0 st t ∧ ch = chanOf (bf st.words 0 35 35) ∧ chanOf (bf b6 0 35 35) = ch ∧ x.armed ch = false ∧ rcContent b6 ≠ 0 ∧ rcPost b6 ≠ 0) ∧
    (let s : State := on1 (fun x => let x : Side := x; { x with host := { x.host with staged := [(⟨4, .stroke, 2, 0x02, (⟨head0 7 0 0 0, 0, 0, 0, 0, (BitVec.ofNat 64 (srcOf 2 4 0 + 6 * 2 ^ 16 + 10 * 2 ^ 24)), 0, 0⟩ : CmdEntry), [wordN (2 ^ 35), 0, 0x400, 0, 0, 4096, 0, 0, 0, 0x3FF], .now, 500, false, false, [], []⟩ : Staged)] } })
     let sd : SideId := .stroke
     let ch : Chan := .c1
     let st : Staged := (⟨4, .stroke, 2, 0x02, (⟨head0 7 0 0 0, 0, 0, 0, 0, (BitVec.ofNat 64 (srcOf 2 4 0 + 6 * 2 ^ 16 + 10 * 2 ^ 24)), 0, 0⟩ : CmdEntry), [wordN (2 ^ 35), 0, 0x400, 0, 0, 4096, 0, 0, 0, 0x3FF], .now, 500, false, false, [], []⟩ : Staged)
     let t : Nat := 500
     let x := s.side sd
     let b6 := blkKeep rcMasks st.words
     s.configures sd 6 .c0 st t ∧ ch = chanOf (bf st.words 0 35 35) ∧ chanOf (bf b6 0 35 35) = ch ∧ x.armed ch = false ∧ (rcContent b6 = 0 ∨ rcPost b6 = 0)) := by
  refine ⟨?_, ?_, ?_, ?_, ?_, ?_, ?_, ?_, ?_, ?_⟩ <;>
    (unfold State.configures; dsimp only; decide +kernel)

theorem witness_LinkBringUp :
    (let s : State := on1 (fun x => let x : Side := x.set (JESD_CFG.L_CODE 0) 1; { x with jesd := [⟨1, none, List.replicate 8 4, [(1,2),(1,0),(2,500)], false, none, none, none⟩, Jesd.init] })
     let sd : SideId := .stroke
     let ch : Chan := .c0
     let lane : Fin 8 := 1
     let n : Nat := 40
     let x := s.side sd
     let g := x.jesdOf ch
     let lanes := fun (y : Side) (f : Nat → Fld) => y.allLanes ch (f ch.n)
     let y := x.orBit (JESD_STAT.SH_LOCK ch.n) lane.val
     x.laneRuns ch lane.val = true ∧ g.step = 1 ∧ lane.val < x.jesdL ch ∧ lanes y JESD_STAT.SH_LOCK = false) ∧
    (let s : State := on1 (fun x => let x : Side := x.set (JESD_CFG.L_CODE 0) 1; ({ x with jesd := [⟨1, none, List.replicate 8 4, [(1,2),(1,0),(2,500)], false, none, none, none⟩, Jesd.init] } : Side).set (JESD_STAT.SH_LOCK 0) 1)
     let sd : SideId := .stroke
     let ch : Chan := .c0
     let lane : Fin 8 := 1
     let n : Nat := 40
     let x := s.side sd
     let g := x.jesdOf ch
     let lanes := fun (y : Side) (f : Nat → Fld) => y.allLanes ch (f ch.n)
     let y := x.orBit (JESD_STAT.SH_LOCK ch.n) lane.val
     x.laneRuns ch lane.val = true ∧ g.step = 1 ∧ lane.val < x.jesdL ch ∧ lanes y JESD_STAT.SH_LOCK = true ∧ lanes y JESD_STAT.EMB_LOCK = false) ∧
    (let s : State := on1 (fun x => let x : Side := x.set (JESD_CFG.L_CODE 0) 1; (({ x with jesd := [⟨2, none, List.replicate 8 4, [(1,2),(1,0),(2,500)], false, none, none, none⟩, Jesd.init] } : Side).set (JESD_STAT.SH_LOCK 0) 3).set (JESD_STAT.EMB_LOCK 0) 1)
     let sd : SideId := .stroke
     let ch : Chan := .c0
     let lane : Fin 8 := 1
     let n : Nat := 40
     let x := s.side sd
     let g := x.jesdOf ch
     let lanes := fun (y : Side) (f : Nat → Fld) => y.allLanes ch (f ch.n)
     let y := x.orBit (JESD_STAT.EMB_LOCK ch.n) lane.val
     x.laneRuns ch lane.val = true ∧ g.step = 2 ∧ bitAt (x.get (JESD_STAT.SH_LOCK ch.n)) lane.val = true ∧ lanes y JESD_STAT.EMB_LOCK = true) ∧
    (let s : State := on1 (fun x => let x : Side := x.set (JESD_CFG.L_CODE 0) 1; (({ x with jesd := [⟨2, none, List.replicate 8 4, [(1,2),(1,0),(2,500)], false, none, none, none⟩, Jesd.init] } : Side).set (JESD_STAT.SH_LOCK 0) 3))
     let sd : SideId := .stroke
     let ch : Chan := .c0
     let lane : Fin 8 := 1
     let n : Nat := 40
     let x := s.side sd
     let g := x.jesdOf ch
     let lanes := fun (y : Side) (f : Nat → Fld) => y.allLanes ch (f ch.n)
     let y := x.orBit (JESD_STAT.EMB_LOCK ch.n) lane.val
     x.laneRuns ch lane.val = true ∧ g.step = 2 ∧ bitAt (x.get (JESD_STAT.SH_LOCK ch.n)) lane.val = true ∧ lanes y JESD_STAT.EMB_LOCK = false) ∧
    (let s : State := on1 (fun x => let x : Side := x.set (JESD_CFG.L_CODE 0) 1; { x with jesd := [⟨3, none, List.replicate 8 4, [(1,2),(1,0),(2,500)], false, none, none, none⟩, Jesd.init] })
     let sd : SideId := .stroke
     let ch : Chan := .c0
     let n : Nat := 40
     let counts : List Nat := List.replicate 16 n
     let x := s.side sd
     let g := x.jesdOf ch
     g.step = 3 ∧ counts = List.replicate 16 n ∧ n ≠ 0) ∧
    (let s : State := on1 (fun x => let x : Side := x.set (JESD_CFG.L_CODE 0) 1; { x with jesd := [⟨3, none, List.replicate 8 4, [(1,2),(1,0),(2,500)], false, none, none, none⟩, Jesd.init] })
     let sd : SideId := .stroke
     let ch : Chan := .c0
     let counts : List Nat := List.replicate 7 5 ++ [6] ++ List.replicate 8 5
     let x := s.side sd
     let g := x.jesdOf ch
     g.step = 3 ∧ counts.length = 16 ∧ (∃ c ∈ counts, c ≠ lget counts 0 0)) ∧
    (let s : State := on1 (fun x => let x : Side := x.set (JESD_CFG.L_CODE 0) 1; { x with jesd := [⟨4, none, List.replicate 8 4, [(1,2),(1,0),(2,500)], false, none, none, none⟩, Jesd.init] })
     let sd : SideId := .stroke
     let x := s.side sd
     (x.jesdOf .c0).step = 4 ∧ (x.jesdOf .c1).step ≠ 4 ∧ (x.jesdOf .c1).lemc = none) ∧
    (let s : State := on1 (fun x => let x : Side := x.set (JESD_CFG.L_CODE 0) 1; { x with jesd := [⟨5, none, List.replicate 8 4, [(1,2),(1,0),(2,500)], false, none, none, none⟩, Jesd.init] })
     let sd : SideId := .stroke
     let ch : Chan := .c0
     let x := s.side sd
     let g := x.jesdOf ch
     g.step = 5 ∧ g.outage = false) ∧
    (let s : State := on1 (fun x => let x : Side := x.set (JESD_CFG.L_CODE 0) 1; { x with jesd := [⟨5, none, List.replicate 8 4, [(1,2),(1,0),(2,500)], true, none, none, none⟩, Jesd.init] })
     let sd : SideId := .stroke
     let ch : Chan := .c0
     let x := s.side sd
     let g := x.jesdOf ch
     g.step = 5 ∧ g.outage = true) ∧
    (let s : State := on1 (fun x => let x : Side := x.set (JESD_CFG.L_CODE 0) 1; { x with jesd := [⟨4, none, List.replicate 8 4, [(1,2),(1,0),(2,500)], false, none, none, none⟩, Jesd.init] })
     let sd : SideId := .stroke
     let ch : Chan := .c0
     let x := s.side sd
     let g := x.jesdOf ch
     g.step ≠ 5) := by
  refine ⟨?_, ?_, ?_, ?_, ?_, ?_, ?_, ?_, ?_, ?_⟩ <;>
    (dsimp only; decide +kernel)

theorem witness_LinkRunning :
    (let s : State := on1 (fun x => let x : Side := x.set (JESD_CFG.L_CODE 0) 1; { x with jesd := [⟨6, none, List.replicate 8 4, [(1,2),(1,0),(2,500)], false, none, none, none⟩, Jesd.init] })
     let sd : SideId := .stroke
     let ch : Chan := .c0
     let lane : Fin 8 := 1
     let x := s.side sd
     let g := x.jesdOf ch
     x.laneRuns ch lane.val = true ∧ g.step = 6 ∧ lane.val < x.jesdL ch ∧ x.on (FE_STAT.RUNNING ch.n) = false) ∧
    (let s : State := on1 (fun x => let x : Side := x.set (JESD_CFG.L_CODE 0) 1; (({ x with jesd := [⟨6, none, List.replicate 8 4, [(1,2),(1,0),(2,500)], false, none, none, none⟩, Jesd.init] } : Side).set (FE_STAT.RUNNING 0) 1).setFe .c0 { FrontEnd.init with j := 5000 })
     let sd : SideId := .stroke
     let ch : Chan := .c0
     let lane : Fin 8 := 1
     let x := s.side sd
     let g := x.jesdOf ch
     x.laneRuns ch lane.val = true ∧ g.step = 6 ∧ lane.val < x.jesdL ch ∧ x.on (FE_STAT.RUNNING ch.n) = true) ∧
    (let s : State := on1 (fun x => let x : Side := x.set (JESD_CFG.L_CODE 0) 1; (({ x with jesd := [⟨6, none, List.replicate 8 4, [(1,2),(1,0),(2,500)], false, none, none, none⟩, Jesd.init] } : Side).set (FE_STAT.RUNNING 0) 1).set (JESD_STAT.LINK_UP 0) 1)
     let sd : SideId := .stroke
     let ch : Chan := .c0
     let lane : Fin 8 := 1
     let x := s.side sd
     let g := x.jesdOf ch
     x.laneRuns ch lane.val = true ∧ g.step = 6 ∧ lane.val < x.jesdL ch) ∧
    (let s : State := on1 (fun x => let x : Side := x.set (JESD_CFG.L_CODE 0) 1; { (({ x with jesd := [⟨5, none, List.replicate 8 4, [(1,2),(1,0),(2,500)], true, none, none, none⟩, Jesd.init] } : Side).set (FE_STAT.RUNNING 0) 1).set (JESD_LEMC_INFO.CYCLES 0) 40 with rt := { x.rt with edges := 500 } })
     let sd : SideId := .stroke
     let ch : Chan := .c0
     let x := s.side sd
     let g := x.jesdOf ch
     g.step = 5 ∧ g.outage = true ∧ x.jesd.length = 2) := by
  refine ⟨?_, ?_, ?_, ?_⟩ <;>
    (dsimp only; decide +kernel)

theorem witness_FrontEndChanges :
    (let s : State := on1 (fun x => let x : Side := (x).setFe .c0 { FrontEnd.init with starting := true, block := [wordN (2 ^ 35 + 5 * 2 ^ 29 + 10 * 2 ^ 19), 0, 0x123456, 0, 5], force := [wordN (2 ^ 35 + 5 * 2 ^ 29 + 10 * 2 ^ 19), 0, 0x123456, 0, 5] }; { x.set (JESD_LEMC_INFO.CYCLES 0) 40 with rt := { x.rt with edges := 44 }, jesd := [{ Jesd.init with lemc := some 4, step := 6 }, Jesd.init] })
     let sd : SideId := .stroke
     let ch : Chan := .c0
     let x := s.side sd
     let fe := x.feOf ch
     let quiet := ∀ d ∈ x.host.staged, d.running = false
     quiet ∧ fe.starting = true ∧ x.atLemc ch = true ∧ x.fe.length = 2 ∧ x.jesd.length = 2) ∧
    (let s : State := on1 (fun x => let x : Side := (x.set (FE_STAT.RUNNING 0) 1).setFe .c0 { FrontEnd.init with j := 5 }; x)
     let sd : SideId := .stroke
     let ch : Chan := .c0
     let x := s.side sd
     let fe := x.feOf ch
     fe.starting = false) ∧
    (let s : State := on1 (fun x => let x : Side := (x.set (FE_STAT.RUNNING 0) 1).setFe .c0 { FrontEnd.init with j := 10, nco := [(10, 77, 99)] }; x)
     let sd : SideId := .stroke
     let ch : Chan := .c0
     let x := s.side sd
     let fe := x.feOf ch
     let quiet := ∀ d ∈ x.host.staged, d.running = false
     let k := 10
     let f := 77
     let p := 99
     quiet ∧ fe.nco = [(k, f, p)] ∧ k ≤ fe.j) ∧
    (let s : State := on1 (fun x => let x : Side := (x.set (FE_STAT.RUNNING 0) 1).setFe .c0 { FrontEnd.init with j := 9, nco := [(10, 77, 99)] }; x)
     let sd : SideId := .stroke
     let ch : Chan := .c0
     let x := s.side sd
     let fe := x.feOf ch
     let quiet := ∀ d ∈ x.host.staged, d.running = false
     let k := 10
     let f := 77
     let p := 99
     quiet ∧ fe.nco = [(k, f, p)] ∧ fe.j < k) ∧
    (let s : State := on1 (fun x => let x : Side := (x.set (FE_STAT.RUNNING 0) 1).setFe .c0 { FrontEnd.init with m := 100, swapPend := some (10, 100), force := [wordN (2 ^ 25 + 10 * 2 ^ 19), 0, 0, 0, 0] }; x)
     let sd : SideId := .stroke
     let ch : Chan := .c0
     let x := s.side sd
     let fe := x.feOf ch
     let k := 10
     let m := 100
     x.on (FE_STAT.RUNNING ch.n) = true ∧ fe.swapPend = some (k, m) ∧ fe.fade = none ∧ m ≤ fe.m ∧ feEqEn fe.force = true) ∧
    (let s : State := on1 (fun x => let x : Side := (x.set (FE_STAT.RUNNING 0) 1).setFe .c0 { FrontEnd.init with m := 100, swapPend := some (10, 100) }; x)
     let sd : SideId := .stroke
     let ch : Chan := .c0
     let x := s.side sd
     let fe := x.feOf ch
     let k := 10
     let m := 100
     x.on (FE_STAT.RUNNING ch.n) = true ∧ fe.swapPend = some (k, m) ∧ fe.fade = none ∧ m ≤ fe.m ∧ feEqEn fe.force = false) ∧
    (let s : State := on1 (fun x => let x : Side := (x.set (FE_STAT.RUNNING 0) 1).setFe .c0 { FrontEnd.init with m := 1124, fade := some ⟨100, 1024, 1⟩ }; x)
     let sd : SideId := .stroke
     let ch : Chan := .c0
     let x := s.side sd
     let fe := x.feOf ch
     let f := (⟨100, 1024, 1⟩ : Fade)
     x.on (FE_STAT.RUNNING ch.n) = true ∧ fe.fade = some f ∧ f.mb + f.k ≤ fe.m) ∧
    (let s : State := on1 (fun x => let x : Side := (x.set (FE_STAT.RUNNING 0) 1).setFe .c0 { FrontEnd.init with m := 1123, fade := some ⟨100, 1024, 1⟩ }; x)
     let sd : SideId := .stroke
     let ch : Chan := .c0
     let x := s.side sd
     let fe := x.feOf ch
     let f := (⟨100, 1024, 1⟩ : Fade)
     x.on (FE_STAT.RUNNING ch.n) = true ∧ fe.fade = some f ∧ fe.m < f.mb + f.k) := by
  refine ⟨?_, ?_, ?_, ?_, ?_, ?_, ?_, ?_⟩ <;>
    (dsimp only; decide +kernel)

theorem witness_AnalysisSamples :
    (let s : State := on1 (fun x => let x : Side := (x.set (FE_STAT.RUNNING 0) 1).setFe .c0 { FrontEnd.init with j := 5 }; x)
     let sd : SideId := .stroke
     let ch : Chan := .c0
     let codes : List ConvCode := [⟨100, 5⟩, ⟨0x7FF, 6⟩, ⟨0x800, 0xFFF⟩, ⟨1, 2⟩]
     let x := s.side sd
     let r := x.feCodes ch codes
     let y := s.setSide sd (r.2.foldl (fun x a => x.spread1 ch a) r.1)
     let z := if s.keel.up then y.mod sd.other (fun w => w.takePartner ch r.2) else y
     x.on (FE_STAT.RUNNING ch.n) = true ∧ (∀ d ∈ (z.side sd).host.staged, d.running = false)) ∧
    (let s : State := rdy
     let sd : SideId := .stroke
     let ch : Chan := .c0
     let x := s.side sd
     x.on (FE_STAT.RUNNING ch.n) = false) ∧
    (let s : State := on1 (fun x => let x : Side := (x.set (FE_STAT.RUNNING 0) 1).setFe .c0 { FrontEnd.init with j := 5 }; x)
     let sd : SideId := .stroke
     let ch : Chan := .c0
     let w : Side := (s.side sd)
     let a : ASmp := (⟨40, 0x12345, smpR 0x12345, true, false, 900⟩ : ASmp)
     let v := w.detect ch a
     v.on (XF_STAT.RUNNING ch.n) = false) ∧
    (let s : State := on1 (fun x => let x : Side := ((x.set (XF_STAT.RUNNING 0) 1).set (FE_STAT.RUNNING 0) 1).setFe .c0 { FrontEnd.init with j := 5 }; x)
     let sd : SideId := .stroke
     let ch : Chan := .c0
     let w : Side := (s.side sd)
     let a : ASmp := (⟨40, 0x12345, smpR 0x12345, true, false, 900⟩ : ASmp)
     let v := w.detect ch a
     v.on (XF_STAT.RUNNING ch.n) = true) ∧
    (let s : State := rdy
     let sd : SideId := .stroke
     let fe : FrontEnd := (s.side sd).feOf .c0
     fe.nco = []) := by
  refine ⟨?_, ?_, ?_, ?_, ?_⟩ <;>
    (dsimp only; decide +kernel)

theorem witness_FrameFlow :
    (let s : State := on1 (fun x => let x : Side := (x.setXf .c1 { Xform.init with flight := [(⟨4, 1, some 1, 0, 0, 0, [1], [smpR 1], 5, 6, false, false, false, false, false⟩ : Frame), (⟨5, 2, some 2, 0, 0, 0, [1], [smpR 1], 5, 6, false, false, false, false, false⟩ : Frame)] }).setFe .c1 { x.feOf .c1 with m0 := 0 }; x)
     let sd : SideId := .stroke
     let ch : Chan := .c1
     let f : Frame := (⟨4, 1, some 1, 0, 0, 0, [1], [smpR 1], 5, 6, false, false, false, false, false⟩ : Frame)
     let r : List Frame := [(⟨5, 2, some 2, 0, 0, 0, [1], [smpR 1], 5, 6, false, false, false, false, false⟩ : Frame)]
     let x := s.side sd
     let xf := x.xfOf ch
     x.pwr.fatal = false ∧ xf.flight = f :: r ∧ f.checked (x.feOf ch).ramWin (x.feOf ch).ramRes = true) ∧
    (let s : State := on1 (fun x => let x : Side := (x.setXf .c1 { Xform.init with flight := [(⟨4, 1, some 1, 0, 0, 0, [1], [(3, 3)], 5, 6, false, false, false, false, false⟩ : Frame), (⟨5, 2, some 2, 0, 0, 0, [1], [(3, 3)], 5, 6, false, false, false, false, false⟩ : Frame)] }).setFe .c1 { x.feOf .c1 with m0 := 0 }; x)
     let sd : SideId := .stroke
     let ch : Chan := .c1
     let f : Frame := (⟨4, 1, some 1, 0, 0, 0, [1], [(3, 3)], 5, 6, false, false, false, false, false⟩ : Frame)
     let r : List Frame := [(⟨5, 2, some 2, 0, 0, 0, [1], [(3, 3)], 5, 6, false, false, false, false, false⟩ : Frame)]
     let x := s.side sd
     let xf := x.xfOf ch
     x.pwr.fatal = false ∧ xf.flight = f :: r ∧ f.checked (x.feOf ch).ramWin (x.feOf ch).ramRes = false) := by
  refine ⟨?_, ?_⟩ <;>
    (dsimp only; decide +kernel)

theorem witness_FrameFlow_open :
    (let s : State := on1 (fun x => let x : Side := (x.setXf .c1 { Xform.init with force := [wordN (6 * 2 ^ 31 + 1 * 2 ^ 29 + 1 * 2 ^ 26), 5], run := true, seats := 3, kNext := 4, buf := (List.range 130).map (fun i => ⟨i + 100, wordN (i * 12345), smpR (wordN (i * 12345)), false, false, i * 1000⟩), flight := [], released := [] }).setFe .c1 { x.feOf .c1 with m0 := 0 }; x)
     let sd : SideId := .stroke
     let ch : Chan := .c1
     let l : List ASmp := (let z := (s.side sd).xfOf ch; takeSamples z.buf (((s.side sd).feOf ch).m0 + z.kNext * 2 ^ (xfLog2N z.force - xfOfCode z.force)) (2 ^ xfLog2N z.force)).getD []
     let x := s.side sd
     let xf := x.xfOf ch
     let p := xfLog2N xf.force
     let hop := 2 ^ (p - xfOfCode xf.force)
     let k := xf.kNext
     let m := (x.feOf ch).m0 + k * hop
     (∀ q, x.jobOf q = .none) ∧ xf.run = true ∧ (∀ d ∈ x.host.staged, d.running = false) ∧ takeSamples xf.buf m (2 ^ p) = some l ∧ x.xf.length = 2) ∧
    (let s : State := rdy
     let sd : SideId := .stroke
     let ch : Chan := .c1
     let x := s.side sd
     let xf := x.xfOf ch
     xf.run = false ∧ (∀ q, x.jobOf q = .none)) := by
  refine ⟨?_, ?_⟩
  · dsimp only
    exact ⟨lget_all _ _ (by decide +kernel), by decide +kernel, by decide +kernel, by decide +kernel, by decide +kernel⟩
  · dsimp only
    exact ⟨by decide +kernel, lget_all _ _ (by decide +kernel)⟩

theorem witness_SeatTrips :
    (let s : State := on1 (fun x => let x : Side := (x.setXf .c1 { Xform.init with flight := [(⟨4, 1, some 2, 0, 0, 0, [1], [smpR 1], 5, 6, false, false, false, false, false⟩ : Frame), (⟨5, 2, some 2, 0, 0, 0, [1], [smpR 1], 5, 6, false, false, false, false, false⟩ : Frame), (⟨6, 0, some 1, 0, 0, 0, [1], [smpR 1], 5, 6, false, false, false, false, false⟩ : Frame)], seats := 3, run := true, kNext := 9 }).setFe .c1 { x.feOf .c1 with m0 := 0 }; ((((x.set (SEAT_STAT.STATE 2) 0).set (SEAT_STAT.CH 2) 1).set (SEAT_STAT.SLOT 2) 1).set (SEAT_STAT.TRIPS 2) 65534))
     let sd : SideId := .stroke
     let trip : SeatTrip := ⟨2, 0, true⟩
     let seat := trip.seat
     let x := s.side sd
     x.seatSt seat.val = 0) ∧
    (let s : State := on1 (fun x => let x : Side := (x.setXf .c1 { Xform.init with flight := [(⟨4, 1, some 2, 0, 0, 0, [1], [smpR 1], 5, 6, false, false, false, false, false⟩ : Frame), (⟨5, 2, some 2, 0, 0, 0, [1], [smpR 1], 5, 6, false, false, false, false, false⟩ : Frame), (⟨6, 0, some 1, 0, 0, 0, [1], [smpR 1], 5, 6, false, false, false, false, false⟩ : Frame)], seats := 3, run := true, kNext := 9 }).setFe .c1 { x.feOf .c1 with m0 := 0 }; (((((x.set (SEAT_STAT.STATE 2) 1).set (SEAT_STAT.CH 2) 1).set (SEAT_STAT.SLOT 2) 1).set (SEAT_STAT.TRIPS 2) 65534)).set (SEAT_STAT.STATE 0) 1)
     let sd : SideId := .stroke
     let trip : SeatTrip := ⟨2, 0, true⟩
     let seat := trip.seat
     let n : Nat := 1
     let r : List Nat := [3,4,5,6,7,8]
     let x := s.side sd
     x.seatSt seat.val = 1 ∧ x.jobOf seat.val = .none ∧ x.spares = n :: r ∧ x.xf.length = 2) ∧
    (let s : State := on1 (fun x => let x : Side := (x.setXf .c1 { Xform.init with flight := [(⟨4, 1, some 2, 0, 0, 0, [1], [smpR 1], 5, 6, false, false, false, false, false⟩ : Frame), (⟨5, 2, some 2, 0, 0, 0, [1], [smpR 1], 5, 6, false, false, false, false, false⟩ : Frame), (⟨6, 0, some 1, 0, 0, 0, [1], [smpR 1], 5, 6, false, false, false, false, false⟩ : Frame)], seats := 3, run := true, kNext := 9 }).setFe .c1 { x.feOf .c1 with m0 := 0 }; (List.range 9).foldl (fun x i => x.set (SEAT_STAT.STATE i) 1) (((((x.set (SEAT_STAT.STATE 2) 1).set (SEAT_STAT.CH 2) 1).set (SEAT_STAT.SLOT 2) 1).set (SEAT_STAT.TRIPS 2) 65534)))
     let sd : SideId := .stroke
     let trip : SeatTrip := ⟨2, 0, true⟩
     let seat := trip.seat
     let x := s.side sd
     x.seatSt seat.val = 1 ∧ x.jobOf seat.val = .none ∧ x.spares = [] ∧ x.mirrorJob = none ∧ x.xf.length = 2) ∧
    (let s : State := on1 (fun x => let x : Side := (x.setXf .c1 { Xform.init with flight := [(⟨4, 1, some 2, 0, 0, 0, [1], [smpR 1], 5, 6, false, false, false, false, false⟩ : Frame), (⟨5, 2, some 2, 0, 0, 0, [1], [smpR 1], 5, 6, false, false, false, false, false⟩ : Frame), (⟨6, 0, some 1, 0, 0, 0, [1], [smpR 1], 5, 6, false, false, false, false, false⟩ : Frame)], seats := 3, run := true, kNext := 9 }).setFe .c1 { x.feOf .c1 with m0 := 0 }; ((((x.set (SEAT_STAT.STATE 2) 5).set (SEAT_STAT.CH 2) 1).set (SEAT_STAT.SLOT 2) 1).set (SEAT_STAT.TRIPS 2) 65534))
     let sd : SideId := .stroke
     let trip : SeatTrip := ⟨2, 0, true⟩
     let seat := trip.seat
     let x := s.side sd
     4 ≤ x.seatSt seat.val) ∧
    (let s : State := on1 (fun x => let x : Side := x.setXf .c1 { Xform.init with flight := [(⟨4, 1, some 2, 0, 0, 0, [1], [smpR 1], 5, 6, false, false, false, false, false⟩ : Frame), (⟨5, 2, some 1, 0, 0, 0, [1], [smpR 1], 5, 6, false, false, false, false, false⟩ : Frame)], seats := 3, run := true, kNext := 9 }; (((((x.set (SEAT_STAT.STATE 2) 1).set (SEAT_STAT.CH 2) 1).set (SEAT_STAT.SLOT 2) 1).set (SEAT_STAT.STATE 1) 1).set (SEAT_STAT.CH 1) 1).set (SEAT_STAT.SLOT 1) 2)
     let sd : SideId := .stroke
     let trip : SeatTrip := ⟨1, 0, false⟩
     let u : SeatTrip := ⟨2, 0, false⟩
     let x := s.side sd
     x.tripKey u < x.tripKey trip) ∧
    (let s : State := on1 (fun x => let x : Side := x.setXf .c1 { Xform.init with flight := [(⟨4, 1, some 2, 0, 0, 0, [1], [smpR 1], 5, 6, false, false, false, false, false⟩ : Frame), (⟨5, 2, some 1, 0, 0, 0, [1], [smpR 1], 5, 6, false, false, false, false, false⟩ : Frame)], seats := 3, run := true, kNext := 9 }; (((((x.set (SEAT_STAT.STATE 2) 1).set (SEAT_STAT.CH 2) 1).set (SEAT_STAT.SLOT 2) 1).set (SEAT_STAT.STATE 1) 1).set (SEAT_STAT.CH 1) 1).set (SEAT_STAT.SLOT 1) 2)
     let sd : SideId := .stroke
     let trip : SeatTrip := ⟨2, 0, false⟩
     let u : SeatTrip := ⟨1, 0, false⟩
     let x := s.side sd
     x.tripKey trip ≤ x.tripKey u) := by
  refine ⟨?_, ?_, ?_, ?_, ?_, ?_⟩ <;>
    (dsimp only; decide +kernel)

theorem witness_SeatRepairs :
    (let s : State := on1 (fun x => let x : Side := (x.setXf .c1 { Xform.init with seats := 3, run := true, kNext := 19 }).setFe .c1 { x.feOf .c1 with m0 := 0 }; let x : Side := (x.set (SEAT_STAT.STATE 5) 3).set (XF_STAT.SEATS 1) 3; { x.setJob 2 (.retire 5 4 1 1 false .stroke 4) with host := { x.host with staged := [(⟨4, .stroke, 2, 0x40, (⟨head0 7 0 0 0, 0, 0, 0, 0, 0, 0, 0⟩ : CmdEntry), [], .now, 500, false, true, [], [500, 0]⟩ : Staged)] } })
     let sd : SideId := .stroke
     let seat : Fin 9 := 2
     let n : Nat := 5
     let km : Nat := 4
     let slot : Nat := 1
     let id : Nat := 4
     let ch : Chan := .c1
     let st : Staged := (⟨4, .stroke, 2, 0x40, (⟨head0 7 0 0 0, 0, 0, 0, 0, 0, 0, 0⟩ : CmdEntry), [], .now, 500, false, true, [], [500, 0]⟩ : Staged)
     let x := s.side sd
     let turn := x.slotTurn ch slot
     x.jobOf seat.val = .retire n km ch.n slot false sd id ∧ x.cmdOf sd id = some st ∧ km + 2 * turn ≤ x.nextIn ch slot ∧ x.seatSt n = 3 ∧ n < 9 ∧ n ≠ seat.val ∧ x.seatJob.length = 9) ∧
    (let s : State := on1 (fun x => let x : Side := (x.setXf .c1 { Xform.init with seats := 3, run := true, kNext := 5 }).setFe .c1 { x.feOf .c1 with m0 := 0 }; let x : Side := (x.set (SEAT_STAT.STATE 5) 3).set (XF_STAT.SEATS 1) 3; { x.setJob 2 (.retire 5 4 1 1 false .stroke 4) with host := { x.host with staged := [(⟨4, .stroke, 2, 0x40, (⟨head0 7 0 0 0, 0, 0, 0, 0, 0, 0, 0⟩ : CmdEntry), [], .now, 500, false, true, [], [500, 0]⟩ : Staged)] } })
     let sd : SideId := .stroke
     let seat : Fin 9 := 2
     let n : Nat := 5
     let km : Nat := 4
     let slot : Nat := 1
     let id : Nat := 4
     let ch : Chan := .c1
     let st : Staged := (⟨4, .stroke, 2, 0x40, (⟨head0 7 0 0 0, 0, 0, 0, 0, 0, 0, 0⟩ : CmdEntry), [], .now, 500, false, true, [], [500, 0]⟩ : Staged)
     let x := s.side sd
     let turn := x.slotTurn ch slot
     x.jobOf seat.val = .retire n km ch.n slot false sd id ∧ x.nextIn ch slot < km + 2 * turn) ∧
    (let s : State := on1 (fun x => let x : Side := (x.setXf .c1 Xform.init).setFe .c1 { x.feOf .c1 with m0 := 0 }; { x.setJob 2 (.return 4) with host := { x.host with staged := [(⟨4, .stroke, 2, 0x41, (⟨head0 7 0 0 0, 0, 0, 0, (BitVec.ofNat 64 (srcOf 1 2 0)), 0, 0, 0⟩ : CmdEntry), [], .now, 500, false, true, [], [500, 0]⟩ : Staged)] } })
     let sd : SideId := .stroke
     let seat : Fin 9 := 2
     let id : Nat := 4
     let st : Staged := (⟨4, .stroke, 2, 0x41, (⟨head0 7 0 0 0, 0, 0, 0, (BitVec.ofNat 64 (srcOf 1 2 0)), 0, 0, 0⟩ : CmdEntry), [], .now, 500, false, true, [], [500, 0]⟩ : Staged)
     let x := s.side sd
     x.jobOf seat.val = .return id ∧ (x.runningCmd 0x41 (fun c => c.id == id && seatOfSrc (c.e.op4 % 65536) == some seat.val) = some st)) := by
  refine ⟨?_, ?_, ?_⟩ <;>
    (dsimp only; decide +kernel)

theorem witness_SpectralFrames :
    (let s : State := on1 (fun x => let x : Side := (x.setXf .c1 { Xform.init with released := [(⟨4, 0, 0, 0, 3, [(500, -3)], [(residue 500, residue (-3))], 5, 700, false, false, false, false⟩ : Bins), (⟨5, 0, 0, 0, 3, [(500, -3)], [(residue 500, residue (-3))], 5, 700, false, false, false, false⟩ : Bins)] }).setFe .c1 { x.feOf .c1 with m0 := 0 }; x)
     let sd : SideId := .stroke
     let ch : Chan := .c1
     let f : Bins := (⟨4, 0, 0, 0, 3, [(500, -3)], [(residue 500, residue (-3))], 5, 700, false, false, false, false⟩ : Bins)
     let rest : List Bins := [(⟨5, 0, 0, 0, 3, [(500, -3)], [(residue 500, residue (-3))], 5, 700, false, false, false, false⟩ : Bins)]
     let x := s.side sd
     let xf := x.xfOf ch
     let pp := x.ppOf ch
     let void := f.void || (x.on (PP_STAT.RUNNING ch.n) && pp.voidHead)
     let passes := void || ppChecks f.y f.res f.fx (winGain f.win f.p f.gain)
     let quiet := ∀ d ∈ x.host.staged, d.running = false
     quiet ∧ xf.released = f :: rest ∧ x.islTakes (srcOf 2 ch.n 0) = true ∧ passes = true ∧ x.on (PP_STAT.XS_RUNNING ch.n) = false ∧ x.on (PP_STAT.XS_RUNNING ch.other.n) = false ∧ x.on (PP_STAT.RUNNING ch.n) = false) ∧
    (let s : State := on1 (fun x => let x : Side := (x.setXf .c1 { Xform.init with released := [(⟨4, 0, 0, 0, 3, [(500, -3)], [(residue 500, residue (-3))], 5, 700, false, false, false, false⟩ : Bins), (⟨5, 0, 0, 0, 3, [(500, -3)], [(residue 500, residue (-3))], 5, 700, false, false, false, false⟩ : Bins)] }).setFe .c1 { x.feOf .c1 with m0 := 0 }; (x.set (PP_STAT.RUNNING 1) 1).setPp .c1 { Pp.init with fromT := 10 })
     let sd : SideId := .stroke
     let ch : Chan := .c1
     let f : Bins := (⟨4, 0, 0, 0, 3, [(500, -3)], [(residue 500, residue (-3))], 5, 700, false, false, false, false⟩ : Bins)
     let rest : List Bins := [(⟨5, 0, 0, 0, 3, [(500, -3)], [(residue 500, residue (-3))], 5, 700, false, false, false, false⟩ : Bins)]
     let x := s.side sd
     let xf := x.xfOf ch
     let pp := x.ppOf ch
     let void := f.void || (x.on (PP_STAT.RUNNING ch.n) && pp.voidHead)
     let passes := void || ppChecks f.y f.res f.fx (winGain f.win f.p f.gain)
     let quiet := ∀ d ∈ x.host.staged, d.running = false
     quiet ∧ xf.released = f :: rest ∧ x.islTakes (srcOf 2 ch.n 0) = true ∧ passes = true ∧ x.on (PP_STAT.XS_RUNNING ch.n) = false ∧ x.on (PP_STAT.XS_RUNNING ch.other.n) = false ∧ x.on (PP_STAT.RUNNING ch.n) = true ∧ f.tf < pp.fromT ∧ x.pp.length = 2 ∧ (x.acqOf ch).armed = none) ∧
    (let s : State := on1 (fun x => let x : Side := (x.setXf .c1 { Xform.init with released := [(⟨4, 0, 0, 0, 3, [(500, -3)], [(0, 0)], 5, 700, false, false, false, false⟩ : Bins), (⟨5, 0, 0, 0, 3, [(500, -3)], [(0, 0)], 5, 700, false, false, false, false⟩ : Bins)] }).setFe .c1 { x.feOf .c1 with m0 := 0 }; x)
     let sd : SideId := .stroke
     let ch : Chan := .c1
     let f : Bins := (⟨4, 0, 0, 0, 3, [(500, -3)], [(0, 0)], 5, 700, false, false, false, false⟩ : Bins)
     let rest : List Bins := [(⟨5, 0, 0, 0, 3, [(500, -3)], [(0, 0)], 5, 700, false, false, false, false⟩ : Bins)]
     let x := s.side sd
     let xf := x.xfOf ch
     let pp := x.ppOf ch
     let void := f.void || (x.on (PP_STAT.RUNNING ch.n) && pp.voidHead)
     let passes := void || ppChecks f.y f.res f.fx (winGain f.win f.p f.gain)
     xf.released = f :: rest ∧ x.islTakes (srcOf 2 ch.n 0) = true ∧ passes = false) ∧
    (let s : State := on1 (fun x => let x : Side := (x.setXf .c1 { Xform.init with released := [(⟨4, 0, 0, 0, 3, [(500, -3)], [(residue 500, residue (-3))], 5, 700, false, false, false, false⟩ : Bins), (⟨5, 0, 0, 0, 3, [(500, -3)], [(residue 500, residue (-3))], 5, 700, false, false, false, false⟩ : Bins)] }).setFe .c1 { x.feOf .c1 with m0 := 0 }; x.setIsl (srcOf 2 1 0) (some ⟨.quiesced, false, 0⟩))
     let sd : SideId := .stroke
     let ch : Chan := .c1
     let x := s.side sd
     x.islTakes (srcOf 2 ch.n 0) = false) ∧
    (let s : State := on1 (fun x => let x : Side := (x.setXf .c1 { Xform.init with released := [(⟨4, 0, 0, 0, 3, [(500, -3)], [(residue 500, residue (-3))], 5, 700, false, false, false, false⟩ : Bins), (⟨5, 0, 0, 0, 3, [(500, -3)], [(residue 500, residue (-3))], 5, 700, false, false, false, false⟩ : Bins)] }).setFe .c1 { x.feOf .c1 with m0 := 0 }; x.set (PP_STAT.RUNNING 1) 1)
     let sd : SideId := .stroke
     let ch : Chan := .c1
     let f : Bins := (⟨4, 0, 0, 0, 3, [(500, -3)], [(residue 500, residue (-3))], 5, 700, false, false, false, false⟩ : Bins)
     let rest : List Bins := [(⟨5, 0, 0, 0, 3, [(500, -3)], [(residue 500, residue (-3))], 5, 700, false, false, false, false⟩ : Bins)]
     let x := s.side sd
     let xf := x.xfOf ch
     let pp := x.ppOf ch
     let void := f.void || (x.on (PP_STAT.RUNNING ch.n) && pp.voidHead)
     xf.released = f :: rest ∧ x.on (PP_STAT.RUNNING ch.n) = true ∧ x.get FAULT_INJ.MODE = 0 ∧ f.void = false ∧ pp.voidHead = false) ∧
    (let s : State := on1 (fun x => let x : Side := (x.setXf .c1 { Xform.init with released := [(⟨4, 0, 0, 0, 3, [(500, -3)], [(residue 500, residue (-3))], 5, 700, false, false, false, false⟩ : Bins), (⟨5, 0, 0, 0, 3, [(500, -3)], [(residue 500, residue (-3))], 5, 700, false, false, false, false⟩ : Bins)] }).setFe .c1 { x.feOf .c1 with m0 := 0 }; x.set (PP_STAT.RUNNING 1) 1)
     let sd : SideId := .stroke
     let ch : Chan := .c1
     let f : Bins := (⟨4, 0, 0, 0, 3, [(500, -3)], [(residue 500, residue (-3))], 5, 700, false, false, false, false⟩ : Bins)
     let rest : List Bins := [(⟨5, 0, 0, 0, 3, [(500, -3)], [(residue 500, residue (-3))], 5, 700, false, false, false, false⟩ : Bins)]
     let x := s.side sd
     let xf := x.xfOf ch
     xf.released = f :: rest ∧ x.on (PP_STAT.RUNNING ch.n) = true ∧ x.get FAULT_INJ.MODE = 0) ∧
    (let s : State := on1 (fun x => { x.setPp .c1 { Pp.init with swaps := [⟨2, 0, .stroke, 4⟩] } with host := { x.host with staged := [(⟨4, .stroke, 2, 0x03, (⟨head0 7 0 0 0, 0, 0, 0, 0, 0, 0, 0⟩ : CmdEntry), [1,2,3], .now, 500, false, true, [], [500, 0]⟩ : Staged)] } })
     let sd : SideId := .stroke
     let ch : Chan := .c1
     let k : Fin 4 := 2
     let x := s.side sd
     let pp := x.ppOf ch
     let w := (⟨2, 0, .stroke, 4⟩ : MaskSwap)
     let st := (⟨4, .stroke, 2, 0x03, (⟨head0 7 0 0 0, 0, 0, 0, 0, 0, 0, 0⟩ : CmdEntry), [1,2,3], .now, 500, false, true, [], [500, 0]⟩ : Staged)
     x.pp.length = 2 ∧ pp.swaps = [w] ∧ w.mask = k.val ∧ x.cmdOf w.issuer w.id = some st) ∧
    (let s : State := on1 (fun x => { x.setPp .c1 { Pp.init with spg := [(⟨3, 0x100, [5, 6, 7]⟩ : SpgLine), (⟨3, 0x100, [5, 6, 7]⟩ : SpgLine)] } with dram := { x.dram with extent := 1024 } })
     let sd : SideId := .stroke
     let ch : Chan := .c1
     let x := s.side sd
     let pp := x.ppOf ch
     let l := (⟨3, 0x100, [5, 6, 7]⟩ : SpgLine)
     let r := [(⟨3, 0x100, [5, 6, 7]⟩ : SpgLine)]
     pp.spg = l :: r ∧ l.addr + l.words.length ≤ x.dram.extent) ∧
    (let s : State := on1 (fun x => { x.setPp .c1 { Pp.init with spg := [(⟨3, 0x100, [5, 6, 7]⟩ : SpgLine), (⟨3, 0x100, [5, 6, 7]⟩ : SpgLine)] } with dram := { x.dram with extent := 0x102 } })
     let sd : SideId := .stroke
     let ch : Chan := .c1
     let x := s.side sd
     let pp := x.ppOf ch
     let l := (⟨3, 0x100, [5, 6, 7]⟩ : SpgLine)
     let r := [(⟨3, 0x100, [5, 6, 7]⟩ : SpgLine)]
     pp.spg = l :: r ∧ x.dram.extent < l.addr + l.words.length) ∧
    (let s : State := on1 (fun x => { x.setPp .c1 { Pp.init with spg := [(⟨3, 0x100, [5, 6, 7]⟩ : SpgLine), (⟨3, 0x100, [5, 6, 7]⟩ : SpgLine)] } with dram := { x.dram with extent := 1024 } })
     let sd : SideId := .stroke
     let ch : Chan := .c1
     let x := s.side sd
     let pp := x.ppOf ch
     let l := (⟨3, 0x100, [5, 6, 7]⟩ : SpgLine)
     let r := [(⟨3, 0x100, [5, 6, 7]⟩ : SpgLine)]
     pp.spg = l :: r) ∧
    (let s : State := on1 (fun x => (x.setPp .c1 { Pp.init with block := (lset spectralReset 0 (wordN (2 ^ 16 + 2 ^ 15))), xs := { XSpec.init with flight := [(⟨4, 1, some 1, 0, 0, 0, [1], [smpR 1], 5, 6, false, false, false, false, false⟩ : Frame)] } }).set (PP_STAT.XS_RUNNING 1) 1)
     let sd : SideId := .stroke
     let ch : Chan := .c1
     let x := s.side sd
     let pp := x.ppOf ch
     let g : Frame := (⟨4, 1, some 1, 0, 0, 0, [1], [smpR 1], 5, 6, false, false, false, false, false⟩ : Frame)
     let r : List Frame := []
     x.pwr.fatal = false ∧ x.on (PP_STAT.XS_RUNNING ch.n) = true ∧ ppXsRemote pp.block = true ∧ pp.xs.flight = g :: r ∧ g.checked (x.feOf ch).ramWin (x.feOf ch).ramRes = true) := by
  refine ⟨?_, ?_, ?_, ?_, ?_, ?_, ?_, ?_, ?_, ?_, ?_⟩ <;>
    (dsimp only; decide +kernel)

theorem witness_SpectralFrames_open :
    (let s : State := rdy.mod .stroke (fun x => let x : Side := (x.setXf .c1 { Xform.init with force := [0, 0], run := true, seats := 1 }).setPp .c1 { Pp.init with block := (lset spectralReset 0 (wordN (2 ^ 16 + 2 ^ 15))), xs := { XSpec.init with slots := 1, rx := [(⟨50, 0x123456, smpR 0x123456, false, false, 50000⟩ : ASmp), (⟨51, 0x123456, smpR 0x123456, false, false, 51000⟩ : ASmp), (⟨52, 0x123456, smpR 0x123456, false, false, 52000⟩ : ASmp)], nextK := 50 } }
  ((((x.set (PP_STAT.XS_RUNNING 1) 1).set (XF_STAT.SEATS 1) 1).set (SEAT_STAT.STATE 5) 1).set (SEAT_STAT.CH 5) 1).set (SEAT_STAT.SLOT 5) 1)
     let sd : SideId := .stroke
     let ch : Chan := .c1
     let x := s.side sd
     let xf := x.xfOf ch
     let pp := x.ppOf ch
     let p := x.xsPartner ch pp.block
     let m0 := ((s.side p.1).feOf p.2).m0
     let n := xfLog2N xf.force
     let hop := 2 ^ (n - xfOfCode xf.force)
     let a := (lget pp.xs.rx 0 (⟨0, 0x123456, smpR 0x123456, false, false, 0⟩ : ASmp))
     let r := pp.xs.rx.drop 1
     let k := max pp.xs.nextK ((a.m - m0 + hop - 1) / hop)
     let l := (takeSamples pp.xs.rx (m0 + k * hop) (2 ^ n)).getD []
     x.pwr.fatal = false ∧ x.on (PP_STAT.XS_RUNNING ch.n) = true ∧ ppXsRemote pp.block = true ∧ pp.xs.rx = a :: r ∧ takeSamples pp.xs.rx (m0 + k * hop) (2 ^ n) = some l ∧ (∀ q, x.jobOf q = .none) ∧ xf.marked = [] ∧ x.pp.length = 2) := by
  dsimp only
  exact ⟨by decide +kernel, by decide +kernel, by decide +kernel, by decide +kernel, by decide +kernel,
    lget_all _ _ (by decide +kernel), by decide +kernel, by decide +kernel⟩

theorem witness_DensityAndCopies :
    (let s : State := on1 (fun x => let x := (x.set HOST_STAT.LINK_UP 1); { x with host := { x.host with staged := [(⟨4, .stroke, 2, 0x23, (⟨head0 7 0 0 0, 0, 0, 0, (BitVec.ofNat 64 (srcOf 2 1 0 + 2 * 2 ^ 16)), 0, 65536, 0⟩ : CmdEntry), [], .now, 500, false, true, [], [500, 1, 7, 4, 0x100]⟩ : Staged)] } })
     let sd : SideId := .stroke
     let st : Staged := (⟨4, .stroke, 2, 0x23, (⟨head0 7 0 0 0, 0, 0, 0, (BitVec.ofNat 64 (srcOf 2 1 0 + 2 * 2 ^ 16)), 0, 65536, 0⟩ : CmdEntry), [], .now, 500, false, true, [], [500, 1, 7, 4, 0x100]⟩ : Staged)
     let x := s.side sd
     x.host.staged = [st] ∧ st.op = 0x23 ∧ st.running = true ∧ 0 ≤ lget st.aux 1 (-1) ∧ s.dmaWorks sd = true) ∧
    (let s : State := on1 (fun x => let x : Side := (((x.set (DENS_STAT.RUNNING 1) 1).set (DENS_STAT.TH 1) 2) : Side).setDens .c1 { Dens.init with queue := [(⟨5, [5], 5, 700, false, false, false⟩ : DFrame), (⟨9, [5], 5, 700, false, false, false⟩ : DFrame)], period := 3, force := [wordN (2^35 + 5 * 2 ^ 29 + 256 * 2 ^ 20), 0, wordN (1000000 * 2 ^ 0), 5000] }; x)
     let sd : SideId := .stroke
     let ch : Chan := .c1
     let f : DFrame := (⟨5, [5], 5, 700, false, false, false⟩ : DFrame)
     let rest : List DFrame := [(⟨9, [5], 5, 700, false, false, false⟩ : DFrame)]
     let x := s.side sd
     let d := x.densOf ch
     x.on (DENS_STAT.RUNNING ch.n) = true ∧ x.islTakes (srcOf 2 (2 + ch.n) 0) = true ∧ d.queue = f :: rest ∧ d.period ≠ 0 ∧ ({ d with queue := rest } : Dens).ended f.tl = false ∧ x.dens.length = 2 ∧ f.k % max 1 (x.get (DENS_STAT.TH ch.n)) ≠ 0) ∧
    (let s : State := on1 (fun x => let x : Side := (((x.set (DENS_STAT.RUNNING 1) 1).set (DENS_STAT.TH 1) 2) : Side).setDens .c1 { Dens.init with queue := [(⟨4, [5], 5, 700, true, false, false⟩ : DFrame), (⟨9, [5], 5, 700, false, false, false⟩ : DFrame)], period := 3, force := [wordN (2^35 + 5 * 2 ^ 29 + 256 * 2 ^ 20), 0, wordN (1000000 * 2 ^ 0), 5000] }; x)
     let sd : SideId := .stroke
     let ch : Chan := .c1
     let f : DFrame := (⟨4, [5], 5, 700, true, false, false⟩ : DFrame)
     let rest : List DFrame := [(⟨9, [5], 5, 700, false, false, false⟩ : DFrame)]
     let x := s.side sd
     let d := x.densOf ch
     x.on (DENS_STAT.RUNNING ch.n) = true ∧ x.islTakes (srcOf 2 (2 + ch.n) 0) = true ∧ d.queue = f :: rest ∧ d.period ≠ 0 ∧ ({ d with queue := rest } : Dens).ended f.tl = false ∧ x.dens.length = 2 ∧ f.k % max 1 (x.get (DENS_STAT.TH ch.n)) = 0 ∧ f.void = true) ∧
    (let s : State := on1 (fun x => let x : Side := (((x.set (DENS_STAT.RUNNING 1) 1).set (DENS_STAT.TH 1) 2) : Side).setDens .c1 { Dens.init with queue := [(⟨4, [5], 5, 700, false, false, false⟩ : DFrame), (⟨9, [5], 5, 700, false, false, false⟩ : DFrame)], period := 3, force := [wordN (2^35 + 5 * 2 ^ 29 + 256 * 2 ^ 20), 0, wordN (1000000 * 2 ^ 0), 5000] }; x)
     let sd : SideId := .stroke
     let ch : Chan := .c1
     let f : DFrame := (⟨4, [5], 5, 700, false, false, false⟩ : DFrame)
     let rest : List DFrame := [(⟨9, [5], 5, 700, false, false, false⟩ : DFrame)]
     let x := s.side sd
     let d := x.densOf ch
     x.on (DENS_STAT.RUNNING ch.n) = true ∧ x.islTakes (srcOf 2 (2 + ch.n) 0) = true ∧ d.queue = f :: rest ∧ d.period ≠ 0 ∧ ({ d with queue := rest } : Dens).ended f.tl = false ∧ x.dens.length = 2 ∧ f.k % max 1 (x.get (DENS_STAT.TH ch.n)) = 0 ∧ f.void = false) ∧
    (let s : State := on1 (fun x => (x.set (DENS_STAT.RUNNING 1) 1).setIsl (srcOf 2 3 0) (some ⟨.quiesced, false, 0⟩))
     let sd : SideId := .stroke
     let ch : Chan := .c1
     let x := s.side sd
     x.on (DENS_STAT.RUNNING ch.n) = true ∧ x.islTakes (srcOf 2 (2 + ch.n) 0) = false) ∧
    (let s : State := on1 (fun x => let x : Side := (x.set (DENS_SEQ.SEQ 1) 5).setDens .c1 { Dens.init with held := 1, hdr := [1,2,3,4,5,6,7,8] }; { x with host := { x.host with staged := [(⟨4, .stroke, 2, 0x22, (⟨head0 7 0 0 0, 0, 0, 0, (BitVec.ofNat 64 (srcOf 2 3 0 + 2 ^ 20)), 0, 65536, 0⟩ : CmdEntry), [], .now, 500, false, true, [], [500, 1]⟩ : Staged)] } })
     let sd : SideId := .stroke
     let ch : Chan := .c1
     let st : Staged := (⟨4, .stroke, 2, 0x22, (⟨head0 7 0 0 0, 0, 0, 0, (BitVec.ofNat 64 (srcOf 2 3 0 + 2 ^ 20)), 0, 65536, 0⟩ : CmdEntry), [], .now, 500, false, true, [], [500, 1]⟩ : Staged)
     let x := s.side sd
     let d := x.densOf ch
     d.copy = none ∧ x.densReads ch = [st] ∧ lget st.aux 1 0 = 1 ∧ (st.densWait = true ∨ x.get (DENS_SEQ.SEQ ch.n) ≠ 0)) ∧
    (let s : State := on1 (fun x => let x : Side := (x.set HOST_STAT.LINK_UP 1).setDens .c1 { Dens.init with copy := some ⟨.stroke, 4, [1,2,3,4,5,6,7,8], 1, some [(0, 5)]⟩ }; { x with host := { x.host with staged := [(⟨4, .stroke, 2, 0x22, (⟨head0 7 0 0 0, 0, 0, 0, (BitVec.ofNat 64 (srcOf 2 3 0 + 2 ^ 20)), 0, 65536, 0⟩ : CmdEntry), [], .now, 500, false, true, [], [500, 1]⟩ : Staged)] } })
     let sd : SideId := .stroke
     let ch : Chan := .c1
     let st : Staged := (⟨4, .stroke, 2, 0x22, (⟨head0 7 0 0 0, 0, 0, 0, (BitVec.ofNat 64 (srcOf 2 3 0 + 2 ^ 20)), 0, 65536, 0⟩ : CmdEntry), [], .now, 500, false, true, [], [500, 1]⟩ : Staged)
     let x := s.side sd
     let d := x.densOf ch
     let c := d.copy.getD ⟨.stroke, 0, [], 0, none⟩
     let ws := c.cut.getD []
     d.copy = some c ∧ c.cut = some ws ∧ s.dmaWorks sd = true ∧ x.cmdOf c.issuer c.id = some st) ∧
    (let s : State := on1 (fun x => let x : Side := (x.set HOST_STAT.LINK_UP 1).setDens .c1 { Dens.init with copy := some ⟨.stroke, 4, [1,2,3,4,5,6,7,8], 1, none⟩ }; { x with host := { x.host with staged := [(⟨4, .stroke, 2, 0x22, (⟨head0 7 0 0 0, 0, 0, 0, (BitVec.ofNat 64 (srcOf 2 3 0 + 2 ^ 20)), 0, 65536, 0⟩ : CmdEntry), [], .now, 500, false, true, [], [500, 1]⟩ : Staged)] } })
     let sd : SideId := .stroke
     let ch : Chan := .c1
     let st : Staged := (⟨4, .stroke, 2, 0x22, (⟨head0 7 0 0 0, 0, 0, 0, (BitVec.ofNat 64 (srcOf 2 3 0 + 2 ^ 20)), 0, 65536, 0⟩ : CmdEntry), [], .now, 500, false, true, [], [500, 1]⟩ : Staged)
     let x := s.side sd
     let d := x.densOf ch
     let c := d.copy.getD ⟨.stroke, 0, [], 0, none⟩
     d.copy = some c ∧ c.cut = none ∧ s.dmaWorks sd = true ∧ (x.readPlane ch c.buf).1.cmdOf c.issuer c.id = some st) := by
  refine ⟨?_, ?_, ?_, ?_, ?_, ?_, ?_, ?_⟩ <;>
    (dsimp only; decide +kernel)

theorem witness_RaceTimeCommands :
    (let s : State := on1 (fun x => let x : Side := { x with rt := { x.rt with incPend := some 7654321 } }; x)
     let sd : SideId := .stroke
     let v : Nat := 7654321
     let x := s.side sd
     x.islRuns (srcOf 5 6 0) = true ∧ x.rt.incPend = some v) ∧
    (let s : State := on1 (fun x => x.setIsl (srcOf 5 6 0) (some ⟨.quiesced, false, 0⟩))
     let sd : SideId := .stroke
     let x := s.side sd
     x.islRuns (srcOf 5 6 0) = false) ∧
    (let s : State := on1 (fun x => let x : Side := { x with rt := { x.rt with loadPend := some 7654321, p := 5, f := 7 } }; x)
     let sd : SideId := .stroke
     let v : Nat := 7654321
     let x := s.side sd
     x.islRuns (srcOf 5 6 0) = true ∧ x.rt.loadPend = some v) ∧
    (let s : State := rdy
     let sd : SideId := .stroke
     let x := s.side sd
     x.on PLL_STAT.T_LOCK = false) ∧
    (let s : State := on1 (fun x => let x : Side := { x with rt := { x.rt with edges := 900 } }; { (x.set PLL_STAT.T_LOCK 1).set SPLIT_STAT.INVALID 1 with split := { x.split with tieRun := 0 } })
     let sd : SideId := .stroke
     let x := s.side sd
     x.on PLL_STAT.T_LOCK = true ∧ x.calStaged 0 = [] ∧ x.cal.job = none ∧ (∀ d ∈ x.host.staged, d.op ≠ 0x30 ∧ d.op ≠ 0x31)) ∧
    (let s : State := keelUpSt (on1 (fun x => (x.set KEEL_COX_STAT.COX_HELD 1).setIsl (srcOf 5 6 0) (some ⟨.quiesced, false, 0⟩)))
     let sd : SideId := .stroke
     let x := s.side sd
     s.coxSide = some sd ∧ x.islRuns (srcOf 5 6 0) = false) ∧
    (let s : State := keelUpSt (on1 (fun x => x.set KEEL_COX_STAT.COX_HELD 1))
     let sd : SideId := .stroke
     let x := s.side sd
     s.coxSide = some sd ∧ x.islRuns (srcOf 5 6 0) = true) ∧
    (let s : State := rdy
     s.coxSide = none) ∧
    (let s : State := ({ (rdy) with keel := { rdy.keel with msgs := [(.stroke, .rtSync 500000), (.bow, .rtSync 9)] } } : State)
     let sd : SideId := .stroke
     let t : Nat := 500000
     let rest : List (SideId × KeelMsg) := s.keel.msgs.drop 1
     let x := s.side sd
     s.keel.msgs = (sd, .rtSync t) :: rest ∧ (x.isCrew = false ∨ x.islRuns (srcOf 5 6 0) = false)) ∧
    (let s : State := ({ (on1 (fun x => let x : Side := { x with rt := { x.rt with rta := (500000 + 52777 - 3) * 2^24, syncRun := 63, edges := 500, syncLast := some 400, f := 5 } }; (x.set KEEL_COX_STAT.KEEL_UP 1))) with keel := { rdy.keel with msgs := [(.stroke, .rtSync 500000), (.bow, .rtSync 9)] } } : State)
     let sd : SideId := .stroke
     let t : Nat := 500000
     let rest : List (SideId × KeelMsg) := s.keel.msgs.drop 1
     let x := s.side sd
     s.keel.msgs = (sd, .rtSync t) :: rest ∧ x.isCrew = true ∧ x.islRuns (srcOf 5 6 0) = true) := by
  refine ⟨?_, ?_, ?_, ?_, ?_, ?_, ?_, ?_, ?_, ?_⟩ <;>
    (dsimp only; decide +kernel)

theorem witness_PpsEdges :
    (let s : State := rdy
     let sd : SideId := .stroke
     let fall : Bool := false
     let st : SplitStamp := (⟨5000, 17⟩ : SplitStamp)
     let x := s.side sd
     let takes := x.islRuns (srcOf 5 6 0) && (fall == x.on RT_CTRL.PPS_FALL)
     let rt := x.stampTime (x.splitTime (12 + x.ipOf 6) st)
     (takes = false ∨ x.isCrew = true ∨ (x.on RT_CTRL.DISC_EN = false ∧ x.on RT_SET_SEC.ARM = false) ∨ rt < x.rt.ppsFrom)) ∧
    (let s : State := on1 (fun x => let x : Side := { x with rt := { x.rt with ppsFirst := false } }; { ((((((x.set SPLIT_STAT.INVALID 0 |>.set RT_CTRL.DISC_EN 1).set RT_CTRL.PPS_WIN 100).set RT_CTRL.STEP_EXP 16).set RT_CTRL.KI 10).set RT_CTRL.KP 4).set RT_CTRL.LOCK_TOL 904) with split := { x.split with ties := [⟨20480000 - 20480000, 5 * 2^40 + 200000, 0, 0⟩] } })
     let sd : SideId := .stroke
     let fall : Bool := false
     let st : SplitStamp := (⟨5000, 17⟩ : SplitStamp)
     let x := s.side sd
     let takes := x.islRuns (srcOf 5 6 0) && (fall == x.on RT_CTRL.PPS_FALL)
     let rt := x.stampTime (x.splitTime (12 + x.ipOf 6) st)
     let u : Int := (rt : Int) - x.getS PPS_OFFSET.OFFSET
     let sec := rheP u 40
     let e := u - sec * 2 ^ 40
     let inWin := e.natAbs ≤ x.get RT_CTRL.PPS_WIN * 2 ^ 10
     takes = true ∧ x.isCrew = false ∧ x.on RT_CTRL.DISC_EN = true ∧ x.on RT_SET_SEC.ARM = false ∧ x.rt.ppsFrom ≤ rt ∧ x.rt.ppsFirst = false ∧ ¬inWin) ∧
    (let s : State := on1 (fun x => let x : Side := { x with rt := { x.rt with ppsFirst := false, lockRun := 7, ppsLast := some 5, edges := 50 } }; { ((((((x.set SPLIT_STAT.INVALID 0 |>.set RT_CTRL.DISC_EN 1).set RT_CTRL.PPS_WIN 100).set RT_CTRL.STEP_EXP 16).set RT_CTRL.KI 10).set RT_CTRL.KP 4).set RT_CTRL.LOCK_TOL 904) with split := { x.split with ties := [⟨20480000 - 20480000, 5 * 2^40 + 300, 0, 0⟩] } })
     let sd : SideId := .stroke
     let fall : Bool := false
     let st : SplitStamp := (⟨5000, 17⟩ : SplitStamp)
     let x := s.side sd
     let takes := x.islRuns (srcOf 5 6 0) && (fall == x.on RT_CTRL.PPS_FALL)
     let rt := x.stampTime (x.splitTime (12 + x.ipOf 6) st)
     let u : Int := (rt : Int) - x.getS PPS_OFFSET.OFFSET
     let sec := rheP u 40
     let e := u - sec * 2 ^ 40
     let inWin := e.natAbs ≤ x.get RT_CTRL.PPS_WIN * 2 ^ 10
     takes = true ∧ x.isCrew = false ∧ x.on RT_CTRL.DISC_EN = true ∧ x.on RT_SET_SEC.ARM = false ∧ x.rt.ppsFrom ≤ rt ∧ (inWin ∨ x.rt.ppsFirst = true)) ∧
    (let s : State := on1 (fun x => let x : Side := { x with rt := { x.rt with ppsFirst := false, rta := 9 * 2^60 } }; { (((((((((x.set SPLIT_STAT.INVALID 0 |>.set RT_CTRL.DISC_EN 1).set RT_CTRL.PPS_WIN 100).set RT_CTRL.STEP_EXP 16).set RT_CTRL.KI 10).set RT_CTRL.KP 4).set RT_CTRL.LOCK_TOL 904)).set RT_CTRL.DISC_EN 0).set RT_SET_SEC.ARM 1).set RT_SET_SEC.SEC 77 with split := { x.split with ties := [⟨20480000 - 20480000, 5 * 2^40 + 0, 0, 0⟩] } })
     let sd : SideId := .stroke
     let fall : Bool := false
     let st : SplitStamp := (⟨5000, 17⟩ : SplitStamp)
     let x := s.side sd
     let takes := x.islRuns (srcOf 5 6 0) && (fall == x.on RT_CTRL.PPS_FALL)
     let rt := x.stampTime (x.splitTime (12 + x.ipOf 6) st)
     takes = true ∧ x.isCrew = false ∧ x.on RT_CTRL.DISC_EN = false ∧ x.on RT_SET_SEC.ARM = true ∧ x.rt.ppsFrom ≤ rt) ∧
    (let s : State := on1 (fun x => let x : Side := { x with rt := { x.rt with ppsFirst := false, p := 6, lockRun := 4, ppsLast := some 8 } }; { ((((((x.set SPLIT_STAT.INVALID 0 |>.set RT_CTRL.DISC_EN 1).set RT_CTRL.PPS_WIN 100).set RT_CTRL.STEP_EXP 16).set RT_CTRL.KI 10).set RT_CTRL.KP 4).set RT_CTRL.LOCK_TOL 904) with split := { x.split with ties := [⟨20480000 - 20480000, 5 * 2^40 + 0, 0, 0⟩] } })
     let sd : SideId := .stroke
     let x := s.side sd
     x.isCrew = false ∧ x.on RT_CTRL.DISC_EN = true ∧ x.islRuns (srcOf 5 6 0) = true) ∧
    (let s : State := rdy
     let sd : SideId := .stroke
     let x := s.side sd
     (x.isCrew = true ∨ x.on RT_CTRL.DISC_EN = false ∨ x.islRuns (srcOf 5 6 0) = false)) := by
  refine ⟨?_, ?_, ?_, ?_, ?_, ?_⟩ <;>
    (dsimp only; decide +kernel)

theorem witness_SplitMeasurements :
    (let s : State := on1 (fun x => let x : Side := x.set SPLIT_STAT.INVALID 0; let x : Side := ((x.setPair SPLIT_BASE_LO.whole.idx (2^23 + 64)).set SPLIT_RING_CFG.LOG2LEN 6).set SPLIT_WP.WP 5000; { x with split := { x.split with meas := none, ties := [⟨20480000, 1099511632776, 0, 0⟩] } })
     let sd : SideId := .stroke
     let x := s.side sd
     let len := 2 ^ log2Len (x.get SPLIT_RING_CFG.LOG2LEN)
     let wp := x.get SPLIT_WP.WP
     let used := (wp + 2 ^ 36 - x.get SPLIT_RP.RP) % 2 ^ 36
     len ≤ used) ∧
    (let s : State := on1 (fun x => let x : Side := x.set SPLIT_STAT.INVALID 0; let x : Side := ((x.setPair SPLIT_BASE_LO.whole.idx (2^23 + 64)).set SPLIT_RING_CFG.LOG2LEN 6); { x with split := { x.split with meas := none, ties := [⟨20480000, 1099511632776, 0, 0⟩] } })
     let sd : SideId := .stroke
     let x := s.side sd
     let len := 2 ^ log2Len (x.get SPLIT_RING_CFG.LOG2LEN)
     let wp := x.get SPLIT_WP.WP
     let base := x.pair SPLIT_BASE_LO.whole.idx
     let used := (wp + 2 ^ 36 - x.get SPLIT_RP.RP) % 2 ^ 36
     used < len ∧ x.on SPLIT_RING_CFG.HOST = false ∧ 2 ^ 23 ≤ base ∧ base + 4 * len ≤ 2 ^ 24) ∧
    (let s : State := on1 (fun x => let x : Side := x.set SPLIT_STAT.INVALID 0; let x : Side := ((((x.set (SPLIT_IN_CFG.SLOPE 2) 2).set (SPLIT_IN_CFG.START 2) 1).set (SPLIT_IN_CFG.STOP 2) 1).set SPLIT_MEAS_CFG.MEAS_EN 1).set SPLIT_MEAS_CFG.NSTOP_M1 3 |>.set SPLIT_WINDOW.WINDOW 5000; { x with split := { x.split with meas := none, ties := [⟨20480000, 1099511632776, 0, 0⟩] } })
     let sd : SideId := .stroke
     let src : Fin 4 := 2
     let fall : Bool := false
     let x := s.side sd
     let slope := x.get (SPLIT_IN_CFG.SLOPE src.val)
     let admitted := if fall then 2 ≤ slope else slope % 2 = 1
     ¬admitted) ∧
    (let s : State := on1 (fun x => let x : Side := x.set SPLIT_STAT.INVALID 0; let x : Side := ((((x.set (SPLIT_IN_CFG.SLOPE 2) 1).set (SPLIT_IN_CFG.START 2) 1).set (SPLIT_IN_CFG.STOP 2) 1).set SPLIT_MEAS_CFG.MEAS_EN 0).set SPLIT_MEAS_CFG.NSTOP_M1 3 |>.set SPLIT_WINDOW.WINDOW 5000; { x with split := { x.split with meas := none, ties := [⟨20480000, 1099511632776, 0, 0⟩] } })
     let sd : SideId := .stroke
     let src : Fin 4 := 2
     let fall : Bool := false
     let x := s.side sd
     let slope := x.get (SPLIT_IN_CFG.SLOPE src.val)
     let admitted := if fall then 2 ≤ slope else slope % 2 = 1
     admitted ∧ x.on SPLIT_MEAS_CFG.MEAS_EN = false) ∧
    (let s : State := on1 (fun x => let x : Side := x.set SPLIT_STAT.INVALID 0; let x : Side := ((((x.set (SPLIT_IN_CFG.SLOPE 2) 3).set (SPLIT_IN_CFG.START 2) 1).set (SPLIT_IN_CFG.STOP 2) 1).set SPLIT_MEAS_CFG.MEAS_EN 1).set SPLIT_MEAS_CFG.NSTOP_M1 3 |>.set SPLIT_WINDOW.WINDOW 5000; { x with split := { x.split with meas := none, ties := [⟨20480000, 1099511632776, 0, 0⟩] } })
     let sd : SideId := .stroke
     let src : Fin 4 := 2
     let fall : Bool := false
     let x := s.side sd
     let slope := x.get (SPLIT_IN_CFG.SLOPE src.val)
     let admitted := if fall then 2 ≤ slope else slope % 2 = 1
     let start := x.on (SPLIT_IN_CFG.START src.val)
     admitted ∧ x.on SPLIT_MEAS_CFG.MEAS_EN = true ∧ x.split.meas = none ∧ start = true) ∧
    (let s : State := on1 (fun x => let x : Side := x.set SPLIT_STAT.INVALID 0; let x : Side := ((((x.set (SPLIT_IN_CFG.SLOPE 2) 1).set (SPLIT_IN_CFG.START 2) 0).set (SPLIT_IN_CFG.STOP 2) 1).set SPLIT_MEAS_CFG.MEAS_EN 1).set SPLIT_MEAS_CFG.NSTOP_M1 3 |>.set SPLIT_WINDOW.WINDOW 5000; { x with split := { x.split with meas := none, ties := [⟨20480000, 1099511632776, 0, 0⟩] } })
     let sd : SideId := .stroke
     let src : Fin 4 := 2
     let fall : Bool := false
     let x := s.side sd
     let slope := x.get (SPLIT_IN_CFG.SLOPE src.val)
     let admitted := if fall then 2 ≤ slope else slope % 2 = 1
     let start := x.on (SPLIT_IN_CFG.START src.val)
     let stop := x.on (SPLIT_IN_CFG.STOP src.val)
     admitted ∧ x.on SPLIT_MEAS_CFG.MEAS_EN = true ∧ x.split.meas = none ∧ start = false ∧ stop = true) ∧
    (let s : State := on1 (fun x => let x : Side := x.set SPLIT_STAT.INVALID 0; let x : Side := ((((x.set (SPLIT_IN_CFG.SLOPE 2) 1).set (SPLIT_IN_CFG.START 2) 0).set (SPLIT_IN_CFG.STOP 2) 0).set SPLIT_MEAS_CFG.MEAS_EN 1).set SPLIT_MEAS_CFG.NSTOP_M1 3 |>.set SPLIT_WINDOW.WINDOW 5000; { x with split := { x.split with meas := none, ties := [⟨20480000, 1099511632776, 0, 0⟩] } })
     let sd : SideId := .stroke
     let src : Fin 4 := 2
     let fall : Bool := false
     let x := s.side sd
     let slope := x.get (SPLIT_IN_CFG.SLOPE src.val)
     let admitted := if fall then 2 ≤ slope else slope % 2 = 1
     let start := x.on (SPLIT_IN_CFG.START src.val)
     let stop := x.on (SPLIT_IN_CFG.STOP src.val)
     admitted ∧ x.on SPLIT_MEAS_CFG.MEAS_EN = true ∧ x.split.meas = none ∧ start = false ∧ stop = false) ∧
    (let s : State := on1 (fun x => let x : Side := x.set SPLIT_STAT.INVALID 0; let x : Side := ((((x.set (SPLIT_IN_CFG.SLOPE 2) 1).set (SPLIT_IN_CFG.START 2) 1).set (SPLIT_IN_CFG.STOP 2) 1).set SPLIT_MEAS_CFG.MEAS_EN 1).set SPLIT_MEAS_CFG.NSTOP_M1 3 |>.set SPLIT_WINDOW.WINDOW 5000; { x with split := { x.split with meas := some (⟨2, 1099511627776, 20400000, 20479000, 2, 3, 44⟩ : Meas), ties := [⟨20480000, 1099511632776, 0, 0⟩] } })
     let sd : SideId := .stroke
     let src : Fin 4 := 2
     let fall : Bool := false
     let st : SplitStamp := (⟨5000, 17⟩ : SplitStamp)
     let m : Meas := (⟨2, 1099511627776, 20400000, 20479000, 2, 3, 44⟩ : Meas)
     let x := s.side sd
     let ip := x.ipOf src.val
     let ts := x.splitTime (2 * src.val + ip) st
     let rt := x.stampTime ts
     let slope := x.get (SPLIT_IN_CFG.SLOPE src.val)
     let admitted := if fall then 2 ≤ slope else slope % 2 = 1
     let start := x.on (SPLIT_IN_CFG.START src.val)
     let stop := x.on (SPLIT_IN_CFG.STOP src.val)
     let near := ts - m.lastTs < 6144
     admitted ∧ x.on SPLIT_MEAS_CFG.MEAS_EN = true ∧ x.split.meas = some m ∧ stop = true ∧ rt - m.start ≤ nsLsb (max 1 (x.get SPLIT_WINDOW.WINDOW)) ∧ m.slots + 1 ≤ x.get SPLIT_MEAS_CFG.NSTOP_M1 ∧ near) ∧
    (let s : State := on1 (fun x => let x : Side := x.set SPLIT_STAT.INVALID 0; let x : Side := ((((x.set (SPLIT_IN_CFG.SLOPE 2) 1).set (SPLIT_IN_CFG.START 2) 1).set (SPLIT_IN_CFG.STOP 2) 1).set SPLIT_MEAS_CFG.MEAS_EN 1).set SPLIT_MEAS_CFG.NSTOP_M1 3 |>.set SPLIT_WINDOW.WINDOW 5000; { x with split := { x.split with meas := some (⟨2, 1099511627776, 20400000, 20470000, 2, 3, 44⟩ : Meas), ties := [⟨20480000, 1099511632776, 0, 0⟩] } })
     let sd : SideId := .stroke
     let src : Fin 4 := 2
     let fall : Bool := false
     let st : SplitStamp := (⟨5000, 17⟩ : SplitStamp)
     let m : Meas := (⟨2, 1099511627776, 20400000, 20470000, 2, 3, 44⟩ : Meas)
     let x := s.side sd
     let ip := x.ipOf src.val
     let ts := x.splitTime (2 * src.val + ip) st
     let rt := x.stampTime ts
     let slope := x.get (SPLIT_IN_CFG.SLOPE src.val)
     let admitted := if fall then 2 ≤ slope else slope % 2 = 1
     let start := x.on (SPLIT_IN_CFG.START src.val)
     let stop := x.on (SPLIT_IN_CFG.STOP src.val)
     let near := ts - m.lastTs < 6144
     admitted ∧ x.on SPLIT_MEAS_CFG.MEAS_EN = true ∧ x.split.meas = some m ∧ stop = true ∧ rt - m.start ≤ nsLsb (max 1 (x.get SPLIT_WINDOW.WINDOW)) ∧ m.slots + 1 ≤ x.get SPLIT_MEAS_CFG.NSTOP_M1 ∧ ¬near) ∧
    (let s : State := on1 (fun x => let x : Side := x.set SPLIT_STAT.INVALID 0; let x : Side := ((((x.set (SPLIT_IN_CFG.SLOPE 2) 1).set (SPLIT_IN_CFG.START 2) 1).set (SPLIT_IN_CFG.STOP 2) 1).set SPLIT_MEAS_CFG.MEAS_EN 1).set SPLIT_MEAS_CFG.NSTOP_M1 3 |>.set SPLIT_WINDOW.WINDOW 5000; { x with split := { x.split with meas := some (⟨2, 1099511627776, 20400000, 20470000, 3, 3, 44⟩ : Meas), ties := [⟨20480000, 1099511632776, 0, 0⟩] } })
     let sd : SideId := .stroke
     let src : Fin 4 := 2
     let fall : Bool := false
     let st : SplitStamp := (⟨5000, 17⟩ : SplitStamp)
     let m : Meas := (⟨2, 1099511627776, 20400000, 20470000, 3, 3, 44⟩ : Meas)
     let x := s.side sd
     let ip := x.ipOf src.val
     let ts := x.splitTime (2 * src.val + ip) st
     let rt := x.stampTime ts
     let slope := x.get (SPLIT_IN_CFG.SLOPE src.val)
     let admitted := if fall then 2 ≤ slope else slope % 2 = 1
     let start := x.on (SPLIT_IN_CFG.START src.val)
     let stop := x.on (SPLIT_IN_CFG.STOP src.val)
     admitted ∧ x.on SPLIT_MEAS_CFG.MEAS_EN = true ∧ x.split.meas = some m ∧ stop = true ∧ rt - m.start ≤ nsLsb (max 1 (x.get SPLIT_WINDOW.WINDOW)) ∧ x.get SPLIT_MEAS_CFG.NSTOP_M1 < m.slots + 1) ∧
    (let s : State := on1 (fun x => let x : Side := x.set SPLIT_STAT.INVALID 0; let x : Side := ((((x.set (SPLIT_IN_CFG.SLOPE 2) 1).set (SPLIT_IN_CFG.START 2) 1).set (SPLIT_IN_CFG.STOP 2) 0).set SPLIT_MEAS_CFG.MEAS_EN 1).set SPLIT_MEAS_CFG.NSTOP_M1 3 |>.set SPLIT_WINDOW.WINDOW 5000; { x with split := { x.split with meas := some (⟨2, 1099511627776, 20400000, 20470000, 2, 3, 44⟩ : Meas), ties := [⟨20480000, 1099511632776, 0, 0⟩] } })
     let sd : SideId := .stroke
     let src : Fin 4 := 2
     let fall : Bool := false
     let m : Meas := (⟨2, 1099511627776, 20400000, 20470000, 2, 3, 44⟩ : Meas)
     let x := s.side sd
     let slope := x.get (SPLIT_IN_CFG.SLOPE src.val)
     let admitted := if fall then 2 ≤ slope else slope % 2 = 1
     let start := x.on (SPLIT_IN_CFG.START src.val)
     let stop := x.on (SPLIT_IN_CFG.STOP src.val)
     admitted ∧ x.on SPLIT_MEAS_CFG.MEAS_EN = true ∧ x.split.meas = some m ∧ stop = false ∧ start = true ∧ x.on SPLIT_MEAS_CFG.RESTART_ON_START = false) ∧
    (let s : State := on1 (fun x => let x : Side := x.set SPLIT_STAT.INVALID 0; let x : Side := ((((x.set (SPLIT_IN_CFG.SLOPE 2) 1).set (SPLIT_IN_CFG.START 2) 1).set (SPLIT_IN_CFG.STOP 2) 0).set SPLIT_MEAS_CFG.MEAS_EN 1).set SPLIT_MEAS_CFG.NSTOP_M1 3 |>.set SPLIT_WINDOW.WINDOW 5000 |>.set SPLIT_MEAS_CFG.RESTART_ON_START 1; { x with split := { x.split with meas := some (⟨2, 1099511627776, 20400000, 20470000, 2, 3, 44⟩ : Meas), ties := [⟨20480000, 1099511632776, 0, 0⟩] } })
     let sd : SideId := .stroke
     let src : Fin 4 := 2
     let fall : Bool := false
     let m : Meas := (⟨2, 1099511627776, 20400000, 20470000, 2, 3, 44⟩ : Meas)
     let x := s.side sd
     let slope := x.get (SPLIT_IN_CFG.SLOPE src.val)
     let admitted := if fall then 2 ≤ slope else slope % 2 = 1
     let start := x.on (SPLIT_IN_CFG.START src.val)
     let stop := x.on (SPLIT_IN_CFG.STOP src.val)
     admitted ∧ x.on SPLIT_MEAS_CFG.MEAS_EN = true ∧ x.split.meas = some m ∧ stop = false ∧ start = true ∧ x.on SPLIT_MEAS_CFG.RESTART_ON_START = true) ∧
    (let s : State := on1 (fun x => let x : Side := x.set SPLIT_STAT.INVALID 0; let x : Side := ((((x.set (SPLIT_IN_CFG.SLOPE 2) 1).set (SPLIT_IN_CFG.START 2) 0).set (SPLIT_IN_CFG.STOP 2) 0).set SPLIT_MEAS_CFG.MEAS_EN 1).set SPLIT_MEAS_CFG.NSTOP_M1 3 |>.set SPLIT_WINDOW.WINDOW 5000; { x with split := { x.split with meas := some (⟨2, 1099511627776, 20400000, 20470000, 2, 3, 44⟩ : Meas), ties := [⟨20480000, 1099511632776, 0, 0⟩] } })
     let sd : SideId := .stroke
     let src : Fin 4 := 2
     let fall : Bool := false
     let m : Meas := (⟨2, 1099511627776, 20400000, 20470000, 2, 3, 44⟩ : Meas)
     let x := s.side sd
     let slope := x.get (SPLIT_IN_CFG.SLOPE src.val)
     let admitted := if fall then 2 ≤ slope else slope % 2 = 1
     let start := x.on (SPLIT_IN_CFG.START src.val)
     let stop := x.on (SPLIT_IN_CFG.STOP src.val)
     admitted ∧ x.on SPLIT_MEAS_CFG.MEAS_EN = true ∧ x.split.meas = some m ∧ stop = false ∧ start = false) ∧
    (let s : State := rdy
     let sd : SideId := .stroke
     let x := s.side sd
     x.split.meas = none) ∧
    (let s : State := on1 (fun x => let x : Side := x.set SPLIT_STAT.INVALID 0; let x : Side := ((((x.set (SPLIT_IN_CFG.SLOPE 2) 1).set (SPLIT_IN_CFG.START 2) 1).set (SPLIT_IN_CFG.STOP 2) 1).set SPLIT_MEAS_CFG.MEAS_EN 1).set SPLIT_MEAS_CFG.NSTOP_M1 3 |>.set SPLIT_WINDOW.WINDOW 5000; { x with split := { x.split with meas := some (⟨2, 1099511627776, 20400000, 20470000, 2, 3, 44⟩ : Meas), ties := [⟨20480000, 1099511632776, 0, 0⟩] } })
     let sd : SideId := .stroke
     let m : Meas := (⟨2, 1099511627776, 20400000, 20470000, 2, 3, 44⟩ : Meas)
     let x := s.side sd
     x.split.meas = some m) := by
  refine ⟨?_, ?_, ?_, ?_, ?_, ?_, ?_, ?_, ?_, ?_, ?_, ?_, ?_, ?_, ?_⟩ <;>
    (dsimp only; decide +kernel)

theorem witness_SplitInputs :
    (let s : State := on1 (fun x => let x : Side := x.set SPLIT_STAT.INVALID 0; let x : Side := x.set EVT_IN_CFG.EN_SLOPE 0x55; { x with split := { x.split with meas := none, ties := [⟨20480000, 1099511632776, 0, 0⟩] } })
     let sd : SideId := .stroke
     let i : Fin 4 := 2
     let fall : Bool := true
     let x := s.side sd
     let slope := bitsOf (x.get EVT_IN_CFG.EN_SLOPE) (7 - 2 * i.val) (6 - 2 * i.val)
     let admitted := if fall then 2 ≤ slope else slope % 2 = 1
     ¬admitted) ∧
    (let s : State := on1 (fun x => let x : Side := x.set SPLIT_STAT.INVALID 0; let x : Side := (x.set EVT_IN_CFG.EN_SLOPE 0xFF); { x with split := { x.split with meas := none, ties := [⟨20480000, 1099511632776, 0, 0⟩], evtLast := [none, none, some 20475000, none] } })
     let sd : SideId := .stroke
     let i : Fin 4 := 2
     let fall : Bool := false
     let st : SplitStamp := (⟨5000, 17⟩ : SplitStamp)
     let x := s.side sd
     let ip := x.ipOf (4 + i.val)
     let ts := x.splitTime (2 * (4 + i.val) + ip) st
     let slope := bitsOf (x.get EVT_IN_CFG.EN_SLOPE) (7 - 2 * i.val) (6 - 2 * i.val)
     let admitted := if fall then 2 ≤ slope else slope % 2 = 1
     let near := ∃ l, lget x.split.evtLast i.val none = some l ∧ ts - l < 8192
     admitted ∧ near) ∧
    (let s : State := on1 (fun x => let x : Side := x.set SPLIT_STAT.INVALID 0; let x : Side := (x.set EVT_IN_CFG.EN_SLOPE 0xFF); { x with split := { x.split with meas := none, ties := [⟨20480000, 1099511632776, 0, 0⟩] } })
     let sd : SideId := .stroke
     let i : Fin 4 := 2
     let fall : Bool := false
     let st : SplitStamp := (⟨5000, 17⟩ : SplitStamp)
     let x := s.side sd
     let ip := x.ipOf (4 + i.val)
     let ts := x.splitTime (2 * (4 + i.val) + ip) st
     let slope := bitsOf (x.get EVT_IN_CFG.EN_SLOPE) (7 - 2 * i.val) (6 - 2 * i.val)
     let admitted := if fall then 2 ≤ slope else slope % 2 = 1
     let near := ∃ l, lget x.split.evtLast i.val none = some l ∧ ts - l < 8192
     admitted ∧ ¬near ∧ (i ≠ 3 ∨ x.on TONE_CFG.LDSTB_EN = false)) ∧
    (let s : State := on1 (fun x => let x : Side := x.set SPLIT_STAT.INVALID 0; let x : Side := (x.set EVT_IN_CFG.EN_SLOPE 0xFF).set TONE_CFG.LDSTB_EN 1; { x with split := { x.split with meas := none, ties := [⟨20480000, 1099511632776, 0, 0⟩] } })
     let sd : SideId := .stroke
     let i : Fin 4 := 3
     let fall : Bool := false
     let st : SplitStamp := (⟨5000, 17⟩ : SplitStamp)
     let x := s.side sd
     let ip := x.ipOf (4 + i.val)
     let ts := x.splitTime (2 * (4 + i.val) + ip) st
     let slope := bitsOf (x.get EVT_IN_CFG.EN_SLOPE) (7 - 2 * i.val) (6 - 2 * i.val)
     let admitted := if fall then 2 ≤ slope else slope % 2 = 1
     let near := ∃ l, lget x.split.evtLast i.val none = some l ∧ ts - l < 8192
     admitted ∧ ¬near ∧ i = 3 ∧ x.on TONE_CFG.LDSTB_EN = true ∧ s.keel.resolving = false ∧ s.keel.up = false ∧ x.isCrew = false) ∧
    (let s : State := let q := on1 (fun x => let x : Side := x.set SPLIT_STAT.INVALID 0; let x : Side := (x.set EVT_IN_CFG.EN_SLOPE 0xFF).set TONE_CFG.LDSTB_EN 1; { x with split := { x.split with meas := none, ties := [⟨20480000, 1099511632776, 0, 0⟩] } }); { q with keel := { q.keel with resolving := true, up := true } }
     let sd : SideId := .stroke
     let i : Fin 4 := 3
     let fall : Bool := false
     let st : SplitStamp := (⟨5000, 17⟩ : SplitStamp)
     let x := s.side sd
     let ip := x.ipOf (4 + i.val)
     let ts := x.splitTime (2 * (4 + i.val) + ip) st
     let slope := bitsOf (x.get EVT_IN_CFG.EN_SLOPE) (7 - 2 * i.val) (6 - 2 * i.val)
     let admitted := if fall then 2 ≤ slope else slope % 2 = 1
     let near := ∃ l, lget x.split.evtLast i.val none = some l ∧ ts - l < 8192
     admitted ∧ ¬near ∧ i = 3 ∧ x.on TONE_CFG.LDSTB_EN = true ∧ s.keel.resolving = true) ∧
    (let s : State := rdy
     let sd : SideId := .stroke
     let i : Fin 4 := 2
     let src : Fin 8 := 2
     let st : SplitStamp := (⟨5000, 17⟩ : SplitStamp)
     let x := s.side sd
     let ip := x.ipOf (4 + i.val)
     let ts := x.splitTime (2 * (4 + i.val) + ip) st
     let n := lget x.split.evtCnt i.val 0 + 1
     let split := (
               { x.split with
    evtCnt := lset x.split.evtCnt i.val n, evtLast := lset x.split.evtLast i.val (some ts), evtDead := lset x.split.evtDead i.val 0 })
     (src.val ∉ x.split.swapReq ∨ (src.val < 4 ∧ x.split.meas ≠ none))) ∧
    (let s : State := on1 (fun x => let x : Side := x.set SPLIT_STAT.INVALID 0; let x : Side := x; { x with split := { x.split with meas := none, ties := [⟨20480000, 1099511632776, 0, 0⟩], swapReq := [2, 5] } })
     let sd : SideId := .stroke
     let i : Fin 4 := 2
     let src : Fin 8 := 2
     let st : SplitStamp := (⟨5000, 17⟩ : SplitStamp)
     let x := s.side sd
     let ip := x.ipOf (4 + i.val)
     let ts := x.splitTime (2 * (4 + i.val) + ip) st
     let n := lget x.split.evtCnt i.val 0 + 1
     let split := (
               { x.split with
    evtCnt := lset x.split.evtCnt i.val n, evtLast := lset x.split.evtLast i.val (some ts), evtDead := lset x.split.evtDead i.val 0 })
     src.val ∈ x.split.swapReq ∧ (4 ≤ src.val ∨ x.split.meas = none) ∧ x.cal.job = none ∧ (∀ d ∈ x.host.staged, d.op ≠ 0x30 ∧ d.op ≠ 0x31)) := by
  refine ⟨?_, ?_, ?_, ?_, ?_, ?_, ?_⟩ <;>
    (dsimp only; decide +kernel)

theorem witness_StarterInputs :
    (let s : State := on1 (fun x => let x : Side := { x with rt := { x.rt with rta := 5497558138880 * 2^24 }, starter := { x.starter with force := lset (lset starterReset 9 (wordN (7 * 2^32))) 10 (wordN 6), fromT := 100 } }; x)
     let sd : SideId := .stroke
     let o : Occ := .dtrig
     let t : RaceTime := 5497558138780
     let x := s.side sd
     let st := x.starter
     let taken := x.on STARTER_STAT.RUNNING = true ∧ earlier st.ep t.toNat st.fromEp st.fromT = false ∧ st.uses o = true
     ¬taken) ∧
    (let s : State := on1 (fun x => let x : Side := { x with rt := { x.rt with rta := 5497558138880 * 2^24 }, starter := { x.starter with force := lset (lset starterReset 9 (wordN (7 * 2^32))) 10 (wordN 6), fromT := 100 } }; x.set STARTER_STAT.RUNNING 1)
     let sd : SideId := .stroke
     let o : Occ := .xside 3
     let t : RaceTime := 5497558138780
     let x := s.side sd
     let st := x.starter
     let taken := x.on STARTER_STAT.RUNNING = true ∧ earlier st.ep t.toNat st.fromEp st.fromT = false ∧ st.uses o = true
     ¬taken) ∧
    (let s : State := on1 (fun x => let x : Side := { x with rt := { x.rt with rta := 5497558138880 * 2^24 }, starter := { x.starter with force := lset (lset starterReset 9 (wordN (7 * 2^32))) 10 (wordN 6), fromT := 100, decided := 500 } }; x.set STARTER_STAT.RUNNING 1)
     let sd : SideId := .stroke
     let o : Occ := .dtrig
     let t : RaceTime := 400
     let x := s.side sd
     let st := x.starter
     let taken := x.on STARTER_STAT.RUNNING = true ∧ earlier st.ep t.toNat st.fromEp st.fromT = false ∧ st.uses o = true
     let late := earlier st.ep t.toNat st.decEp st.decided = true ∨ t.toNat + nsLsb st.h < x.now
     taken ∧ late) ∧
    (let s : State := on1 (fun x => let x : Side := { x with rt := { x.rt with rta := 5497558138880 * 2^24 }, starter := { x.starter with force := lset (lset starterReset 9 (wordN (7 * 2^32))) 10 (wordN 6), fromT := 100, insts := [(⟨0, 5497558138380, [.dtrig, .xside 3], [], [], []⟩ : Inst), (⟨0, 5497558138780, [.xside 3], [], [], []⟩ : Inst)] } }; x.set STARTER_STAT.RUNNING 1)
     let sd : SideId := .stroke
     let o : Occ := .dtrig
     let t : RaceTime := 5497558138780
     let x := s.side sd
     let st := x.starter
     let taken := x.on STARTER_STAT.RUNNING = true ∧ earlier st.ep t.toNat st.fromEp st.fromT = false ∧ st.uses o = true
     let late := earlier st.ep t.toNat st.decEp st.decided = true ∨ t.toNat + nsLsb st.h < x.now
     taken ∧ ¬late) ∧
    (let s : State := on1 (fun x => let x : Side := { x with rt := { x.rt with rta := 5497558138880 * 2^24 }, starter := { x.starter with fromT := 100, timers := [some (0, 500), none, none, none] } }; x.set STARTER_STAT.RUNNING 1)
     let sd : SideId := .stroke
     let k : Fin 4 := 0
     let te : Nat × Nat := (0, 500)
     let x := s.side sd
     let st := x.starter
     lget st.timers k.val none = some te ∧ (te.2 : Int) ≤ x.nowIn te.1 ∧ x.islRuns (srcOf 2 4 0) = true) ∧
    (let s : State := on1 (fun x => let x : Side := { x with rt := { x.rt with rta := 5497558138880 * 2^24 }, starter := { x.starter with fromT := 100, timers := [some (0, 5497558138881), none, none, none] } }; x.set STARTER_STAT.RUNNING 1)
     let sd : SideId := .stroke
     let k : Fin 4 := 0
     let te : Nat × Nat := (0, 5497558138881)
     let x := s.side sd
     let st := x.starter
     lget st.timers k.val none = some te ∧ (x.nowIn te.1 < te.2 ∨ x.islRuns (srcOf 2 4 0) = false)) ∧
    (let s : State := rdy
     let sd : SideId := .stroke
     let k : Fin 4 := 0
     let x := s.side sd
     let st := x.starter
     lget st.timers k.val none = none) ∧
    (let s : State := rdy
     let sd : SideId := .stroke
     let x := s.side sd
     x.frontInst = none) ∧
    (let s : State := on1 (fun x => let x : Side := { x with rt := { x.rt with rta := 5497558138880 * 2^24 }, starter := { x.starter with fromT := 100, insts := [(⟨0, 900, [.dtrig, .xside 3], [], [], []⟩ : Inst)] } }; x.set STARTER_STAT.RUNNING 1)
     let sd : SideId := .stroke
     let t : RaceTime := 5497558138780
     let k : Fin 4 := 0
     let i : Inst := (⟨0, 900, [.dtrig, .xside 3], [], [], []⟩ : Inst)
     let x := s.side sd
     let st := x.starter
     let b := (st.blkAt i.ep i.t).force
     k = 0 ∧ x.frontInst = some i ∧ x.evaluates i = true ∧ 0 ∉ i.latched ∧ i.occ.any (matchOcc (stSrc b 0)) = false) ∧
    (let s : State := on1 (fun x => let x : Side := { x with rt := { x.rt with rta := 5497558138880 * 2^24 }, starter := { x.starter with fromT := 100, insts := [(⟨0, 900, [.dtrig, .xside 3], [], [], []⟩ : Inst)], force := (lset (lset (lset starterReset 9 (wordN (7 * 2^32))) 10 (wordN 6)) 0 (wordN (2^35 + 12 * 2 ^ 20 + 1000 * 2^2))) } }; x.set STARTER_STAT.RUNNING 1 |>.set (STARTER_CNT.whole 0) 5)
     let sd : SideId := .stroke
     let t : RaceTime := 5497558138780
     let k : Fin 4 := 0
     let i : Inst := (⟨0, 900, [.dtrig, .xside 3], [], [], []⟩ : Inst)
     let x := s.side sd
     let st := x.starter
     let b := (st.blkAt i.ep i.t).force
     k = 0 ∧ x.frontInst = some i ∧ x.evaluates i = true ∧ 0 ∉ i.latched ∧ i.occ.any (matchOcc (stSrc b 0)) = true) ∧
    (let s : State := ({ (on1 (fun x => let x : Side := { x with rt := { x.rt with rta := 5497558138880 * 2^24 }, starter := { x.starter with fromT := 100 } }; x.set STARTER_STAT.RUNNING 1)) with keel := { rdy.keel with msgs := [(.stroke, .xside 0xA5 900), (.bow, .rtSync 9)] } } : State)
     let sd : SideId := .stroke
     let lines : BitVec 8 := 0xA5
     let u : Nat := 900
     let rest : List (SideId × KeelMsg) := s.keel.msgs.drop 1
     s.keel.msgs = (sd, .xside lines u) :: rest ∧ s.keel.resolving = false) ∧
    (let s : State := let q := ({ (on1 (fun x => let x : Side := { x with rt := { x.rt with rta := 5497558138880 * 2^24 }, starter := { x.starter with fromT := 100 } }; x.set STARTER_STAT.RUNNING 1)) with keel := { rdy.keel with msgs := [(.stroke, .xside 0xA5 900), (.bow, .rtSync 9)] } } : State); { q with keel := { q.keel with resolving := true } }
     let sd : SideId := .stroke
     let lines : BitVec 8 := 0xA5
     let u : Nat := 900
     let rest : List (SideId × KeelMsg) := s.keel.msgs.drop 1
     s.keel.msgs = (sd, .xside lines u) :: rest ∧ s.keel.resolving = true) ∧
    (let s : State := rdy
     s.coxSide = none) ∧
    (let s : State := keelUpSt (on1 (fun x => let x : Side := { x with rt := { x.rt with rta := 5497558138880 * 2^24 }, starter := { x.starter with fromT := 100, reqs := [2^33], accepted := [5], block := (lset (lset (lset starterReset 9 (wordN (7 * 2^32))) 10 (wordN 6)) 0 (wordN (2^35 + 12 * 2 ^ 20 + 1000 * 2^2))), force := (lset (lset (lset starterReset 9 (wordN (7 * 2^32))) 10 (wordN 6)) 0 (wordN (2^35 + 12 * 2 ^ 20 + 1000 * 2^2))) } }; x.set STARTER_STAT.RUNNING 1 |>.set KEEL_COX_STAT.COX_HELD 1))
     let sd : SideId := .stroke
     let u : Nat := 2^33
     let x := s.side sd
     let st := x.starter
     s.coxSide = some sd ∧ s.keel.moved = none ∧ st.reqs = [u] ∧ (s.side sd.other).starter.reqs = [] ∧ x.islRuns (srcOf 2 4 0) = true ∧ u ≤ x.now ∧ (∀ b ∈ st.accepted, ¬(b ≤ u ∧ (u - b) * 10 ^ 9 < bf x.stBlk 0 17 2 * 2 ^ 40))) ∧
    (let s : State := keelUpSt (on1 (fun x => let x : Side := { x with rt := { x.rt with rta := 5497558138880 * 2^24 }, starter := { x.starter with fromT := 100, reqs := [900], accepted := [500], block := (lset (lset (lset starterReset 9 (wordN (7 * 2^32))) 10 (wordN 6)) 0 (wordN (2^35 + 12 * 2 ^ 20 + 1000 * 2^2))), force := (lset (lset (lset starterReset 9 (wordN (7 * 2^32))) 10 (wordN 6)) 0 (wordN (2^35 + 12 * 2 ^ 20 + 1000 * 2^2))) } }; x.set STARTER_STAT.RUNNING 1 |>.set KEEL_COX_STAT.COX_HELD 1))
     let sd : SideId := .stroke
     let u : Nat := 900
     let x := s.side sd
     let st := x.starter
     let b := 500
     s.coxSide = some sd ∧ s.keel.moved = none ∧ st.reqs = [u] ∧ (s.side sd.other).starter.reqs = [] ∧ x.islRuns (srcOf 2 4 0) = true ∧ u ≤ x.now ∧ b ∈ st.accepted ∧ b ≤ u ∧ (u - b) * 10 ^ 9 < bf x.stBlk 0 17 2 * 2 ^ 40) ∧
    (let s : State := on1 (fun x => let x : Side := { x with rt := { x.rt with rta := 5497558138880 * 2^24 }, starter := { x.starter with fromT := 100, pulses := [(1, 500)] } }; x)
     let sd : SideId := .stroke
     let pin : Fin 2 := 1
     let p : Nat × Nat := (1, 500)
     let x := s.side sd
     let st := x.starter
     st.pulses = [p] ∧ p.1 = pin.val ∧ p.2 + nsLsb st.dTo ≤ x.now ∧ x.islRuns (srcOf 2 4 0) = true) ∧
    (let s : State := on1 (fun x => let x : Side := { x with rt := { x.rt with rta := 5497558138880 * 2^24 }, starter := { x.starter with fromT := 100, pulses := [(1, 5497558138880), (0, 4)] } }; x)
     let sd : SideId := .stroke
     let pin : Fin 2 := 1
     let x := s.side sd
     let st := x.starter
     (x.islRuns (srcOf 2 4 0) = false ∨ (∀ q ∈ st.pulses, q.1 = pin.val → x.now < q.2 + nsLsb st.dTo))) ∧
    (let s : State := on1 (fun x => let x : Side := { x with rt := { x.rt with rta := 5497558138880 * 2^24 }, starter := { x.starter with fromT := 100, outs := [none, some 500] } }; x)
     let sd : SideId := .stroke
     let pin : Fin 2 := 1
     let e : Nat := 500
     let x := s.side sd
     let st := x.starter
     lget st.outs pin.val none = some e ∧ e ≤ x.now) ∧
    (let s : State := on1 (fun x => let x : Side := { x with rt := { x.rt with rta := 5497558138880 * 2^24 }, starter := { x.starter with fromT := 100, outs := [none, some 5497558138881] } }; x)
     let sd : SideId := .stroke
     let pin : Fin 2 := 1
     let e : Nat := 5497558138881
     let x := s.side sd
     let st := x.starter
     lget st.outs pin.val none = some e ∧ x.now < e) := by
  refine ⟨?_, ?_, ?_, ?_, ?_, ?_, ?_, ?_, ?_, ?_, ?_, ?_, ?_, ?_, ?_, ?_, ?_, ?_, ?_⟩ <;>
    (dsimp only; decide +kernel)

theorem witness_StarterDecision :
    (let s : State := on1 (fun x => let x : Side := { x with rt := { x.rt with rta := 5497558138880 * 2^24 }, starter := { x.starter with fromT := 100, insts := [(⟨0, 900, [.dtrig, .xside 3], [0,1,2,3], [], []⟩ : Inst)], force := (lset (lset (lset starterReset 0 (wordN (2^35 + 12 * 2 ^ 20))) (21 + 8 * 1 + 2 * 2) (wordN (7 * 2^32))) (22 + 8 * 1 + 2 * 2) (wordN (2^35 + 5 * 2^32 + 5 * 2^8 + 3 * 2^16))), timers := [none, none, none, none], decided := 400 } }; (x).set STARTER_STAT.RUNNING 1 |>.set STARTER_STAT.STATE 2 |>.set (STARTER_CNT.whole 1) 8)
     let sd : SideId := .stroke
     let i : Inst := (⟨0, 900, [.dtrig, .xside 3], [0,1,2,3], [], []⟩ : Inst)
     let x := s.side sd
     let st := x.starter
     let b := st.force
     let state := x.get STARTER_STAT.STATE
     let holds := fun n => stEn b state n = true ∧ i.occ.any (matchOcc (stCond b state n)) = true
     x.frontInst = some i ∧ i.ep = st.ep ∧ x.evaluates i = true ∧ st.next = [] ∧ (∀ k < 4, lget st.timers k none = none) ∧ (∀ k < 4, k ∈ i.latched) ∧ i.force = [] ∧ state < 8 ∧ (∀ n < 4, ¬holds n)) ∧
    (let s : State := on1 (fun x => let x : Side := { x with rt := { x.rt with rta := 5497558138880 * 2^24 }, starter := { x.starter with fromT := 100, insts := [(⟨0, 900, [.dtrig, .xside 3], [0,1,2,3], [], []⟩ : Inst)], force := (lset (lset (lset starterReset 0 (wordN (2^35 + 12 * 2 ^ 20))) (21 + 8 * 1 + 2 * 2) (wordN (7 * 2^32))) (22 + 8 * 1 + 2 * 2) (wordN (2^35 + 5 * 2^32 + 5 * 2^8 + 3 * 2^16))), timers := [none, none, none, none], decided := 400 } }; (x).set STARTER_STAT.RUNNING 1 |>.set STARTER_STAT.STATE 1 |>.set (STARTER_CNT.whole 1) 8)
     let sd : SideId := .stroke
     let i : Inst := (⟨0, 900, [.dtrig, .xside 3], [0,1,2,3], [], []⟩ : Inst)
     let x := s.side sd
     let st := x.starter
     let b := st.force
     let state := x.get STARTER_STAT.STATE
     let holds := fun n => stEn b state n = true ∧ i.occ.any (matchOcc (stCond b state n)) = true
     let n := 2
     let act := stAct b state n
     x.frontInst = some i ∧ i.ep = st.ep ∧ x.evaluates i = true ∧ st.next = [] ∧ (∀ k < 4, lget st.timers k none = none) ∧ (∀ k < 4, k ∈ i.latched) ∧ i.force = [] ∧ state < 8 ∧ n < 4 ∧ holds n ∧ (∀ j < n, ¬holds j) ∧ bitAt act 31 = false ∧ bitsOf act 7 6 = 0 ∧ bitsOf act 28 20 = 0) ∧
    (let s : State := on1 (fun x => let x : Side := { x with rt := { x.rt with rta := 5497558138880 * 2^24 }, starter := { x.starter with fromT := 100, insts := [(⟨0, 900, [.dtrig, .xside 3], [0,1,2,3], [], []⟩ : Inst)], force := (lset (lset (lset starterReset 0 (wordN (2^35 + 12 * 2 ^ 20))) (21 + 8 * 1 + 2 * 2) (wordN (7 * 2^32))) (22 + 8 * 1 + 2 * 2) (wordN (2^35 + 5 * 2^32 + 2^31 + 2 * 2^29))), timers := [none, none, none, none], decided := 400 } }; ({ x.setAcq .c1 { x.acqOf .c1 with armed := some ⟨9, recordReset, [], 0, 0, 0, 5, 5, [], [], [], [], 0, 0, 0, [], [], false, false, none, none⟩ } with fe := lset x.fe 1 { x.feOf .c1 with m := 5000 } }).set STARTER_STAT.RUNNING 1 |>.set STARTER_STAT.STATE 1 |>.set (STARTER_CNT.whole 1) 8)
     let sd : SideId := .stroke
     let i : Inst := (⟨0, 900, [.dtrig, .xside 3], [0,1,2,3], [], []⟩ : Inst)
     let x := s.side sd
     let st := x.starter
     let b := st.force
     let state := x.get STARTER_STAT.STATE
     let holds := fun n => stEn b state n = true ∧ i.occ.any (matchOcc (stCond b state n)) = true
     let n := 2
     let act := stAct b state n
     let c : Chan := .c1
     let r : Rec := ((s.side sd).acqOf .c1).armed.getD ⟨9, recordReset, [], 0, 0, 0, 5, 5, [], [], [], [], 0, 0, 0, [], [], false, false, none, none⟩
     x.frontInst = some i ∧ i.ep = st.ep ∧ x.evaluates i = true ∧ st.next = [] ∧ (∀ k < 4, lget st.timers k none = none) ∧ (∀ k < 4, k ∈ i.latched) ∧ i.force = [] ∧ state < 8 ∧ n < 4 ∧ holds n ∧ (∀ j < n, ¬holds j) ∧ bitAt act 31 = true ∧ bitsOf act 30 29 = 2 ^ c.n ∧ bitsOf act 28 20 = 0 ∧ x.acq.length = 2 ∧ (x.acqOf c).armed = some r ∧ x.goOutcome c (x.trigSample c i.ep i.t (i.frameOf (stCond b state n) c)) = (.accepted, x.trigSample c i.ep i.t (i.frameOf (stCond b state n) c))) := by
  refine ⟨?_, ?_, ?_⟩ <;>
    (dsimp only; decide +kernel)

theorem witness_RecordProgress :
    (let s : State := on1 (fun x => x.quarantine (srcOf 2 4 0))
     let sd : SideId := .stroke
     let ch : Chan := .c1
     let x := s.side sd
     let q := x.acqOf ch
     ¬(x.islRuns (srcOf 2 4 0) = true)) ∧
    (let s : State := rdy
     let sd : SideId := .stroke
     let ch : Chan := .c1
     let x := s.side sd
     let q := x.acqOf ch
     q.armed = none) ∧
    (let s : State := rdy
     let sd : SideId := .stroke
     let ch : Chan := .c1
     let x := s.side sd
     let q := x.acqOf ch
     q.armed = none ∧ x.host.staged = []) ∧
    (let s : State := on1 (fun x => let x : Side := { x.setAcq .c1 { x.acqOf .c1 with armed := some ({ num := 9, block := [wordN (2^33), 0, 0x40, 0, 32, 4096, 0, 0, 0x8000, 0x3FF], stop := [], armM := 0, mA := 0, slot := 0, slotM := 0, slotL := 0, next := 7, samples := [(⟨7, 0x123456, smpR 0x123456, true, false, 900⟩ : ASmp)], marks := [], lines := [], lineMarks := [], kA := 0, nextL := 0, trigs := [], segs := [], poison := false, segPoison := false, stopM := none, truncated := none } : Rec) } with rt := { x.rt with rta := 2^90 }, dram := { x.dram with extent := 2^16 } }; x)
     let sd : SideId := .stroke
     let ch : Chan := .c1
     let r : Rec := ({ num := 9, block := [wordN (2^33), 0, 0x40, 0, 32, 4096, 0, 0, 0x8000, 0x3FF], stop := [], armM := 0, mA := 0, slot := 0, slotM := 0, slotL := 0, next := 7, samples := [(⟨7, 0x123456, smpR 0x123456, true, false, 900⟩ : ASmp)], marks := [], lines := [], lineMarks := [], kA := 0, nextL := 0, trigs := [], segs := [], poison := false, segPoison := false, stopM := none, truncated := none } : Rec)
     let a : ASmp := (⟨7, 0x123456, smpR 0x123456, true, false, 900⟩ : ASmp)
     let n : Nat := 1
     let x := s.side sd
     let q := x.acqOf ch
     let runs := x.islRuns (srcOf 2 4 0) = true
     q.armed = some r ∧ runs ∧ x.acq.length = 2 ∧ r.truncated = none ∧ r.samples = [a] ∧ r.lines = [] ∧ rcIq r.block = true ∧ rcDrain r.block = false ∧ x.mayWrite ch r a = true ∧ 0 < n) ∧
    (let s : State := on1 (fun x => let x : Side := { x.setAcq .c1 { x.acqOf .c1 with armed := some ({ num := 9, block := [wordN (2^33), 0, 0x40, 0, 32, 4096, 0, 0, 0x8000, 0x3FF], stop := [], armM := 0, mA := 0, slot := 0, slotM := 0, slotL := 0, next := 7, samples := [(⟨7, 0x123456, smpR 0x123456, true, false, 900⟩ : ASmp)], marks := [], lines := [], lineMarks := [], kA := 0, nextL := 0, trigs := [], segs := [], poison := false, segPoison := false, stopM := some 5, truncated := none } : Rec) } with rt := { x.rt with rta := 2^90 }, dram := { x.dram with extent := 2^16 } }; x)
     let sd : SideId := .stroke
     let ch : Chan := .c1
     let r : Rec := ({ num := 9, block := [wordN (2^33), 0, 0x40, 0, 32, 4096, 0, 0, 0x8000, 0x3FF], stop := [], armM := 0, mA := 0, slot := 0, slotM := 0, slotL := 0, next := 7, samples := [(⟨7, 0x123456, smpR 0x123456, true, false, 900⟩ : ASmp)], marks := [], lines := [], lineMarks := [], kA := 0, nextL := 0, trigs := [], segs := [], poison := false, segPoison := false, stopM := some 5, truncated := none } : Rec)
     let a : ASmp := (⟨7, 0x123456, smpR 0x123456, true, false, 900⟩ : ASmp)
     let x := s.side sd
     let q := x.acqOf ch
     let runs := x.islRuns (srcOf 2 4 0) = true
     q.armed = some r ∧ runs ∧ x.acq.length = 2 ∧ r.samples = [a] ∧ x.mayWrite ch r a = false ∧ r.lines = []) ∧
    (let s : State := on1 (fun x => let x : Side := { x.setAcq .c1 { x.acqOf .c1 with armed := some ({ num := 9, block := [wordN (2^33), 0, 0x40, 0, 32, 4096, 0, 0, 0x8000, 0x3FF], stop := [], armM := 0, mA := 0, slot := 0, slotM := 0, slotL := 0, next := 7, samples := [(⟨7, 0x123456, smpR 0x123456, true, false, 900⟩ : ASmp)], marks := [], lines := List.replicate 32 ⟨0, 0, List.replicate 1024 0, false, false, false⟩, lineMarks := [], kA := 0, nextL := 0, trigs := [], segs := [], poison := false, segPoison := false, stopM := none, truncated := none } : Rec) } with rt := { x.rt with rta := 2^90 }, dram := { x.dram with extent := 2^16 } }; x)
     let sd : SideId := .stroke
     let ch : Chan := .c1
     let r : Rec := ({ num := 9, block := [wordN (2^33), 0, 0x40, 0, 32, 4096, 0, 0, 0x8000, 0x3FF], stop := [], armM := 0, mA := 0, slot := 0, slotM := 0, slotL := 0, next := 7, samples := [(⟨7, 0x123456, smpR 0x123456, true, false, 900⟩ : ASmp)], marks := [], lines := List.replicate 32 ⟨0, 0, List.replicate 1024 0, false, false, false⟩, lineMarks := [], kA := 0, nextL := 0, trigs := [], segs := [], poison := false, segPoison := false, stopM := none, truncated := none } : Rec)
     let x := s.side sd
     let q := x.acqOf ch
     let runs := x.islRuns (srcOf 2 4 0) = true
     q.armed = some r ∧ runs ∧ x.acq.length = 2 ∧ rcIq r.block = true ∧ x.waitingWords ch r ≤ acqBuffer ∧ acqBuffer < x.readySamples ch r + x.waitingWords ch r) ∧
    (let s : State := on1 (fun x => let x : Side := { x.setAcq .c1 { x.acqOf .c1 with armed := some ({ num := 9, block := [wordN (2^33 + 2^32), 0, 0x40, 3, 32, 4096, 0, 0, 0x8000, 0x3FF], stop := [], armM := 0, mA := 0, slot := 0, slotM := 0, slotL := 0, next := 164, samples := [], marks := [], lines := [], lineMarks := [], kA := 0, nextL := 0, trigs := [⟨100, 163, [1,2,3,4,5,6,7,8]⟩], segs := [], poison := false, segPoison := false, stopM := none, truncated := none } : Rec) } with rt := { x.rt with rta := 2^90 }, dram := { x.dram with extent := 2^16 } }; x)
     let sd : SideId := .stroke
     let ch : Chan := .c1
     let r : Rec := ({ num := 9, block := [wordN (2^33 + 2^32), 0, 0x40, 3, 32, 4096, 0, 0, 0x8000, 0x3FF], stop := [], armM := 0, mA := 0, slot := 0, slotM := 0, slotL := 0, next := 164, samples := [], marks := [], lines := [], lineMarks := [], kA := 0, nextL := 0, trigs := [⟨100, 163, [1,2,3,4,5,6,7,8]⟩], segs := [], poison := false, segPoison := false, stopM := none, truncated := none } : Rec)
     let g : Trig := (((s.side sd).segReady .c1 r).getD (⟨100, 163, [1,2,3,4,5,6,7,8]⟩, ⟨1,2,3,4,5,6,7,false⟩)).1
     let sg : Seg := (((s.side sd).segReady .c1 r).getD (⟨100, 163, [1,2,3,4,5,6,7,8]⟩, ⟨1,2,3,4,5,6,7,false⟩)).2
     let x := s.side sd
     let q := x.acqOf ch
     let runs := x.islRuns (srcOf 2 4 0) = true
     q.armed = some r ∧ runs ∧ x.acq.length = 2 ∧ rcSeg r.block = true ∧ r.truncated = none ∧ x.segReady ch r = some (g, sg) ∧ x.recStream ch = none) ∧
    (let s : State := on1 (fun x => let x : Side := { x.setAcq .c1 { x.acqOf .c1 with armed := some ({ num := 9, block := [wordN (2^33), 0, 0x40, 0, 32, 4096, 0, 0, 0x8000, 0x3FF], stop := [], armM := 0, mA := 0, slot := 0, slotM := 0, slotL := 0, next := 164, samples := [], marks := [], lines := [], lineMarks := [], kA := 0, nextL := 0, trigs := [⟨100, 163, [1,2,3,4,5,6,7,8]⟩], segs := [], poison := false, segPoison := false, stopM := none, truncated := none } : Rec) } with rt := { x.rt with rta := 2^90 }, dram := { x.dram with extent := 2^16 } }; x)
     let sd : SideId := .stroke
     let ch : Chan := .c1
     let r : Rec := ({ num := 9, block := [wordN (2^33), 0, 0x40, 0, 32, 4096, 0, 0, 0x8000, 0x3FF], stop := [], armM := 0, mA := 0, slot := 0, slotM := 0, slotL := 0, next := 164, samples := [], marks := [], lines := [], lineMarks := [], kA := 0, nextL := 0, trigs := [⟨100, 163, [1,2,3,4,5,6,7,8]⟩], segs := [], poison := false, segPoison := false, stopM := none, truncated := none } : Rec)
     let x := s.side sd
     let q := x.acqOf ch
     let runs := x.islRuns (srcOf 2 4 0) = true
     q.armed = some r ∧ runs ∧ x.acq.length = 2 ∧ (rcSeg r.block = false ∨ r.truncated ≠ none ∨ x.segReady ch r = none)) ∧
    (let s : State := on1 (fun x => let x : Side := { x.setAcq .c1 { x.acqOf .c1 with armed := some ({ num := 9, block := [wordN (2^33), 0, 0x40, 0, 32, 4096, 0, 0, 0x8000, 0x3FF], stop := [], armM := 0, mA := 0, slot := 0, slotM := 0, slotL := 0, next := 7, samples := [], marks := [], lines := [], lineMarks := [], kA := 0, nextL := 0, trigs := [], segs := [], poison := false, segPoison := false, stopM := none, truncated := none } : Rec) } with rt := { x.rt with rta := 2^90 }, dram := { x.dram with extent := 2^16 } }; x)
     let sd : SideId := .stroke
     let ch : Chan := .c1
     let r : Rec := ({ num := 9, block := [wordN (2^33), 0, 0x40, 0, 32, 4096, 0, 0, 0x8000, 0x3FF], stop := [], armM := 0, mA := 0, slot := 0, slotM := 0, slotL := 0, next := 7, samples := [], marks := [], lines := [], lineMarks := [], kA := 0, nextL := 0, trigs := [], segs := [], poison := false, segPoison := false, stopM := none, truncated := none } : Rec)
     let x := s.side sd
     let q := x.acqOf ch
     let runs := x.islRuns (srcOf 2 4 0) = true
     q.armed = some r ∧ runs ∧ x.acq.length = 2 ∧ x.recEnd ch r = none ∧ x.host.staged = []) ∧
    (let s : State := on1 (fun x => let x : Side := { x.setAcq .c1 { x.acqOf .c1 with armed := some ({ num := 9, block := [wordN (2^33), 0, 0x40, 0, 32, 4096, 0, 0, 0x8000, 0x3FF], stop := [], armM := 0, mA := 0, slot := 0, slotM := 0, slotL := 0, next := 164, samples := [], marks := [], lines := [], lineMarks := [], kA := 0, nextL := 0, trigs := [⟨100, 163, [1,2,3,4,5,6,7,8]⟩], segs := [], poison := false, segPoison := false, stopM := none, truncated := none } : Rec) } with rt := { x.rt with rta := 2^90 }, dram := { x.dram with extent := 2^16 } }; x)
     let sd : SideId := .stroke
     let ch : Chan := .c1
     let r : Rec := ({ num := 9, block := [wordN (2^33), 0, 0x40, 0, 32, 4096, 0, 0, 0x8000, 0x3FF], stop := [], armM := 0, mA := 0, slot := 0, slotM := 0, slotL := 0, next := 164, samples := [], marks := [], lines := [], lineMarks := [], kA := 0, nextL := 0, trigs := [⟨100, 163, [1,2,3,4,5,6,7,8]⟩], segs := [], poison := false, segPoison := false, stopM := none, truncated := none } : Rec)
     let segs : List Seg := (((s.side sd).recEnd .c1 r).getD ([],0)).1
     let lost : Nat := (((s.side sd).recEnd .c1 r).getD ([],0)).2
     let x := s.side sd
     let q := x.acqOf ch
     let runs := x.islRuns (srcOf 2 4 0) = true
     q.armed = some r ∧ runs ∧ x.acq.length = 2 ∧ x.recEnd ch r = some (segs, lost) ∧ x.recStream ch = none ∧ x.host.staged = [] ∧ segs.length ≤ 65536) ∧
    (let s : State := on1 (fun x => { x with host := { x.host with staged := [(⟨4, .stroke, 2, 0x11, (⟨head0 7 0 0 0, 0, 0, 0, 2, 0, 0, 0⟩ : CmdEntry), [], .now, 500, false, true, [], [500, 0]⟩ : Staged)] } })
     let sd : SideId := .stroke
     let ch : Chan := .c1
     let st : Staged := (⟨4, .stroke, 2, 0x11, (⟨head0 7 0 0 0, 0, 0, 0, 2, 0, 0, 0⟩ : CmdEntry), [], .now, 500, false, true, [], [500, 0]⟩ : Staged)
     let x := s.side sd
     let q := x.acqOf ch
     let runs := x.islRuns (srcOf 2 4 0) = true
     q.armed = none ∧ runs ∧ x.host.staged = [st] ∧ st.op = 0x11 ∧ st.running = true ∧ st.e.op4 % 4 = 2 ^ ch.n) ∧
    (let s : State := on1 (fun x => let x : Side := { (x.set HOST_STAT.LINK_UP 1).setAcq .c1 { x.acqOf .c1 with last := none, hdr := (List.range 32).map (fun i => wordN i) } with dram := { x.dram with extent := 2^16 } }; { x with host := { x.host with staged := [(⟨4, .stroke, 2, 0x13, (⟨head0 7 0 0 0, 0, 0, 0, 1, 0, 4096, 0⟩ : CmdEntry), [], .now, 500, false, true, [], [500, 0]⟩ : Staged)] } })
     let sd : SideId := .stroke
     let ch : Chan := .c1
     let st : Staged := (⟨4, .stroke, 2, 0x13, (⟨head0 7 0 0 0, 0, 0, 0, 1, 0, 4096, 0⟩ : CmdEntry), [], .now, 500, false, true, [], [500, 0]⟩ : Staged)
     let x := s.side sd
     let code := match (s.side sd).readPart st.e with | .error c => c | _ => 0
     x.host.staged = [st] ∧ st.op = 0x13 ∧ st.running = true ∧ chanOf (st.e.op4 % 2) = ch ∧ s.dmaWorks sd = true ∧ x.anyAsleep = false ∧ x.readPart st.e = .error code) ∧
    (let s : State := on1 (fun x => let x : Side := { (x.set HOST_STAT.LINK_UP 1).setAcq .c1 { x.acqOf .c1 with last := some ⟨9, [wordN (2^33), 0, 0x40, 0, 32, 4096, 0, 0, 0x8000, 0x3FF], 5, [⟨1, 100, 103, 0, 0, 0, 0, false⟩], false⟩, hdr := (List.range 32).map (fun i => wordN i) } with dram := { x.dram with extent := 2^16 } }; { x with host := { x.host with staged := [(⟨4, .stroke, 2, 0x13, (⟨head0 7 0 0 0, 0, 0, 0, 7, 0, 4096, 0⟩ : CmdEntry), [], .now, 500, false, true, [], [500, 0]⟩ : Staged)] } })
     let sd : SideId := .stroke
     let ch : Chan := .c1
     let st : Staged := (⟨4, .stroke, 2, 0x13, (⟨head0 7 0 0 0, 0, 0, 0, 7, 0, 4096, 0⟩ : CmdEntry), [], .now, 500, false, true, [], [500, 0]⟩ : Staged)
     let x := s.side sd
     let q := x.acqOf ch
     x.host.staged = [st] ∧ st.op = 0x13 ∧ st.running = true ∧ chanOf (st.e.op4 % 2) = ch ∧ s.dmaWorks sd = true ∧ x.anyAsleep = false ∧ q.armed = none ∧ q.last ≠ none ∧ bitsOf st.e.op4 2 1 = 3) ∧
    (let s : State := on1 (fun x => let x : Side := { (x.set HOST_STAT.LINK_UP 1).setAcq .c1 { x.acqOf .c1 with last := some ⟨9, [wordN (2^33 + 2^32), 0, 0x40, 3, 32, 4096, 0, 0, 0x8000, 0x3FF], 5, [⟨1, 100, 103, 0, 0, 0, 0, false⟩], false⟩, hdr := (List.range 32).map (fun i => wordN i) } with dram := { x.dram with extent := 2^16 } }; { x with host := { x.host with staged := [(⟨4, .stroke, 2, 0x13, (⟨head0 7 0 0 0, 0, 0, 0, 5, 0, 4096, 0⟩ : CmdEntry), [], .now, 500, false, true, [], [500, 0]⟩ : Staged)] } })
     let sd : SideId := .stroke
     let ch : Chan := .c1
     let st : Staged := (⟨4, .stroke, 2, 0x13, (⟨head0 7 0 0 0, 0, 0, 0, 5, 0, 4096, 0⟩ : CmdEntry), [], .now, 500, false, true, [], [500, 0]⟩ : Staged)
     let x := s.side sd
     let d := (((s.side sd).readPart st.e).toOption.getD (⟨9, [wordN (2^33), 0, 0x40, 0, 32, 4096, 0, 0, 0x8000, 0x3FF], 5, [⟨1, 100, 103, 0, 0, 0, 0, false⟩], false⟩, none)).1
     x.host.staged = [st] ∧ st.op = 0x13 ∧ st.running = true ∧ chanOf (st.e.op4 % 2) = ch ∧ s.dmaWorks sd = true ∧ x.anyAsleep = false ∧ x.readPart st.e = .ok (d, none) ∧ bitsOf st.e.op4 2 1 = 2 ∧ st.e.op7 % 2 ^ 17 = 0) ∧
    (let s : State := on1 (fun x => let x : Side := { (x.set HOST_STAT.LINK_UP 1).setAcq .c1 { x.acqOf .c1 with last := some ⟨9, [wordN (2^33), 0, 0x40, 0, 32, 4096, 0, 0, 0x8000, 0x3FF], 5, [⟨1, 100, 103, 0, 0, 0, 0, false⟩], false⟩, hdr := (List.range 32).map (fun i => wordN i) } with dram := { x.dram with extent := 2^16 } }; { x with host := { x.host with staged := [(⟨4, .stroke, 2, 0x13, (⟨head0 7 0 0 0, 0, 0, 0, 1, 0, 4096, 0⟩ : CmdEntry), [], .now, 500, false, true, [], [500, 0]⟩ : Staged)] } })
     let sd : SideId := .stroke
     let ch : Chan := .c1
     let st : Staged := (⟨4, .stroke, 2, 0x13, (⟨head0 7 0 0 0, 0, 0, 0, 1, 0, 4096, 0⟩ : CmdEntry), [], .now, 500, false, true, [], [500, 0]⟩ : Staged)
     let x := s.side sd
     let d := (((s.side sd).readPart st.e).toOption.getD (⟨9, [wordN (2^33), 0, 0x40, 0, 32, 4096, 0, 0, 0x8000, 0x3FF], 5, [⟨1, 100, 103, 0, 0, 0, 0, false⟩], false⟩, none)).1
     let s' := (((s.side sd).readPart st.e).toOption.getD (⟨9, [wordN (2^33), 0, 0x40, 0, 32, 4096, 0, 0, 0x8000, 0x3FF], 5, [⟨1, 100, 103, 0, 0, 0, 0, false⟩], false⟩, none)).2.getD ⟨1,2,3,4,5,6,7,false⟩
     x.host.staged = [st] ∧ st.op = 0x13 ∧ st.running = true ∧ chanOf (st.e.op4 % 2) = ch ∧ s.dmaWorks sd = true ∧ x.anyAsleep = false ∧ x.readPart st.e = .ok (d, some s') ∧ bitsOf st.e.op4 2 1 = 0) ∧
    (let s : State := rdy
     let sd : SideId := .stroke
     let x := s.side sd
     (∀ d ∈ x.host.staged, ¬(d.op = 0x13 ∧ d.running = true))) := by
  refine ⟨?_, ?_, ?_, ?_, ?_, ?_, ?_, ?_, ?_, ?_, ?_, ?_, ?_, ?_, ?_, ?_⟩ <;>
    (dsimp only; decide +kernel)

theorem witness_StreamProgress :
    (let s : State := rdy
     let sd : SideId := .stroke
     let r : Fin 16 := 2
     let x := s.side sd
     let u := x.strmOf r.val
     u.bound = false ∧ u.items = []) ∧
    (let s : State := on1 (fun x => let x : Side := x.setStrm 2 { Strm.init with bound := true, source := 0, ch := .c1, pack := 1, pktLog2 := 1, index := 10, seq := 7, sent := 3, items := [⟨500, 0, 0, [5]⟩, ⟨600, 0, 0, [6]⟩], buf := some (0x1000, 4096, 64, 1)  }; let x : Side := x.set HOST_STAT.LINK_UP 1; x)
     let sd : SideId := .stroke
     let r : Fin 16 := 2
     let addr : Nat := 0x1000
     let len : Nat := 4096
     let used : Nat := 64
     let n : Nat := 1
     let x := s.side sd
     let u := x.strmOf r.val
     let k := 2 ^ u.pktLog2
     let pk := { packetOf u u.items 0 (x.iqAux u.ch) k with seq := u.seq }
     u.bound = true ∧ u.source = 0 ∧ u.stopT = none ∧ u.endFlag = 0 ∧ u.spill = [] ∧ u.gap = none ∧ u.items.length = k ∧ x.strm.length = 16 ∧ (∀ i ∈ u.items, i.words ≠ [] ∧ i.flags = 0) ∧ s.dmaOpen sd = true ∧ x.islRuns (srcOf 4 2 0) = true ∧ u.buf = some (addr, len, used, n) ∧ used + pk.size ≤ len) ∧
    (let s : State := on1 (fun x => let x : Side := x.setStrm 2 { Strm.init with bound := true, source := 0, ch := .c1, pack := 1, pktLog2 := 1, index := 10, seq := 7, sent := 3, items := [⟨500, 0, 0, [5]⟩, ⟨600, 0, 0, [6]⟩], buf := some (0x1000, 4096, 64, 1)  }; let x : Side := x.set HOST_STAT.LINK_UP 1; x)
     let sd : SideId := .stroke
     let r : Fin 16 := 2
     let x := s.side sd
     let u := x.strmOf r.val
     let k := 2 ^ u.pktLog2
     u.bound = true ∧ u.source = 0 ∧ u.stopT = none ∧ u.endFlag = 0 ∧ u.spill = [] ∧ u.gap = none ∧ u.items.length = k ∧ x.strm.length = 16 ∧ (∀ i ∈ u.items, i.words ≠ [] ∧ i.flags = 0) ∧ u.spillLen = 0) ∧
    (let s : State := rdy
     let sd : SideId := .stroke
     let r : Fin 16 := 2
     let x := s.side sd
     let u := x.strmOf r.val
     (u.spill = [] ∨ x.anyAsleep = true)) ∧
    (let s : State := on1 (fun x => let x : Side := x.setStrm 2 { Strm.init with bound := true, spillBase := 64, spillLen := 4096, spill := [(⟨0, 5, 600, 20, 0, 9, 2, [1,2,3,4,5,6,7,8,9]⟩ : Packet), (⟨0, 5, 600, 20, 0, 9, 2, [1,2,3,4,5,6,7,8,9]⟩ : Packet)], spillR := 0, spillW := 256, buf := some (0x1000, 4096, 64, 1) }; let x : Side := x.set HOST_STAT.LINK_UP 1; { x with dram := { x.dram with extent := 2^16 } })
     let sd : SideId := .stroke
     let r : Fin 16 := 2
     let addr : Nat := 0x1000
     let len : Nat := 4096
     let used : Nat := 64
     let n : Nat := 1
     let p : Packet := (⟨0, 5, 600, 20, 0, 9, 2, [1,2,3,4,5,6,7,8,9]⟩ : Packet)
     let rest : List Packet := [(⟨0, 5, 600, 20, 0, 9, 2, [1,2,3,4,5,6,7,8,9]⟩ : Packet)]
     let x := s.side sd
     let u := x.strmOf r.val
     let g1 := x.getDense u.spillBase u.spillR (min p.size (u.spillCap - u.spillR))
     let g2 := g1.1.getDense u.spillBase 0 (p.size - min p.size (u.spillCap - u.spillR))
     u.spill = p :: rest ∧ x.anyAsleep = false ∧ x.strm.length = 16 ∧ s.dmaOpen sd = true ∧ x.islRuns (srcOf 4 2 0) = true ∧ u.buf = some (addr, len, used, n) ∧ g1.2.2 = false ∧ g2.2.2 = false ∧ used + p.size ≤ len) ∧
    (let s : State := on1 (fun x => let x : Side := x.setStrm 2 { Strm.init with bound := true, spillBase := 64, spillLen := 4096, spill := [(⟨0, 5, 600, 20, 0, 9, 2, [1,2,3,4,5,6,7,8,9]⟩ : Packet), (⟨0, 5, 600, 20, 0, 9, 2, [1,2,3,4,5,6,7,8,9]⟩ : Packet)], spillR := 0, spillW := 256, buf := some (0x1000, 4096, 64, 1) }; let x : Side := x.set HOST_STAT.LINK_UP 1; { x with dram := { x.dram with extent := 2^16, mem := { x.dram.mem with poison := [(4, ())] } } })
     let sd : SideId := .stroke
     let r : Fin 16 := 2
     let addr : Nat := 0x1000
     let len : Nat := 4096
     let used : Nat := 64
     let n : Nat := 1
     let p : Packet := (⟨0, 5, 600, 20, 0, 9, 2, [1,2,3,4,5,6,7,8,9]⟩ : Packet)
     let rest : List Packet := [(⟨0, 5, 600, 20, 0, 9, 2, [1,2,3,4,5,6,7,8,9]⟩ : Packet)]
     let x := s.side sd
     let u := x.strmOf r.val
     let g1 := x.getDense u.spillBase u.spillR (min p.size (u.spillCap - u.spillR))
     let g2 := g1.1.getDense u.spillBase 0 (p.size - min p.size (u.spillCap - u.spillR))
     u.spill = p :: rest ∧ x.anyAsleep = false ∧ x.strm.length = 16 ∧ s.dmaOpen sd = true ∧ x.islRuns (srcOf 4 2 0) = true ∧ u.buf = some (addr, len, used, n) ∧ (g1.2.2 = true ∨ g2.2.2 = true) ∧ p.flags / 4 % 2 = 0 ∧ used + 64 ≤ len) ∧
    (let s : State := on1 (fun x => let x : Side := x.setStrm 2 { Strm.init with bound := true, spillBase := 64, spillLen := 4096, spill := [(⟨0, 5, 600, 20, 0, 9, 2, [1,2,3,4,5,6,7,8,9]⟩ : Packet), (⟨0, 5, 600, 20, 0, 9, 2, [1,2,3,4,5,6,7,8,9]⟩ : Packet)], spillR := 0, spillW := 256, buf := some (0x1000, 4096, 64, 1) }; let x : Side := x.set HOST_STAT.LINK_UP 1; { x with dram := { x.dram with extent := 2^16 } })
     let sd : SideId := .stroke
     let r : Fin 16 := 2
     let p : Packet := (⟨0, 5, 600, 20, 0, 9, 2, [1,2,3,4,5,6,7,8,9]⟩ : Packet)
     let rest : List Packet := [(⟨0, 5, 600, 20, 0, 9, 2, [1,2,3,4,5,6,7,8,9]⟩ : Packet)]
     let x := s.side sd
     let u := x.strmOf r.val
     u.spill = p :: rest ∧ x.anyAsleep = false ∧ x.strm.length = 16) ∧
    (let s : State := on1 (fun x => let x : Side := x.setStrm 2 { Strm.init with bound := true, ended := true, sent := 4, lost := 5 }; let x : Side := x.set HOST_STAT.LINK_UP 1; { x with host := { x.host with staged := [(⟨4, .stroke, 2, 0x21, (⟨head0 7 0 0 0, 0, 0, 0, 2, 0, 0, 0⟩ : CmdEntry), [], .now, 500, false, true, [], [500, 0]⟩ : Staged)] } })
     let sd : SideId := .stroke
     let r : Fin 16 := 2
     let st : Staged := (⟨4, .stroke, 2, 0x21, (⟨head0 7 0 0 0, 0, 0, 0, 2, 0, 0, 0⟩ : CmdEntry), [], .now, 500, false, true, [], [500, 0]⟩ : Staged)
     let x := s.side sd
     let u := x.strmOf r.val
     u.bound = true ∧ u.ended = true ∧ u.items = [] ∧ u.spill = [] ∧ u.buf = none ∧ x.host.staged = [st] ∧ st.op = 0x21 ∧ st.running = true ∧ st.e.op4 % 16 = r.val) ∧
    (let s : State := rdy
     let sd : SideId := .stroke
     let r : Fin 16 := 2
     let x := s.side sd
     let u := x.strmOf r.val
     u.ended = false) := by
  refine ⟨?_, ?_, ?_, ?_, ?_, ?_, ?_, ?_, ?_⟩ <;>
    (dsimp only; decide +kernel)

theorem witness_HostLink :
    (let s : State := State.reset
     s.held = true) ∧
    (let s : State := on1 (fun x => { (x.setReg 0x1004 5).setStrm 2 { Strm.init with bound := true } with host := { x.host with compl := [⟨1,2,3,false,⟨1,2,3,4,5,false,7,8⟩⟩], staged := [(⟨4, .stroke, 2, 0x12, (⟨head0 7 0 0 0, 0, 0, 0, 0, 0, 0, 0⟩ : CmdEntry), [], .now, 500, false, true, [], [500, 0]⟩ : Staged)] } })
     s.held = false) ∧
    (let s : State := rdy
     let sd : SideId := .stroke
     let x := s.side sd
     s.held = false ∧ x.islRuns (srcOf 4 0 0) = true ∧ (sd = .stroke ∨ s.stroke.on HOST_CFG.ROUTE_BOW = false)) ∧
    (let s : State := on1 (fun x => x.set HOST_CFG.ROUTE_BOW 1)
     s.stroke.on HOST_CFG.ROUTE_BOW = true) ∧
    (let s : State := rdy
     let sd : SideId := .stroke
     let x := s.side sd
     let up := s.held = false ∧ x.on HOST_STAT.LINK_UP = true ∧ x.islTakes (srcOf 4 0 0) = true
     ¬up) ∧
    (let s : State := on1 (fun x => let x : Side := x.set HOST_STAT.LINK_UP 1; x)
     let sd : SideId := .stroke
     let x := s.side sd
     let up := s.held = false ∧ x.on HOST_STAT.LINK_UP = true ∧ x.islTakes (srcOf 4 0 0) = true
     up) ∧
    (let s : State := on1 (fun x => let x : Side := x.set HOST_STAT.LINK_UP 1; x)
     let sd : SideId := .stroke
     let o0 : BitVec 24 := 0x801008
     let m : Fin 11 := 0
     let x := s.side sd
     let up := s.held = false ∧ x.on HOST_STAT.LINK_UP = true ∧ x.islTakes (srcOf 4 0 0) = true
     up ∧ m.val = sd.n ∧ o0.toNat % 8 = 0) ∧
    (let s : State := on1 (fun x => let x : Side := x.set HOST_STAT.LINK_UP 1; x)
     let sd : SideId := .stroke
     let x := s.side sd
     let up := s.held = false ∧ x.on HOST_STAT.LINK_UP = true ∧ x.islTakes (srcOf 4 0 0) = true
     up ∧ x.host.msix.length = 64) ∧
    (let s : State := rdy
     let sd : SideId := .stroke
     let win : Fin 4 := 1
     let x := s.side sd
     let enabled := x.on (WIN_CFG.EN win.val)
     enabled = false) ∧
    (let s : State := on1 (fun x => let x : Side := x.set HOST_STAT.LINK_UP 1; ((x.set (WIN_CFG.EN 1) 1).set (WIN_CFG.BASE 1) 0).set INIT_STAT.READY 0)
     let sd : SideId := .stroke
     let win : Fin 4 := 1
     let bytes : List Byte := [1,2,3,4,5,6,7,8]
     let x := s.side sd
     let up := s.held = false ∧ x.on HOST_STAT.LINK_UP = true ∧ x.islTakes (srcOf 4 0 0) = true
     let enabled := x.on (WIN_CFG.EN win.val)
     up ∧ enabled = true ∧ x.on INIT_STAT.READY = false ∧ bytes ≠ []) ∧
    (let s : State := on1 (fun x => let x : Side := x.set HOST_STAT.LINK_UP 1; ((x.set (WIN_CFG.EN 1) 1).set (WIN_CFG.BASE 1) 0))
     let sd : SideId := .stroke
     let win : Fin 4 := 1
     let off : BitVec 30 := 0x40
     let bytes : List Byte := [1,2,3,4,5,6,7,8]
     let x := s.side sd
     let base := x.get (WIN_CFG.BASE win.val) * 2 ^ 16
     let dense := x.on (WIN_CFG.DENSE win.val)
     let up := s.held = false ∧ x.on HOST_STAT.LINK_UP = true ∧ x.islTakes (srcOf 4 0 0) = true
     let enabled := x.on (WIN_CFG.EN win.val)
     up ∧ enabled = true ∧ x.on INIT_STAT.READY = true ∧ dense = false ∧ base = (sd.n * 2 ^ 43 : Nat) ∧ off.toNat % 8 = 0 ∧ bytes.length = 8 ∧ lget x.host.win win.val ⟨none, []⟩ = ⟨none, []⟩ ∧ off.toNat / 8 < 2 ^ 24 ∧ x.host.win.length = 4 ∧ (off.toNat / 8 < 2 ^ 23 → x.on (DENS_STAT.RUNNING (off.toNat / 8 / 2 ^ 22)) = false)) ∧
    (let s : State := rdy
     let sd : SideId := .stroke
     let x := s.side sd
     let up := s.held = false ∧ x.on HOST_STAT.LINK_UP = true ∧ x.islTakes (srcOf 4 0 0) = true
     ¬up) ∧
    (let s : State := on1 (fun x => let x : Side := x.set HOST_STAT.LINK_UP 1; x)
     let sd : SideId := .stroke
     let win : Fin 4 := 1
     let len : Nat := 8
     let x := s.side sd
     let dense := x.on (WIN_CFG.DENSE win.val)
     let up := s.held = false ∧ x.on HOST_STAT.LINK_UP = true ∧ x.islTakes (srcOf 4 0 0) = true
     let enabled := x.on (WIN_CFG.EN win.val)
     up ∧ enabled = false ∧ dense = false ∧ 0 < len ∧ lget x.host.win win.val ⟨none, []⟩ = ⟨none, []⟩ ∧ x.host.win.length = 4) ∧
    (let s : State := on1 (fun x => let x : Side := x.set HOST_STAT.LINK_UP 1; { ((x.set (WIN_CFG.EN 1) 1).set (WIN_CFG.BASE 1) (2^23)) with dram := { x.dram with extent := 2^16 } } |> fun x => (List.range 8).foldl (fun x i => x.set (DRAM_STAT.SR i) 1) x)
     let sd : SideId := .stroke
     let win : Fin 4 := 1
     let off : BitVec 30 := 0x40
     let len : Nat := 8
     let x := s.side sd
     let base := x.get (WIN_CFG.BASE win.val) * 2 ^ 16
     let dense := x.on (WIN_CFG.DENSE win.val)
     let up := s.held = false ∧ x.on HOST_STAT.LINK_UP = true ∧ x.islTakes (srcOf 4 0 0) = true
     let enabled := x.on (WIN_CFG.EN win.val)
     up ∧ enabled = true ∧ x.on INIT_STAT.READY = true ∧ dense = false ∧ base = (sd.n * 2 ^ 43 + 2 ^ 39 : Nat) ∧ off.toNat % 8 = 0 ∧ len = 8 ∧ lget x.host.win win.val ⟨none, []⟩ = ⟨none, []⟩ ∧ off.toNat / 8 < x.dram.extent ∧ x.host.win.length = 4 ∧ x.spaceWaits 1 (off.toNat / 8) 1 = true) ∧
    (let s : State := on1 (fun x => let x : Side := x.set HOST_STAT.LINK_UP 1; { ((x.set (WIN_CFG.EN 1) 1).set (WIN_CFG.BASE 1) (2^23)) with dram := { x.dram with extent := 2^16 } }.writeRange .dram 1 8 [5])
     let sd : SideId := .stroke
     let win : Fin 4 := 1
     let off : BitVec 30 := 0x40
     let len : Nat := 8
     let x := s.side sd
     let base := x.get (WIN_CFG.BASE win.val) * 2 ^ 16
     let dense := x.on (WIN_CFG.DENSE win.val)
     let up := s.held = false ∧ x.on HOST_STAT.LINK_UP = true ∧ x.islTakes (srcOf 4 0 0) = true
     let enabled := x.on (WIN_CFG.EN win.val)
     up ∧ enabled = true ∧ x.on INIT_STAT.READY = true ∧ dense = false ∧ base = (sd.n * 2 ^ 43 + 2 ^ 39 : Nat) ∧ off.toNat % 8 = 0 ∧ len = 8 ∧ lget x.host.win win.val ⟨none, []⟩ = ⟨none, []⟩ ∧ off.toNat / 8 < x.dram.extent ∧ x.host.win.length = 4 ∧ x.spaceWaits 1 (off.toNat / 8) 1 = false ∧ (x.readRange .dram (off.toNat / 8) 1).2.2 = 0) ∧
    (let s : State := on1 (fun x => { x with host := { x.host with win := lset x.host.win 1 ⟨some 5, [(0, 9)]⟩ } })
     let sd : SideId := .stroke
     let win : Fin 4 := 1
     let y : Side := s.side sd
     let k : Nat := 5
     let b : Byte := 9
     (lget y.host.win win.val ⟨none, []⟩) = ⟨some k, [(0, b)]⟩ ∧ y.on (WIN_CFG.DENSE win.val) = false ∧ y.host.win.length = 4) ∧
    (let s : State := { rdy with keel := { rdy.keel with reads := [(.stroke, 3, 5, [1,2], true), (.bow, 3, 5, [1,2], true)] } }
     let sd : SideId := .stroke
     let m : Nat := 3
     let a : Nat := 5
     let ws : List Word := [1,2]
     let ep : Bool := true
     let rest : List (SideId × Nat × Nat × List Word × Bool) := s.keel.reads.drop 1
     s.keel.reads = (sd, m, a, ws, ep) :: rest) ∧
    (let s : State := rdy
     s.keel.reads = []) := by
  refine ⟨?_, ?_, ?_, ?_, ?_, ?_, ?_, ?_, ?_, ?_, ?_, ?_, ?_, ?_, ?_, ?_, ?_, ?_⟩ <;>
    (dsimp only; decide +kernel)

theorem witness_HostRings :
    (let s : State := rdy
     let sd : SideId := .stroke
     let x := s.side sd
     (x.on DB_CFG.EN = false ∨ s.dmaWorks sd = false)) ∧
    (let s : State := on1 (fun x => let x : Side := ((x.set HOST_STAT.LINK_UP 1).set DB_CFG.EN 1).setPair DB_PAGE_LO.whole.idx 0x5000; { (x.set (CMDQ_CFG.EN 3) 1).set (CMDQ_CFG.LOG2SIZE 3) 8 with host := { x.host with cmd := lset x.host.cmd 3 ⟨5, 2, none⟩ } })
     let sd : SideId := .stroke
     let x := s.side sd
     let works := s.dmaWorks sd = true
     let y : Side := s.side sd
     let i := 3
     let v := 6
     let r := lget y.host.cmd i ⟨0, 0, none⟩
     x.on DB_CFG.EN = true ∧ works ∧ i < 8 ∧ y.on (CMDQ_CFG.EN i) = true ∧ bitAt (y.get RING_ERR.CMD_ERR) i = false ∧ y.host.cmd.length = 8 ∧ r.pi ≤ v ∧ v ≤ r.ci + 2 ^ y.get (CMDQ_CFG.LOG2SIZE i)) ∧
    (let s : State := on1 (fun x => let x : Side := ((x.set HOST_STAT.LINK_UP 1).set DB_CFG.EN 1).setPair DB_PAGE_LO.whole.idx 0x5000; { (x.set (CMDQ_CFG.EN 3) 1).set (CMDQ_CFG.LOG2SIZE 3) 8 with host := { x.host with cmd := lset x.host.cmd 3 ⟨5, 2, none⟩ } })
     let sd : SideId := .stroke
     let x := s.side sd
     let works := s.dmaWorks sd = true
     let y : Side := s.side sd
     let i := 3
     let v := 4
     let r := lget y.host.cmd i ⟨0, 0, none⟩
     x.on DB_CFG.EN = true ∧ works ∧ i < 8 ∧ y.on (CMDQ_CFG.EN i) = true ∧ bitAt (y.get RING_ERR.CMD_ERR) i = false ∧ y.host.cmd.length = 8 ∧ (v < r.pi ∨ r.ci + 2 ^ y.get (CMDQ_CFG.LOG2SIZE i) < v)) ∧
    (let s : State := on1 (fun x => let x : Side := ((x.set HOST_STAT.LINK_UP 1).set DB_CFG.EN 1).setPair DB_PAGE_LO.whole.idx 0x5000; x)
     let sd : SideId := .stroke
     let x := s.side sd
     let works := s.dmaWorks sd = true
     x.on DB_CFG.EN = true ∧ works) ∧
    (let s : State := on1 (fun x => let x : Side := ((x.set HOST_STAT.LINK_UP 1).set DB_CFG.EN 1).setPair DB_PAGE_LO.whole.idx 0x5000; { ((x.set (CQ_CFG.EN 2) 1).set (CQ_CFG.LOG2SIZE 2) 8).setPair (CQ_BASE_LO.whole 2).idx 0x9000 with host := { x.host with compl := [(⟨2, 3, 7, true, (⟨1, 0, 3, 400, 2, false, 5, -6⟩ : Entry)⟩ : ComplWait), (⟨2, 3, 7, true, (⟨1, 0, 3, 400, 2, false, 5, -6⟩ : Entry)⟩ : ComplWait)], cq := lset x.host.cq 2 ⟨261, 5, 0⟩ } })
     let sd : SideId := .stroke
     let cq : Fin 8 := 2
     let c : ComplWait := (⟨2, 3, 7, true, (⟨1, 0, 3, 400, 2, false, 5, -6⟩ : Entry)⟩ : ComplWait)
     let rest : List ComplWait := [(⟨2, 3, 7, true, (⟨1, 0, 3, 400, 2, false, 5, -6⟩ : Entry)⟩ : ComplWait)]
     let x := s.side sd
     let works := s.dmaWorks sd = true
     let r := x.outRing cq.val
     let size := x.outSize cq.val
     x.host.compl = c :: rest ∧ c.cq = cq.val ∧ x.outOn cq.val = true ∧ works ∧ x.host.cq.length = 8 ∧ size ≤ r.pi - r.ci) ∧
    (let s : State := on1 (fun x => let x : Side := ((x.set HOST_STAT.LINK_UP 1).set DB_CFG.EN 1).setPair DB_PAGE_LO.whole.idx 0x5000; { ((x.set (CQ_CFG.EN 2) 1).set (CQ_CFG.LOG2SIZE 2) 8).setPair (CQ_BASE_LO.whole 2).idx 0x9000 with host := { x.host with compl := [(⟨2, 3, 7, true, (⟨1, 0, 3, 400, 2, false, 5, -6⟩ : Entry)⟩ : ComplWait), (⟨2, 3, 7, true, (⟨1, 0, 3, 400, 2, false, 5, -6⟩ : Entry)⟩ : ComplWait)], cq := lset x.host.cq 2 ⟨260, 5, 0⟩ } })
     let sd : SideId := .stroke
     let cq : Fin 8 := 2
     let c : ComplWait := (⟨2, 3, 7, true, (⟨1, 0, 3, 400, 2, false, 5, -6⟩ : Entry)⟩ : ComplWait)
     let rest : List ComplWait := [(⟨2, 3, 7, true, (⟨1, 0, 3, 400, 2, false, 5, -6⟩ : Entry)⟩ : ComplWait)]
     let x := s.side sd
     let works := s.dmaWorks sd = true
     let r := x.outRing cq.val
     let size := x.outSize cq.val
     x.host.compl = c :: rest ∧ c.cq = cq.val ∧ x.outOn cq.val = true ∧ works ∧ x.host.cq.length = 8 ∧ r.pi - r.ci < size) ∧
    (let s : State := rdy
     let sd : SideId := .stroke
     let x := s.side sd
     x.host.compl = []) ∧
    (let s : State := on1 (fun x => let x : Side := ((x.set HOST_STAT.LINK_UP 1).set DB_CFG.EN 1).setPair DB_PAGE_LO.whole.idx 0x5000; { ((x.set EVQ_CFG.EN 1).set EVQ_CFG.LOG2SIZE 8).setPair EVQ_BASE_LO.whole.idx 0x9000 with host := { x.host with events := [(⟨1, 0, 3, 400, 2, false, 5, -6⟩ : Entry), (⟨1, 0, 3, 400, 2, false, 5, -6⟩ : Entry)], evq := ⟨7, 5, 0⟩, overflow := none, dropped := 3 } })
     let sd : SideId := .stroke
     let e : Entry := (⟨1, 0, 3, 400, 2, false, 5, -6⟩ : Entry)
     let es : List Entry := [(⟨1, 0, 3, 400, 2, false, 5, -6⟩ : Entry)]
     let x := s.side sd
     let works := s.dmaWorks sd = true
     let r := x.outRing 8
     x.on EVQ_CFG.EN = true ∧ x.on RING_ERR.EVQ_ERR = false ∧ works ∧ x.host.overflow = none ∧ x.host.events = e :: es ∧ r.pi + 1 < r.ci + x.outSize 8) ∧
    (let s : State := on1 (fun x => let x : Side := ((x.set HOST_STAT.LINK_UP 1).set DB_CFG.EN 1).setPair DB_PAGE_LO.whole.idx 0x5000; { ((x.set EVQ_CFG.EN 1).set EVQ_CFG.LOG2SIZE 8).setPair EVQ_BASE_LO.whole.idx 0x9000 with host := { x.host with events := [(⟨1, 0, 3, 400, 2, false, 5, -6⟩ : Entry), (⟨1, 0, 3, 400, 2, false, 5, -6⟩ : Entry)], evq := ⟨260, 5, 0⟩, overflow := none, dropped := 3 } })
     let sd : SideId := .stroke
     let e : Entry := (⟨1, 0, 3, 400, 2, false, 5, -6⟩ : Entry)
     let es : List Entry := [(⟨1, 0, 3, 400, 2, false, 5, -6⟩ : Entry)]
     let x := s.side sd
     let works := s.dmaWorks sd = true
     let r := x.outRing 8
     x.on EVQ_CFG.EN = true ∧ x.on RING_ERR.EVQ_ERR = false ∧ works ∧ x.host.overflow = none ∧ x.host.events = e :: es ∧ r.ci + x.outSize 8 ≤ r.pi + 1) ∧
    (let s : State := on1 (fun x => let x : Side := ((x.set HOST_STAT.LINK_UP 1).set DB_CFG.EN 1).setPair DB_PAGE_LO.whole.idx 0x5000; { ((x.set EVQ_CFG.EN 1).set EVQ_CFG.LOG2SIZE 8).setPair EVQ_BASE_LO.whole.idx 0x9000 with host := { x.host with events := [(⟨1, 0, 3, 400, 2, false, 5, -6⟩ : Entry), (⟨1, 0, 3, 400, 2, false, 5, -6⟩ : Entry)], evq := ⟨259, 5, 0⟩, overflow := some 500, dropped := 3 } })
     let sd : SideId := .stroke
     let t : Nat := 500
     let x := s.side sd
     let works := s.dmaWorks sd = true
     x.on EVQ_CFG.EN = true ∧ x.on RING_ERR.EVQ_ERR = false ∧ works ∧ x.host.overflow = some t ∧ (x.outRing 8).pi + 1 < (x.outRing 8).ci + x.outSize 8) ∧
    (let s : State := on1 (fun x => let x : Side := ((x.set HOST_STAT.LINK_UP 1).set DB_CFG.EN 1).setPair DB_PAGE_LO.whole.idx 0x5000; { x.setReg (CQ_CFG.whole 2).idx (wordN (2 ^ 18 + 2 ^ 8)) with host := { x.host with cq := lset x.host.cq 2 ⟨4, 5, 3⟩ } })
     let sd : SideId := .stroke
     let src : Fin 25 := 2
     let x := s.side sd
     let works := s.dmaWorks sd = true
     let timed := 0 < (x.outRing src.val).count ∧ bitsOf (x.outCfg src.val) 25 18 ≠ 0 ∧ bitsOf (x.outCfg src.val) 17 8 ≠ 0
     timed ∧ works) ∧
    (let s : State := rdy
     let sd : SideId := .stroke
     let src : Fin 25 := 2
     let x := s.side sd
     let timed := 0 < (x.outRing src.val).count ∧ bitsOf (x.outCfg src.val) 25 18 ≠ 0 ∧ bitsOf (x.outCfg src.val) 17 8 ≠ 0
     (¬timed ∨ s.dmaWorks sd = false)) ∧
    (let s : State := rdy
     let sd : SideId := .stroke
     let h := s.endpoint sd
     h = sd) ∧
    (let s : State := rdy
     (s.held = true ∨ s.keel.up = false)) ∧
    (let s : State := State.reset
     s.held = true) ∧
    (let s : State := { rdy with keel := { rdy.keel with up := true, dones := [(.stroke, 3, 7, (⟨head0 0x1234 0 0 0, 0, 0, 0, 0, 0, 0, 0⟩ : CmdEntry), (⟨1, 0, 3, 400, 2, false, 5, -6⟩ : Entry))] } }
     let sd : SideId := .stroke
     let e : Entry := (⟨1, 0, 3, 400, 2, false, 5, -6⟩ : Entry)
     let id : Nat := 7
     let ring : Fin 8 := 3
     let fl : CmdEntry := (⟨head0 0x1234 0 0 0, 0, 0, 0, 0, 0, 0, 0⟩ : CmdEntry)
     let x := s.side sd
     s.keel.up = true ∧ s.keel.dones = [(sd, ring, id, fl, e)] ∧ x.host.staged = []) ∧
    (let s : State := on1 (fun x => { { x with rt := { x.rt with rta := 600 * 2^24 } } with host := { x.host with staged := [(⟨4, .stroke, 2, 0x20, (⟨head0 7 0 0 0, 0, 0, 0, 2, 0, 0, 0⟩ : CmdEntry), [], .time 500, 500, false, false, [], [500, 0]⟩ : Staged)] } })
     let sd : SideId := .stroke
     let st : Staged := lget (s.side sd).host.staged 0 (⟨4, .stroke, 2, 0x20, (⟨head0 7 0 4 0, 0, 0, 0, 0, 0, 0, 0⟩ : CmdEntry), [], .now, 500, false, false, [], []⟩ : Staged)
     let t : Nat := 500
     let x := s.side sd
     s.held = false ∧ x.host.staged = [st] ∧ st.waits = true ∧ st.reached = false ∧ x.instantOf st = some t) ∧
    (let s : State := on1 (fun x => { x with host := { x.host with staged := [(⟨4, .stroke, 2, 0x20, (⟨head0 7 0 0 0, 0, 0, 0, 2, 0, 0, 0⟩ : CmdEntry), [], .strobe 1, 500, false, false, [], [500, 0]⟩ : Staged)] } })
     let sd : SideId := .stroke
     let st : Staged := lget (s.side sd).host.staged 0 (⟨4, .stroke, 2, 0x20, (⟨head0 7 0 4 0, 0, 0, 0, 0, 0, 0, 0⟩ : CmdEntry), [], .now, 500, false, false, [], []⟩ : Staged)
     let x := s.side sd
     s.held = false ∧ x.host.staged = [st] ∧ st.waits = true ∧ st.reached = false ∧ x.instantOf st = none) := by
  refine ⟨?_, ?_, ?_, ?_, ?_, ?_, ?_, ?_, ?_, ?_, ?_, ?_, ?_, ?_, ?_, ?_, ?_, ?_⟩ <;>
    (dsimp only; decide +kernel)

theorem witness_HostRings_open :
    (let s : State := { rdy with keel := { rdy.keel with up := true, cmds := [(.stroke, (⟨4, .stroke, 2, 0x20, (⟨head0 7 0 4 0, 0, 0, 0, 0, 0, 0, 0⟩ : CmdEntry), [], .now, 500, false, false, [], []⟩ : Staged))] } }
     let sd : SideId := .stroke
     let e : Entry := (⟨1, 0, 3, 400, 2, false, 5, -6⟩ : Entry)
     let st : Staged := (⟨4, .stroke, 2, 0x20, (⟨head0 7 0 4 0, 0, 0, 0, 0, 0, 0, 0⟩ : CmdEntry), [], .now, 500, false, false, [], []⟩ : Staged)
     let b : Bnd := .strobe 1
     let x := s.side sd
     s.held = false ∧ s.keel.up = true ∧ s.keel.cmds = [(sd, st)] ∧ x.pwr.fatal = false ∧ st.op ≠ 0x01 ∧ st.op ≠ 0x44 ∧ st.op ≠ 0x61 ∧ x.resolveBnd s.keel.up st.texec st.op st.e = .ok b ∧ b ≠ .now ∧ (∀ u, b ≠ .time u) ∧ st.op ≠ 0x51) := by
  dsimp only
  exact ⟨by decide +kernel, by decide +kernel, by decide +kernel, by decide +kernel, by decide +kernel, by decide +kernel, by decide +kernel,
    by decide +kernel, by decide +kernel, fun u => by simp, by decide +kernel⟩

theorem witness_CalibrationItems :
    (let v1 : Int := 100
     let v2 : Int := -32667
     v1 - v2 ≤ 32767 ∧ -32768 ≤ v1 - v2) ∧
    (let v1 : Int := 1250000
     let zero : Int := -5
     let ref : Int := 4194299
     zero < ref ∧ 0 ≤ rhe (2 ^ 22 * v1) (ref - zero).toNat ∧ rhe (2 ^ 22 * v1) (ref - zero).toNat < 2 ^ 24) ∧
    (let s : State := rdy
     let sd : SideId := .stroke
     let x := s.side sd
     x.cal.job = none) ∧
    (let s : State := on1 (fun x => let x : Side := x; { x with cal := { x.cal with job := some (⟨false, 31, false, [], .stroke, 4, [4, 2], [3], 0, 0, 0, 0, 0⟩ : CalJob)  } })
     let sd : SideId := .stroke
     let item : Fin 5 := 2
     let j : CalJob := (⟨false, 31, false, [], .stroke, 4, [4, 2], [3], 0, 0, 0, 0, 0⟩ : CalJob)
     let x := s.side sd
     let m := item.val
     x.cal.job = some j ∧ j.left.head? ≠ some m) ∧
    (let s : State := on1 (fun x => { x.set PLL_STAT.T_LOCK 1 with cal := { x.cal with job := some (⟨false, 31, false, [], .stroke, 4, [0, 2], [3], 0, 0, 0, 0, 0⟩ : CalJob) } })
     let sd : SideId := .stroke
     let item : Fin 5 := 0
     let j : CalJob := (⟨false, 31, false, [], .stroke, 4, [0, 2], [3], 0, 0, 0, 0, 0⟩ : CalJob)
     let l : List Nat := [2]
     let x := s.side sd
     let m := item.val
     x.cal.job = some j ∧ m = 0 ∧ j.left = 0 :: l ∧ j.second = false ∧ x.on PLL_STAT.T_LOCK = true) ∧
    (let s : State := on1 (fun x => let x : Side := x; { x with cal := { x.cal with job := some (⟨false, 31, false, [], .stroke, 4, [2, 4], [3], 0, 0, 0, 0, 0⟩ : CalJob)  } })
     let sd : SideId := .stroke
     let item : Fin 5 := 2
     let runs : CalRuns := ⟨0, ⟨[], [], [(69, 20)], 0, 0, [], []⟩, ⟨[], [], [(69, 23)], 0, 0, [], []⟩⟩
     let j : CalJob := (⟨false, 31, false, [], .stroke, 4, [2, 4], [3], 0, 0, 0, 0, 0⟩ : CalJob)
     let l : List Nat := []
     let idx : Nat := (CAL_TONE_TRIM.whole 1 5).idx
     let k : Nat := 4
     let v1 : Int := 20
     let v2 : Int := 23
     let x := s.side sd
     let m := item.val
     x.cal.job = some j ∧ j.left = m :: k :: l ∧ 2 ≤ m ∧ x.calEntries m runs = [(idx, v1, v2)] ∧ x.calUsable m j false idx = true ∧ x.calStaged m = [] ∧ asorted x.cal.staged = true ∧ x.calFaults m runs.refv.toInt (bitAt j.faulted 3) = false ∧ calAgree m idx v1 v2 = true) ∧
    (let s : State := on1 (fun x => let x : Side := x; { x with cal := { x.cal with job := some (⟨false, 31, false, [], .stroke, 4, [2, 4], [3], 0, 0, 0, 0, 0⟩ : CalJob)  } })
     let sd : SideId := .stroke
     let item : Fin 5 := 2
     let runs : CalRuns := ⟨0, ⟨[], [], [(69, 20)], 0, 0, [], []⟩, ⟨[], [], [(69, 43)], 0, 0, [], []⟩⟩
     let j : CalJob := (⟨false, 31, false, [], .stroke, 4, [2, 4], [3], 0, 0, 0, 0, 0⟩ : CalJob)
     let l : List Nat := []
     let idx : Nat := (CAL_TONE_TRIM.whole 1 5).idx
     let k : Nat := 4
     let v1 : Int := 20
     let v2 : Int := 43
     let x := s.side sd
     let m := item.val
     x.cal.job = some j ∧ j.left = m :: k :: l ∧ 2 ≤ m ∧ x.calEntries m runs = [(idx, v1, v2)] ∧ x.calUsable m j false idx = true ∧ x.calStaged m = [] ∧ asorted x.cal.staged = true ∧ x.calFaults m runs.refv.toInt (bitAt j.faulted 3) = false ∧ calAgree m idx v1 v2 = false) ∧
    (let s : State := on1 (fun x => let x : Side := x; { x with cal := { x.cal with job := some (⟨false, 31, false, [], .stroke, 4, [4, 2], [3], 0, 0, 0, 0, 0⟩ : CalJob)  } })
     let sd : SideId := .stroke
     let item : Fin 5 := 4
     let runs : CalRuns := ⟨0, ⟨[], [], [], 0, 0, [], [(3, 20)]⟩, ⟨[], [], [], 0, 0, [], [(3, 23)]⟩⟩
     let j : CalJob := (⟨false, 31, false, [], .stroke, 4, [4, 2], [3], 0, 0, 0, 0, 0⟩ : CalJob)
     let l : List Nat := []
     let idx : Nat := (CAL_KEEL_SKEW.whole 3).idx
     let k : Nat := 2
     let v1 : Int := 20
     let v2 : Int := 23
     let x := s.side sd
     let m := item.val
     x.cal.job = some j ∧ j.left = m :: k :: l ∧ 2 ≤ m ∧ x.calEntries m runs = [(idx, v1, v2)] ∧ x.calUsable m j false idx = true ∧ x.calStaged m = [] ∧ asorted x.cal.staged = true ∧ x.calFaults m runs.refv.toInt (bitAt j.faulted 3) = true) ∧
    (let s : State := on1 (fun x => let x : Side := x; { x with cal := { x.cal with job := none , staged := [(2, [((CAL_TONE_TRIM.whole 1 5).idx, wordN 77)])] } })
     let sd : SideId := .stroke
     let item : Fin 5 := 2
     let idx : Nat := (CAL_TONE_TRIM.whole 1 5).idx
     let v : Word := wordN 77
     let x := s.side sd
     let m := item.val
     x.cal.job = none ∧ (∀ d ∈ x.host.staged, d.op ≠ 0x30 ∧ d.op ≠ 0x31) ∧ x.calStaged m = [(idx, v)] ∧ m ≠ 0 ∧ asorted x.cal.staged = true) ∧
    (let s : State := on1 (fun x => let x : Side := x; { x with cal := { x.cal with job := some (⟨true, 31, false, [], .stroke, 4, [], [2, 4], 0, 0, 0, 0, 0⟩ : CalJob)  } })
     let sd : SideId := .stroke
     let item : Fin 5 := 2
     let j : CalJob := (⟨true, 31, false, [], .stroke, 4, [], [2, 4], 0, 0, 0, 0, 0⟩ : CalJob)
     let k : Nat := 4
     let x := s.side sd
     let m := item.val
     x.cal.job = some j ∧ j.restore = true ∧ j.left = [] ∧ k ∈ j.waiting ∧ k ≠ m ∧ m ∈ j.waiting) ∧
    (let s : State := on1 (fun x => let x : Side := x; { x with cal := { x.cal with job := some (⟨true, 31, false, [], .stroke, 4, [], [3, 4], 0, 0, 0, 0, 0⟩ : CalJob)  } })
     let sd : SideId := .stroke
     let item : Fin 5 := 2
     let j : CalJob := (⟨true, 31, false, [], .stroke, 4, [], [3, 4], 0, 0, 0, 0, 0⟩ : CalJob)
     let k : Nat := 4
     let x := s.side sd
     let m := item.val
     x.cal.job = some j ∧ j.restore = true ∧ j.left = [] ∧ k ∈ j.waiting ∧ m ∉ j.waiting) ∧
    (let s : State := on1 (fun x => let x : Side := { x with split := { x.split with swapReq := [2, 5] } }; { x with cal := { x.cal with job := some (⟨false, 31, false, [], .stroke, 4, [2, 4], [3], 0, 0, 0, 0, 0⟩ : CalJob) , swaps := [2, 3] } })
     let sd : SideId := .stroke
     let src : Fin 8 := 2
     let j : CalJob := (⟨false, 31, false, [], .stroke, 4, [2, 4], [3], 0, 0, 0, 0, 0⟩ : CalJob)
     let x := s.side sd
     x.cal.job = some j ∧ src.val ∈ x.cal.swaps) ∧
    (let s : State := on1 (fun x => let x : Side := x; { x with cal := { x.cal with job := some (⟨false, 31, false, [], .stroke, 4, [2, 4], [3], 0, 0, 0, 0, 0⟩ : CalJob)  } })
     let sd : SideId := .stroke
     let src : Fin 8 := 2
     let j : CalJob := (⟨false, 31, false, [], .stroke, 4, [2, 4], [3], 0, 0, 0, 0, 0⟩ : CalJob)
     let x := s.side sd
     x.cal.job = some j ∧ src.val ∉ x.cal.swaps) := by
  refine ⟨?_, ?_, ?_, ?_, ?_, ?_, ?_, ?_, ?_, ?_, ?_, ?_, ?_⟩ <;>
    (dsimp only; decide +kernel)

theorem witness_ToneOutputs :
    (let s : State := rdy
     let sd : SideId := .stroke
     let x := s.side sd
     x.strobe.due = []) ∧
    (let s : State := on1 (fun x => let x : Side := { x with rt := { x.rt with rta := 5497558138880 * 2^24 } }; let x : Side := { x with strobe := ⟨[(9 * 2^40, []), (9 * 2^40, [])], [], []⟩ }; x.setTone 1 { x.toneOf 1 with acc := 5 })
     let sd : SideId := .stroke
     let t : Nat := 9 * 2^40
     let cs : List (SideId × Nat) := []
     let rest : List (Nat × List (SideId × Nat)) := [(9 * 2^40, [])]
     let x := s.side sd
     x.strobe.due = (t, cs) :: rest ∧ x.now < t) ∧
    (let s : State := on1 (fun x => let x : Side := { x with rt := { x.rt with rta := 5497558138880 * 2^24 } }; let x : Side := { (x.set PLL_STAT.T_LOCK 1).set TONE_CFG.EN1 1 with strobe := ⟨[(500, []), (9 * 2^40, [])], [], []⟩ }; x.setTone 1 { x.toneOf 1 with staged := some (⟨0x1234 * 2^48 + 0x00123456789A, 2^24 + 0x8000, 0x100⟩ : ToneSet), acc := 77 })
     let sd : SideId := .stroke
     let t : Nat := 500
     let rest : List (Nat × List (SideId × Nat)) := [(9 * 2^40, [])]
     let x := s.side sd
     x.strobe.due = (t, []) :: rest ∧ t ≤ x.now ∧ x.tone.length = 2) ∧
    (let s : State := ({ on1 (fun x => (x.set KEEL_COX_STAT.KEEL_UP 1).set KEEL_COX_STAT.COX_HELD 1) with keel := { rdy.keel with msgs := [(.stroke, .strobeReq 500), (.bow, .rtSync 9)] } } : State)
     let sd : SideId := .stroke
     let t : Nat := 500
     let msgs : List (SideId × KeelMsg) := s.keel.msgs.drop 1
     let x := s.side sd
     s.keel.msgs = (sd, .strobeReq t) :: msgs) ∧
    (let s : State := ({ rdy with keel := { rdy.keel with msgs := [(.stroke, .strobe 500), (.bow, .rtSync 9)] } } : State)
     let sd : SideId := .stroke
     let t : Nat := 500
     let msgs : List (SideId × KeelMsg) := s.keel.msgs.drop 1
     let x := s.side sd
     s.keel.msgs = (sd, .strobe t) :: msgs ∧ x.strobe.reqs = []) ∧
    (let s : State := on1 (fun x => let x : Side := { x with rt := { x.rt with rta := 5497558138880 * 2^24 } }; let x : Side := x; x.setTone 1 { x.toneOf 1 with hold := some 500 })
     let sd : SideId := .stroke
     let o : Fin 2 := 1
     let e : Nat := 500
     let x := s.side sd
     let u := x.toneOf o.val
     u.hold = some e ∧ e ≤ x.now) ∧
    (let s : State := rdy
     let sd : SideId := .stroke
     let o : Fin 2 := 1
     let x := s.side sd
     let u := x.toneOf o.val
     u.hold = none) ∧
    (let s : State := rdy
     let sd : SideId := .stroke
     let x := s.side sd
     let locked := x.on PLL_STAT.T_LOCK
     locked = false) ∧
    (let s : State := on1 (fun x => let x : Side := { x with rt := { x.rt with rta := 5497558138880 * 2^24 } }; let x : Side := x.set PLL_STAT.T_LOCK 1; x.setTone 1 { x.toneOf 1 with acc := 5 })
     let sd : SideId := .stroke
     let o : Fin 2 := 1
     let x := s.side sd
     let u := x.toneOf o.val
     let locked := x.on PLL_STAT.T_LOCK
     locked = true ∧ u.force = none) ∧
    (let s : State := on1 (fun x => let x : Side := { x with rt := { x.rt with rta := 5497558138880 * 2^24 } }; let x : Side := x.set PLL_STAT.T_LOCK 1; x.setTone 1 { x.toneOf 1 with force := some (⟨0x1234 * 2^48 + 0x00123456789A, 2^24 + 0x8000, 0x100⟩ : ToneSet), acc := 77 })
     let sd : SideId := .stroke
     let o : Fin 2 := 1
     let v : ToneSet := (⟨0x1234 * 2^48 + 0x00123456789A, 2^24 + 0x8000, 0x100⟩ : ToneSet)
     let x := s.side sd
     let u := x.toneOf o.val
     let en := x.on (if o.val = 0 then TONE_CFG.EN0 else TONE_CFG.EN1)
     let locked := x.on PLL_STAT.T_LOCK
     locked = true ∧ u.force = some v ∧ v.mode = 1 ∧ x.tone.length = 2 ∧ en = false) ∧
    (let s : State := on1 (fun x => let x : Side := { x with rt := { x.rt with rta := 5497558138880 * 2^24 } }; let x : Side := (x.set PLL_STAT.T_LOCK 1).set TONE_CFG.EN1 1; x.setTone 1 { x.toneOf 1 with force := some (⟨0x1234 * 2^48 + 0x00123456789A, 2^24 + 0x8000, 0x100⟩ : ToneSet), acc := 2^45 })
     let sd : SideId := .stroke
     let o : Fin 2 := 1
     let v : ToneSet := (⟨0x1234 * 2^48 + 0x00123456789A, 2^24 + 0x8000, 0x100⟩ : ToneSet)
     let x := s.side sd
     let u := x.toneOf o.val
     let en := x.on (if o.val = 0 then TONE_CFG.EN0 else TONE_CFG.EN1)
     let locked := x.on PLL_STAT.T_LOCK
     locked = true ∧ u.force = some v ∧ v.mode = 1 ∧ x.tone.length = 2 ∧ en = true) ∧
    (let s : State := on1 (fun x => let x : Side := { x with rt := { x.rt with rta := 5497558138880 * 2^24 } }; let x : Side := x.set PLL_STAT.T_LOCK 1; x.setTone 1 { x.toneOf 1 with force := some (⟨0x1234 * 2^48 + 0x00123456789A, 2^24 + 0x8000, 0x100⟩ : ToneSet), acc := 77 })
     let sd : SideId := .stroke
     let o : Fin 2 := 1
     let v : ToneSet := (⟨0x1234 * 2^48 + 0x00123456789A, 2^24 + 0x8000, 0x100⟩ : ToneSet)
     let x := s.side sd
     let u := x.toneOf o.val
     let locked := x.on PLL_STAT.T_LOCK
     locked = true ∧ u.force = some v ∧ v.mode = 1 ∧ x.tone.length = 2) ∧
    (let s : State := on1 (fun x => let x : Side := { x with rt := { x.rt with rta := 5497558138880 * 2^24 } }; let x : Side := x.set PLL_STAT.T_LOCK 1 |>.set (FE_STAT.RUNNING 0) 1; x.setTone 1 { x.toneOf 1 with force := some (⟨5, 2^25 + 0x8000, 0x100⟩ : ToneSet), trkK0 := some 3 })
     let sd : SideId := .stroke
     let o : Fin 2 := 1
     let k : Nat := 3
     let v : ToneSet := (⟨5, 2^25 + 0x8000, 0x100⟩ : ToneSet)
     let x := s.side sd
     let u := x.toneOf o.val
     let locked := x.on PLL_STAT.T_LOCK
     let fe := x.feOf v.trk
     let b := x.tSample v.trk (fe.m0 + x.frameAfter v.trk (u.trkT + 1) * fe.gridStep)
     locked = true ∧ u.force = some v ∧ v.mode = 2 ∧ u.trkK0 = some k ∧ x.on (FE_STAT.RUNNING v.trk.n) = true ∧ b ≤ x.now) ∧
    (let s : State := on1 (fun x => let x : Side := { x with rt := { x.rt with rta := 5497558138880 * 2^24 } }; let x : Side := (x.set PLL_STAT.T_LOCK 1 |>.set (FE_STAT.RUNNING 0) 1).setFe .c0 { x.feOf .c0 with lemcT := [(0, 9 * 2 ^ 64)] }; x.setTone 1 { x.toneOf 1 with force := some (⟨5, 2^25 + 0x8000, 0x100⟩ : ToneSet), trkK0 := some 3 })
     let sd : SideId := .stroke
     let o : Fin 2 := 1
     let k : Nat := 3
     let v : ToneSet := (⟨5, 2^25 + 0x8000, 0x100⟩ : ToneSet)
     let x := s.side sd
     let u := x.toneOf o.val
     let locked := x.on PLL_STAT.T_LOCK
     let fe := x.feOf v.trk
     let b := x.tSample v.trk (fe.m0 + x.frameAfter v.trk (u.trkT + 1) * fe.gridStep)
     locked = true ∧ u.force = some v ∧ v.mode = 2 ∧ u.trkK0 = some k ∧ x.on (FE_STAT.RUNNING v.trk.n) = true ∧ x.now < b) := by
  refine ⟨?_, ?_, ?_, ?_, ?_, ?_, ?_, ?_, ?_, ?_, ?_, ?_, ?_, ?_⟩ <;>
    (dsimp only; decide +kernel)

theorem witness_MonitorResults :
    (let s : State := on1 (fun x => { x with mon := { x.mon with hist := [[0, 0], [1, 2], [3, -4], [5, 6]] } })
     let sd : SideId := .stroke
     let md : Fin 4 := 2
     let h0 : Int := 3
     let h1 : Int := -4
     let x := s.side sd
     lget x.mon.hist md.val [] = [h0, h1]) ∧
    (let s : State := on1 (fun x => { x with mon := { x.mon with cur := [some 1, none, some 3, none], drop := [0, 0, 0, 0], hist := [[0, 0], [1, 2], [3, -4], [5, 6]], seqs := (List.range 16).map (fun i => 255 - i) } })
     let sd : SideId := .stroke
     let md : Fin 4 := 2
     let i : Nat := 3
     let s1 : BitVec 24 := 2
     let s0 : BitVec 24 := 1
     let x := s.side sd
     let sum := x.mon.firSum md.val s1.toInt s0.toInt
     let fits := -8388608 ≤ sum / 16 ∧ sum / 16 < 8388607
     s.held = false ∧ x.islRuns (srcOf 5 3 0) = true ∧ x.calConverts = false ∧ lget x.mon.cur md.val none = some i ∧ lget x.mon.drop md.val 0 = 0 ∧ i < 16 ∧ x.mon.seqs.length = 16 ∧ fits ∧ sum % 16 = 0) ∧
    (let s : State := State.reset
     let sd : SideId := .stroke
     let x := s.side sd
     (s.held = true ∨ x.islRuns (srcOf 5 3 0) = false ∨ x.calConverts = true)) ∧
    (let s : State := on1 (fun x => { x with mon := { x.mon with cur := [some 1, none, some 3, none], drop := [0, 0, 0, 0], seqs := (List.range 16).map (fun i => 255 - i) } })
     let sd : SideId := .stroke
     let md : Fin 4 := 1
     let x := s.side sd
     s.held = false ∧ x.islRuns (srcOf 5 3 0) = true ∧ x.calConverts = false ∧ md.val ≠ 0 ∧ lget x.mon.cur md.val none = none) ∧
    (let s : State := on1 (fun x => { x with mon := { x.mon with cur := [some 1, none, some 3, none], drop := [0, 0, 2, 0], seqs := (List.range 16).map (fun i => 255 - i) } })
     let sd : SideId := .stroke
     let md : Fin 4 := 2
     let i : Nat := 3
     let d : Nat := 1
     let x := s.side sd
     s.held = false ∧ x.islRuns (srcOf 5 3 0) = true ∧ x.calConverts = false ∧ lget x.mon.cur md.val none = some i ∧ lget x.mon.drop md.val 0 = d + 1 ∧ md.val ≠ 0) ∧
    (let s : State := on1 (fun x => { x with mon := { x.mon with cur := [some 1, none, some 3, none], drop := [0, 0, 0, 0], hist := [[0, 0], [1, 2], [3, -4], [5, 6]], seqs := (List.range 16).map (fun i => 255 - i) } })
     let sd : SideId := .stroke
     let md : Fin 4 := 2
     let i : Nat := 3
     let s1 : BitVec 24 := 1000
     let s0 : BitVec 24 := 16
     let x := s.side sd
     let sum := x.mon.firSum md.val s1.toInt s0.toInt
     let fits := -8388608 ≤ sum / 16 ∧ sum / 16 < 8388607
     s.held = false ∧ x.islRuns (srcOf 5 3 0) = true ∧ x.calConverts = false ∧ lget x.mon.cur md.val none = some i ∧ lget x.mon.drop md.val 0 = 0 ∧ i < 16 ∧ x.mon.seqs.length = 16 ∧ fits) := by
  refine ⟨?_, ?_, ?_, ?_, ?_, ?_⟩ <;>
    (dsimp only; decide +kernel)

theorem witness_BlockReads :
    (let blk : Nat := 2^21
     2 ^ 21 ≤ blk) ∧
    (let s : State := on1 (fun x => let x : Side := (x.set SCRUB_CFG.SRAM_EN 1).set SCRUB_CFG.AUTO_REPAIR 0; { x with sram := { x.sram with mem := { x.sram.mem with words := (List.range 32).map (fun i => (i + 40, wordN (i + 7))) , poison := [(7, ())] }, scrubS := 6 } })
     let sd : SideId := .stroke
     let blk : Nat := 6
     let x := s.side sd
     let sm := x.sram.mem
     blk < 2 ^ 21 ∧ aget sm.flips blk = none ∧ (∀ e ∈ sm.buf, e.blk ≠ blk) ∧ aget sm.poison blk = none) ∧
    (let s : State := on1 (fun x => let x : Side := (x.set SCRUB_CFG.SRAM_EN 1).set SCRUB_CFG.AUTO_REPAIR 0; { x with sram := { x.sram with mem := { x.sram.mem with words := (List.range 32).map (fun i => (i + 40, wordN (i + 7))) , poison := [(6, ())] }, scrubS := 6 } })
     let sd : SideId := .stroke
     let blk : Nat := 6
     let x := s.side sd
     let sm := x.sram.mem
     blk < 2 ^ 21 ∧ aget sm.flips blk = none ∧ (∀ e ∈ sm.buf, e.blk ≠ blk) ∧ aget sm.poison blk = some ()) ∧
    (let s : State := on1 (fun x => let x : Side := (x.set SCRUB_CFG.SRAM_EN 1).set SCRUB_CFG.AUTO_REPAIR 0; { x with sram := { x.sram with mem := { x.sram.mem with words := (List.range 32).map (fun i => (i + 40, wordN (i + 7)))  }, scrubS := 6 } })
     let sd : SideId := .stroke
     let blk : Nat := 6
     let x := s.side sd
     let sm := x.sram.mem
     blk < 2 ^ 21 ∧ aget sm.flips blk = none ∧ (∀ e ∈ sm.buf, e.blk ≠ blk) ∧ aget sm.poison blk = none) ∧
    (let s : State := on1 (fun x => { x with dram := { x.dram with extent := 1024, mem := { x.dram.mem with words := (List.range 32).map (fun i => (i + 40, wordN (i + 7)))  } } })
     let sd : SideId := .stroke
     let blk : Nat := 64
     let x := s.side sd
     (x.dram.extent / 16 ≤ blk ∨ x.on (DRAM_STAT.SR (x.dramChan blk).1) = true)) ∧
    (let s : State := on1 (fun x => { x with dram := { x.dram with extent := 1024, mem := { x.dram.mem with words := (List.range 32).map (fun i => (i + 40, wordN (i + 7)))  } } })
     let sd : SideId := .stroke
     let blk : Nat := 3
     let x := s.side sd
     let dm := x.dram.mem
     blk < x.dram.extent / 16 ∧ x.on (DRAM_STAT.SR (x.dramChan blk).1) = false ∧ aget dm.flips blk = none ∧ (∀ e ∈ dm.buf, e.blk ≠ blk) ∧ aget dm.poison blk = none) ∧
    (let s : State := on1 (fun x => { x with dram := { x.dram with extent := 1024, mem := { x.dram.mem with words := (List.range 32).map (fun i => (i + 40, wordN (i + 7))) , poison := [(3, ())] } } })
     let sd : SideId := .stroke
     let blk : Nat := 3
     let x := s.side sd
     let dm := x.dram.mem
     blk < x.dram.extent / 16 ∧ x.on (DRAM_STAT.SR (x.dramChan blk).1) = false ∧ aget dm.flips blk = none ∧ (∀ e ∈ dm.buf, e.blk ≠ blk) ∧ aget dm.poison blk = some ()) ∧
    (let s : State := on1 (fun x => x.set SCRUB_CFG.SRAM_EN 0)
     let sd : SideId := .stroke
     let x := s.side sd
     x.on SCRUB_CFG.SRAM_EN = false) ∧
    (let s : State := on1 (fun x => let x : Side := (x.set SCRUB_CFG.SRAM_EN 1).set SCRUB_CFG.AUTO_REPAIR 0; { x with sram := { x.sram with mem := { x.sram.mem with words := (List.range 32).map (fun i => (i + 40, wordN (i + 7)))  }, scrubS := 6 } })
     let sd : SideId := .stroke
     let blk : Nat := 6
     let x := s.side sd
     let sm := x.sram.mem
     x.on SCRUB_CFG.SRAM_EN = true ∧ x.sram.scrubS = blk ∧ aget sm.flips blk = none ∧ aget sm.poison blk = none ∧ (∀ e ∈ sm.buf, e.blk ≠ blk) ∧ blk + 1 < 2 ^ 21 ∧ wordsWf sm.words = true ∧ x.on SCRUB_CFG.AUTO_REPAIR = false) ∧
    (let s : State := on1 (fun x => let x : Side := (x.set SCRUB_CFG.SRAM_EN 1).set SCRUB_CFG.AUTO_REPAIR 0; { x with sram := { x.sram with mem := { x.sram.mem with words := (List.range 32).map (fun i => (i + 40, wordN (i + 7)))  }, scrubS := 6 } })
     let sd : SideId := .stroke
     let blk : Nat := 6
     let x := s.side sd
     let sm := x.sram.mem
     x.on SCRUB_CFG.SRAM_EN = true ∧ x.sram.scrubS = blk ∧ aget sm.flips blk = none ∧ aget sm.poison blk = none ∧ (∀ e ∈ sm.buf, e.blk ≠ blk) ∧ blk + 1 < 2 ^ 21) ∧
    (let s : State := on1 (fun x => let x : Side := (x.set SCRUB_CFG.SRAM_EN 1).set SCRUB_CFG.AUTO_REPAIR 0; { x with sram := { x.sram with mem := { x.sram.mem with words := (List.range 32).map (fun i => (i + 40, wordN (i + 7)))  }, scrubS := 2^21 - 1 } })
     let sd : SideId := .stroke
     let blk : Nat := 2^21 - 1
     let x := s.side sd
     let sm := x.sram.mem
     x.on SCRUB_CFG.SRAM_EN = true ∧ x.sram.scrubS = blk ∧ aget sm.flips blk = none ∧ aget sm.poison blk = none ∧ (∀ e ∈ sm.buf, e.blk ≠ blk) ∧ blk + 1 = 2 ^ 21) ∧
    (let s : State := on1 (fun x => x.set SCRUB_CFG.DRAM_EN 0)
     let sd : SideId := .stroke
     let x := s.side sd
     x.on SCRUB_CFG.DRAM_EN = false) ∧
    (let s : State := on1 (fun x => let x : Side := (List.range 8).foldl (fun x i => x.set (DRAM_STAT.SR i) 1) (x.set SCRUB_CFG.DRAM_EN 1); { x with dram := { x.dram with extent := 1024 }, sram := { x.sram with scrubD := 3 } })
     let sd : SideId := .stroke
     let blk : Nat := 3
     let x := s.side sd
     x.on SCRUB_CFG.DRAM_EN = true ∧ blk + 1 < x.dram.extent / 16 ∧ x.sram.scrubD = blk ∧ x.on (DRAM_STAT.SR (x.dramChan blk).1) = true) := by
  refine ⟨?_, ?_, ?_, ?_, ?_, ?_, ?_, ?_, ?_, ?_, ?_, ?_, ?_⟩ <;>
    (dsimp only; decide +kernel)

theorem witness_MemoryUpkeep :
    (let s : State := rdy
     let sd : SideId := .stroke
     let blk : Nat := 6
     let cox : Bool := false
     let mk := if cox then MemSel.cox else .sram
     let x := s.side sd
     let sm := x.memOf mk
     (∀ e ∈ sm.buf, e.blk ≠ blk)) ∧
    (let s : State := rdy
     let sd : SideId := .stroke
     let blk : Nat := 6
     let port : Fin 8 := 5
     let x := s.side sd
     ((∀ e ∈ x.dram.mem.buf, e.blk ≠ blk ∨ e.src ≠ port.val) ∨ x.on (DRAM_STAT.SR (x.dramChan blk).1) = true)) ∧
    (let s : State := on1 (fun x => let x : Side := (x.set SCRUB_CFG.SRAM_EN 1).set SCRUB_CFG.AUTO_REPAIR 0; { x with sram := { x.sram with mem := { x.sram.mem with words := (List.range 32).map (fun i => (i + 40, wordN (i + 7))) , buf := [⟨6, 3, [(2, wordN 99)]⟩] }, scrubS := 6 } })
     let sd : SideId := .stroke
     let blk : Nat := 6
     let i : Nat := 2
     let w : Word := wordN 99
     let src : Nat := 3
     let cox : Bool := false
     let mk := if cox then MemSel.cox else .sram
     let x := s.side sd
     let sm := x.memOf mk
     sm.buf = [⟨blk, src, [(i, w)]⟩] ∧ i < 8 ∧ aget sm.flips blk = none ∧ aget sm.poison blk = none ∧ x.get FAULT_INJ.MODE = 0 ∧ wordsWf sm.words = true) ∧
    (let s : State := on1 (fun x => { x with coxMem := { x.coxMem with words := (List.range 32).map (fun i => (i + 40, wordN (i + 7))), buf := [⟨6, 3, [(2, wordN 99)]⟩] } })
     let sd : SideId := .stroke
     let blk : Nat := 6
     let i : Nat := 2
     let w : Word := wordN 99
     let src : Nat := 3
     let cox : Bool := true
     let mk := if cox then MemSel.cox else .sram
     let x := s.side sd
     let sm := x.memOf mk
     sm.buf = [⟨blk, src, [(i, w)]⟩] ∧ i < 8 ∧ aget sm.flips blk = none ∧ aget sm.poison blk = none ∧ x.get FAULT_INJ.MODE = 0 ∧ wordsWf sm.words = true) ∧
    (let s : State := on1 (fun x => { x with dram := { x.dram with extent := 1024, mem := { x.dram.mem with words := (List.range 32).map (fun i => (i + 40, wordN (i + 7))) , buf := [⟨3, 3, [(2, wordN 99)]⟩] } } })
     let sd : SideId := .stroke
     let blk : Nat := 3
     let i : Nat := 2
     let w : Word := wordN 99
     let port : Fin 8 := 3
     let x := s.side sd
     x.dram.mem.buf = [⟨blk, port.val, [(i, w)]⟩] ∧ x.on (DRAM_STAT.SR (x.dramChan blk).1) = false ∧ i < 16 ∧ aget x.dram.mem.flips blk = none ∧ aget x.dram.mem.poison blk = none ∧ x.get FAULT_INJ.MODE = 0 ∧ wordsWf x.dram.mem.words = true) ∧
    (let s : State := on1 (fun x => { x with dram := { x.dram with panic := [false, true, false, false, true] } })
     let sd : SideId := .stroke
     let x := s.side sd
     x.dram.panic.length = 5) ∧
    (let s : State := rdy
     let sd : SideId := .stroke
     let dc : Fin 4 := 2
     let x := s.side sd
     let live := x.on (DRAM_STAT.TRAINED dc.val) = true ∧ x.on (DRAM_STAT.SR dc.val) = false
     ¬live) ∧
    (let s : State := on1 (fun x => let x : Side := (x.set (DRAM_STAT.TRAINED 2) 1).set (DRAM_STAT.OWED1 2) 2; { x with dram := { x.dram with ref := List.replicate 8 ⟨false, false⟩, drift := List.replicate 8 (List.replicate 20 (0 : Int)), fcBusy := true } })
     let sd : SideId := .stroke
     let dc : Fin 4 := 2
     let sub : Fin 2 := 1
     let levels : List (Fin 3 × BitVec 16) := [(1, 40)]
     let waits : BitVec 5 := 31
     let inTrans : Bool := true
     let x := s.side sd
     let owed := if sub.val = 0 then DRAM_STAT.OWED0 dc.val else DRAM_STAT.OWED1 dc.val
     let p := x.get owed
     let live := x.on (DRAM_STAT.TRAINED dc.val) = true ∧ x.on (DRAM_STAT.SR dc.val) = false
     live ∧ p < 3 ∧ inTrans = true) ∧
    (let s : State := on1 (fun x => let x : Side := (x.set (DRAM_STAT.TRAINED 2) 1).set (DRAM_STAT.OWED1 2) 2; { x with dram := { x.dram with ref := List.replicate 8 ⟨false, false⟩, drift := List.replicate 8 (List.replicate 20 (0 : Int)), fcBusy := true } })
     let sd : SideId := .stroke
     let dc : Fin 4 := 2
     let sub : Fin 2 := 1
     let levels : List (Fin 3 × BitVec 16) := [(1, 40)]
     let waits : BitVec 5 := 0
     let inTrans : Bool := false
     let x := s.side sd
     let filled := fun (x : Side) => levels.foldl (fun x l => x.portLevel (2 + l.1.val) l.2.toNat) x
     let panic := ∃ q < 5, lget (filled x).dram.panic q false = true ∧ bitAt waits.toNat q = true
     let owed := if sub.val = 0 then DRAM_STAT.OWED0 dc.val else DRAM_STAT.OWED1 dc.val
     let p := x.get owed
     let live := x.on (DRAM_STAT.TRAINED dc.val) = true ∧ x.on (DRAM_STAT.SR dc.val) = false
     live ∧ p < 3 ∧ ¬panic ∧ inTrans = false) ∧
    (let s : State := on1 (fun x => let x : Side := (x.set (DRAM_STAT.TRAINED 2) 1).set (DRAM_STAT.OWED1 2) 3; { x with dram := { x.dram with ref := List.replicate 8 ⟨false, false⟩, drift := List.replicate 8 (List.replicate 20 (0 : Int)), fcBusy := true } })
     let sd : SideId := .stroke
     let dc : Fin 4 := 2
     let sub : Fin 2 := 1
     let x := s.side sd
     let owed := if sub.val = 0 then DRAM_STAT.OWED0 dc.val else DRAM_STAT.OWED1 dc.val
     let p := x.get owed
     let live := x.on (DRAM_STAT.TRAINED dc.val) = true ∧ x.on (DRAM_STAT.SR dc.val) = false
     live ∧ p = 3) ∧
    (let s : State := on1 (fun x => let x : Side := (x.set (DRAM_STAT.TRAINED 2) 1).set (DRAM_STAT.OWED1 2) 2; { x with dram := { x.dram with ref := List.replicate 8 ⟨false, false⟩, drift := List.replicate 8 (List.replicate 20 (0 : Int)), fcBusy := true } })
     let sd : SideId := .stroke
     let dc : Fin 4 := 2
     let x := s.side sd
     let live := x.on (DRAM_STAT.TRAINED dc.val) = true ∧ x.on (DRAM_STAT.SR dc.val) = false
     live) ∧
    (let s : State := on1 (fun x => let x : Side := (x.set (DRAM_STAT.TRAINED 2) 1).set (DRAM_STAT.OWED1 2) 1; { x with dram := { x.dram with ref := List.replicate 8 ⟨false, false⟩, drift := List.replicate 8 (List.replicate 20 (0 : Int)), fcBusy := true } })
     let sd : SideId := .stroke
     let dc : Fin 4 := 2
     let sub : Fin 2 := 1
     let hot : Bool := true
     let x := s.side sd
     let owed := if sub.val = 0 then DRAM_STAT.OWED0 dc.val else DRAM_STAT.OWED1 dc.val
     let p := x.get owed
     let live := x.on (DRAM_STAT.TRAINED dc.val) = true ∧ x.on (DRAM_STAT.SR dc.val) = false
     let k := 2 * dc.val + sub.val
     let r := lget x.dram.ref k ⟨false, false⟩
     live ∧ x.dram.ref.length = 8 ∧ p ≤ 3 ∧ r.doubled = false ∧ (hot || x.boardHot) = true) ∧
    (let s : State := on1 (fun x => let x : Side := (x.set (DRAM_STAT.TRAINED 2) 1).set (DRAM_STAT.OWED1 2) 1; { x with dram := { x.dram with ref := List.replicate 8 ⟨true, true⟩, drift := List.replicate 8 (List.replicate 20 (0 : Int)), fcBusy := true } })
     let sd : SideId := .stroke
     let dc : Fin 4 := 2
     let sub : Fin 2 := 1
     let hot : Bool := false
     let x := s.side sd
     let owed := if sub.val = 0 then DRAM_STAT.OWED0 dc.val else DRAM_STAT.OWED1 dc.val
     let p := x.get owed
     let live := x.on (DRAM_STAT.TRAINED dc.val) = true ∧ x.on (DRAM_STAT.SR dc.val) = false
     let k := 2 * dc.val + sub.val
     let r := lget x.dram.ref k ⟨false, false⟩
     live ∧ x.dram.ref.length = 8 ∧ p ≤ 3 ∧ r.doubled = true ∧ (hot || x.boardHot) = false) ∧
    (let s : State := on1 (fun x => let x : Side := (x.set (DRAM_STAT.TRAINED 2) 1).set (DRAM_STAT.OWED1 2) 1; { x with dram := { x.dram with ref := List.replicate 8 ⟨true, true⟩, drift := List.replicate 8 (List.replicate 20 (0 : Int)), fcBusy := true } })
     let sd : SideId := .stroke
     let dc : Fin 4 := 2
     let sub : Fin 2 := 1
     let hot : Bool := true
     let x := s.side sd
     let owed := if sub.val = 0 then DRAM_STAT.OWED0 dc.val else DRAM_STAT.OWED1 dc.val
     let p := x.get owed
     let live := x.on (DRAM_STAT.TRAINED dc.val) = true ∧ x.on (DRAM_STAT.SR dc.val) = false
     let k := 2 * dc.val + sub.val
     let r := lget x.dram.ref k ⟨false, false⟩
     live ∧ x.dram.ref.length = 8 ∧ p ≤ 3 ∧ r.doubled = (hot || x.boardHot)) ∧
    (let s : State := on1 (fun x => let x : Side := (x.set (DRAM_STAT.TRAINED 2) 1).set (DRAM_STAT.OWED1 2) 1; { x with dram := { x.dram with ref := List.replicate 8 ⟨false, false⟩, drift := List.replicate 8 (List.replicate 20 (0 : Int)), fcBusy := true } })
     let sd : SideId := .stroke
     let dc : Fin 4 := 2
     let sub : Fin 2 := 1
     let lane : Fin 20 := 4
     let d : Int := -3
     let x := s.side sd
     let live := x.on (DRAM_STAT.TRAINED dc.val) = true ∧ x.on (DRAM_STAT.SR dc.val) = false
     let k := 2 * dc.val + sub.val
     let v := lget (lget x.dram.drift k []) lane.val 0 + max (-1) (min 1 d)
     live ∧ x.dram.drift.length = 8 ∧ -8 ≤ v ∧ v ≤ 8) ∧
    (let s : State := on1 (fun x => let x : Side := (x.set (DRAM_STAT.TRAINED 2) 1).set (DRAM_STAT.OWED1 2) 1; { x with dram := { x.dram with ref := List.replicate 8 ⟨false, false⟩, drift := List.replicate 8 (List.replicate 20 (-8 : Int)), fcBusy := true } })
     let sd : SideId := .stroke
     let dc : Fin 4 := 2
     let sub : Fin 2 := 1
     let lane : Fin 20 := 4
     let d : Int := -3
     let x := s.side sd
     let live := x.on (DRAM_STAT.TRAINED dc.val) = true ∧ x.on (DRAM_STAT.SR dc.val) = false
     let k := 2 * dc.val + sub.val
     let v := lget (lget x.dram.drift k []) lane.val 0 + max (-1) (min 1 d)
     live ∧ x.dram.drift.length = 8 ∧ (v < -8 ∨ 8 < v)) ∧
    (let s : State := on1 (fun x => { x with dram := { x.dram with fcBusy := false } })
     let sd : SideId := .stroke
     let x := s.side sd
     x.dram.fcBusy = false) ∧
    (let s : State := on1 (fun x => let x : Side := (x.set (DRAM_STAT.TRAINED 2) 1).set (DRAM_STAT.OWED1 2) 1; { x with dram := { x.dram with ref := List.replicate 8 ⟨false, false⟩, drift := List.replicate 8 (List.replicate 20 (0 : Int)), fcBusy := true } })
     let sd : SideId := .stroke
     let x := s.side sd
     x.dram.fcBusy = true ∧ (∀ e ∈ x.dram.mem.buf, e.words.length ≠ 16) ∧ (∀ c ∈ x.host.staged, memWaits ∉ c.awaits)) := by
  refine ⟨?_, ?_, ?_, ?_, ?_, ?_, ?_, ?_, ?_, ?_, ?_, ?_, ?_, ?_, ?_, ?_, ?_, ?_⟩ <;>
    (dsimp only; decide +kernel)

theorem witness_FaultReports :
    (let s : State := State.reset
     let sd : SideId := .stroke
     let r : FaultRep := (⟨.contained, BitVec.ofNat 16 (srcOf 5 3 0), 9, 0x12345, false, 0, false⟩ : FaultRep)
     let src : SourceId := (BitVec.ofNat 16 (srcOf 5 3 0))
     let x := s.side sd
     let l := r.src.toNat % 2 ^ 15
     let heard := s.held = false ∧ isReporter l = true ∧ x.masked l = false
     ¬heard) ∧
    (let s : State := rdy
     let sd : SideId := .stroke
     let r : FaultRep := (⟨.contained, BitVec.ofNat 16 (srcOf 5 3 0), 9, 0x12345, true, 0, false⟩ : FaultRep)
     let src : SourceId := (BitVec.ofNat 16 (srcOf 5 3 0))
     let x := s.side sd
     let l := r.src.toNat % 2 ^ 15
     let heard := s.held = false ∧ isReporter l = true ∧ x.masked l = false
     heard ∧ r.again = true) ∧
    (let s : State := rdy
     let sd : SideId := .stroke
     let r : FaultRep := (⟨.contained, BitVec.ofNat 16 (srcOf 5 3 0), 9, 0x12345, false, 0, false⟩ : FaultRep)
     let cls : FaultClass := .contained
     let src : SourceId := (BitVec.ofNat 16 (srcOf 5 3 0))
     let x := s.side sd
     let l := r.src.toNat % 2 ^ 15
     let c := reportClass l r.cls.code
     let heard := s.held = false ∧ isReporter l = true ∧ x.masked l = false
     let plain := seatOfSrc l = none ∧ coreOfSrc l = none
     heard ∧ r.again = false ∧ x.get FAULT_INJ.MODE = 0 ∧ plain ∧ c < 3) ∧
    (let s : State := on1 (fun x => x.set KEEL_COX_STAT.COX_HELD 1)
     let sd : SideId := .stroke
     let r : FaultRep := (⟨.contained, BitVec.ofNat 16 (srcOf 5 7 0), 9, 0x12345, false, 0, false⟩ : FaultRep)
     let cls : FaultClass := .contained
     let src : SourceId := (BitVec.ofNat 16 (srcOf 5 3 0))
     let x := s.side sd
     let l := r.src.toNat % 2 ^ 15
     let c := reportClass l r.cls.code
     let heard := s.held = false ∧ isReporter l = true ∧ x.masked l = false
     let plain := seatOfSrc l = none ∧ coreOfSrc l = none
     heard ∧ r.again = false ∧ x.get FAULT_INJ.MODE = 0 ∧ plain ∧ 3 ≤ c) ∧
    (let s : State := rdy
     let sd : SideId := .stroke
     let r : FaultRep := (⟨.contained, BitVec.ofNat 16 (srcOf 5 1 17), 9, 0x12345, false, 0, false⟩ : FaultRep)
     let src : SourceId := (BitVec.ofNat 16 (srcOf 5 3 0))
     let x := s.side sd
     let l := r.src.toNat % 2 ^ 15
     let heard := s.held = false ∧ isReporter l = true ∧ x.masked l = false
     let k := 1
     k < 4 ∧ heard ∧ r.again = false ∧ x.get FAULT_INJ.MODE = 0 ∧ l = srcOf 5 1 (16 + k) ∧ x.cores.length = 4 ∧ (x.coreOf k).st = 0) ∧
    (let s : State := on1 (fun x => x.modCore 1 (fun k => { k with st := 1, pc := 77 }))
     let sd : SideId := .stroke
     let r : FaultRep := (⟨.contained, BitVec.ofNat 16 (srcOf 5 1 17), 9, 0x12345, false, 0, false⟩ : FaultRep)
     let src : SourceId := (BitVec.ofNat 16 (srcOf 5 3 0))
     let x := s.side sd
     let l := r.src.toNat % 2 ^ 15
     let heard := s.held = false ∧ isReporter l = true ∧ x.masked l = false
     let k := 1
     k < 4 ∧ heard ∧ r.again = false ∧ x.get FAULT_INJ.MODE = 0 ∧ l = srcOf 5 1 (16 + k) ∧ x.cores.length = 4 ∧ (x.coreOf k).st ≠ 0) ∧
    (let s : State := on1 (fun x => { x with col := { x.col with broken := [(srcOf 5 3 0, 9)] } })
     let sd : SideId := .stroke
     let src : SourceId := (BitVec.ofNat 16 (srcOf 5 3 0))
     let chk : BitVec 8 := 9
     let rails : BitVec 2 := 3
     let x := s.side sd
     let l' := src.toNat % 2 ^ 15
     (s.held = true ∨ isReporter l' = false ∨ x.masked l' = true ∨ ((l', chk.toNat) ∈ x.col.broken ∧ rails ≠ 1 ∧ rails ≠ 2))) ∧
    (let s : State := on1 (fun x => { x with col := { x.col with broken := [(srcOf 5 3 0, 9)] } })
     let sd : SideId := .stroke
     let src : SourceId := (BitVec.ofNat 16 (srcOf 5 3 0))
     let rails : BitVec 2 := 1
     let x := s.side sd
     let l' := src.toNat % 2 ^ 15
     s.held = false ∧ isReporter l' = true ∧ x.masked l' = false ∧ (rails = 1 ∨ rails = 2)) ∧
    (let s : State := on1 (fun x => x.modCore 1 (fun k => { k with st := 1, pc := 77 }))
     let sd : SideId := .stroke
     let src : SourceId := (BitVec.ofNat 16 (srcOf 5 1 17))
     let chk : BitVec 8 := 9
     let rails : BitVec 2 := 0
     let x := s.side sd
     let l' := src.toNat % 2 ^ 15
     let k := 1
     k < 4 ∧ s.held = false ∧ isReporter l' = true ∧ x.masked l' = false ∧ (l', chk.toNat) ∉ x.col.broken ∧ (rails = 0 ∨ rails = 3) ∧ l' = srcOf 5 1 (16 + k) ∧ x.cores.length = 4 ∧ (x.coreOf k).st ≠ 0) ∧
    (let s : State := rdy
     let sd : SideId := .stroke
     let cls : FaultClass := .contained
     let src : SourceId := (BitVec.ofNat 16 (srcOf 5 3 0))
     let chk : BitVec 8 := 9
     let rails : BitVec 2 := 3
     let x := s.side sd
     let l' := src.toNat % 2 ^ 15
     let c' := max 2 (reportClass l' cls.code)
     s.held = false ∧ isReporter l' = true ∧ x.masked l' = false ∧ (l', chk.toNat) ∉ x.col.broken ∧ (rails = 0 ∨ rails = 3) ∧ c' = 2 ∧ seatOfSrc l' = none ∧ coreOfSrc l' = none) := by
  refine ⟨?_, ?_, ?_, ?_, ?_, ?_, ?_, ?_, ?_, ?_⟩ <;>
    (dsimp only; decide +kernel)

theorem witness_FaultSharing :
    (let s : State := rdy
     s.keel.up = false) ∧
    (let s : State := keelUpSt rdy
     let sd : SideId := .stroke
     let x := s.side sd
     s.keel.up = true ∧ x.isCox = false) ∧
    (let s : State := keelUpSt (on1 (fun x => (x.set KEEL_COX_STAT.KEEL_UP 1).set KEEL_COX_STAT.COX_HELD 1))
     let sd : SideId := .stroke
     let x := s.side sd
     s.keel.up = true ∧ x.isCox = true) ∧
    (let s : State := rdy
     s.keel.msgs = []) ∧
    (let s : State := ({ (rdy) with keel := { rdy.keel with msgs := [(.stroke, .summary 3 7 0)] } } : State)
     let sd : SideId := .stroke
     let w : Nat := 3
     let n : Nat := 7
     let rest : List (SideId × KeelMsg) := s.keel.msgs.drop 1
     let x := s.side sd
     s.keel.msgs = (sd, .summary w n 0) :: rest ∧ x.isCox = false) ∧
    (let s : State := ({ (rdy) with keel := { rdy.keel with msgs := [(.stroke, .summary 3 7 2)] } } : State)
     let sd : SideId := .stroke
     let w : Nat := 3
     let n : Nat := 7
     let rest : List (SideId × KeelMsg) := s.keel.msgs.drop 1
     s.keel.msgs = (sd, .summary w n 2) :: rest) ∧
    (let s : State := State.reset
     let sd : SideId := .stroke
     let x := s.side sd
     (s.held = true ∨ x.get INIT_STAT.PHASE = 0)) ∧
    (let s : State := on1 (fun x => x.set INIT_STAT.PHASE 8)
     let sd : SideId := .stroke
     let x := s.side sd
     s.held = false ∧ x.get INIT_STAT.PHASE ≠ 0) ∧
    (let s : State := on1 (fun x => (x.set INIT_STAT.PHASE 8).set FAULT_STAT.ALIVE_RUN 1)
     let sd : SideId := .stroke
     let x := s.side sd
     s.held = false ∧ x.get INIT_STAT.PHASE ≠ 0 ∧ x.on FAULT_STAT.ALIVE_RUN = true) ∧
    (let s : State := on1 (fun x => (x.set INIT_STAT.PHASE 8).set FAULT_STAT.ALIVE_RUN 0)
     let sd : SideId := .stroke
     let x := s.side sd
     s.held = false ∧ x.get INIT_STAT.PHASE ≠ 0 ∧ x.on FAULT_STAT.ALIVE_RUN = false) := by
  refine ⟨?_, ?_, ?_, ?_, ?_, ?_, ?_, ?_, ?_, ?_⟩ <;>
    (dsimp only; decide +kernel)

theorem witness_ScanOutEvents :
    (let s : State := rdy
     let sd : SideId := .stroke
     let x := s.side sd
     let runs := x.on SO_CTRL.EN = true ∧ x.so.run = true ∧ x.islRuns (srcOf 4 3 0) = true
     ¬runs) ∧
    (let s : State := on1 (fun x => let x : Side := (((((((((((x.set SO_HTIM.H_ACTIVE 1920).set SO_HTIM.H_FP 88).set SO_HTIM.H_SYNC 44).set SO_BP.H_BP 148).set SO_VTIM.V_ACTIVE 1080).set SO_VTIM.V_FP 4).set SO_VTIM.V_SYNC 5).set SO_BP.V_BP 36).set SO_PCLK.PCLK_KHZ 148500).set SO_LINK.LANES 4)).set SO_STAT.PENDING 0; let x : Side := x.set SO_CTRL.EN 1; { x with so := { x.so with run := true, force := [(SO_HTIM.H_ACTIVE.idx, wordN (12 * 2 ^ 23))] }, host := { x.host with staged := [] } })
     let sd : SideId := .stroke
     let x := s.side sd
     let runs := x.on SO_CTRL.EN = true ∧ x.so.run = true ∧ x.islRuns (srcOf 4 3 0) = true
     runs ∧ x.host.staged = [] ∧ x.on SO_STAT.PENDING = false) ∧
    (let s : State := on1 (fun x => let x : Side := (((((((((((x.set SO_HTIM.H_ACTIVE 1920).set SO_HTIM.H_FP 88).set SO_HTIM.H_SYNC 44).set SO_BP.H_BP 148).set SO_VTIM.V_ACTIVE 1080).set SO_VTIM.V_FP 4).set SO_VTIM.V_SYNC 5).set SO_BP.V_BP 36).set SO_PCLK.PCLK_KHZ 148500).set SO_LINK.LANES 4)).set SO_STAT.PENDING 1; let x : Side := x.set SO_CTRL.EN 1; { x with so := { x.so with run := true, force := [(SO_HTIM.H_ACTIVE.idx, wordN (12 * 2 ^ 23))] }, host := { x.host with staged := [] } })
     let sd : SideId := .stroke
     let x := s.side sd
     let runs := x.on SO_CTRL.EN = true ∧ x.so.run = true ∧ x.islRuns (srcOf 4 3 0) = true
     runs ∧ x.host.staged = [] ∧ x.on SO_STAT.PENDING = true ∧ x.soBad = false) ∧
    (let s : State := on1 (fun x => let x : Side := (((((((((((x.set SO_HTIM.H_ACTIVE 1).set SO_HTIM.H_FP 88).set SO_HTIM.H_SYNC 44).set SO_BP.H_BP 148).set SO_VTIM.V_ACTIVE 1080).set SO_VTIM.V_FP 4).set SO_VTIM.V_SYNC 5).set SO_BP.V_BP 36).set SO_PCLK.PCLK_KHZ 148500).set SO_LINK.LANES 4)).set SO_STAT.PENDING 1; let x : Side := x.set SO_CTRL.EN 1; { x with so := { x.so with run := true, force := [(SO_HTIM.H_ACTIVE.idx, wordN (12 * 2 ^ 23))] }, host := { x.host with staged := [] } })
     let sd : SideId := .stroke
     let x := s.side sd
     let runs := x.on SO_CTRL.EN = true ∧ x.so.run = true ∧ x.islRuns (srcOf 4 3 0) = true
     runs ∧ x.host.staged = [] ∧ x.on SO_STAT.PENDING = true ∧ x.soBad = true) ∧
    (let s : State := on1 (fun x => let x : Side := (((((((((((x.set SO_HTIM.H_ACTIVE 1920).set SO_HTIM.H_FP 88).set SO_HTIM.H_SYNC 44).set SO_BP.H_BP 148).set SO_VTIM.V_ACTIVE 1080).set SO_VTIM.V_FP 4).set SO_VTIM.V_SYNC 5).set SO_BP.V_BP 36).set SO_PCLK.PCLK_KHZ 148500).set SO_LINK.LANES 4)).set SO_STAT.PENDING 1; let x : Side := x.set SO_CTRL.EN 1; { x with so := { x.so with run := true, force := [(SO_HTIM.H_ACTIVE.idx, wordN (12 * 2 ^ 23))] }, host := { x.host with staged := [(⟨4, .stroke, 2, 0x70, (⟨head0 7 0 0 0, 0, 0, 0, 0, 0, 0, 0⟩ : CmdEntry), [], .now, 500, false, true, [], [500, 0]⟩ : Staged)] } })
     let sd : SideId := .stroke
     let st : Staged := (⟨4, .stroke, 2, 0x70, (⟨head0 7 0 0 0, 0, 0, 0, 0, 0, 0, 0⟩ : CmdEntry), [], .now, 500, false, true, [], [500, 0]⟩ : Staged)
     let x := s.side sd
     let runs := x.on SO_CTRL.EN = true ∧ x.so.run = true ∧ x.islRuns (srcOf 4 3 0) = true
     runs ∧ x.on SO_STAT.PENDING = true ∧ x.host.staged = [st] ∧ st.op = 0x70 ∧ st.running = true) ∧
    (let s : State := rdy
     let sd : SideId := .stroke
     let x := s.side sd
     (x.on SO_CTRL.EN = false ∨ x.islRuns (srcOf 4 3 0) = false ∨ x.soForce SO_VTIM.V_ACTIVE ≤ x.so.line)) ∧
    (let s : State := on1 (fun x => let x : Side := (x.set SO_CTRL.EN 1); { x with so := { x.so with force := [(SO_HTIM.H_ACTIVE.idx, wordN (12 * 2 ^ 23)), (SO_PLOT_X.PX0.idx, wordN (2 * 2 ^ SO_PLOT_X.PX0.lo + 6 * 2 ^ SO_PLOT_X.PW.lo)), (SO_PLOT_Y.PY0.idx, wordN (0 * 2 ^ SO_PLOT_Y.PY0.lo + 40 * 2 ^ SO_PLOT_Y.PH.lo)), (SO_BG.BG.idx, wordN 0x12345678)], run := true } })
     let sd : SideId := .stroke
     let x := s.side sd
     x.on SO_CTRL.EN = true ∧ x.islRuns (srcOf 4 3 0) = true ∧ x.so.line < x.soForce SO_VTIM.V_ACTIVE ∧ x.soForce SO_OV.O_EN = 0 ∧ x.soForce SO_WF.W_EN = 0 ∧ x.soForce SO_DENS.D_EN = 0) ∧
    (let s : State := on1 (fun x => { x with so := { x.so with force := [(SO_OV.O_HOST.idx, wordN (2 ^ SO_OV.O_HOST.lo))] } })
     let sd : SideId := .stroke
     let x := s.side sd
     x.soForce SO_OV.O_HOST = 1 ∧ (s.dmaOpen sd = false ∨ (s.side (s.endpoint sd)).on HOST_STAT.LINK_UP = false)) ∧
    (let s : State := on1 (fun x => let x : Side := (x.set SO_CTRL.EN 1); { x with so := { x.so with force := [(SO_HTIM.H_ACTIVE.idx, wordN (12 * 2 ^ 23))], relock := true } })
     let sd : SideId := .stroke
     let x := s.side sd
     x.so.relock = true ∧ x.on SO_CTRL.EN = true) ∧
    (let s : State := rdy
     let sd : SideId := .stroke
     let x := s.side sd
     (x.so.relock = false ∨ x.on SO_CTRL.EN = false)) ∧
    (let s : State := State.reset
     let sd : SideId := .stroke
     let x := s.side sd
     (s.held = true ∨ x.islRuns (srcOf 4 3 1) = false)) ∧
    (let s : State := rdy
     let sd : SideId := .stroke
     let x := s.side sd
     s.held = false ∧ x.islRuns (srcOf 4 3 1) = true) ∧
    (let s : State := rdy
     let sd : SideId := .stroke
     let x := s.side sd
     x.on SO_STAT.HPD = false) ∧
    (let s : State := on1 (fun x => x.set SO_STAT.HPD 1)
     let sd : SideId := .stroke
     let x := s.side sd
     x.on SO_STAT.HPD = true ∧ x.islRuns (srcOf 4 3 1) = true) ∧
    (let s : State := on1 (fun x => x.set SO_STAT.HPD 1)
     let sd : SideId := .stroke
     let x := s.side sd
     x.on SO_STAT.HPD = true) := by
  refine ⟨?_, ?_, ?_, ?_, ?_, ?_, ?_, ?_, ?_, ?_, ?_, ?_, ?_, ?_, ?_⟩ <;>
    (dsimp only; decide +kernel)

theorem witness_PackageResets :
    (let s : State := State.reset
     s.pkg.resetN = true) ∧
    (let s : State := rdy
     s.pkg.resetN = false) ∧
    (let s : State := { rdy with pkg := { rdy.pkg with resetN := true, railOk := false } }
     s.pkg.resetN = true ∧ s.pkg.railOk = false) ∧
    (let s : State := { State.reset with pkg := { State.reset.pkg with railOk := true, cause := 1 } }
     s.pkg.resetN = true ∧ s.pkg.railOk = true) ∧
    (let s : State := rdy
     s.pkg.railOk = true) ∧
    (let s : State := { rdy with pkg := { rdy.pkg with railOk := false, resetN := true } }
     s.pkg.railOk = false ∧ s.pkg.resetN = true) ∧
    (let s : State := { State.reset with pkg := { State.reset.pkg with railOk := false, resetN := false, cause := 3 } }
     s.pkg.railOk = false ∧ s.pkg.resetN = false) := by
  refine ⟨?_, ?_, ?_, ?_, ?_, ?_, ?_⟩ <;>
    (dsimp only; decide +kernel)

theorem witness_StartUp :
    (let s : State := rdy
     let sd : SideId := .stroke
     let x := s.side sd
     let begun := s.held = false ∧ x.on INIT_STAT.READY = false ∧ x.on INIT_STAT.FAILED = false
     ¬begun) ∧
    (let s : State := on1 (fun x => let x : Side := (x.set INIT_STAT.READY 0).set INIT_STAT.PHASE 0; x)
     let sd : SideId := .stroke
     let x := s.side sd
     let phase := x.get INIT_STAT.PHASE
     let begun := s.held = false ∧ x.on INIT_STAT.READY = false ∧ x.on INIT_STAT.FAILED = false
     begun ∧ phase = 0) ∧
    (let s : State := on1 (fun x => let x : Side := (x.set INIT_STAT.READY 0).set INIT_STAT.PHASE 1; x)
     let sd : SideId := .stroke
     let x := s.side sd
     let phase := x.get INIT_STAT.PHASE
     let begun := s.held = false ∧ x.on INIT_STAT.READY = false ∧ x.on INIT_STAT.FAILED = false
     begun ∧ phase = 1) ∧
    (let s : State := on1 (fun x => let x : Side := (x.set INIT_STAT.READY 0).set INIT_STAT.PHASE 2; x)
     let sd : SideId := .stroke
     let x := s.side sd
     let phase := x.get INIT_STAT.PHASE
     let begun := s.held = false ∧ x.on INIT_STAT.READY = false ∧ x.on INIT_STAT.FAILED = false
     begun ∧ phase = 2) ∧
    (let s : State := on1 (fun x => let x : Side := (x.set INIT_STAT.READY 0).set INIT_STAT.PHASE 3; { x with sram := { x.sram with mem := { x.sram.mem with words := [(5, 6)] } } })
     let sd : SideId := .stroke
     let x := s.side sd
     let phase := x.get INIT_STAT.PHASE
     let begun := s.held = false ∧ x.on INIT_STAT.READY = false ∧ x.on INIT_STAT.FAILED = false
     begun ∧ phase = 3) ∧
    (let s : State := on1 (fun x => let x : Side := (x.set INIT_STAT.READY 0).set INIT_STAT.PHASE 4; x)
     let sd : SideId := .stroke
     let x := s.side sd
     let phase := x.get INIT_STAT.PHASE
     let begun := s.held = false ∧ x.on INIT_STAT.READY = false ∧ x.on INIT_STAT.FAILED = false
     begun ∧ phase = 4) ∧
    (let s : State := on1 (fun x => let x : Side := (x.set INIT_STAT.READY 0).set INIT_STAT.PHASE 5; { x with dram := { x.dram with chans := [1, 3], subCap := 64 } })
     let sd : SideId := .stroke
     let x := s.side sd
     let phase := x.get INIT_STAT.PHASE
     let begun := s.held = false ∧ x.on INIT_STAT.READY = false ∧ x.on INIT_STAT.FAILED = false
     begun ∧ phase = 5) ∧
    (let s : State := on1 (fun x => let x : Side := (x.set INIT_STAT.READY 0).set INIT_STAT.PHASE 6; x)
     let sd : SideId := .stroke
     let x := s.side sd
     let phase := x.get INIT_STAT.PHASE
     let begun := s.held = false ∧ x.on INIT_STAT.READY = false ∧ x.on INIT_STAT.FAILED = false
     begun ∧ phase = 6) ∧
    (let s : State := on1 (fun x => let x : Side := (x.set INIT_STAT.READY 0).set INIT_STAT.PHASE 7; x)
     let sd : SideId := .stroke
     let x := s.side sd
     let phase := x.get INIT_STAT.PHASE
     let begun := s.held = false ∧ x.on INIT_STAT.READY = false ∧ x.on INIT_STAT.FAILED = false
     begun ∧ phase = 7) ∧
    (let s : State := rdy
     let sd : SideId := .stroke
     let x := s.side sd
     (s.held = true ∨ x.pwr.resetPend = false)) ∧
    (let s : State := rdy.mod .stroke (fun x => { x with pwr := { x.pwr with resetPend := true } })
     let sd : SideId := .stroke
     let x := s.side sd
     s.held = false ∧ x.pwr.resetPend = true) ∧
    (let s : State := rdy
     let sd : SideId := .stroke
     let x := s.side sd
     x.on DRAM_MAPOUT.BUSY = false) ∧
    (let s : State := on1 (fun x => { x.set DRAM_MAPOUT.BUSY 1 with dram := { x.dram with chans := [1, 3], subCap := 64, mapout := some 3 } })
     let sd : SideId := .stroke
     let x := s.side sd
     x.on DRAM_MAPOUT.BUSY = true) ∧
    (let s : State := { on1 (fun x => let x : Side := (x.set INIT_STAT.READY 0).set INIT_STAT.PHASE 7; x) with pkg := { rdy.pkg with bootsrc := true } }
     let sd : SideId := .stroke
     let x := s.side sd
     let phase := x.get INIT_STAT.PHASE
     let begun := s.held = false ∧ x.on INIT_STAT.READY = false ∧ x.on INIT_STAT.FAILED = false
     begun ∧ phase = 7 ∧ s.pkg.bootsrc = true) := by
  refine ⟨?_, ?_, ?_, ?_, ?_, ?_, ?_, ?_, ?_, ?_, ?_, ?_, ?_, ?_⟩ <;>
    (dsimp only; decide +kernel)

theorem witness_SmbusAndTap :
    (let s : State := { rdy with pkg := { rdy.pkg with railOk := false } }
     let p := s.pkg
     let on := p.railOk = true
     ¬on) ∧
    (let s : State := rdy
     let p := s.pkg
     let on := p.railOk = true
     on) ∧
    (let s : State := { rdy with pkg := { rdy.pkg with smbIdx := SIDE_RESET.whole.idx } }
     let p := s.pkg
     let on := p.railOk = true
     let sd : SideId := if p.smbSide then .bow else .stroke
     let served := s.held = false ∧ if p.smbIdx = AVS_VID.whole.idx then 2 ≤ (s.side sd).get INIT_STAT.PHASE else (s.side sd).serves p.smbIdx = true
     on ∧ served) ∧
    (let s : State := { (on1 (fun x => x.set INIT_STAT.PHASE 2)) with pkg := { rdy.pkg with smbIdx := AVS_VID.whole.idx } }
     let p := s.pkg
     let on := p.railOk = true
     let sd : SideId := if p.smbSide then .bow else .stroke
     let served := s.held = false ∧ if p.smbIdx = AVS_VID.whole.idx then 2 ≤ (s.side sd).get INIT_STAT.PHASE else (s.side sd).serves p.smbIdx = true
     on ∧ p.smbIdx = AVS_VID.whole.idx ∧ served) ∧
    (let s : State := { State.reset with pkg := { State.reset.pkg with railOk := true } }
     let p := s.pkg
     let on := p.railOk = true
     let sd : SideId := if p.smbSide then .bow else .stroke
     let served := s.held = false ∧ if p.smbIdx = AVS_VID.whole.idx then 2 ≤ (s.side sd).get INIT_STAT.PHASE else (s.side sd).serves p.smbIdx = true
     on ∧ ¬served) ∧
    (let code : BitVec 8 := 0x55
     code.toNat ∉ [0x00, 0x01, 0x02, 0x03, 0x04, 0x08, 0x09]) ∧
    (let code : BitVec 8 := 8
     code.toNat ∈ [0x00, 0x01, 0x02, 0x03, 0x04, 0x08, 0x09]) := by
  refine ⟨?_, ?_, ?_, ?_, ?_, ?_, ?_⟩ <;>
    (dsimp only; decide +kernel)

theorem witness_IdleIsOneEdge :
    (let s : State := State.reset
     s.pending = [] ∧ s.held = true) ∧
    (let s : State := rdy
     s.pending = [] ∧ s.held = false) ∧
    (let s : State := on1 (fun x => x.quarantine (srcOf 5 6 0))
     let sd : SideId := .stroke
     let x := s.side sd
     let runs := x.islRuns (srcOf 5 6 0) = true
     s.pending = [] ∧ s.held = false ∧ ¬runs ∧ x.on SRAM_REPAIR_STAT.BUSY = false) ∧
    (let s : State := rdy
     let sd : SideId := .stroke
     let x := s.side sd
     let runs := x.islRuns (srcOf 5 6 0) = true
     s.pending = [] ∧ s.held = false ∧ runs ∧ x.rt.loadPend = none ∧ x.rt.incPend = none ∧ x.on SRAM_REPAIR_STAT.BUSY = false) ∧
    (let s : State := on1 (fun x => { x with rt := { x.rt with incPend := some (7 * 2 ^ 24) } })
     let sd : SideId := .stroke
     let v : Nat := 7 * 2 ^ 24
     let x := s.side sd
     let runs := x.islRuns (srcOf 5 6 0) = true
     s.pending = [] ∧ s.held = false ∧ runs ∧ x.rt.loadPend = none ∧ x.rt.incPend = some v) ∧
    (let s : State := on1 (fun x => { x with rt := { x.rt with loadPend := some 900 } })
     let sd : SideId := .stroke
     let w : Nat := 900
     let x := s.side sd
     let runs := x.islRuns (srcOf 5 6 0) = true
     s.pending = [] ∧ s.held = false ∧ runs ∧ x.rt.loadPend = some w) := by
  refine ⟨?_, ?_, ?_, ?_, ?_, ?_⟩ <;>
    (dsimp only; decide +kernel)

theorem witness_StepKeepsMemoriesCanonical :
    (let s : State := coxAt (.stx .stroke 1 3 (.dir 5))
     let t : State := nextOf s
     s.canonical = true ∧ step s = .next t) := by
  dsimp only
  exact ⟨by decide +kernel, nextOf_eq _ (by decide +kernel)⟩

theorem witness_QuietCompletions :
    (let x : Side := rdy.stroke
     let e : CmdEntry := (⟨head0 0x1234 4 0 0, 0, 0, 0, 0, 0, 0, 0⟩ : CmdEntry)
     let en : Entry := (⟨1, 0, 3, 400, 2, false, 5, -6⟩ : Entry)
     x.host.staged = [] ∧ e.quiet = true ∧ en.status = 0) ∧
    (let x : Side := rdy.stroke
     let e : CmdEntry := (⟨head0 0x1234 4 0 0, 0, 0, 0, 0, 0, 0, 0⟩ : CmdEntry)
     let en : Entry := (⟨1, 5, 3, 400, 2, false, 5, -6⟩ : Entry)
     x.host.staged = [] ∧ (e.quiet = false ∨ en.status ≠ 0)) := by
  refine ⟨?_, ?_⟩ <;>
    (dsimp only; decide +kernel)

theorem witness_DensePacking :
    (let ws : List Word := [0x123456789, 0xFEDCBA987, 0xABCDEF012]
     let k := 2
     let w := 0xABCDEF012
     let b := 7
     ws[k]? = some w ∧ b < 36) ∧
    (let ws : List Word := [0x123456789, 0xFEDCBA987, 0xABCDEF012]
     ws.length % 2 = 1) := by
  refine ⟨?_, ?_⟩ <;>
    (dsimp only; decide +kernel)

end Sys2Proof.Tests
end

section
namespace Sys2Proof.Machine

/-! ### Reset (R446) -/

/-- While the dies are held in reset an empty queue lets nothing happen. -/
theorem step_of_held {s : State} (hq : s.pending = []) (hh : s.held = true) : step s = .next s := by
  simp [step, hq, State.tick, hh]

/-- Settles O55: reset holds both dies, so an empty queue does nothing; what each side shows is read off its reset value. -/
theorem resetState : Obligations.ResetState := by
  unfold Obligations.ResetState
  refine ⟨by decide, by decide, by decide, step_of_held (by decide) (by decide), by decide, fun sd => ?_⟩
  cases sd <;> decide

/-! ### The register bus: what an access that is carried out comes to (R40 to R45) -/

theorem State.opens_iff (s : State) (sd : SideId) (m : Fin 11) (idx : Nat) :
    s.opens sd m idx = true ↔
      s.path sd m.val = .reaches ∧ (s.side sd).islTakes busSrc = true ∧ (s.side sd).serves idx = true := by
  simp [State.opens, and_assoc]

/-- An access that the Keel cannot carry comes from the other side. -/
theorem State.masterSide_of_keelDown {s : State} {sd : SideId} {m : Nat} (h : s.path sd m = .keelDown) : masterSide sd m = sd.other := by
  unfold State.path at h
  by_cases hm : masterSide sd m = sd
  · simp only [hm, bne_self_eq_false, Bool.false_and] at h
    split at h <;> simp at h
  · generalize masterSide sd m = k at hm
    cases k <;> cases sd <;> simp_all [SideId.other]

/-- Registers lie in no memory, so no read of one waits for DRAM. -/
@[simp] theorem Side.spaceWaits_regs (x : Side) (off n : Nat) : x.spaceWaits 2 off n = false := rfl

@[simp] theorem Side.early_regs (x : Side) (m : Nat) : x.early m 2 = false := by simp [Side.early]

theorem State.readLogged_reg (s : State) (sd : SideId) (m : Nat) {off : Nat} (h : off < 2 ^ 20) :
    s.readLogged sd m 2 off = (s.setSide sd ((s.side sd).busRead m off).1, ((s.side sd).busRead m off).2, false) := by
  have hone : s.readOne sd m 2 off = (s.setSide sd ((s.side sd).busRead m off).1, ((s.side sd).busRead m off).2, false) := by
    simp only [State.readOne, if_pos h]
  simp [State.readLogged, hone]

/-- A read of a register by a master of its own side answers at once. -/
theorem State.busReadCmd_reg {s : State} {sd : SideId} {m : Nat} {off : Nat} (hp : s.path sd m = .reaches)
    (hb : (s.side sd).islTakes busSrc = true) (hm : masterSide sd m = sd) (ho : off < 2 ^ 20) :
    s.busReadCmd sd m 2 off = (s.setSide sd ((s.side sd).busRead m off).1).returned ((s.side sd).busRead m off).2 := by
  simp [State.busReadCmd, hp, hb, State.readLogged_reg s sd m ho, State.returnRead, hm, State.readEp, State.returned]

theorem State.busReadCmd_keelDown {s : State} {sd : SideId} {m : Nat} {space off : Nat} (h : s.path sd m = .keelDown) :
    s.busReadCmd sd m space off = (s.mod sd.other (fun x => x.accErr accKeel m false (devOf sd space off))).returned 0 := by
  simp only [State.busReadCmd, h, State.keelLost, State.masterSide_of_keelDown h]
  rfl

/-- A write that reaches a bus that runs is made there. -/
theorem State.busWriteBy_reaches {s : State} {sd : SideId} {m : Nat} (idx : Nat) (f : State → State) (hp : s.path sd m = .reaches)
    (hb : (s.side sd).islTakes busSrc = true) : s.busWriteBy sd m idx f = f s := by
  simp [State.busWriteBy, hp, hb]

theorem State.busWriteBy_keelDown {s : State} {sd : SideId} {m : Nat} (idx : Nat) (f : State → State) (h : s.path sd m = .keelDown) :
    s.busWriteBy sd m idx f = s.mod sd.other (fun x => x.accErr accKeel m true (devOf sd 2 idx)) := by
  simp only [State.busWriteBy, h, State.keelLost, State.masterSide_of_keelDown h]

theorem State.busWriteBy_none {s : State} {sd : SideId} {m : Nat} (idx : Nat) (f : State → State) (h : s.path sd m = .none) :
    s.busWriteBy sd m idx f = s := by
  simp [State.busWriteBy, h]

theorem Side.busRead_unserved {x : Side} {idx : Nat} (m : Nat) (h : x.serves idx = false) :
    x.busRead m idx = (x.accErr accEarly m false (x.regAddr idx), 0) := by
  simp [Side.busRead, h]

theorem State.regWrite_unserved {s : State} {sd : SideId} {idx : Nat} (m : Nat) (v : Word) (h : (s.side sd).serves idx = false) :
    s.regWrite sd m idx v = s.mod sd (fun x => x.accErr accEarly m true (x.regAddr idx)) := by
  simp [State.regWrite, h]

/-- Settles O15: each of the three ways of an access (it reaches the side, the Keel is down, it is not made) has its own equation. -/
theorem refusedAccesses : Obligations.RefusedAccesses := by
  unfold Obligations.RefusedAccesses
  intro s sd m off i v
  refine ⟨fun hp hb => ⟨fun hm ho hs => ?_, fun hs => ?_⟩, fun hk => ⟨?_, ?_⟩, fun hn => ?_⟩
  · show Host.Outcome.next (s.busReadCmd sd m.val 2 off.toNat) = _
    rw [State.busReadCmd_reg hp hb hm ho, Side.busRead_unserved _ hs]
    rfl
  · show Host.Outcome.next (s.busWriteBy sd m.val i.toNat _) = _
    rw [State.busWriteBy_reaches _ _ hp hb, State.regWrite_unserved _ _ hs]
  · show Host.Outcome.next (s.busReadCmd sd m.val 2 off.toNat) = _
    rw [State.busReadCmd_keelDown hk]
  · show Host.Outcome.next (s.busWriteBy sd m.val i.toNat _) = _
    rw [State.busWriteBy_keelDown _ _ hk]
  · show Host.Outcome.next (s.busWriteBy sd m.val i.toNat _) = _
    rw [State.busWriteBy_none _ _ hn]

/-! ### Reads by snapshot and freshness (R42, R45) -/

theorem kindOf_eq_some {idx : Nat} {k : RegKind} (h : kindOf idx = some k) : ∃ r, findReg idx = some r ∧ r.kind = k := by
  simpa [kindOf] using h

theorem Side.busRead_rsLo {x : Side} {m idx : Nat} (hs : x.serves idx = true) (hk : kindOf idx = some .rsLo) :
    x.busRead m idx = (x.capture m idx (x.live m (idx + 1)), x.live m idx) := by
  obtain ⟨r, hr, hrk⟩ := kindOf_eq_some hk
  simp [Side.busRead, hs, hr, hrk]

theorem Side.busRead_rsHi {x : Side} {m idx : Nat} (hs : x.serves idx = true) (hk : kindOf idx = some .rsHi) :
    x.busRead m idx = x.readHigh m (idx - 1) (x.live m idx) := by
  obtain ⟨r, hr, hrk⟩ := kindOf_eq_some hk
  simp [Side.busRead, hs, hr, hrk]

theorem Side.readHigh_captured {x : Side} {m key : Nat} {w : Word} (live : Word) (h : aget x.bus.snap m = some (key, w)) :
    x.readHigh m key live = (x, w) := by
  simp [Side.readHigh, h]

theorem Side.readHigh_missed {x : Side} {m key : Nat} (live : Word) (h : ∀ w, aget x.bus.snap m ≠ some (key, w)) :
    x.readHigh m key live = (x.orBit SNAP_STAT.MISS m, live) := by
  unfold Side.readHigh
  split
  · next k w hs =>
    have hk : k ≠ key := fun e => h w (e ▸ hs)
    simp [hk]
  · rfl

/-- The high word of a pair is no result register, so what a master has read of those does not show in it. -/
theorem Side.live_high_of_seen {x : Side} {idx : Nat} (m : Nat) (l : List (Nat × Nat)) (h : hasHigh idx = true) :
    ({ x with bus := { x.bus with seen := l } } : Side).live m (idx + 1) = x.live m (idx + 1) := by
  unfold hasHigh at h
  cases hr : findReg (idx + 1) with
  | none => simp [hr] at h
  | some r =>
    simp only [hr, Bool.or_eq_true, beq_iff_eq] at h
    unfold Side.live
    rcases h with hk | hk <;> simp only [hr, hk] <;> rfl

theorem Side.busRead_rcLo {x : Side} {m idx : Nat} (hs : x.serves idx = true) (hk : kindOf idx = some .rcLo) :
    x.busRead m idx = ({ x with bus := { x.bus with
      seen := dedup (x.bus.seen ++ [(idx, m)])
      snap := if hasHigh idx then aput x.bus.snap m (idx, x.live m (idx + 1)) else x.bus.snap } }, x.live m idx) := by
  obtain ⟨r, hr, hrk⟩ := kindOf_eq_some hk
  simp only [Side.busRead, hs, hr, hrk, Bool.not_true, Bool.false_eq_true, if_false]
  cases hh : hasHigh idx
  · rfl
  · simp only [if_true, Side.capture, Side.live_high_of_seen m _ hh]

/-- R45: what a result register shows of FRESH, bit 34. -/
theorem Side.live_fresh {x : Side} {m idx : Nat} (hk : kindOf idx = some .rcLo) (hf : idx ≠ RT_FREQ_ADJ.whole.idx) :
    (x.live m idx).getLsbD 34
      = ((x.reg idx).getLsbD 34 || (x.reg idx).getLsbD 35 && !x.bus.seen.contains (idx, m)) := by
  have hne : ∀ j, kindOf j ≠ some .rcLo → idx ≠ j := fun j hj e => hj (e ▸ hk)
  have h1 := hne RT_NOW_LO.whole.idx (by decide)
  have h2 := hne RT_NOW_HI.whole.idx (by decide)
  have h3 := hne RT_LOAD_LO.whole.idx (by decide)
  have h4 := hne RT_LOAD_HI.whole.idx (by decide)
  have h5 : ¬ ((COXCORE_STAT.whole 0).idx ≤ idx ∧ idx < (COXCORE_STAT.whole 4).idx) := by
    rintro ⟨hl, hu⟩
    have h0 := hne (COXCORE_STAT.whole 0).idx (by decide)
    have h1 := hne (COXCORE_STAT.whole 1).idx (by decide)
    have h2 := hne (COXCORE_STAT.whole 2).idx (by decide)
    have h3 := hne (COXCORE_STAT.whole 3).idx (by decide)
    simp only [COXCORE_STAT.whole] at hl hu h0 h1 h2 h3
    omega
  obtain ⟨r, hr, hrk⟩ := kindOf_eq_some hk
  have hb : bitAt (x.reg idx).toNat 35 = (x.reg idx).getLsbD 35 := by
    simp [bitAt, BitVec.getLsbD, Nat.testBit_eq_decide_div_mod_eq, beq_eq_decide]
  simp only [Side.live, beq_iff_eq, h1, h2, h3, h4, hf, Bool.or_eq_true, or_self, Bool.and_eq_true, decide_eq_true_eq, h5, if_false, hr,
    hrk, hb]
  split
  · next h =>
    have h34 : (wordN (2 ^ 34)).getLsbD 34 = true := by decide
    simp only [BitVec.getLsbD_or, h34, h, Bool.and_self]
  · next h =>
    have h' : ((x.reg idx).getLsbD 35 && !x.bus.seen.contains (idx, m)) = false := by simpa using h
    rw [h', Bool.or_false]

/-! ### Writes of two-word values (R43, R247) -/

/-- The registers of the two logs have write rules of their own. -/
theorem State.logWrite_none (s : State) (sd : SideId) {idx : Nat} (v : Word) (h1 : idx ≠ ACC_ERR_LO.whole.idx)
    (h2 : idx ≠ POISON_ADDR_LO.whole.idx) (h3 : idx ≠ ACC_ERR_HI.whole.idx) (h4 : idx ≠ POISON_ADDR_HI.whole.idx) :
    s.logWrite sd idx v = none := by
  simp [State.logWrite, h1, h2, h3, h4]

theorem State.regWrite_high {s : State} {sd : SideId} {m idx : Nat} {v : Word} (hs : (s.side sd).serves idx = true)
    (hl : s.logWrite sd idx v = none) (hk : kindOf idx = some .rsHi ∨ kindOf idx = some .wHi) :
    s.regWrite sd m idx v = s.mod sd (fun x => x.stageHigh m (idx - 1) v) := by
  rcases hk with hk | hk <;> obtain ⟨r, hr, hrk⟩ := kindOf_eq_some hk <;> simp [State.regWrite, hs, hl, hr, hrk]

theorem State.regWrite_low {s : State} {sd : SideId} {m idx : Nat} {v : Word} (hs : (s.side sd).serves idx = true)
    (hl : s.logWrite sd idx v = none) (hk : kindOf idx = some .rsLo ∨ kindOf idx = some .wLo) :
    s.regWrite sd m idx v = s.writeLow sd m idx v := by
  rcases hk with hk | hk <;> obtain ⟨r, hr, hrk⟩ := kindOf_eq_some hk <;> simp [State.regWrite, hs, hl, hr, hrk]

/-- Settles O13: a read or write that is carried out is the register's own rule; the master's slot decides which of its cases. -/
theorem snapshotAndStagingSlots : Obligations.SnapshotAndStagingSlots := by
  unfold Obligations.SnapshotAndStagingSlots
  refine ⟨?_, ?_⟩
  · intro s sd m off i
    dsimp only
    intro hm
    refine ⟨fun ho hop hk => ?_, fun ho hop hk => ⟨fun w hw => ?_, fun hw => ?_⟩, fun hop hk => ⟨?_, fun hf => Side.live_fresh hk hf⟩⟩
    · obtain ⟨hp, hb, hs⟩ := (s.opens_iff sd m off.toNat).1 hop
      show Host.Outcome.next (s.busReadCmd sd m.val 2 off.toNat) = _
      rw [State.busReadCmd_reg hp hb hm ho, Side.busRead_rsLo hs hk]
      rfl
    · obtain ⟨hp, hb, hs⟩ := (s.opens_iff sd m off.toNat).1 hop
      show Host.Outcome.next (s.busReadCmd sd m.val 2 off.toNat) = _
      rw [State.busReadCmd_reg hp hb hm ho, Side.busRead_rsHi hs hk, Side.readHigh_captured _ hw, State.setSide_self]
    · obtain ⟨hp, hb, hs⟩ := (s.opens_iff sd m off.toNat).1 hop
      show Host.Outcome.next (s.busReadCmd sd m.val 2 off.toNat) = _
      rw [State.busReadCmd_reg hp hb hm ho, Side.busRead_rsHi hs hk, Side.readHigh_missed _ hw]
      rfl
    · obtain ⟨hp, hb, hs⟩ := (s.opens_iff sd m i.toNat).1 hop
      show Host.Outcome.next (s.busReadCmd sd m.val 2 i.toNat) = _
      rw [State.busReadCmd_reg hp hb hm i.isLt, Side.busRead_rcLo hs hk]
      rfl
  · intro s sd m i v hi
    dsimp only
    intro hop h1 h2 h3 h4
    obtain ⟨hp, hb, hs⟩ := (s.opens_iff sd m i.toNat).1 hop
    have hl : s.logWrite sd i.toNat v = none := s.logWrite_none sd v h1 h2 h3 h4
    have hw : ∀ f, s.busWriteBy sd m.val i.toNat f = f s := fun f => State.busWriteBy_reaches _ f hp hb
    refine ⟨fun hk => ?_, fun hk => ⟨fun w hst => ?_, fun hst => ?_, fun k w hst hne => ?_, fun hh he => ?_⟩⟩
    · show Host.Outcome.next (s.busWriteBy sd m.val i.toNat _) = _
      rw [hw, State.regWrite_high hs hl hk]
      rfl
    · show Host.Outcome.next (s.busWriteBy sd m.val i.toNat _) = _
      rw [hw, State.regWrite_low hs hl hk]
      simp [State.writeLow, hst]
    · show Host.Outcome.next (s.busWriteBy sd m.val i.toNat _) = _
      rw [hw, State.regWrite_low hs hl hk]
      simp [State.writeLow, hst]
    · show Host.Outcome.next (s.busWriteBy sd m.val i.toNat _) = _
      rw [hw, State.regWrite_low hs hl hk]
      simp [State.writeLow, hst, hne]
    · have hpair : writesPair i.toNat = true := by simp [writesPair, hh, he, h1, h2]
      show Host.Outcome.next (s.busWriteBy sd m.val i.toNat _) = _
      rw [hw]
      simp [State.pairWriteReg, hpair, hs]

end Sys2Proof.Machine
end

section
/-! PROOFS. What leaves the registers of the Keel, race time and the split timer (R475: indexes 0x3000 to 0x4FFF) alone: events, the fault
log, the access-error log, the memories, and the pairing of cross-spectra. -/

namespace Sys2Proof.Machine

/-- A register outside the Keel, race-time and split-timer blocks. -/
def Fld.offTiming (f : Fld) : Prop := f.idx < 0x3000 ∨ 0x5000 ≤ f.idx

/-- The registers of those blocks, and which side they are of. -/
def Side.timing (x : Side) : SideId × (Fin 0x2000 → Word) := (x.who, fun i => x.reg (0x3000 + i.val))

theorem Side.timing_of_regs {x y : Side} (h : y.regs = x.regs) (hf : y.fuse = x.fuse) (hw : y.who = x.who) : y.timing = x.timing := by
  unfold Side.timing
  rw [hw]
  exact congrArg _ (funext fun i => Side.reg_of_regs x y h hf hw _)

theorem Side.get_of_timing {x y : Side} (h : y.timing = x.timing) (g : Fld) (hl : 0x3000 ≤ g.idx) (hu : g.idx < 0x5000) : y.get g = x.get g := by
  have e := congrFun (congrArg Prod.snd h) ⟨g.idx - 0x3000, by omega⟩
  have hi : 0x3000 + (g.idx - 0x3000) = g.idx := by omega
  simp only [Side.timing, hi] at e
  unfold Side.get
  rw [e]

theorem Side.on_of_timing {x y : Side} (h : y.timing = x.timing) (g : Fld) (hl : 0x3000 ≤ g.idx) (hu : g.idx < 0x5000) : y.on g = x.on g := by
  unfold Side.on
  rw [Side.get_of_timing h g hl hu]

@[simp] theorem Side.timing_set (x : Side) (f : Fld) (v : Nat) (h : f.offTiming) : (x.set f v).timing = x.timing := by
  unfold Side.timing
  refine congrArg _ (funext fun i => Side.reg_set_ne x f v _ ?_)
  unfold Fld.offTiming at h
  omega

/-! ### Registers of other blocks -/

@[simp] theorem offTiming_rings : EVT_DROP.whole.offTiming ∧ ACC_ERR_COUNT.whole.offTiming ∧ HOST_STAT.ERR_SEEN.offTiming
    ∧ HOST_STAT.ACCESS_BEFORE_READY.offTiming ∧ ACC_ERR_LO.ADDR_LO.offTiming ∧ ACC_ERR_HI.ADDR_HI.offTiming ∧ ACC_ERR_HI.CAUSE.offTiming
    ∧ ACC_ERR_HI.MASTER.offTiming ∧ ACC_ERR_HI.WRITE.offTiming ∧ ACC_ERR_HI.VALID.offTiming := by
  unfold Fld.offTiming; decide

@[simp] theorem offTiming_faults : FAULT_STAT.OUT_OVF.offTiming ∧ FAULT_STAT.OUT_COUNT.offTiming ∧ FAULT_STAT.WORST.offTiming
    ∧ FAULT_STAT.FAULT_N.offTiming ∧ FAULT_STAT.FIRST_VALID.offTiming ∧ FAULT_STAT.INJ_FIRED.offTiming ∧ FAULT_HIST_WP.whole.offTiming
    ∧ FAULT_CNT_CORR.whole.offTiming ∧ FAULT_CNT_DEF.whole.offTiming ∧ FAULT_CNT_CONT.whole.offTiming ∧ FAULT_CNT_WIRE.whole.offTiming
    ∧ FAULT_INJ.MODE.offTiming ∧ FAULT_SUMMARY.whole.offTiming ∧ FAULT_FIRST_W2.whole.offTiming ∧ FAULT_FIRST_W3.whole.offTiming := by
  unfold Fld.offTiming; decide

@[simp] theorem offTiming_outstanding (i : Nat) : (FAULT_OUT.VALID i).offTiming ∧ (FAULT_OUT.CLASS i).offTiming
    ∧ (FAULT_OUT.SEQ i).offTiming ∧ (FAULT_OUT.SRC i).offTiming := by
  simp only [Fld.offTiming, FAULT_OUT.VALID, FAULT_OUT.CLASS, FAULT_OUT.SEQ, FAULT_OUT.SRC]; omega

@[simp] theorem offTiming_memories : POISON_COUNT.whole.offTiming ∧ POISON_ADDR_HI.ADDR_HI.offTiming ∧ POISON_ADDR_HI.VALID.offTiming
    ∧ SRAM_CORR.whole.offTiming ∧ SRAM_UNCORR.whole.offTiming ∧ SRAM_DENS_ZERO.whole.offTiming := by
  unfold Fld.offTiming; decide

@[simp] theorem offTiming_channels (c : Nat) : (DRAM_CORR.whole c).offTiming ∧ (DRAM_UNCORR.whole c).offTiming
    ∧ (ACQ_STAT.POISON_SEEN c).offTiming ∧ (PP_STAT.TRACE_DONE c).offTiming ∧ (PP_STAT.XS_GAP_SEEN c).offTiming
    ∧ (PP_STAT.XS_LOST c).offTiming ∧ (XS_GAP.whole c).offTiming := by
  simp only [Fld.offTiming, DRAM_CORR.whole, DRAM_UNCORR.whole, ACQ_STAT.POISON_SEEN, PP_STAT.TRACE_DONE, PP_STAT.XS_GAP_SEEN,
    PP_STAT.XS_LOST, XS_GAP.whole]
  omega

@[simp] theorem offTiming_starter : DTRIG_SOLO.whole.offTiming ∧ LATE_OCC.whole.offTiming ∧ STARTER_STAT.LATE_SEEN.offTiming := by
  unfold Fld.offTiming; decide

/-! ### Register operations -/

theorem Side.timing_setReg (x : Side) (i : Nat) (v : Word) (h : (⟨i, 0, 0⟩ : Fld).offTiming) : (x.setReg i v).timing = x.timing := by
  unfold Side.timing
  refine congrArg _ (funext fun j => Side.reg_setReg_ne x i _ v ?_)
  have h' : i < 0x3000 ∨ 0x5000 ≤ i := h
  omega

@[simp] theorem Side.timing_bump (x : Side) (f : Fld) (n : Nat) (h : f.offTiming) : (x.bump f n).timing = x.timing :=
  Side.timing_set x f _ h

@[simp] theorem Side.timing_inc (x : Side) (f : Fld) (h : f.offTiming) : (x.inc f).timing = x.timing := Side.timing_bump x f 1 h

@[simp] theorem Side.timing_orBit (x : Side) (f : Fld) (i : Nat) (h : f.offTiming) : (x.orBit f i).timing = x.timing := by
  unfold Side.orBit; split
  · rfl
  · exact Side.timing_set x f _ h

theorem Side.timing_setPair (x : Side) (i v : Nat) (h : i + 1 < 0x3000 ∨ 0x5000 ≤ i) : (x.setPair i v).timing = x.timing := by
  unfold Side.setPair
  rw [Side.timing_setReg, Side.timing_setReg]
  · exact h.imp (fun h => Nat.lt_of_succ_lt h) id
  · exact h.imp id (fun h => Nat.le_succ_of_le h)

/-! ### Events and faults -/

@[simp] theorem Side.timing_coxIrq (x : Side) (n : Nat) : (x.coxIrq n).timing = x.timing := Side.timing_of_regs rfl rfl rfl

/-- What raising an event can do: the host region and the cores change, and where the event is dropped its counter. -/
theorem Side.eventSt_cases (x : Side) (code st t : Nat) (a b : Int) : ∃ h cs,
    x.eventSt code st t a b = { x with host := h, cores := cs }
      ∨ x.eventSt code st t a b = ({ x with host := h, cores := cs } : Side).inc EVT_DROP.whole := by
  unfold Side.eventSt
  cases eventIrq code <;> dsimp only <;> split
  · exact ⟨_, _, .inl rfl⟩
  · exact ⟨_, _, .inr rfl⟩
  · exact ⟨_, _, .inl rfl⟩
  · exact ⟨_, _, .inr rfl⟩

@[simp] theorem Side.timing_eventSt (x : Side) (code st t : Nat) (a b : Int) : (x.eventSt code st t a b).timing = x.timing := by
  obtain ⟨h, cs, e | e⟩ := x.eventSt_cases code st t a b <;> rw [e]
  · exact Side.timing_of_regs rfl rfl rfl
  · rw [Side.timing_inc _ _ offTiming_rings.1]
    exact Side.timing_of_regs rfl rfl rfl

@[simp] theorem Side.timing_event (x : Side) (code t : Nat) (a b : Int) : (x.event code t a b).timing = x.timing := Side.timing_eventSt ..

@[simp] theorem Side.timing_logRecord (x : Side) (r : Report) : (x.logRecord r).timing = x.timing := by
  have hrec : ∀ (y : Side) (e t w2 : Nat), ((((y.setPair (FAULT_HIST_LO.whole e).idx t).setReg (FAULT_HIST_W2.whole e).idx (wordN w2)).setReg
      (FAULT_HIST_W3.whole e).idx (wordN r.syn))).timing = y.timing := by
    intro y e t w2
    rw [Side.timing_setReg, Side.timing_setReg, Side.timing_setPair] <;>
      simp only [Fld.offTiming, FAULT_HIST_LO.whole, FAULT_HIST_W2.whole, FAULT_HIST_W3.whole] <;> omega
  have hfirst : ∀ (y : Side) (t w2 : Nat), ((y.setPair FAULT_FIRST_LO.whole.idx t).setReg FAULT_FIRST_W2.whole.idx (wordN w2)).timing = y.timing := by
    intro y t w2
    rw [Side.timing_setReg _ _ _ offTiming_faults.2.2.2.2.2.2.2.2.2.2.2.2.2.1, Side.timing_setPair _ _ _ (by decide)]
  unfold Side.logRecord
  dsimp only
  split
  · rw [Side.raise_eq, Side.timing_set _ _ _ (by simp), Side.timing_setReg _ _ _ (by unfold Fld.offTiming; decide), hfirst,
      Side.timing_set _ _ _ (by simp), hrec]
  · rw [Side.timing_set _ _ _ (by simp), hrec]

@[simp] theorem Side.timing_countReport (x : Side) (r : Report) : (x.countReport r).timing = x.timing := by
  unfold Side.countReport; dsimp only; split <;> split <;> simp

@[simp] theorem Side.timing_outstanding (x : Side) (a b c : Nat) : (x.outstanding a b c).timing = x.timing := by
  unfold Side.outstanding; split
  · simp
  · split <;> simp

@[simp] theorem Side.timing_faultRefresh (x : Side) : x.faultRefresh.timing = x.timing := by simp [Side.faultRefresh]

@[simp] theorem Side.timing_logFault (x : Side) (r : Report) (own : Bool) : (x.logFault r own).timing = x.timing := by
  unfold Side.logFault; dsimp only; split <;> split <;> simp

@[simp] theorem Side.timing_report (x : Side) (a b c : Nat) (i : Bool) : (x.report a b c i).timing = x.timing := Side.timing_logFault ..

@[simp] theorem Side.timing_takeInj (x : Side) (l : Nat) : (x.takeInj l).2.timing = x.timing := by
  unfold Side.takeInj; dsimp only; split
  · dsimp only; split <;> simp
  · rfl

@[simp] theorem Side.timing_accErr (x : Side) (cause m : Nat) (w : Bool) (a : Nat) : (x.accErr cause m w a).timing = x.timing := by
  unfold Side.accErr; dsimp only; split <;> split <;> simp

/-- An occurrence changes the Starter's list and counters at most. -/
@[simp] theorem Side.timing_occurIn (x : Side) (o : Occ) (ep t : Nat) (l : List (Nat × Nat)) : (x.occurIn o ep t l).timing = x.timing := by
  unfold Side.occurIn; dsimp only
  split
  · rfl
  · split
    · simp
    · exact Side.timing_of_regs rfl rfl rfl

@[simp] theorem Side.timing_occur (x : Side) (o : Occ) (t : Nat) : (x.occur o t).timing = x.timing := Side.timing_occurIn ..

theorem Side.timing_foldl {α : Type} (f : Side → α → Side) (h : ∀ x a, (f x a).timing = x.timing) (l : List α) :
    ∀ x, (l.foldl f x).timing = x.timing := by
  induction l with
  | nil => intro x; rfl
  | cons a r ih => intro x; exact (ih _).trans (h x a)

/-! ### Memories -/

@[simp] theorem Side.timing_setMem (x : Side) (k : MemSel) (m : BpcMem) : (x.setMem k m).timing = x.timing := by
  cases k <;> exact Side.timing_of_regs rfl rfl rfl

@[simp] theorem Side.timing_setAcq (x : Side) (c : Chan) (a : Acq) : (x.setAcq c a).timing = x.timing := Side.timing_of_regs rfl rfl rfl

@[simp] theorem Side.timing_flagEntry (x : Side) (b : List Word) (n : Nat) : (x.flagEntry b n).timing = x.timing := by
  unfold Side.flagEntry Side.orWord; split <;> simp

@[simp] theorem Side.timing_flagHeader (x : Side) (c : Chan) : (x.flagHeader c).timing = x.timing := by simp [Side.flagHeader]

theorem Side.timing_flagEntries (x : Side) (b : List Word) (l : List Seg) : (l.foldl (fun x g => x.flagEntry b g.num) x).timing = x.timing :=
  Side.timing_foldl (fun x (g : Seg) => x.flagEntry b g.num) (fun x g => Side.timing_flagEntry x b g.num) l x

@[simp] theorem Side.timing_markArmed (x : Side) (c : Chan) (ws : List Nat) : (x.markArmed c ws).timing = x.timing := by
  unfold Side.markArmed; dsimp only
  split
  · rfl
  · split
    · rfl
    · rw [Side.timing_flagHeader, Side.timing_setAcq, Side.timing_flagEntries]

@[simp] theorem Side.timing_markLast (x : Side) (c : Chan) (ws : List Nat) : (x.markLast c ws).timing = x.timing := by
  unfold Side.markLast; dsimp only
  split
  · rfl
  · split
    · rfl
    · rw [Side.timing_event]
      split
      · rw [Side.raise_eq, Side.timing_set _ _ _ (by simp), Side.timing_flagEntries]
      · rw [Side.timing_flagHeader, Side.timing_flagEntries]

@[simp] theorem Side.timing_markRecords (x : Side) (b : Nat) : (x.markRecords b).timing = x.timing := by
  simp [Side.markRecords, Side.markRecord]

@[simp] theorem Side.timing_poisonBlk (x : Side) (k : MemSel) (b : Nat) (ws : List Word) (c : Nat) :
    (x.poisonBlk k b ws c).timing = x.timing := by
  have haddr : ∀ (y : Side) (a : Word), (y.setReg POISON_ADDR_LO.whole.idx a).timing = y.timing := fun y a =>
    Side.timing_setReg y _ a (by unfold Fld.offTiming; decide)
  unfold Side.poisonBlk; dsimp only
  split <;> split <;> simp [haddr]

@[simp] theorem Side.timing_countRead (x : Side) (k : MemSel) (b : Nat) (bad : Bool) : (x.countRead k b bad).timing = x.timing := by
  cases k <;> cases bad <;> simp [Side.countRead]

@[simp] theorem Side.timing_zeroBlk (x : Side) (k : MemSel) (b : Nat) : (x.zeroBlk k b).timing = x.timing := by simp [Side.zeroBlk]

@[simp] theorem Side.timing_decodeBlk (x : Side) (k : MemSel) (b r : Nat) : (x.decodeBlk k b r).1.timing = x.timing := by
  unfold Side.decodeBlk; dsimp only
  split
  · rfl
  · rfl
  · simp
  · split <;> simp

@[simp] theorem Side.timing_writeBlk (x : Side) (k : MemSel) (b : Nat) (ws : List Word) : (x.writeBlk k b ws).timing = x.timing := by
  simp [Side.writeBlk]

@[simp] theorem Side.timing_flushEnt (x : Side) (k : MemSel) (e : MergeEnt) : (x.flushEnt k e).timing = x.timing := by
  unfold Side.flushEnt; dsimp only
  split
  · rfl
  · split
    · simp
    · split
      · simp
      · simp
      · simp
      · split <;> simp

@[simp] theorem Side.timing_flushEnts (x : Side) (k : MemSel) (p : MergeEnt → Bool) : (x.flushEnts k p).timing = x.timing :=
  Side.timing_foldl _ (fun x e => Side.timing_flushEnt x k e) _ x

@[simp] theorem Side.timing_leaveOthers (x : Side) (k : MemSel) (src b : Nat) : (x.leaveOthers k src b).timing = x.timing := by
  unfold Side.leaveOthers; split <;> simp

@[simp] theorem Side.timing_openEnt (x : Side) (k : MemSel) (e : MergeEnt) : (x.openEnt k e).timing = x.timing := by
  unfold Side.openEnt; dsimp only
  rw [Side.timing_setMem]
  split
  · cases ((x.memOf k).buf.filter (fun f => x.bufGroup k f.blk == x.bufGroup k e.blk)).head? with
    | none => rfl
    | some d => exact Side.timing_flushEnt x k d
  · rfl

@[simp] theorem Side.timing_writePart (x : Side) (k : MemSel) (src b : Nat) (ns : List (Nat × Word)) : (x.writePart k src b ns).timing = x.timing := by
  unfold Side.writePart; dsimp only
  split
  · split <;> simp
  · simp

@[simp] theorem Side.timing_writeWhole (x : Side) (k : MemSel) (src b : Nat) (ws : List Word) : (x.writeWhole k src b ws).timing = x.timing := by
  unfold Side.writeWhole; dsimp only; split <;> simp

@[simp] theorem Side.timing_writeRange (x : Side) (k : MemSel) (src a : Nat) (ws : List Word) : (x.writeRange k src a ws).timing = x.timing := by
  unfold Side.writeRange; split
  · rfl
  · refine Side.timing_foldl _ (fun y i => ?_) _ x
    dsimp only; split <;> simp

@[simp] theorem Side.timing_readBlk (x : Side) (k : MemSel) (b : Nat) : (x.readBlk k b).1.timing = x.timing := by
  simp [Side.readBlk, Side.flushBlk]

@[simp] theorem Side.timing_readRange (x : Side) (k : MemSel) (a n : Nat) : (x.readRange k a n).1.timing = x.timing := by
  unfold Side.readRange; split
  · rfl
  · exact foldl_keeps (fun r : Side × List Word × Nat => r.1.timing = x.timing) _
      (fun r i hr => (Side.timing_readBlk r.1 k _).trans hr) _ (x, [], 0) rfl

/-! ### Cross-spectra (R144 to R147) -/

@[simp] theorem Side.timing_setPp (x : Side) (c : Chan) (p : Pp) : (x.setPp c p).timing = x.timing := Side.timing_of_regs rfl rfl rfl

@[simp] theorem Side.timing_workRead (x : Side) (c : Chan) (a n : Nat) : (x.workRead c a n).1.timing = x.timing := by
  unfold Side.workRead; dsimp only
  split
  · split <;> simp
  · rfl

@[simp] theorem Side.timing_putImage (x : Side) (c : Chan) (slot base wi : Nat) (img : List Word) : (x.putImage c slot base wi img).timing = x.timing := by
  simp [Side.putImage]

@[simp] theorem Side.timing_offerImage (x : Side) (c : Chan) (slot : Nat) (img : List Word) (tf fl : Nat) :
    (x.offerImage c slot img tf fl).timing = x.timing := Side.timing_of_regs rfl rfl rfl

@[simp] theorem Side.timing_xsDone (x : Side) (c : Chan) (g : Int) : (x.xsDone c g).timing = x.timing := by simp [Side.xsDone]

@[simp] theorem Side.timing_xsGap (x : Side) (c : Chan) : (x.xsGap c).timing = x.timing := by simp [Side.xsGap]

@[simp] theorem Side.timing_xsTake (x : Side) (c : Chan) (f : Bins) (p : Option Bins) : (x.xsTake c f p).timing = x.timing := by
  have hgap : ∀ (y : Side) (b : Bool), (if b = true then y.xsGap c else y).timing = y.timing := by
    intro y b; cases b <;> simp
  unfold Side.xsTake
  extract_lets
  split
  · rw [hgap, Side.timing_setPp, Side.timing_workRead]
  · split
    · rw [Side.timing_setPp, hgap, Side.timing_setPp, Side.timing_workRead]
    · rw [Side.timing_xsDone, hgap, Side.timing_setPp, Side.timing_workRead]

@[simp] theorem Side.timing_xsPump (c : Chan) (o : Bool) (n : Nat) : ∀ x : Side, (x.xsPump c o n).timing = x.timing := by
  induction n with
  | zero => intro x; rfl
  | succ n ih =>
    intro x
    unfold Side.xsPump
    dsimp only
    split
    · rfl
    · split
      · simp [ih]
      · split
        · split <;> simp [ih]
        · split
          · simp [ih]
          · split <;> simp [ih]

theorem State.timing_pumpXs (s : State) (sd i : SideId) (c : Chan) : ((s.pumpXs sd c).side i).timing = (s.side i).timing := by
  unfold State.pumpXs
  dsimp only
  by_cases h : i = sd
  · subst h
    rw [State.side_mod]
    split <;> simp
  · have : i = sd.other := by cases i <;> cases sd <;> simp_all [SideId.other]
    rw [this, State.side_mod_other]

end Sys2Proof.Machine
end

section
/-! PROOFS. Fields and sides: what setting a field, changing a side and answering a command do to what is read afterwards. -/

namespace Sys2Proof.Machine

/-! ### Sides -/

@[simp] theorem State.side_of_mod_other (s : State) (i : SideId) (f : Side → Side) : (s.mod i.other f).side i = s.side i := by
  cases i <;> rfl

@[simp] theorem State.side_of_setSide_other (s : State) (i : SideId) (x : Side) : (s.setSide i.other x).side i = s.side i := by
  cases i <;> rfl

@[simp] theorem State.side_keel (s : State) (k : Keel) (i : SideId) : ({ s with keel := k } : State).side i = s.side i := by cases i <;> rfl

theorem SideId.eq_other_of_ne {i j : SideId} (h : i ≠ j) : i = j.other := by cases i <;> cases j <;> simp_all [SideId.other]

/-! ### Fields -/

theorem bitsOf_lt (w hi lo : Nat) : bitsOf w hi lo < 2 ^ (hi + 1 - lo) := Nat.mod_lt _ (Nat.two_pow_pos _)

theorem Side.get_lt (x : Side) (f : Fld) : x.get f < 2 ^ (f.hi + 1 - f.lo) := bitsOf_lt _ _ _

theorem Side.get_congr {x y : Side} (h : y.regs = x.regs) (hf : y.fuse = x.fuse) (hw : y.who = x.who) (f : Fld) : y.get f = x.get f := by
  unfold Side.get
  rw [Side.reg_of_regs x y h hf hw]

/-- A field reads as set where its width holds the value. -/
theorem Side.get_set_self (x : Side) (f : Fld) (v : Nat) (h : f.lo ≤ f.hi ∧ f.hi < 36) (hv : v < 2 ^ (f.hi + 1 - f.lo)) : (x.set f v).get f = v := by
  rw [Side.get_set x f v h.1 h.2, Nat.mod_eq_of_lt hv]

/-- Two fields that share no bit. -/
@[reducible] def Fld.apart (f g : Fld) : Prop := g.idx ≠ f.idx ∨ (f.lo ≤ f.hi ∧ g.hi < 36 ∧ (g.hi < f.lo ∨ f.hi < g.lo))

theorem Side.get_set_apart (x : Side) (f g : Fld) (v : Nat) (h : f.apart g) : (x.set f v).get g = x.get g := by
  by_cases hi : g.idx = f.idx
  · obtain ⟨hf, hg, hd⟩ := h.resolve_left (fun hn => hn hi)
    exact Side.get_set_out x f g v hi hf hg hd
  · exact Side.get_set_ne x f g v hi

theorem Side.on_set_apart (x : Side) (f g : Fld) (v : Nat) (h : f.apart g) : (x.set f v).on g = x.on g := by
  unfold Side.on
  rw [Side.get_set_apart x f g v h]

/-- A one-bit field reads as set. -/
theorem Side.on_set_one (x : Side) (f : Fld) (h : f.hi = f.lo ∧ f.hi < 36) : (x.set f 1).on f = true := by
  unfold Side.on
  rw [Side.get_set_self x f 1 ⟨h.1.ge, h.2⟩ (by rw [h.1, Nat.add_sub_cancel_left]; decide)]
  rfl

theorem Side.on_set_zero (x : Side) (f : Fld) (h : f.lo ≤ f.hi ∧ f.hi < 36) : (x.set f 0).on f = false := by
  unfold Side.on
  rw [Side.get_set_self x f 0 h (Nat.two_pow_pos _)]
  rfl

theorem Side.on_set_b2n (x : Side) (f : Fld) (b : Bool) (h : f.hi = f.lo ∧ f.hi < 36) : (x.set f (b2n b)).on f = b := by
  cases b
  · exact Side.on_set_zero x f ⟨h.1.ge, h.2⟩
  · exact Side.on_set_one x f h

/-! ### Commands answered on the way -/

/-- Commands have been answered since, and nothing else has happened: host regions and completions in flight may differ. -/
def State.answersOnly (s t : State) : Prop := (∀ i, (t.side i).noHost = (s.side i).noHost) ∧ ∃ d, t.keel = { s.keel with dones := d }

theorem State.answersOnly_refl (s : State) : s.answersOnly s := ⟨fun _ => rfl, _, rfl⟩

theorem State.answersOnly_complete {s t : State} (h : s.answersOnly t) (sd : SideId) (c : Staged) (st tm : Nat) (r0 r1 : Int) :
    s.answersOnly (t.complete sd c st tm r0 r1) := by
  refine ⟨fun i => (State.complete_noHost t sd c st tm r0 r1 i).trans (h.1 i), ?_⟩
  obtain ⟨d, hd⟩ := h.2
  unfold State.complete
  dsimp only
  split
  · exact ⟨d, by simp [hd]⟩
  · exact ⟨d ++ [(c.issuer, c.ring, c.id, c.e, entryOf c.op c.e c.ring (c.issuer != sd) st tm r0 r1)], by simp [hd]⟩

theorem State.answersOnly_refuse {s t : State} (h : s.answersOnly t) (sd : SideId) (c : Staged) (st : Nat) :
    s.answersOnly (t.refuse sd c st) := State.answersOnly_complete h ..

/-- Commands named one after another are refused where they are still staged. -/
theorem State.answersOnly_refusals {α : Type} (sd : α → SideId) (who : α → SideId) (id : α → Nat) (st : Nat) (l : List α) (s : State) :
    s.answersOnly (l.foldl (fun s r => match (s.side (sd r)).cmdOf (who r) (id r) with
      | some c => s.refuse (sd r) c st
      | none => s) s) := by
  refine foldl_keeps (fun t => s.answersOnly t) _ (fun t r ht => ?_) l s s.answersOnly_refl
  split
  · exact State.answersOnly_refuse ht _ _ _
  · exact ht

theorem State.answersOnly_dropStrobes (s : State) (sd : SideId) : s.answersOnly (s.dropStrobes sd) := by
  unfold State.dropStrobes
  exact State.answersOnly_refusals (fun _ => sd) (fun r : SideId × Nat => r.1) (fun r => r.2) _ _ s

theorem State.answersOnly_failStrobes (s : State) (sd : SideId) :
    (s.mod sd (fun x => { x with strobe := { x.strobe with reqs := [] } })).answersOnly (s.failStrobes sd) := by
  unfold State.failStrobes
  exact State.answersOnly_refusals (fun _ => sd) (fun r : SideId × Nat => r.1) (fun r => r.2) _ _ _

theorem State.answersOnly_cancelHandovers (s : State) :
    ({ s with keel := { s.keel with handover := [] } } : State).answersOnly s.cancelHandovers := by
  unfold State.cancelHandovers
  exact State.answersOnly_refusals (fun h : Handover => h.actor) (fun h => h.issuer) (fun h => h.id) _ _ _

theorem State.answersOnly.get {s t : State} (h : s.answersOnly t) (i : SideId) (f : Fld) : (t.side i).get f = (s.side i).get f :=
  Side.get_of_noHost (h.1 i) f

theorem State.answersOnly.on {s t : State} (h : s.answersOnly t) (i : SideId) (f : Fld) : (t.side i).on f = (s.side i).on f := by
  unfold Side.on
  rw [h.get i f]

end Sys2Proof.Machine
end

section
/-! PROOFS. Steps of race time (R171), and cox: resolution, claims and handovers (R26 to R34). -/

namespace Sys2Proof.Machine

/-! ### What an event leaves -/

@[simp] theorem Side.eventSt_rt (x : Side) (code st t : Nat) (a b : Int) : (x.eventSt code st t a b).rt = x.rt := by
  obtain ⟨h, cs, e | e⟩ := x.eventSt_cases code st t a b
  · rw [e]
  · rw [e]; rfl

@[simp] theorem Side.event_rt (x : Side) (code t : Nat) (a b : Int) : (x.event code t a b).rt = x.rt := Side.eventSt_rt ..

theorem Side.get_event (x : Side) (code t : Nat) (a b : Int) (g : Fld) (hl : 0x3000 ≤ g.idx) (hu : g.idx < 0x5000) :
    (x.event code t a b).get g = x.get g := Side.get_of_timing (Side.timing_event ..) g hl hu

theorem Side.on_event (x : Side) (code t : Nat) (a b : Int) (g : Fld) (hl : 0x3000 ≤ g.idx) (hu : g.idx < 0x5000) :
    (x.event code t a b).on g = x.on g := Side.on_of_timing (Side.timing_event ..) g hl hu

/-! ### Steps -/

/-- R171: what a step does to the race-time registers, before its event: the flag, the counter, and SYNCED where cox is not held. -/
def Side.stepFlags (x : Side) : Side :=
  let y := (x.set RT_STAT.STEP_SEEN 1).inc RT_STEP_COUNT.whole
  if x.on KEEL_COX_STAT.COX_HELD then y else y.set RT_STAT.SYNCED 0

/-- A step moves the accumulator and what is dated by it; its flags and its event follow. -/
theorem Side.step_eq (x : Side) (d : Int) (cause : Nat) : ∃ sp fe st t, x.step d cause
    = (({ x with
        rt := { x.rt with
          rta := (((x.rt.rta : Int) + d * 2 ^ 24) % (2 ^ 96 : Int)).toNat, syncRun := 0, ppsFrom := ((x.rt.ppsFrom : Int) + d).toNat }
        split := sp, fe := fe, starter := st } : Side).stepFlags).event 0x09 t d cause := by
  have hcox : ∀ y : Side, ((y.set RT_STAT.STEP_SEEN 1).inc RT_STEP_COUNT.whole).on KEEL_COX_STAT.COX_HELD = y.on KEEL_COX_STAT.COX_HELD :=
    fun y => by
      unfold Side.inc Side.bump
      rw [Side.on_set_apart _ _ _ _ (by decide), Side.on_set_apart _ _ _ _ (by decide)]
  unfold Side.step Side.stepFlags
  simp only [Side.raise_eq, Side.drop_eq, hcox]
  exact ⟨_, _, _, _, rfl⟩

theorem Side.stepFlags_rt (x : Side) : x.stepFlags.rt = x.rt := by
  unfold Side.stepFlags; dsimp only; split <;> rfl

/-- R171: race time after a step. -/
theorem Side.step_rt (x : Side) (d : Int) (cause : Nat) : (x.step d cause).rt = { x.rt with
    rta := (((x.rt.rta : Int) + d * 2 ^ 24) % (2 ^ 96 : Int)).toNat, syncRun := 0, ppsFrom := ((x.rt.ppsFrom : Int) + d).toNat } := by
  obtain ⟨sp, fe, st, t, e⟩ := x.step_eq d cause
  rw [e, Side.event_rt, Side.stepFlags_rt]

theorem Side.get_stepFlags (x : Side) (g : Fld) (h1 : RT_STAT.STEP_SEEN.apart g) (h2 : RT_STEP_COUNT.whole.apart g)
    (h3 : RT_STAT.SYNCED.apart g) : x.stepFlags.get g = x.get g := by
  have h : ((x.set RT_STAT.STEP_SEEN 1).inc RT_STEP_COUNT.whole).get g = x.get g := by
    unfold Side.inc Side.bump
    rw [Side.get_set_apart _ _ _ _ h2, Side.get_set_apart _ _ _ _ h1]
  unfold Side.stepFlags
  dsimp only
  split
  · exact h
  · rw [Side.get_set_apart _ _ _ _ h3, h]

/-- A step leaves the registers of its blocks but for the two flags and the counter. -/
theorem Side.get_step (x : Side) (d : Int) (cause : Nat) (g : Fld) (hl : 0x3000 ≤ g.idx) (hu : g.idx < 0x5000)
    (h1 : RT_STAT.STEP_SEEN.apart g) (h2 : RT_STEP_COUNT.whole.apart g) (h3 : RT_STAT.SYNCED.apart g) :
    (x.step d cause).get g = x.get g := by
  obtain ⟨sp, fe, st, t, e⟩ := x.step_eq d cause
  rw [e, Side.get_event _ _ _ _ _ g hl hu, Side.get_stepFlags _ g h1 h2 h3]
  exact Side.get_congr rfl rfl rfl g

theorem Side.on_step (x : Side) (d : Int) (cause : Nat) (g : Fld) (hl : 0x3000 ≤ g.idx) (hu : g.idx < 0x5000)
    (h1 : RT_STAT.STEP_SEEN.apart g) (h2 : RT_STEP_COUNT.whole.apart g) (h3 : RT_STAT.SYNCED.apart g) :
    (x.step d cause).on g = x.on g := by
  unfold Side.on
  rw [Side.get_step x d cause g hl hu h1 h2 h3]

theorem Side.on_step_seen (x : Side) (d : Int) (cause : Nat) : (x.step d cause).on RT_STAT.STEP_SEEN = true := by
  have hset : ∀ y : Side, y.stepFlags.on RT_STAT.STEP_SEEN = true := fun y => by
    have h : ((y.set RT_STAT.STEP_SEEN 1).inc RT_STEP_COUNT.whole).on RT_STAT.STEP_SEEN = true := by
      unfold Side.inc Side.bump
      rw [Side.on_set_apart _ _ _ _ (by decide), Side.on_set_one _ _ (by decide)]
    unfold Side.stepFlags
    dsimp only
    split
    · exact h
    · rw [Side.on_set_apart _ _ _ _ (by decide), h]
  obtain ⟨sp, fe, st, t, e⟩ := x.step_eq d cause
  rw [e, Side.on_event _ _ _ _ _ _ (by decide) (by decide), hset]

/-- R179: a step of a side that does not hold cox clears SYNCED. -/
theorem Side.on_step_synced (x : Side) (d : Int) (cause : Nat) (h : x.on KEEL_COX_STAT.COX_HELD = false) :
    (x.step d cause).on RT_STAT.SYNCED = false := by
  obtain ⟨sp, fe, st, t, e⟩ := x.step_eq d cause
  rw [e, Side.on_event _ _ _ _ _ _ (by decide) (by decide)]
  unfold Side.stepFlags
  dsimp only
  rw [if_neg]
  · exact Side.on_set_zero _ _ (by decide)
  · exact Bool.eq_false_iff.1 h

/-- A saturating counter raised by one. -/
theorem Side.get_inc (x : Side) (f : Fld) (h : f.lo ≤ f.hi ∧ f.hi < 36) :
    (x.inc f).get f = min (x.get f + 1) (2 ^ (f.hi + 1 - f.lo) - 1) := by
  have hp := Nat.two_pow_pos (f.hi + 1 - f.lo)
  unfold Side.inc Side.bump
  dsimp only
  split
  · rw [Side.get_set_self _ _ _ h (by omega)]; omega
  · rw [Side.get_set_self _ _ _ h (by omega)]; omega

theorem Side.get_step_count (x : Side) (d : Int) (cause : Nat) :
    (x.step d cause).get RT_STEP_COUNT.whole = min (x.get RT_STEP_COUNT.whole + 1) (2 ^ 36 - 1) := by
  have hset : ∀ y : Side, y.stepFlags.get RT_STEP_COUNT.whole = min (y.get RT_STEP_COUNT.whole + 1) (2 ^ 36 - 1) := fun y => by
    have h : ((y.set RT_STAT.STEP_SEEN 1).inc RT_STEP_COUNT.whole).get RT_STEP_COUNT.whole = min (y.get RT_STEP_COUNT.whole + 1) (2 ^ 36 - 1) := by
      rw [Side.get_inc _ _ (by decide), Side.get_set_apart _ _ _ _ (by decide)]
      rfl
    unfold Side.stepFlags
    dsimp only
    split
    · exact h
    · rw [Side.get_set_apart _ _ _ _ (by decide), h]
  obtain ⟨sp, fe, st, t, e⟩ := x.step_eq d cause
  rw [e, Side.get_event _ _ _ _ _ _ (by decide) (by decide), hset]
  exact congrArg (fun n => min (n + 1) (2 ^ 36 - 1)) (Side.get_congr rfl rfl rfl _)

/-- R147: noting a step for the pairing of cross-spectra changes nothing else. -/
theorem State.markStep_side (s : State) (i : SideId) : ∃ p, s.markStep.side i = { s.side i with pp := p } := by
  cases i <;> exact ⟨_, rfl⟩

@[simp] theorem State.markStep_keel (s : State) : s.markStep.keel = s.keel := rfl

@[simp] theorem State.get_markStep (s : State) (i : SideId) (f : Fld) : (s.markStep.side i).get f = (s.side i).get f := by
  obtain ⟨p, h⟩ := s.markStep_side i
  rw [h]
  exact Side.get_congr rfl rfl rfl f

@[simp] theorem State.on_markStep (s : State) (i : SideId) (f : Fld) : (s.markStep.side i).on f = (s.side i).on f := by
  unfold Side.on; rw [State.get_markStep]

@[simp] theorem State.rt_markStep (s : State) (i : SideId) : (s.markStep.side i).rt = (s.side i).rt := by
  obtain ⟨p, h⟩ := s.markStep_side i
  rw [h]

end Sys2Proof.Machine
end

section
/-! PROOFS. Cox: resolution at link-up, handovers and claims (R26 to R34). -/

namespace Sys2Proof.Machine

/-! ### A side that takes or loses cox -/

/-- The new holder's flag and epoch; UNSYNCED clears with them where no discipline is waited for. -/
theorem Side.takeCox_cases (x : Side) (ep : Nat) :
    x.takeCox ep = (x.set KEEL_COX_STAT.COX_HELD 1).set KEEL_COX_STAT.EPOCH ep
      ∨ x.takeCox ep = ((x.set KEEL_COX_STAT.COX_HELD 1).set KEEL_COX_STAT.EPOCH ep).set RT_STAT.UNSYNCED 0 := by
  unfold Side.takeCox
  exact (Bool.eq_false_or_eq_true (((x.set KEEL_COX_STAT.COX_HELD 1).set KEEL_COX_STAT.EPOCH ep).on RT_CTRL.DISC_EN)).imp
    (fun h => if_pos h) (fun h => if_neg (Bool.eq_false_iff.1 h))

theorem Side.get_takeCox (x : Side) (ep : Nat) (g : Fld) (h1 : KEEL_COX_STAT.COX_HELD.apart g) (h2 : KEEL_COX_STAT.EPOCH.apart g)
    (h3 : RT_STAT.UNSYNCED.apart g) : (x.takeCox ep).get g = x.get g := by
  have h : ((x.set KEEL_COX_STAT.COX_HELD 1).set KEEL_COX_STAT.EPOCH ep).get g = x.get g := by
    rw [Side.get_set_apart _ _ _ _ h2, Side.get_set_apart _ _ _ _ h1]
  rcases x.takeCox_cases ep with e | e <;> rw [e]
  · exact h
  · rw [Side.get_set_apart _ _ _ _ h3, h]

theorem Side.on_takeCox (x : Side) (ep : Nat) (g : Fld) (h1 : KEEL_COX_STAT.COX_HELD.apart g) (h2 : KEEL_COX_STAT.EPOCH.apart g)
    (h3 : RT_STAT.UNSYNCED.apart g) : (x.takeCox ep).on g = x.on g := by
  unfold Side.on
  rw [Side.get_takeCox x ep g h1 h2 h3]

theorem Side.on_takeCox_held (x : Side) (ep : Nat) : (x.takeCox ep).on KEEL_COX_STAT.COX_HELD = true := by
  have h : ((x.set KEEL_COX_STAT.COX_HELD 1).set KEEL_COX_STAT.EPOCH ep).on KEEL_COX_STAT.COX_HELD = true := by
    rw [Side.on_set_apart _ _ _ _ (by decide), Side.on_set_one _ _ (by decide)]
  rcases x.takeCox_cases ep with e | e <;> rw [e]
  · exact h
  · rw [Side.on_set_apart _ _ _ _ (by decide), h]

theorem Side.get_takeCox_epoch (x : Side) {ep : Nat} (h : ep < 2 ^ 24) : (x.takeCox ep).get KEEL_COX_STAT.EPOCH = ep := by
  have hs : ((x.set KEEL_COX_STAT.COX_HELD 1).set KEEL_COX_STAT.EPOCH ep).get KEEL_COX_STAT.EPOCH = ep :=
    Side.get_set_self _ _ _ (by decide) h
  rcases x.takeCox_cases ep with e | e <;> rw [e]
  · exact hs
  · rw [Side.get_set_apart _ _ _ _ (by decide), hs]

/-- R29, R33: the side that does not hold cox: its flags cleared, the holder's epoch shown. -/
def Side.yieldCox (x : Side) (ep : Nat) : Side :=
  ((x.set KEEL_COX_STAT.COX_HELD 0).set KEEL_COX_STAT.HELD_THROUGH 0).set KEEL_COX_STAT.EPOCH ep

theorem Side.on_yieldCox_held (x : Side) (ep : Nat) : (x.yieldCox ep).on KEEL_COX_STAT.COX_HELD = false := by
  unfold Side.yieldCox
  rw [Side.on_set_apart _ _ _ _ (by decide), Side.on_set_apart _ _ _ _ (by decide), Side.on_set_zero _ _ (by decide)]

theorem Side.get_yieldCox_epoch (x : Side) {ep : Nat} (h : ep < 2 ^ 24) : (x.yieldCox ep).get KEEL_COX_STAT.EPOCH = ep :=
  Side.get_set_self _ _ _ (by decide) h

theorem Side.on_yieldCox (x : Side) (ep : Nat) (g : Fld) (h1 : KEEL_COX_STAT.COX_HELD.apart g) (h2 : KEEL_COX_STAT.HELD_THROUGH.apart g)
    (h3 : KEEL_COX_STAT.EPOCH.apart g) : (x.yieldCox ep).on g = x.on g := by
  unfold Side.yieldCox
  rw [Side.on_set_apart _ _ _ _ h3, Side.on_set_apart _ _ _ _ h2, Side.on_set_apart _ _ _ _ h1]

/-- R30: losing a conflict leaves the loser's KEEL_COX_STAT but for CONFLICT_SEEN. -/
theorem Side.get_loseCox (x : Side) (ep lEp wEp : Nat) (w : SideId) (d : Int) (g : Fld) (hi : g.idx = KEEL_COX_STAT.whole.idx)
    (h : KEEL_COX_STAT.CONFLICT_SEEN.apart g) : (x.loseCox ep lEp wEp w d).get g = x.get g := by
  have hl : 0x3000 ≤ g.idx := by rw [hi]; decide
  have hu : g.idx < 0x5000 := by rw [hi]; decide
  have hne : ∀ f : Fld, f.idx ≠ KEEL_COX_STAT.whole.idx → f.apart g := fun f hf => .inl (by rw [hi]; exact fun e => hf e.symm)
  have hstep : ∀ y : Side, (if (d == 0) = true then y else y.step d 3).get g = y.get g := fun y => by
    split
    · rfl
    · exact Side.get_step y d 3 g hl hu (hne _ (by decide)) (hne _ (by decide)) (hne _ (by decide))
  unfold Side.loseCox
  extract_lets st sb y1 y2 rt y3 y4 y5
  calc (y5.event 0x0C y5.now (lEp + wEp * 2 ^ 24 + w.n * 2 ^ 48 : Nat) d).get g
      = y5.get g := Side.get_event _ _ _ _ _ g hl hu
    _ = y4.get g := Side.get_of_timing (Side.timing_logFault ..) g hl hu
    _ = y3.get g := Side.get_set_apart _ _ _ _ h
    _ = y2.get g := Side.get_congr rfl rfl rfl g
    _ = y1.get g := hstep y1
    _ = ({ x with starter := { st with reqs := [], accepted := [] }, strobe := sb } : Side).get g :=
        Side.get_set_apart _ _ _ _ (hne _ (by decide))
    _ = x.get g := Side.get_congr rfl rfl rfl g

/-! ### Resolution (R29) -/

/-- R29: the winner has taken cox and shows SYNCED; the other side has given it up. -/
def State.settleCox (s : State) (w : SideId) (ep : Nat) : State :=
  ((s.mod w (fun x => (x.set KEEL_COX_STAT.RESOLVING 0).takeCox ep)).mod w.other
    (fun x => (x.set KEEL_COX_STAT.RESOLVING 0).yieldCox ep)).mod w (fun x => x.set RT_STAT.SYNCED 1)

theorem State.settleCox_winner (s : State) (w : SideId) (ep : Nat) :
    (s.settleCox w ep).side w = (((s.side w).set KEEL_COX_STAT.RESOLVING 0).takeCox ep).set RT_STAT.SYNCED 1 := by
  simp [State.settleCox]

theorem State.settleCox_loser (s : State) (w : SideId) (ep : Nat) :
    (s.settleCox w ep).side w.other = ((s.side w.other).set KEEL_COX_STAT.RESOLVING 0).yieldCox ep := by
  unfold State.settleCox
  rw [State.side_mod_other, State.side_mod, State.side_mod_other]

/-- What resolution comes to: cox settles on a state in which strobe commands may have been refused, and a conflict's loser changes further. -/
theorem execCoxResolution_eq {s : State} {w : SideId} {ep : Nat} {conflict : Bool} (hup : s.keel.up = true)
    (hres : s.keel.resolving = true) (hr : s.resolve = (w, ep, conflict)) :
    ∃ z : State, z.keel.resolving = false ∧ ∃ lEp wEp d, execCoxResolution s = .next
      (if conflict then
        let t := (z.settleCox w ep).mod w.other (fun x => x.loseCox ep lEp wEp w d)
        if d == 0 then t else t.markStep
      else z.settleCox w ep) := by
  have hz : ∀ b : Bool, (if b = true then ({ s with keel := { s.keel with resolving := false } } : State).dropStrobes w.other
      else { s with keel := { s.keel with resolving := false } }).keel.resolving = false := by
    intro b
    cases b
    · rfl
    · obtain ⟨_, d, hd⟩ := State.answersOnly_dropStrobes ({ s with keel := { s.keel with resolving := false } } : State) w.other
      exact congrArg Keel.resolving hd
  refine ⟨_, hz conflict, (s.side w.other).get KEEL_COX_STAT.EPOCH, (s.side w).get KEEL_COX_STAT.EPOCH,
    ((s.side w).now : Int) - (s.side w.other).now, ?_⟩
  unfold execCoxResolution
  rw [hr]
  simp only [hup, hres, Bool.not_true, Bool.or_self, Bool.false_eq_true, if_false]
  rfl

/-- After resolution the winner alone holds cox, both sides show its epoch, and it is synced. -/
theorem coxResolution_settles {s : State} {w : SideId} {ep : Nat} {conflict : Bool} (hup : s.keel.up = true)
    (hres : s.keel.resolving = true) (hr : s.resolve = (w, ep, conflict)) (he : ep < 2 ^ 24) :
    Does .coxResolution s (fun t => t.keel.resolving = false ∧ (t.side w).on KEEL_COX_STAT.COX_HELD = true
      ∧ (t.side w.other).on KEEL_COX_STAT.COX_HELD = false
      ∧ (t.side w).get KEEL_COX_STAT.EPOCH = ep ∧ (t.side w.other).get KEEL_COX_STAT.EPOCH = ep ∧ (t.side w).on RT_STAT.SYNCED = true
      ∧ (t.side w).on KEEL_COX_STAT.RESOLVING = false ∧ (t.side w.other).on KEEL_COX_STAT.RESOLVING = false) := by
  obtain ⟨z, hz, lEp, wEp, d, hx⟩ := execCoxResolution_eq hup hres hr
  have hkeel : (z.settleCox w ep).keel.resolving = false := by simp [State.settleCox, hz]
  have hsame : ∀ t : State, t.keel = (z.settleCox w ep).keel → (∀ g, (t.side w).get g = ((z.settleCox w ep).side w).get g) →
      (∀ g, g.idx = KEEL_COX_STAT.whole.idx → KEEL_COX_STAT.CONFLICT_SEEN.apart g →
        (t.side w.other).get g = ((z.settleCox w ep).side w.other).get g) →
      t.keel.resolving = false ∧ (t.side w).on KEEL_COX_STAT.COX_HELD = true ∧ (t.side w.other).on KEEL_COX_STAT.COX_HELD = false
        ∧ (t.side w).get KEEL_COX_STAT.EPOCH = ep ∧ (t.side w.other).get KEEL_COX_STAT.EPOCH = ep ∧ (t.side w).on RT_STAT.SYNCED = true
        ∧ (t.side w).on KEEL_COX_STAT.RESOLVING = false ∧ (t.side w.other).on KEEL_COX_STAT.RESOLVING = false := by
    intro t hk hw hl
    have hon : ∀ g, (t.side w).on g = ((((z.side w).set KEEL_COX_STAT.RESOLVING 0).takeCox ep).set RT_STAT.SYNCED 1).on g := fun g => by
      unfold Side.on; rw [hw g, State.settleCox_winner]
    have hoff : ∀ g, g.idx = KEEL_COX_STAT.whole.idx → KEEL_COX_STAT.CONFLICT_SEEN.apart g →
        (t.side w.other).on g = (((z.side w.other).set KEEL_COX_STAT.RESOLVING 0).yieldCox ep).on g := fun g hg ha => by
      unfold Side.on; rw [hl g hg ha, State.settleCox_loser]
    refine ⟨by rw [hk, hkeel], ?_, ?_, ?_, ?_, ?_, ?_, ?_⟩
    · rw [hon, Side.on_set_apart _ _ _ _ (by decide), Side.on_takeCox_held]
    · rw [hoff KEEL_COX_STAT.COX_HELD rfl (by decide), Side.on_yieldCox_held]
    · rw [hw, State.settleCox_winner, Side.get_set_apart _ _ _ _ (by decide), Side.get_takeCox_epoch _ he]
    · rw [hl KEEL_COX_STAT.EPOCH rfl (by decide), State.settleCox_loser, Side.get_yieldCox_epoch _ he]
    · rw [hon, Side.on_set_one _ _ (by decide)]
    · rw [hon, Side.on_set_apart _ _ _ _ (by decide), Side.on_takeCox _ _ _ (by decide) (by decide) (by decide),
        Side.on_set_zero _ _ (by decide)]
    · rw [hoff KEEL_COX_STAT.RESOLVING rfl (by decide), Side.on_yieldCox _ _ _ (by decide) (by decide) (by decide), Side.on_set_zero _ _ (by decide)]
  refine ⟨_, hx, ?_⟩
  cases conflict
  · exact hsame _ rfl (fun _ => rfl) (fun _ _ _ => rfl)
  · have hlose : ∀ g, g.idx = KEEL_COX_STAT.whole.idx → KEEL_COX_STAT.CONFLICT_SEEN.apart g →
        ((((z.settleCox w ep).mod w.other (fun x => x.loseCox ep lEp wEp w d)).side w.other).get g
          = ((z.settleCox w ep).side w.other).get g) := fun g hg ha => by
      rw [State.side_mod, Side.get_loseCox _ _ _ _ _ _ g hg ha]
    simp only [if_true]
    split
    · exact hsame _ (by simp) (fun g => by rw [State.side_of_mod_other]) hlose
    · exact hsame _ (by simp) (fun g => by rw [State.get_markStep, State.side_of_mod_other])
        (fun g hg ha => by rw [State.get_markStep, hlose g hg ha])

/-! ### Handovers and claims (R33, R34) -/

/-- A handover whose boundary has come is taken from the list, cox moves if it may, and its command is answered. -/
theorem execCoxTaken_eq {s : State} {h : Handover} {st : Staged} (hd : s.keel.handover.find? s.handoverDue = some h)
    (hres : s.keel.resolving = false) (hc : (s.side h.actor).cmdOf h.issuer h.id = some st) :
    exec .coxTaken s = .next
      ((if (s.side h.target).on KEEL_COX_STAT.COX_HELD || (s.side h.target).pwr.fatal
          then ({ s with keel := { s.keel with handover := s.keel.handover.erase h } } : State)
        else if s.keel.up then ({ s with keel := { s.keel with handover := s.keel.handover.erase h } } : State).moveCox h.target h.t
        else ({ s with keel := { s.keel with handover := s.keel.handover.erase h } } : State).mod h.target (fun x => x.claimCox 0)).complete
          h.actor st stOK h.t 0 0) := by
  show execCoxTaken s = _
  unfold execCoxTaken
  simp only [hd, hres, Bool.false_eq_true, if_false, State.side_keel, hc]

/-- R33, R181: the new holder at a handover: synced, its discipline begun anew, edges of before T the old holder's. -/
def Side.moveIn (x : Side) (ep t : Nat) : Side :=
  let y := (x.takeCox ep).set RT_STAT.SYNCED 1
  let y := if y.on RT_CTRL.DISC_EN then { y with rt := { y.rt with ppsFirst := true, ppsLast := none } } else y
  { y with rt := { y.rt with ppsFrom := t } }

/-- R33: a crew side's loop begins anew. -/
def Side.loopAnew (x : Side) : Side := { x with rt := { x.rt with p := 0, syncRun := 0, syncLast := none } }

/-- R33: the old holder at a handover. -/
def Side.moveOut (x : Side) (ep : Nat) : Side := (((x.yieldCox ep).set RT_STAT.SYNCED 0).set FAULT_SUMMARY.whole 0).loopAnew

theorem State.moveCox_eq (s : State) (w : SideId) (t : Nat) :
    let ep := epochAbove ((s.side w.other).get KEEL_COX_STAT.EPOCH) 0
    let s' := (s.mod w (fun x => (x.moveIn ep t).event 0x0D t (w.n + 2 * ep : Nat) 0)).mod w.other
      (fun x => (x.moveOut ep).event 0x0D t (w.n + 2 * ep : Nat) 0)
    s.moveCox w t = { s' with keel := { s'.keel with moved := some (w.other, t) } } := rfl

theorem Side.get_moveIn (x : Side) (ep t : Nat) (g : Fld) : (x.moveIn ep t).get g = ((x.takeCox ep).set RT_STAT.SYNCED 1).get g := by
  unfold Side.moveIn
  dsimp only
  refine (Side.get_congr rfl rfl rfl g).trans ?_
  split
  · exact Side.get_congr rfl rfl rfl g
  · rfl

theorem Side.get_loopAnew (x : Side) (g : Fld) : x.loopAnew.get g = x.get g := Side.get_congr rfl rfl rfl g

theorem Side.get_set_summary (x : Side) (v : Nat) (g : Fld) (h : g.idx < 0x5000) : (x.set FAULT_SUMMARY.whole v).get g = x.get g :=
  have h' : 0x5000 ≤ FAULT_SUMMARY.whole.idx := by decide
  Side.get_set_apart x _ g v (.inl (Nat.ne_of_lt (Nat.lt_of_lt_of_le h h')))

theorem Side.get_moveOut (x : Side) (ep : Nat) (g : Fld) (h : g.idx < 0x5000) :
    (x.moveOut ep).get g = ((x.yieldCox ep).set RT_STAT.SYNCED 0).get g := by
  unfold Side.moveOut
  rw [Side.get_loopAnew, Side.get_set_summary _ _ g h]

/-- R33: what a handover leaves: the new side holds cox with the next epoch, the old one does not, and shows it. -/
theorem State.moveCox_holders (s : State) (w : SideId) (t : Nat) :
    let e := min ((s.side w.other).get KEEL_COX_STAT.EPOCH + 1) (2 ^ 24 - 1)
    ((s.moveCox w t).side w).on KEEL_COX_STAT.COX_HELD = true ∧ ((s.moveCox w t).side w.other).on KEEL_COX_STAT.COX_HELD = false
      ∧ ((s.moveCox w t).side w).get KEEL_COX_STAT.EPOCH = e ∧ ((s.moveCox w t).side w.other).get KEEL_COX_STAT.EPOCH = e
      ∧ ((s.moveCox w t).side w).on RT_STAT.SYNCED = true ∧ ((s.moveCox w t).side w.other).on RT_STAT.SYNCED = false := by
  intro e
  have he : e < 2 ^ 24 := by omega
  have hep : epochAbove ((s.side w.other).get KEEL_COX_STAT.EPOCH) 0 = e := by simp [epochAbove, e]
  have hw : ∀ g : Fld, 0x3000 ≤ g.idx → g.idx < 0x5000 →
      ((s.moveCox w t).side w).get g = (((s.side w).takeCox e).set RT_STAT.SYNCED 1).get g := fun g hl hu => by
    rw [State.moveCox_eq, hep, State.side_keel, State.side_of_mod_other, State.side_mod, Side.get_event _ _ _ _ _ g hl hu, Side.get_moveIn]
  have hl : ∀ g : Fld, 0x3000 ≤ g.idx → g.idx < 0x5000 →
      ((s.moveCox w t).side w.other).get g = (((s.side w.other).yieldCox e).set RT_STAT.SYNCED 0).get g := fun g hl hu => by
    rw [State.moveCox_eq, hep, State.side_keel, State.side_mod, State.side_mod_other, Side.get_event _ _ _ _ _ g hl hu,
      Side.get_moveOut _ _ g hu]
  have hwon : ∀ g : Fld, 0x3000 ≤ g.idx → g.idx < 0x5000 →
      ((s.moveCox w t).side w).on g = (((s.side w).takeCox e).set RT_STAT.SYNCED 1).on g := fun g hg hu => by
    unfold Side.on; rw [hw g hg hu]
  have hlon : ∀ g : Fld, 0x3000 ≤ g.idx → g.idx < 0x5000 →
      ((s.moveCox w t).side w.other).on g = (((s.side w.other).yieldCox e).set RT_STAT.SYNCED 0).on g := fun g hg hu => by
    unfold Side.on; rw [hl g hg hu]
  refine ⟨?_, ?_, ?_, ?_, ?_, ?_⟩
  · rw [hwon _ (by decide) (by decide), Side.on_set_apart _ _ _ _ (by decide), Side.on_takeCox_held]
  · rw [hlon _ (by decide) (by decide), Side.on_set_apart _ _ _ _ (by decide), Side.on_yieldCox_held]
  · rw [hw _ (by decide) (by decide), Side.get_set_apart _ _ _ _ (by decide), Side.get_takeCox_epoch _ he]
  · rw [hl _ (by decide) (by decide), Side.get_set_apart _ _ _ _ (by decide), Side.get_yieldCox_epoch _ he]
  · rw [hwon _ (by decide) (by decide), Side.on_set_one _ _ (by decide)]
  · rw [hlon _ (by decide) (by decide), Side.on_set_zero _ _ (by decide)]

/-- Settles O22: resolution's winner is read off the two sides' flags and epochs; a due handover moves cox unless its target may not take it. -/
theorem coxRole : Obligations.CoxRole := by
  unfold Obligations.CoxRole
  refine ⟨?_, ?_⟩
  · intro s held thru ep pref higher w e hup hres
    have hhigh : (if (s.stroke.get KEEL_COX_STAT.EPOCH != s.bow.get KEEL_COX_STAT.EPOCH) = true then
        (if s.stroke.get KEEL_COX_STAT.EPOCH > s.bow.get KEEL_COX_STAT.EPOCH then SideId.stroke else .bow) else pref) = higher := by
      simp only [higher, ep]
      rcases Nat.lt_trichotomy (s.stroke.get KEEL_COX_STAT.EPOCH) (s.bow.get KEEL_COX_STAT.EPOCH) with h | h | h
      · simp [h, h.ne, h.not_gt]
      · simp [h]
      · simp [h, h.ne']
    have htie : ∀ up : Nat, (if (s.stroke.get KEEL_COX_STAT.EPOCH != s.bow.get KEEL_COX_STAT.EPOCH) = true then
        (if s.stroke.get KEEL_COX_STAT.EPOCH > s.bow.get KEEL_COX_STAT.EPOCH then SideId.stroke else .bow, up, true)
        else (pref, up, true)) = (higher, up, true) := fun up => by
      rw [← hhigh]; split <;> rfl
    have hr : s.resolve = (w, e, held s.stroke && held s.bow) := by
      unfold State.resolve epochAbove
      simp only [w, e, higher, pref, held, thru, ep]
      cases s.stroke.on KEEL_COX_STAT.COX_HELD <;> cases s.bow.on KEEL_COX_STAT.COX_HELD
      · simp
      · simp [State.side]
      · simp [State.side]
      · cases s.stroke.on KEEL_COX_STAT.HELD_THROUGH <;> cases s.bow.on KEEL_COX_STAT.HELD_THROUGH
        · exact htie _
        · rfl
        · rfl
        · exact htie _
    have hlt : ∀ i, (s.side i).get KEEL_COX_STAT.EPOCH < 2 ^ 24 := fun i => Side.get_lt _ KEEL_COX_STAT.EPOCH
    have he : e < 2 ^ 24 := by
      simp only [e]
      split
      · omega
      · exact hlt w
    exact coxResolution_settles hup hres hr he
  · intro s h st z hd hres hc may
    have hx := execCoxTaken_eq hd hres hc
    refine ⟨fun hup hm => ⟨?_, ?_⟩, fun hup hm => ?_, fun hm => ?_⟩
    · rw [hx, hm.1, hm.2, Bool.or_self, if_neg Bool.false_ne_true, if_pos hup]
      rfl
    · have hz := State.moveCox_holders z h.target h.t
      simpa only [z, State.side_keel] using hz
    · have hclaim : ∀ x : Side, x.on KEEL_COX_STAT.COX_HELD = false →
          x.claimCox 0 = x.takeCox (min (x.get KEEL_COX_STAT.EPOCH + 1) (2 ^ 24 - 1)) := fun x hh => by
        simp [Side.claimCox, hh, epochAbove]
      rw [hx, hm.1, hm.2, Bool.or_self, if_neg Bool.false_ne_true, if_neg (Bool.eq_false_iff.1 hup)]
      have hz : ∀ y : Side, y = s.side h.target → z.setSide h.target (y.claimCox 0)
          = z.setSide h.target (y.takeCox (min (y.get KEEL_COX_STAT.EPOCH + 1) (2 ^ 24 - 1))) := fun y hy => by
        rw [hclaim y (by rw [hy]; exact hm.1)]
      exact congrArg (fun t : State => Host.Outcome.next (t.complete h.actor st 0 h.t 0 0)) (hz _ (State.side_keel s _ _))
    · have hno : ((s.side h.target).on KEEL_COX_STAT.COX_HELD || (s.side h.target).pwr.fatal) = true := by
        by_contra hn
        exact hm (by simpa using hn)
      rw [hx, if_pos hno]
      rfl

end Sys2Proof.Machine
end

section
/-! PROOFS. Draining islands (R16, R17), and the Keel going up and down (R24 to R29). -/

namespace Sys2Proof.Machine

/-! ### Draining islands -/

/-- The ISLAND_QUIESCE commands that wait for an island. -/
def Side.quiescesOf (x : Side) (l : Nat) : List Staged :=
  x.host.staged.filter (fun st => st.op == 0x42 && st.running && st.e.op4 % 2 ^ 15 == l)

theorem State.endQuiesce_none {s : State} {sd : SideId} {l : Nat} (st : Nat) (r0 : Int) (h : (s.side sd).quiescesOf l = []) :
    s.endQuiesce sd l st r0 = s := by
  unfold State.endQuiesce
  exact congrArg (List.foldl _ s) h

theorem State.endQuiesce_one {s : State} {sd : SideId} {l : Nat} {c : Staged} (st : Nat) (r0 : Int) (h : (s.side sd).quiescesOf l = [c]) :
    s.endQuiesce sd l st r0 = s.complete sd c st (if st == stOK then (lget c.aux 0 0).toNat else (s.side sd).now) r0 0 := by
  unfold State.endQuiesce
  exact congrArg (List.foldl _ s) h

theorem Side.quiescesOf_congr {x y : Side} (h : y.host = x.host) (l : Nat) : y.quiescesOf l = x.quiescesOf l := by
  unfold Side.quiescesOf; rw [h]

/-- Stopping an island leaves the host region. -/
theorem Side.islStop_host (x : Side) (l : Nat) : (x.islStop l).host = x.host := by
  unfold Side.islStop
  split <;> rfl

theorem execQuiesced_drained {s : State} {sd : SideId} {src : SourceId} (hi : (s.side sd).islCond (src.toNat % 2 ^ 15) .draining = true)
    (hd : s.drained sd (src.toNat % 2 ^ 15) = true) : exec (.quiesced sd src) s
      = .next ((s.mod sd (fun x => x.islStop (src.toNat % 2 ^ 15))).endQuiesce sd (src.toNat % 2 ^ 15) stOK 1) := by
  show execQuiesced sd src s = _
  unfold execQuiesced
  simp only [hi, hd, Bool.and_self, if_true]

theorem execQuiesceTimeout_draining {s : State} {sd : SideId} {src : SourceId}
    (hi : (s.side sd).islCond (src.toNat % 2 ^ 15) .draining = true) : exec (.quiesceTimeout sd src) s
      = .next ((s.mod sd (fun x => x.setIsl (src.toNat % 2 ^ 15) none)).endQuiesce sd (src.toNat % 2 ^ 15) stQuiesceTimeout 0) := by
  show execQuiesceTimeout sd src s = _
  unfold execQuiesceTimeout
  simp only [hi, if_true]

/-! ### The Keel rises -/

/-- R29: a side's flags at link-up. -/
def Side.riseFlags (x : Side) : Side :=
  ((x.set KEEL_COX_STAT.KEEL_UP 1).set KEEL_COX_STAT.SPLIT_CREW 0).set KEEL_COX_STAT.RESOLVING 1

theorem Side.get_keelRise (x : Side) (g : Fld) (hl : 0x3000 ≤ g.idx) (hu : g.idx < 0x5000) : x.keelRise.get g = x.riseFlags.get g := by
  unfold Side.keelRise
  rw [Side.get_event _ _ _ _ _ g hl hu]
  rfl

theorem Side.on_riseFlags (x : Side) : x.riseFlags.on KEEL_COX_STAT.KEEL_UP = true ∧ x.riseFlags.on KEEL_COX_STAT.SPLIT_CREW = false
    ∧ x.riseFlags.on KEEL_COX_STAT.RESOLVING = true ∧ x.riseFlags.on KEEL_COX_STAT.COX_HELD = x.on KEEL_COX_STAT.COX_HELD
    ∧ x.riseFlags.get KEEL_COX_STAT.EPOCH = x.get KEEL_COX_STAT.EPOCH := by
  unfold Side.riseFlags
  refine ⟨?_, ?_, ?_, ?_, ?_⟩
  · rw [Side.on_set_apart _ _ _ _ (by decide), Side.on_set_apart _ _ _ _ (by decide), Side.on_set_one _ _ (by decide)]
  · rw [Side.on_set_apart _ _ _ _ (by decide), Side.on_set_zero _ _ (by decide)]
  · rw [Side.on_set_one _ _ (by decide)]
  · rw [Side.on_set_apart _ _ _ _ (by decide), Side.on_set_apart _ _ _ _ (by decide), Side.on_set_apart _ _ _ _ (by decide)]
  · rw [Side.get_set_apart _ _ _ _ (by decide), Side.get_set_apart _ _ _ _ (by decide), Side.get_set_apart _ _ _ _ (by decide)]

/-- R281: both sides' staged strobe requests have failed: none is left, and nothing but answers has been made. -/
theorem State.failStrobes_both (s : State) (i : SideId) :
    (((s.failStrobes .stroke).failStrobes .bow).side i).strobe.reqs = []
      ∧ (∀ g, (((s.failStrobes .stroke).failStrobes .bow).side i).get g = (s.side i).get g)
      ∧ ∃ d, ((s.failStrobes .stroke).failStrobes .bow).keel = { s.keel with dones := d } := by
  have h1 := State.answersOnly_failStrobes s .stroke
  have h2 := State.answersOnly_failStrobes (s.failStrobes .stroke) .bow
  have hreq : ∀ {x y : Side}, y.noHost = x.noHost → y.strobe.reqs = x.strobe.reqs := fun {x y} h =>
    show y.noHost.strobe.reqs = x.noHost.strobe.reqs by rw [h]
  have hget : ∀ (t : State) (j i : SideId) (g : Fld),
      ((t.mod j (fun x => { x with strobe := { x.strobe with reqs := [] } })).side i).get g = (t.side i).get g := fun t j i g => by
    cases i <;> cases j <;> exact Side.get_congr rfl rfl rfl g
  refine ⟨?_, fun g => ?_, ?_⟩
  · rw [hreq (h2.1 i)]
    cases i
    · exact hreq (h1.1 .stroke)
    · rfl
  · rw [h2.get, hget, h1.get, hget]
  · obtain ⟨d1, e1⟩ := h1.2
    obtain ⟨d2, e2⟩ := h2.2
    exact ⟨d2, by rw [e2]; simp only [State.mod_keel, e1]⟩

/-! ### The Keel falls -/

/-- R28, R179, R180: a side's flags at Keel-down. -/
def Side.sinkFlags (x : Side) : Side :=
  (((((x.set KEEL_COX_STAT.KEEL_UP 0).set KEEL_COX_STAT.SPLIT_CREW 1).set KEEL_COX_STAT.RESOLVING 0).put KEEL_COX_STAT.HELD_THROUGH
    (x.on KEEL_COX_STAT.COX_HELD)).set RT_STAT.SYNCED 0).set RT_STAT.UNSYNCED 1

theorem Side.timing_soloReqs (x : Side) : x.soloReqs.timing = x.timing := by
  unfold Side.soloReqs
  exact (Side.timing_foldl _ (fun y t => by rw [Side.timing_occur, Side.timing_inc _ _ offTiming_starter.1]) _ _).trans
    (Side.timing_of_regs rfl rfl rfl)

theorem Side.timing_setRt (x : Side) (r : RaceT) : ({ x with rt := r } : Side).timing = x.timing := Side.timing_of_regs rfl rfl rfl

/-- Keel-down changes the flags of `sinkFlags` alone in the registers of the Keel and of race time. -/
theorem Side.timing_keelSink (x : Side) : x.keelSink.timing = x.sinkFlags.timing := by
  have hrt : ∀ (b : Bool) (y : Side) (r : RaceT), (if b = true then ({ y with rt := r } : Side) else y).timing = y.timing := by
    intro b y r
    cases b
    · rfl
    · exact Side.timing_setRt y r
  unfold Side.keelSink
  extract_lets crew y1 y2 r y3 y4 r' y5
  calc (y5.event 0x0A y5.now 0 0).timing = y5.timing := Side.timing_event ..
    _ = y4.timing := hrt _ _ _
    _ = y3.timing := Side.timing_soloReqs _
    _ = y2.timing := Side.timing_setRt _ _
    _ = x.sinkFlags.timing := Side.timing_set _ _ _ offTiming_faults.2.2.2.2.2.2.2.2.2.2.2.2.1

theorem Side.on_sinkFlags (x : Side) : x.sinkFlags.on KEEL_COX_STAT.KEEL_UP = false ∧ x.sinkFlags.on KEEL_COX_STAT.SPLIT_CREW = true
    ∧ x.sinkFlags.on KEEL_COX_STAT.RESOLVING = false ∧ x.sinkFlags.on KEEL_COX_STAT.HELD_THROUGH = x.on KEEL_COX_STAT.COX_HELD
    ∧ x.sinkFlags.on RT_STAT.SYNCED = false ∧ x.sinkFlags.on RT_STAT.UNSYNCED = true := by
  unfold Side.sinkFlags
  simp only [Side.put_eq]
  refine ⟨?_, ?_, ?_, ?_, ?_, ?_⟩
  · rw [Side.on_set_apart _ _ _ _ (by decide), Side.on_set_apart _ _ _ _ (by decide), Side.on_set_apart _ _ _ _ (by decide),
      Side.on_set_apart _ _ _ _ (by decide), Side.on_set_apart _ _ _ _ (by decide), Side.on_set_zero _ _ (by decide)]
  · rw [Side.on_set_apart _ _ _ _ (by decide), Side.on_set_apart _ _ _ _ (by decide), Side.on_set_apart _ _ _ _ (by decide),
      Side.on_set_apart _ _ _ _ (by decide), Side.on_set_one _ _ (by decide)]
  · rw [Side.on_set_apart _ _ _ _ (by decide), Side.on_set_apart _ _ _ _ (by decide), Side.on_set_apart _ _ _ _ (by decide),
      Side.on_set_zero _ _ (by decide)]
  · rw [Side.on_set_apart _ _ _ _ (by decide), Side.on_set_apart _ _ _ _ (by decide), Side.on_set_b2n _ _ _ (by decide)]
  · rw [Side.on_set_apart _ _ _ _ (by decide), Side.on_set_zero _ _ (by decide)]
  · rw [Side.on_set_one _ _ (by decide)]

theorem Side.on_keelSink (x : Side) (g : Fld) (hl : 0x3000 ≤ g.idx) (hu : g.idx < 0x5000) : x.keelSink.on g = x.sinkFlags.on g :=
  Side.on_of_timing (Side.timing_keelSink x) g hl hu

theorem State.cancelHandovers_nil {s : State} (h : s.keel.handover = []) : s.cancelHandovers = s := by
  have he : ({ s with keel := { s.keel with handover := [] } } : State) = s := by rw [← h]
  unfold State.cancelHandovers
  rw [h, List.foldl_nil, he]

/-- R345: one core's long loads from the other side are logged. -/
def Side.logLoads (hit : LongOp → Bool) (x : Side) (p : Core × Nat) : Side :=
  (p.1.ops.filter hit).foldl (fun x o => x.accErr accKeel (2 + 4 * x.who.n + p.2) false o.addr) x

theorem Side.timing_logLoads (hit : LongOp → Bool) (x : Side) (p : Core × Nat) : (x.logLoads hit p).timing = x.timing :=
  Side.timing_foldl (fun (x : Side) (o : LongOp) => x.accErr accKeel (2 + 4 * x.who.n + p.2) false o.addr)
    (fun _ _ => Side.timing_accErr ..) _ x

theorem Side.timing_cutLoads (x : Side) : x.cutLoads.timing = x.timing := by
  unfold Side.cutLoads
  extract_lets hit y
  have hy : y.timing = x.timing := Side.timing_foldl (Side.logLoads hit) (Side.timing_logLoads hit) _ x
  rw [← hy]
  exact Side.timing_of_regs rfl rfl rfl

/-- R258: a remote read cut by an outage is logged on the side that made it. -/
def State.logCut (s : State) (r : SideId × Nat × Nat × List Word × Bool) : State :=
  s.mod r.1 (fun x => x.accErr accKeel r.2.1 false r.2.2.1)

theorem State.logCut_timing (s : State) (r : SideId × Nat × Nat × List Word × Bool) (i : SideId) :
    ((s.logCut r).side i).timing = (s.side i).timing := by
  unfold State.logCut
  by_cases h : i = r.1
  · rw [h, State.side_mod, Side.timing_accErr]
  · rw [SideId.eq_other_of_ne h, State.side_mod_other]

/-- Both sides' loads are cut, and what is in flight is logged and answered with zeros. -/
theorem State.cutReads_eq (s : State) : ∃ r, s.cutReads
    = let t := s.keel.reads.foldl State.logCut ((s.mod .stroke Side.cutLoads).mod .bow Side.cutLoads)
      { t with keel := { t.keel with reads := r } } := ⟨_, rfl⟩

theorem State.cutReads_timing (s : State) (i : SideId) : (s.cutReads.side i).timing = (s.side i).timing := by
  have hlog : ∀ (l : List (SideId × Nat × Nat × List Word × Bool)) (t : State), ((l.foldl State.logCut t).side i).timing = (t.side i).timing := fun l t =>
    foldl_keeps (fun t' => (t'.side i).timing = (t.side i).timing) _ (fun t' r ht => (State.logCut_timing t' r i).trans ht) l t rfl
  obtain ⟨r, h⟩ := s.cutReads_eq
  rw [h]
  dsimp only
  rw [State.side_keel, hlog]
  cases i <;> exact Side.timing_cutLoads _

theorem State.cutReads_keel (s : State) : ∃ r, s.cutReads.keel = { s.keel with reads := r } := by
  have hlog : ∀ (l : List (SideId × Nat × Nat × List Word × Bool)) (t : State), (l.foldl State.logCut t).keel = t.keel := fun l t =>
    foldl_keeps (fun t' => t'.keel = t.keel) _ (fun t' r ht => (State.mod_keel ..).trans ht) l t rfl
  obtain ⟨r, h⟩ := s.cutReads_eq
  refine ⟨r, ?_⟩
  rw [h]
  dsimp only
  rw [hlog, State.mod_keel, State.mod_keel]

theorem State.pumpXs_keel (s : State) (sd : SideId) (c : Chan) : (s.pumpXs sd c).keel = s.keel := State.mod_keel ..

/-- R147: the cross-spectra of both sides go on. -/
def State.pumpAll (s : State) : State := (((s.pumpXs .stroke .c0).pumpXs .stroke .c1).pumpXs .bow .c0).pumpXs .bow .c1

theorem State.pumpAll_timing (s : State) (i : SideId) : (s.pumpAll.side i).timing = (s.side i).timing := by
  simp only [State.pumpAll, State.timing_pumpXs]

theorem State.pumpAll_keel (s : State) : s.pumpAll.keel = s.keel := by
  simp only [State.pumpAll, State.pumpXs_keel]

/-- R24, R28: the Keel is down, and both sides have taken note of it. -/
def State.sunk (s : State) : State :=
  ({ s with keel := { s.keel with up := false, resolving := false, msgs := [], moved := none } }.mod .stroke Side.keelSink).mod .bow Side.keelSink

theorem State.sunk_on (s : State) (i : SideId) (g : Fld) (hl : 0x3000 ≤ g.idx) (hu : g.idx < 0x5000) :
    (s.sunk.side i).on g = (s.side i).sinkFlags.on g := by
  cases i <;> exact Side.on_keelSink _ g hl hu

theorem keelFall_eq {s : State} (hup : s.keel.up = true) : exec .keelDown s = .next s.sunk.cancelHandovers.cutReads.pumpAll := by
  show Host.Outcome.next s.keelFall = _
  unfold State.keelFall
  rw [hup]
  rfl

theorem keelDown_falls {s : State} (sd : SideId) (hup : s.keel.up = true) : Does .keelDown s (fun t => t.keel.up = false
    ∧ t.keel.resolving = false ∧ t.keel.handover = [] ∧ t.keel.moved = none ∧ (t.side sd).on KEEL_COX_STAT.KEEL_UP = false
    ∧ (t.side sd).on KEEL_COX_STAT.SPLIT_CREW = true) := by
  have ha := State.answersOnly_cancelHandovers s.sunk
  obtain ⟨d, hd⟩ := ha.2
  obtain ⟨r, hr⟩ := State.cutReads_keel s.sunk.cancelHandovers
  have hon : ∀ g : Fld, 0x3000 ≤ g.idx → g.idx < 0x5000 →
      ((s.sunk.cancelHandovers.cutReads.pumpAll).side sd).on g = (s.side sd).sinkFlags.on g := fun g hl hu => by
    rw [Side.on_of_timing (State.pumpAll_timing _ sd) g hl hu, Side.on_of_timing (State.cutReads_timing _ sd) g hl hu, ha.on,
      State.side_keel, State.sunk_on s sd g hl hu]
  obtain ⟨hk, hs, -⟩ := Side.on_sinkFlags (s.side sd)
  have hkeel : s.sunk.cancelHandovers.cutReads.pumpAll.keel = { s.sunk.keel with handover := [], dones := d, reads := r } := by
    rw [State.pumpAll_keel, hr, hd]
  refine ⟨_, keelFall_eq hup, ?_, ?_, ?_, ?_, ?_, ?_⟩
  · rw [hkeel]; rfl
  · rw [hkeel]; rfl
  · rw [hkeel]
  · rw [hkeel]; rfl
  · rw [hon _ (by decide) (by decide), hk]
  · rw [hon _ (by decide) (by decide), hs]

theorem keelUp_rises {s : State} (sd : SideId) (hup : s.keel.up = false) (hh : s.held = false) (ha : s.stroke.keelReady = true)
    (hb : s.bow.keelReady = true) : Does .keelUp s (fun t => t.keel.up = true ∧ t.keel.everUp = true ∧ t.keel.resolving = true
      ∧ t.keel.handover = s.keel.handover ∧ (t.side sd).strobe.reqs = []
      ∧ (t.side sd).on KEEL_COX_STAT.KEEL_UP = true ∧ (t.side sd).on KEEL_COX_STAT.SPLIT_CREW = false
      ∧ (t.side sd).on KEEL_COX_STAT.RESOLVING = true ∧ (t.side sd).on KEEL_COX_STAT.COX_HELD = (s.side sd).on KEEL_COX_STAT.COX_HELD
      ∧ (t.side sd).get KEEL_COX_STAT.EPOCH = (s.side sd).get KEEL_COX_STAT.EPOCH) := by
  let r : State := ({ s with keel := { s.keel with up := true, everUp := true, resolving := true } }.mod .stroke Side.keelRise).mod .bow Side.keelRise
  have hx : exec .keelUp s = .next ((r.failStrobes .stroke).failStrobes .bow) := by
    show execKeelUp s = _
    unfold execKeelUp
    simp only [hup, hh, ha, hb, Bool.not_true, Bool.or_self, Bool.false_eq_true, if_false]
    rfl
  obtain ⟨hreq, hget, d, hd⟩ := State.failStrobes_both r sd
  have hrise : ∀ g : Fld, 0x3000 ≤ g.idx → g.idx < 0x5000 →
      (((r.failStrobes .stroke).failStrobes .bow).side sd).get g = (s.side sd).riseFlags.get g := fun g hl hu => by
    rw [hget]
    cases sd <;> exact Side.get_keelRise _ g hl hu
  have hon : ∀ g : Fld, 0x3000 ≤ g.idx → g.idx < 0x5000 →
      (((r.failStrobes .stroke).failStrobes .bow).side sd).on g = (s.side sd).riseFlags.on g := fun g hl hu => by
    unfold Side.on; rw [hrise g hl hu]
  obtain ⟨hk, hsp, hres, hcox, hep⟩ := Side.on_riseFlags (s.side sd)
  refine ⟨_, hx, ?_, ?_, ?_, ?_, hreq, ?_, ?_, ?_, ?_, ?_⟩
  · rw [hd]; rfl
  · rw [hd]; rfl
  · rw [hd]; rfl
  · rw [hd]; rfl
  · rw [hon _ (by decide) (by decide), hk]
  · rw [hon _ (by decide) (by decide), hsp]
  · rw [hon _ (by decide) (by decide), hres]
  · rw [hon _ (by decide) (by decide), hcox]
  · rw [hrise _ (by decide) (by decide), hep]

theorem keelUp_stays {s : State} (h : s.keel.up = true ∨ s.stroke.keelReady = false ∨ s.bow.keelReady = false) :
    exec .keelUp s = .next s := by
  show execKeelUp s = _
  unfold execKeelUp
  rw [if_pos]
  rcases h with h | h | h <;> simp [h]

/-- Settles O21: each island clause from the case of its condition, the Keel's from the flags at link-up and at Keel-down, which neither
answers, nor log entries, nor the pairing of cross-spectra touch. -/
theorem islandsAndKeel : Obligations.IslandsAndKeel := by
  unfold Obligations.IslandsAndKeel
  refine ⟨?_, ?_⟩
  · intro s sd src x l waits stopped goesOn
    have hstop : s.mod sd (fun x => x.islStop l) = stopped := by
      refine congrArg (s.setSide sd) ?_
      show (s.side sd).islStop l = _
      unfold Side.islStop
      cases seatOfSrc l <;> rfl
    have hsw : (stopped.side sd).quiescesOf l = waits := by
      rw [← hstop, State.side_mod]
      exact Side.quiescesOf_congr (Side.islStop_host _ _) l
    have hgw : (goesOn.side sd).quiescesOf l = waits := by
      simp only [goesOn, State.side_mod]
      exact Side.quiescesOf_congr rfl l
    refine ⟨fun hi hd => ?_, fun hi => ?_, fun hd => ?_, fun hi => ⟨?_, ?_⟩⟩
    · have hx : exec (.quiesced sd src) s = .next (stopped.endQuiesce sd l stOK 1) := by
        rw [← hstop]; exact execQuiesced_drained hi hd
      refine ⟨fun hw => ?_, fun st hw => ?_⟩
      · rw [hx, State.endQuiesce_none _ _ (hsw.trans hw)]
      · rw [hx, State.endQuiesce_one _ _ (hsw.trans hw)]
        rfl
    · have hx : exec (.quiesceTimeout sd src) s = .next (goesOn.endQuiesce sd l stQuiesceTimeout 0) := execQuiesceTimeout_draining hi
      have hnow : (goesOn.side sd).now = x.now := by
        simp only [goesOn, State.side_mod]
        rfl
      refine ⟨fun hw => ?_, fun st hw => ?_⟩
      · rw [hx, State.endQuiesce_none _ _ (hgw.trans hw)]
      · rw [hx, State.endQuiesce_one _ _ (hgw.trans hw), hnow]
        rfl
    · show execQuiesced sd src s = _
      unfold execQuiesced
      simp only [l] at hd
      simp only [hd, Bool.and_false, Bool.false_eq_true, if_false]
    · show execQuiesced sd src s = _
      unfold execQuiesced
      simp only [x, l] at hi
      simp only [hi, Bool.false_and, Bool.false_eq_true, if_false]
    · show execQuiesceTimeout sd src s = _
      unfold execQuiesceTimeout
      simp only [x, l] at hi
      simp only [hi, Bool.false_eq_true, if_false]
  · intro s sd sd'
    refine ⟨keelUp_rises sd, keelUp_stays, keelDown_falls sd, fun hup hh => ?_, fun hup => ?_, rfl, fun h => ?_, fun hup he hh => ?_⟩
    · obtain ⟨hk, hsp, hr, hth, hsy, hun⟩ := Side.on_sinkFlags (s.side sd)
      refine ⟨?_, ?_, ?_, ?_, ?_, ?_, ?_⟩
      · rw [keelFall_eq hup, State.cancelHandovers_nil (s := s.sunk) hh]
        rfl
      · exact (State.sunk_on s sd _ (by decide) (by decide)).trans hk
      · exact (State.sunk_on s sd _ (by decide) (by decide)).trans hsp
      · exact (State.sunk_on s sd _ (by decide) (by decide)).trans hr
      · exact (State.sunk_on s sd _ (by decide) (by decide)).trans hth
      · exact (State.sunk_on s sd _ (by decide) (by decide)).trans hsy
      · exact (State.sunk_on s sd _ (by decide) (by decide)).trans hun
    · show Host.Outcome.next s.keelFall = _
      unfold State.keelFall
      rw [hup]
      rfl
    · show execSplitCrewTimeout s = _
      unfold execSplitCrewTimeout
      rw [if_pos]
      rcases h with h | h <;> simp [h]
    · intro f
      show execSplitCrewTimeout s = _
      unfold execSplitCrewTimeout
      simp only [hup, he, hh, Bool.or_self, Bool.false_eq_true, if_false]
      rfl

end Sys2Proof.Machine
end

section
/-! PROOFS. Race time: increments, loads, ties, the syncs across the Keel (R169 to R179, R183). -/

namespace Sys2Proof.Machine

/-! ### Race time set apart from the registers -/

/-- A side with another race time. -/
def Side.withRt (x : Side) (r : RaceT) : Side := { x with rt := r }

@[simp] theorem Side.withRt_rt (x : Side) (r : RaceT) : (x.withRt r).rt = r := rfl
@[simp] theorem Side.get_withRt (x : Side) (r : RaceT) (g : Fld) : (x.withRt r).get g = x.get g := Side.get_congr rfl rfl rfl g
@[simp] theorem Side.on_withRt (x : Side) (r : RaceT) (g : Fld) : (x.withRt r).on g = x.on g := by
  unfold Side.on; rw [Side.get_withRt]

/-! ### Increments and loads (R170, R172) -/

theorem Side.applyInc_some {x : Side} {v : Nat} (h : x.rt.incPend = some v) :
    x.applyInc = (x.withRt { x.rt with inc := v, incPend := none }).set RT_STAT.RUN (b2n (v != 0)) := by
  unfold Side.applyInc
  rw [h]
  rfl

theorem Side.applyLoad_some {x : Side} {v : Nat} (h : x.rt.loadPend = some v) : x.applyLoad
    = (x.withRt { x.rt with loadPend := none, p := 0, rta := x.rt.rta / 2 ^ 24 * 2 ^ 24 }).step ((v : Int) - x.now) 0 := by
  unfold Side.applyLoad
  rw [h]
  rfl

/-- A load's step leaves the loaded race time, its fraction zero. -/
theorem loaded_rta (a v : Nat) :
    ((((a / 2 ^ 24 * 2 ^ 24 : Nat) : Int) + ((v : Int) - (a / 2 ^ 24 % 2 ^ 72 : Nat)) * 2 ^ 24) % 2 ^ 96).toNat = v % 2 ^ 72 * 2 ^ 24 := by
  omega

theorem rtLoad_takes {s : State} {sd : SideId} {v : Nat} (hr : (s.side sd).islRuns (srcOf 5 6 0) = true)
    (hv : (s.side sd).rt.loadPend = some v) : exec (.rtLoad sd) s = .next (s.mod sd Side.applyLoad).markStep := by
  show execRtLoad sd s = _
  unfold execRtLoad rtSrc
  rw [if_pos]
  rw [hv, hr]
  rfl

/-! ### Ties (R183) -/

theorem Side.tie_locked {x : Side} (st : SplitStamp) (h : x.on PLL_STAT.T_LOCK = true) :
    let y : Side := { x with split := { x.split with
      ties := (⟨x.splitTime 16 st, (x.now : Int), st.coarse, st.tap.val⟩ :: x.split.ties).take 4, tieRun := x.split.tieRun + 1 } }
    x.tie st = if x.split.tieRun + 1 ≥ 2 then y.set SPLIT_STAT.INVALID 0 else y := by
  intro y
  unfold Side.tie
  rw [h]
  rfl

theorem Side.tie_split {x : Side} (st : SplitStamp) (h : x.on PLL_STAT.T_LOCK = true) : (x.tie st).split
    = { x.split with ties := (⟨x.splitTime 16 st, (x.now : Int), st.coarse, st.tap.val⟩ :: x.split.ties).take 4, tieRun := x.split.tieRun + 1 } := by
  rw [Side.tie_locked st h]
  split <;> rfl

theorem Side.on_tie_invalid {x : Side} (st : SplitStamp) (h : x.on PLL_STAT.T_LOCK = true) :
    (x.tie st).on SPLIT_STAT.INVALID = (x.on SPLIT_STAT.INVALID && decide (x.split.tieRun = 0)) := by
  rw [Side.tie_locked st h]
  split
  · rw [Side.on_set_zero _ _ (by decide), decide_eq_false (by omega), Bool.and_false]
  · rw [decide_eq_true (by omega), Bool.and_true]
    exact congrArg (· != 0) (Side.get_congr rfl rfl rfl SPLIT_STAT.INVALID)

/-- With no table of item 0 staged and no run, a tie brings no values into force. -/
theorem Side.calBring_none {x : Side} {item : Nat} (p : Nat → Bool) (h : x.calStaged item = []) :
    x.calBring item p = { x with cal := { x.cal with staged := adel x.cal.staged item } } := by
  unfold Side.calBring
  rw [h]
  simp

theorem Side.calArrived_idle {x : Side} (item : Nat) (h : x.cal.job = none) : x.calArrived item = x := by
  unfold Side.calArrived
  rw [h]

/-- No run and no command that waits for one: the job goes on as it is. -/
theorem State.calGoOn_idle {s : State} {sd : SideId} (hj : (s.side sd).cal.job = none)
    (hs : ∀ d ∈ (s.side sd).host.staged, d.op ≠ 0x30 ∧ d.op ≠ 0x31) : s.calGoOn sd = s := by
  have hnone : (s.side sd).host.staged.find? (fun c => (c.op == 0x30 || c.op == 0x31) && c.running && lget c.aux 1 0 == 0) = none := by
    refine List.find?_eq_none.2 (fun c hc => ?_)
    simp [(hs c hc).1, (hs c hc).2]
  unfold State.calGoOn State.calSettle
  simp only [hj, hnone]

/-! ### Syncs across the Keel (R178, R179) -/

theorem takeMsg_head {p : SideId → KeelMsg → Bool} {a : SideId × KeelMsg} (r : List (SideId × KeelMsg)) (h : p a.1 a.2 = true) :
    takeMsg p (a :: r) = some (a, r) := by
  unfold takeMsg
  rw [if_pos h]

theorem execCrossSideSync_head {s : State} {sd : SideId} {t : Nat} {rest : List (SideId × KeelMsg)}
    (h : s.keel.msgs = (sd, .rtSync t) :: rest) : exec .crossSideSync s = .next
      (let z : State := { s with keel := { s.keel with msgs := rest } }
       if (s.side sd).isCrew && (s.side sd).islRuns rtSrc then
         let u := z.setSide sd ((s.side sd).sync t).1
         if ((s.side sd).sync t).2 then u.markStep else u
       else z) := by
  show execCrossSideSync s = _
  unfold execCrossSideSync
  rw [h, takeMsg_head rest rfl]
  simp only [State.side_keel]

/-- R178: a sync has been seen: its error, its edge, and the end of UNSYNCED. -/
def Side.syncSeen (x : Side) (d : Int) : Side :=
  ((x.set RT_XSYNC_ERR.D (ux 36 (satS 36 d))).set RT_STAT.UNSYNCED 0).withRt { x.rt with syncLast := some x.rt.edges }

/-- DEVCLK edges since the last sync. -/
def Side.syncEdges (x : Side) : Nat :=
  match x.rt.syncLast with
  | some e => x.rt.edges - e
  | none => x.ndcNominal

/-- R179: 64 syncs running within 6 LSBs set SYNCED. -/
def Side.syncLock (x : Side) (d : Int) : Side :=
  if d.natAbs ≤ 6 then
    let y := x.withRt { x.rt with syncRun := x.rt.syncRun + 1 }
    if x.rt.syncRun + 1 ≥ 64 then y.set RT_STAT.SYNCED 1 else y
  else (x.withRt { x.rt with syncRun := 0 }).set RT_STAT.SYNCED 0

theorem Side.sync_step {x : Side} {t : Nat} {d : Int} (hd : d = (t : Int) + 52777 - x.now) (h : 65536 < d.natAbs) :
    x.sync t = (((x.syncSeen d).step d 3).withRt { ((x.syncSeen d).step d 3).rt with p := 0 }, true) := by
  subst hd
  unfold Side.sync
  simp only [keelLsb]
  exact if_pos h

theorem Side.sync_loop {x : Side} {t : Nat} {d : Int} (hd : d = (t : Int) + 52777 - x.now) (h : d.natAbs ≤ 65536) :
    x.sync t = (((x.syncSeen d).discipline (-d) x.syncEdges 2 6).syncLock d, false) := by
  subst hd
  unfold Side.sync
  simp only [keelLsb]
  refine (if_neg (Nat.not_lt.2 h)).trans ?_
  unfold Side.syncLock
  by_cases h6 : ((t : Int) + 52777 - x.now).natAbs ≤ 6
  · exact (if_pos h6).trans (congrArg (·, false) (if_pos h6).symm)
  · exact (if_neg h6).trans (congrArg (·, false) (if_neg h6).symm)

theorem Side.get_syncSeen (x : Side) (d : Int) (g : Fld) (h1 : RT_XSYNC_ERR.D.apart g) (h2 : RT_STAT.UNSYNCED.apart g) :
    (x.syncSeen d).get g = x.get g := by
  unfold Side.syncSeen
  rw [Side.get_withRt, Side.get_set_apart _ _ _ _ h2, Side.get_set_apart _ _ _ _ h1]

theorem Side.get_syncSeen_err (x : Side) (d : Int) : (x.syncSeen d).get RT_XSYNC_ERR.D = ux 36 (satS 36 d) := by
  have hux : ux 36 (satS 36 d) < 2 ^ 36 := by unfold ux; omega
  unfold Side.syncSeen
  rw [Side.get_withRt, Side.get_set_apart _ _ _ _ (by decide), Side.get_set_self _ _ _ (by decide) hux]

theorem Side.on_syncSeen_unsynced (x : Side) (d : Int) : (x.syncSeen d).on RT_STAT.UNSYNCED = false := by
  unfold Side.syncSeen
  rw [Side.on_withRt, Side.on_set_zero _ _ (by decide)]

theorem Side.get_syncLock (x : Side) (d : Int) (g : Fld) (h : RT_STAT.SYNCED.apart g) : (x.syncLock d).get g = x.get g := by
  unfold Side.syncLock
  dsimp only
  split
  · split
    · rw [Side.get_set_apart _ _ _ _ h, Side.get_withRt]
    · rw [Side.get_withRt]
  · rw [Side.get_set_apart _ _ _ _ h, Side.get_withRt]

theorem Side.syncLock_near {x : Side} {d : Int} (h : d.natAbs ≤ 6) : (x.syncLock d).rt = { x.rt with syncRun := x.rt.syncRun + 1 }
    ∧ (x.syncLock d).on RT_STAT.SYNCED = (x.on RT_STAT.SYNCED || decide (64 ≤ x.rt.syncRun + 1)) := by
  unfold Side.syncLock
  simp only [if_pos h]
  split
  case isTrue hn =>
    refine ⟨rfl, ?_⟩
    rw [Side.on_set_one _ _ (by decide), decide_eq_true hn, Bool.or_true]
  case isFalse hn =>
    refine ⟨rfl, ?_⟩
    rw [Side.on_withRt, decide_eq_false hn, Bool.or_false]

theorem Side.syncLock_far {x : Side} {d : Int} (h : 6 < d.natAbs) : (x.syncLock d).rt = { x.rt with syncRun := 0 }
    ∧ (x.syncLock d).on RT_STAT.SYNCED = false := by
  unfold Side.syncLock
  rw [if_neg (Nat.not_le.2 h)]
  exact ⟨rfl, Side.on_set_zero _ _ (by decide)⟩

theorem Side.get_discipline (x : Side) (e : Int) (n kp ki : Nat) (g : Fld) : (x.discipline e n kp ki).get g = x.get g :=
  Side.get_congr rfl rfl rfl g

theorem Side.on_discipline (x : Side) (e : Int) (n kp ki : Nat) (g : Fld) : (x.discipline e n kp ki).on g = x.on g := by
  unfold Side.on; rw [Side.get_discipline]

theorem Side.discipline_rt (x : Side) (e : Int) (n kp ki : Nat) : (x.discipline e n kp ki).rt
    = { x.rt with f := satF (x.rt.f - rheP (rhe (e * 2 ^ 24) (max 1 n)) ki), p := -rheP (rhe (e * 2 ^ 24) (max 1 n)) kp } := rfl

end Sys2Proof.Machine
end

section
/-! PROOFS. The commands of race time (R170 to R179, R183), assembled from the rules of steps, loads, ties and syncs. -/

namespace Sys2Proof.Machine

theorem rtIncCommit_takes {s : State} {sd : SideId} {v : Nat} (hr : (s.side sd).islRuns (srcOf 5 6 0) = true)
    (hv : (s.side sd).rt.incPend = some v) : Does (.rtIncCommit sd) s (fun u =>
      (u.side sd).rt = { (s.side sd).rt with inc := v, incPend := none } ∧ (u.side sd).on RT_STAT.RUN = (v != 0)
        ∧ u.side sd.other = s.side sd.other) := by
  refine ⟨_, rfl, ?_, ?_, State.side_mod_other ..⟩
  · simp only [State.side_mod, rtSrc, hr, if_true]
    rw [Side.applyInc_some hv]
    rfl
  · simp only [State.side_mod, rtSrc, hr, if_true]
    rw [Side.applyInc_some hv, Side.on_set_b2n _ _ _ (by decide)]

theorem rtLoad_steps {s : State} {sd : SideId} {v : Nat} (hr : (s.side sd).islRuns (srcOf 5 6 0) = true)
    (hv : (s.side sd).rt.loadPend = some v) : Does (.rtLoad sd) s (fun u =>
      (u.side sd).rt.rta = v % 2 ^ 72 * 2 ^ 24 ∧ (u.side sd).rt.p = 0 ∧ (u.side sd).rt.f = (s.side sd).rt.f ∧ (u.side sd).rt.loadPend = none
      ∧ (u.side sd).rt.inc = (s.side sd).rt.inc ∧ (u.side sd).on RT_STAT.STEP_SEEN = true
      ∧ (u.side sd).get RT_STEP_COUNT.whole = min ((s.side sd).get RT_STEP_COUNT.whole + 1) (2 ^ 36 - 1)
      ∧ (s.side sd.other).rt = (u.side sd.other).rt) := by
  refine ⟨_, rtLoad_takes hr hv, ?_⟩
  simp only [State.rt_markStep, State.on_markStep, State.get_markStep, State.side_mod, State.side_mod_other, Side.applyLoad_some hv,
    Side.step_rt, Side.withRt_rt]
  refine ⟨loaded_rta _ v, trivial, trivial, trivial, trivial, Side.on_step_seen .., ?_, trivial⟩
  rw [Side.get_step_count, Side.get_withRt]

theorem tie_kept {s : State} {sd : SideId} (st : SplitStamp) (hl : (s.side sd).on PLL_STAT.T_LOCK = true)
    (hc : (s.side sd).calStaged 0 = []) (hj : (s.side sd).cal.job = none) (hs : ∀ d ∈ (s.side sd).host.staged, d.op ≠ 0x30 ∧ d.op ≠ 0x31) :
    Does (.tie sd st) s (fun u =>
      (u.side sd).split.ties = (⟨(s.side sd).splitTime 16 st, ((s.side sd).now : Int), st.coarse, st.tap.val⟩ :: (s.side sd).split.ties).take 4
      ∧ (u.side sd).split.tieRun = (s.side sd).split.tieRun + 1
      ∧ (u.side sd).on SPLIT_STAT.INVALID = ((s.side sd).on SPLIT_STAT.INVALID && decide ((s.side sd).split.tieRun = 0))
      ∧ u.side sd.other = s.side sd.other) := by
  have hkeep : ((s.side sd).tie st).cal = (s.side sd).cal ∧ ((s.side sd).tie st).host = (s.side sd).host := by
    rw [Side.tie_locked st hl]
    split <;> exact ⟨rfl, rfl⟩
  have hc' : ((s.side sd).tie st).calStaged 0 = [] := by
    unfold Side.calStaged at hc ⊢
    rw [hkeep.1, hc]
  have harr : (((s.side sd).tie st).calBring 0 (fun r => calUnit r == 16)).calArrived 0
      = { (s.side sd).tie st with cal := { ((s.side sd).tie st).cal with staged := adel ((s.side sd).tie st).cal.staged 0 } } := by
    rw [Side.calBring_none _ hc', Side.calArrived_idle]
    exact (congrArg Cal.job hkeep.1).trans hj
  have hx : exec (.tie sd st) s = .next (s.setSide sd
      { (s.side sd).tie st with cal := { ((s.side sd).tie st).cal with staged := adel ((s.side sd).tie st).cal.staged 0 } }) := by
    show execTie sd st s = _
    unfold execTie
    rw [hl]
    simp only [Bool.not_true, Bool.false_eq_true, if_false, State.mod, harr]
    rw [State.calGoOn_idle]
    · rw [State.side_setSide]
      exact (congrArg Cal.job hkeep.1).trans hj
    · rw [State.side_setSide]
      intro d hd
      exact hs d (hkeep.2 ▸ hd)
  refine ⟨_, hx, ?_⟩
  beta_reduce
  rw [State.side_setSide, State.side_setSide_other]
  refine ⟨?_, ?_, ?_, rfl⟩
  · exact congrArg SplitT.ties (Side.tie_split st hl)
  · exact congrArg SplitT.tieRun (Side.tie_split st hl)
  · rw [← Side.on_tie_invalid st hl]
    exact congrArg (· != 0) (Side.get_congr rfl rfl rfl SPLIT_STAT.INVALID)

/-- R178: what a sync of a crew side leaves, whichever way race time moves. -/
theorem Side.sync_all {x : Side} {t : Nat} {d : Int} (hd : d = (t : Int) + 52777 - x.now) : (x.sync t).1.get RT_XSYNC_ERR.D = ux 36 (satS 36 d)
    ∧ (x.sync t).1.on RT_STAT.UNSYNCED = false ∧ (x.sync t).1.rt.syncLast = some x.rt.edges := by
  have huns : ∀ y : Side, y.get RT_STAT.UNSYNCED = (x.syncSeen d).get RT_STAT.UNSYNCED → y.on RT_STAT.UNSYNCED = false := fun y h => by
    rw [← Side.on_syncSeen_unsynced x d]
    unfold Side.on
    rw [h]
  by_cases h : 65536 < d.natAbs
  · rw [Side.sync_step hd h]
    refine ⟨?_, huns _ ?_, ?_⟩
    · rw [Side.get_withRt, Side.get_step _ _ _ _ (by decide) (by decide) (by decide) (by decide) (by decide), Side.get_syncSeen_err]
    · rw [Side.get_withRt, Side.get_step _ _ _ _ (by decide) (by decide) (by decide) (by decide) (by decide)]
    · rw [Side.withRt_rt, Side.step_rt]
      rfl
  · rw [Side.sync_loop hd (Nat.not_lt.1 h)]
    refine ⟨?_, huns _ ?_, ?_⟩
    · rw [Side.get_syncLock _ _ _ (by decide), Side.get_discipline, Side.get_syncSeen_err]
    · rw [Side.get_syncLock _ _ _ (by decide), Side.get_discipline]
    · rcases Nat.lt_or_ge 6 d.natAbs with h6 | h6
      · rw [(Side.syncLock_far h6).1]
        rfl
      · rw [(Side.syncLock_near h6).1]
        rfl

/-- R178, R179: an error of more than 65,536 LSBs steps race time. -/
theorem Side.sync_steps {x : Side} {t : Nat} {d : Int} (hd : d = (t : Int) + 52777 - x.now) (hc : x.isCrew = true) (h : 65536 < d.natAbs) :
    (x.sync t).1.rt.rta = (((x.rt.rta : Int) + d * 2 ^ 24) % 2 ^ 96).toNat ∧ (x.sync t).1.rt.p = 0 ∧ (x.sync t).1.rt.f = x.rt.f
      ∧ (x.sync t).1.on RT_STAT.STEP_SEEN = true ∧ (x.sync t).1.on RT_STAT.SYNCED = false := by
  have hcox : (x.syncSeen d).on KEEL_COX_STAT.COX_HELD = false := by
    have hx : x.on KEEL_COX_STAT.COX_HELD = false := by
      unfold Side.isCrew at hc
      simpa using (Bool.and_eq_true_iff.1 hc).2
    rw [← hx]
    unfold Side.on
    rw [Side.get_syncSeen _ _ _ (by decide) (by decide)]
  rw [Side.sync_step hd h]
  refine ⟨?_, rfl, ?_, ?_, ?_⟩
  · rw [Side.withRt_rt, Side.step_rt]
    rfl
  · rw [Side.withRt_rt, Side.step_rt]
    rfl
  · rw [Side.on_withRt, Side.on_step_seen]
  · rw [Side.on_withRt, Side.on_step_synced _ _ _ hcox]

/-- R175, R178, R179: a smaller error goes to the loop. -/
theorem Side.sync_loops {x : Side} {t : Nat} {d : Int} {q : Int} (hd : d = (t : Int) + 52777 - x.now) (h : d.natAbs ≤ 65536)
    (hq : q = rhe (-d * 2 ^ 24) (max 1 x.syncEdges)) :
    (x.sync t).1.rt.rta = x.rt.rta ∧ (x.sync t).1.rt.f = satF (x.rt.f - rheP q 6) ∧ (x.sync t).1.rt.p = -rheP q 2
      ∧ (d.natAbs ≤ 6 → (x.sync t).1.rt.syncRun = x.rt.syncRun + 1
        ∧ (x.sync t).1.on RT_STAT.SYNCED = (x.on RT_STAT.SYNCED || decide (64 ≤ x.rt.syncRun + 1)))
      ∧ (6 < d.natAbs → (x.sync t).1.rt.syncRun = 0 ∧ (x.sync t).1.on RT_STAT.SYNCED = false) := by
  have hrt : ∀ n : Nat, (x.sync t).1.rt = { ((x.syncSeen d).discipline (-d) x.syncEdges 2 6).rt with syncRun := n } →
      (x.sync t).1.rt.rta = x.rt.rta ∧ (x.sync t).1.rt.f = satF (x.rt.f - rheP q 6) ∧ (x.sync t).1.rt.p = -rheP q 2 := fun n hn => by
    rw [hn, hq]
    exact ⟨rfl, rfl, rfl⟩
  have hsy : ((x.syncSeen d).discipline (-d) x.syncEdges 2 6).on RT_STAT.SYNCED = x.on RT_STAT.SYNCED := by
    rw [Side.on_discipline]
    unfold Side.on
    rw [Side.get_syncSeen _ _ _ (by decide) (by decide)]
  have hx := Side.sync_loop hd h
  rcases Nat.lt_or_ge 6 d.natAbs with h6 | h6
  · obtain ⟨hr, ho⟩ := Side.syncLock_far (x := (x.syncSeen d).discipline (-d) x.syncEdges 2 6) h6
    obtain ⟨ha, hf, hp⟩ := hrt 0 (by rw [hx]; exact hr)
    refine ⟨ha, hf, hp, fun hn => absurd h6 (Nat.not_lt.2 hn), fun _ => ⟨?_, ?_⟩⟩
    · rw [hx, hr]
    · rw [hx, ho]
  · obtain ⟨hr, ho⟩ := Side.syncLock_near (x := (x.syncSeen d).discipline (-d) x.syncEdges 2 6) h6
    obtain ⟨ha, hf, hp⟩ := hrt _ (by rw [hx]; exact hr)
    refine ⟨ha, hf, hp, fun _ => ⟨?_, ?_⟩, fun hn => absurd hn (Nat.not_lt.2 h6)⟩
    · rw [hx, hr]
      rfl
    · rw [hx, ho, hsy]
      rfl

/-- A sync that a crew side takes: its side is the synced one, and the Keel has lost the message. -/
theorem crossSideSync_takes {s : State} {sd : SideId} {t : Nat} {rest : List (SideId × KeelMsg)} (h : s.keel.msgs = (sd, .rtSync t) :: rest)
    (hc : (s.side sd).isCrew = true) (hr : (s.side sd).islRuns (srcOf 5 6 0) = true) {q : State → Prop}
    (hq : ∀ u : State, u.keel = { s.keel with msgs := rest } → (u.side sd).rt = ((s.side sd).sync t).1.rt →
      (∀ g, (u.side sd).get g = ((s.side sd).sync t).1.get g) → q u) : Does .crossSideSync s q := by
  refine ⟨_, execCrossSideSync_head h, ?_⟩
  simp only [rtSrc, hc, hr, Bool.and_self, if_true]
  split
  · exact hq _ (by simp) (by simp) (fun g => by simp)
  · exact hq _ (by simp) (by simp) (fun g => by simp)

/-- Settles O35: increments, loads and ties by their rules; a sync by the size of its error. -/
theorem raceTimeCommands : Obligations.RaceTimeCommands := by
  unfold Obligations.RaceTimeCommands
  intro s sd st v t rest x
  refine ⟨fun hr hv => rtIncCommit_takes hr hv, fun hr => ⟨?_, ?_⟩, fun hr hv => rtLoad_steps hr hv, fun hl => ?_,
    fun hl hc hj hs => tie_kept st hl hc hj hs, fun hc hr => ?_, fun hc hr => ?_, fun hc => ?_, fun hm => ⟨fun hn => ?_, fun hc hr => ?_⟩⟩
  · show Host.Outcome.next (s.mod sd _) = _
    simp only [x] at hr
    simp only [State.mod, rtSrc, hr, Bool.false_eq_true, if_false, State.setSide_self]
  · show execRtLoad sd s = _
    unfold execRtLoad rtSrc
    simp only [x] at hr
    simp only [hr, Bool.and_false, Bool.false_eq_true, if_false]
  · show execTie sd st s = _
    unfold execTie
    simp only [x] at hl
    simp only [hl, Bool.not_false, if_true]
  · show execRtSyncSend s = _
    unfold execRtSyncSend rtSrc
    simp only [x] at hr
    simp only [hc, hr, Bool.false_eq_true, if_false]
  · show execRtSyncSend s = _
    unfold execRtSyncSend rtSrc
    simp only [x] at hr
    simp only [hc, hr, if_true]
    rfl
  · show execRtSyncSend s = _
    unfold execRtSyncSend
    simp only [hc]
  · rw [execCrossSideSync_head hm]
    have hno : ((s.side sd).isCrew && (s.side sd).islRuns rtSrc) = false := by
      rcases hn with hn | hn
      · exact Bool.and_eq_false_imp.2 (fun h => absurd h (Bool.eq_false_iff.1 hn))
      · exact (congrArg _ hn).trans (Bool.and_false _)
    simp only [hno, Bool.false_eq_true, if_false]
  · intro d n q
    refine crossSideSync_takes hm hc hr (fun u hk hrt hg => ?_)
    have hon : ∀ g, (u.side sd).on g = ((s.side sd).sync t).1.on g := fun g => by unfold Side.on; rw [hg]
    intro y
    simp only [y, hrt, hg, hon]
    obtain ⟨h1, h2, h3⟩ := Side.sync_all (x := x) (t := t) (d := d) rfl
    exact ⟨hk, h1, h2, h3, fun h => Side.sync_steps rfl hc h, fun h => Side.sync_loops rfl h rfl⟩

end Sys2Proof.Machine
end

section
/-! PROOFS. Edges of the PPS input (R173 to R177, R180). -/

namespace Sys2Proof.Machine

/-! ### A residual result (R44, R177) -/

/-- The two words of R177's result as one number. -/
def ppsWord (e sec : Int) : Nat := ux 30 (max (-536870911) (min 536870911 e)) + ux 32 sec * 2 ^ 30

theorem wordN_toNat_of_lt {v : Nat} (h : v < 2 ^ 36) : (wordN v).toNat = v := Nat.mod_eq_of_lt h

/-- The registers that a residual result leaves: its pair, written in turn. -/
theorem Side.reg_ppsResult (x : Side) (e sec : Int) (i : Nat) : (x.ppsResult e sec).reg i
    = ((x.setReg PPS_RESID_LO.whole.idx (wordN (2 ^ 35 + (bitsOf (x.reg PPS_RESID_LO.whole.idx).toNat 33 26 + 1) % 256 * 2 ^ 26
        + ppsWord e sec % 2 ^ 26 % 2 ^ 26))).setReg (PPS_RESID_LO.whole.idx + 1) (wordN (ppsWord e sec / 2 ^ 26))).reg i := by
  unfold Side.ppsResult Side.newResult
  exact Side.reg_of_regs _ _ rfl rfl rfl i

@[simp] theorem Side.ppsResult_rt (x : Side) (e sec : Int) : (x.ppsResult e sec).rt = x.rt := rfl

theorem Side.get_ppsResult (x : Side) (e sec : Int) (g : Fld) (hl : g.idx ≠ PPS_RESID_LO.whole.idx) (hh : g.idx ≠ PPS_RESID_HI.whole.idx) :
    (x.ppsResult e sec).get g = x.get g := by
  have hh' : g.idx ≠ PPS_RESID_LO.whole.idx + 1 := hh
  unfold Side.get
  rw [Side.reg_ppsResult, Side.reg_setReg_ne _ _ _ _ hh', Side.reg_setReg_ne _ _ _ _ hl]

theorem Side.get_ppsResult_lo (x : Side) (e sec : Int) : (x.ppsResult e sec).get PPS_RESID_LO.whole
    = 2 ^ 35 + (bitsOf (x.reg PPS_RESID_LO.whole.idx).toNat 33 26 + 1) % 256 * 2 ^ 26 + ppsWord e sec % 2 ^ 26 := by
  unfold Side.get
  rw [Side.reg_ppsResult, Side.reg_setReg_ne _ _ _ _ (by decide), Side.reg_setReg, wordN_toNat_of_lt (by omega)]
  unfold bitsOf
  simp only [PPS_RESID_LO.whole]
  omega

theorem Side.get_ppsResult_hi (x : Side) (e sec : Int) : (x.ppsResult e sec).get PPS_RESID_HI.whole = ppsWord e sec / 2 ^ 26 % 2 ^ 36 := by
  have hr : (x.ppsResult e sec).reg PPS_RESID_HI.whole.idx = wordN (ppsWord e sec / 2 ^ 26) := by
    rw [Side.reg_ppsResult]
    exact Side.reg_setReg _ _ _
  have hw : (wordN (ppsWord e sec / 2 ^ 26)).toNat = ppsWord e sec / 2 ^ 26 % 2 ^ 36 := BitVec.toNat_ofNat _ _
  unfold Side.get
  rw [hr, hw]
  unfold bitsOf
  simp only [PPS_RESID_HI.whole]
  omega

/-! ### An accepted edge of a disciplined side (R175) -/

/-- R174, R177, R180: the registers at an accepted edge: it ends PPS_LOST, leaves its residual, and synchronises a cox side. -/
def Side.ppsFound (x : Side) (e sec : Int) : Side :=
  let y := (x.set RT_STAT.PPS_LOST 0).ppsResult e sec
  if y.on KEEL_COX_STAT.COX_HELD then y.set RT_STAT.UNSYNCED 0 else y

/-- R174: an accepted edge counts as the last. -/
def Side.ppsCount (x : Side) : Side := x.withRt { x.rt with ppsFirst := false, ppsLast := some x.rt.edges }

/-- An accepted edge before its effect on race time. -/
def Side.ppsSeen (x : Side) (e sec : Int) : Side := (x.ppsFound e sec).ppsCount

theorem Side.ppsFound_rt (x : Side) (e sec : Int) : (x.ppsFound e sec).rt = x.rt := by
  unfold Side.ppsFound
  dsimp only
  split <;> rfl

@[simp] theorem Side.ppsSeen_rt (x : Side) (e sec : Int) : (x.ppsSeen e sec).rt = { x.rt with ppsFirst := false, ppsLast := some x.rt.edges } := by
  unfold Side.ppsSeen Side.ppsCount
  rw [Side.withRt_rt, Side.ppsFound_rt]

theorem Side.get_ppsSeen_result (x : Side) (e sec : Int) (g : Fld) (h : RT_STAT.UNSYNCED.apart g) :
    (x.ppsSeen e sec).get g = ((x.set RT_STAT.PPS_LOST 0).ppsResult e sec).get g := by
  unfold Side.ppsSeen Side.ppsCount Side.ppsFound
  rw [Side.get_withRt]
  dsimp only
  split
  · exact Side.get_set_apart _ _ _ _ h
  · rfl

theorem Side.get_ppsSeen (x : Side) (e sec : Int) (g : Fld) (h1 : RT_STAT.UNSYNCED.apart g) (h2 : RT_STAT.PPS_LOST.apart g)
    (hl : g.idx ≠ PPS_RESID_LO.whole.idx) (hh : g.idx ≠ PPS_RESID_HI.whole.idx) : (x.ppsSeen e sec).get g = x.get g := by
  rw [Side.get_ppsSeen_result _ _ _ _ h1, Side.get_ppsResult _ _ _ _ hl hh, Side.get_set_apart _ _ _ _ h2]

theorem Side.on_ppsSeen (x : Side) (e sec : Int) (g : Fld) (h1 : RT_STAT.UNSYNCED.apart g) (h2 : RT_STAT.PPS_LOST.apart g)
    (hl : g.idx ≠ PPS_RESID_LO.whole.idx) (hh : g.idx ≠ PPS_RESID_HI.whole.idx) : (x.ppsSeen e sec).on g = x.on g := by
  unfold Side.on; rw [Side.get_ppsSeen x e sec g h1 h2 hl hh]

theorem Side.on_ppsSeen_lost (x : Side) (e sec : Int) : (x.ppsSeen e sec).on RT_STAT.PPS_LOST = false := by
  have h : (x.set RT_STAT.PPS_LOST 0).on RT_STAT.PPS_LOST = false := Side.on_set_zero _ _ (by decide)
  unfold Side.on at h ⊢
  rw [Side.get_ppsSeen_result _ _ _ _ (by decide), Side.get_ppsResult _ _ _ _ (by decide) (by decide), h]

theorem Side.get_ppsSeen_lo (x : Side) (e sec : Int) : (x.ppsSeen e sec).get PPS_RESID_LO.whole
    = 2 ^ 35 + (bitsOf (x.reg PPS_RESID_LO.whole.idx).toNat 33 26 + 1) % 256 * 2 ^ 26 + ppsWord e sec % 2 ^ 26 := by
  rw [Side.get_ppsSeen_result _ _ _ _ (by decide), Side.get_ppsResult_lo, Side.reg_set_ne _ _ _ _ (by decide)]

theorem Side.get_ppsSeen_hi (x : Side) (e sec : Int) : (x.ppsSeen e sec).get PPS_RESID_HI.whole = ppsWord e sec / 2 ^ 26 % 2 ^ 36 := by
  rw [Side.get_ppsSeen_result _ _ _ _ (by decide), Side.get_ppsResult_hi]

/-- DEVCLK edges since the last accepted edge. -/
def Side.ppsEdges (x : Side) : Nat :=
  match x.rt.ppsLast with
  | some k => x.rt.edges - k
  | none => x.ndcNominal

theorem Side.ppsEdges_of_rt {x y : Side} (h : y.rt = x.rt) : y.ppsEdges = x.ppsEdges := by
  unfold Side.ppsEdges Side.ndcNominal
  rw [h]

/-- The residual of an edge time against its nearest second. -/
def ppsError (u : Int) : Int := u - rheP u 40 * 2 ^ 40

/-- R175, R176: what a disciplined side does with an accepted edge: while stamps are INVALID nothing, else a step or the loop. -/
theorem Side.ppsAccept_disciplined {x : Side} (u : Int) (hd : x.on RT_CTRL.DISC_EN = true) (ha : x.on RT_SET_SEC.ARM = false) (inv : Bool) :
    x.ppsAccept u inv =
      let y := x.ppsSeen (ppsError u) (rheP u 40)
      if inv then (y, false)
      else if (ppsError u).natAbs > 2 ^ y.get RT_CTRL.STEP_EXP then
        (((y.step (-ppsError u) 2).withRt { (y.step (-ppsError u) 2).rt with p := 0 }).ppsLock (ppsError u), true)
      else ((y.discipline (ppsError u) x.ppsEdges (y.get RT_CTRL.KP) (y.get RT_CTRL.KI)).ppsLock (ppsError u), false) := by
  rw [← Side.ppsEdges_of_rt (Side.ppsFound_rt x (ppsError u) (rheP u 40))]
  unfold Side.ppsAccept
  simp only [hd, ha, nearSec, Bool.false_eq_true, if_false, Bool.not_true]
  rfl

theorem Side.get_ppsLock (x : Side) (e : Int) (g : Fld) (h : RT_STAT.PPS_LOCK.apart g) : (x.ppsLock e).get g = x.get g := by
  have hset : ∀ (r : RaceT) (v : Nat), ((x.withRt r).set RT_STAT.PPS_LOCK v).get g = x.get g := fun r v => by
    rw [Side.get_set_apart _ _ _ _ h, Side.get_withRt]
  unfold Side.ppsLock
  dsimp only
  split
  · split
    · exact hset _ 1
    · exact Side.get_withRt ..
  · exact hset _ 0

theorem Side.on_ppsLock (x : Side) (e : Int) (g : Fld) (h : RT_STAT.PPS_LOCK.apart g) : (x.ppsLock e).on g = x.on g := by
  unfold Side.on; rw [Side.get_ppsLock x e g h]

theorem Side.ppsLock_rt (x : Side) (e : Int) : ∃ n, (x.ppsLock e).rt = { x.rt with lockRun := n } := by
  unfold Side.ppsLock
  dsimp only
  split
  · split <;> exact ⟨_, rfl⟩
  · exact ⟨_, rfl⟩

theorem Side.ppsLock_near {x : Side} {e : Int} (h : e.natAbs ≤ x.get RT_CTRL.LOCK_TOL) : (x.ppsLock e).rt.lockRun = x.rt.lockRun + 1
    ∧ (x.ppsLock e).on RT_STAT.PPS_LOCK = (x.on RT_STAT.PPS_LOCK || decide (8 ≤ x.rt.lockRun + 1)) := by
  unfold Side.ppsLock
  simp only [if_pos h]
  split
  case isTrue hn =>
    refine ⟨rfl, ?_⟩
    rw [Side.raise_eq, Side.on_set_one _ _ (by decide), decide_eq_true hn, Bool.or_true]
  case isFalse hn =>
    refine ⟨rfl, ?_⟩
    rw [decide_eq_false hn, Bool.or_false]
    exact Side.on_withRt ..

theorem Side.ppsLock_far {x : Side} {e : Int} (h : x.get RT_CTRL.LOCK_TOL < e.natAbs) : (x.ppsLock e).rt.lockRun = 0
    ∧ (x.ppsLock e).on RT_STAT.PPS_LOCK = false := by
  unfold Side.ppsLock
  rw [if_neg (Nat.not_le.2 h)]
  exact ⟨rfl, Side.on_set_zero _ _ (by decide)⟩

/-- R175 to R177, R180: what an accepted edge of a disciplined side leaves. -/
structure Side.ppsTaken (x : Side) (e sec : Int) (y : Side) : Prop where
  lo : y.get PPS_RESID_LO.whole
    = 2 ^ 35 + (bitsOf (x.reg PPS_RESID_LO.whole.idx).toNat 33 26 + 1) % 256 * 2 ^ 26 + ppsWord e sec % 2 ^ 26
  hi : y.get PPS_RESID_HI.whole = ppsWord e sec / 2 ^ 26 % 2 ^ 36
  found : y.on RT_STAT.PPS_LOST = false
  last : y.rt.ppsLast = some x.rt.edges
  first : y.rt.ppsFirst = false

theorem Side.ppsTaken_of_get {x y : Side} {e sec : Int} (hg : ∀ g : Fld, RT_STAT.STEP_SEEN.apart g → RT_STEP_COUNT.whole.apart g →
      RT_STAT.SYNCED.apart g → RT_STAT.PPS_LOCK.apart g → 0x3000 ≤ g.idx → g.idx < 0x5000 → y.get g = (x.ppsSeen e sec).get g)
    (hl : y.rt.ppsLast = some x.rt.edges) (hf : y.rt.ppsFirst = false) : x.ppsTaken e sec y := by
  refine ⟨?_, ?_, ?_, hl, hf⟩
  · rw [hg _ (by decide) (by decide) (by decide) (by decide) (by decide) (by decide), Side.get_ppsSeen_lo]
  · rw [hg _ (by decide) (by decide) (by decide) (by decide) (by decide) (by decide), Side.get_ppsSeen_hi]
  · rw [← Side.on_ppsSeen_lost x e sec]
    unfold Side.on
    rw [hg _ (by decide) (by decide) (by decide) (by decide) (by decide) (by decide)]

section
variable {x : Side} {u : Int} (hd : x.on RT_CTRL.DISC_EN = true) (ha : x.on RT_SET_SEC.ARM = false)
include hd ha

/-- R184: while stamps are INVALID, an accepted edge leaves race time. -/
theorem Side.ppsAccept_invalid : x.ppsTaken (ppsError u) (rheP u 40) (x.ppsAccept u true).1
    ∧ (x.ppsAccept u true).1.rt.rta = x.rt.rta ∧ (x.ppsAccept u true).1.rt.f = x.rt.f ∧ (x.ppsAccept u true).1.rt.p = x.rt.p := by
  have hx : (x.ppsAccept u true).1 = x.ppsSeen (ppsError u) (rheP u 40) := by
    rw [Side.ppsAccept_disciplined u hd ha]
    rfl
  have hrt := Side.ppsSeen_rt x (ppsError u) (rheP u 40)
  rw [hx]
  refine ⟨Side.ppsTaken_of_get (fun _ _ _ _ _ _ _ => rfl) ?_ ?_, ?_, ?_, ?_⟩ <;> rw [hrt]

/-- R175: an edge off by more than the step bound steps race time. -/
theorem Side.ppsAccept_step (h : 2 ^ x.get RT_CTRL.STEP_EXP < (ppsError u).natAbs) :
    x.ppsTaken (ppsError u) (rheP u 40) (x.ppsAccept u false).1
      ∧ (x.ppsAccept u false).1.rt.rta = (((x.rt.rta : Int) - ppsError u * 2 ^ 24) % 2 ^ 96).toNat
      ∧ (x.ppsAccept u false).1.rt.p = 0 ∧ (x.ppsAccept u false).1.rt.f = x.rt.f ∧ (x.ppsAccept u false).1.on RT_STAT.STEP_SEEN = true := by
  have hexp : (x.ppsSeen (ppsError u) (rheP u 40)).get RT_CTRL.STEP_EXP = x.get RT_CTRL.STEP_EXP :=
    Side.get_ppsSeen _ _ _ _ (by decide) (by decide) (by decide) (by decide)
  let y := (x.ppsSeen (ppsError u) (rheP u 40)).step (-ppsError u) 2
  have hx : (x.ppsAccept u false).1 = (y.withRt { y.rt with p := 0 }).ppsLock (ppsError u) := by
    rw [Side.ppsAccept_disciplined u hd ha]
    simp only [Bool.false_eq_true, if_false, hexp, if_pos h]
    rfl
  obtain ⟨n, hn⟩ := Side.ppsLock_rt (y.withRt { y.rt with p := 0 }) (ppsError u)
  have hrt : (x.ppsAccept u false).1.rt = { y.rt with p := 0, lockRun := n } := by rw [hx, hn]; rfl
  have hy : y.rt = _ := (Side.step_rt (x.ppsSeen (ppsError u) (rheP u 40)) (-ppsError u) 2).trans (by rw [Side.ppsSeen_rt])
  refine ⟨Side.ppsTaken_of_get (fun g h1 h2 h3 h4 hl hu => ?_) ?_ ?_, ?_, ?_, ?_, ?_⟩
  · rw [hx, Side.get_ppsLock _ _ _ h4, Side.get_withRt]
    exact Side.get_step _ _ _ g hl hu h1 h2 h3
  · rw [hrt]; exact congrArg RaceT.ppsLast hy
  · rw [hrt]; exact congrArg RaceT.ppsFirst hy
  · rw [hrt]
    refine (congrArg RaceT.rta hy).trans ?_
    simp only [Int.neg_mul, Int.sub_eq_add_neg]
  · rw [hrt]
  · rw [hrt, hy]
  · rw [hx, Side.on_ppsLock _ _ _ (by decide), Side.on_withRt]
    exact Side.on_step_seen ..

/-- R175: an edge within the step bound goes to the loop, and counts towards PPS_LOCK. -/
theorem Side.ppsAccept_loop (h : (ppsError u).natAbs ≤ 2 ^ x.get RT_CTRL.STEP_EXP) {q : Int}
    (hq : q = rhe (ppsError u * 2 ^ 24) (max 1 x.ppsEdges)) :
    x.ppsTaken (ppsError u) (rheP u 40) (x.ppsAccept u false).1
      ∧ (x.ppsAccept u false).1.rt.rta = x.rt.rta ∧ (x.ppsAccept u false).1.rt.f = satF (x.rt.f - rheP q (x.get RT_CTRL.KI))
      ∧ (x.ppsAccept u false).1.rt.p = -rheP q (x.get RT_CTRL.KP)
      ∧ ((ppsError u).natAbs ≤ x.get RT_CTRL.LOCK_TOL → (x.ppsAccept u false).1.rt.lockRun = x.rt.lockRun + 1
        ∧ (x.ppsAccept u false).1.on RT_STAT.PPS_LOCK = (x.on RT_STAT.PPS_LOCK || decide (8 ≤ x.rt.lockRun + 1)))
      ∧ (x.get RT_CTRL.LOCK_TOL < (ppsError u).natAbs → (x.ppsAccept u false).1.rt.lockRun = 0
        ∧ (x.ppsAccept u false).1.on RT_STAT.PPS_LOCK = false) := by
  have hctrl : ∀ g : Fld, g.idx = RT_CTRL.whole.idx → (x.ppsSeen (ppsError u) (rheP u 40)).get g = x.get g := fun g hg =>
    Side.get_ppsSeen _ _ _ _ (.inl (by rw [hg]; decide)) (.inl (by rw [hg]; decide)) (by rw [hg]; decide) (by rw [hg]; decide)
  let y := (x.ppsSeen (ppsError u) (rheP u 40)).discipline (ppsError u) x.ppsEdges (x.get RT_CTRL.KP) (x.get RT_CTRL.KI)
  have hx : (x.ppsAccept u false).1 = y.ppsLock (ppsError u) := by
    rw [Side.ppsAccept_disciplined u hd ha]
    simp only [Bool.false_eq_true, if_false, hctrl RT_CTRL.STEP_EXP rfl, hctrl RT_CTRL.KP rfl, hctrl RT_CTRL.KI rfl, if_neg (Nat.not_lt.2 h)]
    rfl
  have hyg : ∀ g, y.get g = (x.ppsSeen (ppsError u) (rheP u 40)).get g := fun g => Side.get_discipline ..
  have htol : y.get RT_CTRL.LOCK_TOL = x.get RT_CTRL.LOCK_TOL := (hyg _).trans (hctrl _ rfl)
  have hlock : y.on RT_STAT.PPS_LOCK = x.on RT_STAT.PPS_LOCK :=
    (Side.on_discipline ..).trans (Side.on_ppsSeen _ _ _ _ (by decide) (by decide) (by decide) (by decide))
  obtain ⟨n, hn⟩ := Side.ppsLock_rt y (ppsError u)
  subst hq
  have hy : y.rt = _ := (Side.discipline_rt ..).trans (by rw [Side.ppsSeen_rt])
  rw [hx]
  refine ⟨Side.ppsTaken_of_get (fun g _ _ _ h4 _ _ => (Side.get_ppsLock _ _ _ h4).trans (hyg g)) ?_ ?_, ?_, ?_, ?_, fun h => ?_, fun h => ?_⟩
  · rw [hn, hy]
  · rw [hn, hy]
  · rw [hn, hy]
  · rw [hn, hy]
  · rw [hn, hy]
  · obtain ⟨hr, ho⟩ := Side.ppsLock_near (x := y) (e := ppsError u) (by rw [htol]; exact h)
    rw [hr, ho, hlock, hy]
    exact ⟨rfl, rfl⟩
  · exact Side.ppsLock_far (by rw [htol]; exact h)

end

/-! ### An armed second (R176) -/

/-- R176: an edge that an armed second takes ends PPS_LOST and the arming. -/
def Side.ppsArmed (x : Side) : Side := (x.set RT_STAT.PPS_LOST 0).set RT_SET_SEC.ARM 0

/-- R176: an armed second that race time already reads only leaves its residual. -/
theorem Side.ppsAccept_armed_same {x : Side} {u : Int} (inv : Bool) (hd : x.on RT_CTRL.DISC_EN = false) (ha : x.on RT_SET_SEC.ARM = true)
    (h : (x.get RT_SET_SEC.SEC : Int) = rheP u 40) :
    x.ppsAccept u inv = (x.ppsArmed.ppsResult (ppsError u) (x.get RT_SET_SEC.SEC), false) := by
  have hb : ((x.get RT_SET_SEC.SEC : Int) != rheP u 40) = false := bne_eq_false_iff_eq.2 h
  unfold Side.ppsAccept
  simp only [hd, ha, nearSec, hb, if_true, Bool.not_false, Bool.false_eq_true, if_false]
  rfl

/-- R176: an armed second sets race time by whole seconds. -/
theorem Side.ppsAccept_armed_off {x : Side} {u : Int} (inv : Bool) (hd : x.on RT_CTRL.DISC_EN = false) (ha : x.on RT_SET_SEC.ARM = true)
    (h : (x.get RT_SET_SEC.SEC : Int) ≠ rheP u 40) : x.ppsAccept u inv
      = ((x.ppsArmed.step (((x.get RT_SET_SEC.SEC : Int) - rheP u 40) * 2 ^ 40) 1).ppsResult (ppsError u) (x.get RT_SET_SEC.SEC), true) := by
  have hb : ((x.get RT_SET_SEC.SEC : Int) != rheP u 40) = true := bne_iff_ne.2 h
  unfold Side.ppsAccept
  simp only [hd, ha, nearSec, hb, if_true, Bool.not_false]
  rfl

end Sys2Proof.Machine
end

section
/-! PROOFS. Edges of the PPS input (R173 to R177): which edges are taken, and what the instructions leave. -/

namespace Sys2Proof.Machine

/-- R181, R183: race time of an edge of the PPS input. -/
def Side.ppsStamp (x : Side) (st : SplitStamp) : Nat := x.stampTime (x.splitTime (12 + x.ipOf 6) st)

/-- R173: the edge time, its offset taken away. -/
def Side.ppsTime (x : Side) (st : SplitStamp) : Int := (x.ppsStamp st : Int) - x.getS PPS_OFFSET.OFFSET

/-- R19, R173: a base that runs takes edges of the slope PPS_FALL selects. -/
def Side.ppsTakes (x : Side) (fall : Bool) : Bool := x.islRuns (srcOf 5 6 0) && (fall == x.on RT_CTRL.PPS_FALL)

theorem Side.ppsEdge_left {x : Side} {fall : Bool} {st : SplitStamp} (h : x.ppsTakes fall = false ∨ x.isCrew = true
    ∨ (x.on RT_CTRL.DISC_EN = false ∧ x.on RT_SET_SEC.ARM = false) ∨ x.ppsStamp st < x.rt.ppsFrom) : x.ppsEdge fall st = (x, false) := by
  unfold Side.ppsEdge
  dsimp only
  refine if_pos ?_
  rcases h with h | h | ⟨hd, ha⟩ | h
  · rcases Bool.and_eq_false_iff.1 h with h | h
    · simp [rtSrc, h]
    · simp [bne, h]
  · simp [h]
  · simp [hd, ha]
  · have h' : x.stampTime (x.splitTime (2 * 6 + x.ipOf 6) st) < x.rt.ppsFrom := h
    simp [h']

section
variable {x : Side} {fall : Bool} {st : SplitStamp} (ht : x.ppsTakes fall = true) (hc : x.isCrew = false) (hf : x.rt.ppsFrom ≤ x.ppsStamp st)
include ht hc hf

/-- R174: an edge that a side takes is accepted or rejected by the window. -/
theorem Side.ppsEdge_taken (hda : (x.on RT_CTRL.DISC_EN || x.on RT_SET_SEC.ARM) = true) : x.ppsEdge fall st
    = if (x.on RT_CTRL.DISC_EN && x.rt.ppsFirst) || x.on RT_SET_SEC.ARM || (ppsError (x.ppsTime st)).natAbs ≤ x.get RT_CTRL.PPS_WIN * 2 ^ 10
      then x.ppsAccept (x.ppsTime st) (x.on SPLIT_STAT.INVALID) else (x.inc PPS_REJECT.whole, false) := by
  obtain ⟨hr, hs⟩ := Bool.and_eq_true_iff.1 ht
  have hf' : ¬x.stampTime (x.splitTime (2 * 6 + x.ipOf 6) st) < x.rt.ppsFrom := Nat.not_lt.2 hf
  unfold Side.ppsEdge
  dsimp only
  refine (if_neg ?_).trans rfl
  simp only [rtSrc, hr, hc, hda, eq_of_beq hs, bne_self_eq_false, Bool.not_true, Bool.or_self, hf', decide_false, Bool.false_eq_true,
    not_false_eq_true]

end

theorem execPpsEdge_eq (s : State) (sd : SideId) (fall : Bool) (st : SplitStamp) : exec (.ppsEdge sd ⟨fall, st⟩) s = .next
    (if ((s.side sd).ppsEdge fall st).2 then (s.setSide sd ((s.side sd).ppsEdge fall st).1).markStep
      else s.setSide sd ((s.side sd).ppsEdge fall st).1) := rfl

/-- What an edge leaves of its side's registers and race time is what `Side.ppsEdge` gives. -/
theorem ppsEdge_does {s : State} {sd : SideId} {fall : Bool} {st : SplitStamp} {r : Side × Bool} (hr : (s.side sd).ppsEdge fall st = r)
    {q : State → Prop} (hq : ∀ t : State, (t.side sd).rt = r.1.rt → (∀ g, (t.side sd).get g = r.1.get g) → q t) :
    Does (.ppsEdge sd ⟨fall, st⟩) s q := by
  refine ⟨_, execPpsEdge_eq s sd fall st, ?_⟩
  rw [hr]
  split
  · exact hq _ (by simp) (fun g => by simp)
  · exact hq _ (by simp) (fun g => by simp)

/-- R174: without an edge a disciplined side goes into holdover. -/
def Side.holdover (x : Side) : Side :=
  ((x.withRt { x.rt with p := 0, ppsLast := none, lockRun := 0 }).set RT_STAT.PPS_LOST 1).set RT_STAT.PPS_LOCK 0

theorem execPpsLost_holds {s : State} {sd : SideId} (h : ((s.side sd).on RT_CTRL.DISC_EN && !(s.side sd).isCrew && (s.side sd).islRuns rtSrc) = true) :
    exec (.ppsLost sd) s = .next (s.setSide sd (s.side sd).holdover) := by
  show execPpsLost sd s = _
  unfold execPpsLost State.mod
  simp only [if_pos h]
  rfl

theorem execPpsLost_stays {s : State} {sd : SideId}
    (h : ((s.side sd).on RT_CTRL.DISC_EN && !(s.side sd).isCrew && (s.side sd).islRuns rtSrc) = false) : exec (.ppsLost sd) s = .next s := by
  show execPpsLost sd s = _
  unfold execPpsLost State.mod
  simp only [h, Bool.false_eq_true, if_false, State.setSide_self]

theorem Side.on_holdover (x : Side) : x.holdover.on RT_STAT.PPS_LOST = true ∧ x.holdover.on RT_STAT.PPS_LOCK = false := by
  unfold Side.holdover
  refine ⟨?_, Side.on_set_zero _ _ (by decide)⟩
  rw [Side.on_set_apart _ _ _ _ (by decide), Side.on_set_one _ _ (by decide)]

theorem Side.on_ppsResult (x : Side) (e sec : Int) (g : Fld) (hl : g.idx ≠ PPS_RESID_LO.whole.idx) (hh : g.idx ≠ PPS_RESID_HI.whole.idx) :
    (x.ppsResult e sec).on g = x.on g := by
  unfold Side.on; rw [Side.get_ppsResult _ _ _ _ hl hh]

theorem Side.on_ppsArmed (x : Side) : x.ppsArmed.on RT_SET_SEC.ARM = false := Side.on_set_zero _ _ (by decide)

/-- R176: what an edge leaves that an armed second takes. -/
theorem Side.ppsAccept_second {x y : Side} (u : Int) (inv : Bool) (hd : x.on RT_CTRL.DISC_EN = false) (ha : x.on RT_SET_SEC.ARM = true)
    (hy : (x.ppsAccept u inv).1 = y) : y.on RT_SET_SEC.ARM = false ∧ y.rt.f = x.rt.f ∧ y.rt.p = x.rt.p
      ∧ ((x.get RT_SET_SEC.SEC : Int) ≠ rheP u 40 →
        y.rt.rta = (((x.rt.rta : Int) + ((x.get RT_SET_SEC.SEC : Int) - rheP u 40) * 2 ^ 64) % 2 ^ 96).toNat ∧ y.on RT_STAT.STEP_SEEN = true)
      ∧ ((x.get RT_SET_SEC.SEC : Int) = rheP u 40 → y.rt.rta = x.rt.rta) := by
  have hrt : x.ppsArmed.rt = x.rt := rfl
  by_cases h : (x.get RT_SET_SEC.SEC : Int) = rheP u 40
  · rw [Side.ppsAccept_armed_same inv hd ha h] at hy
    rw [← hy]
    refine ⟨?_, rfl, rfl, fun hn => absurd h hn, fun _ => rfl⟩
    rw [Side.on_ppsResult _ _ _ _ (by decide) (by decide), Side.on_ppsArmed]
  · rw [Side.ppsAccept_armed_off inv hd ha h] at hy
    have hyrt := (congrArg Side.rt hy).symm
    rw [Side.ppsResult_rt, Side.step_rt, hrt] at hyrt
    refine ⟨?_, by rw [hyrt], by rw [hyrt], fun _ => ⟨?_, ?_⟩, fun hn => absurd hn h⟩
    · rw [← hy, Side.on_ppsResult _ _ _ _ (by decide) (by decide),
        Side.on_step _ _ _ _ (by decide) (by decide) (by decide) (by decide) (by decide), Side.on_ppsArmed]
    · rw [hyrt]
      simp only [Int.mul_assoc]
      norm_num
    · rw [← hy, Side.on_ppsResult _ _ _ _ (by decide) (by decide), Side.on_step_seen]

/-- Settles O36: edges left aside by their conditions; those taken by the window, and by discipline or the armed second. -/
theorem ppsEdges : Obligations.PpsEdges := by
  unfold Obligations.PpsEdges
  intro s sd fall st x takes rt u sec e inWin n q
  refine ⟨fun h => ?_, fun ht hc hd ha hf => ⟨fun hfst hw => ?_, fun hw => ?_⟩, fun ht hc hd ha hf => ?_, fun hc hd hr => ?_, fun h => ?_⟩
  · rw [execPpsEdge_eq, Side.ppsEdge_left (x := s.side sd) h, State.setSide_self]
    rfl
  · have hx : x.ppsEdge fall st = (x.inc PPS_REJECT.whole, false) := by
      rw [Side.ppsEdge_taken ht hc hf (by rw [hd, Bool.true_or])]
      refine if_neg ?_
      have hw' : decide ((ppsError (x.ppsTime st)).natAbs ≤ x.get RT_CTRL.PPS_WIN * 2 ^ 10) = false := decide_eq_false hw
      rw [hd, ha, hfst, hw']
      exact Bool.false_ne_true
    rw [execPpsEdge_eq, hx]
    rfl
  · have hx : x.ppsEdge fall st = x.ppsAccept u (x.on SPLIT_STAT.INVALID) := by
      rw [Side.ppsEdge_taken ht hc hf (by rw [hd, Bool.true_or])]
      refine if_pos ?_
      rcases hw with hw | hw
      · exact Bool.or_eq_true_iff.2 (.inr (decide_eq_true hw))
      · rw [hd, hw]
        rfl
    refine ppsEdge_does hx (fun t hrt hg => ?_)
    have hon : ∀ g, (t.side sd).on g = (x.ppsAccept u (x.on SPLIT_STAT.INVALID)).1.on g := fun g => congrArg (· != 0) (hg g)
    intro y r
    simp only [y, hrt, hg, hon]
    cases hinv : x.on SPLIT_STAT.INVALID
    · rcases Nat.lt_or_ge (2 ^ x.get RT_CTRL.STEP_EXP) e.natAbs with hs | hs
      · obtain ⟨hT, hrest⟩ := Side.ppsAccept_step hd ha (u := u) hs
        exact ⟨hT.lo, hT.hi, hT.found, hT.last, hT.first, fun h => absurd h Bool.false_ne_true, fun _ _ => hrest,
          fun _ hn => absurd hs (Nat.not_lt.2 hn)⟩
      · obtain ⟨hT, hrest⟩ := Side.ppsAccept_loop hd ha (u := u) (q := q) hs rfl
        exact ⟨hT.lo, hT.hi, hT.found, hT.last, hT.first, fun h => absurd h Bool.false_ne_true, fun _ hn => absurd hn (Nat.not_lt.2 hs),
          fun _ _ => hrest⟩
    · obtain ⟨hT, hrest⟩ := Side.ppsAccept_invalid hd ha (u := u)
      exact ⟨hT.lo, hT.hi, hT.found, hT.last, hT.first, fun _ => hrest, fun h => absurd h.symm Bool.false_ne_true,
        fun h => absurd h.symm Bool.false_ne_true⟩
  · have hx : x.ppsEdge fall st = x.ppsAccept u (x.on SPLIT_STAT.INVALID) := by
      rw [Side.ppsEdge_taken ht hc hf (by rw [ha, Bool.or_true])]
      refine if_pos ?_
      rw [ha, Bool.or_true, Bool.true_or]
    refine ppsEdge_does hx (fun t hrt hg => ?_)
    have hon : ∀ g, (t.side sd).on g = (x.ppsAccept u (x.on SPLIT_STAT.INVALID)).1.on g := fun g => congrArg (· != 0) (hg g)
    simp only [hrt, hon]
    exact Side.ppsAccept_second u _ hd ha rfl
  · obtain ⟨hlost, hlock⟩ := Side.on_holdover x
    have hgo : (x.on RT_CTRL.DISC_EN && !x.isCrew && x.islRuns rtSrc) = true := by
      rw [hd, hc]
      exact hr
    refine ⟨_, execPpsLost_holds hgo, ?_⟩
    simp only [State.side_setSide, State.side_setSide_other]
    exact ⟨rfl, hlost, hlock, trivial⟩
  · refine execPpsLost_stays ?_
    rcases h with h | h | h
    · exact Bool.and_eq_false_imp.2 (fun hx => by simp [x] at h; simp [h] at hx)
    · exact Bool.and_eq_false_imp.2 (fun hx => by simp [x] at h; simp [h] at hx)
    · exact (congrArg _ h).trans (Bool.and_false _)

end Sys2Proof.Machine
end

section
/-! PROOFS. LONG instructions of the Cox cores (R10, R311, R344): loads, stores and stalls. -/

namespace Sys2Proof.Machine

/-- R344: what the core itself shows once a long operation is under way: the operation outstanding, la increased with INC, and the next
instruction. -/
def Core.longIssued (k : Core) (kind : LongKind) (o : LongArgs) (op : LongOp) (q : Core) : Core :=
  ({ q with ops := q.ops ++ [op], la := if o.inc then lset q.la o.k.val ((k.ag (16 + o.k.val) + k.longCount kind o) % 2 ^ 44) else q.la } : Core).advance

theorem longOut_eq (sd : SideId) (c : Nat) (k : Core) (kind : LongKind) (o : LongArgs) (op : LongOp) (s : State) :
    longOut sd c k kind o op s = s.mod sd (fun x => x.modCore c (k.longIssued kind o op)) := by
  unfold longOut Side.goOn
  simp only [Side.modCore_modCore]
  unfold Core.longIssued
  cases o.inc <;> rfl

/-- R340, R311: a LONG instruction that something holds leaves the state. -/
theorem State.issueLong_waits {s : State} {sd : SideId} {c : Fin 4} {kind : LongKind} {load : Bool} {o : LongArgs}
    (h : s.longWaits sd c.val kind load o = true) (i : Instr) (body : Core → State → State) : s.issueLong sd c i kind load o body = .next s := by
  unfold State.issueLong
  rw [if_pos h]

/-- The state in which a LONG instruction acts: its word fetched, and hazards past. -/
def State.issuing (s : State) (sd : SideId) (c : Fin 4) : State :=
  s.setSide sd ((s.fetched sd c).modCore c.val (fun q => { q with hz := Hazard.none }))

theorem State.issueLong_issues {s : State} {sd : SideId} {c : Fin 4} {kind : LongKind} {load : Bool} {o : LongArgs} {i : Instr}
    (hx : s.executes sd c i = true) (h : s.longWaits sd c.val kind load o = false) (body : Core → State → State) :
    s.issueLong sd c i kind load o body = .next (body ((s.side sd).coreOf c.val) (s.issuing sd c)) := by
  unfold State.issueLong
  rw [if_neg (Bool.eq_false_iff.1 h), State.issue_of_executes hx]
  rfl

/-! ### Loads -/

/-- Where a long load lands: 0 in gG, 1 in X memory, 2 in Y memory. -/
def LongKind.loadDest : LongKind → Nat
  | .word => 0
  | .blockX => 1
  | .blockY => 2

/-- The register or the local address that a long load lands at. -/
def Core.landAt (k : Core) (kind : LongKind) (o : LongArgs) : Nat :=
  match kind with
  | .word => o.g.val
  | _ => (k.g o.g.val).toNat % 2 ^ 13

/-- R344: an outstanding load. -/
def Core.loadOp (k : Core) (kind : LongKind) (o : LongArgs) (sd : SideId) (words : List Word) (status : Nat) (poison : Bool) : LongOp :=
  ⟨o.tag.val, k.ctx, kind.loadDest, k.landAt kind o, words, status, poison, devSide (k.longAddr o) != sd, k.longAddr o⟩

/-- R344: the status of a load's words. -/
theorem longStatus_load (x : Side) (sp off n : Nat) (poison : Bool) :
    (if !(List.range n).all (fun i => x.inSpace sp (off + i)) then stBadAddress else if poison then stContainsPoison else stOK)
      = if ∃ j < n, x.inSpace sp (off + j) = false then 0x2004 else if poison then 0x1002 else 0 := by
  by_cases h : ∃ j < n, x.inSpace sp (off + j) = false
  · have hall : (List.range n).all (fun i => x.inSpace sp (off + i)) = false := by
      obtain ⟨j, hj, hx⟩ := h
      exact List.all_eq_false.2 ⟨j, List.mem_range.2 hj, by simp [hx]⟩
    rw [if_pos h, hall]
    rfl
  · have hall : (List.range n).all (fun i => x.inSpace sp (off + i)) = true := by
      refine List.all_eq_true.2 (fun j hj => ?_)
      by_contra hx
      exact h ⟨j, List.mem_range.1 hj, Bool.eq_false_iff.2 hx⟩
    rw [if_neg h, hall]
    rfl

section
variable {z : State} {sd : SideId} (c : Nat) (kind : LongKind) (o : LongArgs) (k : Core)

theorem longLoad_reaches (h : z.path (devSide (k.longAddr o)) (coreMaster sd c) = .reaches) :
    let r := z.readSpan (devSide (k.longAddr o)) (coreMaster sd c) (devSpace (k.longAddr o)) (devOff (k.longAddr o)) (k.longCount kind o)
    longLoad sd c kind o k z = r.1.mod sd (fun x => x.modCore c (k.longIssued kind o (k.loadOp kind o sd r.2.1
      (if ∃ j < k.longCount kind o, (z.side (devSide (k.longAddr o))).inSpace (devSpace (k.longAddr o)) (devOff (k.longAddr o) + j) = false
        then 0x2004 else if r.2.2 then 0x1002 else 0) r.2.2))) := by
  intro r
  rw [← longStatus_load, ← longOut_eq]
  unfold longLoad Core.loadOp
  simp only [h]
  cases kind <;> rfl

theorem longLoad_keelDown (h : z.path (devSide (k.longAddr o)) (coreMaster sd c) = .keelDown) :
    longLoad sd c kind o k z = (z.keelLost (devSide (k.longAddr o)) (coreMaster sd c) false (k.longAddr o)).mod sd (fun x =>
      x.modCore c (k.longIssued kind o (k.loadOp kind o sd (List.replicate (k.longCount kind o) 0) 0x300D false))) := by
  rw [← longOut_eq]
  unfold longLoad Core.loadOp
  simp only [h]
  cases kind <;> rfl

/-! ### Stores -/

/-- R344: the words of a store, taken at issue from gG or from X or Y memory. -/
def longSource (c : Nat) (kind : LongKind) (o : LongArgs) (k : Core) (x : Side) : Side × List Word × Bool :=
  match kind with
  | .word => (x, [k.g o.g.val], false)
  | .blockX => x.dataWords c false ((k.g o.g.val).toNat % 2 ^ 13) (k.longCount kind o)
  | .blockY => x.dataWords c true ((k.g o.g.val).toNat % 2 ^ 13) (k.longCount kind o)

/-- R344: an outstanding store. -/
def Core.storeOp (k : Core) (kind : LongKind) (o : LongArgs) (sd : SideId) (status : Nat) (poison : Bool) : LongOp :=
  ⟨o.tag.val, k.ctx, if kind == .word then 3 else 4, 0, [], status, poison, devSide (k.longAddr o) != sd, k.longAddr o⟩

theorem longStore_reaches {src : Side × List Word × Bool} (hs : longSource c kind o k (z.side sd) = src)
    (h : z.path (devSide (k.longAddr o)) (coreMaster sd c) = .reaches) :
    let r := (z.setSide sd src.1).writeSpan (devSide (k.longAddr o)) (coreMaster sd c) (if devSide (k.longAddr o) = sd then portCox else portHost)
      (devSpace (k.longAddr o)) (devOff (k.longAddr o)) src.2.1
    longStore sd c kind o k z = r.1.mod sd (fun x => x.modCore c (k.longIssued kind o (k.storeOp kind o sd
      (if r.2 then 0x2004 else if src.2.2 then 0x1002 else 0) src.2.2))) := by
  intro r
  rw [← longOut_eq]
  subst hs
  unfold longStore Core.storeOp
  simp only [h, beq_iff_eq]
  cases kind <;> rfl

theorem longStore_keelDown {src : Side × List Word × Bool} (hs : longSource c kind o k (z.side sd) = src)
    (h : z.path (devSide (k.longAddr o)) (coreMaster sd c) = .keelDown) :
    longStore sd c kind o k z = ((z.setSide sd src.1).keelLost (devSide (k.longAddr o)) (coreMaster sd c) true (k.longAddr o)).mod sd (fun x =>
      x.modCore c (k.longIssued kind o (k.storeOp kind o sd 0x300D src.2.2))) := by
  rw [← longOut_eq]
  subst hs
  unfold longStore Core.storeOp
  simp only [h]
  cases kind <;> rfl

end

/-- Settles O10: a LONG instruction that stalls leaves the state; one that issues acts by the path to its target. -/
theorem longOperations : Obligations.LongOperations := by
  unfold Obligations.LongOperations
  refine ⟨?_, ?_, ?_⟩
  · intro s sd c o goes
    have hload : ∀ (i : Instr) (kind : LongKind), exec i s = s.issueLong sd c i kind true o (longLoad sd c.val kind o) →
        goes i kind kind.loadDest (fun k => k.landAt kind o) := fun i kind hi hx hw =>
      have hissue := hi.trans (State.issueLong_issues hx hw _)
      ⟨fun hp => hissue.trans (congrArg Host.Outcome.next (longLoad_reaches (z := s.issuing sd c) _ _ _ _ hp)),
        fun hp => hissue.trans (congrArg Host.Outcome.next (longLoad_keelDown (z := s.issuing sd c) _ _ _ _ hp))⟩
    exact ⟨hload _ .word rfl, hload _ .blockX rfl, hload _ .blockY rfl⟩
  · intro s sd c o goes
    have hstore : ∀ (i : Instr) (kind : LongKind) (dest : Nat) (y : Option Bool),
        exec i s = s.issueLong sd c i kind false o (longStore sd c.val kind o) → (dest = if kind == .word then 3 else 4) →
        (∀ (k : Core) (x : Side), longSource c.val kind o k x = match y with
          | none => (x, [k.g o.g.val], false)
          | some y => x.dataWords c.val y ((k.g o.g.val).toNat % 2 ^ 13) (k.longCount kind o)) → goes i kind dest y :=
      fun i kind dest y hi hd hs hx hw => by
        subst hd
        intro k z a n t src out
        have hsrc : longSource c.val kind o k (z.side sd) = src := hs k (z.side sd)
        have hissue := hi.trans (State.issueLong_issues hx hw _)
        exact ⟨fun hp => hissue.trans (congrArg Host.Outcome.next (longStore_reaches (z := s.issuing sd c) _ _ _ _ hsrc hp)),
          fun hp => hissue.trans (congrArg Host.Outcome.next (longStore_keelDown (z := s.issuing sd c) _ _ _ _ hsrc hp))⟩
    exact ⟨hstore _ .word 3 none rfl rfl (fun _ _ => rfl), hstore _ .blockX 4 (some false) rfl rfl (fun _ _ => rfl),
      hstore _ .blockY 4 (some true) rfl rfl (fun _ _ => rfl)⟩
  · intro s sd c o stays
    exact ⟨fun h => State.issueLong_waits h _ _, fun h => State.issueLong_waits h _ _, fun h => State.issueLong_waits h _ _,
      fun h => State.issueLong_waits h _ _, fun h => State.issueLong_waits h _ _, fun h => State.issueLong_waits h _ _⟩

end Sys2Proof.Machine
end

section
/-! PROOFS. A ring's next command, executed on its own side (R271 to R273): what staging it comes to, and when nothing else waits. -/

namespace Sys2Proof.Machine

/-! ### Staging -/

/-- Step 4 on the acting side: a command that is staged begins. -/
def State.begins (z : State) (sd : SideId) (st : Staged) : State :=
  if st.op == 0x01 then effFence sd st z
  else if st.op == 0x44 then stageHandover sd st (match st.bnd with | .time t => t | _ => st.texec + nsLsb 2000) z
  else if st.op == 0x61 then effStrobe sd st z
  else if st.op == 0x02 && !CmdEntry.readback st.e then z
  else match st.bnd with
    | .now => z.runStaged sd st st.texec
    | .time t => if t ≤ (z.side sd).now then z.runStaged sd st t else z
    | _ => z

/-- What a command has that a ring of its own side has staged. -/
structure Staged.fresh (st : Staged) (sd : SideId) (op : Nat) (e : CmdEntry) : Prop where
  issuer : st.issuer = sd
  op : st.op = op
  e : st.e = e

/-- R271 to R273: a command that executes is staged, and begins. -/
theorem issueCmd_of_takes {s z : State} {sd : SideId} {ring : Fin 8} {op : Nat} {e : CmdEntry} {data : DmaData} {st : Staged}
    (h : s.takes sd ring op e data = some (st, z)) : issueCmd sd ring op e data s = z.begins sd st ∧ st.fresh sd op e := by
  unfold State.takes at h
  dsimp only at h
  split at h
  case isFalse => exact absurd h (by simp)
  case isTrue hc =>
    simp only [Bool.and_eq_true, Bool.not_eq_true'] at hc
    obtain ⟨⟨⟨hready, hwait⟩, hstep⟩, hact⟩ := hc
    split at h
    case h_2 => exact absurd h (by simp)
    case h_1 ws b hws hb =>
      split at h
      case isTrue => exact absurd h (by simp)
      case isFalse hsw =>
        simp only [Option.some.injEq, Prod.mk.injEq] at h
        obtain ⟨rfl, rfl⟩ := h
        refine ⟨?_, rfl, rfl, rfl⟩
        have hst : ¬(stepOne op e != stOK) = true := by simpa using hstep
        unfold issueCmd
        simp only [hready, hwait, Bool.not_true, Bool.or_self, Bool.false_eq_true, if_false, if_neg hst, hws, hact, if_true]
        unfold State.arrive
        simp only [hb, if_neg hsw]
        unfold State.begins
        simp only [State.side_mod]
        rfl

/-! ### The one command staged -/

theorem State.takeEntry_staged (s : State) (sd : SideId) (ring : Fin 8) (w : Bool) :
    ((s.takeEntry sd ring w).side sd).host.staged = (s.side sd).host.staged := by
  have hdma : ∀ (t : State) (i j : SideId) (a : Nat) (bs : List Byte),
      ((t.mod i (fun x => { x with host := { x.host with mem := bputs x.host.mem a bs } })).side j).host.staged = (t.side j).host.staged :=
    fun t i j a bs => by cases i <;> cases j <;> rfl
  unfold State.takeEntry State.putIndex State.dmaWrite
  dsimp only
  rw [hdma, State.side_setSide]

/-- A command without operand data that is staged with nothing else staged. -/
theorem State.takesNow_staged {s z : State} {sd : SideId} {ring : Fin 8} {op : Nat} {e : CmdEntry} {data : DmaData} {st : Staged}
    (h : s.takesNow sd ring op e data st z) (hlen : operandLen op e = 0) : (z.side sd).host.staged = [st] := by
  obtain ⟨ht, -, hnil⟩ := h
  have hopd : (s.takeEntry sd ring e.wait).operand sd op e data = (s.takeEntry sd ring e.wait, .ok []) := by
    unfold State.operand
    simp only [hlen, beq_self_eq_true, if_true]
  unfold State.takes at ht
  simp only [hopd] at ht
  split at ht
  case isFalse => exact absurd ht (by simp)
  case isTrue =>
    split at ht
    case h_2 => exact absurd ht (by simp)
    case h_1 =>
      split at ht
      case isTrue => exact absurd ht (by simp)
      case isFalse =>
        simp only [Option.some.injEq, Prod.mk.injEq] at ht
        obtain ⟨rfl, rfl⟩ := ht
        rw [State.side_mod]
        simp only [State.takeEntry_staged, hnil, List.nil_append]

/-- No command staged on a side waits for its boundary. -/
def State.noneWaits (s : State) (sd : SideId) : Prop := ∀ d ∈ (s.side sd).host.staged, d.waits = false

theorem State.releaseIsland_idle {s : State} {sd : SideId} (h : s.noneWaits sd) (st : Staged) (t n : Nat) :
    State.releaseIsland sd st t n s = s := by
  have hnone : (s.side sd).host.staged.find? (fun d => d.waits && sameIsland d st) = none :=
    List.find?_eq_none.2 (fun d hd => by simp [h d hd])
  cases n with
  | zero => rfl
  | succ n =>
    unfold State.releaseIsland
    simp only [hnone]

/-- R273: the one command staged takes effect at its boundary, and no other follows it. -/
theorem State.runStaged_one {z : State} {sd : SideId} {st : Staged} {t : Nat} (hz : (z.side sd).host.staged = [st])
    (hidle : (effectOf sd st t z).noneWaits sd) : z.runStaged sd st t = effectOf sd st t z := by
  have hb : (z.side sd).behind st = false := by
    unfold Side.behind
    rw [hz]
    simp
  unfold State.runStaged
  simp only [hb, Bool.false_eq_true, if_false]
  exact State.releaseIsland_idle hidle _ _ _

/-- R273: what an IMMEDIATE command comes to that is alone on its side, and whose effect leaves no command waiting. -/
theorem issueCmd_of_takesNow {s z r : State} {sd : SideId} {ring : Fin 8} {op : Nat} {e : CmdEntry} {data : DmaData} {st : Staged}
    (h : s.takesNow sd ring op e data st z) (hlen : operandLen op e = 0) (hop : op ≠ 0x01 ∧ op ≠ 0x44 ∧ op ≠ 0x61 ∧ op ≠ 0x02)
    (heff : effectOf sd st st.texec z = r) (hidle : r.noneWaits sd) : issueCmd sd ring op e data s = r := by
  obtain ⟨hx, hf⟩ := issueCmd_of_takes h.1
  obtain ⟨h1, h44, h61, h2⟩ := hop
  have hb : z.begins sd st = z.runStaged sd st st.texec := by
    unfold State.begins
    simp only [hf.op, h.2.1, beq_eq_false_iff_ne.2 h1, beq_eq_false_iff_ne.2 h44, beq_eq_false_iff_ne.2 h61, beq_eq_false_iff_ne.2 h2,
      Bool.false_and, Bool.false_eq_true, if_false]
  rw [hx, hb, State.runStaged_one (State.takesNow_staged h hlen) (by rw [heff]; exact hidle), heff]

/-- R273 to R276: the one command staged has left its entry when it completes. -/
theorem State.noneWaits_complete {y : State} {sd : SideId} {st : Staged} (hy : (y.side sd).host.staged = [st]) (hi : st.issuer = sd)
    (code t : Nat) (r0 r1 : Int) : (y.complete sd st code t r0 r1).noneWaits sd := by
  have hun : ((y.side sd).unstage st).host.staged = [] := by
    unfold Side.unstage
    simp [hy]
  have hone : ∀ (x : Side) (id : Nat) (fl : CmdEntry) (en : Entry), x.host.staged = [] → (x.deliver st.ring id fl en).host.staged = [] :=
    fun x id fl en hx => by
      have hd : (x.deliverOne st.ring id fl en).host.staged = [] := by
        unfold Side.deliverOne
        dsimp only
        split <;> simp [hx]
      unfold Side.deliver
      dsimp only
      rw [hd]
      exact hd
  have hnil : ((y.complete sd st code t r0 r1).side sd).host.staged = [] := by
    unfold State.complete
    simp only [hi, beq_self_eq_true, if_true, State.mod_mod, State.side_mod]
    exact hone _ _ _ _ hun
  intro d hd
  rw [hnil] at hd
  exact absurd hd (List.not_mem_nil)

/-- The one command staged goes on running. -/
theorem State.noneWaits_runs {y : State} {sd : SideId} {st : Staged} (hy : (y.side sd).host.staged = [st]) (aux : List Int) :
    (y.runs sd st aux).noneWaits sd := by
  have hone : ((y.runs sd st aux).side sd).host.staged = [{ st with running := true, aux := aux }] := by
    unfold State.runs
    rw [State.side_mod]
    unfold Side.restage
    simp [hy]
  intro d hd
  rw [hone, List.mem_singleton] at hd
  rw [hd]
  rfl

/-- What runs when a command goes on. -/
theorem Side.restage_restage (x : Side) (a b : Staged) (h1 : a.id = b.id) (h2 : a.issuer = b.issuer) : (x.restage a).restage b = x.restage b := by
  have hmap : (x.host.staged.map (fun d => if d.id == a.id && d.issuer == a.issuer then a else d)).map
      (fun d => if d.id == b.id && d.issuer == b.issuer then b else d)
        = x.host.staged.map (fun d => if d.id == b.id && d.issuer == b.issuer then b else d) := by
    rw [List.map_map]
    refine List.map_congr_left (fun d _ => ?_)
    rw [Function.comp_apply, h1, h2]
    split
    · rw [h1, h2]
      simp
    · rfl
  unfold Side.restage
  simp only [hmap]

end Sys2Proof.Machine
end

section
/-! PROOFS. Island, cox, seat, calibration, strobe and display commands (R16, R33, R97, R100, R287, R379, R399, R405, R431). -/

namespace Sys2Proof.Machine

/-! ### Islands -/

/-- A condition holds of an island only if it has one. -/
theorem Side.islCond_none {x : Side} {l : Nat} (h : x.islOf l = none) (c : IslCond) : x.islCond l c = false := by
  unfold Side.islCond
  rw [h]
  rfl

theorem effQuiesce_quiesced {sd : SideId} {st : Staged} {t : Nat} {z : State} (hl : isIsland (st.e.op4 % 2 ^ 15) = true)
    (hq : (z.side sd).islCond (st.e.op4 % 2 ^ 15) .quiesced = true) : effQuiesce sd st t z = z.complete sd st 0 t 1 0 := by
  unfold effQuiesce
  simp only [hl, hq, Bool.not_true, Bool.false_eq_true, if_false, if_true]
  rfl

theorem effQuiesce_drains {sd : SideId} {st : Staged} {t : Nat} {z : State} (hl : isIsland (st.e.op4 % 2 ^ 15) = true)
    (hn : (z.side sd).islOf (st.e.op4 % 2 ^ 15) = none) (hlive : (z.side sd).islLive (st.e.op4 % 2 ^ 15) st.issuer st.e.force = false) :
    effQuiesce sd st t z = (z.mod sd (fun x => x.setIsl (st.e.op4 % 2 ^ 15) (some ⟨.draining, false, 0⟩))).runs sd st [(t : Int), 0] := by
  unfold effQuiesce
  simp only [hl, hlive, Side.islCond_none hn, Bool.not_true, Bool.false_eq_true, if_false]
  rfl

theorem effResume_quiesced {sd : SideId} {st : Staged} {t : Nat} {z : State} (hl : isIsland (st.e.op4 % 2 ^ 15) = true)
    (hq : (z.side sd).islCond (st.e.op4 % 2 ^ 15) .quiesced = true) :
    effResume sd st t z = (z.mod sd (fun x => x.islStart (st.e.op4 % 2 ^ 15))).complete sd st 0 t 0 0 := by
  unfold effResume State.mod
  simp only [hl, hq, Bool.not_true, Bool.false_eq_true, if_false, if_true]
  rfl

/-- An island that runs again leaves the host region. -/
theorem Side.islStart_host (x : Side) (l : Nat) : (x.islStart l).host = x.host := by
  unfold Side.islStart
  split
  · rfl
  · extract_lets y y'
    have hy : y'.host = x.host := by
      simp only [y']
      split
      · split <;> rfl
      · rfl
    split
    · exact hy
    · split <;> exact hy

/-! ### Handovers -/

/-- R33: a handover to the side that holds cox answers at once. -/
theorem stageHandover_held {sd : SideId} {st : Staged} {t : Nat} {z : State} (hup : z.keel.up = true)
    (hh : (z.side (coxTarget st.e)).on KEEL_COX_STAT.COX_HELD = true) : stageHandover sd st t z = z.complete sd st 0 (z.side sd).now 0 0 := by
  unfold stageHandover
  simp only [hup, hh, if_true]
  rfl

/-- R33: another that is named in time is staged. -/
theorem stageHandover_staged {sd : SideId} {st : Staged} {t : Nat} {z : State} (hup : z.keel.up = true)
    (hh : (z.side (coxTarget st.e)).on KEEL_COX_STAT.COX_HELD = false) (ht : st.texec + nsLsb 2000 ≤ t) (hr : z.keel.resolving = false) :
    stageHandover sd st t z = ({ z with keel := { z.keel with
      handover := z.keel.handover ++ [⟨coxTarget st.e, t, st.issuer, sd, st.id, false⟩] } } : State).runs sd st [(t : Int), 0] := by
  unfold stageHandover
  simp only [hup, hh, hr, if_true, Bool.false_eq_true, if_false, if_neg (Nat.not_lt.2 ht)]
  rfl

/-! ### Seats -/

/-- R97: LANE_RETIRE's seat, found active, with no job and a spare. -/
theorem effLaneRetire_spare {sd : SideId} {st : Staged} {t k n : Nat} {r : List Nat} {z : State}
    (hk : seatOfSrc (st.e.op4 % 65536) = some k) (hs : (z.side sd).seatSt k = 1) (hj : (z.side sd).jobOf k = .none)
    (hsp : (z.side sd).spares = n :: r) :
    let x := z.side sd
    let c := chanOf (x.get (SEAT_STAT.CH k))
    let slot := x.get (SEAT_STAT.SLOT k)
    let m := x.slotTurn c slot
    effLaneRetire sd st t z =
      let p := if x.mayLoad c slot then (if bitAt z.takeFree.1.toNat 0 then x.nextIn c slot + m else x.nextIn c slot, z.takeFree.2)
        else (x.nextIn c slot, z)
      (p.2.setSide sd ((x.setSeat n 3 c.n slot false).setJob k (.retire n p.1 c.n slot false st.issuer st.id)).seatFlags).runs sd st
        [(t : Int), (p.1 + 2 * m : Nat)] := by
  intro x c slot m
  unfold effLaneRetire
  simp only [hk, hs, hj, hsp, bne_self_eq_false, Bool.or_self, Bool.false_eq_true, if_false]
  rfl

theorem effLaneRetire_noSpare {sd : SideId} {st : Staged} {t k : Nat} {z : State}
    (hk : seatOfSrc (st.e.op4 % 65536) = some k) (hs : (z.side sd).seatSt k = 1) (hj : (z.side sd).jobOf k = .none)
    (hsp : (z.side sd).spares = []) : effLaneRetire sd st t z = z.complete sd st 0x4003 (z.side sd).now 0 0 := by
  unfold effLaneRetire
  simp only [hk, hs, hj, hsp, bne_self_eq_false, Bool.or_self, Bool.false_eq_true, if_false]
  rfl

/-- R97: an IMMEDIATE boundary names no channel. -/
theorem effRetire_now {sd : SideId} {st : Staged} (t : Nat) (z : State) (h : st.bnd = .now) : effRetire sd st t z = effLaneRetire sd st t z := by
  unfold effRetire
  simp only [h]

theorem effLaneReturn_begins {sd : SideId} {st : Staged} {t k : Nat} {z : State} (hk : seatOfSrc (st.e.op4 % 65536) = some k)
    (hs : (z.side sd).seatSt k = 4 ∨ (z.side sd).seatSt k = 5) (hr : (z.side sd).on (SEAT_STAT.RESET_SINCE k) = true)
    (hj : (z.side sd).jobOf k = .none) :
    effLaneReturn sd st t z = (z.setSide sd ((z.side sd).setJob k (.return st.id))).runs sd st [(t : Int), 0] := by
  have hs' : ((z.side sd).seatSt k == 4 || (z.side sd).seatSt k == 5) = true := by simpa using hs
  unfold effLaneReturn
  simp only [hk, hs', hr, hj, Bool.not_true, Bool.or_self, Bool.false_eq_true, if_false]
  rfl

/-! ### Calibration -/

/-- A mask of items names one to run. -/
theorem calOrder_ne_nil {mask : Nat} (h : mask % 32 ≠ 0) : calOrder (mask % 32) ≠ [] := by
  have hall : ∀ m : Fin 32, m.val ≠ 0 → calOrder m.val ≠ [] := by decide
  exact hall ⟨mask % 32, Nat.mod_lt _ (by decide)⟩ h

/-- Item 0 is named by bit 0. -/
theorem calOrder_not_mem_zero {mask : Nat} (h : mask % 2 = 0) : 0 ∉ calOrder (mask % 32) := by
  have hall : ∀ m : Fin 32, m.val % 2 = 0 → 0 ∉ calOrder m.val := by decide
  exact hall ⟨mask % 32, Nat.mod_lt _ (by decide)⟩ (by simp only; omega)

/-- A job with an item left to run, or to bring into force, goes on. -/
theorem State.calSettle_busy {s : State} {sd : SideId} {j : CalJob} (hj : (s.side sd).cal.job = some j) (hb : j.left ≠ [] ∨ j.waiting ≠ []) (n : Nat) :
    State.calSettle sd n s = s := by
  cases n with
  | zero => rfl
  | succ n =>
    unfold State.calSettle
    simp only [hj]
    refine if_pos ?_
    rcases hb with h | h <;> simp [h]

/-- R399: with no job and no other command staged, a calibration begins at once. -/
theorem effCal_begins {sd : SideId} {st : Staged} {t : Nat} {z : State} {j : CalJob} (hz : (z.side sd).host.staged = [st])
    (hop : st.op = 0x30 ∨ st.op = 0x31) (hc : (z.side sd).cal.job = none)
    (hj : (((z.side sd).restage { st with running := true, aux := [(t : Int), 0] }).calBegin
      { st with running := true, aux := [(t : Int), 0] }).cal.job = some j) (hb : j.left ≠ [] ∨ j.waiting ≠ []) :
    effCal sd st t z = z.setSide sd (((z.side sd).restage { st with running := true, aux := [(t : Int), 0] }).calBegin
      { st with running := true, aux := [(t : Int), 0] }) := by
  have hst : ((z.side sd).restage { st with running := true, aux := [(t : Int), 0] }).host.staged = [{ st with running := true, aux := [(t : Int), 0] }] := by
    unfold Side.restage
    simp [hz]
  have hfind : [({ st with running := true, aux := [(t : Int), 0] } : Staged)].find? (fun c =>
      (c.op == 0x30 || c.op == 0x31) && c.running && lget c.aux 1 0 == 0) = some { st with running := true, aux := [(t : Int), 0] } := by
    rw [List.find?_cons_of_pos]
    rcases hop with h | h <;> simp [h, lget]
  have hjob : ((z.side sd).restage { st with running := true, aux := [(t : Int), 0] }).cal.job = none := hc
  unfold effCal
  dsimp only
  rw [State.side_mod, hst]
  unfold State.calSettle
  simp only [List.length_singleton, State.side_mod, hjob, hst, hfind]
  rw [State.calSettle_busy (j := j) (by rw [State.side_setSide]; exact hj) hb]
  unfold State.mod
  rw [State.setSide_setSide]

theorem Side.calStages_keep (f : Nat → Side → List (Nat × Word)) (items : List Nat) (x : Side) :
    (items.foldl (fun x n => x.calStage n (f n x)) x).cal.job = x.cal.job ∧ (items.foldl (fun x n => x.calStage n (f n x)) x).host = x.host :=
  foldl_keeps (fun y => y.cal.job = x.cal.job ∧ y.host = x.host) (fun x n => x.calStage n (f n x)) (fun _ _ h => ⟨h.1, h.2⟩) items x ⟨rfl, rfl⟩

theorem Side.calBring_keep (x : Side) (item : Nat) (p : Nat → Bool) : (x.calBring item p).cal.job = x.cal.job ∧ (x.calBring item p).host = x.host := by
  have hput : ∀ l : List (Nat × Word), ∀ y : Side, (l.foldl Side.calPut y).cal.job = y.cal.job ∧ (l.foldl Side.calPut y).host = y.host := fun l y =>
    foldl_keeps (fun y' => y'.cal.job = y.cal.job ∧ y'.host = y.host) Side.calPut (fun _ _ h => by exact h) l y ⟨rfl, rfl⟩
  unfold Side.calBring
  dsimp only
  split
  · exact ⟨(hput _ x).1, (hput _ x).2⟩
  · exact ⟨(hput _ x).1, (hput _ x).2⟩

/-- A job that awaits no interpolator table is left by item 0. -/
theorem Side.calIdle_keep {x : Side} {j : CalJob} (hj : x.cal.job = some j) (h0 : 0 ∉ j.waiting) :
    x.calIdle.cal.job = some j ∧ x.calIdle.host = x.host := by
  obtain ⟨hb, hh⟩ := x.calBring_keep 0 (fun r => x.unitIdle (calUnit r))
  have harr : x.calIdle = x.calBring 0 (fun r => x.unitIdle (calUnit r)) := by
    unfold Side.calIdle Side.calArrived
    simp only [hb, hj]
    refine if_pos ?_
    simp [h0]
  rw [harr]
  exact ⟨hb.trans hj, hh⟩

/-! ### Strobes and the display -/

theorem Side.now_restage (x : Side) (c : Staged) : (x.restage c).now = x.now := rfl

/-- R378, R379: an IMMEDIATE strobe that its side fixes itself. -/
theorem effStrobe_fixed {sd : SideId} {st : Staged} {z : State} (hb : st.bnd = .now) (hl : st.e.op4 % 2 = 1 ∨ z.keel.up = false)
    (hr : z.keel.resolving = false) : effStrobe sd st z = (z.runs sd st [(((z.side sd).now + usLsb : Nat) : Int)]).mod sd (fun x =>
      x.dueStrobe (x.now + usLsb) [(st.issuer, st.id)]) := by
  have hown : (st.e.op4 % 2 == 1 || !z.keel.up) = true := by
    rcases hl with h | h <;> simp [h]
  obtain ⟨id, issuer, ring, op, e, words, bnd, texec, reached, running, awaits, aux⟩ := st
  subst hb
  unfold effStrobe
  simp only [hr, Nat.lt_irrefl, Bool.and_false, Bool.false_eq_true, if_false]
  unfold State.reqStrobe
  simp only [State.mod_keel, hown, if_true]
  unfold State.runs
  rw [State.mod_mod, State.mod_mod]
  unfold State.mod
  dsimp only
  rw [Side.now_restage]

theorem effDisplayCommit_waits {sd : SideId} {st : Staged} {t : Nat} {z : State} (hsrc : st.e.op4 % 65536 = (z.side sd).src (srcOf 4 3 0))
    (hen : (z.side sd).on SO_CTRL.EN = true) : effDisplayCommit sd st t z
      = (z.runs sd st [(t : Int), if (z.side sd).so.blank then 1 else 0]).mod sd (fun x =>
        if x.so.blank then (x.set SO_STAT.PENDING 1).set SO_STAT.LATE_COMMIT_SEEN 1 else x.set SO_STAT.PENDING 1) := by
  unfold effDisplayCommit
  simp only [hsrc, hen, bne_self_eq_false, Bool.not_true, Bool.false_eq_true, if_false]
  unfold State.runs
  rw [State.mod_mod]
  refine congrArg (z.setSide sd) ?_
  unfold Side.soRequest
  cases h : (z.side sd).so.blank <;> simp [Side.restage, h, b2n]

end Sys2Proof.Machine
end

section
/-! PROOFS. The system commands of the rings (R287): the effect of each, and that nothing staged waits behind it. -/

namespace Sys2Proof.Machine

/-- A side changed elsewhere has the same commands staged. -/
theorem State.staged_setSide {z : State} {sd : SideId} {y : Side} {l : List Staged} (hz : (z.side sd).host.staged = l)
    (hy : y.host = (z.side sd).host) : ((z.setSide sd y).side sd).host.staged = l := by
  rw [State.side_setSide, hy, hz]

theorem State.side_takeFree (z : State) (i : SideId) : z.takeFree.2.side i = z.side i := by cases i <;> rfl

section
variable {s z : State} {sd : SideId} {ring : Fin 8} {e : CmdEntry} {st : Staged}

theorem islandQuiesce_answers (h : s.takesNow sd ring 0x42 e noData st z) (hl : isIsland (e.op4 % 2 ^ 15) = true)
    (hq : (z.side sd).islCond (e.op4 % 2 ^ 15) .quiesced = true) :
    exec (.islandQuiesce sd ring e) s = .next (z.complete sd st 0 st.texec 1 0) := by
  have hst := State.takesNow_staged h rfl
  obtain ⟨-, hi, hop, rfl⟩ := issueCmd_of_takes h.1
  refine congrArg Host.Outcome.next (issueCmd_of_takesNow h rfl (by decide) ?_ (State.noneWaits_complete hst hi _ _ _ _))
  unfold effectOf
  rw [hop]
  exact effQuiesce_quiesced hl hq

theorem islandQuiesce_drains (h : s.takesNow sd ring 0x42 e noData st z) (hl : isIsland (e.op4 % 2 ^ 15) = true)
    (hn : (z.side sd).islOf (e.op4 % 2 ^ 15) = none) (hlive : (z.side sd).islLive (e.op4 % 2 ^ 15) sd e.force = false) :
    exec (.islandQuiesce sd ring e) s
      = .next ((z.mod sd (fun x => x.setIsl (e.op4 % 2 ^ 15) (some ⟨.draining, false, 0⟩))).runs sd st [(st.texec : Int), 0]) := by
  have hst := State.takesNow_staged h rfl
  obtain ⟨-, hi, hop, rfl⟩ := issueCmd_of_takes h.1
  refine congrArg Host.Outcome.next (issueCmd_of_takesNow h rfl (by decide) ?_ (State.noneWaits_runs (State.staged_setSide
    (y := (z.side sd).setIsl (st.e.op4 % 2 ^ 15) (some ⟨.draining, false, 0⟩)) hst rfl) _))
  unfold effectOf
  rw [hop]
  exact effQuiesce_drains hl hn (by rw [hi]; exact hlive)

theorem islandResume_starts (h : s.takesNow sd ring 0x43 e noData st z) (hl : isIsland (e.op4 % 2 ^ 15) = true)
    (hq : (z.side sd).islCond (e.op4 % 2 ^ 15) .quiesced = true) : exec (.islandResume sd ring e) s
      = .next ((z.mod sd (fun x => x.islStart (e.op4 % 2 ^ 15))).complete sd st 0 st.texec 0 0) := by
  have hst := State.takesNow_staged h rfl
  obtain ⟨-, hi, hop, rfl⟩ := issueCmd_of_takes h.1
  refine congrArg Host.Outcome.next (issueCmd_of_takesNow h rfl (by decide) ?_
    (State.noneWaits_complete (State.staged_setSide hst (Side.islStart_host _ (st.e.op4 % 2 ^ 15))) hi _ _ _ _))
  unfold effectOf
  rw [hop]
  exact effResume_quiesced hl hq

/-- R33: COX_HANDOVER takes its effect as it is staged. -/
theorem coxHandover_stages (h : s.takes sd ring 0x44 e noData = some (st, z)) : exec (.coxHandover sd ring e) s
    = .next (stageHandover sd st (match st.bnd with | .time t => t | _ => st.texec + nsLsb 2000) z) := by
  obtain ⟨hx, hf⟩ := issueCmd_of_takes h
  refine congrArg Host.Outcome.next (hx.trans ?_)
  unfold State.begins
  simp only [hf.op]
  rfl

theorem laneRetire_takes (h : s.takesNow sd ring 0x40 e noData st z) {r : State} (heff : effLaneRetire sd st st.texec z = r)
    (hidle : r.noneWaits sd) : exec (.laneRetire sd ring e) s = .next r := by
  obtain ⟨-, hf⟩ := issueCmd_of_takes h.1
  refine congrArg Host.Outcome.next (issueCmd_of_takesNow h rfl (by decide) ?_ hidle)
  unfold effectOf
  rw [hf.op]
  exact (effRetire_now _ _ h.2.1).trans heff

theorem laneReturn_begins {k : Nat} (h : s.takesNow sd ring 0x41 e noData st z) (hk : seatOfSrc (e.op4 % 65536) = some k)
    (hs : (z.side sd).seatSt k = 4 ∨ (z.side sd).seatSt k = 5) (hr : (z.side sd).on (SEAT_STAT.RESET_SINCE k) = true)
    (hj : (z.side sd).jobOf k = .none) : exec (.laneReturn sd ring e) s
      = .next ((z.setSide sd ((z.side sd).setJob k (.return st.id))).runs sd st [(st.texec : Int), 0]) := by
  have hst := State.takesNow_staged h rfl
  obtain ⟨-, hi, hop, rfl⟩ := issueCmd_of_takes h.1
  refine congrArg Host.Outcome.next (issueCmd_of_takesNow h rfl (by decide) ?_ (State.noneWaits_runs (State.staged_setSide
    (y := (z.side sd).setJob k (.return st.id)) hst rfl) _))
  unfold effectOf
  rw [hop]
  exact effLaneReturn_begins hk hs hr hj

/-- The one command staged, restaged as running, waits for nothing. -/
theorem Side.waits_restaged {x : Side} (hst : x.host.staged = [st]) (aux : List Int) :
    ∀ d ∈ (x.restage { st with running := true, aux := aux }).host.staged, d.waits = false := by
  unfold Side.restage
  simp only [hst, List.map_cons, List.map_nil, beq_self_eq_true, Bool.and_self, if_true, List.mem_singleton]
  rintro d rfl
  rfl

/-- A command restaged as running twice shows what it keeps last. -/
theorem Side.restage_running (x : Side) (st : Staged) (a b : List Int) :
    (x.restage { st with running := true, aux := a }).restage { st with running := true, aux := b }
      = x.restage { st with running := true, aux := b } := Side.restage_restage x _ _ rfl rfl

theorem calRun_begins (h : s.takesNow sd ring 0x30 e noData st z) (hm : e.op4 % 32 ≠ 0) (hc : (z.side sd).cal.job = none) :
    exec (.calRun sd ring e) s = .next (z.mod sd (fun x => ((x.restage { st with running := true, aux := [(st.texec : Int), 1] }).set
      CAL_STAT.RUNNING 1).setCalJob ⟨false, e.op4 % 32, false, [], sd, st.id, calOrder (e.op4 % 32), [], 0, 0, 0, 0, 0⟩)) := by
  have hst := State.takesNow_staged h rfl
  obtain ⟨-, rfl, hop, rfl⟩ := issueCmd_of_takes h.1
  have hbeg : ((z.side st.issuer).restage { st with running := true, aux := [(st.texec : Int), 0] }).calBegin
      { st with running := true, aux := [(st.texec : Int), 0] }
        = (((z.side st.issuer).restage { st with running := true, aux := [(st.texec : Int), 1] }).set CAL_STAT.RUNNING 1).setCalJob
          ⟨false, st.e.op4 % 32, false, [], st.issuer, st.id, calOrder (st.e.op4 % 32), [], 0, 0, 0, 0, 0⟩ := by
    have hrun : ¬(st.op == 0x31) = true := by rw [hop]; decide
    unfold Side.calBegin
    dsimp only
    rw [if_neg hrun]
    exact congrArg (fun y : Side => (y.set CAL_STAT.RUNNING 1).setCalJob _) (Side.restage_running _ st _ _)
  refine congrArg Host.Outcome.next (issueCmd_of_takesNow h rfl (by decide) ?_ ?_)
  · have heff : effectOf st.issuer st st.texec z = effCal st.issuer st st.texec z := by
      unfold effectOf
      rw [hop]
      rfl
    rw [heff]
    refine (effCal_begins (j := ⟨false, st.e.op4 % 32, false, [], st.issuer, st.id, calOrder (st.e.op4 % 32), [], 0, 0, 0, 0, 0⟩)
      hst (.inl hop) hc (by rw [hbeg]; rfl) (.inl (calOrder_ne_nil hm))).trans ?_
    rw [hbeg]
    rfl
  · unfold State.noneWaits
    rw [State.side_mod]
    exact Side.waits_restaged hst _

theorem calRestore_begins (h : s.takesNow sd ring 0x31 e noData st z) (hm : e.op4 % 32 ≠ 0) (h0 : e.op4 % 2 = 0)
    (hc : (z.side sd).cal.job = none) :
    exec (.calRestore sd ring e) s = .next (z.mod sd (fun x => ((calOrder (e.op4 % 32)).foldl
      (fun x n => x.calStage n ((calRegs n).map (fun r => (r, x.reg r))))
      (((x.restage { st with running := true, aux := [(st.texec : Int), 1] }).set CAL_STAT.RUNNING 1).setCalJob
        ⟨true, e.op4 % 32, false, [], sd, st.id, [], calOrder (e.op4 % 32), 0, 0, 0, 0, 0⟩)).calIdle)) := by
  have hst := State.takesNow_staged h rfl
  obtain ⟨-, rfl, hop, rfl⟩ := issueCmd_of_takes h.1
  let j : CalJob := ⟨true, st.e.op4 % 32, false, [], st.issuer, st.id, [], calOrder (st.e.op4 % 32), 0, 0, 0, 0, 0⟩
  let x1 : Side := (((z.side st.issuer).restage { st with running := true, aux := [(st.texec : Int), 1] }).set CAL_STAT.RUNNING 1).setCalJob j
  let x2 : Side := (calOrder (st.e.op4 % 32)).foldl (fun x n => x.calStage n ((calRegs n).map (fun r => (r, x.reg r)))) x1
  have hbeg : ((z.side st.issuer).restage { st with running := true, aux := [(st.texec : Int), 0] }).calBegin
      { st with running := true, aux := [(st.texec : Int), 0] } = x2.calIdle := by
    have hrestore : (st.op == 0x31) = true := by rw [hop]; decide
    unfold Side.calBegin
    dsimp only
    rw [if_pos hrestore, show lget [(st.texec : Int), 0] 0 0 = st.texec from rfl, Side.restage_running]
    rfl
  obtain ⟨hj2, hh2⟩ := Side.calStages_keep (fun n x => (calRegs n).map (fun r => (r, x.reg r))) (calOrder (st.e.op4 % 32)) x1
  obtain ⟨hj3, hh3⟩ := Side.calIdle_keep (x := x2) (j := j) hj2 (calOrder_not_mem_zero h0)
  refine congrArg Host.Outcome.next (issueCmd_of_takesNow h rfl (by decide) ?_ ?_)
  · have heff : effectOf st.issuer st st.texec z = effCal st.issuer st st.texec z := by
      unfold effectOf
      rw [hop]
      rfl
    rw [heff]
    refine (effCal_begins (j := j) hst (.inr hop) hc (by rw [hbeg]; exact hj3) (.inr (calOrder_ne_nil hm))).trans ?_
    rw [hbeg]
    rfl
  · unfold State.noneWaits
    rw [State.side_mod]
    have hhost : x2.calIdle.host = ((z.side st.issuer).restage { st with running := true, aux := [(st.texec : Int), 1] }).host := hh3.trans hh2
    show ∀ d ∈ x2.calIdle.host.staged, d.waits = false
    rw [hhost]
    exact Side.waits_restaged hst _

theorem strobe_fixes (h : s.takesNow sd ring 0x61 e noData st z) (hl : e.op4 % 2 = 1 ∨ z.keel.up = false) (hr : z.keel.resolving = false) :
    exec (.strobe sd ring e) s = .next ((z.runs sd st [(((z.side sd).now + usLsb : Nat) : Int)]).mod sd (fun x =>
      x.dueStrobe (x.now + usLsb) [(sd, st.id)])) := by
  obtain ⟨hx, hi, hop, rfl⟩ := issueCmd_of_takes h.1
  refine congrArg Host.Outcome.next (hx.trans ?_)
  have hb : z.begins sd st = effStrobe sd st z := by
    unfold State.begins
    simp [hop]
  rw [hb, effStrobe_fixed h.2.1 hl hr, hi]

theorem displayCommit_waits (h : s.takesNow sd ring 0x70 e noData st z) (hsrc : e.op4 % 65536 = (z.side sd).src (srcOf 4 3 0))
    (hen : (z.side sd).on SO_CTRL.EN = true) : exec (.displayCommit sd ring e) s
      = .next ((z.runs sd st [(st.texec : Int), if (z.side sd).so.blank then 1 else 0]).mod sd (fun x =>
        if x.so.blank then (x.set SO_STAT.PENDING 1).set SO_STAT.LATE_COMMIT_SEEN 1 else x.set SO_STAT.PENDING 1)) := by
  have hst := State.takesNow_staged h rfl
  obtain ⟨-, hi, hop, rfl⟩ := issueCmd_of_takes h.1
  refine congrArg Host.Outcome.next (issueCmd_of_takesNow h rfl (by decide) ?_ ?_)
  · unfold effectOf
    rw [hop]
    exact effDisplayCommit_waits hsrc hen
  · unfold State.noneWaits State.runs
    have hreq : ∀ y : Side, (if y.so.blank then (y.set SO_STAT.PENDING 1).set SO_STAT.LATE_COMMIT_SEEN 1 else y.set SO_STAT.PENDING 1).host = y.host :=
      fun y => by split <;> rfl
    rw [State.side_mod, State.side_mod, hreq]
    exact Side.waits_restaged hst _

end

/-- Settles O26: each command by what it comes to once staged, its effect by the case its conditions choose. -/
theorem ringSystem : Obligations.RingSystem := by
  unfold Obligations.RingSystem
  intro s sd ring e st z x t l
  refine ⟨fun h hl => ⟨islandQuiesce_answers h hl, islandQuiesce_drains h hl⟩, islandResume_starts, fun h hup => ?_, fun h k n r hk hs hj hsp => ?_,
    fun h k hk hs hj hsp => ?_, fun h k hk hs hr hj => laneReturn_begins h hk hs hr hj, calRun_begins, calRestore_begins, strobe_fixes,
    displayCommit_waits⟩
  · obtain ⟨-, hi, -, rfl⟩ := issueCmd_of_takes h
    rw [coxHandover_stages h]
    refine ⟨fun hh => congrArg _ (stageHandover_held hup hh), fun T hb hT hh hr => congrArg _ ?_⟩
    rw [hb]
    refine (stageHandover_staged hup hh hT hr).trans ?_
    rw [hi]
  · have hst := State.takesNow_staged h rfl
    obtain ⟨-, hi, -, rfl⟩ := issueCmd_of_takes h.1
    have heff := effLaneRetire_spare (t := st.texec) hk hs hj hsp
    dsimp only at heff
    rw [hi] at heff
    intro c slot m done
    have hdone : ∀ (y : State) (km : Nat), y.side sd = x → effLaneRetire sd st st.texec z
        = (y.setSide sd ((x.setSeat n 3 c.n slot false).setJob k (.retire n km c.n slot false sd st.id)).seatFlags).runs sd st
          [(st.texec : Int), (km + 2 * m : Nat)] → done y km := fun y km hy he =>
      laneRetire_takes h he (State.noneWaits_runs (State.staged_setSide (by rw [hy]; exact hst) (by rw [hy]; rfl)) _)
    refine ⟨fun hm => hdone z _ rfl ?_, fun hm => ?_⟩
    · rw [heff, if_neg (Bool.eq_false_iff.1 hm)]
    · rw [if_pos hm] at heff
      refine ⟨_, ?_, hdone _ _ (State.side_takeFree z sd) heff⟩
      dsimp only
      split
      · exact .inr rfl
      · exact .inl rfl
  · have hst := State.takesNow_staged h rfl
    obtain ⟨-, hi, -, rfl⟩ := issueCmd_of_takes h.1
    exact laneRetire_takes h (effLaneRetire_noSpare hk hs hj hsp) (State.noneWaits_complete hst hi _ _ _ _)

end Sys2Proof.Machine
end

section
/-! PROOFS. PERST_N on a side (R260): its commands leave staging, its host region starts afresh. -/

namespace Sys2Proof.Machine

/-! ### Commands that a side's rings carried -/

/-- A DENSITY_READ of a side's rings is forgotten by a channel's density engine. -/
def Side.forgetCopy (x : Side) (sd : SideId) (c : Chan) : Side :=
  match (x.densOf c).copy with
  | some k => if k.issuer == sd then (x.setDens c { x.densOf c with copy := none }).drop (DENS_STAT.COPYING c.n) else x
  | none => x

/-- The commands of a side's rings leave a side's staging entries. -/
def Side.dropStaged (x : Side) (sd : SideId) : Side :=
  { x with host := { x.host with staged := x.host.staged.filter (fun c => c.issuer != sd) } }

/-- A side without the commands of a side's rings. -/
def Side.forgetIssued (x : Side) (sd : SideId) : Side := ((x.dropStaged sd).forgetCopy sd .c0).forgetCopy sd .c1

theorem State.side_dropIssued (s : State) (sd i : SideId) : (s.dropIssued sd).side i = (s.side i).forgetIssued sd := by
  cases i <;> rfl

/-- Forgetting a copy touches registers and density engines only. -/
theorem Side.forgetCopy_eq (x : Side) (sd : SideId) (c : Chan) : ∃ r d, x.forgetCopy sd c = { x with regs := r, dens := d } := by
  unfold Side.forgetCopy
  split
  · split
    · exact ⟨_, _, rfl⟩
    · exact ⟨_, _, rfl⟩
  · exact ⟨_, _, rfl⟩

theorem Side.forgetIssued_eq (x : Side) (sd : SideId) : ∃ r d, x.forgetIssued sd
    = { x with regs := r, dens := d, host := { x.host with staged := x.host.staged.filter (fun c => c.issuer != sd) } } := by
  unfold Side.forgetIssued
  obtain ⟨r, d, h⟩ := (x.dropStaged sd).forgetCopy_eq sd .c0
  obtain ⟨r', d', h'⟩ := ((x.dropStaged sd).forgetCopy sd .c0).forgetCopy_eq sd .c1
  rw [h', h]
  exact ⟨r', d', rfl⟩

/-- A channel's engine holds no copy of a side's rings. -/
@[reducible] def Dens.noCopyOf (d : Dens) (sd : SideId) : Prop := ∀ k, d.copy = some k → k.issuer ≠ sd

theorem Side.forgetCopy_of_noCopy {x : Side} {sd : SideId} {c : Chan} (h : (x.densOf c).noCopyOf sd) : x.forgetCopy sd c = x := by
  unfold Side.forgetCopy
  split
  · next k hk => rw [if_neg (by simpa using h k hk)]
  · rfl

/-- A channel's engine lies in the list of engines, or is an engine at rest. -/
theorem Side.densOf_noCopy {x : Side} {sd : SideId} (h : ∀ k, ¬(x.dens.any (fun d => d.copy == some k) = true ∧ k.issuer = sd)) (c : Chan) :
    (x.densOf c).noCopyOf sd := by
  intro k hk hi
  refine h k ⟨?_, hi⟩
  unfold Side.densOf lget at hk
  cases hc : x.dens[c.n]? with
  | none => rw [hc] at hk; exact absurd hk (by simp [Dens.init])
  | some d =>
    rw [hc] at hk
    exact List.any_eq_true.2 ⟨d, List.mem_of_getElem? hc, by simpa using hk⟩

theorem Side.forgetIssued_regs {x : Side} {sd : SideId} (h : ∀ k, ¬(x.dens.any (fun d => d.copy == some k) = true ∧ k.issuer = sd)) :
    (x.forgetIssued sd).regs = x.regs := by
  have hc : ∀ c, (x.dropStaged sd).forgetCopy sd c = x.dropStaged sd := fun c => Side.forgetCopy_of_noCopy (Side.densOf_noCopy h c)
  unfold Side.forgetIssued
  rw [hc .c0, hc .c1]
  rfl

/-- After it the channel's own engine holds no copy of the side's rings, and the other is as before. -/
theorem Side.forgetCopy_dens (x : Side) (sd : SideId) (c : Chan) (hc : c.n < x.dens.length) :
    ∃ d : Dens, d.noCopyOf sd ∧ (x.forgetCopy sd c).dens = lset x.dens c.n d := by
  have hself : x.dens = lset x.dens c.n (x.densOf c) := by simp [lset, Side.densOf, lget, List.getElem?_eq_getElem hc]
  unfold Side.forgetCopy
  split
  · next k hk =>
    split
    · exact ⟨{ x.densOf c with copy := none }, fun _ h => by simp at h, rfl⟩
    · next hi => exact ⟨x.densOf c, fun j hj => by cases hk.symm.trans hj; simpa using hi, hself⟩
  · next hk => exact ⟨x.densOf c, fun j hj => absurd (hk.symm.trans hj) nofun, hself⟩

/-- The two engines hold no copy of the side's rings any more. -/
theorem Side.forgetIssued_noCopy (x : Side) (sd : SideId) (h : x.dens.length = 2) (k : DensCopy) :
    ¬((x.forgetIssued sd).dens.any (fun d => d.copy == some k) = true ∧ k.issuer = sd) := by
  obtain ⟨a, b, hab⟩ := List.length_eq_two.1 h
  unfold Side.forgetIssued
  have hs : (x.dropStaged sd).dens = [a, b] := hab
  obtain ⟨d, hd, he⟩ := (x.dropStaged sd).forgetCopy_dens sd .c0 (by simp [Chan.n, hs])
  obtain ⟨d', hd', he'⟩ := ((x.dropStaged sd).forgetCopy sd .c0).forgetCopy_dens sd .c1 (by rw [he]; simp [Chan.n, hs, lset])
  rw [he', he, hs]
  rintro ⟨hany, hi⟩
  simp only [lset, Chan.n, List.set_cons_zero, List.set_cons_succ, List.any_cons, List.any_nil, Bool.or_false, Bool.or_eq_true,
    beq_iff_eq] at hany
  rcases hany with hk | hk
  · exact hd k hk hi
  · exact hd' k hk hi

/-! ### The host region -/

/-- A record cut short changes the acquisition of its channel only. -/
theorem Side.cutDrain_eq (x : Side) (c : Chan) : ∃ a, x.cutDrain c = { x with acq := a } := by
  unfold Side.cutDrain
  dsimp only
  split
  · split
    · exact ⟨_, rfl⟩
    · exact ⟨_, rfl⟩
  · exact ⟨_, rfl⟩

/-- Registers of the host, ring and stream blocks. -/
def hostRegion (i : Nat) : Bool := (decide (0x1000 ≤ i) && decide (i ≤ 0x2FFF)) || (decide (0x9040 ≤ i) && decide (i ≤ 0x907F))

/-- R260: what PERST_N makes of a side: the host's registers, rings, streams, table and log start afresh. -/
theorem Side.hostReset_eq (x : Side) : ∃ a, ((x.ringsReset.formatterReset).pcieReset).dropRegs 0x1000 0x1FFF
    = { x with
        regs := x.regs.filter (fun p => !hostRegion p.1)
        strm := List.replicate 16 Strm.init
        acq := a
        host := { HostSide.init with
          nextId := x.host.nextId, staged := x.host.staged, mem := x.host.mem, msi := x.host.msi } } := by
  unfold Side.formatterReset
  obtain ⟨a, ha⟩ := Side.cutDrain_eq (({ x.ringsReset with strm := List.replicate 16 Strm.init } : Side).dropRegs 0x9040 0x907F) .c0
  obtain ⟨a', ha'⟩ := Side.cutDrain_eq
    ((({ x.ringsReset with strm := List.replicate 16 Strm.init } : Side).dropRegs 0x9040 0x907F).cutDrain .c0) .c1
  rw [ha', ha]
  refine ⟨a', ?_⟩
  have hregs : (((x.regs.filter (fun p => decide (p.1 < 0x2000 ∨ 0x2FFF < p.1))).filter (fun p => decide (p.1 < 0x9040 ∨ 0x907F < p.1))).filter
      (fun p => decide (p.1 < 0x1000 ∨ 0x1FFF < p.1))) = x.regs.filter (fun p => !hostRegion p.1) := by
    rw [List.filter_filter, List.filter_filter]
    refine List.filter_congr fun p _ => ?_
    rw [Bool.eq_iff_iff]
    simp only [hostRegion, Bool.and_eq_true, Bool.not_eq_true', Bool.or_eq_false_iff, Bool.and_eq_false_iff, decide_eq_true_eq,
      decide_eq_false_iff_not]
    omega
  unfold Side.pcieReset Side.ringsReset Side.dropRegs
  dsimp only
  rw [hregs]
  rfl

theorem State.side_perst (s : State) (sd : SideId) : (s.perst sd).side sd
    = ((((s.side sd).forgetIssued sd).ringsReset.formatterReset).pcieReset).dropRegs 0x1000 0x1FFF := by
  unfold State.perst
  rw [State.side_mod, State.side_keel, State.side_dropIssued]

theorem State.side_perst_other (s : State) (sd : SideId) : (s.perst sd).side sd.other = (s.side sd.other).forgetIssued sd := by
  unfold State.perst
  rw [State.side_mod_other, State.side_keel, State.side_dropIssued]

/-- On each side every command that stays staged was carried by a ring of the other side. -/
theorem State.perst_staged (s : State) (sd i : SideId) :
    ((s.perst sd).side i).host.staged = (s.side i).host.staged.filter (fun c => c.issuer != sd) := by
  obtain ⟨r, d, h⟩ := Side.forgetIssued_eq (s.side i) sd
  by_cases hi : i = sd
  · subst hi
    obtain ⟨a, e⟩ := Side.hostReset_eq ((s.side i).forgetIssued i)
    rw [State.side_perst, e, h]
  · rw [SideId.eq_other_of_ne hi] at h ⊢
    rw [State.side_perst_other, h]

/-- R260: what PERST_N leaves of its side. -/
theorem State.perst_eq (s : State) (sd : SideId) : ∃ a d, (s.perst sd).side sd
    = { s.side sd with
        regs := ((s.side sd).forgetIssued sd).regs.filter (fun p => !hostRegion p.1)
        strm := List.replicate 16 Strm.init
        acq := a
        dens := d
        host := { HostSide.init with
          nextId := (s.side sd).host.nextId, staged := (s.side sd).host.staged.filter (fun c => c.issuer != sd)
          mem := (s.side sd).host.mem, msi := (s.side sd).host.msi } }
    ∧ d = ((s.side sd).forgetIssued sd).dens := by
  obtain ⟨a, e⟩ := Side.hostReset_eq ((s.side sd).forgetIssued sd)
  obtain ⟨r, d, h⟩ := Side.forgetIssued_eq (s.side sd) sd
  refine ⟨a, d, ?_, by rw [h]⟩
  rw [State.side_perst, e, h]

end Sys2Proof.Machine
end

section
/-! PROOFS. TLPs of an endpoint outside the windows (R244 to R248): slots of BAR0, the MSI-X table, configuration space. -/

namespace Sys2Proof.Machine

/-! ### The endpoint -/

/-- A side's PCIe function is its own side's master, from either side. -/
@[simp] theorem masterSide_pcie (i sd : SideId) : masterSide i sd.n = sd := by cases i <;> cases sd <;> rfl

theorem SideId.n_lt_two (sd : SideId) : sd.n < 2 := by cases sd <;> decide

/-- The endpoint of a side that is not held carries accesses. -/
@[reducible] def State.linkUp (s : State) (sd : SideId) : Prop :=
  s.held = false ∧ (s.side sd).on HOST_STAT.LINK_UP = true ∧ (s.side sd).islTakes (srcOf 4 0 0) = true

theorem State.linkUp_iff (s : State) (sd : SideId) : s.linkUp sd ↔ (s.held || !s.endpointUp sd) = false := by
  simp [State.linkUp, State.endpointUp, pcieSrc]

theorem State.not_linkUp_iff (s : State) (sd : SideId) : ¬s.linkUp sd ↔ (s.held || !s.endpointUp sd) = true := by
  rw [State.linkUp_iff, Bool.not_eq_false]

/-- The function of an endpoint that carries nothing makes no access. -/
theorem State.path_of_linkDown {s : State} {sd : SideId} (h : (s.held || !s.endpointUp sd) = true) (i : SideId) : s.path i sd.n = .none := by
  have hm : decide (sd.n < 2) = true := decide_eq_true (SideId.n_lt_two sd)
  simp only [State.path, masterSide_pcie, hm, Bool.true_and, h, if_true]

/-- It reaches its own side. -/
theorem State.path_own {s : State} {sd : SideId} (h : (s.held || !s.endpointUp sd) = false) : s.path sd sd.n = .reaches := by
  have hm : decide (sd.n < 2) = true := decide_eq_true (SideId.n_lt_two sd)
  simp only [State.path, masterSide_pcie, hm, Bool.true_and, h, bne_self_eq_false, Bool.false_and, Bool.false_eq_true, if_false]

/-! ### BAR0 (R40, R246) -/

theorem bitAt_div (n k j : Nat) : bitAt (n / 2 ^ k) j = bitAt n (k + j) := by
  unfold bitAt
  rw [Nat.div_div_eq_div_mul, ← pow_add]

/-- R40: bit 23 of an offset of BAR0 names the side. -/
theorem barSide_slot (o : Nat) : barSide (o / 8) = SideId.ofBit (bitAt o 23) := by
  unfold barSide
  rw [show (8 : Nat) = 2 ^ 3 from rfl, bitAt_div]

/-- R246: a read TLP of one slot reads its register. -/
theorem State.barRead_slot (s : State) (sd : SideId) {o : Nat} (h8 : o % 8 = 0) (ho : o < 2 ^ 24) :
    s.barRead sd o 8 = s.busReadCmd (SideId.ofBit (bitAt o 23)) sd.n 2 (o / 8 % 2 ^ 20) := by
  have hn : min ((o + 8 - 1) / 8 + 1) (2 ^ 21) - o / 8 = 1 := by omega
  have hr : barIdx (o / 8) < 2 ^ 20 := Nat.mod_lt _ (by decide)
  change _ = s.busReadCmd _ _ _ (barIdx (o / 8))
  unfold State.barRead State.busReadCmd
  dsimp only
  rw [barSide_slot]
  split
  · rfl
  · simp only [hn, beq_iff_eq, OfNat.ofNat_ne_zero, if_false, List.replicate_one]
  · simp only [hn, beq_iff_eq, OfNat.ofNat_ne_zero, if_false, Side.spaceWaits_regs, List.range_one, List.foldl_cons, List.foldl_nil,
      List.nil_append, Nat.add_zero, State.readLogged_reg _ _ _ hr, State.readEp]
    cases (s.side (SideId.ofBit (bitAt o 23))).islTakes busSrc <;> simp

/-- R246: a write TLP of eight bytes from a slot on is one slot's write. -/
theorem barSlots_slot (k : Nat) {bytes : List (Option Byte)} (hl : bytes.length = 8) :
    barSlots (8 * k) bytes = [(k, slotWord bytes, slotBe bytes)] := by
  have hlt : ∀ p ∈ bytes.zipIdx, p.2 < 8 := fun p hp => by have := List.snd_lt_of_mem_zipIdx hp; omega
  have hd : ∀ p ∈ bytes.zipIdx, (8 * k + p.2) / 8 = k := fun p hp => by have := hlt p hp; omega
  have hm : ∀ p ∈ bytes.zipIdx, (8 * k + p.2) % 8 = p.2 := fun p hp => by have := hlt p hp; omega
  have hfold : ∀ (f : Option Byte → Nat) (b : Nat), bytes.zipIdx.foldl (fun a p => a + f p.1 * b ^ ((8 * k + p.2) % 8)) 0
      = bytes.zipIdx.foldl (fun a p => a + f p.1 * b ^ p.2) 0 := fun f b =>
    List.foldl_ext _ _ 0 fun a p hp => by rw [hm p hp]
  have hkeys : (bytes.zipIdx.map (fun p => (8 * k + p.2, p.1))).map (fun p => p.1 / 8) = List.replicate 8 k := by
    rw [List.map_map, List.eq_replicate_iff]
    exact ⟨by simp [hl], fun b hb => by obtain ⟨p, hp, rfl⟩ := List.mem_map.1 hb; exact hd p hp⟩
  have hown : (bytes.zipIdx.map (fun p => (8 * k + p.2, p.1))).filter (fun p => p.1 / 8 == k) = bytes.zipIdx.map (fun p => (8 * k + p.2, p.1)) := by
    rw [List.filter_eq_self]
    intro q hq
    obtain ⟨p, hp, rfl⟩ := List.mem_map.1 hq
    exact beq_iff_eq.2 (hd p hp)
  have hone : dedup (List.replicate 8 k) = [k] := by simp [dedup, List.replicate]
  have htake : bytes.take 8 = bytes := List.take_of_length_le hl.le
  unfold barSlots slotWord slotBe
  dsimp only
  rw [hkeys, hone, List.map_singleton, hown, htake, List.foldl_map, List.foldl_map]
  exact congrArg₂ (fun u v => [(k, wordN u, v)]) (hfold (fun b => b.elim 0 (·.toNat)) 256) (hfold (fun b => b2n b.isSome) 2)

/-- Bits from 36 on do not reach a word. -/
theorem wordN_add_mul (a k : Nat) : wordN (a + 2 ^ 36 * k) = wordN a := by
  apply BitVec.eq_of_toNat_eq
  simp only [wordN, BitVec.toNat_ofNat, Nat.add_mul_mod_self_left]

/-- Eight bytes weighted by their place. -/
theorem foldl_bytes_weighted (w : Nat → Nat) (b0 b1 b2 b3 b4 b5 b6 b7 : Byte) :
    ([b0, b1, b2, b3, b4, b5, b6, b7].map some).zipIdx.foldl (fun a p => a + (p.1.elim 0 (·.toNat)) * w p.2) 0
      = b0.toNat * w 0 + b1.toNat * w 1 + b2.toNat * w 2 + b3.toNat * w 3 + b4.toNat * w 4
        + (b5.toNat * w 5 + b6.toNat * w 6 + b7.toNat * w 7) := by
  simp [List.zipIdx, Nat.add_assoc]

/-- R246: the word is the low five bytes. -/
theorem slotWord_eq (b0 b1 b2 b3 b4 b5 b6 b7 : Byte) : slotWord ([b0, b1, b2, b3, b4, b5, b6, b7].map some)
    = wordN (b0.toNat + b1.toNat * 2 ^ 8 + b2.toNat * 2 ^ 16 + b3.toNat * 2 ^ 24 + b4.toNat * 2 ^ 32) := by
  have hw : ∀ i, (256 : Nat) ^ i = 2 ^ (8 * i) := fun i => (pow_mul 2 8 i).symm
  have h5 : (2 : Nat) ^ (8 * 5) = 2 ^ 36 * 2 ^ 4 := pow_add 2 36 4
  have h6 : (2 : Nat) ^ (8 * 6) = 2 ^ 36 * 2 ^ 12 := pow_add 2 36 12
  have h7 : (2 : Nat) ^ (8 * 7) = 2 ^ 36 * 2 ^ 20 := pow_add 2 36 20
  have hhigh : ∀ M x y z a b c : Nat, a * (M * x) + b * (M * y) + c * (M * z) = M * (a * x + b * y + c * z) := by intros; ring
  unfold slotWord
  rw [List.take_of_length_le (by simp), foldl_bytes_weighted (fun i => 256 ^ i)]
  simp only [hw]
  rw [h5, h6, h7, hhigh, wordN_add_mul, Nat.mul_zero, pow_zero, Nat.mul_one]
/-- R246: a write TLP of one slot writes its register. -/
theorem State.barWrite_slot (s : State) (sd : SideId) {o : Nat} (h8 : o % 8 = 0) {bytes : List (Option Byte)} (hl : bytes.length = 8) :
    State.barWrite sd (barSlots o bytes) s = s.busWriteBy (SideId.ofBit (bitAt o 23)) sd.n (o / 8 % 2 ^ 20)
      (fun s => s.regWriteBe (SideId.ofBit (bitAt o 23)) sd.n (o / 8 % 2 ^ 20) (slotWord bytes) (slotBe bytes)) := by
  have ho : o = 8 * (o / 8) := by omega
  rw [ho, barSlots_slot (o / 8) hl, ← ho, ← barSide_slot]
  rfl

/-! ### BAR4 (R244, R281) -/

/-- R244: the four doublewords of an entry of the MSI-X table. -/
theorem HostSide.bar4Word_entry (h : HostSide) (v : Fin 64) :
    (List.range 4).map (fun i => wordN (h.bar4Word (4 * (4 * v.val + i))))
      = (let e := lget h.msix v.val ⟨0, 0, true⟩
        [wordN (e.addr.toNat % 2 ^ 32), wordN (e.addr.toNat / 2 ^ 32), wordN e.data.toNat, wordN (b2n e.mask)]) := by
  have hv := v.isLt
  have hlt : ∀ i < 4, 4 * (4 * v.val + i) < 1024 := by omega
  have hd : ∀ i < 4, 4 * (4 * v.val + i) / 16 = v.val := by omega
  have hw : ∀ i < 4, 4 * (4 * v.val + i) / 4 % 4 = i := by omega
  simp only [HostSide.bar4Word, List.range, List.range.loop, List.map_cons, List.map_nil, hlt, hd, hw, if_true, Nat.zero_lt_succ,
    Nat.one_lt_succ_succ, Nat.reduceLT]

/-- R281: a vector whose mask is cleared is sent where it was pending. -/
theorem HostSide.bar4Write_unmask (h : HostSide) (v : Fin 64) (hl : h.msix.length = 64) :
    h.bar4Write (16 * v.val + 12) [some 0]
      = (let e := lget h.msix v.val ⟨0, 0, true⟩
        let on := lset h.msix v.val { e with mask := false }
        if h.pba.contains v.val = true
          then { h with msix := on, pba := h.pba.filter (· != v.val), msi := h.msi ++ [⟨v.val, e.addr, e.data⟩] }
          else { h with msix := on }) := by
  have hv := v.isLt
  have ho : 16 * v.val + 12 < 1024 := by omega
  have hd : (16 * v.val + 12) / 16 = v.val := by omega
  have hm : (16 * v.val + 12) % 16 = 12 := by omega
  have hz : BitVec.getLsbD (0 : Byte) 0 = false := rfl
  have hg : ∀ e, lget (lset h.msix v.val e) v.val ⟨0, 0, true⟩ = e := fun e => lget_lset_self _ _ _ _ (by omega)
  simp only [HostSide.bar4Write, List.zipIdx_cons, List.zipIdx_nil, List.foldl_cons, List.foldl_nil, Nat.add_zero, HostSide.bar4Byte, ho, hd, hm,
    if_true, HostSide.sendVec, hg, hz, Nat.reduceLT, if_false, lt_self_iff_false, beq_self_eq_true, Bool.not_false, Bool.true_and, Bool.false_eq_true]

end Sys2Proof.Machine
end

section
/-! PROOFS. Windows (R253 to R257): merge units, a whole word written to the side's own SRAM, words read from its own DRAM. -/

namespace Sys2Proof.Machine

/-! ### The access-error log (R261) -/

/-- One side differs from another in registers only. -/
def Side.regsOf (x y : Side) : Prop := ∃ r, y = { x with regs := r }

theorem Side.regsOf_refl (x : Side) : x.regsOf x := ⟨x.regs, rfl⟩

theorem Side.regsOf_set {x y : Side} (h : x.regsOf y) (f : Fld) (v : Nat) : x.regsOf (y.set f v) := by
  obtain ⟨r, rfl⟩ := h
  exact ⟨_, rfl⟩

/-- A logged access touches registers only. -/
theorem Side.accErr_eq (x : Side) (cause m : Nat) (w : Bool) (a : Nat) : ∃ r, x.accErr cause m w a = { x with regs := r } := by
  have hentry : ∀ y, x.regsOf y → x.regsOf
      ((((((y.set ACC_ERR_LO.ADDR_LO (a % 2 ^ 36)).set ACC_ERR_HI.ADDR_HI (a / 2 ^ 36)).set ACC_ERR_HI.CAUSE cause).set ACC_ERR_HI.MASTER m).set
        ACC_ERR_HI.WRITE (b2n w)).set ACC_ERR_HI.VALID 1) := fun y h =>
    Side.regsOf_set (Side.regsOf_set (Side.regsOf_set (Side.regsOf_set (Side.regsOf_set (Side.regsOf_set h ..) ..) ..) ..) ..) ..
  have hseen : x.regsOf ((x.inc ACC_ERR_COUNT.whole).set HOST_STAT.ERR_SEEN 1) := Side.regsOf_set (Side.regsOf_set x.regsOf_refl ..) ..
  have hearly := Side.regsOf_set hseen HOST_STAT.ACCESS_BEFORE_READY 1
  show x.regsOf (x.accErr cause m w a)
  unfold Side.accErr Side.put Side.raise
  dsimp only
  split <;> split
  · exact hearly
  · exact hentry _ hearly
  · exact hseen
  · exact hentry _ hseen

/-- The entry of the log takes no other register than its own two. -/
theorem Side.get_accEntry (x : Side) (cause m : Nat) (w : Bool) (a : Nat) (g : Fld) (hl : g.idx ≠ 0x1006) (hh : g.idx ≠ 0x1007) :
    ((((((x.set ACC_ERR_LO.ADDR_LO (a % 2 ^ 36)).set ACC_ERR_HI.ADDR_HI (a / 2 ^ 36)).set ACC_ERR_HI.CAUSE cause).set ACC_ERR_HI.MASTER m).put
      ACC_ERR_HI.WRITE w).raise ACC_ERR_HI.VALID).get g = x.get g := by
  unfold Side.raise Side.put
  rw [Side.get_set_apart _ _ _ _ (.inl hh), Side.get_set_apart _ _ _ _ (.inl hh), Side.get_set_apart _ _ _ _ (.inl hh),
    Side.get_set_apart _ _ _ _ (.inl hh), Side.get_set_apart _ _ _ _ (.inl hh), Side.get_set_apart _ _ _ _ (.inl hl)]

/-- R261: a field that is neither of the log nor one of its two flags sees only the count. -/
theorem Side.get_accErr (x : Side) (cause m : Nat) (w : Bool) (a : Nat) (g : Fld) (hl : g.idx ≠ 0x1006) (hh : g.idx ≠ 0x1007)
    (hs : g.idx ≠ 0x1001) : (x.accErr cause m w a).get g = (x.inc ACC_ERR_COUNT.whole).get g := by
  have hr : ∀ y : Side, (y.raise HOST_STAT.ERR_SEEN).get g = y.get g := fun y => Side.get_set_apart _ _ _ _ (.inl hs)
  have he : ∀ y : Side, (y.raise HOST_STAT.ACCESS_BEFORE_READY).get g = y.get g := fun y => Side.get_set_apart _ _ _ _ (.inl hs)
  unfold Side.accErr
  dsimp only
  split <;> split <;> simp only [Side.get_accEntry _ _ _ _ _ g hl hh, he, hr]

/-- R261: a logged access is counted. -/
theorem Side.get_accErr_count (x : Side) (cause m : Nat) (w : Bool) (a : Nat) :
    (x.accErr cause m w a).get ACC_ERR_COUNT.whole = min (x.get ACC_ERR_COUNT.whole + 1) (2 ^ 36 - 1) := by
  rw [Side.get_accErr _ _ _ _ _ _ (by decide) (by decide) (by decide), Side.get_inc _ _ (by decide)]
  rfl

/-- R249: an access before READY shows. -/
theorem Side.on_accErr_early (x : Side) (m : Nat) (w : Bool) (a : Nat) :
    (x.accErr accEarly m w a).on HOST_STAT.ACCESS_BEFORE_READY = true := by
  have h : ∀ y : Side, (y.raise HOST_STAT.ACCESS_BEFORE_READY).get HOST_STAT.ACCESS_BEFORE_READY = 1 := fun y =>
    Side.get_set_self _ _ _ (by decide) (by decide)
  unfold Side.on Side.accErr
  simp only [beq_self_eq_true, if_true]
  split
  · rw [h]; rfl
  · rw [Side.get_accEntry _ _ _ _ _ _ (by decide) (by decide), h]; rfl

/-! ### Merge units (R254) -/

theorem lset_of_lget {α : Type} {l : List α} {i : Nat} {v : α} (h : lget l i v = v) : lset l i v = l := by
  unfold lset lget at *
  by_cases hi : i < l.length
  · rw [List.getElem?_eq_getElem hi, Option.getD_some] at h
    subst h
    exact List.set_getElem_self hi
  · exact List.set_eq_of_length_le (Nat.le_of_not_lt hi)

theorem State.mod_of_fixed {s : State} {sd : SideId} {f : Side → Side} (h : f (s.side sd) = s.side sd) : s.mod sd f = s := by
  unfold State.mod
  rw [h, State.setSide_self]

/-- A window with an empty merge unit. -/
@[reducible] def Side.winIdle (x : Side) (n : Nat) : Prop := lget x.host.win n ⟨none, []⟩ = ⟨none, []⟩

/-- The bytes in a window's merge unit are gone. -/
def Side.clearWin (x : Side) (n : Nat) : Side := { x with host := { x.host with win := lset x.host.win n ⟨none, []⟩ } }

theorem Side.clearWin_idle {x : Side} {n : Nat} (h : x.winIdle n) : x.clearWin n = x := by
  unfold Side.clearWin
  rw [lset_of_lget h]

theorem Side.emptyMerge_idle {x : Side} {n : Nat} (h : x.winIdle n) : x.emptyMerge n = x := by
  unfold Side.emptyMerge
  dsimp only
  rw [h]
  exact Side.clearWin_idle h

/-- A word of which only its first byte has arrived is incomplete. -/
theorem wordsTouched_first (k : Nat) (b : Byte) : wordsTouched false k [(0, b)] = [(k, false)] := rfl

/-- R254: an incomplete word is discarded and counted. -/
theorem Side.emptyMerge_partial {y : Side} {n k : Nat} {b : Byte} (h : lget y.host.win n ⟨none, []⟩ = ⟨some k, [(0, b)]⟩)
    (hd : y.on (WIN_CFG.DENSE n) = false) :
    ∃ a, y.emptyMerge n = ((y.clearWin n).inc WIN_PARTIAL.whole).accErr accPartial y.who.n true a := by
  have hdz : ((y.clearWin n).winCfg n).2.1 = false := hd
  unfold Side.clearWin at hdz ⊢
  unfold Side.emptyMerge
  dsimp only at hdz ⊢
  rw [h]
  dsimp only
  rw [hdz, wordsTouched_first]
  exact ⟨_, rfl⟩

/-- The bytes of a word's unit as a TLP brings them. -/
def unitBytes (bytes : List Byte) : List (Nat × Byte) := bytes.zipIdx.map (fun p => (p.2, p.1))

theorem unitBytes_arrive {bytes : List Byte} (hl : bytes.length = 8) :
    (unitBytes bytes).foldl (fun l p => aput l p.1 p.2) [] = unitBytes bytes :=
  match bytes, hl with
  | [_, _, _, _, _, _, _, _], _ => rfl

theorem wordsTouched_unitBytes {bytes : List Byte} (hl : bytes.length = 8) (u : Nat) : wordsTouched false u (unitBytes bytes) = [(u, true)] :=
  match bytes, hl with
  | [_, _, _, _, _, _, _, _], _ => rfl

/-- R8, R254: the word that eight bytes make. -/
theorem mergedWord_unitBytes (u : Nat) (bytes : List Byte) :
    mergedWord false u (unitBytes bytes) = wordN (bytes.zipIdx.foldl (fun v p => v + p.1.toNat * 256 ^ p.2) 0) := by
  unfold mergedWord unitBytes
  rw [List.foldl_map]
  rfl

/-- The bytes of a TLP by unit, where all are of one. -/
def tlpBytes (u : Nat) (bytes : List Byte) : List (Nat × Nat × Byte) := (unitBytes bytes).map (fun p => (u, p.1, p.2))

theorem tlpBytes_unit (u : Nat) (bytes : List Byte) : ((tlpBytes u bytes).filter (fun p => p.1 == u)).map (·.2) = unitBytes bytes := by
  have hall : (tlpBytes u bytes).filter (fun p => p.1 == u) = tlpBytes u bytes := by
    rw [List.filter_eq_self]
    intro q hq
    obtain ⟨p, -, rfl⟩ := List.mem_map.1 hq
    exact beq_self_eq_true u
  rw [hall, tlpBytes, List.map_map]
  exact List.map_id _

/-- R253: where the bytes of a TLP fall that begins at a word of a window which is not dense. -/
theorem winBytes_word (u : Nat) {bytes : List Byte} (hl : bytes.length = 8) :
    bytes.zipIdx.map (fun p => (winByte false (8 * u + p.2), p.1)) = (tlpBytes u bytes).map (fun q => (some (q.1, q.2.1), q.2.2)) := by
  unfold tlpBytes unitBytes
  rw [List.map_map, List.map_map]
  refine List.map_congr_left fun p hp => ?_
  have hlt := List.snd_lt_of_mem_zipIdx hp
  have hd : (8 * u + p.2) / 8 = u := by omega
  have hm : (8 * u + p.2) % 8 = p.2 := by omega
  show (some ((8 * u + p.2) / 8, (8 * u + p.2) % 8), p.1) = _
  rw [hd, hm]
  rfl

theorem tlpBytes_units (u : Nat) {bytes : List Byte} (hl : bytes.length = 8) : dedup ((tlpBytes u bytes).map (·.1)) = [u] := by
  have hr : (tlpBytes u bytes).map (·.1) = List.replicate 8 u := by
    rw [List.eq_replicate_iff]
    refine ⟨by simp [tlpBytes, unitBytes, hl], fun b hb => ?_⟩
    obtain ⟨q, hq, rfl⟩ := List.mem_map.1 hb
    obtain ⟨p, -, rfl⟩ := List.mem_map.1 hq
    rfl
  rw [hr]
  simp [dedup, List.replicate]

end Sys2Proof.Machine
end

section
/-! PROOFS. Accesses through a window (R253 to R257) of one word: to the side's own SRAM, from its own DRAM. -/

namespace Sys2Proof.Machine

/-! ### One word written to the side's own SRAM -/

theorem devSide_base (sd : SideId) (space : Nat) (h : space < 16) : devSide (sd.n * 2 ^ 43 + space * 2 ^ 39) = sd := by
  cases sd <;> interval_cases space <;> rfl

theorem devSpace_base (sd : SideId) (space : Nat) (h : space < 16) : devSpace (sd.n * 2 ^ 43 + space * 2 ^ 39) = space := by
  cases sd <;> interval_cases space <;> rfl

theorem devOff_base (sd : SideId) (space : Nat) : devOff (sd.n * 2 ^ 43 + space * 2 ^ 39) = 0 := by
  unfold devOff
  rw [show (2 : Nat) ^ 43 = 2 ^ 4 * 2 ^ 39 from pow_add 2 4 39, ← Nat.mul_assoc, ← Nat.add_mul, Nat.mul_mod_left]

/-- R154: no word outside the store of a density engine that runs is left undefined. -/
theorem State.undefWords_defined {s : State} {sd : SideId} {o : Nat} (v : Word)
    (h : o < 2 ^ 23 → (s.side sd).on (DENS_STAT.RUNNING (o / 2 ^ 22)) = false) : s.undefWords sd 0 o [v] = ([v], s) := by
  have hc : ¬((0 : Nat) == 0 && o < 2 ^ 23 && (s.side sd).on (DENS_STAT.RUNNING (o / 2 ^ 22))) = true := by
    simp only [beq_self_eq_true, Bool.true_and, Bool.and_eq_true, decide_eq_true_eq, not_and, Bool.not_eq_true]
    exact h
  show (if ((0 : Nat) == 0 && o < 2 ^ 23 && (s.side sd).on (DENS_STAT.RUNNING (o / 2 ^ 22))) = true then _ else ([v], s)) = _
  rw [if_neg hc]

theorem okRuns_one {ok : Nat → Bool} {o : Nat} (h : ok o = true) (v : Word) : okRuns ok o [v] = [(o, [v])] := by
  simp [okRuns, List.zipIdx, h]

/-- A word written to SRAM goes through the master's port into its block. -/
theorem Side.memWrite_sram (x : Side) (port : Nat) {o : Nat} (ho : o < 2 ^ 24) (v : Word) :
    x.memWrite 0 port o [v] = (x.writeRange .sram port o [v], none) := by
  have hok : (decide (o < 2 ^ 24) && !((0 : Nat) == 4 && x.coxLocked o)) = true := by
    rw [decide_eq_true ho]
    rfl
  show ((okRuns (fun o => decide (o < 2 ^ 24) && !((0 : Nat) == 4 && x.coxLocked o)) o [v]).foldl
    (fun x g => x.writeRange .sram port g.1 g.2) x, _) = _
  rw [okRuns_one hok]
  have hnone : ((List.range 1).map (o + ·)).find? (fun o => !(decide (o < 2 ^ 24) && !((0 : Nat) == 4 && x.coxLocked o))) = none := by
    rw [List.range_one, List.map_singleton, Nat.add_zero, List.find?_singleton, hok]
    rfl
  exact congrArg (Prod.mk _) hnone

/-- R254, R299: a word of a window that looks on the side's own SRAM is written there by its own endpoint. -/
theorem State.winStore_sram {s : State} {sd : SideId} {u : Nat} (hup : (s.held || !s.endpointUp sd) = false)
    (hr : (s.side sd).on INIT_STAT.READY = true) (hu : u < 2 ^ 24)
    (hd : u < 2 ^ 23 → (s.side sd).on (DENS_STAT.RUNNING (u / 2 ^ 22)) = false) (v : Word) :
    s.winStore sd (sd.n * 2 ^ 43 + 0 * 2 ^ 39) u [v] = s.mod sd (fun x => x.writeRange .sram portHost u [v]) := by
  have hoff : ¬0 + u ≥ 2 ^ 39 := by omega
  have he : ¬(s.side sd).early sd.n 0 = true := by simp [Side.early, hr]
  unfold State.winStore
  dsimp only
  rw [devSide_base sd 0 (by decide), devSpace_base sd 0 (by decide), devOff_base sd 0, State.path_own hup]
  dsimp only
  rw [if_neg hoff, if_neg he, Nat.zero_add]
  show (s.writeSpan sd sd.n portHost 0 u [v]).1 = _
  unfold State.writeSpan
  simp only [Side.spaceMem, State.undefWords_defined v hd, Side.memWrite_sram _ _ hu]
  rfl

/-- R247: no word of SRAM is half of a pair of registers. -/
theorem State.winWordOut_sram (s : State) (sd : SideId) (ins : List (Nat × Nat × Byte)) (u : Nat) (v : Word) :
    s.winWordOut sd (true, false, sd.n * 2 ^ 43 + 0 * 2 ^ 39) ins u v = s.winStore sd (sd.n * 2 ^ 43 + 0 * 2 ^ 39) u [v] := by
  unfold State.winWordOut
  dsimp only
  rw [devSpace_base sd 0 (by decide)]
  split
  · rfl
  · rfl

/-- R254: a word whose eight bytes come in one TLP, into an idle merge unit, is written and leaves the unit idle. -/
theorem State.mergeUnit_whole {s : State} {sd : SideId} {win u base : Nat} {bytes : List Byte} (hl : bytes.length = 8)
    (hi : (s.side sd).winIdle win) (hcfg : (s.side sd).winCfg win = (true, false, base)) :
    s.mergeUnit sd win u (tlpBytes u bytes) = s.winWordOut sd (true, false, base) (tlpBytes u bytes) u
      (wordN (bytes.zipIdx.foldl (fun v p => v + p.1.toNat * 256 ^ p.2) 0)) := by
  have hidle : s.mod sd (fun x => if (lget x.host.win win ⟨none, []⟩).unit == some u then x else x.emptyMerge win) = s := by
    refine State.mod_of_fixed ?_
    rw [hi]
    exact Side.emptyMerge_idle hi
  have hsel : [(u, true)].filter (fun p => p.2 && ([(u, true)].map (·.1)).contains p.1) = [(u, true)] := by simp
  have hclear : s.setSide sd ((s.side sd).clearWin win) = s := by rw [Side.clearWin_idle hi, State.setSide_self]
  unfold State.mergeUnit
  dsimp only
  rw [hidle, tlpBytes_unit, hcfg, hi]
  dsimp only
  rw [unitBytes_arrive hl, wordsTouched_unitBytes hl, hsel]
  show ((s.setSide sd ((s.side sd).clearWin win)).winWordOut _ _ _ _ _) = _
  rw [hclear, mergedWord_unitBytes]

/-- R253, R254: eight bytes written from a word of a window on, over the side's own SRAM. -/
theorem execWindowWrite_sram {s : State} {sd : SideId} {win : Fin 4} {off : BitVec 30} {bytes : List Byte}
    (hup : (s.held || !s.endpointUp sd) = false) (hcfg : (s.side sd).winCfg win.val = (true, false, sd.n * 2 ^ 43 + 0 * 2 ^ 39))
    (hr : (s.side sd).on INIT_STAT.READY = true) (h8 : off.toNat % 8 = 0) (hl : bytes.length = 8) (hi : (s.side sd).winIdle win.val)
    (hu : off.toNat / 8 < 2 ^ 24) (hd : off.toNat / 8 < 2 ^ 23 → (s.side sd).on (DENS_STAT.RUNNING (off.toNat / 8 / 2 ^ 22)) = false) :
    execWindowWrite sd win off ⟨bytes, false⟩ s = .next (s.mod sd (fun x => x.writeRange .sram portHost (off.toNat / 8)
      [wordN (bytes.zipIdx.foldl (fun v p => v + p.1.toNat * 256 ^ p.2) 0)])) := by
  have ho : off.toNat = 8 * (off.toNat / 8) := by omega
  have hne : bytes.isEmpty = false := by cases bytes with
    | nil => simp at hl
    | cons => rfl
  have hps := winBytes_word (off.toNat / 8) hl
  have hins : ((tlpBytes (off.toNat / 8) bytes).map (fun q => (some (q.1, q.2.1), q.2.2))).filterMap (fun p => p.1.map (fun q => (q.1, q.2, p.2)))
      = tlpBytes (off.toNat / 8) bytes := by
    rw [List.filterMap_map]
    exact List.filterMap_some
  rw [← ho] at hps
  unfold execWindowWrite
  dsimp only
  rw [hup, hcfg]
  dsimp only
  rw [hps, hins, tlpBytes_units _ hl, List.foldl_cons, List.foldl_nil, State.mergeUnit_whole hl hi hcfg, State.winWordOut_sram,
    State.winStore_sram hup hr hu hd]
  simp [hr, hne]

/-! ### One word read from the side's own DRAM -/

/-- Words taken one after another. -/
theorem foldl_collect (z : State) (l : List Word) : ∀ (k : Nat) (a : List Word),
    (l.zipIdx k).foldl (fun (acc : State × List Word) p => (acc.1, acc.2 ++ [p.1])) (z, a) = (z, a ++ l) := by
  induction l with
  | nil => intro k a; rw [List.append_nil]; rfl
  | cons w l ih =>
    intro k a
    rw [List.zipIdx_cons, List.foldl_cons, ih, List.append_assoc]
    rfl

/-- R253, R256: a word of DRAM within its extent. -/
theorem State.memRead_dram {s : State} {sd : SideId} {o : Nat} (ho : o < (s.side sd).dram.extent) :
    s.memRead sd 1 o 1 = (s.setSide sd ((s.side sd).readRange .dram o 1).1, ((s.side sd).readRange .dram o 1).2.1,
      ((s.side sd).readRange .dram o 1).2.2, none) := by
  have hn : min 1 ((s.side sd).dram.extent - o) = 1 := by omega
  have h10 : ((1 : Nat) == 0) = false := rfl
  unfold State.memRead
  simp only [Side.spaceMem, hn, h10, Bool.false_and, Bool.false_eq_true, if_false, foldl_collect, Nat.sub_self, List.replicate_zero,
    List.append_nil, List.nil_append, lt_self_iff_false]

theorem State.readSpan_dram {s : State} {sd : SideId} (m : Nat) {o : Nat} (ho : o < (s.side sd).dram.extent)
    (hp : ((s.side sd).readRange .dram o 1).2.2 = 0) :
    s.readSpan sd m 1 o 1 = (s.setSide sd ((s.side sd).readRange .dram o 1).1, ((s.side sd).readRange .dram o 1).2.1, false) := by
  unfold State.readSpan
  simp only [Side.spaceMem, State.memRead_dram ho, hp, beq_self_eq_true, if_true]

/-- R257: what an endpoint reads on its own side comes back at once. -/
theorem State.returnRead_own (s : State) (sd : SideId) (a : Nat) (ws : List Word) (ep : Bool) :
    s.returnRead sd sd.n a ws ep = { s with rd := ws, ep := ep } := by
  unfold State.returnRead
  rw [masterSide_pcie, beq_self_eq_true, if_pos rfl]

/-- The merge unit of a window in no use is left as it is. -/
theorem State.emptyMerge_idle {s : State} {sd : SideId} {n : Nat} (h : (s.side sd).winIdle n) : s.mod sd (fun x => x.emptyMerge n) = s :=
  State.mod_of_fixed (Side.emptyMerge_idle h)

/-- R253, R256, R311: eight bytes read from a word of a window on, over the side's own DRAM. -/
theorem execWindowRead_dram {s : State} {sd : SideId} {win : Fin 4} {off : BitVec 30}
    (hup : (s.held || !s.endpointUp sd) = false) (hcfg : (s.side sd).winCfg win.val = (true, false, sd.n * 2 ^ 43 + 1 * 2 ^ 39))
    (hr : (s.side sd).on INIT_STAT.READY = true) (h8 : off.toNat % 8 = 0) (hi : (s.side sd).winIdle win.val)
    (ho : off.toNat / 8 < (s.side sd).dram.extent) :
    ((s.side sd).spaceWaits 1 (off.toNat / 8) 1 = true → execWindowRead sd win off 8 s = .next s)
    ∧ ((s.side sd).spaceWaits 1 (off.toNat / 8) 1 = false → ((s.side sd).readRange .dram (off.toNat / 8) 1).2.2 = 0 →
      execWindowRead sd win off 8 s = .next { s.setSide sd ((s.side sd).readRange .dram (off.toNat / 8) 1).1 with
        rd := ((s.side sd).readRange .dram (off.toNat / 8) 1).2.1, ep := false }) := by
  have hn : winWordTop false (off.toNat + 8 - 1) + 1 - winWord false off.toNat = 1 := by
    show (off.toNat + 8 - 1) / 8 + 1 - off.toNat / 8 = 1
    omega
  have hw : winWord false off.toNat = off.toNat / 8 := rfl
  have he : (s.side sd).early sd.n 1 = false := by simp [Side.early, hr]
  have h80 : ((8 : Nat) == 0) = false := rfl
  unfold execWindowRead
  dsimp only
  rw [hcfg]
  dsimp only
  rw [hup, State.emptyMerge_idle hi, hr, devSide_base sd 1 (by decide), devSpace_base sd 1 (by decide), devOff_base sd 1, State.path_own hup, hn, hw,
    Nat.zero_add]
  simp only [h80, Bool.false_eq_true, if_false, Bool.false_and, Bool.not_true, he]
  refine ⟨fun hwait => ?_, fun hwait hp => ?_⟩
  · rw [hwait]
    rfl
  · rw [hwait, State.readSpan_dram _ ho hp, State.returnRead_own]
    simp only [Bool.false_eq_true, if_false, lt_self_iff_false, Nat.sub_self, List.replicate_zero, List.append_nil]
    rfl

/-- R254, R256: a window that is not enabled reads as zeros. -/
theorem execWindowRead_disabled {s : State} {sd : SideId} {win : Fin 4} (off : BitVec 30) {len base : Nat}
    (hup : (s.held || !s.endpointUp sd) = false) (hcfg : (s.side sd).winCfg win.val = (false, false, base)) (hl : 0 < len)
    (hi : (s.side sd).winIdle win.val) :
    execWindowRead sd win off len s = .next (s.setRd (List.replicate ((off.toNat + len - 1) / 8 + 1 - off.toNat / 8) 0)) := by
  have hne : (len == 0) = false := beq_eq_false_iff_ne.2 hl.ne'
  unfold execWindowRead
  dsimp only
  rw [hcfg]
  dsimp only
  rw [hup, State.emptyMerge_idle hi, hne]
  rfl

end Sys2Proof.Machine
end

section
/-! PROOFS. The host link (O43): PERST_N, link-up, TLPs, windows and remote reads. -/

namespace Sys2Proof.Machine

/-! ### The endpoint's commands, with their outcome -/

theorem lget_replicate {α : Type} (n i : Nat) (a : α) : lget (List.replicate n a) i a = a := by
  unfold lget
  rw [List.getElem?_replicate]
  split <;> rfl

/-- R260: what PERST_N leaves of its side. -/
theorem perstN_does (s : State) (sd : SideId) (hh : s.held = false) : Does (.perstN sd) s (fun t =>
    let x := s.side sd
    let y := t.side sd
    let mine := fun (z : Side) (k : DensCopy) => z.dens.any (fun d => d.copy == some k) = true ∧ k.issuer = sd
    ((∀ k, ¬mine x k) → y.regs = x.regs.filter (fun p => !(0x1000 ≤ p.1 && p.1 ≤ 0x2FFF) && !(0x9040 ≤ p.1 && p.1 ≤ 0x907F)))
      ∧ (x.dens.length = 2 → ∀ k, ¬mine y k) ∧ y.host.msix = List.replicate 64 ⟨0, 0, true⟩ ∧ y.host.pba = [] ∧ y.host.aer = []
      ∧ (∀ r < 16, y.strmOf r = Strm.init) ∧ (∀ i, ∀ c ∈ (t.side i).host.staged, c.issuer ≠ sd)
      ∧ y.host.compl = [] ∧ y.host.events = [] ∧ y.host.mem = x.host.mem ∧ y.fe = x.fe ∧ y.xf = x.xf ∧ y.starter = x.starter) := by
  refine ⟨s.perst sd, ?_, ?_⟩
  · show Host.Outcome.next (if s.held then s else s.perst sd) = _
    rw [hh]
    rfl
  · obtain ⟨a, d, e, hd⟩ := s.perst_eq sd
    dsimp only
    refine ⟨fun hk => ?_, fun hl k => ?_, ?_, ?_, ?_, fun r _ => ?_, fun i c hc => ?_, ?_, ?_, ?_, ?_, ?_, ?_⟩
    · rw [e]
      dsimp only
      rw [Side.forgetIssued_regs hk]
      exact List.filter_congr fun p _ => Bool.not_or _ _
    · rw [e]
      dsimp only
      rw [hd]
      exact Side.forgetIssued_noCopy _ _ hl k
    · rw [e]; rfl
    · rw [e]; rfl
    · rw [e]; rfl
    · rw [e]
      exact lget_replicate 16 r Strm.init
    · rw [State.perst_staged] at hc
      simpa using (List.mem_filter.1 hc).2
    · rw [e]; rfl
    · rw [e]; rfl
    · rw [e]
    · rw [e]
    · rw [e]
    · rw [e]

/-- R248: a link comes up. -/
theorem pcieLinkUp_up {s : State} {sd : SideId} (speed width : Fin 5) (hh : s.held = false) (hr : (s.side sd).islRuns (srcOf 4 0 0) = true)
    (hb : sd = .stroke ∨ s.stroke.on HOST_CFG.ROUTE_BOW = false) : exec (.pcieLinkUp sd speed width) s = .next (s.mod sd (fun x =>
      ((x.set HOST_STAT.LINK_UP 1).set HOST_STAT.SPEED (speed.val + 1)).set HOST_STAT.WIDTH (2 ^ width.val))) := by
  have hc : (s.held || !(s.side sd).islRuns pcieSrc || (sd == .bow && s.stroke.on HOST_CFG.ROUTE_BOW)) = false := by
    rw [hh, pcieSrc, hr]
    rcases hb with rfl | hb
    · rfl
    · rw [hb, Bool.and_false]
      rfl
  show execPcieLinkUp sd speed width s = _
  unfold execPcieLinkUp
  rw [hc]
  rfl

/-- R259: in single-port operation the bow core stays in detect. -/
theorem pcieLinkUp_routed {s : State} (speed width : Fin 5) (h : s.stroke.on HOST_CFG.ROUTE_BOW = true) :
    exec (.pcieLinkUp .bow speed width) s = .next s := by
  show execPcieLinkUp .bow speed width s = _
  unfold execPcieLinkUp
  rw [h, beq_self_eq_true, Bool.and_self, Bool.or_true]
  rfl

/-- R244: a doubleword of configuration space changes neither side nor the Keel. -/
theorem configRead_frame (s : State) (sd : SideId) (dw : Nat) :
    (s.configRead sd dw).rd.length = 1 ∧ (s.configRead sd dw).stroke = s.stroke ∧ (s.configRead sd dw).bow = s.bow
      ∧ (s.configRead sd dw).keel = s.keel := by
  unfold State.configRead
  dsimp only
  split
  · exact ⟨rfl, rfl, rfl, rfl⟩
  · split
    · exact ⟨rfl, rfl, rfl, rfl⟩
    · exact ⟨rfl, rfl, rfl, rfl⟩

/-- R244: the class code and the revision. -/
theorem configRead_class (s : State) (sd : SideId) : ∃ w, (s.configRead sd 2).rd = [w] ∧ w.toNat / 2 ^ 8 = 0x118000 := by
  refine ⟨wordN (0x118000 * 256 + s.takeFree.1.toNat % 256), rfl, ?_⟩
  rw [wordN_toNat_of_lt (by omega)]
  omega

/-- R249: a window's write before READY is logged, and written nowhere. -/
theorem windowWrite_early {s : State} {sd : SideId} {win : Fin 4} (off : BitVec 30) {bytes : List Byte}
    (hup : (s.held || !s.endpointUp sd) = false) (hen : (s.side sd).on (WIN_CFG.EN win.val) = true)
    (hr : (s.side sd).on INIT_STAT.READY = false) (hb : bytes ≠ []) :
    ∃ a, exec (.windowWrite sd win off ⟨bytes, false⟩) s = .next (s.mod sd (fun x => x.accErr accEarly sd.n true a)) := by
  have hne : bytes.isEmpty = false := by cases bytes with
    | nil => exact absurd rfl hb
    | cons => rfl
  have hen' : ((s.side sd).winCfg win.val).1 = true := hen
  refine ⟨((s.side sd).winCfg win.val).2.2 + winWord ((s.side sd).winCfg win.val).2.1 off.toNat, ?_⟩
  show execWindowWrite sd win off ⟨bytes, false⟩ s = _
  unfold execWindowWrite
  dsimp only
  rw [hup, hen', hne, hr]
  rfl

/-- R257, R258: the oldest remote read of a side comes back. -/
theorem tunnelReadDone_oldest {s : State} {sd : SideId} {m a : Nat} {ws : List Word} {ep : Bool}
    {rest : List (SideId × Nat × Nat × List Word × Bool)} (h : s.keel.reads = (sd, m, a, ws, ep) :: rest) :
    exec (.tunnelReadDone sd) s = .next { s with rd := ws, ep := ep, keel := { s.keel with reads := rest } } := by
  have hf : s.keel.reads.find? (fun r => r.1 == sd) = some (sd, m, a, ws, ep) := by
    rw [h]
    exact List.find?_cons_of_pos (beq_self_eq_true sd)
  have he : s.keel.reads.erase (sd, m, a, ws, ep) = rest := by rw [h, List.erase_cons_head]
  show execTunnelReadDone sd s = _
  unfold execTunnelReadDone
  rw [hf]
  dsimp only
  rw [he]

/-- R246: a read TLP of slot 8i of BAR0 is a read of its register. -/
theorem bar0Read_slot {s : State} {sd : SideId} {m : Fin 11} {o0 : BitVec 24} (hm : m.val = sd.n) (h8 : o0.toNat % 8 = 0) :
    exec (.lowWordRead sd m (.bar0 8) (o0.setWidth 39)) s
      = exec (.lowWordRead (SideId.ofBit (bitAt o0.toNat 23)) m (.dev 2) (BitVec.ofNat 39 (o0.toNat / 8 % 2 ^ 20))) s := by
  have hlt : o0.toNat < 2 ^ 24 := o0.isLt
  have ho : (o0.setWidth 39).toNat % 2 ^ 24 = o0.toNat := by rw [BitVec.toNat_setWidth]; omega
  have hi : (BitVec.ofNat 39 (o0.toNat / 8 % 2 ^ 20)).toNat = o0.toNat / 8 % 2 ^ 20 := by rw [BitVec.toNat_ofNat]; omega
  show Host.Outcome.next (s.barRead sd ((o0.setWidth 39).toNat % 2 ^ 24) 8) = .next (s.busReadCmd _ m.val 2 (BitVec.ofNat 39 _).toNat)
  rw [ho, hi, State.barRead_slot s sd h8 hlt, hm]

/-- R246: a write TLP of slot 8i of BAR0 is a write of its register. -/
theorem bar0Write_slot {s : State} {sd : SideId} {m : Fin 11} {o0 : BitVec 24} {bytes : List (Option Byte)}
    (hup : (s.held || !s.endpointUp sd) = false) (hm : m.val = sd.n) (h8 : o0.toNat % 8 = 0) (hl : bytes.length = 8) :
    exec (.registerWrite sd m (.bar0 o0) bytes false) s
      = exec (.registerWrite (SideId.ofBit (bitAt o0.toNat 23)) m (.reg (BitVec.ofNat 20 (o0.toNat / 8 % 2 ^ 20))) bytes false) s := by
  have hi : (BitVec.ofNat 20 (o0.toNat / 8 % 2 ^ 20)).toNat = o0.toNat / 8 % 2 ^ 20 := by rw [BitVec.toNat_ofNat, Nat.mod_mod]
  show Host.Outcome.next (if s.held || !s.endpointUp sd then s else if false = true then _ else State.barWrite sd (barSlots o0.toNat bytes) s)
    = .next (s.busWriteBy _ m.val (BitVec.ofNat 20 _).toNat _)
  rw [hup, if_neg Bool.false_ne_true, if_neg Bool.false_ne_true, State.barWrite_slot s sd h8 hl, hi, hm]

/-- R244: a read TLP of entry v of the MSI-X table. -/
theorem bar4Read_entry {s : State} {sd : SideId} (p : Fin 11) (v : Fin 64) (hup : (s.held || !s.endpointUp sd) = false) :
    exec (.lowWordRead sd p (.bar4 16) (BitVec.ofNat 39 (16 * v.val))) s = .next (s.setRd
      (let e := lget (s.side sd).host.msix v.val ⟨0, 0, true⟩
      [wordN (e.addr.toNat % 2 ^ 32), wordN (e.addr.toNat / 2 ^ 32), wordN e.data.toNat, wordN (b2n e.mask)])) := by
  have hv := v.isLt
  have ho : (BitVec.ofNat 39 (16 * v.val)).toNat % 2 ^ 16 = 16 * v.val := by rw [BitVec.toNat_ofNat]; omega
  have hn : (16 * v.val + 16 - 1) / 4 + 1 - 16 * v.val / 4 = 4 := by omega
  have hq : 16 * v.val / 4 = 4 * v.val := by omega
  show Host.Outcome.next (if s.held || !s.endpointUp sd then s.setRd [] else s.setRd
    ((List.range ((((BitVec.ofNat 39 (16 * v.val)).toNat % 2 ^ 16) + 16 - 1) / 4 + 1 - (BitVec.ofNat 39 (16 * v.val)).toNat % 2 ^ 16 / 4)).map
      (fun i => wordN ((s.side sd).host.bar4Word (4 * ((BitVec.ofNat 39 (16 * v.val)).toNat % 2 ^ 16 / 4 + i)))))) = _
  rw [hup, if_neg Bool.false_ne_true, ho, hn, hq, HostSide.bar4Word_entry]

/-- R281: a write TLP that clears the mask of entry v of the MSI-X table. -/
theorem bar4Write_mask {s : State} {sd : SideId} (p : Fin 11) (v : Fin 64) (hup : (s.held || !s.endpointUp sd) = false) :
    exec (.registerWrite sd p (.bar4 (BitVec.ofNat 16 (16 * v.val + 12))) [some 0] false) s
      = .next (s.mod sd (fun x => { x with host := (s.side sd).host.bar4Write (16 * v.val + 12) [some 0] })) := by
  have hv := v.isLt
  have ho : (BitVec.ofNat 16 (16 * v.val + 12)).toNat = 16 * v.val + 12 := by rw [BitVec.toNat_ofNat]; omega
  show Host.Outcome.next (if s.held || !s.endpointUp sd then s else s.mod sd (fun x => { x with host := x.host.bar4Write (BitVec.ofNat 16 _).toNat [some 0] }))
    = _
  rw [hup, if_neg Bool.false_ne_true, ho]
  rfl

/-- R248: an endpoint that carries nothing makes no access: a read brings no word, a write changes nothing. -/
theorem linkDown_reads {s : State} {sd : SideId} (p : Fin 11) (o : BitVec 39) (len : Nat) (hdn : (s.held || !s.endpointUp sd) = true) :
    exec (.lowWordRead sd p (.bar0 len) o) s = .next (s.setRd []) ∧ exec (.lowWordRead sd p (.bar4 len) o) s = .next (s.setRd [])
      ∧ exec (.lowWordRead sd p .config o) s = .next (s.setRd []) ∧ exec (.lowWordRead sd p .noBar o) s = .next (s.setRd []) := by
  refine ⟨?_, congrArg _ (if_pos hdn), congrArg _ (if_pos hdn), congrArg _ (if_pos hdn)⟩
  show Host.Outcome.next (s.barRead sd (o.toNat % 2 ^ 24) len) = _
  unfold State.barRead
  dsimp only
  rw [State.path_of_linkDown hdn]

theorem linkDown_writes {s : State} {sd : SideId} (p : Fin 11) (o0 : BitVec 24) (o4 : BitVec 16) (bs : List (Option Byte)) (ep : Bool)
    (hdn : (s.held || !s.endpointUp sd) = true) :
    exec (.registerWrite sd p (.bar0 o0) bs ep) s = .next s ∧ exec (.registerWrite sd p (.bar4 o4) bs ep) s = .next s
      ∧ exec (.registerWrite sd p .noBar bs ep) s = .next s :=
  ⟨congrArg _ (if_pos hdn), congrArg _ (if_pos hdn), congrArg _ (if_pos hdn)⟩

theorem linkDown_window {s : State} {sd : SideId} (win : Fin 4) (off : BitVec 30) (d : WinData) (len : Nat)
    (hdn : (s.held || !s.endpointUp sd) = true) :
    exec (.windowWrite sd win off d) s = .next s ∧ exec (.windowRead sd win off len) s = .next (s.setRd []) :=
  ⟨congrArg _ (if_pos hdn), congrArg _ (if_pos hdn)⟩

/-- R245: a poisoned write TLP is dropped and logged, and so is a request outside the BARs. -/
theorem poisonedTlp_logged {s : State} {sd : SideId} (p : Fin 11) (o0 : BitVec 24) (bs : List (Option Byte)) (win : Fin 4) (off : BitVec 30)
    (bytes : List Byte) (hup : (s.held || !s.endpointUp sd) = false) :
    exec (.registerWrite sd p (.bar0 o0) bs true) s = .next (s.aerLog sd .poisonedTlp)
      ∧ exec (.windowWrite sd win off ⟨bytes, true⟩) s = .next (s.aerLog sd .poisonedTlp) :=
  have hn : ¬(s.held || !s.endpointUp sd) = true := by rw [hup]; exact Bool.false_ne_true
  ⟨congrArg _ (if_neg hn), congrArg _ (if_neg hn)⟩

theorem unsupportedRequest_logged {s : State} {sd : SideId} (p : Fin 11) (o : BitVec 39) (bs : List (Option Byte)) (ep : Bool)
    (hup : (s.held || !s.endpointUp sd) = false) :
    exec (.registerWrite sd p .noBar bs ep) s = .next (s.aerLog sd .unsupportedRequest)
      ∧ exec (.lowWordRead sd p .noBar o) s = .next ((s.aerLog sd .unsupportedRequest).setRd []) :=
  have hn : ¬(s.held || !s.endpointUp sd) = true := by rw [hup]; exact Bool.false_ne_true
  ⟨congrArg _ (if_neg hn), congrArg _ (if_neg hn)⟩

/-- R244: a read TLP of configuration space takes one doubleword. -/
theorem configRead_up {s : State} {sd : SideId} (p : Fin 11) (o : BitVec 39) (hup : (s.held || !s.endpointUp sd) = false) :
    exec (.lowWordRead sd p .config o) s = .next (s.configRead sd (o.toNat % 1024)) :=
  congrArg _ (if_neg (by rw [hup]; exact Bool.false_ne_true))

/-- R244: the identity. -/
theorem configRead_identity (s : State) (sd : SideId) :
    s.configRead sd 0 = s.setRd [wordN ((if sd = .stroke then 0x4810 else 0x4811) * 2 ^ 16 + 0x1F6B)] := by
  cases sd <;> rfl

/-- R253: the configuration of a window, by its fields. -/
theorem Side.winCfg_eq {x : Side} {n base : Nat} {en dense : Bool} (he : x.on (WIN_CFG.EN n) = en) (hd : x.on (WIN_CFG.DENSE n) = dense)
    (hb : x.get (WIN_CFG.BASE n) * 2 ^ 16 = base) : x.winCfg n = (en, dense, base) := by
  unfold Side.winCfg
  rw [he, hd, hb]

/-- R255: a window that is not enabled takes nothing. -/
theorem windowWrite_disabled {s : State} {sd : SideId} {win : Fin 4} (off : BitVec 30) (bytes : List Byte)
    (h : (s.side sd).on (WIN_CFG.EN win.val) = false) : exec (.windowWrite sd win off ⟨bytes, false⟩) s = .next s := by
  have hen : ((s.side sd).winCfg win.val).1 = false := h
  show execWindowWrite sd win off ⟨bytes, false⟩ s = _
  unfold execWindowWrite
  dsimp only
  rw [hen]
  cases s.held || !s.endpointUp sd <;> rfl

/-- R254: the count of incomplete words. -/
theorem Side.get_emptyMerge_partial {y : Side} {n k : Nat} {b : Byte} (h : lget y.host.win n ⟨none, []⟩ = ⟨some k, [(0, b)]⟩)
    (hd : y.on (WIN_CFG.DENSE n) = false) (hn : n < y.host.win.length) :
    (y.emptyMerge n).get WIN_PARTIAL.whole = min (y.get WIN_PARTIAL.whole + 1) (2 ^ 36 - 1)
      ∧ lget (y.emptyMerge n).host.win n ⟨none, []⟩ = ⟨none, []⟩ := by
  obtain ⟨a, e⟩ := Side.emptyMerge_partial h hd
  obtain ⟨r, er⟩ := ((y.clearWin n).inc WIN_PARTIAL.whole).accErr_eq accPartial y.who.n true a
  have hc : (y.clearWin n).get WIN_PARTIAL.whole = y.get WIN_PARTIAL.whole := Side.get_congr rfl rfl rfl _
  have hcount : ∀ z : Side, (z.inc ACC_ERR_COUNT.whole).get WIN_PARTIAL.whole = z.get WIN_PARTIAL.whole := fun z =>
    Side.get_set_apart _ _ _ _ (by decide)
  refine ⟨?_, ?_⟩
  · rw [e, Side.get_accErr _ _ _ _ _ _ (by decide) (by decide) (by decide), hcount, Side.get_inc _ _ (by decide), hc]
    rfl
  · rw [e, er]
    exact lget_lset_self _ _ _ _ hn

/-- Settles O43: each TLP, window access, reset and remote read has its own equation; the endpoint's link decides which is made. -/
theorem hostLink : Obligations.HostLink := by
  unfold Obligations.HostLink
  intro s sd win off bytes speed width len m a ws ep rest o o0 o4 bs v p d
  dsimp only
  have hiff := s.linkUp_iff sd
  have hnot := s.not_linkUp_iff sd
  refine ⟨fun hh => ⟨?_, ?_⟩, fun hh => perstN_does s sd hh, fun hh hr hb => pcieLinkUp_up speed width hh hr hb,
    pcieLinkUp_routed speed width, fun hn => ?_, fun hu => ?_, fun hen => ?_, fun hu hen hr hb => ?_,
    fun hu hen hr hdn hb h8 hl hi ho _ hd => ?_, fun hn => ?_, fun hu hen hdn hl hi _ => ?_,
    fun hu hen hr hdn hb h8 hl hi ho _ => ?_, rfl, fun y k b hm hdn hl => ?_, tunnelReadDone_oldest, fun h => ?_⟩
  · show Host.Outcome.next (if s.held then s else s.perst sd) = _
    rw [hh]
    rfl
  · show Host.Outcome.next (if s.held || _ || _ then s else _) = _
    rw [hh]
    rfl
  · have hdn := hnot.1 hn
    obtain ⟨r0, r4, rc, rn⟩ := linkDown_reads p o len hdn
    obtain ⟨w0, w4, wn⟩ := linkDown_writes p o0 o4 bs ep hdn
    exact ⟨r0, r4, rc, rn, w0, w4, wn, (linkDown_window win off d len hdn).1⟩
  · have hup := hiff.1 hu
    obtain ⟨hp0, hpw⟩ := poisonedTlp_logged p o0 bs win off bytes hup
    obtain ⟨hnw, hnr⟩ := unsupportedRequest_logged p o bs ep hup
    refine ⟨hp0, hpw, hnw, hnr,
      fun i hi h8 => ⟨bar0Read_slot hi h8, fun b0 b1 b2 b3 b4 b5 b6 b7 => ⟨bar0Write_slot hup hi h8 rfl, slotWord_eq ..⟩⟩,
      fun hl => ⟨bar4Read_entry p v hup, ?_⟩, ?_, ⟨_, configRead_up p 2 hup, configRead_class s sd⟩,
      ⟨_, configRead_up p o hup, configRead_frame s sd _⟩⟩
    · rw [bar4Write_mask p v hup, HostSide.bar4Write_unmask _ v hl]
      rfl
    · exact (configRead_up p 0 hup).trans (congrArg _ (configRead_identity s sd))
  · exact windowWrite_disabled off bytes hen
  · obtain ⟨a', e⟩ := windowWrite_early off (hiff.1 hu) hen hr hb
    obtain ⟨r, er⟩ := (s.side sd).accErr_eq accEarly sd.n true a'
    refine ⟨_, e, ?_⟩
    beta_reduce
    rw [State.side_mod]
    exact ⟨Side.get_accErr_count .., Side.on_accErr_early .., by rw [er], by rw [er]⟩
  · have hb0 : (s.side sd).get (WIN_CFG.BASE win.val) * 2 ^ 16 = sd.n * 2 ^ 43 + 0 * 2 ^ 39 := by rw [hb, Nat.zero_mul, Nat.add_zero]
    exact execWindowWrite_sram (hiff.1 hu) (Side.winCfg_eq hen hdn hb0) hr h8 hl hi ho hd
  · exact (linkDown_window win off d len (hnot.1 hn)).2
  · exact ⟨_, execWindowRead_disabled off (hiff.1 hu) (Side.winCfg_eq hen hdn rfl) hl hi, rfl, rfl, by rw [State.side_setRd]⟩
  · subst hl
    have hb1 : (s.side sd).get (WIN_CFG.BASE win.val) * 2 ^ 16 = sd.n * 2 ^ 43 + 1 * 2 ^ 39 := by rw [hb, Nat.one_mul]
    obtain ⟨hwait, hread⟩ := execWindowRead_dram (hiff.1 hu) (Side.winCfg_eq hen hdn hb1) hr h8 hi ho
    refine ⟨hwait, fun hw hp => ⟨_, hread hw hp, rfl, rfl, ?_⟩⟩
    cases sd <;> rfl
  · exact Side.get_emptyMerge_partial hm hdn (by omega)
  · show Host.Outcome.next (match s.keel.reads.find? (fun r => r.1 == sd) with
      | some r => { s with rd := r.2.2.2.1, ep := r.2.2.2.2, keel := { s.keel with reads := s.keel.reads.erase r } }
      | none => s) = _
    rw [h]
    rfl

end Sys2Proof.Machine
end

section
/-! PROOFS. What the receivers, front ends and transforms of a side keep when its registers change, and single bits of fields. -/

namespace Sys2Proof.Machine

/-! ### Registers beside the channels -/

theorem Side.regsOf.jesdOf {x y : Side} (h : x.regsOf y) (c : Chan) : y.jesdOf c = x.jesdOf c := by
  obtain ⟨r, rfl⟩ := h
  rfl

theorem Side.regsOf_orBit (x : Side) (f : Fld) (i : Nat) : x.regsOf (x.orBit f i) := by
  unfold Side.orBit
  split
  · exact x.regsOf_refl
  · exact Side.regsOf_set x.regsOf_refl f _

theorem Side.regsOf_andNotBit {x y : Side} (h : x.regsOf y) (f : Fld) (i : Nat) : x.regsOf (y.andNotBit f i) := by
  unfold Side.andNotBit
  split
  · exact Side.regsOf_set h f _
  · exact h

@[simp] theorem Side.get_setJesd (x : Side) (c : Chan) (g : Jesd) (f : Fld) : (x.setJesd c g).get f = x.get f := Side.get_congr rfl rfl rfl f

@[simp] theorem Side.on_setJesd (x : Side) (c : Chan) (g : Jesd) (f : Fld) : (x.setJesd c g).on f = x.on f := by
  unfold Side.on
  rw [Side.get_setJesd]

theorem chan_n_lt (c : Chan) : c.n < 2 := by cases c <;> decide

theorem Side.jesdOf_setJesd {x : Side} (c : Chan) (g : Jesd) (h : x.jesd.length = 2) : (x.setJesd c g).jesdOf c = g :=
  lget_lset_self _ _ _ _ (h ▸ chan_n_lt c)

theorem Side.jesdOf_setJesd_other (x : Side) (g : Jesd) : (x.setJesd .c0 g).jesdOf .c1 = x.jesdOf .c1 :=
  lget_lset_ne _ _ _ _ _ (by decide)

/-! ### Bits of a field -/

/-- The bit taken away is clear. -/
theorem bitAt_sub_two_pow {w i : Nat} (h : bitAt w i = true) : bitAt (w - 2 ^ i) i = false := by
  have hq : w / 2 ^ i % 2 = 1 := by simpa [bitAt] using h
  have hp := Nat.two_pow_pos i
  have hd : (w - 2 ^ i) / 2 ^ i = w / 2 ^ i - 1 := by simpa using Nat.sub_mul_div w (2 ^ i) 1
  unfold bitAt
  rw [hd]
  have : (w / 2 ^ i - 1) % 2 = 0 := by omega
  rw [this]
  rfl

theorem Side.get_andNotBit_apart (x : Side) (f g : Fld) (i : Nat) (h : f.apart g) : (x.andNotBit f i).get g = x.get g := by
  unfold Side.andNotBit
  split
  · exact Side.get_set_apart x f g _ h
  · rfl

theorem Side.on_andNotBit_apart (x : Side) (f g : Fld) (i : Nat) (h : f.apart g) : (x.andNotBit f i).on g = x.on g := by
  unfold Side.on
  rw [Side.get_andNotBit_apart x f g i h]

/-- A bit of a field that has been cleared reads as 0. -/
theorem Side.bitAt_andNotBit (x : Side) (f : Fld) (i : Nat) (h : f.lo ≤ f.hi ∧ f.hi < 36) : bitAt ((x.andNotBit f i).get f) i = false := by
  unfold Side.andNotBit
  split
  case isTrue hb =>
    rw [Side.get_set_self x f _ h (lt_of_le_of_lt (Nat.sub_le _ _) (x.get_lt f))]
    exact bitAt_sub_two_pow hb
  case isFalse hb => exact Bool.eq_false_iff.2 hb

theorem Side.get_orBit_apart (x : Side) (f g : Fld) (i : Nat) (h : f.apart g) : (x.orBit f i).get g = x.get g := by
  unfold Side.orBit
  split
  · rfl
  · exact Side.get_set_apart x f g _ h

/-! ### Events (R278) -/

/-- An event leaves every register but the counter of the events dropped. -/
theorem Side.get_event_apart (x : Side) (code t : Nat) (a b : Int) (g : Fld) (h : EVT_DROP.whole.apart g) :
    (x.event code t a b).get g = x.get g := by
  obtain ⟨hs, cs, e | e⟩ := x.eventSt_cases code 0 t a b
  · exact (congrArg (Side.get · g) e).trans (Side.get_congr rfl rfl rfl g)
  · exact (congrArg (Side.get · g) e).trans ((Side.get_set_apart _ _ _ _ h).trans (Side.get_congr rfl rfl rfl g))

theorem Side.event_jesd (x : Side) (code t : Nat) (a b : Int) : (x.event code t a b).jesd = x.jesd := by
  unfold Side.event
  obtain ⟨hs, cs, e | e⟩ := x.eventSt_cases code 0 t a b <;> rw [e]
  rfl

end Sys2Proof.Machine
end

section
/-! PROOFS. The JESD204C receivers (R49 to R52): the steps of bring-up, and multiblocks, loss and resumption of a running link. -/

namespace Sys2Proof.Machine

/-! ### The step follows the lanes' locks (R49) -/

theorem Side.jesdAdvance_headers {y : Side} {c : Chan} {g : Jesd} (hg : y.jesdOf c = g) (h : g.step = 1)
    (hs : y.allLanes c (JESD_STAT.SH_LOCK c.n) = false) : y.jesdAdvance c = y.setJesd c g := by
  unfold Side.jesdAdvance
  simp [hg, h, hs]

theorem Side.jesdAdvance_headersDone {y : Side} {c : Chan} {g : Jesd} (hg : y.jesdOf c = g) (h : g.step = 1)
    (hs : y.allLanes c (JESD_STAT.SH_LOCK c.n) = true) (he : y.allLanes c (JESD_STAT.EMB_LOCK c.n) = false) :
    y.jesdAdvance c = y.setJesd c { g with step := 2 } := by
  unfold Side.jesdAdvance
  simp [hg, h, hs, he]

theorem Side.jesdAdvance_blocks {y : Side} {c : Chan} {g : Jesd} (hg : y.jesdOf c = g) (h : g.step = 2)
    (he : y.allLanes c (JESD_STAT.EMB_LOCK c.n) = false) : y.jesdAdvance c = y.setJesd c g := by
  unfold Side.jesdAdvance
  simp [hg, h, he]

/-- With every lane locked the period is measured, or on a running internal LEMC the release is next. -/
theorem Side.jesdAdvance_blocksDone {y : Side} {c : Chan} {g : Jesd} (hg : y.jesdOf c = g) (h : g.step = 2)
    (he : y.allLanes c (JESD_STAT.EMB_LOCK c.n) = true) :
    y.jesdAdvance c = y.setJesd c { g with step := if g.lemc = none then 3 else 5 } := by
  unfold Side.jesdAdvance
  cases hl : g.lemc <;> simp [hg, h, he, hl]

section
variable {s : State} {sd : SideId} {ch : Chan} {lane : Fin 8}

theorem shLock_takes (hr : (s.side sd).laneRuns ch lane.val = true) (h : ((s.side sd).jesdOf ch).step = 1)
    (hl : lane.val < (s.side sd).jesdL ch) : exec (.shLock sd ch lane) s
      = .next (s.setSide sd (((s.side sd).orBit (JESD_STAT.SH_LOCK ch.n) lane.val).jesdAdvance ch)) := by
  show execShLock sd ch lane s = _
  simp [execShLock, State.mod, hr, h, hl]

theorem embLock_takes (hr : (s.side sd).laneRuns ch lane.val = true) (h : ((s.side sd).jesdOf ch).step = 2)
    (hb : bitAt ((s.side sd).get (JESD_STAT.SH_LOCK ch.n)) lane.val = true) : exec (.embLock sd ch lane) s
      = .next (s.setSide sd (((s.side sd).orBit (JESD_STAT.EMB_LOCK ch.n) lane.val).jesdAdvance ch)) := by
  show execEmbLock sd ch lane s = _
  simp [execEmbLock, State.mod, hr, h, hb]

/-! ### The period of the extended multiblock (R50) and SYSREF -/

theorem lemcMeasure_equal {n : Nat} (h : ((s.side sd).jesdOf ch).step = 3) (hn : n ≠ 0) :
    exec (.lemcMeasure sd ch (List.replicate 16 n)) s = .next (s.mod sd (fun x =>
      ((x.set (JESD_LEMC_INFO.CYCLES ch.n) n).set (JESD_LEMC_INFO.SAMPLES ch.n) (x.samplesOf ch)).setJesd ch
        { (s.side sd).jesdOf ch with step := 4 })) := by
  have hall : (List.replicate 16 n).all (· == n) = true := by simp
  have hfirst : lget (List.replicate 16 n) 0 0 = n := rfl
  show Host.Outcome.next (s.mod sd (fun x => x.lemcMeasure ch (List.replicate 16 n))) = _
  unfold Side.lemcMeasure State.mod
  simp only [hfirst, hall, h, List.length_replicate, bne_self_eq_false, Bool.or_self, Bool.false_eq_true, if_false, bne_iff_ne.2 hn,
    Bool.and_self, if_true]
  rfl

theorem lemcMeasure_unequal {counts : List Nat} (h : ((s.side sd).jesdOf ch).step = 3) (hl : counts.length = 16)
    (hc : ∃ c ∈ counts, c ≠ lget counts 0 0) : exec (.lemcMeasure sd ch counts) s = .next (s.mod sd (fun x =>
      (x.set (JESD_STAT.CFG_ERR ch.n) 1).setJesd ch { (s.side sd).jesdOf ch with step := 0 })) := by
  have hall : counts.all (· == lget counts 0 0) = false := by
    obtain ⟨c, hm, hne⟩ := hc
    exact List.all_eq_false.2 ⟨c, hm, by simpa using hne⟩
  show Host.Outcome.next (s.mod sd (fun x => x.lemcMeasure ch counts)) = _
  unfold Side.lemcMeasure State.mod
  simp only [hall, h, hl, bne_self_eq_false, Bool.or_self, Bool.and_false, Bool.false_eq_true, if_false]
  rfl

/-- A receiver that waits for SYSREF is aligned by the edge; one that is off and has no internal LEMC is left. -/
theorem sysrefEdge_aligns (h0 : ((s.side sd).jesdOf .c0).step = 4) (h1 : ((s.side sd).jesdOf .c1).step ≠ 4)
    (hl : ((s.side sd).jesdOf .c1).lemc = none) : exec (.sysrefEdge sd) s = .next (s.mod sd (fun x =>
      (x.set (JESD_STAT.ALIGNED 0) 1).setJesd .c0 { x.jesdOf .c0 with step := 5, lemc := some x.rt.edges })) := by
  have hfirst : (s.side sd).sysref .c0 = ((s.side sd).set (JESD_STAT.ALIGNED 0) 1).setJesd .c0
      { (s.side sd).jesdOf .c0 with step := 5, lemc := some (s.side sd).rt.edges } := by
    unfold Side.sysref
    simp only [h0, beq_self_eq_true, if_true]
    rfl
  have hsecond : ∀ g, (((s.side sd).set (JESD_STAT.ALIGNED 0) 1).setJesd .c0 g).sysref .c1
      = ((s.side sd).set (JESD_STAT.ALIGNED 0) 1).setJesd .c0 g := fun g => by
    have hc1 : (((s.side sd).set (JESD_STAT.ALIGNED 0) 1).setJesd .c0 g).jesdOf .c1 = (s.side sd).jesdOf .c1 :=
      Side.jesdOf_setJesd_other _ _
    unfold Side.sysref
    simp [hc1, h1, hl]
  show Host.Outcome.next (s.mod sd (fun x => (x.sysref .c0).sysref .c1)) = _
  unfold State.mod
  beta_reduce
  rw [hfirst, hsecond]

/-! ### The release (R49 step 5, R52) -/

theorem linkUp_idle (late : Bool) (h : ((s.side sd).jesdOf ch).step ≠ 5) : exec (.linkUp sd ch late) s = .next s := by
  show execLinkUp sd ch late s = _
  simp [execLinkUp, State.mod, h]

theorem linkUp_late (h : ((s.side sd).jesdOf ch).step = 5) : exec (.linkUp sd ch true) s = .next (s.mod sd (fun x => x.lateLane ch)) := by
  show execLinkUp sd ch true s = _
  simp [execLinkUp, State.mod, h]

theorem linkUp_releases (h : ((s.side sd).jesdOf ch).step = 5) (ho : ((s.side sd).jesdOf ch).outage = false) :
    exec (.linkUp sd ch false) s = .next (s.mod sd (fun x =>
      (x.set (JESD_STAT.LINK_UP ch.n) 1).setJesd ch { (s.side sd).jesdOf ch with step := 6 })) := by
  show execLinkUp sd ch false s = _
  simp [execLinkUp, State.mod, h, ho]

theorem linkUp_waits (h : ((s.side sd).jesdOf ch).step = 5) (ho : ((s.side sd).jesdOf ch).outage = true) :
    exec (.linkUp sd ch false) s = .next s := by
  show execLinkUp sd ch false s = _
  simp [execLinkUp, State.mod, h, ho]

theorem linkResume_late (h : ((s.side sd).jesdOf ch).step = 5) (ho : ((s.side sd).jesdOf ch).outage = true) :
    exec (.linkResume sd ⟨ch, true⟩) s = .next (s.mod sd (fun x => x.lateLane ch)) := by
  show execLinkResume sd ⟨ch, true⟩ s = _
  simp [execLinkResume, State.mod, h, ho]

/-- The first whole extended multiblock that ends no earlier than now. -/
theorem le_ceil_mul (d : Nat) {cy : Nat} (h : 0 < cy) : d ≤ (d + cy - 1) / cy * cy := by
  have := Nat.div_add_mod (d + cy - 1) cy
  have := Nat.mod_lt (d + cy - 1) h
  have := Nat.mul_comm cy ((d + cy - 1) / cy)
  omega

theorem linkResume_resumes (h : ((s.side sd).jesdOf ch).step = 5) (ho : ((s.side sd).jesdOf ch).outage = true)
    (hlen : (s.side sd).jesd.length = 2) : Does (.linkResume sd ⟨ch, false⟩) s (fun t =>
      (t.side sd).on (JESD_STAT.LINK_UP ch.n) = true ∧ ((t.side sd).jesdOf ch).step = 6 ∧ ((t.side sd).jesdOf ch).outage = true
        ∧ ∃ k, ((t.side sd).jesdOf ch).resumeAt = some k
          ∧ (s.side sd).rt.edges - ((s.side sd).feOf ch).startEdge ≤ k * max 1 ((s.side sd).get (JESD_LEMC_INFO.CYCLES ch.n))
          ∧ ((t.side sd).jesdOf ch).mbs = List.replicate 8 (k * (s.side sd).jesdE ch)) := by
  refine ⟨_, rfl, ?_⟩
  beta_reduce
  rw [State.side_mod]
  simp only [h, ho, bne_self_eq_false, Bool.not_true, Bool.or_self, Bool.false_eq_true, if_false]
  rw [Side.jesdOf_setJesd (x := (s.side sd).raise (JESD_STAT.LINK_UP ch.n)) ch _ hlen, Side.on_setJesd]
  exact ⟨Side.on_set_one _ _ ⟨rfl, by cases ch <;> decide⟩, rfl, rfl, _, rfl, le_ceil_mul _ (by omega), rfl⟩

/-! ### Multiblocks of a running link (R51) -/

/-- A multiblock of a lane of a running link. -/
theorem laneMultiblock_takes (crcOk : Bool) (hr : (s.side sd).laneRuns ch lane.val = true) (h : ((s.side sd).jesdOf ch).step = 6)
    (hl : lane.val < (s.side sd).jesdL ch) : exec (.laneMultiblock sd ch lane crcOk) s = .next (s.mod sd (fun x =>
      let y := if crcOk then x else (x.inc (JESD_CRC_ERR.whole ch.n)).orBit (JESD_STAT.CRC_SEEN ch.n) lane.val
      if y.on (FE_STAT.RUNNING ch.n) then
        let g := x.jesdOf ch
        let bad := g.bad.filter (fun p => p.2 ≥ (y.feOf ch).j / max 1 (y.get (JESD_LEMC_INFO.SAMPLES ch.n)) * y.jesdE ch)
        y.setJesd ch { g with
          mbs := lset g.mbs lane.val (lget g.mbs lane.val 0 + 1)
          bad := if crcOk then bad else bad ++ [(lane.val, lget g.mbs lane.val 0)] }
      else y)) := by
  have hguard : (!(s.side sd).laneRuns ch lane.val || ((s.side sd).jesdOf ch).step != 6 || decide (lane.val ≥ (s.side sd).jesdL ch)) = false := by
    simp [hr, h, hl]
  show Host.Outcome.next (s.mod sd (fun x => x.laneMultiblock ch lane.val crcOk)) = _
  unfold Side.laneMultiblock State.mod
  simp only [hguard, Bool.false_eq_true, if_false]
  cases hy : (if crcOk = true then s.side sd else
      ((s.side sd).inc (JESD_CRC_ERR.whole ch.n)).orBit (JESD_STAT.CRC_SEEN ch.n) lane.val).on (FE_STAT.RUNNING ch.n) <;> rfl

/-! ### Loss of a running link (R52) -/

theorem Side.get_beginOutage (x : Side) (c : Chan) (f : Fld) : (x.beginOutage c).get f = x.get f := by
  unfold Side.beginOutage
  dsimp only
  split
  · rfl
  · split <;> exact Side.get_setJesd ..

theorem Side.beginOutage_length (x : Side) (c : Chan) : (x.beginOutage c).jesd.length = x.jesd.length := by
  unfold Side.beginOutage
  dsimp only
  split
  · rfl
  · split <;> exact lset_length ..

theorem Side.beginOutage_running {x : Side} {c : Chan} (hr : x.on (FE_STAT.RUNNING c.n) = true) (hlen : x.jesd.length = 2) :
    ((x.beginOutage c).jesdOf c).outage = true := by
  unfold Side.beginOutage
  dsimp only
  rw [hr, Bool.not_true, if_neg Bool.false_ne_true]
  split
  case isTrue ho => rw [Side.jesdOf_setJesd c _ hlen]; exact ho
  case isFalse => rw [Side.jesdOf_setJesd c _ hlen]

/-- R52: the flags a link that goes down leaves; its event and the substitution follow. -/
def Side.downFlags (x : Side) (c : Chan) : Side := (x.set (JESD_STAT.LINK_UP c.n) 0).set (JESD_STAT.LINK_LOST c.n) 1

theorem Side.linkDown_eq (x : Side) (c : Chan) :
    x.linkDown c = ((x.downFlags c).event 0x08 (x.downFlags c).now c.n 0).beginOutage c := rfl

theorem Side.get_linkDown (x : Side) (c : Chan) (f : Fld) (h : EVT_DROP.whole.apart f) : (x.linkDown c).get f = (x.downFlags c).get f := by
  rw [Side.linkDown_eq, Side.get_beginOutage, Side.get_event_apart _ _ _ _ _ f h]

theorem Side.on_linkDown (x : Side) (c : Chan) (f : Fld) (h : EVT_DROP.whole.apart f) : (x.linkDown c).on f = (x.downFlags c).on f := by
  unfold Side.on
  rw [Side.get_linkDown x c f h]

theorem Side.linkDown_length (x : Side) (c : Chan) : (x.linkDown c).jesd.length = x.jesd.length := by
  rw [Side.linkDown_eq, Side.beginOutage_length, Side.event_jesd]
  rfl

theorem Side.on_downFlags (x : Side) (c : Chan) : (x.downFlags c).on (JESD_STAT.LINK_UP c.n) = false
    ∧ (x.downFlags c).on (JESD_STAT.LINK_LOST c.n) = true := by
  unfold Side.downFlags
  refine ⟨?_, Side.on_set_one _ _ ⟨rfl, by cases c <;> decide⟩⟩
  rw [Side.on_set_apart _ _ _ _ (by cases c <;> decide)]
  exact Side.on_set_zero _ _ (by cases c <;> decide)

theorem Side.linkDown_outage {x : Side} {c : Chan} (hr : x.on (FE_STAT.RUNNING c.n) = true) (hlen : x.jesd.length = 2) :
    ((x.linkDown c).jesdOf c).outage = true := by
  rw [Side.linkDown_eq]
  have hflags : (x.downFlags c).on (FE_STAT.RUNNING c.n) = true := by
    unfold Side.downFlags
    cases c <;> rw [Side.on_set_apart _ _ _ _ (by decide), Side.on_set_apart _ _ _ _ (by decide), hr]
  refine Side.beginOutage_running ?_ ((congrArg List.length (Side.event_jesd ..)).trans hlen)
  unfold Side.on
  rw [Side.get_event_apart _ _ _ _ _ _ (by cases c <;> decide)]
  exact hflags

/-- R52: the locks of a lane that has lost its headers. -/
def Side.laneUnlocked (x : Side) (c : Chan) (lane : Nat) : Side :=
  (x.andNotBit (JESD_STAT.SH_LOCK c.n) lane).andNotBit (JESD_STAT.EMB_LOCK c.n) lane

theorem Side.on_laneUnlocked (x : Side) (c : Chan) (lane : Nat) (f : Fld) (h1 : (JESD_STAT.SH_LOCK c.n).apart f)
    (h2 : (JESD_STAT.EMB_LOCK c.n).apart f) : (x.laneUnlocked c lane).on f = x.on f := by
  unfold Side.laneUnlocked
  rw [Side.on_andNotBit_apart _ _ _ _ h2, Side.on_andNotBit_apart _ _ _ _ h1]

theorem Side.bitAt_laneUnlocked (x : Side) (c : Chan) (lane : Nat) :
    bitAt ((x.laneUnlocked c lane).get (JESD_STAT.SH_LOCK c.n)) lane = false
      ∧ bitAt ((x.laneUnlocked c lane).get (JESD_STAT.EMB_LOCK c.n)) lane = false := by
  unfold Side.laneUnlocked
  refine ⟨?_, Side.bitAt_andNotBit _ _ _ (by cases c <;> decide)⟩
  rw [Side.get_andNotBit_apart _ _ _ _ (by cases c <;> decide)]
  exact Side.bitAt_andNotBit _ _ _ (by cases c <;> decide)

theorem Side.regsOf_laneUnlocked (x : Side) (c : Chan) (lane : Nat) : x.regsOf (x.laneUnlocked c lane) :=
  Side.regsOf_andNotBit (Side.regsOf_andNotBit x.regsOf_refl _ _) _ _

theorem linkLost_takes (hr : (s.side sd).laneRuns ch lane.val = true) (h : ((s.side sd).jesdOf ch).step = 6)
    (hl : lane.val < (s.side sd).jesdL ch) : exec (.linkLost sd ch lane) s = .next (s.mod sd (fun x =>
      let y := (x.linkDown ch).laneUnlocked ch lane.val
      y.setJesd ch { y.jesdOf ch with step := 1 })) := by
  have hguard : (!(s.side sd).laneRuns ch lane.val || ((s.side sd).jesdOf ch).step != 6 || decide (lane.val ≥ (s.side sd).jesdL ch)) = false := by
    simp [hr, h, hl]
  show execLinkLost sd ch lane s = _
  unfold execLinkLost State.mod
  simp only [hguard, Bool.false_eq_true, if_false]
  rfl

theorem linkLost_reacquires (hr : (s.side sd).laneRuns ch lane.val = true) (h : ((s.side sd).jesdOf ch).step = 6)
    (hl : lane.val < (s.side sd).jesdL ch) : Does (.linkLost sd ch lane) s (fun t =>
      (t.side sd).on (JESD_STAT.LINK_UP ch.n) = false ∧ (t.side sd).on (JESD_STAT.LINK_LOST ch.n) = true
        ∧ bitAt ((t.side sd).get (JESD_STAT.SH_LOCK ch.n)) lane.val = false ∧ bitAt ((t.side sd).get (JESD_STAT.EMB_LOCK ch.n)) lane.val = false
        ∧ ((s.side sd).jesd.length = 2 → ((t.side sd).jesdOf ch).step = 1
          ∧ ((s.side sd).on (FE_STAT.RUNNING ch.n) = true → ((t.side sd).jesdOf ch).outage = true))) := by
  refine ⟨_, linkLost_takes hr h hl, ?_⟩
  beta_reduce
  rw [State.side_mod]
  dsimp only
  have hregs := ((s.side sd).linkDown ch).regsOf_laneUnlocked ch lane.val
  obtain ⟨hup, hlost⟩ := (s.side sd).on_downFlags ch
  obtain ⟨hsh, hemb⟩ := ((s.side sd).linkDown ch).bitAt_laneUnlocked ch lane.val
  have hon : ∀ f : Fld, EVT_DROP.whole.apart f → (JESD_STAT.SH_LOCK ch.n).apart f → (JESD_STAT.EMB_LOCK ch.n).apart f →
      (((s.side sd).linkDown ch).laneUnlocked ch lane.val).on f = ((s.side sd).downFlags ch).on f := fun f h0 h1 h2 => by
    rw [Side.on_laneUnlocked _ _ _ _ h1 h2, Side.on_linkDown _ _ _ h0]
  simp only [Side.on_setJesd, Side.get_setJesd]
  refine ⟨?_, ?_, hsh, hemb, fun hlen => ?_⟩
  · rw [hon _ (by cases ch <;> decide) (by cases ch <;> decide) (by cases ch <;> decide), hup]
  · rw [hon _ (by cases ch <;> decide) (by cases ch <;> decide) (by cases ch <;> decide), hlost]
  · have hlen' : (((s.side sd).linkDown ch).laneUnlocked ch lane.val).jesd.length = 2 := by
      obtain ⟨r, e⟩ := hregs
      rw [e]
      exact ((s.side sd).linkDown_length ch).trans hlen
    rw [Side.jesdOf_setJesd ch _ hlen', hregs.jesdOf]
    exact ⟨rfl, fun hrun => Side.linkDown_outage hrun hlen⟩

end

/-- Settles O29: each happening of a receiver has its equation at its own step; the steps' guards decide which is made. -/
theorem linkReceivers : Obligations.LinkReceivers := by
  unfold Obligations.LinkReceivers
  refine ⟨?_, ?_⟩
  · intro s sd ch lane n counts
    dsimp only
    have hsh := (Side.regsOf_orBit (s.side sd) (JESD_STAT.SH_LOCK ch.n) lane.val).jesdOf ch
    have hemb := (Side.regsOf_orBit (s.side sd) (JESD_STAT.EMB_LOCK ch.n) lane.val).jesdOf ch
    refine ⟨fun hr h hl => ⟨fun hs => ?_, fun hs he => ?_⟩, fun hr h hb => ⟨fun he => ?_, fun he => ?_⟩,
      fun h hc hn => hc ▸ lemcMeasure_equal h hn, fun h hl hc => lemcMeasure_unequal h hl hc, fun h0 h1 hl => sysrefEdge_aligns h0 h1 hl,
      fun h ho => ⟨linkUp_releases h ho, linkUp_late h⟩, fun h ho => ⟨linkUp_waits h ho, linkUp_late h, linkResume_late h ho⟩,
      fun h => linkUp_idle false h⟩
    · rw [shLock_takes hr h hl, Side.jesdAdvance_headers hsh h hs]
    · rw [shLock_takes hr h hl, Side.jesdAdvance_headersDone hsh h hs he]
    · rw [embLock_takes hr h hb, Side.jesdAdvance_blocksDone hemb h he]
    · rw [embLock_takes hr h hb, Side.jesdAdvance_blocks hemb h he]
  · intro s sd ch lane
    dsimp only
    have hcrc : (((s.side sd).inc (JESD_CRC_ERR.whole ch.n)).orBit (JESD_STAT.CRC_SEEN ch.n) lane.val).on (FE_STAT.RUNNING ch.n)
        = (s.side sd).on (FE_STAT.RUNNING ch.n) := by
      unfold Side.on
      rw [Side.get_orBit_apart _ _ _ _ (by cases ch <;> decide)]
      exact congrArg (· != 0) (Side.get_set_apart _ _ _ _ (by cases ch <;> decide))
    refine ⟨fun hr h hl => ⟨fun hoff => ?_, fun hon => ?_, fun hoff => ?_, linkLost_reacquires hr h hl⟩,
      fun h ho hlen => linkResume_resumes h ho hlen⟩
    · rw [laneMultiblock_takes true hr h hl]
      simp [State.mod, hoff]
    · rw [laneMultiblock_takes true hr h hl]
      simp [State.mod, hon]
    · rw [laneMultiblock_takes false hr h hl]
      simp only [State.mod, Bool.false_eq_true, if_false, hcrc, hoff]
      rfl

end Sys2Proof.Machine
end

section
/-! PROOFS. The front end (R53 to R67): its start, NCO changes, fades, and the samples that leave it. -/

namespace Sys2Proof.Machine

/-! ### A front end replaced, a pair of words set -/

@[simp] theorem Side.get_setFe (x : Side) (c : Chan) (v : FrontEnd) (f : Fld) : (x.setFe c v).get f = x.get f := Side.get_congr rfl rfl rfl f

@[simp] theorem Side.on_setFe (x : Side) (c : Chan) (v : FrontEnd) (f : Fld) : (x.setFe c v).on f = x.on f := by
  unfold Side.on
  rw [Side.get_setFe]

theorem Side.on_setPair_apart (x : Side) (i v : Nat) (g : Fld) (h : g.idx ≠ i ∧ g.idx ≠ i + 1) : (x.setPair i v).on g = x.on g := by
  unfold Side.on Side.get Side.setPair
  rw [Side.reg_setReg_ne _ _ _ _ h.2, Side.reg_setReg_ne _ _ _ _ h.1]

theorem Side.on_feFlags_apart (x : Side) (c : Chan) (g : Fld) (h1 : (FE_STAT.FADING c.n).apart g) (h2 : (FE_STAT.PENDING c.n).apart g) :
    (x.feFlags c).on g = x.on g := by
  unfold Side.feFlags
  simp only [Side.put_eq]
  rw [Side.on_set_apart _ _ _ _ h2, Side.on_set_apart _ _ _ _ h1]

/-! ### Commands that wait for the front end (R273) -/

/-- With no command running there is none to complete. -/
theorem running_filter_nil {l : List Staged} (h : ∀ d ∈ l, d.running = false) (p : Staged → Bool) (hp : ∀ d, p d = true → d.running = true) :
    l.filter p = [] :=
  List.filter_eq_nil_iff.2 (fun d hd hpd => Bool.eq_false_iff.1 (h d hd) (hp d hpd))

theorem State.finishCfg_quiet {s : State} {sd : SideId} (h : ∀ d ∈ (s.side sd).host.staged, d.running = false) (ty target : Nat)
    (p : Staged → Bool) : s.finishCfg sd ty target p = s := by
  unfold State.finishCfg
  rw [running_filter_nil h _ (fun d hd => by simp only [Bool.and_eq_true] at hd; exact hd.1.1.1.2)]
  rfl

theorem State.startedFe_quiet {s : State} {sd : SideId} (h : ∀ d ∈ (s.side sd).host.staged, d.running = false) (c : Chan) (t : Nat) :
    s.startedFe sd c t = s := by
  unfold State.startedFe
  dsimp only
  rw [running_filter_nil h _ (fun d hd => by simp only [Bool.and_eq_true] at hd; exact hd.1.1.1.2)]
  rfl

/-! ### The start (R53, R56, R62, R69) -/

/-- The front end of a channel as it starts: its block, its NCO, empty filters, the origin of its grid and its boundary 0. -/
def Side.feBegun (x : Side) (c : Chan) : FrontEnd :=
  let fe := x.feOf c
  let b := fe.force
  let stages := feDecim b + (if x.on (JESD_CFG.CPLX c.n) then 0 else 1)
  { fe with
    starting := false, j := 0, acc := 0, freq := feFreq b, phase := fePhase b
    ncoHist := [(0, 0, feFreq b, fePhase b)], codes := []
    hb := List.replicate stages ⟨0, []⟩, fin := ⟨0, []⟩, eq := ⟨0, []⟩
    m := feOrigin (feResp b) (2 ^ stages), m0 := feOrigin (feResp b) (2 ^ stages), startEdge := x.rt.edges
    lemcT := [(0, x.rt.rta, x.rt.inc)], steps := []
    gridP := xfLog2N (x.xfOf c).block, gridOf := xfOfCode (x.xfOf c).block, fade := none, swapPend := none }

/-- Its receiver then: codes are substituted from the first on while the link is down (R52). -/
def Side.jesdBegun (x : Side) (c : Chan) : Jesd :=
  let down := !x.on (JESD_STAT.LINK_UP c.n)
  { x.jesdOf c with
    mbs := List.replicate 8 0, bad := [], outage := down, resumeAt := none
    lostFrom := if down then some 0 else none, lostUpTo := none }

theorem Side.startFe_eq (x : Side) (c : Chan) : ∃ a xf v, x.startFe c
    = (((({ (x.setFe c (x.feBegun c)).setJesd c (x.jesdBegun c) with acq := a, xf := xf } : Side).set (FE_STAT.RUNNING c.n) 1).feFlags c).setPair
        (FE_ORIGIN_LO.whole c.n).idx v) :=
  ⟨_, _, _, rfl⟩

theorem Side.startFe_host (x : Side) (c : Chan) : (x.startFe c).host = x.host := by
  obtain ⟨a, xf, v, e⟩ := x.startFe_eq c
  rw [e]
  rfl

theorem Side.startFe_feOf {x : Side} (c : Chan) (h : x.fe.length = 2) : (x.startFe c).feOf c = x.feBegun c := by
  obtain ⟨a, xf, v, e⟩ := x.startFe_eq c
  rw [e]
  exact lget_lset_self _ _ _ _ (h ▸ chan_n_lt c)

theorem Side.startFe_jesdOf {x : Side} (c : Chan) (h : x.jesd.length = 2) : (x.startFe c).jesdOf c = x.jesdBegun c := by
  obtain ⟨a, xf, v, e⟩ := x.startFe_eq c
  rw [e]
  exact lget_lset_self _ _ _ _ (h ▸ chan_n_lt c)

theorem Side.startFe_running (x : Side) (c : Chan) : (x.startFe c).on (FE_STAT.RUNNING c.n) = true := by
  obtain ⟨a, xf, v, e⟩ := x.startFe_eq c
  rw [e, Side.on_setPair_apart _ _ _ _ (by cases c <;> decide),
    Side.on_feFlags_apart _ _ _ (by cases c <;> decide) (by cases c <;> decide), Side.on_set_one _ _ (by cases c <;> decide)]

section
variable {s : State} {sd : SideId} {ch : Chan}

theorem feStart_starts (hq : ∀ d ∈ (s.side sd).host.staged, d.running = false) (hs : ((s.side sd).feOf ch).starting = true)
    (hl : (s.side sd).atLemc ch = true) : exec (.feStart sd ch) s = .next (s.setSide sd ((s.side sd).startFe ch)) := by
  have hq' : ∀ d ∈ ((s.setSide sd ((s.side sd).startFe ch)).side sd).host.staged, d.running = false := by
    rw [State.side_setSide, Side.startFe_host]
    exact hq
  show execFeStart sd ch s = _
  unfold execFeStart
  simp only [hs, hl, Bool.and_self, if_true]
  rw [State.startedFe_quiet hq']

theorem feStart_waits (hs : ((s.side sd).feOf ch).starting = false) : exec (.feStart sd ch) s = .next s := by
  show execFeStart sd ch s = _
  simp [execFeStart, hs]

/-! ### NCO changes (R58) -/

theorem FrontEnd.ncoDue_one {fe : FrontEnd} {k f p : Nat} (hn : fe.nco = [(k, f, p)]) (hk : k ≤ fe.j) :
    fe.ncoDue = { fe with nco := [], freq := f, phase := p, ncoHist := (fe.j, fe.acc, f, p) :: fe.ncoHist } := by
  unfold FrontEnd.ncoDue
  simp [hn, hk]

theorem FrontEnd.ncoDue_none {fe : FrontEnd} (hn : fe.nco = []) : fe.ncoDue = fe := by
  cases fe
  subst hn
  rfl

/-- A change whose sample the mixer takes next is made. -/
theorem ncoChange_due {k f p : Nat} (hq : ∀ d ∈ (s.side sd).host.staged, d.running = false)
    (hn : ((s.side sd).feOf ch).nco = [(k, f, p)]) (hk : k ≤ ((s.side sd).feOf ch).j) : exec (.ncoChange sd ch) s
      = .next (s.setSide sd ((s.side sd).setFe ch { (s.side sd).feOf ch with
        nco := [], freq := f, phase := p
        ncoHist := (((s.side sd).feOf ch).j, ((s.side sd).feOf ch).acc, f, p) :: ((s.side sd).feOf ch).ncoHist })) := by
  have hdue : ((s.side sd).feOf ch).nco.any (fun p => decide (p.1 ≤ ((s.side sd).feOf ch).j)) = true := by simp [hn, hk]
  show Host.Outcome.next (s.ncoChange sd ch) = _
  unfold State.ncoChange
  simp only [hdue, if_true]
  rw [State.finishCfg_quiet (by rw [State.side_setSide]; exact hq), FrontEnd.ncoDue_one hn hk]

theorem ncoChange_waits {k f p : Nat} (hn : ((s.side sd).feOf ch).nco = [(k, f, p)]) (hk : ((s.side sd).feOf ch).j < k) :
    exec (.ncoChange sd ch) s = .next s := by
  show Host.Outcome.next (s.ncoChange sd ch) = _
  simp [State.ncoChange, hn, hk]

/-! ### Fades (R65 to R67) -/

theorem fadeStart_fades {k m : Nat} (hr : (s.side sd).on (FE_STAT.RUNNING ch.n) = true)
    (hp : ((s.side sd).feOf ch).swapPend = some (k, m)) (hf : ((s.side sd).feOf ch).fade = none) (hm : m ≤ ((s.side sd).feOf ch).m)
    (he : feEqEn ((s.side sd).feOf ch).force = true) : exec (.fadeStart sd ch) s = .next (s.setSide sd (((s.side sd).setFe ch
      { (s.side sd).feOf ch with swapPend := none, fade := some ⟨m, 2 ^ k, (s.side sd).get (FE_STAT.ACTIVE_BANK ch.n)⟩ }).feFlags ch)) := by
  show execFadeStart sd ch s = _
  simp [execFadeStart, State.mod, Side.fadeStart, hr, hp, hf, hm, he]

/-- R67: with the equaliser off the bank changes at once. -/
theorem fadeStart_toggles {k m : Nat} (hr : (s.side sd).on (FE_STAT.RUNNING ch.n) = true)
    (hp : ((s.side sd).feOf ch).swapPend = some (k, m)) (hf : ((s.side sd).feOf ch).fade = none) (hm : m ≤ ((s.side sd).feOf ch).m)
    (he : feEqEn ((s.side sd).feOf ch).force = false) : exec (.fadeStart sd ch) s = .next (s.setSide sd ((((s.side sd).setFe ch
      { (s.side sd).feOf ch with swapPend := none }).put (FE_STAT.ACTIVE_BANK ch.n) (!(s.side sd).on (FE_STAT.ACTIVE_BANK ch.n))).feFlags ch)) := by
  show execFadeStart sd ch s = _
  simp [execFadeStart, State.mod, Side.fadeStart, Side.toggleBank, hr, hp, hf, hm, he]

theorem eqFadeDone_ends {f : Fade} (hr : (s.side sd).on (FE_STAT.RUNNING ch.n) = true) (hf : ((s.side sd).feOf ch).fade = some f)
    (hm : f.mb + f.k ≤ ((s.side sd).feOf ch).m) : exec (.eqFadeDone sd ch) s = .next (s.setSide sd
      (let y := (((s.side sd).setFe ch { (s.side sd).feOf ch with fade := none }).set (FE_STAT.ACTIVE_BANK ch.n) (1 - f.old)).feFlags ch
       y.event 0x07 (y.tSample ch (f.mb + f.k)) (ch.n + 2 * (1 - f.old) : Nat) 0)) := by
  show execEqFadeDone sd ch s = _
  simp [execEqFadeDone, State.mod, Side.fadeDone, hr, hf, hm]

theorem eqFadeDone_waits {f : Fade} (hf : ((s.side sd).feOf ch).fade = some f) (hm : ((s.side sd).feOf ch).m < f.mb + f.k) :
    exec (.eqFadeDone sd ch) s = .next s := by
  have hwait : (s.side sd).fadeDone ch ((s.side sd).feOf ch).m = s.side sd := by
    unfold Side.fadeDone
    simp [hf, hm]
  show execEqFadeDone sd ch s = _
  simp [execEqFadeDone, State.mod, hwait]

/-! ### Analysis samples (R53, R54) -/

theorem analysisSample_stopped (codes : List ConvCode) (hr : (s.side sd).on (FE_STAT.RUNNING ch.n) = false) :
    exec (.analysisSample sd ch codes) s = .next s := by
  show Host.Outcome.next (s.analysis sd ch codes) = _
  simp [State.analysis, hr]

/-- The samples that codes give spread on their own side, and over the Keel. -/
def State.spreadCodes (s : State) (sd : SideId) (ch : Chan) (codes : List ConvCode) : State :=
  let r := (s.side sd).feCodes ch codes
  let y := s.setSide sd (r.2.foldl (fun x a => x.spread1 ch a) r.1)
  if s.keel.up then y.mod sd.other (fun w => w.takePartner ch r.2) else y

theorem analysisSample_spreads {codes : List ConvCode} (hr : (s.side sd).on (FE_STAT.RUNNING ch.n) = true)
    (hq : ∀ d ∈ ((s.spreadCodes sd ch codes).side sd).host.staged, d.running = false) :
    exec (.analysisSample sd ch codes) s = .next (s.spreadCodes sd ch codes) := by
  show Host.Outcome.next (s.analysis sd ch codes) = _
  unfold State.analysis
  simp only [hr, Bool.not_true, Bool.false_eq_true, if_false, State.setSide_keel]
  exact congrArg _ (State.finishCfg_quiet hq _ _ _)

end

/-- A sample goes to the detectors, to the record and the streams, and between them to a running transform. -/
theorem Side.spread1_stopped {x : Side} {c : Chan} {a : ASmp} (h : (x.detect c a).on (XF_STAT.RUNNING c.n) = false) :
    x.spread1 c a = ((x.detect c a).recordSample c a).offerIq c a := by
  simp [Side.spread1, h]

theorem Side.spread1_running {x : Side} {c : Chan} {a : ASmp} (h : (x.detect c a).on (XF_STAT.RUNNING c.n) = true) :
    x.spread1 c a = ((((x.detect c a).setXf c { (x.detect c a).xfOf c with buf := ((x.detect c a).xfOf c).buf ++ [a] }).recordSample c a).offerIq c a) := by
  simp [Side.spread1, h]

/-- R53, R56: a code takes the next number, and the phase accumulator goes on. -/
theorem FrontEnd.feed_counts (fe : FrontEnd) (cplx : Bool) (np ci cq : Nat) (crc lost : Bool) :
    (fe.feed cplx np ci cq crc lost).1.j = fe.ncoDue.j + 1
      ∧ (fe.feed cplx np ci cq crc lost).1.acc = (fe.ncoDue.acc + fe.ncoDue.freq) % 2 ^ 48 := by
  unfold FrontEnd.feed
  dsimp only
  split
  · exact ⟨rfl, rfl⟩
  · split <;> exact ⟨rfl, rfl⟩

/-- Settles O30: a start, a change and a fade have their equations at their boundaries; a sample's way is the order of its takers. -/
theorem frontEndSamples : Obligations.FrontEndSamples := by
  unfold Obligations.FrontEndSamples
  refine ⟨?_, ?_⟩
  · intro s sd ch
    dsimp only
    refine ⟨fun hq hs hl hfe hj => ⟨_, feStart_starts hq hs hl, ?_⟩, fun hs => feStart_waits hs,
      fun k f p hq hn => ⟨fun hk => ncoChange_due hq hn hk, fun hk => ncoChange_waits hn hk⟩,
      fun k m hr hp hf hm => ⟨fun he => fadeStart_fades hr hp hf hm he, fun he => fadeStart_toggles hr hp hf hm he⟩,
      fun f hr hf => ⟨fun hm => eqFadeDone_ends hr hf hm, fun hm => eqFadeDone_waits hf hm⟩⟩
    beta_reduce
    rw [State.side_setSide, Side.startFe_feOf ch hfe, Side.startFe_jesdOf ch hj]
    exact ⟨(s.side sd).startFe_running ch, rfl, rfl, rfl, rfl, rfl, rfl, rfl, rfl, rfl, by simp [Side.jesdBegun]⟩
  · intro s sd ch codes
    dsimp only
    refine ⟨fun hr hq => analysisSample_spreads hr hq, fun hr => analysisSample_stopped codes hr,
      fun w a => ⟨Side.spread1_stopped, Side.spread1_running⟩, fun fe cplx np ci cq crc lost hn => ?_⟩
    have h := fe.feed_counts cplx np ci cq crc lost
    rwa [FrontEnd.ncoDue_none hn] at h

end Sys2Proof.Machine
end

section
/-! PROOFS. Writes of plain registers with rules of their own (R5, R43): how a write that is carried out reaches its register's rule. -/

namespace Sys2Proof.Machine

/-! ### Bits of words -/

theorem bitAt_toNat (w : Word) (i : Nat) : bitAt w.toNat i = w.getLsbD i := by
  simp [bitAt, BitVec.getLsbD, Nat.testBit_eq_decide_div_mod_eq, beq_eq_decide]

/-- A bit that a mask keeps. -/
theorem bitAt_and_mask (v m : Word) (i : Nat) (h : m.getLsbD i = true) : bitAt (v &&& m).toNat i = bitAt v.toNat i := by
  rw [bitAt_toNat, bitAt_toNat, BitVec.getLsbD_and, h, Bool.and_true]

theorem bitAt_or_right {v w : Word} {i : Nat} (h : bitAt v.toNat i = true) : bitAt (w ||| v).toNat i = true := by
  rw [bitAt_toNat] at h
  rw [bitAt_toNat, BitVec.getLsbD_or, h, Bool.or_true]

/-- A one-bit field is a bit of its register. -/
theorem Side.on_eq_bitAt (x : Side) (f : Fld) (h : f.hi = f.lo) : x.on f = bitAt (x.reg f.idx).toNat f.lo := by
  unfold Side.on Side.get bitsOf bitAt
  rw [h, Nat.add_sub_cancel_left]
  rcases Nat.mod_two_eq_zero_or_one ((x.reg f.idx).toNat / 2 ^ f.lo) with e | e <;> simp [e]

theorem Side.on_setReg_ne (x : Side) (i : Nat) (v : Word) (g : Fld) (h : g.idx ≠ i) : (x.setReg i v).on g = x.on g := by
  unfold Side.on Side.get
  rw [Side.reg_setReg_ne _ _ _ _ h]

/-! ### A write that is carried out -/

/-- The write of a plain register is its own rule. -/
theorem State.busWrite_plain {s t : State} {sd : SideId} {m : Fin 11} {idx : Nat} {v : Word} (h : s.opens sd m idx = true)
    (hk : kindOf idx = some .plain) (hl : s.logWrite sd idx v = none)
    (ht : ∀ r, findReg idx = some r → s.plainWrite sd idx r v = t) : s.busWrite sd m.val idx v = t := by
  obtain ⟨hp, hb, hs⟩ := (s.opens_iff sd m idx).1 h
  obtain ⟨r, hr, hrk⟩ := kindOf_eq_some hk
  unfold State.busWrite
  rw [State.busWriteBy_reaches _ _ hp hb, ← ht r hr]
  simp [State.regWrite, hs, hr, hl, hrk]

section
variable {s : State} {sd : SideId} {m : Fin 11} {v : Word}

theorem rtSetSec_writes (h : s.opens sd m RT_SET_SEC.whole.idx = true) : exec (.rtSetSec sd m v) s = .next (s.setSide sd ((s.side sd).wSetSec v)) :=
  congrArg Host.Outcome.next (State.busWrite_plain h (by decide) rfl (fun _ _ => rfl))

theorem splitInCfg_plain (n : Fin 4) : kindOf (SPLIT_IN_CFG.whole n.val).idx = some .plain := by
  revert n
  decide

theorem swapIp_writes {n : Fin 4} (h : s.opens sd m (SPLIT_IN_CFG.whole n.val).idx = true) : ∃ w, exec (.swapIp sd m n.castSucc v) s
    = .next (s.setSide sd ((s.side sd).wSplitIn n.val (w ||| (v &&& wordN (bitMask 18 18))))) := by
  have hk : kindOf (SPLIT_IN_CFG.whole n.val).idx = some .plain := splitInCfg_plain n
  obtain ⟨r, hr, -⟩ := kindOf_eq_some hk
  refine ⟨mergeWrite r ((s.side sd).reg (SPLIT_IN_CFG.whole n.val).idx) v, ?_⟩
  have hidx : (if n.castSucc.val == 4 then EVT_IN_CFG.whole.idx else (SPLIT_IN_CFG.whole n.castSucc.val).idx)
      = (SPLIT_IN_CFG.whole n.val).idx := if_neg (by simp; omega)
  show Host.Outcome.next (s.busWrite sd m.val _ v) = _
  rw [hidx]
  refine congrArg Host.Outcome.next (State.busWrite_plain h hk (by fin_cases n <;> rfl) (fun r' hr' => ?_))
  obtain rfl : r' = r := by rw [hr] at hr'; exact (Option.some.inj hr').symm
  fin_cases n <;> rfl

theorem splitRingCfg_writes {r : RegRow} (h : s.opens sd m SPLIT_RING_CFG.whole.idx = true) (hr : findReg SPLIT_RING_CFG.whole.idx = some r) :
    exec (.splitRingCfgWrite sd m v) s = .next (s.setSide sd
      ((s.side sd).wSplitRingCfg (mergeWrite r ((s.side sd).reg SPLIT_RING_CFG.whole.idx) v))) :=
  congrArg Host.Outcome.next (State.busWrite_plain h (by decide) rfl (fun r' hr' => by
    obtain rfl : r' = r := by rw [hr] at hr'; exact (Option.some.inj hr').symm
    rfl))

theorem soCommit_writes (h : s.opens sd m SO_CTRL.whole.idx = true) : exec (.soCommit sd m v) s = .next (s.setSide sd ((s.side sd).wSoCtrl v)) :=
  congrArg Host.Outcome.next (State.busWrite_plain h (by decide) rfl (fun _ _ => rfl))

theorem soEnable_writes (h : s.opens sd m SO_CTRL.whole.idx = true) : exec (.soEnable sd m v) s = .next (s.setSide sd ((s.side sd).wSoCtrl v)) :=
  congrArg Host.Outcome.next (State.busWrite_plain h (by decide) rfl (fun _ _ => rfl))

theorem jesdCfg_writes {ch : Chan} (h : s.opens sd m (JESD_CFG.whole ch.n).idx = true) :
    exec (.jesdCfgWrite sd m ch v) s = .next (s.setSide sd ((s.side sd).wJesdCfg ch v)) :=
  congrArg Host.Outcome.next (State.busWrite_plain h (by cases ch <;> decide) (by cases ch <;> rfl) (fun _ _ => by cases ch <;> rfl))

theorem toneCfg_writes (h : s.opens sd m TONE_CFG.whole.idx = true) : exec (.toneCfgWrite sd m v) s = .next (s.setSide sd ((s.side sd).wToneCfg v)) :=
  congrArg Host.Outcome.next (State.busWrite_plain h (by decide) rfl (fun _ _ => rfl))

theorem monCfg_writes (h : s.opens sd m MON_CFG.whole.idx = true) : exec (.monCfgWrite sd m v) s = .next (s.setSide sd ((s.side sd).wMonCfg v)) :=
  congrArg Host.Outcome.next (State.busWrite_plain h (by decide) rfl (fun _ _ => rfl))

end

end Sys2Proof.Machine
end

section
/-! PROOFS. Control registers with rules of their own: RT_SET_SEC, interpolators and split ring (R176, R182, R191), SO_CTRL (R431, R435). -/

namespace Sys2Proof.Machine

/-! ### Race time and the split timer -/

theorem Side.wSetSec_arms {x : Side} {v : Word} (h : x.isCrew = false ∨ bitAt v.toNat 35 = false) : x.wSetSec v
    = (x.set RT_SET_SEC.SEC (v.toNat % 2 ^ 32)).set RT_SET_SEC.ARM (if bitAt v.toNat 35 then 1 else 0) := by
  have hsec : bitsOf v.toNat 31 0 = v.toNat % 2 ^ 32 := by simp [bitsOf]
  have hcrew : (x.set RT_SET_SEC.SEC (v.toNat % 2 ^ 32)).isCrew = x.isCrew := by
    unfold Side.isCrew
    rw [Side.on_set_apart _ _ _ _ (by decide), Side.on_set_apart _ _ _ _ (by decide)]
  have hno : (bitAt v.toNat 35 && x.isCrew) = false := by
    rcases h with h | h <;> simp [h]
  unfold Side.wSetSec
  simp only [hsec, hcrew, hno, Bool.false_eq_true, if_false]
  rfl

theorem Side.wSetSec_crew {x : Side} {v : Word} (hc : x.isCrew = true) (h : bitAt v.toNat 35 = true) : x.wSetSec v
    = (x.set RT_SET_SEC.SEC (v.toNat % 2 ^ 32)).set RT_STAT.LOAD_IGNORED 1 := by
  have hsec : bitsOf v.toNat 31 0 = v.toNat % 2 ^ 32 := by simp [bitsOf]
  have hcrew : (x.set RT_SET_SEC.SEC (v.toNat % 2 ^ 32)).isCrew = x.isCrew := by
    unfold Side.isCrew
    rw [Side.on_set_apart _ _ _ _ (by decide), Side.on_set_apart _ _ _ _ (by decide)]
  unfold Side.wSetSec
  simp only [hsec, hcrew, hc, h, Bool.and_self, if_true]
  rfl

/-- R182, R193: SWAP_IP asks for a swap and reads as 0; IP_B keeps its value. -/
theorem Side.wSplitIn_swaps (x : Side) (i : Nat) {w : Word} (h : bitAt w.toNat 18 = true) :
    (x.wSplitIn i w).split.swapReq = dedup (x.split.swapReq ++ [i])
      ∧ (x.wSplitIn i w).get (SPLIT_IN_CFG.IP_B i) = x.get (SPLIT_IN_CFG.IP_B i)
      ∧ (x.wSplitIn i w).on (SPLIT_IN_CFG.SWAP_IP i) = false := by
  have he : x.wSplitIn i w = (((x.setReg (SPLIT_IN_CFG.whole i).idx w).set (SPLIT_IN_CFG.SWAP_IP i) 0).set (SPLIT_IN_CFG.IP_B i)
      (x.get (SPLIT_IN_CFG.IP_B i))).reqSwap i := by
    unfold Side.wSplitIn
    simp only [h, if_true]
  have hget : ∀ (y : Side) f, (y.reqSwap i).get f = y.get f := fun y f => Side.get_congr rfl rfl rfl f
  refine ⟨by rw [he]; rfl, ?_, ?_⟩
  · rw [he, hget]
    exact Side.get_set_self _ (SPLIT_IN_CFG.IP_B i) _ ⟨le_refl 17, by show 17 < 36; decide⟩ (x.get_lt _)
  · unfold Side.on
    rw [he, hget, Side.get_set_apart _ (SPLIT_IN_CFG.IP_B i) (SPLIT_IN_CFG.SWAP_IP i) _
      (.inr ⟨le_refl 17, by show 18 < 36; decide, .inr (by show 17 < 18; decide)⟩)]
    exact Side.on_set_zero _ (SPLIT_IN_CFG.SWAP_IP i) ⟨le_refl 18, by show 18 < 36; decide⟩

/-- R191: a write that leaves the ring's configuration as it is does nothing. -/
theorem Side.wSplitRingCfg_same {x : Side} {w : Word}
    (h : (x.setReg SPLIT_RING_CFG.whole.idx w).reg SPLIT_RING_CFG.whole.idx = x.reg SPLIT_RING_CFG.whole.idx) : x.wSplitRingCfg w = x := by
  unfold Side.wSplitRingCfg Side.wSplitRing
  simp only [h, List.all_cons, List.all_nil, beq_self_eq_true, Bool.and_self, if_true]

theorem Side.wSplitRingCfg_differs {x : Side} {w : Word}
    (h : (x.setReg SPLIT_RING_CFG.whole.idx w).reg SPLIT_RING_CFG.whole.idx ≠ x.reg SPLIT_RING_CFG.whole.idx) : x.wSplitRingCfg w
      = if x.splitOff then ((x.setReg SPLIT_RING_CFG.whole.idx w).set SPLIT_WP.WP 0).set SPLIT_RP.RP 0 else x.set SPLIT_STAT.CFG_IGNORED 1 := by
  unfold Side.wSplitRingCfg Side.wSplitRing
  simp only [List.all_cons, List.all_nil, beq_eq_false_iff_ne.2 h, Bool.false_and, Bool.false_eq_true, if_false]
  rfl

/-! ### Scan-out -/

theorem Side.soEnable_same {x : Side} {en : Bool} (h : en = x.on SO_CTRL.EN) : x.soEnable en = x := by
  unfold Side.soEnable
  simp [h]

theorem Side.soEnable_starts {x : Side} (h : x.on SO_CTRL.EN = false) (hb : x.soBad = false) : x.soEnable true
    = let z := (x.soCopy.soRefit x.soRelinks).set SO_CTRL.EN 1
      { z with so := { z.so with run := false, relock := true, idle := 0, blank := false, line := 0, pix := [], tear := false } } := by
  unfold Side.soEnable
  simp [h, hb]

theorem Side.soEnable_refused {x : Side} (h : x.on SO_CTRL.EN = false) (hb : x.soBad = true) : x.soEnable true = x.set SO_STAT.CFG_REFUSED 1 := by
  unfold Side.soEnable
  simp [h, hb]

theorem Side.soEnable_stops {x : Side} (h : x.on SO_CTRL.EN = true) : x.soEnable false
    = { x.set SO_CTRL.EN 0 with so := { x.so with run := false, relock := false, blank := false, line := 0, pix := [], tear := false } } := by
  unfold Side.soEnable
  simp only [h, beq_iff_eq, Bool.false_eq_true, if_false]
  rfl

/-- VBL_EVT taken from a write of SO_CTRL. -/
def Side.soVbl (x : Side) (v : Word) : Side := x.set SO_CTRL.VBL_EVT (if bitAt v.toNat 33 then 1 else 0)

theorem Side.on_soVbl_en (x : Side) (v : Word) : (x.soVbl v).on SO_CTRL.EN = x.on SO_CTRL.EN := Side.on_set_apart _ _ _ _ (by decide)

theorem Side.wSoCtrl_eq (x : Side) (v : Word) : x.wSoCtrl v
    = if bitAt v.toNat 34 then ((x.soVbl v).soEnable (bitAt v.toNat 35)).soRequest else (x.soVbl v).soEnable (bitAt v.toNat 35) := rfl

end Sys2Proof.Machine
end

section
/-! PROOFS. JESD_CFG, TONE_CFG and MON_CFG (R48, R380, R388): what each write does. -/

namespace Sys2Proof.Machine

/-! ### JESD_CFG -/

/-- The word JESD_CFG takes. -/
def jesdWord (v : Word) : Word := v &&& wordN (2 ^ 36 - 2 ^ 5)

/-- R48: the lock is judged on LINK_EN before the write. -/
theorem Side.wJesdCfg_off {x : Side} {c : Chan} {v : Word} (h : x.on (JESD_CFG.LINK_EN c.n) = false) : x.wJesdCfg c v
    = let y := x.setReg (JESD_CFG.whole c.n).idx (jesdWord v)
      if bitAt (jesdWord v).toNat 35 then
        if y.jesdOk c then (y.set (JESD_STAT.CFG_ERR c.n) 0).jesdStart c
        else (y.set (JESD_STAT.CFG_ERR c.n) 1).setJesd c { x.jesdOf c with step := 0 }
      else y := by
  have hword : v &&& wordN (bitMask 35 5) = jesdWord v := rfl
  unfold Side.wJesdCfg
  simp only [h, Bool.false_eq_true, if_false, hword]
  cases bitAt (jesdWord v).toNat 35 <;> rfl

theorem Side.wJesdCfg_locked {x : Side} {c : Chan} {v : Word} (h : x.on (JESD_CFG.LINK_EN c.n) = true)
    (hv : bitAt (jesdWord v).toNat 35 = true) (hne : jesdWord v ≠ x.reg (JESD_CFG.whole c.n).idx) : x.wJesdCfg c v
      = x.set (JESD_STAT.CFG_LOCKED c.n) 1 := by
  have hword : v &&& wordN (bitMask 35 5) = jesdWord v := rfl
  unfold Side.wJesdCfg
  simp only [h, hv, if_true, hword, beq_eq_false_iff_ne.2 hne, Bool.false_eq_true, if_false]
  rfl

/-- The word that the register of an enabled link holds leaves it as it is. -/
theorem Side.wJesdCfg_same {x : Side} {c : Chan} {v : Word} (h : x.on (JESD_CFG.LINK_EN c.n) = true)
    (heq : jesdWord v = x.reg (JESD_CFG.whole c.n).idx) : x.wJesdCfg c v = x := by
  have hv : bitAt (jesdWord v).toNat 35 = true := by
    rw [heq]
    exact (Side.on_eq_bitAt x (JESD_CFG.LINK_EN c.n) rfl).symm.trans h
  have hword : v &&& wordN (bitMask 35 5) = jesdWord v := rfl
  unfold Side.wJesdCfg
  simp only [h, hv, if_true, hword, beq_iff_eq.2 heq]

theorem Side.wJesdCfg_disables {x : Side} {c : Chan} {v : Word} (h : x.on (JESD_CFG.LINK_EN c.n) = true)
    (hv : bitAt (jesdWord v).toNat 35 = false) (hr : x.on (FE_STAT.RUNNING c.n) = false) : x.wJesdCfg c v
      = (((((x.setReg (JESD_CFG.whole c.n).idx (jesdWord v)).set (JESD_STAT.LINK_UP c.n) 0).set (JESD_STAT.SH_LOCK c.n) 0).set
          (JESD_STAT.EMB_LOCK c.n) 0).set (JESD_STAT.CFG_ERR c.n) 0).setJesd c { x.jesdOf c with step := 0 } := by
  have hword : v &&& wordN (bitMask 35 5) = jesdWord v := rfl
  have hrun : (x.setReg (JESD_CFG.whole c.n).idx (jesdWord v)).on (FE_STAT.RUNNING c.n) = false := by
    rw [Side.on_setReg_ne _ _ _ _ (by cases c <;> decide), hr]
  unfold Side.wJesdCfg
  simp only [h, hv, hrun, if_true, Bool.false_eq_true, if_false, hword]
  rfl

/-! ### TONE_CFG -/

/-- R380: an output whose enable has changed: muted, with nothing in force. -/
def Tone.disabled (t : Tone) : Tone := { t with force := none, strobed := false, hold := none, code := 0 }

theorem Side.toneEnable_eq (x : Side) (o : Nat) (was : Bool) : x.toneEnable o was
    = if was = x.on (toneEn o) then x else (x.setTone o (x.toneOf o).disabled).toneFlags o := by
  unfold Side.toneEnable
  simp only [beq_iff_eq]
  rfl

theorem Side.on_toneFlags (x : Side) (o p : Fin 2) : (x.toneFlags o.val).on (toneEn p.val) = x.on (toneEn p.val) := by
  unfold Side.toneFlags
  simp only [Side.put_eq]
  iterate 6 rw [Side.on_set_apart _ _ _ _ (by revert o p; decide)]

theorem Side.on_toneEnable (x : Side) (o p : Fin 2) (was : Bool) : (x.toneEnable o.val was).on (toneEn p.val) = x.on (toneEn p.val) := by
  rw [Side.toneEnable_eq]
  split
  · rfl
  · rw [Side.on_toneFlags]
    exact congrArg (· != 0) (Side.get_congr rfl rfl rfl _)

theorem Side.toneEnable_length (x : Side) (o : Nat) (was : Bool) : (x.toneEnable o was).tone.length = x.tone.length := by
  rw [Side.toneEnable_eq]
  split
  · rfl
  · exact lset_length ..

theorem Side.toneOf_toneEnable_ne (x : Side) {o p : Nat} (was : Bool) (h : p ≠ o) : (x.toneEnable o was).toneOf p = x.toneOf p := by
  rw [Side.toneEnable_eq]
  split
  · rfl
  · exact lget_lset_ne _ _ _ _ _ h

theorem Side.toneEnable_same {x : Side} {o : Nat} {was : Bool} (h : x.on (toneEn o) = was) : x.toneEnable o was = x := by
  rw [Side.toneEnable_eq, if_pos h.symm]

theorem Side.toneOf_toneEnable_changed {x : Side} {o : Nat} {was : Bool} (h : x.on (toneEn o) ≠ was) (ho : o < x.tone.length) :
    (x.toneEnable o was).toneOf o = (x.toneOf o).disabled := by
  rw [Side.toneEnable_eq, if_neg (fun e => h e.symm)]
  exact lget_lset_self _ _ _ _ ho

/-- The enable bits of a write of TONE_CFG. -/
def Side.toneWritten (x : Side) (v : Word) : Side := x.setReg TONE_CFG.whole.idx (v &&& wordN (bitMask 35 32))

theorem Side.on_toneWritten (x : Side) (v : Word) (o : Fin 2) : (x.toneWritten v).on (toneEn o.val) = bitAt v.toNat (toneEn o.val).lo := by
  have hidx : (toneEn o.val).idx = TONE_CFG.whole.idx ∧ (toneEn o.val).hi = (toneEn o.val).lo
      ∧ (wordN (bitMask 35 32)).getLsbD (toneEn o.val).lo = true := by revert o; decide
  obtain ⟨hi, hb, hm⟩ := hidx
  unfold Side.toneWritten
  rw [Side.on_eq_bitAt _ _ hb, hi, Side.reg_setReg, bitAt_and_mask _ _ _ hm]

theorem Side.wToneCfg_eq (x : Side) (v : Word) : x.wToneCfg v
    = ((x.toneWritten v).toneEnable 0 (x.on (toneEn 0))).toneEnable 1 (x.on (toneEn 1)) := rfl

theorem Side.on_wToneCfg (x : Side) (v : Word) (o : Fin 2) : (x.wToneCfg v).on (toneEn o.val) = bitAt v.toNat (toneEn o.val).lo := by
  rw [Side.wToneCfg_eq]
  exact (Side.on_toneEnable _ 1 o _).trans ((Side.on_toneEnable _ 0 o _).trans (x.on_toneWritten v o))

/-- An output follows its own enable alone. -/
theorem Side.toneOf_wToneCfg (x : Side) (v : Word) (o : Fin 2) : ∃ y : Side, y.tone.length = x.tone.length ∧ y.toneOf o.val = x.toneOf o.val
    ∧ y.on (toneEn o.val) = bitAt v.toNat (toneEn o.val).lo
    ∧ (x.wToneCfg v).toneOf o.val = (y.toneEnable o.val (x.on (toneEn o.val))).toneOf o.val := by
  rw [Side.wToneCfg_eq]
  match o with
  | 0 => exact ⟨x.toneWritten v, rfl, rfl, x.on_toneWritten v 0, Side.toneOf_toneEnable_ne _ _ (by decide)⟩
  | 1 => exact ⟨(x.toneWritten v).toneEnable 0 (x.on (toneEn 0)), Side.toneEnable_length _ 0 _, Side.toneOf_toneEnable_ne _ _ (by decide),
      (Side.on_toneEnable (x.toneWritten v) 0 1 _).trans (x.on_toneWritten v 1), rfl⟩

/-! ### MON_CFG -/

/-- R388: the word MON_CFG takes while the buffer is disabled: DEC_LOG2 at least 8. -/
def monWord (v : Word) : Word := wordN (max 8 (bitsOf v.toNat 35 32) * 2 ^ 32 + bitsOf v.toNat 31 21 * 2 ^ 21)

/-- The fields of MON_CFG below DEC_LOG2, next to one another. -/
theorem bitsOf_mon (w : Nat) : bitsOf w 31 29 * 2 ^ 29 + b2n (bitAt w 28) * 2 ^ 28 + bitsOf w 27 26 * 2 ^ 26 + bitsOf w 25 21 * 2 ^ 21
    = bitsOf w 31 21 * 2 ^ 21 := by
  have hbit : b2n (bitAt w 28) = w / 2 ^ 28 % 2 := by
    unfold b2n bitAt
    rcases Nat.mod_two_eq_zero_or_one (w / 2 ^ 28) with e | e <;> rw [e] <;> rfl
  rw [hbit]
  simp only [bitsOf]
  omega

/-- The pointers and the size of a buffer that is enabled. -/
def Side.monStart (x : Side) (v : Word) : Side :=
  ((({ x with mon := { x.mon with resize := none } } : Side).set MON_WP.WP 0).set MON_RP.RP 0).set MON_STAT.RESIZE_PEND 0 |>.set
    MON_STAT.LOG2LEN_ACTIVE (log2Len (bitsOf v.toNat 25 21))

theorem Side.wMonCfg_disabled {x : Side} {v : Word} (h : x.on MON_CFG.BUF_EN = false) : x.wMonCfg v
    = let y := x.setReg MON_CFG.whole.idx (monWord v)
      if bitAt v.toNat 28 then y.monStart v else y := by
  have hdec : (if bitsOf v.toNat 35 32 < 8 then 8 else bitsOf v.toNat 35 32) = max 8 (bitsOf v.toNat 35 32) := by
    split <;> omega
  have hword : wordN (max 8 (bitsOf v.toNat 35 32) * 2 ^ 32 + bitsOf v.toNat 31 29 * 2 ^ 29 + b2n (bitAt v.toNat 28) * 2 ^ 28
      + bitsOf v.toNat 27 26 * 2 ^ 26 + bitsOf v.toNat 25 21 * 2 ^ 21) = monWord v := by
    unfold monWord
    rw [← bitsOf_mon]
    simp only [Nat.add_assoc]
  unfold Side.wMonCfg
  simp only [h, Bool.false_and, Bool.false_eq_true, if_false, hdec, hword, Bool.not_false, Bool.true_and]
  rfl

theorem log2Len_lt (v : Nat) : log2Len v < 32 := by
  unfold log2Len
  split <;> omega

theorem Side.monStart_shows (x : Side) (v : Word) : (x.monStart v).reg MON_CFG.whole.idx = x.reg MON_CFG.whole.idx
    ∧ (x.monStart v).on MON_WP.WP = false ∧ (x.monStart v).on MON_RP.RP = false
    ∧ (x.monStart v).get MON_STAT.LOG2LEN_ACTIVE = log2Len (bitsOf v.toNat 25 21) := by
  unfold Side.monStart
  refine ⟨?_, ?_, ?_, Side.get_set_self _ _ _ (by decide) (log2Len_lt _)⟩
  · rw [Side.reg_set_ne _ _ _ _ (by decide), Side.reg_set_ne _ _ _ _ (by decide), Side.reg_set_ne _ _ _ _ (by decide),
      Side.reg_set_ne _ _ _ _ (by decide)]
    exact Side.reg_of_regs _ _ rfl rfl rfl _
  · rw [Side.on_set_apart _ _ _ _ (by decide), Side.on_set_apart _ _ _ _ (by decide), Side.on_set_apart _ _ _ _ (by decide),
      Side.on_set_zero _ _ (by decide)]
  · rw [Side.on_set_apart _ _ _ _ (by decide), Side.on_set_apart _ _ _ _ (by decide), Side.on_set_zero _ _ (by decide)]

/-- Settles O16: a write that is carried out is its register's own rule; the rule's guards decide which of its cases. -/
theorem timeDisplayAndLinkWrites : Obligations.TimeDisplayAndLinkWrites := by
  unfold Obligations.TimeDisplayAndLinkWrites
  refine ⟨?_, ?_⟩
  · intro s sd m n v
    dsimp only
    refine ⟨fun h hv => ?_, fun h hc hv => ?_, fun h hv => ?_, fun h r hr => ⟨fun hd ho => ?_, fun hd ho => ?_, fun hd => ?_⟩,
      fun h => ⟨fun he hc => ?_, fun he hx hc hb => ?_, fun he hx hc hb => ?_, fun he hx hc => ?_⟩⟩
    · rw [rtSetSec_writes h, Side.wSetSec_arms hv]
      rfl
    · rw [rtSetSec_writes h, Side.wSetSec_crew hc hv]
      rfl
    · obtain ⟨w, e⟩ := swapIp_writes (v := v) h
      refine ⟨_, e, ?_⟩
      beta_reduce
      rw [State.side_setSide]
      exact Side.wSplitIn_swaps _ _ (bitAt_or_right ((bitAt_and_mask _ _ _ (by decide)).trans hv))
    · rw [splitRingCfg_writes h hr, Side.wSplitRingCfg_differs hd, if_pos ho]
    · rw [splitRingCfg_writes h hr, Side.wSplitRingCfg_differs hd, if_neg (Bool.eq_false_iff.1 ho)]
      rfl
    · rw [splitRingCfg_writes h hr, Side.wSplitRingCfg_same hd, State.setSide_self]
    · rw [soCommit_writes h, Side.wSoCtrl_eq, if_pos hc, Side.soEnable_same (he.trans (Side.on_soVbl_en _ _).symm)]
      rfl
    · rw [soEnable_writes h, Side.wSoCtrl_eq, if_neg (Bool.eq_false_iff.1 hc), he, Side.soEnable_starts ((Side.on_soVbl_en _ _).trans hx) hb]
      rfl
    · rw [soEnable_writes h, Side.wSoCtrl_eq, if_neg (Bool.eq_false_iff.1 hc), he, Side.soEnable_refused ((Side.on_soVbl_en _ _).trans hx) hb]
      rfl
    · rw [soEnable_writes h, Side.wSoCtrl_eq, if_neg (Bool.eq_false_iff.1 hc), he, Side.soEnable_stops ((Side.on_soVbl_en _ _).trans hx)]
      rfl
  · intro s sd m ch v
    dsimp only
    refine ⟨fun h hx hv => ⟨fun hok => ?_, fun hok => ?_⟩, fun h hx hv hne => ?_, fun h hx heq => ?_, fun h hx hv hr => ?_,
      fun h hx hv => ?_, fun h o => ⟨_, toneCfg_writes h, ?_⟩, fun h hx => ⟨_, monCfg_writes h, ?_⟩⟩
    · rw [jesdCfg_writes h, Side.wJesdCfg_off hx]
      exact congrArg (fun y => Host.Outcome.next (s.setSide sd y)) ((if_pos hv).trans (if_pos hok))
    · rw [jesdCfg_writes h, Side.wJesdCfg_off hx]
      exact congrArg (fun y => Host.Outcome.next (s.setSide sd y)) ((if_pos hv).trans (if_neg (Bool.eq_false_iff.1 hok)))
    · rw [jesdCfg_writes h, Side.wJesdCfg_locked hx hv hne]
      rfl
    · rw [jesdCfg_writes h, Side.wJesdCfg_same hx heq, State.setSide_self]
    · rw [jesdCfg_writes h, Side.wJesdCfg_disables hx hv hr]
      rfl
    · rw [jesdCfg_writes h, Side.wJesdCfg_off hx]
      exact congrArg (fun y => Host.Outcome.next (s.setSide sd y)) (if_neg (Bool.eq_false_iff.1 hv))
    · beta_reduce
      rw [State.side_setSide]
      obtain ⟨y, hlen, hof, hon, e⟩ := (s.side sd).toneOf_wToneCfg v o
      rw [e, Side.on_wToneCfg, ← hon]
      refine ⟨rfl, fun hne hl => ?_, fun heq => ?_⟩
      · rw [Side.toneOf_toneEnable_changed hne (by omega), hof]
        exact ⟨rfl, rfl, rfl⟩
      · rw [Side.toneEnable_same heq, hof]
    · beta_reduce
      rw [State.side_setSide, Side.wMonCfg_disabled hx]
      dsimp only
      split
      case isTrue hen =>
        obtain ⟨hr, hw, hp, hl⟩ := ((s.side sd).setReg MON_CFG.whole.idx (monWord v)).monStart_shows v
        exact ⟨hr.trans (Side.reg_setReg ..), fun _ => ⟨hw, hp, hl⟩⟩
      case isFalse hen => exact ⟨Side.reg_setReg .., fun h28 => absurd h28 hen⟩

end Sys2Proof.Machine
end

section
/-! PROOFS. The staged commands of a side (R273): what leaves them as they are. -/

namespace Sys2Proof.Machine

/-! ### Registers, events and faults -/

theorem Side.staged_setReg (x : Side) (i : Nat) (v : Word) : (x.setReg i v).host.staged = x.host.staged := rfl
theorem Side.staged_set (x : Side) (f : Fld) (v : Nat) : (x.set f v).host.staged = x.host.staged := rfl
@[simp] theorem Side.staged_bump (x : Side) (f : Fld) (n : Nat) : (x.bump f n).host.staged = x.host.staged := rfl
@[simp] theorem Side.staged_inc (x : Side) (f : Fld) : (x.inc f).host.staged = x.host.staged := rfl
@[simp] theorem Side.staged_setPair (x : Side) (i v : Nat) : (x.setPair i v).host.staged = x.host.staged := rfl

theorem Side.staged_eventSt (x : Side) (code st t : Nat) (a b : Int) : (x.eventSt code st t a b).host.staged = x.host.staged := by
  unfold Side.eventSt
  cases eventIrq code with
  | none => dsimp only; split <;> rfl
  | some n => dsimp only; split <;> rfl

@[simp] theorem Side.staged_event (x : Side) (code t : Nat) (a b : Int) : (x.event code t a b).host.staged = x.host.staged :=
  Side.staged_eventSt ..

@[simp] theorem Side.staged_logRecord (x : Side) (r : Report) : (x.logRecord r).host.staged = x.host.staged := by
  unfold Side.logRecord
  dsimp only
  split
  · rw [Side.raise_eq, staged_set, staged_setReg, staged_setReg, staged_setPair, staged_set, staged_setReg, staged_setReg, staged_setPair]
  · rw [staged_set, staged_setReg, staged_setReg, staged_setPair]

@[simp] theorem Side.staged_countReport (x : Side) (r : Report) : (x.countReport r).host.staged = x.host.staged := by
  unfold Side.countReport
  dsimp only
  split <;> split <;> simp

@[simp] theorem Side.staged_outstanding (x : Side) (a b c : Nat) : (x.outstanding a b c).host.staged = x.host.staged := by
  unfold Side.outstanding
  split
  · simp
  · split <;> simp

@[simp] theorem Side.staged_logFault (x : Side) (r : Report) (own : Bool) : (x.logFault r own).host.staged = x.host.staged := by
  unfold Side.logFault
  dsimp only
  split <;> split <;> simp [Side.faultRefresh]

@[simp] theorem Side.staged_report (x : Side) (a b c : Nat) (i : Bool) : (x.report a b c i).host.staged = x.host.staged :=
  Side.staged_logFault ..

theorem Side.staged_takeInj (x : Side) (l : Nat) : (x.takeInj l).2.host.staged = x.host.staged := by
  unfold Side.takeInj
  dsimp only
  split
  · dsimp only
    split <;> simp
  · rfl

theorem Side.staged_foldl {α : Type} (f : Side → α → Side) (h : ∀ x a, (f x a).host.staged = x.host.staged) (l : List α) :
    ∀ x, (l.foldl f x).host.staged = x.host.staged := by
  induction l with
  | nil => intro x; rfl
  | cons a r ih => intro x; exact (ih _).trans (h x a)

/-! ### The SRAM and its decoders -/

@[simp] theorem Side.staged_setMem (x : Side) (k : MemSel) (m : BpcMem) : (x.setMem k m).host.staged = x.host.staged := by cases k <;> rfl

@[simp] theorem Side.staged_countRead (x : Side) (k : MemSel) (b : Nat) (bad : Bool) : (x.countRead k b bad).host.staged = x.host.staged := by
  cases k <;> cases bad <;> rfl

@[simp] theorem Side.staged_zeroBlk (x : Side) (k : MemSel) (b : Nat) : (x.zeroBlk k b).host.staged = x.host.staged := by
  simp [Side.zeroBlk]

@[simp] theorem Side.staged_poisonBlk_sram (x : Side) (b : Nat) (ws : List Word) (c : Nat) :
    (x.poisonBlk .sram b ws c).host.staged = x.host.staged := by
  unfold Side.poisonBlk
  simp only [show (MemSel.sram == MemSel.dram) = false from rfl, Bool.false_eq_true, if_false]
  split <;> simp

@[simp] theorem Side.staged_writeBlk (x : Side) (k : MemSel) (b : Nat) (ws : List Word) : (x.writeBlk k b ws).host.staged = x.host.staged := by
  simp [Side.writeBlk, Side.staged_takeInj]

theorem Side.staged_flushEnt_sram (x : Side) (e : MergeEnt) : (x.flushEnt .sram e).host.staged = x.host.staged := by
  unfold Side.flushEnt
  dsimp only
  split
  · rfl
  · split
    · simp
    · split
      case h_1 => simp
      case h_2 => simp
      case h_3 => simp
      case h_4 => split <;> simp

theorem Side.staged_decodeBlk_sram (x : Side) (b r : Nat) : (x.decodeBlk .sram b r).1.host.staged = x.host.staged := by
  unfold Side.decodeBlk
  dsimp only
  split
  case h_1 => rfl
  case h_2 => rfl
  case h_3 => simp
  case h_4 => split <;> simp

/-- R317: a plane is read through its blocks' decoders. -/
theorem Side.staged_readPlane (x : Side) (c : Chan) (u : Nat) : (x.readPlane c u).1.host.staged = x.host.staged := by
  have hfold : ∀ (l : List (Nat × List (Nat × Nat))) (a : Side × List (Nat × List Word)),
      (l.foldl (fun (a : Side × List (Nat × List Word)) p =>
        let q := a.1.decodeBlk .sram p.1 p.1
        (q.1, a.2 ++ [(8 * p.1 - planeBase c u, q.2.1)])) a).1.host.staged = a.1.host.staged := by
    intro l
    induction l with
    | nil => intro a; rfl
    | cons p r ih => intro a; exact (ih _).trans (Side.staged_decodeBlk_sram _ _ _)
  unfold Side.readPlane
  exact (hfold _ _).trans (Side.staged_foldl _ (fun x e => Side.staged_flushEnt_sram x e) _ x)

theorem Side.staged_cutCopy (x : Side) (c : Chan) : (x.cutCopy c).host.staged = x.host.staged := by
  unfold Side.cutCopy
  split
  · split
    · rfl
    · exact Side.staged_readPlane ..
  · rfl

/-! ### Seats and blocks that start -/

theorem Side.staged_seatFlags (x : Side) : x.seatFlags.host.staged = x.host.staged :=
  Side.staged_foldl (fun x (c : Chan) => x.put (XF_STAT.VACANT c.n) ((List.range (x.slotsOf c)).any (x.slotVacant c))) (fun _ _ => rfl) _ _

theorem Side.staged_allocSeats (x : Side) (c : Chan) (lo n : Nat) : (x.allocSeats c lo n).host.staged = x.host.staged := by
  unfold Side.allocSeats
  rw [Side.staged_seatFlags]
  exact Side.staged_foldl (fun x (p : Nat × Nat) => x.setSeat p.1 1 c.n (lo + p.2) false) (fun _ _ => rfl) _ x

theorem State.staged_xsStart (s : State) (sd : SideId) (c : Chan) (b : List Word) (t : Nat) :
    ((s.xsStart sd c b t).side sd).host.staged = (s.side sd).host.staged := by
  unfold State.xsStart
  dsimp only
  rw [State.side_setSide, Side.staged_allocSeats]
  rfl

theorem State.staged_ppStart (s : State) (sd : SideId) (c : Chan) (b : List Word) (t : Nat) :
    ((s.ppStart sd c b t).side sd).host.staged = (s.side sd).host.staged := by
  unfold State.ppStart
  dsimp only
  split
  · rw [State.staged_xsStart, State.side_setSide]
    rfl
  · rw [State.side_setSide]
    rfl

theorem Side.staged_startProgram (x : Side) (b : List Word) (t : Nat) : (x.startProgram b t).host.staged = x.host.staged := by
  have hcnt : ∀ y : Side, ((List.range 4).foldl (fun x k => x.set (STARTER_CNT.whole k) 0) y).host.staged = y.host.staged :=
    Side.staged_foldl (fun x k => x.set (STARTER_CNT.whole k) 0) (fun _ _ => rfl) _
  unfold Side.startProgram
  dsimp only
  rw [Side.staged_set, Side.put_eq, Side.staged_set, Side.staged_set, Side.raise_eq, Side.staged_set, hcnt]

end Sys2Proof.Machine
end

section
/-! PROOFS. CONFIGURE (R72, R103, R151, R167, R219, R221): the one command staged takes effect, and what each block makes of it. -/

namespace Sys2Proof.Machine

/-! ### The one command staged -/

/-- Every entry of a side's staging is the record of one command. -/
def Side.stagesOnly (x : Side) (st : Staged) : Prop := ∀ d ∈ x.host.staged, d.id = st.id ∧ d.issuer = st.issuer

theorem Side.stagesOnly_of_staged {x : Side} {st : Staged} (h : x.host.staged = [st]) : x.stagesOnly st := by
  intro d hd
  rw [h, List.mem_singleton] at hd
  exact hd ▸ ⟨rfl, rfl⟩

theorem Side.stagesOnly_congr {x y : Side} {st : Staged} (h : x.stagesOnly st) (hy : y.host.staged = x.host.staged) : y.stagesOnly st :=
  fun d hd => h d (hy ▸ hd)

/-- R76: a boundary drawn with the grid stays with its command. -/
theorem Side.stagesOnly_fixFrames {x : Side} {st : Staged} (h : x.stagesOnly st) (c : Chan) : (x.fixFrames c).stagesOnly st := by
  intro d hd
  obtain ⟨a, ha, rfl⟩ := List.mem_map.1 hd
  have hkeep := h a ha
  split
  · split <;> exact hkeep
  · exact hkeep

/-- R167: a DENSITY_READ that waits again stays the same command. -/
theorem Side.stagesOnly_restages {st : Staged} (f : Staged → Staged) (hf : ∀ a, (f a).id = a.id ∧ (f a).issuer = a.issuer) (l : List Staged) :
    ∀ x : Side, x.stagesOnly st → (l.foldl (fun x a => x.restage (f a)) x).stagesOnly st := by
  induction l with
  | nil => exact fun x h => h
  | cons a l ih =>
    intro x h
    refine ih _ (fun d hd => ?_)
    obtain ⟨b, hb, rfl⟩ := List.mem_map.1 hd
    have hkeep := h b hb
    split
    case isTrue e =>
      simp only [hf, Bool.and_eq_true, beq_iff_eq] at e ⊢
      rwa [← e.1, ← e.2]
    case isFalse => exact hkeep

/-- A command completes, whoever issued it: nothing staged waits. -/
theorem State.noneWaits_answer {y : State} {sd : SideId} {st : Staged} (hy : (y.side sd).stagesOnly st) (code t : Nat) (r0 r1 : Int) :
    (y.complete sd st code t r0 r1).noneWaits sd := by
  have hun : ∀ d ∈ ((y.side sd).unstage st).host.staged, False := by
    intro d hd
    obtain ⟨hm, hne⟩ := List.mem_filter.1 hd
    simp [hy d hm] at hne
  have hnil : ∀ d ∈ ((y.complete sd st code t r0 r1).side sd).host.staged, False := by
    unfold State.complete
    by_cases hi : st.issuer = sd
    · subst hi
      simp only [beq_self_eq_true, if_true, State.mod_mod, State.side_mod]
      exact Side.staged_settleFences _ (fun _ _ => False) _ (Side.staged_deliverOne _ _ _ _ _ (fun _ _ => False) hun)
    · have hside : ∀ k : Keel, (({ y.mod sd (fun x => x.unstage st) with keel := k } : State).side sd) = (y.side sd).unstage st := by
        intro k
        cases sd <;> rfl
      simp only [beq_eq_false_iff_ne.2 hi, Bool.false_eq_true, if_false, hside]
      exact hun
  exact fun d hd => (hnil d hd).elim

/-! ### Its effect -/

/-- What CONFIGURE makes of a block, by its type. -/
def blockEffect (sd : SideId) (ty : Nat) (c : Chan) (st : Staged) (t : Nat) (s : State) : State :=
  match ty with
  | 1 => effFrontEnd sd c st t s
  | 2 => effTransform sd c st t s
  | 3 => effSpectral sd c st t s
  | 4 => effDensity sd c st t s
  | 5 => effStarter sd st t s
  | _ => effRecord sd st t s

section
variable {s y : State} {sd : SideId} {ty : Nat} {ch : Chan} {st : Staged} {t : Nat} {p : Staged → Bool}

theorem State.configures.stagesOnly (h : s.configures sd ty ch st t) : (s.side sd).stagesOnly st :=
  Side.stagesOnly_of_staged h.2.1

theorem State.configures.names (h : s.configures sd ty ch st t) : (blkChan ty st.target == some ch) = true := by
  obtain ⟨-, -, -, -, -, -, hch, -⟩ := h
  simp [hch]

theorem State.configures.effectOf (h : s.configures sd ty ch st t) : effectOf sd st t s = blockEffect sd ty ch st t s := by
  obtain ⟨-, -, hop, -, hrb, rfl, hch, -⟩ := h
  unfold Machine.effectOf effConfigure
  simp only [hop, hrb, Bool.false_eq_true, if_false, hch]
  rfl

/-- R273, R285: the CONFIGURE has its effect, and no other command follows it. -/
theorem State.configures.applyBlock (h : s.configures sd ty ch st t) (hp : p st = true) (heff : blockEffect sd ty ch st t s = y)
    (hidle : y.noneWaits sd) : s.applyBlock sd ty p = y := by
  have hrun : s.runStaged sd st t = y :=
    (State.runStaged_one h.2.1 (by rw [h.effectOf, heff]; exact hidle)).trans (h.effectOf.trans heff)
  obtain ⟨hheld, hst, hop, hw, hrb, hty, -, hre, ht⟩ := h
  have hfind : (s.side sd).host.staged.find? (fun d => d.op == 0x02 && d.waits && !CmdEntry.readback d.e && d.blkType == ty && p d
      && (d.reached || ((s.side sd).instantOf d).isSome)) = some st := by
    rw [hst]
    simp [hop, hw, hrb, hty, hp, ht]
  unfold State.applyBlock
  simp only [hheld, Bool.false_eq_true, if_false, hfind, hre, Bool.false_and, ht, Option.getD_some]
  exact hrun

theorem State.configures.completes {code tm : Nat} {r0 r1 : Int} (h : s.configures sd ty ch st t) (hp : p st = true)
    (heff : blockEffect sd ty ch st t s = y.complete sd st code tm r0 r1) (hy : (y.side sd).stagesOnly st) :
    s.applyBlock sd ty p = y.complete sd st code tm r0 r1 :=
  h.applyBlock hp heff (State.noneWaits_answer hy code tm r0 r1)

/-- A refusal leaves the side as it is but for the command. -/
theorem State.configures.refuses {code : Nat} (h : s.configures sd ty ch st t) (hp : p st = true)
    (heff : blockEffect sd ty ch st t s = s.refuse sd st code) : s.applyBlock sd ty p = s.complete sd st code (s.side sd).now 0 0 :=
  h.completes hp heff h.stagesOnly

/-- The block is stored, and the command completes. -/
theorem State.configures.stores {x : Side} {tm : Nat} {r0 : Int} (h : s.configures sd ty ch st t) (hp : p st = true)
    (heff : blockEffect sd ty ch st t s = (s.setSide sd x).complete sd st stOK tm r0 0) (hx : x.stagesOnly st) :
    s.applyBlock sd ty p = (s.setSide sd x).complete sd st 0 tm r0 0 :=
  h.completes hp heff (by rw [State.side_setSide]; exact hx)

theorem State.configures.waits {x : Side} {mark : Int} (h : s.configures sd ty ch st t) (hp : p st = true)
    (heff : blockEffect sd ty ch st t s = (s.setSide sd x).cfgWaits sd st t mark) (hx : x.host.staged = (s.side sd).host.staged) :
    s.applyBlock sd ty p = (s.setSide sd x).runs sd st [(t : Int), mark] :=
  h.applyBlock hp heff (State.noneWaits_runs (by rw [State.side_setSide, hx, h.2.1]) _)

end

end Sys2Proof.Machine
end

section
/-! PROOFS. What CONFIGURE comes to for the blocks of a channel (R72, R103, R151). -/

namespace Sys2Proof.Machine

section
variable {s : State} {sd : SideId} {x : Side} {c : Chan} {st : Staged} {t : Nat}

/-! ### FRONT_END -/

/-- R67: EQ_SWAP of a front end that rests. -/
def Side.feSwapped (x : Side) (c : Chan) (b : List Word) : Side := if feSwap b = true then x.toggleBank c else x

theorem Side.staged_feSwapped (x : Side) (c : Chan) (b : List Word) : (x.feSwapped c b).host.staged = x.host.staged := by
  unfold Side.feSwapped
  split <;> rfl

theorem effFrontEnd_starts (hx : s.side sd = x) (hwas : feRun (x.feOf c).block = false) (hrun : feRun st.words = true)
    (hup : x.on (JESD_STAT.LINK_UP c.n) = true) (hbad : x.feBad c st.words = false) : effFrontEnd sd c st t s
      = (s.setSide sd ((x.setFe c { x.feOf c with
          block := blkKeep feMasks st.words, force := blkKeep feMasks st.words, starting := true, nco := [] }).feSwapped c st.words)).cfgWaits
            sd st t (-1) := by
  unfold effFrontEnd
  simp only [hx, hwas, hrun, hup, hbad, Bool.not_false, Bool.not_true, Bool.and_self, if_true, Bool.false_eq_true, if_false]
  rfl

theorem effFrontEnd_linkDown (hx : s.side sd = x) (hwas : feRun (x.feOf c).block = false) (hrun : feRun st.words = true)
    (hup : x.on (JESD_STAT.LINK_UP c.n) = false) : effFrontEnd sd c st t s = s.refuse sd st stLinkDown := by
  unfold effFrontEnd
  simp only [hx, hwas, hrun, hup, Bool.not_false, Bool.and_self, if_true]

theorem effFrontEnd_stores (hx : s.side sd = x) (hwas : feRun (x.feOf c).block = false) (hrun : feRun st.words = false)
    (hbad : x.feBad c st.words = false) : effFrontEnd sd c st t s
      = (s.setSide sd ((x.setFe c { x.feOf c with block := blkKeep feMasks st.words }).feSwapped c st.words)).complete sd st stOK t 0 0 := by
  unfold effFrontEnd
  simp only [hx, hwas, hrun, hbad, Bool.not_false, Bool.and_false, Bool.false_and, Bool.false_eq_true, if_false]
  rfl

/-- A front end at rest whose link is up refuses a block that is not allowed, with RUN or without. -/
theorem effFrontEnd_bad (hx : s.side sd = x) (hwas : feRun (x.feOf c).block = false) (hup : x.on (JESD_STAT.LINK_UP c.n) = true)
    (hbad : x.feBad c st.words = true) : effFrontEnd sd c st t s = s.refuse sd st stBadParam := by
  unfold effFrontEnd
  simp only [hx, hwas, hup, hbad, Bool.not_true, Bool.false_and, if_true, Bool.false_eq_true, if_false, ite_self]

theorem effFrontEnd_stop_active (hx : s.side sd = x) (hwas : feRun (x.feOf c).block = true) (hrun : feRun st.words = false)
    (hact : x.chanActive c true = true ∨ (s.side sd.other).takesFrom c = true) : effFrontEnd sd c st t s = s.refuse sd st stChannelActive := by
  have hor : (x.chanActive c true || (s.side sd.other).takesFrom c) = true := by simpa using hact
  unfold effFrontEnd
  simp only [hx, hwas, hrun, hor, Bool.not_true, Bool.not_false, Bool.and_self, if_true, Bool.false_eq_true, if_false]

theorem effFrontEnd_stop_bad (hx : s.side sd = x) (hwas : feRun (x.feOf c).block = true) (hrun : feRun st.words = false)
    (hact : x.chanActive c true = false) (htake : (s.side sd.other).takesFrom c = false) (hbad : x.feBad c st.words = true) :
    effFrontEnd sd c st t s = s.refuse sd st stBadParam := by
  unfold effFrontEnd
  simp only [hx, hwas, hrun, hact, htake, hbad, Bool.not_true, Bool.not_false, Bool.and_self, Bool.or_self, if_true, Bool.false_eq_true, if_false]

/-! ### TRANSFORM -/

/-- R103: a TRANSFORM block within its limits. -/
theorem xfBad_eq_false {b : List Word} (h : ¬(xfLog2N b < 6 ∨ 9 < xfSeatsReq b)) :
    (decide (xfLog2N b < 6) || decide (xfSeatsReq b > 9)) = false := by simpa using h

/-- The seats a block asks for, or those it needs. -/
def xfSeats (b : List Word) (need : Nat) : Nat := if xfSeatsReq b = 0 then need else xfSeatsReq b

theorem xfSeats_enough {b : List Word} {need : Nat} (h : need ≤ xfSeats b need) :
    (xfSeatsReq b != 0 && decide (xfSeatsReq b < need)) = false := by
  unfold xfSeats at h
  by_cases h0 : xfSeatsReq b = 0
  · simp [h0]
  · rw [if_neg h0] at h
    simp [Nat.not_lt.2 h]

/-- The transform with its seats taken. -/
def Side.xfStarted (x : Side) (c : Chan) (b : List Word) (need : Nat) : Side :=
  let fe2 := { x.feOf c with gridP := xfLog2N b, gridOf := xfOfCode b }
  ((((((x.fixFrames c).setFe c fe2).setXf c { x.xfOf c with
    block := b, force := b, run := true, seats := xfSeats b need, kNext := fe2.nextFrame, winChg := [], buf := [], flight := [], released := []
    marked := [] }).set (XF_STAT.RUNNING c.n) 1).set (XF_STAT.SEATS c.n) (xfSeats b need)).set
      (XF_STAT.NEEDED c.n) need).allocSeats c 0 (xfSeats b need)

theorem Side.stagesOnly_xfStarted {x : Side} {st : Staged} (h : x.stagesOnly st) (c : Chan) (b : List Word) (need : Nat) :
    (x.xfStarted c b need).stagesOnly st := by
  refine Side.stagesOnly_congr (Side.stagesOnly_fixFrames h c) ?_
  unfold Side.xfStarted
  rw [Side.staged_allocSeats]
  rfl

section
variable {b : List Word} {need : Nat} (hx : s.side sd = x) (hb : blkKeep xfMasks st.words = b) (hoff : (x.xfOf c).run = false)
include hx hb hoff

theorem effTransform_starts (hn : x.needed c b x.laneMhz x.spread = need) (hrun : xfRun b = true) (hfe : x.on (FE_STAT.RUNNING c.n) = true)
    (hbad : ¬(xfLog2N b < 6 ∨ 9 < xfSeatsReq b)) (hneed : need ≤ xfSeats b need) (hspare : xfSeats b need ≤ x.spares.length) :
    effTransform sd c st t s = (s.setSide sd (x.xfStarted c b need)).complete sd st stOK t 0 0 := by
  have hbudget := xfSeats_enough hneed
  unfold xfSeats at hspare
  unfold effTransform
  simp only [hx, hb, hn, hoff, hrun, hfe, xfBad_eq_false hbad, hbudget, beq_iff_eq, Nat.not_lt.2 hspare, Bool.not_false, Bool.not_true,
    Bool.and_self, if_true, Bool.false_eq_true, if_false]
  rfl

theorem effTransform_feStopped (hrun : xfRun b = true) (hfe : x.on (FE_STAT.RUNNING c.n) = false) :
    effTransform sd c st t s = s.refuse sd st stFeStopped := by
  unfold effTransform
  simp only [hx, hb, hoff, hrun, hfe, Bool.not_false, Bool.and_self, if_true]

theorem effTransform_fewSpares (hn : x.needed c b x.laneMhz x.spread = need) (hrun : xfRun b = true) (hfe : x.on (FE_STAT.RUNNING c.n) = true)
    (hbad : ¬(xfLog2N b < 6 ∨ 9 < xfSeatsReq b)) (hneed : need ≤ xfSeats b need) (hspare : x.spares.length < xfSeats b need) :
    effTransform sd c st t s = s.refuse sd st stSeatBudget := by
  have hbudget := xfSeats_enough hneed
  unfold xfSeats at hspare
  unfold effTransform
  simp only [hx, hb, hn, hoff, hrun, hfe, xfBad_eq_false hbad, hbudget, beq_iff_eq, hspare, Bool.not_false, Bool.not_true,
    Bool.and_self, if_true, Bool.false_eq_true, if_false]

theorem effTransform_stores (hrun : xfRun b = false) (hbad : ¬(xfLog2N b < 6 ∨ 9 < xfSeatsReq b)) :
    effTransform sd c st t s = (s.setSide sd (x.setXf c { x.xfOf c with block := b })).complete sd st stOK t 0 0 := by
  unfold effTransform
  simp only [hx, hb, hoff, hrun, xfBad_eq_false hbad, Bool.not_false, Bool.and_false, Bool.false_and, Bool.false_eq_true, if_false]

theorem effTransform_bad (hrun : xfRun b = false) (hbad : xfLog2N b < 6 ∨ 9 < xfSeatsReq b) :
    effTransform sd c st t s = s.refuse sd st stBadParam := by
  have hbad' : (decide (xfLog2N b < 6) || decide (xfSeatsReq b > 9)) = true := by simpa using hbad
  unfold effTransform
  simp only [hx, hb, hoff, hrun, hbad', Bool.not_false, Bool.and_false, Bool.false_and, Bool.false_eq_true, if_false, if_true]

end

/-! ### SPECTRAL -/

theorem effSpectral_starts (hx : s.side sd = x) (hoff : x.on (PP_STAT.RUNNING c.n) = false) (hrun : ppRun st.words = true)
    (hxf : x.on (XF_STAT.RUNNING c.n) = true) (hok : s.ppCheck sd c st.words true (ppXsEn st.words) = 0) :
    effSpectral sd c st t s = (s.ppStart sd c st.words t).complete sd st stOK t 0 0 := by
  unfold effSpectral
  simp only [hx, hoff, hrun, hxf, hok, Bool.not_false, Bool.not_true, Bool.and_self, if_true, Bool.false_eq_true, if_false]

theorem effSpectral_xfStopped (hx : s.side sd = x) (hoff : x.on (PP_STAT.RUNNING c.n) = false) (hrun : ppRun st.words = true)
    (hxf : x.on (XF_STAT.RUNNING c.n) = false) : effSpectral sd c st t s = s.refuse sd st stXfStopped := by
  unfold effSpectral
  simp only [hx, hoff, hrun, hxf, Bool.not_false, Bool.and_self, if_true]

theorem effSpectral_stores (hx : s.side sd = x) (hoff : x.on (PP_STAT.RUNNING c.n) = false) (hrun : ppRun st.words = false)
    (henc : ppEncBad st.words = false) : effSpectral sd c st t s
      = (s.setSide sd (x.setPp c { x.ppOf c with block := blkKeep ppMasks st.words })).complete sd st stOK t 0 0 := by
  unfold effSpectral
  simp only [hx, hoff, hrun, henc, Bool.not_false, Bool.and_false, Bool.false_and, Bool.false_eq_true, if_false]

end

end Sys2Proof.Machine
end

section
/-! PROOFS. What CONFIGURE comes to for the density engine, the Starter's program and a record (R167, R219, R221). -/

namespace Sys2Proof.Machine

section
variable {s : State} {sd : SideId} {x : Side} {c : Chan} {b : List Word} {st : Staged} {t : Nat}

/-! ### DENSITY -/

theorem Side.stagesOnly_densStart (h : x.stagesOnly st) (c : Chan) (b : List Word) (t : Nat) : (x.densStart c b t).stagesOnly st := by
  have hcut : (x.cutCopy c).stagesOnly st := Side.stagesOnly_congr h (x.staged_cutCopy c)
  exact Side.stagesOnly_congr (Side.stagesOnly_restages (fun a => { a with aux := [lget a.aux 0 0, 0] }) (fun _ => ⟨rfl, rfl⟩)
    (((x.cutCopy c).densReads c).filter Staged.densWait) _ hcut) rfl

section
variable (hx : s.side sd = x) (hb : blkKeep deMasks st.words = b) (hoff : x.on (DENS_STAT.RUNNING c.n) = false) (hfld : deFieldBad b = false)
include hx hb hoff hfld

theorem effDensity_starts (hrun : deRun b = true) (hpp : x.on (PP_STAT.RUNNING c.n) = true) (hbad : x.densBad c b = false) :
    effDensity sd c st t s = (s.setSide sd (x.densStart c b t)).complete sd st stOK t (x.frameAt c st.bnd t : Nat) 0 := by
  unfold effDensity
  simp only [hx, hb, hoff, hfld, hrun, hpp, hbad, Bool.not_false, Bool.not_true, Bool.and_self, if_true, Bool.false_eq_true, if_false]

theorem effDensity_ppStopped (hrun : deRun b = true) (hpp : x.on (PP_STAT.RUNNING c.n) = false) :
    effDensity sd c st t s = s.refuse sd st stPpStopped := by
  unfold effDensity
  simp only [hx, hb, hoff, hfld, hrun, hpp, Bool.not_false, Bool.and_self, if_true, Bool.false_eq_true, if_false]

theorem effDensity_stores (hrun : deRun b = false) :
    effDensity sd c st t s = (s.setSide sd (x.setDens c { x.densOf c with block := b })).complete sd st stOK t 0 0 := by
  unfold effDensity
  simp only [hx, hb, hoff, hfld, hrun, Bool.not_false, Bool.and_false, Bool.false_and, Bool.false_eq_true, if_false]

end

/-! ### STARTER -/

/-- R219: the stages of a channel that a program uses run. -/
def Side.hasStages (x : Side) (b : List Word) (c : Chan) : Prop :=
  (stUsesIq b c.n = true → x.on (FE_STAT.RUNNING c.n) = true)
    ∧ (stUsesFreq b c.n = true ∨ stStopEn b c.n = true → x.on (PP_STAT.RUNNING c.n) = true)

theorem Side.hasStages.noneMissing (h0 : x.hasStages b .c0) (h1 : x.hasStages b .c1) :
    [Chan.c0, Chan.c1].any (fun c => stUsesIq b c.n && !x.on (FE_STAT.RUNNING c.n)) = false
      ∧ [Chan.c0, Chan.c1].any (fun c => (stUsesFreq b c.n || stStopEn b c.n) && !x.on (PP_STAT.RUNNING c.n)) = false := by
  have hall : ∀ c ∈ [Chan.c0, Chan.c1], x.hasStages b c := by simp [h0, h1]
  constructor
  · refine List.any_eq_false.2 (fun c hc => ?_)
    have hiq := (hall c hc).1
    simpa using hiq
  · refine List.any_eq_false.2 (fun c hc => ?_)
    have hfreq := (hall c hc).2
    simpa using hfreq

section
variable (hx : s.side sd = x) (hb : blkKeep stMasks st.words = b) (hbad : x.starterBad b = false)
include hx hb hbad

theorem effStarter_starts (hoff : x.on STARTER_STAT.RUNNING = false) (hrun : stRun b = true) (h0 : x.hasStages b .c0) (h1 : x.hasStages b .c1) :
    effStarter sd st t s = (s.setSide sd (x.startProgram b t)).complete sd st stOK t 0 0 := by
  obtain ⟨hiq, hfreq⟩ := h0.noneMissing h1
  unfold effStarter
  simp only [hx, hb, hbad, hoff, hrun, hiq, hfreq, Bool.not_false, Bool.and_self, Bool.and_false, if_true, Bool.false_eq_true, if_false]

theorem effStarter_stops (hon : x.on STARTER_STAT.RUNNING = true) (hrun : stRun b = false) (h0 : x.armed .c0 = false) (h1 : x.armed .c1 = false) :
    effStarter sd st t s = (s.setSide sd (x.stopProgram b)).complete sd st stOK t 0 0 := by
  unfold effStarter
  simp only [hx, hb, hbad, hon, hrun, h0, h1, Bool.not_true, Bool.not_false, Bool.and_self, Bool.false_and, Bool.or_self, if_true,
    Bool.false_eq_true, if_false]

theorem effStarter_stop_armed (hon : x.on STARTER_STAT.RUNNING = true) (hrun : stRun b = false)
    (harm : x.armed .c0 = true ∨ x.armed .c1 = true) : effStarter sd st t s = s.refuse sd st stChannelActive := by
  have hor : (x.armed .c0 || x.armed .c1) = true := by simpa using harm
  unfold effStarter
  simp only [hx, hb, hbad, hon, hrun, hor, Bool.not_true, Bool.not_false, Bool.and_self, Bool.false_and, if_true, Bool.false_eq_true, if_false]

theorem effStarter_stores (hoff : x.on STARTER_STAT.RUNNING = false) (hrun : stRun b = false) :
    effStarter sd st t s = (s.setSide sd { x with starter := { x.starter with block := b } }).complete sd st stOK t 0 0 := by
  unfold effStarter
  simp only [hx, hb, hbad, hoff, hrun, Bool.not_false, Bool.and_false, Bool.false_and, Bool.false_eq_true, if_false]

end

/-! ### RECORD -/

section
variable (hx : s.side sd = x) (hb : blkKeep rcMasks st.words = b) (hc : chanOf (bf b 0 35 35) = c)
include hx hb hc

theorem effRecord_armed (harm : x.armed c = true) : effRecord sd st t s = s.refuse sd st stChannelActive := by
  unfold effRecord
  simp only [hx, hb, hc, harm, if_true]

theorem effRecord_stores (harm : x.armed c = false) (hcon : rcContent b ≠ 0) (hpost : rcPost b ≠ 0) :
    effRecord sd st t s = (s.setSide sd (x.setAcq c { x.acqOf c with block := b })).complete sd st stOK t 0 0 := by
  unfold effRecord
  simp only [hx, hb, hc, harm, beq_eq_false_iff_ne.2 hcon, beq_eq_false_iff_ne.2 hpost, Bool.or_self, Bool.false_eq_true, if_false]

theorem effRecord_empty (harm : x.armed c = false) (hbad : rcContent b = 0 ∨ rcPost b = 0) :
    effRecord sd st t s = s.refuse sd st stBadParam := by
  have hor : (rcContent b == 0 || rcPost b == 0) = true := by simpa using hbad
  unfold effRecord
  simp only [hx, hb, hc, harm, hor, Bool.false_eq_true, if_false, if_true]

end

end

/-- Settles O28: each block's effect is judged case by case, and the one command staged comes to it and to nothing more. -/
theorem blockConfiguration : Obligations.BlockConfiguration := by
  unfold Obligations.BlockConfiguration
  refine ⟨?_, ?_⟩
  · intro s sd ch st t
    dsimp only
    refine ⟨fun h hoff => ⟨fun hr hup hbad => ?_, fun hr hup => ?_, fun hr hbad => ?_, fun hup hbad => ?_⟩,
      fun h hon hr => ⟨fun hact => ?_, fun hact htake hbad => ?_⟩,
      fun h hoff => ⟨fun hr hfe hbad hneed hsp => ?_, fun hr hfe => ?_, fun hr hfe hbad hneed hsp => ?_, fun hr hbad => ?_, fun hr hbad => ?_⟩,
      fun h hoff => ⟨fun hr hxf hok => ?_, fun hr hxf => ?_, fun hr henc => ?_⟩⟩ <;> refine congrArg Host.Outcome.next ?_
    · exact h.waits h.names (effFrontEnd_starts rfl hoff hr hup hbad) (Side.staged_feSwapped ..)
    · exact h.refuses h.names (effFrontEnd_linkDown rfl hoff hr hup)
    · exact h.stores h.names (effFrontEnd_stores rfl hoff hr hbad) (Side.stagesOnly_congr h.stagesOnly (Side.staged_feSwapped ..))
    · exact h.refuses h.names (effFrontEnd_bad rfl hoff hup hbad)
    · exact h.refuses h.names (effFrontEnd_stop_active rfl hon hr hact)
    · exact h.refuses h.names (effFrontEnd_stop_bad rfl hon hr hact htake hbad)
    · exact h.stores h.names (effTransform_starts rfl rfl hoff rfl hr hfe hbad hneed hsp) (Side.stagesOnly_xfStarted h.stagesOnly _ _ _)
    · exact h.refuses h.names (effTransform_feStopped rfl rfl hoff hr hfe)
    · exact h.refuses h.names (effTransform_fewSpares rfl rfl hoff rfl hr hfe hbad hneed hsp)
    · exact h.stores h.names (effTransform_stores rfl rfl hoff hr hbad) h.stagesOnly
    · exact h.refuses h.names (effTransform_bad rfl rfl hoff hr hbad)
    · exact h.completes h.names (effSpectral_starts rfl hoff hr hxf hok) (Side.stagesOnly_congr h.stagesOnly (State.staged_ppStart ..))
    · exact h.refuses h.names (effSpectral_xfStopped rfl hoff hr hxf)
    · exact h.stores h.names (effSpectral_stores rfl hoff hr henc) h.stagesOnly
  · intro s sd ch st t
    dsimp only
    refine ⟨fun h hoff hfld => ⟨fun hr hpp hbad => ?_, fun hr hpp => ?_, fun hr => ?_⟩,
      fun h hbad => ⟨fun hoff hr h0 h1 => ?_, fun hon hr h0 h1 => ?_, fun hon hr harm => ?_, fun hoff hr => ?_⟩,
      fun h hch hc => ⟨fun harm => ?_, fun harm hcon hpost => ?_, fun harm hbad => ?_⟩⟩ <;> refine congrArg Host.Outcome.next ?_
    · exact h.stores h.names (effDensity_starts rfl rfl hoff hfld hr hpp hbad) (Side.stagesOnly_densStart h.stagesOnly _ _ _)
    · exact h.refuses h.names (effDensity_ppStopped rfl rfl hoff hfld hr hpp)
    · exact h.stores h.names (effDensity_stores rfl rfl hoff hfld hr) h.stagesOnly
    · exact h.stores rfl (effStarter_starts rfl rfl hbad hoff hr h0 h1) (Side.stagesOnly_congr h.stagesOnly (Side.staged_startProgram ..))
    · exact h.stores rfl (effStarter_stops rfl rfl hbad hon hr h0 h1) h.stagesOnly
    · exact h.refuses rfl (effStarter_stop_armed rfl rfl hbad hon hr harm)
    · exact h.stores rfl (effStarter_stores rfl rfl hbad hoff hr) h.stagesOnly
    · exact h.refuses (beq_iff_eq.2 hch.symm) (effRecord_armed rfl rfl hc harm)
    · exact h.stores (beq_iff_eq.2 hch.symm) (effRecord_stores rfl rfl hc harm hcon hpost) h.stagesOnly
    · exact h.refuses (beq_iff_eq.2 hch.symm) (effRecord_empty rfl rfl hc harm hbad)

end Sys2Proof.Machine
end

section
/-! PROOFS. What the fault log, events and armed injections leave of the transform lanes: seats, frames, and registers from the lanes' block on. -/

namespace Sys2Proof.Machine

/-- A side as the fault log and the event ring leave it: but for the host region, the cores and the registers below 0x8000 (R104, R475). -/
def Side.lanePart (x : Side) : Side × (Nat → Word) :=
  ({ x with regs := [], host := HostSide.init, cores := [] }, fun i => x.reg (0x8000 + i))

@[simp] theorem Side.lanePart_setReg (x : Side) (i : Nat) (v : Word) (h : i < 0x8000) : (x.setReg i v).lanePart = x.lanePart :=
  Prod.ext rfl (funext fun j => Side.reg_setReg_ne x i (0x8000 + j) v (by omega))

@[simp] theorem Side.lanePart_set (x : Side) (f : Fld) (v : Nat) (h : f.idx < 0x8000) : (x.set f v).lanePart = x.lanePart :=
  Side.lanePart_setReg x _ _ h

@[simp] theorem Side.lanePart_bump (x : Side) (f : Fld) (n : Nat) (h : f.idx < 0x8000) : (x.bump f n).lanePart = x.lanePart :=
  Side.lanePart_set x f _ h

@[simp] theorem Side.lanePart_inc (x : Side) (f : Fld) (h : f.idx < 0x8000) : (x.inc f).lanePart = x.lanePart := Side.lanePart_bump x f 1 h

@[simp] theorem Side.lanePart_setPair (x : Side) (i v : Nat) (h : i + 1 < 0x8000) : (x.setPair i v).lanePart = x.lanePart := by
  unfold Side.setPair
  rw [Side.lanePart_setReg _ _ _ h, Side.lanePart_setReg _ _ _ (by omega)]

@[simp] theorem Side.lanePart_eventSt (x : Side) (code st t : Nat) (a b : Int) : (x.eventSt code st t a b).lanePart = x.lanePart := by
  obtain ⟨h, cs, e | e⟩ := x.eventSt_cases code st t a b <;> rw [e]
  · rfl
  · rw [Side.lanePart_inc _ _ (by decide)]
    rfl

@[simp] theorem Side.lanePart_event (x : Side) (code t : Nat) (a b : Int) : (x.event code t a b).lanePart = x.lanePart := Side.lanePart_eventSt ..

@[simp] theorem Side.lanePart_logRecord (x : Side) (r : Report) : (x.logRecord r).lanePart = x.lanePart := by
  have hrec : ∀ (y : Side) (n t w : Nat), (((y.setPair (FAULT_HIST_LO.whole (n % 32)).idx t).setReg (FAULT_HIST_W2.whole (n % 32)).idx
      (wordN w)).setReg (FAULT_HIST_W3.whole (n % 32)).idx (wordN r.syn)).lanePart = y.lanePart := by
    intro y n t w
    have hn : n % 32 < 32 := Nat.mod_lt _ (by decide)
    rw [Side.lanePart_setReg, Side.lanePart_setReg, Side.lanePart_setPair] <;>
      simp only [FAULT_HIST_LO.whole, FAULT_HIST_W2.whole, FAULT_HIST_W3.whole] <;> omega
  unfold Side.logRecord
  dsimp only
  split
  · rw [Side.raise_eq, Side.lanePart_set _ _ _ (by decide), Side.lanePart_setReg _ _ _ (by decide), Side.lanePart_setReg _ _ _ (by decide),
      Side.lanePart_setPair _ _ _ (by decide), Side.lanePart_set _ _ _ (by decide), hrec]
  · rw [Side.lanePart_set _ _ _ (by decide), hrec]

@[simp] theorem Side.lanePart_countReport (x : Side) (r : Report) : (x.countReport r).lanePart = x.lanePart := by
  have hcnt : ∀ (y : Side) (b : Bool), (if b = true then y.inc FAULT_CNT_WIRE.whole else y).lanePart = y.lanePart := by
    intro y b
    split
    · exact Side.lanePart_inc _ _ (by decide)
    · rfl
  unfold Side.countReport
  dsimp only
  rw [hcnt]
  split <;> exact Side.lanePart_inc _ _ (by decide)

@[simp] theorem Side.lanePart_outstanding (x : Side) (src cls seq : Nat) : (x.outstanding src cls seq).lanePart = x.lanePart := by
  have hout : ∀ i, (x.outEntry src = some i ∨ (List.range 64).find? (fun i => !x.on (FAULT_OUT.VALID i)) = some i) → i < 64 := by
    intro i h
    exact List.mem_range.1 (h.elim List.mem_of_find?_eq_some List.mem_of_find?_eq_some)
  unfold Side.outstanding
  split
  case h_1 i h =>
    have hi := hout i (.inl h)
    rw [Side.lanePart_set, Side.lanePart_set] <;> simp only [FAULT_OUT.CLASS, FAULT_OUT.SEQ] <;> omega
  case h_2 =>
    split
    case h_1 i h =>
      have hi := hout i (.inr h)
      rw [Side.lanePart_set, Side.lanePart_set, Side.lanePart_set, Side.lanePart_set] <;>
        simp only [FAULT_OUT.VALID, FAULT_OUT.CLASS, FAULT_OUT.SEQ, FAULT_OUT.SRC] <;> omega
    case h_2 => exact Side.lanePart_set _ _ _ (by decide)

@[simp] theorem Side.lanePart_faultRefresh (x : Side) : x.faultRefresh.lanePart = x.lanePart := by
  unfold Side.faultRefresh
  dsimp only
  rw [Side.put_eq, Side.lanePart_set _ _ _ (by decide), Side.lanePart_set _ _ _ (by decide), Side.lanePart_set _ _ _ (by decide)]

@[simp] theorem Side.lanePart_logFault (x : Side) (r : Report) (own : Bool) : (x.logFault r own).lanePart = x.lanePart := by
  unfold Side.logFault
  dsimp only
  split <;> split <;> simp

@[simp] theorem Side.lanePart_report (x : Side) (cls l syn : Nat) (inj : Bool) : (x.report cls l syn inj).lanePart = x.lanePart :=
  Side.lanePart_logFault ..

@[simp] theorem Side.lanePart_takeInj (x : Side) (l : Nat) : (x.takeInj l).2.lanePart = x.lanePart := by
  unfold Side.takeInj
  dsimp only
  split
  · dsimp only
    split
    · exact (Side.lanePart_set _ _ _ (by decide)).trans (Side.lanePart_set _ _ _ (by decide))
    · rfl
  · rfl

section
variable {x y : Side} (h : y.lanePart = x.lanePart)
include h

theorem Side.reg_of_lanePart {i : Nat} (hi : 0x8000 ≤ i) : y.reg i = x.reg i := by
  have e := congrFun (congrArg Prod.snd h) (i - 0x8000)
  simpa only [Side.lanePart, Nat.add_sub_cancel' hi] using e

theorem Side.get_of_lanePart {f : Fld} (hf : 0x8000 ≤ f.idx) : y.get f = x.get f := by
  unfold Side.get
  rw [Side.reg_of_lanePart h hf]

/-- A field of the lanes set on both sides. -/
theorem Side.lanePart_set_congr (f : Fld) {v w : Nat} (hf : 0x8000 ≤ f.idx) (hv : w = v) : (y.set f w).lanePart = (x.set f v).lanePart := by
  have hval : wordN (putBits (y.reg f.idx).toNat f.hi f.lo w) = wordN (putBits (x.reg f.idx).toNat f.hi f.lo v) := by
    rw [Side.reg_of_lanePart h hf, hv]
  refine Prod.ext (congrArg Prod.fst h :) (funext fun i => ?_)
  show (y.set f w).reg (0x8000 + i) = (x.set f v).reg (0x8000 + i)
  by_cases hi : 0x8000 + i = f.idx
  · simp only [Side.set, hi, Side.reg_setReg, hval]
  · rw [Side.reg_set_ne _ _ _ _ hi, Side.reg_set_ne _ _ _ _ hi, Side.reg_of_lanePart h (Nat.le_add_right ..)]

theorem Side.lanePart_inc_congr (f : Fld) (hf : 0x8000 ≤ f.idx) : (y.inc f).lanePart = (x.inc f).lanePart :=
  Side.lanePart_set_congr h f hf (by rw [Side.get_of_lanePart h hf])

theorem Side.xf_of_lanePart : y.xf = x.xf := congrArg (fun p => p.1.xf) h

theorem Side.now_of_lanePart : y.now = x.now := congrArg (fun p => p.1.now) h

end

end Sys2Proof.Machine
end

section
/-! PROOFS. Transform frames (R84 to R88, R93, R118 to R122): dispatch to the slot's seat, and release in order. -/

namespace Sys2Proof.Machine

/-! ### The transform of a channel -/

theorem Side.xfOf_setXf {x : Side} (c : Chan) (v : Xform) (h : x.xf.length = 2) : (x.setXf c v).xfOf c = v :=
  lget_lset_self _ _ _ _ (h ▸ chan_n_lt c)

@[simp] theorem Side.setXf_length (x : Side) (c : Chan) (v : Xform) : (x.setXf c v).xf.length = x.xf.length := lset_length ..

theorem Side.setXf_self (x : Side) (c : Chan) : x.setXf c (x.xfOf c) = x := by
  have hset : lset x.xf c.n (x.xfOf c) = x.xf := by
    by_cases h : c.n < x.xf.length
    · exact lset_of_lget (by simp [Side.xfOf, lget, h])
    · exact List.set_eq_of_length_le (Nat.le_of_not_lt h)
  unfold Side.setXf
  rw [hset]

/-- R88: the changes of window and gain that have come are taken; nothing else of the transform changes. -/
theorem Xform.winAt_eq (xf : Xform) (m : Nat) :
    ∃ fo w, xf.winAt m = { xf with force := fo, winChg := w } ∧ (xf.winChg = [] → fo = xf.force) := by
  cases hw : xf.winChg with
  | nil => exact ⟨xf.force, [], by simp [Xform.winAt, hw], fun _ => rfl⟩
  | cons e r =>
    have hfold : ∃ fo w, xf.winAt m = { xf with force := fo, winChg := w } := by
      unfold Xform.winAt
      refine foldl_keeps (fun y : Xform => ∃ fo w, y = { xf with force := fo, winChg := w }) _ ?_ _ _ ⟨_, _, rfl⟩
      rintro _ w ⟨fo, v, rfl⟩
      exact ⟨_, _, rfl⟩
    obtain ⟨fo, w, h⟩ := hfold
    exact ⟨fo, w, h, fun hnil => absurd hnil (List.cons_ne_nil e r)⟩

/-! ### Which seat a frame goes to (R84, R93, R98) -/

section
variable {x : Side} (hj : ∀ q, x.jobOf q = .none)
include hj

/-- With no retirement running no mirror takes a slot over. -/
theorem Side.handOver_noJobs (c : Chan) (j k : Nat) : x.handOver c j k = x := by
  unfold Side.handOver
  refine foldl_keeps (fun y : Side => y = x) _ ?_ _ _ rfl
  rintro _ q rfl
  simp only [hj]

theorem Side.fromMirror_noJobs (c : Chan) (j k : Nat) : x.fromMirror c j k = false := by
  simp [Side.fromMirror, hj]

end

/-- R93: the mark of a frame that had begun to enter a seat which tripped. -/
def Side.markOf (x : Side) (c : Chan) (j k : Nat) : Option (Nat × Nat × Bool) := (x.xfOf c).marked.find? (fun e => e.1 == j && e.2.1 == k)

/-- R78, R84, R94: a frame becomes VOID as it is sent. -/
def Side.sentVoid (x : Side) (c : Chan) (j k : Nat) (overrun : Bool) : Bool :=
  overrun || (x.server c j k).isNone || (x.markOf c j k).elim false (·.2.2)

theorem Side.assign_seat (x : Side) (c : Chan) (j k : Nat) (overrun : Bool) :
    (x.assign c j k overrun).1 = if x.sentVoid c j k overrun then none else x.server c j k := rfl

/-- A frame is VOID as it is sent where it gets no seat, and only there. -/
theorem Side.assign_isNone (x : Side) (c : Chan) (j k : Nat) (overrun : Bool) :
    (x.assign c j k overrun).1.isNone = x.sentVoid c j k overrun := by
  rw [Side.assign_seat]
  cases hv : x.sentVoid c j k overrun with
  | true => rfl
  | false =>
    simp only [Side.sentVoid, Bool.or_eq_false_iff] at hv
    exact hv.1.2

theorem Side.assign_recomp {x : Side} (hj : ∀ q, x.jobOf q = .none) (c : Chan) (j k : Nat) (overrun : Bool) :
    (x.assign c j k overrun).2.1 = (!x.sentVoid c j k overrun && (x.markOf c j k).isSome) := by
  rw [← Bool.or_false (x.markOf c j k).isSome, ← Side.fromMirror_noJobs hj c j k]
  rfl

/-- A counter of frames, and its flag, are registers. -/
theorem Side.regsOf_countVoid {x y : Side} (h : x.regsOf y) (c : Chan) (n : Nat) : x.regsOf (y.countVoid c n) := by
  unfold Side.countVoid
  split
  · exact h
  · exact Side.regsOf_set (Side.regsOf_set h ..) ..

theorem Side.regsOf_countReplay {x y : Side} (h : x.regsOf y) (c : Chan) (n : Nat) : x.regsOf (y.countReplay c n) := by
  unfold Side.countReplay
  split
  · exact h
  · exact Side.regsOf_set (Side.regsOf_set h ..) ..

theorem Side.regsOf_setSeat {x y : Side} (h : x.regsOf y) (q st ch slot : Nat) (lag : Bool) : x.regsOf (y.setSeat q st ch slot lag) :=
  Side.regsOf_set (Side.regsOf_set (Side.regsOf_set (Side.regsOf_set h ..) ..) ..) ..

theorem Side.regsOf.xfOf {x y : Side} (h : x.regsOf y) (c : Chan) : y.xfOf c = x.xfOf c := by
  obtain ⟨r, rfl⟩ := h
  rfl

theorem Side.regsOf.xf_length {x y : Side} (h : x.regsOf y) : y.xf.length = x.xf.length := by
  obtain ⟨r, rfl⟩ := h
  rfl

theorem Side.regsOf.host {x y : Side} (h : x.regsOf y) : y.host = x.host := by
  obtain ⟨r, rfl⟩ := h
  rfl

/-- Assigning a frame to its seat takes the frame's mark away; for the rest only registers change. -/
theorem Side.assign_side (x : Side) (c : Chan) (j k : Nat) (overrun : Bool) :
    ∃ m, (x.setXf c { x.xfOf c with marked := m }).regsOf (x.assign c j k overrun).2.2 := by
  have hmark : ∃ m, (if (x.xfOf c).marked.isEmpty then x else x.setXf c { x.xfOf c with
      marked := (x.xfOf c).marked.filter (fun e => !(e.1 == j && e.2.1 == k)) }) = x.setXf c { x.xfOf c with marked := m } := by
    split
    · exact ⟨_, (x.setXf_self c).symm⟩
    · exact ⟨_, rfl⟩
  obtain ⟨m, hm⟩ := hmark
  refine ⟨m, ?_⟩
  unfold Side.assign
  dsimp only
  rw [hm]
  generalize x.setXf c { x.xfOf c with marked := m } = y
  have hseat : ∀ b : Bool, y.regsOf (match x.server c j k with
      | some q => if b && y.seatSt q == 2 then y.setSeat q 1 c.n j true else y
      | none => y) := by
    intro b
    split
    · split
      · exact Side.regsOf_setSeat y.regsOf_refl ..
      · exact y.regsOf_refl
    · exact y.regsOf_refl
  split
  · exact Side.regsOf_countVoid (hseat _) ..
  · split
    · exact Side.regsOf_countReplay (hseat _) ..
    · exact hseat _

/-! ### FRAME_DISPATCH (R84, R88) -/

theorem Side.dispatch_stopped {x : Side} {c : Chan} (overrun : Bool) (h : (x.xfOf c).run = false) : x.dispatch c overrun = (x, false) := by
  unfold Side.dispatch
  simp [h]

/-- R76, R84: the step of the transform's grid, the slot of its next frame and the frame's first sample. -/
def Xform.hop (xf : Xform) : Nat := 2 ^ (xfLog2N xf.force - xfOfCode xf.force)
def Xform.nextSlot (xf : Xform) : Nat := xf.kNext % max 1 xf.seats
def Side.nextFirst (x : Side) (c : Chan) : Nat := (x.feOf c).m0 + (x.xfOf c).kNext * (x.xfOf c).hop

/-- The seat and marks of the transform's next frame. -/
def Side.assignNext (x : Side) (c : Chan) (overrun : Bool) : Option Nat × Bool × Side :=
  x.assign c (x.xfOf c).nextSlot (x.xfOf c).kNext overrun

/-- The transform after frame f of index k has been sent: samples before the one named are dropped. -/
def Xform.sent (xf : Xform) (k first : Nat) (f : Frame) : Xform :=
  { xf with kNext := k + 1, buf := xf.buf.filter (fun a => a.m ≥ first), flight := xf.flight ++ [f] }

/-- The frame that goes to its seat, of the samples l, with the window and gain in force in `fo`. -/
def Side.frameSent (x : Side) (c : Chan) (overrun : Bool) (l : List ASmp) (fo : List Word) : Frame :=
  mkFrame (x.xfOf c).kNext (x.xfOf c).nextSlot (x.assignNext c overrun).1 (x.assignNext c overrun).2.1 (xfLog2N (x.xfOf c).force)
    (xfWin fo) (xfGain fo) l

section
variable {x : Side} {c : Chan} (overrun : Bool) {l : List ASmp} (hrun : (x.xfOf c).run = true)
  (hl : takeSamples (x.xfOf c).buf (x.nextFirst c) (2 ^ xfLog2N (x.xfOf c).force) = some l)
include hrun hl

theorem Side.dispatch_eq :
    let y := (x.assignNext c overrun).2.2
    let w := (y.xfOf c).winAt (x.nextFirst c)
    x.dispatch c overrun
      = (y.setXf c (w.sent (x.xfOf c).kNext (x.nextFirst c + (x.xfOf c).hop) (x.frameSent c overrun l w.force)), true) := by
  unfold Side.nextFirst Xform.hop at hl
  unfold Side.dispatch
  simp only [hrun, Bool.not_true, Bool.false_eq_true, if_false, hl]
  rfl

theorem Side.dispatch_sends (hlen : x.xf.length = 2) : ∃ z fo w m, x.dispatch c overrun = (z, true) ∧ z.host = x.host
    ∧ z.xfOf c = Xform.sent { x.xfOf c with force := fo, winChg := w, marked := m } (x.xfOf c).kNext (x.nextFirst c + (x.xfOf c).hop)
        (x.frameSent c overrun l fo)
    ∧ ((x.xfOf c).winChg = [] → fo = (x.xfOf c).force) := by
  obtain ⟨m, hside⟩ := x.assign_side c (x.xfOf c).nextSlot (x.xfOf c).kNext overrun
  have hxf : (x.assignNext c overrun).2.2.xfOf c = { x.xfOf c with marked := m } := (hside.xfOf c).trans (Side.xfOf_setXf _ _ hlen)
  have hlen' : (x.assignNext c overrun).2.2.xf.length = 2 := hside.xf_length.trans ((Side.setXf_length ..).trans hlen)
  obtain ⟨fo, w, hwin, hfo⟩ := ((x.assignNext c overrun).2.2.xfOf c).winAt_eq (x.nextFirst c)
  refine ⟨_, fo, w, m, Side.dispatch_eq overrun hrun hl, hside.host, ?_, ?_⟩
  · rw [Side.xfOf_setXf _ _ hlen', hwin, hxf]
  · rwa [hxf] at hfo

end

section
variable {s : State} {sd : SideId} {ch : Chan} (hj : ∀ q, (s.side sd).jobOf q = .none)
include hj

theorem frameDispatch_stopped (overrun : Bool) (hrun : ((s.side sd).xfOf ch).run = false) : exec (.frameDispatch sd ch overrun) s = .next s := by
  show execFrameDispatch sd ch overrun s = _
  unfold execFrameDispatch
  simp only [Side.handOver_noJobs hj, Side.dispatch_stopped overrun hrun, Bool.false_eq_true, if_false]

/-- A frame whose samples are there is sent, and with no command that waits for it nothing else happens. -/
theorem frameDispatch_sends {overrun : Bool} {z : Side} (hd : (s.side sd).dispatch ch overrun = (z, true))
    (hz : z.host = (s.side sd).host) (hq : ∀ d ∈ (s.side sd).host.staged, d.running = false) :
    exec (.frameDispatch sd ch overrun) s = .next (s.setSide sd z) := by
  show execFrameDispatch sd ch overrun s = _
  unfold execFrameDispatch
  simp only [Side.handOver_noJobs hj, hd, if_true]
  rw [State.finishCfg_quiet (by rw [State.side_setSide, hz]; exact hq)]

end

/-! ### FRAME_RELEASE (R86, R122) -/

section
variable {x : Side} {c : Chan} {f : Frame} {r : List Frame} (hf : (x.xfOf c).flight = f :: r)
include hf

theorem Side.release_passed (h : f.checked (x.feOf c).ramWin (x.feOf c).ramRes = true) : x.release c = (x.setXf c { x.xfOf c with
    flight := r, released := (x.xfOf c).released ++ [f.bins (x.feOf c).ramWin (x.feOf c).ramRes] }).replayOver c := by
  unfold Side.release
  simp only [hf, h, Bool.not_true, Bool.false_eq_true, if_false]

theorem Side.release_held (h : f.checked (x.feOf c).ramWin (x.feOf c).ramRes = false) : x.release c = x := by
  unfold Side.release
  simp only [hf, h, Bool.not_false, if_true]

end

theorem frameRelease_releases {s : State} {sd : SideId} (ch : Chan) (hp : (s.side sd).pwr.fatal = false) :
    exec (.frameRelease sd ch) s = .next (s.setSide sd ((s.side sd).release ch)) := by
  show Host.Outcome.next (s.setSide sd (if (s.side sd).pwr.fatal then s.side sd else (s.side sd).release ch)) = _
  rw [hp]
  rfl

/-- Settles O31: the frame's slot decides its seat, and the oldest frame leaves once it has passed its checkers. -/
theorem frameFlow : Obligations.FrameFlow := by
  unfold Obligations.FrameFlow
  intro s sd ch overrun l f r
  dsimp only
  refine ⟨fun hj hrun hq hl hlen => ?_, fun hrun hj => frameDispatch_stopped hj overrun hrun, fun hp hf => ⟨fun hc => ?_, fun hc => ?_⟩⟩
  · obtain ⟨z, fo, w, m, hd, hhost, hxf, hfo⟩ := Side.dispatch_sends overrun hrun hl hlen
    refine ⟨_, frameDispatch_sends hj hd hhost hq, ?_⟩
    simp only [State.side_setSide, hxf]
    refine ⟨rfl, rfl, _, rfl, rfl, rfl, rfl, rfl, rfl, Side.assign_recomp hj .., Side.assign_isNone .., rfl, fun hw => ?_⟩
    rw [← hfo hw]
    exact ⟨rfl, rfl⟩
  · rw [frameRelease_releases ch hp, Side.release_passed hf hc]
    rfl
  · rw [frameRelease_releases ch hp, Side.release_held hf hc, State.setSide_self]

end Sys2Proof.Machine
end

section
/-! PROOFS. Seats, the frames in them and the place of a slot's next frame (R79, R84, R92 to R94): what each update sets and leaves. -/

namespace Sys2Proof.Machine

/-! ### The state of a seat -/

theorem chanOf_n (c : Chan) : chanOf c.n = c := by cases c <;> rfl

/-- The registers of the seats lie below those of the transforms. -/
def Fld.ofSeat (g : Fld) : Prop := g.idx < 0x8100

theorem seat_ofSeat {q : Nat} (hq : q < 9) {hi lo : Nat} : Fld.ofSeat ⟨0x8000 + q, hi, lo⟩ :=
  show 0x8000 + q < 0x8100 by omega

section
variable (x : Side) (q st ch slot : Nat) (lag : Bool)

theorem Side.get_setSeat_state : (x.setSeat q st ch slot lag).get (SEAT_STAT.STATE q) = st % 8 := by
  unfold Side.setSeat
  rw [Side.put_eq, Side.get_set_apart _ _ _ _ (.inr (of_decide_eq_true rfl)), Side.get_set_apart _ _ _ _ (.inr (of_decide_eq_true rfl)),
    Side.get_set_apart _ _ _ _ (.inr (of_decide_eq_true rfl)), Side.get_set _ _ _ (of_decide_eq_true rfl) (of_decide_eq_true rfl)]
  rfl

theorem Side.get_setSeat_ch : (x.setSeat q st ch slot lag).get (SEAT_STAT.CH q) = ch % 2 := by
  unfold Side.setSeat
  rw [Side.put_eq, Side.get_set_apart _ _ _ _ (.inr (of_decide_eq_true rfl)), Side.get_set_apart _ _ _ _ (.inr (of_decide_eq_true rfl)),
    Side.get_set _ _ _ (of_decide_eq_true rfl) (of_decide_eq_true rfl)]
  rfl

theorem Side.get_setSeat_slot : (x.setSeat q st ch slot lag).get (SEAT_STAT.SLOT q) = slot % 16 := by
  unfold Side.setSeat
  rw [Side.put_eq, Side.get_set_apart _ _ _ _ (.inr (of_decide_eq_true rfl)),
    Side.get_set _ _ _ (of_decide_eq_true rfl) (of_decide_eq_true rfl)]
  rfl

theorem Side.get_setSeat_ne {g : Fld} (h : g.idx ≠ 0x8000 + q) : (x.setSeat q st ch slot lag).get g = x.get g := by
  unfold Side.setSeat
  rw [Side.put_eq, Side.get_set_ne _ _ _ _ h, Side.get_set_ne _ _ _ _ h, Side.get_set_ne _ _ _ _ h, Side.get_set_ne _ _ _ _ h]

end

theorem Side.get_quarSeat_apart (x : Side) (q : Nat) (g : Fld) (h1 : (SEAT_STAT.STATE q).apart g) (h2 : (SEAT_STAT.LAGGING q).apart g)
    (h3 : (SEAT_STAT.RESET_SINCE q).apart g) : (x.quarSeat q).get g = x.get g := by
  unfold Side.quarSeat
  rw [Side.drop_eq, Side.drop_eq, Side.get_set_apart _ _ _ _ h3, Side.get_set_apart _ _ _ _ h2, Side.get_set_apart _ _ _ _ h1]

theorem Side.get_quarSeat_ne (x : Side) (q : Nat) {g : Fld} (h : g.idx ≠ 0x8000 + q) : (x.quarSeat q).get g = x.get g :=
  Side.get_quarSeat_apart x q g (.inl h) (.inl h) (.inl h)

theorem Side.get_quarSeat_state (x : Side) (q : Nat) : (x.quarSeat q).get (SEAT_STAT.STATE q) = 4 := by
  unfold Side.quarSeat
  rw [Side.drop_eq, Side.drop_eq, Side.get_set_apart _ _ _ _ (.inr (of_decide_eq_true rfl)),
    Side.get_set_apart _ _ _ _ (.inr (of_decide_eq_true rfl)), Side.get_set_self _ _ _ (of_decide_eq_true rfl) (of_decide_eq_true rfl)]

theorem Side.get_quarSeat_trips (x : Side) (q : Nat) : (x.quarSeat q).get (SEAT_STAT.TRIPS q) = x.get (SEAT_STAT.TRIPS q) :=
  Side.get_quarSeat_apart x q _ (.inr (of_decide_eq_true rfl)) (.inr (of_decide_eq_true rfl)) (.inr (of_decide_eq_true rfl))

theorem Side.regsOf_quarSeat {x y : Side} (h : x.regsOf y) (q : Nat) : x.regsOf (y.quarSeat q) :=
  Side.regsOf_set (Side.regsOf_set (Side.regsOf_set h ..) ..) ..

theorem Side.regsOf_seatFlags {x y : Side} (h : x.regsOf y) : x.regsOf y.seatFlags :=
  foldl_keeps (fun z : Side => x.regsOf z) _ (fun _ _ hz => Side.regsOf_set hz ..) _ _ (Side.regsOf_set (Side.regsOf_set h ..) ..)

/-- NO_SPARE and VACANT follow the seats; no other field does. -/
theorem Side.get_seatFlags_apart (x : Side) (g : Fld) (h : ∀ c : Chan, (XF_STAT.NO_SPARE c.n).apart g ∧ (XF_STAT.VACANT c.n).apart g) :
    x.seatFlags.get g = x.get g := by
  unfold Side.seatFlags
  refine foldl_keeps (fun z : Side => z.get g = x.get g) _ (fun z c hz => ?_) _ _ ?_
  · exact (Side.get_set_apart _ _ _ _ (h c).2).trans hz
  · exact (Side.get_set_apart _ _ _ _ (h .c1).1).trans (Side.get_set_apart _ _ _ _ (h .c0).1)

theorem Side.get_seatFlags (x : Side) {g : Fld} (h : g.ofSeat) : x.seatFlags.get g = x.get g := by
  have hne : ∀ n, g.idx ≠ 0x8100 + 0x100 * n := fun n => by unfold Fld.ofSeat at h; omega
  exact Side.get_seatFlags_apart x g (fun c => ⟨.inl (hne c.n), .inl (hne c.n)⟩)

theorem Side.get_countReplay (x : Side) (c : Chan) (n : Nat) {g : Fld}
    (h : (XF_REPLAY_COUNT.whole c.n).apart g ∧ (XF_STAT.REPLAY_SEEN c.n).apart g) : (x.countReplay c n).get g = x.get g := by
  unfold Side.countReplay
  split
  · rfl
  · exact (Side.get_set_apart _ _ _ _ h.2).trans (Side.get_set_apart _ _ _ _ h.1)

theorem Side.get_countVoid (x : Side) (c : Chan) (n : Nat) {g : Fld}
    (h : (XF_VOID_COUNT.whole c.n).apart g ∧ (XF_STAT.DEGRADED c.n).apart g) : (x.countVoid c n).get g = x.get g := by
  unfold Side.countVoid
  split
  · rfl
  · exact (Side.get_set_apart _ _ _ _ h.2).trans (Side.get_set_apart _ _ _ _ h.1)

/-! ### The frames of a channel's slots -/

@[simp] theorem Side.get_setXf (x : Side) (c : Chan) (v : Xform) (f : Fld) : (x.setXf c v).get f = x.get f := Side.get_congr rfl rfl rfl f

/-- A change of the frames reaches the transform and a cross-side partner's frames; nothing else. -/
theorem Side.mapFlights_eq (x : Side) (c : Chan) (g : List Frame → List Frame) : ∃ p,
    x.mapFlights c g = { x.setXf c { x.xfOf c with flight := g (x.xfOf c).flight } with pp := p } := by
  unfold Side.mapFlights
  dsimp only
  split
  · exact ⟨_, rfl⟩
  · exact ⟨_, rfl⟩

section
variable (x : Side) (c : Chan) (g : List Frame → List Frame)

@[simp] theorem Side.get_mapFlights (f : Fld) : (x.mapFlights c g).get f = x.get f := by
  obtain ⟨p, e⟩ := x.mapFlights_eq c g
  rw [e]
  exact Side.get_congr rfl rfl rfl f

@[simp] theorem Side.seatJob_mapFlights : (x.mapFlights c g).seatJob = x.seatJob := by
  obtain ⟨p, e⟩ := x.mapFlights_eq c g
  rw [e]
  rfl

@[simp] theorem Side.host_mapFlights : (x.mapFlights c g).host = x.host := by
  obtain ⟨p, e⟩ := x.mapFlights_eq c g
  rw [e]
  rfl

@[simp] theorem Side.fe_mapFlights : (x.mapFlights c g).fe = x.fe := by
  obtain ⟨p, e⟩ := x.mapFlights_eq c g
  rw [e]
  rfl

@[simp] theorem Side.xf_length_mapFlights : (x.mapFlights c g).xf.length = x.xf.length := by
  obtain ⟨p, e⟩ := x.mapFlights_eq c g
  rw [e]
  exact Side.setXf_length ..

theorem Side.xfOf_mapFlights (h : x.xf.length = 2) : (x.mapFlights c g).xfOf c = { x.xfOf c with flight := g (x.xfOf c).flight } := by
  obtain ⟨p, e⟩ := x.mapFlights_eq c g
  rw [e]
  exact Side.xfOf_setXf _ _ h

theorem Side.ppOf_mapFlights : ∃ fl, lget (x.mapFlights c g).pp c.n Pp.init
    = { lget x.pp c.n Pp.init with xs := { (lget x.pp c.n Pp.init).xs with flight := fl } } := by
  unfold Side.mapFlights
  dsimp only
  split
  · exact ⟨_, rfl⟩
  · by_cases h : c.n < x.pp.length
    · exact ⟨_, lget_lset_self _ _ _ _ h⟩
    · have hset : ∀ v : Pp, lset x.pp c.n v = x.pp := fun v => List.set_eq_of_length_le (Nat.le_of_not_lt h)
      exact ⟨(lget x.pp c.n Pp.init).xs.flight, congrArg (lget · c.n Pp.init) (hset _)⟩

@[simp] theorem Side.spares_mapFlights : (x.mapFlights c g).spares = x.spares := by
  simp [Side.spares, Side.seatSt]

@[simp] theorem Side.jobOf_mapFlights (q : Nat) : (x.mapFlights c g).jobOf q = x.jobOf q := by
  simp [Side.jobOf]

@[simp] theorem Side.mirrorJob_mapFlights : (x.mapFlights c g).mirrorJob = x.mirrorJob := by
  simp [Side.mirrorJob, Side.seatSt]

end

/-! ### The place of a slot's next frame (R84, R147) -/

/-- What the place of a slot's next frame and its samples depend on, but for the number of the channel's own slots. -/
def Side.queueOf (x : Side) (c : Chan) : (Nat × Nat) × (Nat × Nat × Bool) × FrontEnd :=
  let xs := (lget x.pp c.n Pp.init).xs
  (((x.xfOf c).seats, (x.xfOf c).kNext), (xs.slots, xs.nextK, xs.rx.isEmpty), x.feOf c)

theorem Side.regsOf.queueOf {x y : Side} (h : x.regsOf y) (c : Chan) : y.queueOf c = x.queueOf c := by
  obtain ⟨r, rfl⟩ := h
  rfl

theorem Side.queueOf_mapFlights {x : Side} (c : Chan) (g : List Frame → List Frame) (h : x.xf.length = 2) :
    (x.mapFlights c g).queueOf c = x.queueOf c := by
  obtain ⟨fl, hp⟩ := x.ppOf_mapFlights c g
  unfold Side.queueOf Side.feOf
  rw [hp, x.xfOf_mapFlights c g h, x.fe_mapFlights c g]

section
variable {x y : Side} {c : Chan} (hq : y.queueOf c = x.queueOf c) (hs : y.get (XF_STAT.SEATS c.n) = x.get (XF_STAT.SEATS c.n)) (j : Nat)
include hq hs

theorem Side.nextIn_congr : y.nextIn c j = x.nextIn c j := by
  simp only [Side.queueOf, Prod.mk.injEq] at hq
  obtain ⟨⟨hseats, hk⟩, ⟨hslots, hnk, -⟩, -⟩ := hq
  unfold Side.nextIn Side.slotTurn
  rw [hs, hseats, hk, hslots, hnk]

theorem Side.mayLoad_congr : y.mayLoad c j = x.mayLoad c j := by
  have hn := Side.nextIn_congr hq hs j
  simp only [Side.queueOf, Prod.mk.injEq] at hq
  obtain ⟨-, ⟨-, -, hrx⟩, hfe⟩ := hq
  unfold Side.mayLoad
  rw [hs, hn, hrx, hfe]

end

end Sys2Proof.Machine
end

section
/-! PROOFS. Trips of the residue checkers of a seat (R92 to R95, R99). -/

namespace Sys2Proof.Machine

/-! ### A trip is counted and reported -/

/-- The trip of a seat is counted and reported with its class. -/
def Side.countTrip (x : Side) (seat cls syn : Nat) : Side :=
  let i := x.takeInj (srcOf 1 seat 0)
  (i.2.inc (SEAT_STAT.TRIPS seat)).report cls (srcOf 1 seat 0) syn i.1

theorem Side.lanePart_countTrip (x : Side) (seat cls syn : Nat) : (x.countTrip seat cls syn).lanePart = (x.inc (SEAT_STAT.TRIPS seat)).lanePart :=
  (Side.lanePart_report ..).trans (Side.lanePart_inc_congr (Side.lanePart_takeInj ..) _ (Nat.le_add_right ..))

theorem Side.get_countTrip (x : Side) (seat cls syn : Nat) {g : Fld} (hg : 0x8000 ≤ g.idx) (h : (SEAT_STAT.TRIPS seat).apart g) :
    (x.countTrip seat cls syn).get g = x.get g :=
  (Side.get_of_lanePart (x.lanePart_countTrip seat cls syn) hg).trans (Side.get_set_apart _ _ _ _ h)

theorem Side.on_countTrip (x : Side) (seat cls syn : Nat) {g : Fld} (hg : 0x8000 ≤ g.idx) (h : (SEAT_STAT.TRIPS seat).apart g) :
    (x.countTrip seat cls syn).on g = x.on g := by
  unfold Side.on
  rw [Side.get_countTrip x seat cls syn hg h]

theorem Side.get_countTrip_trips (x : Side) (seat cls syn : Nat) : (x.countTrip seat cls syn).get (SEAT_STAT.TRIPS seat)
    = min (x.get (SEAT_STAT.TRIPS seat) + 1) (2 ^ 16 - 1) :=
  (Side.get_of_lanePart (x.lanePart_countTrip seat cls syn) (Nat.le_add_right ..)).trans (Side.get_inc _ _ (of_decide_eq_true rfl))

theorem Side.xf_countTrip (x : Side) (seat cls syn : Nat) : (x.countTrip seat cls syn).xf = x.xf :=
  (Side.xf_of_lanePart (x.lanePart_countTrip seat cls syn) : _ = (x.inc (SEAT_STAT.TRIPS seat)).xf)

theorem Side.xfOf_countTrip (x : Side) (seat cls syn : Nat) (c : Chan) : (x.countTrip seat cls syn).xfOf c = x.xfOf c := by
  unfold Side.xfOf
  rw [Side.xf_countTrip]

theorem trips_apart_ne {p q : Nat} (h : q ≠ p) (hi lo : Nat) : (SEAT_STAT.TRIPS p).apart ⟨0x8000 + q, hi, lo⟩ :=
  .inl (fun e => h (Nat.add_left_cancel e))

theorem trips_apart_state (p q : Nat) : (SEAT_STAT.TRIPS p).apart (SEAT_STAT.STATE q) := by
  by_cases h : q = p
  · exact .inr (of_decide_eq_true rfl)
  · exact trips_apart_ne h ..

theorem State.tripSeat_of {s z : State} {sd : SideId} {t : SeatTrip} {cls syn : Nat}
    (h : s.seatTrip sd t.seat.val t.passed t.loading = (z, some (cls, syn))) :
    ∃ n, s.tripSeat sd t = z.setSide sd ((z.side sd).countTrip t.seat.val cls n) := by
  refine ⟨syn % 2 ^ 36, ?_⟩
  unfold State.tripSeat
  rw [h]
  rfl

/-! ### A channel whose frames and marks alone have changed -/

/-- Channel c of side y is as on side x but for the frames `fl` in its seats and the marks `mk` of frames that had begun. -/
structure Side.Reseats (x : Side) (c : Chan) (y : Side) (fl : List Frame) (mk : List (Nat × Nat × Bool)) : Prop where
  length : y.xf.length = 2
  xf : y.xfOf c = { x.xfOf c with flight := fl, marked := mk }
  queue : y.queueOf c = x.queueOf c
  seats : y.get (XF_STAT.SEATS c.n) = x.get (XF_STAT.SEATS c.n)

section
variable {x y : Side} {c : Chan} {fl : List Frame} {mk : List (Nat × Nat × Bool)}

theorem Side.reseats_refl (h : x.xf.length = 2) : x.Reseats c x (x.xfOf c).flight (x.xfOf c).marked := ⟨h, rfl, rfl, rfl⟩

theorem Side.Reseats.nextIn (h : x.Reseats c y fl mk) (j : Nat) : y.nextIn c j = x.nextIn c j := Side.nextIn_congr h.queue h.seats j

theorem Side.Reseats.mayLoad (h : x.Reseats c y fl mk) (j : Nat) : y.mayLoad c j = x.mayLoad c j := Side.mayLoad_congr h.queue h.seats j

theorem Side.Reseats.regs {z : Side} (h : x.Reseats c y fl mk) (hz : y.regsOf z) (hs : z.get (XF_STAT.SEATS c.n) = y.get (XF_STAT.SEATS c.n)) :
    x.Reseats c z fl mk :=
  ⟨hz.xf_length.trans h.length, (hz.xfOf c).trans h.xf, (hz.queueOf c).trans h.queue, hs.trans h.seats⟩

theorem Side.Reseats.mapFlights (h : x.Reseats c y fl mk) (g : List Frame → List Frame) : x.Reseats c (y.mapFlights c g) (g fl) mk where
  length := (Side.xf_length_mapFlights ..).trans h.length
  xf := by rw [Side.xfOf_mapFlights _ _ _ h.length, h.xf]
  queue := (Side.queueOf_mapFlights c g h.length).trans h.queue
  seats := (Side.get_mapFlights ..).trans h.seats

theorem Side.Reseats.marks (h : x.Reseats c y fl mk) (mk' : List (Nat × Nat × Bool)) :
    x.Reseats c (y.setXf c { y.xfOf c with marked := mk' }) fl mk' where
  length := (Side.setXf_length ..).trans h.length
  xf := by rw [Side.xfOf_setXf _ _ h.length, h.xf]
  queue := by
    rw [← h.queue]
    unfold Side.queueOf
    rw [Side.xfOf_setXf _ _ h.length]
    rfl
  seats := (Side.get_setXf ..).trans h.seats

end

/-! ### The end of a trip: the frame that had begun, and the flags of the seats -/

/-- R93, R94: the frame that had begun to enter the seat is marked, and NO_SPARE and VACANT follow the seats. -/
def Side.tripEnd (x : Side) (c : Chan) (j : Nat) (load void : Bool) : Side := (if load then x.markNext c j void else x).seatFlags

theorem Side.get_tripEnd (x : Side) (c : Chan) (j : Nat) (load void : Bool) (g : Fld)
    (h : ∀ c : Chan, (XF_STAT.NO_SPARE c.n).apart g ∧ (XF_STAT.VACANT c.n).apart g) : (x.tripEnd c j load void).get g = x.get g := by
  unfold Side.tripEnd
  rw [Side.get_seatFlags_apart _ g h]
  split
  · exact Side.get_setXf ..
  · rfl

/-- The marks of a channel once the frame that had begun to enter a tripped seat is among them. -/
def Side.marksAfter (x : Side) (c : Chan) (j : Nat) (load void : Bool) (mk : List (Nat × Nat × Bool)) : List (Nat × Nat × Bool) :=
  if load then mk ++ [(j, x.nextIn c j, void)] else mk

theorem Side.Reseats.tripEnd {x y : Side} {c : Chan} {fl : List Frame} {mk : List (Nat × Nat × Bool)} (h : x.Reseats c y fl mk) (j : Nat)
    (load void : Bool) : x.Reseats c (y.tripEnd c j load void) fl (x.marksAfter c j load void mk) := by
  have hmark : x.Reseats c (if load then y.markNext c j void else y) fl (x.marksAfter c j load void mk) := by
    cases load with
    | false => exact h
    | true =>
      have hm := h.marks ((y.xfOf c).marked ++ [(j, y.nextIn c j, void)])
      rw [h.nextIn, h.xf] at hm
      unfold Side.markNext
      rw [h.nextIn, h.xf]
      exact hm
  refine hmark.regs (Side.regsOf_seatFlags (Side.regsOf_refl _)) (Side.get_seatFlags_apart _ _ fun d => ?_)
  cases c <;> cases d <;> decide

/-! ### Replay on a spare seat (R92, R93) and frames that become VOID (R94) -/

/-- Frame f is in the retained store of a seat (R85). -/
def Frame.heldBy (f : Frame) (seat : Nat) : Bool := f.seat == some seat && !f.passed

/-- R93: the frames a quarantined seat retained go to another, RECOMPUTED. -/
def Frame.replayed (f : Frame) (old new : Nat) : Frame := if f.heldBy old then { f with seat := some new, recomp := true } else f

/-- R94: the frames a quarantined seat retained are VOID. -/
def Frame.voided (f : Frame) (old : Nat) : Frame := if f.heldBy old then { f with seat := none, void := true } else f

/-- R94: the frame of slot j that had begun to enter a seat, and waits to be replayed, becomes VOID. -/
def markVoided (j : Nat) (e : Nat × Nat × Bool) : Nat × Nat × Bool := if e.1 == j then (e.1, e.2.1, true) else e

theorem Side.replayOn_all (x : Side) (c : Chan) (old new : Nat) : ∃ n, x.replayOn c old new (fun _ => true)
    = (x.mapFlights c (List.map (fun f => f.replayed old new))).countReplay c n := by
  unfold Side.replayOn
  simp only [Bool.and_true]
  exact ⟨_, rfl⟩

theorem Side.voidOf_all (x : Side) (c : Chan) (old j : Nat) : ∃ n, x.voidOf c old j (fun _ => true)
    = let y := (x.mapFlights c (List.map (fun f => f.voided old))).countVoid c n
      y.setXf c { y.xfOf c with marked := (y.xfOf c).marked.map (markVoided j) } := by
  unfold Side.voidOf
  simp only [Bool.and_true]
  exact ⟨_, rfl⟩

/-- Frames once the first n results of a seat have passed its final checker. -/
def passedFirst (seat n : Nat) : List Frame → List Frame := changeFirst n (fun f => f.heldBy seat) (fun f => { f with passed := true })

/-- The side after the first n results of a seat have passed. -/
def Side.passFirst (x : Side) (c : Chan) (seat n : Nat) : Side := x.mapFlights c (passedFirst seat n)

theorem Side.get_passFirst (x : Side) (c : Chan) (seat n : Nat) (f : Fld) : (x.passFirst c seat n).get f = x.get f := Side.get_mapFlights ..

theorem Side.spares_passFirst (x : Side) (c : Chan) (seat n : Nat) : (x.passFirst c seat n).spares = x.spares := Side.spares_mapFlights ..

theorem Side.mirrorJob_passFirst (x : Side) (c : Chan) (seat n : Nat) : (x.passFirst c seat n).mirrorJob = x.mirrorJob :=
  Side.mirrorJob_mapFlights ..

theorem Side.Reseats.passFirst {x y : Side} {c : Chan} {fl : List Frame} {mk : List (Nat × Nat × Bool)} (h : x.Reseats c y fl mk)
    (seat n : Nat) : x.Reseats c (y.passFirst c seat n) (passedFirst seat n fl) mk :=
  h.mapFlights _

/-- R92, R93: seat `new` replays for a seat that is quarantined. -/
def Side.tripReplayed (x : Side) (c : Chan) (j seat new : Nat) (load : Bool) : Side :=
  (((x.quarSeat seat).setSeat new 2 c.n j false).replayOn c seat new (fun _ => true)).tripEnd c j load false

/-- R94: no seat replays for a seat that is quarantined. -/
def Side.tripVoided (x : Side) (c : Chan) (j seat : Nat) (load : Bool) : Side :=
  (((x.quarSeat seat).voidOf c seat j (fun _ => true)).raise (XF_STAT.DEGRADED c.n)).tripEnd c j load true

section
variable {s : State} {sd : SideId} {seat : Nat} {x : Side} (hx : s.side sd = x)
include hx

section
variable {c : Chan} {j : Nat} {loading load : Bool} (hc : chanOf (x.get (SEAT_STAT.CH seat)) = c) (hj : x.get (SEAT_STAT.SLOT seat) = j)
  (hl : (loading && x.mayLoad c j) = load)
include hc hj hl

theorem State.tripServing_spare {n : Nat} {r : List Nat} (h : x.spares = n :: r) :
    (s.tripServing sd seat loading).1 = s.setSide sd (x.tripReplayed c j seat n load) := by
  subst hc hj hl
  unfold State.tripServing
  simp only [hx, h]
  rfl

theorem State.tripServing_noSpare (h : x.spares = []) (hm : x.mirrorJob = none) :
    (s.tripServing sd seat loading).1 = s.setSide sd (x.tripVoided c j seat load) := by
  subst hc hj hl
  unfold State.tripServing
  simp only [hx, h, hm]
  rfl

end

/-- A trip in an ACTIVE seat with no retirement: the results that have passed leave it, and its slot is served anew. -/
theorem State.seatTrip_active {c : Chan} (hc : chanOf (x.get (SEAT_STAT.CH seat)) = c) (passed : Nat) (loading : Bool) (h1 : x.seatSt seat = 1)
    (hj : x.jobOf seat = .none) : ∃ cls syn, s.seatTrip sd seat passed loading
      = (((s.setSide sd (x.passFirst c seat passed)).tripServing sd seat loading).1, some (cls, syn)) := by
  subst hc
  unfold State.seatTrip
  simp only [hx, h1]
  unfold State.tripActive
  simp only [State.side_mod, hx, Side.jobOf_mapFlights, hj]
  refine ⟨_, _, Prod.ext ?_ rfl⟩
  unfold State.mod
  rw [hx]
  rfl

end

/-! ### What a trip leaves of its slot's frames and of the seats -/

theorem Fld.ofSeat.offXf {g : Fld} (h : g.ofSeat) {c : Nat} (k : Nat) : g.idx ≠ 0x8100 + k + 0x100 * c := by
  unfold Fld.ofSeat at h
  omega

theorem Fld.ofSeat.flags {g : Fld} (h : g.ofSeat) (c : Chan) : (XF_STAT.NO_SPARE c.n).apart g ∧ (XF_STAT.VACANT c.n).apart g :=
  ⟨.inl (h.offXf 0), .inl (h.offXf 0)⟩

section
variable {x y : Side} {c : Chan} (j seat : Nat) {new : Nat} (load : Bool) {fl : List Frame} {mk : List (Nat × Nat × Bool)}

theorem Side.get_tripReplayed {g : Fld} (h : g.ofSeat) :
    (x.tripReplayed c j seat new load).get g = ((x.quarSeat seat).setSeat new 2 c.n j false).get g := by
  obtain ⟨n, hr⟩ := ((x.quarSeat seat).setSeat new 2 c.n j false).replayOn_all c seat new
  unfold Side.tripReplayed
  rw [Side.get_tripEnd _ _ _ _ _ _ h.flags, hr, Side.get_countReplay _ _ _ ⟨.inl (h.offXf 1), .inl (h.offXf 0)⟩, Side.get_mapFlights]

/-- R92, R93: the tripped seat is quarantined and the spare one is in REPLAY in its slot. -/
theorem Side.seats_tripReplayed (hn : new ≠ seat) (hs : new < 9) (hq : seat < 9) (hj : j < 16) :
    let y := x.tripReplayed c j seat new load
    y.get (SEAT_STAT.STATE seat) = 4 ∧ y.get (SEAT_STAT.STATE new) = 2 ∧ y.get (SEAT_STAT.CH new) = c.n ∧ y.get (SEAT_STAT.SLOT new) = j
      ∧ y.get (SEAT_STAT.TRIPS seat) = x.get (SEAT_STAT.TRIPS seat) := by
  have hne : 0x8000 + seat ≠ 0x8000 + new := by omega
  intro y
  refine ⟨?_, ?_, ?_, ?_, ?_⟩ <;> refine (Side.get_tripReplayed j seat load (seat_ofSeat ‹_›)).trans ?_
  · exact (Side.get_setSeat_ne _ _ _ _ _ _ hne).trans (Side.get_quarSeat_state ..)
  · exact Side.get_setSeat_state ..
  · exact (Side.get_setSeat_ch ..).trans (Nat.mod_eq_of_lt (chan_n_lt c))
  · exact (Side.get_setSeat_slot ..).trans (Nat.mod_eq_of_lt hj)
  · exact (Side.get_setSeat_ne _ _ _ _ _ _ hne).trans (Side.get_quarSeat_trips ..)

theorem Side.Reseats.quarSeat (h : x.Reseats c y fl mk) (hq : seat < 9) :
    x.Reseats c (y.quarSeat seat) fl mk :=
  h.regs (Side.regsOf_quarSeat y.regsOf_refl _) (Side.get_quarSeat_ne _ _ (by simp only [XF_STAT.SEATS]; omega))

theorem Side.Reseats.tripReplayed (h : x.Reseats c y fl mk) (hq : seat < 9)
    (hs : new < 9) : x.Reseats c (y.tripReplayed c j seat new load) (fl.map (fun f => f.replayed seat new)) (x.marksAfter c j load false mk) := by
  have hset := (h.quarSeat seat hq).regs (Side.regsOf_setSeat (Side.regsOf_refl _) new 2 c.n j false)
    (Side.get_setSeat_ne _ _ _ _ _ _ (by simp only [XF_STAT.SEATS]; omega))
  obtain ⟨n, hr⟩ := ((y.quarSeat seat).setSeat new 2 c.n j false).replayOn_all c seat new
  unfold Side.tripReplayed
  rw [hr]
  refine Side.Reseats.tripEnd ((hset.mapFlights _).regs (Side.regsOf_countReplay (Side.regsOf_refl _) ..) ?_) ..
  exact Side.get_countReplay _ _ _ (by cases c <;> decide)

theorem Side.Reseats.tripVoided (h : x.Reseats c y fl mk) (hq : seat < 9) :
    x.Reseats c (y.tripVoided c j seat load) (fl.map (fun f => f.voided seat))
      (x.marksAfter c j load true (mk.map (markVoided j))) := by
  obtain ⟨n, hv⟩ := (y.quarSeat seat).voidOf_all c seat j
  have hmap := ((h.quarSeat seat hq).mapFlights (List.map (fun f => f.voided seat))).regs (Side.regsOf_countVoid (Side.regsOf_refl _) c n)
    (Side.get_countVoid _ _ _ (by cases c <;> decide))
  have hmark := hmap.marks (mk.map (markVoided j))
  unfold Side.tripVoided
  rw [hv]
  dsimp only
  rw [hmap.xf] at hmark ⊢
  exact Side.Reseats.tripEnd (hmark.regs (Side.regsOf_set (Side.regsOf_refl _) ..) (Side.get_set_apart _ _ _ _ (by cases c <;> decide))) ..

theorem Side.get_tripVoided {g : Fld} (h : g.ofSeat) : (x.tripVoided c j seat load).get g = (x.quarSeat seat).get g := by
  obtain ⟨n, hv⟩ := (x.quarSeat seat).voidOf_all c seat j
  unfold Side.tripVoided
  rw [Side.get_tripEnd _ _ _ _ _ _ h.flags, Side.raise_eq, Side.get_set_ne _ _ _ _ (h.offXf 0), hv]
  dsimp only
  rw [Side.get_setXf, Side.get_countVoid _ _ _ ⟨.inl (h.offXf 2), .inl (h.offXf 0)⟩, Side.get_mapFlights]

/-- R92, R94: the tripped seat is quarantined and the channel is DEGRADED. -/
theorem Side.seats_tripVoided (hq : seat < 9) :
    let y := x.tripVoided c j seat load
    y.get (SEAT_STAT.STATE seat) = 4 ∧ y.get (SEAT_STAT.TRIPS seat) = x.get (SEAT_STAT.TRIPS seat) ∧ y.on (XF_STAT.DEGRADED c.n) = true := by
  refine ⟨?_, ?_, ?_⟩
  · exact (Side.get_tripVoided j seat load (seat_ofSeat hq)).trans (Side.get_quarSeat_state ..)
  · exact (Side.get_tripVoided j seat load (seat_ofSeat hq)).trans (Side.get_quarSeat_trips ..)
  · unfold Side.on Side.tripVoided
    rw [Side.get_tripEnd _ _ _ _ _ _ (fun d => by cases c <;> cases d <;> decide)]
    exact Side.on_set_one _ _ (by cases c <;> decide)

end

/-- R92: a SPARE seat that trips is quarantined, and no frame is affected. -/
theorem Side.seats_tripSpare (x : Side) {seat : Nat} (hq : seat < 9) :
    let y := (x.quarSeat seat).seatFlags
    y.get (SEAT_STAT.STATE seat) = 4 ∧ y.get (SEAT_STAT.TRIPS seat) = x.get (SEAT_STAT.TRIPS seat) ∧ y.xf = x.xf := by
  obtain ⟨r, hr⟩ := Side.regsOf_seatFlags (Side.regsOf_quarSeat x.regsOf_refl seat)
  exact ⟨(Side.get_seatFlags _ (seat_ofSeat hq)).trans (Side.get_quarSeat_state ..),
    (Side.get_seatFlags _ (seat_ofSeat hq)).trans (Side.get_quarSeat_trips ..), by rw [hr]⟩

theorem Side.mem_spares {x : Side} {n : Nat} {r : List Nat} (h : x.spares = n :: r) : n < 9 ∧ x.seatSt n = 0 := by
  have hm : n ∈ x.spares := h ▸ List.mem_cons_self
  simpa [Side.spares] using hm

/-! ### CHECKER_TRIP -/

section
variable {s : State} {sd : SideId} {trip : SeatTrip} {x : Side} (hx : s.side sd = x)
include hx

/-- A trip in a SPARE seat. -/
theorem checkerTrip_spare (h0 : x.seatSt trip.seat.val = 0) : ∃ n,
    exec (.checkerTrip sd trip none) s = .next (s.setSide sd ((x.quarSeat trip.seat.val).seatFlags.countTrip trip.seat.val 0 n)) := by
  have hz : s.seatTrip sd trip.seat.val trip.passed trip.loading = (s.setSide sd (x.quarSeat trip.seat.val).seatFlags, some (0, 0)) := by
    unfold State.seatTrip
    simp only [hx, h0]
  obtain ⟨n, hn⟩ := State.tripSeat_of hz
  rw [State.side_setSide, State.setSide_setSide] at hn
  exact ⟨n, congrArg Host.Outcome.next hn⟩

/-- A trip in a seat that is out of service changes nothing. -/
theorem checkerTrip_out (h4 : 4 ≤ x.seatSt trip.seat.val) : exec (.checkerTrip sd trip none) s = .next s := by
  have hz : s.seatTrip sd trip.seat.val trip.passed trip.loading = (s, none) := by
    unfold State.seatTrip
    simp only [hx]
    obtain ⟨k, hk⟩ : ∃ k, x.seatSt trip.seat.val = k + 4 := ⟨_, (Nat.sub_add_cancel h4).symm⟩
    rw [hk]
    rfl
  refine congrArg Host.Outcome.next ?_
  unfold State.tripSeat
  rw [hz]

section
variable (h1 : x.seatSt trip.seat.val = 1) (hj : x.jobOf trip.seat.val = .none)
include h1 hj

/-- A trip in an ACTIVE seat with no retirement is served for its slot, then counted. -/
theorem checkerTrip_active {c : Chan} (hc : chanOf (x.get (SEAT_STAT.CH trip.seat.val)) = c) {z : Side}
    (hz : ((s.setSide sd (x.passFirst c trip.seat.val trip.passed)).tripServing sd trip.seat.val trip.loading).1 = s.setSide sd z) :
    ∃ cls n, exec (.checkerTrip sd trip none) s = .next (s.setSide sd (z.countTrip trip.seat.val cls n)) := by
  obtain ⟨cls, syn, h⟩ := State.seatTrip_active hx hc trip.passed trip.loading h1 hj
  rw [hz] at h
  obtain ⟨n, hn⟩ := State.tripSeat_of h
  rw [State.side_setSide, State.setSide_setSide] at hn
  exact ⟨cls, n, congrArg Host.Outcome.next hn⟩

section
variable {c : Chan} {j : Nat} {load : Bool} (hc : chanOf (x.get (SEAT_STAT.CH trip.seat.val)) = c)
  (hslot : x.get (SEAT_STAT.SLOT trip.seat.val) = j) (hload : (trip.loading && x.mayLoad c j) = load) (hlen : x.xf.length = 2)
include hc hslot hload hlen

/-- R92, R93: the lowest spare seat takes the slot, and computes the frames retained anew. -/
theorem checkerTrip_replays {new : Nat} {r : List Nat} (hs : x.spares = new :: r) : Does (.checkerTrip sd trip none) s (fun t =>
    let y := t.side sd
    y.get (SEAT_STAT.STATE trip.seat.val) = 4 ∧ y.get (SEAT_STAT.STATE new) = 2 ∧ y.get (SEAT_STAT.CH new) = c.n
      ∧ y.get (SEAT_STAT.SLOT new) = j ∧ y.get (SEAT_STAT.TRIPS trip.seat.val) = min (x.get (SEAT_STAT.TRIPS trip.seat.val) + 1) (2 ^ 16 - 1)
      ∧ (y.xfOf c).flight = (passedFirst trip.seat.val trip.passed (x.xfOf c).flight).map (fun f => f.replayed trip.seat.val new)
      ∧ (y.xfOf c).marked = x.marksAfter c j load false (x.xfOf c).marked) := by
  have hpass := (Side.reseats_refl (c := c) hlen).passFirst trip.seat.val trip.passed
  obtain ⟨hn9, hn0⟩ := Side.mem_spares hs
  have hne : new ≠ trip.seat.val := fun e => absurd (h1.symm.trans (e ▸ hn0)) (by decide)
  have hserve := State.tripServing_spare (State.side_setSide s sd (x.passFirst c trip.seat.val trip.passed))
    ((congrArg chanOf (Side.get_passFirst ..)).trans hc) ((Side.get_passFirst ..).trans hslot)
    ((congrArg (trip.loading && ·) (hpass.mayLoad j)).trans hload) ((Side.spares_passFirst ..).trans hs)
  rw [State.setSide_setSide] at hserve
  obtain ⟨cls, n, he⟩ := checkerTrip_active hx h1 hj hc hserve
  obtain ⟨hst, hnew, hch, hsl, htr⟩ := (x.passFirst c trip.seat.val trip.passed).seats_tripReplayed (c := c) j trip.seat.val load hne hn9
    trip.seat.isLt (hslot ▸ Side.get_lt ..)
  have hxf := (hpass.tripReplayed j trip.seat.val load trip.seat.isLt hn9).xf
  refine ⟨_, he, ?_⟩
  dsimp only
  rw [State.side_setSide, Side.xfOf_countTrip, Side.get_countTrip_trips, htr, Side.get_passFirst, hxf]
  exact ⟨(Side.get_countTrip _ _ _ _ (Nat.le_add_right ..) (trips_apart_state ..)).trans hst,
    (Side.get_countTrip _ _ _ _ (Nat.le_add_right ..) (trips_apart_state ..)).trans hnew,
    (Side.get_countTrip _ _ _ _ (Nat.le_add_right ..) (trips_apart_ne hne ..)).trans hch,
    (Side.get_countTrip _ _ _ _ (Nat.le_add_right ..) (trips_apart_ne hne ..)).trans hsl, rfl, rfl, rfl⟩

/-- R94: with no spare seat the frames retained are VOID. -/
theorem checkerTrip_voids (hs : x.spares = []) (hm : x.mirrorJob = none) : Does (.checkerTrip sd trip none) s (fun t =>
    let y := t.side sd
    y.get (SEAT_STAT.STATE trip.seat.val) = 4 ∧ y.on (XF_STAT.DEGRADED c.n) = true
      ∧ y.get (SEAT_STAT.TRIPS trip.seat.val) = min (x.get (SEAT_STAT.TRIPS trip.seat.val) + 1) (2 ^ 16 - 1)
      ∧ (y.xfOf c).flight = (passedFirst trip.seat.val trip.passed (x.xfOf c).flight).map (fun f => f.voided trip.seat.val)
      ∧ (y.xfOf c).marked = x.marksAfter c j load true ((x.xfOf c).marked.map (markVoided j))) := by
  have hpass := (Side.reseats_refl (c := c) hlen).passFirst trip.seat.val trip.passed
  have hserve := State.tripServing_noSpare (State.side_setSide s sd (x.passFirst c trip.seat.val trip.passed))
    ((congrArg chanOf (Side.get_passFirst ..)).trans hc) ((Side.get_passFirst ..).trans hslot)
    ((congrArg (trip.loading && ·) (hpass.mayLoad j)).trans hload) ((Side.spares_passFirst ..).trans hs) ((Side.mirrorJob_passFirst ..).trans hm)
  rw [State.setSide_setSide] at hserve
  obtain ⟨cls, n, he⟩ := checkerTrip_active hx h1 hj hc hserve
  obtain ⟨hst, htr, hdeg⟩ := (x.passFirst c trip.seat.val trip.passed).seats_tripVoided (c := c) j trip.seat.val load trip.seat.isLt
  have hxf := (hpass.tripVoided j trip.seat.val load trip.seat.isLt).xf
  refine ⟨_, he, ?_⟩
  dsimp only
  rw [State.side_setSide, Side.xfOf_countTrip, Side.get_countTrip_trips, htr, Side.get_passFirst, hxf]
  exact ⟨(Side.get_countTrip _ _ _ _ (Nat.le_add_right ..) (trips_apart_state ..)).trans hst,
    (Side.on_countTrip _ _ _ _ (by cases c <;> decide) (.inl ((seat_ofSeat trip.seat.isLt).offXf 0).symm)).trans hdeg, rfl, rfl, rfl⟩

end

end

end

end Sys2Proof.Machine
end

section
/-! PROOFS. Seats (R92 to R95, R98 to R100): the end of a retirement and of a return, and the family of trips and repairs. -/

namespace Sys2Proof.Machine

/-! ### Retirements (R98) -/

theorem Side.jobOf_of_noHost {x y : Side} (h : y.noHost = x.noHost) (q : Nat) : y.jobOf q = x.jobOf q := by
  have hjob : y.seatJob = x.seatJob := (congrArg Side.seatJob h : y.noHost.seatJob = x.noHost.seatJob)
  unfold Side.jobOf
  rw [hjob]

theorem Side.regsOf.jobOf {x y : Side} (h : x.regsOf y) (q : Nat) : y.jobOf q = x.jobOf q := by
  obtain ⟨r, rfl⟩ := h
  rfl

theorem Side.cmdOf_of_host {x y : Side} (h : y.host = x.host) (i : SideId) (id : Nat) : y.cmdOf i id = x.cmdOf i id := by
  unfold Side.cmdOf
  rw [h]

theorem State.endCmd_found {s : State} {sd i : SideId} {id : Nat} {st : Staged} (h : (s.side sd).cmdOf i id = some st) (code : Nat) (r0 r1 : Int) :
    s.endCmd sd i id code r0 r1 = s.complete sd st code (if code ≥ 0x2000 then (s.side sd).now else (lget st.aux 0 0).toNat) r0 r1 := by
  unfold State.endCmd
  rw [h]

/-- R85: every result of a seat has passed its final checker. -/
def Side.passSeat (x : Side) (c : Chan) (seat : Nat) : Side :=
  x.mapFlights c (fun l => l.map (fun f => if f.seat == some seat then { f with passed := true } else f))

/-- R98 step 4: seat `new` is ACTIVE in slot j of a channel, and the seat it takes over from is RETIRED. -/
def Side.slotPassed (x : Side) (c : Chan) (j seat new : Nat) : Side :=
  (((x.setSeat new 1 c.n j false).set (SEAT_STAT.STATE seat) 5).drop (SEAT_STAT.LAGGING seat)).drop (SEAT_STAT.RESET_SINCE seat)

/-- The side once a retirement is over. -/
def Side.retired (x : Side) (c : Chan) (j seat new : Nat) : Side :=
  (((x.passSeat c seat).slotPassed c j seat new).setJob seat .none).seatFlags

@[simp] theorem Side.get_setJob (x : Side) (q : Nat) (job : SeatJob) (f : Fld) : (x.setJob q job).get f = x.get f := Side.get_congr rfl rfl rfl f

@[simp] theorem Side.host_setJob (x : Side) (q : Nat) (job : SeatJob) : (x.setJob q job).host = x.host := rfl

section
variable (x : Side) (c : Chan) (j : Nat) {seat new : Nat}

theorem Side.regsOf_slotPassed : x.regsOf (x.slotPassed c j seat new) :=
  Side.regsOf_set (Side.regsOf_set (Side.regsOf_set (Side.regsOf_setSeat x.regsOf_refl ..) ..) ..) ..

theorem Side.host_retired : (x.retired c j seat new).host = x.host := by
  unfold Side.retired
  rw [(Side.regsOf_seatFlags (Side.regsOf_refl _)).host, Side.host_setJob, ((x.passSeat c seat).regsOf_slotPassed c j).host]
  exact Side.host_mapFlights ..

theorem Side.jobOf_retired (h : seat < x.seatJob.length) : (x.retired c j seat new).jobOf seat = .none := by
  unfold Side.retired
  rw [(Side.regsOf_seatFlags (Side.regsOf_refl _)).jobOf]
  refine lget_lset_self _ _ _ _ ?_
  obtain ⟨r, hr⟩ := (x.passSeat c seat).regsOf_slotPassed c j (seat := seat) (new := new)
  rw [hr]
  exact (Side.seatJob_mapFlights x c _).symm ▸ h

theorem Side.get_slotPassed_ne {g : Fld} (h : g.idx ≠ 0x8000 + seat) :
    (x.slotPassed c j seat new).get g = (x.setSeat new 1 c.n j false).get g :=
  (Side.get_set_ne _ _ _ _ h).trans ((Side.get_set_ne _ _ _ _ h).trans (Side.get_set_ne _ _ _ _ h))

theorem Side.get_slotPassed_state : (x.slotPassed c j seat new).get (SEAT_STAT.STATE seat) = 5 :=
  (Side.get_set_apart _ _ _ _ (.inr (of_decide_eq_true rfl))).trans ((Side.get_set_apart _ _ _ _ (.inr (of_decide_eq_true rfl))).trans
    (Side.get_set_self _ _ _ (of_decide_eq_true rfl) (of_decide_eq_true rfl)))

theorem Side.seats_retired (hn : new ≠ seat) (hs : new < 9) (hq : seat < 9) :
    let y := x.retired c j seat new
    y.get (SEAT_STAT.STATE seat) = 5 ∧ y.get (SEAT_STAT.STATE new) = 1 ∧ y.get (SEAT_STAT.CH new) = c.n
      ∧ y.get (SEAT_STAT.SLOT new) = j % 16 := by
  have hget : ∀ g : Fld, g.ofSeat → (x.retired c j seat new).get g = ((x.passSeat c seat).slotPassed c j seat new).get g :=
    fun g hg => (Side.get_seatFlags _ hg).trans (Side.get_setJob ..)
  have hne : 0x8000 + new ≠ 0x8000 + seat := by omega
  refine ⟨?_, ?_, ?_, ?_⟩ <;> refine (hget _ (seat_ofSeat ‹_›)).trans ?_
  · exact Side.get_slotPassed_state ..
  · exact (Side.get_slotPassed_ne _ _ _ hne).trans (Side.get_setSeat_state ..)
  · exact (Side.get_slotPassed_ne _ _ _ hne).trans ((Side.get_setSeat_ch ..).trans (Nat.mod_eq_of_lt (chan_n_lt c)))
  · exact (Side.get_slotPassed_ne _ _ _ hne).trans (Side.get_setSeat_slot ..)

end

section
variable {s : State} {sd : SideId} {seat : Fin 9} {n km slot id : Nat} {c : Chan} {x : Side} (hx : s.side sd = x)
  (hj : x.jobOf seat.val = .retire n km c.n slot false sd id) (mm : BitVec 8)
include hx hj

/-- R98: while frames of the slot are still to be mirrored, the retirement goes on. -/
theorem laneRetireDone_waits (hk : x.nextIn c slot < km + 2 * x.slotTurn c slot) : exec (.laneRetireDone sd seat mm) s = .next s := by
  show execLaneRetireDone sd seat mm s = _
  unfold execLaneRetireDone
  simp only [hx, hj, chanOf_n, hk, if_true]

theorem laneRetireDone_retires {st : Staged} (hc : x.cmdOf sd id = some st) (hk : km + 2 * x.slotTurn c slot ≤ x.nextIn c slot)
    (hn : x.seatSt n = 3) : exec (.laneRetireDone sd seat mm) s = .next ((s.setSide sd (x.retired c slot seat.val n)).complete sd st
      (if mm = 0 then 0 else 0x1001) (lget st.aux 0 0).toNat (n + mm.toNat * 256 : Nat) (km + 2 * x.slotTurn c slot : Nat)) := by
  have hn' : (x.passSeat c seat.val).seatSt n = 3 := (Side.get_mapFlights ..).trans hn
  have hcode : (if mm.toNat == 0 then stOK else stMirrorMismatch) = if mm = 0 then 0 else 0x1001 := by
    by_cases h : mm = 0
    · rw [h]
      rfl
    · have hnat : mm.toNat ≠ 0 := fun e => h (BitVec.eq_of_toNat_eq e)
      rw [if_neg h, if_neg (by simpa using hnat)]
      rfl
  have hlow : ¬(if mm = 0 then 0 else 0x1001) ≥ 0x2000 := by split <;> decide
  have hcmd : ((s.setSide sd (x.retired c slot seat.val n)).side sd).cmdOf sd id = some st := by
    rw [State.side_setSide, Side.cmdOf_of_host (Side.host_retired ..), hc]
  have hdone : execLaneRetireDone sd seat mm s = .next ((s.setSide sd (x.retired c slot seat.val n)).endCmd sd sd id
      (if mm.toNat == 0 then stOK else stMirrorMismatch) (n + mm.toNat * 256 : Nat) (km + 2 * x.slotTurn c slot : Nat)) := by
    unfold Side.passSeat at hn'
    unfold execLaneRetireDone
    simp only [hx, hj, chanOf_n, Nat.not_lt.2 hk, if_false, hn', beq_self_eq_true, if_true, Bool.false_eq_true]
    rfl
  refine hdone.trans (congrArg Host.Outcome.next ?_)
  rw [State.endCmd_found hcmd, hcode, if_neg hlow]

end

/-! ### Returns (R100) -/

/-- R100: a checker trips in test frame n: the seat is quarantined, and the trip is counted and reported. -/
def Side.testTripped (x : Side) (seat n : Nat) : Side :=
  let i := x.takeInj (srcOf 1 seat 0)
  ((i.2.quarSeat seat).inc (SEAT_STAT.TRIPS seat)).report 0 (srcOf 1 seat 0) n i.1

section
variable {s : State} {sd : SideId} {seat : Fin 9} {id : Nat} {st : Staged} {x : Side} (hx : s.side sd = x)
  (hj : x.jobOf seat.val = .return id)
  (hc : x.runningCmd 0x41 (fun c => c.id == id && seatOfSrc (c.e.op4 % 65536) == some seat.val) = some st)
include hx hj hc

theorem laneReturnDone_passes : exec (.laneReturnDone sd seat none) s
    = .next ((s.setSide sd ((x.setJob seat.val .none).seatBack seat.val)).complete sd st 0 (lget st.aux 0 0).toNat 0 0) := by
  show execLaneReturnDone sd seat none s = _
  unfold execLaneReturnDone
  simp only [hx, hj, hc]
  rfl

theorem laneReturnDone_trips (b : Fin 64) : exec (.laneReturnDone sd seat (some b)) s
    = .next ((s.setSide sd ((x.setJob seat.val .none).testTripped seat.val b.val)).refuse sd st stSeatFailed) := by
  show execLaneReturnDone sd seat (some b) s = _
  unfold execLaneReturnDone
  simp only [hx, hj, hc]
  rfl

end

theorem Side.get_testTripped (x : Side) (seat n : Nat) : (x.testTripped seat n).get (SEAT_STAT.STATE seat) = 4 := by
  unfold Side.testTripped
  rw [Side.get_of_lanePart (Side.lanePart_report ..) (Nat.le_add_right ..)]
  exact (Side.get_set_apart _ _ _ _ (trips_apart_state seat seat)).trans (Side.get_quarSeat_state _ seat)

theorem Side.now_testTripped (x : Side) (seat n : Nat) : (x.testTripped seat n).now = x.now :=
  (Side.now_of_lanePart (Side.lanePart_report ..)).trans
    (show (x.takeInj (srcOf 1 seat 0)).2.now = x.now from Side.now_of_lanePart (Side.lanePart_takeInj ..))

/-- Settles O32: a trip is served in the seats' registers and the slot's frames, then counted; a retirement or a return answers its command. -/
theorem seatTripsAndRepairs : Obligations.SeatTripsAndRepairs := by
  unfold Obligations.SeatTripsAndRepairs
  refine ⟨?_, ?_⟩
  · intro s sd trip u n r
    dsimp only
    refine ⟨fun h0 => ?_, fun h1 hj hs hlen => ?_, fun h1 hj hs hm hlen => ?_, checkerTrip_out rfl,
      fun h => congrArg Host.Outcome.next (if_pos h), fun h => congrArg Host.Outcome.next (if_neg (Nat.not_lt.2 h))⟩
    · obtain ⟨k, he⟩ := checkerTrip_spare rfl h0
      refine ⟨_, he, ?_⟩
      simp only [State.side_setSide]
      obtain ⟨hst, htr, hxf⟩ := (s.side sd).seats_tripSpare trip.seat.isLt
      refine ⟨(Side.get_countTrip _ _ _ _ (Nat.le_add_right ..) (trips_apart_state ..)).trans hst, ?_, (Side.xf_countTrip ..).trans hxf⟩
      rw [Side.get_countTrip_trips, htr]
    · exact checkerTrip_replays rfl h1 hj rfl rfl rfl hlen hs
    · exact checkerTrip_voids rfl h1 hj rfl rfl rfl hlen hs hm
  · intro s sd seat n km slot id ch mm st b
    dsimp only
    refine ⟨fun hj hc hk hst hn hne hlen => ?_, fun hj hk => laneRetireDone_waits rfl hj mm hk,
      fun hj hc => ⟨laneReturnDone_passes rfl hj hc, ?_⟩⟩
    · refine ⟨_, laneRetireDone_retires rfl hj mm hc hk hst, ?_⟩
      have hside := State.complete_noHost (s.setSide sd ((s.side sd).retired ch slot seat.val n)) sd st (if mm = 0 then 0 else 0x1001)
        (lget st.aux 0 0).toNat (n + mm.toNat * 256 : Nat) (km + 2 * (s.side sd).slotTurn ch slot : Nat) sd
      rw [State.side_setSide] at hside
      obtain ⟨hold, hnew, hch, hslot⟩ := (s.side sd).seats_retired ch slot hne hn seat.isLt
      exact ⟨(Side.get_of_noHost hside _).trans hold, (Side.get_of_noHost hside _).trans hnew, (Side.get_of_noHost hside _).trans hch,
        (Side.get_of_noHost hside _).trans hslot, (Side.jobOf_of_noHost hside _).trans (Side.jobOf_retired _ _ _ (by rw [hlen]; exact seat.isLt)),
        State.answered_complete ..⟩
    · refine ⟨_, laneReturnDone_trips rfl hj hc b, ?_, ?_⟩
      · rw [Side.get_of_noHost (State.refuse_noHost ..), State.side_setSide, Side.get_testTripped]
      · unfold State.refuse
        rw [State.side_setSide, Side.now_testTripped]
        exact State.answered_complete ..

end Sys2Proof.Machine
end

section
/-! PROOFS. Reads of the SRAM and writes of a ring's buffers (R317, R318, R237, R264, R281) leave the staged commands of a side as they are. -/

namespace Sys2Proof.Machine

/-! ### Reads of the SRAM (R317, R318) -/

theorem Side.staged_readBlk_sram (x : Side) (b : Nat) : (x.readBlk .sram b).1.host.staged = x.host.staged :=
  (Side.staged_decodeBlk_sram _ b b).trans (Side.staged_foldl _ Side.staged_flushEnt_sram _ x)

/-- Steps that keep a side's staged commands, beside what they gather. -/
theorem Side.staged_foldl_fst {α β : Type} (f : Side × β → α → Side × β) (h : ∀ a i, (f a i).1.host.staged = a.1.host.staged) (l : List α) :
    ∀ a, (l.foldl f a).1.host.staged = a.1.host.staged := by
  induction l with
  | nil => intro a; rfl
  | cons i l ih => intro a; exact (ih _).trans (h a i)

theorem Side.staged_readRange_sram (x : Side) (addr len : Nat) : (x.readRange .sram addr len).1.host.staged = x.host.staged := by
  unfold Side.readRange
  split
  · rfl
  · refine Side.staged_foldl_fst _ (fun a i => ?_) _ (x, [], 0)
    exact Side.staged_readBlk_sram ..

theorem Side.staged_readWord_sram (x : Side) (addr : Nat) : (x.readWord .sram addr).1.host.staged = x.host.staged :=
  Side.staged_readRange_sram ..

/-! ### Writes of a ring's buffers (R237, R264, R281) -/

theorem State.staged_mod (s : State) (i j : SideId) (f : Side → Side) (h : ∀ x, (f x).host.staged = x.host.staged) :
    ((s.mod i f).side j).host.staged = (s.side j).host.staged := by
  by_cases hj : j = i
  · rw [hj, State.side_mod, h]
  · rw [SideId.eq_other_of_ne hj, State.side_mod_other]

theorem State.staged_dmaWrite (s : State) (i j : SideId) (a : Nat) (bs : List Byte) :
    ((s.dmaWrite i a bs).side j).host.staged = (s.side j).host.staged :=
  State.staged_mod _ _ _ _ (fun _ => rfl)

theorem HostSide.staged_sendVec (h : HostSide) (v : Nat) : (h.sendVec v).staged = h.staged := by
  unfold HostSide.sendVec
  dsimp only
  split <;> rfl

theorem Side.staged_setOutRing (x : Side) (n : Nat) (r : OutRing) : (x.setOutRing n r).host.staged = x.host.staged := by
  unfold Side.setOutRing
  dsimp only
  split
  · rfl
  · split <;> rfl

theorem State.staged_ringWrote (s : State) (sd : SideId) (n : Nat) (third : Bool) :
    ((s.ringWrote sd n third).side sd).host.staged = (s.side sd).host.staged := by
  unfold State.ringWrote
  dsimp only
  split
  · unfold State.ringSignal State.signal
    rw [State.staged_mod _ _ _ _ (fun x => HostSide.staged_sendVec x.host _), State.side_setSide, Side.staged_setOutRing]
  · rw [State.side_setSide, Side.staged_setOutRing]

theorem State.staged_writeBack (s : State) (sd : SideId) (r q1 : Nat) :
    ((s.writeBack sd r q1).side sd).host.staged = (s.side sd).host.staged := by
  unfold State.writeBack State.putIndex
  rw [State.staged_ringWrote, State.staged_dmaWrite, State.staged_mod _ _ _ _ (fun x => Side.staged_setOutRing x _ _), State.staged_dmaWrite]

theorem State.staged_closeBuf (s : State) (sd : SideId) (r : Nat) :
    ((s.closeBuf sd r).side sd).host.staged = (s.side sd).host.staged := by
  unfold State.closeBuf
  dsimp only
  split
  · rw [State.staged_writeBack, State.side_mod]
    rfl
  · rfl

end Sys2Proof.Machine
end

section
/-! PROOFS. Record, copy and stream commands of the rings (R148, R165, R211, R225, R229, R233, R235, R236): what each comes to. -/

namespace Sys2Proof.Machine

/-! ### Records (R225, R229) -/

/-- A CH operand with one bit names one channel. -/
theorem namedChans_single {m : Nat} {c : Chan} (h : m = 2 ^ c.n) : namedChans m = [c] := by
  subst h
  cases c <;> rfl

/-- R225: what arming changes outside the registers is acquisition, the Starter and the streams. -/
theorem Side.armOne_eq (x : Side) (c : Chan) (t : Nat) : ∃ acq starter strm d, x.armOne c t
    = (((((((({ x with acq := acq, starter := starter, strm := strm } : Side).set (ACQ_RECNUM.RECNUM c.n) (x.get (ACQ_RECNUM.RECNUM c.n) + 1)).set
        (ACQ_STAT.ARMED c.n) 1).set (ACQ_STAT.DONE c.n) 0).set (ACQ_STAT.IN_POST c.n) 0).set (ACQ_STAT.DRAIN c.n) d).set
        (ACQ_STAT.SEGS c.n) 0).set (STOP_INFO.FIRED c.n) 0) := by
  unfold Side.armOne
  dsimp only
  split
  · exact ⟨_, _, _, _, rfl⟩
  · exact ⟨_, _, _, _, rfl⟩

theorem Side.host_armOne (x : Side) (c : Chan) (t : Nat) : (x.armOne c t).host = x.host := by
  obtain ⟨acq, starter, strm, d, he⟩ := x.armOne_eq c t
  rw [he]
  rfl

/-- The fields written after ARMED and DONE leave one that lies apart from them. -/
theorem Side.get_armFlags (x : Side) (c : Chan) (d : Nat) (g : Fld) (h : (ACQ_STAT.IN_POST c.n).apart g ∧ (ACQ_STAT.DRAIN c.n).apart g
      ∧ (ACQ_STAT.SEGS c.n).apart g ∧ (STOP_INFO.FIRED c.n).apart g) :
    ((((x.set (ACQ_STAT.IN_POST c.n) 0).set (ACQ_STAT.DRAIN c.n) d).set (ACQ_STAT.SEGS c.n) 0).set (STOP_INFO.FIRED c.n) 0).get g = x.get g := by
  obtain ⟨hpost, hdrain, hsegs, hfired⟩ := h
  rw [Side.get_set_apart _ _ _ _ hfired, Side.get_set_apart _ _ _ _ hsegs, Side.get_set_apart _ _ _ _ hdrain, Side.get_set_apart _ _ _ _ hpost]

/-- R225: an armed channel shows ARMED and no DONE, and its record number is the next one. -/
theorem Side.get_armOne (x : Side) (c : Chan) (t : Nat) : (x.armOne c t).on (ACQ_STAT.ARMED c.n) = true
    ∧ (x.armOne c t).get (ACQ_RECNUM.RECNUM c.n) = (x.get (ACQ_RECNUM.RECNUM c.n) + 1) % 2 ^ 36
    ∧ (x.armOne c t).on (ACQ_STAT.DONE c.n) = false := by
  obtain ⟨acq, starter, strm, d, he⟩ := x.armOne_eq c t
  rw [he]
  unfold Side.on
  refine ⟨?_, ?_, ?_⟩
  · rw [Side.get_armFlags _ _ _ _ (by cases c <;> decide),
      Side.get_set_apart _ _ _ _ (by cases c <;> decide), Side.get_set_self _ _ _ (by cases c <;> decide) (by cases c <;> decide)]
    rfl
  · rw [Side.get_armFlags _ _ _ _ (by cases c <;> decide),
      Side.get_set_apart _ _ _ _ (by cases c <;> decide), Side.get_set_apart _ _ _ _ (by cases c <;> decide),
      Side.get_set _ _ _ (by cases c <;> decide) (by cases c <;> decide)]
    rfl
  · rw [Side.get_armFlags _ _ _ _ (by cases c <;> decide),
      Side.get_set_self _ _ _ (by cases c <;> decide) (by cases c <;> decide)]
    rfl

section
variable {z : State} {sd : SideId} {st : Staged} {t : Nat}

theorem effArm_arms {c : Chan} (hc : st.e.op4 % 4 = 2 ^ c.n) (h0 : (z.side sd).armCheck c 0 = 0) :
    effArm sd st t z = (z.setSide sd ((z.side sd).armOne c t)).complete sd st 0 t
      (((z.side sd).armOne c t).tSample c ((((z.side sd).armOne c t).acqOf c).armed.elim 0 Rec.mA) % 2 ^ 36 : Nat)
      (((z.side sd).armOne c t).get (ACQ_RECNUM.RECNUM c.n)) := by
  unfold effArm
  simp only [namedChans_single hc, List.filter_cons, bne_self_eq_false, Bool.false_eq_true, if_false, List.filter_nil, List.foldl_nil,
    List.findSome?_cons, List.findSome?_nil, h0, beq_self_eq_true, if_true, List.foldl_cons]
  rfl

theorem effDisarm_stops {c : Chan} {r : Rec} (hc : st.e.op4 % 4 = 2 ^ c.n) (hr : ((z.side sd).acqOf c).armed = some r) :
    effDisarm sd st t z = (z.setSide sd ((z.side sd).setAcq c { (z.side sd).acqOf c with
      armed := some { r with stopM := some (min (r.stopM.getD ((z.side sd).sampleAt c t)) ((z.side sd).sampleAt c t)) } })).runs sd st
        [(t : Int), 0] := by
  have harmed : (z.side sd).armed c = true := by
    unfold Side.armed
    rw [hr]
    rfl
  unfold effDisarm
  simp only [namedChans_single hc, List.isEmpty_cons, List.any_cons, List.any_nil, harmed, Bool.not_true, Bool.or_self, Bool.false_eq_true,
    if_false, List.foldl_cons, List.foldl_nil, hr, Option.map_some]
  rfl

theorem effDisarm_notArmed {c : Chan} (hc : st.e.op4 % 4 = 2 ^ c.n) (hr : ((z.side sd).acqOf c).armed = none) :
    effDisarm sd st t z = z.complete sd st 0x3003 (z.side sd).now 0 0 := by
  have harmed : (z.side sd).armed c = false := by
    unfold Side.armed
    rw [hr]
    rfl
  unfold effDisarm
  simp only [namedChans_single hc, List.isEmpty_cons, List.any_cons, harmed, Bool.not_false, Bool.true_or, Bool.false_eq_true, if_false, if_true]
  rfl

/-! ### FORCE (R211) -/

/-- R211: the pool's instant t of a side, joined by a forced trigger. -/
def Side.forced (x : Side) (t : Nat) (f : Nat × Nat × SideId × Nat) : Side :=
  { x with starter := { x.starter with insts := instMod x.starter.ep t (fun i => { i with force := i.force ++ [f] }) x.starter.insts } }

theorem effForce_joins (hd : earlier (z.side sd).starter.ep t (z.side sd).starter.decEp (z.side sd).starter.decided = false)
    (ht : (z.side sd).now ≤ t + (z.side sd).hLsb) :
    effForce sd st t z = (z.mod sd (fun x => x.forced t (st.e.op4 % 4, bitsOf st.e.op4 3 2, st.issuer, st.id))).runs sd st [(t : Int), 0] := by
  unfold effForce
  simp only [hd, Bool.false_or, decide_eq_true_eq, if_neg (Nat.not_lt.2 ht)]
  rfl

/-! ### Copies (R148, R165, R233) -/

theorem effRecRead_runs {d : DoneRec} {g : Option Seg} (hp : (z.side sd).readPart st.e = .ok (d, g))
    (hc : z.destCheck sd st.e (Side.readLen d g (bitsOf st.e.op4 2 1) (st.e.op7 % 2 ^ 17)) = 0)
    (hn : (if bitAt st.e.op4 19 then (9 * Side.readLen d g (bitsOf st.e.op4 2 1) (st.e.op7 % 2 ^ 17) + 1) / 2
      else 8 * Side.readLen d g (bitsOf st.e.op4 2 1) (st.e.op7 % 2 ^ 17)) ≤ st.e.op6 % 2 ^ 32) :
    effRecRead sd st t z = z.runs sd st [(t : Int), 0] := by
  have hdest : ¬(z.destCheck sd st.e (Side.readLen d g (bitsOf st.e.op4 2 1) (st.e.op7 % 2 ^ 17)) != stOK) = true := by
    rw [hc]
    decide
  unfold effRecRead effReadRecord
  simp only [hp, if_neg hdest, if_neg (Nat.not_lt.2 hn)]
  rfl

theorem effDensRead_waits {c : Chan} (hs : blkChan 4 (st.e.op4 % 65536) = some c) (hc : z.destCheck sd st.e (8 + planeLen) = 0)
    (hn : (if bitAt st.e.op4 19 then 9437220 else 16777280) ≤ st.e.op6 % 2 ^ 32) (hw : bitAt st.e.op4 20 = true) :
    effDensRead sd st t z = z.runs sd st [(t : Int), 0] := by
  have hdest : ¬(z.destCheck sd st.e (8 + planeLen) != stOK) = true := by
    rw [hc]
    decide
  unfold effDensRead effDensityRead
  simp only [hs, if_neg hdest, hw, Bool.not_true, Bool.false_and, Bool.false_eq_true, if_false, if_neg (Nat.not_lt.2 hn), if_true]
  rfl

theorem effTrace_begins {c : Chan} (hs : blkChan 3 (st.e.op4 % 65536) = some c) {i : Image}
    (hi : lget ((z.side sd).ppOf c).images (bitsOf st.e.op4 18 16) ⟨0, 0, 0, none, 0⟩ = i) (hcur : i.cur ≠ none)
    (hc : z.destCheck sd st.e i.len = 0) (hn : (if bitAt st.e.op4 19 then (9 * i.len + 1) / 2 else 8 * i.len) ≤ st.e.op6 % 2 ^ 32)
    (hb : (z.side sd).traceBusy c (bitsOf st.e.op4 18 16) = false) :
    effTrace sd st t z = z.setSide sd ((z.side sd).traceBegin c st t) := by
  have hnone : i.cur.isNone = false := Option.isNone_eq_false_iff.2 (Option.isSome_iff_ne_none.2 hcur)
  have hdest : (z.destCheck sd st.e i.len != stOK) = false := by
    rw [hc]
    decide
  unfold effTrace effTraceRead
  simp only [hs, hi, hdest, Bool.and_false, hnone, hb, Bool.false_eq_true, if_false, if_neg (Nat.not_lt.2 hn)]

/-- R148: a copy that begins reads the image's number, and runs. -/
theorem State.traceBegin_runs (z : State) (sd : SideId) (c : Chan) (st : Staged) (t : Nat) :
    ∃ (y : State) (aux : List Int), z.setSide sd ((z.side sd).traceBegin c st t) = y.runs sd st aux
      ∧ (y.side sd).host.staged = (z.side sd).host.staged := by
  let i := lget ((z.side sd).ppOf c).images (bitsOf st.e.op4 18 16) ⟨0, 0, 0, none, 0⟩
  let a := i.base + i.cur.getD 0 * i.wi
  let r := (z.side sd).readWord .sram a
  refine ⟨z.setSide sd r.1, [(t : Int), i.cur.getD 0, r.2.1.toNat, i.len, a], ?_, ?_⟩
  · unfold State.runs
    rw [State.mod_setSide]
    rfl
  · rw [State.side_setSide]
    exact Side.staged_readWord_sram ..

/-! ### Streams (R235, R236) -/

/-- R235: the binding that a STREAM_START with its parameters makes from instant t on. -/
def Side.streamOf (x : Side) (e : CmdEntry) (t : Nat) : Strm :=
  { Strm.init with
    bound := true, source := bitsOf e.op4 7 4, ch := chanOf (bitsOf e.op4 8 8), pack := bitsOf e.op4 10 9, pktLog2 := bitsOf e.op4 14 11
    div := bitsOf e.op4 22 15, slot := bitsOf e.op4 25 23, lo := bitsOf e.op5 31 16, hi := bitsOf e.op5 15 0
    spillBase := e.op6, spillLen := e.op7, fromT := t
    recNum := if bitsOf e.op4 7 4 = 4
      then ((x.acqOf (chanOf (bitsOf e.op4 8 8))).armed.filter (fun a => rcDrain a.block)).map Rec.num else none }

/-- R235: the source of a STREAM_START can be streamed: it runs, a line holds the bins asked for, and no other ring streams the records. -/
structure Side.streamable (x : Side) (e : CmdEntry) (src : Nat) (c : Chan) : Prop where
  iq : src = 0 → x.on (FE_STAT.RUNNING c.n) = true
  spectra : src = 1 → x.on (XF_STAT.RUNNING c.n) = true ∧ bitsOf e.op5 15 0 < 2 ^ xfLog2N (x.xfOf c).force
  traces : src = 2 → x.on (PP_STAT.RUNNING c.n) = true
  planes : src = 3 → x.on (DENS_STAT.RUNNING c.n) = true
  records : src = 4 → ∀ u ∈ x.strm, ¬(u.bound = true ∧ u.source = 4 ∧ u.ch = c)

/-- A check of one source's condition passes where the source is another one or meets it. -/
theorem sourceCheck_passes {src k : Nat} {fails : Bool} (h : src = k → fails = false) : (src == k && fails) = false := by
  by_cases hk : src = k
  · rw [h hk, Bool.and_false]
  · rw [beq_eq_false_iff_ne.2 hk, Bool.false_and]

theorem sourceCheck_runs {x : Side} {f : Fld} {src k : Nat} (h : src = k → x.on f = true) : (src == k && !x.on f) = false :=
  sourceCheck_passes (fun hk => by rw [h hk, Bool.not_true])

theorem effStreamStart_binds {x : Side} (hx : z.side sd = x) (hfree : (x.strmOf (st.e.op4 % 16)).bound = false)
    (hbad : streamBad st.e = false) (hen : bitAt (x.outCfg (9 + st.e.op4 % 16)) 35 = true)
    (hsrc : x.streamable st.e (bitsOf st.e.op4 7 4) (chanOf (bitsOf st.e.op4 8 8))) (hsp : st.e.op7 = 0 ∨ st.e.op6 + st.e.op7 ≤ x.dram.extent) :
    effStreamStart sd st t z = (z.setSide sd ((x.setStrm (st.e.op4 % 16) (x.streamOf st.e t)).set
      (STREAM_STAT.SRC_STOPPED (st.e.op4 % 16)) 0)).complete sd st 0 t 0 0 := by
  subst hx
  have hone : (bitsOf st.e.op4 7 4 == 4
      && (z.side sd).strm.any (fun u => u.bound && u.source == 4 && u.ch == chanOf (bitsOf st.e.op4 8 8))) = false :=
    sourceCheck_passes (fun h4 => List.any_eq_false.2 (fun u hu => by simpa [and_assoc] using hsrc.records h4 u hu))
  have hfe := sourceCheck_runs hsrc.iq
  have hxf := sourceCheck_runs (fun h1 => (hsrc.spectra h1).1)
  have hpp := sourceCheck_runs hsrc.traces
  have hdn := sourceCheck_runs hsrc.planes
  have hbins := sourceCheck_passes (fun h1 => decide_eq_false (Nat.not_le.2 (hsrc.spectra h1).2))
  have hspill : (st.e.op7 != 0 && decide (st.e.op6 + st.e.op7 > (z.side sd).dram.extent)) = false := by
    rcases hsp with h | h
    · simp [h]
    · simp [Nat.not_lt.2 h]
  unfold effStreamStart
  simp only [hfree, hone, hfe, hxf, hpp, hdn, hbad, hen, hbins, hspill, Bool.not_true, Bool.or_self, Bool.false_eq_true, if_false]
  unfold Side.streamOf
  by_cases h4 : bitsOf st.e.op4 7 4 = 4
  · simp only [h4, beq_self_eq_true, if_true]
    cases hr : ((z.side sd).acqOf (chanOf (bitsOf st.e.op4 8 8))).armed with
    | none => rfl
    | some r => cases hdr : rcDrain r.block <;> simp only [Option.filter, hdr] <;> rfl
  · simp only [beq_eq_false_iff_ne.2 h4, if_neg h4]
    rfl

theorem effStreamStart_busy (hb : ((z.side sd).strmOf (st.e.op4 % 16)).bound = true) :
    effStreamStart sd st t z = z.complete sd st 0x3012 (z.side sd).now 0 0 := by
  unfold effStreamStart
  simp only [hb, Bool.true_or, if_true]
  rfl

theorem effStreamStop_idle (hb : ((z.side sd).strmOf (st.e.op4 % 16)).bound = false) :
    effStreamStop sd st t z = z.complete sd st 0x3013 (z.side sd).now 0 0 := by
  unfold effStreamStop
  simp only [hb, Bool.not_false, if_true]
  rfl

/-- R236: a stream that stops at instant t takes no item from then on, and its last packet says how it ended. -/
def Strm.stopsAt (u : Strm) (t : Nat) : Strm :=
  { u with
    stopT := some t, endFlag := if u.endFlag = 0 then flStopEnd else u.endFlag
    items := u.items.filter (fun i => decide (i.time < t)) }

theorem effStreamStop_stops (hb : ((z.side sd).strmOf (st.e.op4 % 16)).bound = true) (hd : bitAt st.e.op4 4 = false) :
    effStreamStop sd st t z = (z.setSide sd ((z.side sd).setStrm (st.e.op4 % 16) (((z.side sd).strmOf (st.e.op4 % 16)).stopsAt t))).runs sd st
      [(t : Int), 0] := by
  unfold effStreamStop Strm.stopsAt
  simp only [hb, hd, Bool.not_true, Bool.false_eq_true, if_false, beq_iff_eq]
  rfl

/-- The items a stream still holds: in its spill, and not yet in a packet. -/
def Strm.held (u : Strm) : Nat :=
  u.spill.foldl (fun a p => a + p.items) 0 + u.items.foldl (fun a i => a + (if u.source < 3 then 1 else u.unitCount i)) 0

/-- R236: what a stream holds is dropped and counted as lost. -/
def Side.dropStream (x : Side) (r : Nat) : Side :=
  let u := x.strmOf r
  (x.setStrm r { u with lost := u.lost + u.held, items := [], spill := [] }).bump (STREAM_LOST.whole r) u.held

theorem effStreamStop_drops (hb : ((z.side sd).strmOf (st.e.op4 % 16)).bound = true) (hd : bitAt st.e.op4 4 = true) :
    effStreamStop sd st t z = (z.setSide sd ((z.side sd).dropStream (st.e.op4 % 16))).unbind sd (st.e.op4 % 16) st t := by
  unfold effStreamStop Side.dropStream Strm.held
  simp only [hb, hd, Bool.not_true, Bool.false_eq_true, if_false, if_true]

/-- R236: a ring that is unbound answers its STREAM_STOP, and leaves the other staged commands of its side. -/
theorem State.unbind_completes (z : State) (sd : SideId) (r : Nat) (st : Staged) (t : Nat) :
    ∃ (y : State) (r0 r1 : Int), z.unbind sd r st t = y.complete sd st 0 t r0 r1 ∧ (y.side sd).host.staged = (z.side sd).host.staged := by
  refine ⟨(z.closeBuf sd r).mod sd (fun x => (x.setStrm r Strm.init).drop (STREAM_STAT.SRC_STOPPED r)), _, _, rfl, ?_⟩
  rw [State.side_mod]
  exact State.staged_closeBuf ..

end

/-! ### The commands, executed -/

/-- The effect of a record, copy or stream command, by its opcode. -/
def recordEffect : Nat → SideId → Staged → Nat → State → State
  | 0x10 => effArm
  | 0x11 => effDisarm
  | 0x12 => effForce
  | 0x13 => effRecRead
  | 0x20 => effStreamStart
  | 0x21 => effStreamStop
  | 0x22 => effDensRead
  | 0x23 => effTrace
  | _ => effectOf

theorem effectOf_eq_recordEffect (sd : SideId) (st : Staged) (t : Nat) (z : State) : effectOf sd st t z = recordEffect st.op sd st t z := by
  generalize hop : st.op = op
  unfold recordEffect
  split
  case h_9 => rfl
  all_goals
    unfold effectOf
    simp only [hop]

section
variable {s z y : State} {sd : SideId} {ring : Fin 8} {op : Nat} {e : CmdEntry} {st : Staged}

/-- R273: the command, alone on its side, has its effect as it executes, and is answered. -/
theorem issueCmd_completes {code t : Nat} {r0 r1 : Int} (h : s.takesNow sd ring op e noData st z) (hlen : operandLen op e = 0)
    (hop : op ≠ 0x01 ∧ op ≠ 0x44 ∧ op ≠ 0x61 ∧ op ≠ 0x02) (heff : recordEffect op sd st st.texec z = y.complete sd st code t r0 r1)
    (hy : (y.side sd).host.staged = (z.side sd).host.staged) : issueCmd sd ring op e noData s = y.complete sd st code t r0 r1 := by
  obtain ⟨hi, rfl, -⟩ := (issueCmd_of_takes h.1).2
  exact issueCmd_of_takesNow h hlen hop ((effectOf_eq_recordEffect ..).trans heff)
    (State.noneWaits_complete (hy.trans (State.takesNow_staged h hlen)) hi code t r0 r1)

/-- R273: the command, alone on its side, has its effect as it executes, and runs on. -/
theorem issueCmd_runs {aux : List Int} (h : s.takesNow sd ring op e noData st z) (hlen : operandLen op e = 0)
    (hop : op ≠ 0x01 ∧ op ≠ 0x44 ∧ op ≠ 0x61 ∧ op ≠ 0x02) (heff : recordEffect op sd st st.texec z = y.runs sd st aux)
    (hy : (y.side sd).host.staged = (z.side sd).host.staged) : issueCmd sd ring op e noData s = y.runs sd st aux := by
  obtain ⟨-, rfl, -⟩ := (issueCmd_of_takes h.1).2
  exact issueCmd_of_takesNow h hlen hop ((effectOf_eq_recordEffect ..).trans heff)
    (State.noneWaits_runs (hy.trans (State.takesNow_staged h hlen)) aux)

end

/-- Settles O25: each command by the effect its conditions choose, which nothing else staged follows. -/
theorem ringRecords : Obligations.RingRecords := by
  unfold Obligations.RingRecords
  intro s sd ring e st z c x t
  have he : ∀ {op}, s.takesNow sd ring op e noData st z → st.e = e := fun h => (issueCmd_of_takes h.1).2.e
  have hi : ∀ {op}, s.takesNow sd ring op e noData st z → st.issuer = sd := fun h => (issueCmd_of_takes h.1).2.issuer
  refine ⟨fun h hc h0 => ?_, fun r h hc hr => ?_, fun h hc hr => ?_, fun h hd ht => ?_, fun d g h hp => ?_, fun h => ?_, fun h hb => ?_,
    fun h => ⟨fun hb => ?_, fun hb hd => ?_, fun hb hd => ?_⟩, fun h c hs hc hn hw => ?_, fun h c hs => ?_⟩
  all_goals obtain rfl := he h
  · exact ⟨congrArg Host.Outcome.next (issueCmd_completes h rfl (by decide) (effArm_arms hc h0) (State.staged_setSide rfl (Side.host_armOne ..))),
      Side.get_armOne x c t⟩
  · exact congrArg Host.Outcome.next (issueCmd_runs h rfl (by decide) (effDisarm_stops hc hr) (State.staged_setSide rfl rfl))
  · exact congrArg Host.Outcome.next (issueCmd_completes h rfl (by decide) (effDisarm_notArmed hc hr) rfl)
  · have heff := effForce_joins (st := st) hd ht
    rw [hi h] at heff
    exact congrArg Host.Outcome.next (issueCmd_runs h rfl (by decide) heff (State.staged_mod _ _ _ _ (fun _ => rfl)))
  · exact fun hdest hn => congrArg Host.Outcome.next (issueCmd_runs h rfl (by decide) (effRecRead_runs hp hdest hn) rfl)
  · exact fun hb hbad hen hfe hxf hpp hdn hrec hsp => congrArg Host.Outcome.next (issueCmd_completes h rfl (by decide)
      (effStreamStart_binds rfl hb hbad hen ⟨hfe, hxf, hpp, hdn, hrec⟩ hsp) (State.staged_setSide rfl rfl))
  · exact congrArg Host.Outcome.next (issueCmd_completes h rfl (by decide) (effStreamStart_busy hb) rfl)
  · exact congrArg Host.Outcome.next (issueCmd_completes h rfl (by decide) (effStreamStop_idle hb) rfl)
  · exact congrArg Host.Outcome.next (issueCmd_runs h rfl (by decide) (effStreamStop_stops hb hd) (State.staged_setSide rfl rfl))
  · obtain ⟨y, r0, r1, hy, hst⟩ := State.unbind_completes (z.setSide sd (x.dropStream (st.e.op4 % 16))) sd (st.e.op4 % 16) st t
    rw [State.side_setSide] at hst
    exact congrArg Host.Outcome.next ((issueCmd_completes h rfl (by decide) ((effStreamStop_drops hb hd).trans hy) hst).trans hy.symm)
  · exact congrArg Host.Outcome.next (issueCmd_runs h rfl (by decide) (effDensRead_waits hs hc hn hw) rfl)
  · intro k i hcur hdest hn hb
    obtain ⟨y, aux, hy, hst⟩ := State.traceBegin_runs z sd c st t
    exact congrArg Host.Outcome.next ((issueCmd_runs h rfl (by decide) ((effTrace_begins hs rfl hcur hdest hn hb).trans hy) hst).trans hy.symm)

end Sys2Proof.Machine
end

section
/-! PROOFS. A DEVCLK edge (R169, R170, R172): what it does to race time, and what it leaves. -/

namespace Sys2Proof.Machine

/-! ### Edges of a side -/

/-- An edge keeps a LEMC boundary's race time (R53) in the front ends alone. -/
theorem Side.markLemc_eq (x : Side) (c : Chan) : ∃ fe, x.markLemc c = { x with fe := fe } := by
  unfold Side.markLemc
  dsimp only
  split
  · exact ⟨_, rfl⟩
  · exact ⟨x.fe, rfl⟩

/-- The repair of R326 that is in progress ends at an edge. -/
def Side.repairEnds (x : Side) : Side := if x.on SRAM_REPAIR_STAT.BUSY then x.set SRAM_REPAIR_STAT.BUSY 0 else x

theorem Side.on_repairEnds (x : Side) : x.repairEnds.on SRAM_REPAIR_STAT.BUSY = false := by
  unfold Side.repairEnds
  split
  case isTrue h => exact Side.on_set_zero _ _ (by decide)
  case isFalse h => exact Bool.eq_false_iff.2 h

theorem Side.repairEnds_idle {x : Side} (h : x.on SRAM_REPAIR_STAT.BUSY = false) : x.repairEnds = x := by
  unfold Side.repairEnds
  rw [h]
  rfl

theorem Side.regsOf_repairEnds (x : Side) : x.regsOf x.repairEnds := by
  unfold Side.repairEnds
  split
  · exact Side.regsOf_set x.regsOf_refl _ _
  · exact x.regsOf_refl

/-- A side as an edge finds it: the edge counted, a repair ended. -/
def Side.edgeSeen (x : Side) : Side := (x.withRt { x.rt with edges := x.rt.edges + 1 }).repairEnds

theorem Side.edgeSeen_rt (x : Side) : x.edgeSeen.rt = { x.rt with edges := x.rt.edges + 1 } := by
  obtain ⟨r, h⟩ := (x.withRt { x.rt with edges := x.rt.edges + 1 }).regsOf_repairEnds
  unfold Side.edgeSeen
  rw [h]
  rfl

theorem Side.edgeSeen_regs {x : Side} (h : x.on SRAM_REPAIR_STAT.BUSY = false) : x.edgeSeen.regs = x.regs := by
  unfold Side.edgeSeen
  rw [Side.repairEnds_idle (by rw [Side.on_withRt, h])]
  rfl

theorem Side.islRuns_edgeSeen (x : Side) (l : Nat) : x.edgeSeen.islRuns l = x.islRuns l := by
  obtain ⟨r, h⟩ := (x.withRt { x.rt with edges := x.rt.edges + 1 }).regsOf_repairEnds
  unfold Side.edgeSeen
  rw [h]
  rfl

/-- The edge of a side, but for the front ends: race time advances where its base island runs (R19). -/
theorem Side.devclk_eq (x : Side) : ∃ fe, x.devclk = { (if x.islRuns rtSrc then x.edgeSeen.rtEdge else x.edgeSeen) with fe := fe } := by
  have hx : x.devclk = ((if x.edgeSeen.islRuns rtSrc then x.edgeSeen.rtEdge else x.edgeSeen).markLemc .c0).markLemc .c1 := rfl
  obtain ⟨fe, h0⟩ := (if x.edgeSeen.islRuns rtSrc then x.edgeSeen.rtEdge else x.edgeSeen).markLemc_eq .c0
  obtain ⟨fe', h1⟩ := ({ (if x.edgeSeen.islRuns rtSrc then x.edgeSeen.rtEdge else x.edgeSeen) with fe := fe } : Side).markLemc_eq .c1
  rw [hx, h0, h1, Side.islRuns_edgeSeen]
  exact ⟨fe', rfl⟩

theorem Side.rt_devclk (x : Side) : x.devclk.rt = if x.islRuns rtSrc then x.edgeSeen.rtEdge.rt else x.edgeSeen.rt := by
  obtain ⟨fe, h⟩ := x.devclk_eq
  rw [h]
  split <;> rfl

theorem Side.regs_devclk (x : Side) : x.devclk.regs = if x.islRuns rtSrc then x.edgeSeen.rtEdge.regs else x.edgeSeen.regs := by
  obtain ⟨fe, h⟩ := x.devclk_eq
  rw [h]
  split <;> rfl

theorem Side.on_devclk (x : Side) (f : Fld) : x.devclk.on f = if x.islRuns rtSrc then x.edgeSeen.rtEdge.on f else x.edgeSeen.on f := by
  obtain ⟨fe, h⟩ := x.devclk_eq
  rw [h]
  split <;> exact congrArg (· != 0) (Side.get_congr rfl rfl rfl f)

/-! ### Race time at an edge (R169, R170, R172) -/

theorem Side.applyInc_none {x : Side} (h : x.rt.incPend = none) : x.applyInc = x := by
  unfold Side.applyInc
  rw [h]

theorem Side.rtEdge_advances {x : Side} (h : x.rt.loadPend = none) : x.rtEdge = x.applyInc.advance := by
  have hl : x.applyInc.rt.loadPend = none := by
    cases hi : x.rt.incPend with
    | none => rw [Side.applyInc_none hi, h]
    | some v => rw [Side.applyInc_some hi]; exact h
  unfold Side.rtEdge
  simp only [hl, Option.isSome_none, Bool.false_eq_true, if_false]

theorem Side.rtEdge_loads {x : Side} {w : Nat} (h : x.rt.loadPend = some w) : x.rtEdge = x.applyInc.applyLoad := by
  have hl : x.applyInc.rt.loadPend = some w := by
    cases hi : x.rt.incPend with
    | none => rw [Side.applyInc_none hi, h]
    | some v => rw [Side.applyInc_some hi]; exact h
  unfold Side.rtEdge
  simp only [hl, Option.isSome_some, if_true]

/-- R170: a committed increment comes into force; the rest of race time is as it was. -/
theorem Side.applyInc_rt (x : Side) : x.applyInc.rt = { x.rt with inc := x.rt.incPend.getD x.rt.inc, incPend := none } := by
  cases hi : x.rt.incPend with
  | none =>
    rw [Side.applyInc_none hi, Option.getD_none, ← hi]
  | some v =>
    rw [Side.applyInc_some hi]
    rfl

theorem Side.on_applyInc (x : Side) (f : Fld) (h : RT_STAT.RUN.apart f) : x.applyInc.on f = x.on f := by
  cases hi : x.rt.incPend with
  | none => rw [Side.applyInc_none hi]
  | some v => rw [Side.applyInc_some hi, Side.on_set_apart _ _ _ _ h, Side.on_withRt]

/-- R169: an advance adds INC, F and P, and nothing while INC is 0. -/
theorem Side.advance_rt (x : Side) : x.advance.rt = { x.rt with
    rta := if x.rt.inc = 0 then x.rt.rta % 2 ^ 96 else (((x.rt.rta : Int) + x.rt.inc + x.rt.f + x.rt.p) % 2 ^ 96).toNat } := by
  unfold Side.advance Side.incEff
  by_cases h : x.rt.inc = 0
  · simp only [h, beq_self_eq_true, if_true, RaceT.mk.injEq, and_true]
    omega
  · simp only [h, beq_eq_false_iff_ne.2 h, Bool.false_eq_true, if_false, add_assoc]

theorem Side.on_advance (x : Side) (f : Fld) : x.advance.on f = x.on f := Side.on_withRt x _ f

/-- A step leaves the flag of a repair. -/
theorem Side.on_step_busy (x : Side) (d : Int) (cause : Nat) : (x.step d cause).on SRAM_REPAIR_STAT.BUSY = x.on SRAM_REPAIR_STAT.BUSY := by
  obtain ⟨sp, fe, st, t, e⟩ := x.step_eq d cause
  unfold Side.on
  rw [e, Side.get_event_apart _ _ _ _ _ _ (by decide), Side.get_stepFlags _ _ (by decide) (by decide) (by decide)]
  exact congrArg (· != 0) (Side.get_congr rfl rfl rfl _)

/-- R172: a load that an edge takes. -/
theorem Side.applyLoad_loads {x : Side} {w : Nat} (h : x.rt.loadPend = some w) : x.applyLoad.rt.rta = w % 2 ^ 72 * 2 ^ 24
    ∧ x.applyLoad.rt.p = 0 ∧ x.applyLoad.rt.f = x.rt.f ∧ x.applyLoad.rt.edges = x.rt.edges ∧ x.applyLoad.on RT_STAT.STEP_SEEN = true
    ∧ x.applyLoad.on SRAM_REPAIR_STAT.BUSY = x.on SRAM_REPAIR_STAT.BUSY := by
  rw [Side.applyLoad_some h, Side.step_rt]
  exact ⟨loaded_rta x.rt.rta w, rfl, rfl, rfl, Side.on_step_seen .., (Side.on_step_busy ..).trans (Side.on_withRt ..)⟩

/-- What race time does at an edge leaves F, the count of edges and the flag of a repair. -/
theorem Side.rtEdge_keeps (x : Side) : x.rtEdge.rt.f = x.rt.f ∧ x.rtEdge.rt.edges = x.rt.edges
    ∧ x.rtEdge.on SRAM_REPAIR_STAT.BUSY = x.on SRAM_REPAIR_STAT.BUSY := by
  have hon := x.on_applyInc SRAM_REPAIR_STAT.BUSY (by decide)
  cases hl : x.rt.loadPend with
  | none =>
    rw [Side.rtEdge_advances hl, Side.advance_rt, Side.applyInc_rt, Side.on_advance]
    exact ⟨rfl, rfl, hon⟩
  | some w =>
    have hw : x.applyInc.rt.loadPend = some w := by rw [Side.applyInc_rt]; exact hl
    obtain ⟨-, -, hf, he, -, hb⟩ := Side.applyLoad_loads hw
    rw [Side.rtEdge_loads hl]
    rw [Side.applyInc_rt] at hf he
    exact ⟨hf, he, hb.trans hon⟩

/-! ### The cases of an edge -/

section
variable {x : Side}

/-- An edge is counted, keeps F, and ends a repair. -/
theorem Side.devclk_keeps (x : Side) : x.devclk.rt.edges = x.rt.edges + 1 ∧ x.devclk.rt.f = x.rt.f
    ∧ x.devclk.on SRAM_REPAIR_STAT.BUSY = false := by
  obtain ⟨hf, he, hbusy⟩ := x.edgeSeen.rtEdge_keeps
  have hseen : x.edgeSeen.on SRAM_REPAIR_STAT.BUSY = false := Side.on_repairEnds _
  rw [Side.rt_devclk, Side.on_devclk]
  split
  · rw [he, hf, hbusy, Side.edgeSeen_rt]
    exact ⟨rfl, rfl, hseen⟩
  · rw [Side.edgeSeen_rt]
    exact ⟨rfl, rfl, hseen⟩

/-- R19: race time stands still while its base island does not run. -/
theorem Side.devclk_still (h : ¬x.islRuns rtSrc = true) : x.devclk.rt = { x.rt with edges := x.rt.edges + 1 }
    ∧ (x.on SRAM_REPAIR_STAT.BUSY = false → x.devclk.regs = x.regs) := by
  rw [Side.rt_devclk, Side.regs_devclk, if_neg h, if_neg h]
  exact ⟨x.edgeSeen_rt, Side.edgeSeen_regs⟩

section
variable (h : x.islRuns rtSrc = true)
include h

/-- R169: with no commit and no load, race time advances. -/
theorem Side.devclk_advances (hl : x.rt.loadPend = none) (hi : x.rt.incPend = none) :
    (x.on SRAM_REPAIR_STAT.BUSY = false → x.devclk.regs = x.regs) ∧ x.devclk.rt = { x.rt with
      edges := x.rt.edges + 1
      rta := if x.rt.inc = 0 then x.rt.rta % 2 ^ 96 else (((x.rt.rta : Int) + x.rt.inc + x.rt.f + x.rt.p) % 2 ^ 96).toNat } := by
  have hadv : x.edgeSeen.rtEdge = x.edgeSeen.advance := by
    rw [Side.rtEdge_advances (by rw [Side.edgeSeen_rt]; exact hl), Side.applyInc_none (by rw [Side.edgeSeen_rt]; exact hi)]
  rw [Side.rt_devclk, Side.regs_devclk, if_pos h, if_pos h, hadv, Side.advance_rt, Side.edgeSeen_rt]
  exact ⟨Side.edgeSeen_regs, rfl⟩

/-- R170: a committed increment takes effect at the edge, which advances by it. -/
theorem Side.devclk_commits {v : Nat} (hl : x.rt.loadPend = none) (hi : x.rt.incPend = some v) :
    x.devclk.rt.inc = v ∧ x.devclk.on RT_STAT.RUN = (v != 0)
      ∧ x.devclk.rt.rta = if v = 0 then x.rt.rta % 2 ^ 96 else (((x.rt.rta : Int) + v + x.rt.f + x.rt.p) % 2 ^ 96).toNat := by
  have hinc : x.edgeSeen.rt.incPend = some v := by rw [Side.edgeSeen_rt]; exact hi
  have hrun : x.edgeSeen.applyInc.on RT_STAT.RUN = (v != 0) := by
    rw [Side.applyInc_some hinc, Side.on_set_b2n _ _ _ (by decide)]
  rw [Side.rt_devclk, Side.on_devclk, if_pos h, if_pos h, Side.rtEdge_advances (by rw [Side.edgeSeen_rt]; exact hl), Side.advance_rt,
    Side.on_advance, Side.applyInc_rt, hinc, Side.edgeSeen_rt]
  exact ⟨rfl, hrun, rfl⟩

/-- R172: a load takes effect at the edge. -/
theorem Side.devclk_loads {w : Nat} (hl : x.rt.loadPend = some w) :
    x.devclk.rt.rta = w % 2 ^ 72 * 2 ^ 24 ∧ x.devclk.rt.p = 0 ∧ x.devclk.on RT_STAT.STEP_SEEN = true := by
  have hl' : x.edgeSeen.rt.loadPend = some w := by rw [Side.edgeSeen_rt]; exact hl
  obtain ⟨hrta, hp, -, -, hs, -⟩ := Side.applyLoad_loads (x := x.edgeSeen.applyInc) (w := w) (by rw [Side.applyInc_rt]; exact hl')
  rw [Side.rt_devclk, Side.on_devclk, if_pos h, if_pos h, Side.rtEdge_loads hl']
  exact ⟨hrta, hp, hs⟩

end
end

/-! ### The edge of both sides -/

/-- An edge changes each side by its own edge, and may note a step for the pairing of cross-spectra (R147). -/
theorem State.side_tick {s : State} (h : s.held = false) (i : SideId) : (s.tick.side i).rt = (s.side i).devclk.rt
    ∧ (s.tick.side i).regs = (s.side i).devclk.regs ∧ ∀ f, (s.tick.side i).on f = (s.side i).devclk.on f := by
  have hd : (((s.mod .stroke Side.devclk).mod .bow Side.devclk).side i) = (s.side i).devclk := by cases i <;> rfl
  have htick : s.tick.side i = (s.side i).devclk ∨ s.tick.side i = ((s.mod .stroke Side.devclk).mod .bow Side.devclk).markStep.side i := by
    unfold State.tick
    simp only [h, Bool.false_eq_true, if_false]
    split
    · exact .inr rfl
    · exact .inl hd
  rcases htick with e | e
  · rw [e]
    exact ⟨rfl, rfl, fun _ => rfl⟩
  · obtain ⟨p, hp⟩ := ((s.mod .stroke Side.devclk).mod .bow Side.devclk).markStep_side i
    refine ⟨?_, ?_, fun f => ?_⟩
    · rw [e, hp, hd]
    · rw [e, hp, hd]
    · rw [e, State.on_markStep, hd]

theorem State.tick_keeps {s : State} (h : s.held = false) : s.tick.pending = s.pending ∧ s.tick.keel = s.keel ∧ s.tick.pkg = s.pkg := by
  unfold State.tick
  simp only [h, Bool.false_eq_true, if_false]
  split <;> exact ⟨rfl, rfl, rfl⟩

theorem step_of_idle {s : State} (hq : s.pending = []) : step s = .next s.tick := by
  unfold step
  rw [hq]

/-- Settles O54: an edge of both sides; on each, race time by whether its base island runs, and by the commit and the load it takes. -/
theorem idleIsOneEdge : Obligations.IdleIsOneEdge := by
  unfold Obligations.IdleIsOneEdge
  intro s sd v w x runs hq
  refine ⟨step_of_held hq, fun hh => ⟨s.tick, step_of_idle hq, ?_⟩⟩
  obtain ⟨hpend, hkeel, hpkg⟩ := State.tick_keeps hh
  obtain ⟨hrt, hregs, hon⟩ := State.side_tick hh sd
  obtain ⟨he, hf, hbusy⟩ := x.devclk_keeps
  rw [hrt, hregs, hon, hon, hon]
  exact ⟨hpend.trans hq, hkeel, hpkg, he, hf, hbusy, Side.devclk_still, Side.devclk_advances,
    fun h => Side.devclk_commits h, fun h => Side.devclk_loads h⟩

end Sys2Proof.Machine
end

section
/-! PROOFS. The split ring (R191) and the Starter's occurrences (R194): what an entry and an occurrence leave of the split timer. -/

namespace Sys2Proof.Machine

/-! ### What the SRAM, the fault log and occurrences leave -/

/-- The split timer's own state, and the registers from 0xC000 on, above those of the Starter and the memories (R475). -/
def Side.splitPart (x : Side) : SplitT × (Nat → Word) := (x.split, fun i => x.reg (0xC000 + i))

theorem Side.splitPart_of_regs {x y : Side} (hs : y.split = x.split) (h : y.regs = x.regs) (hf : y.fuse = x.fuse) (hw : y.who = x.who) :
    y.splitPart = x.splitPart := Prod.ext hs (funext fun _ => Side.reg_of_regs x y h hf hw _)

theorem Side.splitPart_of_lanePart {x y : Side} (h : y.lanePart = x.lanePart) : y.splitPart = x.splitPart :=
  Prod.ext (congrArg (fun p => p.1.split) h) (funext fun i => by
    have e := congrFun (congrArg Prod.snd h) (0x4000 + i)
    simp only [Side.lanePart, ← Nat.add_assoc] at e
    exact e)

@[simp] theorem Side.splitPart_setReg (x : Side) (i : Nat) (v : Word) (h : i < 0xC000) : (x.setReg i v).splitPart = x.splitPart :=
  Prod.ext rfl (funext fun j => Side.reg_setReg_ne x i (0xC000 + j) v (by omega))

@[simp] theorem Side.splitPart_set (x : Side) (f : Fld) (v : Nat) (h : f.idx < 0xC000) : (x.set f v).splitPart = x.splitPart :=
  Side.splitPart_setReg x _ _ h

@[simp] theorem Side.splitPart_inc (x : Side) (f : Fld) (h : f.idx < 0xC000) : (x.inc f).splitPart = x.splitPart := Side.splitPart_set x f _ h

@[simp] theorem Side.splitPart_setMem (x : Side) (k : MemSel) (m : BpcMem) : (x.setMem k m).splitPart = x.splitPart := by
  cases k <;> exact Side.splitPart_of_regs rfl rfl rfl rfl

@[simp] theorem Side.splitPart_report (x : Side) (a b c : Nat) (i : Bool) : (x.report a b c i).splitPart = x.splitPart :=
  Side.splitPart_of_lanePart (Side.lanePart_report ..)

@[simp] theorem Side.splitPart_takeInj (x : Side) (l : Nat) : (x.takeInj l).2.splitPart = x.splitPart :=
  Side.splitPart_of_lanePart (Side.lanePart_takeInj ..)

theorem Side.splitPart_foldl {α : Type} (f : Side → α → Side) (h : ∀ x a, (f x a).splitPart = x.splitPart) (l : List α) (x : Side) :
    (l.foldl f x).splitPart = x.splitPart :=
  foldl_keeps (fun y => y.splitPart = x.splitPart) f (fun y a hy => (h y a).trans hy) l x rfl

/-- An occurrence changes the Starter's list and counters at most. -/
@[simp] theorem Side.splitPart_occur (x : Side) (o : Occ) (t : Nat) : (x.occur o t).splitPart = x.splitPart := by
  unfold Side.occur Side.occurIn
  dsimp only
  split
  · rfl
  · split
    · rw [Side.raise_eq, Side.splitPart_set _ _ _ (by decide), Side.splitPart_inc _ _ (by decide)]
    · exact Side.splitPart_of_regs rfl rfl rfl rfl

/-! ### Writes of the SRAM (R318) -/

@[simp] theorem Side.splitPart_poisonBlk_sram (x : Side) (b : Nat) (ws : List Word) (c : Nat) :
    (x.poisonBlk .sram b ws c).splitPart = x.splitPart := by
  unfold Side.poisonBlk
  dsimp only
  rw [if_neg (by decide), Side.splitPart_report]
  split
  · rw [Side.splitPart_inc _ _ (by decide), Side.splitPart_setMem]
  · rw [Side.raise_eq, Side.splitPart_set _ _ _ (by decide), Side.splitPart_set _ _ _ (by decide), Side.splitPart_setReg _ _ _ (by decide),
      Side.splitPart_inc _ _ (by decide), Side.splitPart_setMem]

@[simp] theorem Side.splitPart_countRead_sram (x : Side) (b : Nat) (bad : Bool) : (x.countRead .sram b bad).splitPart = x.splitPart := by
  cases bad <;> exact Side.splitPart_inc _ _ (by decide)

@[simp] theorem Side.splitPart_zeroBlk (x : Side) (k : MemSel) (b : Nat) : (x.zeroBlk k b).splitPart = x.splitPart := by
  unfold Side.zeroBlk
  dsimp only
  rw [Side.splitPart_report, Side.splitPart_inc _ _ (by decide), Side.splitPart_setMem]

@[simp] theorem Side.splitPart_writeBlk (x : Side) (k : MemSel) (b : Nat) (ws : List Word) : (x.writeBlk k b ws).splitPart = x.splitPart := by
  unfold Side.writeBlk
  dsimp only
  rw [Side.splitPart_setMem, Side.splitPart_takeInj]

@[simp] theorem Side.splitPart_flushEnt_sram (x : Side) (e : MergeEnt) : (x.flushEnt .sram e).splitPart = x.splitPart := by
  unfold Side.flushEnt
  dsimp only
  split
  · rfl
  · split
    · simp
    · split
      · simp
      · simp
      · simp
      · split <;> simp

@[simp] theorem Side.splitPart_openEnt_sram (x : Side) (e : MergeEnt) : (x.openEnt .sram e).splitPart = x.splitPart := by
  unfold Side.openEnt
  dsimp only
  rw [Side.splitPart_setMem]
  split
  · cases ((x.memOf .sram).buf.filter (fun f => x.bufGroup .sram f.blk == x.bufGroup .sram e.blk)).head? with
    | none => rfl
    | some d => exact Side.splitPart_flushEnt_sram x d
  · rfl

@[simp] theorem Side.leaveOthers_sram (x : Side) (src b : Nat) : x.leaveOthers .sram src b = x := rfl

@[simp] theorem Side.splitPart_writePart_sram (x : Side) (src b : Nat) (ns : List (Nat × Word)) :
    (x.writePart .sram src b ns).splitPart = x.splitPart := by
  unfold Side.writePart
  dsimp only
  rw [Side.leaveOthers_sram]
  split
  · split <;> simp
  · simp

@[simp] theorem Side.splitPart_writeWhole_sram (x : Side) (src b : Nat) (ws : List Word) : (x.writeWhole .sram src b ws).splitPart = x.splitPart := by
  unfold Side.writeWhole
  dsimp only
  split <;> simp

@[simp] theorem Side.splitPart_writeRange_sram (x : Side) (src a : Nat) (ws : List Word) : (x.writeRange .sram src a ws).splitPart = x.splitPart := by
  unfold Side.writeRange
  split
  · rfl
  · refine Side.splitPart_foldl _ (fun y i => ?_) _ x
    dsimp only
    split <;> simp

/-! ### Fields beside the ring and the Starter -/

/-- A field of the timing blocks or of a block above the memories: neither the Starter's nor the memories', the faults' nor the host region's. -/
def Fld.besideRing (g : Fld) : Prop := (0x3000 ≤ g.idx ∧ g.idx < 0x5000) ∨ 0xC000 ≤ g.idx

/-- One side keeps the split timer of another, and the fields beside the ring. -/
structure Side.keepsSplit (x y : Side) : Prop where
  timing : y.timing = x.timing
  part : y.splitPart = x.splitPart

theorem Side.keepsSplit_refl (x : Side) : x.keepsSplit x := ⟨rfl, rfl⟩

theorem Side.keepsSplit.split {x y : Side} (h : x.keepsSplit y) : y.split = x.split := congrArg Prod.fst h.part

theorem Side.keepsSplit.get {x y : Side} (h : x.keepsSplit y) (g : Fld) (hg : g.besideRing) : y.get g = x.get g := by
  rcases hg with ⟨hl, hu⟩ | hh
  · exact Side.get_of_timing h.timing g hl hu
  · have e := congrFun (congrArg Prod.snd h.part) (g.idx - 0xC000)
    simp only [Side.splitPart, Nat.add_sub_of_le hh] at e
    unfold Side.get
    rw [e]

theorem Side.keepsSplit.on {x y : Side} (h : x.keepsSplit y) (g : Fld) (hg : g.besideRing) : y.on g = x.on g := by
  unfold Side.on
  rw [h.get g hg]

theorem Side.keepsSplit_occur (x : Side) (o : Occ) (t : Nat) : x.keepsSplit (x.occur o t) := ⟨Side.timing_occur .., Side.splitPart_occur ..⟩

/-! ### Entries of the split ring (R191) -/

theorem State.mod_congr {s : State} {sd : SideId} {f g : Side → Side} (h : f (s.side sd) = g (s.side sd)) : s.mod sd f = s.mod sd g :=
  congrArg (s.setSide sd) h

/-- R191: the ring's length. -/
def Side.splitLen (x : Side) : Nat := 2 ^ log2Len (x.get SPLIT_RING_CFG.LOG2LEN)

/-- R191: the entries that the ring holds. -/
def Side.splitUsed (x : Side) : Nat := (x.get SPLIT_WP.WP + 2 ^ 36 - x.get SPLIT_RP.RP) % 2 ^ 36

/-- An entry that the full ring drops, counted and shown. -/
def Side.splitDropped (x : Side) : Side := (x.inc SPLIT_RING_DROP.whole).set SPLIT_STAT.DROP_SEEN 1

/-- The ring with one entry more. -/
def Side.splitCounted (x : Side) : Side := x.set SPLIT_WP.WP ((x.get SPLIT_WP.WP + 1) % 2 ^ 36)

section
variable {s : State} {sd : SideId} {w0 : Word} {t aux : Nat}

theorem State.splitEntry_full (h : (s.side sd).splitLen ≤ (s.side sd).splitUsed) : s.splitEntry sd w0 t aux = s.mod sd Side.splitDropped := by
  unfold State.splitEntry
  exact if_pos h

theorem State.splitEntry_room (h : (s.side sd).splitUsed < (s.side sd).splitLen) : s.splitEntry sd w0 t aux
    = let x := s.side sd
      let ws := [w0, wordN (t / 2 ^ 36), wordN t, wordN aux]
      let e := x.get SPLIT_WP.WP % x.splitLen
      let s := s.mod sd Side.splitCounted
      if x.on SPLIT_RING_CFG.HOST then
        if s.dmaOpen sd then s.dmaWrite sd (x.pair SPLIT_BASE_LO.whole.idx + e * (if x.on SPLIT_RING_CFG.HOST_DENSE then 18 else 32))
          (packBytes (x.on SPLIT_RING_CFG.HOST_DENSE) ws) else s
      else s.mod sd (fun y => if inGeneral (x.pair SPLIT_BASE_LO.whole.idx + 4 * e) 4
        then y.writeRange .sram (srcOf 5 2 0) (x.pair SPLIT_BASE_LO.whole.idx + 4 * e) ws else y) := by
  unfold State.splitEntry
  refine (if_neg (Nat.not_le.2 h)).trans ?_
  cases sd <;> rfl

/-- R191, R314: an entry of a ring that lies in the general store. -/
theorem State.splitEntry_stored (h : (s.side sd).splitUsed < (s.side sd).splitLen) (hh : (s.side sd).on SPLIT_RING_CFG.HOST = false)
    (hlo : 2 ^ 23 ≤ (s.side sd).pair SPLIT_BASE_LO.whole.idx)
    (hhi : (s.side sd).pair SPLIT_BASE_LO.whole.idx + 4 * (s.side sd).splitLen ≤ 2 ^ 24) :
    s.splitEntry sd w0 t aux = s.mod sd (fun x => (x.set SPLIT_WP.WP (((s.side sd).get SPLIT_WP.WP + 1) % 2 ^ 36)).writeRange .sram (srcOf 5 2 0)
      ((s.side sd).pair SPLIT_BASE_LO.whole.idx + 4 * ((s.side sd).get SPLIT_WP.WP % (s.side sd).splitLen))
      [w0, wordN (t / 2 ^ 36), wordN t, wordN aux]) := by
  have he : (s.side sd).get SPLIT_WP.WP % (s.side sd).splitLen < (s.side sd).splitLen := Nat.mod_lt _ (Nat.lt_of_le_of_lt (Nat.zero_le _) h)
  have hin : inGeneral ((s.side sd).pair SPLIT_BASE_LO.whole.idx + 4 * ((s.side sd).get SPLIT_WP.WP % (s.side sd).splitLen)) 4 = true :=
    decide_eq_true (by omega)
  rw [State.splitEntry_room h]
  simp only [hh, hin, Bool.false_eq_true, if_false, if_true, State.mod_mod]
  unfold Side.splitCounted
  exact State.mod_congr rfl

theorem State.side_dmaWrite (s : State) (i j : SideId) (a : Nat) (bs : List Byte) :
    ∃ h, (s.dmaWrite i a bs).side j = { s.side j with host := h } := by
  unfold State.dmaWrite
  by_cases h : j = s.endpoint i
  · rw [h, State.side_mod]
    exact ⟨_, rfl⟩
  · rw [SideId.eq_other_of_ne h, State.side_mod_other]
    exact ⟨_, rfl⟩

/-- An entry is dropped, or counted and written: the split timer is otherwise left. -/
theorem State.splitEntry_side : (s.side sd).splitDropped.keepsSplit ((s.splitEntry sd w0 t aux).side sd)
    ∨ (s.side sd).splitCounted.keepsSplit ((s.splitEntry sd w0 t aux).side sd) := by
  rcases Nat.lt_or_ge (s.side sd).splitUsed (s.side sd).splitLen with h | h
  · right
    rw [State.splitEntry_room h]
    dsimp only
    split
    · split
      · obtain ⟨r, hr⟩ := State.side_dmaWrite (s.mod sd Side.splitCounted) sd sd ((s.side sd).pair SPLIT_BASE_LO.whole.idx
          + (s.side sd).get SPLIT_WP.WP % (s.side sd).splitLen * (if (s.side sd).on SPLIT_RING_CFG.HOST_DENSE = true then 18 else 32))
          (packBytes ((s.side sd).on SPLIT_RING_CFG.HOST_DENSE) [w0, wordN (t / 2 ^ 36), wordN t, wordN aux])
        rw [hr, State.side_mod]
        exact ⟨Side.timing_of_regs rfl rfl rfl, Side.splitPart_of_regs rfl rfl rfl rfl⟩
      · rw [State.side_mod]
        exact Side.keepsSplit_refl _
    · rw [State.side_mod, State.side_mod]
      split
      · exact ⟨Side.timing_writeRange .., Side.splitPart_writeRange_sram ..⟩
      · exact Side.keepsSplit_refl _
  · left
    rw [State.splitEntry_full h, State.side_mod]
    exact Side.keepsSplit_refl _

theorem State.split_splitEntry : ((s.splitEntry sd w0 t aux).side sd).split = (s.side sd).split := by
  rcases State.splitEntry_side (s := s) (sd := sd) (w0 := w0) (t := t) (aux := aux) with h | h <;> exact h.split

/-- An entry leaves the fields beside the ring, but for its own pointer, counter and flag. -/
theorem State.get_splitEntry (g : Fld) (hg : g.besideRing) (hw : SPLIT_WP.WP.apart g) (hd : SPLIT_RING_DROP.whole.apart g)
    (hs : SPLIT_STAT.DROP_SEEN.apart g) : ((s.splitEntry sd w0 t aux).side sd).get g = (s.side sd).get g := by
  rcases State.splitEntry_side (s := s) (sd := sd) (w0 := w0) (t := t) (aux := aux) with h | h
  · rw [h.get g hg]
    exact (Side.get_set_apart _ _ _ _ hs).trans (Side.get_set_apart _ _ _ _ hd)
  · rw [h.get g hg]
    exact Side.get_set_apart _ _ _ _ hw

theorem State.on_splitEntry (g : Fld) (hg : g.besideRing) (hw : SPLIT_WP.WP.apart g) (hd : SPLIT_RING_DROP.whole.apart g)
    (hs : SPLIT_STAT.DROP_SEEN.apart g) : ((s.splitEntry sd w0 t aux).side sd).on g = (s.side sd).on g := by
  unfold Side.on
  rw [State.get_splitEntry g hg hw hd hs]

theorem State.keel_splitEntry : (s.splitEntry sd w0 t aux).keel = s.keel := by
  rcases Nat.lt_or_ge (s.side sd).splitUsed (s.side sd).splitLen with h | h
  · rw [State.splitEntry_room h]
    dsimp only
    split
    · split
      · exact (State.mod_keel ..).trans (State.mod_keel ..)
      · exact State.mod_keel ..
    · exact (State.mod_keel ..).trans (State.mod_keel ..)
  · rw [State.splitEntry_full h, State.mod_keel]

end

end Sys2Proof.Machine
end

section
/-! PROOFS. Event-class inputs, interpolator swaps and thresholds (R182, R185, R190, R378, R379). -/

namespace Sys2Proof.Machine

/-! ### Edges that are admitted (R190) -/

/-- R190: slope code 1 admits rising edges, 2 falling ones, 3 both. -/
theorem slopeOk_iff (code : Nat) (fall : Bool) : slopeOk code fall = true ↔ (if fall then 2 ≤ code else code % 2 = 1) := by
  cases fall <;> simp [slopeOk]

/-! ### Event stamps -/

/-- R183: the split time of an event-class edge, by the interpolator in service. -/
def Side.evtTime (x : Side) (i : Nat) (st : SplitStamp) : Int := x.splitTime (2 * (4 + i) + x.ipOf (4 + i)) st

/-- R190: an edge within the dead time of the last one stamped. -/
def Side.evtNear (x : Side) (i : Nat) (ts : Int) : Prop := ∃ l, lget x.split.evtLast i none = some l ∧ ts - l < 8192

/-- The occurrence that a stamped edge makes (R200). -/
def evtOcc (i : Nat) (fall inv : Bool) : Occ := if i < 2 then .trigin (Fin.ofNat 2 i) fall inv else .split (Fin.ofNat 8 (4 + i)) 0 inv

/-- R190: an edge within the dead time, counted. -/
def Side.evtDrop (x : Side) (i : Nat) : Side :=
  ({ x with split := { x.split with evtDead := lmod x.split.evtDead i (· + 1) } } : Side).inc SPLIT_DEAD.whole

/-- R190: an input as a stamped edge leaves it: its number, its time, and the dead count begun anew. -/
def Side.evtSeen (x : Side) (i : Nat) (ts : Int) : SplitT := { x.split with
  evtCnt := lset x.split.evtCnt i (lget x.split.evtCnt i 0 + 1), evtLast := lset x.split.evtLast i (some ts), evtDead := lset x.split.evtDead i 0 }

/-- Word 0 of the entry of an edge (R190, R191). -/
def Side.evtWord (x : Side) (i : Nat) (fall : Bool) : Word :=
  wordN ((4 + i) * 2 ^ 29 + b2n fall * 2 ^ 28 + b2n (x.on SPLIT_STAT.INVALID) * 2 ^ 27 + b2n (x.ipOf (4 + i) == 1) * 2 ^ 25
    + (lget x.split.evtCnt i 0 + 1) % 65536)

/-- The state with an edge stamped: its occurrence, and its entry. -/
def State.evtStamped (s : State) (sd : SideId) (i : Nat) (fall : Bool) (ts : Int) : State :=
  let x := s.side sd
  (s.mod sd (fun y => ({ y with split := x.evtSeen i ts } : Side).occur (evtOcc i fall (x.on SPLIT_STAT.INVALID)) (x.stampTime ts))).splitEntry sd
    (x.evtWord i fall) (x.stampTime ts) (lget x.split.evtDead i 0 % 2 ^ 36)

/-- Word 0 of an entry that marks neither expiry nor restart. -/
theorem splitWord0_plain (ty src : Nat) (fall inv close ipB : Bool) (slot num : Nat) : splitWord0 ty src fall inv close ipB slot false false num
    = wordN (ty * 2 ^ 32 + src * 2 ^ 29 + b2n fall * 2 ^ 28 + b2n inv * 2 ^ 27 + b2n close * 2 ^ 26 + b2n ipB * 2 ^ 25
      + slot % 32 * 2 ^ 20 + num % 65536) := by
  have h0 : ∀ a b n : Nat, a + b2n false * b + b2n false * n = a := fun a b n => by simp [b2n]
  unfold splitWord0
  rw [h0]

/-- Word 0 of an event entry. -/
theorem splitWord0_event (x : Side) (i : Nat) (fall : Bool) : splitWord0 0 (4 + i) fall (x.on SPLIT_STAT.INVALID) false (x.ipOf (4 + i) == 1) 0
    false false (lget x.split.evtCnt i 0 + 1) = x.evtWord i fall := by
  have h0 : ∀ n a b c d e f g h : Nat, 0 * n + a + b + c + b2n false * d + e + 0 % f * g + h = a + b + c + e + h := fun n a b c d e f g h => by
    simp [b2n]
  rw [splitWord0_plain, h0]
  rfl

section
variable {s : State} {sd : SideId} {i : Nat} {fall : Bool} {st : SplitStamp} {ts : Int}

theorem State.stampEvent_off (h : slopeOk ((s.side sd).evtSlope i) fall = false) : s.stampEvent sd i fall st = (s, none) := by
  unfold State.stampEvent
  simp only [h, Bool.not_false, if_true]

/-- The test of the dead time, as the model makes it. -/
theorem Side.evtNear_iff (x : Side) : x.evtNear i ts ↔ (match lget x.split.evtLast i none with
    | some l => decide (ts - l < 8192)
    | none => false) = true := by
  unfold Side.evtNear
  cases lget x.split.evtLast i none <;> simp

section
variable (h : slopeOk ((s.side sd).evtSlope i) fall = true)
include h

theorem State.stampEvent_dead (hn : (s.side sd).evtNear i ((s.side sd).evtTime i st)) :
    s.stampEvent sd i fall st = (s.mod sd (fun x => x.evtDrop i), none) := by
  unfold State.stampEvent
  simp only [h, Bool.not_true, Bool.false_eq_true, if_false]
  exact if_pos ((Side.evtNear_iff _).1 hn)

theorem State.stampEvent_stamped (hn : ¬(s.side sd).evtNear i ((s.side sd).evtTime i st)) : s.stampEvent sd i fall st
    = (s.evtStamped sd i fall ((s.side sd).evtTime i st), some ((s.side sd).stampTime ((s.side sd).evtTime i st))) := by
  unfold State.stampEvent
  simp only [h, Bool.not_true, Bool.false_eq_true, if_false]
  refine (if_neg (fun e => hn ((Side.evtNear_iff _).2 e))).trans ?_
  unfold State.evtStamped
  refine congrArg (·, _) ?_
  dsimp only
  rw [splitWord0_event]
  refine congrArg (fun z : State => z.splitEntry sd _ _ _) (State.mod_congr ?_)
  unfold evtOcc
  split <;> rfl

end

theorem Side.on_split_occur (x : Side) (sp : SplitT) (o : Occ) (t : Nat) (g : Fld) (hg : g.besideRing) :
    (({ x with split := sp } : Side).occur o t).on g = x.on g := by
  rw [(Side.keepsSplit_occur ..).on g hg]
  exact congrArg (· != 0) (Side.get_congr rfl rfl rfl g)

/-- A stamp leaves the fields beside the ring, but for the ring's pointer, counter and flag. -/
theorem State.on_evtStamped (g : Fld) (hg : g.besideRing) (hw : SPLIT_WP.WP.apart g) (hd : SPLIT_RING_DROP.whole.apart g)
    (hs : SPLIT_STAT.DROP_SEEN.apart g) : ((s.evtStamped sd i fall ts).side sd).on g = (s.side sd).on g := by
  unfold State.evtStamped
  rw [State.on_splitEntry g hg hw hd hs, State.side_mod, Side.on_split_occur _ _ _ _ g hg]

theorem State.isCrew_evtStamped : ((s.evtStamped sd i fall ts).side sd).isCrew = (s.side sd).isCrew := by
  have hb : KEEL_COX_STAT.KEEL_UP.besideRing ∧ KEEL_COX_STAT.COX_HELD.besideRing := by unfold Fld.besideRing; decide
  unfold Side.isCrew
  rw [State.on_evtStamped _ hb.1 (by decide) (by decide) (by decide), State.on_evtStamped _ hb.2 (by decide) (by decide) (by decide)]

theorem State.keel_evtStamped : (s.evtStamped sd i fall ts).keel = s.keel := State.keel_splitEntry.trans (State.mod_keel ..)

/-! ### EVENT_STAMP: the stamp, and the strobe of LDSTB (R378, R379) -/

/-- What follows a stamp: where LDSTB is enabled, a strobe one microsecond later. -/
def State.ldstb (s : State) (sd : SideId) (i t : Nat) : State :=
  if i != 3 || !(s.side sd).on TONE_CFG.LDSTB_EN then s
  else if s.keel.resolving then s.mod sd (fun x => x.inc TONE_STB_DISCARD.whole)
  else if (s.side sd).isCrew then s
  else s.reqStrobe sd false (t + usLsb) []

/-- An edge that is not stamped makes no strobe. -/
theorem execEventStamp_none {k : Fin 4} {r : State} (h : s.stampEvent sd k.val fall st = (r, none)) : exec (.eventStamp sd k fall st) s = .next r := by
  show Host.Outcome.next (s.eventStamp sd k.val fall st) = _
  unfold State.eventStamp
  rw [h]

theorem execEventStamp_some {k : Fin 4} {r : State} {t : Nat} (h : s.stampEvent sd k.val fall st = (r, some t)) :
    exec (.eventStamp sd k fall st) s = .next (r.ldstb sd k.val t) := by
  show Host.Outcome.next (s.eventStamp sd k.val fall st) = _
  unfold State.eventStamp
  rw [h]
  rfl

theorem State.ldstb_none {t : Nat} (h : i ≠ 3 ∨ (s.side sd).on TONE_CFG.LDSTB_EN = false) : s.ldstb sd i t = s := by
  refine if_pos ?_
  rcases h with h | h <;> simp [h]

section
variable {t : Nat} (he : (s.side sd).on TONE_CFG.LDSTB_EN = true)
include he

theorem State.ldstb_discarded (hr : s.keel.resolving = true) : s.ldstb sd 3 t = s.mod sd (fun x => x.inc TONE_STB_DISCARD.whole) := by
  unfold State.ldstb
  simp only [he, hr, bne_self_eq_false, Bool.not_true, Bool.or_self, Bool.false_eq_true, if_false, if_true]

theorem State.ldstb_alone (hr : s.keel.resolving = false) (hu : s.keel.up = false) (hc : (s.side sd).isCrew = false) :
    s.ldstb sd 3 t = s.mod sd (fun x => x.dueStrobe (t + nsLsb 1000) []) := by
  unfold State.ldstb State.reqStrobe
  simp only [he, hr, hu, hc, bne_self_eq_false, Bool.not_true, Bool.or_self, Bool.not_false, Bool.or_true, Bool.false_eq_true, if_false, if_true]
  rfl

end
end

/-! ### Swaps of interpolators (R182) -/

theorem bitAt_eq_testBit (w i : Nat) : bitAt w i = w.testBit i := by
  simp [bitAt, Nat.testBit_eq_decide_div_mod_eq, beq_eq_decide]

/-- A swap inverts the interpolator of its input, and of no other. -/
theorem Side.ipOf_swapIps (x : Side) (src j : Fin 8) :
    (x.swapIps src.val).ipOf j.val = if j = src then 1 - x.ipOf j.val else x.ipOf j.val := by
  have hne : j ≠ src → j.val ≠ src.val := fun h e => h (Fin.ext e)
  unfold Side.swapIps Side.ipOf
  by_cases hs : src.val < 4
  · rw [if_pos hs, Side.put_eq]
    by_cases hj : j.val < 4
    · rw [if_pos hj, if_pos hj]
      by_cases h : j = src
      · subst h
        have hlt : x.get (SPLIT_IN_CFG.IP_B j.val) < 2 := x.get_lt _
        have hon : b2n (!x.on (SPLIT_IN_CFG.IP_B j.val)) = 1 - x.get (SPLIT_IN_CFG.IP_B j.val) := by
          unfold Side.on
          interval_cases x.get (SPLIT_IN_CFG.IP_B j.val) <;> rfl
        have hv : 1 - x.get (SPLIT_IN_CFG.IP_B j.val) < 2 ^ (17 + 1 - 17) := lt_of_le_of_lt (Nat.sub_le _ _) (by decide)
        rw [if_pos rfl, hon, Side.get_set_self _ _ _ ⟨Nat.le_refl 17, Nat.lt_of_sub_eq_succ rfl⟩ hv]
      · rw [if_neg h, Side.get_set_apart]
        exact .inl (by simp only [SPLIT_IN_CFG.IP_B]; have := hne h; omega)
    · have h : j ≠ src := fun e => hj (e ▸ hs)
      rw [if_neg hj, if_neg hj, if_neg h, Side.get_set_apart]
      exact .inl (by simp only [SPLIT_IN_CFG.IP_B, EVT_IN_CFG.IP_B]; omega)
  · rw [if_neg hs]
    by_cases hj : j.val < 4
    · have h : j ≠ src := fun e => hs (e ▸ hj)
      rw [if_pos hj, if_pos hj, if_neg h, Side.get_set_apart]
      exact .inl (by simp only [SPLIT_IN_CFG.IP_B, EVT_IN_CFG.IP_B]; omega)
    · have hlt : x.get EVT_IN_CFG.IP_B < 2 ^ 4 := x.get_lt _
      have hp : 2 ^ (src.val - 4) < 2 ^ 4 := Nat.pow_lt_pow_right (by decide) (by omega)
      have hx : (x.get EVT_IN_CFG.IP_B).xor (2 ^ (src.val - 4)) < 2 ^ 4 := Nat.xor_lt_two_pow hlt hp
      have hbit : ((x.get EVT_IN_CFG.IP_B).xor (2 ^ (src.val - 4))).testBit (j.val - 4)
          = ((x.get EVT_IN_CFG.IP_B).testBit (j.val - 4) ^^ (2 ^ (src.val - 4)).testBit (j.val - 4)) := Nat.testBit_xor ..
      rw [if_neg hj, if_neg hj, Side.get_set_self _ _ _ (by decide) hx, bitAt_eq_testBit, bitAt_eq_testBit, hbit, Nat.testBit_two_pow]
      by_cases h : j = src
      · subst h
        rw [if_pos rfl, decide_eq_true rfl, Bool.xor_true]
        cases (x.get EVT_IN_CFG.IP_B).testBit (j.val - 4) <;> rfl
      · rw [if_neg h, decide_eq_false (by have := hne h; omega), Bool.xor_false]

/-- A swap changes registers alone. -/
theorem Side.regsOf_swapIps (x : Side) (src : Nat) : x.regsOf (x.swapIps src) := by
  unfold Side.swapIps
  split <;> exact Side.regsOf_set x.regsOf_refl _ _

/-- Staged values that come into force change the calibration part, and at most the ties of the split timer. -/
theorem Side.calBring_eq (x : Side) (item : Nat) (p : Nat → Bool) :
    ∃ c ties, x.calBring item p = { x with cal := c, split := { x.split with ties := ties } } := by
  have hput : ∀ l : List (Nat × Word), ∃ c, l.foldl Side.calPut x = { x with cal := c } := fun l =>
    foldl_keeps (fun y => ∃ c, y = { x with cal := c }) Side.calPut (fun _ _ h => by obtain ⟨c, rfl⟩ := h; exact ⟨_, rfl⟩) l x ⟨x.cal, rfl⟩
  obtain ⟨c, hc⟩ := hput ((x.calStaged item).filter (fun q => p q.1))
  unfold Side.calBring
  dsimp only
  rw [hc]
  split
  · exact ⟨_, _, rfl⟩
  · exact ⟨_, x.split.ties, rfl⟩

/-- R182: a side whose requested swap is taken, but for the tables that come into force with it. -/
def Side.swapTaken (x : Side) (src : Nat) : Side := { x.swapIps src with
  split := { (x.swapIps src).split with swapReq := (x.swapIps src).split.swapReq.filter (· != src) }
  cal := { (x.swapIps src).cal with swaps := (x.swapIps src).cal.swaps.filter (· != src) } }

section
variable {s : State} {sd : SideId} {src : Fin 8}

theorem execInterpolatorSwap_stays (h : src.val ∉ (s.side sd).split.swapReq ∨ (src.val < 4 ∧ (s.side sd).split.meas ≠ none)) :
    exec (.interpolatorSwap sd src) s = .next s := by
  show execInterpolatorSwap sd src s = _
  unfold execInterpolatorSwap
  refine congrArg Host.Outcome.next (if_pos ?_)
  rcases h with h | ⟨hlt, hm⟩
  · simp [h]
  · have hfree : (s.side sd).swapFree src.val = false := by
      unfold Side.swapFree
      simp only [decide_eq_false (Nat.not_le.2 hlt), Bool.false_or]
      exact Option.isNone_eq_false_iff.2 (Option.ne_none_iff_isSome.1 hm)
    rw [hfree, Bool.not_false, Bool.or_true]

theorem execInterpolatorSwap_taken (h : src.val ∈ (s.side sd).split.swapReq) (hm : 4 ≤ src.val ∨ (s.side sd).split.meas = none) :
    exec (.interpolatorSwap sd src) s = .next ((s.setSide sd ((s.side sd).swapTaken src.val).calIdle).calGoOn sd) := by
  have hfree : (s.side sd).swapFree src.val = true := by
    unfold Side.swapFree
    rcases hm with hm | hm <;> simp [hm]
  show execInterpolatorSwap sd src s = _
  unfold execInterpolatorSwap
  refine congrArg Host.Outcome.next (if_neg ?_)
  rw [hfree]
  simp [h]

/-- With no calibration in progress, a swap is all that happens. -/
theorem interpolatorSwap_taken (h : src.val ∈ (s.side sd).split.swapReq) (hm : 4 ≤ src.val ∨ (s.side sd).split.meas = none)
    (hj : (s.side sd).cal.job = none) (hs : ∀ d ∈ (s.side sd).host.staged, d.op ≠ 0x30 ∧ d.op ≠ 0x31) :
    Does (.interpolatorSwap sd src) s (fun t =>
      (t.side sd).split.swapReq = (s.side sd).split.swapReq.filter (· != src.val)
      ∧ (∀ j : Fin 8, (t.side sd).ipOf j.val = if j = src then 1 - (s.side sd).ipOf j.val else (s.side sd).ipOf j.val)
      ∧ t.side sd.other = s.side sd.other) := by
  obtain ⟨r, hr⟩ := (s.side sd).regsOf_swapIps src.val
  obtain ⟨c, ties, hb⟩ := ((s.side sd).swapTaken src.val).calBring_eq 0 (fun r => ((s.side sd).swapTaken src.val).unitIdle (calUnit r))
  have hjob : ((s.side sd).swapTaken src.val).cal.job = none := by
    unfold Side.swapTaken
    rw [hr]
    exact hj
  have hbjob : (((s.side sd).swapTaken src.val).calBring 0 (fun r => ((s.side sd).swapTaken src.val).unitIdle (calUnit r))).cal.job = none :=
    (Side.calBring_keep ..).1.trans hjob
  have hidle : ((s.side sd).swapTaken src.val).calIdle
      = { (s.side sd).swapTaken src.val with cal := c, split := { ((s.side sd).swapTaken src.val).split with ties := ties } } := by
    unfold Side.calIdle
    rw [Side.calArrived_idle _ hbjob, hb]
  refine ⟨_, execInterpolatorSwap_taken h hm, ?_⟩
  beta_reduce
  rw [State.calGoOn_idle]
  · rw [State.side_setSide, State.side_setSide_other, hidle]
    refine ⟨?_, fun j => ?_, rfl⟩
    · unfold Side.swapTaken
      rw [hr]
    · rw [← Side.ipOf_swapIps]
      rfl
  · rw [State.side_setSide]
    unfold Side.calIdle
    rw [Side.calArrived_idle _ hbjob]
    exact hbjob
  · rw [State.side_setSide, hidle]
    unfold Side.swapTaken
    rw [hr]
    exact hs

end

/-- Settles O38: an edge by its slope and the dead time, and what LDSTB makes of its stamp; swaps by what they wait for; thresholds as they
are limited. -/
theorem splitInputs : Obligations.SplitInputs := by
  unfold Obligations.SplitInputs
  intro s sd i src fall st x ip ts rt inv slope admitted near n occ w0 split stamped
  have hoff : ¬admitted → slopeOk ((s.side sd).evtSlope i.val) fall = false := fun h => Bool.eq_false_iff.2 (fun e => h ((slopeOk_iff ..).1 e))
  have hadm : admitted → slopeOk ((s.side sd).evtSlope i.val) fall = true := (slopeOk_iff ..).2
  have hstamp : ∀ h : admitted, ¬near → s.stampEvent sd i.val fall st = (stamped, some rt) := fun h hn => State.stampEvent_stamped (hadm h) hn
  have hldstb : (stamped.side sd).on TONE_CFG.LDSTB_EN = x.on TONE_CFG.LDSTB_EN :=
    State.on_evtStamped (i := i.val) (ts := ts) _ (.inr (by decide)) (by decide) (by decide) (by decide)
  have hkeel : stamped.keel = s.keel := State.keel_evtStamped (i := i.val) (ts := ts)
  have hcrew : (stamped.side sd).isCrew = x.isCrew := State.isCrew_evtStamped (i := i.val) (ts := ts)
  refine ⟨fun h => ?_, fun h hn => ?_, fun h hn hi => ?_, fun h hn hi he hr hu hc => ?_, fun h hn hi he hr => ?_,
    execInterpolatorSwap_stays, interpolatorSwap_taken, rfl⟩
  · exact execEventStamp_none (State.stampEvent_off (hoff h))
  · exact execEventStamp_none (State.stampEvent_dead (hadm h) hn)
  · rw [execEventStamp_some (hstamp h hn), State.ldstb_none]
    exact hi.imp (fun hi e => hi (Fin.ext e)) hldstb.trans
  · rw [execEventStamp_some (hstamp h hn), hi]
    exact congrArg Host.Outcome.next (State.ldstb_alone (hldstb.trans he) (hkeel ▸ hr) (hkeel ▸ hu) (hcrew.trans hc))
  · rw [execEventStamp_some (hstamp h hn), hi]
    exact congrArg Host.Outcome.next (State.ldstb_discarded (hldstb.trans he) (hkeel ▸ hr))

end Sys2Proof.Machine
end

section
/-! PROOFS. Measurement windows of the split timer (R186 to R189): what opening, stopping and closing one come to. -/

namespace Sys2Proof.Machine

/-! ### The result of a measurement (R44, R189) -/

/-- R189: a measurement's number, its stops too close, and its slots. -/
def Meas.result (m : Meas) : Nat := m.num % 65536 + m.tooClose % 32 * 2 ^ 16 + m.slots % 32 * 2 ^ 21

theorem Meas.result_lt (m : Meas) : m.result < 2 ^ 26 := by
  unfold Meas.result
  omega

/-- A one-word result reads as formed. -/
theorem Side.get_newResult (x : Side) (idx lo hi : Nat) : (x.newResult idx lo hi false).get ⟨idx, 25, 0⟩ = lo % 2 ^ 26 := by
  have hreg : (x.newResult idx lo hi false).reg idx = wordN (2 ^ 35 + (bitsOf (x.reg idx).toNat 33 26 + 1) % 256 * 2 ^ 26 + lo % 2 ^ 26) :=
    Side.reg_setReg ..
  unfold Side.get
  simp only [hreg, wordN, BitVec.toNat_ofNat, bitsOf]
  omega

theorem Side.get_newResult_ne (x : Side) (idx lo hi : Nat) (g : Fld) (h : g.idx ≠ idx) : (x.newResult idx lo hi false).get g = x.get g := by
  have hreg : (x.newResult idx lo hi false).reg g.idx = x.reg g.idx := Side.reg_setReg_ne _ _ _ _ h
  unfold Side.get
  rw [hreg]

/-! ### Closing a window (R186, R189, R200) -/

theorem besideRing_split : SPLIT_STAT.WINDOW_OPEN.besideRing ∧ SPLIT_MEAS_RESULT.RESULT.besideRing := by
  unfold Fld.besideRing; decide

/-- A side whose open measurement has closed, but for the occurrence. -/
def Side.measEnds (x : Side) (m : Meas) : Side :=
  (({ x with split := { x.split with meas := none } } : Side).set SPLIT_STAT.WINDOW_OPEN 0).newResult SPLIT_MEAS_RESULT.whole.idx m.result 0 false

/-- What a measurement's end leaves on a side, as one that had numbered n measurements. -/
structure Side.measEnded (y : Side) (m : Meas) (n : Nat) : Prop where
  meas : y.split.meas = none
  shut : y.on SPLIT_STAT.WINDOW_OPEN = false
  result : y.get SPLIT_MEAS_RESULT.RESULT = m.result
  num : y.split.measNum = n

theorem Side.measEnded_of_keepsSplit {x y : Side} {m : Meas} {n : Nat} (h : x.measEnded m n) (hk : x.keepsSplit y) : y.measEnded m n where
  meas := by rw [hk.split, h.meas]
  shut := by rw [hk.on _ besideRing_split.1, h.shut]
  result := by rw [hk.get _ besideRing_split.2, h.result]
  num := by rw [hk.split, h.num]

theorem Side.measEnds_ended (x : Side) (m : Meas) : (x.measEnds m).measEnded m x.split.measNum where
  meas := rfl
  shut := by
    have hon : ∀ y : Side, (y.newResult SPLIT_MEAS_RESULT.whole.idx m.result 0 false).on SPLIT_STAT.WINDOW_OPEN = y.on SPLIT_STAT.WINDOW_OPEN :=
      fun y => congrArg (· != 0) (Side.get_newResult_ne _ _ _ _ _ (by decide))
    exact (hon _).trans (Side.on_set_zero _ _ (by decide))
  result := (Side.get_newResult ..).trans (Nat.mod_eq_of_lt m.result_lt)
  num := rfl

theorem State.closeMeas_ended (s : State) (sd : SideId) (m : Meas) (t : Nat) (expired restarted : Bool) :
    ((s.closeMeas sd m t expired restarted).side sd).measEnded m (s.side sd).split.measNum := by
  unfold State.closeMeas
  dsimp only
  rw [State.side_mod, ← State.split_splitEntry (s := s) (sd := sd)
    (w0 := splitWord0 3 0 false false false false m.slots expired restarted m.num) (t := 0) (aux := 0)]
  exact Side.measEnded_of_keepsSplit (Side.measEnds_ended _ m) (Side.keepsSplit_occur ..)

/-! ### Opening a window (R185, R186) -/

/-- R185: the threshold and termination that an input's register asks for. -/
def Side.thrAsked (x : Side) (i : Nat) : Nat × Bool := (min 4000 (x.get (SPLIT_IN_CFG.THRESH i)), x.on (SPLIT_IN_CFG.TERM50 i))

/-- R185: every input's threshold in force. -/
def Side.thrApplied (x : Side) : List (Nat × Bool) :=
  lset (lset (lset (lset x.split.thr 0 (x.thrAsked 0)) 1 (x.thrAsked 1)) 2 (x.thrAsked 2)) 3 (x.thrAsked 3)

theorem Side.applyThr_all (x : Side) : (List.range 4).foldl (fun x i => x.applyThr i) x
    = { x with split := { x.split with thr := x.thrApplied } } := rfl

theorem Side.lget_thrApplied {x : Side} (h : x.split.thr.length = 4) (j : Fin 4) : lget x.thrApplied j.val (0, false) = x.thrAsked j.val := by
  unfold Side.thrApplied
  fin_cases j
  · rw [lget_lset_ne _ _ _ _ _ (by decide), lget_lset_ne _ _ _ _ _ (by decide), lget_lset_ne _ _ _ _ _ (by decide),
      lget_lset_self _ _ _ _ (by rw [h]; decide)]
  · rw [lget_lset_ne _ _ _ _ _ (by decide), lget_lset_ne _ _ _ _ _ (by decide), lget_lset_self _ _ _ _ (by rw [lset_length, h]; decide)]
  · rw [lget_lset_ne _ _ _ _ _ (by decide), lget_lset_self _ _ _ _ (by rw [lset_length, lset_length, h]; decide)]
  · rw [lget_lset_self _ _ _ _ (by rw [lset_length, lset_length, lset_length, h]; decide)]

/-- A side with a new measurement, numbered. -/
def Side.measNumbered (x : Side) (src : Nat) (ts : Int) (rt : Nat) : Side := { x with split := { x.split with
  meas := some ⟨src, rt, ts, ts, 0, 0, x.split.measNum + 1⟩, measNum := x.split.measNum + 1 } }

/-- A side that opens a window, but for its occurrence. -/
def Side.measBegins (x : Side) (src : Nat) (ts : Int) (rt : Nat) : Side :=
  let y := (x.measNumbered src ts rt).set SPLIT_STAT.WINDOW_OPEN 1
  { y with split := { y.split with thr := y.thrApplied } }

theorem Side.get_measBegins (x : Side) (src : Nat) (ts : Int) (rt : Nat) (g : Fld) (h : SPLIT_STAT.WINDOW_OPEN.apart g) :
    (x.measBegins src ts rt).get g = x.get g :=
  (Side.get_congr rfl rfl rfl g).trans ((Side.get_set_apart _ _ _ _ h).trans (Side.get_congr rfl rfl rfl g))

theorem Side.thrAsked_set_open (x : Side) (v i : Nat) (hi : i < 4) : (x.set SPLIT_STAT.WINDOW_OPEN v).thrAsked i = x.thrAsked i := by
  unfold Side.thrAsked
  rw [Side.get_set_apart, Side.on_set_apart]
  · exact .inl (by simp only [SPLIT_IN_CFG.TERM50, SPLIT_STAT.WINDOW_OPEN]; omega)
  · exact .inl (by simp only [SPLIT_IN_CFG.THRESH, SPLIT_STAT.WINDOW_OPEN]; omega)

theorem Side.lget_measBegins_thr {x : Side} (src : Nat) (ts : Int) (rt : Nat) (h : x.split.thr.length = 4) (j : Fin 4) :
    lget (x.measBegins src ts rt).split.thr j.val (0, false) = x.thrAsked j.val :=
  (Side.lget_thrApplied (x := (x.measNumbered src ts rt).set SPLIT_STAT.WINDOW_OPEN 1) h j).trans
    (Side.thrAsked_set_open (x.measNumbered src ts rt) 1 j.val j.isLt)

/-- The state with a window opened, but for its entry. -/
def State.measOpened (s : State) (sd : SideId) (src : Nat) (ts : Int) (rt : Nat) : State :=
  s.mod sd (fun x => (x.measBegins src ts rt).occur (.split (Fin.ofNat 8 src) 1 (x.on SPLIT_STAT.INVALID)) rt)

theorem State.openMeas_eq (s : State) (sd : SideId) (src : Nat) (fall ipB : Bool) (ts : Int) (rt : Nat) : s.openMeas sd src fall ipB ts rt
    = (s.measOpened sd src ts rt).splitEntry sd (splitWord0 1 src fall ((s.side sd).on SPLIT_STAT.INVALID) false ipB 0 false false
      ((s.side sd).split.measNum + 1)) rt 0 := by
  unfold State.openMeas State.measOpened
  dsimp only
  refine congrArg (fun z : State => z.splitEntry sd _ _ _) (State.mod_congr ?_)
  rw [Side.applyThr_all]
  rfl

section
variable (s : State) (sd : SideId) (src : Nat) (ts : Int) (rt : Nat)

theorem State.measOpened_split : ((s.measOpened sd src ts rt).side sd).split = ((s.side sd).measBegins src ts rt).split := by
  unfold State.measOpened
  rw [State.side_mod]
  exact (Side.keepsSplit_occur ..).split

theorem State.on_measOpened : ((s.measOpened sd src ts rt).side sd).on SPLIT_STAT.WINDOW_OPEN = true := by
  unfold State.measOpened
  rw [State.side_mod, (Side.keepsSplit_occur ..).on _ besideRing_split.1]
  exact Eq.trans (congrArg (· != 0) (Side.get_congr rfl rfl rfl _))
    (Side.on_set_one ((s.side sd).measNumbered src ts rt) SPLIT_STAT.WINDOW_OPEN (by decide))

theorem State.get_measOpened_result : ((s.measOpened sd src ts rt).side sd).get SPLIT_MEAS_RESULT.RESULT = (s.side sd).get SPLIT_MEAS_RESULT.RESULT := by
  unfold State.measOpened
  rw [State.side_mod, (Side.keepsSplit_occur ..).get _ besideRing_split.2, Side.get_measBegins _ _ _ _ _ (by decide)]

end

/-! ### Stops (R186, R187) -/

/-- R187: a measurement with one slot more. -/
def Meas.stopped (m : Meas) (ts : Int) : Meas :=
  { m with slots := m.slots + 1, lastTs := ts, tooClose := m.tooClose + if ts - m.lastTs < 6144 then 1 else 0 }

/-- A side with a measurement in place of the open one. -/
def Side.withMeas (x : Side) (m : Meas) : Side := { x with split := { x.split with meas := some m } }

/-- A stop's entry in the ring, and its occurrence or its count: what it leaves before the last slot closes the window. -/
def State.stopEntered (s : State) (sd : SideId) (m : Meas) (src : Nat) (fall ipB : Bool) (ts : Int) (rt : Nat) : State :=
  let x := s.side sd
  let y := x.withMeas (m.stopped ts)
  let inv := x.on SPLIT_STAT.INVALID
  if ts - m.lastTs < 6144 then (s.setSide sd (y.inc SPLIT_TOO_CLOSE.whole)).splitEntry sd
    (splitWord0 2 src fall inv true ipB (m.slots + 1) false false m.num) 0 0
  else (s.setSide sd (y.occur (.split (Fin.ofNat 8 src) 2 inv) rt)).splitEntry sd
    (splitWord0 2 src fall inv false ipB (m.slots + 1) false false m.num) rt (min (rt - m.start) (2 ^ 36 - 1))

/-- R191: an interval as its entry gives it. -/
theorem interval_min (n : Nat) : (if n ≥ 2 ^ 36 then 2 ^ 36 - 1 else n) = min n (2 ^ 36 - 1) := by
  split <;> omega

theorem State.stopMeas_eq (s : State) (sd : SideId) (m : Meas) (src : Nat) (fall ipB : Bool) (ts : Int) (rt : Nat) : s.stopMeas sd m src fall ipB ts rt
    = if m.slots + 1 > (s.side sd).get SPLIT_MEAS_CFG.NSTOP_M1
      then (s.stopEntered sd m src fall ipB ts rt).closeMeas sd (m.stopped ts) rt false false else s.stopEntered sd m src fall ipB ts rt := by
  unfold State.stopMeas State.stopEntered Meas.stopped
  by_cases hn : ts - m.lastTs < 6144
  · simp only [hn, decide_true, if_true, b2n]
    rfl
  · simp only [hn, decide_false, if_false, b2n, Bool.false_eq_true, interval_min]
    rfl

/-! ### SPLIT_EDGE and WINDOW_EXPIRY -/

/-- R183: the split time of a SPLIT input's edge, by the interpolator in service. -/
def Side.edgeTime (x : Side) (src : Nat) (st : SplitStamp) : Int := x.splitTime (2 * src + x.ipOf src) st

/-- R184: its race time. -/
def Side.edgeStamp (x : Side) (src : Nat) (st : SplitStamp) : Nat := x.stampTime (x.edgeTime src st)

/-- R200: every timed edge is an occurrence of its input, at a race time. -/
def State.edgeOccurs (s : State) (sd : SideId) (src : Nat) (inv : Bool) (rt : Nat) : State :=
  s.mod sd (fun x => x.occur (.split (Fin.ofNat 8 src) 0 inv) rt)

theorem State.edgeOccurs_keeps (s : State) (sd : SideId) (src : Nat) (inv : Bool) (rt : Nat) :
    (s.side sd).keepsSplit ((s.edgeOccurs sd src inv rt).side sd) := by
  unfold State.edgeOccurs
  rw [State.side_mod]
  exact Side.keepsSplit_occur ..

section
variable {s : State} {sd : SideId} {src : Nat} {fall : Bool} {st : SplitStamp} {m : Meas}

theorem State.splitEdge_off (h : slopeOk ((s.side sd).get (SPLIT_IN_CFG.SLOPE src)) fall = false) : s.splitEdge sd src fall st = s := by
  unfold State.splitEdge
  simp only [h, Bool.not_false, if_true]

section
variable (h : slopeOk ((s.side sd).get (SPLIT_IN_CFG.SLOPE src)) fall = true)
include h

theorem State.splitEdge_unmeasured (he : (s.side sd).on SPLIT_MEAS_CFG.MEAS_EN = false) : s.splitEdge sd src fall st
    = s.edgeOccurs sd src ((s.side sd).on SPLIT_STAT.INVALID) ((s.side sd).edgeStamp src st) := by
  unfold State.splitEdge
  simp only [h, he, Bool.not_true, Bool.not_false, Bool.false_eq_true, if_false, if_true]
  rfl

variable (he : (s.side sd).on SPLIT_MEAS_CFG.MEAS_EN = true)
include he

theorem State.splitEdge_noWindow (hm : (s.side sd).split.meas = none) : s.splitEdge sd src fall st
    = (s.edgeClosed sd src fall ((s.side sd).ipOf src == 1) ((s.side sd).edgeTime src st) ((s.side sd).edgeStamp src st)).edgeOccurs sd src
      ((s.side sd).on SPLIT_STAT.INVALID) ((s.side sd).edgeStamp src st) := by
  unfold State.splitEdge
  simp only [h, he, hm, Bool.not_true, Bool.false_eq_true, if_false]
  rfl

/-- R186: a stop within the window. -/
theorem State.splitEdge_stops (hm : (s.side sd).split.meas = some m) (hs : (s.side sd).on (SPLIT_IN_CFG.STOP src) = true)
    (hw : (s.side sd).edgeStamp src st - m.start ≤ (s.side sd).windowLsb) : s.splitEdge sd src fall st
    = let u := s.stopMeas sd m src fall ((s.side sd).ipOf src == 1) ((s.side sd).edgeTime src st) ((s.side sd).edgeStamp src st)
      if (s.side sd).edgeTime src st - m.lastTs < 6144 then u
      else u.edgeOccurs sd src ((s.side sd).on SPLIT_STAT.INVALID) ((s.side sd).edgeStamp src st) := by
  unfold State.splitEdge
  simp only [h, he, hm, hs, Bool.not_true, Bool.false_eq_true, if_false, if_true]
  exact if_pos hw

/-- R188: with a window open, an edge of an input that is no stop. -/
theorem State.splitEdge_noStop (hm : (s.side sd).split.meas = some m) (hs : (s.side sd).on (SPLIT_IN_CFG.STOP src) = false) :
    s.splitEdge sd src fall st
    = (if (s.side sd).on (SPLIT_IN_CFG.START src) then
        if (s.side sd).on SPLIT_MEAS_CFG.RESTART_ON_START then
          (s.closeMeas sd m ((s.side sd).edgeStamp src st) false true).openMeas sd src fall ((s.side sd).ipOf src == 1)
            ((s.side sd).edgeTime src st) ((s.side sd).edgeStamp src st)
        else s.mod sd (fun x => x.inc SPLIT_START_IGN.whole)
      else s).edgeOccurs sd src ((s.side sd).on SPLIT_STAT.INVALID) ((s.side sd).edgeStamp src st) := by
  unfold State.splitEdge
  simp only [h, he, hm, hs, Bool.not_true, Bool.false_eq_true, if_false]
  split
  · split <;> rfl
  · rfl

/-- R186, R189: the stop that takes the last slot closes the window. -/
theorem State.splitEdge_lastStop (hm : (s.side sd).split.meas = some m) (hs : (s.side sd).on (SPLIT_IN_CFG.STOP src) = true)
    (hw : (s.side sd).edgeStamp src st - m.start ≤ (s.side sd).windowLsb) (hn : (s.side sd).get SPLIT_MEAS_CFG.NSTOP_M1 < m.slots + 1) :
    ∃ n, ((s.splitEdge sd src fall st).side sd).measEnded (m.stopped ((s.side sd).edgeTime src st)) n := by
  rw [State.splitEdge_stops h he hm hs hw, State.stopMeas_eq, if_pos hn]
  have hc := State.closeMeas_ended (s.stopEntered sd m src fall ((s.side sd).ipOf src == 1) ((s.side sd).edgeTime src st)
    ((s.side sd).edgeStamp src st)) sd (m.stopped ((s.side sd).edgeTime src st)) ((s.side sd).edgeStamp src st) false false
  dsimp only
  split
  · exact ⟨_, hc⟩
  · exact ⟨_, Side.measEnded_of_keepsSplit hc (State.edgeOccurs_keeps ..)⟩

/-- R188, R189: a start that restarts closes the open window and opens its own. -/
theorem State.splitEdge_restarts (hm : (s.side sd).split.meas = some m) (hs : (s.side sd).on (SPLIT_IN_CFG.STOP src) = false)
    (ha : (s.side sd).on (SPLIT_IN_CFG.START src) = true) (hr : (s.side sd).on SPLIT_MEAS_CFG.RESTART_ON_START = true) :
    ((s.splitEdge sd src fall st).side sd).split.meas = some ⟨src, (s.side sd).edgeStamp src st, (s.side sd).edgeTime src st,
        (s.side sd).edgeTime src st, 0, 0, (s.side sd).split.measNum + 1⟩
      ∧ ((s.splitEdge sd src fall st).side sd).get SPLIT_MEAS_RESULT.RESULT = m.result := by
  have hc := State.closeMeas_ended s sd m ((s.side sd).edgeStamp src st) false true
  rw [State.splitEdge_noStop h he hm hs, if_pos ha, if_pos hr, State.openMeas_eq]
  constructor
  · rw [(State.edgeOccurs_keeps ..).split, State.split_splitEntry, State.measOpened_split, ← hc.num]
    rfl
  · rw [(State.edgeOccurs_keeps ..).get _ besideRing_split.2, State.get_splitEntry _ besideRing_split.2 (by decide) (by decide) (by decide),
      State.get_measOpened_result, hc.result]

end
end

/-- Settles O37: an entry by the room of the ring; an edge by its slope, the open window and what its input is; an expiry by the window. -/
theorem splitMeasurements : Obligations.SplitMeasurements := by
  unfold Obligations.SplitMeasurements
  intro s sd src fall st m w0 t aux x ip ts rt inv slope admitted seen start stop len wp base used near word0
  have hadm : admitted → slopeOk (x.get (SPLIT_IN_CFG.SLOPE src.val)) fall = true := (slopeOk_iff ..).2
  have hoff : ¬admitted → slopeOk (x.get (SPLIT_IN_CFG.SLOPE src.val)) fall = false := fun h => Bool.eq_false_iff.2 (fun e => h ((slopeOk_iff ..).1 e))
  have hexec : ∀ {u : State}, s.splitEdge sd src.val fall st = u → exec (.splitEdge sd src fall st) s = .next u := congrArg Host.Outcome.next
  have hexpiry : exec (.windowExpiry sd) s = .next (match x.split.meas with
    | some m => s.closeMeas sd m (m.start + x.windowLsb) true false
    | none => s) := rfl
  refine ⟨State.splitEntry_full, State.splitEntry_stored, fun h => hexec (State.splitEdge_off (hoff h)),
    fun h he => hexec (State.splitEdge_unmeasured (hadm h) he), fun h he hm => ⟨fun ha => ?_, fun ha hs => ?_, fun ha hs => ?_⟩,
    fun h he hm => ⟨fun hs hw hn => ⟨fun hr => ?_, fun hr => ?_⟩, fun hs hw hn => ?_, fun hs ha hr => ?_, fun hs ha hr => ?_, fun hs ha => ?_⟩,
    fun hm => ?_, fun hm => ?_⟩
  · refine ⟨s.measOpened sd src.val ts rt, State.side_mod_other .., ?_, ?_, State.on_measOpened .., fun hl j => ?_, hexec ?_⟩
    · rw [State.measOpened_split]
      rfl
    · rw [State.measOpened_split]
      rfl
    · rw [State.measOpened_split]
      exact Side.lget_measBegins_thr _ _ _ hl j
    · rw [State.splitEdge_noWindow (hadm h) he hm, State.edgeClosed, if_pos ha, State.openMeas_eq, splitWord0_plain]
      rfl
  · refine hexec ?_
    rw [State.splitEdge_noWindow (hadm h) he hm, State.edgeClosed, if_neg (Bool.eq_false_iff.1 ha), if_pos hs]
    rfl
  · refine hexec ?_
    rw [State.splitEdge_noWindow (hadm h) he hm, State.edgeClosed, if_neg (Bool.eq_false_iff.1 ha), if_neg (Bool.eq_false_iff.1 hs)]
    rfl
  · refine hexec ?_
    rw [State.splitEdge_stops (hadm h) he hm hs hw, State.stopMeas_eq, if_neg (Nat.not_lt.2 hn)]
    refine (if_pos hr).trans ((if_pos hr).trans ?_)
    rw [splitWord0_plain]
    rfl
  · refine hexec ?_
    rw [State.splitEdge_stops (hadm h) he hm hs hw, State.stopMeas_eq, if_neg (Nat.not_lt.2 hn)]
    refine (if_neg hr).trans (congrArg (fun z : State => z.edgeOccurs sd src.val inv rt) ((if_neg hr).trans ?_))
    rw [splitWord0_plain]
    rfl
  · obtain ⟨n, hc⟩ := State.splitEdge_lastStop (hadm h) he hm hs hw hn
    exact ⟨_, rfl, hc.meas, hc.shut, hc.result⟩
  · refine hexec ?_
    rw [State.splitEdge_noStop (hadm h) he hm hs, if_pos ha, if_neg (Bool.eq_false_iff.1 hr)]
    rfl
  · exact ⟨_, rfl, State.splitEdge_restarts (hadm h) he hm hs ha hr⟩
  · refine hexec ?_
    rw [State.splitEdge_noStop (hadm h) he hm hs, if_neg (Bool.eq_false_iff.1 ha)]
    rfl
  · rw [hexpiry, hm]
  · have hc := State.closeMeas_ended s sd m (m.start + x.windowLsb) true false
    rw [hm] at hexpiry
    exact ⟨_, hexpiry, hc.meas, hc.shut, hc.result, hc.num⟩

end Sys2Proof.Machine
end

section
/-! PROOFS. Calibration (R396 to R401): what a run measures, the marks of CAL_STAT, and installing and ending an item. -/

namespace Sys2Proof.Machine

/-! ### What a run measures (R401, R402, R404) -/

/-- R401: a tap's centre, from the counts of the taps below it and half its own. -/
theorem fineOf_get (ns : List Nat) : ∀ (c t : Nat) (h : t < ns.length),
    (fineOf c ns)[t]? = some (rhe ((2 * (c + (ns.take t).sum) + ns[t]) * 4096 : Nat) (2 ^ 21)) := by
  induction ns with
  | nil => intro c t h; exact absurd h (Nat.not_lt_zero t)
  | cons n l ih =>
    intro c t h
    cases t with
    | zero => rfl
    | succ t =>
      rw [fineOf, List.getElem?_cons_succ, ih (c + n) t (Nat.lt_of_succ_lt_succ h), List.take_succ_cons, List.sum_cons,
        List.getElem_cons_succ, Nat.add_assoc]

theorem satS_of_fits {v : Int} (hlo : -32768 ≤ v) (hhi : v ≤ 32767) : satS 16 v = v := by
  unfold satS
  norm_num
  omega

/-- R402: an offset that its entry holds is the difference. -/
theorem offsetOf_fits {v1 v2 : Int} (hlo : -32768 ≤ v1 - v2) (hhi : v1 - v2 ≤ 32767) : offsetOf v1 v2 = v1 - v2 := by
  have hc : clipS 16 (v1 - v2) = false := by
    unfold clipS
    rw [satS_of_fits hlo hhi, bne_self_eq_false]
  unfold offsetOf
  rw [hc]
  rfl

/-- R404: a gain that its entry holds is the quotient. -/
theorem gainOf_fits {uv zero ref : Int} (h : zero < ref) (hlo : 0 ≤ rhe (2 ^ 22 * uv) (ref - zero).toNat)
    (hhi : rhe (2 ^ 22 * uv) (ref - zero).toNat < 2 ^ 24) : gainOf uv zero ref = rhe (2 ^ 22 * uv) (ref - zero).toNat := by
  unfold gainOf
  refine if_neg ?_
  simp only [Bool.or_eq_true, decide_eq_true_eq, not_or]
  exact ⟨⟨by omega, Int.not_lt.2 hlo⟩, Int.not_le.2 hhi⟩

/-! ### The marks of CAL_STAT -/

/-- A bit of a field that has been set reads as 1. -/
theorem Side.bitAt_orBit (x : Side) (f : Fld) (i : Nat) (h : f.lo ≤ f.hi ∧ f.hi < 36) (hi : i < f.hi + 1 - f.lo) :
    bitAt ((x.orBit f i).get f) i = true := by
  unfold Side.orBit
  split
  case isTrue hb => exact hb
  case isFalse hb =>
    rw [bitAt_eq_testBit, Bool.not_eq_true] at hb
    rw [bitAt_eq_testBit, Side.get_set x f _ h.1 h.2, Nat.testBit_mod_two_pow, decide_eq_true hi, Bool.true_and, Nat.add_comm,
      Nat.testBit_two_pow_add_eq, hb, Bool.not_false]

/-- One side differs from another in CAL_STAT alone. -/
structure Side.statOf (x y : Side) : Prop where
  regs : x.regsOf y
  reg : ∀ i, i ≠ CAL_STAT.whole.idx → y.reg i = x.reg i

theorem Side.statOf_refl (x : Side) : x.statOf x := ⟨x.regsOf_refl, fun _ _ => rfl⟩

theorem Side.statOf_set {x y : Side} (h : x.statOf y) (f : Fld) (v : Nat) (hf : f.idx = CAL_STAT.whole.idx) : x.statOf (y.set f v) :=
  ⟨Side.regsOf_set h.regs f v, fun i hi => (Side.reg_set_ne y f v i (hf ▸ hi)).trans (h.reg i hi)⟩

theorem Side.statOf_orBit {x y : Side} (h : x.statOf y) (f : Fld) (i : Nat) (hf : f.idx = CAL_STAT.whole.idx) : x.statOf (y.orBit f i) := by
  unfold Side.orBit
  split
  · exact h
  · exact Side.statOf_set h f _ hf

theorem Side.statOf_andNotBit {x y : Side} (h : x.statOf y) (f : Fld) (i : Nat) (hf : f.idx = CAL_STAT.whole.idx) : x.statOf (y.andNotBit f i) := by
  unfold Side.andNotBit
  split
  · exact Side.statOf_set h f _ hf
  · exact h

/-- An item's end is marked in CAL_STAT alone. -/
theorem Side.statOf_calMark (x : Side) (item : Nat) (dis fault any : Bool) : x.statOf (x.calMark item dis fault any) := by
  have hif : ∀ (y : Side) (b : Bool) (f : Fld), f.idx = CAL_STAT.whole.idx → x.statOf y → x.statOf (if b then y.orBit f item else y) := by
    intro y b f hf h
    split
    · exact Side.statOf_orBit h f item hf
    · exact h
  have hend : ∀ (y : Side) (b : Bool), x.statOf y → x.statOf
      (if b then ((y.orBit CAL_STAT.VALID item).andNotBit CAL_STAT.RESTORED item).andNotBit CAL_STAT.EDITED item else y) := by
    intro y b h
    split
    · have hv := Side.statOf_orBit h CAL_STAT.VALID item rfl
      exact Side.statOf_andNotBit (Side.statOf_andNotBit hv CAL_STAT.RESTORED item rfl) CAL_STAT.EDITED item rfl
    · exact h
  exact hend _ _ (hif _ fault CAL_STAT.FAULT rfl (hif _ dis CAL_STAT.DISAGREE rfl x.statOf_refl))

theorem Side.calMark_valid (x : Side) (item : Nat) (h : item < 5) : bitAt ((x.calMark item false false true).get CAL_STAT.VALID) item = true := by
  show bitAt ((((x.orBit CAL_STAT.VALID item).andNotBit CAL_STAT.RESTORED item).andNotBit CAL_STAT.EDITED item).get CAL_STAT.VALID) item = true
  rw [Side.get_andNotBit_apart _ _ _ _ (by decide), Side.get_andNotBit_apart _ _ _ _ (by decide), Side.bitAt_orBit _ _ _ (by decide) h]

theorem Side.calMark_disagree (x : Side) (item : Nat) (any : Bool) (h : item < 5) :
    bitAt ((x.calMark item true false any).get CAL_STAT.DISAGREE) item = true := Side.bitAt_orBit x _ _ (by decide) h

theorem Side.calMark_fault (x : Side) (item : Nat) (any : Bool) (h : item < 5) :
    bitAt ((x.calMark item false true any).get CAL_STAT.FAULT) item = true := Side.bitAt_orBit x _ _ (by decide) h

/-! ### Installing one entry (R397) -/

/-- What an item has staged, replaced. -/
def Side.withStaged (x : Side) (l : List (Nat × List (Nat × Word))) : Side := { x with cal := { x.cal with staged := l } }

theorem Side.calStage_nil {x : Side} {item : Nat} (h : x.calStaged item = []) : x.calStage item [] = x.withStaged (adel x.cal.staged item) := by
  unfold Side.calStage
  rw [h]
  rfl

theorem Side.calStage_one {x : Side} {item : Nat} (h : x.calStaged item = []) (p : Nat × Word) :
    x.calStage item [p] = x.withStaged (aput x.cal.staged item [p]) := by
  unfold Side.calStage
  rw [h]
  rfl

theorem Side.calStaged_put (x : Side) (item : Nat) (l : List (Nat × Word)) : (x.withStaged (aput x.cal.staged item l)).calStaged item = l := by
  unfold Side.calStaged Side.withStaged
  rw [aget_aput_self]
  rfl

theorem Side.calStaged_del {x : Side} (h : asorted x.cal.staged = true) (item : Nat) : (x.withStaged (adel x.cal.staged item)).calStaged item = [] := by
  unfold Side.calStaged Side.withStaged
  rw [aget_adel_self _ _ h]
  rfl

/-- A side with a value of an item in the store, and staged for its boundary. -/
def Side.calInstalled (x : Side) (item idx : Nat) (w : Word) : Side := (x.setReg idx w).withStaged (aput x.cal.staged item [(idx, w)])

theorem Side.calStaged_installed (x : Side) (item idx : Nat) (w : Word) : (x.calInstalled item idx w).calStaged item = [(idx, w)] :=
  Side.calStaged_put (x.setReg idx w) item [(idx, w)]

section
variable {x : Side} {item idx : Nat} {v1 v2 : Int} (hs : x.calStaged item = [])
include hs

theorem Side.calInstall_agreed (h : calAgree item idx v1 v2 = true) : x.calInstall item [(idx, v1, v2)]
    = (x.calInstalled item idx (calValue item v1 v2), false, true) := by
  unfold Side.calInstall
  simp only [List.filter_cons, List.filter_nil, h, Bool.not_true, Bool.false_eq_true, if_false, List.map_nil]
  exact congrArg (·, _) (Side.calStage_one (x := x.setReg idx (calValue item v1 v2)) hs _)

theorem Side.calInstall_disagreed (h : calAgree item idx v1 v2 = false) : x.calInstall item [(idx, v1, v2)]
    = (x.withStaged (adel x.cal.staged item), true, false) := by
  unfold Side.calInstall
  simp only [List.filter_cons, List.filter_nil, h, Bool.not_false, if_true, List.map_cons, List.map_nil, dedup, List.foldl_cons, List.foldl_nil,
    List.contains_nil, Bool.false_eq_true, if_false, List.nil_append, List.contains_cons, beq_self_eq_true, Bool.true_or, Bool.not_true]
  exact congrArg (·, _) (Side.calStage_nil hs)

end

/-! ### The end of an item -/

/-- The job once an item has ended, which awaits it where values are staged. -/
def CalJob.ended (j : CalJob) (item : Nat) (idle dis fault any : Bool) : CalJob := { j with
  left := j.left.drop 1
  waiting := if idle then j.waiting else j.waiting ++ [item]
  installed := if !dis && !fault && any then j.installed + 2 ^ item else j.installed
  disagreed := if dis then j.disagreed + 2 ^ item else j.disagreed
  faulted := if fault then j.faulted + 2 ^ item else j.faulted
  second := false, late := [] }

theorem Side.calEnd_eq {x : Side} {j : CalJob} (hj : x.cal.job = some j) (item : Nat) (dis fault any : Bool) : ∃ mn, x.calEnd item dis fault any
    = { (x.calMark item dis fault any).setCalJob (j.ended item (x.calStaged item).isEmpty dis fault any) with mon := mn } := by
  obtain ⟨r, hr⟩ := (x.statOf_calMark item dis fault any).regs
  have hst : (x.calMark item dis fault any).calStaged item = x.calStaged item := by rw [hr]; rfl
  unfold Side.calEnd
  rw [hj]
  dsimp only
  rw [hst]
  split
  · exact ⟨_, rfl⟩
  · exact ⟨_, rfl⟩

/-- The end of an item, by what its end shows: registers but for CAL_STAT, and values in force, are left. -/
structure Side.calEnded (x y : Side) (j : CalJob) (item : Nat) (idle dis fault any : Bool) : Prop where
  reg : ∀ i, i ≠ CAL_STAT.whole.idx → y.reg i = x.reg i
  mark : ∀ f, y.get f = (x.calMark item dis fault any).get f
  cal : y.cal = { x.cal with job := some (j.ended item idle dis fault any) }

theorem Side.calEnd_ended {x : Side} {j : CalJob} (hj : x.cal.job = some j) (item : Nat) (dis fault any : Bool) :
    x.calEnded (x.calEnd item dis fault any) j item (x.calStaged item).isEmpty dis fault any := by
  obtain ⟨mn, he⟩ := Side.calEnd_eq hj item dis fault any
  have hst := x.statOf_calMark item dis fault any
  obtain ⟨r, hr⟩ := hst.regs
  rw [he]
  refine ⟨fun i hi => ?_, fun f => Side.get_congr rfl rfl rfl f, ?_⟩
  · exact (Side.reg_of_regs _ _ rfl rfl rfl i).trans (hst.reg i hi)
  · unfold Side.setCalJob
    rw [hr]

theorem Side.setCalJob_ended (x : Side) (j : CalJob) (item : Nat) (dis fault any : Bool) :
    (x.setCalJob j).calEnded ((x.setCalJob j).calEnd item dis fault any) j item (x.calStaged item).isEmpty dis fault any :=
  Side.calEnd_ended rfl item dis fault any

end Sys2Proof.Machine
end

section
/-! PROOFS. The commands of calibration (R182, R396 to R401, R407): items, boundaries, and what is left out. -/

namespace Sys2Proof.Machine

/-- A job with an item left to run, or to bring into force, is as it is. -/
theorem State.calGoOn_busy {s : State} {sd : SideId} {j : CalJob} (hj : (s.side sd).cal.job = some j) (hb : j.left ≠ [] ∨ j.waiting ≠ []) :
    s.calGoOn sd = s := State.calSettle_busy hj hb _

/-! ### The first half of item 0 (R182, R401) -/

theorem mem_dedup_of_mem {α : Type} [DecidableEq α] {l : List α} {a : α} (h : a ∈ l) : a ∈ dedup l := by
  have hfold : ∀ (l acc : List α), a ∈ acc ∨ a ∈ l → a ∈ l.foldl (fun acc x => if acc.contains x then acc else acc ++ [x]) acc := by
    intro l
    induction l with
    | nil => intro acc h; exact h.resolve_right (by simp)
    | cons b r ih =>
      intro acc h
      refine ih _ ?_
      beta_reduce
      by_cases hb : acc.contains b = true
      · rw [if_pos hb]
        rcases h with h | h
        · exact .inl h
        · exact (List.mem_cons.1 h).imp (fun e => by rw [e]; simpa using hb) id
      · rw [if_neg hb]
        rcases h with h | h
        · exact .inl (List.mem_append_left _ h)
        · exact (List.mem_cons.1 h).imp (fun e => by rw [e]; simp) id
  exact hfold l [] (.inr h)

/-- Swaps requested of a list of inputs. -/
theorem Side.reqSwaps_eq (l : List Nat) : ∀ x : Side, ∃ q, l.foldl (fun x src => x.reqSwap src) x = { x with split := { x.split with swapReq := q } }
    ∧ ∀ a, a ∈ x.split.swapReq ∨ a ∈ l → a ∈ q := by
  induction l with
  | nil => exact fun x => ⟨x.split.swapReq, rfl, fun a h => h.resolve_right (by simp)⟩
  | cons b r ih =>
    intro x
    obtain ⟨q, hq, hmem⟩ := ih (x.reqSwap b)
    refine ⟨q, hq, fun a h => hmem a ?_⟩
    rcases h with h | h
    · exact .inl (mem_dedup_of_mem (List.mem_append_left _ h))
    · exact (List.mem_cons.1 h).imp (fun e => mem_dedup_of_mem (by rw [e]; simp)) id

/-- R397: item 0 runs while PLL-T is locked. -/
theorem Side.calFaults_taps {x : Side} (h : x.on PLL_STAT.T_LOCK = true) : x.calFaults 0 0 false = false := by
  unfold Side.calFaults
  simp [h]

/-- The first half of item 0 requests every swap, and goes on to the second. -/
theorem Side.calTaps_first {x : Side} {j : CalJob} (hl : x.on PLL_STAT.T_LOCK = true) (h2 : j.second = false) (runs : CalRuns) :
    (x.calTaps j runs).cal.swaps = List.range 8 ∧ (∀ src < 8, src ∈ (x.calTaps j runs).split.swapReq)
      ∧ ∃ d, (x.calTaps j runs).cal.job = some { j with second := true, disagreed := d } := by
  unfold Side.calTaps
  simp only [Side.calFaults_taps hl, h2, Bool.false_and, Bool.false_eq_true, if_false, Bool.not_false, if_true]
  generalize (x.calInstall 0 ((x.calEntries 0 runs).filter (fun e => x.calUsable 0 j false e.1))) = r
  generalize hy : ({ (r.1.calBring 0 (fun q => r.1.unitIdle (calUnit q))).setCalJob
    { j with second := true, disagreed := if r.2.1 = true then j.disagreed + 1 else j.disagreed } with cal := _ } : Side) = y
  obtain ⟨q, hq, hmem⟩ := Side.reqSwaps_eq (List.range 8) y
  rw [hq, ← hy]
  exact ⟨rfl, fun src h => hmem src (.inr (List.mem_range.2 h)), _, rfl⟩

section
variable {s : State} {sd : SideId} {runs : CalRuns} {j : CalJob}

theorem State.calItemDone_idle {m : Nat} (hj : (s.side sd).cal.job = none) : s.calItemDone sd m runs = s := by
  unfold State.calItemDone
  dsimp only
  rw [hj]

theorem State.calItemDone_other {m : Nat} (hj : (s.side sd).cal.job = some j) (h : j.left.head? ≠ some m) : s.calItemDone sd m runs = s := by
  unfold State.calItemDone
  dsimp only
  rw [hj]
  exact if_pos (bne_iff_ne.2 h)

theorem State.calItemDone_taps {l : List Nat} (hj : (s.side sd).cal.job = some j) (hl : j.left = 0 :: l) :
    s.calItemDone sd 0 runs = (s.setSide sd ((s.side sd).calTaps j runs)).calGoOn sd := by
  unfold State.calItemDone
  dsimp only
  rw [hj]
  refine (if_neg ?_).trans rfl
  simp [hl]

/-! ### The other items (R396, R397) -/

/-- The job with the outputs that item 2 leaves out, which are live (R397). -/
def Side.itemJob (x : Side) (m : Nat) (j : CalJob) : CalJob := { j with
  splitOut := Nat.lor j.splitOut 0, toneOut := Nat.lor j.toneOut (maskN 2 (fun o => m == 2 && x.on (TONE_STAT.LIVE o))) }

/-- A side at the end of an item after the second in number: its values installed where both runs agree. -/
def Side.calItemEnds (x : Side) (m : Nat) (j : CalJob) (runs : CalRuns) : Side :=
  if x.calFaults m runs.refv.toInt (bitAt j.faulted 3) then x.calEnd m false true false
  else
    let r := x.calInstall m ((x.calEntries m runs).filter (fun e => x.calUsable m j false e.1))
    (r.1.setCalJob (x.itemJob m j)).calEnd m r.2.1 false r.2.2

theorem State.calItemDone_ends {m : Nat} {l : List Nat} (hm : 2 ≤ m) (hj : (s.side sd).cal.job = some j) (hl : j.left = m :: l) :
    s.calItemDone sd m runs = (s.setSide sd ((s.side sd).calItemEnds m j runs)).calGoOn sd := by
  have hskip : maskN 4 (fun i => m == 1 && (s.side sd).get (SPLIT_IN_CFG.SLOPE i) != 0) = 0 := by
    have h1 : (m == 1) = false := beq_eq_false_iff_ne.2 (by omega)
    simp only [h1, Bool.false_and]
    rfl
  have h0 : (m == 0) = false := beq_eq_false_iff_ne.2 (by omega)
  unfold State.calItemDone
  dsimp only
  rw [hj]
  refine (if_neg (by simp [hl])).trans ?_
  simp only [h0, hskip, Bool.false_eq_true, if_false]
  rfl

/-- An item that ends with another left to run leaves the job in progress. -/
theorem execCalItemDone_ends {item : Fin 5} {k : Nat} {l : List Nat} {x' : Side} {j' : CalJob} {idle dis fault any : Bool} (hm : 2 ≤ item.val)
    (hj : (s.side sd).cal.job = some j) (hl : j.left = item.val :: k :: l)
    (he : x'.calEnded ((s.side sd).calItemEnds item.val j runs) j' item.val idle dis fault any) (hl' : j'.left = j.left) :
    exec (.calItemDone sd item runs) s = .next (s.setSide sd ((s.side sd).calItemEnds item.val j runs)) := by
  show Host.Outcome.next (s.calItemDone sd item.val runs) = _
  rw [State.calItemDone_ends hm hj hl, State.calGoOn_busy (j := j'.ended item.val idle dis fault any)]
  · rw [State.side_setSide, he.cal]
  · left
    show j'.left.drop 1 ≠ []
    rw [hl', hl]
    exact List.cons_ne_nil k l

end

/-- CAL_STAT is no entry of the store. -/
theorem Side.ne_stat_of_usable {x : Side} {m idx : Nat} {j : CalJob} {init : Bool} (h : x.calUsable m j init idx = true) :
    idx ≠ CAL_STAT.whole.idx := by
  have hitem : calItemOf idx = some m := by
    unfold Side.calUsable at h
    exact beq_iff_eq.1 (Bool.and_eq_true_iff.1 h).1
  rintro rfl
  exact absurd hitem (by simp [show calItemOf CAL_STAT.whole.idx = none from by decide])

section
variable {x : Side} {m idx : Nat} {v1 v2 : Int} {runs : CalRuns} {j : CalJob} (hs : x.calStaged m = [])
include hs

theorem Side.calItemEnds_faulted (hj : x.cal.job = some j) (hf : x.calFaults m runs.refv.toInt (bitAt j.faulted 3) = true) :
    x.calEnded (x.calItemEnds m j runs) j m true false true false := by
  unfold Side.calItemEnds
  rw [if_pos hf]
  have h := Side.calEnd_ended hj m false true false
  rwa [hs] at h

variable (hf : x.calFaults m runs.refv.toInt (bitAt j.faulted 3) = false) (he : x.calEntries m runs = [(idx, v1, v2)])
  (hu : x.calUsable m j false idx = true)
include hf he hu

theorem Side.calItemEnds_agreed (ha : calAgree m idx v1 v2 = true) :
    ((x.calInstalled m idx (calValue m v1 v2)).setCalJob (x.itemJob m j)).calEnded (x.calItemEnds m j runs) (x.itemJob m j) m false false false true := by
  unfold Side.calItemEnds
  simp only [hf, he, List.filter_cons, List.filter_nil, hu, if_true, Bool.false_eq_true, if_false, Side.calInstall_agreed hs ha]
  have h := (x.calInstalled m idx (calValue m v1 v2)).setCalJob_ended (x.itemJob m j) m false false true
  rwa [Side.calStaged_installed] at h

theorem Side.calItemEnds_disagreed (hsort : asorted x.cal.staged = true) (ha : calAgree m idx v1 v2 = false) :
    ((x.withStaged (adel x.cal.staged m)).setCalJob (x.itemJob m j)).calEnded (x.calItemEnds m j runs) (x.itemJob m j) m true true false false := by
  unfold Side.calItemEnds
  simp only [hf, he, List.filter_cons, List.filter_nil, hu, if_true, Bool.false_eq_true, if_false, Side.calInstall_disagreed hs ha]
  have h := (x.withStaged (adel x.cal.staged m)).setCalJob_ended (x.itemJob m j) m true false false
  rwa [Side.calStaged_del hsort] at h

end

section
variable {s : State} {sd : SideId} {item : Fin 5} {runs : CalRuns} {j : CalJob} {k idx : Nat} {l : List Nat} {v1 v2 : Int}
  (hj : (s.side sd).cal.job = some j) (hl : j.left = item.val :: k :: l) (hm : 2 ≤ item.val) (hs : (s.side sd).calStaged item.val = [])
  (hu : (s.side sd).calUsable item.val j false idx = true)
include hj hl hm hs hu

/-- R397: an item that cannot run leaves its entry, and is marked. -/
theorem calItemDone_faulted (hf : (s.side sd).calFaults item.val runs.refv.toInt (bitAt j.faulted 3) = true) :
    Does (.calItemDone sd item runs) s (fun t =>
      (t.side sd).reg idx = (s.side sd).reg idx ∧ bitAt ((t.side sd).get CAL_STAT.FAULT) item.val = true
        ∧ (t.side sd).cal.force = (s.side sd).cal.force
        ∧ ∃ j', (t.side sd).cal.job = some j' ∧ j'.left = k :: l ∧ j'.waiting = j.waiting ∧ j'.faulted = j.faulted + 2 ^ item.val) := by
  have he := Side.calItemEnds_faulted hs hj hf
  refine ⟨_, execCalItemDone_ends hm hj hl he rfl, ?_⟩
  beta_reduce
  rw [State.side_setSide, he.reg idx (Side.ne_stat_of_usable hu), he.mark, he.cal]
  exact ⟨rfl, Side.calMark_fault _ _ _ item.isLt, rfl, _, rfl, congrArg (List.drop 1) hl, rfl, rfl⟩

variable (he : (s.side sd).calEntries item.val runs = [(idx, v1, v2)])
  (hf : (s.side sd).calFaults item.val runs.refv.toInt (bitAt j.faulted 3) = false)
include he hf

/-- R397: runs that agree install the entry and stage it. -/
theorem calItemDone_agreed (ha : calAgree item.val idx v1 v2 = true) : Does (.calItemDone sd item runs) s (fun t =>
    (t.side sd).reg idx = calValue item.val v1 v2 ∧ (t.side sd).calStaged item.val = [(idx, calValue item.val v1 v2)]
      ∧ bitAt ((t.side sd).get CAL_STAT.VALID) item.val = true ∧ (t.side sd).cal.force = (s.side sd).cal.force
      ∧ ∃ j', (t.side sd).cal.job = some j' ∧ j'.left = k :: l ∧ j'.waiting = j.waiting ++ [item.val]
        ∧ j'.installed = j.installed + 2 ^ item.val ∧ j'.disagreed = j.disagreed ∧ j'.faulted = j.faulted) := by
  have hend := Side.calItemEnds_agreed hs hf he hu ha
  refine ⟨_, execCalItemDone_ends hm hj hl hend rfl, ?_⟩
  beta_reduce
  unfold Side.calStaged
  rw [State.side_setSide, hend.reg idx (Side.ne_stat_of_usable hu), hend.mark, hend.cal]
  exact ⟨Side.reg_setReg .., Side.calStaged_installed .., Side.calMark_valid _ _ item.isLt, rfl, _, rfl, congrArg (List.drop 1) hl, rfl, rfl, rfl, rfl⟩

/-- R397: runs that disagree leave the entry, and are marked. -/
theorem calItemDone_disagreed (hsort : asorted (s.side sd).cal.staged = true) (ha : calAgree item.val idx v1 v2 = false) :
    Does (.calItemDone sd item runs) s (fun t =>
      (t.side sd).reg idx = (s.side sd).reg idx ∧ bitAt ((t.side sd).get CAL_STAT.DISAGREE) item.val = true
        ∧ (t.side sd).cal.force = (s.side sd).cal.force
        ∧ ∃ j', (t.side sd).cal.job = some j' ∧ j'.left = k :: l ∧ j'.waiting = j.waiting ∧ j'.disagreed = j.disagreed + 2 ^ item.val) := by
  have hend := Side.calItemEnds_disagreed hs hf he hu hsort ha
  refine ⟨_, execCalItemDone_ends hm hj hl hend rfl, ?_⟩
  beta_reduce
  rw [State.side_setSide, hend.reg idx (Side.ne_stat_of_usable hu), hend.mark, hend.cal]
  exact ⟨rfl, Side.calMark_disagree _ _ _ item.isLt, rfl, _, rfl, congrArg (List.drop 1) hl, rfl, rfl⟩

end

end Sys2Proof.Machine
end

section
/-! PROOFS. Calibration (R182, R396 to R401, R407): boundaries and timeouts, and the family of items. -/

namespace Sys2Proof.Machine

section
variable {s : State} {sd : SideId} {item : Fin 5}

/-! ### CAL_APPLY (R398, R400) -/

/-- An item's one staged value, brought into force. -/
theorem Side.calBring_one {x : Side} {m idx : Nat} {v : Word} {p : Nat → Bool} (hm : m ≠ 0) (hs : x.calStaged m = [(idx, v)]) (hp : p idx = true) :
    x.calBring m p = (x.calPut (idx, v)).withStaged (adel x.cal.staged m) := by
  have h0 : (m == 0) = false := beq_eq_false_iff_ne.2 hm
  unfold Side.calBring
  simp only [hs, List.filter_cons, List.filter_nil, hp, if_true, Bool.not_true, Bool.false_eq_true, if_false, List.foldl_cons, List.foldl_nil,
    List.isEmpty_nil, h0, Bool.false_and]
  rfl

theorem Side.calForce_calPut (x : Side) (idx : Nat) (v : Word) (l : List (Nat × List (Nat × Word))) :
    ((x.calPut (idx, v)).withStaged l).calForce idx = v := by
  unfold Side.calForce Side.withStaged Side.calPut
  simp only [aget_aput_self]

theorem calApply_brings {idx : Nat} {v : Word} (hj : (s.side sd).cal.job = none) (hd : ∀ d ∈ (s.side sd).host.staged, d.op ≠ 0x30 ∧ d.op ≠ 0x31)
    (hs : (s.side sd).calStaged item.val = [(idx, v)]) (hm : item.val ≠ 0) (hsort : asorted (s.side sd).cal.staged = true) :
    Does (.calApply sd item) s (fun t => (t.side sd).calForce idx = v ∧ (t.side sd).calStaged item.val = [] ∧ (t.side sd).regs = (s.side sd).regs) := by
  have hbring : (s.side sd).calBring item.val (fun r => item.val != 0 || calUnit r == 16 || (s.side sd).unitIdle (calUnit r))
      = ((s.side sd).calPut (idx, v)).withStaged (adel (s.side sd).cal.staged item.val) := Side.calBring_one hm hs (by simp [hm])
  have hgo : exec (.calApply sd item) s
      = .next (s.setSide sd (((s.side sd).calPut (idx, v)).withStaged (adel (s.side sd).cal.staged item.val))) := by
    show execCalApply sd item s = _
    unfold execCalApply State.mod
    dsimp only
    rw [hbring, Side.calArrived_idle (x := ((s.side sd).calPut (idx, v)).withStaged (adel (s.side sd).cal.staged item.val)) _ hj, State.calGoOn_idle]
    · rw [State.side_setSide]
      exact hj
    · rw [State.side_setSide]
      exact hd
  refine ⟨_, hgo, ?_⟩
  beta_reduce
  rw [State.side_setSide]
  exact ⟨Side.calForce_calPut .., Side.calStaged_del (x := (s.side sd).calPut (idx, v)) hsort item.val, rfl⟩

/-! ### CAL_RESTORE_TIMEOUT (R407) -/

section
variable {j : CalJob} {k : Nat} (hj : (s.side sd).cal.job = some j) (hr : j.restore = true) (hk : k ∈ j.waiting)
include hj hr hk

theorem calRestoreTimeout_leaves (hne : k ≠ item.val) (hm : item.val ∈ j.waiting) : Does (.calRestoreTimeout sd item) s (fun t =>
    (t.side sd).cal = { (s.side sd).cal with
      job := some { j with waiting := j.waiting.filter (· != item.val), faulted := j.faulted + 2 ^ item.val } }
      ∧ t.side sd.other = s.side sd.other) := by
  have hgo : exec (.calRestoreTimeout sd item) s = .next ((s.setSide sd ((s.side sd).setCalJob
      { j with waiting := j.waiting.filter (· != item.val), faulted := j.faulted + 2 ^ item.val })).calGoOn sd) := by
    show execCalRestoreTimeout sd item s = _
    unfold execCalRestoreTimeout State.mod
    simp only [hj, hr, List.contains_iff_mem.2 hm, Bool.and_self, if_true]
  refine ⟨_, hgo, ?_⟩
  beta_reduce
  rw [State.calGoOn_busy (by rw [State.side_setSide]; rfl), State.side_setSide, State.side_setSide_other]
  · exact ⟨rfl, rfl⟩
  · exact .inr (List.ne_nil_of_mem (List.mem_filter.2 ⟨hk, bne_iff_ne.2 hne⟩))

theorem execCalRestoreTimeout_stays (hm : item.val ∉ j.waiting) : exec (.calRestoreTimeout sd item) s = .next s := by
  have hc : j.waiting.contains item.val = false := Bool.eq_false_iff.2 (fun h => hm (List.contains_iff_mem.1 h))
  show execCalRestoreTimeout sd item s = _
  unfold execCalRestoreTimeout State.mod
  simp only [hj, hr, hc, Bool.and_false, Bool.false_eq_true, if_false, State.setSide_self]
  rw [State.calGoOn_busy hj (.inr (List.ne_nil_of_mem hk))]

end

/-! ### CAL_SWAP_TIMEOUT (R401) -/

section
variable {src : Fin 8}

theorem execCalSwapTimeout_idle (hj : (s.side sd).cal.job = none) : exec (.calSwapTimeout sd src) s = .next s := by
  show execCalSwapTimeout sd src s = _
  unfold execCalSwapTimeout State.mod
  simp only [hj, State.setSide_self]

variable {j : CalJob} (hj : (s.side sd).cal.job = some j)
include hj

theorem execCalSwapTimeout_late (h : src.val ∈ (s.side sd).cal.swaps) : exec (.calSwapTimeout sd src) s = .next (s.mod sd (fun x => { x with
    split := { x.split with swapReq := x.split.swapReq.filter (· != src.val) }
    cal := { x.cal with swaps := x.cal.swaps.filter (· != src.val), job := some { j with late := j.late ++ [src.val] } } })) := by
  show execCalSwapTimeout sd src s = _
  unfold execCalSwapTimeout
  refine congrArg Host.Outcome.next (State.mod_congr ?_)
  simp only [hj, List.contains_iff_mem.2 h, if_true]
  rfl

theorem execCalSwapTimeout_stays (h : src.val ∉ (s.side sd).cal.swaps) : exec (.calSwapTimeout sd src) s = .next s := by
  have hc : (s.side sd).cal.swaps.contains src.val = false := Bool.eq_false_iff.2 (fun e => h (List.contains_iff_mem.1 e))
  show execCalSwapTimeout sd src s = _
  unfold execCalSwapTimeout State.mod
  simp only [hj, hc, Bool.false_eq_true, if_false, State.setSide_self]

end

/-- R182, R401: the first half of item 0. -/
theorem calItemDone_taps {runs : CalRuns} {j : CalJob} {l : List Nat} (hj : (s.side sd).cal.job = some j) (hm : item.val = 0) (hl : j.left = 0 :: l)
    (h2 : j.second = false) (hlock : (s.side sd).on PLL_STAT.T_LOCK = true) : Does (.calItemDone sd item runs) s (fun t =>
      (t.side sd).cal.swaps = List.range 8 ∧ (∀ src < 8, src ∈ (t.side sd).split.swapReq)
        ∧ ∃ j', (t.side sd).cal.job = some j' ∧ j'.second = true ∧ j'.left = j.left ∧ j'.installed = j.installed ∧ j'.faulted = j.faulted) := by
  obtain ⟨hsw, hreq, d, hjob⟩ := Side.calTaps_first hlock h2 runs
  have hgo : exec (.calItemDone sd item runs) s = .next (s.setSide sd ((s.side sd).calTaps j runs)) := by
    show Host.Outcome.next (s.calItemDone sd item.val runs) = _
    rw [hm, State.calItemDone_taps hj hl, State.calGoOn_busy (by rw [State.side_setSide]; exact hjob)]
    exact .inl (hl ▸ List.cons_ne_nil 0 l)
  refine ⟨_, hgo, ?_⟩
  beta_reduce
  rw [State.side_setSide]
  exact ⟨hsw, hreq, _, hjob, rfl, rfl, rfl, rfl⟩

end

/-- Settles O45: what runs measure; an item by its number, and by whether it can run and its runs agree; boundaries and timeouts by what waits. -/
theorem calibrationItems : Obligations.CalibrationItems := by
  unfold Obligations.CalibrationItems
  intro s sd item src runs j l idx k v1 v2 v x m faulted
  have hexec : ∀ {u : State}, s.calItemDone sd m runs = u → exec (.calItemDone sd item runs) s = .next u := congrArg Host.Outcome.next
  refine ⟨fun ns t => ?_, offsetOf_fits, fun zero ref => gainOf_fits, fun hj => ⟨hexec (State.calItemDone_idle hj), execCalSwapTimeout_idle hj⟩,
    fun hj h => hexec (State.calItemDone_other hj h), calItemDone_taps, fun hj hl hm he hu hs hsort => ⟨fun hf ha => ?_, fun hf ha => ?_, fun hf => ?_⟩,
    calApply_brings, fun hj hr _ hk hne hm => calRestoreTimeout_leaves hj hr hk hne hm, fun hj hr _ hk hm => execCalRestoreTimeout_stays hj hr hk hm,
    execCalSwapTimeout_late, execCalSwapTimeout_stays⟩
  · have h := fineOf_get ns 0 t.val t.isLt
    rwa [Nat.zero_add] at h
  · exact calItemDone_agreed hj hl hm hs hu he hf ha
  · exact calItemDone_disagreed hj hl hm hs hu he hf hsort ha
  · exact calItemDone_faulted hj hl hm hs hu hf

end Sys2Proof.Machine
end

section
/-! PROOFS. Instants of the Starter (R198 to R200): bits of masks, the slot that BITMAP makes win, and what an instant finds latched. -/

namespace Sys2Proof.Machine

/-! ### Masks of bits -/

theorem maskN_succ (n : Nat) (f : Nat → Bool) : maskN (n + 1) f = 2 ^ n * b2n (f n) + maskN n f := by
  unfold maskN sumN
  rw [List.range_succ, List.foldl_append, List.foldl_cons, List.foldl_nil, Nat.add_comm]
  cases hf : f n <;> simp [b2n, hf]

theorem maskN_lt (n : Nat) (f : Nat → Bool) : maskN n f < 2 ^ n := by
  induction n with
  | zero => exact Nat.one_pos
  | succ n ih =>
    rw [maskN_succ, Nat.pow_succ]
    cases f n <;> simp only [b2n, if_true, if_false, Bool.false_eq_true] <;> omega

theorem bitAt_maskN {n i : Nat} (f : Nat → Bool) (h : i < n) : bitAt (maskN n f) i = f i := by
  rw [bitAt_eq_testBit]
  induction n with
  | zero => exact absurd h (Nat.not_lt_zero i)
  | succ n ih =>
    rw [maskN_succ, Nat.testBit_two_pow_mul_add _ (maskN_lt n f)]
    split
    · next hi => exact ih hi
    · next hi =>
      obtain rfl : i = n := by omega
      cases f i <;> simp [b2n]

theorem bitAt_zero (i : Nat) : bitAt 0 i = false := by rw [bitAt_eq_testBit, Nat.zero_testBit]

/-- The bits of a field that is zero are clear. -/
theorem bitAt_of_bitsOf_zero {w hi lo i : Nat} (h : bitsOf w hi lo = 0) (hl : lo ≤ i) (hh : i ≤ hi) : bitAt w i = false := by
  have e := testBit_bitsOf w hi lo (i - lo)
  rw [h, Nat.zero_testBit, Nat.add_sub_cancel' hl, decide_eq_true (by omega), Bool.true_and] at e
  rw [bitAt_eq_testBit, ← e]

/-! ### The slot that wins (R198) -/

/-- R198: slot n of a state is enabled, and its condition is among the occurrences. -/
def slotHolds (b : List Word) (occ : List Occ) (state n : Nat) : Bool := stEn b state n && occ.any (matchOcc (stCond b state n))

theorem slotHolds_iff (b : List Word) (occ : List Occ) (state n : Nat) :
    slotHolds b occ state n = true ↔ stEn b state n = true ∧ occ.any (matchOcc (stCond b state n)) = true := by
  unfold slotHolds
  rw [Bool.and_eq_true]

theorem bitAt_bitmapOf (b : List Word) (occ : List Occ) {state n : Nat} (hs : state < 8) (hn : n < 4) :
    bitAt (bitmapOf b occ) (4 * state + n) = slotHolds b occ state n := by
  unfold bitmapOf
  rw [bitAt_maskN _ (by omega), show (4 * state + n) / 4 = state by omega, show (4 * state + n) % 4 = n by omega]
  rfl

/-- The slot of a state that BITMAP makes win. -/
def slotWon (b : List Word) (occ : List Occ) (state : Nat) : Option Nat :=
  (List.range 4).find? (fun n => bitAt (bitmapOf b occ) (4 * state + n))

theorem slotWon_none {b : List Word} {occ : List Occ} {state : Nat} (hs : state < 8) (h : ∀ n < 4, slotHolds b occ state n = false) :
    slotWon b occ state = none := by
  refine List.find?_eq_none.2 (fun n hn => ?_)
  have hn := List.mem_range.1 hn
  rw [bitAt_bitmapOf b occ hs hn, h n hn]
  decide

/-- The lowest slot that holds wins. -/
theorem slotWon_lowest {b : List Word} {occ : List Occ} {state n : Nat} (hs : state < 8) (hn : n < 4) (h : slotHolds b occ state n = true)
    (hl : ∀ j < n, slotHolds b occ state j = false) : slotWon b occ state = some n := by
  refine List.find?_range_eq_some.2 ⟨?_, List.mem_range.2 hn, fun j hj => ?_⟩
  · rw [bitAt_bitmapOf b occ hs hn, h]
  · rw [bitAt_bitmapOf b occ hs (hj.trans hn), hl j hj]
    rfl

/-! ### What comes before the winner (R198, R204, R205, R219) -/

/-- A fold whose steps leave its start alone. -/
theorem foldl_stays {α β : Type} {f : α → β → α} {a : α} : ∀ {l : List β}, (∀ b ∈ l, f a b = a) → l.foldl f a = a
  | [], _ => rfl
  | b :: l, h => by
    rw [List.foldl_cons, h b List.mem_cons_self]
    exact foldl_stays (fun c hc => h c (List.mem_cons_of_mem b hc))

theorem Starter.blkAt_none {st : Starter} (h : st.next = []) (ep t : Nat) : st.blkAt ep t = st := by
  cases st
  subst h
  rfl

theorem Side.latch_latched (x : Side) {i : Inst} {k : Nat} (h : k ∈ i.latched) : x.latch i k = (x, i) := by
  unfold Side.latch
  simp only [List.contains_iff_mem.2 h, Bool.true_or, if_true]

theorem Side.latchTo_latched (x : Side) {i : Inst} {n : Nat} (h : ∀ k ≤ n, k ∈ i.latched) : x.latchTo i n = (x, i) := by
  unfold Side.latchTo
  exact foldl_stays (fun k hk => x.latch_latched (h k (Nat.le_of_lt_succ (List.mem_range.1 hk))))

theorem Side.expire_stopped {x : Side} (i : Inst) (h : ∀ k < 4, lget x.starter.timers k none = none) : x.expire i = (x, i) := by
  unfold Side.expire
  refine foldl_stays (fun k hk => ?_)
  rw [h k (List.mem_range.1 hk)]
  rfl

/-- The instant leaves the list of the undecided ones. -/
def Side.takeInst (x : Side) (i : Inst) : Side := { x with starter := { x.starter with
  insts := x.starter.insts.filter (fun a => !(a.ep == i.ep && a.t == i.t)), decEp := i.ep, decided := i.t + 1 } }

theorem Side.takeInst_eq (x : Side) (i : Inst) : x.takeInst i = { x with starter := { x.starter with
    insts := x.starter.insts.filter (fun a => !(a.ep == i.ep && a.t == i.t)), decEp := i.ep, decided := i.t + 1 } } := rfl

theorem Side.get_takeInst (x : Side) (i : Inst) (f : Fld) : (x.takeInst i).get f = x.get f := Side.get_congr rfl rfl rfl f

theorem Side.force_takeInst (x : Side) (i : Inst) : (x.takeInst i).starter.force = x.starter.force := rfl

/-- The program evaluates the instant decided next, at which no block comes into force, no timer runs, every counter has latched and no FORCE
joins. -/
structure Side.decidesPlain (x : Side) (i : Inst) : Prop where
  front : x.frontInst = some i
  evals : x.evaluates i = true
  next : x.starter.next = []
  timers : ∀ k < 4, lget x.starter.timers k none = none
  latched : ∀ k < 4, k ∈ i.latched
  force : i.force = []

theorem Side.decidesPlain.latchTo {x : Side} {i : Inst} (h : x.decidesPlain i) (y : Side) : y.latchTo i 3 = (y, i) :=
  y.latchTo_latched (fun k hk => h.latched k (Nat.lt_succ_of_le hk))

theorem Side.decidesPlain.expire {x : Side} {i : Inst} (h : x.decidesPlain i) : (x.takeInst i).expire i = (x.takeInst i, i) :=
  Side.expire_stopped i h.timers

end Sys2Proof.Machine
end

section
/-! PROOFS. Actions of the Starter (R199, R205 to R210): counters, timers and lines, trigger samples, GOs and pins. -/

namespace Sys2Proof.Machine

/-! ### Counters, timers and lines of an action (R199 steps 1 to 5) -/

/-- R199 step 1 for counters 0 to n − 1. -/
def Side.clearCounters (x : Side) (act n : Nat) : Side :=
  (List.range n).foldl (fun x k => if bitAt act (8 + k) then x.set (STARTER_CNT.whole k) 0 else x) x

theorem Side.clearCounters_succ (x : Side) (act n : Nat) : x.clearCounters act (n + 1)
    = if bitAt act (8 + n) then (x.clearCounters act n).set (STARTER_CNT.whole n) 0 else x.clearCounters act n := by
  unfold Side.clearCounters
  rw [List.range_succ, List.foldl_append]
  rfl

theorem Side.clearCounters_regs (x : Side) (act n : Nat) : ∃ r, x.clearCounters act n = { x with regs := r } := by
  induction n with
  | zero => exact ⟨x.regs, rfl⟩
  | succ n ih =>
    obtain ⟨r, h⟩ := ih
    rw [Side.clearCounters_succ, h]
    split
    · exact ⟨_, rfl⟩
    · exact ⟨r, rfl⟩

theorem Side.get_clearCounters_apart (x : Side) (act n : Nat) (f : Fld) (h : f.idx < 0x9008 ∨ 0x9008 + n ≤ f.idx) :
    (x.clearCounters act n).get f = x.get f := by
  induction n with
  | zero => rfl
  | succ n ih =>
    have hne : f.idx ≠ (STARTER_CNT.whole n).idx := by
      show f.idx ≠ 0x9008 + n
      omega
    rw [Side.clearCounters_succ]
    split
    · rw [Side.get_set_ne _ _ _ _ hne, ih (by omega)]
    · exact ih (by omega)

theorem Side.get_clearCounters (x : Side) (act : Nat) {n k : Nat} (h : k < n) : (x.clearCounters act n).get (STARTER_CNT.whole k)
    = if bitAt act (8 + k) then 0 else x.get (STARTER_CNT.whole k) := by
  induction n with
  | zero => exact absurd h (Nat.not_lt_zero k)
  | succ n ih =>
    rw [Side.clearCounters_succ]
    by_cases hk : k = n
    · subst hk
      split
      · exact Side.get_set_self _ _ _ (by simp [STARTER_CNT.whole]) (Nat.two_pow_pos _)
      · exact Side.get_clearCounters_apart _ _ _ _ (.inr (Nat.le_refl _))
    · have hne : (STARTER_CNT.whole k).idx ≠ (STARTER_CNT.whole n).idx := by
        show 0x9008 + k ≠ 0x9008 + n
        omega
      rw [← ih (by omega)]
      split
      · exact Side.get_set_ne _ _ _ _ hne
      · rfl

theorem Starter.place_self (st : Starter) (e : Nat) : st.place st.ep e = (st.ep, e) := by
  unfold Starter.place
  rw [Nat.sub_self]
  rfl

/-- R199 steps 2 and 3 for timer k: where it expires, if it runs. -/
def Starter.actTimer (st : Starter) (b : List Word) (act ep t k : Nat) : Option (Nat × Nat) :=
  if bitAt act (16 + k) then some (st.place ep (t + 256 * max 1 (bw b (17 + k))))
  else if bitAt act (12 + k) then none else lget st.timers k none

/-- R199 steps 2 and 3 for timers 0 to n − 1. -/
def Side.actTimers (x : Side) (b : List Word) (act ep t n : Nat) : Side := (List.range n).foldl (fun x k =>
  { x with starter := { x.starter with timers := lset x.starter.timers k (x.starter.actTimer b act ep t k) } }) x

theorem Side.actTimers_eq (x : Side) (b : List Word) (act ep t n : Nat) : ∃ ts, x.actTimers b act ep t n
      = { x with starter := { x.starter with timers := ts } } ∧ ts.length = x.starter.timers.length
    ∧ ∀ k < x.starter.timers.length, lget ts k none = if k < n then x.starter.actTimer b act ep t k else lget x.starter.timers k none := by
  induction n with
  | zero => exact ⟨x.starter.timers, rfl, rfl, fun k _ => (if_neg (Nat.not_lt_zero k)).symm⟩
  | succ n ih =>
    obtain ⟨ts, he, hl, hg⟩ := ih
    refine ⟨lset ts n (({ x.starter with timers := ts } : Starter).actTimer b act ep t n), ?_, by rw [lset_length, hl], fun k hk => ?_⟩
    · unfold Side.actTimers at he ⊢
      rw [List.range_succ, List.foldl_append, he]
      rfl
    · by_cases hn : k = n
      · subst hn
        have hkeep : lget ts k none = lget x.starter.timers k none := (hg k hk).trans (if_neg (Nat.lt_irrefl k))
        rw [lget_lset_self _ _ _ _ (hl ▸ hk), if_pos (Nat.lt_succ_self k)]
        unfold Starter.actTimer
        rw [hkeep]
        rfl
      · rw [lget_lset_ne _ _ _ _ _ hn, hg k hk]
        simp only [Nat.lt_succ_iff_lt_or_eq, hn, or_false]

theorem Side.actCounters_eq (x : Side) (b : List Word) (act ep t : Nat) :
    x.actCounters b act ep t = (x.clearCounters act 4).actTimers b act ep t 4 := rfl

/-- R214 to R216: an action that raises no line and no device trigger changes a count of discarded ones at most. -/
theorem State.raise_none (s : State) (sd : SideId) {act : Nat} (tr : Nat) (h : bitsOf act 28 20 = 0) :
    ∃ r, s.raise sd act tr = s.setSide sd { s.side sd with regs := r }
      ∧ ∀ f : Fld, f.idx ≠ KEEL_XTRIG_DISCARD.whole.idx → ({ s.side sd with regs := r } : Side).get f = (s.side sd).get f := by
  have hdt : bitAt act 28 = false := bitAt_of_bitsOf_zero h (by decide) (by decide)
  have hlines : (List.range 8).filter (bitAt (bitsOf act 27 20)) = [] := by
    refine List.filter_eq_nil_iff.2 (fun e he => ?_)
    have he := List.mem_range.1 he
    rw [bitAt_eq_testBit, testBit_bitsOf, ← bitAt_eq_testBit, bitAt_of_bitsOf_zero h (by omega) (by omega), Bool.and_false]
    decide
  unfold State.raise
  simp only [hdt, hlines, Bool.false_eq_true, if_false, List.length_nil, beq_self_eq_true, if_true, ite_self]
  split
  · exact ⟨_, rfl, fun f hf => Side.get_set_ne _ _ _ _ hf⟩
  · exact ⟨(s.side sd).regs, (s.setSide_self sd).symm, fun _ _ => rfl⟩

/-- R199 steps 1 to 5 of an action that raises no line, from side x on: counters are cleared, timers stopped and started. -/
structure Side.acted (x z : Side) (b : List Word) (act ep t : Nat) : Prop where
  frame : ∃ r ts, z = { x with regs := r, starter := { x.starter with timers := ts } }
  get : ∀ f : Fld, f.idx < 0x9008 ∨ 0x900C ≤ f.idx → f.idx ≠ KEEL_XTRIG_DISCARD.whole.idx → z.get f = x.get f
  counter : ∀ k < 4, z.get (STARTER_CNT.whole k) = if bitAt act (8 + k) then 0 else x.get (STARTER_CNT.whole k)
  timer : x.starter.timers.length = 4 → ∀ k < 4, lget z.starter.timers k none = x.starter.actTimer b act ep t k

theorem State.raise_acted (s : State) (sd : SideId) (x : Side) (b : List Word) {act : Nat} (ep t tr : Nat) (h : bitsOf act 28 20 = 0) :
    ∃ z, (s.setSide sd (x.actCounters b act ep t)).raise sd act tr = s.setSide sd z ∧ x.acted z b act ep t := by
  obtain ⟨r, hr⟩ := x.clearCounters_regs act 4
  obtain ⟨ts, ht, -, htimer⟩ := (x.clearCounters act 4).actTimers_eq b act ep t 4
  obtain ⟨r', hu, hget⟩ := (s.setSide sd (x.actCounters b act ep t)).raise_none sd tr h
  have hy : ∀ f, (x.actCounters b act ep t).get f = (x.clearCounters act 4).get f := fun f => by
    rw [Side.actCounters_eq, ht]
    exact Side.get_congr rfl rfl rfl f
  rw [State.setSide_setSide, State.side_setSide] at hu
  rw [State.side_setSide] at hget
  refine ⟨_, hu, ⟨r', ts, ?_⟩, fun f hf hk => ?_, fun k hk => ?_, fun hl k hk => ?_⟩
  · rw [Side.actCounters_eq, ht, hr]
  · rw [hget f hk, hy, Side.get_clearCounters_apart _ _ _ _ hf]
  · rw [hget _ (show 0x9008 + k ≠ 0x3001 by omega), hy, Side.get_clearCounters _ _ hk]
  · rw [Side.actCounters_eq, ht]
    rw [hr] at htimer ⊢
    exact (htimer k (hl ▸ hk)).trans (if_pos hk)

/-! ### Trigger samples and outcomes (R206, R207) -/

/-- What sample times are read from (R53, R54): the front ends, race time, the Starter's epoch, and the links' registers. -/
theorem Side.trigSample_congr {x y : Side} (hfe : y.fe = x.fe) (hrt : y.rt = x.rt) (hep : y.starter.ep = x.starter.ep)
    (hget : ∀ f : Fld, 0x7000 ≤ f.idx → f.idx < 0x8000 → y.get f = x.get f) (c : Chan) (ep t : Nat) (own : Option Nat) :
    y.trigSample c ep t own = x.trigSample c ep t own := by
  have hcyc : y.get (JESD_LEMC_INFO.CYCLES c.n) = x.get (JESD_LEMC_INFO.CYCLES c.n) := by cases c <;> exact hget _ (by decide) (by decide)
  have hsmp : y.get (JESD_LEMC_INFO.SAMPLES c.n) = x.get (JESD_LEMC_INFO.SAMPLES c.n) := by cases c <;> exact hget _ (by decide) (by decide)
  have hcplx : y.get (JESD_CFG.CPLX c.n) = x.get (JESD_CFG.CPLX c.n) := by cases c <;> exact hget _ (by decide) (by decide)
  have hlemc : y.lemcAt c = x.lemcAt c := by
    unfold Side.lemcAt Side.feOf Side.incEff
    rw [hfe, hrt, hcyc]
  have hdec : y.dTotal c = x.dTotal c := by
    unfold Side.dTotal Side.feOf Side.on
    rw [hfe, hcplx]
  have hsample : y.sampleFrom c ep t = x.sampleFrom c ep t := by
    unfold Side.sampleFrom Side.sampleEp Side.tSample Side.tConv Side.feOf
    rw [hfe, hep, hcyc, hsmp, hlemc, hdec]
  unfold Side.trigSample Side.sampleIn Side.feOf
  rw [hsample, hfe]

theorem Side.goOutcome_congr {x y : Side} (h : y.acq = x.acq) (c : Chan) (mT : Nat) : y.goOutcome c mT = x.goOutcome c mT := by
  unfold Side.goOutcome Side.acqOf
  rw [h]

/-- Every outcome is that of a channel named. -/
theorem Side.named_of_mem_goOuts {x : Side} {m d : Nat} {i : Inst} {o : Chan × GoOut × Nat} (h : o ∈ x.goOuts m i d) : bitAt m o.1.n = true := by
  obtain ⟨c, hc, rfl⟩ := List.mem_map.1 h
  exact (List.mem_filter.1 hc).2

theorem Side.filter_goOuts (x : Side) (m d : Nat) (i : Inst) : (x.goOuts m i d).filter (fun o => bitAt m o.1.n) = x.goOuts m i d :=
  List.filter_eq_self.2 (fun _ h => Side.named_of_mem_goOuts h)

theorem Side.foldl_goOuts (x y : Side) (m d w v bm t : Nat) (i : Inst) :
    (x.goOuts m i d).foldl (fun y o => y.applyGo o.1 o.2 (if bitAt m o.1.n = true then w else v) bm t) y
      = (x.goOuts m i d).foldl (fun y o => y.applyGo o.1 o.2 w bm t) y :=
  List.foldl_ext _ _ _ (fun z o h => by rw [if_pos (Side.named_of_mem_goOuts h)])

/-- A GO named by no channel has no outcome. -/
theorem Side.goOuts_zero (x : Side) (i : Inst) (d : Nat) : x.goOuts 0 i d = [] := by
  unfold Side.goOuts
  simp only [bitAt_zero, List.filter_false, List.map_nil]

/-- A GO named by one channel has that channel's outcome. -/
theorem Side.goOuts_single (x : Side) (c : Chan) (i : Inst) (d : Nat) :
    x.goOuts (2 ^ c.n) i d = [(c, x.goOutcome c (x.trigSample c i.ep i.t (i.frameOf d c)))] := by
  cases c <;> rfl

section
variable {x z : Side} {b : List Word} {act ep t : Nat} (h : x.acted z b act ep t)
include h

theorem Side.acted.acq : z.acq = x.acq := by
  obtain ⟨r, ts, rfl⟩ := h.frame
  rfl

theorem Side.acted.trigSample (c : Chan) (ep' t' : Nat) (own : Option Nat) : z.trigSample c ep' t' own = x.trigSample c ep' t' own := by
  obtain ⟨r, ts, e⟩ := h.frame
  refine Side.trigSample_congr (e ▸ rfl) (e ▸ rfl) (e ▸ rfl) (fun f hl hu => h.get f (by omega) ?_) c ep' t' own
  show f.idx ≠ 0x3001
  omega

end

/-! ### What an action delivers (R199 steps 6 to 8) -/

/-- R199 steps 6 to 8: what GOs with given outcomes, pins and the next state make of a side at an instant that slot n of the state has won. -/
def Side.actGo (y : Side) (i : Inst) (b : List Word) (state n : Nat) (outs : List (Chan × GoOut × Nat)) : Side :=
  let act := stAct b state n
  let next := if outs.any (fun o => o.2.1 == .fill) && !outs.any (fun o => o.2.1 == .accepted) then stRestart b else bitsOf act 34 32
  let inv := i.occ.any (fun o => matchOcc (stCond b state n) o && occInvalid o)
  let z := outs.foldl (fun x o => x.applyGo o.1 o.2 (b2n inv * 2 ^ 32 + state * 2 ^ 29 + n * 2 ^ 27 + next * 2 ^ 24) (bitmapOf b i.occ) i.t) y
  (z.pulse i.ep i.t (fun p => bitAt act (6 + p) || (outs.filter (fun o => o.2.1 == .accepted)).any (fun o => toSrc z.stBlk p o.1.n))).set
    STARTER_STAT.STATE next

theorem Side.pulse_none (y : Side) (ep t : Nat) {p : Nat → Bool} (h : ∀ n < 2, p n = false) : y.pulse ep t p = y := by
  have hf : (List.range 2).filter p = [] := List.filter_eq_nil_iff.2 (fun n hn => Bool.eq_false_iff.1 (h n (List.mem_range.1 hn)))
  unfold Side.pulse
  simp only [hf, List.map_nil, List.append_nil]

/-- Without GO and pins an action sets the state. -/
theorem Side.actGo_idle (y : Side) (i : Inst) (b : List Word) (state n : Nat) (h : bitsOf (stAct b state n) 7 6 = 0) :
    y.actGo i b state n [] = y.set STARTER_STAT.STATE (bitsOf (stAct b state n) 34 32) := by
  have hp : ∀ p < 2, bitAt (stAct b state n) (6 + p) = false := fun p hp => bitAt_of_bitsOf_zero h (by omega) (by omega)
  unfold Side.actGo
  simp only [List.foldl_nil, List.filter_nil, List.any_nil, Bool.false_and, Bool.false_eq_true, if_false, Bool.or_false]
  rw [Side.pulse_none y _ _ hp]

/-- R206, R230: the armed record takes an accepted trigger. -/
theorem Side.acceptTrig_armed {y : Side} {c : Chan} {r : Rec} (ha : (y.acqOf c).armed = some r) (hl : y.acq.length = 2) (mT mLast : Nat)
    (ws : List Word) : ((y.acceptTrig c mT mLast ws).acqOf c).armed = some { r with trigs := r.trigs ++ [⟨mT, mLast, ws⟩] } := by
  have hc : c.n < y.acq.length := by cases c <;> rw [hl] <;> decide
  unfold Side.acceptTrig
  simp only [ha]
  exact congrArg Acq.armed (lget_lset_self _ _ _ _ hc)

/-- R207, R210: an accepted GO makes a trigger at its channel. -/
theorem Side.actGo_accepted {y : Side} {c : Chan} {r : Rec} (ha : (y.acqOf c).armed = some r) (hl : y.acq.length = 2) (i : Inst) (b : List Word)
    (state n mT : Nat) :
    (y.actGo i b state n [(c, .accepted, mT)]).get STARTER_STAT.STATE = bitsOf (stAct b state n) 34 32
      ∧ ∃ w0 num, ((y.actGo i b state n [(c, .accepted, mT)]).acqOf c).armed = some { r with
        trigs := r.trigs ++ [⟨mT, mT + rcPost r.block - 1, trigWords w0 (bitmapOf b i.occ) i.t 0 num⟩] } := by
  refine ⟨Side.get_set_self _ _ _ (by decide) (bitsOf_lt _ _ _), ?_⟩
  have hgo : ∀ w0, ((y.applyGo c (.accepted, mT) w0 (bitmapOf b i.occ) i.t).acqOf c).armed = some { r with
      trigs := r.trigs ++ [⟨mT, mT + rcPost r.block - 1, trigWords w0 (bitmapOf b i.occ) i.t 0 (y.trigNumOf c)⟩] } := fun w0 => by
    unfold Side.applyGo
    simp only [ha, Option.elim_some]
    exact Side.acceptTrig_armed ha hl ..
  exact ⟨_, _, hgo _⟩

end Sys2Proof.Machine
end

section
/-! PROOFS. The Starter decides an instant (R198, R199, R206 to R211). -/

namespace Sys2Proof.Machine

section
variable {s : State} {sd : SideId} {i : Inst} (h : (s.side sd).decidesPlain i)
include h

/-- R198: an instant at which no slot of the state holds changes no state. -/
theorem State.decideInst_stays (hw : slotWon (s.side sd).starter.force i.occ ((s.side sd).get STARTER_STAT.STATE) = none) :
    s.decideInst sd = s.setSide sd ((s.side sd).takeInst i) := by
  unfold slotWon at hw
  unfold State.decideInst
  simp only [h.front, h.evals, Starter.blkAt_none h.next, if_true, h.latchTo, ← Side.takeInst_eq, h.expire,
    Side.force_takeInst, Side.get_takeInst, hw, Option.isSome_none, Bool.false_eq_true, if_false, h.force, List.foldl_nil, Option.elim_none,
    bitAt_zero, State.side_setSide, State.setSide_setSide, show Nat.lor 0 0 = 0 from rfl, Side.goOuts_zero, List.filter_nil, List.any_nil, Bool.or_false]
  rw [Side.pulse_none _ _ _ (fun _ _ => rfl)]

/-- R199: slot n of the state has won: its counters, timers and lines first, then what it delivers. -/
theorem State.decideInst_wins {n : Nat} (hw : slotWon (s.side sd).starter.force i.occ ((s.side sd).get STARTER_STAT.STATE) = some n) :
    s.decideInst sd =
      let b := (s.side sd).starter.force
      let state := (s.side sd).get STARTER_STAT.STATE
      let act := stAct b state n
      let y := ((s.side sd).takeInst i).actCounters b act i.ep i.t
      let u := (s.setSide sd y).raise sd act (((i.t + y.hLsb : Nat) : Int) + y.starter.offset i.ep).toNat
      u.setSide sd ((u.side sd).actGo i b state n
        ((u.side sd).goOuts (if bitAt act 31 then bitsOf act 30 29 else 0) i (stCond b state n))) := by
  unfold slotWon at hw
  unfold State.decideInst
  simp only [h.front, h.evals, Starter.blkAt_none h.next, if_true, h.latchTo, ← Side.takeInst_eq, h.expire,
    Side.force_takeInst, Side.get_takeInst, hw, Option.isSome_some, h.force, List.foldl_nil, Option.elim_some, Option.getD_some, bitAt_zero,
    show ∀ m, Nat.lor m 0 = m from Nat.or_zero, Bool.or_false, Side.filter_goOuts, Side.foldl_goOuts,
    show b2n false = 0 from rfl, Nat.zero_mul, Nat.zero_add]
  rfl

/-- R199: the action of slot n, which has won, raises no line. -/
theorem State.decideInst_acts {n : Nat} (hw : slotWon (s.side sd).starter.force i.occ ((s.side sd).get STARTER_STAT.STATE) = some n)
    (hq : bitsOf (stAct (s.side sd).starter.force ((s.side sd).get STARTER_STAT.STATE) n) 28 20 = 0) :
    let b := (s.side sd).starter.force
    let state := (s.side sd).get STARTER_STAT.STATE
    let act := stAct b state n
    ∃ z, ((s.side sd).takeInst i).acted z b act i.ep i.t ∧ s.decideInst sd
      = s.setSide sd (z.actGo i b state n (z.goOuts (if bitAt act 31 then bitsOf act 30 29 else 0) i (stCond b state n))) := by
  intro b state act
  obtain ⟨z, hz, hact⟩ := s.raise_acted sd ((s.side sd).takeInst i) b i.ep i.t
    (((i.t + (((s.side sd).takeInst i).actCounters b act i.ep i.t).hLsb : Nat) : Int)
      + (((s.side sd).takeInst i).actCounters b act i.ep i.t).starter.offset i.ep).toNat hq
  refine ⟨z, hact, (State.decideInst_wins h hw).trans ?_⟩
  dsimp only
  rw [hz, State.side_setSide, State.setSide_setSide]

end

section
variable {s : State} {sd : SideId} {i : Inst} (h : (s.side sd).decidesPlain i) {n : Nat}
  (hw : slotWon (s.side sd).starter.force i.occ ((s.side sd).get STARTER_STAT.STATE) = some n)
  (hlines : bitsOf (stAct (s.side sd).starter.force ((s.side sd).get STARTER_STAT.STATE) n) 28 20 = 0)
include h hw hlines

/-- R199: an action without a GO, pins or lines clears counters, starts timers and sets the state. -/
theorem instant_acts (hep : i.ep = (s.side sd).starter.ep) :
    let x := s.side sd
    let b := x.starter.force
    let act := stAct b (x.get STARTER_STAT.STATE) n
    bitAt act 31 = false → bitsOf act 7 6 = 0 → Does (.instant sd) s (fun t =>
      let y := t.side sd
      t = s.setSide sd y ∧ y.get STARTER_STAT.STATE = bitsOf act 34 32
        ∧ (∀ k < 4, y.get (STARTER_CNT.whole k) = if bitAt act (8 + k) then 0 else x.get (STARTER_CNT.whole k))
        ∧ (x.starter.timers.length = 4 → ∀ k < 4, lget y.starter.timers k none
          = if bitAt act (16 + k) then some (i.ep, i.t + 256 * max 1 (bw b (17 + k))) else none)
        ∧ y.starter.insts = (x.takeInst i).starter.insts ∧ y.starter.decided = i.t + 1 ∧ y.acq = x.acq
        ∧ y.starter.pulses = x.starter.pulses) := by
  intro x b act hgo hto
  obtain ⟨z, hz, hdec⟩ := State.decideInst_acts h hw hlines
  obtain ⟨regs, ts, hframe⟩ := hz.frame
  have hst : z.starter = { (x.takeInst i).starter with timers := ts } := hframe ▸ rfl
  rw [if_neg (Bool.eq_false_iff.1 hgo), Side.goOuts_zero, Side.actGo_idle _ _ _ _ _ hto] at hdec
  refine ⟨_, congrArg Host.Outcome.next hdec, ?_⟩
  dsimp only
  rw [State.side_setSide]
  refine ⟨rfl, Side.get_set_self _ _ _ (by decide) (bitsOf_lt _ _ _), fun k hk => ?_, fun hlen k hk => ?_,
    (congrArg Starter.insts hst).trans rfl, congrArg Starter.decided hst, hz.acq, (congrArg Starter.pulses hst).trans rfl⟩
  · rw [Side.get_set_ne _ _ _ _ (show 0x9008 + k ≠ 0x9000 by omega), hz.counter k hk, Side.get_takeInst]
  · have hplace : (x.takeInst i).starter.place i.ep (i.t + 256 * max 1 (bw b (17 + k))) = (i.ep, i.t + 256 * max 1 (bw b (17 + k))) := by
      rw [hep]
      exact Starter.place_self _ _
    rw [Side.set_starter, hz.timer hlen k hk]
    unfold Starter.actTimer
    rw [hplace, show lget (x.takeInst i).starter.timers k none = none from h.timers k hk, ite_self]

/-- R206 to R210: a GO at one channel, which accepts it, makes its trigger. -/
theorem instant_triggers {c : Chan} {r : Rec} :
    let x := s.side sd
    let b := x.starter.force
    let state := x.get STARTER_STAT.STATE
    let act := stAct b state n
    let mT := x.trigSample c i.ep i.t (i.frameOf (stCond b state n) c)
    bitAt act 31 = true → bitsOf act 30 29 = 2 ^ c.n → x.acq.length = 2 → (x.acqOf c).armed = some r → x.goOutcome c mT = (.accepted, mT) →
      Does (.instant sd) s (fun t => (t.side sd).get STARTER_STAT.STATE = bitsOf act 34 32 ∧ ∃ w0 num,
        ((t.side sd).acqOf c).armed = some { r with
          trigs := r.trigs ++ [⟨mT, mT + rcPost r.block - 1, trigWords w0 (bitmapOf b i.occ) i.t 0 num⟩] }) := by
  intro x b state act mT hgo hch hlen harm hout
  obtain ⟨z, hz, hdec⟩ := State.decideInst_acts h hw hlines
  have hmT : z.trigSample c i.ep i.t (i.frameOf (stCond b state n) c) = mT := (hz.trigSample ..).trans
    (Side.trigSample_congr rfl rfl rfl (fun _ _ _ => Side.get_takeInst ..) c _ _ _)
  have houts : z.goOuts (2 ^ c.n) i (stCond b state n) = [(c, .accepted, mT)] := by
    rw [Side.goOuts_single, hmT, Side.goOutcome_congr (x := x) hz.acq, hout]
  have hacq : z.acqOf c = x.acqOf c := congrArg (fun l => lget l c.n Acq.init) hz.acq
  rw [if_pos hgo, hch, houts] at hdec
  refine ⟨_, congrArg Host.Outcome.next hdec, ?_⟩
  beta_reduce
  rw [State.side_setSide]
  exact Side.actGo_accepted (hacq ▸ harm) ((congrArg List.length hz.acq).trans hlen) ..

end

/-- Settles O40: by whether a slot wins, and by whether its action makes a GO. -/
theorem starterDecision : Obligations.StarterDecision := by
  unfold Obligations.StarterDecision
  intro s sd i x st b state holds later hfront hep hevals hnext htimers hlatched hforce hstate
  have h : x.decidesPlain i := ⟨hfront, hevals, hnext, htimers, hlatched, hforce⟩
  have hno : ∀ n, ¬holds n → slotHolds b i.occ state n = false := fun n hn => Bool.eq_false_iff.2 (fun e => hn ((slotHolds_iff ..).1 e))
  have hwon : ∀ n < 4, holds n → (∀ j < n, ¬holds j) → slotWon b i.occ state = some n := fun n hn hh hl =>
    slotWon_lowest hstate hn ((slotHolds_iff ..).2 hh) (fun j hj => hno j (hl j hj))
  refine ⟨fun hn => congrArg Host.Outcome.next (State.decideInst_stays h (slotWon_none hstate (fun n hlt => hno n (hn n hlt)))),
    fun n hn hh hl => ?_⟩
  intro act
  refine ⟨fun hgo hto hlines => instant_acts h (hwon n hn hh hl) hlines hep hgo hto, fun c r hgo hch hlines hlen harm hout => ?_⟩
  obtain ⟨t, ht, hstate', w0, num, htrig⟩ := instant_triggers h (hwon n hn hh hl) hlines hgo hch hlen harm hout
  exact ⟨t, ht, hstate', _, htrig, rfl, rfl, rfl⟩

end Sys2Proof.Machine
end

section
/-! PROOFS. What arrives at the Starter (R194 to R196, R204, R205): occurrences, expired timers and counters that latch. -/

namespace Sys2Proof.Machine

/-! ### The list of undecided instants (R194) -/

/-- The instant named is in the list, changed. -/
theorem exists_mem_instMod (ep t : Nat) (f : Inst → Inst) (l : List Inst) : ∃ a : Inst, a.ep = ep ∧ a.t = t ∧ f a ∈ instMod ep t f l := by
  induction l with
  | nil => exact ⟨⟨ep, t, [], [], [], []⟩, rfl, rfl, List.mem_singleton_self _⟩
  | cons b r ih =>
    unfold instMod
    split
    · next h =>
      obtain ⟨he, ht⟩ := Bool.and_eq_true_iff.1 h
      exact ⟨b, beq_iff_eq.1 he, beq_iff_eq.1 ht, List.mem_cons_self⟩
    · split
      · obtain ⟨a, he, ht, ha⟩ := ih
        exact ⟨a, he, ht, List.mem_cons_of_mem b ha⟩
      · exact ⟨⟨ep, t, [], [], [], []⟩, rfl, rfl, List.mem_cons_self⟩

/-- Every other instant stays in the list. -/
theorem mem_instMod_of_ne {ep t : Nat} (f : Inst → Inst) {l : List Inst} {a : Inst} (ha : a ∈ l) (hne : ¬(a.ep = ep ∧ a.t = t)) :
    a ∈ instMod ep t f l := by
  induction l with
  | nil => exact absurd ha List.not_mem_nil
  | cons b r ih =>
    unfold instMod
    split
    · next h =>
      obtain rfl | hr := List.mem_cons.1 ha
      · obtain ⟨he, ht⟩ := Bool.and_eq_true_iff.1 h
        exact absurd ⟨beq_iff_eq.1 he, beq_iff_eq.1 ht⟩ hne
      · exact List.mem_cons_of_mem _ hr
    · split
      · obtain rfl | hr := List.mem_cons.1 ha
        · exact List.mem_cons_self
        · exact List.mem_cons_of_mem _ (ih hr)
      · exact List.mem_cons_of_mem _ ha

/-! ### Occurrences (R194, R196) -/

theorem Side.nowIn_self (x : Side) : x.nowIn x.starter.ep = x.now := by
  unfold Side.nowIn Starter.offset
  rw [Nat.sub_self]
  exact Int.sub_zero _

/-- R196: an occurrence stamped now and of an input in use comes too late: its instant is decided, or the horizon has passed it. -/
def Side.tooLate (x : Side) (t : Nat) : Prop := earlier x.starter.ep t x.starter.decEp x.starter.decided = true ∨ t + x.hLsb < x.now

/-- R194: an instant with an occurrence that joins it. -/
def Inst.join (o : Occ) (a : Inst) : Inst := if a.occ.contains o then a else { a with occ := a.occ ++ [o] }

theorem Inst.join_ep (o : Occ) (a : Inst) : (a.join o).ep = a.ep := by
  unfold Inst.join
  split <;> rfl

theorem Inst.join_t (o : Occ) (a : Inst) : (a.join o).t = a.t := by
  unfold Inst.join
  split <;> rfl

theorem Inst.mem_join (o : Occ) (a : Inst) : o ∈ (a.join o).occ := by
  unfold Inst.join
  split
  · next h => exact List.contains_iff_mem.1 h
  · exact List.mem_append_right _ (List.mem_singleton_self o)

section
variable {x : Side} {o : Occ} {t : Nat}

theorem Side.occur_untaken (h : ¬(x.on STARTER_STAT.RUNNING = true ∧ earlier x.starter.ep t x.starter.fromEp x.starter.fromT = false
    ∧ x.starter.uses o = true)) : x.occur o t = x := by
  unfold Side.occur Side.occurIn
  refine if_pos (by_contra fun hn => h ?_)
  simpa only [Bool.or_eq_true, not_or, Bool.not_eq_true, Bool.not_eq_false', and_assoc] using hn

variable (h : x.on STARTER_STAT.RUNNING = true ∧ earlier x.starter.ep t x.starter.fromEp x.starter.fromT = false ∧ x.starter.uses o = true)
include h

theorem Side.occur_late (hl : x.tooLate t) : x.occur o t = (x.inc LATE_OCC.whole).raise STARTER_STAT.LATE_SEEN := by
  obtain ⟨hr, hf, hu⟩ := h
  have hlate : (earlier x.starter.ep t x.starter.decEp x.starter.decided || decide (x.nowIn x.starter.ep > ((t + x.hLsb : Nat) : Int))) = true := by
    rw [Side.nowIn_self, Bool.or_eq_true, decide_eq_true_eq]
    exact hl.imp_right Int.ofNat_lt.2
  unfold Side.occur Side.occurIn
  simp only [hr, hf, hu, hlate, Bool.not_true, Bool.or_self, Bool.false_eq_true, if_false, if_true]

theorem Side.occur_joins (hl : ¬x.tooLate t) :
    x.occur o t = { x with starter := { x.starter with insts := instMod x.starter.ep t (Inst.join o) x.starter.insts } } := by
  obtain ⟨hr, hf, hu⟩ := h
  have hlate : (earlier x.starter.ep t x.starter.decEp x.starter.decided || decide (x.nowIn x.starter.ep > ((t + x.hLsb : Nat) : Int))) = false := by
    rw [Side.nowIn_self, Bool.or_eq_false_iff, decide_eq_false_iff_not]
    exact ⟨Bool.eq_false_iff.2 (fun e => hl (.inl e)), fun e => hl (.inr (Int.ofNat_lt.1 e))⟩
  unfold Side.occur Side.occurIn
  simp only [hr, hf, hu, hlate, Bool.not_true, Bool.or_self, Bool.false_eq_true, if_false, List.append_nil]
  rfl

end

/-! ### Timers and counters (R204, R205) -/

section
variable {s : State} {sd : SideId} {k : Fin 4}

theorem execTimer_expires {e : Nat × Nat} (ht : lget (s.side sd).starter.timers k.val none = some e) (hn : (e.2 : Int) ≤ (s.side sd).nowIn e.1)
    (hr : (s.side sd).islRuns starterSrc = true) : exec (.timer sd k) s = .next (s.mod sd (fun x =>
      { x with starter := { x.starter with insts := instMod e.1 e.2 id x.starter.insts } })) := by
  show execTimer sd k s = _
  unfold execTimer
  refine congrArg Host.Outcome.next (State.mod_congr ?_)
  simp only [ht, ge_iff_le, decide_eq_true hn, hr, Bool.and_self, if_true]

theorem execTimer_runs {e : Nat × Nat} (ht : lget (s.side sd).starter.timers k.val none = some e)
    (h : (s.side sd).nowIn e.1 < e.2 ∨ (s.side sd).islRuns starterSrc = false) : exec (.timer sd k) s = .next s := by
  have hc : ¬(decide ((s.side sd).nowIn e.1 ≥ (e.2 : Int)) && (s.side sd).islRuns starterSrc) = true := by
    rw [Bool.and_eq_true, decide_eq_true_eq]
    rintro ⟨hn, hr⟩
    exact h.elim (fun hl => absurd hn (Int.not_le.2 hl)) (fun hf => Bool.false_ne_true (hf.symm.trans hr))
  show execTimer sd k s = _
  unfold execTimer State.mod
  simp only [ht, if_neg hc, State.setSide_self]

theorem execTimer_stopped (ht : lget (s.side sd).starter.timers k.val none = none) : exec (.timer sd k) s = .next s := by
  show execTimer sd k s = _
  unfold execTimer State.mod
  simp only [ht, State.setSide_self]

theorem execCount_none (h : (s.side sd).frontInst = none) : exec (.count sd k) s = .next s := by
  show execCount sd k s = _
  unfold execCount State.mod
  simp only [h, State.setSide_self]

theorem execInstant_none (h : (s.side sd).frontInst = none) : exec (.instant sd) s = .next s := by
  show execInstant sd s = _
  unfold execInstant State.decideInst
  simp only [h]

end

/-- R194: the first undecided instant replaced. -/
def Side.putInst (x : Side) (i j : Inst) : Side := { x with starter := { x.starter with insts := instMod i.ep i.t (fun _ => j) x.starter.insts } }

section
variable {x : Side} {i : Inst} (he : x.evaluates i = true) (hl : 0 ∉ i.latched)
include he hl

theorem Side.latchTo_zero_missed (h : i.occ.any (matchOcc (stSrc (x.starter.blkAt i.ep i.t).force 0)) = false) :
    x.latchTo i 0 = (x, { i with latched := i.latched ++ [0] }) := by
  have hc : i.latched.contains 0 = false := Bool.eq_false_iff.2 (fun e => hl (List.contains_iff_mem.1 e))
  show x.latch i 0 = _
  unfold Side.latch
  simp only [hc, he, h, Bool.not_true, Bool.or_self, Bool.false_eq_true, if_false]

theorem Side.latchTo_zero_counts (h : i.occ.any (matchOcc (stSrc (x.starter.blkAt i.ep i.t).force 0)) = true) :
    x.latchTo i 0 = (x.inc (STARTER_CNT.whole 0), { i with
      latched := i.latched ++ [0]
      occ := if min (x.get (STARTER_CNT.whole 0) + 1) (2 ^ 36 - 1) = bw (x.starter.blkAt i.ep i.t).force 10 then i.occ ++ [.count 0] else i.occ }) := by
  have hc : i.latched.contains 0 = false := Bool.eq_false_iff.2 (fun e => hl (List.contains_iff_mem.1 e))
  have hn : (x.inc (STARTER_CNT.whole 0)).get (STARTER_CNT.whole 0) = min (x.get (STARTER_CNT.whole 0) + 1) (2 ^ 36 - 1) :=
    Side.get_inc _ _ (by decide)
  show x.latch i 0 = _
  unfold Side.latch
  simp only [hc, he, h, hn, Bool.not_true, Bool.or_self, Bool.false_eq_true, if_false, if_true, beq_iff_eq]
  split <;> rfl

end

theorem execCount_front {s : State} {sd : SideId} {k : Fin 4} {i : Inst} (h : (s.side sd).frontInst = some i) : exec (.count sd k) s
    = .next (s.mod sd (fun _ => ((s.side sd).latchTo i k.val).1.putInst i ((s.side sd).latchTo i k.val).2)) := by
  show execCount sd k s = _
  unfold execCount
  refine congrArg Host.Outcome.next (State.mod_congr ?_)
  simp only [h]
  rfl

end Sys2Proof.Machine
end

section
/-! PROOFS. Lines, device triggers and TRIGOUT (R214 to R217), and the family of the Starter's inputs. -/

namespace Sys2Proof.Machine

/-! ### Lines across the Keel (R31, R214) -/

section
variable {s : State} {sd : SideId} {lines : BitVec 8} {u : Nat} {rest : List (SideId × KeelMsg)}
  (h : s.keel.msgs = (sd, .xside lines u) :: rest)
include h

theorem execXside_head : exec (.xside sd) s = .next
    (let z : State := { s with keel := { s.keel with msgs := rest } }
     let es := (List.range 8).filter (fun e => lines.toNat / 2 ^ e % 2 = 1)
     if s.keel.resolving then z.mod sd.other (fun x => x.bump KEEL_XTRIG_DISCARD.whole es.length)
     else z.mod sd (fun x => es.foldl (fun x e => x.occur (.xside (Fin.ofNat 8 e)) (u + 52777)) x)) := by
  have hp : (sd == sd && true) = true := by cases sd <;> rfl
  show execXside sd s = _
  unfold execXside
  rw [h, takeMsg_head rest hp]
  rfl

end

/-! ### Device triggers (R215) -/

/-- R215: the requests that hit, which have arbitration time a, are accepted or rejected on side b. -/
def Side.requestsEnd (x : Side) (b : SideId) (hit : List (SideId × Nat × SideId × Nat)) (ok : Bool) (a : Nat) : Side :=
  let y : Side := { x with starter := { x.starter with
    reqs := x.starter.reqs.filter (fun t => !hit.any (fun q => q.1 == b && q.2.1 == t))
    accepted := if ok then a :: x.starter.accepted else x.starter.accepted } }
  if ok then y.occur .dtrig (a + keelLsb) else y.bump DTRIG_REJECT.whole (hit.filter (fun q => q.1 == b)).length

section
variable {s : State} {sd : SideId} {u : Nat}

/-- A single request, of the cox side, is arbitrated at its raise time. -/
theorem State.arbitrate_alone (hm : s.keel.moved = none) (hr : (s.side sd).starter.reqs = [u]) (ho : (s.side sd.other).starter.reqs = [])
    (hrun : (s.side sd).islRuns starterSrc = true) (hu : u ≤ (s.side sd).now) : s.arbitrate sd =
      let ok := !(s.side sd).starter.accepted.any ((s.side sd).holdsOff u)
      (s.mod .stroke (fun x => x.requestsEnd .stroke [(sd, u, sd, u)] ok u)).mod .bow (fun x => x.requestsEnd .bow [(sd, u, sd, u)] ok u) := by
  have harb : s.arbiter sd sd u = (sd, u) := by
    unfold State.arbiter
    simp only [hm, beq_self_eq_true, if_true]
  have hall : [SideId.stroke, SideId.bow].flatMap (fun b => (s.side b).starter.reqs.map (fun t => (b, t, s.arbiter sd b t))) = [(sd, u, sd, u)] := by
    cases sd
    · rw [List.flatMap_cons, List.flatMap_cons, hr, show (s.side .bow).starter.reqs = [] from ho, List.map_singleton, harb]
      rfl
    · rw [List.flatMap_cons, List.flatMap_cons, hr, show (s.side .stroke).starter.reqs = [] from ho, List.map_singleton, harb]
      rfl
  have hwaits : ¬(decide ((s.side sd).now < u) || !(s.side sd).islRuns starterSrc) = true := by
    rw [decide_eq_false (Nat.not_lt.2 hu), hrun]
    decide
  have hhit : [(sd, u, sd, u)].filter (fun q => q.2.2.2 == u) = [(sd, u, sd, u)] := List.filter_cons_of_pos (beq_self_eq_true u)
  unfold State.arbitrate
  simp only [hall, List.map_singleton, List.min?_singleton, hhit, List.head?_cons, Option.elim_some, if_neg hwaits]
  rfl

theorem filter_reqs_nil {l : List Nat} {b : SideId} (h : l = [] ∨ b = sd ∧ l = [u]) :
    l.filter (fun t => ! [(sd, u, sd, u)].any (fun q => q.1 == b && q.2.1 == t)) = [] := by
  obtain rfl | ⟨rfl, rfl⟩ := h
  · rfl
  · simp

theorem Side.requestsEnd_accepted {x : Side} {b : SideId} (h : x.starter.reqs = [] ∨ b = sd ∧ x.starter.reqs = [u]) :
    x.requestsEnd b [(sd, u, sd, u)] true u
      = ({ x with starter := { x.starter with reqs := [], accepted := u :: x.starter.accepted } } : Side).occur .dtrig (u + 52777) := by
  unfold Side.requestsEnd
  rw [filter_reqs_nil h]
  rfl

theorem Side.starter_requestsEnd_rejected {x : Side} {b : SideId} (h : x.starter.reqs = [] ∨ b = sd ∧ x.starter.reqs = [u]) :
    (x.requestsEnd b [(sd, u, sd, u)] false u).starter = { x.starter with reqs := [] } := by
  unfold Side.requestsEnd
  rw [filter_reqs_nil h]
  rfl

/-- R215: a rejected request is counted on the side that raised it. -/
theorem Side.get_requestsEnd_rejected (x : Side) (sd : SideId) (u : Nat) :
    (x.requestsEnd sd [(sd, u, sd, u)] false u).get DTRIG_REJECT.whole = min (x.get DTRIG_REJECT.whole + 1) (2 ^ 36 - 1) := by
  have hn : ([(sd, u, sd, u)].filter (fun q => q.1 == sd)).length = 1 := by cases sd <;> rfl
  unfold Side.requestsEnd
  dsimp only
  rw [if_neg Bool.false_ne_true, hn]
  refine (Side.get_inc _ DTRIG_REJECT.whole (by decide)).trans ?_
  exact congrArg (fun n => min (n + 1) (2 ^ 36 - 1)) (Side.get_congr rfl rfl rfl _)

theorem holdsOff_any_iff (x : Side) (u : Nat) : x.starter.accepted.any (x.holdsOff u) = true
    ↔ ∃ b ∈ x.starter.accepted, b ≤ u ∧ (u - b) * 10 ^ 9 < bf x.stBlk 0 17 2 * 2 ^ 40 := by
  unfold Side.holdsOff
  simp only [List.any_eq_true, decide_eq_true_eq]

end

/-- Both sides changed, each by what makes the same of it. -/
theorem State.mod_both_congr {s : State} {f f' g g' : Side → Side} (hs : f s.stroke = f' s.stroke) (hb : g s.bow = g' s.bow) :
    (s.mod .stroke f).mod .bow g = (s.mod .stroke f').mod .bow g' := by
  rw [State.mod_congr (sd := .stroke) hs]
  exact State.mod_congr hb

theorem State.side_mod_both (s : State) (f : SideId → Side → Side) (b : SideId) :
    ((s.mod .stroke (f .stroke)).mod .bow (f .bow)).side b = f b (s.side b) := by
  cases b <;> rfl

theorem execDtrigRequest_idle {s : State} (hc : s.coxSide = none) : exec .dtrigRequest s = .next s := by
  show execDtrigRequest s = _
  unfold execDtrigRequest
  simp only [hc]

section
variable {s : State} {sd : SideId} {u : Nat} (hc : s.coxSide = some sd) (hm : s.keel.moved = none) (hr : (s.side sd).starter.reqs = [u])
  (ho : (s.side sd.other).starter.reqs = []) (hrun : (s.side sd).islRuns starterSrc = true) (hu : u ≤ (s.side sd).now)
include hc hm hr ho hrun hu

theorem execDtrigRequest_alone {ok : Bool} (hok : (!(s.side sd).starter.accepted.any ((s.side sd).holdsOff u)) = ok) :
    exec .dtrigRequest s = .next ((s.mod .stroke (fun x => x.requestsEnd .stroke [(sd, u, sd, u)] ok u)).mod .bow
      (fun x => x.requestsEnd .bow [(sd, u, sd, u)] ok u)) := by
  show execDtrigRequest s = _
  unfold execDtrigRequest
  simp only [hc]
  rw [State.arbitrate_alone hm hr ho hrun hu, hok]

/-- An accepted request is presented on both sides. -/
theorem execDtrigRequest_accepts (hh : (s.side sd).starter.accepted.any ((s.side sd).holdsOff u) = false) :
    let f := fun (z : Side) =>
      ({ z with starter := { z.starter with reqs := [], accepted := u :: z.starter.accepted } } : Side).occur .dtrig (u + 52777)
    exec .dtrigRequest s = .next ((s.mod .stroke f).mod .bow f) := by
  have hreqs : ∀ b, (s.side b).starter.reqs = [] ∨ b = sd ∧ (s.side b).starter.reqs = [u] := fun b => by
    by_cases hb : b = sd
    · exact .inr ⟨hb, hb ▸ hr⟩
    · exact .inl (SideId.eq_other_of_ne hb ▸ ho)
  rw [execDtrigRequest_alone hc hm hr ho hrun hu (ok := true) (by rw [hh]; rfl)]
  exact congrArg Host.Outcome.next
    (State.mod_both_congr (Side.requestsEnd_accepted (hreqs .stroke)) (Side.requestsEnd_accepted (hreqs .bow)))

theorem execDtrigRequest_rejects (hh : (s.side sd).starter.accepted.any ((s.side sd).holdsOff u) = true) : Does .dtrigRequest s (fun v =>
    (v.side sd).get DTRIG_REJECT.whole = min ((s.side sd).get DTRIG_REJECT.whole + 1) (2 ^ 36 - 1)
      ∧ (v.side sd).starter = { (s.side sd).starter with reqs := [] } ∧ (v.side sd.other).starter = (s.side sd.other).starter) := by
  have hside := State.side_mod_both s (fun b x => x.requestsEnd b [(sd, u, sd, u)] false u)
  refine ⟨_, execDtrigRequest_alone hc hm hr ho hrun hu (ok := false) (by rw [hh]; rfl), ?_⟩
  beta_reduce
  rw [hside, hside]
  refine ⟨Side.get_requestsEnd_rejected .., Side.starter_requestsEnd_rejected (.inr ⟨rfl, hr⟩), ?_⟩
  rw [Side.starter_requestsEnd_rejected (.inl ho), ← ho]

end

/-! ### TRIGOUT (R217) -/

section
variable {s : State} {sd : SideId} {pin : Fin 2}

theorem Side.trigoutPulse_none {x : Side} {pin : Nat}
    (h : x.islRuns starterSrc = false ∨ ∀ q ∈ x.starter.pulses, q.1 = pin → x.now < q.2 + nsLsb x.starter.dTo) : x.trigoutPulse pin = x := by
  have hf : x.starter.pulses.find? (fun p => p.1 == pin && x.islRuns starterSrc && decide (x.now ≥ p.2 + nsLsb x.starter.dTo)) = none := by
    refine List.find?_eq_none.2 (fun q hq => ?_)
    rw [Bool.and_eq_true, Bool.and_eq_true, beq_iff_eq, decide_eq_true_eq]
    rintro ⟨⟨hpin, hr⟩, hn⟩
    exact h.elim (fun hf => Bool.false_ne_true (hf.symm.trans hr)) (fun hl => Nat.not_le.2 (hl q hq hpin) hn)
  unfold Side.trigoutPulse
  simp only [hf]

theorem Side.trigoutPulse_begins {x : Side} {pin : Nat} {p : Nat × Nat} (hp : x.starter.pulses = [p]) (hpin : p.1 = pin)
    (hn : p.2 + nsLsb x.starter.dTo ≤ x.now) (hr : x.islRuns starterSrc = true) : x.trigoutPulse pin = { x with starter := { x.starter with
      pulses := []
      outs := lset x.starter.outs pin (some (max (x.now + nsLsb (8 * max 1 (bf x.stBlk 0 27 20))) ((lget x.starter.outs pin none).getD 0))) } } := by
  have hf : x.starter.pulses.find? (fun p => p.1 == pin && x.islRuns starterSrc && decide (x.now ≥ p.2 + nsLsb x.starter.dTo)) = some p := by
    rw [hp, List.find?_cons_of_pos]
    simp only [hpin, beq_self_eq_true, hr, ge_iff_le, decide_eq_true hn, Bool.and_self]
  have herase : x.starter.pulses.erase p = [] := by rw [hp, List.erase_cons_head]
  unfold Side.trigoutPulse
  simp only [hf, herase]

theorem execTrigoutEnd_ends {e : Nat} (ho : lget (s.side sd).starter.outs pin.val none = some e) (he : e ≤ (s.side sd).now) :
    exec (.trigoutEnd sd pin) s = .next (s.mod sd (fun x =>
      { x with starter := { x.starter with outs := lset x.starter.outs pin.val none } })) := by
  show execTrigoutEnd sd pin s = _
  unfold execTrigoutEnd
  refine congrArg Host.Outcome.next (State.mod_congr ?_)
  simp only [ho, Option.any_some, ge_iff_le, decide_eq_true he, if_true]

theorem execTrigoutEnd_holds {e : Nat} (ho : lget (s.side sd).starter.outs pin.val none = some e) (he : (s.side sd).now < e) :
    exec (.trigoutEnd sd pin) s = .next s := by
  show execTrigoutEnd sd pin s = _
  unfold execTrigoutEnd State.mod
  simp only [ho, Option.any_some, ge_iff_le, decide_eq_false (Nat.not_le.2 he), Bool.false_eq_true, if_false, State.setSide_self]

end

/-- Settles O39: each arrival by what it finds; each pulse by its time. -/
theorem starterInputs : Obligations.StarterInputs := by
  unfold Obligations.StarterInputs
  intro s sd o t k pin lines u e te rest i p x st taken late
  have hoccur : ∀ {y : Side}, x.occur o t.toNat = y → exec (.occurrence sd o t) s = .next (s.setSide sd y) := fun h =>
    congrArg (fun y => Host.Outcome.next (s.setSide sd y)) h
  refine ⟨fun h => ?_, fun h hl => hoccur (Side.occur_late h hl), fun h hl => ?_, execTimer_expires, execTimer_runs, execTimer_stopped,
    fun h => ⟨execCount_none h, execInstant_none h⟩, fun hk h he hl => ⟨fun hm => ?_, fun hm => ?_⟩, fun h => ⟨fun hr => ?_, fun hr => ?_⟩,
    fun h => ?_, fun hc hm hr ho hrun hu => ⟨fun hh => ?_, fun hh => ?_⟩, fun hp hpin hn hr => ?_, fun h => ?_,
    execTrigoutEnd_ends, execTrigoutEnd_holds, ?_⟩
  · exact (hoccur (Side.occur_untaken h)).trans (congrArg Host.Outcome.next (s.setSide_self sd))
  · refine ⟨_, hoccur (Side.occur_joins h hl), ?_⟩
    beta_reduce
    rw [State.side_setSide]
    refine ⟨?_, fun a ha hne => mem_instMod_of_ne _ ha hne, rfl⟩
    obtain ⟨a, hep, ht, ha⟩ := exists_mem_instMod st.ep t.toNat (Inst.join o) st.insts
    exact ⟨a.join o, ha, (a.join_ep o).trans hep, (a.join_t o).trans ht, a.mem_join o⟩
  · rw [hk, execCount_front h]
    exact congrArg (fun r : Side × Inst => Host.Outcome.next (s.setSide sd (r.1.putInst i r.2))) (Side.latchTo_zero_missed he hl hm)
  · subst hk
    have hcount := execCount_front (k := 0) h
    rw [show (0 : Fin 4).val = 0 from rfl, Side.latchTo_zero_counts he hl hm] at hcount
    refine ⟨_, hcount, ?_⟩
    beta_reduce
    rw [State.side_mod]
    exact ⟨(Side.get_congr rfl rfl rfl _).trans (Side.get_inc x _ (by decide)), rfl⟩
  · rw [execXside_head h, if_neg (Bool.eq_false_iff.1 hr)]
  · rw [execXside_head h, if_pos hr]
  · exact execDtrigRequest_idle h
  · exact execDtrigRequest_accepts hc hm hr ho hrun hu (Bool.eq_false_iff.2 (fun e => hh ((holdsOff_any_iff x u).1 e)))
  · exact execDtrigRequest_rejects hc hm hr ho hrun hu ((holdsOff_any_iff x u).2 hh)
  · exact congrArg Host.Outcome.next (State.mod_congr (Side.trigoutPulse_begins hp hpin hn hr))
  · exact congrArg Host.Outcome.next ((congrArg (s.setSide sd) (Side.trigoutPulse_none h)).trans (s.setSide_self sd))
  · rfl

end Sys2Proof.Machine
end

section
/-! PROOFS. What writes of memory and events leave of records and streams (R296, R323): all but the poison marks that a record takes. -/

namespace Sys2Proof.Machine

/-- A record without its poison marks. -/
def Rec.unmarked (r : Rec) : Rec := { r with poison := false, segPoison := false }

/-- R234, R323: a channel's acquisition without what a poisoned block changes in it: the record's marks, and the header that flags them. -/
def Acq.unmarked (a : Acq) : Acq := { a with hdr := [], armed := a.armed.map Rec.unmarked }

/-- Acquisition without poison marks, and the streams. -/
def Side.recPart (x : Side) : List Acq × List Strm := (x.acq.map Acq.unmarked, x.strm)

theorem Side.unmarked_of_recPart {x y : Side} (h : y.recPart = x.recPart) (c : Chan) : (y.acqOf c).unmarked = (x.acqOf c).unmarked := by
  have hget : ∀ z : Side, (z.acqOf c).unmarked = lget z.recPart.1 c.n Acq.init.unmarked := fun z => by
    show ((z.acq[c.n]?).getD Acq.init).unmarked = ((z.acq.map Acq.unmarked)[c.n]?).getD Acq.init.unmarked
    rw [List.getElem?_map, Option.getD_map]
  rw [hget, hget, h]

theorem Side.acqLength_of_recPart {x y : Side} (h : y.recPart = x.recPart) : y.acq.length = x.acq.length := by
  have hl := congrArg (fun p => p.1.length) h
  simpa only [Side.recPart, List.length_map] using hl

/-- The armed record is the one before, but for its poison marks. -/
theorem Side.armed_of_recPart {x y : Side} (h : y.recPart = x.recPart) {c : Chan} {r : Rec} (ha : (x.acqOf c).armed = some r) :
    ∃ p1 p2, (y.acqOf c).armed = some { r with poison := p1, segPoison := p2 } := by
  have hu : (y.acqOf c).armed.map Rec.unmarked = some r.unmarked := by
    have hm := congrArg Acq.armed (Side.unmarked_of_recPart h c)
    rwa [show (x.acqOf c).unmarked.armed = (x.acqOf c).armed.map Rec.unmarked from rfl, ha] at hm
  obtain ⟨v, hv, he⟩ := Option.map_eq_some_iff.1 hu
  refine ⟨v.poison, v.segPoison, hv.trans (congrArg some ?_)⟩
  calc v = { v.unmarked with poison := v.poison, segPoison := v.segPoison } := rfl
    _ = _ := by rw [he]; rfl

theorem Side.recStream_congr {x y : Side} (h : y.strm = x.strm) (c : Chan) : y.recStream c = x.recStream c := by
  unfold Side.recStream Side.strmOf
  rw [h]

/-! ### Registers, events and faults -/

@[simp] theorem Side.recPart_set (x : Side) (f : Fld) (v : Nat) : (x.set f v).recPart = x.recPart := rfl
@[simp] theorem Side.recPart_setReg (x : Side) (i : Nat) (v : Word) : (x.setReg i v).recPart = x.recPart := rfl
@[simp] theorem Side.recPart_bump (x : Side) (f : Fld) (n : Nat) : (x.bump f n).recPart = x.recPart := rfl
@[simp] theorem Side.recPart_inc (x : Side) (f : Fld) : (x.inc f).recPart = x.recPart := rfl
@[simp] theorem Side.recPart_setMem (x : Side) (k : MemSel) (m : BpcMem) : (x.setMem k m).recPart = x.recPart := by cases k <;> rfl

/-- Between two sides at most events have been raised: acquisition, streams, DRAM and staged commands are the same, and all registers but the
count of dropped events. -/
structure Side.EventsOnly (x y : Side) : Prop where
  acq    : y.acq = x.acq
  strm   : y.strm = x.strm
  dram   : y.dram = x.dram
  staged : y.host.staged = x.host.staged
  get    : ∀ g : Fld, g.idx ≠ EVT_DROP.whole.idx → y.get g = x.get g

theorem Side.EventsOnly.refl (x : Side) : x.EventsOnly x := ⟨rfl, rfl, rfl, rfl, fun _ _ => rfl⟩

theorem Side.EventsOnly.eventSt (x : Side) (code st t : Nat) (a b : Int) : x.EventsOnly (x.eventSt code st t a b) := by
  have hstaged := x.staged_eventSt code st t a b
  obtain ⟨h, cs, e | e⟩ := x.eventSt_cases code st t a b
  · rw [e] at hstaged ⊢
    exact ⟨rfl, rfl, rfl, hstaged, fun g _ => Side.get_congr rfl rfl rfl g⟩
  · rw [e] at hstaged ⊢
    exact ⟨rfl, rfl, rfl, hstaged, fun g hg => (Side.get_set_ne _ _ _ _ hg).trans (Side.get_congr rfl rfl rfl g)⟩

theorem Side.EventsOnly.on {x y : Side} (h : x.EventsOnly y) (g : Fld) (hg : g.idx ≠ EVT_DROP.whole.idx) : y.on g = x.on g := by
  unfold Side.on
  rw [h.get g hg]

theorem Side.EventsOnly.acqOf {x y : Side} (h : x.EventsOnly y) (c : Chan) : y.acqOf c = x.acqOf c := congrArg (lget · c.n Acq.init) h.acq

theorem Side.EventsOnly.recPart {x y : Side} (h : x.EventsOnly y) : y.recPart = x.recPart :=
  congrArg₂ Prod.mk (congrArg (List.map Acq.unmarked) h.acq) h.strm

@[simp] theorem Side.recPart_event (x : Side) (code t : Nat) (a b : Int) : (x.event code t a b).recPart = x.recPart :=
  (Side.EventsOnly.eventSt x code 0 t a b).recPart

@[simp] theorem Side.recPart_logRecord (x : Side) (r : Report) : (x.logRecord r).recPart = x.recPart := by
  unfold Side.logRecord; dsimp only; split <;> rfl

@[simp] theorem Side.recPart_countReport (x : Side) (r : Report) : (x.countReport r).recPart = x.recPart := by
  unfold Side.countReport; dsimp only; split <;> split <;> rfl

@[simp] theorem Side.recPart_outstanding (x : Side) (a b c : Nat) : (x.outstanding a b c).recPart = x.recPart := by
  unfold Side.outstanding; split
  · rfl
  · split <;> rfl

@[simp] theorem Side.recPart_report (x : Side) (a b c : Nat) (i : Bool) : (x.report a b c i).recPart = x.recPart := by
  unfold Side.report Side.logFault Side.faultRefresh; dsimp only; split <;> split <;> simp

@[simp] theorem Side.recPart_takeInj (x : Side) (l : Nat) : (x.takeInj l).2.recPart = x.recPart := by
  unfold Side.takeInj; dsimp only; split
  · dsimp only; split <;> rfl
  · rfl

/-! ### Memories -/

theorem Side.recPart_setAcq {x : Side} {c : Chan} {a : Acq} (h : a.unmarked = (x.acqOf c).unmarked) : (x.setAcq c a).recPart = x.recPart := by
  refine congrArg (·, x.strm) ?_
  show (x.acq.set c.n a).map Acq.unmarked = x.acq.map Acq.unmarked
  rw [List.map_set, h]
  refine lset_of_lget ?_
  show ((x.acq.map Acq.unmarked)[c.n]?).getD ((x.acq[c.n]?).getD Acq.init).unmarked = ((x.acq[c.n]?).getD Acq.init).unmarked
  rw [List.getElem?_map]
  cases x.acq[c.n]? <;> rfl

@[simp] theorem Side.recPart_flagHeader (x : Side) (c : Chan) : (x.flagHeader c).recPart = x.recPart := Side.recPart_setAcq rfl

theorem Side.recPart_flagEntries (x : Side) (b : List Word) (l : List Seg) : (l.foldl (fun x g => x.flagEntry b g.num) x).recPart = x.recPart := by
  refine foldl_keeps (fun y => y.recPart = x.recPart) _ (fun y g hy => ?_) l x rfl
  unfold Side.flagEntry Side.orWord
  split <;> simp [hy]

@[simp] theorem Side.recPart_markArmed (x : Side) (c : Chan) (ws : List Nat) : (x.markArmed c ws).recPart = x.recPart := by
  unfold Side.markArmed; dsimp only
  split
  · rfl
  · next r hr =>
    split
    · rfl
    · have hf := x.recPart_flagEntries r.block (r.segs.filter (fun g => ws.any (segHas r.block r.mA g)))
      rw [Side.recPart_flagHeader, Side.recPart_setAcq, hf]
      rw [Side.unmarked_of_recPart hf c]
      simp [Acq.unmarked, Rec.unmarked, hr]

@[simp] theorem Side.recPart_markLast (x : Side) (c : Chan) (ws : List Nat) : (x.markLast c ws).recPart = x.recPart := by
  unfold Side.markLast; dsimp only
  split
  · rfl
  · split
    · rfl
    · split <;> simp [Side.recPart_flagEntries]

@[simp] theorem Side.recPart_markRecords (x : Side) (b : Nat) : (x.markRecords b).recPart = x.recPart := by
  simp [Side.markRecords, Side.markRecord]

@[simp] theorem Side.recPart_poisonBlk (x : Side) (k : MemSel) (b : Nat) (ws : List Word) (c : Nat) :
    (x.poisonBlk k b ws c).recPart = x.recPart := by
  unfold Side.poisonBlk; dsimp only
  split <;> split <;> simp

@[simp] theorem Side.recPart_countRead (x : Side) (k : MemSel) (b : Nat) (bad : Bool) : (x.countRead k b bad).recPart = x.recPart := by
  cases k <;> cases bad <;> rfl

@[simp] theorem Side.recPart_zeroBlk (x : Side) (k : MemSel) (b : Nat) : (x.zeroBlk k b).recPart = x.recPart := by simp [Side.zeroBlk]

@[simp] theorem Side.recPart_writeBlk (x : Side) (k : MemSel) (b : Nat) (ws : List Word) : (x.writeBlk k b ws).recPart = x.recPart := by
  simp [Side.writeBlk]

@[simp] theorem Side.recPart_flushEnt (x : Side) (k : MemSel) (e : MergeEnt) : (x.flushEnt k e).recPart = x.recPart := by
  unfold Side.flushEnt; dsimp only
  split
  · rfl
  · split
    · simp
    · split
      · simp
      · simp
      · simp
      · split <;> simp

@[simp] theorem Side.recPart_leaveOthers (x : Side) (k : MemSel) (src b : Nat) : (x.leaveOthers k src b).recPart = x.recPart := by
  unfold Side.leaveOthers Side.flushEnts
  split
  · exact foldl_keeps (fun y => y.recPart = x.recPart) _ (fun y e hy => (y.recPart_flushEnt k e).trans hy) _ x rfl
  · rfl

@[simp] theorem Side.recPart_openEnt (x : Side) (k : MemSel) (e : MergeEnt) : (x.openEnt k e).recPart = x.recPart := by
  unfold Side.openEnt; dsimp only
  rw [Side.recPart_setMem]
  split
  · cases ((x.memOf k).buf.filter (fun f => x.bufGroup k f.blk == x.bufGroup k e.blk)).head? with
    | none => rfl
    | some d => exact Side.recPart_flushEnt x k d
  · rfl

@[simp] theorem Side.recPart_writePart (x : Side) (k : MemSel) (src b : Nat) (ns : List (Nat × Word)) :
    (x.writePart k src b ns).recPart = x.recPart := by
  unfold Side.writePart; dsimp only
  split
  · split <;> simp
  · simp

@[simp] theorem Side.recPart_writeWhole (x : Side) (k : MemSel) (src b : Nat) (ws : List Word) : (x.writeWhole k src b ws).recPart = x.recPart := by
  unfold Side.writeWhole; dsimp only; split <;> simp

/-- R296, R323: writing words leaves records and streams, but for poison marks. -/
@[simp] theorem Side.recPart_writeRange (x : Side) (k : MemSel) (src a : Nat) (ws : List Word) : (x.writeRange k src a ws).recPart = x.recPart := by
  unfold Side.writeRange; split
  · rfl
  · refine foldl_keeps (fun y => y.recPart = x.recPart) _ (fun y i hy => ?_) _ x rfl
    dsimp only; split <;> simp [hy]

end Sys2Proof.Machine
end

section
/-! PROOFS. Writing, segments and ends of records, and the copies of READ_RECORD (R222, R224, R227 to R231, R233, R243, R304), and the family
of records. -/

namespace Sys2Proof.Machine

/-! ### Fields and channels -/

/-- A saturating counter raised by n. -/
theorem Side.get_bump (x : Side) (f : Fld) (n : Nat) (h : f.lo ≤ f.hi ∧ f.hi < 36) :
    (x.bump f n).get f = min (x.get f + n) (2 ^ (f.hi + 1 - f.lo) - 1) := by
  have hp := Nat.two_pow_pos (f.hi + 1 - f.lo)
  unfold Side.bump
  dsimp only
  split
  · rw [Side.get_set_self _ _ _ h (by omega)]; omega
  · rw [Side.get_set_self _ _ _ h (by omega)]; omega

theorem Side.acqOf_setAcq {x : Side} (hl : x.acq.length = 2) (c : Chan) (a : Acq) : (x.setAcq c a).acqOf c = a :=
  lget_lset_self _ _ _ _ (by cases c <;> rw [hl] <;> decide)

/-! ### Nothing to do -/

section
variable {x : Side} {c : Chan}

theorem Side.acqWrite_none (n : Nat) (h : (x.acqOf c).armed = none) : x.acqWrite c n = x := by
  unfold Side.acqWrite
  simp only [h]

theorem Side.acqWrite_stopped (n : Nat) (h : x.islRuns starterSrc = false) : x.acqWrite c n = x := by
  unfold Side.acqWrite
  dsimp only
  split
  · rfl
  · simp only [h, Bool.not_false, if_true]

theorem Side.segmentDone_none (h : (x.acqOf c).armed = none) : x.segmentDone c = x := by
  unfold Side.segmentDone
  simp only [h]

theorem Side.recordDone_none (h : (x.acqOf c).armed = none) : x.recordDone c = x := by
  unfold Side.recordDone
  simp only [h]

/-- Without a stream of records none is offered. -/
theorem Side.offerRecord_none (h : x.recStream c = none) (num : Nat) (b : List Word) (mA : Nat) (g : Option Seg) (head : List Word) (marks : Nat) :
    x.offerRecord c num b mA g head marks = x := by
  unfold Side.offerRecord
  simp only [h]

end

/-! ### Writing (R222, R304) -/

/-- R301: the level of a port's buffer decides on its panic, and on nothing else. -/
theorem Side.acqPanic_eq (x : Side) (c : Chan) : ∃ p, x.acqPanic c = { x with dram := { x.dram with panic := p } } := by
  have hport : ∀ level, ∃ p, x.portLevel (acqPort c) level = { x with dram := { x.dram with panic := p } } := fun level => by
    unfold Side.portLevel
    split
    · exact ⟨_, rfl⟩
    · split <;> exact ⟨_, rfl⟩
  unfold Side.acqPanic
  split <;> exact hport _

section
variable {x : Side} {c : Chan} {r : Rec} {a : ASmp}

/-- What ACQ_WRITE comes to, by what the write of samples comes to, where no lines wait: the record keeps the marks it has met on the way. -/
theorem Side.acqWrite_written {n : Nat} {y : Side} {v w m : Rec} (ha : (x.acqOf c).armed = some r) (hr : x.islRuns starterSrc = true)
    (hw : x.writeSamples c r (min n r.samples.length) = (y, v)) (hv : v.lines = []) (hy : (y.acqOf c).armed = some w) (hl : y.acq.length = 2)
    (hm : m = { v with poison := w.poison, segPoison := w.segPoison }) :
    ((x.acqWrite c n).acqOf c).armed = some m ∧ (x.acqWrite c n).dram = { y.dram with panic := (x.acqWrite c n).dram.panic } := by
  have heq : x.acqWrite c n = ((y.setAcq c { y.acqOf c with armed := some m }).postFlag c m).acqPanic c := by
    subst hm
    unfold Side.acqWrite
    simp only [ha, hr, hw, hv, List.length_nil, Side.writeLines, hy, Bool.not_true, Bool.false_eq_true, if_false]
  obtain ⟨p, hp⟩ := Side.acqPanic_eq ((y.setAcq c { y.acqOf c with armed := some m }).postFlag c m) c
  rw [heq, hp]
  exact ⟨congrArg Acq.armed (Side.acqOf_setAcq hl c _), rfl⟩

/-- R222: one sample that may be written goes to its place. -/
theorem Side.writeSamples_one {n : Nat} (hs : r.samples = [a]) (hm : x.mayWrite c r a = true) (hiq : rcIq r.block = true)
    (hd : rcDrain r.block = false) (hn : 0 < n) : x.writeSamples c r (min n r.samples.length)
      = (x.writeRange .dram (acqPort c) (bw r.block 4 + r.slot * segW r.block + (a.m - r.mA) % max 1 (segW r.block)) [a.w],
        { r with next := a.m + 1, samples := [] }) := by
  have hone : min n r.samples.length = 1 := by
    rw [hs]
    exact Nat.min_eq_right hn
  rw [hone]
  simp only [Side.writeSamples, hs, hm, Side.writeSample, hd, hiq, Bool.not_true, Bool.false_and, Bool.false_eq_true, if_false, if_true,
    List.drop_succ_cons, List.drop_zero]

theorem Side.writeSamples_held (hs : r.samples = [a]) (hm : x.mayWrite c r a = false) (n : Nat) : x.writeSamples c r n = (x, r) := by
  cases n with
  | zero => rfl
  | succ n => simp only [Side.writeSamples, hs, hm, Bool.not_false, if_true]

/-- R304: a full buffer ends the writing at the first sample that finds no room. -/
theorem Side.fillBuffer_full (hiq : rcIq r.block = true) (hw : x.waitingWords c r ≤ acqBuffer)
    (hf : acqBuffer < x.readySamples c r + x.waitingWords c r) :
    x.fillBuffer c r = x.overflow c r (acqBuffer - x.waitingWords c r) (x.readySamples c r - (acqBuffer - x.waitingWords c r)) := by
  unfold Side.fillBuffer
  simp only [hiq, if_true]
  exact if_pos (by omega)

/-! ### Segments (R227) -/

theorem Side.segmentDone_waits (ha : (x.acqOf c).armed = some r)
    (h : rcSeg r.block = false ∨ r.truncated ≠ none ∨ x.segReady c r = none) : x.segmentDone c = x := by
  unfold Side.segmentDone
  simp only [ha]
  split
  · rfl
  · next hgo =>
    rw [Bool.or_eq_true, not_or] at hgo
    obtain ⟨hseg, htrunc⟩ := hgo
    rcases h with h | h | h
    · exact absurd (by rw [h]; rfl) hseg
    · exact absurd (Option.isSome_iff_ne_none.2 h) htrunc
    · rw [h]

/-- R227: a finished segment: its entry is written, it is counted, and an event may say so. -/
theorem Side.segmentDone_finishes {g : Trig} {sg : Seg} {r' : Rec} {y : Side} (ha : (x.acqOf c).armed = some r) (hseg : rcSeg r.block = true)
    (ht : r.truncated = none) (hg : x.segReady c r = some (g, sg)) (hs : x.recStream c = none)
    (hr' : r' = { r with segs := r.segs ++ [sg], slot := r.slot + 1, slotM := sg.last + 1, slotL := r.nextL, segPoison := false })
    (hy : y = (((x.setAcq c { x.acqOf c with armed := some r' }).writeRange .dram (acqPort c) (bw r.block 8 + 16 * (sg.num - 1))
      (x.segEntry c r g sg)).set (ACQ_STAT.SEGS c.n) (r.segs.length + 1)).set (ACQ_STAT.IN_POST c.n) 0) :
    y.EventsOnly (x.segmentDone c) := by
  have hevent : y.EventsOnly (if rcSegEvt r.block then y.event 0x02 y.now c.n sg.num else y) := by
    split
    · exact .eventSt ..
    · exact .refl y
  have hstrm : y.strm = x.strm := by
    rw [hy]
    exact congrArg Prod.snd (Side.recPart_writeRange ..)
  have hnone := (Side.recStream_congr (hevent.strm.trans hstrm) c).trans hs
  have htrunc : r.truncated.isSome = false := Option.isSome_eq_false_iff.2 (Option.isNone_iff_eq_none.2 ht)
  have hlen : r.segs.length + 1 = (r.segs ++ [sg]).length := (List.length_append (as := r.segs) (bs := [sg])).symm
  rw [hlen] at hy
  subst hr'
  unfold Side.segmentDone
  simp only [ha, hseg, htrunc, hg, Bool.not_true, Bool.or_self, Bool.false_eq_true, if_false, Side.drop_eq, ← hy]
  rw [Side.offerRecord_none hnone]
  exact hevent

end

/-! ### Ends of records (R227, R229, R231, R243) -/

/-- R231: bit 33 of a header's first word, among its other flags. -/
theorem bitAt_headerWord (seg cut dis poison stop f1 f2 f3 f4 : Bool) {content n : Nat} (hc : content < 4) (hn : n ≤ 65536) :
    bitAt (wordN (2 ^ 35 + b2n seg * 2 ^ 34 + b2n cut * 2 ^ 33 + b2n dis * 2 ^ 32 + b2n poison * 2 ^ 31 + b2n stop * 2 ^ 30 + b2n f1 * 2 ^ 29
      + b2n f2 * 2 ^ 28 + b2n f3 * 2 ^ 27 + b2n f4 * 2 ^ 26 + content * 2 ^ 24 + n)).toNat 33 = cut := by
  have hle := Laws.CoxClass.b2n_le
  have h1 := hle seg
  have h2 := hle cut
  have h3 := hle dis
  have h4 := hle poison
  have h5 := hle stop
  have h6 := hle f1
  have h7 := hle f2
  have h8 := hle f3
  have h9 := hle f4
  have hbit : ∀ w, w / 2 ^ 33 % 2 = b2n cut → bitAt w 33 = cut := fun w hw => by
    unfold bitAt
    rw [hw]
    cases cut <;> rfl
  refine hbit _ ?_
  rw [wordN, BitVec.toNat_ofNat]
  omega

/-- R231: the header says that writing had stopped for good. -/
theorem Side.bitAt_recHeader_truncated (x : Side) (c : Chan) (r : Rec) {segs : List Seg} (lost : Nat) (h : segs.length ≤ 65536) :
    bitAt (lget (x.recHeader c r segs lost) 0 0).toNat 33 = r.truncated.isSome :=
  bitAt_headerWord _ _ _ _ _ _ _ _ _ (bitsOf_lt _ _ _) h

/-- R243: the flags that the end of a record leaves, of `n` spans and cut short or not. -/
def Side.recordFlags (x : Side) (c : Chan) (n : Nat) (cut : Bool) : Side :=
  let y := ((((x.drop (ACQ_STAT.ARMED c.n)).raise (ACQ_STAT.DONE c.n)).drop (ACQ_STAT.IN_POST c.n)).drop (ACQ_STAT.DRAIN c.n)).set
    (ACQ_STAT.SEGS c.n) n
  if cut then y.raise (ACQ_STAT.TRUNC_SEEN c.n) else y

theorem Side.recordFlags_eq (x : Side) (c : Chan) (n : Nat) (cut : Bool) : ∃ regs, x.recordFlags c n cut = { x with regs := regs } := by
  unfold Side.recordFlags
  dsimp only
  split <;> exact ⟨_, rfl⟩

theorem Side.on_recordFlags (x : Side) (c : Chan) (n : Nat) (cut : Bool) :
    (x.recordFlags c n cut).on (ACQ_STAT.ARMED c.n) = false ∧ (x.recordFlags c n cut).on (ACQ_STAT.DONE c.n) = true
      ∧ (x.recordFlags c n cut).on (ACQ_STAT.IN_POST c.n) = false ∧ (x.recordFlags c n cut).on (ACQ_STAT.DRAIN c.n) = false
      ∧ (cut = true → (x.recordFlags c n cut).on (ACQ_STAT.TRUNC_SEEN c.n) = true) := by
  have hkept : ∀ g, (ACQ_STAT.SEGS c.n).apart g → (ACQ_STAT.TRUNC_SEEN c.n).apart g → (x.recordFlags c n cut).on g
      = ((((x.set (ACQ_STAT.ARMED c.n) 0).set (ACQ_STAT.DONE c.n) 1).set (ACQ_STAT.IN_POST c.n) 0).set (ACQ_STAT.DRAIN c.n) 0).on g :=
    fun g h1 h2 => by
      unfold Side.recordFlags
      dsimp only
      split
      · exact (Side.on_set_apart _ _ _ _ h2).trans (Side.on_set_apart _ _ _ _ h1)
      · exact Side.on_set_apart _ _ _ _ h1
  refine ⟨?_, ?_, ?_, ?_, fun h => ?_⟩
  · rw [hkept _ (by cases c <;> decide) (by cases c <;> decide), Side.on_set_apart _ _ _ _ (by cases c <;> decide),
      Side.on_set_apart _ _ _ _ (by cases c <;> decide), Side.on_set_apart _ _ _ _ (by cases c <;> decide)]
    exact Side.on_set_zero _ _ (by cases c <;> decide)
  · rw [hkept _ (by cases c <;> decide) (by cases c <;> decide), Side.on_set_apart _ _ _ _ (by cases c <;> decide),
      Side.on_set_apart _ _ _ _ (by cases c <;> decide)]
    exact Side.on_set_one _ _ (by cases c <;> decide)
  · rw [hkept _ (by cases c <;> decide) (by cases c <;> decide), Side.on_set_apart _ _ _ _ (by cases c <;> decide)]
    exact Side.on_set_zero _ _ (by cases c <;> decide)
  · rw [hkept _ (by cases c <;> decide) (by cases c <;> decide)]
    exact Side.on_set_zero _ _ (by cases c <;> decide)
  · subst h
    exact Side.on_set_one _ _ (by cases c <;> decide)

section
variable {x : Side} {c : Chan} {r : Rec}

theorem Side.recordDone_waits (ha : (x.acqOf c).armed = some r) (he : x.recEnd c r = none) : x.recordDone c = x := by
  unfold Side.recordDone
  simp only [ha, he]

/-- R227: a record that ends: its header stands, its channel is not armed, and an event may say so. -/
theorem Side.recordDone_ends {segs : List Seg} {lost : Nat} {y : Side} (ha : (x.acqOf c).armed = some r) (he : x.recEnd c r = some (segs, lost))
    (hs : x.recStream c = none) (hn : segs.length ≤ 65536)
    (hy : y = ((x.dateRecord c r.num).setAcq c { x.acqOf c with
      armed := none, hdr := x.recHeader c r segs lost, last := some ⟨r.num, r.block, r.mA, segs, rcDrain r.block⟩
      lastPost := ((r.trigs.getLast?).map r.lastOf).or (x.acqOf c).lastPost }).recordFlags c segs.length r.truncated.isSome) :
    y.EventsOnly (x.recordDone c) := by
  have hstrm : y.strm = x.strm := by
    rw [hy]
    obtain ⟨regs, e⟩ := Side.recordFlags_eq _ c segs.length r.truncated.isSome
    rw [e]
    rfl
  have hnone : ∀ z, y.EventsOnly z → ∀ g hd m, z.offerRecord c r.num r.block r.mA g hd m = z := fun z hz _ _ _ =>
    Side.offerRecord_none ((Side.recStream_congr (hz.strm.trans hstrm) c).trans hs) ..
  have hcut := x.bitAt_recHeader_truncated c r lost hn
  unfold Side.recordFlags at hy
  unfold Side.recordDone
  simp only [ha, he, hcut, ← hy]
  split <;> split
  · exact .eventSt ..
  · exact .refl y
  · rw [hnone _ (.eventSt ..)]
    exact .eventSt ..
  · rw [hnone _ (.refl y)]
    exact .refl y

end

/-! ### DISARM (R229) -/

section
variable {s : State} {sd : SideId} {ch : Chan}

theorem State.finishDisarm_nothing (h : (s.side sd).host.staged = []) : s.finishDisarm sd = s := by
  unfold State.finishDisarm
  rw [h]
  rfl

theorem State.finishDisarm_one {st : Staged} (h : (s.side sd).host.staged = [st]) (hop : st.op = 0x11) (hrun : st.running = true)
    (hc : st.e.op4 % 4 = 2 ^ ch.n) (ha : ((s.side sd).acqOf ch).armed = none) :
    s.finishDisarm sd = s.complete sd st 0 (lget st.aux 0 0).toNat 0 0 := by
  unfold State.finishDisarm
  rw [h, List.filter_cons_of_pos, List.filter_nil]
  · rfl
  · simp [hop, hrun, namedChans_single hc, ha]

theorem execRecordDone_stopped (h : (s.side sd).islRuns starterSrc = false) : exec (.recordDone sd ch) s = .next s := by
  show execRecordDone sd ch s = _
  unfold execRecordDone
  rw [h]
  rfl

theorem execRecordDone_runs {y : Side} (h : (s.side sd).islRuns starterSrc = true) (hy : (s.side sd).recordDone ch = y) :
    exec (.recordDone sd ch) s = .next ((s.setSide sd y).finishDisarm sd) := by
  show execRecordDone sd ch s = _
  unfold execRecordDone
  rw [h, ← hy]
  rfl

theorem execRecordDone_idle (hy : (s.side sd).recordDone ch = s.side sd) (h : (s.side sd).host.staged = []) :
    exec (.recordDone sd ch) s = .next s := by
  cases hr : (s.side sd).islRuns starterSrc with
  | false => exact execRecordDone_stopped hr
  | true => rw [execRecordDone_runs hr hy, State.setSide_self, State.finishDisarm_nothing h]

theorem execAcqWrite_idle {n : Nat} (h : (s.side sd).acqWrite ch n = s.side sd) : exec (.acqWrite sd ch n) s = .next s :=
  congrArg Host.Outcome.next ((congrArg (s.setSide sd) h).trans (s.setSide_self sd))

theorem execSegmentDone_stopped (h : (s.side sd).islRuns starterSrc = false) : exec (.segmentDone sd ch) s = .next s := by
  refine congrArg Host.Outcome.next ((congrArg (s.setSide sd) ?_).trans (s.setSide_self sd))
  dsimp only
  rw [h]
  rfl

theorem execSegmentDone_idle (h : (s.side sd).segmentDone ch = s.side sd) : exec (.segmentDone sd ch) s = .next s := by
  refine congrArg Host.Outcome.next ((congrArg (s.setSide sd) ?_).trans (s.setSide_self sd))
  dsimp only
  rw [h, ite_self]

theorem execSegmentDone_runs (h : (s.side sd).islRuns starterSrc = true) :
    exec (.segmentDone sd ch) s = .next (s.setSide sd ((s.side sd).segmentDone ch)) := by
  refine congrArg (fun y => Host.Outcome.next (s.setSide sd y)) ?_
  dsimp only
  rw [h, if_pos rfl]

/-! ### READ_RECORD (R233, R234) -/

theorem execReadRecordDone_waits (h : (∀ d ∈ (s.side sd).host.staged, ¬(d.op = 0x13 ∧ d.running = true)) ∨ (s.side sd).anyAsleep = true
    ∨ s.dmaWorks sd = false) : exec (.readRecordDone sd ch) s = .next s := by
  refine congrArg Host.Outcome.next ?_
  dsimp only
  split
  · rfl
  · next st hst =>
    refine if_pos ?_
    rcases h with h | h | h
    · have hp := List.find?_some hst
      simp only [Bool.and_eq_true, beq_iff_eq] at hp
      exact absurd hp.1 (h st (List.mem_of_find?_eq_some hst))
    · rw [h, Bool.or_true]
    · rw [h]
      rfl

section
variable {st : Staged} (h : (s.side sd).host.staged = [st]) (hop : st.op = 0x13) (hrun : st.running = true) (hc : chanOf (st.e.op4 % 2) = ch)
include h hop hrun hc

theorem Side.runningCmd_readRecord : (s.side sd).runningCmd 0x13 (fun d => chanOf (d.e.op4 % 2) == ch) = some st := by
  unfold Side.runningCmd
  rw [h]
  exact List.find?_cons_of_pos (by simp [hop, hrun, hc])

variable (hd : s.dmaWorks sd = true) (hw : (s.side sd).anyAsleep = false)
include hd hw

theorem execReadRecordDone_refused {code : Nat} (hp : (s.side sd).readPart st.e = .error code) :
    exec (.readRecordDone sd ch) s = .next (s.refuse sd st code) := by
  show execReadRecordDone sd ch s = _
  unfold execReadRecordDone
  simp only [Side.runningCmd_readRecord h hop hrun hc, hd, hw, hp, Bool.not_true, Bool.or_self, Bool.false_eq_true, if_false]

theorem execReadRecordDone_copies {d : DoneRec} {g : Option Seg} {w : Side × List Word × Nat} (hp : (s.side sd).readPart st.e = .ok (d, g))
    (hwords : (s.side sd).recWords st.e d g = w) : exec (.readRecordDone sd ch) s
      = .next (((s.setSide sd w.1).copyTo sd st.e w.2.1).complete sd st (if w.2.2 = 0 then 0 else 0x1002) (lget st.aux 0 0).toNat
        w.2.1.length w.2.2) := by
  show execReadRecordDone sd ch s = _
  unfold execReadRecordDone
  simp only [Side.runningCmd_readRecord h hop hrun hc, hd, hw, hp, hwords, Bool.not_true, Bool.or_self, Bool.false_eq_true, if_false,
    beq_iff_eq]
  rfl

end

end

/-- R233: part 3 of a record that is complete names nothing. -/
theorem Side.readPart_three {x : Side} {e : CmdEntry} (ha : (x.acqOf (chanOf (e.op4 % 2))).armed = none)
    (hl : (x.acqOf (chanOf (e.op4 % 2))).last ≠ none) (hp : bitsOf e.op4 2 1 = 3) : x.readPart e = .error 0x2002 := by
  obtain ⟨d, hd⟩ := Option.ne_none_iff_exists'.1 hl
  unfold Side.readPart Side.armed
  simp only [ha, hd, hp, Option.isSome_none, Bool.false_eq_true, if_false, beq_self_eq_true, Bool.true_or, if_true]
  rfl

/-- R233: part 2 without a segment number is the header. -/
theorem Side.recWords_header {x : Side} {e : CmdEntry} {d : DoneRec} (hp : bitsOf e.op4 2 1 = 2) (hn : e.op7 % 2 ^ 17 = 0) :
    x.recWords e d none = (x, (x.acqOf (chanOf (e.op4 % 2))).hdr, 0) := by
  unfold Side.recWords
  rw [hp]
  simp only [hn, beq_self_eq_true, if_true]

/-- R233: part 0 is the samples of the segment. -/
theorem Side.recWords_samples {x : Side} {e : CmdEntry} {d : DoneRec} {g : Seg} (hp : bitsOf e.op4 2 1 = 0) :
    x.recWords e d (some g) = x.segSamples d.block d.mA g := by
  unfold Side.recWords
  rw [hp]
  rfl

/-! ### Steps of an armed record -/

section
variable {s : State} {sd : SideId} {ch : Chan} {r : Rec}

theorem acqWrite_writes {a : ASmp} {n : Nat} (ha : ((s.side sd).acqOf ch).armed = some r) (hr : (s.side sd).islRuns starterSrc = true)
    (hl : (s.side sd).acq.length = 2) (hs : r.samples = [a]) (hlines : r.lines = []) (hiq : rcIq r.block = true) (hd : rcDrain r.block = false)
    (hm : (s.side sd).mayWrite ch r a = true) (hn : 0 < n) : Does (.acqWrite sd ch n) s (fun t =>
      (∃ p1 p2, ((t.side sd).acqOf ch).armed = some { r with next := a.m + 1, samples := [], poison := p1, segPoison := p2 })
      ∧ (t.side sd).dram = { ((s.side sd).writeRange .dram (acqPort ch)
          (bw r.block 4 + r.slot * segW r.block + (a.m - r.mA) % max 1 (segW r.block)) [a.w]).dram with panic := (t.side sd).dram.panic }) := by
  have hkept := Side.recPart_writeRange (s.side sd) .dram (acqPort ch)
    (bw r.block 4 + r.slot * segW r.block + (a.m - r.mA) % max 1 (segW r.block)) [a.w]
  obtain ⟨p1, p2, hy⟩ := Side.armed_of_recPart hkept ha
  obtain ⟨harmed, hdram⟩ := Side.acqWrite_written ha hr (Side.writeSamples_one hs hm hiq hd hn) hlines hy
    ((Side.acqLength_of_recPart hkept).trans hl) rfl
  refine ⟨_, rfl, ?_⟩
  beta_reduce
  rw [State.side_mod]
  exact ⟨⟨p1, p2, harmed⟩, hdram⟩

theorem acqWrite_holds {a : ASmp} (n : Nat) (ha : ((s.side sd).acqOf ch).armed = some r) (hr : (s.side sd).islRuns starterSrc = true)
    (hl : (s.side sd).acq.length = 2) (hs : r.samples = [a]) (hlines : r.lines = []) (hm : (s.side sd).mayWrite ch r a = false) :
    Does (.acqWrite sd ch n) s (fun t => ((t.side sd).acqOf ch).armed = some r
      ∧ (t.side sd).dram = { (s.side sd).dram with panic := (t.side sd).dram.panic }) := by
  refine ⟨_, rfl, ?_⟩
  beta_reduce
  rw [State.side_mod]
  exact Side.acqWrite_written ha hr (Side.writeSamples_held hs hm _) hlines ha hl rfl

theorem segmentDone_finishes {g : Trig} {sg : Seg} (ha : ((s.side sd).acqOf ch).armed = some r) (hr : (s.side sd).islRuns starterSrc = true)
    (hl : (s.side sd).acq.length = 2) (hseg : rcSeg r.block = true) (ht : r.truncated = none) (hg : (s.side sd).segReady ch r = some (g, sg))
    (hs : (s.side sd).recStream ch = none) {r' : Rec}
    (hr' : r' = { r with segs := r.segs ++ [sg], slot := r.slot + 1, slotM := sg.last + 1, slotL := r.nextL, segPoison := false }) :
    Does (.segmentDone sd ch) s (fun t =>
      (∃ p1 p2, ((t.side sd).acqOf ch).armed = some { r' with poison := p1, segPoison := p2 })
      ∧ (t.side sd).get (ACQ_STAT.SEGS ch.n) = (r.segs.length + 1) % 2 ^ 17 ∧ (t.side sd).on (ACQ_STAT.IN_POST ch.n) = false
      ∧ (t.side sd).dram = (((s.side sd).setAcq ch { (s.side sd).acqOf ch with armed := some r' }).writeRange .dram (acqPort ch)
          (bw r.block 8 + 16 * (sg.num - 1)) ((s.side sd).segEntry ch r g sg)).dram) := by
  have hkept := Side.recPart_writeRange ((s.side sd).setAcq ch { (s.side sd).acqOf ch with armed := some r' }) .dram (acqPort ch)
    (bw r.block 8 + 16 * (sg.num - 1)) ((s.side sd).segEntry ch r g sg)
  have harmed := Side.armed_of_recPart hkept (congrArg Acq.armed (Side.acqOf_setAcq hl ch _))
  have hdone := Side.segmentDone_finishes ha hseg ht hg hs hr' rfl
  generalize ((s.side sd).setAcq ch { (s.side sd).acqOf ch with armed := some r' }).writeRange .dram (acqPort ch)
    (bw r.block 8 + 16 * (sg.num - 1)) ((s.side sd).segEntry ch r g sg) = y at *
  have hsegs : ((y.set (ACQ_STAT.SEGS ch.n) (r.segs.length + 1)).set (ACQ_STAT.IN_POST ch.n) 0).get (ACQ_STAT.SEGS ch.n)
      = (r.segs.length + 1) % 2 ^ 17 :=
    (Side.get_set_apart _ _ _ _ (by cases ch <;> decide)).trans (Side.get_set _ _ _ (by cases ch <;> decide) (by cases ch <;> decide))
  have hpost := Side.on_set_zero (y.set (ACQ_STAT.SEGS ch.n) (r.segs.length + 1)) (ACQ_STAT.IN_POST ch.n) (by cases ch <;> decide)
  refine ⟨_, execSegmentDone_runs hr, ?_⟩
  beta_reduce
  rw [State.side_setSide, hdone.acqOf, hdone.get _ (by cases ch <;> decide), hdone.on _ (by cases ch <;> decide)]
  exact ⟨harmed, hsegs, hpost, hdone.dram⟩

theorem recordDone_ends {segs : List Seg} {lost : Nat} {q : Acq} (ha : ((s.side sd).acqOf ch).armed = some r)
    (hr : (s.side sd).islRuns starterSrc = true) (hl : (s.side sd).acq.length = 2) (he : (s.side sd).recEnd ch r = some (segs, lost))
    (hs : (s.side sd).recStream ch = none) (hst : (s.side sd).host.staged = []) (hn : segs.length ≤ 65536)
    (hq : q = { (s.side sd).acqOf ch with
      armed := none, hdr := (s.side sd).recHeader ch r segs lost, last := some ⟨r.num, r.block, r.mA, segs, rcDrain r.block⟩
      lastPost := ((r.trigs.getLast?).map r.lastOf).or ((s.side sd).acqOf ch).lastPost }) :
    Does (.recordDone sd ch) s (fun t =>
      (t.side sd).acqOf ch = q ∧ (t.side sd).on (ACQ_STAT.ARMED ch.n) = false ∧ (t.side sd).on (ACQ_STAT.DONE ch.n) = true
        ∧ (t.side sd).on (ACQ_STAT.IN_POST ch.n) = false ∧ (t.side sd).on (ACQ_STAT.DRAIN ch.n) = false ∧ (t.side sd).dram = (s.side sd).dram
        ∧ (r.truncated ≠ none → (t.side sd).on (ACQ_STAT.TRUNC_SEEN ch.n) = true)) := by
  have hends := Side.recordDone_ends ha he hs hn rfl
  rw [← hq] at hends
  have hflags := Side.on_recordFlags (((s.side sd).dateRecord ch r.num).setAcq ch q) ch segs.length r.truncated.isSome
  obtain ⟨regs, hregs⟩ := Side.recordFlags_eq (((s.side sd).dateRecord ch r.num).setAcq ch q) ch segs.length r.truncated.isSome
  generalize (((s.side sd).dateRecord ch r.num).setAcq ch q).recordFlags ch segs.length r.truncated.isSome = y at *
  obtain ⟨hArmed, hDone, hPost, hDrain, hCut⟩ := hflags
  have hacq : y.acqOf ch = q := by
    rw [hregs]
    exact Side.acqOf_setAcq (x := (s.side sd).dateRecord ch r.num) hl ch q
  have hdram : y.dram = (s.side sd).dram := by rw [hregs]; rfl
  have hstaged : y.host.staged = [] := by
    rw [hregs]
    exact congrArg (List.map _) hst
  refine ⟨_, execRecordDone_runs hr rfl, ?_⟩
  beta_reduce
  rw [State.finishDisarm_nothing (by rw [State.side_setSide, hends.staged, hstaged]), State.side_setSide, hends.acqOf, hends.dram,
    hends.on _ (by cases ch <;> decide), hends.on _ (by cases ch <;> decide), hends.on _ (by cases ch <;> decide),
    hends.on _ (by cases ch <;> decide), hends.on _ (by cases ch <;> decide)]
  exact ⟨hacq, hArmed, hDone, hPost, hDrain, hdram, fun h => hCut (Option.isSome_iff_ne_none.2 h)⟩

end

/-- Settles O41: each step by what the record holds. -/
theorem recordProgress : Obligations.RecordProgress := by
  unfold Obligations.RecordProgress
  intro s sd ch r a g sg segs lost n st x q runs
  refine ⟨fun hr => ?_, fun ha => ⟨execAcqWrite_idle (Side.acqWrite_none n ha), execSegmentDone_idle (Side.segmentDone_none ha),
      execRecordDone_idle (Side.recordDone_none ha)⟩,
    fun ha hr hl => ⟨fun _ hs hlines hiq hd hm hn => acqWrite_writes ha hr hl hs hlines hiq hd hm hn,
      fun hs hm hlines => acqWrite_holds n ha hr hl hs hlines hm, fun hiq hw hf => ?_,
      fun hseg ht hg hs => segmentDone_finishes ha hr hl hseg ht hg hs rfl, fun h => execSegmentDone_idle (Side.segmentDone_waits ha h),
      fun he => execRecordDone_idle (Side.recordDone_waits ha he), fun he hs hst hn => recordDone_ends ha hr hl he hs hst hn rfl⟩,
    fun ha hr h hop hrun hc => ?_,
    fun h hop hrun hc hd hw => ⟨fun _ hp => execReadRecordDone_refused h hop hrun hc hd hw hp, fun ha hlast hpart => ?_,
      fun d hp hpart hn => ?_, fun d s' hp hpart => ?_⟩,
    execReadRecordDone_waits⟩
  · have hstop : (s.side sd).islRuns starterSrc = false := Bool.eq_false_iff.2 hr
    exact ⟨execAcqWrite_idle (Side.acqWrite_stopped n hstop), execSegmentDone_stopped hstop, execRecordDone_stopped hstop⟩
  · dsimp only
    rw [Side.fillBuffer_full hiq hw hf]
    refine ⟨?_, ?_, rfl⟩
    · exact congrArg Acq.armed (Side.acqOf_setAcq hl ch _)
    · exact (Side.get_bump _ _ _ (by cases ch <;> decide)).trans (congrArg (fun v => min (v + _) _) (Side.get_congr rfl rfl rfl _))
  · rw [execRecordDone_runs hr (Side.recordDone_none ha), State.setSide_self, State.finishDisarm_one h hop hrun hc ha]
  · subst hc
    exact execReadRecordDone_refused h hop hrun rfl hd hw (Side.readPart_three ha hlast hpart)
  · subst hc
    rw [execReadRecordDone_copies h hop hrun rfl hd hw hp (Side.recWords_header hpart hn), State.setSide_self]
    rfl
  · exact execReadRecordDone_copies h hop hrun hc hd hw hp (Side.recWords_samples hpart)

end Sys2Proof.Machine
end

section
/-! PROOFS. Dense packing of words into bytes (R251). -/

namespace Sys2Proof.Machine

/-- The number whose digits in base 2^36, least significant first, are the words. -/
def wordsNum (ws : List Word) : Nat := Nat.ofDigits (2 ^ 36) (ws.map BitVec.toNat)

theorem wordsNum_cons (w : Word) (ws : List Word) : wordsNum (w :: ws) = 2 ^ 36 * wordsNum ws + w.toNat := by
  simp [wordsNum, Nat.ofDigits_cons, Nat.add_comm]

theorem wordsNum_lt (ws : List Word) : wordsNum ws < 2 ^ (36 * ws.length) := by
  have h : ∀ d ∈ ws.map BitVec.toNat, d < 2 ^ 36 := fun d hd => by
    obtain ⟨w, _, rfl⟩ := List.mem_map.1 hd
    exact w.isLt
  simpa [wordsNum, Nat.pow_mul] using Nat.ofDigits_lt_base_pow_length (by decide : 1 < 2 ^ 36) h

/-- Bit b of word k is bit 36k + b of the number. -/
theorem testBit_wordsNum (ws : List Word) (k : Nat) (w : Word) (hw : ws[k]? = some w) (b : Nat) (hb : b < 36) :
    (wordsNum ws).testBit (36 * k + b) = w.getLsbD b := by
  induction ws generalizing k with
  | nil => cases hw
  | cons v ws ih =>
    rw [wordsNum_cons, Nat.testBit_two_pow_mul_add _ v.isLt]
    cases k with
    | zero =>
      obtain rfl : v = w := by simpa using hw
      rw [if_pos (by omega), Nat.mul_zero, Nat.zero_add, BitVec.testBit_toNat]
    | succ k => rw [if_neg (by omega), show 36 * (k + 1) + b - 36 = 36 * k + b by omega, ih k (by simpa using hw)]

/-- Summing the words by their places gives their number. -/
theorem foldl_zipIdx_eq_wordsNum (ws : List Word) (m a : Nat) :
    (ws.zipIdx m).foldl (fun a p => a + p.1.toNat * 2 ^ (36 * p.2)) a = a + 2 ^ (36 * m) * wordsNum ws := by
  induction ws generalizing m a with
  | nil => rfl
  | cons w ws ih =>
    rw [List.zipIdx_cons, List.foldl_cons, ih, wordsNum_cons, Nat.mul_add 36 m 1, Nat.pow_add]
    ring

theorem packBytes_dense (ws : List Word) : packBytes true ws = bytesOf ((9 * ws.length + 1) / 2) (wordsNum ws) := by
  simp [packBytes, foldl_zipIdx_eq_wordsNum]

@[simp] theorem length_bytesOf (n v : Nat) : (bytesOf n v).length = n := by simp [bytesOf]

theorem getElem?_bytesOf {n i : Nat} (v : Nat) (h : i < n) : (bytesOf n v)[i]? = some (BitVec.ofNat 8 (v / 2 ^ (8 * i))) := by
  simp [bytesOf, h, Nat.pow_mul]

/-- Bit 8i + j of a number is bit j of its byte i. -/
theorem getLsbD_byte (v i j : Nat) (h : j < 8) : (BitVec.ofNat 8 (v / 2 ^ (8 * i))).getLsbD j = v.testBit (8 * i + j) := by
  rw [BitVec.getLsbD_ofNat, Nat.testBit_div_two_pow, decide_eq_true h, Bool.true_and, Nat.add_comm]

/-- Of an odd number of words only four bits reach into the last byte. -/
theorem getLast?_packBytes_odd {ws : List Word} (h : ws.length % 2 = 1) :
    ∃ y, (packBytes true ws).getLast? = some y ∧ y.toNat < 16 := by
  have hlen : (9 * ws.length + 1) / 2 = (9 * ws.length - 1) / 2 + 1 := by omega
  have hbits : 2 ^ (36 * ws.length) = 2 ^ (8 * ((9 * ws.length - 1) / 2)) * 16 := by
    rw [show (16 : Nat) = 2 ^ 4 from rfl, ← Nat.pow_add]
    congr 1
    omega
  have hlt : wordsNum ws / 2 ^ (8 * ((9 * ws.length - 1) / 2)) < 16 :=
    Nat.div_lt_of_lt_mul (hbits ▸ wordsNum_lt ws)
  refine ⟨BitVec.ofNat 8 (wordsNum ws / 2 ^ (8 * ((9 * ws.length - 1) / 2))), ?_, (Nat.mod_le _ _).trans_lt hlt⟩
  rw [packBytes_dense, List.getLast?_eq_getElem?, length_bytesOf, hlen, Nat.add_sub_cancel, getElem?_bytesOf _ (by omega)]

/-- Settles O60: the words are the digits in base 2^36, the bytes those in base 256, of one number. -/
theorem densePacking : Obligations.DensePacking := by
  unfold Obligations.DensePacking
  intro ws bs
  have hbs : bs = bytesOf ((9 * ws.length + 1) / 2) (wordsNum ws) := packBytes_dense ws
  refine ⟨by rw [hbs, length_bytesOf], fun k w hw b hb => ?_, getLast?_packBytes_odd⟩
  have hk : k < ws.length := (List.getElem?_eq_some_iff.1 hw).1
  refine ⟨_, hbs ▸ getElem?_bytesOf _ (by omega), ?_⟩
  rw [getLsbD_byte _ _ _ (Nat.mod_lt _ (by decide)), Nat.div_add_mod, testBit_wordsNum ws k w hw b hb]

end Sys2Proof.Machine
end

section
/-! PROOFS. Package resets (R444, R445): RESET_N, the rails, and what the sides show when they leave reset. -/

namespace Sys2Proof.Machine

/-! ### Leaving reset (R445) -/

/-- A side that leaves reset shows the straps and the cause of the reset. -/
theorem Side.leaveReset_shows (x : Side) (p : Package) : (x.leaveReset p).on RESET_STAT.COXPREF = p.coxpref
    ∧ (x.leaveReset p).on KEEL_COX_STAT.COXPREF = p.coxpref ∧ (x.leaveReset p).on RESET_STAT.BOOTSRC = p.bootsrc
    ∧ (x.leaveReset p).get RESET_STAT.CAUSE = p.cause % 8 := by
  simp only [Side.leaveReset, Side.put_eq]
  refine ⟨?_, ?_, ?_, Side.get_set _ _ _ (by decide) (by decide)⟩
  · simp (disch := decide) only [Side.on_set_apart, Side.on_set_b2n]
  · simp (disch := decide) only [Side.on_set_apart, Side.on_set_b2n]
  · simp (disch := decide) only [Side.on_set_apart, Side.on_set_b2n]

theorem Side.regsOf_leaveReset (x : Side) (p : Package) : x.regsOf (x.leaveReset p) :=
  Side.regsOf_set (Side.regsOf_set (Side.regsOf_set (Side.regsOf_set x.regsOf_refl ..) ..) ..) ..

theorem Side.regsOf.fe {x y : Side} (h : x.regsOf y) : y.fe = x.fe := by
  obtain ⟨r, rfl⟩ := h
  rfl

@[simp] theorem State.side_release (s : State) (i : SideId) : s.release.side i = (s.side i).leaveReset s.pkg := by cases i <;> rfl

/-- What both sides show after the release, beside their front ends as before. -/
theorem State.release_shows (s : State) (i : SideId) : (s.release.side i).on RESET_STAT.COXPREF = s.pkg.coxpref
    ∧ (s.release.side i).on KEEL_COX_STAT.COXPREF = s.pkg.coxpref ∧ (s.release.side i).on RESET_STAT.BOOTSRC = s.pkg.bootsrc
    ∧ (s.release.side i).get RESET_STAT.CAUSE = s.pkg.cause % 8 ∧ (s.release.side i).fe = (s.side i).fe := by
  rw [State.side_release]
  obtain ⟨hrc, hkc, hb, hcause⟩ := (s.side i).leaveReset_shows s.pkg
  exact ⟨hrc, hkc, hb, hcause, ((s.side i).regsOf_leaveReset s.pkg).fe⟩

theorem State.release_host (s : State) (i : SideId) : (s.release.side i).host = (s.side i).host := by
  rw [State.side_release]
  exact ((s.side i).regsOf_leaveReset s.pkg).host

/-! ### RESET_N and the rails -/

theorem execResetN_low {s : State} (h : s.pkg.resetN = true) : exec .resetN s = .next s :=
  congrArg Host.Outcome.next (if_pos h)

theorem execResetN_high {s : State} (h : s.pkg.resetN = false) : exec .resetN s
    = .next { s.coldReset with pkg := { s.pkg with resetN := true, cause := if s.pkg.railOk then 1 else s.pkg.cause } } :=
  congrArg Host.Outcome.next (if_neg (by simp [h]))

theorem execResetNRelease_high {s : State} (coxpref bootsrc : Bool) (h : s.pkg.resetN = false) :
    exec (.resetNRelease coxpref bootsrc) s = .next s :=
  congrArg Host.Outcome.next (if_pos (by simp [h]))

/-- The package once RESET_N is high, with the straps it sampled. -/
def Package.strapped (p : Package) (coxpref bootsrc : Bool) : Package := { p with resetN := false, coxpref := coxpref, bootsrc := bootsrc }

theorem execResetNRelease_low {s : State} (coxpref bootsrc : Bool) (h : s.pkg.resetN = true) :
    exec (.resetNRelease coxpref bootsrc) s
      = .next (if s.pkg.railOk then ({ s with pkg := s.pkg.strapped coxpref bootsrc } : State).release
          else { s with pkg := s.pkg.strapped coxpref bootsrc }) :=
  congrArg Host.Outcome.next (if_neg (by simp [h]))

theorem execRailValid_good {s : State} (h : s.pkg.railOk = true) : exec .railValid s = .next s :=
  congrArg Host.Outcome.next (if_pos h)

theorem execRailValid_bad {s : State} (h : s.pkg.railOk = false) : exec .railValid s
    = .next (if s.pkg.resetN then { s with pkg := { s.pkg with railOk := true } }
        else ({ s with pkg := { s.pkg with railOk := true } } : State).release) :=
  congrArg Host.Outcome.next (if_neg (by simp [h]))

/-- Both rails and RESET_N are good, so the dies run. -/
theorem State.held_of_good {s : State} (hn : s.pkg.resetN = false) (hr : s.pkg.railOk = true) : s.held = false := by
  simp [State.held, hn, hr]

end Sys2Proof.Machine
end

section
/-! PROOFS. Start-up (R249, R325, R357, R450, R451): what each phase that succeeds leaves, and the codes of those that fail. -/

namespace Sys2Proof.Machine

/-! ### INIT_PHASE -/

/-- Start-up goes on: the dies run, and the side is neither READY nor stopped. -/
@[reducible] def State.begun (s : State) (sd : SideId) : Prop :=
  s.held = false ∧ (s.side sd).on INIT_STAT.READY = false ∧ (s.side sd).on INIT_STAT.FAILED = false

/-- R450: what the result of phase n makes of a side. -/
def Side.initNext (x : Side) (flash : Bool) (n : Nat) (r : InitResult) : Side :=
  match n, r with
  | 0, .alwaysOn => x.set INIT_STAT.PHASE 1
  | 1, .pllLock ref100 refOk => if refOk then x.initPlls ref100 else x.initFail 1
  | 2, .fuseLoad ok => if ok then x.initFuses else x.initFail 2
  | 3, .sramFill ok => if ok then x.initSram else x.initFail 3
  | 4, .dramTrain dir mods => x.initDram dir mods
  | 5, .dramFill => x.initFill
  | 6, .calibration trip runs => if trip then x.initFail 4 else x.initCal runs
  | 7, .coxRelease images => x.initCores flash images
  | _, _ => x

theorem Side.initNext_train (x : Side) (flash : Bool) (dir : Option (List Word)) (mods : List DramModule) :
    x.initNext flash 4 (.dramTrain dir mods) = x.initDram dir mods := rfl

theorem execInitPhase_idle {s : State} {sd : SideId} (r : InitResult) (h : ¬s.begun sd) : exec (.initPhase sd r) s = .next s := by
  refine congrArg Host.Outcome.next (if_pos ?_)
  by_contra hn
  simp only [Bool.or_eq_true, not_or, Bool.not_eq_true] at hn
  exact h ⟨hn.1.1, hn.1.2, hn.2⟩

theorem execInitPhase_begun {s : State} {sd : SideId} (r : InitResult) {n : Nat} (h : s.begun sd) (hn : (s.side sd).get INIT_STAT.PHASE = n) :
    exec (.initPhase sd r) s = .next (s.mod sd (fun x => x.initNext (!s.pkg.bootsrc) n r)) := by
  obtain ⟨hh, hr, hf⟩ := h
  subst hn
  refine congrArg Host.Outcome.next ((if_neg ?_).trans ?_)
  · simp [hh, hr, hf]
  · rfl

/-- A phase of which the result is given leaves what holds of the side it makes. -/
theorem initPhase_does {s : State} {sd : SideId} {r : InitResult} {n : Nat} {P : State → Prop} (h : s.begun sd)
    (hn : (s.side sd).get INIT_STAT.PHASE = n) (hP : ∀ t : State, t.side sd = (s.side sd).initNext (!s.pkg.bootsrc) n r → P t) :
    Does (.initPhase sd r) s P :=
  ⟨_, execInitPhase_begun r h hn, hP _ (State.side_mod ..)⟩

/-! ### Phases 1 to 3 -/

theorem Side.initPlls_shows (x : Side) (ref100 : Bool) : (x.initPlls ref100).get INIT_STAT.PHASE = 2
    ∧ (x.initPlls ref100).on PLL_STAT.F_LOCK = true ∧ (x.initPlls ref100).on PLL_STAT.T_LOCK = true
    ∧ (x.initPlls ref100).on PLL_STAT.M_LOCK = true ∧ (x.initPlls ref100).on PLL_LOCK_CFG.REF100 = ref100 := by
  simp only [Side.initPlls, Side.put_eq, Side.raise_eq]
  refine ⟨Side.get_set_self _ _ _ (by decide) (by decide), ?_, ?_, ?_, ?_⟩
  · simp (disch := decide) only [Side.on_set_apart, Side.on_set_one]
  · simp (disch := decide) only [Side.on_set_apart, Side.on_set_one]
  · simp (disch := decide) only [Side.on_set_apart, Side.on_set_one]
  · simp (disch := decide) only [Side.on_set_apart, Side.on_set_b2n]

theorem Side.initFuses_shows (x : Side) : x.initFuses.get INIT_STAT.PHASE = 3 ∧ x.initFuses.fuse = true ∧ x.initFuses.get AVS_VID.VID ≤ 52 := by
  refine ⟨Side.get_set_self _ _ _ (by decide) (by decide), rfl, ?_⟩
  have hv : ∀ n, n % 53 ≤ 52 := fun n => Nat.le_of_lt_succ (Nat.mod_lt n (by decide))
  simp only [Side.initFuses]
  rw [Side.get_set_apart _ _ _ _ (by decide), Side.get_set_apart _ _ _ _ (by decide),
    Side.get_set_self _ _ _ (by decide) ((hv _).trans_lt (by decide))]
  exact hv _

theorem Side.initSram_shows (x : Side) : x.initSram.get INIT_STAT.PHASE = 4 ∧ x.initSram.get INIT_STAT.FILL_PCT = 100
    ∧ ∀ a, wget x.initSram.sram.mem.words a = 0 := by
  refine ⟨Side.get_set_self _ _ _ (by decide) (by decide), ?_, fun _ => rfl⟩
  exact (Side.get_set_apart _ _ _ _ (by decide)).trans (Side.get_set_self _ _ _ (by decide) (by decide))

/-! ### Phase 4 without memory modules (R290, R450, R451) -/

/-- DRAM channel c is left out, for a cause. -/
def Side.leaveOut (x : Side) (c e : Nat) : Side :=
  ((x.raise (DRAM_STAT.MAPPED_OUT c)).set (DRAM_STAT.OUT_CAUSE c) e).orBit INIT_STAT.DRAM_OUT c

/-- Why a channel without a module is left out: it is kept out, or absent. -/
def absentCause (keep c : Nat) : Nat := if bitAt keep c then 5 else 1

theorem outCause_absent (keep c : Nat) (ref : DramModule) : outCause (bitAt keep c) none ref = absentCause keep c := rfl

theorem absentCause_ne (keep c : Nat) : (absentCause keep c != 0) = true := by
  unfold absentCause
  split <;> rfl

theorem absentCause_lt (keep c : Nat) : absentCause keep c < 16 := by
  unfold absentCause
  split <;> decide

/-- The configuration of DRAM where no channel holds a module and the flash answers nothing. -/
def Side.dramAbsent (x : Side) : Side :=
  let x := (x.put RESET_STAT.FLASH_OK false).put RESET_STAT.DESC_OK false
  let x := ((x.set DRAM_CFG.RATE 4).set DRAM_CFG.ALT_RATE 7).put DRAM_CFG.MEMDOWN false
  (x.set DRAM_CFG.POP 0).set DRAM_CFG.NSUB 0

/-- Channels 0 to n - 1 left out, each for its cause. -/
def Side.leaveOutAll (x : Side) (cause : Nat → Nat) (n : Nat) : Side := (List.range n).foldl (fun x c => x.leaveOut c (cause c)) x

/-- Training without modules: every channel is left out, and the map of DRAM is empty. -/
theorem Side.initDram_absent (x : Side) : x.initDram none []
    = let y := x.dramAbsent.leaveOutAll (absentCause (x.get DRAM_MAPOUT.KEEP_OUT)) 4
      (({ y with
        pwr := { y.pwr with img := 0 }
        dram := { Dram.init with chans := [], subCap := 0, train := [[], [], [], []], train2 := [[], [], [], []] } } : Side).set
          INIT_STAT.FILL_PCT 0).set INIT_STAT.PHASE 5 := by
  have hdesc : dramDescOk x.who none = false := rfl
  have hflash : flashOk none = false := rfl
  have hparams : ∀ c, paramsOf false 0 (lget ([] : List DramModule) c ⟨false, false, false, false, 0, [], []⟩) = none := fun _ => rfl
  have hpop : maskN 4 (List.contains ([] : List Nat)) = 0 := rfl
  have hrange : List.range 4 = [0, 1, 2, 3] := rfl
  simp only [Side.initDram, Side.leaveOutAll, Side.leaveOut, Side.dramAbsent, hdesc, hflash, hparams, hpop, hrange, outCause_absent,
    absentCause_ne, Bool.false_and, Bool.false_eq_true, if_false, if_true, Option.isSome_none, List.isEmpty_nil, List.foldl_nil,
    List.foldl_cons, List.map_cons, List.map_nil, List.zipIdx_cons, List.zipIdx_nil, List.filter_cons, List.filter_nil,
    List.getElem?_cons_zero, List.getElem?_cons_succ, List.length_nil, Nat.mul_zero, Nat.reduceAdd]

theorem Side.leaveOutAll_succ (x : Side) (cause : Nat → Nat) (n : Nat) :
    x.leaveOutAll cause (n + 1) = (x.leaveOutAll cause n).leaveOut n (cause n) := by
  unfold Side.leaveOutAll
  rw [List.range_succ, List.foldl_append]
  rfl

theorem Side.get_leaveOut_ne (x : Side) (c e : Nat) {g : Fld} (hc : g.idx ≠ 0xA004 + c) (hi : g.idx ≠ 1) : (x.leaveOut c e).get g = x.get g := by
  unfold Side.leaveOut
  rw [Side.get_orBit_apart _ _ _ _ (.inl hi), Side.get_set_ne _ _ _ _ hc, Side.raise_eq, Side.get_set_ne _ _ _ _ hc]

/-- A channel left out shows that, and why. -/
theorem Side.leaveOut_shows (x : Side) (c : Nat) {e : Nat} (he : e < 16) :
    (x.leaveOut c e).on (DRAM_STAT.MAPPED_OUT c) = true ∧ (x.leaveOut c e).get (DRAM_STAT.OUT_CAUSE c) = e := by
  have hi : 0xA004 + c ≠ 1 := by omega
  unfold Side.leaveOut
  constructor
  · unfold Side.on
    rw [Side.get_orBit_apart _ _ _ _ (.inl hi)]
    have hapart : (DRAM_STAT.OUT_CAUSE c).apart (DRAM_STAT.MAPPED_OUT c) := .inr (show 14 ≤ 17 ∧ 34 < 36 ∧ (34 < 14 ∨ 17 < 34) by decide)
    exact (Side.on_set_apart _ _ _ _ hapart).trans (Side.on_set_one _ _ (show 34 = 34 ∧ 34 < 36 by decide))
  · rw [Side.get_orBit_apart _ _ _ _ (.inl hi)]
    exact Side.get_set_self _ _ _ (show 14 ≤ 17 ∧ 17 < 36 by decide) he

theorem Side.get_leaveOutAll_ne (x : Side) (cause : Nat → Nat) (n : Nat) {g : Fld} (hg : ∀ c < n, g.idx ≠ 0xA004 + c) (hi : g.idx ≠ 1) :
    (x.leaveOutAll cause n).get g = x.get g := by
  induction n with
  | zero => rfl
  | succ n ih =>
    rw [Side.leaveOutAll_succ, Side.get_leaveOut_ne _ _ _ (hg n n.lt_succ_self) hi]
    exact ih fun c hc => hg c (hc.trans n.lt_succ_self)

theorem Side.leaveOutAll_shows (x : Side) {cause : Nat → Nat} (hcause : ∀ c, cause c < 16) {n c : Nat} (h : c < n) :
    (x.leaveOutAll cause n).on (DRAM_STAT.MAPPED_OUT c) = true ∧ (x.leaveOutAll cause n).get (DRAM_STAT.OUT_CAUSE c) = cause c := by
  induction n with
  | zero => cases h
  | succ n ih =>
    rw [Side.leaveOutAll_succ]
    rcases Nat.lt_succ_iff_lt_or_eq.1 h with hc | rfl
    · have hne : ∀ hi lo, (((x.leaveOutAll cause n).leaveOut n (cause n)).get ⟨0xA004 + c, hi, lo⟩
          = (x.leaveOutAll cause n).get ⟨0xA004 + c, hi, lo⟩) := fun _ _ =>
        Side.get_leaveOut_ne _ _ _ (by show 0xA004 + c ≠ 0xA004 + n; omega) (by show 0xA004 + c ≠ 1; omega)
      unfold Side.on
      rw [DRAM_STAT.MAPPED_OUT, DRAM_STAT.OUT_CAUSE, hne, hne]
      exact ih hc
    · exact Side.leaveOut_shows _ _ (hcause _)

/-- Fields of the DRAM block are those of the channels left out. -/
theorem Side.get_initDram_absent (x : Side) {g : Fld} (hi : g.idx ≠ 1) :
    (x.initDram none []).get g = (x.dramAbsent.leaveOutAll (absentCause (x.get DRAM_MAPOUT.KEEP_OUT)) 4).get g := by
  rw [Side.initDram_absent]
  exact (Side.get_set_ne _ _ _ _ hi).trans ((Side.get_set_ne _ _ _ _ hi).trans (Side.get_congr rfl rfl rfl g))

theorem Side.initDram_absent_shows (x : Side) : (x.initDram none []).get INIT_STAT.PHASE = 5 ∧ (x.initDram none []).dram.chans = []
    ∧ (x.initDram none []).get DRAM_CFG.POP = 0 ∧ ∀ c < 4, (x.initDram none []).on (DRAM_STAT.MAPPED_OUT c) = true
      ∧ (bitAt (x.get DRAM_MAPOUT.KEEP_OUT) c = false → (x.initDram none []).get (DRAM_STAT.OUT_CAUSE c) = 1) := by
  refine ⟨?_, ?_, ?_, fun c hc => ?_⟩
  · rw [Side.initDram_absent]
    exact Side.get_set_self _ _ _ (by decide) (by decide)
  · rw [Side.initDram_absent]
    rfl
  · rw [Side.get_initDram_absent x (by decide), Side.get_leaveOutAll_ne _ _ _ (by decide) (by decide)]
    exact (Side.get_set_apart _ _ _ _ (by decide)).trans (Side.get_set_self _ _ _ (by decide) (by decide))
  · have hi : 0xA004 + c ≠ 1 := by omega
    obtain ⟨hout, hcause⟩ := x.dramAbsent.leaveOutAll_shows (absentCause_lt (x.get DRAM_MAPOUT.KEEP_OUT)) hc
    refine ⟨?_, fun hk => ?_⟩
    · unfold Side.on
      rw [Side.get_initDram_absent x hi]
      exact hout
    · rw [Side.get_initDram_absent x hi, hcause, absentCause, hk]
      rfl

/-! ### Phases 5 to 7 -/

theorem Side.initFill_shows (x : Side) : x.initFill.get INIT_STAT.PHASE = 6
    ∧ x.initFill.dram.extent = 16 * (2 * x.dram.chans.length) * x.dram.subCap ∧ ∀ a, wget x.initFill.dram.mem.words a = 0 :=
  ⟨Side.get_set_self _ _ _ (by decide) (by decide), rfl, fun _ => rfl⟩

theorem Side.get_phase_initCal (x : Side) (runs : List CalRuns) : (x.initCal runs).get INIT_STAT.PHASE = 7 :=
  Side.get_set_self _ _ _ (by decide) (by decide)

/-- The last phase makes the side READY; without boot from flash no core changes. -/
theorem Side.initCores_shows (x : Side) (flash : Bool) (images : List (List Word)) : (x.initCores flash images).get INIT_STAT.PHASE = 8
    ∧ (x.initCores flash images).on INIT_STAT.READY = true ∧ (flash = false → (x.initCores flash images).cores = x.cores) := by
  refine ⟨Side.get_set_self _ _ _ (by decide) (by decide), ?_, fun h => ?_⟩
  · exact (Side.on_set_apart _ _ _ _ (by decide)).trans (Side.on_set_one _ _ (by decide))
  · subst h
    rfl

end Sys2Proof.Machine
end

section
/-! PROOFS. Side resets (R446, R447): what a side keeps through its reset, and what becomes of the commands of its rings. -/

namespace Sys2Proof.Machine

/-! ### Registers that a side reset keeps (R446) -/

/-- The fields that a side reset keeps. -/
def keptFields : List Fld := (sideKeeps (Side.init .stroke)).map Prod.fst

theorem sideKeeps_eq (x : Side) : sideKeeps x = keptFields.map (fun f => (f, x.get f)) := by
  unfold keptFields sideKeeps
  rw [List.map_map, List.map_map]
  rfl

theorem Side.get_cold (x : Side) (f : Fld) : x.cold.get f = (Side.init x.who).get f := Side.get_congr rfl rfl rfl f

/-- A field is given a value, unless it holds it. -/
def Side.restore (y : Side) (p : Fld × Nat) : Side := if y.get p.1 == p.2 then y else y.set p.1 p.2

/-- The side after RESET_N, with what it keeps of side x. -/
def Side.restored (x : Side) : Side := (sideKeeps x).foldl (fun y p => if y.get p.1 == p.2 then y else y.set p.1 p.2) x.cold

theorem Side.restored_eq (x : Side) : x.restored = (keptFields.map (fun f => (f, x.get f))).foldl Side.restore x.cold := by
  rw [← sideKeeps_eq]
  rfl

theorem Side.regsOf_restore {x y : Side} (h : x.regsOf y) (p : Fld × Nat) : x.regsOf (y.restore p) := by
  unfold Side.restore
  split
  · exact h
  · exact Side.regsOf_set h _ _

theorem Side.regsOf_restored (x : Side) : x.cold.regsOf x.restored := by
  rw [Side.restored_eq]
  exact foldl_keeps (fun y => x.cold.regsOf y) _ (fun _ p h => Side.regsOf_restore h p) _ _ x.cold.regsOf_refl

theorem Side.get_restore_apart (y : Side) (p : Fld × Nat) (g : Fld) (h : p.1.apart g) : (y.restore p).get g = y.get g := by
  unfold Side.restore
  split
  · rfl
  · exact Side.get_set_apart _ _ _ _ h

theorem Side.get_restore_self (x y : Side) (f : Fld) (h : f.lo ≤ f.hi ∧ f.hi < 36) : (y.restore (f, x.get f)).get f = x.get f := by
  unfold Side.restore
  split
  · next e => exact eq_of_beq e
  · exact Side.get_set_self _ _ _ h (x.get_lt f)

/-- A field that is restored, and of which no other field restored holds a bit, reads as in side x. -/
theorem Side.get_foldl_restore (x : Side) (f : Fld) (hf : f.lo ≤ f.hi ∧ f.hi < 36) (l : List Fld) (hl : ∀ g ∈ l, g = f ∨ g.apart f) (y : Side)
    (h : f ∈ l ∨ y.get f = x.get f) : ((l.map (fun g => (g, x.get g))).foldl Side.restore y).get f = x.get f := by
  induction l generalizing y with
  | nil => exact h.resolve_left List.not_mem_nil
  | cons g l ih =>
    rw [List.map_cons, List.foldl_cons]
    refine ih (fun k hk => hl k (List.mem_cons_of_mem g hk)) _ ?_
    rcases hl g List.mem_cons_self with rfl | hg
    · exact .inr (Side.get_restore_self x y g hf)
    · rw [Side.get_restore_apart _ _ _ hg]
      refine h.imp_left fun hm => (List.mem_cons.1 hm).resolve_left ?_
      rintro rfl
      obtain hn | ⟨hle, _, hd⟩ := hg
      · exact hn rfl
      · omega

theorem Side.get_restored_kept (x : Side) (f : Fld) (hf : f.lo ≤ f.hi ∧ f.hi < 36) (hm : f ∈ keptFields)
    (hl : ∀ g ∈ keptFields, g = f ∨ g.apart f) : x.restored.get f = x.get f := by
  rw [Side.restored_eq]
  exact Side.get_foldl_restore x f hf keptFields hl _ (.inl hm)

theorem Side.get_restored_apart (x : Side) (f : Fld) (hl : ∀ g ∈ keptFields, g.apart f) : x.restored.get f = x.cold.get f := by
  rw [Side.restored_eq]
  refine List.foldlRecOn (motive := fun y : Side => y.get f = x.cold.get f) _ _ rfl fun y hy p hp => ?_
  obtain ⟨g, hg, rfl⟩ := List.mem_map.1 hp
  rw [Side.get_restore_apart _ _ _ (hl g hg), hy]

/-! ### A side after its reset (R447) -/

/-- What a side holds beside its registers after its reset: as after RESET_N, but for its faults' state and its error log. -/
theorem Side.warm_eq (x : Side) : ∃ r, x.warm
    = { x.cold with regs := r, col := ⟨[], x.col.alive, 0⟩, host := { x.cold.host with aer := x.host.aer } } := by
  obtain ⟨r, hr⟩ := x.regsOf_restored
  unfold Side.restored at hr
  unfold Side.warm
  rw [hr]
  exact ⟨_, rfl⟩

theorem Side.get_warm (x : Side) (f : Fld)
    (h : RESET_STAT.SIDE_RESETS.apart f ∧ RESET_STAT.CAUSE.apart f ∧ INIT_STAT.PHASE.apart f) : x.warm.get f = x.restored.get f := by
  obtain ⟨hn, hc, hp⟩ := h
  exact (Side.get_set_apart _ _ _ _ hp).trans ((Side.get_set_apart _ _ _ _ hc).trans
    ((Side.get_set_apart _ _ _ _ hn).trans (Side.get_congr rfl rfl rfl f)))

/-- A field that is kept, beside the count and the cause of resets, reads as before the reset. -/
theorem Side.get_warm_kept (x : Side) (f : Fld) (hf : f.lo ≤ f.hi ∧ f.hi < 36) (hm : f ∈ keptFields)
    (hl : ∀ g ∈ keptFields, g = f ∨ g.apart f)
    (h : RESET_STAT.SIDE_RESETS.apart f ∧ RESET_STAT.CAUSE.apart f ∧ INIT_STAT.PHASE.apart f) : x.warm.get f = x.get f :=
  (x.get_warm f h).trans (x.get_restored_kept f hf hm hl)

/-- R447: start-up begins anew at phase 1, and the reset is counted, with its cause. -/
theorem Side.warm_restarts (x : Side) : x.warm.get INIT_STAT.PHASE = 1 ∧ x.warm.on INIT_STAT.READY = false
    ∧ x.warm.get RESET_STAT.CAUSE = 2 ∧ x.warm.get RESET_STAT.SIDE_RESETS = min (x.get RESET_STAT.SIDE_RESETS + 1) 65535 := by
  refine ⟨Side.get_set_self _ _ _ (by decide) (by decide), ?_, ?_, ?_⟩
  · unfold Side.on
    rw [Side.get_warm _ _ (by decide), Side.get_restored_apart _ _ (by decide +kernel), Side.get_cold]
    cases x.who <;> decide
  · exact (Side.get_set_apart _ _ _ _ (by decide)).trans (Side.get_set_self _ _ _ (by decide) (by decide))
  · refine (Side.get_set_apart _ _ _ _ (by decide)).trans ((Side.get_set_apart _ _ _ _ (by decide)).trans
      (Side.get_set_self _ _ _ (by decide) ?_))
    exact (Nat.min_le_right _ _).trans_lt (by decide)

/-- R446, R447: the fault history, the epoch and the link of the PCIe core are kept. -/
theorem Side.warm_keeps (x : Side) : x.warm.get FAULT_HIST_WP.whole = x.get FAULT_HIST_WP.whole
    ∧ x.warm.get KEEL_COX_STAT.EPOCH = x.get KEEL_COX_STAT.EPOCH ∧ x.warm.on HOST_STAT.LINK_UP = x.on HOST_STAT.LINK_UP := by
  unfold Side.on
  refine ⟨?_, ?_, ?_⟩
  · exact x.get_warm_kept _ (by decide) (by decide +kernel) (by decide +kernel) (by decide)
  · exact x.get_warm_kept _ (by decide) (by decide +kernel) (by decide +kernel) (by decide)
  · rw [x.get_warm_kept _ (by decide) (by decide +kernel) (by decide +kernel) (by decide)]

/-- Beside its registers a side is as after RESET_N, where host memory stands. -/
theorem Side.warm_rest (x : Side) (sd : SideId) :
    x.warm.pwr.resetPend = false ∧ x.warm.fe = (Side.init sd).fe ∧ x.warm.host.mem = x.host.mem := by
  obtain ⟨r, h⟩ := x.warm_eq
  rw [h]
  exact ⟨rfl, rfl, rfl⟩

/-! ### SIDE_RESET_ASSERT (R447) -/

/-- Aborting the commands of the other side's rings leaves the side itself. -/
theorem State.side_abortRemote (s : State) (sd : SideId) : (s.abortRemote sd).side sd = s.side sd := by
  unfold State.abortRemote
  refine foldl_keeps (fun t : State => t.side sd = s.side sd) _ (fun t _ ht => ?_) _ _
    (foldl_keeps (fun t : State => t.side sd = s.side sd) _ (fun t _ ht => ?_) _ _ ?_)
  · exact (State.side_of_mod_other ..).trans ht
  · exact (State.side_of_mod_other ..).trans ht
  · exact State.side_keel ..

/-- Forgetting the commands of a side's rings leaves every field but the marks of copies. -/
theorem Side.get_forgetIssued (x : Side) (sd : SideId) {g : Fld} (h : ∀ c : Chan, g.idx ≠ (DENS_STAT.COPYING c.n).idx) :
    (x.forgetIssued sd).get g = x.get g := by
  have hcopy : ∀ (y : Side) (c : Chan), (y.forgetCopy sd c).get g = y.get g := fun y c => by
    unfold Side.forgetCopy
    split
    · split
      · exact (Side.get_set_ne _ _ _ _ (h c)).trans (Side.get_congr rfl rfl rfl g)
      · rfl
    · rfl
  unfold Side.forgetIssued
  rw [hcopy, hcopy]
  exact Side.get_congr rfl rfl rfl g

theorem Side.staged_forgetIssued (x : Side) (sd : SideId) : ∀ d ∈ (x.forgetIssued sd).host.staged, d.issuer ≠ sd := by
  obtain ⟨r, e, h⟩ := x.forgetIssued_eq sd
  rw [h]
  exact fun d hd => by simpa using (List.mem_filter.1 hd).2

theorem execSideResetAssert_idle {s : State} {sd : SideId} (h : s.held = true ∨ (s.side sd).pwr.resetPend = false) :
    exec (.sideResetAssert sd) s = .next s := by
  refine congrArg Host.Outcome.next (if_pos ?_)
  rcases h with h | h <;> simp [h]

theorem execSideResetAssert_pending {s : State} {sd : SideId} (hh : s.held = false) (hp : (s.side sd).pwr.resetPend = true) :
    exec (.sideResetAssert sd) s = .next (((s.abortRemote sd).dropIssued sd).mod sd Side.warm) :=
  congrArg Host.Outcome.next (if_neg (by simp [hh, hp]))

theorem State.side_sideReset (s : State) (sd : SideId) :
    (((s.abortRemote sd).dropIssued sd).mod sd Side.warm).side sd = ((s.side sd).forgetIssued sd).warm := by
  rw [State.side_mod, State.side_dropIssued, State.side_abortRemote]

/-- R447: what a side reset that is pending makes of its side, and of the commands of its rings on the other side. -/
theorem sideResetAssert_does {s : State} {sd : SideId} (hh : s.held = false) (hp : (s.side sd).pwr.resetPend = true) :
    Does (.sideResetAssert sd) s (fun t =>
      let x := s.side sd
      let y := t.side sd
      y.get INIT_STAT.PHASE = 1 ∧ y.on INIT_STAT.READY = false ∧ y.pwr.resetPend = false ∧ y.get RESET_STAT.CAUSE = 2
        ∧ y.get RESET_STAT.SIDE_RESETS = min (x.get RESET_STAT.SIDE_RESETS + 1) 65535
        ∧ y.get FAULT_HIST_WP.whole = x.get FAULT_HIST_WP.whole ∧ y.get KEEL_COX_STAT.EPOCH = x.get KEEL_COX_STAT.EPOCH
        ∧ y.on HOST_STAT.LINK_UP = x.on HOST_STAT.LINK_UP ∧ y.fe = (Side.init sd).fe ∧ y.host.mem = x.host.mem
        ∧ ∀ d ∈ (t.side sd.other).host.staged, d.issuer ≠ sd) := by
  have hget : ∀ g : Fld, g.idx < 0x8000 → ((s.side sd).forgetIssued sd).get g = (s.side sd).get g := fun g hg =>
    Side.get_forgetIssued _ _ fun c => by
      have hc : 0x8600 ≤ (DENS_STAT.COPYING c.n).idx := by cases c <;> decide
      omega
  have hmem : ((s.side sd).forgetIssued sd).host.mem = (s.side sd).host.mem := by
    obtain ⟨r, e, h⟩ := (s.side sd).forgetIssued_eq sd
    rw [h]
  obtain ⟨hphase, hready, hcause, hcount⟩ := ((s.side sd).forgetIssued sd).warm_restarts
  obtain ⟨hhist, hepoch, hlink⟩ := ((s.side sd).forgetIssued sd).warm_keeps
  obtain ⟨hpend, hfe, hhost⟩ := ((s.side sd).forgetIssued sd).warm_rest sd
  refine ⟨_, execSideResetAssert_pending hh hp, ?_⟩
  dsimp only
  rw [State.side_sideReset]
  refine ⟨hphase, hready, hpend, hcause, ?_, ?_, ?_, ?_, hfe, hhost.trans hmem, ?_⟩
  · rw [hcount, hget _ (by decide)]
  · rw [hhist, hget _ (by decide)]
  · rw [hepoch, hget _ (by decide)]
  · rw [hlink, Side.on, Side.on, hget _ (by decide)]
  · rw [State.side_mod_other, State.side_dropIssued]
    exact Side.staged_forgetIssued _ _

end Sys2Proof.Machine
end

section
/-! PROOFS. DRAM map-outs that end (R455), and the family of resets and start-up. -/

namespace Sys2Proof.Machine

/-! ### MAPOUT_DONE (R455) -/

theorem execMapoutDone_idle {s : State} {sd : SideId} (h : (s.side sd).on DRAM_MAPOUT.BUSY = false) : exec (.mapoutDone sd) s = .next s := by
  refine congrArg Host.Outcome.next ((congrArg (s.setSide sd) (if_pos ?_)).trans (State.setSide_self s sd))
  simp [h]

/-- R455: DRAM holds zeros over its new extent, and the map-out is done. -/
theorem mapoutDone_does {s : State} {sd : SideId} (h : (s.side sd).on DRAM_MAPOUT.BUSY = true) : Does (.mapoutDone sd) s (fun t =>
    (t.side sd).on DRAM_MAPOUT.BUSY = false ∧ (t.side sd).on DRAM_MAPOUT.DONE = true
      ∧ (t.side sd).dram = { (s.side sd).dram with
        mem := BpcMem.init, extent := 16 * (2 * (s.side sd).dram.chans.length) * (s.side sd).dram.subCap, mapout := none }) := by
  refine ⟨_, congrArg Host.Outcome.next (congrArg (s.setSide sd) (if_neg ?_)), ?_⟩
  · simp [h]
  · beta_reduce
    rw [State.side_setSide]
    refine ⟨?_, Side.on_set_one _ _ (by decide), rfl⟩
    exact (Side.on_set_apart _ _ _ _ (by decide)).trans (Side.on_set_zero _ _ (by decide))

/-! ### The family -/

/-- Settles O51: resets, phases of start-up, side resets and map-outs, each by what it makes of a side. -/
theorem resetAndStartUp : Obligations.ResetAndStartUp := by
  unfold Obligations.ResetAndStartUp
  refine ⟨fun s coxpref bootsrc sd => ?_, fun s sd r ref100 images runs => ?_⟩
  · intro cold reset left
    refine ⟨execResetN_low, execResetN_high, rfl, execResetNRelease_high _ _, fun hn hr => ?_, fun hn hr => ?_, execRailValid_good,
      fun hr hn => ?_, fun hr hn => ?_⟩
    · rw [execResetNRelease_low _ _ hn, hr]
      rfl
    · refine ⟨_, execResetNRelease_low _ _ hn, ?_⟩
      rw [hr]
      exact ⟨rfl, State.held_of_good rfl hr, State.release_shows _, rfl⟩
    · rw [execRailValid_bad hr, hn]
      rfl
    · refine ⟨_, execRailValid_bad hr, ?_⟩
      rw [hn]
      exact ⟨rfl, State.held_of_good hn rfl, State.release_shows _, State.release_host _ sd⟩
  · intro x phase begun fails
    refine ⟨execInitPhase_idle r, execInitPhase_begun _,
      fun hb hp => ⟨execInitPhase_begun _ hb hp, initPhase_does hb hp fun t ht => ht ▸ x.initPlls_shows ref100⟩,
      fun hb hp => ⟨execInitPhase_begun _ hb hp, initPhase_does hb hp fun t ht => ht ▸ x.initFuses_shows⟩,
      fun hb hp => ⟨execInitPhase_begun _ hb hp, initPhase_does hb hp fun t ht => ht ▸ x.initSram_shows⟩,
      fun hb hp => initPhase_does hb hp fun t ht => ht.trans (x.initNext_train ..) ▸ x.initDram_absent_shows,
      fun hb hp => initPhase_does hb hp fun t ht => ht ▸ x.initFill_shows,
      fun hb hp => ⟨execInitPhase_begun _ hb hp, initPhase_does hb hp fun t ht => ht ▸ x.get_phase_initCal runs⟩,
      fun hb hp => initPhase_does hb hp fun t ht => ?_,
      execSideResetAssert_idle, sideResetAssert_does, execMapoutDone_idle, mapoutDone_does⟩
    obtain ⟨hphase, hready, hcores⟩ := x.initCores_shows (!s.pkg.bootsrc) images
    exact ht ▸ ⟨hphase, hready, fun hboot => hcores (by simp [hboot])⟩

end Sys2Proof.Machine
end

section
/-! PROOFS. Reads of a device address (R39, R252, R322): what a command's operand data comes from. Memories, registers and record metadata are
read with the staged commands of every side left as they are. -/

namespace Sys2Proof.Machine

/-! ### Poisoned blocks and the records they lie in (R319, R323) -/

theorem Side.staged_flagEntries (x : Side) (b : List Word) (l : List Seg) :
    (l.foldl (fun x g => x.flagEntry b g.num) x).host.staged = x.host.staged := by
  refine Side.staged_foldl _ (fun y g => ?_) l x
  unfold Side.flagEntry Side.orWord
  split <;> simp

theorem Side.staged_markArmed (x : Side) (c : Chan) (ws : List Nat) : (x.markArmed c ws).host.staged = x.host.staged := by
  unfold Side.markArmed
  dsimp only
  split
  · rfl
  · split
    · rfl
    · exact Side.staged_flagEntries ..

theorem Side.staged_markLast (x : Side) (c : Chan) (ws : List Nat) : (x.markLast c ws).host.staged = x.host.staged := by
  unfold Side.markLast
  dsimp only
  split
  · rfl
  · split
    · rfl
    · rw [Side.staged_event]
      split <;> exact Side.staged_flagEntries ..

theorem Side.staged_markRecords (x : Side) (b : Nat) : (x.markRecords b).host.staged = x.host.staged := by
  simp only [Side.markRecords, Side.markRecord, Side.staged_markLast, Side.staged_markArmed]

@[simp] theorem Side.staged_poisonBlk (x : Side) (k : MemSel) (b : Nat) (ws : List Word) (c : Nat) :
    (x.poisonBlk k b ws c).host.staged = x.host.staged := by
  unfold Side.poisonBlk
  dsimp only
  split <;> split <;> simp [Side.staged_markRecords]

/-! ### Memories (R294, R296, R317, R318) -/

theorem Side.staged_flushEnt (x : Side) (k : MemSel) (e : MergeEnt) : (x.flushEnt k e).host.staged = x.host.staged := by
  unfold Side.flushEnt
  dsimp only
  split
  · rfl
  · split
    · simp
    · split
      case h_1 => simp
      case h_2 => simp
      case h_3 => simp
      case h_4 => split <;> simp

theorem Side.staged_decodeBlk (x : Side) (k : MemSel) (b r : Nat) : (x.decodeBlk k b r).1.host.staged = x.host.staged := by
  unfold Side.decodeBlk
  dsimp only
  split
  case h_1 => rfl
  case h_2 => rfl
  case h_3 => simp
  case h_4 => split <;> simp

theorem Side.staged_readRange (x : Side) (k : MemSel) (addr len : Nat) : (x.readRange k addr len).1.host.staged = x.host.staged := by
  unfold Side.readRange
  split
  · rfl
  · refine Side.staged_foldl_fst _ (fun a i => ?_) _ (x, [], 0)
    exact (Side.staged_decodeBlk _ k _ _).trans (Side.staged_foldl _ (fun y e => Side.staged_flushEnt y k e) _ a.1)

/-! ### Registers and record metadata (R42, R44, R232) -/

theorem Side.staged_of_regsOf {x y : Side} (h : x.regsOf y) : y.host.staged = x.host.staged := by
  obtain ⟨r, rfl⟩ := h
  rfl

theorem Side.staged_accErr (x : Side) (cause m : Nat) (w : Bool) (a : Nat) : (x.accErr cause m w a).host.staged = x.host.staged :=
  Side.staged_of_regsOf (x.accErr_eq cause m w a)

theorem Side.staged_readHigh (x : Side) (m key : Nat) (live : Word) : (x.readHigh m key live).1.host.staged = x.host.staged := by
  have hmiss := Side.staged_of_regsOf (x.regsOf_orBit SNAP_STAT.MISS m)
  unfold Side.readHigh
  split
  · split
    · rfl
    · exact hmiss
  · exact hmiss

theorem Side.staged_busRead (x : Side) (m idx : Nat) : (x.busRead m idx).1.host.staged = x.host.staged := by
  unfold Side.busRead
  split
  · exact Side.staged_accErr ..
  · split
    · rfl
    · dsimp only
      split
      case h_1 => rfl
      case h_2 => dsimp only; split <;> rfl
      case h_3 => exact Side.staged_readHigh ..
      case h_4 => rfl

theorem Side.staged_metaWord (x : Side) (o : Nat) : (x.metaWord o).1.host.staged = x.host.staged := by
  unfold Side.metaWord
  dsimp only
  split
  · rfl
  · split
    · split
      · exact Side.staged_readRange ..
      · rfl
    · rfl

theorem Side.staged_metaRead (x : Side) (m off : Nat) : (x.metaRead m off).1.host.staged = x.host.staged := by
  have hword := x.staged_metaWord off
  unfold Side.metaRead
  split
  next y q hy =>
    rw [hy] at hword
    exact (Side.staged_accErr ..).trans hword
  next y w p hy =>
    rw [hy] at hword
    split
    · exact hword
    · exact (Side.staged_readHigh ..).trans hword
    · exact hword

/-! ### Device addresses -/

theorem State.staged_put (s : State) (i j : SideId) {y : Side} (h : y.host.staged = (s.side i).host.staged) :
    ((s.setSide i y).side j).host.staged = (s.side j).host.staged := by
  by_cases hj : j = i
  · rw [hj, State.side_setSide, h]
  · rw [SideId.eq_other_of_ne hj, State.side_setSide_other]

theorem State.staged_memRead (s : State) (sd j : SideId) (space off n : Nat) :
    ((s.memRead sd space off n).1.side j).host.staged = (s.side j).host.staged := by
  unfold State.memRead
  split
  · rfl
  · refine (foldl_keeps (fun a : State × List Word => (a.1.side j).host.staged = _) _ (fun a p ha => ?_) _ (_, []) rfl).trans
      (State.staged_put _ _ _ (Side.staged_readRange ..))
    dsimp only
    split
    · rw [State.side_takeFree, ha]
    · exact ha

theorem State.staged_badAddr (s : State) (i j : SideId) (m : Nat) (w : Bool) (a : Nat) :
    ((s.mod i (fun x => x.badAddr m w a)).side j).host.staged = (s.side j).host.staged :=
  State.staged_mod _ _ _ _ (fun x => x.staged_accErr _ m w a)

theorem State.staged_readOne (s : State) (sd j : SideId) (m space off : Nat) :
    ((s.readOne sd m space off).1.side j).host.staged = (s.side j).host.staged := by
  unfold State.readOne
  dsimp only
  split
  case h_1 =>
    split
    · exact State.staged_put _ _ _ (Side.staged_busRead ..)
    · exact State.staged_put _ _ _ (Side.staged_accErr ..)
  case h_2 =>
    split
    · rfl
    · exact State.staged_put _ _ _ (Side.staged_accErr ..)
  case h_3 => exact State.staged_put _ _ _ (Side.staged_metaRead ..)
  case h_4 =>
    dsimp only
    split
    · exact (State.staged_badAddr ..).trans (State.staged_memRead ..)
    · exact State.staged_memRead ..

theorem State.staged_devRead (s : State) (sd j : SideId) (a n : Nat) : ((s.devRead sd a n).1.side j).host.staged = (s.side j).host.staged := by
  unfold State.devRead
  dsimp only
  split
  · exact State.staged_memRead ..
  · exact foldl_keeps (fun r : State × List Word × Bool => (r.1.side j).host.staged = (s.side j).host.staged) _
      (fun r i hr => (State.staged_readOne ..).trans hr) _ _ rfl

/-- R271: a command's operand data is read with every staged command left as it is. -/
theorem State.staged_operand (s : State) (sd j : SideId) (op : Nat) (e : CmdEntry) (data : DmaData) :
    ((s.operand sd op e data).1.side j).host.staged = (s.side j).host.staged := by
  unfold State.operand
  dsimp only
  split
  · rfl
  · split
    · split
      · rfl
      · exact State.staged_devRead ..
    · split <;> rfl

/-- R271, R285: operand data that comes from host memory, or none, leaves the state as it is. -/
theorem State.operand_fromHost (s : State) (sd : SideId) {op : Nat} {e : CmdEntry} (data : DmaData)
    (h : operandLen op e = 0 ∨ bitAt e.op5 63 = false) : (s.operand sd op e data).1 = s := by
  unfold State.operand
  dsimp only
  split
  · rfl
  · next hlen =>
    have hdev : bitAt e.op5 63 = false := h.resolve_left (fun hn => hlen (by rw [hn]; rfl))
    rw [hdev, if_neg Bool.false_ne_true]
    split <;> rfl

end Sys2Proof.Machine
end

section
/-! PROOFS. Completions (R275 to R277, R284): how one is delivered to its ring where nothing is staged, and a FENCE that awaits nothing. -/

namespace Sys2Proof.Machine

/-- R276, R277: under QUIET a completion with status OK is not written; every other waits for its completion ring. -/
theorem Side.compl_deliverOne (x : Side) (ring : Fin 8) (id : Nat) (e : CmdEntry) (en : Entry) : (x.deliverOne ring id e en).host.compl
    = if e.quiet && en.status == stOK then x.host.compl else x.host.compl ++ [⟨x.get (CMDQ_CFG.CQ ring.val), ring, id, e.irqNow, en⟩] := by
  unfold Side.deliverOne
  dsimp only
  split <;> rfl

theorem Side.remote_deliverOne (x : Side) (ring : Fin 8) (id : Nat) (e : CmdEntry) (en : Entry) :
    (x.deliverOne ring id e en).host.remote = x.host.remote.filter (fun p => p != (ring, id)) := by
  unfold Side.deliverOne
  dsimp only
  split <;> rfl

theorem Side.noneStaged_deliverOne {x : Side} (h : x.host.staged = []) (ring : Fin 8) (id : Nat) (e : CmdEntry) (en : Entry) :
    (x.deliverOne ring id e en).host.staged = [] := by
  unfold Side.deliverOne
  dsimp only
  split <;> simp [h]

theorem Side.settleFences_noneStaged {x : Side} (h : x.host.staged = []) (n : Nat) : x.settleFences n = x := by
  cases n with
  | zero => rfl
  | succ n =>
    unfold Side.settleFences
    rw [h]
    rfl

/-- With nothing staged no FENCE completes behind a completion. -/
theorem Side.deliver_noneStaged {x : Side} (h : x.host.staged = []) (ring : Fin 8) (id : Nat) (e : CmdEntry) (en : Entry) :
    x.deliver ring id e en = x.deliverOne ring id e en :=
  Side.settleFences_noneStaged (Side.noneStaged_deliverOne h ..) _

/-- Settles O59: nothing is staged, so the one completion delivered is all that is written, and QUIET and the status choose whether it is. -/
theorem quietCompletions : Obligations.QuietCompletions := by
  unfold Obligations.QuietCompletions
  intro x ring id e en hs
  rw [Side.deliver_noneStaged hs, Side.compl_deliverOne]
  refine ⟨fun hq h0 => if_pos (by simp [hq, h0, stOK]), fun h => if_neg ?_⟩
  obtain hq | h0 := h
  · simp [hq]
  · simp [h0, stOK]

/-- R284: the one command staged is a FENCE that awaits nothing: it completes with status OK, and nothing is staged behind it. -/
theorem Side.settleFences_alone {x : Side} {c : Staged} (h : x.host.staged = [c]) (hop : c.op = 1) (hrun : c.running = true)
    (haw : c.awaits = []) (n : Nat) : x.settleFences (n + 1)
      = (x.unstage c).deliver c.ring c.id c.e (entryOf c.op c.e c.ring false stOK x.now (lget c.aux 0 0) 0) := by
  have hfind : x.host.staged.find? (fun c => c.op == 1 && c.running && c.awaits.isEmpty) = some c := by
    rw [h]
    simp [hop, hrun, haw]
  have hun : (x.unstage c).host.staged = [] := by
    unfold Side.unstage
    simp [h]
  rw [Side.deliver_noneStaged hun]
  unfold Side.settleFences
  rw [hfind]
  exact Side.settleFences_noneStaged (Side.noneStaged_deliverOne hun ..) n

end Sys2Proof.Machine
end

section
/-! PROOFS. How a ring executes a command (R269, R271 to R273): what taking its entry, reading its operand data and staging it leave and change. -/

namespace Sys2Proof.Machine

/-! ### A ring's entry is taken -/

theorem State.mem_dmaWrite (s : State) (i j : SideId) (a : Nat) (bs : List Byte) :
    ∃ m, (s.dmaWrite i a bs).side j = { s.side j with host := { (s.side j).host with mem := m } } := by
  unfold State.dmaWrite
  by_cases h : j = s.endpoint i
  · rw [h, State.side_mod]
    exact ⟨_, rfl⟩
  · rw [SideId.eq_other_of_ne h, State.side_mod_other]
    exact ⟨_, rfl⟩

/-- R271: identifier, turn and consumer index go on, WAIT holds the ring, and the index is written to host memory. -/
theorem State.side_takeEntry (s : State) (sd : SideId) (ring : Fin 8) (w : Bool) :
    let h := (s.side sd).host
    ∃ m, (s.takeEntry sd ring w).side sd = { s.side sd with host := { h with
      nextId := h.nextId + 1
      turn := ring + 1
      cmd := lmod h.cmd ring.val (fun r => { r with
        ci := (lget h.cmd ring.val ⟨0, 0, none⟩).ci + 1, waitId := if w then some h.nextId else none })
      mem := m } } := by
  unfold State.takeEntry State.putIndex
  obtain ⟨m, hm⟩ := State.mem_dmaWrite (s.setSide sd { s.side sd with host := { (s.side sd).host with
    nextId := (s.side sd).host.nextId + 1
    turn := ring + 1
    cmd := lmod (s.side sd).host.cmd ring.val (fun r => { r with
      ci := (lget (s.side sd).host.cmd ring.val ⟨0, 0, none⟩).ci + 1, waitId := if w then some (s.side sd).host.nextId else none }) } }) sd sd _ _
  rw [State.side_setSide] at hm
  exact ⟨m, hm⟩

theorem State.now_takeEntry (s : State) (sd : SideId) (ring : Fin 8) (w : Bool) : ((s.takeEntry sd ring w).side sd).now = (s.side sd).now := by
  obtain ⟨m, hm⟩ := s.side_takeEntry sd ring w
  rw [hm]
  rfl

theorem State.takeEntry_rest (s : State) (sd : SideId) (ring : Fin 8) (w : Bool) :
    (s.takeEntry sd ring w).pending = s.pending ∧ (s.takeEntry sd ring w).pkg = s.pkg := by
  unfold State.takeEntry State.putIndex State.dmaWrite
  simp

/-! ### Staging -/

section
variable {s z : State} {sd : SideId} {ring : Fin 8} {op : Nat} {e : CmdEntry} {data : DmaData} {st : Staged}

/-- R271 to R273: the command staged, and the state in which it is: its ring's entry taken, its operand data read, itself last in staging. -/
theorem State.takes_staged (h : s.takes sd ring op e data = some (st, z)) :
    (∃ ws b, st = ⟨(s.side sd).host.nextId, sd, ring, op, e, ws, b, (s.side sd).now, false, false, [], []⟩)
      ∧ z = ((s.takeEntry sd ring e.wait).operand sd op e data).1.mod sd (fun x => { x with host := { x.host with
        staged := x.host.staged ++ [st] } }) := by
  unfold State.takes at h
  dsimp only at h
  split at h
  case isFalse => exact absurd h (by simp)
  case isTrue =>
    split at h
    case h_2 => exact absurd h (by simp)
    case h_1 ws b hws hb =>
      split at h
      case isTrue => exact absurd h (by simp)
      case isFalse =>
        simp only [Option.some.injEq, Prod.mk.injEq] at h
        obtain ⟨rfl, rfl⟩ := h
        exact ⟨⟨ws, b, rfl⟩, rfl⟩

/-- Operand data from host memory, or none: staging the command changes the state by its entry and itself. -/
theorem State.takes_fromHost (h : s.takes sd ring op e data = some (st, z)) (hdata : operandLen op e = 0 ∨ bitAt e.op5 63 = false) :
    z = (s.takeEntry sd ring e.wait).mod sd (fun x => { x with host := { x.host with staged := x.host.staged ++ [st] } }) := by
  have hz := (State.takes_staged h).2
  rwa [State.operand_fromHost _ sd data hdata] at hz

theorem State.now_of_takes (h : s.takes sd ring op e data = some (st, z)) (hdata : operandLen op e = 0 ∨ bitAt e.op5 63 = false) :
    (z.side sd).now = st.texec := by
  obtain ⟨ws, b, rfl⟩ := (State.takes_staged h).1
  rw [State.takes_fromHost h hdata, State.side_mod]
  exact s.now_takeEntry sd ring e.wait

/-- R269, R271: the ring's consumer index and the identifiers advance by one, and the command is staged once, behind those before it. -/
theorem State.takes_advances {r : CmdRing} (h : s.takes sd ring op e data = some (st, z)) (hdata : operandLen op e = 0 ∨ bitAt e.op5 63 = false)
    (hr : (s.side sd).host.cmd[ring.val]? = some r) : (z.side sd).host.nextId = st.id + 1 ∧ z.pending = s.pending ∧ z.pkg = s.pkg
      ∧ (z.side sd).host.staged = (s.side sd).host.staged ++ [st]
      ∧ ∃ q, (z.side sd).host.cmd[ring.val]? = some q ∧ q.ci = r.ci + 1 ∧ q.waitId = if e.wait then some st.id else none := by
  obtain ⟨ws, b, hst⟩ := (State.takes_staged h).1
  have hz := State.takes_fromHost h hdata
  obtain ⟨m, hm⟩ := s.side_takeEntry sd ring e.wait
  obtain ⟨hpend, hpkg⟩ := s.takeEntry_rest sd ring e.wait
  have hget : lget (s.side sd).host.cmd ring.val ⟨0, 0, none⟩ = r := by simp [lget, hr]
  rw [hz]
  refine ⟨?_, by rw [State.mod_pending, hpend], by rw [State.mod_pkg, hpkg], ?_, ?_⟩ <;> rw [State.side_mod, hm]
  · rw [hst]
  · refine ⟨{ r with ci := r.ci + 1, waitId := if e.wait then some st.id else none }, ?_, rfl, rfl⟩
    rw [hst, hget]
    simp [lmod, hr]

/-- The one command staged on its side, whatever its operand data comes from. -/
theorem State.takesNow_alone (h : s.takesNow sd ring op e data st z) : (z.side sd).host.staged = [st] := by
  obtain ⟨ht, -, hnil⟩ := h
  rw [(State.takes_staged ht).2, State.side_mod]
  simp only [State.staged_operand, State.takeEntry_staged, hnil, List.nil_append]

/-- R273: the command, alone on its side, has its effect as it executes, and is answered. -/
theorem issueCmd_answers {y : State} {code t : Nat} {r0 r1 : Int} (h : s.takesNow sd ring op e data st z)
    (hop : op ≠ 0x01 ∧ op ≠ 0x44 ∧ op ≠ 0x61) (hrb : op = 0x02 → CmdEntry.readback e = true)
    (heff : effectOf sd st st.texec z = y.complete sd st code t r0 r1) (hy : (y.side sd).host.staged = (z.side sd).host.staged) :
    issueCmd sd ring op e data s = y.complete sd st code t r0 r1 := by
  obtain ⟨hissue, hissuer, hstop, hste⟩ := issueCmd_of_takes h.1
  obtain ⟨h1, h44, h61⟩ := hop
  have hconf : (op == 0x02 && !CmdEntry.readback e) = false := by
    by_cases h2 : op = 0x02
    · simp [hrb h2]
    · simp [h2]
  have hbegins : z.begins sd st = z.runStaged sd st st.texec := by
    unfold State.begins
    simp only [hstop, hste, h.2.1, beq_eq_false_iff_ne.2 h1, beq_eq_false_iff_ne.2 h44, beq_eq_false_iff_ne.2 h61, hconf,
      Bool.false_eq_true, if_false]
  have hz := State.takesNow_alone h
  rw [hissue, hbegins, State.runStaged_one hz, heff]
  rw [heff]
  exact State.noneWaits_complete (hy.trans hz) hissuer code t r0 r1

/-- R273: a command whose boundary has not come waits, staged, and nothing else happens. -/
theorem State.begins_waits (hop : st.op ≠ 0x01 ∧ st.op ≠ 0x44 ∧ st.op ≠ 0x61) (ht : ∀ t, st.bnd = .time t → (z.side sd).now < t)
    (hn : st.bnd ≠ .now) : z.begins sd st = z := by
  obtain ⟨h1, h44, h61⟩ := hop
  unfold State.begins
  simp only [beq_eq_false_iff_ne.2 h1, beq_eq_false_iff_ne.2 h44, beq_eq_false_iff_ne.2 h61, Bool.false_eq_true, if_false]
  split
  · rfl
  · split
    · next hb => exact absurd hb hn
    · next t hb => exact if_neg (Nat.not_le.2 (ht t hb))
    · rfl

/-- R271: a command that fails its first checks is completed with their status, and staged nowhere. -/
theorem issueCmd_refused (hready : s.ringReady sd ring = true) (hlen : operandLen op e = 0) (h1 : stepOne op e ≠ 0) :
    issueCmd sd ring op e data s = (s.takeEntry sd ring e.wait).complete sd
      ⟨(s.side sd).host.nextId, sd, ring, op, e, [], .now, (s.side sd).now, false, false, [], []⟩ (stepOne op e) (s.side sd).now 0 0 := by
  have hwait : s.operandWaits op e = false := by
    unfold State.operandWaits
    simp [hlen]
  have hbad : (stepOne op e != stOK) = true := by
    rw [bne_iff_ne]
    exact h1
  unfold issueCmd
  simp only [hready, hwait, Bool.not_true, Bool.or_self, Bool.false_eq_true, if_false, hbad, if_true]
  unfold State.refuse
  rw [State.now_takeEntry]

end

/-- Settles O23: what taking an entry and staging a command change, and the laws of completing one. -/
theorem ringExecution : Obligations.RingExecution := by
  unfold Obligations.RingExecution
  refine ⟨fun s sd ring e data op st z => ⟨fun r h hr => ?_, fun h ht hn => ?_, fun hready h1 => ?_⟩, fun s sd i st code t r0 r1 =>
    ⟨State.answered_complete .., State.complete_noHost .., State.complete_pkg .., State.complete_pending ..⟩⟩
  · have htaken := fun hw : e.w5.getLsbD 63 = false => State.takes_advances h (.inr ((bitAt_eq_testBit _ 63).trans hw)) hr
    obtain ⟨ws, b, rfl⟩ := (State.takes_staged h).1
    refine ⟨rfl, rfl, rfl, rfl, fun hw => ?_⟩
    obtain ⟨hid, hpend, hpkg, hstaged, hcmd⟩ := htaken hw
    exact ⟨hid, rfl, hpend, hpkg, hstaged, hcmd⟩
  · obtain ⟨hissue, hf⟩ := issueCmd_of_takes h
    refine congrArg Host.Outcome.next (hissue.trans (State.begins_waits ?_ (fun t hb => ?_) hn))
    · rw [hf.op]
      decide
    · rw [State.now_of_takes h (.inl rfl)]
      exact ht t hb
  · exact ⟨_, congrArg Host.Outcome.next (issueCmd_refused hready rfl h1), State.answered_complete ..⟩

end Sys2Proof.Machine
end

section
/-! PROOFS. NOP, FENCE, CONFIGURE, READBACK, LOAD_TABLE and opcodes of no command (R282 to R287), each alone on its side. -/

namespace Sys2Proof.Machine

/-! ### READBACK's bit (R285) -/

theorem CmdEntry.readback_set (e : CmdEntry) : CmdEntry.readback { e with w5 := e.w5 ||| BitVec.ofNat 64 (2 ^ 33) } = true := by
  have hbit : (e.w5 ||| BitVec.ofNat 64 (2 ^ 33)).getLsbD 33 = true := by
    rw [BitVec.getLsbD_or, show (BitVec.ofNat 64 (2 ^ 33)).getLsbD 33 = true from by decide, Bool.or_true]
  exact (bitAt_eq_testBit _ 33).trans hbit

theorem CmdEntry.readback_cleared (e : CmdEntry) : CmdEntry.readback { e with w5 := e.w5 &&& ~~~(BitVec.ofNat 64 (2 ^ 33)) } = false := by
  have hbit : (e.w5 &&& ~~~(BitVec.ofNat 64 (2 ^ 33))).getLsbD 33 = false := by
    rw [BitVec.getLsbD_and, show (~~~(BitVec.ofNat 64 (2 ^ 33))).getLsbD 33 = false from by decide, Bool.and_false]
  exact (bitAt_eq_testBit _ 33).trans hbit

/-! ### Effects -/

section
variable {sd : SideId} {st : Staged} {t : Nat} {z : State}

/-- R284: a FENCE that is alone on its side, none of whose commands acts on the other side, runs with nothing to await, and completes. -/
theorem effFence_awaitsNothing (hz : (z.side sd).host.staged = [st]) (hrem : (z.side sd).host.remote = []) (hmem : bitAt st.e.op4 1 = false)
    (hop : st.op = 0x01) (hi : st.issuer = sd) : effFence sd st z = (z.runs sd { st with awaits := [] } [0]).complete sd
      { st with running := true, awaits := [], aux := [0] } 0 (z.side sd).now 0 0 := by
  subst hi
  have hnone : (z.side st.issuer).fenceAwaits st = [] := by
    unfold Side.fenceAwaits
    simp [hz, hrem]
  have hone : ((z.side st.issuer).restage { st with running := true, awaits := [], aux := [0] }).host.staged
      = [{ st with running := true, awaits := [], aux := [0] }] := by
    unfold Side.restage
    simp [hz]
  unfold effFence State.runs State.complete
  simp only [beq_self_eq_true, if_true, State.mod_mod]
  refine State.mod_congr ?_
  simp only [hmem, hnone, Bool.false_and, Bool.false_eq_true, if_false, List.nil_append, List.length_nil, Nat.cast_zero, bne_self_eq_false]
  exact Side.settleFences_alone hone hop rfl rfl _

/-- R285: a block that names its channel is written to host memory as it is in force. -/
theorem effReadback_writes {c : Chan} (hty : st.blkType ≠ 6) (hdev : bitAt st.e.op5 63 = false) (hc : blkChan st.blkType st.target = some c) :
    effReadback sd st t z = (z.dmaWrite sd st.e.op4 (packBytes (bitAt st.e.op5 32) ((z.side sd).blockNow st.blkType c))).complete sd st 0 t 0 0 := by
  unfold effReadback State.copyOut
  simp only [beq_eq_false_iff_ne.2 hty, hdev, hc, Bool.false_and, Bool.false_eq_true, if_false, Option.getD_some]
  rfl

/-- R286, R67: words go into a coefficient bank that is not in use. -/
theorem effLoadTable_bank {c : Chan} {b i : Nat} (h3 : devSpace (st.e.w1.toNat % 2 ^ 44) = 3)
    (htab : ramTable (devOff (st.e.w1.toNat % 2 ^ 44)) st.words.length = some (.eq c b i)) (hfree : (z.side sd).bankBusy c b = false) :
    effLoadTable sd st t z = (z.setSide sd ((z.side sd).setFe c { (z.side sd).feOf c with
      eqTab := wputs ((z.side sd).feOf c).eqTab (64 * b + i) st.words })).complete sd st 0 t st.words.length 0 := by
  unfold effLoadTable
  simp only [h3, beq_self_eq_true, if_true, htab, hfree, Bool.false_eq_true, if_false]
  rfl

theorem effLoadTable_bankBusy {c : Chan} {b i : Nat} (h3 : devSpace (st.e.w1.toNat % 2 ^ 44) = 3)
    (htab : ramTable (devOff (st.e.w1.toNat % 2 ^ 44)) st.words.length = some (.eq c b i)) (hbusy : (z.side sd).bankBusy c b = true) :
    effLoadTable sd st t z = z.complete sd st 0x300E (z.side sd).now 0 0 := by
  unfold effLoadTable
  simp only [h3, beq_self_eq_true, if_true, htab, hbusy]
  rfl

/-- R286, R89: coefficients in range go into a window that is not in use, with their residues. -/
theorem effLoadTable_window {c : Chan} {i : Nat} (h3 : devSpace (st.e.w1.toNat % 2 ^ 44) = 3)
    (htab : ramTable (devOff (st.e.w1.toNat % 2 ^ 44)) st.words.length = some (.window c i)) (hfree : (z.side sd).winBusy c = false)
    (hw : ∀ w ∈ st.words, -131072 ≤ w.toInt ∧ w.toInt ≤ 131072) :
    effLoadTable sd st t z = (z.setSide sd ((z.side sd).setFe c { (z.side sd).feOf c with
      ramWin := wputs ((z.side sd).feOf c).ramWin i st.words
      ramRes := st.words.zipIdx.foldl (fun m p => if residue p.1.toInt == 0 then adel m (i + p.2) else aput m (i + p.2) (residue p.1.toInt))
        ((z.side sd).feOf c).ramRes })).complete sd st 0 t st.words.length 0 := by
  have hin : st.words.any (fun w => decide (w.toInt < -131072) || decide (w.toInt > 131072)) = false := by
    refine List.any_eq_false.2 (fun w hmem => ?_)
    obtain ⟨hlo, hhi⟩ := hw w hmem
    simp [hlo, hhi]
  unfold effLoadTable
  simp only [h3, beq_self_eq_true, if_true, htab, hin, hfree, Bool.false_eq_true, if_false]
  rfl

/-- R286, R427: words go into the palette, 30 bits of each. -/
theorem effLoadTable_palette {i : Nat} (h3 : devSpace (st.e.w1.toNat % 2 ^ 44) = 3)
    (htab : ramTable (devOff (st.e.w1.toNat % 2 ^ 44)) st.words.length = some (.palette i)) : effLoadTable sd st t z = (z.setSide sd { z.side sd with
      so := { (z.side sd).so with palS := wputs (z.side sd).so.palS i (st.words.map (fun w => wordN (w.toNat % 2 ^ 30))) } }).complete sd st 0 t
        st.words.length 0 := by
  unfold effLoadTable
  simp only [h3, beq_self_eq_true, if_true, htab]
  rfl

end

/-! ### Commands -/

section
variable {s z : State} {sd : SideId} {ring : Fin 8} {e : CmdEntry} {data : DmaData} {st : Staged}

theorem nop_answers (h : s.takesNow sd ring 0x00 e noData st z) : exec (.nop sd ring e) s = .next (z.complete sd st 0 st.texec 0 0) := by
  have hop := (issueCmd_of_takes h.1).2.op
  refine congrArg Host.Outcome.next (issueCmd_answers h (by decide) (fun h2 => absurd h2 (by decide)) ?_ rfl)
  unfold effectOf
  rw [hop]
  rfl

theorem fence_answers (h : s.takesNow sd ring 0x01 e noData st z) (hrem : (s.side sd).host.remote = []) (hmem : bitAt e.op4 1 = false) :
    Does (.fence sd ring e) s (fun t => t.answered sd { st with running := true, aux := [0] } 0 st.texec 0 0) := by
  obtain ⟨hissue, -, hop, -⟩ := issueCmd_of_takes h.1
  have hbegins : z.begins sd st = effFence sd st z := by
    unfold State.begins
    rw [hop]
    rfl
  have hzrem : (z.side sd).host.remote = [] := by
    obtain ⟨m, hm⟩ := s.side_takeEntry sd ring e.wait
    rw [State.takes_fromHost h.1 (.inl rfl), State.side_mod, hm]
    exact hrem
  have hnow := State.now_of_takes h.1 (.inl rfl)
  have hz := State.takesNow_alone h
  obtain ⟨ws, b, rfl⟩ := (State.takes_staged h.1).1
  rw [hbegins, effFence_awaitsNothing hz hzrem hmem rfl rfl, hnow] at hissue
  exact ⟨_, congrArg Host.Outcome.next hissue, State.answered_complete ..⟩

theorem configure_stages (h : s.takes sd ring 0x02 { e with w5 := e.w5 &&& ~~~(BitVec.ofNat 64 (2 ^ 33)) } data = some (st, z)) :
    exec (.configure sd ring e data) s = .next z := by
  obtain ⟨hissue, -, hop, hste⟩ := issueCmd_of_takes h
  refine congrArg Host.Outcome.next (hissue.trans ?_)
  unfold State.begins
  rw [hop, hste, CmdEntry.readback_cleared]
  rfl

theorem readback_writes {c : Chan} (h : s.takesNow sd ring 0x02 { e with w5 := e.w5 ||| BitVec.ofNat 64 (2 ^ 33) } noData st z)
    (hty : st.blkType ≠ 6) (hdev : bitAt st.e.op5 63 = false) (hc : blkChan st.blkType st.target = some c) : exec (.readback sd ring e) s = .next
      ((z.dmaWrite sd st.e.op4 (packBytes (bitAt st.e.op5 32) ((z.side sd).blockNow st.blkType c))).complete sd st 0 st.texec 0 0) := by
  obtain ⟨-, -, hop, hste⟩ := issueCmd_of_takes h.1
  refine congrArg Host.Outcome.next (issueCmd_answers h (by decide) (fun _ => CmdEntry.readback_set e) ?_ (State.staged_dmaWrite ..))
  rw [← effReadback_writes hty hdev hc]
  unfold effectOf
  simp only [hop, hste, CmdEntry.readback_set, if_true]

theorem loadTable_answers {y : State} {code t : Nat} {r0 r1 : Int} (h : s.takesNow sd ring 0x03 e data st z)
    (heff : effLoadTable sd st st.texec z = y.complete sd st code t r0 r1) (hy : (y.side sd).host.staged = (z.side sd).host.staged) :
    exec (.loadTable sd ring e data) s = .next (y.complete sd st code t r0 r1) := by
  have hop := (issueCmd_of_takes h.1).2.op
  refine congrArg Host.Outcome.next (issueCmd_answers h (by decide) (fun h2 => absurd h2 (by decide)) ?_ hy)
  rw [← heff]
  unfold effectOf
  simp only [hop]

theorem stepOne_of_noKinds {op : Nat} (h : opKinds op = none) (e : CmdEntry) : stepOne op e = 0x2001 := by
  unfold stepOne
  rw [h]
  rfl

theorem operandLen_of_noKinds {op : Nat} (h : opKinds op = none) (e : CmdEntry) : operandLen op e = 0 := by
  have hne : ∀ o, opKinds o ≠ none → (op == o) = false := fun o ho => beq_eq_false_iff_ne.2 (fun heq => ho (heq ▸ h))
  unfold operandLen
  rw [hne 0x02 (by decide), hne 0x03 (by decide), hne 0x50 (by decide)]
  rfl

theorem badOpcode_answers (hready : s.ringReady sd ring = true) (hk : opKinds e.opcode.toNat = none) :
    Does (.badOpcode sd ring true e) s (fun t => t.answered sd
      ⟨(s.side sd).host.nextId, sd, ring, e.opcode.toNat, e, [], .now, (s.side sd).now, false, false, [], []⟩ 0x2001 (s.side sd).now 0 0) := by
  have h1 := stepOne_of_noKinds hk e
  have hissue := issueCmd_refused (data := noData) hready (operandLen_of_noKinds hk e) (by rw [h1]; decide)
  have hexec : exec (.badOpcode sd ring true e) s = .next (issueCmd sd ring e.opcode.toNat e noData s) := by
    show execBadOpcode sd ring true e s = _
    unfold execBadOpcode
    rw [hk]
    rfl
  rw [hissue, h1] at hexec
  exact ⟨_, hexec, State.answered_complete ..⟩

end

/-- Settles O24: each command by its effect, which nothing else staged follows. -/
theorem ringBasics : Obligations.RingBasics := by
  unfold Obligations.RingBasics
  intro s sd ring e data st z x
  refine ⟨nop_answers, fence_answers, fun f hf h => ?_, fun f hf h hty hdev c hc => ?_, fun h a ha h3 => ?_, badOpcode_answers, fun hk => ?_,
    fun hready => ?_⟩
  · subst hf
    exact configure_stages h
  · subst hf
    have hste := (issueCmd_of_takes h.1).2.e
    rw [← hste] at hdev ⊢
    exact readback_writes h hty hdev hc
  · subst ha
    intro done
    refine ⟨fun c b i htab hfree => ?_, fun c b i htab hbusy => ?_, fun c i htab hfree hw => ?_, fun i htab => ?_⟩
    · exact loadTable_answers h (effLoadTable_bank h3 htab hfree) (State.staged_put z sd sd rfl)
    · exact loadTable_answers h (effLoadTable_bankBusy h3 htab hbusy) rfl
    · exact loadTable_answers h (effLoadTable_window h3 htab hfree hw) (State.staged_put z sd sd rfl)
    · exact loadTable_answers h (effLoadTable_palette h3 htab) (State.staged_put z sd sd rfl)
  · show execBadOpcode sd ring true e s = _
    unfold execBadOpcode
    rw [Option.isSome_iff_ne_none.2 hk]
    rfl
  · show execBadOpcode sd ring false e s = _
    unfold execBadOpcode
    rw [hready]
    rfl

end Sys2Proof.Machine
end

section
/-! PROOFS. Doorbell pages (R263 to R267): the indexes a page brings, and a page that cannot be read. -/

namespace Sys2Proof.Machine

theorem Side.cmd_event (x : Side) (code t : Nat) (a b : Int) : (x.event code t a b).host.cmd = x.host.cmd := by
  unfold Side.event Side.eventSt
  cases eventIrq code <;> dsimp only <;> split <;> rfl

/-- R267: a ring that goes on is stopped: its error bit is set, and no command ring's index changes. -/
theorem Side.stopRing_stops {x : Side} {f : Fld} {i : Nat} (num cause : Nat) (hgo : bitAt (x.get f) i = false) (hf : f.lo ≤ f.hi ∧ f.hi < 36)
    (hi : i < f.hi + 1 - f.lo) (hev : EVT_DROP.whole.apart f) :
    bitAt ((x.stopRing f i num cause).get f) i = true ∧ (x.stopRing f i num cause).host.cmd = x.host.cmd := by
  have hstop : x.stopRing f i num cause = (x.orBit f i).event 0x10 x.now num cause := by
    unfold Side.stopRing
    rw [hgo]
    rfl
  obtain ⟨r, hr⟩ := x.regsOf_orBit f i
  rw [hstop]
  refine ⟨?_, ?_⟩
  · rw [Side.get_event_apart _ _ _ _ _ f hev, Side.bitAt_orBit x f i hf hi]
  · rw [Side.cmd_event, hr]

section
variable {y : Side} {i v : Nat}

/-- R265: a producer index that the ring can hold is taken. -/
theorem Side.takeCmdPi_taken (hen : y.on (CMDQ_CFG.EN i) = true) (hgo : bitAt (y.get RING_ERR.CMD_ERR) i = false) (hi : i < y.host.cmd.length)
    (hlo : (lget y.host.cmd i ⟨0, 0, none⟩).pi ≤ v) (hhi : v ≤ (lget y.host.cmd i ⟨0, 0, none⟩).ci + 2 ^ y.get (CMDQ_CFG.LOG2SIZE i)) :
    lget (y.takeCmdPi i v).host.cmd i ⟨0, 0, none⟩ = { lget y.host.cmd i ⟨0, 0, none⟩ with pi := v } := by
  unfold Side.takeCmdPi
  simp only [hen, hgo, Bool.not_true, Bool.or_self, Bool.false_eq_true, if_false, decide_eq_false (Nat.not_lt.2 hlo),
    decide_eq_false (Nat.not_lt.2 hhi)]
  exact lget_lset_self _ _ _ _ hi

/-- R267: a producer index that goes back, or beyond what the ring holds, stops it. -/
theorem Side.takeCmdPi_stopped (hen : y.on (CMDQ_CFG.EN i) = true) (hgo : bitAt (y.get RING_ERR.CMD_ERR) i = false) (hi : i < 8)
    (hv : v < (lget y.host.cmd i ⟨0, 0, none⟩).pi ∨ (lget y.host.cmd i ⟨0, 0, none⟩).ci + 2 ^ y.get (CMDQ_CFG.LOG2SIZE i) < v) :
    bitAt ((y.takeCmdPi i v).get RING_ERR.CMD_ERR) i = true ∧ (y.takeCmdPi i v).host.cmd = y.host.cmd := by
  have htake : y.takeCmdPi i v = y.stopRing RING_ERR.CMD_ERR i i 1 := by
    unfold Side.takeCmdPi
    simp only [hen, hgo, Bool.not_true, Bool.or_self, Bool.false_eq_true, if_false, Bool.or_eq_true, decide_eq_true_eq, gt_iff_lt, if_pos hv]
  rw [htake]
  exact Side.stopRing_stops i 1 hgo (by decide) hi (by decide)

end

section
variable {s : State} {sd : SideId}

theorem doorbellPoll_idle (h : (s.side sd).on DB_CFG.EN = false ∨ s.dmaWorks sd = false) (p : Option (List (BitVec 64))) :
    exec (.doorbellPoll sd p) s = .next s := by
  have hc : (!(s.side sd).on DB_CFG.EN || !s.dmaWorks sd) = true := by
    obtain h | h := h <;> simp [h]
  exact congrArg Host.Outcome.next (if_pos hc)

theorem doorbellPoll_reads (hen : (s.side sd).on DB_CFG.EN = true) (hw : s.dmaWorks sd = true) (page : List (BitVec 64)) :
    exec (.doorbellPoll sd (some page)) s = .next (s.setSide sd
      (Side.takePage { s.side sd with host := { (s.side sd).host with nudged := false, dbFailed := false } } page)) := by
  have hc : ¬(!(s.side sd).on DB_CFG.EN || !s.dmaWorks sd) = true := by simp [hen, hw]
  exact congrArg Host.Outcome.next (if_neg hc)

/-- R267: a page that cannot be read sets its error bit and counts; every index stays. -/
theorem doorbellPoll_fails (hen : (s.side sd).on DB_CFG.EN = true) (hw : s.dmaWorks sd = true) :
    Does (.doorbellPoll sd none) s (fun u => (u.side sd).on RING_ERR.DB_ERR = true
      ∧ (u.side sd).get DB_READ_ERR.whole = min ((s.side sd).get DB_READ_ERR.whole + 1) (2 ^ 36 - 1)
      ∧ (u.side sd).host.cmd = (s.side sd).host.cmd) := by
  have hc : ¬(!(s.side sd).on DB_CFG.EN || !s.dmaWorks sd) = true := by simp [hen, hw]
  have hmarked : ∀ x : Side, ((x.inc DB_READ_ERR.whole).raise RING_ERR.DB_ERR).on RING_ERR.DB_ERR = true
      ∧ ((x.inc DB_READ_ERR.whole).raise RING_ERR.DB_ERR).get DB_READ_ERR.whole = min (x.get DB_READ_ERR.whole + 1) (2 ^ 36 - 1) := fun x =>
    ⟨Side.on_set_one _ _ (by decide), by rw [Side.raise_eq, Side.get_set_ne _ _ _ _ (by decide), Side.get_inc _ _ (by decide)]; rfl⟩
  refine ⟨_, congrArg Host.Outcome.next (if_neg hc), ?_⟩
  dsimp only
  rw [State.side_setSide]
  split
  · exact ⟨(hmarked _).1, (hmarked _).2, rfl⟩
  · obtain ⟨herr, hcount⟩ := hmarked { s.side sd with host := { (s.side sd).host with nudged := false } }
    refine ⟨?_, ?_, ?_⟩
    · unfold Side.on at herr ⊢
      rw [Side.get_event_apart _ _ _ _ _ _ (by decide)]
      exact herr
    · rw [Side.get_event_apart _ _ _ _ _ _ (by decide)]
      exact hcount
    · rw [Side.cmd_event]
      rfl

end

end Sys2Proof.Machine
end

section
/-! PROOFS. Entries written into the rings of a side (R263, R264, R276, R281): an entry, its ring's index, and what signalling leaves. -/

namespace Sys2Proof.Machine

theorem State.side_mod_keeps {α : Type} (F : Side → α) {f : Side → Side} (h : ∀ x, F (f x) = F x) (s : State) (i j : SideId) :
    F ((s.mod i f).side j) = F (s.side j) := by
  by_cases hj : j = i
  · rw [hj, State.side_mod, h]
  · rw [SideId.eq_other_of_ne hj, State.side_mod_other]

/-! ### What signalling leaves -/

/-- What signalling a ring and counting towards its moderation leave of a side: all but rings and messages, and the ring's two indexes. -/
def Side.entriesOf (x : Side) (n : Nat) : Side × Nat × Nat :=
  ({ x with host := { HostSide.init with
      mem := x.host.mem, compl := x.host.compl, events := x.host.events, overflow := x.host.overflow, dropped := x.host.dropped } },
    (x.outRing n).pi, (x.outRing n).ci)

theorem Side.entriesOf_setOutRing (x : Side) (n k : Nat) (r : OutRing) : ((x.setOutRing n r).entriesOf k).1 = (x.entriesOf k).1 := by
  unfold Side.setOutRing
  dsimp only
  split
  · rfl
  · split <;> rfl

/-- Replacing a ring leaves all of a side but the rings. -/
theorem Side.setOutRing_leaves (x : Side) (n : Nat) (r : OutRing) : (x.setOutRing n r).noHost = x.noHost
    ∧ (x.setOutRing n r).host.mem = x.host.mem ∧ (x.setOutRing n r).host.compl = x.host.compl
    ∧ (x.setOutRing n r).host.events = x.host.events := by
  have h := x.entriesOf_setOutRing n n r
  exact ⟨(congrArg Side.noHost h :), (congrArg (fun v : Side => v.host.mem) h :), (congrArg (fun v : Side => v.host.compl) h :),
    (congrArg (fun v : Side => v.host.events) h :)⟩

theorem lget_lset_or {α : Type} (l : List α) (i : Nat) (v d : α) : lget (lset l i v) i d = v ∨ lget (lset l i v) i d = lget l i d := by
  by_cases h : i < l.length
  · exact .inl (lget_lset_self l i v d h)
  · refine .inr (congrArg (lget · i d) ?_)
    exact List.set_eq_of_length_le (Nat.le_of_not_lt h)

theorem Side.outRing_setOutRing_or (x : Side) (n : Nat) (r : OutRing) :
    (x.setOutRing n r).outRing n = r ∨ (x.setOutRing n r).outRing n = x.outRing n := by
  unfold Side.setOutRing Side.outRing
  by_cases h : n < 8
  · simp only [h, if_true]
    exact lget_lset_or ..
  · by_cases h8 : (n == 8) = true
    · simp only [h, h8, if_true, if_false]
      exact .inl trivial
    · simp only [h, h8, if_false]
      exact lget_lset_or ..

/-- A completion ring that there is, or the event ring, holds what it was set to. -/
theorem Side.outRing_setOutRing {x : Side} {n : Nat} (r : OutRing) (hn : n < x.host.cq.length ∧ n < 8 ∨ n = 8) :
    (x.setOutRing n r).outRing n = r := by
  unfold Side.setOutRing Side.outRing
  obtain ⟨hlen, h8⟩ | rfl := hn
  · simp only [h8, if_true]
    exact lget_lset_self _ _ _ _ hlen
  · rfl

/-- The count of entries not yet signalled is no index. -/
theorem Side.entriesOf_count (x : Side) (n k : Nat) : (x.setOutRing n { x.outRing n with count := k }).entriesOf n = x.entriesOf n := by
  refine Prod.ext (Side.entriesOf_setOutRing ..) ?_
  show (((x.setOutRing n _).outRing n).pi, ((x.setOutRing n _).outRing n).ci) = ((x.outRing n).pi, (x.outRing n).ci)
  obtain h | h := Side.outRing_setOutRing_or x n { x.outRing n with count := k } <;> rw [h]

theorem Side.entriesOf_sendVec (x : Side) (n v : Nat) : ({ x with host := x.host.sendVec v } : Side).entriesOf n = x.entriesOf n := by
  unfold HostSide.sendVec
  dsimp only
  split <;> rfl

theorem State.entriesOf_ringWrote (s : State) (sd j : SideId) (n : Nat) (third : Bool) :
    ((s.ringWrote sd n third).side j).entriesOf n = (s.side j).entriesOf n := by
  have hcount : ∀ (k : Nat) (i : SideId), ((s.setSide sd ((s.side sd).setOutRing n { (s.side sd).outRing n with count := k })).side i).entriesOf n
      = (s.side i).entriesOf n := fun k i =>
    State.side_mod_keeps (Side.entriesOf · n) (f := fun x => x.setOutRing n { x.outRing n with count := k }) (fun x => x.entriesOf_count n k) s sd i
  unfold State.ringWrote
  dsimp only
  split
  · unfold State.ringSignal State.signal
    exact (State.side_mod_keeps (Side.entriesOf · n) (fun x => x.entriesOf_sendVec n _) _ _ j).trans (hcount 0 j)
  · exact hcount _ j

/-! ### Writes to host memory -/

theorem State.endpoint_congr {s t : State} (h : ∀ i, (t.side i).noHost = (s.side i).noHost) (i : SideId) : t.endpoint i = s.endpoint i := by
  have hroute : t.stroke.on HOST_CFG.ROUTE_BOW = s.stroke.on HOST_CFG.ROUTE_BOW := congrArg (· != 0) (Side.get_of_noHost (h .stroke) _)
  unfold State.endpoint
  rw [hroute]

theorem Side.pair_congr {x y : Side} (h : y.noHost = x.noHost) (i : Nat) : y.pair i = x.pair i := by
  unfold Side.pair
  rw [Side.reg_of_noHost h, Side.reg_of_noHost h]

theorem State.noHost_dmaWrite (s : State) (sd j : SideId) (a : Nat) (bs : List Byte) : ((s.dmaWrite sd a bs).side j).noHost = (s.side j).noHost := by
  obtain ⟨m, hm⟩ := s.mem_dmaWrite sd j a bs
  rw [hm]
  rfl

theorem State.dmaWrite_endpoint (s : State) (sd : SideId) (a : Nat) (bs : List Byte) :
    ((s.dmaWrite sd a bs).side (s.endpoint sd)).host.mem = bputs (s.side (s.endpoint sd)).host.mem a bs :=
  congrArg (fun x : Side => x.host.mem) (State.side_mod ..)

/-- A side behind whose endpoint host memory is another. -/
def Side.withMem (x : Side) (m : List (Nat × Byte)) : Side := { x with host := { x.host with mem := m } }

/-- R264, R276: an entry is put into its slot of an out-ring, then the engine's index, before the ring signals. -/
def State.putEntry (s : State) (sd : SideId) (n : Nat) (e : Entry) : State :=
  let r := (s.side sd).outRing n
  let size := (s.side sd).outSize n
  let s := s.dmaWrite sd ((s.side sd).pair (outBaseIdx n) + 32 * (r.pi % size)) ((e.words (1 - r.pi / size % 2)).flatMap (fun w => bytesOf 8 w))
  (s.mod sd (fun x => x.setOutRing n { r with pi := r.pi + 1 })).putIndex sd (outIndexAt n) (r.pi + 1)

theorem State.writeEntry_eq (s : State) (sd : SideId) (n : Nat) (e : Entry) (third : Bool) :
    s.writeEntry sd n e third = (s.putEntry sd n e).ringWrote sd n third := rfl

section
variable (s : State) (sd : SideId) (n : Nat) (e : Entry)

theorem State.side_putEntry : ∃ m m', (s.putEntry sd n e).side sd
    = (((s.side sd).withMem m).setOutRing n { (s.side sd).outRing n with pi := ((s.side sd).outRing n).pi + 1 }).withMem m' := by
  unfold State.putEntry State.putIndex
  dsimp only
  generalize (s.side sd).outRing n = r
  obtain ⟨m, hm⟩ := s.mem_dmaWrite sd sd ((s.side sd).pair (outBaseIdx n) + 32 * (r.pi % (s.side sd).outSize n))
    ((e.words (1 - r.pi / (s.side sd).outSize n % 2)).flatMap (fun w => bytesOf 8 w))
  generalize s.dmaWrite sd _ _ = s1 at hm ⊢
  obtain ⟨m', hm'⟩ := (s1.mod sd (fun x => x.setOutRing n { r with pi := r.pi + 1 })).mem_dmaWrite sd sd
    (((s1.mod sd (fun x => x.setOutRing n { r with pi := r.pi + 1 })).side sd).pair DB_PAGE_LO.whole.idx + outIndexAt n) (bytesOf 8 (r.pi + 1))
  rw [State.side_mod, hm] at hm'
  rw [State.side_mod, hm]
  exact ⟨m, m', hm'⟩

theorem State.mem_putEntry : ((s.putEntry sd n e).side (s.endpoint sd)).host.mem
    = bputs (bputs (s.side (s.endpoint sd)).host.mem ((s.side sd).pair (outBaseIdx n)
        + 32 * (((s.side sd).outRing n).pi % (s.side sd).outSize n))
        ((e.words (1 - ((s.side sd).outRing n).pi / (s.side sd).outSize n % 2)).flatMap (fun w => bytesOf 8 w)))
      ((s.side sd).pair DB_PAGE_LO.whole.idx + outIndexAt n) (bytesOf 8 (((s.side sd).outRing n).pi + 1)) := by
  unfold State.putEntry State.putIndex
  dsimp only
  generalize (s.side sd).outRing n = r
  generalize (s.side sd).pair (outBaseIdx n) + 32 * (r.pi % (s.side sd).outSize n) = a
  generalize (e.words (1 - r.pi / (s.side sd).outSize n % 2)).flatMap (fun w => bytesOf 8 w) = bs
  have hnoHost : ∀ j, (((s.dmaWrite sd a bs).mod sd (fun x => x.setOutRing n { r with pi := r.pi + 1 })).side j).noHost = (s.side j).noHost :=
    fun j => (State.side_mod_keeps Side.noHost (fun x => (x.setOutRing_leaves n _).1) _ sd j).trans (s.noHost_dmaWrite sd j a bs)
  have hmem : (((s.dmaWrite sd a bs).mod sd (fun x => x.setOutRing n { r with pi := r.pi + 1 })).side (s.endpoint sd)).host.mem
      = bputs (s.side (s.endpoint sd)).host.mem a bs :=
    (State.side_mod_keeps (fun x => x.host.mem) (fun x => (x.setOutRing_leaves n _).2.1) _ sd _).trans (s.dmaWrite_endpoint sd a bs)
  generalize (s.dmaWrite sd a bs).mod sd (fun x => x.setOutRing n { r with pi := r.pi + 1 }) = s2 at hnoHost hmem ⊢
  rw [Side.pair_congr (hnoHost sd), ← State.endpoint_congr hnoHost sd, State.dmaWrite_endpoint, State.endpoint_congr hnoHost sd, hmem]

end

/-- R264, R276: an entry goes into the slot that its ring's index names, the index goes on by one and is written to the doorbell page; no
completion or event that waits is touched. -/
theorem State.writeEntry_writes {s : State} {sd : SideId} {n : Nat} (e : Entry) (third : Bool)
    (hn : n < (s.side sd).host.cq.length ∧ n < 8 ∨ n = 8) :
    let x := s.side sd
    let r := x.outRing n
    let size := x.outSize n
    let t := s.writeEntry sd n e third
    ((t.side sd).outRing n).pi = r.pi + 1 ∧ ((t.side sd).outRing n).ci = r.ci
      ∧ (t.side sd).host.compl = x.host.compl ∧ (t.side sd).host.events = x.host.events
      ∧ (t.side (s.endpoint sd)).host.mem = bputs (bputs (s.side (s.endpoint sd)).host.mem (x.pair (outBaseIdx n) + 32 * (r.pi % size))
          ((e.words (1 - r.pi / size % 2)).flatMap (fun w => bytesOf 8 w)))
        (x.pair DB_PAGE_LO.whole.idx + outIndexAt n) (bytesOf 8 (r.pi + 1)) := by
  dsimp only
  rw [State.writeEntry_eq]
  have hview : ∀ j, (((s.putEntry sd n e).ringWrote sd n third).side j).entriesOf n = ((s.putEntry sd n e).side j).entriesOf n :=
    fun j => State.entriesOf_ringWrote _ sd j n third
  have hmem := s.mem_putEntry sd n e
  obtain ⟨m, m', hside⟩ := s.side_putEntry sd n e
  have hring := Side.outRing_setOutRing (x := (s.side sd).withMem m) { (s.side sd).outRing n with pi := ((s.side sd).outRing n).pi + 1 } hn
  obtain ⟨-, -, hcompl, hevents⟩ := ((s.side sd).withMem m).setOutRing_leaves n
    { (s.side sd).outRing n with pi := ((s.side sd).outRing n).pi + 1 }
  have hsd := hview sd
  rw [hside] at hsd
  exact ⟨(congrArg (fun v : Side × Nat × Nat => v.2.1) hsd :).trans (congrArg OutRing.pi hring :),
    (congrArg (fun v : Side × Nat × Nat => v.2.2) hsd :).trans (congrArg OutRing.ci hring :),
    (congrArg (fun v : Side × Nat × Nat => v.1.host.compl) hsd :).trans hcompl,
    (congrArg (fun v : Side × Nat × Nat => v.1.host.events) hsd :).trans hevents,
    (congrArg (fun v : Side × Nat × Nat => v.1.host.mem) (hview _) :).trans hmem⟩

end Sys2Proof.Machine
end

section
/-! PROOFS. The rings in host memory (R263 to R281): completions and events written, moderation, the Keel, and boundaries that come. -/

namespace Sys2Proof.Machine

section
variable {s : State} {sd : SideId}

/-! ### Completions (R276) -/

theorem execCompletionWrite_oldest {cq : Fin 8} {c : ComplWait} {rest : List ComplWait} (hc : (s.side sd).host.compl = c :: rest)
    (hcq : c.cq = cq.val) (hon : (s.side sd).outOn cq.val = true) (hw : s.dmaWorks sd = true) : exec (.completionWrite sd cq) s = .next
      (if ((s.side sd).outRing cq.val).pi - ((s.side sd).outRing cq.val).ci ≥ (s.side sd).outSize cq.val then s
        else (s.writeEntry sd cq.val c.e (c.irqNow || c.e.status ≥ 0x2000)).mod sd (fun x =>
          ({ x with host := { x.host with compl := x.host.compl.erase c } } : Side).endWait c.ring.val c.id)) := by
  have hfind : (s.side sd).host.compl.find? (fun c => c.cq == cq.val) = some c := by simp [hc, hcq]
  show execCompletionWrite sd cq s = _
  unfold execCompletionWrite
  simp only [hfind, hon, hw, Bool.not_true, Bool.false_or, decide_eq_true_eq]

/-- R276: the oldest completion of a ring with room goes into its next slot, and waits no longer. -/
theorem completionWrite_writes {cq : Fin 8} {c : ComplWait} {rest : List ComplWait} (hc : (s.side sd).host.compl = c :: rest) (hcq : c.cq = cq.val)
    (hon : (s.side sd).outOn cq.val = true) (hw : s.dmaWorks sd = true) (hlen : (s.side sd).host.cq.length = 8)
    (hroom : ((s.side sd).outRing cq.val).pi - ((s.side sd).outRing cq.val).ci < (s.side sd).outSize cq.val) :
    let x := s.side sd
    let r := x.outRing cq.val
    let size := x.outSize cq.val
    Does (.completionWrite sd cq) s (fun u =>
      ((u.side sd).outRing cq.val).pi = r.pi + 1 ∧ ((u.side sd).outRing cq.val).ci = r.ci ∧ (u.side sd).host.compl = rest
      ∧ (u.side (s.endpoint sd)).host.mem = bputs (bputs (s.side (s.endpoint sd)).host.mem
          (x.pair (CQ_BASE_LO.whole cq.val).idx + 32 * (r.pi % size))
          ((c.e.words (1 - r.pi / size % 2)).flatMap (fun w => bytesOf 8 w)))
        (x.pair DB_PAGE_LO.whole.idx + (0x840 + 8 * cq.val)) (bytesOf 8 (r.pi + 1))) := by
  intro x r size
  obtain ⟨hpi, hci, hcompl, -, hmem⟩ := State.writeEntry_writes (s := s) (sd := sd) (n := cq.val) c.e (c.irqNow || c.e.status ≥ 0x2000)
    (.inl ⟨by rw [hlen]; exact cq.isLt, cq.isLt⟩)
  rw [show outBaseIdx cq.val = (CQ_BASE_LO.whole cq.val).idx from if_pos cq.isLt,
    show outIndexAt cq.val = 0x840 + 8 * cq.val from if_pos cq.isLt] at hmem
  refine ⟨_, (execCompletionWrite_oldest hc hcq hon hw).trans (congrArg Host.Outcome.next (if_neg (Nat.not_le.2 hroom))), ?_, ?_, ?_, ?_⟩
  · rw [State.side_mod]
    exact hpi
  · rw [State.side_mod]
    exact hci
  · rw [State.side_mod]
    show (((s.writeEntry sd cq.val c.e _).side sd).host.compl).erase c = rest
    rw [hcompl, hc, List.erase_cons_head]
  · refine (State.side_mod_keeps (fun y => y.host.mem) ?_ _ sd _).trans hmem
    exact fun _ => rfl

theorem completionWrite_none {cq : Fin 8} (hc : (s.side sd).host.compl = []) : exec (.completionWrite sd cq) s = .next s := by
  show execCompletionWrite sd cq s = _
  unfold execCompletionWrite
  simp only [hc, List.find?_nil]

/-! ### Events (R278, R279) -/

section
variable (hen : (s.side sd).on EVQ_CFG.EN = true) (hgo : (s.side sd).on RING_ERR.EVQ_ERR = false) (hw : s.dmaWorks sd = true)
include hen hgo hw

theorem execEventWrite_next {e : Entry} {es : List Entry} (hov : (s.side sd).host.overflow = none) (hev : (s.side sd).host.events = e :: es) :
    exec (.eventWrite sd) s = .next (if ((s.side sd).outRing 8).pi + 1 < ((s.side sd).outRing 8).ci + (s.side sd).outSize 8
      then (s.writeEntry sd 8 e ([0x0E, 0x10].contains e.code)).mod sd (fun x => { x with host := { x.host with events := es } })
      else s.setSide sd { (s.side sd).dropEvent with host := { (s.side sd).dropEvent.host with overflow := some (s.side sd).now } }) := by
  show execEventWrite sd s = _
  unfold execEventWrite
  simp only [hen, hgo, hw, hov, hev, Bool.not_true, Bool.or_self, Bool.false_eq_true, if_false]

/-- R278: an event goes into the next slot of a ring with more than one slot free. -/
theorem eventWrite_writes {e : Entry} {es : List Entry} (hov : (s.side sd).host.overflow = none) (hev : (s.side sd).host.events = e :: es)
    (hroom : ((s.side sd).outRing 8).pi + 1 < ((s.side sd).outRing 8).ci + (s.side sd).outSize 8) :
    let x := s.side sd
    let r := x.outRing 8
    Does (.eventWrite sd) s (fun u => ((u.side sd).outRing 8).pi = r.pi + 1 ∧ (u.side sd).host.events = es
      ∧ (u.side (s.endpoint sd)).host.mem = bputs (bputs (s.side (s.endpoint sd)).host.mem
          (x.pair EVQ_BASE_LO.whole.idx + 32 * (r.pi % x.outSize 8))
          ((e.words (1 - r.pi / x.outSize 8 % 2)).flatMap (fun w => bytesOf 8 w)))
        (x.pair DB_PAGE_LO.whole.idx + 0x880) (bytesOf 8 (r.pi + 1))) := by
  intro x r
  obtain ⟨hpi, -, -, -, hmem⟩ := State.writeEntry_writes (s := s) (sd := sd) e ([0x0E, 0x10].contains e.code) (.inr rfl)
  refine ⟨_, (execEventWrite_next hen hgo hw hov hev).trans (congrArg Host.Outcome.next (if_pos hroom)), ?_, ?_, ?_⟩
  · rw [State.side_mod]
    exact hpi
  · rw [State.side_mod]
  · refine (State.side_mod_keeps (fun y => y.host.mem) ?_ _ sd _).trans hmem
    exact fun _ => rfl

/-- R279: where one slot is left the event is dropped and counted, and the overflow begins. -/
theorem eventWrite_drops {e : Entry} {es : List Entry} (hov : (s.side sd).host.overflow = none) (hev : (s.side sd).host.events = e :: es)
    (hfull : ((s.side sd).outRing 8).ci + (s.side sd).outSize 8 ≤ ((s.side sd).outRing 8).pi + 1) :
    Does (.eventWrite sd) s (fun u => (u.side sd).host.events = es ∧ (u.side sd).host.overflow = some (s.side sd).now
      ∧ (u.side sd).host.dropped = (s.side sd).host.dropped + 1
      ∧ (u.side sd).get EVT_DROP.whole = min ((s.side sd).get EVT_DROP.whole + 1) (2 ^ 36 - 1)) := by
  have hdrop : (s.side sd).dropEvent = ({ s.side sd with host := { (s.side sd).host with
      events := es, dropped := (s.side sd).host.dropped + 1 } } : Side).inc EVT_DROP.whole := by
    unfold Side.dropEvent
    simp only [hev]
  refine ⟨_, (execEventWrite_next hen hgo hw hov hev).trans (congrArg Host.Outcome.next (if_neg (Nat.not_lt.2 hfull))), ?_⟩
  dsimp only
  rw [State.side_setSide, hdrop]
  exact ⟨rfl, rfl, rfl, Side.get_inc _ _ (by decide)⟩

/-- R279: EVENT_OVERFLOW is written when the host has freed space, and ends the overflow. -/
theorem eventWrite_overflow {t : Nat} (hov : (s.side sd).host.overflow = some t)
    (hroom : ((s.side sd).outRing 8).pi + 1 < ((s.side sd).outRing 8).ci + (s.side sd).outSize 8) :
    Does (.eventWrite sd) s (fun u => (u.side sd).host.overflow = none ∧ (u.side sd).host.dropped = 0
      ∧ ((u.side sd).outRing 8).pi = ((s.side sd).outRing 8).pi + 1) := by
  have hexec : exec (.eventWrite sd) s = .next
      ((s.writeEntry sd 8 ⟨0, stOK, 0x11, t, 0, false, (s.side sd).host.dropped, 0⟩ true).mod sd (fun x =>
        { x with host := { x.host with overflow := none, dropped := 0 } })) := by
    show execEventWrite sd s = _
    unfold execEventWrite
    simp only [hen, hgo, hw, hov, hroom, Bool.not_true, Bool.or_self, Bool.false_eq_true, if_false, if_true]
  obtain ⟨hpi, -⟩ := State.writeEntry_writes (s := s) (sd := sd) ⟨0, stOK, 0x11, t, 0, false, (s.side sd).host.dropped, 0⟩ true (.inr rfl)
  refine ⟨_, hexec, ?_⟩
  dsimp only
  rw [State.side_mod]
  exact ⟨rfl, rfl, hpi⟩

end

/-! ### Moderation (R281) -/

theorem Side.modTimed_iff (x : Side) (n : Nat) :
    x.modTimed n = true ↔ 0 < (x.outRing n).count ∧ bitsOf (x.outCfg n) 25 18 ≠ 0 ∧ bitsOf (x.outCfg n) 17 8 ≠ 0 := by
  unfold Side.modTimed
  simp only [Bool.and_eq_true, decide_eq_true_eq, bne_iff_ne, and_assoc]

theorem modTime_signals {src : Fin 25} (ht : (s.side sd).modTimed src.val = true) (hw : s.dmaWorks sd = true) : exec (.modTime sd src) s
    = .next ((s.mod sd (fun x => x.setOutRing src.val { x.outRing src.val with count := 0 })).signal sd
      (bitsOf ((s.side sd).outCfg src.val) 30 26)) :=
  congrArg Host.Outcome.next (if_pos (by rw [ht, hw]; rfl))

theorem modTime_idle {src : Fin 25} (h : ¬(s.side sd).modTimed src.val = true ∨ s.dmaWorks sd = false) : exec (.modTime sd src) s = .next s := by
  refine congrArg Host.Outcome.next (if_neg ?_)
  obtain h | h := h <;> simp [h]

/-- R281: a vector of a side's own endpoint sends its message, or becomes pending where it is masked. -/
theorem State.signal_own (hown : s.endpoint sd = sd) {v : Nat} {en : MsixEnt} (hv : lget (s.side sd).host.msix v ⟨0, 0, true⟩ = en) :
    ((s.signal sd v).side sd).host = (if en.mask then { (s.side sd).host with pba := dedup ((s.side sd).host.pba ++ [v]) }
      else { (s.side sd).host with msi := (s.side sd).host.msi ++ [⟨v, en.addr, en.data⟩] }) := by
  subst hv
  unfold State.signal
  simp only [hown, beq_self_eq_true, if_true]
  rw [State.side_mod]
  rfl

/-! ### Across the Keel (R274) -/

/-- R272: a command whose boundary is resolved, and is neither an instant nor now, waits in staging. -/
theorem State.arrive_waits {st : Staged} {b : Bnd} (hb : (s.side sd).resolveBnd s.keel.up st.texec st.op st.e = .ok b)
    (hop : st.op ≠ 0x01 ∧ st.op ≠ 0x44 ∧ st.op ≠ 0x61 ∧ st.op ≠ 0x51) (hnow : b ≠ .now) (htime : ∀ u, b ≠ .time u) :
    s.arrive sd st = s.mod sd (fun x => { x with host := { x.host with staged := x.host.staged ++ [{ st with bnd := b }] } }) := by
  obtain ⟨h1, h44, h61, h51⟩ := hop
  have hsw : (s.side sd).switchBad { st with bnd := b } = false := by
    unfold Side.switchBad
    simp [h51]
  unfold State.arrive
  simp only [hb, hsw, beq_eq_false_iff_ne.2 h1, beq_eq_false_iff_ne.2 h44, beq_eq_false_iff_ne.2 h61, Bool.false_eq_true, if_false]
  split <;> rfl

theorem remoteCommand_waits {st : Staged} {b : Bnd} (hh : s.held = false) (hup : s.keel.up = true) (hcmds : s.keel.cmds = [(sd, st)])
    (hfatal : (s.side sd).pwr.fatal = false) (hb : (s.side sd).resolveBnd s.keel.up st.texec st.op st.e = .ok b)
    (hop : st.op ≠ 0x01 ∧ st.op ≠ 0x44 ∧ st.op ≠ 0x61 ∧ st.op ≠ 0x51) (hnow : b ≠ .now) (htime : ∀ u, b ≠ .time u) :
    exec (.remoteCommand sd) s = .next (({ s with keel := { s.keel with cmds := [] } } : State).mod sd (fun x => { x with host := { x.host with
      staged := x.host.staged ++ [{ st with bnd := b }] } })) := by
  have hfind : s.keel.cmds.find? (fun p => p.1 == sd) = some (sd, st) := by simp [hcmds]
  have herase : s.keel.cmds.erase (sd, st) = [] := by rw [hcmds, List.erase_cons_head]
  have harrive := State.arrive_waits (s := { s with keel := { s.keel with cmds := [] } }) (sd := sd) (st := st) (b := b)
    (by rw [State.side_keel]; exact hb) hop hnow htime
  have hopen : ¬(s.held || !s.keel.up) = true := by simp [hh, hup]
  show execRemoteCommand sd s = _
  unfold execRemoteCommand
  simp only [if_neg hopen, hfind, herase, State.side_keel, hfatal, Bool.false_eq_true, if_false]
  exact congrArg Host.Outcome.next harrive

theorem remoteCommand_idle (h : s.held = true ∨ s.keel.up = false) : exec (.remoteCommand sd) s = .next s := by
  refine congrArg Host.Outcome.next (if_pos ?_)
  obtain h | h := h <;> simp [h]

/-- R274, R277: a completion that comes back over the Keel is delivered to its ring, and its command is no longer away. -/
theorem remoteCompletion_delivers {ring : Fin 8} {id : Nat} {fl : CmdEntry} {e : Entry} (hup : s.keel.up = true)
    (hdones : s.keel.dones = [(sd, ring, id, fl, e)]) (hs : (s.side sd).host.staged = []) : Does (.remoteCompletion sd) s (fun u =>
      u.keel = { s.keel with dones := [] } ∧ (u.side sd).host.remote = (s.side sd).host.remote.filter (fun p => p != (ring, id))
      ∧ (u.side sd).host.compl = if fl.quiet && e.status == stOK then (s.side sd).host.compl
          else (s.side sd).host.compl ++ [⟨(s.side sd).get (CMDQ_CFG.CQ ring.val), ring, id, fl.irqNow, e⟩]) := by
  have hexec : exec (.remoteCompletion sd) s = .next (({ s with keel := { s.keel with dones := [] } } : State).mod sd (fun x =>
      x.deliver ring id fl e)) := by
    have hfind : s.keel.dones.find? (fun d => d.1 == sd) = some (sd, ring, id, fl, e) := by simp [hdones]
    have herase : s.keel.dones.erase (sd, ring, id, fl, e) = [] := by rw [hdones, List.erase_cons_head]
    have hopen : ¬(!s.keel.up) = true := by simp [hup]
    show execRemoteCompletion sd s = _
    unfold execRemoteCompletion
    simp only [if_neg hopen, hfind, herase]
  refine ⟨_, hexec, ?_⟩
  dsimp only
  rw [State.mod_keel, State.side_mod, State.side_keel, Side.deliver_noneStaged hs]
  exact ⟨rfl, Side.remote_deliverOne .., Side.compl_deliverOne ..⟩

/-! ### Boundaries that come (R273) -/

theorem boundaryReached_held (h : s.held = true) (n : Nat) : exec (.boundaryReached sd n) s = .next s :=
  congrArg Host.Outcome.next (if_pos h)

theorem State.runStaged_alone {st : Staged} (t : Nat) (hz : (s.side sd).host.staged = [st]) :
    s.runStaged sd st t = State.releaseIsland sd st t 1 (effectOf sd st t s) := by
  have hb : (s.side sd).behind st = false := by
    unfold Side.behind
    simp [hz]
  unfold State.runStaged
  simp only [hb, Bool.false_eq_true, if_false, hz, List.length_singleton]

theorem execBoundaryReached_alone {st : Staged} (hh : s.held = false) (hz : (s.side sd).host.staged = [st]) (hw : st.waits = true)
    (hr : st.reached = false) : exec (.boundaryReached sd 0) s
      = .next (((s.side sd).instantOf st).elim s (s.runStaged sd st)) := by
  have hget : (s.side sd).host.staged[0]? = some st := by rw [hz]; rfl
  show execBoundaryReached sd 0 s = _
  unfold execBoundaryReached
  simp only [hh, hget, hw, hr, Bool.not_true, Bool.false_eq_true, if_false]
  cases (s.side sd).instantOf st <;> rfl

end

/-- Settles O44: a clause for each thing the engine does with a ring in host memory. -/
theorem hostRings : Obligations.HostRings := by
  unfold Obligations.HostRings
  intro s sd page cq src c rest e es st b t id n ring fl x works h
  refine ⟨doorbellPoll_idle, fun hen hw => ⟨doorbellPoll_reads hen hw page, fun y i hi v hy hgo hlen => ⟨fun hlo hhi => ?_, ?_⟩,
      doorbellPoll_fails hen hw⟩, fun hc hcq hon hw hlen => ⟨fun hfull => ?_, completionWrite_writes hc hcq hon hw hlen⟩, completionWrite_none,
    fun hen hgo hw hov hev => ⟨eventWrite_writes hen hgo hw hov hev, eventWrite_drops hen hgo hw hov hev⟩,
    fun hen hgo hw hov hroom => eventWrite_overflow hen hgo hw hov hroom, ⟨fun ht hw => ?_, fun hn => ?_⟩,
    fun hown v en hv => State.signal_own hown hv,
    fun hh hup hcmds hfatal h1 h44 h61 hb hnow htime h51 => remoteCommand_waits hh hup hcmds hfatal hb ⟨h1, h44, h61, h51⟩ hnow htime,
    remoteCommand_idle, fun hh => boundaryReached_held hh n, fun hup hdones hs => ?_, fun hh hz hw hr ht => ?_, fun hh hz hw hr ht => ?_⟩
  · exact Side.takeCmdPi_taken hy hgo (hlen ▸ hi) hlo hhi
  · exact Side.takeCmdPi_stopped hy hgo hi
  · exact (execCompletionWrite_oldest hc hcq hon hw).trans (congrArg Host.Outcome.next (if_pos hfull))
  · exact modTime_signals (((s.side sd).modTimed_iff src.val).2 ht) hw
  · exact modTime_idle (hn.imp_left (mt ((s.side sd).modTimed_iff src.val).1))
  · obtain ⟨u, hexec, hkeel, hremote, hcompl⟩ := remoteCompletion_delivers hup hdones hs
    refine ⟨u, hexec, hkeel, hremote, fun hq => hcompl.trans (if_neg ?_), fun hq h0 => hcompl.trans (if_pos ?_)⟩
    · simpa only [Bool.and_eq_true, beq_iff_eq, stOK] using hq
    · rw [hq, h0]
      rfl
  · rw [execBoundaryReached_alone hh hz hw hr, ht]
    exact congrArg Host.Outcome.next (State.runStaged_alone t hz)
  · rw [execBoundaryReached_alone hh hz hw hr, ht]
    rfl

end Sys2Proof.Machine
end
section
/-! PROOFS. What serving the DRAM buffers (R294, R296, R319) leaves of the DRAM controllers' own registers: DRAM_CFG to DRAM_PANIC, indexes
0xA000 to 0xA00F (R475). -/

namespace Sys2Proof.Machine

/-- The registers of the DRAM controllers but their counters. -/
def Side.dramCtl (x : Side) : Fin 16 → Word := fun i => x.reg (0xA000 + i.val)

/-- A register that is none of them. -/
@[reducible] def offDramCtl (i : Nat) : Prop := i < 0xA000 ∨ 0xA010 ≤ i

section
variable {x y : Side}

theorem Side.reg_of_dramCtl (h : y.dramCtl = x.dramCtl) {i : Nat} (hi : 0xA000 ≤ i ∧ i < 0xA010) : y.reg i = x.reg i := by
  have e := congrFun h ⟨i - 0xA000, by omega⟩
  simpa only [Side.dramCtl, Nat.add_sub_cancel' hi.1] using e

theorem Side.dramCtl_of_lanePart (h : y.lanePart = x.lanePart) : y.dramCtl = x.dramCtl :=
  funext fun _ => Side.reg_of_lanePart h (by omega)

end

section
variable (x : Side)

theorem Side.dramCtl_setReg {i : Nat} (v : Word) (h : offDramCtl i) : (x.setReg i v).dramCtl = x.dramCtl :=
  funext fun j => Side.reg_setReg_ne x i _ v (by omega)

theorem Side.dramCtl_set {f : Fld} (v : Nat) (h : offDramCtl f.idx) : (x.set f v).dramCtl = x.dramCtl := x.dramCtl_setReg _ h

theorem Side.dramCtl_inc {f : Fld} (h : offDramCtl f.idx) : (x.inc f).dramCtl = x.dramCtl := x.dramCtl_set _ h

@[simp] theorem Side.dramCtl_setMem (k : MemSel) (m : BpcMem) : (x.setMem k m).dramCtl = x.dramCtl := by cases k <;> rfl

@[simp] theorem Side.dramCtl_report (cls l syn : Nat) (inj : Bool) : (x.report cls l syn inj).dramCtl = x.dramCtl :=
  Side.dramCtl_of_lanePart (x.lanePart_report cls l syn inj)

/-! ### Records that lie in a poisoned block (R323) -/

theorem Side.dramCtl_flagEntries (b : List Word) (l : List Seg) : (l.foldl (fun x g => x.flagEntry b g.num) x).dramCtl = x.dramCtl := by
  refine foldl_keeps (fun y => y.dramCtl = x.dramCtl) _ (fun y g hy => ?_) l x rfl
  unfold Side.flagEntry Side.orWord
  split
  · exact (y.dramCtl_setMem _ _).trans hy
  · exact hy

theorem Side.dramCtl_poisonSeen (c : Chan) : (x.raise (ACQ_STAT.POISON_SEEN c.n)).dramCtl = x.dramCtl :=
  x.dramCtl_set 1 (by cases c <;> decide)

theorem Side.dramCtl_flagHeader (c : Chan) : (x.flagHeader c).dramCtl = x.dramCtl := Side.dramCtl_poisonSeen _ c

theorem Side.dramCtl_markArmed (c : Chan) (ws : List Nat) : (x.markArmed c ws).dramCtl = x.dramCtl := by
  unfold Side.markArmed
  dsimp only
  split
  · rfl
  · split
    · rfl
    · exact (Side.dramCtl_flagHeader _ c).trans (x.dramCtl_flagEntries _ _)

theorem Side.dramCtl_markLast (c : Chan) (ws : List Nat) : (x.markLast c ws).dramCtl = x.dramCtl := by
  unfold Side.markLast
  dsimp only
  split
  · rfl
  · split
    · rfl
    · rw [Side.dramCtl_of_lanePart (Side.lanePart_event ..)]
      split
      · exact (Side.dramCtl_poisonSeen _ c).trans (x.dramCtl_flagEntries _ _)
      · exact (Side.dramCtl_flagHeader _ c).trans (x.dramCtl_flagEntries _ _)

@[simp] theorem Side.dramCtl_markRecords (b : Nat) : (x.markRecords b).dramCtl = x.dramCtl := by
  simp only [Side.markRecords, Side.markRecord, Side.dramCtl_markLast, Side.dramCtl_markArmed]

/-! ### Blocks -/

/-- R319, R327: the log takes the address of the first poisoned block. -/
theorem Side.dramCtl_poisonBlk (k : MemSel) (b : Nat) (ws : List Word) (c : Nat) : (x.poisonBlk k b ws c).dramCtl = x.dramCtl := by
  have hcount : ∀ y : Side, (y.inc POISON_COUNT.whole).dramCtl = y.dramCtl := fun y => y.dramCtl_inc (by decide)
  have hlog : ∀ (y : Side) (a : Word) (v : Nat), (((y.setReg POISON_ADDR_LO.whole.idx a).set POISON_ADDR_HI.ADDR_HI v).raise
      POISON_ADDR_HI.VALID).dramCtl = y.dramCtl := fun y a v => by
    rw [Side.raise_eq, Side.dramCtl_set _ _ (by decide), Side.dramCtl_set _ _ (by decide), Side.dramCtl_setReg _ _ (by decide)]
  unfold Side.poisonBlk
  dsimp only
  split <;> split <;> simp only [Side.dramCtl_markRecords, Side.dramCtl_report, hlog, hcount, Side.dramCtl_setMem]

theorem Side.dramCtl_countRead (k : MemSel) (b : Nat) (bad : Bool) : (x.countRead k b bad).dramCtl = x.dramCtl := by
  unfold Side.countRead
  cases k <;> cases bad
  · exact x.dramCtl_inc (by decide)
  · exact x.dramCtl_inc (by decide)
  · exact x.dramCtl_inc (.inr (Nat.le_add_right ..))
  · exact x.dramCtl_inc (.inr (Nat.le_add_right_of_le (by decide)))
  · rfl
  · rfl

theorem Side.dramCtl_zeroBlk (k : MemSel) (b : Nat) : (x.zeroBlk k b).dramCtl = x.dramCtl := by
  unfold Side.zeroBlk
  rw [Side.dramCtl_report, Side.dramCtl_inc _ (by decide), Side.dramCtl_setMem]

theorem Side.dramCtl_writeBlk (k : MemSel) (b : Nat) (ws : List Word) : (x.writeBlk k b ws).dramCtl = x.dramCtl :=
  (Side.dramCtl_setMem _ _ _).trans (Side.dramCtl_of_lanePart (x.lanePart_takeInj _))

theorem Side.dramCtl_flushEnt (k : MemSel) (e : MergeEnt) : (x.flushEnt k e).dramCtl = x.dramCtl := by
  unfold Side.flushEnt
  dsimp only
  split
  · rfl
  · split
    · simp only [Side.dramCtl_writeBlk, Side.dramCtl_setMem]
    · split
      case h_1 => simp only [Side.dramCtl_poisonBlk, Side.dramCtl_setMem]
      case h_2 => simp only [Side.dramCtl_writeBlk, Side.dramCtl_setMem]
      case h_3 => simp only [Side.dramCtl_writeBlk, Side.dramCtl_report, Side.dramCtl_countRead, Side.dramCtl_setMem]
      case h_4 =>
        split <;> simp only [Side.dramCtl_writeBlk, Side.dramCtl_zeroBlk, Side.dramCtl_poisonBlk, Side.dramCtl_countRead, Side.dramCtl_setMem]

theorem Side.dramCtl_flushEnts (k : MemSel) (p : MergeEnt → Bool) : (x.flushEnts k p).dramCtl = x.dramCtl :=
  foldl_keeps (fun y => y.dramCtl = x.dramCtl) _ (fun y e hy => (y.dramCtl_flushEnt k e).trans hy) _ x rfl

/-- R284: a FENCE that goes on completes in its ring. -/
theorem Side.dramCtl_fenceMem : x.fenceMem.dramCtl = x.dramCtl := by
  unfold Side.fenceMem
  dsimp only
  split
  · split
    · refine Eq.trans (funext fun i => ?_) (x.dramCtl_flushEnts .dram (fun _ => true))
      exact Side.reg_of_noHost (Side.noHost_settleFences _ _) _
    · exact x.dramCtl_flushEnts .dram _
  · rfl

end

end Sys2Proof.Machine
end

section
/-! PROOFS. Self-refresh and the rate switch (R311, R312): what the four channels show once each has been served in turn. -/

namespace Sys2Proof.Machine

/-! ### A step for each number of a range -/

theorem Side.reg_foldl_range {g : Side → Nat → Side} {n i : Nat} (hg : ∀ y, ∀ c < n, (g y c).reg i = y.reg i) (x : Side) :
    ((List.range n).foldl g x).reg i = x.reg i :=
  List.foldlRecOn (motive := fun y => y.reg i = x.reg i) (List.range n) g rfl
    fun y hy c hc => (hg y c (List.mem_range.1 hc)).trans hy

/-- A register that one step alone touches is as that step leaves it. -/
theorem Side.reg_foldl_range_at {g : Side → Nat → Side} {c i : Nat} (hg : ∀ y d, d ≠ c → (g y d).reg i = y.reg i) (x : Side) :
    ∀ {n : Nat}, c < n → ((List.range n).foldl g x).reg i = (g ((List.range c).foldl g x) c).reg i
  | n + 1, h => by
    rw [List.range_succ, List.foldl_append]
    by_cases hc : c = n
    · rw [hc]
      rfl
    · exact (hg _ n (Ne.symm hc)).trans (Side.reg_foldl_range_at hg x (by omega))

theorem Side.get_of_reg {x y : Side} {f : Fld} (h : y.reg f.idx = x.reg f.idx) : y.get f = x.get f := by
  unfold Side.get
  rw [h]

theorem Side.on_of_reg {x y : Side} {f : Fld} (h : y.reg f.idx = x.reg f.idx) : y.on f = x.on f := by
  unfold Side.on
  rw [Side.get_of_reg h]

/-- Fields of one register that share no bit. -/
theorem apart_of_bits (i : Nat) {hi lo hi' lo' : Nat} (h : lo ≤ hi ∧ hi' < 36 ∧ (hi' < lo ∨ hi < lo')) :
    Fld.apart ⟨i, hi, lo⟩ ⟨i, hi', lo'⟩ := .inr h

/-! ### One channel (R311) -/

theorem Side.reg_enterSr (x : Side) {c i : Nat} (h : i ≠ 0xA004 + c) : (x.enterSr c).reg i = x.reg i := by
  unfold Side.enterSr
  rw [Side.raise_eq, Side.reg_set_ne _ _ _ _ h, Side.reg_set_ne _ _ _ _ h, Side.reg_set_ne _ _ _ _ h]

theorem Side.regsOf_enterSr {x y : Side} (h : x.regsOf y) (c : Nat) : x.regsOf (y.enterSr c) :=
  Side.regsOf_set (Side.regsOf_set (Side.regsOf_set h _ _) _ _) _ _

/-- R311: a channel enters self-refresh with its owed refreshes issued. -/
theorem Side.enterSr_shows (x : Side) (c : Nat) : (x.enterSr c).on (DRAM_STAT.SR c) = true ∧ (x.enterSr c).on (DRAM_STAT.OWED0 c) = false
    ∧ (x.enterSr c).on (DRAM_STAT.OWED1 c) = false := by
  unfold Side.enterSr
  refine ⟨Side.on_set_one _ _ (by decide : 33 = 33 ∧ 33 < 36), ?_, ?_⟩
  · rw [Side.raise_eq, Side.on_set_apart _ (DRAM_STAT.SR c) (DRAM_STAT.OWED0 c) _ (apart_of_bits _ (by decide)),
      Side.on_set_apart _ (DRAM_STAT.OWED1 c) (DRAM_STAT.OWED0 c) _ (apart_of_bits _ (by decide))]
    exact Side.on_set_zero _ _ (by decide : 28 ≤ 31 ∧ 31 < 36)
  · rw [Side.raise_eq, Side.on_set_apart _ (DRAM_STAT.SR c) (DRAM_STAT.OWED1 c) _ (apart_of_bits _ (by decide))]
    exact Side.on_set_zero _ _ (by decide : 24 ≤ 27 ∧ 27 < 36)

/-- Of the controllers' registers a channel that leaves self-refresh changes its DRAM_STAT, and of that SR. -/
theorem Side.reg_leaveSr (x : Side) (c : Nat) {i : Nat} (hi : 0xA000 ≤ i ∧ i < 0xA010) :
    (x.leaveSr c).reg i = (x.set (DRAM_STAT.SR c) 0).reg i :=
  Side.reg_of_dramCtl ((Side.dramCtl_fenceMem _).trans (Side.dramCtl_flushEnts _ _ _)) hi

/-- R311: what a changed SR_REQ makes of channel c. -/
def Side.srStep (req : Nat) (x : Side) (c : Nat) : Side :=
  if !x.on (DRAM_STAT.TRAINED c) then x else if bitAt req c then x.enterSr c else x.leaveSr c

theorem Side.reg_srStep (req : Nat) (x : Side) (c : Nat) {i : Nat} (hi : 0xA000 ≤ i ∧ i < 0xA010) (hne : i ≠ 0xA004 + c) :
    (x.srStep req c).reg i = x.reg i := by
  unfold Side.srStep
  split
  · rfl
  · split
    · exact x.reg_enterSr hne
    · exact (x.reg_leaveSr c hi).trans (Side.reg_set_ne _ _ _ _ hne)

theorem Side.srStep_shows (req : Nat) (x : Side) {c : Nat} (hc : c < 4) :
    (x.srStep req c).on (DRAM_STAT.SR c) = (if x.on (DRAM_STAT.TRAINED c) then bitAt req c else x.on (DRAM_STAT.SR c))
    ∧ (x.on (DRAM_STAT.TRAINED c) = true → bitAt req c = true →
      (x.srStep req c).on (DRAM_STAT.OWED0 c) = false ∧ (x.srStep req c).on (DRAM_STAT.OWED1 c) = false) := by
  have hidx : 0xA000 ≤ 0xA004 + c ∧ 0xA004 + c < 0xA010 := by omega
  obtain ⟨hsr, howed⟩ := x.enterSr_shows c
  unfold Side.srStep
  cases x.on (DRAM_STAT.TRAINED c) with
  | false => exact ⟨rfl, fun h => Bool.noConfusion h⟩
  | true =>
    cases bitAt req c with
    | true => exact ⟨hsr, fun _ _ => howed⟩
    | false => exact ⟨(Side.on_of_reg (x.reg_leaveSr c hidx)).trans (Side.on_set_zero _ _ (by decide : 33 ≤ 33 ∧ 33 < 36)),
        fun _ h => Bool.noConfusion h⟩

/-- R311: every trained channel is in self-refresh as SR_REQ's bit of it says, and owes nothing where it has entered. -/
theorem Side.srSteps_show (req : Nat) (x : Side) {c : Nat} (hc : c < 4) : let y := (List.range 4).foldl (Side.srStep req) x
    y.get DRAM_LP_CTRL.SR_REQ = x.get DRAM_LP_CTRL.SR_REQ
    ∧ y.on (DRAM_STAT.SR c) = (if x.on (DRAM_STAT.TRAINED c) then bitAt req c else x.on (DRAM_STAT.SR c))
    ∧ (x.on (DRAM_STAT.TRAINED c) = true → bitAt req c = true → y.on (DRAM_STAT.OWED0 c) = false ∧ y.on (DRAM_STAT.OWED1 c) = false) := by
  intro y
  have hreq : y.reg 0xA002 = x.reg 0xA002 :=
    Side.reg_foldl_range (fun z d _ => z.reg_srStep req d (by decide) (by omega)) x
  have hat : y.reg (0xA004 + c) = (((List.range c).foldl (Side.srStep req) x).srStep req c).reg (0xA004 + c) :=
    Side.reg_foldl_range_at (fun z d hd => z.reg_srStep req d (by omega) (by omega)) x hc
  have hbefore : ((List.range c).foldl (Side.srStep req) x).reg (0xA004 + c) = x.reg (0xA004 + c) :=
    Side.reg_foldl_range (fun z d hd => z.reg_srStep req d (by omega) (by omega)) x
  have hgives := Side.srStep_shows req ((List.range c).foldl (Side.srStep req) x) hc
  rw [Side.on_of_reg (f := DRAM_STAT.TRAINED c) hbefore, Side.on_of_reg (f := DRAM_STAT.SR c) hbefore] at hgives
  rw [Side.on_of_reg (f := DRAM_STAT.SR c) hat, Side.on_of_reg (f := DRAM_STAT.OWED0 c) hat, Side.on_of_reg (f := DRAM_STAT.OWED1 c) hat]
  exact ⟨Side.get_of_reg hreq, hgives⟩

/-! ### DRAM_LP_CTRL (R311, R312) -/

section
variable {x : Side}

theorem Side.setSrReq_blocked {req : Nat} (hne : req ≠ x.get DRAM_LP_CTRL.SR_REQ) (hb : x.srBlocked = true) :
    x.setSrReq req = x.set DRAM_LP_CTRL.LP_REFUSED 1 := by
  have hbeq : (x.get DRAM_LP_CTRL.SR_REQ == req) = false := beq_false_of_ne hne.symm
  simp [Side.setSrReq, hbeq, hb]

theorem Side.setSrReq_taken {req : Nat} (hne : req ≠ x.get DRAM_LP_CTRL.SR_REQ) (hb : x.srBlocked = false) :
    x.setSrReq req = (List.range 4).foldl (Side.srStep req) (x.set DRAM_LP_CTRL.SR_REQ req) := by
  have hbeq : (x.get DRAM_LP_CTRL.SR_REQ == req) = false := beq_false_of_ne hne.symm
  unfold Side.setSrReq
  rw [hbeq, hb]
  rfl

theorem Side.setSrReq_same : x.setSrReq (x.get DRAM_LP_CTRL.SR_REQ) = x := by
  simp [Side.setSrReq]

/-- A side whose rate switch is under way. -/
def Side.switching (x : Side) : Side := { x with dram := { x.dram with fcBusy := true } }

theorem Side.startFc_blocked (hf : x.dram.fcBusy = false) (hb : x.srBlocked = true) : x.startFc = x.set DRAM_LP_CTRL.LP_REFUSED 1 := by
  simp [Side.startFc, hf, hb]

theorem Side.startFc_starts (hf : x.dram.fcBusy = false) (hb : x.srBlocked = false) (hpop : x.get DRAM_CFG.POP = 15)
    (hin : ∀ c < 4, x.on (DRAM_STAT.MAPPED_OUT c) = false) (halt : x.get DRAM_CFG.ALT_RATE ≠ 7) :
    x.startFc = (List.range 4).foldl Side.enterSr (x.switching.set PLL_STAT.M_LOCK 0) := by
  have hany : (List.range 4).any (fun c => x.on (DRAM_STAT.MAPPED_OUT c)) = false :=
    List.any_eq_false.2 fun c hc => by simp [hin c (List.mem_range.1 hc)]
  have hor : (x.get DRAM_CFG.POP != 15 || (List.range 4).any (fun c => x.on (DRAM_STAT.MAPPED_OUT c)) || x.get DRAM_CFG.ALT_RATE == 7
      || x.srBlocked) = false := by
    rw [hpop, hany, hb, beq_false_of_ne halt]
    rfl
  unfold Side.startFc
  rw [hf, hor]
  rfl

/-- R312: every channel enters self-refresh, and PLL-M loses lock. -/
theorem Side.enterSrs_show (x : Side) {c : Nat} (hc : c < 4) : let y := (List.range 4).foldl Side.enterSr (x.set PLL_STAT.M_LOCK 0)
    y.dram = x.dram ∧ y.on PLL_STAT.M_LOCK = false ∧ y.on (DRAM_STAT.SR c) = true ∧ y.on (DRAM_STAT.OWED0 c) = false := by
  intro y
  have hlock : y.reg PLL_STAT.M_LOCK.idx = (x.set PLL_STAT.M_LOCK 0).reg PLL_STAT.M_LOCK.idx :=
    Side.reg_foldl_range (fun z d _ => z.reg_enterSr (show 0x6004 ≠ 0xA004 + d by omega)) _
  have hat : y.reg (0xA004 + c) = (((List.range c).foldl Side.enterSr (x.set PLL_STAT.M_LOCK 0)).enterSr c).reg (0xA004 + c) :=
    Side.reg_foldl_range_at (fun z d hd => z.reg_enterSr (by omega)) _ hc
  obtain ⟨hsr, howed, -⟩ := ((List.range c).foldl Side.enterSr (x.set PLL_STAT.M_LOCK 0)).enterSr_shows c
  rw [Side.on_of_reg hlock, Side.on_of_reg (f := DRAM_STAT.SR c) hat, Side.on_of_reg (f := DRAM_STAT.OWED0 c) hat]
  obtain ⟨r, hr⟩ : x.regsOf y := List.foldlRecOn (motive := fun z => x.regsOf z) (List.range 4) Side.enterSr
    (Side.regsOf_set x.regsOf_refl _ _) fun _ hz c _ => Side.regsOf_enterSr hz c
  exact ⟨by rw [hr], Side.on_set_zero _ _ (by decide), hsr, howed⟩

theorem bitAt_bitsOf (w : Nat) {hi lo i : Nat} (h : i < hi + 1 - lo) : bitAt (bitsOf w hi lo) i = bitAt w (lo + i) := by
  rw [bitAt_eq_testBit, bitAt_eq_testBit, testBit_bitsOf, decide_eq_true h, Bool.true_and]

/-- A write that clears neither LP_REFUSED nor FC_DONE. -/
theorem Side.wDramLp_requests (x : Side) {v : Word} {k : Nat} (hk : k < 2) (h : bitsOf v.toNat 31 29 = 4 * k) :
    x.wDramLp v = if k = 1 then (x.setSrReq (bitsOf v.toNat 35 32)).startFc else x.setSrReq (bitsOf v.toNat 35 32) := by
  have hbit : ∀ {i : Nat}, i < 3 → bitAt v.toNat (29 + i) = bitAt (4 * k) i := fun hi => by
    rw [← h]
    exact (bitAt_bitsOf v.toNat hi).symm
  unfold Side.wDramLp
  rw [hbit (i := 1) (by decide), hbit (i := 0) (by decide), hbit (i := 2) (by decide)]
  obtain rfl | rfl : k = 0 ∨ k = 1 := by omega
  · rfl
  · rfl

end

end Sys2Proof.Machine
end

section
/-! PROOFS. The memories' registers with rules of their own (R301, R311, R312, R326, R327), and the family of their writes. -/

namespace Sys2Proof.Machine

section
variable {s : State} {sd : SideId} {m : Fin 11} {v : Word}

theorem srReq_writes (h : s.opens sd m DRAM_LP_CTRL.whole.idx = true) : exec (.srReq sd m v) s = .next (s.mod sd (fun x => x.wDramLp v)) :=
  congrArg Host.Outcome.next (State.busWrite_plain h (by decide) rfl (fun _ _ => rfl))

theorem fcReq_writes (h : s.opens sd m DRAM_LP_CTRL.whole.idx = true) : exec (.fcReq sd m v) s = .next (s.mod sd (fun x => x.wDramLp v)) :=
  srReq_writes h

theorem dramPanic_plain (n : Fin 5) : kindOf (DRAM_PANIC.whole n.val).idx = some .plain := by
  revert n
  decide

theorem dramPanic_writes {n : Fin 5} (h : s.opens sd m (DRAM_PANIC.whole n.val).idx = true) :
    exec (.dramPanicWrite sd m n v) s = .next (s.mod sd (fun x => x.wDramPanic n.val v)) :=
  congrArg Host.Outcome.next (State.busWrite_plain h (dramPanic_plain n) (by fin_cases n <;> rfl) (fun _ _ => by fin_cases n <;> rfl))

theorem sramRepairReq_writes (h : s.opens sd m SRAM_REPAIR_REQ.whole.idx = true) :
    exec (.sramRepairReq sd m v) s = .next (s.setSide sd ((s.side sd).wRepairReq v)) :=
  congrArg Host.Outcome.next (State.busWrite_plain h (by decide) rfl (fun _ _ => rfl))

/-- R43, R327: the high word of POISON_ADDR is a log register: its write is not staged. -/
theorem poisonAddrClear_writes (h : s.opens sd m POISON_ADDR_HI.whole.idx = true) :
    exec (.poisonAddrClear sd m v) s = .next (s.mod sd (fun x => x.wPoisonHi v)) := by
  obtain ⟨hp, hb, hs⟩ := (s.opens_iff sd m _).1 h
  refine congrArg Host.Outcome.next ((State.busWriteBy_reaches _ _ hp hb).trans ?_)
  unfold State.regWrite
  dsimp only
  rw [hs]
  rfl

end

theorem Side.wRepairReq_eq (x : Side) (v : Word) : let bank := bitsOf v.toNat 34 26
    let row := bitsOf v.toNat 25 12
    let y := (x.set SRAM_REPAIR_REQ.BANK bank).set SRAM_REPAIR_REQ.ROW row
    x.wRepairReq v = if bitAt v.toNat 35 = false then y
      else if 383 < bank ∨ bankRows bank ≤ row ∨ x.on SRAM_REPAIR_STAT.BUSY = true then y.set SRAM_REPAIR_STAT.REFUSED 1
      else y.repairRow bank row := by
  intro bank row y
  have hbusy : y.on SRAM_REPAIR_STAT.BUSY = x.on SRAM_REPAIR_STAT.BUSY := Side.on_of_reg
    ((Side.reg_set_ne _ _ _ _ (by decide)).trans (Side.reg_set_ne _ _ _ _ (by decide)))
  rw [← hbusy]
  simp only [Side.wRepairReq, Bool.not_eq_true', Bool.or_eq_true, decide_eq_true_eq, or_assoc]
  rfl

/-- Settles O18: each register by its own rule; the two requests of DRAM_LP_CTRL by what the four channels show, each after its own turn. -/
theorem memoryRegisterWrites : Obligations.MemoryRegisterWrites := by
  unfold Obligations.MemoryRegisterWrites
  intro s sd m n v x bits
  refine ⟨fun h hz hne => ⟨fun hb => ?_, fun hb => ?_⟩, fun h hf hsame hbusy => ⟨fun hb => ?_, fun hb hpop hin halt => ?_⟩, fun h => ?_,
    fun h => ⟨fun hgo => ?_, fun hgo hbad => ?_, fun hgo hbank hrow hidle => ?_⟩, fun h => ?_⟩
  · rw [srReq_writes h]
    exact congrArg Host.Outcome.next (State.mod_congr ((Side.wDramLp_requests x (k := 0) (by decide) hz).trans (Side.setSrReq_blocked hne hb)))
  · have hside : x.wDramLp v = (List.range 4).foldl (Side.srStep (bits 35 32)) (x.set DRAM_LP_CTRL.SR_REQ (bits 35 32)) :=
      (Side.wDramLp_requests x (k := 0) (by decide) hz).trans (Side.setSrReq_taken hne hb)
    refine ⟨_, srReq_writes h, fun c hc => ?_⟩
    rw [State.side_mod, hside]
    obtain ⟨hreq, hshow⟩ := Side.srSteps_show (bits 35 32) (x.set DRAM_LP_CTRL.SR_REQ (bits 35 32)) hc
    have hset : ∀ f : Fld, f.idx = 0xA004 + c → (x.set DRAM_LP_CTRL.SR_REQ (bits 35 32)).on f = x.on f := fun f hf =>
      Side.on_of_reg (Side.reg_set_ne _ _ _ _ (by rw [hf]; show 0xA004 + c ≠ 0xA002; omega))
    rw [hset (DRAM_STAT.TRAINED c) rfl, hset (DRAM_STAT.SR c) rfl] at hshow
    exact ⟨hreq.trans (Side.get_set_self _ _ _ (by decide) (bitsOf_lt ..)), hshow⟩
  · rw [fcReq_writes h]
    refine congrArg Host.Outcome.next (State.mod_congr ((Side.wDramLp_requests x (k := 1) (by decide) hf).trans ?_))
    rw [if_pos rfl, show bitsOf v.toNat 35 32 = x.get DRAM_LP_CTRL.SR_REQ from hsame, Side.setSrReq_same, Side.startFc_blocked hbusy hb]
  · have hside : x.wDramLp v = (List.range 4).foldl Side.enterSr (x.switching.set PLL_STAT.M_LOCK 0) := by
      rw [Side.wDramLp_requests x (k := 1) (by decide) hf, if_pos rfl, show bitsOf v.toNat 35 32 = x.get DRAM_LP_CTRL.SR_REQ from hsame,
        Side.setSrReq_same, Side.startFc_starts hbusy hb hpop hin halt]
    obtain ⟨hdram, hlock, -⟩ := x.switching.enterSrs_show (c := 0) (by decide)
    refine ⟨_, fcReq_writes h, ?_⟩
    dsimp only
    rw [State.side_mod, hside]
    exact ⟨congrArg Dram.fcBusy hdram, hlock, fun c hc => (x.switching.enterSrs_show hc).2.2⟩
  · rw [dramPanic_writes h]
    refine congrArg Host.Outcome.next (congrArg (s.mod sd) (funext fun y => congrArg (Side.set _ _) ?_))
    show (if bits 35 18 ≤ bits 17 0 then bits 35 18 - 1 else bits 17 0) = _
    by_cases hlt : bits 17 0 < bits 35 18
    · rw [if_neg (Nat.not_le.2 hlt), if_pos hlt]
    · rw [if_pos (Nat.not_lt.1 hlt), if_neg hlt]
  · rw [sramRepairReq_writes h, Side.wRepairReq_eq, if_pos hgo]
  · rw [sramRepairReq_writes h, Side.wRepairReq_eq, if_neg (by simp [hgo]), if_pos hbad]
  · rw [sramRepairReq_writes h, Side.wRepairReq_eq, if_neg (by simp [hgo]), if_neg]
    rintro (hb | hr | hb)
    · exact absurd hbank (Nat.not_le.2 hb)
    · exact absurd hrow (Nat.not_lt.2 hr)
    · exact Bool.noConfusion (hidle.symm.trans hb)
  · rw [poisonAddrClear_writes h]
    cases hc : bitAt v.toNat 35 with
    | false => exact congrArg Host.Outcome.next (State.mod_of_fixed (if_neg (by simp [hc])))
    | true => exact congrArg Host.Outcome.next (congrArg (s.mod sd) (funext fun y => if_pos hc))

end Sys2Proof.Machine
end

section
/-! PROOFS. Blocks of the protected memories (R293, R294, R316, R317): their words, and what the decoder makes of a block as it was written, of
a poisoned one, and of one with a single data bit that has decayed. -/

namespace Sys2Proof.Machine

/-! ### Association lists and word memories -/

theorem adel_of_aget_none {α : Type} : ∀ {l : List (Nat × α)} {k : Nat}, aget l k = none → adel l k = l
  | [], _, _ => rfl
  | (j, v) :: r, k, h => by
    by_cases hj : j = k
    · simp [aget, hj] at h
    · by_cases hlt : k < j
      · simp [adel, hj, hlt]
      · simp only [aget, adel, beq_iff_eq, hj, hlt, if_false] at h ⊢
        rw [adel_of_aget_none h]

theorem adel_aput {α : Type} (v : α) : ∀ (l : List (Nat × α)) (k : Nat), adel (aput l k v) k = adel l k
  | [], k => by simp [aput, adel]
  | (j, u) :: r, k => by
    by_cases hj : j = k
    · simp [aput, adel, hj]
    · by_cases hlt : k < j
      · simp [aput, adel, hj, hlt]
      · simp [aput, adel, hj, hlt, adel_aput v r k]

theorem aput_of_aget {α : Type} {v : α} : ∀ {l : List (Nat × α)} {k : Nat}, aget l k = some v → aput l k v = l
  | [], _, h => by simp at h
  | (j, u) :: r, k, h => by
    by_cases hj : j = k
    · simp_all [aget, aput]
    · by_cases hlt : k < j
      · simp [aget, hj, hlt] at h
      · simp only [aget, aput, beq_iff_eq, hj, hlt, if_false] at h ⊢
        rw [aput_of_aget h]

theorem mem_of_aget {α : Type} {v : α} : ∀ {l : List (Nat × α)} {k : Nat}, aget l k = some v → (k, v) ∈ l
  | [], _, h => by simp at h
  | (j, u) :: r, k, h => by
    by_cases hj : j = k
    · simp_all [aget]
    · by_cases hlt : k < j
      · simp [aget, hj, hlt] at h
      · simp only [aget, beq_iff_eq, hj, hlt, if_false] at h
        exact List.mem_cons_of_mem _ (mem_of_aget h)

/-- A word written over itself. -/
theorem wput_wget {m : List (Nat × Word)} (h : wordsWf m = true) (k : Nat) : wput m k (wget m k) = m := by
  unfold wput wget
  cases hk : aget m k with
  | none => exact adel_of_aget_none hk
  | some w =>
    have hw : w ≠ 0 := by
      have hall := (Bool.and_eq_true_iff.1 h).2
      simpa using List.all_eq_true.1 hall _ (mem_of_aget hk)
    exact (if_neg (by simpa using hw)).trans (aput_of_aget hk)

theorem wputs_wgets {m : List (Nat × Word)} (h : wordsWf m = true) (n : Nat) : ∀ k, wputs m k (wgets m k n) = m := by
  induction n with
  | zero => exact fun _ => rfl
  | succ n ih =>
    intro k
    have hcons : wgets m k (n + 1) = wget m k :: wgets m (k + 1) n := by
      unfold wgets
      rw [List.range_succ_eq_map, List.map_cons, List.map_map]
      exact congrArg (_ :: ·) (List.map_congr_left fun i _ => congrArg (wget m) (by simp; omega))
    rw [hcons, wputs, wput_wget h, ih]

@[simp] theorem length_wgets (m : List (Nat × Word)) (k n : Nat) : (wgets m k n).length = n := by simp [wgets]

theorem getElem_wgets {m : List (Nat × Word)} {k n i : Nat} (h : i < (wgets m k n).length) : (wgets m k n)[i] = wget m (k + i) := by
  simp [wgets]

/-! ### The decoding table (R294, R317) -/

theorem maskN_none {n : Nat} {f : Nat → Bool} (h : ∀ b < n, f b = false) : maskN n f = 0 := by
  induction n with
  | zero => rfl
  | succ n ih =>
    rw [maskN_succ, ih fun b hb => h b (Nat.lt_succ_of_lt hb), h n (Nat.lt_succ_self n)]
    rfl

theorem maskN_one {n j : Nat} (h : j < n) : maskN n (fun b => j == b) = 2 ^ j := by
  induction n with
  | zero => omega
  | succ n ih =>
    rw [maskN_succ]
    by_cases hj : j = n
    · rw [maskN_none fun b hb => beq_false_of_ne (by omega), hj, beq_self_eq_true]
      simp [b2n]
    · rw [ih (by omega), beq_false_of_ne hj]
      simp [b2n]

theorem filter_range_one {n i : Nat} {p : Nat → Bool} (h : i < n) (hp : ∀ k, p k = (i == k)) : (List.range n).filter p = [i] := by
  rw [funext hp]
  induction n with
  | zero => omega
  | succ n ih =>
    rw [List.range_succ, List.filter_append]
    by_cases hi : i = n
    · have hnil : (List.range n).filter (fun k => i == k) = [] :=
        List.filter_eq_nil_iff.2 fun k hk => by simp at hk ⊢; omega
      rw [hnil, hi]
      simp
    · rw [ih (by omega)]
      simp [hi]

theorem oddIn_one {α : Type} (a : α) (p : α → Bool) : oddIn [a] p = p a := by
  unfold oddIn
  cases h : p a <;> simp [h]

theorem bpcDecode_clean (dram : Bool) : bpcDecode dram false [] 0 = .clean := by
  cases dram <;> decide

theorem bpcDecode_poisoned (dram : Bool) : bpcDecode dram true [] 0 = .poisoned := by
  cases dram <;> decide

/-- One data bit has decayed: its row and its column say which. -/
theorem bpcDecode_dataBit (dram : Bool) {i j : Nat} (hi : i < if dram then 16 else 8) (hj : j < 36) :
    bpcDecode dram false [(i, j)] 0 = .mended (i, j) := by
  have hbit : bpcBit dram i j = (some i, some j, none) := by simp [bpcBit, hj]
  have hrows : (List.range (if dram then 16 else 8)).filter (fun k => oddIn [bpcBit dram i j] (fun f => f.1 == some k) != false) = [i] :=
    filter_range_one hi fun k => by rw [oddIn_one, hbit, Bool.bne_false]; rfl
  have hcols : (List.range 36).filter (fun k => oddIn [bpcBit dram i j] (fun f => f.2.1 == some k)) = [j] :=
    filter_range_one hj fun k => by rw [oddIn_one, hbit]; rfl
  have hac : ∀ n, maskN n (fun a => oddIn [bpcBit dram i j] (fun f => f.2.2 == some a)) = 0 := fun n =>
    maskN_none fun a _ => by rw [oddIn_one, hbit]; rfl
  have hs : Nat.xor 0 (Nat.xor 0 0) = 0 := rfl
  unfold bpcDecode
  simp only [List.map_cons, List.map_nil, hrows, hcols, hac, Bool.false_eq_true, if_false, hs]
  simp

/-! ### The words of a block -/

section
variable {m : BpcMem} {n blk : Nat}

theorem BpcMem.stored_clean (h : aget m.flips blk = none) : m.stored n blk = wgets m.words (n * blk) n := by
  unfold BpcMem.stored
  refine List.map_congr_left fun i _ => ?_
  rw [h]
  exact (congrArg (fun v => wget m.words (n * blk + i) ^^^ wordN v) (maskN_none fun _ _ => rfl)).trans BitVec.xor_zero

/-- The one decayed bit turned back gives the words as written. -/
theorem BpcMem.mendWords_stored {i j : Nat} (h : aget m.flips blk = some [(i, j)]) (hj : j < 36) :
    mendWords (m.stored n blk) (i, j) = wgets m.words (n * blk) n := by
  have hword : ∀ k, maskN 36 (fun b => oddIn [(i, j)] (fun f => f.1 == k && f.2 == b)) = if i = k then 2 ^ j else 0 := fun k => by
    simp only [oddIn_one]
    by_cases hk : i = k
    · simp only [hk, beq_self_eq_true, Bool.true_and, maskN_one hj, if_true]
    · rw [if_neg hk]
      exact maskN_none fun _ _ => by rw [beq_false_of_ne hk, Bool.false_and]
  unfold mendWords lmod
  rw [if_pos hj]
  refine List.ext_getElem (by simp [BpcMem.stored]) fun k hk hk' => ?_
  rw [List.getElem_modify, getElem_wgets]
  simp only [BpcMem.stored, h, Option.getD_some, List.getElem_map, List.getElem_range, hword]
  by_cases hik : i = k
  · rw [if_pos hik, if_pos hik, flipBit, BitVec.xor_assoc, BitVec.xor_self, BitVec.xor_zero]
  · rw [if_neg hik, if_neg hik]
    exact BitVec.xor_zero

end

end Sys2Proof.Machine
end

section
/-! PROOFS. Block reads and the scrubber (R294, R317, R319, R322, R324), and the family of them. -/

namespace Sys2Proof.Machine

/-! ### Memories of a side -/

@[simp] theorem Side.setMem_memOf (x : Side) (k : MemSel) : x.setMem k (x.memOf k) = x := by cases k <;> rfl

@[simp] theorem Side.memOf_setMem (x : Side) (k : MemSel) (m : BpcMem) : (x.setMem k m).memOf k = m := by cases k <;> rfl

theorem Side.memOf_of_mems {x y : Side} (h : y.mems = x.mems) (k : MemSel) : y.memOf k = x.memOf k := by
  cases k
  · exact congrArg Prod.fst h
  · exact congrArg (fun p => p.2.1) h
  · exact congrArg (fun p => p.2.2) h

theorem Side.get_setMem (x : Side) (k : MemSel) (m : BpcMem) (f : Fld) : (x.setMem k m).get f = x.get f := by
  cases k <;> exact Side.get_congr rfl rfl rfl f

theorem Side.get_inc_setMem (x : Side) (k : MemSel) (m : BpcMem) (f g : Fld) : ((x.setMem k m).inc f).get g = (x.inc f).get g := by
  cases k <;> exact Side.get_congr rfl rfl rfl g

theorem MemSel.n_eq (k : MemSel) : k.n = if (k == .dram) = true then 16 else 8 := by cases k <;> rfl

/-! ### A read of a block (R294, R317) -/

section
variable {x : Side} {k : MemSel} {blk : Nat}

theorem Side.flushEnts_none {p : MergeEnt → Bool} (h : ∀ e ∈ (x.memOf k).buf, p e = false) : x.flushEnts k p = x := by
  unfold Side.flushEnts
  rw [List.filter_eq_nil_iff.2 fun e he => by simp [h e he]]
  rfl

theorem Side.flushBlk_none (h : ∀ e ∈ (x.memOf k).buf, e.blk ≠ blk) : x.flushBlk k blk = x :=
  Side.flushEnts_none fun e he => beq_false_of_ne (h e he)

theorem Side.ac_self (x : Side) (k : MemSel) (blk : Nat) : Nat.xor (x.ac k blk) (x.ac k blk) = 0 := Nat.xor_self _

theorem Side.decodeBlk_clean (hf : aget (x.memOf k).flips blk = none) (hp : aget (x.memOf k).poison blk = none) :
    x.decodeBlk k blk blk = (x, wgets (x.memOf k).words (k.n * blk) k.n, false, none) := by
  unfold Side.decodeBlk
  simp only [hf, hp, Side.ac_self, Option.isSome_none, Option.getD_none, bpcDecode_clean, BpcMem.stored_clean hf]

theorem Side.decodeBlk_poisoned (hf : aget (x.memOf k).flips blk = none) (hp : aget (x.memOf k).poison blk = some ()) :
    x.decodeBlk k blk blk = (x, wgets (x.memOf k).words (k.n * blk) k.n, true, none) := by
  unfold Side.decodeBlk
  simp only [hf, hp, Side.ac_self, Option.isSome_some, Option.getD_none, bpcDecode_poisoned, BpcMem.stored_clean hf]

/-- R294, R317: a mended read is counted and reported. -/
def Side.mended (x : Side) (k : MemSel) (blk : Nat) : Side :=
  (x.countRead k blk false).report 0 (x.decoder k blk) (x.decSyn k blk 0) (x.blkInj k blk)

theorem Side.decodeBlk_dataBit {i j : Nat} (hf : aget (x.memOf k).flips blk = some [(i, j)]) (hp : aget (x.memOf k).poison blk = none)
    (hi : i < k.n) (hj : j < 36) : x.decodeBlk k blk blk = (x.mended k blk, wgets (x.memOf k).words (k.n * blk) k.n, false, some (i, j)) := by
  have hdec : bpcDecode (k == .dram) false [(i, j)] 0 = .mended (i, j) := bpcDecode_dataBit _ (k.n_eq ▸ hi) hj
  unfold Side.decodeBlk
  simp only [hf, hp, Side.ac_self, Option.isSome_none, Option.getD_some, hdec, BpcMem.mendWords_stored hf hj]
  rfl

theorem Side.mems_mended (x : Side) (k : MemSel) (blk : Nat) : (x.mended k blk).mems = x.mems :=
  (Side.mems_report ..).trans (Side.mems_countRead ..)

theorem Side.get_mended_sram (x : Side) (blk : Nat) {g : Fld} (hg : 0x8000 ≤ g.idx) : (x.mended .sram blk).get g = (x.inc SRAM_CORR.whole).get g :=
  Side.get_of_lanePart (Side.lanePart_report ..) hg

/-! ### Bits that decay -/

theorem Side.upset_nil (hf : aget (x.memOf k).flips blk = none) : x.upset k blk [] = x := by
  have hm : ({ x.memOf k with flips := adel (x.memOf k).flips blk } : BpcMem) = x.memOf k := by rw [adel_of_aget_none hf]
  unfold Side.upset
  dsimp only
  rw [hf]
  exact (congrArg (x.setMem k) hm).trans (x.setMem_memOf k)

/-- A block with one bit of it inverted since it was written. -/
def Side.decayed (x : Side) (k : MemSel) (blk : Nat) (b : Nat × Nat) : Side :=
  x.setMem k { x.memOf k with flips := aput (x.memOf k).flips blk [b] }

theorem Side.upset_one (hf : aget (x.memOf k).flips blk = none) (b : Nat × Nat) : x.upset k blk [b] = x.decayed k blk b := by
  simp [Side.upset, hf, Side.decayed]

theorem Side.memOf_decayed (x : Side) (k : MemSel) (blk : Nat) (b : Nat × Nat) :
    (x.decayed k blk b).memOf k = { x.memOf k with flips := aput (x.memOf k).flips blk [b] } := x.memOf_setMem k _

/-- The decoder reads a block with one decayed data bit as written. -/
theorem Side.decodeBlk_decayed {i j : Nat} (hp : aget (x.memOf k).poison blk = none) (hi : i < k.n) (hj : j < 36) :
    (x.decayed k blk (i, j)).decodeBlk k blk blk
      = ((x.decayed k blk (i, j)).mended k blk, wgets (x.memOf k).words (k.n * blk) k.n, false, some (i, j)) := by
  have hm := x.memOf_decayed k blk (i, j)
  rw [Side.decodeBlk_dataBit (by rw [hm]; exact aget_aput_self ..) (by rw [hm]; exact hp) hi hj, hm]

end

section
variable {s : State} {sd : SideId} {k : MemSel} {blk : Nat} (hf : aget ((s.side sd).memOf k).flips blk = none)
  (hb : ∀ e ∈ ((s.side sd).memOf k).buf, e.blk ≠ blk)
include hf hb

theorem State.readRow_clean (hp : aget ((s.side sd).memOf k).poison blk = none) :
    s.readRow sd k blk blk [] = s.setRd (wgets ((s.side sd).memOf k).words (k.n * blk) k.n) := by
  unfold State.readRow
  dsimp only
  rw [Side.upset_nil hf, Side.flushBlk_none hb, Side.decodeBlk_clean hf hp, State.setSide_self]
  rfl

/-- R322: a poisoned block is delivered as zeros. -/
theorem State.readRow_poisoned (hp : aget ((s.side sd).memOf k).poison blk = some ()) :
    s.readRow sd k blk blk [] = s.setRd (List.replicate k.n 0) := by
  unfold State.readRow
  dsimp only
  rw [Side.upset_nil hf, Side.flushBlk_none hb, Side.decodeBlk_poisoned hf hp, State.setSide_self]
  rfl

theorem State.readRow_decayed (hp : aget ((s.side sd).memOf k).poison blk = none) {i j : Nat} (hi : i < k.n) (hj : j < 36) :
    s.readRow sd k blk blk [(i, j)] = (s.setSide sd (((s.side sd).decayed k blk (i, j)).mended k blk)).setRd
      (wgets ((s.side sd).memOf k).words (k.n * blk) k.n) := by
  have hb' : ∀ e ∈ (((s.side sd).decayed k blk (i, j)).memOf k).buf, e.blk ≠ blk := by
    rw [Side.memOf_decayed]
    exact hb
  unfold State.readRow
  dsimp only
  rw [Side.upset_one hf, Side.flushBlk_none hb', Side.decodeBlk_decayed hp hi hj]
  rfl

/-- R294, R317: the read of a block with one decayed data bit leaves the block as it was, the bit with it. -/
theorem State.readRow_decayed_leaves (hp : aget ((s.side sd).memOf k).poison blk = none) {i j : Nat} (hi : i < k.n) (hj : j < 36) :
    let t := s.readRow sd k blk blk [(i, j)]
    t.rd = wgets ((s.side sd).memOf k).words (k.n * blk) k.n ∧ t.side sd = ((s.side sd).decayed k blk (i, j)).mended k blk
    ∧ ((t.side sd).memOf k).words = ((s.side sd).memOf k).words ∧ aget ((t.side sd).memOf k).flips blk = some [(i, j)] := by
  intro t
  have ht : t = _ := State.readRow_decayed hf hb hp hi hj
  have hside : t.side sd = ((s.side sd).decayed k blk (i, j)).mended k blk := by
    rw [ht, State.side_setRd, State.side_setSide]
  have hm : (t.side sd).memOf k = { (s.side sd).memOf k with flips := aput ((s.side sd).memOf k).flips blk [(i, j)] } := by
    rw [hside, Side.memOf_of_mems (Side.mems_mended ..), Side.memOf_decayed]
  exact ⟨by rw [ht]; rfl, hside, by rw [hm], by rw [hm]; exact aget_aput_self ..⟩

end

/-! ### The scrubber (R324) -/

section
variable {x : Side} {blk : Nat}

/-- R324: the SRAM scrub goes on to the block after `blk`; after the last a pass has ended. -/
def Side.scrubNext (x : Side) (blk : Nat) : Side :=
  if blk + 1 < 2 ^ 21 then { x with sram := { x.sram with scrubS := blk + 1 } }
  else ({ x with sram := { x.sram with scrubS := 0, fixedOld := x.sram.fixedNow, fixedNow := [] } } : Side).inc SCRUB_STAT.SRAM_PASSES

/-- A side whose scrub pass has mended these rows (R326). -/
def Side.withFixed (x : Side) (rows : List (Nat × Nat)) : Side := { x with sram := { x.sram with fixedNow := rows } }

theorem Side.get_withFixed (x : Side) (rows : List (Nat × Nat)) (f : Fld) : (x.withFixed rows).get f = x.get f := Side.get_congr rfl rfl rfl f

/-- R326: the row of a mended bit is noted, and repaired where the pass before mended it too. -/
def Side.noteFixed (x : Side) (blk : Nat) : Option (Nat × Nat) → Side
  | none => x
  | some b =>
    let row := (sramBank blk, sramRow blk b.1)
    let y := x.withFixed (dedup (x.sram.fixedNow ++ [row]))
    if y.on SCRUB_CFG.AUTO_REPAIR && y.sram.fixedOld.contains row then y.repairRow row.1 row.2 else y

theorem Side.scrubNext_block (h : blk + 1 < 2 ^ 21) : x.scrubNext blk = { x with sram := { x.sram with scrubS := blk + 1 } } := if_pos h

theorem Side.get_scrubNext_block (h : blk + 1 < 2 ^ 21) (f : Fld) : (x.scrubNext blk).get f = x.get f := by
  rw [Side.scrubNext_block h]
  exact Side.get_congr (x := x) rfl rfl rfl f

theorem Side.scrubNext_pass (h : blk + 1 = 2 ^ 21) : (x.scrubNext blk).sram.scrubS = 0
    ∧ (x.scrubNext blk).get SCRUB_STAT.SRAM_PASSES = min (x.get SCRUB_STAT.SRAM_PASSES + 1) (2 ^ 18 - 1) := by
  have hend : x.scrubNext blk = _ := if_neg (by rw [h]; exact Nat.lt_irrefl _)
  rw [hend]
  exact ⟨rfl, (Side.get_inc _ _ (by decide)).trans (congrArg (fun n => min (n + 1) (2 ^ 18 - 1)) (Side.get_congr (x := x) rfl rfl rfl _))⟩

theorem Side.scrubSram_reads {fs : List (Nat × Nat)} {y : Side} {bit : Option (Nat × Nat)} (hs : x.sram.scrubS = blk)
    (hy : (x.upset .sram blk fs).scrubRead .sram blk = (y, bit)) : x.scrubSram fs = (y.noteFixed blk bit).scrubNext blk := by
  unfold Side.scrubSram
  dsimp only
  rw [hs, hy]
  cases bit <;> rfl

theorem Side.noteFixed_some {b : Nat × Nat} (hr : x.on SCRUB_CFG.AUTO_REPAIR = false) :
    x.noteFixed blk (some b) = x.withFixed (dedup (x.sram.fixedNow ++ [(sramBank blk, sramRow blk b.1)])) := by
  have hoff : ∀ rows, (x.withFixed rows).on SCRUB_CFG.AUTO_REPAIR = false := fun rows =>
    (congrArg (· != 0) (x.get_withFixed rows _)).trans hr
  unfold Side.noteFixed
  dsimp only
  rw [hoff, Bool.false_and]
  rfl

theorem Side.scrubSram_clean (hs : x.sram.scrubS = blk) (hf : aget x.sram.mem.flips blk = none) (hb : ∀ e ∈ x.sram.mem.buf, e.blk ≠ blk)
    (hp : aget x.sram.mem.poison blk = none) : x.scrubSram [] = x.scrubNext blk := by
  refine Side.scrubSram_reads (bit := none) hs ?_
  unfold Side.scrubRead
  rw [Side.upset_nil (k := .sram) hf, Side.flushBlk_none (k := .sram) hb, Side.decodeBlk_clean (k := .sram) hf hp]
  rfl

/-- A block with one decayed data bit is written back as it was written first. -/
def Side.rewritten (x : Side) (blk : Nat) (b : Nat × Nat) : Side :=
  ((x.decayed .sram blk b).mended .sram blk).setMem .sram
    ((((x.decayed .sram blk b).mended .sram blk).memOf .sram).store 8 blk (wgets x.sram.mem.words (8 * blk) 8) false)

theorem Side.get_rewritten (x : Side) (blk : Nat) (b : Nat × Nat) {g : Fld} (hg : 0x8000 ≤ g.idx) :
    (x.rewritten blk b).get g = (x.inc SRAM_CORR.whole).get g :=
  ((Side.get_setMem ..).trans (Side.get_mended_sram _ _ hg)).trans (x.get_inc_setMem _ _ _ g)

theorem Side.rewritten_mends {b : Nat × Nat} (hw : wordsWf x.sram.mem.words = true) (hf : aget x.sram.mem.flips blk = none) :
    (x.rewritten blk b).sram.mem.words = x.sram.mem.words ∧ aget (x.rewritten blk b).sram.mem.flips blk = none := by
  have hm : ((x.decayed .sram blk b).mended .sram blk).memOf .sram = { x.sram.mem with flips := aput x.sram.mem.flips blk [b] } :=
    (Side.memOf_of_mems (Side.mems_mended ..) .sram).trans (x.memOf_decayed .sram blk b)
  have hstore : (x.rewritten blk b).sram.mem = BpcMem.store { x.sram.mem with flips := aput x.sram.mem.flips blk [b] } 8 blk
      (wgets x.sram.mem.words (8 * blk) 8) false := congrArg (fun m : BpcMem => m.store 8 blk _ false) hm
  rw [hstore]
  exact ⟨wputs_wgets hw 8 _, by show aget (adel (aput _ _ _) _) _ = _; rw [adel_aput, adel_of_aget_none hf, hf]⟩

theorem Side.scrubSram_decayed {i j : Nat} (hs : x.sram.scrubS = blk) (hf : aget x.sram.mem.flips blk = none)
    (hb : ∀ e ∈ x.sram.mem.buf, e.blk ≠ blk) (hp : aget x.sram.mem.poison blk = none) (hi : i < 8) (hj : j < 36)
    (hr : x.on SCRUB_CFG.AUTO_REPAIR = false) : ∃ rows, x.scrubSram [(i, j)]
      = ((x.rewritten blk (i, j)).withFixed rows).scrubNext blk := by
  have hb' : ∀ e ∈ ((x.decayed .sram blk (i, j)).memOf .sram).buf, e.blk ≠ blk := by
    rw [Side.memOf_decayed]
    exact hb
  have hread : (x.decayed .sram blk (i, j)).scrubRead .sram blk = (x.rewritten blk (i, j), some (i, j)) := by
    unfold Side.scrubRead
    rw [Side.flushBlk_none hb', Side.decodeBlk_decayed (k := .sram) hp hi hj]
    rfl
  have hauto : (x.rewritten blk (i, j)).on SCRUB_CFG.AUTO_REPAIR = false := by
    unfold Side.on at hr ⊢
    rw [Side.get_rewritten _ _ _ (by decide)]
    exact (congrArg (· != 0) (Side.get_set_ne _ _ _ _ (by decide))).trans hr
  exact ⟨_, (Side.scrubSram_reads hs (Side.upset_one (k := .sram) hf (i, j) ▸ hread)).trans
    (congrArg (fun y => y.scrubNext blk) (Side.noteFixed_some hauto))⟩

/-- SCRUB_STAT says nothing of where a block lies, nor of its channel. -/
theorem Side.asleep_put_behind (x : Side) (late : Bool) (h : x.on (DRAM_STAT.SR (x.dramChan blk).1) = true) :
    (x.put SCRUB_STAT.BEHIND late).on (DRAM_STAT.SR ((x.put SCRUB_STAT.BEHIND late).dramChan blk).1) = true := by
  have hplace : (x.put SCRUB_STAT.BEHIND late).dramPlace blk = x.dramPlace blk := by
    unfold Side.dramPlace
    rw [Side.put_eq, Side.get_set_ne _ _ DRAM_MAP.GRAIN_LOG2 _ (by decide)]
    rfl
  have hchan : (x.put SCRUB_STAT.BEHIND late).dramChan blk = x.dramChan blk := by
    unfold Side.dramChan
    rw [hplace]
    rfl
  rw [hchan]
  exact (Side.on_set_apart _ _ _ _ (.inr (by decide : 0 ≤ 0 ∧ 33 < 36 ∧ (33 < 0 ∨ 0 < 33)))).trans h

/-- R324: a block of a channel in self-refresh is skipped. -/
theorem Side.scrubDram_skips (hs : x.sram.scrubD = blk) (he : blk + 1 < x.dram.extent / 16) (hsr : x.on (DRAM_STAT.SR (x.dramChan blk).1) = true)
    (fs : List (Nat × Nat)) : x.scrubDram fs
      = { x.set SCRUB_STAT.SR_SKIP 1 with sram := { x.sram with scrubD := blk + 1 } } := by
  have he0 : (x.dram.extent / 16 == 0) = false := beq_false_of_ne (by omega)
  unfold Side.scrubDram
  rw [hs]
  simp only [he0, hsr, he, if_true, Bool.false_eq_true, if_false]
  rfl

end

section
variable {s : State} {sd : SideId} {blk : Nat} {late : Bool}

theorem sramRead_reads (h : blk < 2 ^ 21) (fs : List (Fin 8 × Fin 42)) : exec (.sramRead sd blk blk fs) s
    = .next (s.readRow sd .sram blk blk (fs.map (fun f => (f.1.val, f.2.val)))) :=
  congrArg Host.Outcome.next (if_pos (by rw [decide_eq_true h]; rfl))

theorem sramRead_beyond (h : 2 ^ 21 ≤ blk) (fs : List (Fin 8 × Fin 42)) : exec (.sramRead sd blk blk fs) s = .next s :=
  congrArg Host.Outcome.next (if_neg (by rw [decide_eq_false (Nat.not_lt.2 h)]; exact Bool.false_ne_true))

theorem dramRead_reads (h : blk < (s.side sd).dram.extent / 16) (hsr : (s.side sd).on (DRAM_STAT.SR ((s.side sd).dramChan blk).1) = false)
    (fs : List (Fin 16 × Fin 40)) : exec (.dramRead sd blk blk fs) s
    = .next (s.readRow sd .dram blk blk (fs.map (fun f => (f.1.val, f.2.val)))) := by
  have hawake : (s.side sd).asleep .dram blk = false := hsr
  exact congrArg Host.Outcome.next (if_pos (by rw [decide_eq_true h, hawake]; rfl))

/-- R311: a read of a channel in self-refresh waits. -/
theorem dramRead_waits (h : (s.side sd).dram.extent / 16 ≤ blk ∨ (s.side sd).on (DRAM_STAT.SR ((s.side sd).dramChan blk).1) = true)
    (fs : List (Fin 16 × Fin 40)) : exec (.dramRead sd blk blk fs) s = .next s := by
  refine congrArg Host.Outcome.next (if_neg fun hc => ?_)
  obtain ⟨hin, hawake⟩ := Bool.and_eq_true_iff.1 hc
  obtain h | h := h
  · exact absurd (of_decide_eq_true (Bool.and_eq_true_iff.1 hin).1) (Nat.not_lt.2 h)
  · have hasleep : (s.side sd).asleep .dram blk = true := h
    rw [hasleep] at hawake
    exact Bool.noConfusion hawake

theorem scrubBlock_sram (hen : (s.side sd).on SCRUB_CFG.SRAM_EN = true) (fs : List (Fin 16 × Fin 42)) : exec (.scrubBlock sd false fs late) s
    = .next (s.setSide sd (((s.side sd).put SCRUB_STAT.BEHIND late).scrubSram
      ((fs.map (fun f => (f.1.val, f.2.val))).filter (fun f => f.1 < 8)))) :=
  congrArg (fun y => Host.Outcome.next (s.setSide sd y)) (if_pos hen)

theorem scrubBlock_dram (hen : (s.side sd).on SCRUB_CFG.DRAM_EN = true) (fs : List (Fin 16 × Fin 42)) : exec (.scrubBlock sd true fs late) s
    = .next (s.setSide sd (((s.side sd).put SCRUB_STAT.BEHIND late).scrubDram
      ((fs.map (fun f => (f.1.val, f.2.val))).filter (fun f => f.2 < 40)))) :=
  congrArg (fun y => Host.Outcome.next (s.setSide sd y)) (if_pos hen)

theorem scrubBlock_off (dram : Bool) (h : (s.side sd).on (if dram then SCRUB_CFG.DRAM_EN else SCRUB_CFG.SRAM_EN) = false)
    (fs : List (Fin 16 × Fin 42)) : exec (.scrubBlock sd dram fs late) s = .next s := by
  refine congrArg Host.Outcome.next (State.mod_of_fixed ?_)
  cases dram
  · exact if_neg (Bool.eq_false_iff.1 h)
  · exact if_neg (Bool.eq_false_iff.1 h)

/-- R324: the scrubber mends a block with one decayed data bit, and goes on. -/
theorem scrubBlock_mends (hen : (s.side sd).on SCRUB_CFG.SRAM_EN = true) (hs : (s.side sd).sram.scrubS = blk)
    (hf : aget (s.side sd).sram.mem.flips blk = none) (hp : aget (s.side sd).sram.mem.poison blk = none)
    (hb : ∀ e ∈ (s.side sd).sram.mem.buf, e.blk ≠ blk) (hlt : blk + 1 < 2 ^ 21) (hw : wordsWf (s.side sd).sram.mem.words = true)
    (hr : (s.side sd).on SCRUB_CFG.AUTO_REPAIR = false) {i : Fin 16} {j : Fin 42} (hi : i.val < 8) (hj : j.val < 36) :
    Does (.scrubBlock sd false [(i, j)] late) s (fun t => (t.side sd).sram.mem.words = (s.side sd).sram.mem.words
      ∧ aget (t.side sd).sram.mem.flips blk = none
      ∧ (t.side sd).get SRAM_CORR.whole = min ((s.side sd).get SRAM_CORR.whole + 1) (2 ^ 36 - 1) ∧ (t.side sd).sram.scrubS = blk + 1) := by
  have hfs : ([(i, j)].map (fun f => (f.1.val, f.2.val))).filter (fun f => decide (f.1 < 8)) = [(i.val, j.val)] := by simp [hi]
  have hput : ∀ f : Fld, f.idx ≠ SCRUB_STAT.BEHIND.idx → ((s.side sd).put SCRUB_STAT.BEHIND late).get f = (s.side sd).get f := fun f h =>
    Side.get_set_ne _ _ _ _ h
  obtain ⟨rows, hrun⟩ := Side.scrubSram_decayed (x := (s.side sd).put SCRUB_STAT.BEHIND late) hs hf hb hp hi hj
    ((congrArg (· != 0) (hput _ (by decide))).trans hr)
  obtain ⟨hwords, hflips⟩ := Side.rewritten_mends (x := (s.side sd).put SCRUB_STAT.BEHIND late) (blk := blk) (b := (i.val, j.val)) hw hf
  have hcorr := (((s.side sd).put SCRUB_STAT.BEHIND late).get_rewritten blk (i.val, j.val) (g := SRAM_CORR.whole) (by decide)).trans
    (Side.get_inc _ _ (by decide))
  rw [hput _ (by decide)] at hcorr
  refine ⟨_, scrubBlock_sram hen _, ?_⟩
  dsimp only
  rw [State.side_setSide, hfs, hrun, Side.get_scrubNext_block hlt, Side.get_withFixed, Side.scrubNext_block hlt]
  exact ⟨hwords, hflips, hcorr, rfl⟩

end

/-- Settles O47: a read by what the block holds, clean, poisoned or with a decayed bit; the scrubber by whether it is on, and where it stands. -/
theorem blockReads : Obligations.BlockReads := by
  unfold Obligations.BlockReads
  intro s sd blk i i' j late x sm dm dataS dataD
  refine ⟨fun h => ?_, fun hlt hf hb => ⟨fun hp => ?_, fun hp => ?_, fun hp => ?_⟩, fun h => ?_,
    fun hlt hsr hf hb => ⟨fun hp => ?_, fun hp => ?_, fun hp => ?_⟩, fun h => scrubBlock_off false h _,
    fun hen hs hf hp hb => ⟨fun hlt => ⟨?_, fun hw hr => scrubBlock_mends hen hs hf hp hb hlt hw hr i.isLt j.isLt⟩, fun hend => ?_⟩,
    fun h => scrubBlock_off true h _, fun hen he hs hsr => ?_⟩
  · exact sramRead_beyond h _
  · exact (sramRead_reads hlt _).trans (congrArg Host.Outcome.next (State.readRow_clean (k := .sram) hf hb hp))
  · exact (sramRead_reads hlt _).trans (congrArg Host.Outcome.next (State.readRow_poisoned (k := .sram) hf hb hp))
  · obtain ⟨hrd, hside, hwords, hflips⟩ := State.readRow_decayed_leaves (k := .sram) hf hb hp i.isLt j.isLt
    refine ⟨_, sramRead_reads hlt _, hrd, ?_, hwords, hflips⟩
    calc _ = ((x.decayed .sram blk (i.val, j.val)).mended .sram blk).get SRAM_CORR.whole := congrArg (fun y => Side.get y _) hside
      _ = ((x.decayed .sram blk (i.val, j.val)).inc SRAM_CORR.whole).get SRAM_CORR.whole := Side.get_mended_sram _ _ (by decide)
      _ = (x.inc SRAM_CORR.whole).get SRAM_CORR.whole := Side.get_inc_setMem ..
      _ = _ := Side.get_inc _ _ (by decide)
  · exact dramRead_waits h _
  · exact (dramRead_reads hlt hsr _).trans (congrArg Host.Outcome.next (State.readRow_clean (k := .dram) hf hb hp))
  · exact (dramRead_reads hlt hsr _).trans (congrArg Host.Outcome.next (State.readRow_poisoned (k := .dram) hf hb hp))
  · obtain ⟨hrd, -, hwords, hflips⟩ := State.readRow_decayed_leaves (k := .dram) hf hb hp i'.isLt j.isLt
    exact ⟨_, dramRead_reads hlt hsr _, hrd, hwords, hflips⟩
  · rw [scrubBlock_sram hen]
    exact congrArg (fun y => Host.Outcome.next (s.setSide sd y)) ((Side.scrubSram_clean (x := x.put SCRUB_STAT.BEHIND late) hs hf hb hp).trans
      (Side.scrubNext_block hlt))
  · refine ⟨_, scrubBlock_sram hen _, ?_⟩
    dsimp only
    have hrun := Side.scrubSram_clean (x := x.put SCRUB_STAT.BEHIND late) hs hf hb hp
    obtain ⟨hzero, hpass⟩ := Side.scrubNext_pass (x := x.put SCRUB_STAT.BEHIND late) hend
    rw [State.side_setSide, List.map_nil, List.filter_nil, hrun, hpass]
    exact ⟨hzero, congrArg (fun n => min (n + 1) (2 ^ 18 - 1)) (Side.get_set_apart _ _ _ _ (by decide))⟩
  · refine ⟨_, scrubBlock_dram hen _, ?_⟩
    dsimp only
    rw [State.side_setSide, Side.scrubDram_skips (x := x.put SCRUB_STAT.BEHIND late) hs he (Side.asleep_put_behind x late hsr)]
    exact ⟨(Side.on_of_reg rfl).trans (Side.on_set_one _ _ (by decide)), rfl, rfl⟩

end Sys2Proof.Machine
end

section
/-! PROOFS. Merging and gathering (R296, R318), panic (R301), and refresh (R305 to R307): what each comes to. -/

namespace Sys2Proof.Machine

/-! ### A word is merged into its block -/

theorem lget_wgets {m : List (Nat × Word)} {k n i : Nat} (h : i < n) : lget (wgets m k n) i 0 = wget m (k + i) := by
  simp [lget, wgets, h]

/-- A block written back with one word laid over it changes at that word alone. -/
theorem wget_overlaid {m : List (Nat × Word)} (hw : wordsWf m = true) {n i : Nat} (k : Nat) (w : Word) (hi : i < n) :
    wget (wputs m k (lset (wgets m k n) i w)) (k + i) = w
    ∧ ∀ a, a ≠ k + i → wget (wputs m k (lset (wgets m k n) i w)) a = wget m a := by
  have hlen : (lset (wgets m k n) i w).length = n := by simp
  refine ⟨?_, fun a ha => ?_⟩
  · rw [wget_wputs_in _ _ _ _ hw (by omega), lget_lset_self _ _ _ _ (by simpa using hi)]
  · by_cases hin : k ≤ a ∧ a < k + n
    · obtain ⟨j, rfl⟩ := Nat.exists_eq_add_of_le hin.1
      rw [wget_wputs_in _ _ _ _ hw (by omega), lget_lset_ne _ _ _ _ _ (by omega), lget_wgets (by omega)]
    · exact wget_wputs_out _ _ _ _ hw (by omega)

section
variable {x : Side} {k : MemSel} {blk src i : Nat} {w : Word}

theorem Side.takeInj_idle (h : x.get FAULT_INJ.MODE = 0) (l : Nat) : x.takeInj l = (false, x) := by
  simp [Side.takeInj, h]

/-- A memory whose one waiting word has been merged into its block. -/
def BpcMem.merged (m : BpcMem) (n blk i : Nat) (w : Word) : BpcMem :=
  BpcMem.store { m with buf := [] } n blk (lset (wgets m.words (n * blk) n) i w) false

theorem Side.flushEnt_merges (hbuf : (x.memOf k).buf = [⟨blk, src, [(i, w)]⟩]) (hawake : x.asleep k blk = false)
    (hf : aget (x.memOf k).flips blk = none) (hp : aget (x.memOf k).poison blk = none) (hm : x.get FAULT_INJ.MODE = 0) :
    x.flushEnt k ⟨blk, src, [(i, w)]⟩ = x.setMem k ((x.memOf k).merged k.n blk i w) := by
  have hpart : (1 == k.n) = false := by cases k <;> rfl
  have hgone : [(⟨blk, src, [(i, w)]⟩ : MergeEnt)].filter (fun f => f.blk != blk || f.src != src) = [] := by simp
  have hidle : (x.setMem k { x.memOf k with buf := [] }).get FAULT_INJ.MODE = 0 := (Side.get_setMem ..).trans hm
  have hstored : BpcMem.stored { x.memOf k with buf := [] } k.n blk = wgets (x.memOf k).words (k.n * blk) k.n := BpcMem.stored_clean hf
  have hset : ∀ m m' : BpcMem, (x.setMem k m).setMem k m' = x.setMem k m' := fun m m' => by cases k <;> rfl
  unfold Side.flushEnt
  simp only [hawake, hbuf, hgone, hpart, List.length_singleton, Bool.false_eq_true, if_false, Side.memOf_setMem, hf, hp,
    Option.isSome_none, Option.getD_none, bpcDecode_clean, hstored]
  unfold Side.writeBlk
  simp only [Side.takeInj_idle hidle, Bool.false_eq_true, if_false, Side.memOf_setMem, hset]
  rfl

theorem Side.flushEnts_one {e : MergeEnt} {p : MergeEnt → Bool} (hbuf : (x.memOf k).buf = [e]) (hp : p e = true) :
    x.flushEnts k p = x.flushEnt k e := by
  simp [Side.flushEnts, hbuf, hp]

end

section
variable {s : State} {sd : SideId}

theorem mergeTimeout_idle {cox : Bool} {blk : Nat} (h : ∀ e ∈ ((s.side sd).memOf (if cox then .cox else .sram)).buf, e.blk ≠ blk) :
    exec (.mergeTimeout sd ⟨cox, blk⟩) s = .next s :=
  congrArg Host.Outcome.next (State.mod_of_fixed (Side.flushBlk_none h))

/-- R296, R311: no entry of the port for the block, or none that may leave. -/
theorem gatherTimeout_idle {port : Fin 8} {blk : Nat} (h : (∀ e ∈ (s.side sd).dram.mem.buf, e.blk ≠ blk ∨ e.src ≠ port.val)
    ∨ (s.side sd).on (DRAM_STAT.SR ((s.side sd).dramChan blk).1) = true) : exec (.gatherTimeout sd ⟨port, blk⟩) s = .next s := by
  refine congrArg Host.Outcome.next (State.mod_of_fixed (foldl_stays fun e he => ?_))
  obtain ⟨hmem, htakes⟩ := List.mem_filter.1 he
  obtain ⟨hblk, hsrc⟩ : e.blk = blk ∧ e.src = port.val := by simpa [MemSel.takes] using htakes
  obtain h | h := h
  · exact absurd hsrc ((h e hmem).resolve_left (not_not_intro hblk))
  · have hasleep : (s.side sd).asleep .dram e.blk = true := hblk ▸ h
    unfold Side.flushEnt
    rw [if_pos hasleep]

theorem mergeTimeout_merges {cox : Bool} {blk src i : Nat} {w : Word} {k : MemSel} (hk : (if cox then MemSel.cox else .sram) = k)
    (hbuf : ((s.side sd).memOf k).buf = [⟨blk, src, [(i, w)]⟩]) (hf : aget ((s.side sd).memOf k).flips blk = none)
    (hp : aget ((s.side sd).memOf k).poison blk = none) (hm : (s.side sd).get FAULT_INJ.MODE = 0) :
    exec (.mergeTimeout sd ⟨cox, blk⟩) s = .next (s.setSide sd ((s.side sd).setMem k (((s.side sd).memOf k).merged 8 blk i w))) := by
  have hn : k.n = 8 ∧ (s.side sd).asleep k blk = false := by subst hk; cases cox <;> exact ⟨rfl, rfl⟩
  have hflush : (s.side sd).flushBlk k blk = (s.side sd).setMem k (((s.side sd).memOf k).merged k.n blk i w) :=
    (Side.flushEnts_one hbuf (beq_self_eq_true blk)).trans (Side.flushEnt_merges hbuf hn.2 hf hp hm)
  rw [hn.1] at hflush
  subst hk
  exact congrArg (fun y => Host.Outcome.next (s.setSide sd y)) hflush

theorem gatherTimeout_merges {port : Fin 8} {blk i : Nat} {w : Word} (hbuf : (s.side sd).dram.mem.buf = [⟨blk, port.val, [(i, w)]⟩])
    (hsr : (s.side sd).on (DRAM_STAT.SR ((s.side sd).dramChan blk).1) = false) (hf : aget (s.side sd).dram.mem.flips blk = none)
    (hp : aget (s.side sd).dram.mem.poison blk = none) (hm : (s.side sd).get FAULT_INJ.MODE = 0) :
    exec (.gatherTimeout sd ⟨port, blk⟩) s = .next (s.setSide sd ((s.side sd).setMem .dram ((s.side sd).dram.mem.merged 16 blk i w))) :=
  congrArg (fun y => Host.Outcome.next (s.setSide sd y)) ((Side.flushEnts_one (k := .dram) hbuf (by simp [MemSel.takes])).trans
    (Side.flushEnt_merges (k := .dram) hbuf hsr hf hp hm))

end

/-! ### Ports in panic (R301) -/

/-- A side whose ports are in panic as `p` says. -/
def Side.withPanic (x : Side) (p : List Bool) : Side := { x with dram := { x.dram with panic := p } }

theorem Side.get_withPanic (x : Side) (p : List Bool) (f : Fld) : (x.withPanic p).get f = x.get f := Side.get_congr rfl rfl rfl f

theorem Side.portLevel_eq (x : Side) (q n : Nat) : x.portLevel q n = x.withPanic (if x.get (DRAM_PANIC.ON q) ≤ n then lset x.dram.panic q true
    else if n ≤ x.get (DRAM_PANIC.OFF q) then lset x.dram.panic q false else x.dram.panic) := by
  unfold Side.portLevel
  by_cases hon : x.get (DRAM_PANIC.ON q) ≤ n
  · rw [if_pos hon, if_pos hon]
    rfl
  · rw [if_neg hon, if_neg hon]
    by_cases hoff : n ≤ x.get (DRAM_PANIC.OFF q)
    · rw [if_pos hoff, if_pos hoff]
      rfl
    · rw [if_neg hoff, if_neg hoff]
      rfl

theorem Side.portLevel_panic (x : Side) {q : Nat} (hq : q < x.dram.panic.length) (n : Nat) : lget (x.portLevel q n).dram.panic q false
    = if x.get (DRAM_PANIC.ON q) ≤ n then true else if n ≤ x.get (DRAM_PANIC.OFF q) then false else lget x.dram.panic q false := by
  rw [Side.portLevel_eq]
  show lget (ite _ _ _) q false = _
  split
  · exact lget_lset_self _ _ _ _ hq
  · split
    · exact lget_lset_self _ _ _ _ hq
    · rfl

/-- The side once the ports of a report have shown their levels. -/
def Side.filled (x : Side) (levels : List (Fin 3 × BitVec 16)) : Side := levels.foldl (fun x l => x.portLevel (2 + l.1.val) l.2.toNat) x

theorem Side.filled_eq (levels : List (Fin 3 × BitVec 16)) : ∀ x : Side, ∃ p, x.filled levels = x.withPanic p := by
  induction levels with
  | nil => exact fun x => ⟨x.dram.panic, rfl⟩
  | cons l r ih =>
    intro x
    obtain ⟨p, hp⟩ := ih (x.portLevel (2 + l.1.val) l.2.toNat)
    refine ⟨p, hp.trans ?_⟩
    rw [Side.portLevel_eq]
    rfl

theorem Side.get_filled (x : Side) (levels : List (Fin 3 × BitVec 16)) (f : Fld) : (x.filled levels).get f = x.get f := by
  obtain ⟨p, hp⟩ := x.filled_eq levels
  rw [hp, Side.get_withPanic]

theorem Side.panicWaits_iff (x : Side) (waits : Nat) :
    x.panicWaits waits = true ↔ ∃ q < 5, lget x.dram.panic q false = true ∧ bitAt waits q = true := by
  simp only [Side.panicWaits, List.any_eq_true, List.mem_range, Bool.and_eq_true]

/-! ### Refreshes owed (R305, R307) -/

theorem owedFld_eq (dc : Nat) (sub : Fin 2) : owedFld dc sub.val = if sub.val = 0 then DRAM_STAT.OWED0 dc else DRAM_STAT.OWED1 dc := by
  unfold owedFld
  by_cases h : sub.val = 0 <;> simp [h]

theorem Side.dramLive_iff (x : Side) (dc : Nat) :
    x.dramLive dc = true ↔ x.on (DRAM_STAT.TRAINED dc) = true ∧ x.on (DRAM_STAT.SR dc) = false := by
  simp [Side.dramLive]

theorem Side.dramLive_filled (x : Side) (levels : List (Fin 3 × BitVec 16)) (dc : Nat) : (x.filled levels).dramLive dc = x.dramLive dc := by
  unfold Side.dramLive Side.on
  rw [Side.get_filled, Side.get_filled]

section
variable (x : Side) {dc : Nat} (sub : Nat)

theorem Side.get_set_owed (dc : Nat) {v : Nat} (h : v < 16) : (x.set (owedFld dc sub) v).get (owedFld dc sub) = v := by
  unfold owedFld
  split
  · exact Side.get_set_self _ _ _ (by decide : 28 ≤ 31 ∧ 31 < 36) h
  · exact Side.get_set_self _ _ _ (by decide : 24 ≤ 27 ∧ 27 < 36) h

theorem Side.get_owed_lt (dc : Nat) : x.get (owedFld dc sub) < 16 := by
  unfold owedFld
  split <;> exact x.get_lt _

theorem owedFld_idx (dc : Nat) : (owedFld dc sub).idx = 0xA004 + dc := by
  unfold owedFld
  split <;> rfl

theorem Side.get_set_owed_ne (v : Nat) {g : Fld} (hg : g.idx ≠ 0xA004 + dc) : (x.set (owedFld dc sub) v).get g = x.get g :=
  Side.get_set_ne _ _ _ _ (by rwa [owedFld_idx])

theorem Side.on_set_owed_ref2x (dc v : Nat) : (x.set (owedFld dc sub) v).on (DRAM_STAT.REF2X dc) = x.on (DRAM_STAT.REF2X dc) := by
  unfold owedFld
  split
  · exact Side.on_set_apart _ _ _ _ (apart_of_bits (0xA004 + dc) (by decide : 28 ≤ 31 ∧ 32 < 36 ∧ (32 < 28 ∨ 31 < 32)))
  · exact Side.on_set_apart _ _ _ _ (apart_of_bits (0xA004 + dc) (by decide : 24 ≤ 27 ∧ 32 < 36 ∧ (32 < 24 ∨ 27 < 32)))

/-- R307: a refresh in deficit breaks a transaction in progress. -/
def Side.broken (x : Side) (inTrans : Bool) : Side := if inTrans then x.inc DRAM_BURST_BREAK.whole else x

theorem Side.get_broken_ne (inTrans : Bool) {g : Fld} (hg : g.idx ≠ DRAM_BURST_BREAK.whole.idx) : (x.broken inTrans).get g = x.get g := by
  unfold Side.broken
  split
  · exact Side.get_set_ne _ _ _ _ hg
  · rfl

theorem Side.get_broken (inTrans : Bool) : (x.broken inTrans).get DRAM_BURST_BREAK.whole
    = min (x.get DRAM_BURST_BREAK.whole + if inTrans then 1 else 0) (2 ^ 36 - 1) := by
  have hlt : x.get DRAM_BURST_BREAK.whole < 2 ^ 36 := x.get_lt _
  cases inTrans
  · exact (Nat.min_eq_left (Nat.le_sub_one_of_lt hlt)).symm
  · exact Side.get_inc _ _ (by decide)

theorem Side.regsOf_issueDeficit (dc : Nat) (inTrans : Bool) : x.regsOf (x.issueDeficit dc sub inTrans) := by
  unfold Side.issueDeficit
  split
  · have hb : x.regsOf (x.broken inTrans) := by
      unfold Side.broken
      split
      · exact Side.regsOf_set x.regsOf_refl _ _
      · exact x.regsOf_refl
    show x.regsOf ((x.broken inTrans).clearDeficit dc sub)
    unfold Side.clearDeficit
    dsimp only
    split
    · exact Side.regsOf_set (Side.regsOf_set hb _ _) _ _
    · exact hb
  · exact x.regsOf_refl

variable {x sub}

theorem Side.issueDeficit_few (h : x.get (owedFld dc sub) < 4) (inTrans : Bool) : x.issueDeficit dc sub inTrans = x :=
  if_neg (Nat.not_le.2 h)

theorem Side.issueDeficit_clears (hdc : dc < 4) (h : 4 ≤ x.get (owedFld dc sub)) (inTrans : Bool) : x.issueDeficit dc sub inTrans
    = ((x.broken inTrans).bump DRAM_REF_DEFICIT.whole (x.get (owedFld dc sub) - 3)).set (owedFld dc sub) 3 := by
  have hsame : (x.broken inTrans).get (owedFld dc sub) = x.get (owedFld dc sub) :=
    x.get_broken_ne inTrans (by rw [owedFld_idx]; show 0xA004 + dc ≠ 0xA019; omega)
  have hclear : (x.broken inTrans).clearDeficit dc sub
      = ((x.broken inTrans).bump DRAM_REF_DEFICIT.whole (x.get (owedFld dc sub) - 3)).set (owedFld dc sub) 3 := by
    unfold Side.clearDeficit
    dsimp only
    rw [hsame, if_pos h]
  exact (if_pos h).trans hclear

/-- R306, R307: what a subchannel with a deficit shows once it has issued it. -/
theorem Side.issueDeficit_shows (hdc : dc < 4) (h : 4 ≤ x.get (owedFld dc sub)) (inTrans : Bool) :
    let y := x.issueDeficit dc sub inTrans
    y.get (owedFld dc sub) = 3
    ∧ y.get DRAM_REF_DEFICIT.whole = min (x.get DRAM_REF_DEFICIT.whole + (x.get (owedFld dc sub) - 3)) (2 ^ 36 - 1)
    ∧ y.get DRAM_BURST_BREAK.whole = min (x.get DRAM_BURST_BREAK.whole + if inTrans then 1 else 0) (2 ^ 36 - 1)
    ∧ y.on (DRAM_STAT.REF2X dc) = x.on (DRAM_STAT.REF2X dc) := by
  intro y
  have hy : y = _ := Side.issueDeficit_clears hdc h inTrans
  rw [hy]
  refine ⟨Side.get_set_owed _ _ _ (by decide), ?_, ?_, ?_⟩
  · rw [Side.get_set_owed_ne _ _ _ (by show 0xA018 ≠ 0xA004 + dc; omega), Side.get_bump _ _ _ (by decide), Side.get_broken_ne _ _ (by decide)]
    rfl
  · rw [Side.get_set_owed_ne _ _ _ (by show 0xA019 ≠ 0xA004 + dc; omega)]
    exact (Side.get_set_ne _ _ _ _ (by decide)).trans (x.get_broken inTrans)
  · rw [Side.on_set_owed_ref2x]
    unfold Side.on
    exact congrArg (· != 0) ((Side.get_set_ne _ _ _ _ (show 0xA004 + dc ≠ 0xA018 by omega)).trans
      (x.get_broken_ne inTrans (show 0xA004 + dc ≠ 0xA019 by omega)))

/-- R305: with fewer than four owed the refresh waits for panic and transactions, or is issued. -/
theorem Side.refreshDue_few (h : x.get (owedFld dc sub) < 3) (waits : Nat) (inTrans : Bool) :
    x.refreshDue dc sub waits inTrans = if x.panicWaits waits || inTrans then x.set (owedFld dc sub) (x.get (owedFld dc sub) + 1)
      else (x.set (owedFld dc sub) (x.get (owedFld dc sub) + 1)).set (owedFld dc sub) (x.get (owedFld dc sub)) :=
  if_neg (by omega)

theorem Side.refreshDue_deficit (h : x.get (owedFld dc sub) = 3) (waits : Nat) (inTrans : Bool) :
    x.refreshDue dc sub waits inTrans = (x.set (owedFld dc sub) 4).issueDeficit dc sub inTrans := by
  unfold Side.refreshDue
  dsimp only
  rw [h]
  rfl

end

end Sys2Proof.Machine
end

section
/-! PROOFS. Doubled refresh, drift and the end of a rate switch (R306, R310, R312), and the family of the memories' upkeep. -/

namespace Sys2Proof.Machine

/-- A memory once its waiting word is in its block. -/
theorem BpcMem.merged_shows {m : BpcMem} (hw : wordsWf m.words = true) {n i : Nat} (blk : Nat) (w : Word) (hi : i < n) :
    (m.merged n blk i w).buf = [] ∧ wget (m.merged n blk i w).words (n * blk + i) = w
    ∧ ∀ a, a ≠ n * blk + i → wget (m.merged n blk i w).words a = wget m.words a :=
  ⟨rfl, wget_overlaid hw (n * blk) w hi⟩

/-! ### The refresh instructions (R305) -/

section
variable {s : State} {sd : SideId} {dc : Fin 4} {sub : Fin 2}

theorem refreshDue_rests (h : (s.side sd).dramLive dc.val = false) (levels : List (Fin 3 × BitVec 16)) (waits : BitVec 5) (inTrans : Bool) :
    exec (.refreshDue sd dc sub ⟨levels, waits⟩ inTrans) s = .next (s.mod sd (fun x => x.filled levels)) := by
  refine congrArg Host.Outcome.next (State.mod_congr (if_neg ?_))
  exact fun hl => Bool.noConfusion (h.symm.trans (((s.side sd).dramLive_filled levels dc.val).symm.trans hl))

theorem refreshDue_falls (h : (s.side sd).dramLive dc.val = true) (levels : List (Fin 3 × BitVec 16)) (waits : BitVec 5) (inTrans : Bool) :
    exec (.refreshDue sd dc sub ⟨levels, waits⟩ inTrans) s
      = .next (s.mod sd (fun x => (x.filled levels).refreshDue dc.val sub.val waits.toNat inTrans)) :=
  congrArg Host.Outcome.next (State.mod_congr (if_pos (((s.side sd).dramLive_filled levels dc.val).trans h)))

theorem refreshIssue_rests (h : (s.side sd).dramLive dc.val = false) : exec (.refreshIssue sd dc sub) s = .next s :=
  congrArg Host.Outcome.next (State.mod_of_fixed (if_neg (by simp [h])))

theorem refreshIssue_issues (h : (s.side sd).dramLive dc.val = true) : exec (.refreshIssue sd dc sub) s
    = .next (s.mod sd (fun x => x.set (owedFld dc.val sub.val) (x.get (owedFld dc.val sub.val) - 1))) :=
  congrArg Host.Outcome.next (State.mod_congr (if_pos h))

end

/-- R305: one more is owed where the refresh has to wait, and none where it is issued. -/
theorem Side.refreshDue_few_shows {x : Side} {dc : Nat} (sub : Nat) (h : x.get (owedFld dc sub) < 3) (waits : Nat) (inTrans : Bool) :
    (x.refreshDue dc sub waits inTrans).get (owedFld dc sub)
      = (if x.panicWaits waits || inTrans then x.get (owedFld dc sub) + 1 else x.get (owedFld dc sub))
    ∧ ∀ g : Fld, g.idx ≠ 0xA004 + dc → (x.refreshDue dc sub waits inTrans).get g = x.get g := by
  rw [Side.refreshDue_few h]
  split
  · exact ⟨Side.get_set_owed _ _ _ (by omega), fun g hg => Side.get_set_owed_ne _ _ _ hg⟩
  · exact ⟨Side.get_set_owed _ _ _ (by omega), fun g hg => (Side.get_set_owed_ne _ _ _ hg).trans (Side.get_set_owed_ne _ _ _ hg)⟩

/-- R305 to R307: the fourth is issued at once, and breaks what is in progress. -/
theorem Side.refreshDue_deficit_shows {x : Side} {dc : Nat} (sub : Nat) (hdc : dc < 4) (h : x.get (owedFld dc sub) = 3) (waits : Nat) (inTrans : Bool) :
    (x.refreshDue dc sub waits inTrans).get (owedFld dc sub) = 3
    ∧ (x.refreshDue dc sub waits inTrans).get DRAM_REF_DEFICIT.whole = min (x.get DRAM_REF_DEFICIT.whole + 1) (2 ^ 36 - 1)
    ∧ (x.refreshDue dc sub waits inTrans).get DRAM_BURST_BREAK.whole
      = min (x.get DRAM_BURST_BREAK.whole + if inTrans then 1 else 0) (2 ^ 36 - 1) := by
  have hfour : (x.set (owedFld dc sub) 4).get (owedFld dc sub) = 4 := Side.get_set_owed _ _ _ (by decide)
  obtain ⟨howed, hdeficit, hbreak, -⟩ := Side.issueDeficit_shows hdc (Nat.le_of_eq hfour.symm) inTrans
  rw [hfour, Side.get_set_owed_ne _ _ _ (by show 0xA018 ≠ 0xA004 + dc; omega)] at hdeficit
  rw [Side.get_set_owed_ne _ _ _ (by show 0xA019 ≠ 0xA004 + dc; omega)] at hbreak
  rw [Side.refreshDue_deficit h]
  exact ⟨howed, hdeficit, hbreak⟩

/-! ### Doubled mode (R306) -/

/-- A side whose subchannels' refresh states are as `ref` says. -/
def Side.withRef (x : Side) (ref : List RefSub) : Side := { x with dram := { x.dram with ref := ref } }

theorem Side.get_withRef (x : Side) (ref : List RefSub) (f : Fld) : (x.withRef ref).get f = x.get f := Side.get_congr rfl rfl rfl f

/-- A side of which a subchannel has entered or left doubled mode, and its channel shows it. -/
def Side.turned (x : Side) (dc sub : Nat) (want : Bool) : Side :=
  let ref := lset x.dram.ref (2 * dc + sub) { lget x.dram.ref (2 * dc + sub) ⟨false, false⟩ with doubled := want }
  (x.withRef ref).put (DRAM_STAT.REF2X dc) ((lget ref (2 * dc) ⟨false, false⟩).doubled || (lget ref (2 * dc + 1) ⟨false, false⟩).doubled)

section
variable {x : Side} {dc sub : Nat}

theorem Side.regsOf.dram {y : Side} (h : x.regsOf y) : y.dram = x.dram := by
  obtain ⟨r, rfl⟩ := h
  rfl

theorem Side.regsOf.clk {y : Side} (h : x.regsOf y) : y.clk = x.clk := by
  obtain ⟨r, rfl⟩ := h
  rfl

theorem Side.regsOf.trans {y z : Side} (h : x.regsOf y) (h' : y.regsOf z) : x.regsOf z := by
  obtain ⟨_, rfl⟩ := h
  obtain ⟨_, rfl⟩ := h'
  exact ⟨_, rfl⟩

theorem Side.ref_turned (want : Bool) : (x.turned dc sub want).dram.ref
    = lset x.dram.ref (2 * dc + sub) { lget x.dram.ref (2 * dc + sub) ⟨false, false⟩ with doubled := want } := rfl

theorem Side.get_turned_ne (want : Bool) {g : Fld} (hg : g.idx ≠ 0xA004 + dc) : (x.turned dc sub want).get g = x.get g :=
  (Side.get_set_ne _ _ _ _ hg).trans (Side.get_withRef ..)

theorem Side.on_turned_ref2x (hsub : sub < 2) (hk : 2 * dc + sub < x.dram.ref.length) : (x.turned dc sub true).on (DRAM_STAT.REF2X dc) = true := by
  refine (Side.on_set_b2n _ _ _ (by decide : 32 = 32 ∧ 32 < 36)).trans (Bool.or_eq_true_iff.2 ?_)
  obtain rfl | rfl : sub = 0 ∨ sub = 1 := by omega
  · exact .inl (congrArg RefSub.doubled (lget_lset_self _ _ _ _ hk))
  · exact .inr (congrArg RefSub.doubled (lget_lset_self _ _ _ _ hk))

theorem Side.refMode_eq (x : Side) (dc sub : Nat) (inTrans : Bool) :
    let r := lget x.dram.ref (2 * dc + sub) ⟨false, false⟩
    let want := r.hot || x.boardHot
    let p := x.get (owedFld dc sub)
    x.refMode dc sub inTrans = if want == r.doubled then x
      else if want then ((x.turned dc sub want).set (owedFld dc sub) (2 * p)).issueDeficit dc sub inTrans
      else (x.turned dc sub want).set (owedFld dc sub) ((p + 1) / 2) := by
  intro r want p
  have hp : (x.withRef (lset x.dram.ref (2 * dc + sub) { r with doubled := want })).get (owedFld dc sub) = p := Side.get_withRef ..
  unfold Side.refMode
  rw [← hp]
  exact congrArg (ite _ x) rfl

theorem Side.refMode_stays {r : RefSub} (hr : lget x.dram.ref (2 * dc + sub) ⟨false, false⟩ = r) (h : r.doubled = (r.hot || x.boardHot)) (inTrans : Bool) :
    x.refMode dc sub inTrans = x := by
  rw [Side.refMode_eq, hr, h, beq_self_eq_true, if_pos rfl]

theorem Side.refMode_doubles {r : RefSub} (hr : lget x.dram.ref (2 * dc + sub) ⟨false, false⟩ = r) (hd : r.doubled = false)
    (hw : (r.hot || x.boardHot) = true) (inTrans : Bool) : x.refMode dc sub inTrans
      = ((x.turned dc sub true).set (owedFld dc sub) (2 * x.get (owedFld dc sub))).issueDeficit dc sub inTrans := by
  rw [Side.refMode_eq, hr, hd, hw]
  rfl

theorem Side.refMode_halves {r : RefSub} (hr : lget x.dram.ref (2 * dc + sub) ⟨false, false⟩ = r) (hd : r.doubled = true)
    (hw : (r.hot || x.boardHot) = false) (inTrans : Bool) :
    x.refMode dc sub inTrans = (x.turned dc sub false).set (owedFld dc sub) ((x.get (owedFld dc sub) + 1) / 2) := by
  rw [Side.refMode_eq, hr, hd, hw]
  rfl

/-- R306: after its refresh mode has been looked at, a subchannel is doubled as its temperature and the board say. -/
theorem Side.ref_refMode {r : RefSub} (hr : lget x.dram.ref (2 * dc + sub) ⟨false, false⟩ = r) (hk : 2 * dc + sub < x.dram.ref.length) (inTrans : Bool) :
    lget (x.refMode dc sub inTrans).dram.ref (2 * dc + sub) ⟨false, false⟩ = ⟨r.hot, r.hot || x.boardHot⟩ := by
  have hturned : ∀ {y : Side} (want : Bool), (x.turned dc sub want).regsOf y →
      lget y.dram.ref (2 * dc + sub) ⟨false, false⟩ = { r with doubled := want } := by
    intro y want hy
    rw [hy.dram, Side.ref_turned, lget_lset_self _ _ _ _ hk, hr]
  obtain ⟨hot, was⟩ := r
  cases was <;> cases hwant : (hot || x.boardHot)
  · rw [Side.refMode_stays hr hwant.symm, hr]
  · rw [Side.refMode_doubles hr rfl hwant]
    exact hturned true ((Side.regsOf_set (Side.regsOf_refl _) _ _).trans (Side.regsOf_issueDeficit ..))
  · rw [Side.refMode_halves hr rfl hwant]
    exact hturned false (Side.regsOf_set (Side.regsOf_refl _) _ _)
  · rw [Side.refMode_stays hr hwant.symm, hr]

/-- R306, R307: a subchannel that enters doubled mode owes twice as many, and issues the deficit. -/
theorem Side.refMode_doubles_shows {r : RefSub} (hr : lget x.dram.ref (2 * dc + sub) ⟨false, false⟩ = r) (hd : r.doubled = false)
    (hw : (r.hot || x.boardHot) = true) (hdc : dc < 4) (hsub : sub < 2) (hk : 2 * dc + sub < x.dram.ref.length)
    (hp : x.get (owedFld dc sub) ≤ 3) (inTrans : Bool) : let y := x.refMode dc sub inTrans
    y.get (owedFld dc sub) = min (2 * x.get (owedFld dc sub)) 3 ∧ y.on (DRAM_STAT.REF2X dc) = true
    ∧ y.get DRAM_BURST_BREAK.whole
      = min (x.get DRAM_BURST_BREAK.whole + if 2 ≤ x.get (owedFld dc sub) ∧ inTrans = true then 1 else 0) (2 ^ 36 - 1) := by
  intro y
  have hy : y = _ := Side.refMode_doubles hr hd hw inTrans
  have howed : ((x.turned dc sub true).set (owedFld dc sub) (2 * x.get (owedFld dc sub))).get (owedFld dc sub) = 2 * x.get (owedFld dc sub) :=
    Side.get_set_owed _ _ _ (by omega)
  have hbreak : ((x.turned dc sub true).set (owedFld dc sub) (2 * x.get (owedFld dc sub))).get DRAM_BURST_BREAK.whole = x.get DRAM_BURST_BREAK.whole :=
    (Side.get_set_owed_ne _ _ _ (by show 0xA019 ≠ 0xA004 + dc; omega)).trans
      (Side.get_turned_ne _ (by show 0xA019 ≠ 0xA004 + dc; omega))
  have hon : ((x.turned dc sub true).set (owedFld dc sub) (2 * x.get (owedFld dc sub))).on (DRAM_STAT.REF2X dc) = true :=
    (Side.on_set_owed_ref2x ..).trans (Side.on_turned_ref2x hsub hk)
  rw [hy]
  by_cases htwo : 2 ≤ x.get (owedFld dc sub)
  · have hdeficit : 4 ≤ ((x.turned dc sub true).set (owedFld dc sub) (2 * x.get (owedFld dc sub))).get (owedFld dc sub) := by omega
    obtain ⟨ho, -, hb, hr2⟩ := Side.issueDeficit_shows hdc hdeficit inTrans
    rw [hbreak] at hb
    exact ⟨by omega, hr2.trans hon, by simpa [htwo] using hb⟩
  · have hlt : x.get DRAM_BURST_BREAK.whole < 2 ^ 36 := x.get_lt _
    rw [Side.issueDeficit_few (by omega), if_neg (by simp [htwo])]
    exact ⟨by omega, hon, by omega⟩

end

section
variable {s : State} {sd : SideId} {dc : Fin 4} {sub : Fin 2}

/-- A side of which a subchannel's temperature has been read. -/
def Side.warmed (x : Side) (k : Nat) (hot : Bool) : Side := x.withRef (lmod x.dram.ref k (fun q => { q with hot := hot }))

theorem Side.ref_warmed {x : Side} {k : Nat} (hk : k < x.dram.ref.length) (hot : Bool) :
    lget (x.warmed k hot).dram.ref k ⟨false, false⟩ = { lget x.dram.ref k ⟨false, false⟩ with hot := hot } :=
  lget_lmod_self _ _ _ _ hk

theorem mr4Read_rests (h : (s.side sd).dramLive dc.val = false) (r : Mr4) : exec (.mr4Read sd dc sub r) s = .next s :=
  congrArg Host.Outcome.next (State.mod_of_fixed (if_neg (by simp [h])))

theorem mr4Read_follows (h : (s.side sd).dramLive dc.val = true) (hot inTrans : Bool) : exec (.mr4Read sd dc sub ⟨hot, inTrans⟩) s
    = .next (s.mod sd (fun x => (x.warmed (2 * dc.val + sub.val) hot).refMode dc.val sub.val inTrans)) :=
  congrArg Host.Outcome.next (State.mod_congr (if_pos h))

/-! ### Drift (R310) -/

theorem dqsOsc_rests (h : (s.side sd).dramLive dc.val = false) (drifts : List (Fin 20 × Int)) : exec (.dqsOsc sd dc sub drifts) s = .next s :=
  congrArg Host.Outcome.next (State.mod_of_fixed (if_neg (by simp [h])))

theorem dqsOsc_follows (h : (s.side sd).dramLive dc.val = true) (lane : Fin 20) (d : Int) :
    exec (.dqsOsc sd dc sub [(lane, d)]) s = .next (s.mod sd (fun x => x.driftLane dc.val sub.val lane.val d)) :=
  congrArg Host.Outcome.next (State.mod_congr (if_pos h))

end

/-- The delays of a subchannel's twenty lanes: what is not kept is zero. -/
def driftRow (row : List Int) : List Int := row ++ List.replicate (20 - row.length) 0

theorem length_driftRow (row : List Int) : 20 ≤ (driftRow row).length := by
  simp only [driftRow, List.length_append, List.length_replicate]
  omega

theorem lget_driftRow (row : List Int) (i : Nat) : lget (driftRow row) i 0 = lget row i 0 := by
  unfold lget driftRow
  by_cases h : i < row.length
  · rw [List.getElem?_append_left h]
  · rw [List.getElem?_append_right (by omega), List.getElem?_eq_none (by omega : row.length ≤ i), List.getElem?_replicate]
    split <;> rfl

/-- A side one of whose lanes has its delay moved. -/
def Side.drifted (x : Side) (k lane : Nat) (v : Int) : Side :=
  { x with dram := { x.dram with drift := lset x.dram.drift k (lset (driftRow (lget x.dram.drift k [])) lane v) } }

theorem Side.driftLane_eq (x : Side) (dc sub lane : Nat) (d : Int) :
    let v := lget (lget x.dram.drift (2 * dc + sub) []) lane 0 + max (-1) (min 1 d)
    x.driftLane dc sub lane d = if 8 < v ∨ v < -8 then x.report 0 (srcOf 3 (dc + 1) 19) (lane % 32 + 32 * sub + 64 * ux 8 v) false
      else x.drifted (2 * dc + sub) lane v := by
  intro v
  have hv : lget (driftRow (lget x.dram.drift (2 * dc + sub) [])) lane 0 + max (-1) (min 1 d) = v :=
    congrArg (· + _) (lget_driftRow ..)
  have hrun : x.driftLane dc sub lane d = if (decide (v > 8) || decide (v < -8)) = true
      then x.report 0 (srcOf 3 (dc + 1) 19) (lane % 32 + 32 * sub + 64 * ux 8 v) false else x.drifted (2 * dc + sub) lane v := by
    rw [← hv]
    rfl
  rw [hrun]
  simp only [Bool.or_eq_true, decide_eq_true_eq, gt_iff_lt]

theorem Side.dram_of_lanePart {x y : Side} (h : y.lanePart = x.lanePart) : y.dram = x.dram := congrArg (fun p => p.1.dram) h

/-- R310: a delay within eight taps of training is followed. -/
theorem Side.driftLane_follows {x : Side} {dc sub lane : Nat} {d v : Int} (hv : lget (lget x.dram.drift (2 * dc + sub) []) lane 0 + max (-1) (min 1 d) = v)
    (hlo : -8 ≤ v) (hhi : v ≤ 8) (hk : 2 * dc + sub < x.dram.drift.length) (hl : lane < 20) :
    lget (lget (x.driftLane dc sub lane d).dram.drift (2 * dc + sub) []) lane 0 = v ∧ (x.driftLane dc sub lane d).regs = x.regs := by
  rw [Side.driftLane_eq, hv, if_neg (by omega)]
  refine ⟨?_, rfl⟩
  show lget (lget (lset x.dram.drift _ _) _ _) lane 0 = v
  rw [lget_lset_self _ _ _ _ hk, lget_lset_self _ _ _ _ (Nat.lt_of_lt_of_le hl (length_driftRow _))]

/-- R310: beyond eight taps the delay stays, and the drift is reported. -/
theorem Side.driftLane_stays {x : Side} {dc sub lane : Nat} {d v : Int} (hv : lget (lget x.dram.drift (2 * dc + sub) []) lane 0 + max (-1) (min 1 d) = v)
    (hout : v < -8 ∨ 8 < v) : (x.driftLane dc sub lane d).dram = x.dram := by
  rw [Side.driftLane_eq, hv, if_pos hout.symm]
  exact Side.dram_of_lanePart (Side.lanePart_report ..)

/-! ### The end of a rate switch (R312) -/

theorem Side.fenceMem_none {x : Side} (h : ∀ c ∈ x.host.staged, memWaits ∉ c.awaits) : x.fenceMem = x := by
  refine if_neg ?_
  simpa [List.any_eq_true] using h

/-- R311: no block waits whole and no FENCE for one, so the channel's SR falls and no more. -/
theorem Side.leaveSr_alone {x : Side} (hbuf : ∀ e ∈ x.dram.mem.buf, e.words.length ≠ 16) (hst : ∀ c ∈ x.host.staged, memWaits ∉ c.awaits) (c : Nat) :
    x.leaveSr c = x.set (DRAM_STAT.SR c) 0 := by
  have hflush : (x.set (DRAM_STAT.SR c) 0).flushEnts .dram (fun e => e.words.length == 16) = x.set (DRAM_STAT.SR c) 0 :=
    Side.flushEnts_none fun e he => beq_false_of_ne (hbuf e he)
  unfold Side.leaveSr
  rw [Side.drop_eq, hflush]
  exact Side.fenceMem_none hst

/-- R312: what the end of a rate switch makes of a channel that SR_REQ does not keep in self-refresh. -/
def Side.srReleased (x : Side) (c : Nat) : Side := if bitAt (x.get DRAM_LP_CTRL.SR_REQ) c then x else x.set (DRAM_STAT.SR c) 0

theorem Side.reg_srReleased (x : Side) {c i : Nat} (h : i ≠ 0xA004 + c) : (x.srReleased c).reg i = x.reg i := by
  unfold Side.srReleased
  split
  · rfl
  · exact Side.reg_set_ne _ _ _ _ h

theorem Side.regsOf_srReleased {x y : Side} (h : x.regsOf y) (c : Nat) : x.regsOf (y.srReleased c) := by
  unfold Side.srReleased
  split
  · exact h
  · exact Side.regsOf_set h _ _

theorem Side.on_srReleased (x : Side) (c : Nat) :
    (x.srReleased c).on (DRAM_STAT.SR c) = (bitAt (x.get DRAM_LP_CTRL.SR_REQ) c && x.on (DRAM_STAT.SR c)) := by
  unfold Side.srReleased
  cases bitAt (x.get DRAM_LP_CTRL.SR_REQ) c
  · exact Side.on_set_zero _ _ (by decide : 33 ≤ 33 ∧ 33 < 36)
  · rfl

/-- The side once the channels have been released one after the other. -/
def Side.released (x : Side) : Side := (List.range 4).foldl Side.srReleased x

theorem Side.regsOf_released (x : Side) : x.regsOf x.released :=
  foldl_keeps (fun y => x.regsOf y) _ (fun _ c h => Side.regsOf_srReleased h c) _ _ x.regsOf_refl

theorem Side.reg_released (x : Side) {i : Nat} (h : ∀ c < 4, i ≠ 0xA004 + c) : x.released.reg i = x.reg i :=
  Side.reg_foldl_range (fun y c hc => y.reg_srReleased (h c hc)) x

theorem Side.on_released (x : Side) {c : Nat} (hc : c < 4) :
    x.released.on (DRAM_STAT.SR c) = (bitAt (x.get DRAM_LP_CTRL.SR_REQ) c && x.on (DRAM_STAT.SR c)) := by
  have hat : x.released.reg (0xA004 + c) = (((List.range c).foldl Side.srReleased x).srReleased c).reg (0xA004 + c) :=
    Side.reg_foldl_range_at (fun y d hd => y.reg_srReleased (by omega)) x hc
  have hbefore : ((List.range c).foldl Side.srReleased x).reg (0xA004 + c) = x.reg (0xA004 + c) :=
    Side.reg_foldl_range (fun y d hd => y.reg_srReleased (by omega)) x
  have hreq : ((List.range c).foldl Side.srReleased x).reg 0xA002 = x.reg 0xA002 :=
    Side.reg_foldl_range (fun y d hd => y.reg_srReleased (by omega)) x
  rw [Side.on_of_reg (f := DRAM_STAT.SR c) hat, Side.on_srReleased, Side.on_of_reg (f := DRAM_STAT.SR c) hbefore,
    Side.get_of_reg (f := DRAM_LP_CTRL.SR_REQ) hreq]

/-- With no block that waits whole and no FENCE, the channels that leave self-refresh only lose their SR. -/
theorem Side.leaveSrs_released {x : Side} (hbuf : ∀ e ∈ x.dram.mem.buf, e.words.length ≠ 16) (hst : ∀ c ∈ x.host.staged, memWaits ∉ c.awaits) (l : List Nat) :
    l.foldl (fun x c => if bitAt (x.get DRAM_LP_CTRL.SR_REQ) c then x else x.leaveSr c) x = l.foldl Side.srReleased x := by
  suffices h : ∀ y, x.regsOf y → l.foldl (fun x c => if bitAt (x.get DRAM_LP_CTRL.SR_REQ) c then x else x.leaveSr c) y = l.foldl Side.srReleased y from
    h x x.regsOf_refl
  induction l with
  | nil => exact fun _ _ => rfl
  | cons c l ih =>
    intro y hy
    have hstep : (if bitAt (y.get DRAM_LP_CTRL.SR_REQ) c then y else y.leaveSr c) = y.srReleased c := by
      obtain ⟨_, hr⟩ := id hy
      rw [Side.leaveSr_alone (by rw [hr]; exact hbuf) (by rw [hr]; exact hst)]
      rfl
    rw [List.foldl_cons, List.foldl_cons, hstep]
    exact ih _ (Side.regsOf_srReleased hy c)

/-- A side whose rate switch is over, with PLL-M's windows as they were locked. -/
def Side.switched (x : Side) : Side :=
  { x with
    dram := { x.dram with fcBusy := false }
    clk := { x.clk with m := [x.get PLL_LOCK_CFG.WIN_M, x.get PLL_LOCK_CFG.NC_M], mLost := false, mCoast := false } }

/-- A side back in service at its other rate. -/
def Side.relocked (x : Side) : Side :=
  let y := x.switched.set PLL_STAT.M_LOCK 1
  (y.put DRAM_CFG.ALT_SEL (!y.on DRAM_CFG.ALT_SEL)).setAcqLimit

theorem Side.reg_relocked (x : Side) {i : Nat} (h : i ≠ 0x6004 ∧ i ≠ 0xA000 ∧ i ≠ 0x9024) : x.relocked.reg i = x.reg i := by
  unfold Side.relocked Side.setAcqLimit
  exact (Side.reg_set_ne _ _ _ _ h.2.2).trans ((Side.reg_set_ne _ _ _ _ h.2.1).trans ((Side.reg_set_ne _ _ _ _ h.1).trans rfl))

theorem Side.relocked_shows (x : Side) : x.relocked.on PLL_STAT.M_LOCK = true ∧ x.relocked.on DRAM_CFG.ALT_SEL = !x.on DRAM_CFG.ALT_SEL := by
  have halt : (x.switched.set PLL_STAT.M_LOCK 1).on DRAM_CFG.ALT_SEL = x.on DRAM_CFG.ALT_SEL :=
    Side.on_of_reg (Side.reg_set_ne _ _ _ _ (by decide))
  rw [← halt]
  unfold Side.relocked Side.setAcqLimit
  exact ⟨(Side.on_of_reg ((Side.reg_set_ne _ _ _ _ (by decide)).trans (Side.reg_set_ne _ _ _ _ (by decide)))).trans (Side.on_set_one _ _ (by decide)),
    (Side.on_of_reg (Side.reg_set_ne _ _ _ _ (by decide))).trans (Side.on_set_b2n _ _ _ (by decide))⟩

theorem Side.relocked_regsOf (x : Side) : x.switched.regsOf x.relocked :=
  Side.regsOf_set (Side.regsOf_set (Side.regsOf_set (Side.regsOf_refl _) _ _) _ _) _ _

section
variable {s : State} {sd : SideId}

theorem fcDone_idle (h : (s.side sd).dram.fcBusy = false) : exec (.fcDone sd) s = .next s :=
  congrArg Host.Outcome.next (State.mod_of_fixed (if_pos (by simp [h])))

theorem fcDone_ends (h : (s.side sd).dram.fcBusy = true) (hbuf : ∀ e ∈ (s.side sd).dram.mem.buf, e.words.length ≠ 16)
    (hst : ∀ c ∈ (s.side sd).host.staged, memWaits ∉ c.awaits) :
    exec (.fcDone sd) s = .next (s.setSide sd ((s.side sd).relocked.released.set DRAM_LP_CTRL.FC_DONE 1)) := by
  have hfold : (List.range 4).foldl (fun x c => if bitAt (x.get DRAM_LP_CTRL.SR_REQ) c then x else x.leaveSr c) (s.side sd).relocked
      = (s.side sd).relocked.released := by
    obtain ⟨_, hr⟩ := (s.side sd).relocked_regsOf
    exact Side.leaveSrs_released (by rw [hr]; exact hbuf) (by rw [hr]; exact hst) _
  refine congrArg (fun y => Host.Outcome.next (s.setSide sd y)) ((if_neg (by simp [h])).trans ?_)
  exact congrArg (fun y : Side => y.set DRAM_LP_CTRL.FC_DONE 1) hfold

end

/-- R312: PLL-M is locked, the other rate is in use, and the channels are in self-refresh where SR_REQ keeps them there. -/
theorem Side.switchEnds_shows (x : Side) {c : Nat} (hc : c < 4) : let y := x.relocked.released.set DRAM_LP_CTRL.FC_DONE 1
    y.dram = { x.dram with fcBusy := false } ∧ y.on PLL_STAT.M_LOCK = true ∧ y.on DRAM_CFG.ALT_SEL = !x.on DRAM_CFG.ALT_SEL
    ∧ y.on DRAM_LP_CTRL.FC_DONE = true ∧ y.on (DRAM_STAT.SR c) = (bitAt (x.get DRAM_LP_CTRL.SR_REQ) c && x.on (DRAM_STAT.SR c))
    ∧ y.clk.m = [x.get PLL_LOCK_CFG.WIN_M, x.get PLL_LOCK_CFG.NC_M] ∧ y.clk.mLost = false := by
  intro y
  have hy : x.switched.regsOf y := x.relocked_regsOf.trans (Side.regsOf_set x.relocked.regsOf_released _ _)
  have hreg : ∀ f : Fld, f.idx ≠ 0xA002 → (∀ c < 4, f.idx ≠ 0xA004 + c) → y.on f = x.relocked.on f := fun f hf hs =>
    Side.on_of_reg ((Side.reg_set_ne _ _ _ _ hf).trans (x.relocked.reg_released hs))
  have hsr : y.on (DRAM_STAT.SR c) = x.relocked.released.on (DRAM_STAT.SR c) :=
    Side.on_of_reg (Side.reg_set_ne _ _ _ _ (show 0xA004 + c ≠ 0xA002 by omega))
  have hreq : x.relocked.get DRAM_LP_CTRL.SR_REQ = x.get DRAM_LP_CTRL.SR_REQ := Side.get_of_reg (x.reg_relocked (by decide))
  have hsame : x.relocked.on (DRAM_STAT.SR c) = x.on (DRAM_STAT.SR c) :=
    Side.on_of_reg (x.reg_relocked (show 0xA004 + c ≠ 0x6004 ∧ 0xA004 + c ≠ 0xA000 ∧ 0xA004 + c ≠ 0x9024 by omega))
  obtain ⟨hlock, halt⟩ := x.relocked_shows
  exact ⟨hy.dram, (hreg _ (by decide) (by decide)).trans hlock, (hreg _ (by decide) (by decide)).trans halt, Side.on_set_one _ _ (by decide),
    by rw [hsr, Side.on_released _ hc, hreq, hsame], by rw [hy.clk]; rfl, by rw [hy.clk]; rfl⟩

/-- Settles O48: the buffers by their one waiting word, refresh by how many are owed, drift by whether it stays within eight taps, and the rate
switch by what each channel's turn leaves of the others. -/
theorem memoryUpkeep : Obligations.MemoryUpkeep := by
  unfold Obligations.MemoryUpkeep
  intro s sd dc sub hot inTrans cox levels waits blk i w port src lane d x mk sm filled panic owed p live k r
  have howed : owed = owedFld dc.val sub.val := (owedFld_eq ..).symm
  have hlive : live ↔ x.dramLive dc.val = true := (x.dramLive_iff dc.val).symm
  have hoff : ¬live → x.dramLive dc.val = false := fun h => Bool.eq_false_of_not_eq_true (mt hlive.2 h)
  have hpanic : (filled x).panicWaits waits.toNat = true ↔ panic := Side.panicWaits_iff _ _
  have hk : k < 8 := by omega
  have hfill : ∀ f : Fld, (filled x).get f = x.get f := x.get_filled levels
  have hne : ∀ n : Nat, 0xA008 ≤ n → n ≠ 0xA004 + dc.val := by omega
  refine ⟨fun h => mergeTimeout_idle h, fun h => gatherTimeout_idle h, fun hbuf hi hf hp hm hw => ?_, fun hbuf hsr hi hf hp hm hw => ?_,
    fun q hlen n => Side.portLevel_panic x (Nat.lt_of_lt_of_eq q.isLt hlen.symm) n,
    fun h => ⟨refreshDue_rests (hoff h) _ _ _, refreshIssue_rests (hoff h), mr4Read_rests (hoff h) _, dqsOsc_rests (hoff h) _⟩,
    fun h hp => ?_, fun h hp => ?_, fun h => ?_, fun h hlen hp => ?_, fun h hlen => ⟨fun hlo hhi => ?_, fun hout => ?_⟩,
    fun h => fcDone_idle h, fun h hbuf hst => ?_⟩
  case refine_1 =>
    refine ⟨_, mergeTimeout_merges rfl hbuf hf hp hm, ?_⟩
    dsimp only
    rw [State.side_setSide]
    obtain ⟨hgone, hword, hrest⟩ := BpcMem.merged_shows hw blk w hi
    cases cox <;> exact ⟨hgone, hword, hrest, rfl, rfl, rfl⟩
  case refine_2 =>
    refine ⟨_, gatherTimeout_merges hbuf hsr hf hp hm, ?_⟩
    dsimp only
    rw [State.side_setSide]
    obtain ⟨hgone, hword, hrest⟩ := BpcMem.merged_shows hw blk w hi
    exact ⟨hgone, hword, hrest, rfl, rfl⟩
  case refine_3 =>
    refine ⟨_, refreshDue_falls (hlive.1 h) _ _ _, ?_⟩
    dsimp only
    rw [State.side_mod, howed]
    have hfew : (filled x).get (owedFld dc.val sub.val) = p := (hfill _).trans (congrArg x.get howed.symm)
    obtain ⟨hshow, hrest⟩ := Side.refreshDue_few_shows sub.val (hfew ▸ hp : (filled x).get (owedFld dc.val sub.val) < 3) waits.toNat inTrans
    rw [hfew] at hshow
    refine ⟨fun hwait => hshow.trans (if_pos ?_), fun hcalm hidle => hshow.trans (if_neg ?_), (hrest _ (hne _ (by decide))).trans (hfill _),
      (hrest _ (hne _ (by decide))).trans (hfill _)⟩
    · exact Bool.or_eq_true_iff.2 (hwait.imp_left hpanic.2)
    · rw [hidle, Bool.or_false]
      exact mt hpanic.1 hcalm
  case refine_4 =>
    refine ⟨_, refreshDue_falls (hlive.1 h) _ _ _, ?_⟩
    dsimp only
    rw [State.side_mod, howed]
    have hthree : (filled x).get (owedFld dc.val sub.val) = 3 := (hfill _).trans ((congrArg x.get howed.symm).trans hp)
    have hshow := Side.refreshDue_deficit_shows sub.val dc.isLt hthree waits.toNat inTrans
    rwa [hfill, hfill] at hshow
  case refine_5 =>
    refine ⟨_, refreshIssue_issues (hlive.1 h), ?_⟩
    dsimp only
    rw [State.side_mod, howed]
    exact (Side.get_set_owed _ _ _ (Nat.lt_of_le_of_lt (Nat.sub_le _ 1) (x.get_owed_lt _ _))).trans (congrArg (x.get · - 1) howed.symm)
  case refine_6 =>
    refine ⟨_, mr4Read_follows (hlive.1 h) _ _, ?_⟩
    dsimp only
    rw [State.side_mod, howed]
    have hget : ∀ f : Fld, (x.warmed k hot).get f = x.get f := Side.get_withRef _ _
    have hpw : (x.warmed k hot).get (owedFld dc.val sub.val) = p := (hget _).trans (congrArg x.get howed.symm)
    have href : lget (x.warmed k hot).dram.ref k ⟨false, false⟩ = { r with hot := hot } := Side.ref_warmed (hlen ▸ hk) hot
    have hlen' : k < (x.warmed k hot).dram.ref.length := (lmod_length ..).trans hlen ▸ hk
    refine ⟨Side.ref_refMode href hlen' inTrans, fun hd hw => ?_, fun hd hw => ?_, fun hsame => ?_⟩
    · have hshow := Side.refMode_doubles_shows href hd hw dc.isLt sub.isLt hlen' (hpw ▸ hp) inTrans
      rwa [hpw, hget] at hshow
    · rw [Side.refMode_halves href hd hw, hpw]
      exact Side.get_set_owed _ _ _ (by omega)
    · rw [Side.refMode_stays href hsame]
      rfl
  case refine_7 =>
    refine ⟨_, dqsOsc_follows (hlive.1 h) _ _, ?_⟩
    dsimp only
    rw [State.side_mod]
    exact Side.driftLane_follows rfl hlo hhi (hlen ▸ hk) lane.isLt
  case refine_8 =>
    refine ⟨_, dqsOsc_follows (hlive.1 h) _ _, ?_⟩
    dsimp only
    rw [State.side_mod]
    exact Side.driftLane_stays rfl hout
  case refine_9 =>
    refine ⟨_, fcDone_ends h hbuf hst, ?_⟩
    dsimp only
    rw [State.side_setSide]
    exact Side.switchEnds_shows x dc.isLt

end Sys2Proof.Machine
end
